-- ==== Sys2Proof/Word.lean ====
section
/-! DEFINITION. The word types of the ML2560: a 32-bit register word (R20), a byte, a halfword. -/

namespace Sys2Proof

/-- A register word: every register is 32 bits wide (R20). -/
abbrev Word := BitVec 32

/-- One byte of an addressed memory. -/
abbrev Byte := BitVec 8

/-- A 16-bit quantity: a gain code (R154), a sequence number (R397). -/
abbrev Half := BitVec 16

end Sys2Proof
end

