-- ==== Sys2Proof/Syntax.lean ====
section
/-! DEFINITION. The commands the ML2560 block takes: one constructor of `Instr` per row of spec/opcode_table.json,
and the operand types. What only the outside world knows (a measured voltage, the content of a received frame,
the verdict of a signature check) is an operand; everything the part holds itself is in State. -/

namespace Sys2Proof

/-- The Clearinghouse masters of Table 11.1, in index order. -/
inductive Master where
  | stw | rmt | tc0 | tc1 | tc2 | tc3 | net | exc | hsp | pst
  deriving DecidableEq, Repr

/-- The lock marking of a transaction (R599, R600): not locked, locked, or the last of its locked sequence. -/
inductive LockMark where
  | none | locked | last
  deriving DecidableEq, Repr

/-- The predicate field of a Teller operation (R224). -/
structure Pred where
  pe : Bool
  pn : Bool
  ps : Nat
  deriving DecidableEq, Repr

/-- Operand format CR3 (Table 4.6). -/
structure FmtCR3 where
  d : Nat
  a : Nat
  b : Nat
  s : Nat
  deriving DecidableEq, Repr

/-- Operand format CI. -/
structure FmtCI where
  d : Nat
  a : Nat
  imm : Int
  deriving DecidableEq, Repr

/-- Operand format CM; `z` holds the bits marked 0. -/
structure FmtCM where
  acc : Nat
  a : Nat
  b : Nat
  z : Nat
  deriving DecidableEq, Repr

/-- Operand format CN; `sh` is the unsigned 6-bit field, `z` the bits marked 0. -/
structure FmtCN where
  d : Nat
  acc : Nat
  sh : Nat
  z : Nat
  deriving DecidableEq, Repr

/-- Operand format CS; `mn` is 0 for maximum and 1 for minimum. -/
structure FmtCS where
  d : Nat
  a : Nat
  z : Nat
  mn : Nat
  deriving DecidableEq, Repr

/-- Operand format MA. -/
structure FmtMA where
  r : Nat
  i : Nat
  mode : Nat
  imm : Int
  deriving DecidableEq, Repr

/-- Operand format MR. -/
structure FmtMR where
  sh : Nat
  acc : Nat
  i : Nat
  mode : Nat
  imm : Int
  deriving DecidableEq, Repr

/-- Operand format MV (register codes of R227). -/
structure FmtMV where
  dst : Nat
  src : Nat
  z : Nat
  deriving DecidableEq, Repr

/-- Operand format MC. -/
structure FmtMC where
  dir : Nat
  ctl : Nat
  d : Nat
  z : Nat
  deriving DecidableEq, Repr

/-- Operand format of LDF and STF (R256): data register `r`, address register `a`, and IMM, which must be 0. -/
structure FmtLF where
  r : Nat
  a : Nat
  imm : Nat
  deriving DecidableEq, Repr

/-- Operand format LD2I; immediates are signed, in words. -/
structure FmtLD2I where
  ga : Nat
  ia : Nat
  imma : Int
  gb : Nat
  ib : Nat
  immb : Int
  z : Nat
  deriving DecidableEq, Repr

/-- The fields of LOOP (R262). -/
structure FmtLoop where
  k : Nat
  src : Nat
  cnt : Nat
  skip : Nat
  stop : Nat
  deriving DecidableEq, Repr

/-- A Keyway message as the receiver sees it (Table 7.2), and whether a framing or code-group error was seen. -/
structure KwyMsg where
  codeErr : Bool
  typ : Nat
  seq : Nat
  len : Nat
  payload : List Byte
  crc : Word
  deriving DecidableEq, Repr

/-- An Ethernet frame at a port: its length from destination address to FCS, the verdict on its FCS and code groups,
addresses, an optional VLAN tag, its EtherType, and the bytes between EtherType and FCS. -/
structure Frame where
  len : Nat
  fcsOk : Bool
  codeErr : Bool
  dst : Nat
  src : Nat
  vlan : Option Nat
  etype : Nat
  payload : List Byte
  deriving DecidableEq, Repr

/-- A management message (Table 13.12) with the verdict of its HMAC. -/
structure MgmtMsg where
  mtype : Nat
  seq : Nat
  tsec : Nat
  body : List Byte
  tagOk : Bool
  deriving DecidableEq, Repr

/-- What a runtime control message asks for, once authentic (Table 13.13, class Control): one register write, or the shut
down of the node in its district (R567). -/
inductive CtrlAct where
  | write (addr : Nat) (value : Word)
  | shutDown
  deriving DecidableEq, Repr

/-- A group that the sink chain processes, and the Vault-D words with a correctable and with an uncorrectable error that its
reads meet (R98, R322). -/
structure ChainReads where
  group : Nat
  corrected : List Nat
  bad : List Nat
  deriving DecidableEq, Repr

/-- What the header of an image slot holds (Table 13.3), with the verdicts of the cryptographic checks. -/
structure ImgHeader where
  formatOk : Bool
  variantMask : Nat
  keyHashOk : Bool
  sigOk : Bool
  svn : Nat
  arbAdv : Bool
  imgVer : Word
  nsect : Nat
  total : Nat
  deriving DecidableEq, Repr

/-- A port cell of a task (R204): its number, the source or sink it carries, and whether its group of 8 is interleaved. -/
structure CellDecl where
  cell : Nat
  chan : Nat
  inter : Bool
  deriving DecidableEq, Repr

/-- A context as the TELLER section declares it: logical Teller, context, entry point, declared cycles, CR, journal
region in bank 0, source or sink task, its place in the order of the image, its input and output cells, and whether it
is enabled from the start (an alternate context is not). -/
structure CtxDecl where
  t : Nat
  ctx : Nat
  entry : Nat
  cycles : Nat
  cr : Word
  base : Nat
  size : Nat
  isSrc : Bool
  order : Nat
  ins : List CellDecl
  outs : List CellDecl
  enabled : Bool
  deriving DecidableEq, Repr

/-- No context. -/
def CtxDecl.none : CtxDecl := ⟨0, 0, 0, 0, 0, 0, 0, false, 0, [], [], false⟩

/-- The PTP options of the TIME section (Table 9.2): the domain numbers, the ports that use UDP/IPv4 and those that
measure delay peer-to-peer (bit p), the binary logarithms of the Sync intervals, the Announce receipt timeout in
intervals, the clockClass for each state of the RSC, and the servo bandwidth in mHz. -/
structure PtpOpts where
  da : Nat
  db : Nat
  dc : Nat
  udp : Nat
  peer : Nat
  syncLog : List Int
  timeout : Nat
  classes : List Nat
  servo : Nat
  deriving DecidableEq, Repr

def PtpOpts.reset : PtpOpts := ⟨0, 0, 0, 0, 0, [], 3, [], 0⟩

/-- The TIME section (KEY 0x0010): STANDALONE, STEPTH in ns, the view for TIM_CTRL.ACTIVE, and the PTP options. -/
structure TimeOpts where
  standalone : Bool
  stepth : Nat
  active : Nat
  ptp : PtpOpts
  deriving DecidableEq, Repr

/-- A configuration record (Table 13.6). The parameters 0x0010 and 0x0080, whose bytes the spec does not lay out, come
as what they declare. -/
inductive Rec where
  | stop
  | reg (addr : Nat) (value : Word)
  | mem (addr : Nat) (bytes : List Byte)
  | param (key : Nat) (bytes : List Byte)
  | time (o : TimeOpts)
  | contexts (cs : List CtxDecl)
  | other (rt : Nat)
  deriving DecidableEq, Repr

/-- One image section as read (Table 13.4), with the verdicts of CRC, DIGEST and GCM tag. -/
structure ImgSection where
  typ : Nat
  enc : Bool
  crcOk : Bool
  digestOk : Bool
  tagOk : Bool
  recs : List Rec
  deriving DecidableEq, Repr

/-- A PTP message's outcome as the runtime computes it: offset from master in 2^-16 ns, and the correction it makes. -/
structure PtpSync where
  offset : Int
  isSync : Bool
  pstate : Nat
  clockClass : Nat
  rate : Nat
  slew : Int
  deriving DecidableEq, Repr

/-- One 1 s measurement of one RSC candidate (R523): its deviation in 10^-12, measured in the window. -/
structure RscMeas where
  dev : Int
  los : Bool
  deriving DecidableEq, Repr

/-- The HINGE control frame (Table 10.2) with its port and receive timestamp in eighths of a tick. -/
structure HingeMsg where
  node : Nat
  st : Nat
  fieldOk : Bool
  synced : Bool
  release : Bool
  decider : Bool
  imgId : Word
  owned : Word
  csum : Word
  txPrev : Nat
  rxLast : Nat
  deriving DecidableEq, Repr

/-- A transmit-stream record of the directory (Table 10.2, STREAMS). -/
structure StreamRec where
  index : Nat
  nch : Nat
  fmt : Nat
  encap : Nat
  da : Nat
  deriving DecidableEq, Repr

/-- A record of a REPLY (Table 10.2): 4 + 2 + 1 + 1 + 6 + 1 bytes. -/
structure ReplyRec where
  id : Nat
  nch : Nat
  fmt : Nat
  found : Bool
  da : Nat
  encap : Nat
  deriving DecidableEq, Repr

/-- An uncorrectable 64-bit word that the scrub finds: its Clearinghouse address and what the part holds in it, where the
spec gives no layout: the context of an instruction, data or journal word (Teller, context), or the network copy of a
subscription (subscription, folio, port). -/
structure BadWord where
  addr : Nat
  ctx : Option (Nat × Nat)
  copy : Option (Nat × (Nat × Nat))
  deriving DecidableEq, Repr

/-- The commands: one constructor per row of the opcode table. Rows with operands stand first: Lean's runtime builds
at most 244 kinds of object with fields (its kernel has no such limit). -/
inductive Instr where
  -- register accesses
  | registerWrite (m : Master) (addr : Nat) (v : Word)
  | rcRead (addr : Nat)
  -- Clearinghouse
  | clhTransaction (m : Master) (id : Nat) (wr : Bool) (addr : Nat) (size : Nat) (beats : Nat)
      (data : List Byte) (strobes : List Bool) (lock : LockMark)
  | burstGrant (target : Nat)
  | transactionRetire (m : Master) (id : Nat)
  | lockTimeout (target : Nat)
  | masterResetComplete (m : Master)
  -- boot and security
  | bistEnd (fail : Nat)
  | xspCommandDone (ok : Bool)
  -- host SPI
  | hspiWrite (addr : Nat) (ws : List Word) (full : Option Nat)
  | hspiRead (addr : Nat) (n : Nat)
  -- power, reset, supervision
  | hostResetRequest (v : Word)
  | stwResetRequest (v : Word)
  | watchdogKick (v : Word)
  | pwrCtrlWrite (v : Word)
  | domainSwitchComplete (d : Nat)
  -- Keyway link and messages
  | trainingComplete (host : Bool) (ld : Nat)
  | keywayLinkDown (host : Bool) (errs : Bool)
  | block (m : KwyMsg)
  | envelope (m : KwyMsg)
  | cmd (m : KwyMsg)
  | cmdack (m : KwyMsg)
  | status (m : KwyMsg)
  | sense (m : KwyMsg)
  | fault (m : KwyMsg)
  | fbusToField (m : KwyMsg)
  | fbusToHost (m : KwyMsg)
  | hostHeartbeat (m : KwyMsg)
  | fieldHeartbeat (m : KwyMsg)
  | proxyAccess (m : Master) (wr : Bool) (addr : Nat) (v : Word)
  | force (v : Word)
  | exit (v : Word)
  -- fire inputs, Strongbox, override
  | finMeasurement (ohms : List (Option Nat))
  | foutClr (v : Word)
  | rel (v : Word)
  | reload (v : Word)
  | playerGo (p : Nat) (v : Word)
  | playerStop (p : Nat) (v : Word)
  | overrideRepeat (c : Nat)
  -- channel commands and sequences
  | start (c : Nat)
  | stop (c : Nat)
  | clear (c : Nat)
  | startSequence (c : Nat)
  | enableTimeElapsed (c : Nat)
  | hold50Complete (c : Nat)
  | rampInComplete (c : Nat)
  | stopRampOutComplete (c : Nat)
  | stopHold50Complete (c : Nat)
  | stopEnableTimeElapsed (c : Nat)
  | carrierPeriod (c : Nat)
  | boostPeriod (p : Nat) (rail : Nat) (bus : Nat)
  | hswWrite (v : Word)
  | takeoverStart (v : Word)
  | hswtElapsed (c : Nat)
  | avoidanceRun (v : Word)
  | carrierModeWrite (v : Word)
  -- protection
  | ilimCrossing (c : Nat) (mv : Nat) (ticks : Nat)
  | iscCrossing (c : Nat) (mv : Nat)
  | fltAssert (c : Nat)
  | lineOverVoltage (c : Nat) (mv : Nat)
  | retry (c : Nat)
  | probeComplete (c : Nat)
  | dcOffset (c : Nat) (mv : Int)
  | ntcWarning (k : Nat) (mv : Nat)
  | ntcTrip (k : Nat) (mv : Nat)
  | thermalRestore (k : Nat) (mv : Nat)
  | boostOverCurrent (p : Nat) (mv : Nat)
  | boostOcPersist (p : Nat)
  | boostRetry (p : Nat)
  | boostOverVoltage (p : Nat) (rail : Nat)
  | railOverVoltage (p : Nat) (rail : Nat)
  | impedanceEstimate (c : Nat) (vs : List Int) (is : List Int)
  | pilotStart (c : Nat)
  | earthLeakage (mv : Nat)
  -- field bus F0
  | f0FrameReceived (f : Frame)
  | f0Transmit (deferred : Bool)
  | f0Collision (late : Bool) (deferred : Bool)
  -- network ports
  | macCfgWrite (p : Nat) (v : Word)
  | portLinkUp (p : Nat)
  | portLinkDown (p : Nat) (lfault : Bool) (rfault : Bool)
  | frameReceived (p : Nat) (f : Frame) (eighth : Nat)
  | frameOffered (p : Nat) (q : Nat) (f : Frame)
  | portTransmit (p : Nat) (eighth : Nat)
  | subscriptionEnable (sub : Nat) (v : Word)
  | transmitStreamEnable (str : Nat) (v : Word)
  | aes67StreamEnable (tx : Bool) (str : Nat) (v : Word)
  | streamLoss (sub : Nat)
  -- time
  | rateCommit (view : Nat) (v : Word)
  | rateTakesEffect (view : Nat)
  | set (view : Nat)
  | step (view : Nat)
  | slew (view : Nat)
  | cancel (view : Nat)
  | slewDone (view : Nat)
  | activeWrite (v : Word)
  | jclr (v : Word)
  | snap (v : Word)
  | align (v : Word)
  | pulseEnable (v : Word)
  | ptpMessage (inst : Nat) (m : PtpSync)
  | rscMeasurement (ms : List RscMeas)
  | buildoutComplete (ofs resid : Int)
  | rscOpen (v : Word)
  | rscClose (v : Word) (phase : Int)
  | ncoWrite (v : Word)
  | rscFreerun (v : Word)
  -- folio cadence and posting
  | groupMixEnd (parity : List Nat)
  | sinkChainGroup (g : ChainReads)
  | pstEnWrite (v : Word)
  | pstCutWrite (v : Word)
  | pstWinWrite (v : Word)
  -- Teller runs
  | firstRunStart (t : Nat) (ctx : Nat)
  | rerunStart (t : Nat) (ctx : Nat)
  | taskOverrun (t : Nat)
  | windowWatchdog (t : Nat)
  | tellerReset (t : Nat)
  | ldfResponse (t : Nat)
  | ldfTimeout (t : Nat)
  | stfError (addr : Nat)
  | contextEnable (v : Word)
  | contextDisable (v : Word)
  | swapGo (v : Word)
  -- Teller operations: compute slot
  | nop (t : Nat) (moveSlot : Bool) (w : Nat)
  | add (t : Nat) (p : Pred) (o : FmtCR3)
  | adds (t : Nat) (p : Pred) (o : FmtCR3)
  | sub (t : Nat) (p : Pred) (o : FmtCR3)
  | subs (t : Nat) (p : Pred) (o : FmtCR3)
  | neg (t : Nat) (p : Pred) (o : FmtCR3)
  | negs (t : Nat) (p : Pred) (o : FmtCR3)
  | abs (t : Nat) (p : Pred) (o : FmtCR3)
  | abss (t : Nat) (p : Pred) (o : FmtCR3)
  | min (t : Nat) (p : Pred) (o : FmtCR3)
  | max (t : Nat) (p : Pred) (o : FmtCR3)
  | and (t : Nat) (p : Pred) (o : FmtCR3)
  | or (t : Nat) (p : Pred) (o : FmtCR3)
  | xor (t : Nat) (p : Pred) (o : FmtCR3)
  | shl (t : Nat) (p : Pred) (o : FmtCR3)
  | shls (t : Nat) (p : Pred) (o : FmtCR3)
  | asr (t : Nat) (p : Pred) (o : FmtCR3)
  | asrr (t : Nat) (p : Pred) (o : FmtCR3)
  | lsr (t : Nat) (p : Pred) (o : FmtCR3)
  | addi (t : Nat) (p : Pred) (o : FmtCI)
  | addis (t : Nat) (p : Pred) (o : FmtCI)
  | cmpeq (t : Nat) (p : Pred) (o : FmtCR3)
  | cmplt (t : Nat) (p : Pred) (o : FmtCR3)
  | cmple (t : Nat) (p : Pred) (o : FmtCR3)
  | vcmpeq (t : Nat) (p : Pred) (o : FmtCR3)
  | vcmplt (t : Nat) (p : Pred) (o : FmtCR3)
  | vcmple (t : Nat) (p : Pred) (o : FmtCR3)
  | plog (t : Nat) (p : Pred) (o : FmtCR3)
  | mul (t : Nat) (p : Pred) (o : FmtCM)
  | mac (t : Nat) (p : Pred) (o : FmtCM)
  | macs (t : Nat) (p : Pred) (o : FmtCM)
  | msu (t : Nat) (p : Pred) (o : FmtCM)
  | msus (t : Nat) (p : Pred) (o : FmtCM)
  | dot8z (t : Nat) (p : Pred) (o : FmtCM)
  | dot8 (t : Nat) (p : Pred) (o : FmtCM)
  | dot8s (t : Nat) (p : Pred) (o : FmtCM)
  | vmac8z (t : Nat) (p : Pred) (o : FmtCM)
  | vmac8 (t : Nat) (p : Pred) (o : FmtCM)
  | vmac8s (t : Nat) (p : Pred) (o : FmtCM)
  | vmsu8 (t : Nat) (p : Pred) (o : FmtCM)
  | vmsu8s (t : Nat) (p : Pred) (o : FmtCM)
  | rnd (t : Nat) (p : Pred) (o : FmtCN)
  | rndw (t : Nat) (p : Pred) (o : FmtCN)
  | trn (t : Nat) (p : Pred) (o : FmtCN)
  | amov (t : Nat) (p : Pred) (o : FmtCN)
  | aadd (t : Nat) (p : Pred) (o : FmtCN)
  | aadds (t : Nat) (p : Pred) (o : FmtCN)
  | ash (t : Nat) (p : Pred) (o : FmtCN)
  | aclr (t : Nat) (p : Pred) (o : FmtCN)
  | sinit (t : Nat) (p : Pred) (o : FmtCS)
  | smax (t : Nat) (p : Pred) (o : FmtCS)
  | smin (t : Nat) (p : Pred) (o : FmtCS)
  | sred (t : Nat) (p : Pred) (o : FmtCS)
  -- Teller operations: move slot
  | ldw (t : Nat) (p : Pred) (o : FmtMA)
  | ldh (t : Nat) (p : Pred) (o : FmtMA)
  | ldv (t : Nat) (p : Pred) (o : FmtMA)
  | stw (t : Nat) (p : Pred) (o : FmtMA)
  | sth (t : Nat) (p : Pred) (o : FmtMA)
  | stv (t : Nat) (p : Pred) (o : FmtMA)
  | str (t : Nat) (p : Pred) (o : FmtMR)
  | strv (t : Nat) (p : Pred) (o : FmtMR)
  | ldf (t : Nat) (p : Pred) (o : FmtLF)
  | stf (t : Nat) (p : Pred) (o : FmtLF)
  | movr (t : Nat) (p : Pred) (o : FmtMV)
  | movc (t : Nat) (p : Pred) (o : FmtMC)
  | modi (t : Nat) (p : Pred) (i : Nat) (imm : Int)
  | br (t : Nat) (p : Pred) (off : Int)
  | call (t : Nat) (p : Pred) (off : Int)
  | ret (t : Nat) (p : Pred)
  | loop (t : Nat) (p : Pred) (o : FmtLoop)
  | endRun (t : Nat) (p : Pred)
  | sig (t : Nat) (p : Pred) (n : Nat)
  | evr (t : Nat) (p : Pred) (n : Nat)
  | ld2i (t : Nat) (o : FmtLD2I)
  | ldi (t : Nat) (reg : Nat) (imm : Word) (z : Nat)
  -- Ledger
  | gainStoreWrite (addr : Nat) (codes : List Half)
  | chgvWrite (v : Word)
  | holdWrite (v : Word)
  | rampTableWrite (addr : Nat) (ws : List Word)
  | ramptWrite (k : Nat) (v : Word)
  | repoint (v : Word)
  -- Exchange
  | excCfgWrite (c : Nat) (v : Word)
  | acquireLock (c : Nat)
  | inputLoss (c : Nat) (rate : Nat)
  | phaseError (c : Nat)
  | inputResume (c : Nat) (rate : Nat)
  | syncRatioCheck (c : Nat) (dev : Int)
  -- sink chain registers
  | dcfgWrite (k : Nat) (v : Word)
  | dlyWrite (k : Nat) (v : Word)
  | dlenWrite (k : Nat) (v : Word)
  | limWrite (k : Nat) (thr : Bool) (v : Word)
  -- SAP and Till
  | sapEnable (n : Nat) (v : Word)
  | sapAlign (v : Word)
  | slaveFrame (n : Nat) (bits : Nat) (words : List Word)
  | tillWordReceived (n : Nat) (w : Word) (first : Bool)
  | tillHold (n : Nat) (high : Bool)
  | tilWmWrite (n : Nat) (v : Word)
  -- Remit
  | move (n : Nat)
  | remitLoop (n : Nat)
  | wait (n : Nat)
  | waitConditionMet (n : Nat)
  | signal (n : Nat)
  | link (n : Nat)
  | remitEnd (n : Nat)
  | rmtStart (n : Nat)
  | halt (n : Nat)
  | resume (n : Nat)
  | abort (n : Nat)
  | disable (n : Nat)
  | engineDisable (v : Word)
  | doorbell (v : Word)
  | rmtPcWrite (n : Nat) (v : Word)
  | channelRetired (n : Nat)
  -- Hinge pair
  | hngEnable (v : Word)
  | hinge (port : Nat) (m : HingeMsg) (ts : Nat)
  | receipt (folio : Nat) (conc : List Byte) (reent : List Byte)
  | change (efolio : Nat) (acts : List CtrlAct)
  | fill (str : Nat)
  -- later rows
  | keywayMessageLaunch (fromHost : Bool)
  | tillWordSent (n : Nat)
  | pulseOutputEdge (o : Nat) (eighth : Nat)
  -- rows of boot, management, supervision and districts (from here on beyond the 244 tags of Lean's runtime)
  | headerVerify (h : ImgHeader)
  | sectionCheck (sec : ImgSection)
  | arbAdvance (v : Word)
  | controlMessage (m : MgmtMsg) (acts : List CtrlAct)
  | setTime (m : MgmtMsg)
  | mgmtQuery (m : MgmtMsg) (regs : List Nat)
  | update (m : MgmtMsg) (addr : Nat) (cmd : Nat) (data : List Word)
  | restart (m : MgmtMsg)
  | hspiPostedWriteError (addr : Nat)
  | braceState (below : Nat)
  | hostSupervisorReset (supply : Nat)
  | hostTemperatureMeasurement (tj : Int)
  | fieldTemperatureMeasurement (tj : Int)
  | scrubPeriod (corrected : List Nat) (bad : List BadWord)
  | fieldSupplyBelowWarning (supply : Nat)
  | announceReceiptTimeout (inst : Nat)
  | disqualification (k : Nat)
  | announce (node : Nat) (flags : Nat) (src : Nat) (imgId : Word) (partner : Nat) (ntx : Nat)
  | claim (node : Nat) (scope : Nat) (nrec : Nat) (regs : List Nat)
  | streams (node : Nat) (recs : List StreamRec)
  | query (src : Nat) (tag : Nat) (ids : List Nat)
  | reply (tag : Nat) (recs : List ReplyRec)
  | leave (node : Nat)
  | claimTimeout (scope : Nat)
  | recordExpiry (node : Nat)
  | syncInterval (inst : Nat)
  | fieldScrub (bad : List Nat)
  | stewardRingPlaceFreed (p : Nat)
  | pcsCodeError (p : Nat)
  -- rows without operands
  | tcntLoRead
  | kwyFlogRead
  | hostSupplyGood
  | bootRetry
  | serviceLevel2
  | arbFusesBlown
  | xspEraseSector
  | xspProgramPage
  | hspiStatus
  | hspiSync
  | hspiId
  | hspiReset
  | hspiCsNRise
  | braceExit
  | hostPinReset
  | prsntNHigh
  | prsntNRelease
  | fprsntNHigh
  | fprsntNRelease
  | hostInternalReset
  | lockstepMismatch
  | stewardReset
  | stewardRuntimeRestart
  | watchdogExpiry
  | ledgerClearComplete
  | fieldWarningEnd
  | fieldSupplyReset
  | fieldSupplyGood
  | rootLock
  | rootLossOfLock
  | xoFailure
  | lanesAligned (host : Bool)
  | laneClockLoss
  | fieldClockSwitch
  | cmdTimeout
  | blockMissing
  | fieldFolioStart
  | autonomyEntry
  | autonomyExit
  | fhbloss
  | strongboxLoadEnd
  | toneBurstEnd
  | sbxEraseSector
  | sbxProgramPage
  | sbxCommandDone
  | avoidanceRunComplete
  | f0BackoffEnd
  | dvtRelease
  | junctionDone
  | folioStart
  | entryCut
  | mixSlotStart
  | remixEnd
  | postingCut
  | waitingBeat
  | changeAccept
  | receiptMissing
  | changePerform
  | heartbeatLoss
  | split
  | give
  | hngReturn
  | releaseSwitchOpen
  | releaseHswtElapsed
  | periodicAnnounce
  | claimInterval
  | streamsSlot
  | rstNRelease
  | querySlot
  deriving DecidableEq, Repr

end Sys2Proof
end

