-- ==== Sys2Proof/Config.lean ====
section
/-! DEFINITION. What one implementation fixes and the spec does not give, and the free values of the model. Each is an
opaque constant: nothing in Lean can prove a value of it, so a theorem holds whatever the values are. -/

namespace Sys2Proof.Config

/-- A free value: the answer of the part where the spec leaves a 32-bit value undefined or does not state it. It is
applied to State.free, which advances with every use. -/
opaque freeWord : Nat → Word

/-- Whether the byte at address `a` of the Vault-S network buffers is one that the units use for frames and streams (R67, R69):
the spec assigns no buffers. -/
opaque netBuffer (a : Nat) : Bool

/-- The conversion of the Exchange (R278, R281): the value, in the house scale and before saturation and fades, of a house
sample, from the channel's ratio in 2.30 fixed point and its input samples, newest first, each with its instant less the
one that the house sample carries, in thirds of a tick (R288). The spec gives the converter's quality (Table 5.3), not its
coefficients. -/
opaque convert (ratio : Nat) (win : List (Int × Int)) : Int

/-- What the rate estimator of R281 shows, for a bandwidth code of R282 and the timestamps of the input samples, newest
first: the spec gives the loop's bandwidth, not the loop. -/
opaque rateEstimate (abw : Nat) (stamps : List (Nat × Nat)) : Word

/-- The word that SAP port `p` receives in slot `s` for house sample `j` of folio `n`: a fact outside the part. -/
opaque sapInput (p s n j : Nat) : Word

/-- Coefficient `j` of the half-band filter of R313 and R314 (OUT_HBC: "fixed"). -/
opaque halfBand (j : Nat) : Word

/-- Coefficient of the half-band interpolator of R423 in 2^-30, for the input sample `2i + 1` house samples from the
output: the spec gives its response, not its coefficients. -/
opaque sbxTap (i : Nat) : Word

/-- The sample of the period at which the built-in tone of R424 begins: the spec gives no phase. -/
opaque tonePhase : Nat

/-- Whether place `i` of the part (0 the tone, 1 the pilot, 2 a player's sense sample, 3 the Strongbox interpolator)
rounds `x` up, where the spec states no rounding. -/
opaque roundsUp (i : Nat) (x : Int) : Bool

/-- The gain code that the ramp engine gives a crosspoint whose valid slot R179 leaves undefined. -/
opaque badRamp (slot folio j : Nat) : BitVec 16

/-- The differential voltage at the sense input of Keyway receive channel `k`, in nV, as sample `j` of field folio `f`: an
analog measurement. -/
opaque senseInput (k f j : Nat) : Int

/-- The interpolator of R336: its value in the amplifier format, from the samples that have entered it, newest first,
and the position in 1/64000 sample. The spec gives its response, not its coefficients. -/
opaque interpolate (win : List Int) (pos : Nat) : Int

/-- The phase of the pilot of R376 at house position 0, in 1/2048000 of a period: the spec gives none. -/
opaque pilotPhase : Nat

/-- What a source bound to Keyway receive channel `i` reads as sample `j` of input folio `n` when the SENSE of its field
folio has not come: the spec states no value. -/
opaque noSense (n i j : Nat) : Word

/-- The seed of the F0 generator: the field die's fused serial number (R452). -/
opaque f0Seed : Word

/-- The next value of the 32-bit LFSR of R452, whose polynomial the spec does not give. -/
opaque f0Next (w : Word) : Word

/-- The IPv4 identification of the DVT frame of stream `s`, output folio `m`: the spec gives none. -/
opaque ipId (s m : Nat) : BitVec 16

/-- The PTP messages that instance `i` sends (0 = DA, 1 = DB, 2 = DC): destination addresses, type of service and time to
live, and type and bytes of message `n`; the spec gives none. -/
opaque ptpDst (i : Nat) : BitVec 48
opaque ptpIp (i : Nat) : BitVec 32
opaque ptpTos : BitVec 8
opaque ptpTtl : BitVec 8
opaque ptpType (i n : Nat) : BitVec 4
opaque ptpByte (i n k : Nat) : Byte

/-- The clockClass in an RSC state for which the TIME section assigns none. -/
opaque openClass (st : Nat) : BitVec 8

/-- The phase of reference candidate `k` against the output in folio `n`, in ps, where its input is outside the model
(Table 9.3), or outside the range of RSC_PDOUT. -/
opaque refPhase (k n : Nat) : Word

/-- Whether the period of pulse output `o`, WCLK at 48 kHz where `half`, is rounded up to a multiple of 2^-40 tick
(R540). -/
opaque pulseUp (o : Nat) (half : Bool) : Bool

/-- What an AES67 packet sent carries beyond R477: the type of service and time to live, the UDP source port, and the
Ethernet destination of an IPv4 address; the spec gives none. -/
opaque a67Tos : BitVec 8
opaque a67Ttl : BitVec 8
opaque a67Port : BitVec 16
opaque a67Mac (ip : Nat) : BitVec 48

/-- The control value of the closed RSC loop in its second number `k` (R533, R538). -/
opaque loopControl (k : Nat) : Word

end Sys2Proof.Config
end

