-- ==== Sys2Proof/Machine/Assoc.lean ====
section
/-! DEFINITION. Sparse tables by number: lists of (key, value) pairs with keys strictly rising and no entry
equal to what an unlisted key reads as. Registers, memories and the arrays of the engines are held so, and equal
contents are equal data. Bit-field helpers of the registers stand here too. -/

namespace Sys2Proof.Machine

/-- What key `k` reads as: its listed value, else the value `d` of an unlisted key. -/
def aget {α : Type} (l : List (Nat × α)) (d : α) (k : Nat) : α :=
  match l with
  | [] => d
  | (j, v) :: t => if j = k then v else aget t d k

/-- Remove key `k`. -/
def adel {α : Type} (l : List (Nat × α)) (k : Nat) : List (Nat × α) := l.filter (fun e => e.1 != k)

/-- Insert key `k`, absent from the rising list, with value `v`. -/
def ainsert {α : Type} (l : List (Nat × α)) (k : Nat) (v : α) : List (Nat × α) :=
  match l with
  | [] => [(k, v)]
  | (j, w) :: t => if k < j then (k, v) :: (j, w) :: t else (j, w) :: ainsert t k v

/-- Write `v` at key `k` where an unlisted key reads as `d`: the canonical form is kept. -/
def aput {α : Type} [DecidableEq α] (l : List (Nat × α)) (d : α) (k : Nat) (v : α) : List (Nat × α) :=
  if v = d then adel l k else ainsert (adel l k) k v

/-- Apply `f` to the value at key `k`. -/
def aupd {α : Type} [DecidableEq α] (l : List (Nat × α)) (d : α) (k : Nat) (f : α → α) : List (Nat × α) :=
  aput l d k (f (aget l d k))

/-- The keys rise strictly. -/
def rising {α : Type} : List (Nat × α) → Bool
  | [] => true
  | [_] => true
  | a :: b :: t => decide (a.1 < b.1) && rising (b :: t)

/-- The canonical form, for a table whose unlisted key `k` reads as `d k`. -/
def canonBy {α : Type} [DecidableEq α] (d : Nat → α) (l : List (Nat × α)) : Bool :=
  rising l && l.all (fun e => decide (e.2 ≠ d e.1))

/-! ### Bit fields -/

/-- Bits `hi` to `lo` of a register as a number. -/
def fld (w : Word) (hi lo : Nat) : Nat := w.toNat / 2 ^ lo % 2 ^ (hi + 1 - lo)

/-- Bit `i` of a register. -/
def bit (w : Word) (i : Nat) : Bool := w.toNat.testBit i

/-- A word from a number, modulo 2^32. -/
def wd (n : Nat) : Word := BitVec.ofNat 32 n

/-- A word from an integer, modulo 2^32. -/
def wdi (n : Int) : Word := BitVec.ofInt 32 n

/-- The word with only bit `i` set. -/
def bitw (i : Nat) : Word := wd (2 ^ i)

/-- `w` with bits `hi` to `lo` replaced by `v` (taken modulo the width of the field). -/
def putFld (w : Word) (hi lo : Nat) (v : Nat) : Word :=
  let m := 2 ^ (hi + 1 - lo)
  wd (w.toNat - (w.toNat / 2 ^ lo % m) * 2 ^ lo + (v % m) * 2 ^ lo)

/-- 1 for true. -/
def b2n (b : Bool) : Nat := if b then 1 else 0

/-- A field of `n` bits read as a two's-complement number. -/
def signed (n : Nat) (v : Nat) : Int :=
  if v % 2 ^ n < 2 ^ (n - 1) then Int.ofNat (v % 2 ^ n) else Int.ofNat (v % 2 ^ n) - (2 ^ n : Nat)

/-- The two's-complement encoding of `v` in `n` bits. -/
def encSigned (n : Nat) (v : Int) : Nat := (v % ((2 ^ n : Nat) : Int)).toNat

/-- Round half up to an integer multiple count: floor(x / d + 1/2) for a positive divisor `d` (R17). -/
def roundHalfUp (x : Int) (d : Nat) : Int := (2 * x + d) / (2 * d)

/-- Limit `x` to `lo … hi`. -/
def clampI (lo hi x : Int) : Int := if x < lo then lo else if hi < x then hi else x

/-- Whether bit `i` of the number `m` is set. -/
def inMask (m i : Nat) : Bool := m.testBit i

/-- `m` with bit `i` set. -/
def addMask (m i : Nat) : Nat := if m.testBit i then m else m + 2 ^ i

/-- `m` with bit `i` cleared. -/
def delMask (m i : Nat) : Nat := if m.testBit i then m - 2 ^ i else m

/-- Little-endian bytes of a number. -/
def leBytes (v : Nat) : Nat → List Byte
  | 0 => []
  | n + 1 => BitVec.ofNat 8 v :: leBytes (v / 256) n

/-- The number that bytes spell, least significant first. -/
def leNat : List Byte → Nat
  | [] => 0
  | b :: t => b.toNat + 256 * leNat t

/-- The number that bytes spell, most significant first. -/
def beNat (l : List Byte) : Nat := leNat l.reverse

end Sys2Proof.Machine
end

