-- ==== Sys2Proof/Machine/PartsAudio.lean ====
section
/-! DEFINITION. The parts of State that belong to the folio cadence, the Ledger, the Tellers, the Exchange and the
sink chain (chapters 2 to 5). Samples stand in sparse tables at key 8 × channel + sample. -/

namespace Sys2Proof.Machine

/-! ### Chapter 3: Ledger -/

/-- A ramp (Table 3.2), whether it starts from the code that an uncorrectable word gave (Table 3.7) and not from the code
in force, and whether the table describes one of the cases that R179 leaves undefined. -/
structure Ramp where
  xp : Nat
  start : Nat
  target : Nat
  len : Nat
  done : Nat
  forced : Bool
  bad : Bool
  deriving DecidableEq, Repr

def Ramp.none : Ramp := ⟨0, 0, 0, 0, 0, false, false⟩

/-- A gain change in the change queue (R166). -/
structure Chg where
  xp : Nat
  code : Nat
  rt : Nat
  deriving DecidableEq, Repr

/-- The phases of a source gate (R186 to R190). -/
inductive GatePhase where
  | normal | down | silent | up
  deriving DecidableEq, Repr

/-- A source gate: its phase, the code its ramp starts from, the ramp's length, the samples of it applied, and the
binding that the silent folio brings. -/
structure Gate where
  phase : GatePhase
  a : Nat
  len : Nat
  done : Nat
  bind : Nat
  deriving DecidableEq, Repr

def Gate.reset : Gate := ⟨.normal, 0xF400, 0, 0, 0⟩

/-- A write beat at the Ledger stores that waits (R167): codes of crosspoints, with the ramp entry when it is not the one
of LDG_CTRL.WRT (R198); or words of the ramp table, by address. -/
inductive LdgBeat where
  | gain (rt : Option Nat) (l : List (Nat × Nat))
  | ramp (l : List (Nat × Word))
  deriving DecidableEq, Repr

/-- A re-point as written: source, ramp length, binding (R186). -/
structure Repoint where
  src : Nat
  len : Nat
  bind : Nat
  deriving DecidableEq, Repr

/-- The Ledger beside its registers and stores. -/
structure Ldg where
  ready : Bool
  /-- Ramps of the folio being mixed, by slot. -/
  ramps : List (Nat × Ramp)
  /-- Changes accepted into slots in this mix slot, or released in it, and not begun (R169). -/
  fresh : List (Nat × Ramp)
  /-- Accepted changes that HOLD keeps from beginning, by slot (R174). -/
  held : List (Nat × Ramp)
  queue : List Chg
  /-- Write beats that wait on a full queue, and behind one, oldest first (R167). -/
  waiting : List LdgBeat
  /-- Codes of uncorrectable words that the runtime is still to restore (R198). -/
  restore : List (List (Nat × Nat))
  gates : List (Nat × Gate)
  /-- Re-points by the number of the first folio cut after them, oldest first (R186, R779). -/
  repoints : List (Nat × Repoint)
  /-- Words of the ramp table written over the Clearinghouse since the last mix slot boundary, by number (R179). -/
  touched : List Nat
  /-- The codes of the running mix slot that writes with EN = 0 have replaced in the store: crosspoint and code (R116). -/
  was : List (Nat × Nat)
  /-- Ramp slots whose ramp is completed, or that are freed, at the next mix slot boundary, and crosspoints set to off
  then (Table 3.7). -/
  complete : List Nat
  freed : List Nat
  off : List Nat
  /-- Sources whose row map entry failed parity in this folio (R153). -/
  parity : List Nat
  deriving DecidableEq, Repr

def Ldg.reset : Ldg :=
  { ready := false, ramps := [], fresh := [], held := [], queue := [], waiting := [], restore := [], gates := [],
    repoints := [], touched := [], was := [], complete := [], freed := [], off := [], parity := [] }

/-! ### Chapter 2: folios and entries -/

/-- Entry states of Table 2.4. -/
inductive EntrySt where
  | free | opened | provisional | reversed | posted | final
  deriving DecidableEq, Repr

/-- A queued remix (R119, R121): its group, the instant it begins in thirds of a CORE cycle of system time, and the
dependent sinks it renews. -/
structure Remix where
  g : Nat
  start : Int
  deps : List Nat
  deriving DecidableEq, Repr

/-- A network arrival kept for its folio: the samples of its channels, at key 8 × channel + sample, where DVT channels
stand at 0 to 2047 and AES67 channels at 2048 to 2175. -/
structure Arrival where
  folio : Nat
  chans : List Nat
  data : List (Nat × Word)
  deriving DecidableEq, Repr

/-- What brings a change to sources of a folio after its entry cut: a packet that is late (R119), or the partner's receipt
with the sources that it marks concealed (R136). -/
inductive LateData where
  | packet (a : Arrival)
  | receipt (conc : List Nat)
  deriving DecidableEq, Repr

/-- A source task whose test waits for M(n) (R119): the folio, what came, the task, and the sources it would change. -/
structure Deferred where
  folio : Nat
  data : LateData
  task : Nat
  srcs : List Nat
  deriving DecidableEq, Repr

/-- A folio in flight. -/
structure Fol where
  n : Nat
  /-- Source samples after concealment and gate, at key 8s + j. -/
  src : List (Nat × Word)
  /-- Ledger source buffer rows (mix-in rail). -/
  rows : List (Nat × Word)
  /-- Network sources received, concealed and re-entered. -/
  recv : List Nat
  conc : List Nat
  reent : List Nat
  /-- Source samples after concealment and before the gate (R108, R144). -/
  raw : List (Nat × Word)
  /-- Groups mixed so far, and the entries. -/
  mixed : Nat
  entries : List (Nat × EntrySt)
  /-- Sinks after the Ledger and after the sink stage, at key 8k + j. -/
  mix : List (Nat × Word)
  sink : List (Nat × Word)
  /-- First runs dispatched and not complete: key 256t + context. -/
  open_ : List Nat
  /-- Reruns placed and not complete, one entry for each: task, and the instant at which it may start. -/
  reruns : List (Nat × Int)
  /-- The dispatch of the sink reruns among them, one entry for each (R93). -/
  redisp : List (Nat × Int)
  /-- Tasks dispatched and not committed (R124). -/
  prov : List Nat
  /-- Every rerun placed for the folio: Teller, start and end in thirds of a CORE cycle (R217). -/
  booked : List (Nat × (Int × Int))
  /-- Rerun cycles admitted, by Teller (R119). -/
  plan : List (Nat × Nat)
  /-- Groups queued for remix, in order (R121), and the end of the last queued remix. -/
  remix : List Remix
  h : Int
  posted : Bool
  /-- P(n) has passed and the shadow waits for the partner's receipt (R136, R578). -/
  waits : Bool
  /-- The mix slot of the folio began. -/
  slot : Bool
  /-- First-run and rerun cycles by Teller, remix cycles and cycles of the provisional pass. -/
  firstCyc : List (Nat × Nat)
  rerunCyc : List (Nat × Nat)
  remixCyc : Nat
  /-- Gate codes of the folio where they are not 0xF400, and the sources silent in it (R191, R189). -/
  gcode : List (Nat × Nat)
  silent : List Nat
  /-- Groups the sink chain has processed, the limiter targets of linked sinks, the reduced samples. -/
  chained : List Nat
  tval : List (Nat × Nat)
  /-- The delay stage's output of those sinks, at key 8k + j. -/
  dout : List (Nat × Word)
  out : List (Nat × Word)
  /-- Late arrivals of the folio, held for a receipt of the partner (R136). -/
  held : List Arrival
  /-- Sinks counted in LDG_CNT_SAT (R161). -/
  satDone : List Nat
  /-- The source gates, and the bindings of their sources, before the folio's entry cut (R779). -/
  gates0 : List (Nat × Gate)
  binds0 : List (Nat × Nat)
  /-- A Clearinghouse write has left the content of the folio undefined (R69). -/
  undef : Bool
  deriving DecidableEq, Repr

def Fol.fresh (n : Nat) : Fol :=
  { n := n, src := [], rows := [], recv := [], conc := [], reent := [], raw := [], mixed := 0, entries := [], mix :=
    [], sink := [], open_ := [], reruns := [], redisp := [], prov := [], booked := [], plan := [], remix := [], h :=
    0, posted := false, waits := false, slot := false, firstCyc := [], rerunCyc := [], remixCyc := 0, gcode := [],
    silent := [], chained := [], tval := [], dout := [], out := [], held := [], satDone := [], gates0 := [], binds0 :=
    [], undef := false }

/-- A deferred effect of a task (R123, R127). -/
inductive JAct where
  | bank (off : Nat) (strobe : Nat) (bytes : List Byte)
  | stf (addr : Nat) (v : Word)
  | sig (n : Nat)
  | evr (n : Nat)
  deriving DecidableEq, Repr

/-- A journal record: Teller, context, folio and effect, in issue order. -/
structure JRec where
  t : Nat
  ctx : Nat
  folio : Nat
  act : JAct
  deriving DecidableEq, Repr

/-- A Clearinghouse write into bank 0 that waits for a commit (R126): one journal record (R127). -/
structure HeldWrite where
  t : Nat
  off : Nat
  bytes : List Byte
  /-- The folio whose quota of R127 it counts to. -/
  folio : Nat
  deriving DecidableEq, Repr

/-- Folio sequencer and Posting engine. -/
structure Pst where
  run : Bool
  paused : Bool
  /-- The first folio to render after EN or a skip (R777, R140), and the folio of the running mix slot. -/
  next : Nat
  cur : Option Nat
  fols : List Fol
  /-- Concealment: consecutive count k by source, and the stored folio x at key 8s + j (R107). -/
  k : List (Nat × Nat)
  x : List (Nat × Word)
  /-- Arrivals on time for folios not yet cut; late ones that came before their folio's entry cut was taken, with their
  instants (R102); source tasks deferred to M(n), in order of arrival (R119). -/
  arrived : List Arrival
  early : List (Arrival × Int)
  deferred : List Deferred
  journal : List JRec
  bank0 : List HeldWrite
  /-- Deferred effects of final tasks not yet performed, in issue order (R127, R257), and whether issued: a deferred
  STF is a transaction of master PST until it retires. -/
  todo : List (JRec × Bool)
  /-- POST in force, and written ones with their first folios, oldest first (R96). -/
  post : Nat
  postNext : List (Nat × Nat)
  /-- The folio of the latest entry cut (PST_FOLIO). -/
  cut : Nat
  /-- The output folio whose egress began latest. -/
  egress : Option Nat
  /-- The latest folio, not yet cut, whose content a Clearinghouse write has left undefined (R69). -/
  undef : Option Nat
  deriving DecidableEq, Repr

def Pst.reset : Pst :=
  { run := false, paused := false, next := 0, cur := none, fols := [], k := [], x := [], arrived := [], early := [],
    deferred := [], journal := [], bank0 := [], todo := [], post := 100, postNext := [], cut := 0, egress := none,
    undef := none }

/-! ### Chapter 4: Tellers -/

/-- A context (chapter 4, "Tasks and contexts"): its declaration and its state. -/
structure Ctx where
  decl : CtxDecl
  exists_ : Bool
  en : Bool
  quar : Bool
  fcons : Nat
  /-- Whether the folio now running has faulted, for the count of R268. -/
  faulted : Bool
  last : Nat
  max : Nat
  /-- A TEL_CTXCMD awaiting the next folio. -/
  cmd : Nat
  deriving DecidableEq, Repr

def Ctx.none : Ctx := ⟨CtxDecl.none, false, false, false, 0, false, 0, 0, 0⟩

/-- The run a Teller executes. -/
structure Run where
  ctx : Nat
  folio : Nat
  rerun : Bool
  deriving DecidableEq, Repr

/-- An active loop (R262): its LC register, body, whether the count is 0, and whether it is the later of two. -/
structure TLoop where
  k : Nat
  start : Nat
  end_ : Nat
  zero : Bool
  deriving DecidableEq, Repr

/-- The registers as they stood at the start of the bundle in progress, once its compute slot has written (R230), and
the SR flags that slot raised (R213); `wrote` lists the data registers it wrote, and 32 + j for Pj. -/
structure Before where
  d : List (Nat × Word)
  acc : List (Nat × BitVec 80)
  p : List (Nat × BitVec 8)
  sr : Word
  flags : Nat
  wrote : List Nat
  deriving DecidableEq, Repr

/-- One Teller (Table 4.3). Unlisted registers are 0; unlisted predicates are 0xFF. -/
structure Core where
  d : List (Nat × Word)
  acc : List (Nat × BitVec 80)
  i : List (Nat × Word)
  b : List (Nat × Word)
  l : List (Nat × Word)
  m : List (Nat × Word)
  p : List (Nat × BitVec 8)
  lc0 : BitVec 16
  lc1 : BitVec 16
  sr : Word
  cr : Word
  pc : Nat
  stack : List Nat
  loops : List TLoop
  cyc : Nat
  run : Option Run
  /-- The bundle in progress, and loads of the previous bundle not yet visible (R231). -/
  before : Option Before
  loads : List (Nat × Word)
  /-- An LDF stall: destination, Clearinghouse address and the time of issue (R257). -/
  stall : Option (Nat × (Nat × Nat))
  /-- Words of bank 0 in the shadow: number of the 8-byte word (R123). -/
  dirty : List Nat
  /-- Words of the port view that the run has written (R207). -/
  wrote : List Nat
  /-- Responses to LDFs of ended stalls, to be discarded when they arrive (R220, R257). -/
  stale : Nat
  deriving DecidableEq, Repr

def Core.reset : Core :=
  { d := [], acc := [], i := [], b := [], l := [], m := [], p := [], lc0 := 0, lc1 := 0, sr := 0, cr := 0, pc := 0,
    stack := [], loops := [], cyc := 0, run := none, before := none, loads := [], stall := none,
    dirty := [], wrote := [], stale := 0 }

/-- A scheduled replacement (R270, R271): Teller, old and new context, swap folio; whether the new context runs. -/
structure Swap where
  t : Nat
  old : Nat
  new : Nat
  folio : Nat
  begun : Bool
  deriving DecidableEq, Repr

/-- The Tellers: cores, contexts at key 256t + c, the scheduled replacements, and the contexts whose code (else bank 0
region) the runtime is still to rewrite (R269). -/
structure Tel where
  cores : List (Nat × Core)
  ctxs : List (Nat × Ctx)
  swaps : List Swap
  restore : List (Nat × Bool)
  deriving DecidableEq, Repr

def Tel.reset : Tel := ⟨[], [], [], []⟩

/-! ### Chapter 5: Exchange and sink chain -/

/-- Channel states of Table 5.2. -/
inductive ExcSt where
  | off | acquire | locked | lost
  deriving DecidableEq, Repr

def ExcSt.code : ExcSt → Nat
  | .off => 0
  | .acquire => 1
  | .locked => 2
  | .lost => 3

/-- One input sample of an Exchange channel: the tick at which it, or the header of its frame, crossed the interface, its
number in the frame, its value in the house scale (R275, R281, R667), and whether it came (R481). -/
structure ExcIn where
  stamp : Nat
  idx : Nat
  v : Word
  got : Bool
  deriving DecidableEq, Repr

/-- One Exchange channel: state, configuration in force and pending (R277), SYNCERR, fill, rate, slips and losses since
enabled (R291), and fades: samples faded in (R284); samples faded out, or, in LOST, decayed. A synchronous channel keeps
its latest measured deviation (10^-9) and what of it has not yet moved the fill. `ring` holds the input samples, newest
first, and `wpos` counts them; for `taint` more of them the content is undefined (R290). `zeroFrom` is the instant, in
thirds of a tick, from which a channel in LOST has input samples of value 0 (R285). -/
structure ExcCh where
  st : ExcSt
  cfg : Word
  pend : Option Word
  syncErr : Bool
  fill : Nat
  rate : Word
  slips : Nat
  losses : Nat
  fadeIn : Nat
  fadeOut : Option Nat
  dev : Int
  drift : Int
  ring : List ExcIn
  wpos : Nat
  taint : Nat
  zeroFrom : Option Nat
  deriving DecidableEq, Repr

def ExcCh.reset : ExcCh := ⟨.off, 0, none, false, 0, 0, 0, 0, 0, none, 0, 0, [], 0, 0, none⟩

/-- A delay crossfade (R304): old and new delay, samples done, length. -/
structure Xfade where
  old : Nat
  new : Nat
  i : Nat
  len : Nat
  deriving DecidableEq, Repr

/-- The sink chain state of one sink: its delay line with the BASE and LEN in force, crossfade and pending change, the
write index before which its slots are undefined (R323), the limiter's gain, lowest gain and last inputs (newest
first), the filter's last inputs (newest first). -/
structure Snk where
  on : Bool
  base : Nat
  len : Nat
  w : Nat
  dly : Nat
  xf : Option Xfade
  pend : Option Nat
  bad : Nat
  g : Nat
  gmin : Nat
  hist : List Int
  fir : List Int
  deriving DecidableEq, Repr

def Snk.reset : Snk := ⟨false, 0, 0, 0, 0, none, none, 0, 2 ^ 30, 2 ^ 30, [], []⟩

/-- Exchange and sink chain: channels, sinks, the OUT registers in force where they differ from the register's reset
value, and writes that take effect in a later folio: folio, address, value (R302). -/
structure Out where
  exc : List (Nat × ExcCh)
  /-- The samples the Exchange wrote for the latest input folio, at key 8 × channel + sample (R276). -/
  excNow : List (Nat × Word)
  snk : List (Nat × Snk)
  force : List (Nat × Word)
  staged : List (Nat × (Nat × Word))
  /-- The level-1 path: its latest inputs, newest first, and input folios not yet rendered (R700). -/
  l1hist : List Int
  l1in : List (Nat × List Word)
  deriving DecidableEq, Repr

def Out.reset : Out := ⟨[], [], [], [], [], [], []⟩

end Sys2Proof.Machine
end

