-- ==== Sys2Proof/Machine/PartsCtl.lean ====
section
/-! DEFINITION. The parts of State that belong to time, clocks, supplies, resets and boot (chapters 9, 13 and 14).
Registers themselves stand in State.regs; here stands what the chapters give the machine beside them. -/

namespace Sys2Proof.Machine

/-! ### Chapter 9: time -/

/-- A view (R488): anchor in ticks, OFFSET at the anchor and the slew, in units of 2^-40 ns; RATE in 2^-40 ns a tick.
`slew` is the signed amount still to apply at tick `slewAt`, at `slewPpm` ppm of view time (R494). -/
structure View where
  anchor : Nat
  offset : Int
  rate : Nat
  slew : Int
  slewAt : Nat
  slewPpm : Nat
  /-- A committed RATE and the tick at which it takes effect (R491). -/
  pend : Option (Nat × Nat)
  deriving DecidableEq, Repr

/-- A view after reset: nominal RATE (0x00FA_0000_0000), OFFSET 0 (R504), SLEWR 10 ppm. -/
def View.reset : View := ⟨0, 0, 0xFA00000000, 0, 0, 10, none⟩

/-- One pulse output (R540 to R543): the instant of its latest rising edge in 2^-40 TCNT ticks (none: no cadence runs
yet), whether an ALIGN waits, and whether the lengthened period of that ALIGN is the one now running. -/
structure Pulse where
  last : Option Int
  alignReq : Bool
  aligning : Bool
  deriving DecidableEq, Repr

def Pulse.reset : Pulse := ⟨none, false, false⟩

/-- One reference candidate of the RSC (Table 9.3): loss of signal, disqualification, seconds of wait-to-restore done,
whether it runs, consecutive seconds beyond and within the soft limit, and whether the last measurement was beyond
HARD. -/
structure Cand where
  los : Bool
  disq : Bool
  wtr : Option Nat
  softOver : Nat
  softUnder : Nat
  overHard : Bool
  deriving DecidableEq, Repr

/-- A candidate after reset: no signal seen yet, not disqualified. -/
def Cand.reset : Cand := ⟨false, false, none, 0, 0, false⟩

/-- One PTP instance (R512, R514): locked, the runs of good and bad Sync intervals, whether it is grandmaster, and when
the runtime last wrote its TIM_SRV register. -/
structure Ptp where
  lock : Bool
  good : Nat
  bad : Nat
  master : Bool
  written : Nat
  /-- Sync and Announce messages sent as master. -/
  sent : Nat
  deriving DecidableEq, Repr

def Ptp.reset : Ptp := ⟨false, 0, 0, false, 0, 0⟩

/-- Time base, views, RSC, PTP and pulse outputs. -/
structure Tim where
  /-- TCNT (R485). -/
  tcnt : BitVec 64
  va : View
  vb : View
  vl : View
  /-- The view in force (R497): 0 = A, 1 = B, 2 = L. -/
  act : Nat
  /-- A requested change of ACTIVE awaiting the boundary (R499). -/
  pendAct : Option Nat
  /-- J in 2^-40 ns as it stood at tick `juncAt`, and its slew rate in ppm (R497, R500). -/
  junc : Int
  juncAt : Nat
  juncPpm : Nat
  /-- JCLR awaiting the boundary (R501). -/
  jclr : Bool
  tvalid : Bool
  /-- A PTP instance has locked since the host start (R504). -/
  locked : Bool
  /-- The latest snapshot: TCNT, and V_A, V_B, V_L and T in 2^-16 ns (R496). -/
  snapTcnt : Nat
  snapA : Int
  snapB : Int
  snapL : Int
  snapT : Int
  pps : Pulse
  wck : Pulse
  fol : Pulse
  ptpA : Ptp
  ptpB : Ptp
  /-- Messages of the master-only port of domain DC on P3. -/
  dcSent : Nat
  deriving DecidableEq, Repr

def Tim.reset : Tim :=
  { tcnt := 0, va := View.reset, vb := View.reset, vl := View.reset, act := 2, pendAct := none, junc := 0, juncAt := 0,
    juncPpm := 10, jclr := false, tvalid := false, locked := false, snapTcnt := 0, snapA := 0, snapB := 0, snapL := 0, snapT := 0,
    pps := Pulse.reset, wck := Pulse.reset, fol := Pulse.reset, ptpA := Ptp.reset, ptpB := Ptp.reset, dcSent := 0 }

/-- The states of Table 9.6, in the order of RSC_STATUS.STATE. -/
inductive RscState where
  | freerun | buildout | locked | holdover | opened
  deriving DecidableEq, Repr

def RscState.code : RscState → Nat
  | .freerun => 0
  | .buildout => 1
  | .locked => 2
  | .holdover => 3
  | .opened => 4

/-- The RSC: its state, the candidates in index order, the candidate selected and the one built out, the control value in
force since clock `ctlAt`, and those of the last 60 s in LOCKED before it, each with its time (newest first; R533). -/
structure Rsc where
  st : RscState
  cands : List Cand
  sel : Nat
  new : Nat
  /-- OPEN = 1 was written during BUILDOUT (R536). -/
  openHeld : Bool
  ctl : Word
  ctlAt : Nat
  history : List (Int × Nat)
  /-- The frequencies against the XO that the latest measurement found, in 10^-12, by candidate (R521). -/
  raw : List Int
  /-- Seconds since an ESMC message was last heard on P0 and P1. -/
  noEsmc0 : Nat
  noEsmc1 : Nat
  /-- What switches have moved the output phase in ps, the residual of the latest one, and when it began to slew
  (R530). -/
  phase : Int
  resid : Int
  residAt : Nat
  deriving DecidableEq, Repr

def Rsc.reset : Rsc := ⟨.freerun, List.replicate 8 Cand.reset, 7, 0, false, 0, 0, [], [], 5, 5, 0, 0, 0⟩

/-! ### Chapter 14: supplies, domains, resets -/

/-- A record of the post-mortem log that the runtime appends (R723), with its time. -/
inductive PmRec where
  | brace (at_ : Nat)
  deriving DecidableEq, Repr

/-- Why the host die is held in reset. -/
structure Hold where
  supply : Bool
  pin : Bool
  prsnt : Bool
  hot : Bool
  /-- The root has not locked to the XO yet (R547). -/
  root : Bool
  deriving DecidableEq, Repr

/-- Supplies, power domains, resets, watchdog and temperature. -/
structure Pwr where
  hold : Hold
  /-- A host internal reset waits its 10 µs: its cause code of SYS_RSTCAUSE and the time it falls due. -/
  intReset : Option (Nat × Nat)
  /-- A Restart message asks for a host reset at this time (Table 13.13). -/
  restart : Option Nat
  /-- A Steward reset was requested and has not happened yet. -/
  stwReq : Bool
  /-- The Steward is between a reset and the restart of its runtime (R734). -/
  stwDown : Bool
  braceStart : Option Nat
  /-- PWR_CTRL writes held during the brace state, oldest first (R723). -/
  heldCtrl : List Word
  /-- Domains switching: number, on or off, and the latest time it completes (Table 14.2). -/
  switching : List (Nat × (Bool × Nat))
  /-- PS5 stores are being cleared (R196). -/
  ldgClearing : Bool
  /-- The time at which the watchdog expires, if it runs (R741). -/
  wdDeadline : Option Nat
  /-- The time of the latest Steward reset caused by the watchdog. -/
  wdLast : Option Nat
  /-- Consecutive measurements at 145 °C or more (R742). -/
  hot : Nat
  pmLog : List PmRec
  /-- The highest host temperature since SYS_TEMP was last read, in 0.25 °C. -/
  tmax : Option Int
  /-- The field die: held by its supplies, by FPRSNT_N, by its temperature. -/
  fSupply : Bool
  fPin : Bool
  fHot : Bool
  deriving DecidableEq, Repr

/-- The part right after power-on reset of both dies: held until supply good. -/
def Pwr.reset : Pwr :=
  { hold := ⟨true, false, false, false, true⟩, intReset := none, restart := none, stwReq := false, stwDown := false, braceStart := none,
    heldCtrl := [], switching := [], ldgClearing := false, wdDeadline := none, wdLast := none, hot := 0,
    pmLog := [], tmax := none, fSupply := true, fPin := false, fHot := false }

/-! ### Chapter 13: boot, configuration, security -/

/-- What is fused into the part: variant and steppings (R8), and the OTP fields of Table 13.8. -/
structure Fuse where
  variant : Nat
  hstep : Nat
  fstep : Nat
  keyhash : BitVec 256
  imgkey : BitVec 256
  arb : Nat
  jtag : Nat
  serial : BitVec 64
  /-- The fitted configuration flash has 256 MiB, else 128 MiB: what SFDP says (R674). -/
  flash256 : Bool
  deriving DecidableEq, Repr

/-- A part as packed: ML2560-A, steppings A0, no OTP field programmed; beside it a flash of 128 MiB. -/
def Fuse.reset : Fuse := ⟨1, 0, 0, 0, 0, 0, 0, 0, false⟩

/-- The level-1 path (Table 13.10). -/
structure L1Cfg where
  kind : Nat
  ports : Nat
  ch : Nat
  id : Nat
  nch : Nat
  fmt : Nat
  gain : Nat
  amp : Nat
  sapOut : Nat
  sapSlots : Nat
  deriving DecidableEq, Repr

/-- Where the boot ROM stands in its order of slots. -/
inductive BootPhase where
  | held | header | sections | applying | running | failed
  deriving DecidableEq, Repr

/-- The boot ROM and the runtime's configuration state. -/
structure Boot where
  phase : BootPhase
  /-- The slot being tried, or in use, and the one still to try. -/
  slot : Nat
  left : List Nat
  /-- The winning selector copy, its PREF and whether it is confirmed (R676). -/
  winner : Option Nat
  pref : Nat
  confirmed : Bool
  hdr : Option ImgHeader
  /-- Types of the sections accepted so far, oldest first. -/
  seen : List Nat
  /-- REG and PARAM records staged, with their section type, in record order (R687), and their bytes. -/
  staged : List (Nat × Rec)
  stagedBytes : Nat
  /-- What MEM records of the image wrote, by Clearinghouse address: the content that restores a memory (R198, R269). -/
  image : List (Nat × Byte)
  /-- Ranges that MEM records of this slot have written: address and length (R693). -/
  written : List (Nat × Nat)
  bistDone : Bool
  placed : Bool
  nlog : Nat
  fenceMax : Nat
  mkey : Option (List Byte)
  l1 : Option L1Cfg
  standalone : Bool
  /-- STEPTH in ns (R514). -/
  stepth : Nat
  /-- The view that the TIME section selects for TIM_CTRL.ACTIVE (R504). -/
  activeSel : Nat
  ptp : PtpOpts
  /-- Expected Strongbox index of the image: valid messages, bits 0 to 63 (R707). -/
  sbxValid : Option Nat
  /-- The time of the next attempt after both slots were rejected. -/
  retryAt : Option Nat
  /-- The highest SEQ accepted since the host start (R709). -/
  lastSeq : Option Nat
  /-- Anti-rollback: a write held in the brace state, and the count being blown (R692). -/
  arbHeld : List Word
  arbBusy : Option Nat
  /-- The output folio in which the level-1 output crosses over to level 2 (R704). -/
  crossAt : Option Nat
  /-- FIELD records still to be written through the proxy window, and whether that and the start of the AMP channels wait
  for the link (R702, R707). -/
  fieldRecs : List Rec
  fieldPend : Bool
  deriving DecidableEq, Repr

def Boot.reset : Boot :=
  { phase := .held, slot := 0, left := [], winner := none, pref := 0, confirmed := false, hdr := none, seen := [],
    staged := [], stagedBytes := 0, image := [], written := [], bistDone := false, placed := false, nlog := 0, fenceMax := 0,
    mkey := none, l1 := none, standalone := false, stepth := 1000000, activeSel := 0, ptp := PtpOpts.reset, sbxValid := none, retryAt := none,
    lastSeq := none, arbHeld := [], arbBusy := none, crossAt := none, fieldRecs := [], fieldPend := false }

/-- A flash command of XSP: erase or program, its flash address, and the page to program. -/
structure FlashCmd where
  erase : Bool
  addr : Nat
  page : List Byte
  deriving DecidableEq, Repr

/-- XSP beside its registers: the command running or suspended, and those waiting in the brace state (R711). -/
structure Xsp where
  run : Option FlashCmd
  waiting : List FlashCmd
  deriving DecidableEq, Repr

def Xsp.reset : Xsp := ⟨none, []⟩

/-! ### Chapter 11: Clearinghouse and Remit engine -/

/-- The responses of R591. -/
inductive Resp where
  | ok | err | lkerr
  deriving DecidableEq, Repr

/-- A transaction at a master port (R588): its burst, lock marking and target. -/
structure Txn where
  m : Master
  id : Nat
  wr : Bool
  addr : Nat
  size : Nat
  beats : Nat
  data : List Byte
  strobes : List Bool
  lock : LockMark
  target : Nat
  deriving DecidableEq, Repr

/-- A transaction that has its response: read data, and whether a master reset discards it (R605). -/
structure DoneTxn where
  txn : Txn
  resp : Resp
  data : List Byte
  discard : Bool
  deriving DecidableEq, Repr

/-- A lock on a target: its holder, the time its sequence began (R600) and the start of the transaction granted latest
under it: ID, write, address. -/
structure Lock where
  m : Master
  since : Nat
  id : Nat
  wr : Bool
  addr : Nat
  deriving DecidableEq, Repr

/-- The Clearinghouse beside its registers. -/
structure Clh where
  waiting : List Txn
  inflight : List DoneTxn
  /-- The master last granted at target t and priority p, at key 16t + p (R592). -/
  last : List (Nat × Nat)
  lockV : Option Lock
  lockS : Option Lock
  /-- Sequences forced open whose last transaction has not come: target 0 or 1, master and, of RMT, channel (R602). -/
  forced : List (Nat × (Master × Nat))
  /-- Masters and IDs under a master reset (R606); an empty list of IDs is all of them. -/
  resetting : List (Master × List Nat)
  /-- The Remit channel that the port last served at a priority (R624). -/
  rmtLast : List (Nat × Nat)
  /-- Requests that wait at a port whose IDs are under a master reset (R606). -/
  parked : List Txn
  deriving DecidableEq, Repr

def Clh.reset : Clh := ⟨[], [], [], none, none, [], [], [], []⟩

/-- Channel states of Table 11.7. -/
inductive RmtState where
  | idle | run | halting | halted | aborting | idleAtEnd | fault
  deriving DecidableEq, Repr

def RmtState.code : RmtState → Nat
  | .idle => 0
  | .run => 1
  | .halting => 2
  | .halted => 3
  | .aborting => 4
  | .idleAtEnd => 5
  | .fault => 6

/-- An active loop (R616): the addresses of its body and of the LOOP word, runs still to start, the current run. -/
structure RmtLoop where
  start : Nat
  word : Nat
  left : Nat
  run : Nat
  sstr : Int
  dstr : Int
  deriving DecidableEq, Repr

/-- What is left of a MOVE (R613, R615): addresses, bytes, which of them are fixed, and whether its writes are locked. -/
structure RmtMove where
  src : Nat
  dst : Nat
  len : Nat
  sfix : Bool
  dfix : Bool
  lk : Bool
  deriving DecidableEq, Repr

/-- One Remit channel beside its registers. -/
structure RmtCh where
  st : RmtState
  pc : Nat
  db : Bool
  complete : Bool
  aborted : Bool
  late : Bool
  cause : Nat
  loop : Option RmtLoop
  rem : Nat
  /-- Executed END with DB = 0; completion waits for its transactions (R627). -/
  ending : Bool
  /-- A WAIT holds the channel (R617). -/
  waiting : Bool
  /-- The MOVE in progress, between two of its bursts (R613, R629). -/
  mv : Option RmtMove
  /-- The earliest times of the channel's next bursts by target, under its rate limit (R625). -/
  next : List (Nat × Nat)
  deriving DecidableEq, Repr

def RmtCh.reset : RmtCh := ⟨.idle, 0, false, false, false, false, 0, none, 0, false, false, none, []⟩

/-! ### Chapter 12: SAP, Till, HSPI -/

/-- One serial audio port: the AUDIO edge on which its latest master alignment put the frame start of house sample 0,
and the folio of that sample (R648); in slave mode the frames received and not taken, oldest first, the frame taken
last, and the frames to send (R653); the output frames of the latest output folio of a master; the samples of its
slots for the latest input folio, at key 8 × slot + sample. -/
structure SapPort where
  al : Option (Int × Nat)
  rx : List (List Word)
  last : List Word
  tx : List (List Word)
  now : List (Nat × Word)
  /-- A frame to drop (true) or repeat (false) after a re-alignment, on the input and on the output (R650). -/
  slipIn : Option Bool
  slipOut : Option Bool
  deriving DecidableEq, Repr

def SapPort.reset : SapPort := ⟨none, [], [], [], [], none, none⟩

/-- One Till port: the receive FIFO (word, FIRST), XOFF, the last word read, whether the receive side discards until
FIRST, the folio bits of the last header, HOLD, the transmit FIFO with its FIRST marks, and the word sent latest. -/
structure TillPort where
  rx : List (Word × Bool)
  xoff : Bool
  lastWord : Word
  discard : Bool
  prevHdr : Option Nat
  hold : Bool
  tx : List (Word × Bool)
  sent : Option (Word × Bool)
  /-- The input channels of the frame last taken: 8 samples of each channel, at key 8c + j. -/
  samples : List (Nat × Word)
  /-- The tick at which the header of the frame being received crossed the interface, and the words of the frame received
  after it (R667). -/
  hdrAt : Nat
  pos : Nat
  deriving DecidableEq, Repr

def TillPort.reset : TillPort := ⟨[], false, 0, false, none, false, [], none, [], 0, 0⟩

/-- The host SPI bridge: posted writes held, oldest first, and the error flag since the last SYNC. -/
structure Hsp where
  posted : List (Nat × Word)
  errPend : Bool
  deriving DecidableEq, Repr

def Hsp.reset : Hsp := ⟨[], false⟩

/-! ### Chapter 10: districts and hinge pairs -/

/-- An ANNOUNCE heard: its content, source address and the time it was heard last. -/
structure Heard where
  flags : Nat
  src : Nat
  imgId : Word
  partner : Nat
  ntx : Nat
  at_ : Nat
  deriving DecidableEq, Repr

def Heard.none : Heard := ⟨0, 0, 0, 0xFFFF, 0, 0⟩

/-- The node's place in its district and venue. -/
structure Dis where
  /-- Claims heard: scope, claimant and the time heard last. -/
  claims : List ((Nat × Nat) × Nat)
  isD : Bool
  isV : Bool
  /-- ANNOUNCEs heard, by node. -/
  heard : List (Nat × Heard)
  /-- Registrars of districts 0 to 127 known from the venue CLAIM (65535 = none). -/
  regs : List (Nat × Nat)
  /-- Stream records held as district registrar, at key node × 512 + index. -/
  dir : List (Nat × StreamRec)
  /-- The address was found twice and this node gave way (R562). -/
  mute : Bool
  /-- Queries forwarded to another district's registrar: the TAG sent, the node that asked and its TAG. -/
  forwarded : List (Nat × (Nat × Nat))
  tag : Nat
  /-- Answers received, by stream ID. -/
  lookups : List (Nat × ReplyRec)
  /-- The CLAIM heard last in each scope: the claimant and when it came (R558). -/
  last : List (Nat × (Nat × Nat))
  /-- The registrar of each scope as the node noted it last; 65535 is none. -/
  known : List (Nat × Nat)
  deriving DecidableEq, Repr

def Dis.reset : Dis := ⟨[], false, false, [], [], [], false, [], 0, [], [], []⟩

/-- Hinge states of Table 10.4. -/
inductive HngState where
  | alone | pairing | paired | split | taken | yielded
  deriving DecidableEq, Repr

def HngState.code : HngState → Nat
  | .alone => 0
  | .pairing => 1
  | .paired => 2
  | .split => 3
  | .taken => 4
  | .yielded => 5

/-- The release sequence of R583: GIVE or RETURN, and the step it stands at. -/
inductive RelStep where
  | stopping | opening
  deriving DecidableEq, Repr

structure Release where
  give : Bool
  step : RelStep
  lines : Nat
  deriving DecidableEq, Repr

/-- The hinge logic beside its registers. Paths are numbered as in HNG_STATUS.PATHS: 0 = P2, 1 = P0, 2 = P1. -/
structure Hng where
  st : HngState
  decider : Bool
  synced : Bool
  nettko : Bool
  /-- HINGE accepted on P2 in consecutive folios, and the folio of the latest. -/
  run : Nat
  runFolio : Option Nat
  /-- Time of the last accepted HINGE on each path. -/
  last0 : Option Nat
  last1 : Option Nat
  last2 : Option Nat
  /-- Own checksums of recent output folios, newest first (R574). -/
  csums : List (Nat × Word)
  /-- The output folio whose partner checksum was compared latest. -/
  compared : Option Nat
  matches_ : Nat
  mismatches : Nat
  /-- The partner's latest HINGE. -/
  pSt : Nat
  pSynced : Bool
  pFieldOk : Bool
  /-- Medium transmit and receive timestamps per path (R509), in eighths of a tick. -/
  tx0 : Nat
  /-- The transmit timestamp before the latest on P2 (HNG_PDLY). -/
  txPrev0 : Nat
  tx1 : Nat
  tx2 : Nat
  rx0 : Nat
  rx1 : Nat
  rx2 : Nat
  /-- The phase of the RSC's hinge candidate, in eighths of a tick (Table 9.3). -/
  phase : Int
  /-- Runtime messages scheduled by CHANGE: effective folio and register writes (R576). -/
  changes : List (Nat × List CtrlAct)
  rel : Option Release
  relAt : Nat
  /-- Receipts of the partner that came before P(n): folio and concealed set. -/
  receipts : List (Nat × List Nat)
  /-- Partner frames accepted on P2 lately: stream index and output folio; and consecutive complete folios (R582). -/
  p2Seen : List (Nat × Nat)
  p2Run : Nat
  /-- The streams filled in the present folio. -/
  filled : List Nat
  deriving DecidableEq, Repr

def Hng.reset : Hng :=
  { st := .alone, decider := false, synced := false, nettko := false, run := 0, runFolio := none, last0 := none,
    last1 := none, last2 := none, csums := [], compared := none, matches_ := 0, mismatches := 0, pSt := 0, pSynced := false,
    pFieldOk := true, tx0 := 0, txPrev0 := 0, tx1 := 0, tx2 := 0, rx0 := 0, rx1 := 0, rx2 := 0, phase := 0, changes := [], rel := none, relAt := 0,
    receipts := [], p2Seen := [], p2Run := 0, filled := [] }

end Sys2Proof.Machine
end

