-- ==== Sys2Proof/Machine/PartsField.lean ====
section
/-! DEFINITION. The parts of State that belong to the Keyway and the field die (chapters 6 and 7): channels, boost
controllers, link, autonomy, fire inputs, Strongbox and override. -/

namespace Sys2Proof.Machine

/-! ### Chapter 6 -/

/-- Channel states, in the order of FPWM_CHST.STATE. -/
inductive ChSt where
  | off | start | run | stop | trip | probe | lockout | thermal
  deriving DecidableEq, Repr

def ChSt.code : ChSt → Nat
  | .off => 0
  | .start => 1
  | .run => 2
  | .stop => 3
  | .trip => 4
  | .probe => 5
  | .lockout => 6
  | .thermal => 7

/-- Where a channel stands in its start or stop sequence (R354, R355, R364). -/
inductive SeqPh where
  | none | hswt | waitRail | enable | hold50 | rampIn | playing | rampOut | stopHold | stopEn
  deriving DecidableEq, Repr

/-- A ramp of played samples, by house sample number 8m + j of output folio m: none, in over `len` samples from number
`n`, or out to 0 over the 8 samples from number `n`, where `v` is the last sample played, used if no audio comes. -/
inductive Fade where
  | on
  | up (n len : Nat)
  | out (n : Nat) (v : Int)
  deriving DecidableEq, Repr

/-- A playback: message, the house sample number of its first sample, repeating, gain code, and whether the built-in
tone plays in its place (R424). -/
structure Play where
  msg : Nat
  start : Nat
  rep : Bool
  gain : Nat
  tone : Bool
  deriving DecidableEq, Repr

/-- What a channel plays: host audio, nothing, a Strongbox message, or host audio as it was under a ramp of the
source, on its way out (R431). -/
inductive AudioSrc where
  | host
  | silence
  | message (p : Play)
  | ending (f : Fade)
  deriving DecidableEq, Repr

/-- One amplifier channel beside its registers. `err` is c of R337 in 2^-24 tick; `latches` are the times of its
latches, newest first; a pulse of `wa` ticks begins at tick `ta` of the period (R338). -/
structure Chan where
  st : ChSt
  ph : SeqPh
  /-- The sequence is that of a takeover start (HOLD50 = 4, RAMPIN = 8). -/
  tko : Bool
  /-- A ramp-out goes on to THERMAL instead of the stop sequence. -/
  hot : Bool
  en : Bool
  pwm : Bool
  div : Nat
  /-- Ticks from the period start of channel 0 to that of this channel (R341). -/
  stagger : Nat
  err : Int
  wa : Nat
  wb : Nat
  ta : Nat
  tb : Nat
  /-- The present period is an ILIM period, and consecutive ones so far. -/
  ilim : Bool
  ilimRun : Nat
  latches : List Nat
  /-- The ramps of the start or stop sequence, and of the audio source (R404, R412, R415, R429, R431). -/
  seq : Fade
  src : Fade
  /-- The source now, and the one that replaces it at a sample number, after 8 samples of ramp-out (R429, R431). -/
  cur : AudioSrc
  nxt : Option (Nat × AudioSrc)
  /-- A source that still ramps to 0 before the one now, and the sample number at which that one begins. -/
  prev : Option (Nat × AudioSrc)
  /-- The length of the ramp-in that the next accepted BLOCK begins (R404, R415). -/
  pend : Option Nat
  /-- The pilot plays: the sample numbers at which its ramp-in and its ramp-out begin (R376, R377). -/
  pilot : Bool
  pilUp : Nat
  pilOut : Option Nat
  /-- The pilot has played in the present 250 ms window (R378). -/
  pilWin : Bool
  /-- The latest envelope lies below SILTH (R376). -/
  quiet : Bool
  zlow : Nat
  zhigh : Nat
  /-- TEN has elapsed since EN rose (R356), and PROBET has not elapsed since the release of a retry (R372). -/
  fltOn : Bool
  probing : Bool
  /-- The sum of the squares of the sink's samples in the present 250 ms window, and how many they are (R375). -/
  sq : Nat
  sqN : Nat
  /-- The samples that have entered the interpolator of R336, newest first, and the number of the newest. -/
  win : List Int
  winAt : Nat
  deriving DecidableEq, Repr

def Chan.reset : Chan :=
  { st := .off, ph := .none, tko := false, hot := false, en := false, pwm := false, div := 556, stagger := 0, err := 0,
    wa := 0, wb := 0, ta := 0, tb := 0, ilim := false, ilimRun := 0, latches := [], seq := .on, src := .on, cur := .host,
    nxt := none, prev := none, pend := none,
    pilot := false, pilUp := 0, pilOut := none, pilWin := false, quiet := false, zlow := 0, zhigh := 0, fltOn := false, probing := false,
    sq := 0, sqN := 0, win := [], winAt := 0 }

/-- Boost controller states, in the order of FBST_ST.STATE. -/
inductive BstSt where
  | off | regulating | belowBus | ocWait | latched
  deriving DecidableEq, Repr

def BstSt.code : BstSt → Nat
  | .off => 0
  | .regulating => 1
  | .belowBus => 2
  | .ocWait => 3
  | .latched => 4

/-- One boost controller: set point in units of 1/10240 mV, rail in 50 mV, gate on, an over-current in the present
period and consecutive ones, times of its persistent over-currents, over-voltage. -/
structure Bst where
  st : BstSt
  set : Nat
  rail : Nat
  gate : Bool
  /-- Ticks from the period start of channel 2p to the rise of the gate (R333). -/
  gateAt : Nat
  oc : Bool
  ocRun : Nat
  ocTimes : List Nat
  ov : Bool
  deriving DecidableEq, Repr

/-- A controller after a field reset: off. -/
def Bst.reset : Bst := ⟨.off, 0, 0, false, 0, false, 0, [], false⟩

/-! ### Chapter 7 -/

/-- Link states of Table 7.1. -/
inductive LinkSt where
  | down | train | up
  deriving DecidableEq, Repr

def LinkSt.code : LinkSt → Nat
  | .down => 0
  | .train => 1
  | .up => 2

/-- A proxy access waiting or outstanding (R407): its Clearinghouse transaction if it came by one, the access, its TAG,
and whether its CMD has been launched. -/
structure Proxy where
  txn : Option Txn
  wr : Bool
  addr : Nat
  v : Word
  tag : Nat
  launched : Bool
  deriving DecidableEq, Repr

/-- A FAULT as logged: block, bit, channel and cause (KWY_FLOG). -/
structure FaultRec where
  blk : Nat
  bit : Nat
  chan : Nat
  cause : Nat
  deriving DecidableEq, Repr

/-- The host side of the Keyway beside the KWY registers. -/
structure Kwy where
  link : LinkSt
  txSeq : Nat
  /-- The last accepted SEQ; none before the first message after UP. -/
  rxSeq : Option Nat
  /-- Messages ready to launch, in order of queueing, those held, and those that the latest folio start made ready
  (R784). -/
  ready : List KwyMsg
  held : List KwyMsg
  first : List KwyMsg
  out : Option Proxy
  waiting : List Proxy
  tag : Nat
  log : List FaultRec
  logOvf : Bool
  /-- Arrival of the last accepted field HEARTBEAT. -/
  lastHb : Option Nat
  /-- SENSE samples last received, at key 8 × channel + sample, and the folio they belong to. -/
  sense : List (Nat × Word)
  senseFolio : Option Nat
  /-- The SENSE samples of earlier input folios, newest first (R406). -/
  sensed : List (Nat × List (Nat × Word))
  busyUntil : Nat
  /-- The message launched latest, and the F0 frame received latest. -/
  sent : Option KwyMsg
  frame : Option (List Byte)
  deriving DecidableEq, Repr

def Kwy.reset : Kwy :=
  { link := .down, txSeq := 0, rxSeq := none, ready := [], held := [], first := [], out := none, waiting := [], tag := 0, log := [],
    logOvf := false, lastHb := none, sense := [], senseFolio := none, sensed := [], busyUntil := 0,
    sent := none, frame := none }

/-- One fire input: candidate state and how often it was measured in a row (R419); states as in FFIN_STATE. -/
structure Fin_ where
  cand : Nat
  count : Nat
  deriving DecidableEq, Repr

def Fin_.reset : Fin_ := ⟨0, 0⟩

/-- A Strongbox message of the loaded index. -/
structure SbxMsg where
  off : Nat
  nsamp : Nat
  valid : Bool
  deriving DecidableEq, Repr

/-- What a claimed channel's message waits for (R429). -/
inductive OvrWait where
  | no | ramp | run
  deriving DecidableEq, Repr

/-- A channel under override (R429): the claiming entry, and what its message waits for. -/
structure OvrCh where
  entry : Nat
  wait : OvrWait
  deriving DecidableEq, Repr

/-- A Strongbox player: GO or STOP pending for the next field folio, and the playback, whose sample numbers count from
8 × field folio. -/
structure Player where
  go : Option Play
  stop : Bool
  play : Option Play
  deriving DecidableEq, Repr

def Player.reset : Player := ⟨none, false, none⟩

/-- The field die beside its registers. -/
structure Field where
  link : LinkSt
  txSeq : Nat
  rxSeq : Option Nat
  /-- Messages ready to launch, in order of queueing, those held, those that the latest field folio start made ready, and
  the time until which the lanes carry one. -/
  ready : List KwyMsg
  held : List KwyMsg
  first : List KwyMsg
  busyUntil : Nat
  /-- The message launched latest. -/
  sent : Option KwyMsg
  /-- Lane clock is present; the FIELD domain runs from the field oscillator (R33, R386). -/
  laneClock : Bool
  osc : Bool
  autonomy : Bool
  /-- Arrival of the last accepted host HEARTBEAT, and consecutive field folios with one (R414). -/
  lastHb : Option Nat
  recov : Nat
  hbSeen : Bool
  /-- Field folio and the time it started (R402). -/
  folio : Nat
  folioAt : Nat
  /-- BLOCKs accepted: output folio and samples at key 32j + c, newest first, at most three. -/
  blocks : List (Nat × List (Nat × Word))
  /-- The latest output folio whose BLOCK was accepted or found missing (R403, R404). -/
  lastBlock : Option Nat
  /-- Envelopes accepted, newest first: output folio, values at key c; and the needs formed from them in 50 mV. -/
  envs : List (Nat × List (Nat × Nat))
  needs : List (Nat × List (Nat × Nat))
  /-- The playback envelopes of channels under override: at the channel, folio, envelope and the need formed from it
  (R358). -/
  ovrNeeds : List (Nat × List (Nat × (Nat × Nat)))
  chans : List (Nat × Chan)
  bsts : List (Nat × Bst)
  /-- The dividers of the latest successful avoidance run, and a run in progress with its result. -/
  avoid : List Nat
  avdRun : Option (List Nat)
  fins : List (Nat × Fin_)
  loading : Bool
  msgs : List SbxMsg
  /-- Flash command in progress: erase, address. -/
  pg : Option (Bool × Nat)
  players : List (Nat × Player)
  /-- Override entries asserted, and held by LATCH after their input left active. -/
  asserted : Nat
  latched : Nat
  /-- A measurement of 155 °C or more stopped the channels, and none below 140 °C has come since (R743). -/
  overTemp : Bool
  /-- NTC inputs in temperature warning (Table 6.5). -/
  warm : Nat
  ovr : List (Nat × OvrCh)
  deriving DecidableEq, Repr

/-- The field die after a field reset: AUTONOMY on the field oscillator, link DOWN (R410, Table 7.1). -/
def Field.reset : Field :=
  { link := .down, txSeq := 0, rxSeq := none, ready := [], held := [], first := [], busyUntil := 0, sent := none, laneClock := false, osc := true,
    autonomy := true, lastHb := none, recov := 0, hbSeen := false, folio := 0, folioAt := 0, blocks := [],
    lastBlock := none, envs := [], needs := [], ovrNeeds := [], chans := [], bsts := [], avoid := [], avdRun := none, fins := [],
    loading := false, msgs := [], pg := none, players := [], asserted := 0, latched := 0, overTemp := false, warm := 0, ovr := [] }

end Sys2Proof.Machine
end

