-- ==== Sys2Proof/Machine/PartsNet.lean ====
section
/-! DEFINITION. The parts of State that belong to the network ports, DVT, AES67 and the field bus F0 (chapter 8). -/

namespace Sys2Proof.Machine

/-- One of P0 to P3 beside its MAC registers: frames queued (queue, frame; oldest first), frames held in its Steward
ring (R785), each with the medium timestamp of a PTP event message, the frame that left the port latest, the instant,
in eighths of a tick, until which the port is sending it, and its medium timestamp where one is taken (R509). -/
structure Port where
  queue : List (Nat × Frame)
  ring : List (Frame × Option Int)
  lastTx : Option Frame
  busy8 : Nat
  txAt : Option Int
  deriving DecidableEq, Repr

def Port.reset : Port := ⟨[], [], none, 0, none⟩

/-- One subscription beside its registers (R462 to R475): EN in force and one written, folios without a copy, lost, the
arrivals of recent folios (folio, port, arrival time), and the folios whose copy has been taken, with its port and arrival
time. -/
structure Sub where
  on : Bool
  pendEn : Option Bool
  miss : Nat
  lost : Bool
  copies : List (Nat × (Nat × Int))
  taken : List (Nat × (Nat × Int))
  /-- The first valid copies of recent folios by port, the early ones among them (R475). -/
  heard : List (Nat × (Nat × Int))
  /-- The latest skew and the largest since DVT_PSKMAX was read, in ns (R475). -/
  skew : Int
  skewMax : Nat
  deriving DecidableEq, Repr

def Sub.reset : Sub := ⟨false, none, 0, false, [], [], [], 0, 0⟩

/-- One transmit stream: sending, and a change with its first output folio (R468). -/
structure TxStream where
  on : Bool
  pend : Option (Bool × Nat)
  deriving DecidableEq, Repr

def TxStream.reset : TxStream := ⟨false, none⟩

/-- The samples of an accepted AES67 packet: the number of the first, how many, the arrival time, and the words,
channel by channel within each sample (R481). -/
structure A67Got where
  num : Nat
  cnt : Nat
  t : Int
  words : List Word
  deriving DecidableEq, Repr

/-- One AES67 stream: the sequence number received last, or to send next; samples of output folios not yet sent, and the
output folio taken latest (TX); the packets received whose samples may still be due (RX), newest first. -/
structure A67 where
  seq : Option Nat
  buf : List Word
  fol : Option Nat
  got : List A67Got
  deriving DecidableEq, Repr

def A67.reset : A67 := ⟨none, [], none, []⟩

/-- A frame selected for transmission on F0: its queue, collisions so far, and the slots of its back-off (R452, R453). -/
structure F0Tx where
  q : Nat
  frame : Frame
  coll : Nat
  backoff : Option Nat
  deriving DecidableEq, Repr

/-- F0 on the field die: queued frames, the frame selected, the generator (none: still at its seed). -/
structure F0 where
  queue : List (Nat × Frame)
  sel : Option F0Tx
  lfsr : Option Word
  deriving DecidableEq, Repr

def F0.reset : F0 := ⟨[], none, none⟩

/-- Ports, streams, AES67 and F0. -/
structure Net where
  ports : List (Nat × Port)
  subs : List (Nat × Sub)
  txs : List (Nat × TxStream)
  arx : List (Nat × A67)
  atx : List (Nat × A67)
  f0 : F0
  deriving DecidableEq, Repr

def Net.reset : Net := ⟨[], [], [], [], [], F0.reset⟩

end Sys2Proof.Machine
end

