-- ==== Sys2Proof/Machine/RegMap.lean ====
section
/-! DEFINITION. Every register of the spec: its address (Table 1.8, Table 1.9 and the register tables of each chapter),
the access type of each of its bits (R23, Table 0.5) and its reset value (R27). Transcribed from the register tables. -/

namespace Sys2Proof.Machine

/-- One register, or an array of `count` registers `stride` bytes apart, with one bit mask for each access type of
Table 0.5 and the value the Reset column gives. -/
structure RegSpec where
  base : Nat
  count : Nat
  stride : Nat
  rw : Nat
  w1c : Nat
  w1s : Nat
  rc : Nat
  wo : Nat
  ro : Nat
  reset : Nat
  deriving DecidableEq, Repr

/-! ### Register addresses -/

abbrev Reg.SYS_ID : Nat := 0x60000000
abbrev Reg.SYS_RSTCAUSE : Nat := 0x60000004
abbrev Reg.SYS_RST : Nat := 0x60000008
abbrev Reg.SYS_EVT : Nat := 0x6000000C
abbrev Reg.SYS_WDOG : Nat := 0x60000010
abbrev Reg.SYS_WDKICK : Nat := 0x60000014
abbrev Reg.SYS_SCRUB : Nat := 0x60000018
abbrev Reg.SYS_TEMP : Nat := 0x6000001C
abbrev Reg.SYS_ECCADDR : Nat := 0x60000020
abbrev Reg.SYS_CNT_ECCC : Nat := 0x60000024
abbrev Reg.SYS_CNT_ECCU : Nat := 0x60000028
abbrev Reg.SYS_CNT_STWRST : Nat := 0x6000002C
abbrev Reg.PWR_CTRL : Nat := 0x60010000
abbrev Reg.PWR_STATUS : Nat := 0x60010004
abbrev Reg.PWR_EVT : Nat := 0x60010008
abbrev Reg.PWR_SUP : Nat := 0x6001000C
abbrev Reg.PWR_CNT_BRACE : Nat := 0x60010010
abbrev Reg.PWR_BRMAX : Nat := 0x60010014
abbrev Reg.CLK_STATUS : Nat := 0x60020000
abbrev Reg.CLK_EVT : Nat := 0x60020004
abbrev Reg.CLK_XO : Nat := 0x60020008
abbrev Reg.CLK_CDCST : Nat := 0x6002000C
abbrev Reg.RSC_CTRL : Nat := 0x60030000
abbrev Reg.RSC_STATUS : Nat := 0x60030004
abbrev Reg.RSC_EVT : Nat := 0x60030008
abbrev Reg.RSC_WTR : Nat := 0x6003000C
abbrev Reg.RSC_PDOUT : Nat := 0x60030010
abbrev Reg.RSC_NCO : Nat := 0x60030014
abbrev Reg.RSC_HOFREQ : Nat := 0x60030018
abbrev Reg.RSC_BOFS : Nat := 0x6003001C
abbrev Reg.RSC_CCFG (i : Nat) : Nat := 0x60030100 + 16 * i
abbrev Reg.RSC_CLIM (i : Nat) : Nat := 0x60030104 + 16 * i
abbrev Reg.RSC_CST (i : Nat) : Nat := 0x60030108 + 16 * i
abbrev Reg.RSC_CDEV (i : Nat) : Nat := 0x6003010C + 16 * i
abbrev Reg.TIM_CTRL : Nat := 0x60040000
abbrev Reg.TIM_STATUS : Nat := 0x60040004
abbrev Reg.TIM_EVT : Nat := 0x60040008
abbrev Reg.TIM_TCNT_LO : Nat := 0x60040010
abbrev Reg.TIM_TCNT_HI : Nat := 0x60040014
abbrev Reg.TIM_SNAP : Nat := 0x60040018
abbrev Reg.TIM_SNAPSEL : Nat := 0x6004001C
abbrev Reg.TIM_SNAPW (i : Nat) : Nat := 0x60040020 + 4 * i
abbrev Reg.TIM_JUNC_NS : Nat := 0x60040040
abbrev Reg.TIM_JUNC_FRAC : Nat := 0x60040044
abbrev Reg.TIM_SEC_LO (i : Nat) : Nat := 0x60040100 + 64 * i
abbrev Reg.TIM_SEC_HI (i : Nat) : Nat := 0x60040104 + 64 * i
abbrev Reg.TIM_NS (i : Nat) : Nat := 0x60040108 + 64 * i
abbrev Reg.TIM_FRAC (i : Nat) : Nat := 0x6004010C + 64 * i
abbrev Reg.TIM_RATE_LO (i : Nat) : Nat := 0x60040110 + 64 * i
abbrev Reg.TIM_RATE_HI (i : Nat) : Nat := 0x60040114 + 64 * i
abbrev Reg.TIM_ADJ (i : Nat) : Nat := 0x60040118 + 64 * i
abbrev Reg.TIM_VCMD (i : Nat) : Nat := 0x6004011C + 64 * i
abbrev Reg.TIM_SLEWR (i : Nat) : Nat := 0x60040120 + 64 * i
abbrev Reg.TIM_SLEWREM (i : Nat) : Nat := 0x60040124 + 64 * i
abbrev Reg.TIM_RXLAT (i : Nat) : Nat := 0x60040200 + 4 * i
abbrev Reg.TIM_TXLAT (i : Nat) : Nat := 0x60040210 + 4 * i
abbrev Reg.TIM_PTPCFG : Nat := 0x60040220
abbrev Reg.TIM_SRVA : Nat := 0x60040230
abbrev Reg.TIM_SRVB : Nat := 0x60040234
abbrev Reg.TIM_PULSE : Nat := 0x60040300
abbrev Reg.TIM_PPSW : Nat := 0x60040304
abbrev Reg.TIM_ALIGN : Nat := 0x60040308
abbrev Reg.TIM_MISTH : Nat := 0x6004030C
abbrev Reg.TIM_MISPPS : Nat := 0x60040310
abbrev Reg.TIM_MISWCK : Nat := 0x60040314
abbrev Reg.TIM_MISFOL : Nat := 0x60040318
abbrev Reg.EVT_RAW (i : Nat) : Nat := 0x60050000 + 4 * i
abbrev Reg.EVT_MASK (i : Nat) : Nat := 0x60050010 + 4 * i
abbrev Reg.EVT_FMASK (i : Nat) : Nat := 0x60050020 + 4 * i
abbrev Reg.EVT_SMASK (i : Nat) : Nat := 0x60050030 + 4 * i
abbrev Reg.EVT_SWSET : Nat := 0x60050040
abbrev Reg.EVT_SWCLR : Nat := 0x60050044
abbrev Reg.EVT_SUM : Nat := 0x60050048
abbrev Reg.EVT_CTRL : Nat := 0x6005004C
abbrev Reg.EVT_PIN : Nat := 0x60050050
abbrev Reg.SEC_STATUS : Nat := 0x60060000
abbrev Reg.SEC_BOOTST : Nat := 0x60060004
abbrev Reg.SEC_EVT : Nat := 0x60060008
abbrev Reg.SEC_ARBCMD : Nat := 0x6006000C
abbrev Reg.SEC_IMGVER : Nat := 0x60060010
abbrev Reg.SEC_SERLO : Nat := 0x60060014
abbrev Reg.SEC_SERHI : Nat := 0x60060018
abbrev Reg.SEC_KEYHASH (i : Nat) : Nat := 0x60060020 + 4 * i
abbrev Reg.PST_CTRL : Nat := 0x60080000
abbrev Reg.PST_STATUS : Nat := 0x60080004
abbrev Reg.PST_FOLIO_LO : Nat := 0x60080008
abbrev Reg.PST_FOLIO_HI : Nat := 0x6008000C
abbrev Reg.PST_CUT : Nat := 0x60080010
abbrev Reg.PST_WIN : Nat := 0x60080014
abbrev Reg.PST_EVT : Nat := 0x60080018
abbrev Reg.PST_CNT (i : Nat) : Nat := 0x60080020 + 4 * i
abbrev Reg.PST_REVMAX : Nat := 0x60080040
abbrev Reg.PST_TAP (i : Nat) : Nat := 0x60080050 + 4 * i
abbrev Reg.PST_TAPST (i : Nat) : Nat := 0x60080060 + 4 * i
abbrev Reg.PST_CMODE (i : Nat) : Nat := 0x60080400 + 4 * i
abbrev Reg.PST_LATEMAP (i : Nat) : Nat := 0x60080500 + 4 * i
abbrev Reg.PST_RCPT_FOLIO_LO : Nat := 0x60080600
abbrev Reg.PST_RCPT_FOLIO_HI : Nat := 0x60080604
abbrev Reg.PST_RCPT_CONC (i : Nat) : Nat := 0x60080700 + 4 * i
abbrev Reg.PST_RCPT_REENT (i : Nat) : Nat := 0x60080800 + 4 * i
abbrev Reg.PST_TAPBUF (i : Nat) : Nat := 0x60088000 + 4 * i
abbrev Reg.LDG_CTRL : Nat := 0x60090000
abbrev Reg.LDG_STATUS : Nat := 0x60090004
abbrev Reg.LDG_EVT : Nat := 0x60090008
abbrev Reg.LDG_PASS : Nat := 0x6009000C
abbrev Reg.LDG_CHGX : Nat := 0x60090010
abbrev Reg.LDG_CHGV : Nat := 0x60090014
abbrev Reg.LDG_ECCADDR : Nat := 0x60090018
abbrev Reg.LDG_RMSEL : Nat := 0x6009001C
abbrev Reg.LDG_RMLO : Nat := 0x60090020
abbrev Reg.LDG_RMHI : Nat := 0x60090024
abbrev Reg.LDG_REPT : Nat := 0x60090030
abbrev Reg.LDG_REPTB : Nat := 0x60090034
abbrev Reg.LDG_REPTST : Nat := 0x60090038
abbrev Reg.LDG_CNT_SAT : Nat := 0x60090040
abbrev Reg.LDG_CNT_ECCC : Nat := 0x60090044
abbrev Reg.LDG_CNT_ECCU : Nat := 0x60090048
abbrev Reg.LDG_RAMPT (i : Nat) : Nat := 0x60090100 + 4 * i
abbrev Reg.LDG_BIND (i : Nat) : Nat := 0x60092000 + 4 * i
abbrev Reg.TEL_CTRL : Nat := 0x600A0000
abbrev Reg.TEL_CLST : Nat := 0x600A0004
abbrev Reg.TEL_EVT : Nat := 0x600A0008
abbrev Reg.TEL_SWEV : Nat := 0x600A000C
abbrev Reg.TEL_FLT0 : Nat := 0x600A0010
abbrev Reg.TEL_FLT1 : Nat := 0x600A0014
abbrev Reg.TEL_FLT2 : Nat := 0x600A0018
abbrev Reg.TEL_SATLO : Nat := 0x600A0020
abbrev Reg.TEL_SATHI : Nat := 0x600A0024
abbrev Reg.TEL_CTXSEL : Nat := 0x600A0030
abbrev Reg.TEL_CTXST : Nat := 0x600A0034
abbrev Reg.TEL_CTXLAST : Nat := 0x600A0038
abbrev Reg.TEL_CTXMAX : Nat := 0x600A003C
abbrev Reg.TEL_CTXCMD : Nat := 0x600A0040
abbrev Reg.TEL_SWAP : Nat := 0x600A0050
abbrev Reg.TEL_SWAPF : Nat := 0x600A0054
abbrev Reg.TEL_SWAPGO : Nat := 0x600A0058
abbrev Reg.TEL_SWAPST : Nat := 0x600A005C
abbrev Reg.TEL_MAP (i : Nat) : Nat := 0x600A0100 + 4 * i
abbrev Reg.TEL_LOAD (i : Nat) : Nat := 0x600A0200 + 4 * i
abbrev Reg.EXC_CTRL : Nat := 0x600B0000
abbrev Reg.EXC_STATUS : Nat := 0x600B0004
abbrev Reg.EXC_EVT : Nat := 0x600B0008
abbrev Reg.EXC_CHSEL : Nat := 0x600B0010
abbrev Reg.EXC_CHST : Nat := 0x600B0014
abbrev Reg.EXC_RATE : Nat := 0x600B0018
abbrev Reg.EXC_CNT_SLIP : Nat := 0x600B0020
abbrev Reg.EXC_CNT_LOSS : Nat := 0x600B0024
abbrev Reg.EXC_CFG (i : Nat) : Nat := 0x600B1000 + 4 * i
abbrev Reg.OUT_STATUS : Nat := 0x600D0004
abbrev Reg.OUT_EVT : Nat := 0x600D0008
abbrev Reg.OUT_SEL : Nat := 0x600D0010
abbrev Reg.OUT_SST : Nat := 0x600D0014
abbrev Reg.OUT_SGAIN : Nat := 0x600D0018
abbrev Reg.OUT_CNT_CLIP : Nat := 0x600D0020
abbrev Reg.OUT_CNT_ECCU : Nat := 0x600D0024
abbrev Reg.OUT_ATK (i : Nat) : Nat := 0x600D0100 + 4 * i
abbrev Reg.OUT_REL (i : Nat) : Nat := 0x600D0140 + 4 * i
abbrev Reg.OUT_HBC (i : Nat) : Nat := 0x600D0200 + 4 * i
abbrev Reg.OUT_DLY (i : Nat) : Nat := 0x600D1000 + 4 * i
abbrev Reg.OUT_DCFG (i : Nat) : Nat := 0x600D3800 + 4 * i
abbrev Reg.OUT_DLEN (i : Nat) : Nat := 0x600D6000 + 4 * i
abbrev Reg.OUT_LIM (i : Nat) : Nat := 0x600D8800 + 4 * i
abbrev Reg.OUT_THR (i : Nat) : Nat := 0x600DB000 + 4 * i
abbrev Reg.OUT_FMT (i : Nat) : Nat := 0x600DD800 + 4 * i
abbrev Reg.MAC_CFG (p : Nat) : Nat := 0x60100000 + 0x10000 * p
abbrev Reg.MAC_STATUS (p : Nat) : Nat := 0x60100004 + 0x10000 * p
abbrev Reg.MAC_EVT (p : Nat) : Nat := 0x60100008 + 0x10000 * p
abbrev Reg.MAC_ADDRLO (p : Nat) : Nat := 0x6010000C + 0x10000 * p
abbrev Reg.MAC_ADDRHI (p : Nat) : Nat := 0x60100010 + 0x10000 * p
abbrev Reg.MAC_IPADDR (p : Nat) : Nat := 0x60100014 + 0x10000 * p
abbrev Reg.MAC_HRLO (p : Nat) : Nat := 0x60100020 + 0x10000 * p
abbrev Reg.MAC_HRHI (p : Nat) : Nat := 0x60100024 + 0x10000 * p
abbrev Reg.MAC_CNT (p i : Nat) : Nat := 0x60100100 + 0x10000 * p + 4 * i
abbrev Reg.DVT_CTRL : Nat := 0x60140000
abbrev Reg.DVT_STATUS : Nat := 0x60140004
abbrev Reg.DVT_EVT : Nat := 0x60140008
abbrev Reg.DVT_UDP : Nat := 0x6014000C
abbrev Reg.DVT_PSEL : Nat := 0x60140010
abbrev Reg.DVT_PSKEW : Nat := 0x60140014
abbrev Reg.DVT_PSKMAX : Nat := 0x60140018
abbrev Reg.DVT_CNT (i : Nat) : Nat := 0x60140020 + 4 * i
abbrev Reg.DVT_RXID (i : Nat) : Nat := 0x60141000 + 8 * i
abbrev Reg.DVT_RXMAP (i : Nat) : Nat := 0x60141004 + 8 * i
abbrev Reg.DVT_TXCFG (i : Nat) : Nat := 0x60142000 + 16 * i
abbrev Reg.DVT_TXDALO (i : Nat) : Nat := 0x60142004 + 16 * i
abbrev Reg.DVT_TXDAHI (i : Nat) : Nat := 0x60142008 + 16 * i
abbrev Reg.DVT_TXIP (i : Nat) : Nat := 0x6014200C + 16 * i
abbrev Reg.DVT_TXMAP (i : Nat) : Nat := 0x60144000 + 4 * i
abbrev Reg.DVT_PLOSS (i : Nat) : Nat := 0x60147000 + 4 * i
abbrev Reg.DVT_A67RXCFG (i : Nat) : Nat := 0x60148000 + 32 * i
abbrev Reg.DVT_A67RXADDR (i : Nat) : Nat := 0x60148004 + 32 * i
abbrev Reg.DVT_A67RXPORT (i : Nat) : Nat := 0x60148008 + 32 * i
abbrev Reg.DVT_A67RXSSRC (i : Nat) : Nat := 0x6014800C + 32 * i
abbrev Reg.DVT_A67RXOFS (i : Nat) : Nat := 0x60148010 + 32 * i
abbrev Reg.DVT_A67TXCFG (i : Nat) : Nat := 0x60148200 + 32 * i
abbrev Reg.DVT_A67TXADDR (i : Nat) : Nat := 0x60148204 + 32 * i
abbrev Reg.DVT_A67TXPORT (i : Nat) : Nat := 0x60148208 + 32 * i
abbrev Reg.DVT_A67TXSSRC (i : Nat) : Nat := 0x6014820C + 32 * i
abbrev Reg.DVT_A67TXOFS (i : Nat) : Nat := 0x60148210 + 32 * i
abbrev Reg.DVT_A67TXMAP (i : Nat) : Nat := 0x60148400 + 4 * i
abbrev Reg.HNG_CTRL : Nat := 0x60150000
abbrev Reg.HNG_CFG : Nat := 0x60150004
abbrev Reg.HNG_STATUS : Nat := 0x60150008
abbrev Reg.HNG_EVT : Nat := 0x6015000C
abbrev Reg.HNG_OWN : Nat := 0x60150010
abbrev Reg.HNG_LINES : Nat := 0x60150014
abbrev Reg.HNG_CMD : Nat := 0x60150018
abbrev Reg.HNG_IMGID : Nat := 0x6015001C
abbrev Reg.HNG_CSUM : Nat := 0x60150020
abbrev Reg.HNG_PCSUM : Nat := 0x60150024
abbrev Reg.HNG_PDLY : Nat := 0x60150028
abbrev Reg.HNG_CNT_FILL : Nat := 0x60150030
abbrev Reg.HNG_CNT_NORCPT : Nat := 0x60150034
abbrev Reg.HNG_CNT_CSMIS : Nat := 0x60150038
abbrev Reg.DIS_ADDR : Nat := 0x60160000
abbrev Reg.DIS_CFG : Nat := 0x60160004
abbrev Reg.DIS_STATUS : Nat := 0x60160008
abbrev Reg.DIS_VREG : Nat := 0x6016000C
abbrev Reg.DIS_EVT : Nat := 0x60160010
abbrev Reg.DIS_MCLO : Nat := 0x60160014
abbrev Reg.DIS_MCHI : Nat := 0x60160018
abbrev Reg.DIS_NREC : Nat := 0x6016001C
abbrev Reg.DIS_CNT_CBAD : Nat := 0x60160020
abbrev Reg.CLH_EVT : Nat := 0x60180000
abbrev Reg.CLH_ERRINFO : Nat := 0x60180004
abbrev Reg.CLH_ERRADDR : Nat := 0x60180008
abbrev Reg.CLH_CNT_ERR : Nat := 0x6018000C
abbrev Reg.CLH_LKST : Nat := 0x60180010
abbrev Reg.CLH_MST (i : Nat) : Nat := 0x60180100 + 4 * i
abbrev Reg.CLH_PRILO (i : Nat) : Nat := 0x60180200 + 8 * i
abbrev Reg.CLH_PRIHI (i : Nat) : Nat := 0x60180204 + 8 * i
abbrev Reg.RMT_CTRL : Nat := 0x60190000
abbrev Reg.RMT_STATUS : Nat := 0x60190004
abbrev Reg.RMT_EVT : Nat := 0x60190008
abbrev Reg.RMT_DBELL : Nat := 0x6019000C
abbrev Reg.RMT_FENCE : Nat := 0x60190010
abbrev Reg.RMT_FLAG : Nat := 0x60190014
abbrev Reg.RMT_TSIG : Nat := 0x60190018
abbrev Reg.RMT_EVT2 : Nat := 0x6019001C
abbrev Reg.RMT_CFG (i : Nat) : Nat := 0x60190100 + 32 * i
abbrev Reg.RMT_PC (i : Nat) : Nat := 0x60190104 + 32 * i
abbrev Reg.RMT_CMD (i : Nat) : Nat := 0x60190108 + 32 * i
abbrev Reg.RMT_ST (i : Nat) : Nat := 0x6019010C + 32 * i
abbrev Reg.RMT_REM (i : Nat) : Nat := 0x60190110 + 32 * i
abbrev Reg.RMT_BYTES (i : Nat) : Nat := 0x60190114 + 32 * i
abbrev Reg.SAP_EVT : Nat := 0x601A0000
abbrev Reg.SAP_ALIGN : Nat := 0x601A0004
abbrev Reg.SAP_CNT_SLIP : Nat := 0x601A0008
abbrev Reg.SAP_CFG (i : Nat) : Nat := 0x601A0100 + 8 * i
abbrev Reg.SAP_ST (i : Nat) : Nat := 0x601A0104 + 8 * i
abbrev Reg.SAP_OMAP (i : Nat) : Nat := 0x601A1000 + 4 * i
abbrev Reg.TIL_EVT : Nat := 0x601B0000
abbrev Reg.TIL_CFG (i : Nat) : Nat := 0x601B0100 + 16 * i
abbrev Reg.TIL_WM (i : Nat) : Nat := 0x601B0104 + 16 * i
abbrev Reg.TIL_ST (i : Nat) : Nat := 0x601B0108 + 16 * i
abbrev Reg.TIL_TXMAP (i : Nat) : Nat := 0x601B1000 + 4 * i
abbrev Reg.HSP_EVT : Nat := 0x601C0000
abbrev Reg.HSP_STATUS : Nat := 0x601C0004
abbrev Reg.HSP_ERRADDR : Nat := 0x601C0008
abbrev Reg.HSP_CNT_WERR : Nat := 0x601C000C
abbrev Reg.XSP_STATUS : Nat := 0x601D0000
abbrev Reg.XSP_EVT : Nat := 0x601D0004
abbrev Reg.XSP_SIZE : Nat := 0x601D0008
abbrev Reg.XSP_PROT : Nat := 0x601D000C
abbrev Reg.XSP_ADDR : Nat := 0x601D0010
abbrev Reg.XSP_CMD : Nat := 0x601D0014
abbrev Reg.XSP_BUF (i : Nat) : Nat := 0x601D0100 + 4 * i
abbrev Reg.KWY_CTRL : Nat := 0x601E0000
abbrev Reg.KWY_STATUS : Nat := 0x601E0004
abbrev Reg.KWY_EVT : Nat := 0x601E0008
abbrev Reg.KWY_LD : Nat := 0x601E000C
abbrev Reg.KWY_FEVT : Nat := 0x601E0010
abbrev Reg.KWY_FLOG : Nat := 0x601E0014
abbrev Reg.KWY_FSTAT0 : Nat := 0x601E0018
abbrev Reg.KWY_FSTAT1 : Nat := 0x601E001C
abbrev Reg.KWY_CNT (i : Nat) : Nat := 0x601E0020 + 4 * i
abbrev Reg.FSYS_ID : Nat := 0x70000000
abbrev Reg.FSYS_STATUS : Nat := 0x70000004
abbrev Reg.FSYS_EVT : Nat := 0x70000008
abbrev Reg.FSYS_AUT : Nat := 0x7000000C
abbrev Reg.FSYS_SUP : Nat := 0x70000010
abbrev Reg.FPWM_CTRL : Nat := 0x70010000
abbrev Reg.FPWM_RANGE : Nat := 0x70010004
abbrev Reg.FPWM_AVD : Nat := 0x70010008
abbrev Reg.FPWM_AVDST : Nat := 0x7001000C
abbrev Reg.FPWM_EVT : Nat := 0x70010010
abbrev Reg.FPWM_TIM : Nat := 0x70010014
abbrev Reg.FPWM_RAMP : Nat := 0x70010018
abbrev Reg.FPWM_HSW : Nat := 0x70010020
abbrev Reg.FPWM_TKO : Nat := 0x70010028
abbrev Reg.FPWM_PROT (i : Nat) : Nat := 0x70010100 + 4 * i
abbrev Reg.FPWM_CHCFG (i : Nat) : Nat := 0x70010400 + 4 * i
abbrev Reg.FPWM_CHCMD (i : Nat) : Nat := 0x70010480 + 4 * i
abbrev Reg.FPWM_CHST (i : Nat) : Nat := 0x70010500 + 4 * i
abbrev Reg.FBST_CTRL : Nat := 0x70020000
abbrev Reg.FBST_LIM : Nat := 0x70020004
abbrev Reg.FBST_SLEW : Nat := 0x70020008
abbrev Reg.FBST_PROT : Nat := 0x7002000C
abbrev Reg.FBST_EVT : Nat := 0x70020010
abbrev Reg.FBST_BUS : Nat := 0x70020014
abbrev Reg.FBST_ST (i : Nat) : Nat := 0x70020100 + 4 * i
abbrev Reg.FPRO_EVT : Nat := 0x70030000
abbrev Reg.FPRO_CFG : Nat := 0x70030004
abbrev Reg.FPRO_DCOV : Nat := 0x70030008
abbrev Reg.FPRO_NTC : Nat := 0x7003000C
abbrev Reg.FPRO_LOCK : Nat := 0x70030010
abbrev Reg.FPRO_THR (i : Nat) : Nat := 0x70030100 + 4 * i
abbrev Reg.FPRO_CHST (i : Nat) : Nat := 0x70030200 + 4 * i
abbrev Reg.FMON_CTRL : Nat := 0x70040000
abbrev Reg.FMON_EVT : Nat := 0x70040004
abbrev Reg.FMON_ELK : Nat := 0x70040008
abbrev Reg.FMON_ZK (i : Nat) : Nat := 0x70040100 + 4 * i
abbrev Reg.FMON_ZLIM (i : Nat) : Nat := 0x70040200 + 4 * i
abbrev Reg.FMON_Z (i : Nat) : Nat := 0x70040300 + 4 * i
abbrev Reg.FFIN_CFG : Nat := 0x70050000
abbrev Reg.FFIN_THR : Nat := 0x70050004
abbrev Reg.FFIN_STATE : Nat := 0x70050008
abbrev Reg.FFIN_EVT : Nat := 0x7005000C
abbrev Reg.FFIN_FOUT : Nat := 0x70050010
abbrev Reg.FFIN_RES (i : Nat) : Nat := 0x70050100 + 4 * i
abbrev Reg.FSBX_STATUS : Nat := 0x70060000
abbrev Reg.FSBX_EVT : Nat := 0x70060004
abbrev Reg.FSBX_VALIDLO : Nat := 0x70060008
abbrev Reg.FSBX_VALIDHI : Nat := 0x7006000C
abbrev Reg.FSBX_CMD : Nat := 0x70060010
abbrev Reg.FSBX_OVRST : Nat := 0x70060014
abbrev Reg.FSBX_PGADDR : Nat := 0x70060020
abbrev Reg.FSBX_PGCMD : Nat := 0x70060024
abbrev Reg.FSBX_PGBUF (i : Nat) : Nat := 0x70060100 + 4 * i
abbrev Reg.FSBX_OVR (i : Nat) : Nat := 0x70060200 + 4 * i
abbrev Reg.FSBX_OVRCH (i : Nat) : Nat := 0x70060220 + 4 * i
abbrev Reg.FSBX_PLAY (i : Nat) : Nat := 0x70060240 + 4 * i
abbrev Reg.FBUS_CTRL : Nat := 0x70070000
abbrev Reg.FBUS_ADDRLO : Nat := 0x70070004
abbrev Reg.FBUS_ADDRHI : Nat := 0x70070008
abbrev Reg.FBUS_EVT : Nat := 0x7007000C
abbrev Reg.FBUS_HRLO : Nat := 0x70070020
abbrev Reg.FBUS_HRHI : Nat := 0x70070024
abbrev Reg.FBUS_CNT (i : Nat) : Nat := 0x70070100 + 4 * i
abbrev Reg.FKWY_STATUS : Nat := 0x70080000
abbrev Reg.FKWY_EVT : Nat := 0x70080004
abbrev Reg.FKWY_CNT (i : Nat) : Nat := 0x70080020 + 4 * i

/-- Block SYS: base, count, stride; RW, W1C, W1S, RC, WO, RO masks; reset. -/
def regsSYS : List RegSpec := [
  ⟨0x60000000, 1, 4, 0x0, 0x0, 0x0, 0x0, 0x0, 0xFFFFFFF0, 0x25600000⟩,
  ⟨0x60000004, 1, 4, 0x0, 0x0, 0x0, 0x0, 0x0, 0xFF000000, 0x0⟩,
  ⟨0x60000008, 1, 4, 0x0, 0x0, 0x0, 0x0, 0xFF03, 0x0, 0x0⟩,
  ⟨0x6000000C, 1, 4, 0x0, 0x7F, 0x0, 0x0, 0x0, 0x0, 0x0⟩,
  ⟨0x60000010, 1, 4, 0xC00003FF, 0x0, 0x0, 0x0, 0x0, 0x0, 0x80000064⟩,
  ⟨0x60000014, 1, 4, 0x0, 0x0, 0x0, 0x0, 0xFF, 0x0, 0x0⟩,
  ⟨0x60000018, 1, 4, 0xFF, 0x0, 0x0, 0x0, 0x0, 0x0, 0x10⟩,
  ⟨0x6000001C, 1, 4, 0x0, 0x0, 0x0, 0xFFF0000, 0x0, 0xFFF, 0x0⟩,
  ⟨0x60000020, 1, 4, 0x0, 0x0, 0x0, 0x0, 0x0, 0xFFFFFFFF, 0x0⟩,
  ⟨0x60000024, 1, 4, 0x0, 0x0, 0x0, 0x0, 0x0, 0xFFFFFFFF, 0x0⟩,
  ⟨0x60000028, 1, 4, 0x0, 0x0, 0x0, 0x0, 0x0, 0xFFFFFFFF, 0x0⟩,
  ⟨0x6000002C, 1, 4, 0x0, 0x0, 0x0, 0x0, 0x0, 0xFFFFFFFF, 0x0⟩]

/-- Block PWR: base, count, stride; RW, W1C, W1S, RC, WO, RO masks; reset. -/
def regsPWR : List RegSpec := [
  ⟨0x60010000, 1, 4, 0xFF, 0x0, 0x0, 0x0, 0x0, 0x0, 0x0⟩,
  ⟨0x60010004, 1, 4, 0x0, 0x0, 0x0, 0x0, 0x0, 0xC000FFFF, 0x0⟩,
  ⟨0x60010008, 1, 4, 0x0, 0xF, 0x0, 0x0, 0x0, 0x0, 0x0⟩,
  ⟨0x6001000C, 1, 4, 0x0, 0x3F0000, 0x0, 0x0, 0x0, 0x3F, 0x0⟩,
  ⟨0x60010010, 1, 4, 0x0, 0x0, 0x0, 0x0, 0x0, 0xFFFFFFFF, 0x0⟩,
  ⟨0x60010014, 1, 4, 0x0, 0x0, 0x0, 0xFFFFFFFF, 0x0, 0x0, 0x0⟩]

/-- Block CLK: base, count, stride; RW, W1C, W1S, RC, WO, RO masks; reset. -/
def regsCLK : List RegSpec := [
  ⟨0x60020000, 1, 4, 0x0, 0x0, 0x0, 0x0, 0x0, 0x3FF, 0x0⟩,
  ⟨0x60020004, 1, 4, 0x0, 0x7, 0x0, 0x0, 0x0, 0x0, 0x0⟩,
  ⟨0x60020008, 1, 4, 0x8000FFFF, 0x0, 0x0, 0x0, 0x0, 0x0, 0x1388⟩,
  ⟨0x6002000C, 1, 4, 0x0, 0x3F, 0x0, 0x0, 0x0, 0x0, 0x0⟩]

/-- Block RSC: base, count, stride; RW, W1C, W1S, RC, WO, RO masks; reset. -/
def regsRSC : List RegSpec := [
  ⟨0x60030000, 1, 4, 0xFF0F77, 0x0, 0x0, 0x0, 0x0, 0x0, 0xA0301⟩,
  ⟨0x60030004, 1, 4, 0x0, 0x0, 0x0, 0x0, 0x0, 0x777, 0x70⟩,
  ⟨0x60030008, 1, 4, 0x0, 0x7F, 0x0, 0x0, 0x0, 0x0, 0x0⟩,
  ⟨0x6003000C, 1, 4, 0xFFF, 0x0, 0x0, 0x0, 0x0, 0x0, 0x12C⟩,
  ⟨0x60030010, 1, 4, 0x0, 0x0, 0x0, 0x0, 0x0, 0xFFFFFFFF, 0x0⟩,
  ⟨0x60030014, 1, 4, 0xFFFFFFFF, 0x0, 0x0, 0x0, 0x0, 0x0, 0x0⟩,
  ⟨0x60030018, 1, 4, 0x0, 0x0, 0x0, 0x0, 0x0, 0xFFFFFFFF, 0x0⟩,
  ⟨0x6003001C, 1, 4, 0x0, 0x0, 0x0, 0x0, 0x0, 0xFFFFFFFF, 0x0⟩,
  ⟨0x60030100, 4, 16, 0xCFF0FF00, 0x0, 0x0, 0x0, 0x0, 0x0, 0x8E00A00⟩,
  ⟨0x60030104, 8, 16, 0xFFFFFFFF, 0x0, 0x0, 0x0, 0x0, 0x0, 0xBB801F4⟩,
  ⟨0x60030108, 8, 16, 0x0, 0x0, 0x0, 0x0, 0x0, 0xFFFF0FFF, 0xFFF0000⟩,
  ⟨0x6003010C, 8, 16, 0x0, 0x0, 0x0, 0x0, 0x0, 0xFFFFFFFF, 0x0⟩,
  ⟨0x60030140, 2, 16, 0xCFF3FF00, 0x0, 0x0, 0x0, 0x0, 0x0, 0x48E00A00⟩,
  ⟨0x60030160, 1, 16, 0xCFF0FF00, 0x0, 0x0, 0x0, 0x0, 0x0, 0x48E00A00⟩,
  ⟨0x60030170, 1, 16, 0xCFF0FF00, 0x0, 0x0, 0x0, 0x0, 0x0, 0xC8E00A00⟩]

/-- Block TIM: base, count, stride; RW, W1C, W1S, RC, WO, RO masks; reset. -/
def regsTIM : List RegSpec := [
  ⟨0x60040000, 1, 4, 0xFF03, 0x0, 0x0, 0x0, 0x4, 0x0, 0xA02⟩,
  ⟨0x60040004, 1, 4, 0x0, 0x0, 0x0, 0x0, 0x0, 0x1F, 0x2⟩,
  ⟨0x60040008, 1, 4, 0x0, 0x3F, 0x0, 0x0, 0x0, 0x0, 0x0⟩,
  ⟨0x60040010, 1, 4, 0x0, 0x0, 0x0, 0x0, 0x0, 0xFFFFFFFF, 0x0⟩,
  ⟨0x60040014, 1, 4, 0x0, 0x0, 0x0, 0x0, 0x0, 0xFFFFFFFF, 0x0⟩,
  ⟨0x60040018, 1, 4, 0x0, 0x0, 0x0, 0x0, 0x1, 0x0, 0x0⟩,
  ⟨0x6004001C, 1, 4, 0x7, 0x0, 0x0, 0x0, 0x0, 0x0, 0x0⟩,
  ⟨0x60040020, 4, 4, 0x0, 0x0, 0x0, 0x0, 0x0, 0xFFFFFFFF, 0x0⟩,
  ⟨0x60040040, 1, 4, 0x0, 0x0, 0x0, 0x0, 0x0, 0xFFFFFFFF, 0x0⟩,
  ⟨0x60040044, 1, 4, 0x0, 0x0, 0x0, 0x0, 0x0, 0xFFFF, 0x0⟩,
  ⟨0x60040100, 3, 64, 0xFFFFFFFF, 0x0, 0x0, 0x0, 0x0, 0x0, 0x0⟩,
  ⟨0x60040104, 3, 64, 0xFFFF, 0x0, 0x0, 0x0, 0x0, 0x0, 0x0⟩,
  ⟨0x60040108, 3, 64, 0x3FFFFFFF, 0x0, 0x0, 0x0, 0x0, 0x0, 0x0⟩,
  ⟨0x6004010C, 3, 64, 0xFFFF, 0x0, 0x0, 0x0, 0x0, 0x0, 0x0⟩,
  ⟨0x60040110, 3, 64, 0xFFFFFFFF, 0x0, 0x0, 0x0, 0x0, 0x0, 0x0⟩,
  ⟨0x60040114, 3, 64, 0xFFFF, 0x0, 0x0, 0x0, 0x0, 0x0, 0xFA⟩,
  ⟨0x60040118, 3, 64, 0xFFFFFFFF, 0x0, 0x0, 0x0, 0x0, 0x0, 0x0⟩,
  ⟨0x6004011C, 3, 64, 0x0, 0x0, 0x0, 0x0, 0xF, 0x0, 0x0⟩,
  ⟨0x60040120, 3, 64, 0x1F, 0x0, 0x0, 0x0, 0x0, 0x0, 0xA⟩,
  ⟨0x60040124, 3, 64, 0x0, 0x0, 0x0, 0x0, 0x0, 0xFFFFFFFF, 0x0⟩,
  ⟨0x60040200, 4, 4, 0xFFFF, 0x0, 0x0, 0x0, 0x0, 0x0, 0x0⟩,
  ⟨0x60040210, 4, 4, 0xFFFF, 0x0, 0x0, 0x0, 0x0, 0x0, 0x0⟩,
  ⟨0x60040220, 1, 4, 0xF, 0x0, 0x0, 0x0, 0x0, 0x0, 0x0⟩,
  ⟨0x60040230, 1, 4, 0x0, 0x0, 0x0, 0x0, 0x0, 0xFFFFFFFF, 0xFF00000⟩,
  ⟨0x60040234, 1, 4, 0x0, 0x0, 0x0, 0x0, 0x0, 0xFFFFFFFF, 0xFF00000⟩,
  ⟨0x60040300, 1, 4, 0xF, 0x0, 0x0, 0x0, 0x0, 0x0, 0x0⟩,
  ⟨0x60040304, 1, 4, 0x7FFFF, 0x0, 0x0, 0x0, 0x0, 0x0, 0x2710⟩,
  ⟨0x60040308, 1, 4, 0x0, 0x0, 0x0, 0x0, 0x7, 0x0, 0x0⟩,
  ⟨0x6004030C, 1, 4, 0xFFFF, 0x0, 0x0, 0x0, 0x0, 0x0, 0x64⟩,
  ⟨0x60040310, 1, 4, 0x0, 0x0, 0x0, 0x0, 0x0, 0xFFFFFFFF, 0x0⟩,
  ⟨0x60040314, 1, 4, 0x0, 0x0, 0x0, 0x0, 0x0, 0xFFFFFFFF, 0x0⟩,
  ⟨0x60040318, 1, 4, 0x0, 0x0, 0x0, 0x0, 0x0, 0xFFFFFFFF, 0x0⟩]

/-- Block EVT: base, count, stride; RW, W1C, W1S, RC, WO, RO masks; reset. -/
def regsEVT : List RegSpec := [
  ⟨0x60050000, 1, 4, 0x0, 0x0, 0x0, 0x0, 0x0, 0xFFFFFFFF, 0x0⟩,
  ⟨0x60050004, 1, 4, 0x0, 0x7FFF0000, 0x0, 0x0, 0x0, 0x8000FFFF, 0x0⟩,
  ⟨0x60050008, 2, 4, 0x0, 0x0, 0x0, 0x0, 0x0, 0xFFFFFFFF, 0x0⟩,
  ⟨0x60050010, 4, 4, 0xFFFFFFFF, 0x0, 0x0, 0x0, 0x0, 0x0, 0x0⟩,
  ⟨0x60050020, 2, 4, 0xFFFFFFFF, 0x0, 0x0, 0x0, 0x0, 0x0, 0x0⟩,
  ⟨0x60050028, 1, 4, 0xFFFFFFFF, 0x0, 0x0, 0x0, 0x0, 0x0, 0x3FFF0000⟩,
  ⟨0x6005002C, 1, 4, 0xFFFFFFFF, 0x0, 0x0, 0x0, 0x0, 0x0, 0x0⟩,
  ⟨0x60050030, 4, 4, 0xFFFFFFFF, 0x0, 0x0, 0x0, 0x0, 0x0, 0xFFFFFFFF⟩,
  ⟨0x60050040, 1, 4, 0x0, 0x0, 0xFFFF, 0x0, 0x0, 0x0, 0x0⟩,
  ⟨0x60050044, 1, 4, 0x0, 0xFFFF, 0x0, 0x0, 0x0, 0x0, 0x0⟩,
  ⟨0x60050048, 1, 4, 0x0, 0x3FFF, 0x0, 0x0, 0x0, 0x0, 0x0⟩,
  ⟨0x6005004C, 1, 4, 0x0, 0x0, 0x1, 0x0, 0x0, 0x0, 0x0⟩,
  ⟨0x60050050, 1, 4, 0x0, 0x0, 0x0, 0x0, 0x0, 0x3, 0x2⟩]

/-- Block SEC: base, count, stride; RW, W1C, W1S, RC, WO, RO masks; reset. -/
def regsSEC : List RegSpec := [
  ⟨0x60060000, 1, 4, 0x0, 0x0, 0x0, 0x0, 0x0, 0xFFE00000, 0x0⟩,
  ⟨0x60060004, 1, 4, 0x0, 0x0, 0x0, 0x0, 0x0, 0xFFFF007F, 0x0⟩,
  ⟨0x60060008, 1, 4, 0x0, 0x3F, 0x0, 0x0, 0x0, 0x0, 0x0⟩,
  ⟨0x6006000C, 1, 4, 0x0, 0x0, 0x0, 0x0, 0x7F, 0x0, 0x0⟩,
  ⟨0x60060010, 1, 4, 0x0, 0x0, 0x0, 0x0, 0x0, 0xFFFFFFFF, 0x0⟩,
  ⟨0x60060014, 1, 4, 0x0, 0x0, 0x0, 0x0, 0x0, 0xFFFFFFFF, 0x0⟩,
  ⟨0x60060018, 1, 4, 0x0, 0x0, 0x0, 0x0, 0x0, 0xFFFFFFFF, 0x0⟩,
  ⟨0x60060020, 8, 4, 0x0, 0x0, 0x0, 0x0, 0x0, 0xFFFFFFFF, 0x0⟩]

/-- Block PST: base, count, stride; RW, W1C, W1S, RC, WO, RO masks; reset. -/
def regsPST : List RegSpec := [
  ⟨0x60080000, 1, 4, 0x1F, 0x0, 0x0, 0x0, 0x0, 0x0, 0x0⟩,
  ⟨0x60080004, 1, 4, 0x0, 0x0, 0x0, 0x0, 0x0, 0xFF03, 0x0⟩,
  ⟨0x60080008, 1, 4, 0x0, 0x0, 0x0, 0x0, 0x0, 0xFFFFFFFF, 0x0⟩,
  ⟨0x6008000C, 1, 4, 0x0, 0x0, 0x0, 0x0, 0x0, 0xFFFF, 0x0⟩,
  ⟨0x60080010, 1, 4, 0x7F7F, 0x0, 0x0, 0x0, 0x0, 0x0, 0x6428⟩,
  ⟨0x60080014, 1, 4, 0x1F1F, 0x0, 0x0, 0x0, 0x0, 0x0, 0x80C⟩,
  ⟨0x60080018, 1, 4, 0x0, 0x3FF, 0x0, 0x0, 0x0, 0x0, 0x0⟩,
  ⟨0x60080020, 7, 4, 0x0, 0x0, 0x0, 0x0, 0x0, 0xFFFFFFFF, 0x0⟩,
  ⟨0x60080040, 1, 4, 0x0, 0x0, 0x0, 0x3FFFFFFF, 0x0, 0x0, 0x0⟩,
  ⟨0x60080050, 4, 4, 0x87000FFF, 0x0, 0x0, 0x0, 0x0, 0x0, 0x0⟩,
  ⟨0x60080060, 4, 4, 0x0, 0x0, 0x0, 0x0, 0x0, 0xFFFF01FF, 0x0⟩,
  ⟨0x60080400, 64, 4, 0xFFFFFFFF, 0x0, 0x0, 0x0, 0x0, 0x0, 0x0⟩,
  ⟨0x60080500, 64, 4, 0x0, 0xFFFFFFFF, 0x0, 0x0, 0x0, 0x0, 0x0⟩,
  ⟨0x60080600, 1, 4, 0x0, 0x0, 0x0, 0x0, 0x0, 0xFFFFFFFF, 0x0⟩,
  ⟨0x60080604, 1, 4, 0x0, 0x0, 0x0, 0x0, 0x0, 0xFFFF, 0x0⟩,
  ⟨0x60080700, 64, 4, 0x0, 0x0, 0x0, 0x0, 0x0, 0xFFFFFFFF, 0x0⟩,
  ⟨0x60080800, 64, 4, 0x0, 0x0, 0x0, 0x0, 0x0, 0xFFFFFFFF, 0x0⟩,
  ⟨0x60088000, 2048, 4, 0x0, 0x0, 0x0, 0x0, 0x0, 0xFFFFFFFF, 0x0⟩]

/-- Block LDG: base, count, stride; RW, W1C, W1S, RC, WO, RO masks; reset. -/
def regsLDG : List RegSpec := [
  ⟨0x60090000, 1, 4, 0xF7, 0x0, 0x0, 0x0, 0x0, 0x0, 0x0⟩,
  ⟨0x60090004, 1, 4, 0x0, 0x0, 0x0, 0x0, 0x0, 0xFFFFFFFF, 0x0⟩,
  ⟨0x60090008, 1, 4, 0x0, 0x7FF, 0x0, 0x0, 0x0, 0x0, 0x0⟩,
  ⟨0x6009000C, 1, 4, 0x0, 0x0, 0x0, 0x0, 0x0, 0x1FFFF, 0x0⟩,
  ⟨0x60090010, 1, 4, 0x7FFFFF, 0x0, 0x0, 0x0, 0x0, 0x0, 0x0⟩,
  ⟨0x60090014, 1, 4, 0x0, 0x0, 0x0, 0x0, 0xFFFFF, 0x0, 0x0⟩,
  ⟨0x60090018, 1, 4, 0x0, 0x0, 0x0, 0x0, 0x0, 0xFFFFFFFF, 0x0⟩,
  ⟨0x6009001C, 1, 4, 0x7FF, 0x0, 0x0, 0x0, 0x0, 0x0, 0x0⟩,
  ⟨0x60090020, 1, 4, 0x0, 0x0, 0x0, 0x0, 0x0, 0xFFFFFFFF, 0x0⟩,
  ⟨0x60090024, 1, 4, 0x0, 0x0, 0x0, 0x0, 0x0, 0xFFFFFFFF, 0x0⟩,
  ⟨0x60090030, 1, 4, 0xF7FF, 0x0, 0x0, 0x0, 0x0, 0x0, 0x0⟩,
  ⟨0x60090034, 1, 4, 0x0, 0x0, 0x0, 0x0, 0xFFFF, 0x0, 0x0⟩,
  ⟨0x60090038, 1, 4, 0x0, 0x0, 0x0, 0x0, 0x0, 0xFFF, 0x0⟩,
  ⟨0x60090040, 1, 4, 0x0, 0x0, 0x0, 0x0, 0x0, 0xFFFFFFFF, 0x0⟩,
  ⟨0x60090044, 1, 4, 0x0, 0x0, 0x0, 0x0, 0x0, 0xFFFFFFFF, 0x0⟩,
  ⟨0x60090048, 1, 4, 0x0, 0x0, 0x0, 0x0, 0x0, 0xFFFFFFFF, 0x0⟩,
  ⟨0x60090100, 16, 4, 0x3FFFF, 0x0, 0x0, 0x0, 0x0, 0x0, 0x60⟩,
  ⟨0x60092000, 2048, 4, 0x0, 0x0, 0x0, 0x0, 0x0, 0x8000FFFF, 0x0⟩]

/-- Block TEL: base, count, stride; RW, W1C, W1S, RC, WO, RO masks; reset. -/
def regsTEL : List RegSpec := [
  ⟨0x600A0000, 1, 4, 0xF3, 0x0, 0x0, 0x0, 0x0, 0x0, 0x31⟩,
  ⟨0x600A0004, 1, 4, 0x0, 0x0, 0x0, 0x0, 0x0, 0xFFF, 0x0⟩,
  ⟨0x600A0008, 1, 4, 0x0, 0x3FF, 0x0, 0x0, 0x0, 0x0, 0x0⟩,
  ⟨0x600A000C, 1, 4, 0x0, 0xFF, 0x0, 0x0, 0x0, 0x0, 0x0⟩,
  ⟨0x600A0010, 1, 4, 0x0, 0x0, 0x0, 0x0, 0x0, 0x3FFF000F, 0x0⟩,
  ⟨0x600A0014, 1, 4, 0x0, 0x0, 0x0, 0x0, 0x0, 0x1FFF, 0x0⟩,
  ⟨0x600A0018, 1, 4, 0x0, 0x0, 0x0, 0x0, 0x0, 0xFFFFFFFF, 0x0⟩,
  ⟨0x600A0020, 1, 4, 0x0, 0x0, 0x0, 0xFFFFFFFF, 0x0, 0x0, 0x0⟩,
  ⟨0x600A0024, 1, 4, 0x0, 0x0, 0x0, 0xFFFFFFFF, 0x0, 0x0, 0x0⟩,
  ⟨0x600A0030, 1, 4, 0x3FFF, 0x0, 0x0, 0x0, 0x0, 0x0, 0x0⟩,
  ⟨0x600A0034, 1, 4, 0x0, 0x0, 0x0, 0x0, 0x0, 0xC0F1FFFF, 0x0⟩,
  ⟨0x600A0038, 1, 4, 0x0, 0x0, 0x0, 0x0, 0x0, 0x1FFFF, 0x0⟩,
  ⟨0x600A003C, 1, 4, 0x0, 0x0, 0x0, 0x1FFFF, 0x0, 0x0, 0x0⟩,
  ⟨0x600A0040, 1, 4, 0x0, 0x0, 0x0, 0x0, 0x3, 0x0, 0x0⟩,
  ⟨0x600A0050, 1, 4, 0x3F00FFFF, 0x0, 0x0, 0x0, 0x0, 0x0, 0x0⟩,
  ⟨0x600A0054, 1, 4, 0xFFFFFFFF, 0x0, 0x0, 0x0, 0x0, 0x0, 0x0⟩,
  ⟨0x600A0058, 1, 4, 0x0, 0x0, 0x0, 0x0, 0x1, 0x0, 0x0⟩,
  ⟨0x600A005C, 1, 4, 0x0, 0x0, 0x0, 0x0, 0x0, 0x1, 0x0⟩,
  ⟨0x600A0100, 64, 4, 0x0, 0x0, 0x0, 0x0, 0x0, 0x8000003F, 0x0⟩,
  ⟨0x600A0200, 64, 4, 0x0, 0x0, 0x0, 0x3FFFFFFF, 0x0, 0x0, 0x0⟩]

/-- Block EXC: base, count, stride; RW, W1C, W1S, RC, WO, RO masks; reset. -/
def regsEXC : List RegSpec := [
  ⟨0x600B0000, 1, 4, 0x6, 0x0, 0x0, 0x0, 0x0, 0x0, 0x2⟩,
  ⟨0x600B0004, 1, 4, 0x0, 0x0, 0x0, 0x0, 0x0, 0x7FF01FF, 0x0⟩,
  ⟨0x600B0008, 1, 4, 0x0, 0x3F, 0x0, 0x0, 0x0, 0x0, 0x0⟩,
  ⟨0x600B0010, 1, 4, 0x7FF, 0x0, 0x0, 0x0, 0x0, 0x0, 0x0⟩,
  ⟨0x600B0014, 1, 4, 0x0, 0x0, 0x0, 0x0, 0x0, 0xE00003FF, 0x0⟩,
  ⟨0x600B0018, 1, 4, 0x0, 0x0, 0x0, 0x0, 0x0, 0xFFFFFFFF, 0x0⟩,
  ⟨0x600B0020, 1, 4, 0x0, 0x0, 0x0, 0x0, 0x0, 0xFFFFFFFF, 0x0⟩,
  ⟨0x600B0024, 1, 4, 0x0, 0x0, 0x0, 0x0, 0x0, 0xFFFFFFFF, 0x0⟩,
  ⟨0x600B1000, 1280, 4, 0x8007FFFF, 0x0, 0x0, 0x0, 0x0, 0x0, 0x0⟩]

/-- Block OUT: base, count, stride; RW, W1C, W1S, RC, WO, RO masks; reset. -/
def regsOUT : List RegSpec := [
  ⟨0x600D0004, 1, 4, 0x0, 0x0, 0x0, 0x0, 0x0, 0x1FFFFFF, 0x0⟩,
  ⟨0x600D0008, 1, 4, 0x0, 0x7F, 0x0, 0x0, 0x0, 0x0, 0x0⟩,
  ⟨0x600D0010, 1, 4, 0xFFF, 0x0, 0x0, 0x0, 0x0, 0x0, 0x0⟩,
  ⟨0x600D0014, 1, 4, 0x0, 0x0, 0x0, 0x0, 0x0, 0xFFFFFFFF, 0x0⟩,
  ⟨0x600D0018, 1, 4, 0x0, 0x0, 0x0, 0x7FFFFFFF, 0x0, 0x0, 0x40000000⟩,
  ⟨0x600D0020, 1, 4, 0x0, 0x0, 0x0, 0x0, 0x0, 0xFFFFFFFF, 0x0⟩,
  ⟨0x600D0024, 1, 4, 0x0, 0x0, 0x0, 0x0, 0x0, 0xFFFFFFFF, 0x0⟩,
  ⟨0x600D0100, 16, 4, 0x7FFFFFFF, 0x0, 0x0, 0x0, 0x0, 0x0, 0x40000000⟩,
  ⟨0x600D0140, 16, 4, 0x7FFFFFFF, 0x0, 0x0, 0x0, 0x0, 0x0, 0x1B4E2⟩,
  ⟨0x600D0200, 64, 4, 0x0, 0x0, 0x0, 0x0, 0x0, 0xFFFFFFFF, 0x0⟩,
  ⟨0x600D1000, 2560, 4, 0x3FFFFFFF, 0x0, 0x0, 0x0, 0x0, 0x0, 0x0⟩,
  ⟨0x600D3800, 2560, 4, 0xF9FFFFFF, 0x0, 0x0, 0x0, 0x0, 0x0, 0x0⟩,
  ⟨0x600D6000, 2560, 4, 0x7FFFFF, 0x0, 0x0, 0x0, 0x0, 0x0, 0x4⟩,
  ⟨0x600D8800, 2560, 4, 0x80FFFC3F, 0x0, 0x0, 0x0, 0x0, 0x0, 0x0⟩,
  ⟨0x600DB000, 2560, 4, 0x7FFFFFFF, 0x0, 0x0, 0x0, 0x0, 0x0, 0x8000000⟩,
  ⟨0x600DD800, 2560, 4, 0xF, 0x0, 0x0, 0x0, 0x0, 0x0, 0x0⟩]

/-- Block MAC: base, count, stride; RW, W1C, W1S, RC, WO, RO masks; reset. -/
def regsMAC : List RegSpec := [
  ⟨0x60100000, 1, 4, 0x3FFF01F7, 0x0, 0x0, 0x0, 0x0, 0x0, 0x24000110⟩,
  ⟨0x60100004, 1, 4, 0x0, 0x0, 0x0, 0x0, 0x0, 0xE0000007, 0x0⟩,
  ⟨0x60100008, 1, 4, 0x0, 0x3F, 0x0, 0x0, 0x0, 0x0, 0x0⟩,
  ⟨0x6010000C, 1, 4, 0xFFFFFFFF, 0x0, 0x0, 0x0, 0x0, 0x0, 0x0⟩,
  ⟨0x60100010, 1, 4, 0xFFFF, 0x0, 0x0, 0x0, 0x0, 0x0, 0x0⟩,
  ⟨0x60100014, 1, 4, 0xFFFFFFFF, 0x0, 0x0, 0x0, 0x0, 0x0, 0x0⟩,
  ⟨0x60100020, 1, 4, 0x0, 0xFFFFFFFF, 0x0, 0x0, 0x0, 0x0, 0x0⟩,
  ⟨0x60100024, 1, 4, 0x0, 0x7F, 0x0, 0x0, 0x0, 0x0, 0x0⟩,
  ⟨0x60100100, 39, 4, 0x0, 0x0, 0x0, 0x0, 0x0, 0xFFFFFFFF, 0x0⟩,
  ⟨0x60110000, 1, 4, 0x3FFF01F7, 0x0, 0x0, 0x0, 0x0, 0x0, 0x24000110⟩,
  ⟨0x60110004, 1, 4, 0x0, 0x0, 0x0, 0x0, 0x0, 0xE0000007, 0x0⟩,
  ⟨0x60110008, 1, 4, 0x0, 0x3F, 0x0, 0x0, 0x0, 0x0, 0x0⟩,
  ⟨0x6011000C, 1, 4, 0xFFFFFFFF, 0x0, 0x0, 0x0, 0x0, 0x0, 0x0⟩,
  ⟨0x60110010, 1, 4, 0xFFFF, 0x0, 0x0, 0x0, 0x0, 0x0, 0x0⟩,
  ⟨0x60110014, 1, 4, 0xFFFFFFFF, 0x0, 0x0, 0x0, 0x0, 0x0, 0x0⟩,
  ⟨0x60110020, 1, 4, 0x0, 0xFFFFFFFF, 0x0, 0x0, 0x0, 0x0, 0x0⟩,
  ⟨0x60110024, 1, 4, 0x0, 0x7F, 0x0, 0x0, 0x0, 0x0, 0x0⟩,
  ⟨0x60110100, 39, 4, 0x0, 0x0, 0x0, 0x0, 0x0, 0xFFFFFFFF, 0x0⟩,
  ⟨0x60120000, 1, 4, 0x3FFF01F7, 0x0, 0x0, 0x0, 0x0, 0x0, 0x24000110⟩,
  ⟨0x60120004, 1, 4, 0x0, 0x0, 0x0, 0x0, 0x0, 0xE0000007, 0x0⟩,
  ⟨0x60120008, 1, 4, 0x0, 0x3F, 0x0, 0x0, 0x0, 0x0, 0x0⟩,
  ⟨0x6012000C, 1, 4, 0xFFFFFFFF, 0x0, 0x0, 0x0, 0x0, 0x0, 0x0⟩,
  ⟨0x60120010, 1, 4, 0xFFFF, 0x0, 0x0, 0x0, 0x0, 0x0, 0x0⟩,
  ⟨0x60120014, 1, 4, 0xFFFFFFFF, 0x0, 0x0, 0x0, 0x0, 0x0, 0x0⟩,
  ⟨0x60120020, 1, 4, 0x0, 0xFFFFFFFF, 0x0, 0x0, 0x0, 0x0, 0x0⟩,
  ⟨0x60120024, 1, 4, 0x0, 0x7F, 0x0, 0x0, 0x0, 0x0, 0x0⟩,
  ⟨0x60120100, 39, 4, 0x0, 0x0, 0x0, 0x0, 0x0, 0xFFFFFFFF, 0x0⟩,
  ⟨0x60130000, 1, 4, 0x3FFF01F7, 0x0, 0x0, 0x0, 0x0, 0x0, 0x24000110⟩,
  ⟨0x60130004, 1, 4, 0x0, 0x0, 0x0, 0x0, 0x0, 0xE0000007, 0x0⟩,
  ⟨0x60130008, 1, 4, 0x0, 0x3F, 0x0, 0x0, 0x0, 0x0, 0x0⟩,
  ⟨0x6013000C, 1, 4, 0xFFFFFFFF, 0x0, 0x0, 0x0, 0x0, 0x0, 0x0⟩,
  ⟨0x60130010, 1, 4, 0xFFFF, 0x0, 0x0, 0x0, 0x0, 0x0, 0x0⟩,
  ⟨0x60130014, 1, 4, 0xFFFFFFFF, 0x0, 0x0, 0x0, 0x0, 0x0, 0x0⟩,
  ⟨0x60130020, 1, 4, 0x0, 0xFFFFFFFF, 0x0, 0x0, 0x0, 0x0, 0x0⟩,
  ⟨0x60130024, 1, 4, 0x0, 0x7F, 0x0, 0x0, 0x0, 0x0, 0x0⟩,
  ⟨0x60130100, 39, 4, 0x0, 0x0, 0x0, 0x0, 0x0, 0xFFFFFFFF, 0x0⟩]

/-- Block DVT: base, count, stride; RW, W1C, W1S, RC, WO, RO masks; reset. -/
def regsDVT : List RegSpec := [
  ⟨0x60140000, 1, 4, 0xFFFFFFFD, 0x0, 0x0, 0x0, 0x0, 0x0, 0x88B50C28⟩,
  ⟨0x60140004, 1, 4, 0x0, 0x0, 0x0, 0x0, 0x0, 0x3FF03FF, 0x0⟩,
  ⟨0x60140008, 1, 4, 0x0, 0xFF, 0x0, 0x0, 0x0, 0x0, 0x0⟩,
  ⟨0x6014000C, 1, 4, 0xFCFFFFFF, 0x0, 0x0, 0x0, 0x0, 0x0, 0x8810B09A⟩,
  ⟨0x60140010, 1, 4, 0x1FF, 0x0, 0x0, 0x0, 0x0, 0x0, 0x0⟩,
  ⟨0x60140014, 1, 4, 0x0, 0x0, 0x0, 0x0, 0x0, 0xFFFFFFFF, 0x0⟩,
  ⟨0x60140018, 1, 4, 0x0, 0x0, 0x0, 0xFFFFFFFF, 0x0, 0x0, 0x0⟩,
  ⟨0x60140020, 6, 4, 0x0, 0x0, 0x0, 0x0, 0x0, 0xFFFFFFFF, 0x0⟩,
  ⟨0x60141000, 512, 8, 0xF87FFFFF, 0x0, 0x0, 0x0, 0x0, 0x4000000, 0x0⟩,
  ⟨0x60141004, 512, 8, 0x7FF01FF, 0x0, 0x0, 0x0, 0x0, 0x0, 0x1⟩,
  ⟨0x60142000, 512, 16, 0xFFFFFFFF, 0x0, 0x0, 0x0, 0x0, 0x0, 0x1⟩,
  ⟨0x60142004, 512, 16, 0xFFFFFFFF, 0x0, 0x0, 0x0, 0x0, 0x0, 0x0⟩,
  ⟨0x60142008, 512, 16, 0xFFFFFFF, 0x0, 0x0, 0x0, 0x0, 0x0, 0x0⟩,
  ⟨0x6014200C, 512, 16, 0xFFFFFFFF, 0x0, 0x0, 0x0, 0x0, 0x0, 0x0⟩,
  ⟨0x60144000, 2560, 4, 0xFFF, 0x0, 0x0, 0x0, 0x0, 0x0, 0x0⟩,
  ⟨0x60147000, 1024, 4, 0x0, 0x0, 0x0, 0x0, 0x0, 0xFFFFFFFF, 0x0⟩,
  ⟨0x60148000, 16, 32, 0xFFFF81FF, 0x0, 0x0, 0x0, 0x0, 0x0, 0x400064⟩,
  ⟨0x60148004, 16, 32, 0xFFFFFFFF, 0x0, 0x0, 0x0, 0x0, 0x0, 0x0⟩,
  ⟨0x60148008, 16, 32, 0xFFFF007F, 0x0, 0x0, 0x0, 0x0, 0x0, 0x138C0060⟩,
  ⟨0x6014800C, 16, 32, 0xFFFFFFFF, 0x0, 0x0, 0x0, 0x0, 0x0, 0x0⟩,
  ⟨0x60148010, 16, 32, 0xFFFFFFFF, 0x0, 0x0, 0x0, 0x0, 0x0, 0x0⟩,
  ⟨0x60148200, 16, 32, 0xFFFFB000, 0x0, 0x0, 0x0, 0x0, 0x0, 0x403000⟩,
  ⟨0x60148204, 16, 32, 0xFFFFFFFF, 0x0, 0x0, 0x0, 0x0, 0x0, 0x0⟩,
  ⟨0x60148208, 16, 32, 0xFFFF007F, 0x0, 0x0, 0x0, 0x0, 0x0, 0x138C0060⟩,
  ⟨0x6014820C, 16, 32, 0xFFFFFFFF, 0x0, 0x0, 0x0, 0x0, 0x0, 0x0⟩,
  ⟨0x60148210, 16, 32, 0xFFFFFFFF, 0x0, 0x0, 0x0, 0x0, 0x0, 0x0⟩,
  ⟨0x60148400, 128, 4, 0xFFF, 0x0, 0x0, 0x0, 0x0, 0x0, 0x0⟩]

/-- Block HNG: base, count, stride; RW, W1C, W1S, RC, WO, RO masks; reset. -/
def regsHNG : List RegSpec := [
  ⟨0x60150000, 1, 4, 0x7, 0x0, 0x0, 0x0, 0x0, 0x0, 0x6⟩,
  ⟨0x60150004, 1, 4, 0xFFF83FFF, 0x0, 0x0, 0x0, 0x0, 0x0, 0x3C200000⟩,
  ⟨0x60150008, 1, 4, 0x0, 0x0, 0x0, 0x0, 0x0, 0xFF800000, 0x0⟩,
  ⟨0x6015000C, 1, 4, 0x0, 0xFF, 0x0, 0x0, 0x0, 0x0, 0x0⟩,
  ⟨0x60150010, 1, 4, 0xFFFFFFFF, 0x0, 0x0, 0x0, 0x0, 0x0, 0x0⟩,
  ⟨0x60150014, 1, 4, 0xFFFFFFFF, 0x0, 0x0, 0x0, 0x0, 0x0, 0x0⟩,
  ⟨0x60150018, 1, 4, 0x0, 0x0, 0x0, 0x0, 0x3, 0x0, 0x0⟩,
  ⟨0x6015001C, 1, 4, 0x0, 0x0, 0x0, 0x0, 0x0, 0xFFFFFFFF, 0x0⟩,
  ⟨0x60150020, 1, 4, 0x0, 0x0, 0x0, 0x0, 0x0, 0xFFFFFFFF, 0x0⟩,
  ⟨0x60150024, 1, 4, 0x0, 0x0, 0x0, 0x0, 0x0, 0xFFFFFFFF, 0x0⟩,
  ⟨0x60150028, 1, 4, 0x0, 0x0, 0x0, 0x0, 0x0, 0xFFFFFFFF, 0x0⟩,
  ⟨0x60150030, 1, 4, 0x0, 0x0, 0x0, 0x0, 0x0, 0xFFFFFFFF, 0x0⟩,
  ⟨0x60150034, 1, 4, 0x0, 0x0, 0x0, 0x0, 0x0, 0xFFFFFFFF, 0x0⟩,
  ⟨0x60150038, 1, 4, 0x0, 0x0, 0x0, 0x0, 0x0, 0xFFFFFFFF, 0x0⟩]

/-- Block DIS: base, count, stride; RW, W1C, W1S, RC, WO, RO masks; reset. -/
def regsDIS : List RegSpec := [
  ⟨0x60160000, 1, 4, 0x0, 0x0, 0x0, 0x0, 0x0, 0x80003FFF, 0x0⟩,
  ⟨0x60160004, 1, 4, 0x1, 0x0, 0x0, 0x0, 0x0, 0x0, 0x0⟩,
  ⟨0x60160008, 1, 4, 0x0, 0x0, 0x0, 0x0, 0x0, 0xF8003FFF, 0x0⟩,
  ⟨0x6016000C, 1, 4, 0x0, 0x0, 0x0, 0x0, 0x0, 0x3FFF, 0x0⟩,
  ⟨0x60160010, 1, 4, 0x0, 0xF, 0x0, 0x0, 0x0, 0x0, 0x0⟩,
  ⟨0x60160014, 1, 4, 0xFFFFFF00, 0x0, 0x0, 0x0, 0x0, 0x0, 0x44560000⟩,
  ⟨0x60160018, 1, 4, 0xFFFF, 0x0, 0x0, 0x0, 0x0, 0x0, 0x359⟩,
  ⟨0x6016001C, 1, 4, 0x0, 0x0, 0x0, 0x0, 0x0, 0xFFFFFF, 0x0⟩,
  ⟨0x60160020, 1, 4, 0x0, 0x0, 0x0, 0x0, 0x0, 0xFFFFFFFF, 0x0⟩]

/-- Block CLH: base, count, stride; RW, W1C, W1S, RC, WO, RO masks; reset. -/
def regsCLH : List RegSpec := [
  ⟨0x60180000, 1, 4, 0x0, 0xF, 0x0, 0x0, 0x0, 0x0, 0x0⟩,
  ⟨0x60180004, 1, 4, 0x0, 0x80000000, 0x0, 0x0, 0x0, 0xFF0FF0F, 0x0⟩,
  ⟨0x60180008, 1, 4, 0x0, 0x0, 0x0, 0x0, 0x0, 0xFFFFFFFF, 0x0⟩,
  ⟨0x6018000C, 1, 4, 0x0, 0x0, 0x0, 0x0, 0x0, 0xFFFFFFFF, 0x0⟩,
  ⟨0x60180010, 1, 4, 0x0, 0x0, 0x0, 0x0, 0x0, 0x1F1F, 0x0⟩,
  ⟨0x60180100, 10, 4, 0x0, 0x0, 0x0, 0x0, 0x0, 0xC000003F, 0x0⟩,
  ⟨0x60180200, 8, 8, 0xFFFFFFFF, 0x0, 0x0, 0x0, 0x0, 0x0, 0x88888888⟩,
  ⟨0x60180204, 8, 8, 0xFF, 0x0, 0x0, 0x0, 0x0, 0x0, 0x88⟩]

/-- Block RMT: base, count, stride; RW, W1C, W1S, RC, WO, RO masks; reset. -/
def regsRMT : List RegSpec := [
  ⟨0x60190000, 1, 4, 0x1, 0x0, 0x0, 0x0, 0x0, 0x0, 0x1⟩,
  ⟨0x60190004, 1, 4, 0x0, 0x0, 0x0, 0x0, 0x0, 0xFFFFFFFF, 0x0⟩,
  ⟨0x60190008, 1, 4, 0x0, 0xFFFFFFFF, 0x0, 0x0, 0x0, 0x0, 0x0⟩,
  ⟨0x6019000C, 1, 4, 0x0, 0x0, 0x0, 0x0, 0xFFFF, 0x0, 0x0⟩,
  ⟨0x60190010, 1, 4, 0xFFFFFFFF, 0x0, 0x0, 0x0, 0x0, 0x0, 0x0⟩,
  ⟨0x60190014, 1, 4, 0x0, 0x0, 0xFFFF, 0x0, 0x0, 0x0, 0x0⟩,
  ⟨0x60190018, 1, 4, 0x0, 0x0, 0xFFFF, 0x0, 0x0, 0x0, 0x0⟩,
  ⟨0x6019001C, 1, 4, 0x0, 0x1, 0x0, 0x0, 0x0, 0x0, 0x0⟩,
  ⟨0x60190100, 16, 32, 0xF0000FF, 0x0, 0x0, 0x0, 0x0, 0x0, 0x8000000⟩,
  ⟨0x60190104, 16, 32, 0xFFFFFFF8, 0x0, 0x0, 0x0, 0x0, 0x0, 0x0⟩,
  ⟨0x60190108, 16, 32, 0x0, 0x0, 0x0, 0x0, 0x7, 0x0, 0x0⟩,
  ⟨0x6019010C, 16, 32, 0x0, 0x4000000, 0x0, 0x0, 0x0, 0xFA0FFFFF, 0x0⟩,
  ⟨0x60190110, 16, 32, 0x0, 0x0, 0x0, 0x0, 0x0, 0xFFFFFF, 0x0⟩,
  ⟨0x60190114, 16, 32, 0x0, 0x0, 0x0, 0x0, 0x0, 0xFFFFFFFF, 0x0⟩]

/-- Block SAP: base, count, stride; RW, W1C, W1S, RC, WO, RO masks; reset. -/
def regsSAP : List RegSpec := [
  ⟨0x601A0000, 1, 4, 0x0, 0xF, 0x0, 0x0, 0x0, 0x0, 0x0⟩,
  ⟨0x601A0004, 1, 4, 0x0, 0x0, 0x0, 0x0, 0xFFFF, 0x0, 0x0⟩,
  ⟨0x601A0008, 1, 4, 0x0, 0x0, 0x0, 0x0, 0x0, 0xFFFFFFFF, 0x0⟩,
  ⟨0x601A0100, 16, 8, 0xFF800000, 0x0, 0x0, 0x0, 0x0, 0x0, 0x20800000⟩,
  ⟨0x601A0104, 16, 8, 0x0, 0x0, 0x0, 0x0, 0x0, 0x3FFFFF, 0x0⟩,
  ⟨0x601A1000, 512, 4, 0x80000FFF, 0x0, 0x0, 0x0, 0x0, 0x0, 0x0⟩]

/-- Block TIL: base, count, stride; RW, W1C, W1S, RC, WO, RO masks; reset. -/
def regsTIL : List RegSpec := [
  ⟨0x601B0000, 1, 4, 0x0, 0x1FFFF, 0x0, 0x0, 0x0, 0x0, 0x0⟩,
  ⟨0x601B0100, 4, 16, 0xF80007FF, 0x0, 0x0, 0x0, 0x0, 0x0, 0x1⟩,
  ⟨0x601B0104, 4, 16, 0x7FFF7FFF, 0x0, 0x0, 0x0, 0x0, 0x0, 0x30001000⟩,
  ⟨0x601B0108, 4, 16, 0x0, 0x0, 0x0, 0x0, 0x0, 0xFFFFFFFF, 0x80000000⟩,
  ⟨0x601B1000, 4096, 4, 0xFFF, 0x0, 0x0, 0x0, 0x0, 0x0, 0x0⟩]

/-- Block HSP: base, count, stride; RW, W1C, W1S, RC, WO, RO masks; reset. -/
def regsHSP : List RegSpec := [
  ⟨0x601C0000, 1, 4, 0x0, 0x7, 0x0, 0x0, 0x0, 0x0, 0x0⟩,
  ⟨0x601C0004, 1, 4, 0x0, 0x0, 0x0, 0x0, 0x0, 0x1F, 0x10⟩,
  ⟨0x601C0008, 1, 4, 0x0, 0x1, 0x0, 0x0, 0x0, 0xFFFFFFFC, 0x0⟩,
  ⟨0x601C000C, 1, 4, 0x0, 0x0, 0x0, 0x0, 0x0, 0xFFFFFFFF, 0x0⟩]

/-- Block XSP: base, count, stride; RW, W1C, W1S, RC, WO, RO masks; reset. -/
def regsXSP : List RegSpec := [
  ⟨0x601D0000, 1, 4, 0x0, 0x0, 0x0, 0x0, 0x0, 0x3, 0x0⟩,
  ⟨0x601D0004, 1, 4, 0x0, 0x1F, 0x0, 0x0, 0x0, 0x0, 0x0⟩,
  ⟨0x601D0008, 1, 4, 0x1F, 0x0, 0x0, 0x0, 0x0, 0x0, 0x1B⟩,
  ⟨0x601D000C, 1, 4, 0x0, 0x0, 0x0, 0x0, 0x0, 0xF, 0x0⟩,
  ⟨0x601D0010, 1, 4, 0xFFFFFFFF, 0x0, 0x0, 0x0, 0x0, 0x0, 0x0⟩,
  ⟨0x601D0014, 1, 4, 0x0, 0x0, 0x0, 0x0, 0x3, 0x0, 0x0⟩,
  ⟨0x601D0100, 64, 4, 0xFFFFFFFF, 0x0, 0x0, 0x0, 0x0, 0x0, 0x0⟩]

/-- Block KWY: base, count, stride; RW, W1C, W1S, RC, WO, RO masks; reset. -/
def regsKWY : List RegSpec := [
  ⟨0x601E0000, 1, 4, 0x3, 0x0, 0x0, 0x0, 0x0, 0x0, 0x3⟩,
  ⟨0x601E0004, 1, 4, 0x0, 0x0, 0x0, 0x0, 0x0, 0x1F, 0x0⟩,
  ⟨0x601E0008, 1, 4, 0x0, 0x3FF, 0x0, 0x0, 0x0, 0x0, 0x0⟩,
  ⟨0x601E000C, 1, 4, 0x0, 0x0, 0x0, 0x0, 0x0, 0x7FF, 0x0⟩,
  ⟨0x601E0010, 1, 4, 0x0, 0x1FF, 0x0, 0x0, 0x0, 0x0, 0x0⟩,
  ⟨0x601E0014, 1, 4, 0x0, 0x0, 0x0, 0xCF1FFFFF, 0x0, 0x0, 0x0⟩,
  ⟨0x601E0018, 1, 4, 0x0, 0x0, 0x0, 0x0, 0x0, 0x7FFFF, 0x0⟩,
  ⟨0x601E001C, 1, 4, 0x0, 0x0, 0x0, 0x0, 0x0, 0xFFFFFFFF, 0x0⟩,
  ⟨0x601E0020, 6, 4, 0x0, 0x0, 0x0, 0x0, 0x0, 0xFFFFFFFF, 0x0⟩]

/-- Block FSYS: base, count, stride; RW, W1C, W1S, RC, WO, RO masks; reset. -/
def regsFSYS : List RegSpec := [
  ⟨0x70000000, 1, 4, 0x0, 0x0, 0x0, 0x0, 0x0, 0xFFFF0F00, 0x25600000⟩,
  ⟨0x70000004, 1, 4, 0x0, 0x0, 0x0, 0x0, 0x0, 0x7, 0x3⟩,
  ⟨0x70000008, 1, 4, 0x0, 0xF, 0x0, 0x0, 0x0, 0x0, 0x0⟩,
  ⟨0x7000000C, 1, 4, 0x800000FF, 0x0, 0x0, 0x0, 0x60000000, 0x0, 0x8000000C⟩,
  ⟨0x70000010, 1, 4, 0x0, 0xE0000000, 0x0, 0x0, 0x0, 0x7000FFF, 0x0⟩]

/-- Block FPWM: base, count, stride; RW, W1C, W1S, RC, WO, RO masks; reset. -/
def regsFPWM : List RegSpec := [
  ⟨0x70010000, 1, 4, 0x2FFF0003, 0x0, 0x0, 0x0, 0x0, 0x0, 0x22C0000⟩,
  ⟨0x70010004, 1, 4, 0xFFF0FFF, 0x0, 0x0, 0x0, 0x0, 0x0, 0xD5501AB⟩,
  ⟨0x70010008, 1, 4, 0xFF03FF, 0x0, 0x0, 0x0, 0x80000000, 0x0, 0x28⟩,
  ⟨0x7001000C, 1, 4, 0x0, 0x0, 0x0, 0x0, 0x0, 0xF8000FFF, 0x0⟩,
  ⟨0x70010010, 1, 4, 0x0, 0x7F, 0x0, 0x0, 0x0, 0x0, 0x0⟩,
  ⟨0x70010014, 1, 4, 0xFFFFFFFF, 0x0, 0x0, 0x0, 0x0, 0x0, 0x14144040⟩,
  ⟨0x70010018, 1, 4, 0x3FF, 0x0, 0x0, 0x0, 0x0, 0x0, 0x60⟩,
  ⟨0x70010020, 1, 4, 0xFFFFFFFF, 0x0, 0x0, 0x0, 0x0, 0x0, 0x0⟩,
  ⟨0x70010028, 1, 4, 0x0, 0x0, 0x0, 0x0, 0xFFFFFFFF, 0x0, 0x0⟩,
  ⟨0x70010100, 64, 4, 0xFFFFFFFF, 0x0, 0x0, 0x0, 0x0, 0x0, 0x0⟩,
  ⟨0x70010400, 32, 4, 0xFFFFFFFF, 0x0, 0x0, 0x0, 0x0, 0x0, 0x2710F000⟩,
  ⟨0x70010480, 32, 4, 0x0, 0x0, 0x0, 0x0, 0x3, 0x0, 0x0⟩,
  ⟨0x70010500, 32, 4, 0x0, 0x0, 0x0, 0x0, 0x0, 0xFC000FFF, 0x22C⟩]

/-- Block FBST: base, count, stride; RW, W1C, W1S, RC, WO, RO masks; reset. -/
def regsFBST : List RegSpec := [
  ⟨0x70020000, 1, 4, 0xFFFF, 0x0, 0x0, 0x0, 0x0, 0x0, 0x0⟩,
  ⟨0x70020004, 1, 4, 0xFFF0FFF, 0x0, 0x0, 0x0, 0x0, 0x0, 0xE100320⟩,
  ⟨0x70020008, 1, 4, 0xFFFFFFF, 0x0, 0x0, 0x0, 0x0, 0x0, 0x640A14⟩,
  ⟨0x7002000C, 1, 4, 0xFFF0FFF, 0x0, 0x0, 0x0, 0x0, 0x0, 0xE7403E8⟩,
  ⟨0x70020010, 1, 4, 0x0, 0x1F, 0x0, 0x0, 0x0, 0x0, 0x0⟩,
  ⟨0x70020014, 1, 4, 0x0, 0x0, 0x0, 0x0, 0x0, 0xFFF, 0x0⟩,
  ⟨0x70020100, 16, 4, 0x0, 0x0, 0x0, 0x0, 0x0, 0xFFFF0FFF, 0x0⟩]

/-- Block FPRO: base, count, stride; RW, W1C, W1S, RC, WO, RO masks; reset. -/
def regsFPRO : List RegSpec := [
  ⟨0x70030000, 1, 4, 0x0, 0x3FF, 0x0, 0x0, 0x0, 0x0, 0x0⟩,
  ⟨0x70030004, 1, 4, 0xFFFFFF00, 0x0, 0x0, 0x0, 0x0, 0x0, 0x28641400⟩,
  ⟨0x70030008, 1, 4, 0xFFFFFFFF, 0x0, 0x0, 0x0, 0x0, 0x0, 0x44C0032⟩,
  ⟨0x7003000C, 1, 4, 0x3FFFFFFF, 0x0, 0x0, 0x0, 0x0, 0x0, 0x1904B1F4⟩,
  ⟨0x70030010, 1, 4, 0x0, 0x0, 0x0, 0x0, 0x0, 0xFFFFFFFF, 0x0⟩,
  ⟨0x70030100, 32, 4, 0xFFF0FFF, 0x0, 0x0, 0x0, 0x0, 0x0, 0x3E80320⟩,
  ⟨0x70030200, 32, 4, 0x0, 0x0, 0x0, 0x0, 0x0, 0xF300FFFF, 0x0⟩]

/-- Block FMON: base, count, stride; RW, W1C, W1S, RC, WO, RO masks; reset. -/
def regsFMON : List RegSpec := [
  ⟨0x70040000, 1, 4, 0xFFFF0001, 0x0, 0x0, 0x0, 0x0, 0x0, 0x461E0000⟩,
  ⟨0x70040004, 1, 4, 0x0, 0x7, 0x0, 0x0, 0x0, 0x0, 0x0⟩,
  ⟨0x70040008, 1, 4, 0xFFFF, 0x0, 0x0, 0x0, 0x0, 0xFFFF0000, 0x64⟩,
  ⟨0x70040100, 32, 4, 0xFFFFFFFF, 0x0, 0x0, 0x0, 0x0, 0x0, 0x10000⟩,
  ⟨0x70040200, 32, 4, 0xFFFFFFFF, 0x0, 0x0, 0x0, 0x0, 0x0, 0xFFFF0000⟩,
  ⟨0x70040300, 32, 4, 0x0, 0x0, 0x0, 0x0, 0x0, 0xC0FFFFFF, 0x0⟩]

/-- Block FFIN: base, count, stride; RW, W1C, W1S, RC, WO, RO masks; reset. -/
def regsFFIN : List RegSpec := [
  ⟨0x70050000, 1, 4, 0xFFF, 0x0, 0x0, 0x0, 0x0, 0x0, 0x500⟩,
  ⟨0x70050004, 1, 4, 0x3FFFFFFF, 0x0, 0x0, 0x0, 0x0, 0x0, 0x14373E8⟩,
  ⟨0x70050008, 1, 4, 0x0, 0x0, 0x0, 0x0, 0x0, 0xFFFF, 0x0⟩,
  ⟨0x7005000C, 1, 4, 0x0, 0x3F, 0x0, 0x0, 0x0, 0x0, 0x0⟩,
  ⟨0x70050010, 1, 4, 0x400003FF, 0x0, 0x0, 0x0, 0x20000000, 0x80000000, 0x800003FF⟩,
  ⟨0x70050100, 8, 4, 0x0, 0x0, 0x0, 0x0, 0x0, 0xFFFF, 0x0⟩]

/-- Block FSBX: base, count, stride; RW, W1C, W1S, RC, WO, RO masks; reset. -/
def regsFSBX : List RegSpec := [
  ⟨0x70060000, 1, 4, 0x0, 0x0, 0x0, 0x0, 0x0, 0xE07F00FF, 0x0⟩,
  ⟨0x70060004, 1, 4, 0x0, 0x7F, 0x0, 0x0, 0x0, 0x0, 0x0⟩,
  ⟨0x70060008, 1, 4, 0x0, 0x0, 0x0, 0x0, 0x0, 0xFFFFFFFF, 0x0⟩,
  ⟨0x7006000C, 1, 4, 0x0, 0x0, 0x0, 0x0, 0x0, 0xFFFFFFFF, 0x0⟩,
  ⟨0x70060010, 1, 4, 0x0, 0x0, 0x0, 0x0, 0xFF01, 0x0, 0x0⟩,
  ⟨0x70060014, 1, 4, 0x0, 0x0, 0x0, 0x0, 0x0, 0xFFFF, 0x0⟩,
  ⟨0x70060020, 1, 4, 0xFFFFFFFF, 0x0, 0x0, 0x0, 0x0, 0x0, 0x0⟩,
  ⟨0x70060024, 1, 4, 0x0, 0x0, 0x0, 0x0, 0x3, 0x0, 0x0⟩,
  ⟨0x70060100, 64, 4, 0xFFFFFFFF, 0x0, 0x0, 0x0, 0x0, 0x0, 0x0⟩,
  ⟨0x70060200, 8, 4, 0xFFFFFFFF, 0x0, 0x0, 0x0, 0x0, 0x0, 0x2002F400⟩,
  ⟨0x70060220, 8, 4, 0xFFFFFFFF, 0x0, 0x0, 0x0, 0x0, 0x0, 0x0⟩,
  ⟨0x70060240, 8, 4, 0x203FFFFF, 0x0, 0x0, 0x0, 0xC0000000, 0x0, 0xF400⟩]

/-- Block FBUS: base, count, stride; RW, W1C, W1S, RC, WO, RO masks; reset. -/
def regsFBUS : List RegSpec := [
  ⟨0x70070000, 1, 4, 0x3, 0x0, 0x0, 0x0, 0x0, 0x0, 0x0⟩,
  ⟨0x70070004, 1, 4, 0xFFFFFFFF, 0x0, 0x0, 0x0, 0x0, 0x0, 0x0⟩,
  ⟨0x70070008, 1, 4, 0xFFFF, 0x0, 0x0, 0x0, 0x0, 0x0, 0x0⟩,
  ⟨0x7007000C, 1, 4, 0x0, 0x7, 0x0, 0x0, 0x0, 0x0, 0x0⟩,
  ⟨0x70070020, 1, 4, 0x0, 0xFFFFFFFF, 0x0, 0x0, 0x0, 0x0, 0x0⟩,
  ⟨0x70070024, 1, 4, 0x0, 0xFFF, 0x0, 0x0, 0x0, 0x0, 0x0⟩,
  ⟨0x70070100, 44, 4, 0x0, 0x0, 0x0, 0x0, 0x0, 0xFFFFFFFF, 0x0⟩]

/-- Block FKWY: base, count, stride; RW, W1C, W1S, RC, WO, RO masks; reset. -/
def regsFKWY : List RegSpec := [
  ⟨0x70080000, 1, 4, 0x0, 0x0, 0x0, 0x0, 0x0, 0x7FF0003, 0x0⟩,
  ⟨0x70080004, 1, 4, 0x0, 0x3F, 0x0, 0x0, 0x0, 0x0, 0x0⟩,
  ⟨0x70080020, 7, 4, 0x0, 0x0, 0x0, 0x0, 0x0, 0xFFFFFFFF, 0x0⟩]

/-- Whether address `a` is a register of row `r`. -/
def RegSpec.has (r : RegSpec) (a : Nat) : Bool :=
  decide (r.base ≤ a) && decide (a < r.base + r.count * r.stride) && decide ((a - r.base) % r.stride = 0)

/-- The registers of the 64 KiB block that address `a` lies in. -/
def blockRegs (a : Nat) : List RegSpec :=
  match a / 0x10000 with
  | 0x6000 => regsSYS
  | 0x6001 => regsPWR
  | 0x6002 => regsCLK
  | 0x6003 => regsRSC
  | 0x6004 => regsTIM
  | 0x6005 => regsEVT
  | 0x6006 => regsSEC
  | 0x6008 => regsPST
  | 0x6009 => regsLDG
  | 0x600A => regsTEL
  | 0x600B => regsEXC
  | 0x600D => regsOUT
  | 0x6010 => regsMAC
  | 0x6011 => regsMAC
  | 0x6012 => regsMAC
  | 0x6013 => regsMAC
  | 0x6014 => regsDVT
  | 0x6015 => regsHNG
  | 0x6016 => regsDIS
  | 0x6018 => regsCLH
  | 0x6019 => regsRMT
  | 0x601A => regsSAP
  | 0x601B => regsTIL
  | 0x601C => regsHSP
  | 0x601D => regsXSP
  | 0x601E => regsKWY
  | 0x7000 => regsFSYS
  | 0x7001 => regsFPWM
  | 0x7002 => regsFBST
  | 0x7003 => regsFPRO
  | 0x7004 => regsFMON
  | 0x7005 => regsFFIN
  | 0x7006 => regsFSBX
  | 0x7007 => regsFBUS
  | 0x7008 => regsFKWY
  | _ => []

/-- The register at address `a`, if the chapters define one there (R71). -/
def regSpec? (a : Nat) : Option RegSpec := (blockRegs a).find? (fun r => r.has a)

/-- The value of the Reset column at `a` (R27); 0 where there is no register. -/
def regReset (a : Nat) : Word :=
  match regSpec? a with
  | some r => BitVec.ofNat 32 r.reset
  | none => 0

end Sys2Proof.Machine
end

