-- ==== Sys2Proof/Machine/State.lean ====
section
/-! DEFINITION. The state of the ML2560: registers, memories, every engine's state, and the queue of waiting commands. -/

namespace Sys2Proof.Machine

/-- Why the machine stops with a fault. No rule of the spec stops the block: no command raises this. -/
inductive Fault where
  /-- Reserved for a machine check; raised by no command (safe). -/
  | unreachable
  deriving DecidableEq, Repr

/-- Why the model refuses a command. -/
inductive Refusal where
  /-- The command has no meaning in this model yet; raised by Dispatch only (safe: the run stops). -/
  | notModelled (mnemonic : String)
  deriving DecidableEq, Repr

/-- What the latest access or query answered: the response and the bytes or words that came with it. The model's own
field: it is what the sender of the command sees. -/
structure Answer where
  resp : Resp
  data : List Byte
  deriving DecidableEq, Repr

/-- The state of the part. -/
structure State where
  /-- Commands waiting, first in, first out. -/
  pending : List Instr
  /-- Ticks of 1.024 GHz since the model started: the time by which windows and timeouts run. -/
  clock : Nat
  /-- Free values used so far (the model's own field). -/
  free : Nat
  /-- The latest answer to a bus access or query (the model's own field). -/
  ans : Answer
  /-- Register bits that hardware has set in the present tick (R25), by address. -/
  setNow : List (Nat × Word)
  /-- Registers that differ from their reset value, by Clearinghouse address. -/
  regs : List (Nat × Word)
  /-- Bytes that differ from what an unlisted byte reads as, by Clearinghouse address; the field flash stands at
  0x1_0000_0000 and the Strongbox at 0x2_0000_0000. -/
  mem : List Host.Cell
  /-- The balls SLOT_ID6 to SLOT_ID0 (R78). -/
  slotId : Nat
  fuse : Fuse
  pwr : Pwr
  boot : Boot
  xsp : Xsp
  tim : Tim
  rsc : Rsc
  clh : Clh
  rmt : List (Nat × RmtCh)
  sap : List (Nat × SapPort)
  til : List (Nat × TillPort)
  hsp : Hsp
  dis : Dis
  hng : Hng
  ldg : Ldg
  pst : Pst
  tel : Tel
  out : Out
  kwy : Kwy
  field : Field
  net : Net
  deriving DecidableEq, Repr

/-- The part right after power-on of both dies: every register at its reset value, memories as unlisted, every engine
at rest, no command waiting. -/
def State.reset : State :=
  { pending := [], clock := 0, free := 0, ans := ⟨.ok, []⟩, setNow := [], regs := [], mem := [], slotId := 127, fuse := Fuse.reset,
    pwr := Pwr.reset, boot := Boot.reset, xsp := Xsp.reset, tim := Tim.reset, rsc := Rsc.reset, clh := Clh.reset,
    rmt := [], sap := [], til := [], hsp := Hsp.reset, dis := Dis.reset, hng := Hng.reset, ldg := Ldg.reset,
    pst := Pst.reset, tel := Tel.reset, out := Out.reset, kwy := Kwy.reset, field := Field.reset, net := Net.reset }

end Sys2Proof.Machine
end

