-- ==== Sys2Proof/Machine/Ops.lean ====
section
/-! DEFINITION. The named operations over registers, memory, events, counters, time and messages that the commands
share. Each cites the rule it follows. -/

namespace Sys2Proof.Machine

/-! ### Registers (R20 to R27) -/

/-- The value a register holds. -/
def State.reg (s : State) (a : Nat) : Word := aget s.regs (regReset a) a

/-- The state with register `a` holding `v`. -/
def State.setReg (s : State) (a : Nat) (v : Word) : State := { s with regs := aput s.regs (regReset a) a v }

/-- Bits `hi` to `lo` of register `a`. -/
def State.rf (s : State) (a hi lo : Nat) : Nat := fld (s.reg a) hi lo

/-- Bit `i` of register `a`. -/
def State.rb (s : State) (a i : Nat) : Bool := bit (s.reg a) i

/-- Register `a` with bits `hi` to `lo` replaced. -/
def State.setFld (s : State) (a hi lo v : Nat) : State := s.setReg a (putFld (s.reg a) hi lo v)

/-- Register `a` with bit `i` set or cleared. -/
def State.setBit (s : State) (a i : Nat) (b : Bool) : State := s.setFld a i i (b2n b)

/-- Hardware sets the bits of `m` in register `a`; the bits count as set in the present tick (R25). -/
def State.raise (s : State) (a : Nat) (m : Word) : State :=
  { s.setReg a (s.reg a ||| m) with setNow := aput s.setNow 0 a (aget s.setNow 0 a ||| m) }

/-- Hardware gives an RC field of register `a` the value `v`; the bits then 1 count as set in the present tick (R25). -/
def State.latchFld (s : State) (a hi lo v : Nat) : State :=
  { s.setFld a hi lo v with setNow := aput s.setNow 0 a (aget s.setNow 0 a ||| putFld 0 hi lo v) }

/-- The key of instance `k` of a register that is read through a selection (R25). -/
def regKey (a k : Nat) : Nat := a + 4294967296 * (k + 1)

/-- Hardware gives read-to-clear or write-to-clear state that stands outside the registers the value `v` in the
present tick (R25). `key` names it. -/
def State.note (s : State) (key : Nat) (v : Word) : State := { s with setNow := aput s.setNow 0 key v }

/-- What `State.note` has marked in the present tick, else 0. -/
def State.noted (s : State) (key : Nat) : Word := aget s.setNow 0 key

/-- What a software write of `v` makes of a register by the access types of its bits (R23, Table 0.5): RW and WO bits
take the value, W1C bits written 1 clear, W1S bits written 1 set; a WO bit reads 0 and holds nothing. -/
def writeByType (r : RegSpec) (old v : Word) : Word :=
  let rw := wd r.rw
  let w1c := wd r.w1c
  let w1s := wd r.w1s
  let keep := ~~~(rw ||| w1c ||| w1s)
  (old &&& keep) ||| (v &&& rw) ||| (old &&& w1c &&& ~~~v) ||| ((old ||| v) &&& w1s)

/-- The bits of register `a` that hardware has set in the present tick: a clear by software in that tick leaves them 1
(R25). -/
def State.setHere (s : State) (a : Nat) : Word := s.reg a &&& aget s.setNow 0 a

/-- A write of `v` to register `a` by access type; a W1C bit that hardware set in this tick stays 1 (R25). Where no
register is defined the state is unchanged. -/
def State.typeWrite (s : State) (a : Nat) (v : Word) : State :=
  match regSpec? a with
  | some r => s.setReg a (writeByType r (s.reg a) v ||| (s.setHere a &&& wd r.w1c))
  | none => s

/-- The RC bits of register `a` cleared, as a read does (R26), but for those that hardware set in this tick (R25). -/
def State.clearRC (s : State) (a : Nat) : State :=
  match regSpec? a with
  | some r => s.setReg a ((s.reg a &&& ~~~(wd r.rc)) ||| (s.setHere a &&& wd r.rc))
  | none => s

/-! ### Memory (chapter 1) -/

/-- What a byte that nothing has written reads as: 0xFF in the two flash devices, which are erased, and in the Strongbox,
which copies one, and 0 elsewhere. -/
def memDefault (a : Nat) : Byte :=
  if (0x80000000 ≤ a ∧ a < 0x90000000) ∨ 0x100000000 ≤ a then 0xFF else 0

/-- The canonical form of the memory. -/
abbrev Memory.wf (m : List Host.Cell) : Bool := canonBy memDefault m

/-- One byte of memory. -/
def State.rdByte (s : State) (a : Nat) : Byte := aget s.mem (memDefault a) a

/-- The state with one byte of memory written. -/
def State.wrByte (s : State) (a : Nat) (b : Byte) : State := { s with mem := aput s.mem (memDefault a) a b }

/-- `n` bytes from address `a`. -/
def State.rdBytes (s : State) (a : Nat) : Nat → List Byte
  | 0 => []
  | n + 1 => s.rdByte a :: s.rdBytes (a + 1) n

/-- Bytes written from address `a` upward. -/
def State.wrBytes (s : State) (a : Nat) : List Byte → State
  | [] => s
  | b :: t => (s.wrByte a b).wrBytes (a + 1) t

/-- Bytes written from address `a` upward where their strobe is set (R588). -/
def State.wrStrobed (s : State) (a : Nat) : List Byte → List Bool → State
  | b :: t, true :: u => (s.wrByte a b).wrStrobed (a + 1) t u
  | _ :: t, false :: u => s.wrStrobed (a + 1) t u
  | b :: t, [] => (s.wrByte a b).wrStrobed (a + 1) t []
  | [], _ => s

/-- A little-endian 32-bit word of memory. -/
def State.rdWord (s : State) (a : Nat) : Word := wd (leNat (s.rdBytes a 4))

/-- A little-endian 32-bit word written. -/
def State.wrWord (s : State) (a : Nat) (v : Word) : State := s.wrBytes a (leBytes v.toNat 4)

/-- A little-endian 16-bit halfword of memory. -/
def State.rdHalf (s : State) (a : Nat) : Half := BitVec.ofNat 16 (leNat (s.rdBytes a 2))

/-- A little-endian 16-bit halfword written. -/
def State.wrHalf (s : State) (a : Nat) (v : Half) : State := s.wrBytes a (leBytes v.toNat 2)

/-- Every byte of the range `[a, b)` back to what an unlisted byte reads as. -/
def State.clearMem (s : State) (a b : Nat) : State :=
  { s with mem := s.mem.filter (fun e => decide (e.1 < a) || decide (b ≤ e.1)) }

/-- Every register of the address range `[a, b)` back to its reset value. -/
def State.resetRegs (s : State) (a b : Nat) : State :=
  { s with regs := s.regs.filter (fun e => decide (e.1 < a) || decide (b ≤ e.1)) }

/-! ### Free values, answers, variant -/

/-- The next free value, and the state that has used it. -/
def State.nextFree (s : State) : Word × State := (Config.freeWord s.free, { s with free := s.free + 1 })

/-- The state after `n` free values have been used. -/
def State.useFree (s : State) (n : Nat) : State := { s with free := s.free + n }

/-- The state with an answer. -/
def State.answer (s : State) (r : Resp) (d : List Byte) : State := { s with ans := ⟨r, d⟩ }

/-- The part is an ML2560-A (R2): it has the field die and the Keyway. -/
def State.isA (s : State) : Bool := s.fuse.variant == 1

/-- The host die is out of reset. -/
def State.hostLive (s : State) : Bool := !(s.pwr.hold.supply || s.pwr.hold.pin || s.pwr.hold.prsnt || s.pwr.hold.hot || s.pwr.hold.root)

/-- The Steward runtime runs. -/
def State.runtime (s : State) : Bool := decide (s.boot.phase = .running) && !s.pwr.stwDown

/-- A command on the host die: nothing happens while the die is held in reset. -/
def hostDo (s : State) (f : State → State) : Host.Outcome State Fault Refusal := .next (if s.hostLive then f s else s)

/-! ### Events (R745, Table 14.8, R413) -/

/-- The EVT_SUM bit that a host event sets, if any (Table 14.8). -/
def sumBit (a i : Nat) : Option Nat :=
  if a = Reg.SYS_EVT ∧ i = 2 then some 0
  else if a = Reg.SYS_EVT ∧ i = 3 then some 1
  else if (a = Reg.SYS_EVT ∧ i = 1) ∨ (a = Reg.LDG_EVT ∧ i = 6) ∨ (a = Reg.TEL_EVT ∧ i = 9) ∨ (a = Reg.OUT_EVT ∧ i = 4)
    then some 2
  else if a = Reg.PWR_EVT ∧ i = 0 then some 3
  else if a = Reg.SYS_EVT ∧ i = 4 then some 4
  else if a = Reg.KWY_EVT ∧ (i = 1 ∨ i = 2) then some 5
  else if a = Reg.KWY_EVT ∧ i = 8 then some 6
  else if a = Reg.PST_EVT ∧ i = 2 then some 7
  else if a = Reg.TEL_EVT ∧ i = 4 then some 8
  else if a = Reg.CLH_EVT ∧ i = 1 then some 9
  else if a = Reg.HNG_EVT ∧ (i = 1 ∨ i = 2) then some 11
  else if a = Reg.RSC_EVT ∧ i = 5 then some 12
  else none

/-- Set bit `k` of EVT_SUM. -/
def State.sum (s : State) (k : Nat) : State := s.raise Reg.EVT_SUM (bitw k)

/-- Set event bit `i` of the host register `a`. -/
def State.evt (s : State) (a i : Nat) : State :=
  let s := s.raise a (bitw i)
  match sumBit a i with
  | some k => s.sum k
  | none => s

/-- Set the event when the condition holds. -/
def State.evtIf (s : State) (c : Bool) (a i : Nat) : State := if c then s.evt a i else s

/-- Crossing `i` of Table 9.11 overflowed or underflowed (R550). -/
def State.cdcErr (s : State) (i : Nat) : State := (s.raise Reg.CLK_CDCST (bitw i)).evt Reg.CLK_EVT 2

/-- A field message queued for launch while the link is UP; SEQ and CRC are set at the launch (R397). -/
def State.fieldQueue (s : State) (typ : Nat) (payload : List Byte) : State :=
  if s.field.link = .up then
    { s with field := { s.field with ready := s.field.ready ++ [⟨false, typ, 0, payload.length, payload, 0⟩] } }
  else s

/-- A field message made ready by the field folio start (R784). -/
def State.fieldFirst (s : State) (typ : Nat) (payload : List Byte) : State :=
  if s.field.link = .up then
    { s with field := { s.field with first := s.field.first ++ [⟨false, typ, 0, payload.length, payload, 0⟩] } }
  else s

/-- A host message made ready by the folio start (R784). -/
def State.hostFirst (s : State) (typ : Nat) (payload : List Byte) : State :=
  if s.kwy.link = .up then
    { s with kwy := { s.kwy with first := s.kwy.first ++ [⟨false, typ, 0, payload.length, payload, 0⟩] } }
  else s

/-- A host message queued for launch while the link is UP. -/
def State.hostQueue (s : State) (typ : Nat) (payload : List Byte) : State :=
  if s.kwy.link = .up then
    { s with kwy := { s.kwy with ready := s.kwy.ready ++ [⟨false, typ, 0, payload.length, payload, 0⟩] } }
  else s

/-- The FAULT payload of Table 7.4. -/
def faultPayload (blk bitn chan cause folio : Nat) : List Byte :=
  [BitVec.ofNat 8 blk, BitVec.ofNat 8 bitn, BitVec.ofNat 8 chan, BitVec.ofNat 8 cause] ++ leBytes folio 4

/-- Set event bit `i` of the field register `a`; a change from 0 to 1 queues a FAULT, which is discarded while the
link is not UP (R413). -/
def State.fevtC (s : State) (a i chan cause : Nat) : State :=
  let was := s.rb a i
  let s := s.raise a (bitw i)
  if was ∨ s.field.link ≠ .up then s
  else s.fieldQueue 7 (faultPayload ((a - 0x70000000) / 0x10000) i chan cause s.field.folio)

/-- A field event that concerns no channel. -/
def State.fevt (s : State) (a i : Nat) : State := s.fevtC a i 0xFF 0

def State.fevtIf (s : State) (c : Bool) (a i : Nat) : State := if c then s.fevt a i else s

/-- The event registers of the event sources 0 to 27, with the bits that count (Table 14.7). -/
def evtSources : List (Nat × Nat) := [
  (Reg.SYS_EVT, 0xFFFFFFFF), (Reg.PWR_EVT, 0xFFFFFFFF), (Reg.CLK_EVT, 0xFFFFFFFF), (Reg.RSC_EVT, 0xFFFFFFFF),
  (Reg.TIM_EVT, 0xFFFFFFFF), (Reg.SEC_EVT, 0xFFFFFFFF), (Reg.PST_EVT, 0xFFFFFFFF), (Reg.LDG_EVT, 0xFFFFFFFF),
  (Reg.TEL_EVT, 0xFFFFFFFF), (Reg.TEL_SWEV, 0xFFFFFFFF), (Reg.EXC_EVT, 0xFFFFFFFF), (Reg.OUT_EVT, 0xFFFFFFFF)] ++ [
  (Reg.MAC_EVT 0, 0xFFFFFFFF), (Reg.MAC_EVT 1, 0xFFFFFFFF), (Reg.MAC_EVT 2, 0xFFFFFFFF), (Reg.MAC_EVT 3, 0xFFFFFFFF),
  (Reg.DVT_EVT, 0xFFFFFFFF), (Reg.HNG_EVT, 0xFFFFFFFF), (Reg.DIS_EVT, 0xFFFFFFFF), (Reg.CLH_EVT, 0xFFFFFFFF)] ++ [
  (Reg.RMT_EVT, 0xFFFF), (Reg.RMT_EVT, 0xFFFF0000), (Reg.RMT_EVT2, 0xFFFFFFFF), (Reg.SAP_EVT, 0xFFFFFFFF),
  (Reg.TIL_EVT, 0xFFFFFFFF), (Reg.HSP_EVT, 0xFFFFFFFF), (Reg.XSP_EVT, 0xFFFFFFFF), (Reg.KWY_EVT, 0xFFFFFFFF)]

/-- Whether event source `k` is active (R745). -/
def State.source (s : State) (k : Nat) : Bool :=
  if k < 28 then
    match evtSources[k]? with
    | some (a, m) => decide (s.reg a &&& wd m ≠ 0)
    | none => false
  else if k < 37 then s.isA && s.rb Reg.KWY_FEVT (k - 28)
  else if k < 48 then false
  else if k < 63 then s.rb (Reg.EVT_RAW 1) (k - 32)
  else if k < 64 then false
  else if k < 80 then s.rb Reg.EVT_SWSET (k - 64)
  else if k < 94 then s.rb Reg.EVT_SUM (k - 80)
  else false

/-- EVT_RAW register `j` as it reads. -/
def State.evtRaw (s : State) (j : Nat) : Word :=
  wd ((List.range 32).foldl (fun n i => n + (if s.source (32 * j + i) then 2 ^ i else 0)) 0)

/-- Whether an active source is routed by the mask registers at `base` to `base + 12` (R746, R747). -/
def State.routed (s : State) (base : Nat) : Bool :=
  (List.range 4).any (fun j => decide (s.evtRaw j &&& s.reg (base + 4 * j) ≠ 0))

/-- Both slots were rejected (R693): STAGE = FAIL. -/
def State.bootFailed (s : State) : Bool := s.rf Reg.SEC_BOOTST 31 29 == 7

/-- EVT_N driven low (R746); also under R693. -/
def State.evtN (s : State) : Bool := s.routed (Reg.EVT_MASK 0) || s.bootFailed

/-- FAULT_N driven low (R747, R731, R693). -/
def State.faultN (s : State) : Bool :=
  s.routed (Reg.EVT_FMASK 0) || !s.rb Reg.EVT_CTRL 0 || s.pwr.intReset.isSome || s.bootFailed

/-! ### Counters -/

/-- A counter `n` further, modulo 2^32, and whether its bit 31 rose. -/
def countUp (old : Word) (n : Nat) : Word × Bool :=
  let new := wd (old.toNat + n)
  (new, !bit old 31 && bit new 31)

/-- Host counter at `a` by `n`; when bit 31 sets, the source `k` of Table 14.7 latches (48 to 62). -/
def State.count (s : State) (a n k : Nat) : State :=
  let (v, rose) := countUp (s.reg a) n
  let s := s.setReg a v
  if rose then s.raise (Reg.EVT_RAW 1) (bitw (k - 32)) else s

/-- FKWY counter at `a` by `n`; bit 31 setting sets FKWY_EVT.CNTHR. -/
def State.fkwyCount (s : State) (a n : Nat) : State :=
  let (v, rose) := countUp (s.reg a) n
  (s.setReg a v).fevtIf rose Reg.FKWY_EVT 5

/-- Counter `i` of port `p` by `n`, with its half-range flag (R448, R449). -/
def State.macCount (s : State) (p i n : Nat) : State :=
  let (v, rose) := countUp (s.reg (Reg.MAC_CNT p i)) n
  let s := s.setReg (Reg.MAC_CNT p i) v
  if rose then
    let hr := if i < 32 then Reg.MAC_HRLO p else Reg.MAC_HRHI p
    (s.raise hr (bitw (i % 32))).evt (Reg.MAC_EVT p) 3
  else s

/-- Counter `i` of F0 by `n`, with its half-range flag. -/
def State.fbusCount (s : State) (i n : Nat) : State :=
  let (v, rose) := countUp (s.reg (Reg.FBUS_CNT i)) n
  let s := s.setReg (Reg.FBUS_CNT i) v
  if rose then
    let hr := if i < 32 then Reg.FBUS_HRLO else Reg.FBUS_HRHI
    (s.raise hr (bitw (i % 32))).fevt Reg.FBUS_EVT 2
  else s

/-! ### Power domains (Table 14.2) -/

/-- Domain PSd is on. -/
def State.domOn (s : State) (d : Nat) : Bool := s.rb Reg.PWR_STATUS (d - 1)

/-- Cluster c is usable: powered and not fenced (R59). -/
def State.clusterOn (s : State) (c : Nat) : Bool := s.domOn (c + 1) && !s.rb Reg.TEL_CLST (4 + c)

/-! ### CRC-32 (R393) -/

/-- One bit of the reflected CRC. -/
def crcBit (c : Word) : Word := if bit c 0 then (c >>> 1) ^^^ 0xEDB88320 else c >>> 1

/-- One byte of the CRC. -/
def crcByte (c : Word) (b : Byte) : Word :=
  crcBit (crcBit (crcBit (crcBit (crcBit (crcBit (crcBit (crcBit (c ^^^ BitVec.ofNat 32 b.toNat))))))))

/-- CRC-32 of IEEE 802.3 over bytes. -/
def crc32 (l : List Byte) : Word := l.foldl crcByte 0xFFFFFFFF ^^^ 0xFFFFFFFF

/-! ### Time (chapter 9); times in 2^-40 ns, instants in eighths of a TCNT tick -/

/-- What a slew or a junction of size `amt` has moved after `e` of elapsed time at `ppm` ppm, in steps of 2^-16 ns
(R494, R500). -/
def slewed (amt e : Int) (ppm : Nat) : Int :=
  let lim := (e * ppm / 1000000) / 16777216 * 16777216
  let lim := if lim < 0 then 0 else lim
  if 0 ≤ amt then (if amt < lim then amt else lim) else (if -amt < lim then amt else -lim)

/-- A view at instant `t8` eighths of a tick: R488 with the fraction of R507, and the slew of R494. -/
def View.at8 (v : View) (t8 : Int) : Int :=
  v.offset + v.rate * (t8 - 8 * v.anchor) / 8 + slewed v.slew (v.rate * (t8 - 8 * v.slewAt) / 8) v.slewPpm

/-- The view re-anchored at tick `c`, with the slew so far in its OFFSET (R490). -/
def View.rebase (v : View) (c : Nat) : View :=
  let did := slewed v.slew (v.rate * ((c : Int) - v.slewAt)) v.slewPpm
  { v with anchor := c, offset := v.at8 (8 * c), slew := v.slew - did, slewAt := c }

/-- The view of index 0 = A, 1 = B, 2 = L. -/
def Tim.view (t : Tim) (i : Nat) : View := if i = 0 then t.va else if i = 1 then t.vb else t.vl

def Tim.setView (t : Tim) (i : Nat) (v : View) : Tim :=
  if i = 0 then { t with va := v } else if i = 1 then { t with vb := v } else { t with vl := v }

/-- J at instant `t8` (R500). -/
def Tim.juncAt8 (t : Tim) (t8 : Int) : Int :=
  t.junc - slewed t.junc ((t.view t.act).rate * (t8 - 8 * t.juncAt) / 8) t.juncPpm

/-- J anchored anew at tick `c`: what it has moved by then stays. -/
def Tim.rejunc (t : Tim) (c : Nat) : Tim := { t with junc := t.juncAt8 (8 * c), juncAt := c }

/-- View `i` becomes `v` at tick `c`; where it is the active one and its RATE changes, J goes on without a step (R503). -/
def Tim.putView (t : Tim) (i c : Nat) (v : View) : Tim :=
  (if i = t.act ∧ v.rate ≠ (t.view i).rate then t.rejunc c else t).setView i v

/-- A time truncated to 2^-16 ns (R489). -/
def cut16 (t : Int) : Int := t / 16777216 * 16777216

/-- System time T at instant `t8` (R497). -/
def Tim.t8 (t : Tim) (i8 : Int) : Int := (t.view t.act).at8 i8 + t.juncAt8 i8

/-- The present instant in eighths of a tick. -/
def Tim.now8 (t : Tim) : Int := 8 * (t.tcnt.toNat : Int)

/-- T now. -/
def State.sysT (s : State) : Int := s.tim.t8 s.tim.now8

/-- T now in whole nanoseconds. -/
def State.sysNs (s : State) : Int := s.sysT / 1099511627776

/-- The folio number of a time (R12), 48 bits. -/
def folioOf (t : Int) : Nat := ((t * 12 / (1000000 * 1099511627776)) % 281474976710656).toNat

/-- 12 × the instant `us` µs after the folio start of folio `n`, in 2^-40 ns: instants of folio timing are exact in
this scale (R778). -/
def folio12 (n : Nat) (us : Int) : Int := ((n : Int) * 1000000 + 12000 * us) * 1099511627776

/-- Whether time `t` lies at or after A(n) + us µs (R85, R87). -/
def atOrAfterA (t : Int) (n : Nat) (us : Int) : Bool := decide (folio12 (n + 1) us ≤ 12 * t)

/-- Ticks of 1.024 GHz in `us` microseconds. -/
def us (n : Nat) : Nat := 1024 * n

/-- Ticks in `n` milliseconds. -/
def ms (n : Nat) : Nat := 1024000 * n

/-! ### Gain codes (R154, R155, R170) -/

/-- The power 5,120 (20 × 16 × 16). -/
def pow5120 (x : Nat) : Nat := ((x ^ 20) ^ 16) ^ 16

/-- The largest c below `2^24` with (2c − 1)^5120 × 10^neg ≤ 2^(23 × 5120) × 10^pos, by bisection from `lo`. -/
def coefSearch (pos neg : Nat) : Nat → Nat → Nat
  | 0, lo => lo
  | k + 1, lo =>
    let c := lo + 2 ^ k
    if pow5120 (2 * c - 1) * 10 ^ neg ≤ ((2 ^ 230) ^ 16) ^ 32 * 10 ^ pos then coefSearch pos neg k c else coefSearch pos neg k lo

/-- The coefficient of a gain code: round-half-up of 2^22 × 10^((code − 62,464) / 5,120), 0 for off (R155). -/
def coef (code : Nat) : Nat :=
  if code = 0 then 0 else if code = 0xF400 then 4194304 else coefSearch (code - 62464) (62464 - code) 24 0

/-- Sample `i` of a ramp from `a` to `b` over `t` samples (R170). -/
def rampCode (a b i t : Nat) : Nat :=
  if t ≤ i then b else ((a : Int) + roundHalfUp (((b : Int) - a) * i) t).toNat

/-- A sample times a coefficient, round-half-up at 2^22 (R185). -/
def scale22 (x : Int) (c : Nat) : Int := roundHalfUp (x * c) 4194304

/-! ### Saturation and samples -/

def sat32 (x : Int) : Int := clampI (-2147483648) 2147483647 x

def sat24 (x : Int) : Int := clampI (-8388608) 8388607 x

/-- The amplifier range of Table 5.6. -/
def satAmp (x : Int) : Int := clampI (-134217728) 134217727 x

/-- Sample `j` of channel `c` in a table of samples. -/
def smp (l : List (Nat × Word)) (c j : Nat) : Word := aget l 0 (8 * c + j)

def setSmp (l : List (Nat × Word)) (c j : Nat) (v : Word) : List (Nat × Word) := aput l 0 (8 * c + j) v

/-- Eight samples of channel `c` from a function. -/
def setSmps (l : List (Nat × Word)) (c : Nat) (f : Nat → Word) : List (Nat × Word) :=
  (List.range 8).foldl (fun l j => setSmp l c j (f j)) l

/-- `n` members of a list from position `i`. -/
def slice {α : Type} (l : List α) (i n : Nat) : List α := (l.drop i).take n

/-- Set union by appending what is not there. -/
def addTo (l : List Nat) (x : Nat) : List Nat := if l.contains x then l else l ++ [x]

def addAll (l m : List Nat) : List Nat := m.foldl addTo l

/-- Fold over the numbers below `n`, in ascending order. -/
def forN {α : Type} (n : Nat) (a : α) (f : α → Nat → α) : α := (List.range n).foldl f a

/-- The numbers whose bit is set in `m`, below `n`. -/
def maskList (m n : Nat) : List Nat := (List.range n).filter (fun i => inMask m i)

end Sys2Proof.Machine
end

