-- ==== Sys2Proof/Machine/ClhCore.lean ====
section
/-! DEFINITION. What the Clearinghouse's commands and the resets share: access checks of the address map, the error
response, the arrival of a response at its master, master resets (chapters 1 and 11). -/

namespace Sys2Proof.Machine

def State.setClh (s : State) (c : Clh) : State := { s with clh := c }

/-! ### Error responses (R609) -/

/-- The index of a master in Table 11.1. -/
def masterIdx : Master → Nat
  | .stw => 0
  | .rmt => 1
  | .tc0 => 2
  | .tc1 => 3
  | .tc2 => 4
  | .tc3 => 5
  | .net => 6
  | .exc => 7
  | .hsp => 8
  | .pst => 9

/-- The target of an address (Table 11.2), 0 where none is mapped. -/
def targetOf (a : Nat) : Nat :=
  if a < 0x10000000 then 1
  else if a < 0x20000000 then 2
  else if a < 0x30000000 then 3
  else if a < 0x40000000 then 4
  else if a < 0x60000000 then 0
  else if a < 0x70000000 then 5
  else if a < 0x80000000 then 7
  else if a < 0x90000000 then 6
  else 0

/-- An ERR or LKERR response: counted, and recorded when no record is held (R609). -/
def clhError (m : Master) (id : Nat) (wr : Bool) (addr cause : Nat) (s : State) : State :=
  let s := (s.count Reg.CLH_CNT_ERR 1 56).evt Reg.CLH_EVT 0
  if s.rb Reg.CLH_ERRINFO 31 then s
  else
    let v := masterIdx m * 2 ^ 24 + b2n wr * 2 ^ 23 + targetOf addr * 2 ^ 20 + id % 256 * 256 + cause
    ((s.setReg Reg.CLH_ERRINFO (wd v)).raise Reg.CLH_ERRINFO (bitw 31)).setReg Reg.CLH_ERRADDR (wd addr)

/-! ### Access checks (R58 to R60, R62, R71, R72, Tables 1.5 and 1.6) -/

/-- The masters of Table 1.5 that reach every region but the Boot ROM. -/
def isWide (m : Master) : Bool := m == .stw || m == .rmt || m == .hsp

/-- Sizes of Table 1.5: `lo` to 64 bytes, aligned to the size (R60). -/
def sizeOk (lo size addr : Nat) : Bool :=
  [1, 2, 4, 8, 16, 32, 64].contains size && decide (lo ≤ size) && addr % size == 0

/-- The region of an address, as its master check, least size, and whether writes are permitted; none: not mapped. -/
def regionOf (a : Nat) : Option ((Master → Bool) × (Nat × Bool)) :=
  if a < 0x20000 then some (fun m => m == .stw, (1, false))
  else if a < 0x1000000 then none
  else if a < 0x1200000 then
    some (fun m => m == .stw || m == .rmt || m == .net || (m == .exc && decide (0x11E0000 ≤ a ∧ a < 0x11E5000)), (1, true))
  else if a < 0x10000000 then none
  else if a < 0x14000000 then
    let o := a % 0x100000
    if o < 0x10000 then some (isWide, (4, true))
    else if o < 0x40000 then none
    else if o < 0x80000 then some (isWide, (1, true))
    else if o < 0x90000 then some (isWide, (1, false))
    else none
  else if a < 0x20000000 then none
  else if a < 0x20A00000 then some (isWide, (2, true))
  else if a < 0x21000000 then none
  else if a < 0x21100000 then some (isWide, (4, true))
  else if a < 0x30000000 then none
  else if a < 0x34000000 then some (isWide, (1, true))
  else if a < 0x40000000 then none
  else if a < 0x40E00000 then some (fun _ => true, (1, true))
  else if a < 0x60000000 then none
  else if a < 0x601F0000 then some (isWide, (4, true))
  else if a < 0x70000000 then none
  else if a < 0x70100000 then some (isWide, (4, true))
  else if a < 0x80000000 then none
  else if a < 0x90000000 then some (isWide, (1, false))
  else none

/-- The address lies in the register blocks or the proxy window: one aligned 32-bit access (R589). -/
def singleWord (a : Nat) : Bool := decide (0x60000000 ≤ a ∧ a < 0x70100000)

/-- The power domain that an address needs (Table 14.2, R59, R72), 0 for AON: clusters 1 to 4, Ledger 5, Vault-D 6,
P2 and P3 7, Exchange, SAP and Till 8. -/
def domainOf (a : Nat) : Nat :=
  if 0x10000000 ≤ a ∧ a < 0x14000000 then (a - 0x10000000) / 0x1000000 + 1
  else if 0x20000000 ≤ a ∧ a < 0x21100000 then 5
  else if 0x30000000 ≤ a ∧ a < 0x34000000 then 6
  else if 0x60090000 ≤ a ∧ a < 0x600A0000 then 5
  else if 0x60120000 ≤ a ∧ a < 0x60140000 then 7
  else if (0x600B0000 ≤ a ∧ a < 0x600C0000) ∨ (0x601A0000 ≤ a ∧ a < 0x601C0000) then 8
  else 0

/-- The physical Teller that logical Teller `t` stands on, as the boot placed it (R201, R698). -/
def State.placed (s : State) (t : Nat) : Nat := s.rf (Reg.TEL_MAP t) 5 0

/-- The cluster of a TEL register that belongs to one: TEL_MAPt of a logical Teller placed on one of its Tellers,
TEL_LOADt of its Tellers, and the context registers while TEL_CTXSEL names one (R72, R201). -/
def State.telCluster (s : State) (a : Nat) : Option Nat :=
  if Reg.TEL_MAP 0 ≤ a ∧ a ≤ Reg.TEL_MAP 63 then
    (if s.rb a 31 then some (s.placed ((a - Reg.TEL_MAP 0) / 4) / 16) else none)
  else if Reg.TEL_LOAD 0 ≤ a ∧ a ≤ Reg.TEL_LOAD 63 then some ((a - Reg.TEL_LOAD 0) / 64)
  else if a = Reg.TEL_CTXST ∨ a = Reg.TEL_CTXLAST ∨ a = Reg.TEL_CTXMAX then some (s.rf Reg.TEL_CTXSEL 13 8 / 16)
  else none

/-- The power domain of an address is on, and its cluster not fenced. -/
def State.powered (s : State) (a : Nat) : Bool :=
  let d := domainOf a
  (d == 0 || s.domOn d) && (if 1 ≤ d ∧ d ≤ 4 then s.clusterOn (d - 1) else true) &&
    (match s.telCluster a with
     | some c => s.domOn (c + 1)
     | none => true)

/-- A register is defined at a block address; the KWY block of an ML2560-P reads 0 everywhere (note to R72). -/
def State.regAt (s : State) (a : Nat) : Bool :=
  (regSpec? a).isSome || (!s.isA && decide (0x601E0000 ≤ a ∧ a < 0x601F0000))

/-- Bytes of the fitted flash device. -/
def State.flashSize (s : State) : Nat := 2 ^ s.rf Reg.XSP_SIZE 4 0

/-- Until the runtime runs, HSPI reaches the SYS and SEC blocks only (R696). -/
def State.hspBarred (s : State) (m : Master) (a : Nat) : Bool :=
  m == .hsp && s.rf Reg.SEC_BOOTST 31 29 != 4 && a / 0x10000 != 0x6000 && a / 0x10000 != 0x6006

/-- Why an access is answered with an error: the CAUSE of CLH_ERRINFO, 0 for none. -/
def State.accessCause (s : State) (m : Master) (wr : Bool) (a size beats : Nat) : Nat :=
  match regionOf a with
  | none => 1
  | some (ok, lo, wrOk) =>
    if !ok m || s.hspBarred m a || (wr && !wrOk) || !sizeOk lo size a || beats = 0 || 16 < beats ||
        decide (a % 4096 + size * beats > 4096) || (singleWord a && (size ≠ 4 || beats ≠ 1)) then 2
    else if !s.powered a then 3
    else if 0x60000000 ≤ a ∧ a < 0x60200000 then (if s.regAt a then 0 else 4)
    else if 0x70000000 ≤ a ∧ a < 0x70100000 then (if s.isA && s.kwy.link == .up && decide (a < 0x70090000) then 0 else 5)
    else if 0x80000000 ≤ a ∧ a < 0x90000000 then (if a - 0x80000000 + size * beats ≤ s.flashSize then 0 else 5)
    else 0

/-- A register write by a row of its own, as the Steward runtime makes it: while the block has no power it ends with an
error response (R72, R609). -/
def regRow (a : Nat) (f : State → State) (s : State) : State :=
  if s.powered a then f s else (clhError .stw 0 true a 3 s).answer .err []

/-! ### Responses -/

/-- IDs of a master under a master reset (R606). -/
def State.underReset (s : State) (m : Master) (id : Nat) : Bool :=
  s.clh.resetting.any (fun e => e.1 == m && (e.2.isEmpty || e.2.contains id))

/-- A transaction gets its response. -/
def clhAnswer (t : Txn) (r : Resp) (data : List Byte) (s : State) : State :=
  s.setClh { s.clh with inflight := s.clh.inflight ++ [⟨t, r, data, s.underReset t.m t.id⟩] }

/-- A transaction gets ERR, or LKERR, with the record of R609. -/
def clhRefuse (t : Txn) (r : Resp) (cause : Nat) (s : State) : State :=
  clhAnswer t r [] (clhError t.m t.id t.wr t.addr cause s)

/-! ### Beats and strobes (R588, R589) -/

/-- The bytes that strobes leave written, as runs of consecutive addresses. An absent strobe is 1. -/
def strobeRuns : Nat → List Byte → List Bool → List (Nat × List Byte)
  | _, [], _ => []
  | a, b :: t, st =>
    let rest := strobeRuns (a + 1) t st.tail
    if st.headD true then
      match rest with
      | (x, l) :: r => if x = a + 1 then (a, b :: l) :: r else (a, [b]) :: rest
      | [] => [(a, [b])]
    else rest

/-- Every run covers whole units of `u` bytes. -/
def runsWhole (u : Nat) (l : List (Nat × List Byte)) : Bool := l.all (fun r => r.1 % u == 0 && r.2.length % u == 0)

/-- The narrowest write that Table 1.5 permits at `a`. -/
def unitAt (a : Nat) : Nat := match regionOf a with
  | some (_, (u, _)) => u
  | none => 1

/-- Whose locked sequence it is: each Remit channel has its own, every other master one (R599). -/
def seqOwner (m : Master) (id : Nat) : Master × Nat := (m, if m = .rmt then id / 2 else 0)

def holds (l : Option Lock) (m : Master) : Bool := match l with
  | some x => x.m == m
  | none => false

/-! ### Locks (R599 to R603) -/

/-- The lock of target `t`: Vault-S 0, Steward memory 1. -/
def Clh.lockOf (c : Clh) (t : Nat) : Option Lock := if t = 0 then c.lockV else if t = 1 then c.lockS else none

def Clh.setLock (c : Clh) (t : Nat) (l : Option Lock) : Clh :=
  if t = 0 then { c with lockV := l } else if t = 1 then { c with lockS := l } else c

/-- A locked transaction that may take no lock: a master other than STW and RMT, an address outside Vault-S and Steward
SRAM, or a second target while a lock is held (R599, R601). -/
def Clh.lockBad (c : Clh) (t : Txn) : Bool :=
  t.lock != .none &&
    (!(t.m == .stw || t.m == .rmt) ||
      !(t.target == 0 || (t.target == 1 && decide (0x1000000 ≤ t.addr))) ||
      (t.target == 0 && holds c.lockS t.m) || (t.target == 1 && holds c.lockV t.m))

/-- A transaction of a sequence that was forced open gets LKERR; its last one ends the sequence (R602). -/
def lockRefuse (t : Txn) (s : State) : State :=
  let s := clhRefuse t .lkerr 6 s
  if t.lock = .last then s.setClh { s.clh with forced := s.clh.forced.filter (fun e => e != (t.target, seqOwner t.m t.id)) } else s

def Clh.isForced (c : Clh) (t : Txn) : Bool := t.lock != .none && c.forced.contains (t.target, seqOwner t.m t.id)

/-! ### Requests (R588 to R590, R595) -/

/-- A request at a master port. What breaks a rule is answered with ERR and not performed. While its ID is under a master
reset the port takes nothing, and the request waits there (R606). -/
def request (t : Txn) (s : State) : State :=
  if s.underReset t.m t.id then s.setClh { s.clh with parked := s.clh.parked ++ [t] }
  else
    let c := s.accessCause t.m t.wr t.addr t.size t.beats
    let c := if c = 0 ∧ t.wr ∧ !runsWhole (unitAt t.addr) (strobeRuns t.addr t.data t.strobes) then 2 else c
    if c ≠ 0 then clhRefuse t .err c s
    else if s.clh.isForced t then lockRefuse t s
    else if s.clh.lockBad t then clhRefuse t .err 7 s
    else s.setClh { s.clh with waiting := s.clh.waiting ++ [t] }

/-- Remove the first response due to (m, id). -/
def takeDone (m : Master) (id : Nat) : List DoneTxn → Option (DoneTxn × List DoneTxn)
  | [] => none
  | d :: t => if d.txn.m == m && d.txn.id == id then some (d, t) else (takeDone m id t).map (fun r => (r.1, d :: r.2))

/-- The cluster's master port of a Teller. -/
def tellerMaster (t : Nat) : Master :=
  match t % 64 / 16 with
  | 0 => .tc0
  | 1 => .tc1
  | 2 => .tc2
  | _ => .tc3

/-! ### Master resets (R604 to R606) -/

/-- A response or a proxy access of the master and IDs is still due. -/
def State.stillDue (s : State) (m : Master) (ids : List Nat) : Bool :=
  let mine := fun (t : Txn) => t.m == m && (ids.isEmpty || ids.contains t.id)
  s.clh.inflight.any (fun d => mine d.txn) ||
    (match s.kwy.out with
     | some p => (match p.txn with
       | some t => mine t
       | none => false)
     | none => false)

/-- The lock of master `m` is released where one of `ids` holds it (no `ids`: all of them), and a sequence of theirs that was
forced open is over. -/
def Clh.unlock (c : Clh) (m : Master) (ids : List Nat) : Clh :=
  let mine := fun (x : Master × Nat) => x.1 == m && (ids.isEmpty || ids.any (fun i => seqOwner m i == x))
  let free := fun (l : Option Lock) => l.filter (fun x => !mine (seqOwner x.m x.id))
  { c with
    lockV := free c.lockV, lockS := free c.lockS, forced := c.forced.filter (fun e => !mine e.2) }

/-- A master reset: requests not granted are withdrawn, responses due are to be discarded, the lock is released. With
none due it is complete at once. -/
def masterReset (m : Master) (ids : List Nat) (s : State) : State :=
  let mine := fun (t : Txn) => t.m == m && (ids.isEmpty || ids.contains t.id)
  let c := s.clh.unlock m ids
  let s := s.setClh { c with
    waiting := c.waiting.filter (fun t => !mine t),
    parked := c.parked.filter (fun t => !mine t),
    inflight := c.inflight.map (fun d => if mine d.txn then { d with discard := true } else d) }
  let s := { s with
    kwy := { s.kwy with waiting := s.kwy.waiting.filter (fun p => match p.txn with
      | some t => !mine t
      | none => true) } }
  if s.stillDue m ids then s.setClh { s.clh with resetting := s.clh.resetting ++ [(m, ids)] }
  else s.evt Reg.CLH_EVT 2

/-- Requests that waited at their port are accepted once its reset has ended (R606). -/
def unpark (s : State) : State :=
  let due := s.clh.parked.filter (fun t => !s.underReset t.m t.id)
  due.foldl (fun s t => request t s)
    (s.setClh { s.clh with parked := s.clh.parked.filter (fun t => s.underReset t.m t.id) })

/-- Master resets of which nothing is due any more end: MRST (R606). -/
def resetsSettle (s : State) : State :=
  let done := s.clh.resetting.filter (fun e => !s.stillDue e.1 e.2)
  unpark ((s.setClh { s.clh with resetting := s.clh.resetting.filter (fun e => s.stillDue e.1 e.2) }).evtIf (!done.isEmpty)
    Reg.CLH_EVT 2)

end Sys2Proof.Machine
end

