-- ==== Sys2Proof/Machine/Sine.lean ====
section
/-! DEFINITION. The sines that the spec names (R376, R378, R424), in fixed point, and the roundings that it leaves open. -/

namespace Sys2Proof.Machine

/-- 1 in the fixed point of this file. -/
def sineOne : Nat := 2 ^ 60

/-- A quarter of pi in that fixed point. -/
def quarterPi : Nat := 905502432259640355

/-- The rest of a Taylor series after `term`, whose denominator ends in `k`, with `x2` the square of the argument. -/
def taylor (x2 : Int) : Nat → Int → Nat → Int
  | 0, term, _ => term
  | n + 1, term, k => term + taylor x2 n (-(term * x2 / sineOne) / ((k + 1) * (k + 2) : Nat)) (k + 2)

/-- Sine, and cosine, of `r / d` of an eighth of a turn. -/
def sineSmall (r d : Nat) : Int :=
  let x : Int := quarterPi * r / d
  taylor (x * x / sineOne) 12 x 1

def cosineSmall (r d : Nat) : Int :=
  let x : Int := quarterPi * r / d
  taylor (x * x / sineOne) 12 sineOne 0

/-- The sine of `n / d` of a turn. -/
def sine (n d : Nat) : Int :=
  let r := 8 * n % d
  match 8 * n / d % 8 with
  | 0 => sineSmall r d
  | 1 => cosineSmall (d - r) d
  | 2 => cosineSmall r d
  | 3 => sineSmall (d - r) d
  | 4 => -(sineSmall r d)
  | 5 => -(cosineSmall (d - r) d)
  | 6 => -(cosineSmall r d)
  | _ => -(sineSmall (d - r) d)

/-- The cosine of `n / d` of a turn. -/
def cosine (n d : Nat) : Int := sine (4 * n + d) (4 * d)

/-- `x / d` rounded as place `i` of the part rounds, where the spec does not say how (log entry 143). -/
def roundOpen (i : Nat) (x : Int) (d : Nat) : Int :=
  if x % d = 0 then x / d else if Config.roundsUp i x then x / d + 1 else x / d

/-- The largest number whose 20th power times `10 ^ n` is at most `2 ^ e`, by bisection from `lo`. -/
def level20 (e n : Nat) : Nat → Nat → Nat
  | 0, lo => lo
  | k + 1, lo => if (lo + 2 ^ k) ^ 20 * 10 ^ n ≤ 2 ^ e then level20 e n k (lo + 2 ^ k) else level20 e n k lo

/-- The amplitude of −`n` dBFS in 2^-20 of the amplifier format, 0 dBFS being 2^27. -/
def dbfs (n : Nat) : Nat := level20 940 n 48 0

/-- The built-in tone of R424 at sample `pos` of its period of 96 house samples: a sine with peak 2^25. -/
def toneSample (pos : Nat) : Int :=
  roundOpen 0 (33554432 * sine (pos % 96 + Config.tonePhase % 96) 96) sineOne

/-- The 21.000 kHz sine of R376 at −`plvl` dBFS, in the amplifier format, at a position in 1/64000 sample: 7 periods in 32
samples. -/
def pilotSine (plvl pos : Nat) : Int :=
  roundOpen 1 (dbfs plvl * sine (7 * pos + Config.pilotPhase) 2048000) (1048576 * sineOne)

/-- The squared magnitude of the single-bin DFT at 21.000 kHz of samples at 96 kHz (R378). -/
def dftBin (l : List Int) : Nat :=
  let re := l.zipIdx.foldl (fun (a : Int) e => a + e.1 * cosine (7 * e.2 % 32) 32) 0
  let im := l.zipIdx.foldl (fun (a : Int) e => a + e.1 * sine (7 * e.2 % 32) 32) 0
  re.natAbs ^ 2 + im.natAbs ^ 2

end Sys2Proof.Machine
end

