-- ==== Sys2Proof/Machine/FieldCore.lean ====
section
/-! DEFINITION. What the field-die commands of chapters 6 and 7 share: access to channels and boost controllers, the
played samples and their ramps, Strongbox playback, the fault relay. -/

namespace Sys2Proof.Machine

def State.setField (s : State) (f : Field) : State := { s with field := f }

def State.chan (s : State) (c : Nat) : Chan := aget s.field.chans Chan.reset c

def State.setChan (s : State) (c : Nat) (x : Chan) : State :=
  s.setField { s.field with chans := aput s.field.chans Chan.reset c x }

def State.bst (s : State) (p : Nat) : Bst := aget s.field.bsts Bst.reset p

def State.setBst (s : State) (p : Nat) (b : Bst) : State :=
  s.setField { s.field with bsts := aput s.field.bsts Bst.reset p b }

/-- The field die of an ML2560-A works: no supply, ball or temperature holds it in reset (R5, R728). -/
def State.fieldLive (s : State) : Bool := s.isA && !s.pwr.fSupply && !s.pwr.fPin && !s.pwr.fHot

/-! ### The fault relay (R420, Table 7.8) -/

/-- The state of FINk (FFIN_STATE): 0 normal, 1 active, 2 open, 3 short. -/
def State.finState (s : State) (k : Nat) : Nat := s.rf Reg.FFIN_STATE (2 * k + 1) (2 * k)

/-- An enabled fire input stands in state `st`. -/
def State.anyFin (s : State) (st : Nat) : Bool :=
  (List.range 8).any (fun k => s.rb Reg.FFIN_CFG k && s.finState k == st)

/-- The Strongbox is loaded: a load ended and was not rejected (R422). -/
def State.sbxLoaded (s : State) : Bool := s.rb Reg.FSBX_STATUS 31 && !s.rb Reg.FSBX_STATUS 30

/-- Message `e` of the load is valid. -/
def State.msgValid (s : State) (e : Nat) : Bool :=
  s.sbxLoaded && (if e < 32 then s.rb Reg.FSBX_VALIDLO e else s.rb Reg.FSBX_VALIDHI (e - 32))

def State.anyChan (s : State) (st : ChSt) : Bool := s.field.chans.any (fun e => e.2.st == st)

/-- Source `b` of Table 7.8. -/
def State.foutSource (s : State) (b : Nat) : Bool :=
  match b with
  | 0 => s.anyFin 2
  | 1 => s.anyFin 3
  | 2 => !s.sbxLoaded || (List.range 8).any (fun k =>
      s.rb (Reg.FSBX_OVR k) 31 && !s.msgValid (s.rf (Reg.FSBX_OVR k) 25 20))
  | 3 => s.field.autonomy
  | 4 => s.anyChan .lockout
  | 5 => s.anyChan .thermal
  | 6 => s.rb Reg.FMON_EVT 0 || s.rb Reg.FMON_EVT 1
  | 7 => s.rb Reg.FMON_EVT 2
  | 8 => s.field.bsts.any (fun e => e.2.st == .latched)
  | 9 => s.field.link != .up
  | _ => false

/-- A source enabled in FFIN_FOUT.MASK is active. -/
def State.foutActive (s : State) : Bool := (List.range 10).any (fun b => s.rb Reg.FFIN_FOUT b && s.foutSource b)

/-- FOUT after a change of its sources: released while one is active, and with LATCH = 1 from then on. -/
def foutSettle (s : State) : State :=
  let was := s.rb Reg.FFIN_FOUT 31
  let rel := s.foutActive || (s.rb Reg.FFIN_FOUT 30 && was)
  (s.setBit Reg.FFIN_FOUT 31 rel).fevtIf (rel && !was) Reg.FFIN_EVT 4

/-- A write of FFIN_FOUT: CLR ends a latched release when no source is active. -/
def foutWrite (v : Word) (s : State) : State :=
  let s := s.typeWrite Reg.FFIN_FOUT v
  if bit v 29 && !s.foutActive then s.setBit Reg.FFIN_FOUT 31 false else s

/-- A command on the field die: nothing happens while it is in reset or absent; the fault relay follows. -/
def fieldDo (s : State) (f : State → State) : Host.Outcome State Fault Refusal :=
  .next (if s.fieldLive then foutSettle (f s) else s)

/-! ### Played samples (R335, R402) -/

/-- The house sample number 8m + j of the last sample that began to play by now, as an integer: sample 0 of output folio
f − 1 begins 25.000 µs after the start of field folio f, and samples follow every 32,000 / 3 ticks. -/
def State.sampleNow (s : State) : Int :=
  8 * ((s.field.folio : Int) - 1) + ((s.clock : Int) - s.field.folioAt - 25600) * 3 / 32000

/-- The house position, in 1/64000 sample, that plays half of `n` FIELD cycles from now (R336); never negative. -/
def State.centrePos (s : State) (n : Nat) : Nat :=
  (512000 * ((s.field.folio : Int) - 1) + 3 * (2 * ((s.clock : Int) - s.field.folioAt - 25600) + n)).toNat

/-- The number of the next sample boundary, at or after now. -/
def State.nextSample (s : State) : Nat :=
  (8 * ((s.field.folio : Int) - 1) - (-(((s.clock : Int) - s.field.folioAt - 25600) * 3)) / 32000).toNat

/-- The first sample number of the next folio to play. -/
def State.nextFolioSample (s : State) : Nat := (s.nextSample + 7) / 8 * 8

/-- A ramp applied to sample `n`, of value `u` if there is audio (R354, R355, R404). -/
def Fade.apply (f : Fade) (n : Nat) (u : Option Int) : Int :=
  match f with
  | .on => u.getD 0
  | .up n0 len =>
    if n < n0 then 0 else if n + 1 - n0 < len then roundHalfUp (u.getD 0 * ((n + 1 - n0 : Nat) : Int)) len else u.getD 0
  | .out n0 v =>
    if n < n0 then u.getD v
    else if n0 + 7 ≤ n then 0 else roundHalfUp (u.getD v * (8 - ((n + 1 - n0 : Nat) : Int))) 8

/-- Host audio of channel `c` at sample number `n`, if its BLOCK was accepted. -/
def State.hostSample (s : State) (c n : Nat) : Option Int :=
  match s.field.blocks.find? (fun b => b.1 == n / 8) with
  | some b => some (signed 32 (aget b.2 0 (32 * (n % 8) + c)).toNat)
  | none => none

/-- House samples of message `e`. -/
def State.msgLen (s : State) (e : Nat) : Nat := 2 * (s.field.msgs.getD e ⟨0, 0, false⟩).nsamp

/-- The 16-bit samples of message `e` in the Strongbox. -/
def State.msgSamples (s : State) (e : Nat) : List (BitVec 16) :=
  let m := s.field.msgs.getD e ⟨0, 0, false⟩
  (List.range m.nsamp).map (fun i => s.rdHalf (0x200001000 + m.off + 2 * i))

/-- The house samples of one run of a playback: its message, or one on-burst of the tone (R424). -/
def State.playLen (s : State) (p : Play) : Nat := if p.tone then 48000 else s.msgLen p.msg

/-- House sample `pos` of the half-band interpolator of R423, of group delay 24, over 16-bit samples at 48 kHz: 2^15
maps to 2^27, a sample of the input comes out unchanged where the filter is centred on it, and a symmetric filter of
24 taps gives the samples between two. With `loop` the samples repeat without end. -/
def sbxInterpolate (loop : Bool) (l : List (BitVec 16)) (pos : Nat) : Int :=
  let x := fun (i : Int) =>
    if i < 0 then (0 : Int) else (l.getD (if loop then i.toNat % l.length else i.toNat) 0).toInt
  let i : Int := ((pos : Int) - 24) / 2
  if pos % 2 = 0 then 4096 * x i
  else roundOpen 3 ((List.range 12).foldl (fun (a : Int) (k : Nat) =>
    a + (Config.sbxTap k).toInt * (x (i - k) + x (i + 1 + k))) 0) 262144

/-- How long the interpolator still holds of a message after its last sample. -/
def sbxTail : Nat := 48

/-- House sample `pos` of a playback, clamped to the amplifier range (R423, R424, R430): the tone is 0.5 s on and 0.5
s off; a message and what the interpolator still holds of it are followed by 0, or with `loop` by the message again
(R425). -/
def State.playLoop (s : State) (loop : Bool) (p : Play) (pos : Nat) : Int :=
  let x := if p.tone then (if pos % 96000 < 48000 then toneSample pos else 0)
    else if loop || decide (pos < s.msgLen p.msg + sbxTail) then sbxInterpolate loop (s.msgSamples p.msg) pos else 0
  satAmp (scale22 x (coef p.gain))

def State.playSample (s : State) (p : Play) (pos : Nat) : Int := s.playLoop false p pos

/-- Channel `c` is claimed by an asserted override entry (R428). -/
def State.claimed (s : State) (c : Nat) : Bool := s.field.ovr.any (fun e => e.1 == c)

def State.ovrOf (s : State) (c : Nat) : Option OvrCh := (s.field.ovr.find? (fun e => e.1 == c)).map (fun e => e.2)

/-- Sample `n` of a source of channel `c`, if it has audio. -/
def State.srcSample (s : State) (c n : Nat) (a : AudioSrc) : Int :=
  match a with
  | .host => (s.chan c).src.apply n (s.hostSample c n)
  | .silence => 0
  | .message p => if n < p.start then 0 else s.playSample p (n - p.start)
  | .ending f => f.apply n (s.hostSample c n)

/-- What the audio source gives channel `c` at sample `n`: a source that is to be replaced ramps to 0 over the 8 samples
before (R429, R431). -/
def State.sourceSample (s : State) (c n : Nat) : Int :=
  let x := s.chan c
  let way := fun (n2 : Nat) (a : AudioSrc) => Fade.apply (.out (n2 - 8) 0) n (some (s.srcSample c n a))
  let now := match x.nxt with
    | none => s.srcSample c n x.cur
    | some (n2, a) => if n2 ≤ n then s.srcSample c n a else way n2 x.cur
  match x.prev with
  | some (n1, a) => if n < n1 then way n1 a else now
  | none => now

/-- The ramp-out of a missing folio at sample `n`: it starts from a sample as played, which no other ramp scales again
(R404). -/
def State.missingRamp (s : State) (c n : Nat) : Bool :=
  let x := s.chan c
  match x.src with
  | .out n0 _ => decide (n0 ≤ n) && x.cur == .host && x.nxt.isNone && (s.hostSample c n).isNone
  | _ => false

/-- Sample `n` as channel `c` plays it: 0 unless audio plays, and then the source under the ramp of the sequence. -/
def State.ampSample (s : State) (c n : Nat) : Int :=
  let x := s.chan c
  match x.ph with
  | .rampIn => if s.missingRamp c n then s.sourceSample c n else x.seq.apply n (some (s.sourceSample c n))
  | .playing | .rampOut => x.seq.apply n (some (s.sourceSample c n))
  | _ => 0

/-- The last sample that channel `c` played. -/
def State.lastPlayed (s : State) (c : Nat) : Int := s.ampSample c s.sampleNow.toNat

/-- The source of channel `c` ramps to 0 over the 8 samples from number `n`. -/
def sourceOut (c n : Nat) (s : State) : State :=
  s.setChan c { s.chan c with src := .out n (s.lastPlayed c) }

/-! ### Channel states -/

/-- Safe-off (R327): PWM and EN at 0; a sequence in progress is abandoned. -/
def Chan.safeOff (x : Chan) : Chan :=
  { x with
    ph := .none, tko := false, hot := false, en := false, pwm := false, wa := 0, wb := 0, ta := 0, tb := 0,
    ilim := false, ilimRun := 0, seq := .on, pilot := false, fltOn := false, probing := false }

/-- The start sequence waits for its carrier boundary (R354). -/
def Chan.begin (x : Chan) (st : ChSt) : Chan := { x.safeOff with st := st, ph := .waitRail }

/-- The playback of message `e` with gain code `g` from sample `n`: the tone in its place if it is not valid (R424). -/
def State.newPlay (s : State) (e n g : Nat) (rep : Bool) : Play := ⟨e, n, rep, g, !s.msgValid e⟩

/-- The playback of override entry `k` from sample `n`. -/
def State.entryPlay (s : State) (k n : Nat) : Play :=
  s.newPlay (s.rf (Reg.FSBX_OVR k) 25 20) n (s.rf (Reg.FSBX_OVR k) 15 0) (s.rb (Reg.FSBX_OVR k) 29)

def State.setOvr (s : State) (c : Nat) (o : OvrCh) : State :=
  s.setField { s.field with ovr := ainsert (adel s.field.ovr c) c o }

/-- The message of a claimed channel that waited for `w` begins at sample `n` (R429, R430). -/
def messageStart (c n : Nat) (w : OvrWait) (s : State) : State :=
  match s.ovrOf c with
  | some o =>
    if o.wait = w then
      (s.setOvr c { o with wait := .no }).setChan c { s.chan c with
        cur := .message (s.entryPlay o.entry n), nxt := none, prev := none }
    else s
  | none => s

/-- A channel enters OFF; one that is claimed goes on to START (Table 6.3), and its message begins with the ramp-in
(R429). -/
def enterOff (c : Nat) (s : State) : State :=
  match s.ovrOf c with
  | some o =>
    (s.setOvr c { o with wait := .ramp }).setChan c
      { (s.chan c).begin .start with cur := .silence, nxt := none, prev := none }
  | none => s.setChan c { (s.chan c).safeOff with st := .off }

/-! ### The numbering of field folios (R402) -/

def Fade.shift (f : Fade) (d : Int) : Fade :=
  match f with
  | .on => .on
  | .up n len => .up (n + d).toNat len
  | .out n v => .out (n + d).toNat v

def AudioSrc.shift (a : AudioSrc) (d : Int) : AudioSrc :=
  match a with
  | .host => .host
  | .silence => .silence
  | .message p => .message { p with start := (p.start + d).toNat }
  | .ending f => .ending (f.shift d)

/-- The sample numbers of a channel, of which `d` more are counted. -/
def Chan.shift (x : Chan) (d : Int) : Chan :=
  { x with
    seq := x.seq.shift d, src := x.src.shift d, cur := x.cur.shift d
    nxt := x.nxt.map (fun (e : Nat × AudioSrc) => ((e.1 + d).toNat, e.2.shift d))
    prev := x.prev.map (fun (e : Nat × AudioSrc) => ((e.1 + d).toNat, e.2.shift d))
    pilUp := (x.pilUp + d).toNat, pilOut := x.pilOut.map (fun n => (n + d).toNat), winAt := (x.winAt + d).toNat }

def Player.shift (x : Player) (d : Int) : Player :=
  let f := fun (p : Play) => { p with start := (p.start + d).toNat }
  { x with go := x.go.map f, play := x.play.map f }

/-- The field folio in progress gets a number `k` higher: what is under way goes on at the sample numbers that follow. -/
def renumber (k : Int) (s : State) : State :=
  if k = 0 then s
  else s.setField { s.field with
    chans := s.field.chans.map (fun (e : Nat × Chan) => (e.1, e.2.shift (8 * k)))
    players := s.field.players.map (fun (e : Nat × Player) => (e.1, e.2.shift (8 * k)))
    ovrNeeds := [] }

end Sys2Proof.Machine
end

