-- ==== Sys2Proof/Machine/PowerStage.lean ====
section
/-! DEFINITION. The commands of chapter 6: channels and their sequences, modulation, carrier assignment, boost, hinge
switches, protection, line and earth monitoring. -/

namespace Sys2Proof.Machine

/-- A command that concerns channel `c` of 0 to 31. -/
def chanDo (c : Nat) (s : State) (f : State → State) : Host.Outcome State Fault Refusal :=
  fieldDo s (fun s => if c < 32 then f s else s)

/-- A command that concerns boost controller `p` of 0 to 15. -/
def pairDo (p : Nat) (s : State) (f : State → State) : Host.Outcome State Fault Refusal :=
  fieldDo s (fun s => if p < 16 then f s else s)

/-- A command in a state that does not accept it (R352, R364, R432). -/
def cmdRefused (c : Nat) (s : State) : State := s.fevtC Reg.FPWM_EVT 6 c 0

/-! ### Commands (R352, R353, R432) -/

/-- START: accepted in OFF, unless the channel is claimed. -/
def startOp (c : Nat) (s : State) : State :=
  let x := s.chan c
  if x.st = .off ∧ !s.claimed c ∧ !s.field.overTemp then s.setChan c (x.begin .start) else cmdRefused c s

/-- The ramp-out of a channel (R355): from the next sample boundary where audio plays, done at once where none does;
one in progress goes on. -/
def State.rampOutSeq (s : State) (c : Nat) : Fade :=
  match (s.chan c).ph with
  | .rampIn | .playing => .out s.nextSample (s.lastPlayed c)
  | .rampOut => (s.chan c).seq
  | _ => .out 0 0

/-- STOP: the stop sequence begins with a ramp-out (R355), also of a channel that ramps out for an NTC trip (Table
6.3); in TRIP it cancels the retry, in THERMAL the restart; in STOP nothing more happens. -/
def stopOp (c : Nat) (s : State) : State :=
  let x := s.chan c
  if s.claimed c then cmdRefused c s
  else match x.st with
    | .off | .lockout => cmdRefused c s
    | .trip | .thermal => s.setChan c { x.safeOff with st := .off }
    | .stop => s
    | .start | .run | .probe => s.setChan c { x with st := .stop, ph := .rampOut, hot := false, pilot := false, seq := s.rampOutSeq c }

/-- CLEAR: LOCKOUT to OFF. -/
def clearOp (c : Nat) (s : State) : State :=
  if (s.chan c).st = .lockout then
    enterOff c (s.setReg Reg.FPRO_LOCK (s.reg Reg.FPRO_LOCK &&& ~~~(bitw c)))
  else cmdRefused c s

def execStart (c : Nat) (s : State) : Host.Outcome State Fault Refusal := chanDo c s (startOp c)

def execStop (c : Nat) (s : State) : Host.Outcome State Fault Refusal := chanDo c s (stopOp c)

def execClear (c : Nat) (s : State) : Host.Outcome State Fault Refusal := chanDo c s (clearOp c)

/-- A write of FPWM_CHCMDc. -/
def chcmdWrite (c : Nat) (v : Word) (s : State) : State :=
  match fld v 1 0 with
  | 1 => startOp c s
  | 2 => stopOp c s
  | 3 => clearOp c s
  | _ => s

/-! ### Start and stop sequences (R354, R355) -/

/-- At a carrier boundary with the rail at least 20.00 V, EN rises. -/
def startSequenceOp (c : Nat) (s : State) : State :=
  let x := s.chan c
  if x.ph = .waitRail ∧ 400 ≤ (s.bst (c / 2)).rail then s.setChan c { x with en := true, ph := .enable } else s

def execStartSequence (c : Nat) (s : State) : Host.Outcome State Fault Refusal := chanDo c s (startSequenceOp c)

/-- Both pulses at 50 % duty (R338). -/
def Chan.half (x : Chan) : Chan := { x with wa := 4 * x.div, wb := 4 * x.div, ta := 2 * x.div, tb := 2 * x.div }

/-- TEN has elapsed since EN rose: FLT counts (R356), and a channel not stopped meanwhile releases both outputs
together at 50 %, with c of R337 at 0. -/
def enableTimeElapsedOp (c : Nat) (s : State) : State :=
  let x := s.chan c
  if !x.en then s
  else if x.ph = .enable then s.setChan c { x.half with pwm := true, ph := .hold50, err := 0, fltOn := true }
  else s.setChan c { x with fltOn := true }

def execEnableTimeElapsed (c : Nat) (s : State) : Host.Outcome State Fault Refusal := chanDo c s (enableTimeElapsedOp c)

/-- 50 % has been held: audio, or the message of a channel claimed in OFF, ramps in from the next sample boundary. -/
def hold50CompleteOp (c : Nat) (s : State) : State :=
  let x := s.chan c
  if x.ph = .hold50 then
    let n := s.nextSample
    let len := if x.tko then 8 else s.rf Reg.FPWM_RAMP 9 0
    messageStart c n .ramp (s.setChan c { x with ph := .rampIn, seq := .up n len })
  else s

def execHold50Complete (c : Nat) (s : State) : Host.Outcome State Fault Refusal := chanDo c s (hold50CompleteOp c)

/-- The channel reaches RUN; a message that waited for RUN begins (R429). -/
def enterRun (c : Nat) (s : State) : State :=
  messageStart c s.nextSample .run (s.setChan c { s.chan c with st := .run, tko := false, probing := false })

/-- The ramp-in has ended; START goes on to RUN, PROBE waits for PROBET. -/
def rampInCompleteOp (c : Nat) (s : State) : State :=
  let x := s.chan c
  if x.ph = .rampIn then
    let s := s.setChan c { x with ph := .playing, seq := .on }
    if x.st = .start then enterRun c s else s
  else s

def execRampInComplete (c : Nat) (s : State) : Host.Outcome State Fault Refusal := chanDo c s (rampInCompleteOp c)

/-- The 8-sample ramp-out has ended: 50 % is held, or after an NTC trip the channel is at safe-off in THERMAL. -/
def stopRampOutCompleteOp (c : Nat) (s : State) : State :=
  let x := s.chan c
  if x.ph = .rampOut then
    if x.hot then s.setChan c { x.safeOff with st := .thermal }
    else s.setChan c { (if x.pwm then x.half else x) with ph := .stopHold, seq := .on }
  else s

def execStopRampOutComplete (c : Nat) (s : State) : Host.Outcome State Fault Refusal := chanDo c s (stopRampOutCompleteOp c)

/-- HOLD50 periods have passed: both PWM outputs fall to 0. -/
def stopHold50CompleteOp (c : Nat) (s : State) : State :=
  let x := s.chan c
  if x.ph = .stopHold then s.setChan c { x with pwm := false, wa := 0, wb := 0, ta := 0, tb := 0, ph := .stopEn } else s

def execStopHold50Complete (c : Nat) (s : State) : Host.Outcome State Fault Refusal := chanDo c s (stopHold50CompleteOp c)

/-- TEN has elapsed: EN falls and the channel enters OFF. -/
def stopEnableTimeElapsedOp (c : Nat) (s : State) : State :=
  if (s.chan c).ph = .stopEn then enterOff c s else s

def execStopEnableTimeElapsed (c : Nat) (s : State) : Host.Outcome State Fault Refusal :=
  chanDo c s (stopEnableTimeElapsedOp c)

/-! ### Modulation (R331 to R345) -/

/-- The divider that the carrier assignment gives channel `c` (R341 to R343). -/
def State.assigned (s : State) (c : Nat) : Nat :=
  if s.rf Reg.FPWM_CTRL 1 0 = 1 ∧ s.field.avoid ≠ [] then
    s.field.avoid.getD (c / 2 % s.field.avoid.length) 556
  else s.rf Reg.FPWM_CTRL 27 16

/-- elim of R337, without the limit of R372. -/
def State.elim (s : State) (c div : Nat) : Nat :=
  Nat.min (8 * div * s.rf (Reg.FPWM_CHCFG c) 15 0 / 131072) (4 * div - s.rf Reg.FPWM_TIM 7 0)

/-- The limit of R372 on a channel released for a retry, until PROBET has elapsed, with the rail in 50 mV. -/
def State.probeLim (s : State) (c div rail : Nat) : Nat :=
  8 * div * s.rf (Reg.FPWM_CHCFG c) 15 0 * s.rf Reg.FBST_LIM 11 0 / (131072 * rail)

/-- The pulse widths of one period at input `u` (R337 to R340). -/
def modulate (c : Nat) (u : Int) (s : State) : State :=
  let x := s.chan c
  let rail := (s.bst (c / 2)).rail
  if rail < 400 then (s.setChan c x.half).fevtC Reg.FPWM_EVT 3 c 0
  else
    let q := u * (s.rf (Reg.FPWM_CHCFG c) 31 16 : Nat) * (8 * x.div : Nat) * 16777216 / ((5 * 268435456 * rail : Nat) : Int) + x.err
    let e := roundHalfUp q 16777216
    let lim : Int := if x.probing then Nat.min (s.elim c x.div) (s.probeLim c x.div rail) else s.elim c x.div
    let e' := clampI (-lim) lim e
    let wa := (4 * x.div + e').toNat
    let wb := (4 * x.div - e').toNat
    let s := s.setChan c { x with
      err := q - e * 16777216, wa := wa, wb := wb, ta := (8 * x.div - wa) / 2, tb := (8 * x.div - wb) / 2 }
    if e' = e then s else s.fevtC Reg.FPWM_EVT 2 c 0

/-- How many samples the interpolator of R336 holds (log entry 107). -/
def winLen : Nat := 16

/-- The samples of channel `c` up to number `n` enter the interpolator; the latest one stands as it is played now,
since what begins with it may have begun after it entered. -/
def enterSamples (c n : Nat) (s : State) : State :=
  let x := s.chan c
  let k := Nat.min winLen (n + 1 - x.winAt)
  let new := (List.range k).map (fun i => s.ampSample c (n - i))
  s.setChan c { x with win := (new ++ x.win.drop 1).take winLen, winAt := n }

/-- The pilot of channel `c` at a position (R376, R377): a ramp in over 96 samples, a ramp out over 8. -/
def State.pilotAt (s : State) (c pos : Nat) : Int :=
  let x := s.chan c
  let n := pos / 64000
  if x.pilot then
    let v := (Fade.up x.pilUp 96).apply n (some (pilotSine (s.rf Reg.FMON_CTRL 23 16) pos))
    match x.pilOut with
    | some o => (Fade.out o 0).apply n (some v)
    | none => v
  else 0

/-- u_k of R336 for channel `c` at a position: the stream through the interpolator, which gives 0 for a stream of 0,
and the pilot (R376). -/
def State.evaluate (s : State) (c pos : Nat) : Int :=
  let w := (s.chan c).win
  (if w.all (fun v => v == 0) then 0 else satAmp (Config.interpolate w pos)) + s.pilotAt c pos

/-- The pilot of channel `c` has ended once its ramp-out has played. -/
def pilotSettle (c pos : Nat) (s : State) : State :=
  let x := s.chan c
  match x.pilOut with
  | some o => if o + 8 ≤ pos / 64000 then s.setChan c { x with pilot := false, pilOut := none } else s
  | none => s

/-- A carrier period of channel `c` begins: a changed divider takes force (R344), the ILIM state of the ended period is
settled, the sample stream is evaluated at the period's centre (R336), and a modulating channel gets its pulse widths. -/
def carrierPeriodOp (c : Nat) (s : State) : State :=
  let n := s.assigned c
  let pos := s.centrePos n
  let s := pilotSettle c pos (enterSamples c (pos / 64000) s)
  let u := s.evaluate c pos
  let x := s.chan c
  let x := { x with
    ilimRun := if x.ilim then x.ilimRun else 0, ilim := false,
    err := if n = x.div then x.err else 0, div := n, stagger := (roundHalfUp (c * (8 * n)) 32).toNat }
  let s := s.setChan c x
  if x.pwm then
    match x.ph with
    | .rampIn | .playing | .rampOut => modulate c u s
    | _ => s.setChan c x.half
  else s

def execCarrierPeriod (c : Nat) (s : State) : Host.Outcome State Fault Refusal := chanDo c s (carrierPeriodOp c)

/-- A write of FPWM_CTRL: a divider or mode out of range is ignored (R343); what it assigns takes force at the carrier
periods. -/
def carrierModeWriteOp (v : Word) (s : State) : State :=
  let n := fld v 27 16
  let m := fld v 1 0
  let s := s.setBit Reg.FPWM_CTRL 29 (bit v 29)
  let s := if 427 ≤ n ∧ n ≤ 3413 then s.setFld Reg.FPWM_CTRL 27 16 n else s.fevt Reg.FPWM_EVT 5
  if m ≤ 1 then s.setFld Reg.FPWM_CTRL 1 0 m else s.fevt Reg.FPWM_EVT 5

def execCarrierModeWrite (v : Word) (s : State) : Host.Outcome State Fault Refusal := fieldDo s (carrierModeWriteOp v)

/-- Divider `n` is clear of the protected frequency `f` with guard `g` + SBW, both in Hz, for every harmonic 1 to 5
(R347). -/
def clearOf (n f g tol : Nat) : Bool :=
  (List.range 5).all (fun i =>
    let h := i + 1
    let d : Int := (h * 1024000000 : Nat) - (f * n : Nat)
    decide ((g * n * 10000 + h * 1024000000 * tol : Nat) ≤ d.natAbs * 10000))

/-- Divider `n` is clear of every enabled protected entry. -/
def State.divClear (s : State) (n : Nat) : Bool :=
  (List.range 64).all (fun k =>
    !s.rb (Reg.FPWM_PROT k) 31 ||
      clearOf n (s.rf (Reg.FPWM_PROT k) 23 0 * 100) ((s.rf (Reg.FPWM_PROT k) 30 24 + s.rf Reg.FPWM_AVD 7 0) * 1000)
        (s.rf Reg.FPWM_AVD 23 16))

/-- The search order of R348 from offset `d`: up to `want` clear dividers within NLO to NHI. -/
def State.search (s : State) : Nat → Nat → Nat → List Nat
  | 0, _, _ => []
  | fuel + 1, d, want =>
    let p := s.rf Reg.FPWM_CTRL 27 16
    let lo := s.rf Reg.FPWM_RANGE 11 0
    let hi := s.rf Reg.FPWM_RANGE 27 16
    let cand := if d = 0 then [p] else if d ≤ p then [p + d, p - d] else [p + d]
    let got := (cand.filter (fun n => decide (lo ≤ n ∧ n ≤ hi) && s.divClear n)).take want
    if want ≤ got.length then got else got ++ s.search fuel (d + 1) (want - got.length)

/-- A write of FPWM_AVD; RUN starts a run with the values of that moment (R350). -/
def avoidanceRunOp (v : Word) (s : State) : State :=
  let s := s.typeWrite Reg.FPWM_AVD v
  if !bit v 31 then s
  else if s.rb Reg.FPWM_AVDST 31 then s.fevt Reg.FPWM_EVT 6
  else
    (s.setField { s.field with avdRun := some (s.search 3414 0 (2 * s.rf Reg.FPWM_AVD 9 8 + 1)) }).setBit Reg.FPWM_AVDST 31 true

def execAvoidanceRun (v : Word) (s : State) : Host.Outcome State Fault Refusal := fieldDo s (avoidanceRunOp v)

/-- A run completes: its clear dividers are held, or none was found and the assignment stays (R349). -/
def avoidanceRunCompleteOp (s : State) : State :=
  match s.field.avdRun with
  | none => s
  | some l =>
    let s := s.setReg Reg.FPWM_AVDST
      (wd ((if l = [] then 1 else 0) * 1073741824 + l.length * 134217728 + l.headD 0))
    if l = [] then (s.setField { s.field with avdRun := none }).fevt Reg.FPWM_EVT 1
    else (s.setField { s.field with avdRun := none, avoid := l }).fevt Reg.FPWM_EVT 0

def execAvoidanceRunComplete (s : State) : Host.Outcome State Fault Refusal := fieldDo s avoidanceRunCompleteOp

/-! ### Boost (R357 to R362) -/

/-- The need of channel `c` for envelope `e`, in 50 mV rounded up (R357). -/
def State.need (s : State) (c e : Nat) : Nat :=
  let d := (s.chan c).div
  let den := 5 * 268435456 * Nat.max 1 (s.elim c d)
  (s.rf (Reg.FPWM_CHCFG c) 31 16 * e * (8 * d) + den - 1) / den

/-- The envelope of output folio `m` is applied from now on (R359); the four latest stay. -/
def applyEnvelope (m : Nat) (env : Nat → Nat) (s : State) : State :=
  let tab (f : Nat → Nat) : List (Nat × Nat) := (List.range 32).foldl (fun l c => aput l 0 c (f c)) []
  let f := s.field
  s.setField { f with
    envs := ((m, tab env) :: f.envs.filter (fun e => e.1 != m)).take 4,
    needs := ((m, tab (fun c => s.need c (env c))) :: f.needs.filter (fun e => e.1 != m)).take 4 }

/-- Whether the envelope of output folio `m` still applies: its last sample has not played. -/
def State.applying (s : State) (m : Nat) : Bool := decide (s.sampleNow < 8 * (m : Int) + 8)

/-- The largest sample magnitude that a claimed channel plays in the folio whose samples are numbered from `8 * m`. -/
def State.ovrEnv (s : State) (c m : Nat) : Nat :=
  (List.range 8).foldl (fun e i => Nat.max e (s.sourceSample c (8 * m + i)).natAbs) 0

/-- The playback envelopes of channel `c` for the folio whose samples play and the next two (R358): a need stands as
it was formed, under the divider in force then, while its envelope does. -/
def formOvr (c : Nat) (s : State) : State :=
  let old := aget s.field.ovrNeeds [] c
  let new := if !s.claimed c then []
    else (List.range 3).map (fun i =>
      let m := s.sampleNow.toNat / 8 + i
      let e := s.ovrEnv c m
      (m, (e, match old.find? (fun o => o.1 == m && o.2.1 == e) with
        | some o => o.2.2
        | none => s.need c e)))
  s.setField { s.field with ovrNeeds := aput s.field.ovrNeeds [] c new }

/-- The contributions of channel `c` to its pair (R358). -/
def State.contributions (s : State) (c : Nat) : List Nat :=
  match (s.chan c).st with
  | .start | .run | .stop =>
    match s.ovrOf c with
    | some _ => (aget s.field.ovrNeeds [] c).map (fun o => o.2.2)
    | none => (s.field.needs.filter (fun e => s.applying e.1)).map (fun e => aget e.2 0 c)
  | _ => []

/-- The target of pair `p` in 50 mV (R359). -/
def State.target (s : State) (p : Nat) : Nat :=
  let vmin := s.rf Reg.FBST_LIM 11 0
  match s.contributions (2 * p) ++ s.contributions (2 * p + 1) with
  | [] => vmin
  | l => Nat.min (s.rf Reg.FBST_LIM 27 16) (Nat.max vmin (l.foldl Nat.max 0 + s.rf Reg.FBST_SLEW 27 16))

/-- The set point one carrier period of `n` cycles nearer to its target (R360), in 1/10240 mV. -/
def slewSet (set target up dn n : Nat) : Nat :=
  if set ≤ target then Nat.min target (set + 1000 * up * n) else Nat.max target (set - dn * n)

/-- A carrier period of pair `p` with its rail and the bus measured, in 50 mV (R330, R360, R361); the gate turns on qt / 2
ticks after the start of the period of channel 2p (R333);
the set point does not rise while a field supply is below warning (R727). -/
def boostPeriodOp (p rail bus : Nat) (s : State) : State :=
  let s := formOvr (2 * p + 1) (formOvr (2 * p) s)
  let b := s.bst p
  let rail := Nat.min rail 4095
  let s := s.setFld Reg.FBST_BUS 11 0 (Nat.min bus 4095)
  let set := slewSet b.set (512000 * s.target p) (s.rf Reg.FBST_SLEW 7 0) (s.rf Reg.FBST_SLEW 15 8) (s.chan (2 * p)).div
  let set := if s.rf Reg.FSYS_SUP 26 24 = 0 then set else Nat.min b.set set
  let ov := b.ov && decide (s.rf Reg.FBST_PROT 27 16 ≤ rail + 40)
  let st : BstSt := match b.st with
    | .ocWait => .ocWait
    | .latched => .latched
    | _ => if !s.rb Reg.FBST_CTRL p then .off else if set ≤ 512000 * bus then .belowBus else .regulating
  s.setBst p { b with
    st := st, set := set, rail := rail, gate := decide (st = .regulating) && !ov, gateAt := 4 * (s.chan (2 * p)).div,
    oc := false, ocRun := if b.oc then b.ocRun else 0, ov := ov }

def execBoostPeriod (p rail bus : Nat) (s : State) : Host.Outcome State Fault Refusal := pairDo p s (boostPeriodOp p rail bus)

/-- A boost controller whose EN is written: 1 frees one that is latched off (Table 6.5); 0 keeps the gate at 0 (R361). -/
def Bst.enable (b : Bst) (en : Bool) : Bst :=
  match b.st, en with
  | .latched, true => { b with st := .off, ocRun := 0, ocTimes := [] }
  | .regulating, false | .belowBus, false => { b with st := .off, gate := false }
  | _, false => { b with gate := false }
  | _, true => b

/-- A write of FBST_CTRL. -/
def fbstCtrlWrite (v : Word) (s : State) : State :=
  forN 16 (s.typeWrite Reg.FBST_CTRL v) (fun s p => s.setBst p ((s.bst p).enable (bit v p)))

/-! ### Hinge switches (R363 to R366) -/

/-- A write of FPWM_HSW changes the switches of channels in OFF, TRIP or LOCKOUT; another change is refused. -/
def hswWriteOp (v : Word) (s : State) : State :=
  let old := s.reg Reg.FPWM_HSW
  let may := (List.range 32).foldl (fun m c =>
    match (s.chan c).st with
    | .off | .trip | .lockout => m + 2 ^ c
    | _ => m) 0
  let new := (old &&& ~~~(wd may)) ||| (v &&& wd may)
  (s.setReg Reg.FPWM_HSW new).fevtIf (decide (new ≠ v)) Reg.FPWM_EVT 4

def execHswWrite (v : Word) (s : State) : Host.Outcome State Fault Refusal := fieldDo s (hswWriteOp v)

/-- A takeover start of one channel (R364). -/
def takeoverOne (c : Nat) (s : State) : State :=
  let x := s.chan c
  if x.st = .off ∧ !s.claimed c then
    (s.setBit Reg.FPWM_HSW c true).setChan c { x.safeOff with st := .start, ph := .hswt, tko := true }
  else cmdRefused c s

/-- A write of FPWM_TKO. -/
def takeoverStartOp (v : Word) (s : State) : State :=
  forN 32 s (fun s c => if bit v c then takeoverOne c s else s)

def execTakeoverStart (v : Word) (s : State) : Host.Outcome State Fault Refusal := fieldDo s (takeoverStartOp v)

/-- HSWT has elapsed: the start sequence begins. -/
def hswtElapsedOp (c : Nat) (s : State) : State :=
  let x := s.chan c
  if x.ph = .hswt then s.setChan c { x with ph := .waitRail } else s

def execHswtElapsed (c : Nat) (s : State) : Host.Outcome State Fault Refusal := chanDo c s (hswtElapsedOp c)

/-- Entry to AUTONOMY with FPWM_CTRL.HINGE = 1 (R365). -/
def hingeSafeOff (s : State) : State :=
  if s.rb Reg.FPWM_CTRL 29 then
    forN 32 s (fun s c =>
      if s.rb Reg.FPWM_HSW c ∧ !s.claimed c then
        let s := s.setBit Reg.FPWM_HSW c false
        match (s.chan c).st with
        | .start | .run | .stop | .probe => s.setChan c { (s.chan c).safeOff with st := .off, src := .on, pend := none }
        | _ => s
      else s)
  else s

/-! ### Protection (R367 to R374) -/

/-- A state in which a channel latches (Table 6.3). -/
def ChSt.mayLatch : ChSt → Bool
  | .start | .run | .stop | .probe => true
  | _ => false

/-- Ten seconds in ticks. -/
def tenSeconds : Nat := 10240000000

/-- The channel's latches within the preceding 10.000 s. -/
def Chan.recent (x : Chan) (now : Nat) : List Nat := x.latches.filter (fun t => decide (now ≤ t + tenSeconds))

/-- A FAULT naming channel and cause: with the event bit's change from 0 to 1 (R413), or by R370 when the bit was set. -/
def State.faultMsg (s : State) (bitn c cause : Nat) : State :=
  if s.rb Reg.FPRO_EVT bitn ∧ s.field.link = .up then
    s.fieldQueue 7 (faultPayload 3 bitn c cause s.field.folio)
  else s.fevtC Reg.FPRO_EVT bitn c cause

/-- A latch (R368 to R373): safe-off, the cause recorded, the FAULT queued; the fourth within 10.000 s, and every DC
fault, takes the channel to LOCKOUT. `e` is the cause's bit of FPRO_EVT, if it has one. -/
def latch (c cause : Nat) (e : Option Nat) (s : State) : State :=
  let x := s.chan c
  if !x.st.mayLatch then s
  else
    let lock := cause = 5 ∨ 3 ≤ (x.recent s.clock).length
    let s := s.setChan c { x.safeOff with
      st := if lock then .lockout else .trip, latches := s.clock :: x.recent s.clock }
    let s := s.setReg (Reg.FPRO_CHST c)
      (putFld (putFld (s.reg (Reg.FPRO_CHST c)) 31 28 cause) 15 0 (Nat.min (s.rf (Reg.FPRO_CHST c) 15 0 + 1) 65535))
    let s := match e with
      | some b => s.fevtC Reg.FPRO_EVT b c 0
      | none => s
    let s := s.faultMsg 4 c cause
    if lock then (s.raise Reg.FPRO_LOCK (bitw c)).faultMsg 5 c cause else s

/-- The load current sense stands at `mv` mV, `ticks` after the latest edge of PWM_Ac or PWM_Bc (R367): beyond ILIM
outside the blanking both PWM outputs stay at 0 for the rest of the period; the crossing in the 16th consecutive ILIM
period latches. -/
def ilimCrossingOp (c mv ticks : Nat) (s : State) : State :=
  let x := s.chan c
  if x.pwm ∧ !x.ilim ∧ s.rf (Reg.FPRO_THR c) 11 0 < mv ∧ s.rf Reg.FPRO_CFG 31 24 ≤ ticks then
    let s := s.setChan c { x with ilim := true, ilimRun := x.ilimRun + 1 }
    if 16 ≤ x.ilimRun + 1 then latch c 2 (some 1) s else s
  else s

def execIlimCrossing (c mv ticks : Nat) (s : State) : Host.Outcome State Fault Refusal := chanDo c s (ilimCrossingOp c mv ticks)

/-- The load current sense exceeds ISC (R368); the comparator has no blanking (R369). -/
def iscCrossingOp (c mv : Nat) (s : State) : State := if s.rf (Reg.FPRO_THR c) 27 16 < mv then latch c 1 (some 0) s else s

def execIscCrossing (c mv : Nat) (s : State) : Host.Outcome State Fault Refusal := chanDo c s (iscCrossingOp c mv)

/-- FLTc_N falls; it is ignored from the rise of EN until TEN has elapsed (R356). -/
def fltAssertOp (c : Nat) (s : State) : State :=
  if (s.chan c).en ∧ !(s.chan c).fltOn then s else latch c 3 (some 2) s

def execFltAssert (c : Nat) (s : State) : Host.Outcome State Fault Refusal := chanDo c s (fltAssertOp c)

def lineOverVoltageOp (c mv : Nat) (s : State) : State :=
  if s.rf Reg.FPRO_DCOV 31 16 < mv then latch c 4 (some 3) s else s

def execLineOverVoltage (c mv : Nat) (s : State) : Host.Outcome State Fault Refusal := chanDo c s (lineOverVoltageOp c mv)

/-- RETRYT after the latch: PROBE, with the limit of R372 until PROBET has elapsed. -/
def retryOp (c : Nat) (s : State) : State :=
  if (s.chan c).st = .trip then s.setChan c { (s.chan c).begin .probe with probing := true } else s

def execRetry (c : Nat) (s : State) : Host.Outcome State Fault Refusal := chanDo c s (retryOp c)

/-- PROBET after the release without a latch: RUN; in a channel stopped meanwhile the limit of R372 ends. -/
def probeCompleteOp (c : Nat) (s : State) : State :=
  let x := s.chan c
  if x.probing ∧ x.pwm then
    if x.st = .probe then enterRun c s else s.setChan c { x with probing := false }
  else s

def execProbeComplete (c : Nat) (s : State) : Host.Outcome State Fault Refusal := chanDo c s (probeCompleteOp c)

def dcOffsetOp (c : Nat) (mv : Int) (s : State) : State :=
  if s.rf Reg.FPRO_DCOV 15 0 < mv.natAbs then latch c 5 (some 6) s else s

def execDcOffset (c : Nat) (mv : Int) (s : State) : Host.Outcome State Fault Refusal := chanDo c s (dcOffsetOp c mv)

/-- A measurement of NTCk (Table 6.5): below WARN it warns, once until it has been above RESTORE. -/
def ntcWarningOp (k mv : Nat) (s : State) : State :=
  if 8 ≤ k then s
  else if mv < 2 * s.rf Reg.FPRO_NTC 29 20 then
    if inMask s.field.warm k then s
    else (s.setField { s.field with warm := addMask s.field.warm k }).fevtC Reg.FPRO_EVT 7 k 0
  else if 2 * s.rf Reg.FPRO_NTC 9 0 < mv then s.setField { s.field with warm := delMask s.field.warm k }
  else s

def execNtcWarning (k mv : Nat) (s : State) : Host.Outcome State Fault Refusal := fieldDo s (ntcWarningOp k mv)

/-- NTCk below TRIP: channels 4k to 4k + 3 ramp out and go to THERMAL. -/
def ntcTripOp (k mv : Nat) (s : State) : State :=
  if k < 8 ∧ mv < 2 * s.rf Reg.FPRO_NTC 19 10 then
    let s := s.fevtC Reg.FPRO_EVT 8 k 0
    forN 4 s (fun s i =>
      let c := 4 * k + i
      let x := s.chan c
      match x.st with
      | .start | .run | .probe =>
        (s.setFld (Reg.FPRO_CHST c) 31 28 6).setChan c { x with
          ph := .rampOut, hot := true, pilot := false, seq := s.rampOutSeq c }
      | _ => s)
  else s

def execNtcTrip (k mv : Nat) (s : State) : Host.Outcome State Fault Refusal := fieldDo s (ntcTripOp k mv)

/-- NTCk stands at `mv` mV and has been above RESTORE for 10 s: its channels in THERMAL restart; its warning has ended. -/
def thermalRestoreOp (k mv : Nat) (s : State) : State :=
  if k < 8 ∧ 2 * s.rf Reg.FPRO_NTC 9 0 < mv then
    forN 4 (s.setField { s.field with warm := delMask s.field.warm k }) (fun s i =>
      let c := 4 * k + i
      if (s.chan c).st = .thermal then s.setChan c ((s.chan c).begin .start) else s)
  else s

def execThermalRestore (k mv : Nat) (s : State) : Host.Outcome State Fault Refusal := fieldDo s (thermalRestoreOp k mv)

/-- BST_ISp above BOC: the gate pulse ends until the next period. -/
def boostOverCurrentOp (p mv : Nat) (s : State) : State :=
  if s.rf Reg.FBST_PROT 11 0 < mv then
    let b := s.bst p
    (s.setBst p { b with gate := false, oc := true, ocRun := if b.oc then b.ocRun else b.ocRun + 1 }).fevtC Reg.FBST_EVT 0 p 0
  else s

def execBoostOverCurrent (p mv : Nat) (s : State) : Host.Outcome State Fault Refusal := pairDo p s (boostOverCurrentOp p mv)

/-- 64 consecutive over-current periods: the gate is off for RETRYT; after 4 within 10 s the controller is latched off. -/
def boostOcPersistOp (p : Nat) (s : State) : State :=
  let b := s.bst p
  if 64 ≤ b.ocRun ∧ b.st ≠ .ocWait ∧ b.st ≠ .latched then
    let recent := b.ocTimes.filter (fun t => decide (s.clock ≤ t + tenSeconds))
    let fourth := 3 ≤ recent.length
    let s := s.setBst p { b with
      st := if fourth then .latched else .ocWait, gate := false, ocRun := 0, ocTimes := s.clock :: recent }
    if fourth then s.fevtC Reg.FBST_EVT 1 p 0 else s
  else s

def execBoostOcPersist (p : Nat) (s : State) : Host.Outcome State Fault Refusal := pairDo p s (boostOcPersistOp p)

/-- RETRYT has elapsed: the controller restarts at VMIN; one that is latched off stays so. -/
def boostRetryOp (p : Nat) (s : State) : State :=
  let b := s.bst p
  if b.st = .ocWait then s.setBst p { b with st := .regulating, set := 512000 * s.rf Reg.FBST_LIM 11 0 } else s

def execBoostRetry (p : Nat) (s : State) : Host.Outcome State Fault Refusal := pairDo p s (boostRetryOp p)

/-- A rail above BOV turns the gate off, until it lies below BOV − 2.00 V. -/
def boostOverVoltageOp (p rail : Nat) (s : State) : State :=
  if s.rf Reg.FBST_PROT 27 16 < rail then
    (s.setBst p { s.bst p with rail := Nat.min rail 4095, gate := false, ov := true }).fevtC Reg.FBST_EVT 2 p 0
  else s

def execBoostOverVoltage (p rail : Nat) (s : State) : Host.Outcome State Fault Refusal := pairDo p s (boostOverVoltageOp p rail)

/-- A rail above BOV + 5.00 V for 10 µs latches both channels of the pair. -/
def railOverVoltageOp (p rail : Nat) (s : State) : State :=
  if s.rf Reg.FBST_PROT 27 16 + 100 < rail then
    latch (2 * p + 1) 7 none (latch (2 * p) 7 none (s.fevtC Reg.FBST_EVT 3 p 0))
  else s

def execRailOverVoltage (p rail : Nat) (s : State) : Host.Outcome State Fault Refusal := pairDo p s (railOverVoltageOp p rail)

/-! ### Line and earth monitoring (R375 to R381) -/

/-- The square root of `n`, rounded down, by bisection. -/
def sqrtSearch (n : Nat) : Nat → Nat → Nat
  | 0, lo => lo
  | k + 1, lo => if (lo + 2 ^ k) * (lo + 2 ^ k) ≤ n then sqrtSearch n k (lo + 2 ^ k) else sqrtSearch n k lo

/-- |Z| in 0.01 ohm from the sums of squares (R375), at most the field's range. -/
def impedance (zk vs2 is2 : Nat) : Nat :=
  Nat.min (sqrtSearch (zk * zk * vs2 * 10000 / (is2 * 4294967296)) 24 0) 16777215

/-- The pilot has played through the 24,000 samples before now, and not begun to ramp out (R378). -/
def State.pilotWindow (s : State) (c : Nat) : Bool :=
  let x := s.chan c
  x.pilot && x.pilOut.isNone && decide ((x.pilUp : Int) + 24000 ≤ s.sampleNow)

/-- The samples of the sink in the window have an rms level of −40 dBFS or more, 0 dBFS being 2^27 (R375). -/
def Chan.loud (x : Chan) : Bool := decide (0 < x.sqN) && decide (2 ^ 54 * x.sqN ≤ 10000 * x.sq)

/-- The sum of the squares of sensed samples. -/
def sumSquares (l : List Int) : Nat := l.foldl (fun n v => n + (v * v).toNat) 0

/-- An estimate of 0.01 ohm for channel `c`; two in a row beyond a limit raise its event (R379, R380). -/
def reportZ (c z : Nat) (pilot : Bool) (s : State) : State :=
  let x := s.chan c
  let low := decide (z < 10 * s.rf (Reg.FMON_ZLIM c) 15 0)
  let high := decide (10 * s.rf (Reg.FMON_ZLIM c) 31 16 < z)
  let zl := if low then Nat.min 2 (x.zlow + 1) else 0
  let zh := if high then Nat.min 2 (x.zhigh + 1) else 0
  let s := s.setReg (Reg.FMON_Z c) (wd (2147483648 + b2n pilot * 1073741824 + z))
  let s := s.setChan c { x with zlow := zl, zhigh := zh }
  let s := if zl = 2 then s.fevtC Reg.FMON_EVT 0 c 0 else s
  if zh = 2 then s.fevtC Reg.FMON_EVT 1 c 0 else s

/-- A 250 ms window of the sensed voltages and currents ends (R375, R378): the estimate is the pilot's where the pilot
has played through it, and the programme's where no pilot has played in it and the sink's samples were loud enough.
Without load current the spec states no result: a free value. -/
def impedanceEstimateOp (c : Nat) (vs is : List Int) (s : State) : State :=
  let x := s.chan c
  let byPilot := s.pilotWindow c
  let s := s.setChan c { x with sq := 0, sqN := 0, pilWin := x.pilot }
  if x.st = .run ∧ (byPilot ∨ (!x.pilot ∧ !x.pilWin ∧ x.loud)) then
    let v := if byPilot then dftBin vs else sumSquares vs
    let i := if byPilot then dftBin is else sumSquares is
    if i = 0 then reportZ c (fld s.nextFree.1 23 0) byPilot s.nextFree.2
    else reportZ c (impedance (s.reg (Reg.FMON_ZK c)).toNat v i) byPilot s
  else s

def execImpedanceEstimate (c : Nat) (vs is : List Int) (s : State) : Host.Outcome State Fault Refusal :=
  chanDo c s (impedanceEstimateOp c vs is)

/-- An envelope below −SILTH dBFS of the amplifier's full scale 2^27 (R376). -/
def State.below (s : State) (e : Nat) : Bool := decide (e ^ 20 * 10 ^ s.rf Reg.FMON_CTRL 31 24 < 2 ^ 540)

/-- The pilot of a channel ramps out from sample `n`, unless it does already. -/
def Chan.pilotEnd (x : Chan) (n : Nat) : Chan :=
  if x.pilot && x.pilOut.isNone then { x with pilOut := some n } else x

/-- The envelopes of output folio `m` mark which channels are silent; the pilot of one that is not ramps out over the
folio before (R377), or from now where that has begun. -/
def silenceFrom (m : Nat) (env : Nat → Nat) (s : State) : State :=
  let n := Nat.max (8 * (m - 1)) s.nextSample
  forN 32 s (fun s c =>
    let x := { s.chan c with quiet := s.below (env c) }
    s.setChan c (if x.quiet then x else x.pilotEnd n))

/-- 500 ms of silence: the pilot ramps in (R376, R377, R378). -/
def pilotStartOp (c : Nat) (s : State) : State :=
  let x := s.chan c
  if s.rb Reg.FMON_CTRL 0 ∧ x.st = .run ∧ x.quiet ∧ !s.claimed c ∧ !x.pilot then
    s.setChan c { x with pilot := true, pilUp := s.nextSample, pilOut := none, pilWin := true }
  else s

def execPilotStart (c : Nat) (s : State) : Host.Outcome State Fault Refusal := chanDo c s (pilotStartOp c)

/-- A write of FMON_CTRL: with PILEN = 0 pilots ramp out over the next folio (log entry 108). -/
def fmonCtrlWrite (v : Word) (s : State) : State :=
  let s := s.typeWrite Reg.FMON_CTRL v
  if bit v 0 then s else forN 32 s (fun s c => s.setChan c ((s.chan c).pilotEnd s.nextFolioSample))

/-- |ELK_SNS| in mV, beyond ELKTH for 2 s (R381). -/
def earthLeakageOp (mv : Nat) (s : State) : State :=
  (s.setFld Reg.FMON_ELK 31 16 (Nat.min mv 65535)).fevtIf (decide (s.rf Reg.FMON_ELK 15 0 < mv)) Reg.FMON_EVT 2

def execEarthLeakage (mv : Nat) (s : State) : Host.Outcome State Fault Refusal := fieldDo s (earthLeakageOp mv)

/-! ### Registers of FPWM, FBST, FPRO and FMON -/

/-- A write that a register's range may refuse: `ok` decides, `e` is the CFGERR bit of event register `a`. -/
def guardWrite (ok : Bool) (r a e : Nat) (v : Word) (s : State) : State := if ok then s.typeWrite r v else s.fevt a e

def powerStageWrite (a : Nat) (v : Word) (s : State) : State :=
  if a = Reg.FPWM_CTRL then carrierModeWriteOp v s
  else if a = Reg.FPWM_RANGE then
    guardWrite (decide (427 ≤ fld v 11 0 ∧ fld v 11 0 ≤ fld v 27 16 ∧ fld v 27 16 ≤ 3413)) a Reg.FPWM_EVT 5 v s
  else if a = Reg.FPWM_AVD then avoidanceRunOp v s
  else if a = Reg.FPWM_TIM then
    guardWrite (decide (1 ≤ fld v 31 24 ∧ 1 ≤ fld v 23 16 ∧ 4 ≤ fld v 15 8)) a Reg.FPWM_EVT 5 v s
  else if a = Reg.FPWM_RAMP then guardWrite (decide (8 ≤ fld v 9 0 ∧ fld v 9 0 ≤ 960)) a Reg.FPWM_EVT 5 v s
  else if a = Reg.FPWM_HSW then hswWriteOp v s
  else if a = Reg.FPWM_TKO then takeoverStartOp v s
  else if Reg.FPWM_CHCFG 0 ≤ a ∧ a ≤ Reg.FPWM_CHCFG 31 then guardWrite (decide (fld v 15 0 ≤ 0xF800)) a Reg.FPWM_EVT 5 v s
  else if Reg.FPWM_CHCMD 0 ≤ a ∧ a ≤ Reg.FPWM_CHCMD 31 then chcmdWrite ((a - Reg.FPWM_CHCMD 0) / 4) v s
  else if a = Reg.FBST_CTRL then fbstCtrlWrite v s
  else if a = Reg.FBST_LIM then guardWrite (decide (fld v 11 0 ≤ fld v 27 16 ∧ fld v 27 16 ≤ 0xE10)) a Reg.FBST_EVT 4 v s
  else if a = Reg.FBST_SLEW then guardWrite (decide (1 ≤ fld v 15 8 ∧ 1 ≤ fld v 7 0)) a Reg.FBST_EVT 4 v s
  else if a = Reg.FBST_PROT then guardWrite (decide (fld v 11 0 ≤ 1200)) a Reg.FBST_EVT 4 v s
  else if a = Reg.FMON_CTRL then fmonCtrlWrite v s
  else if a = Reg.FPRO_CFG then guardWrite (decide (1 ≤ fld v 23 16 ∧ 1 ≤ fld v 15 8)) a Reg.FPRO_EVT 9 v s
  else if a = Reg.FPRO_NTC then
    guardWrite (decide (fld v 19 10 < fld v 29 20 ∧ fld v 29 20 < fld v 9 0)) a Reg.FPRO_EVT 9 v s
  else if Reg.FPRO_THR 0 ≤ a ∧ a ≤ Reg.FPRO_THR 31 then
    guardWrite (decide (fld v 11 0 < fld v 27 16 ∧ fld v 27 16 ≤ 1200)) a Reg.FPRO_EVT 9 v s
  else s.typeWrite a v

/-- What a read of a power-stage register shows where the register shows the state of a channel or controller. -/
def powerStageRead (a : Nat) (s : State) : Word :=
  if Reg.FPWM_CHST 0 ≤ a ∧ a ≤ Reg.FPWM_CHST 31 then
    let c := (a - Reg.FPWM_CHST 0) / 4
    let x := s.chan c
    wd (x.st.code * 268435456 + b2n ((s.ovrOf c).any (fun o => o.wait == .no)) * 134217728 + b2n x.pilot * 67108864 + x.div)
  else if Reg.FBST_ST 0 ≤ a ∧ a ≤ Reg.FBST_ST 15 then
    let b := s.bst ((a - Reg.FBST_ST 0) / 4)
    wd (b.st.code * 268435456 + b.rail * 65536 + b.set / 512000)
  else if Reg.FPRO_CHST 0 ≤ a ∧ a ≤ Reg.FPRO_CHST 31 then
    putFld (s.reg a) 25 24 (Nat.min 3 ((s.chan ((a - Reg.FPRO_CHST 0) / 4)).recent s.clock).length)
  else s.reg a

end Sys2Proof.Machine
end

