-- ==== Sys2Proof/Machine/Fire.lean ====
section
/-! DEFINITION. The commands of chapter 7 that the field die needs no host for: fire inputs and the fault relay, the
Strongbox, its players, and field override. -/

namespace Sys2Proof.Machine

/-! ### Override entries and claims (R427 to R432) -/

/-- The entry that claims channel `c`: the asserted entry with the lowest PRIO, and of those the lowest number (R428). -/
def State.claimant (s : State) (c : Nat) : Option Nat :=
  (List.range 8).foldl (fun best k =>
    if inMask s.field.asserted k ∧ s.rb (Reg.FSBX_OVRCH k) c then
      match best with
      | none => some k
      | some b => if s.rf (Reg.FSBX_OVR k) 28 26 < s.rf (Reg.FSBX_OVR b) 28 26 then some k else some b
    else best) none

/-- The sources of a channel from sample `n` on: one that has been replaced by then is gone. -/
def Chan.settle (x : Chan) (n : Nat) : Chan :=
  let x := match x.prev with
    | some (n1, _) => if n1 ≤ n then { x with prev := none } else x
    | none => x
  match x.nxt with
  | some (n2, b) => if n2 ≤ n then { x with cur := b, nxt := none, prev := none } else x
  | none => x

/-- The source of channel `c` is replaced by `a` at the folio after the next, the next being its ramp to 0. A source
that is ramping to 0 now goes on to 0 first. -/
def replaceSource (c : Nat) (a : AudioSrc) (s : State) : State :=
  let x := (s.chan c).settle s.nextSample
  let x := match x.nxt with
    | some (n2, b) => if n2 < s.nextSample + 8 then { x with prev := some (n2, x.cur), cur := b } else x
    | none => x
  s.setChan c { x with nxt := some (s.nextFolioSample + 8, a) }

/-- Channel `c` becomes claimed by entry `k`, or its claiming entry changes (R429). -/
def claimBy (c k : Nat) (s : State) : State :=
  match (s.chan c).st with
  | .start | .run | .stop =>
    replaceSource c (.message (s.entryPlay k (s.nextFolioSample + 8)))
      ((s.setOvr c ⟨k, .no⟩).setChan c { s.chan c with pilot := false })
  | .off =>
    let s := s.setOvr c ⟨k, .ramp⟩
    s.setChan c { (s.chan c).begin .start with cur := .silence, nxt := none, prev := none }
  | _ => (s.setOvr c ⟨k, .run⟩).setChan c { s.chan c with cur := .silence, nxt := none, prev := none, pilot := false }

/-- Host audio that is on its way out goes on under the ramp that it had. -/
def AudioSrc.freeze (a : AudioSrc) (f : Fade) : AudioSrc := if a = .host then .ending f else a

/-- The last claiming entry of channel `c` ends (R431): what it plays, host audio where the message has not begun,
ramps to 0, and host audio returns as after AUTONOMY (R415). -/
def unclaim (c : Nat) (s : State) : State :=
  let s := s.setField { s.field with ovr := adel s.field.ovr c }
  let x := (s.chan c).settle s.nextSample
  let s := replaceSource c .host (s.setChan c { x with
    cur := x.cur.freeze x.src, prev := x.prev.map (fun (e : Nat × AudioSrc) => (e.1, e.2.freeze x.src)) })
  s.setChan c { s.chan c with src := .out 0 0, pend := some (s.rf Reg.FPWM_RAMP 9 0) }

/-- Claims follow the asserted entries. -/
def refreshClaims (s : State) : State :=
  forN 32 s (fun s c =>
    match s.claimant c, s.ovrOf c with
    | none, none => s
    | none, some _ => unclaim c s
    | some k, none => claimBy c k s
    | some k, some o => if o.entry = k then s else claimBy c k s)

/-- Entry `k` becomes asserted: OVRON marks the first assertion (R432). -/
def assertEntry (k : Nat) (s : State) : State :=
  let was := inMask s.field.asserted k
  (s.setField { s.field with asserted := addMask s.field.asserted k, latched := delMask s.field.latched k }).fevtIf
    (!was) Reg.FSBX_EVT 3

/-- Entry `k` is released: OVROFF. -/
def releaseEntry (k : Nat) (s : State) : State :=
  if inMask s.field.asserted k then
    (s.setField { s.field with asserted := delMask s.field.asserted k, latched := delMask s.field.latched k }).fevt
      Reg.FSBX_EVT 4
  else s

/-! ### Fire inputs (R418, R419) -/

def State.setFin (s : State) (k : Nat) (x : Fin_) : State :=
  s.setField { s.field with fins := aput s.field.fins Fin_.reset k x }

/-- FINk takes state `st`; an entry of R427 is asserted, held or released by it. `ev` is off for an input that is
disabled. -/
def finChange (k st : Nat) (ev : Bool) (s : State) : State :=
  let was := s.finState k
  let s := (s.setFin k Fin_.reset).setFld Reg.FFIN_STATE (2 * k + 1) (2 * k) st
  let s := if ev then s.fevtC Reg.FFIN_EVT (match st with | 0 => 1 | 1 => 0 | n => n) k 0 else s
  let s := if st = 1 ∧ s.rb (Reg.FSBX_OVR k) 31 then assertEntry k s else s
  if was = 1 ∧ st ≠ 1 ∧ inMask s.field.asserted k then
    if s.rb (Reg.FSBX_OVR k) 30 then s.setField { s.field with latched := addMask s.field.latched k }
    else releaseEntry k s
  else s

/-- One measurement of FINk; `none` and more than 20 kohm lie beyond the compliance. -/
def finOne (k : Nat) (ohms : Option Nat) (s : State) : State :=
  if s.rb Reg.FFIN_CFG k then
    let r := match ohms with
      | some r => if 20000 < r then 65535 else r
      | none => 65535
    let s := s.setReg (Reg.FFIN_RES k) (wd r)
    let st := if r < 10 * s.rf Reg.FFIN_THR 29 20 then 3
      else if r < 10 * s.rf Reg.FFIN_THR 19 10 then 1
      else if r ≤ 10 * s.rf Reg.FFIN_THR 9 0 then 0 else 2
    if st = s.finState k then s.setFin k Fin_.reset
    else
      let x := aget s.field.fins Fin_.reset k
      let n := if x.cand = st then x.count + 1 else 1
      if s.rf Reg.FFIN_CFG 11 8 ≤ n then finChange k st true s else s.setFin k ⟨st, n⟩
  else s

/-- Every 10 ms each enabled input is measured and classified. -/
def finMeasurementOp (ohms : List (Option Nat)) (s : State) : State :=
  refreshClaims (forN 8 s (fun s k => finOne k (ohms.getD k none) s))

def execFinMeasurement (ohms : List (Option Nat)) (s : State) : Host.Outcome State Fault Refusal :=
  fieldDo s (finMeasurementOp ohms)

/-- A write of FFIN_CFG: DEB of 0 is ignored; a disabled input reads normal without an event. -/
def ffinCfgWrite (v : Word) (s : State) : State :=
  let s := s.setFld Reg.FFIN_CFG 7 0 (fld v 7 0)
  let s := if fld v 11 8 = 0 then s.fevt Reg.FFIN_EVT 5 else s.setFld Reg.FFIN_CFG 11 8 (fld v 11 8)
  refreshClaims (forN 8 s (fun s k =>
    if bit v k then s else if s.finState k = 0 then s.setFin k Fin_.reset else finChange k 0 false s))

/-- A write of FFIN_FOUT.CLR (R420). -/
def execFoutClr (v : Word) (s : State) : Host.Outcome State Fault Refusal := fieldDo s (foutWrite v)

/-! ### Strongbox (R421 to R426) -/

/-- Where the field flash and the Strongbox stand in the model's memory. -/
def fflash : Nat := 0x100000000

def strongbox : Nat := 0x200000000

/-- The content of the field flash with the layout of Table 7.9 passes the checks of R422. -/
def State.sbxAccepted (s : State) : Bool :=
  let hdr := s.rdBytes fflash 28
  decide (s.rdWord fflash = 0x31584253) && decide (s.rdHalf (fflash + 4) = 1) &&
  decide (1 ≤ (s.rdHalf (fflash + 6)).toNat ∧ (s.rdHalf (fflash + 6)).toNat ≤ 64) &&
  decide ((s.rdWord (fflash + 8)).toNat ≤ 16704000) &&
  decide (s.rdWord (fflash + 28) = crc32 (hdr ++ s.rdBytes (fflash + 256) 1024))

/-- Message `e` of the index in the flash (R422). -/
def State.sbxIndex (s : State) (e : Nat) : SbxMsg :=
  let b := fflash + 256 + 16 * e
  let off := (s.rdWord b).toNat
  let n := (s.rdWord (b + 4)).toNat
  ⟨off, n, decide (e < (s.rdHalf (fflash + 6)).toNat) && decide (off + 2 * n ≤ (s.rdWord (fflash + 8)).toNat) &&
    decide (crc32 (s.rdBytes (fflash + 4096 + off) (2 * n)) = s.rdWord (b + 8))⟩

/-- The Strongbox takes the content of the flash. -/
def copyFlash (s : State) : State :=
  let keep := s.mem.filter (fun e => decide (e.1 < strongbox))
  { s with mem := keep ++ (keep.filter (fun e => decide (fflash ≤ e.1))).map (fun e => (e.1 + fflash, e.2)) }

/-- A load begins: LOADED clears until it ends. -/
def sbxLoadBegin (s : State) : State :=
  (((s.setReg Reg.FSBX_STATUS (wd 536870912)).setReg Reg.FSBX_VALIDLO 0).setReg Reg.FSBX_VALIDHI 0).setField
    { s.field with loading := true, msgs := [] }

/-- Bits 31 to 0 of a mask of valid messages from message `i`. -/
def validMask (l : List SbxMsg) (i : Nat) : Word :=
  wd ((List.range 32).foldl (fun m j => if (l.getD (i + j) ⟨0, 0, false⟩).valid then m + 2 ^ j else m) 0)

/-- The load ends (R422). -/
def sbxLoadFinish (s : State) : State :=
  let ok := s.sbxAccepted
  let msgs := if ok then (List.range 64).map s.sbxIndex else []
  let n := (msgs.filter (fun m => m.valid)).length
  let s := if ok then copyFlash s else s
  let s := s.setField { s.field with loading := false, msgs := msgs }
  let s := s.setReg Reg.FSBX_STATUS (wd (2147483648 + (if ok then 0 else 1073741824) + n * 65536))
  let s := (s.setReg Reg.FSBX_VALIDLO (validMask msgs 0)).setReg Reg.FSBX_VALIDHI (validMask msgs 32)
  let s := if ok then
      forN (s.rdHalf (fflash + 6)).toNat s (fun s e => if (msgs.getD e ⟨0, 0, false⟩).valid then s else s.fevt Reg.FSBX_EVT 2)
    else s.fevt Reg.FSBX_EVT 1
  s.fevt Reg.FSBX_EVT 0

/-- A playback of the built-in tone at sample `n`, once its message is valid (R424): its message begins where its
on-burst has ended, and in its place where it has not begun to play. -/
def Play.toMessage (p : Play) (valid : Nat → Bool) (n : Nat) : Play :=
  if p.tone && valid p.msg then
    if n ≤ p.start then { p with tone := false }
    else if 48000 ≤ (n - p.start) % 96000 then { p with tone := false, start := n } else p
  else p

def AudioSrc.toMessage (a : AudioSrc) (valid : Nat → Bool) (n : Nat) : AudioSrc :=
  match a with
  | .message p => .message (p.toMessage valid n)
  | .host => .host
  | .silence => .silence
  | .ending f => .ending f

/-- An on-burst ends after a load: every playback whose on-burst has ended changes to its message. -/
def toneBurstEndOp (s : State) : State :=
  if s.sbxLoaded then
    let n := s.nextSample
    let s := s.setField { s.field with
      chans := s.field.chans.map (fun e =>
        (e.1, { e.2 with cur := e.2.cur.toMessage s.msgValid n, nxt := e.2.nxt.map (fun a => (a.1, a.2.toMessage s.msgValid n)) })),
      players := s.field.players.map (fun e =>
        (e.1, { e.2 with play := e.2.play.map (fun p => p.toMessage s.msgValid (8 * s.field.folio)) })) }
    s
  else s

def execToneBurstEnd (s : State) : Host.Outcome State Fault Refusal := fieldDo s toneBurstEndOp

/-- Player `p`. -/
def State.player (s : State) (p : Nat) : Player := aget s.field.players Player.reset p

def State.setPlayer (s : State) (p : Nat) (x : Player) : State :=
  s.setField { s.field with players := aput s.field.players Player.reset p x }

/-- Player `p` plays in the present field folio. -/
def State.playing (s : State) (p : Nat) : Bool :=
  match (s.player p).play with
  | some x => x.rep || decide (8 * s.field.folio < x.start + s.playLen x)
  | none => false

/-- A write of FSBX_PLAYp: GO starts MSG at the next field folio, STOP ends the player there (R425). -/
def playWrite (p : Nat) (v : Word) (s : State) : State :=
  let s := s.typeWrite (Reg.FSBX_PLAY p) v
  let x := s.player p
  let x := if bit v 31 then
      { x with go := some (s.newPlay (fld v 21 16) (8 * s.field.folio + 8) (fld v 15 0) (bit v 29)), stop := false }
    else x
  s.setPlayer p (if bit v 30 then { x with go := none, stop := true } else x)

def execPlayerGo (p : Nat) (v : Word) (s : State) : Host.Outcome State Fault Refusal :=
  fieldDo s (fun s => if p < 8 then playWrite p v s else s)

def execPlayerStop (p : Nat) (v : Word) (s : State) : Host.Outcome State Fault Refusal :=
  fieldDo s (fun s => if p < 8 then playWrite p v s else s)

/-- At a field folio start, players take their pending GO or STOP. -/
def playersFolio (s : State) : State :=
  forN 8 s (fun s p =>
    let x := s.player p
    match x.go with
    | some g => s.setPlayer p ⟨none, false, some g⟩
    | none => if x.stop then s.setPlayer p ⟨none, false, none⟩ else s)

/-- A load or flash command is refused while an override or a player is active, or the flash is busy (R426). -/
def State.sbxBusy (s : State) : Bool :=
  s.rb Reg.FSBX_STATUS 29 || decide (s.field.asserted ≠ 0) || (List.range 8).any s.playing

/-- A write of FSBX_CMD: REL releases latched entries, RELOAD starts a load. -/
def fsbxCmdWrite (v : Word) (s : State) : State :=
  let s := forN 8 s (fun s k =>
    if bit v (8 + k) ∧ s.rb (Reg.FSBX_OVR k) 30 then releaseEntry k s else s)
  let s := refreshClaims s
  if bit v 0 then (if s.sbxBusy then s.fevt Reg.FSBX_EVT 5 else sbxLoadBegin s) else s

def execRel (v : Word) (s : State) : Host.Outcome State Fault Refusal := fieldDo s (fsbxCmdWrite v)

def execReload (v : Word) (s : State) : Host.Outcome State Fault Refusal := fieldDo s (fsbxCmdWrite v)

/-- A write of FSBX_PGCMD: 1 erases the sector, 2 programs the page, at FSBX_PGADDR; while the flash is busy it is
refused. -/
def pgCmdWrite (v : Word) (s : State) : State :=
  let a := (s.reg Reg.FSBX_PGADDR).toNat
  let c := fld v 1 0
  if c = 1 ∨ c = 2 then
    if s.rb Reg.FSBX_STATUS 29 then s.fevt Reg.FSBX_EVT 5
    else (s.setField { s.field with pg := some (decide (c = 1), a) }).setBit Reg.FSBX_STATUS 29 true
  else s

def execSbxEraseSector (s : State) : Host.Outcome State Fault Refusal := fieldDo s (pgCmdWrite 1)

def execSbxProgramPage (s : State) : Host.Outcome State Fault Refusal := fieldDo s (pgCmdWrite 2)

/-- The 256 bytes of the page buffer at `base`, little-endian words. -/
def State.pageBuf (s : State) (base : Nat) : List Byte :=
  (List.range 64).foldl (fun l i => l ++ leBytes (s.reg (base + 4 * i)).toNat 4) []

/-- Programming a page clears bits: a byte becomes itself AND the data. -/
def progBytes (s : State) (a : Nat) : List Byte → State
  | [] => s
  | b :: t => progBytes (s.wrByte a (s.rdByte a &&& b)) (a + 1) t

/-- The flash command completes: the sector reads 0xFF, or the page holds the buffer; PGDONE. -/
def sbxCommandDoneOp (s : State) : State :=
  match s.field.pg with
  | none => s
  | some (erase, a) =>
    let s := if erase then s.clearMem (fflash + a / 65536 * 65536) (fflash + a / 65536 * 65536 + 65536)
      else progBytes s (fflash + a / 256 * 256) (s.pageBuf (Reg.FSBX_PGBUF 0))
    ((s.setField { s.field with pg := none }).setBit Reg.FSBX_STATUS 29 false).fevt Reg.FSBX_EVT 6

def execSbxCommandDone (s : State) : Host.Outcome State Fault Refusal := fieldDo s sbxCommandDoneOp

/-- After GAP seconds of silence the repeating message of channel `c` restarts (R430). -/
def overrideRepeatOp (c : Nat) (s : State) : State :=
  let x := (s.chan c).settle s.nextSample
  match x.cur with
  | .message p => if p.rep && s.claimed c then s.setChan c { x with cur := .message { p with start := s.nextSample } } else s
  | .host => s
  | .silence => s
  | .ending _ => s

def execOverrideRepeat (c : Nat) (s : State) : Host.Outcome State Fault Refusal := chanDo c s (overrideRepeatOp c)

/-- A write of FSBX_OVRk: PRIO may change which entry claims a channel. It neither asserts nor releases an entry,
which its input and FSBX_CMD.REL do (R427, log entry 144). -/
def ovrWrite (k : Nat) (v : Word) (s : State) : State := refreshClaims (s.typeWrite (Reg.FSBX_OVR k) v)

/-- Writes of the registers of FFIN and FSBX. -/
def fireWrite (a : Nat) (v : Word) (s : State) : State :=
  if a = Reg.FFIN_CFG then ffinCfgWrite v s
  else if a = Reg.FFIN_THR then
    guardWrite (decide (fld v 29 20 < fld v 19 10 ∧ fld v 19 10 < fld v 9 0)) a Reg.FFIN_EVT 5 v s
  else if a = Reg.FFIN_FOUT then foutWrite v s
  else if a = Reg.FSBX_CMD then fsbxCmdWrite v s
  else if a = Reg.FSBX_PGCMD then pgCmdWrite v s
  else if Reg.FSBX_OVR 0 ≤ a ∧ a ≤ Reg.FSBX_OVR 7 then ovrWrite ((a - Reg.FSBX_OVR 0) / 4) v s
  else if Reg.FSBX_OVRCH 0 ≤ a ∧ a ≤ Reg.FSBX_OVRCH 7 then refreshClaims (s.typeWrite a v)
  else if Reg.FSBX_PLAY 0 ≤ a ∧ a ≤ Reg.FSBX_PLAY 7 then playWrite ((a - Reg.FSBX_PLAY 0) / 4) v s
  else s.typeWrite a v

/-- Reads of FFIN and FSBX. -/
def fireRead (a : Nat) (s : State) : Word :=
  if a = Reg.FSBX_STATUS then
    putFld (s.reg a) 7 0 ((List.range 8).foldl (fun m p => if s.playing p then m + 2 ^ p else m) 0)
  else if a = Reg.FSBX_OVRST then wd (s.field.latched * 256 + s.field.asserted)
  else s.reg a

end Sys2Proof.Machine
end

