-- ==== Sys2Proof/Machine/NetF0.lean ====
section
/-! DEFINITION. Ethernet frames as bytes, and the field bus F0 (chapter 8, "The field bus F0"). -/

namespace Sys2Proof.Machine

/-! ### Frames -/

/-- `n` bytes of a number, most significant first: the order of wire fields. -/
def beBytes (v n : Nat) : List Byte := (leBytes v n).reverse

/-- A field of `n` bytes at offset `i`, most significant first. -/
def beAt (l : List Byte) (i n : Nat) : Nat := beNat (slice l i n)

/-- The bytes of a frame from the destination address to the end of the payload, without the FCS. -/
def frameBytes (f : Frame) : List Byte :=
  let tag := match f.vlan with
    | some t => beBytes 0x8100 2 ++ beBytes t 2
    | none => []
  beBytes f.dst 6 ++ beBytes f.src 6 ++ tag ++ beBytes f.etype 2 ++ f.payload

/-- The frame that bytes without FCS spell; the sender computes a good FCS. -/
def frameOf (l : List Byte) : Frame :=
  let tagged := beAt l 12 2 = 0x8100
  { len := l.length + 4, fcsOk := true, codeErr := false, dst := beAt l 0 6, src := beAt l 6 6,
    vlan := if tagged then some (beAt l 14 2) else none, etype := if tagged then beAt l 16 2 else beAt l 12 2,
    payload := if tagged then l.drop 18 else l.drop 14 }

/-- A frame to send, padded to 64 bytes. -/
def mkFrame (dst src : Nat) (vlan : Option Nat) (etype : Nat) (payload : List Byte) : Frame :=
  let head := if vlan.isSome then 22 else 18
  let pad := payload ++ List.replicate (64 - (head + payload.length)) 0
  { len := head + pad.length, fcsOk := true, codeErr := false, dst := dst, src := src, vlan := vlan, etype := etype,
    payload := pad }

def broadcast : Nat := 0xFFFFFFFFFFFF

/-- The group bit of an address: bit 0 of its first byte. -/
def isGroup (a : Nat) : Bool := a.testBit 40

/-- 0 unicast, 1 multicast, 2 broadcast. -/
def dstClass (a : Nat) : Nat := if a = broadcast then 2 else if isGroup a then 1 else 0

/-- The size bin of a frame, 0 for 64 bytes to 8 for 4096–9216 (Table 8.4). -/
def sizeBin (len : Nat) : Option Nat :=
  if len < 64 ∨ 9216 < len then none
  else if len = 64 then some 0 else if len ≤ 127 then some 1 else if len ≤ 255 then some 2 else if len ≤ 511 then some 3
  else if len ≤ 1023 then some 4 else if len ≤ 1518 then some 5 else if len ≤ 2047 then some 6
  else if len ≤ 4095 then some 7 else some 8

/-! ### F0 (R451 to R454, R433) -/

def State.setF0 (s : State) (f : F0) : State := { s with net := { s.net with f0 := f } }

/-- A frame between F0 and the Keyway is dropped (R433). -/
def fbusDrop (s : State) : State := (s.fkwyCount (Reg.FKWY_CNT 6) 1).fevt Reg.FKWY_EVT 3

/-- An accepted frame goes to the host as an FBUS message; the way to the host holds 16 frames. -/
def relayToHost (f : Frame) (s : State) : State :=
  let b := frameBytes f
  let waiting := ((s.field.ready ++ s.field.held).filter (fun m => m.typ == 8)).length
  if s.field.link = .up ∧ waiting < 16 then
    s.fieldQueue 8 (leBytes b.length 2 ++ [0, 0] ++ b ++ (if b.length % 2 = 1 then [0] else []))
  else fbusDrop s

/-- The destination of a frame that F0 accepts (R454). -/
def State.f0Dst (s : State) (a : Nat) : Bool :=
  s.rb Reg.FBUS_CTRL 1 || isGroup a ||
    decide (a = (s.reg Reg.FBUS_ADDRLO).toNat + 4294967296 * s.rf Reg.FBUS_ADDRHI 15 0)

/-- A frame arrives on F0. -/
def f0FrameReceivedOp (f : Frame) (s : State) : State :=
  if !s.rb Reg.FBUS_CTRL 0 then s
  else
    let s := if f.codeErr then s.fbusCount 19 1 else s
    let s := match sizeBin f.len with
      | some b => if b ≤ 5 then s.fbusCount (5 + b) 1 else s
      | none => s
    if f.len < 64 then s.fbusCount (if f.fcsOk then 15 else 16) 1
    else if 1518 < f.len then s.fbusCount (if f.fcsOk then 17 else 18) 1
    else if !f.fcsOk ∨ f.codeErr then s.fbusCount 14 1
    else
      let s := ((s.fbusCount 0 1).fbusCount 1 f.len).fbusCount (2 + dstClass f.dst) 1
      if s.f0Dst f.dst then relayToHost f s else s.fbusCount 22 1

def execF0FrameReceived (f : Frame) (s : State) : Host.Outcome State Fault Refusal := fieldDo s (f0FrameReceivedOp f)

/-- A host frame enters queue `q` of F0, which holds 4, the selected frame among them until it leaves (R433, R453). -/
def f0Offer (q : Nat) (f : Frame) (s : State) : State :=
  let x := s.net.f0
  let held := (x.queue.filter (fun e => e.1 == q % 4)).length + b2n (x.sel.any (fun t => t.q == q % 4))
  if held < 4 then s.setF0 { x with queue := x.queue ++ [(q % 4, f)] }
  else fbusDrop (s.fbusCount 38 1)

/-- Remove the oldest entry of queue `q`. -/
def popQueue (q : Nat) : List (Nat × Frame) → List (Nat × Frame)
  | [] => []
  | e :: t => if e.1 = q then t else e :: popQueue q t

/-- The head of the highest-numbered non-empty queue. -/
def headQueue (l : List (Nat × Frame)) : Option (Nat × Frame) :=
  l.foldl (fun b e => match b with
    | none => some e
    | some x => if x.1 < e.1 then some e else some x) none

/-- The frame selected, or the head of the highest non-empty queue, which stays selected (R453). -/
def f0Select (s : State) : State :=
  let x := s.net.f0
  match x.sel, headQueue x.queue with
  | none, some (q, f) => s.setF0 { x with queue := popQueue q x.queue, sel := some ⟨q, f, 0, none⟩ }
  | _, _ => s

/-- An attempt of the selected frame, unless F0 is disabled or backs off; a first attempt that deferred counts. -/
def f0Attempt (deferred : Bool) (act : F0Tx → State → State) (s : State) : State :=
  if !s.rb Reg.FBUS_CTRL 0 then s
  else
    let s := f0Select s
    match s.net.f0.sel with
    | some t =>
      if t.backoff.isSome then s
      else act t (if deferred ∧ t.coll = 0 then s.fbusCount 43 1 else s)
    | none => s

/-- The selected frame is sent to its end without a collision. -/
def f0Sent (t : F0Tx) (s : State) : State :=
  let s := ((s.fbusCount 24 1).fbusCount 25 t.frame.len).fbusCount (26 + dstClass t.frame.dst) 1
  let s := match sizeBin t.frame.len with
    | some b => if b ≤ 5 then s.fbusCount (29 + b) 1 else s
    | none => s
  let s := if t.coll = 1 then s.fbusCount 39 1 else if 2 ≤ t.coll then s.fbusCount 40 1 else s
  s.setF0 { s.net.f0 with sel := none }

def execF0Transmit (deferred : Bool) (s : State) : Host.Outcome State Fault Refusal := fieldDo s (f0Attempt deferred f0Sent)

/-- The attempt collides: late, or the n-th within the first 512 bits (R452). -/
def f0Collided (late : Bool) (t : F0Tx) (s : State) : State :=
  if late then ((s.fbusCount 41 1).fevt Reg.FBUS_EVT 0).setF0 { (s.fbusCount 41 1).net.f0 with sel := none }
  else
    let n := t.coll + 1
    if 16 ≤ n then
      let s := (s.fbusCount 42 1).fevt Reg.FBUS_EVT 1
      s.setF0 { s.net.f0 with sel := none }
    else
      let r := s.net.f0.lfsr.getD Config.f0Seed
      let slots := r.toNat % 2 ^ Nat.min n 10
      s.setF0 { s.net.f0 with sel := some { t with coll := n, backoff := some slots }, lfsr := some (Config.f0Next r) }

def execF0Collision (late deferred : Bool) (s : State) : Host.Outcome State Fault Refusal :=
  fieldDo s (f0Attempt deferred (f0Collided late))

/-- The back-off has expired: the frame may be attempted again. -/
def f0BackoffEndOp (s : State) : State :=
  match s.net.f0.sel with
  | some t => s.setF0 { s.net.f0 with sel := some { t with backoff := none } }
  | none => s

def execF0BackoffEnd (s : State) : Host.Outcome State Fault Refusal := fieldDo s f0BackoffEndOp

end Sys2Proof.Machine
end

