-- ==== Sys2Proof/Machine/FieldRegs.lean ====
section
/-! DEFINITION. The field die's registers as its CMDs reach them: writes and reads of every field block, entry to and
exit from AUTONOMY, and the end of the Strongbox load with the field preset (chapters 6, 7 and 13). -/

namespace Sys2Proof.Machine

/-! ### AUTONOMY (R410 to R415) -/

/-- Entry to AUTONOMY (R412, R365). A channel's host audio ramps to 0 at the next sample boundary; envelopes no longer
apply; the count of R414 starts anew. -/
def autonomyEnter (s : State) : State :=
  if s.field.autonomy then s
  else
    let n := s.nextSample
    let s := forN 32 s (fun s c =>
      if s.claimed c then s else s.setChan c { s.chan c with src := .out n (s.lastPlayed c), pend := none })
    let s := s.setField { s.field with autonomy := true, recov := 0, hbSeen := false, envs := [], needs := [] }
    (hingeSafeOff s).fevt Reg.FSYS_EVT 0

/-- Exit from AUTONOMY (R415): channels in RUN wait for the first accepted BLOCK; the others begin with it at their own
ramp. -/
def autonomyLeave (s : State) : State :=
  let len := s.rf Reg.FPWM_RAMP 9 0
  let s := forN 32 s (fun s c =>
    if s.claimed c then s
    else if (s.chan c).st = .run then s.setChan c { s.chan c with pend := some len }
    else s.setChan c { s.chan c with src := .on, pend := none })
  (s.setField { s.field with autonomy := false, lastBlock := none }).fevt Reg.FSYS_EVT 1

/-- The condition of R414: host HEARTBEATs in RECOV consecutive field folios. -/
def State.recovered (s : State) : Bool := decide (s.rf Reg.FSYS_AUT 7 0 ≤ s.field.recov)

/-- A write of FSYS_AUT: AUTOEX and RECOV, then EXIT, then FORCE (R411, R414). -/
def fsysAutWrite (v : Word) (s : State) : State :=
  let s := s.setBit Reg.FSYS_AUT 31 (bit v 31)
  let s := if fld v 7 0 = 0 then s.fevt Reg.FSYS_EVT 3 else s.setFld Reg.FSYS_AUT 7 0 (fld v 7 0)
  let s := if bit v 29 then
      (if s.field.autonomy && s.recovered then autonomyLeave s else s.fevt Reg.FSYS_EVT 3)
    else s
  if bit v 30 then autonomyEnter s else s

def execForce (v : Word) (s : State) : Host.Outcome State Fault Refusal := fieldDo s (fsysAutWrite v)

def execExit (v : Word) (s : State) : Host.Outcome State Fault Refusal := fieldDo s (fsysAutWrite v)

/-- 250 µs have passed since the start delimiter of the last accepted host HEARTBEAT (R411). -/
def execAutonomyEntry (s : State) : Host.Outcome State Fault Refusal := fieldDo s autonomyEnter

/-- The automatic exit of R414. -/
def autonomyExitOp (s : State) : State :=
  if s.field.autonomy && s.rb Reg.FSYS_AUT 31 && s.recovered then autonomyLeave s else s

def execAutonomyExit (s : State) : Host.Outcome State Fault Refusal := fieldDo s autonomyExitOp

/-! ### Writes and reads of the field blocks -/

/-- The block of a field register: 0 FSYS, 1 FPWM, 2 FBST, 3 FPRO, 4 FMON, 5 FFIN, 6 FSBX, 7 FBUS, 8 FKWY (Table 1.9). -/
def fieldBlock (a : Nat) : Nat := (a - 0x70000000) / 0x10000

/-- A write of a field register. -/
def fieldWrite (a : Nat) (v : Word) (s : State) : State :=
  match fieldBlock a with
  | 0 => if a = Reg.FSYS_AUT then fsysAutWrite v s else s.typeWrite a v
  | 1 | 2 | 3 | 4 => powerStageWrite a v s
  | 5 | 6 => fireWrite a v s
  | _ => s.typeWrite a v

/-- What a read of a field register shows. -/
def fieldRead (a : Nat) (s : State) : Word :=
  match fieldBlock a with
  | 0 =>
    if a = Reg.FSYS_ID then putFld (s.reg a) 11 8 s.fuse.fstep
    else if a = Reg.FSYS_STATUS then putFld (s.reg a) 1 0 (2 * b2n s.field.osc + b2n s.field.autonomy)
    else s.reg a
  | 1 | 2 | 3 | 4 => powerStageRead a s
  | 5 | 6 => fireRead a s
  | 8 => if a = Reg.FKWY_STATUS then putFld (s.reg a) 1 0 s.field.link.code else s.reg a
  | _ => s.reg a

/-! ### The end of the Strongbox load (R422, R705, R706) -/

/-- An RW register of FPWM, FBST, FPRO, FMON, FFIN, FSBX or FBUS: one that holds an RW field. -/
def presetMayWrite (a : Nat) : Bool :=
  decide (0x70010000 ≤ a ∧ a < 0x70080000 ∧ a % 4 = 0) &&
    (match regSpec? a with
     | some r => decide (r.rw ≠ 0)
     | none => false)

/-- One entry of the preset. -/
def presetEntry (offset : Nat) (v : Word) (s : State) : State :=
  if presetMayWrite (0x70000000 + offset) then fieldWrite (0x70000000 + offset) v s else s.fevt Reg.FSYS_EVT 3

/-- The field preset of Table 13.11 is written as CMD writes are, entry by entry. -/
def presetApply (s : State) : State :=
  let base := fflash + 0x800
  let n := (s.rdHalf (base + 4)).toNat
  if decide (s.rdWord base = 0x31525046) && decide (n ≤ 252) &&
      decide (crc32 (s.rdBytes base (8 + 8 * n)) = s.rdWord (base + 8 + 8 * n)) then
    forN n s (fun s i => presetEntry (s.rdWord (base + 8 + 8 * i)).toNat (s.rdWord (base + 12 + 8 * i)) s)
  else s.fevt Reg.FSYS_EVT 3

/-- The load from field supply good ends with the preset and sets LVL0; a later load is a RELOAD and ends without. -/
def strongboxLoadEndOp (s : State) : State :=
  if s.field.loading then
    let s := sbxLoadFinish s
    if s.rb Reg.FSYS_STATUS 2 then s else (presetApply s).setBit Reg.FSYS_STATUS 2 true
  else s

def execStrongboxLoadEnd (s : State) : Host.Outcome State Fault Refusal := fieldDo s strongboxLoadEndOp

end Sys2Proof.Machine
end

