-- ==== Sys2Proof/Machine/Time.lean ====
section
/-! DEFINITION. The commands of chapter 9: views, system time, snapshot, pulse outputs, PTP, the RSC and its clocks. -/

namespace Sys2Proof.Machine

/-! ### Views -/

def State.setTim (s : State) (t : Tim) : State := { s with tim := t }

/-- The present tick of TCNT. -/
def State.tick (s : State) : Nat := s.tim.tcnt.toNat

/-- The TCNT of system time `t`, in thirds of a tick. -/
def State.thirdsAt (s : State) (t : Int) : Int := 3 * s.tick - 3 * (s.sysT - t) * 1024 / (1000 * 1099511627776)

def ratePpmLo : Nat := 0x00F9FCCCCCCD
def ratePpmHi : Nat := 0x00FA03333333

def Tim.ptp (t : Tim) (i : Nat) : Ptp := if i = 0 then t.ptpA else t.ptpB

def Tim.setPtp (t : Tim) (i : Nat) (p : Ptp) : Tim := if i = 0 then { t with ptpA := p } else { t with ptpB := p }

/-- While the runtime runs it keeps the view of an instance that is grandmaster equal to view L (R515). -/
def followL (s : State) : State :=
  forN 2 s (fun s i =>
    if s.runtime && (s.tim.ptp i).master then s.setTim (s.tim.putView i s.tick { s.tim.vl with pend := none }) else s)

/-- View `i` changes at tick `c`; the views of grandmasters follow. -/
def State.changeView (s : State) (i c : Nat) (v : View) : State := followL (s.setTim (s.tim.putView i c v))

/-- A write of TIM_RATEx_HI commits both words; the new RATE takes effect 4 ticks later (R491); out of range it is
ignored and sets CFGERR (R492). -/
def rateCommitOp (view : Nat) (v : Word) (s : State) : State :=
  let rate := fld v 15 0 * 4294967296 + (s.reg (Reg.TIM_RATE_LO view)).toNat
  if ratePpmLo ≤ rate ∧ rate ≤ ratePpmHi then
    let s := s.setFld (Reg.TIM_RATE_HI view) 15 0 (fld v 15 0)
    s.setTim (s.tim.setView view { s.tim.view view with pend := some (s.tick + 4, rate) })
  else s.evt Reg.TIM_EVT 0

def execRateCommit (view : Nat) (v : Word) (s : State) : Host.Outcome State Fault Refusal := hostDo s (rateCommitOp view v)

/-- The committed RATE takes effect at its tick `c0`: the view re-anchors there without a step (R490). Before that tick
nothing happens. -/
def rateTakesEffectOp (view : Nat) (s : State) : State :=
  match (s.tim.view view).pend with
  | some (c0, r) =>
    if s.tick < c0 then s
    else s.changeView view c0 { (s.tim.view view).rebase c0 with rate := r, pend := none }
  | none => s

def execRateTakesEffect (view : Nat) (s : State) : Host.Outcome State Fault Refusal := hostDo s (rateTakesEffectOp view)

/-- The staged time of a view in 2^-40 ns (R493). -/
def State.staged (s : State) (view : Nat) : Int :=
  let sec := (s.reg (Reg.TIM_SEC_LO view)).toNat + s.rf (Reg.TIM_SEC_HI view) 15 0 * 4294967296
  let ns := s.rf (Reg.TIM_NS view) 29 0
  let frac := s.rf (Reg.TIM_FRAC view) 15 0
  ((sec * 1000000000 + ns) * 1099511627776 + frac * 16777216 : Nat)

/-- SET a view to time `t`, truncated to 2^-16 ns, at the present tick; a slew in progress is cancelled. A SET of view L
makes T valid (R504). -/
def setViewTo (view : Nat) (t : Int) (s : State) : State :=
  let v := s.tim.view view
  let s := s.changeView view s.tick { v with anchor := s.tick, offset := cut16 t, slew := 0, slewAt := s.tick }
  if view = 2 then (s.setTim { s.tim with tvalid := true }).setBit Reg.TIM_STATUS 4 true else s

/-- SET (Table 9.1). -/
def setOp (view : Nat) (s : State) : State := setViewTo view (s.staged view) s

def execSet (view : Nat) (s : State) : Host.Outcome State Fault Refusal := hostDo s (setOp view)

/-- TIM_ADJx in 2^-40 ns. -/
def State.adj (s : State) (view : Nat) : Int := signed 32 (s.reg (Reg.TIM_ADJ view)).toNat * 1099511627776

/-- STEP: OFFSET increases by TIM_ADJ; a slew continues. -/
def stepOp (view : Nat) (s : State) : State :=
  let v := s.tim.view view
  s.changeView view s.tick { v with offset := v.offset + s.adj view }

def execStep (view : Nat) (s : State) : Host.Outcome State Fault Refusal := hostDo s (stepOp view)

/-- Start a slew of `amt` (2^-40 ns), replacing the remainder of one in progress. -/
def slewBy (view : Nat) (amt : Int) (s : State) : State :=
  let v := (s.tim.view view).rebase s.tick
  s.changeView view s.tick { v with slew := amt, slewAt := s.tick, slewPpm := s.rf (Reg.TIM_SLEWR view) 4 0 }

/-- SLEW: the view gains TIM_ADJ gradually (R493, R494). -/
def slewOp (view : Nat) (s : State) : State := slewBy view (s.adj view) s

def execSlew (view : Nat) (s : State) : Host.Outcome State Fault Refusal := hostDo s (slewOp view)

/-- CANCEL: the remainder of the slew is dropped. -/
def cancelOp (view : Nat) (s : State) : State :=
  s.changeView view s.tick { (s.tim.view view).rebase s.tick with slew := 0 }

def execCancel (view : Nat) (s : State) : Host.Outcome State Fault Refusal := hostDo s (cancelOp view)

/-- A slew has applied its full amount: SLEWDONE (R494). While some of it remains nothing happens. -/
def slewDoneOp (view : Nat) (s : State) : State :=
  let v := s.tim.view view
  let r := v.rebase s.tick
  if v.slew ≠ 0 ∧ r.slew = 0 then (s.changeView view s.tick r).evt Reg.TIM_EVT 1 else s

def execSlewDone (view : Nat) (s : State) : Host.Outcome State Fault Refusal := hostDo s (slewDoneOp view)

/-- A write of TIM_VCMDx (Table 9.1). -/
def vcmdWrite (view : Nat) (v : Word) (s : State) : State :=
  match fld v 3 0 with
  | 1 => setOp view s
  | 2 => stepOp view s
  | 3 => slewOp view s
  | 4 => cancelOp view s
  | _ => s.evt Reg.TIM_EVT 0

/-- A write of TIM_SLEWRx: 1 to 20 ppm (R495); what a slew in progress has applied stays. -/
def slewRateWrite (view : Nat) (v : Word) (s : State) : State :=
  let p := fld v 4 0
  if 1 ≤ p ∧ p ≤ 20 then
    let s := s.setFld (Reg.TIM_SLEWR view) 4 0 p
    s.changeView view s.tick { (s.tim.view view).rebase s.tick with slewPpm := p }
  else s.evt Reg.TIM_EVT 0

/-! ### Active view and junction -/

/-- A write of the ACTIVE field: another view awaits the next mix slot boundary (R499); 3 is ignored. -/
def activeWriteOp (v : Word) (s : State) : State :=
  let a := fld v 1 0
  if a = 3 then s.evt Reg.TIM_EVT 0
  else
    let s := s.setFld Reg.TIM_CTRL 1 0 a
    if a = s.tim.act then (s.setTim { s.tim with pendAct := none }).setBit Reg.TIM_STATUS 2 false
    else (s.setTim { s.tim with pendAct := some a }).setBit Reg.TIM_STATUS 2 true

def execActiveWrite (v : Word) (s : State) : Host.Outcome State Fault Refusal := hostDo s (activeWriteOp v)

/-- A write of 1 to JCLR: the junction is cleared at the next boundary (R501). -/
def jclrOp (v : Word) (s : State) : State :=
  if bit v 2 then s.setTim { s.tim with jclr := true } else s

def execJclr (v : Word) (s : State) : Host.Outcome State Fault Refusal := hostDo s (jclrOp v)

/-- JSLEW 1 to 20 ppm; what the junction has moved stays (R500). -/
def jslewWrite (v : Word) (s : State) : State :=
  let p := fld v 15 8
  if 1 ≤ p ∧ p ≤ 20 then
    let s := s.setFld Reg.TIM_CTRL 15 8 p
    s.setTim { s.tim.rejunc s.tick with juncPpm := p }
  else s.evt Reg.TIM_EVT 0

/-- A write of TIM_CTRL: each field by its own rule. -/
def timCtrlWrite (v : Word) (s : State) : State := jclrOp v (activeWriteOp v (jslewWrite v s))

/-- TIM_STATUS.JBUSY follows the junction. -/
def jbusy (s : State) : State := s.setBit Reg.TIM_STATUS 3 (decide (s.tim.junc ≠ 0))

/-- At a mix slot boundary: first the change of ACTIVE, with J taking the difference so that T does not step (R499),
then JCLR (R501). -/
def timeBoundary (s : State) : State :=
  let s := match s.tim.pendAct with
    | some a =>
      let t := s.tim
      let d := (t.view t.act).at8 t.now8 - (t.view a).at8 t.now8
      let s := s.setTim { t with junc := t.juncAt8 t.now8 + d, juncAt := s.tick, act := a, pendAct := none }
      (s.setFld Reg.TIM_STATUS 1 0 a).setBit Reg.TIM_STATUS 2 false
    | none => s
  let s := if s.tim.jclr then s.setTim { s.tim with junc := 0, juncAt := s.tick, jclr := false } else s
  jbusy s

/-- The junction reaches 0 (R500). While some of it remains nothing happens. -/
def junctionDoneOp (s : State) : State :=
  if s.tim.junc ≠ 0 ∧ s.tim.juncAt8 s.tim.now8 = 0 then
    (jbusy (s.setTim { s.tim with junc := 0, juncAt := s.tick })).evt Reg.TIM_EVT 2
  else s

def execJunctionDone (s : State) : Host.Outcome State Fault Refusal := hostDo s junctionDoneOp

/-! ### Snapshot and TCNT -/

/-- A write of 1 to TIM_SNAP captures TCNT, the views and T at one tick, truncated to 2^-16 ns (R496, R489). -/
def snapOp (v : Word) (s : State) : State :=
  if bit v 0 then
    let t := s.tim
    let cut := fun (x : Int) => x / 16777216
    s.setTim { t with
      snapTcnt := t.tcnt.toNat, snapA := cut (t.va.at8 t.now8), snapB := cut (t.vb.at8 t.now8),
      snapL := cut (t.vl.at8 t.now8), snapT := cut (t.t8 t.now8) }
  else s

def execSnap (v : Word) (s : State) : Host.Outcome State Fault Refusal := hostDo s (snapOp v)

/-- Word `i` of a time in 2^-16 ns as TIM_SNAPW shows it. -/
def timeWord (t : Int) (i : Nat) : Word :=
  let ns := t / 65536
  let sec := ns / 1000000000
  if i = 0 then wdi (sec % 4294967296) else if i = 1 then wdi (sec / 4294967296 % 65536)
  else if i = 2 then wdi (ns % 1000000000) else wdi (t % 65536)

/-- TIM_SNAPW register `i` by SNAPSEL. -/
def State.snapWord (s : State) (i : Nat) : Word :=
  let t := s.tim
  match s.rf Reg.TIM_SNAPSEL 2 0 with
  | 0 => if i = 0 then wd t.snapTcnt else if i = 1 then wd (t.snapTcnt / 4294967296) else 0
  | 1 => timeWord t.snapA i
  | 2 => timeWord t.snapB i
  | 3 => timeWord t.snapL i
  | 4 => timeWord t.snapT i
  | _ => 0

/-- A read of TIM_TCNT_LO latches the upper word in the same tick (R487). -/
def tcntLoReadOp (s : State) : State :=
  (s.setReg Reg.TIM_TCNT_HI (wd (s.tick / 4294967296))).answer .ok (leBytes (s.tick % 4294967296) 4)

def execTcntLoRead (s : State) : Host.Outcome State Fault Refusal := hostDo s tcntLoReadOp

/-! ### Pulse outputs (R540 to R544): 0 = PPS, 1 = WCLK, 2 = FOLIO -/

def Tim.pulse (t : Tim) (o : Nat) : Pulse := if o = 0 then t.pps else if o = 1 then t.wck else t.fol

def Tim.setPulse (t : Tim) (o : Nat) (p : Pulse) : Tim :=
  if o = 0 then { t with pps := p } else if o = 1 then { t with wck := p } else { t with fol := p }

/-- Request the alignment of the outputs whose bit is set. -/
def alignMask (m : Nat) (s : State) : State :=
  forN 3 s (fun s o =>
    if inMask m o then s.setTim (s.tim.setPulse o { s.tim.pulse o with alignReq := true }) else s)

/-- A write of TIM_ALIGN (R543). -/
def alignOp (v : Word) (s : State) : State := alignMask (fld v 2 0) s

def execAlign (v : Word) (s : State) : Host.Outcome State Fault Refusal := hostDo s (alignOp v)

/-- An output that TIM_PULSE leaves disabled keeps no cadence. -/
def pulseStop (m : Nat) (s : State) : State :=
  forN 3 s (fun s o => if inMask m o then s else s.setTim (s.tim.setPulse o Pulse.reset))

/-- A write of TIM_PULSE: an output newly enabled is aligned as for ALIGN (R544). -/
def pulseEnableOp (v : Word) (s : State) : State :=
  let old := s.rf Reg.TIM_PULSE 2 0
  let s := pulseStop (fld v 2 0) (s.setFld Reg.TIM_PULSE 3 0 (fld v 3 0))
  alignMask ((fld v 2 0) &&& (7 ^^^ old)) s

def execPulseEnable (v : Word) (s : State) : Host.Outcome State Fault Refusal := hostDo s (pulseEnableOp v)

/-- Half periods per second and offsets: the ideal instants of output `o` are the multiples of period `num / den` ns of
T (Table 9.9). -/
def State.pulsePeriod (s : State) (o : Nat) : Nat × Nat :=
  if o = 0 then (1000000000, 1)
  else if o = 1 then (if s.rb Reg.TIM_PULSE 3 then (1000000000, 48000) else (1000000000, 96000))
  else (1000000, 12)

/-- Measured time `t` (2^-40 ns), truncated by R489, minus the nearest ideal instant, in whole ns, within half a period
(R542). -/
def misalign (t : Int) (num den : Nat) : Int :=
  let per : Int := num * 1099511627776
  let x := (cut16 t * den) % per
  let x := if per < 2 * x then x - per else x
  x / (den * 1099511627776)

/-- The period of output `o` in 2^-40 TCNT ticks (R540): Table 9.9's, rounded where it is not whole in that unit; the spec
does not say which way. -/
def State.pulseTicks (s : State) (o : Nat) : Int :=
  let half := s.rb Reg.TIM_PULSE 3
  if o = 0 then 1024000000 * 1099511627776
  else if o = 1 then (if half then 64000 else 32000) * 1099511627776 / 3 + b2n (Config.pulseUp 1 half)
  else 256000 * 1099511627776 / 3 + b2n (Config.pulseUp 2 false)

/-- Its high time in the same unit: TIM_PPSW microseconds, half a period, or 4 house samples (Table 9.9). -/
def State.pulseWidth (s : State) (o : Nat) : Int :=
  if o = 0 then s.rf Reg.TIM_PPSW 18 0 * 1024 * 1099511627776 else s.pulseTicks o / 2

/-- Eighth `i8` of TCNT in 2^-40 ticks. -/
def eighthAt (i8 : Int) : Int := i8 * 137438953472

/-- The level of output `o` at eighth `i8` of TCNT; a disabled output does not drive. -/
def State.pulseHigh (s : State) (o : Nat) (i8 : Int) : Bool :=
  s.rb Reg.TIM_PULSE o && match (s.tim.pulse o).last with
    | some l => decide (l ≤ eighthAt i8 ∧ eighthAt i8 < l + s.pulseWidth o)
    | none => false

/-- Whether `i8` is the first eighth at or after an ideal instant of output `o`. -/
def State.pulseIdeal (s : State) (o : Nat) (i8 : Int) : Bool :=
  let (num, den) := s.pulsePeriod o
  let per : Int := num * 1099511627776
  decide (cut16 (s.tim.t8 (i8 - 1)) * den / per < cut16 (s.tim.t8 i8) * den / per)

/-- The instant, in 2^-40 ticks, of a rising edge of output `o` that falls in eighth `i8`; none where no edge falls
there. The edges follow one another by the period in ticks, whatever T does (R541); only the period that an ALIGN
lengthens, and the first one, end on an ideal instant, and no period is shortened (R543, R544). -/
def State.pulseDue (s : State) (o : Nat) (i8 : Int) : Option Int :=
  let p := s.tim.pulse o
  let per := s.pulseTicks o
  let now := eighthAt i8
  if !s.rb Reg.TIM_PULSE o then none
  else match p.last with
    | none => if s.pulseIdeal o i8 then some now else none
    | some l =>
      if p.aligning then (if l + per ≤ now ∧ s.pulseIdeal o i8 = true then some now else none)
      else if l + per ≤ now ∧ (now - l) % per < eighthAt 1 then some (now - (now - l) % per) else none

/-- A rising edge `eighth` eighths of a tick after the present tick, where one is due: its misalignment is measured;
above MISTH it sets MISAL. A waiting ALIGN begins to lengthen the period that starts here (R542, R543). -/
def pulseEdgeOp (o eighth : Nat) (s : State) : State :=
  let i8 := s.tim.now8 + eighth
  match s.pulseDue o i8 with
  | none => s
  | some e =>
    let (num, den) := s.pulsePeriod o
    let mis := misalign (s.tim.t8 i8) num den
    let p := s.tim.pulse o
    let s := s.setTim (s.tim.setPulse o { last := some e, alignReq := false, aligning := p.alignReq && p.last.isSome })
    let s := s.setReg (if o = 0 then Reg.TIM_MISPPS else if o = 1 then Reg.TIM_MISWCK else Reg.TIM_MISFOL) (wdi mis)
    s.evtIf (decide ((s.rf Reg.TIM_MISTH 15 0 : Int) < mis ∨ (s.rf Reg.TIM_MISTH 15 0 : Int) < -mis)) Reg.TIM_EVT 3

def execPulseOutputEdge (o eighth : Nat) (s : State) : Host.Outcome State Fault Refusal := hostDo s (pulseEdgeOp o eighth)

/-! ### PTP (R512 to R516) -/

/-- TIM_SRVA or TIM_SRVB. -/
def srvReg (i : Nat) : Nat := if i = 0 then Reg.TIM_SRVA else Reg.TIM_SRVB

/-- The first lock of an instance after the host start: a SET of view L to the instance's view at one tick, then ACTIVE as
the image selects, whatever has set view L before (R504). -/
def firstLock (i : Nat) (s : State) : State :=
  if s.tim.locked then s
  else
    let s := setViewTo 2 ((s.tim.view i).at8 s.tim.now8) (s.setTim { s.tim with locked := true })
    activeWriteOp (wd s.boot.activeSel) s

/-- TIM_SRVx as the runtime writes it, with the event on a change of LOCK. -/
def srvWrite (i : Nat) (lock : Bool) (pstate cc : Nat) (ofs : Nat) (s : State) : State :=
  let old := s.rb (srvReg i) 31
  let o := if ofs < 1048575 then ofs else 1048575
  let w := wd (b2n lock * 2 ^ 31 + pstate % 8 * 2 ^ 28 + cc % 256 * 2 ^ 20 + o)
  let s := s.setTim (s.tim.setPtp i { s.tim.ptp i with written := s.clock })
  (s.setReg (srvReg i) w).evtIf (old != lock) Reg.TIM_EVT (4 + i)

/-- Locked after 16 consecutive intervals below 100 ns, unlocked after 16 at or above 1 µs (R514). -/
def ptpCount (p : Ptp) (absNs : Int) : Ptp :=
  let good := if absNs < 100 then p.good + 1 else 0
  let bad := if 1000 ≤ absNs then p.bad + 1 else 0
  { p with good := good, bad := bad, lock := if p.lock then decide (bad < 16) else decide (16 ≤ good) }

/-- The runtime processes a PTP message of instance `i` (0 = DA, 1 = DB): while unlocked an offset above STEPTH is
removed by SET, every other correction is a RATE write and a SLEW (R514). The offset is in 2^-16 ns; the message's
`rate` and `slew` (ns) are the servo's, within R492. The instances are the runtime's (R512): while it does not run they
pause (R734). -/
def ptpMessageOp (i : Nat) (m : PtpSync) (s : State) : State :=
  if !s.runtime ∨ 2 ≤ i then s
  else
    let mag : Int := if m.offset < 0 then -m.offset else m.offset
    let absNs : Int := mag / 65536
    let p := s.tim.ptp i
    let s := if !m.isSync then s
      else if !p.lock ∧ (s.boot.stepth : Int) * 65536 < mag then
        setViewTo i ((s.tim.view i).at8 s.tim.now8 - m.offset * 16777216) s
      else
        let s := if ratePpmLo ≤ m.rate ∧ m.rate ≤ ratePpmHi then
            let s := s.setReg (Reg.TIM_RATE_LO i) (wd m.rate)
            rateCommitOp i (wd (m.rate / 4294967296)) s
          else s
        if m.slew = 0 then s else slewBy i (m.slew * 1099511627776) s
    let q := if m.isSync then ptpCount p absNs else p
    let q := { q with master := decide (m.pstate = 4) }
    let s := s.setTim (s.tim.setPtp i q)
    let s := followL (if q.lock ∧ !p.lock then firstLock i s else s)
    srvWrite i q.lock m.pstate m.clockClass absNs.toNat s

def execPtpMessage (i : Nat) (m : PtpSync) (s : State) : Host.Outcome State Fault Refusal := hostDo s (ptpMessageOp i m)

/-- Announce receipt timeout unlocks the instance (R514). -/
def announceTimeoutOp (i : Nat) (s : State) : State :=
  if !s.runtime ∨ 2 ≤ i then s
  else
    let s := s.setTim (s.tim.setPtp i { s.tim.ptp i with lock := false, good := 0, bad := 0 })
    srvWrite i false 1 (s.rf (srvReg i) 27 20) (s.rf (srvReg i) 19 0) s

def execAnnounceReceiptTimeout (i : Nat) (s : State) : Host.Outcome State Fault Refusal := hostDo s (announceTimeoutOp i)

/-- CLK_STATUS as it reads: with the root locked every domain of Table 9.10 runs but AUDIO, which is gated with PS8, and
FIELD, which runs with the Keyway UP. -/
def State.clkStatus (s : State) : Word :=
  if s.rb Reg.CLK_STATUS 8 then
    putFld (s.reg Reg.CLK_STATUS) 7 0 (0x5F + 32 * b2n (s.domOn 8) + 128 * b2n (s.isA && s.kwy.link == .up))
  else s.reg Reg.CLK_STATUS

/-- The XO stops: XOFAIL; the RSC holds its control value and the root runs on (R548). -/
def xoFailureOp (s : State) : State :=
  (s.setBit Reg.CLK_STATUS 9 false).evt Reg.CLK_EVT 1

def execXoFailure (s : State) : Host.Outcome State Fault Refusal := hostDo s xoFailureOp

end Sys2Proof.Machine
end

