-- ==== Sys2Proof/Machine/Rsc.lean ====
section
/-! DEFINITION. The reference selection and clean-up (chapter 9, "The RSC"): candidates, quality, qualification,
selection, switching and the open loop. -/

namespace Sys2Proof.Machine

def State.setRsc (s : State) (r : Rsc) : State := { s with rsc := r }

def Rsc.cand (r : Rsc) (k : Nat) : Cand := r.cands.getD k Cand.reset

def Rsc.setCand (r : Rsc) (k : Nat) (c : Cand) : Rsc := { r with cands := r.cands.set k c }

/-- The class of a clockClass (Table 9.4). -/
def clockClassOf (cc : Nat) : Nat :=
  if cc = 6 then 1 else if cc = 13 then 2 else if cc = 7 then 3 else if cc = 14 then 4 else if cc = 135 then 5
  else if cc = 165 then 7 else if cc = 52 ∨ cc = 58 ∨ cc = 187 ∨ cc = 193 then 10 else if cc = 248 then 12
  else if cc = 255 then 15 else 13

/-- The class of an ESMC quality level (Table 9.4). -/
def esmcClassOf (ql : Nat) : Nat :=
  if ql = 2 then 1 else if ql = 4 then 4 else if ql = 8 then 6 else if ql = 11 then 9 else if ql = 15 then 15 else 13

/-- The advertised value of candidate `k`: clockClass of DA or DB, QL heard on P0 or P1 (0xF after 5 s without). -/
def State.advertised (s : State) (k : Nat) : Nat :=
  if k < 2 then s.rf (srvReg k) 27 20
  else if k < 4 then
    (if 5 ≤ (if k = 2 then s.rsc.noEsmc0 else s.rsc.noEsmc1) then 15 else s.rf (Reg.RSC_CST k) 23 16)
  else 255

/-- The quality class of candidate `k` (R520). -/
def State.qclass (s : State) (k : Nat) : Nat :=
  if s.rb (Reg.RSC_CCFG k) 30 ∨ 4 ≤ k then s.rf (Reg.RSC_CCFG k) 23 20
  else if k < 2 then clockClassOf (s.advertised k) else esmcClassOf (s.advertised k)

/-- Loss of signal by Table 9.5; `ext` is what the pins of REF_IN0 and REF_IN1 show. -/
def State.candLos (s : State) (k : Nat) (ext : Bool) : Bool :=
  if k < 2 then !s.rb (srvReg k) 31 || decide (ms 2000 ≤ s.clock - (s.tim.ptp k).written)
  else if k < 4 then !s.rb (Reg.MAC_STATUS (k - 2)) 31
  else if k < 6 then ext
  else if k = 6 then
    !s.rb (Reg.MAC_STATUS 2) 31 || (match s.hng.last0 with | some t => decide (us 250 ≤ s.clock - t) | none => true)
  else false

def absI (x : Int) : Int := if x < 0 then -x else x

/-- Insertion into a rising list. -/
def insSorted (x : Int) : List Int → List Int
  | [] => [x]
  | y :: t => if x ≤ y then x :: y :: t else y :: insSorted x t

/-- The median of a list; the mean of the two middle values, floored, for an even count. -/
def median (l : List Int) : Int :=
  let l := l.foldr insSorted []
  let n := l.length
  if n % 2 = 1 then l.getD (n / 2) 0 else (l.getD (n / 2 - 1) 0 + l.getD (n / 2) 0) / 2

/-- Candidate `k` is enabled; candidate 7 always is (R521). -/
def State.candEn (s : State) (k : Nat) : Bool := decide (k = 7) || s.rb (Reg.RSC_CCFG k) 31

/-- The frequency of candidate `k` against the XO (10^-12) as last measured; 0 for the XO itself. -/
def Rsc.dev (r : Rsc) (k : Nat) : Int := if k = 7 then 0 else r.raw.getD k 0

/-- Candidate `k` is qualified (R521); a wait-to-restore that runs keeps it disqualified. -/
def State.qualified (s : State) (k : Nat) : Bool :=
  if k = 7 then true
  else
    let c := s.rsc.cand k
    s.candEn k && !s.candLos k c.los && !c.disq &&
      decide (absI (s.rsc.dev k) ≤ 1000000 * (s.rf Reg.RSC_CTRL 23 16 : Int)) && decide (s.qclass k < 15)

/-- Only candidate 7 is qualified (Table 9.6). -/
def State.onlyXo (s : State) : Bool := (List.range 7).all (fun k => !s.qualified k)

/-- The order of R527: class, then PRIO, then index. -/
def State.candKey (s : State) (k : Nat) : Nat := (s.qclass k * 16 + s.rf (Reg.RSC_CCFG k) 27 24) * 8 + k

/-- The candidate selected among the qualified ones (R527). -/
def State.selection (s : State) : Nat :=
  if s.rb Reg.RSC_CTRL 2 ∧ s.qualified (s.rf Reg.RSC_CTRL 6 4) then s.rf Reg.RSC_CTRL 6 4
  else
    (List.range 8).foldl (fun b k => if s.qualified k ∧ (b = 8 ∨ s.candKey k < s.candKey b) then k else b) 8

/-- The latest folio start of T in eighths of a tick. -/
def State.folioStart8 (s : State) : Int := s.thirdsAt ((folioOf s.sysT : Int) * 1000000 * 1099511627776 / 12) * 8 / 3

/-- The phase, in ps, at the detector of candidate `k` (Table 9.3): the PTP views against view L, sampled at the folio
start; the hinge partner by its control frames; the other inputs are outside the model, and so is a phase outside the
range of RSC_PDOUT (log entry 150). -/
def State.refPhase (s : State) (k : Nat) : Int :=
  let t8 := s.folioStart8
  let open_ := (Config.refPhase k (folioOf s.sysT)).toInt
  let x := if k < 2 then ((s.tim.view k).at8 t8 - s.tim.vl.at8 t8) * 1000 / 1099511627776
    else if k = 6 then s.hng.phase * 15625 / 128
    else open_
  if -2147483648 ≤ x ∧ x < 2147483648 then x else open_

/-- RSC_PDOUT: while the loop is open the phase of the selected candidate, updated every folio (R536). -/
def State.pdout (s : State) : Word := if s.rsc.st = .opened then wdi (s.refPhase s.rsc.sel) else s.reg Reg.RSC_PDOUT

/-- RSC_STATUS as the state stands. -/
def rscStatus (s : State) : State :=
  s.setReg Reg.RSC_STATUS (wd (s.rsc.new * 256 + s.rsc.sel * 16 + s.rsc.st.code))

/-- What the residual of the latest switch has moved the output phase by instant `now`: 10 ns/s at most (R530). -/
def Rsc.slewedBy (r : Rsc) (now : Nat) : Int :=
  let m : Int := ((now - r.residAt) * 10000 / 1024000000 : Nat)
  clampI (-m) m r.resid

/-- The output phase as it stands, in ps. -/
def Rsc.phaseAt (r : Rsc) (now : Nat) : Int := r.phase + r.slewedBy now

/-- A build-out captures the output phase as it stands; the residual of an earlier switch ends there (R530). -/
def Rsc.capture (r : Rsc) (now : Nat) : Rsc := { r with phase := r.phaseAt now, resid := 0, residAt := now }

/-- 60 s of the clock. -/
def sixty : Nat := 61440000000

/-- What of a list of control values with their times lies within the last `left`. -/
def trimSpan : List (Int × Nat) → Nat → List (Int × Nat)
  | [], _ => []
  | (v, d) :: t, left => if left = 0 then [] else (v, Nat.min d left) :: trimSpan t (left - Nat.min d left)

/-- The control values of the last 60 s in LOCKED at instant `now`, each with its time. -/
def Rsc.lockedSpan (r : Rsc) (now : Nat) : List (Int × Nat) :=
  if r.st = .locked ∧ r.ctlAt < now then trimSpan ((signed 32 r.ctl.toNat, now - r.ctlAt) :: r.history) sixty else r.history

/-- The control value in force ends at instant `now`: in LOCKED it joins the history. -/
def Rsc.endCtl (r : Rsc) (now : Nat) : Rsc := { r with history := r.lockedSpan now, ctlAt := now }

/-- The holdover frequency: the mean control value over the last 60 s in LOCKED, or over the whole time in LOCKED, 0 with
none (R533). -/
def Rsc.holdover (r : Rsc) (now : Nat) : Int :=
  let l := r.lockedSpan now
  let time : Nat := l.foldl (fun (a : Nat) (e : Int × Nat) => a + e.2) 0
  if time = 0 then 0 else l.foldl (fun (a : Int) (e : Int × Nat) => a + e.1 * (e.2 : Int)) 0 / (time : Int)

/-- Enter a state of Table 9.6, with its events. RSC_PDOUT keeps its last phase when the loop closes. -/
def rscEnter (st : RscState) (s : State) : State :=
  let old := s.rsc.st
  let s := s.setReg Reg.RSC_PDOUT s.pdout
  let r := s.rsc.endCtl s.clock
  let r := if st = .buildout then r.capture s.clock else r
  let s := rscStatus (s.setRsc { r with st := st })
  if old = st then s
  else match st with
    | .locked => s.evt Reg.RSC_EVT 0
    | .holdover => s.evt Reg.RSC_EVT 5
    | .freerun => s.sum 12
    | _ => s

/-- The XO runs (CLK_STATUS.XOOK). -/
def State.xoOk (s : State) : Bool := s.rb Reg.CLK_STATUS 9

/-- The control value in force is also what RSC_NCO reads (R538). With the XO stopped the RSC holds its last one
(R548). -/
def setCtl (w : Word) (s : State) : State :=
  if s.xoOk then (s.setRsc { s.rsc.endCtl s.clock with ctl := w }).setReg Reg.RSC_NCO w else s

/-- The loop opens (R536). -/
def rscToOpen (s : State) : State := rscEnter .opened (s.setRsc { s.rsc with openHeld := false })

/-- HOLDOVER on candidate 7; with OPEN = 1 the loop opens from there (Table 9.6). -/
def rscToHoldover (s : State) : State :=
  let s := rscEnter .holdover (s.setRsc { s.rsc with sel := 7 })
  if s.rb Reg.RSC_CTRL 1 then rscToOpen s else s

/-- The output takes the holdover frequency (R529, R533). -/
def holdFrequency (s : State) : State := setCtl (wdi (s.rsc.holdover s.clock)) s

/-- A switch to candidate `k` begins (R529). -/
def rscSwitch (k : Nat) (s : State) : State :=
  rscEnter .buildout (holdFrequency (s.setRsc { s.rsc with sel := k, new := k }))

/-- Evaluate the selection and start what it requires (R528, R531, R534). With the XO stopped nothing changes (R548). -/
def rscEvaluate (s : State) : State :=
  if !s.rb Reg.RSC_CTRL 0 || !s.xoOk then s
  else
    let k := s.selection
    match s.rsc.st with
    | .buildout => s
    | .opened => rscStatus (s.setRsc { s.rsc with sel := k })
    | .freerun | .holdover => if k = 7 then rscStatus (s.setRsc { s.rsc with sel := 7 }) else rscSwitch k s
    | .locked =>
      if k = s.rsc.sel then s
      else if s.onlyXo then rscToHoldover (holdFrequency s)
      else rscSwitch k s

/-- The candidate under build-out has been disqualified: the switch ends without closing the loop, the evaluation
follows at once, and a new switch begins; with only candidate 7 qualified the RSC enters HOLDOVER (R532). -/
def rscAbandon (s : State) : State :=
  if s.onlyXo then rscToHoldover s
  else rscStatus (s.setRsc { s.rsc with sel := s.selection, new := s.selection })

/-- Evaluate after a disqualification of candidate `k` (R528, R532). -/
def rscAfterDisq (k : Nat) (s : State) : State :=
  if s.rsc.st = .buildout ∧ s.rsc.new = k then rscAbandon s else rscEvaluate s

/-- The state and quality a candidate's RSC_CST register shows. -/
def candStatus (k : Nat) (s : State) : State :=
  let c := s.rsc.cand k
  let st := if !s.candEn k then 0 else if s.candLos k c.los then 2 else if c.wtr.isSome then 4 else if c.disq then 3
    else if s.qualified k then 1 else 3
  let rem := match c.wtr with | some n => s.rf Reg.RSC_WTR 11 0 - n | none => 0
  let soft := b2n (s.rb (Reg.RSC_CST k) 28)
  s.setReg (Reg.RSC_CST k)
    (wd (st * 2 ^ 29 + soft * 2 ^ 28 + s.qclass k * 2 ^ 24 + s.advertised k % 256 * 2 ^ 16 + rem % 4096))

/-- Hard limit of candidate `k` in 10^-12. -/
def State.hardLim (s : State) (k : Nat) : Int := 1000 * (s.rf (Reg.RSC_CLIM k) 31 16 : Int)

/-- One second's measurement of candidate `k` with deviation `d`: loss of signal, soft alarm, hard limit,
wait-to-restore (R522, R524 to R526). -/
def measureCand (k : Nat) (los : Bool) (d : Int) (s : State) : State :=
  let c := s.rsc.cand k
  let hard := s.hardLim k
  let soft : Int := 1000 * (s.rf (Reg.RSC_CLIM k) 15 0 : Int)
  let st := s.rf (Reg.RSC_CCFG k) 15 8
  let s := s.setReg (Reg.RSC_CDEV k) (wdi d)
  let nOver := if soft < absI d then c.softOver + 1 else 0
  let nUnder := if absI d < soft then c.softUnder + 1 else 0
  let alarm := s.rb (Reg.RSC_CST k) 28
  let s := s.evtIf (!alarm && decide (soft < absI d ∧ st ≤ nOver)) Reg.RSC_EVT 2
  let s := s.setBit (Reg.RSC_CST k) 28
    (if alarm then !decide (absI d < soft ∧ st ≤ nUnder) else decide (soft < absI d ∧ st ≤ nOver))
  let tooFar := decide (hard < absI d)
  if k = 7 then
    (s.setRsc (s.rsc.setCand 7 { c with softOver := nOver, softUnder := nUnder, overHard := tooFar })).evtIf tooFar Reg.CLK_EVT 1
  else
    let falls := los || (tooFar && c.overHard)
    let s := s.evtIf (falls && !c.disq) Reg.RSC_EVT 3
    let disq := c.disq || falls
    let good := !los && decide (4 * absI d < 3 * hard)
    let n := match c.wtr with | some n => n + 1 | none => 0
    let done := disq && !falls && good && decide (s.rf Reg.RSC_WTR 11 0 ≤ n)
    let s := s.evtIf done Reg.RSC_EVT 4
    let wtr := if disq && good && !falls && !done then some n else none
    s.setRsc (s.rsc.setCand k ⟨los, disq && !done, wtr, nOver, nUnder, tooFar⟩)

/-- The deviation that R523 measures for candidate `k`, by the frequencies against the XO: against the median of the other
qualified candidates where there are two, of all the others for candidate 7, and against the XO otherwise. -/
def State.deviation (s : State) (k : Nat) : Int :=
  let others := (List.range 8).filter (fun j => j != k && (k == 7 || s.qualified j))
  if k = 7 ∨ 2 ≤ others.length then s.rsc.dev k - median (others.map s.rsc.dev) else s.rsc.dev k

/-- Once per second (R523): `m` gives for each candidate its frequency against the XO in 10^-12 and, for candidates 4
and 5, whether its edges are missing. Every candidate is measured, enabled or not. -/
def rscMeasurementOp (m : List RscMeas) (s : State) : State :=
  let wasDisq := fun k => (s.rsc.cand k).disq
  let s := s.setRsc { s.rsc with
    noEsmc0 := s.rsc.noEsmc0 + 1, noEsmc1 := s.rsc.noEsmc1 + 1,
    raw := (List.range 8).map (fun k => (m.getD k ⟨0, true⟩).dev) }
  let s0 := s
  let s := forN 8 s (fun s k => measureCand k (s0.candLos k (m.getD k ⟨0, true⟩).los) (s0.deviation k) s)
  let s := forN 8 s (fun s k => candStatus k s)
  let s := if s.rsc.st = .locked then setCtl (Config.loopControl s.free) { s with free := s.free + 1 } else s
  if s.rsc.st = .buildout ∧ (s.rsc.cand s.rsc.new).disq ∧ !wasDisq s.rsc.new then rscAbandon s else rscEvaluate s

def execRscMeasurement (m : List RscMeas) (s : State) : Host.Outcome State Fault Refusal := hostDo s (rscMeasurementOp m)

/-- Loss of signal disqualifies candidate `k` at once and the selection is evaluated (R522, R528). -/
def disqualificationOp (k : Nat) (s : State) : State :=
  if 7 ≤ k then s
  else
    let c := s.rsc.cand k
    let s := s.setRsc (s.rsc.setCand k { c with los := true, disq := true, wtr := none })
    let s := s.evtIf (!c.disq) Reg.RSC_EVT 3
    rscAfterDisq k (candStatus k s)

def execDisqualification (k : Nat) (s : State) : Host.Outcome State Fault Refusal := hostDo s (disqualificationOp k)

/-- The build-out completes: RSC_BOFS holds the phase (ps) and the loop closes on the new candidate, or opens when OPEN
was written meanwhile (R529, R536). What the measurement left, `resid` ps and at most 50 ns, begins to slew (R530). -/
def buildoutCompleteOp (ofs resid : Int) (s : State) : State :=
  if s.rsc.st ≠ .buildout then s
  else
    let s := s.setReg Reg.RSC_BOFS (wdi ofs)
    let r := s.rsc.capture s.clock
    let s := s.setRsc { r with sel := r.new, resid := clampI (-50000) 50000 resid }
    let s := setCtl (Config.loopControl s.free) { s with free := s.free + 1 }
    (if s.rsc.openHeld then rscToOpen s else rscEnter .locked s).evt Reg.RSC_EVT 1

def execBuildoutComplete (ofs resid : Int) (s : State) : Host.Outcome State Fault Refusal :=
  hostDo s (buildoutCompleteOp ofs resid)

/-- RSC_NCO as the control value in the open loop: clamped to ±PULL ppm in units of 2^-40 (R536). -/
def State.ncoCtl (s : State) : Word :=
  let lim : Int := (s.rf Reg.RSC_CTRL 23 16 : Int) * 1099511627776 / 1000000
  wdi (clampI (-lim) lim (signed 32 (s.reg Reg.RSC_NCO).toNat))

/-- The open loop takes its control value from RSC_NCO. -/
def ncoApply (s : State) : State := if s.xoOk then s.setRsc { s.rsc.endCtl s.clock with ctl := s.ncoCtl } else s

/-- The loop closes on the selected candidate without a step: the phase becomes the build-out offset and the
integrator the control value in force, which RSC_NCO reads from then on (R537, R538). -/
def rscClose (phase : Int) (s : State) : State :=
  let s := (s.setReg Reg.RSC_BOFS (wdi phase)).setReg Reg.RSC_NCO s.rsc.ctl
  if s.onlyXo then rscEnter .holdover s else rscEnter .locked s

/-- What RSC_CTRL as it stands asks of the RSC: EN = 0 takes it to FREERUN, where the XO is not corrected (R534); OPEN = 1
opens the loop, or is held during BUILDOUT (R536); OPEN = 0 closes it (R537). -/
def rscFollow (phase : Int) (s : State) : State :=
  if !s.rb Reg.RSC_CTRL 0 then setCtl 0 (rscEnter .freerun (s.setRsc { s.rsc with openHeld := false }))
  else if s.rb Reg.RSC_CTRL 1 then
    match s.rsc.st with
    | .buildout => s.setRsc { s.rsc with openHeld := true }
    | .opened => ncoApply s
    | .freerun | .locked | .holdover => rscToOpen s
  else if s.rsc.st = .opened then rscClose phase s
  else s.setRsc { s.rsc with openHeld := false }

/-- A write of RSC_CTRL. BW codes above 9 and PULL outside 1 to 100 are ignored with CFGERR: the field keeps its value
(R535). `phase` is that of the selected candidate where its input is outside the model. -/
def rscCtrlWrite (v : Word) (phase : Int) (s : State) : State :=
  let bw := decide (9 < fld v 11 8)
  let pull := decide (fld v 23 16 = 0 ∨ 100 < fld v 23 16)
  let v := if bw then putFld v 11 8 (s.rf Reg.RSC_CTRL 11 8) else v
  let v := if pull then putFld v 23 16 (s.rf Reg.RSC_CTRL 23 16) else v
  let s := (s.evtIf (bw || pull) Reg.RSC_EVT 6).typeWrite Reg.RSC_CTRL v
  rscFollow (if s.rsc.sel < 2 ∨ s.rsc.sel = 6 then s.refPhase s.rsc.sel else phase) s

/-- A write of RSC_CTRL with OPEN = 1 (R536). -/
def rscOpenOp (v : Word) (s : State) : State := rscCtrlWrite (v ||| bitw 1) 0 s

def execRscOpen (v : Word) (s : State) : Host.Outcome State Fault Refusal := hostDo s (rscOpenOp v)

/-- A write of RSC_CTRL with OPEN = 0, at the given phase error in ps (R537). -/
def rscCloseOp (v : Word) (phase : Int) (s : State) : State := rscCtrlWrite (v &&& ~~~(bitw 1)) phase s

def execRscClose (v : Word) (phase : Int) (s : State) : Host.Outcome State Fault Refusal := hostDo s (rscCloseOp v phase)

/-- A write of RSC_CTRL with EN = 0 (R534). -/
def rscFreerunOp (v : Word) (s : State) : State := rscCtrlWrite (v &&& ~~~(bitw 0)) 0 s

def execRscFreerun (v : Word) (s : State) : Host.Outcome State Fault Refusal := hostDo s (rscFreerunOp v)

/-- A write of RSC_NCO: with OPEN = 1 it sets the output frequency, clamped to ±PULL ppm in units of 2^-40; with OPEN = 0
it is ignored and sets CFGERR (R536, R538). -/
def ncoWriteOp (v : Word) (s : State) : State :=
  if s.rsc.st = .opened then ncoApply (s.setReg Reg.RSC_NCO v) else s.evt Reg.RSC_EVT 6

def execNcoWrite (v : Word) (s : State) : Host.Outcome State Fault Refusal := hostDo s (ncoWriteOp v)

/-- A write of RSC_CLIMk: SOFT must lie below HARD. -/
def climWrite (k : Nat) (v : Word) (s : State) : State :=
  if fld v 31 16 ≤ fld v 15 0 then s.evt Reg.RSC_EVT 6 else s.setReg (Reg.RSC_CLIM k) v

/-- A write of RSC_WTR: 0 to 3,600 s. -/
def wtrWrite (v : Word) (s : State) : State :=
  if 3600 < fld v 11 0 then s.evt Reg.RSC_EVT 6 else s.setFld Reg.RSC_WTR 11 0 (fld v 11 0)

end Sys2Proof.Machine
end

