-- ==== Sys2Proof/Machine/Net.lean ====
section
/-! DEFINITION. The network ports P0 to P3: configuration, link, transmit queues, receive steps (chapter 8, "Ports" to
"Statistics"), and what DVT and AES67 share. -/

namespace Sys2Proof.Machine

def State.port (s : State) (p : Nat) : Port := aget s.net.ports Port.reset p

def State.setPort (s : State) (p : Nat) (x : Port) : State :=
  { s with net := { s.net with ports := aput s.net.ports Port.reset p x } }

def State.sub (s : State) (k : Nat) : Sub := aget s.net.subs Sub.reset k

def State.setSub (s : State) (k : Nat) (x : Sub) : State :=
  { s with net := { s.net with subs := aput s.net.subs Sub.reset k x } }

def State.tx (s : State) (k : Nat) : TxStream := aget s.net.txs TxStream.reset k

def State.setTx (s : State) (k : Nat) (x : TxStream) : State :=
  { s with net := { s.net with txs := aput s.net.txs TxStream.reset k x } }

def State.link (s : State) (p : Nat) : Bool := s.rb (Reg.MAC_STATUS p) 31

/-- The domain of a port is on (Table 8.1): P0 and P1 stand in AON. -/
def State.portOn (s : State) (p : Nat) : Bool := decide (p < 2) || (decide (p < 4) && s.domOn 7)

/-- A command at port `p`, if it exists and has power. -/
def portDo (p : Nat) (s : State) (f : State → State) : Host.Outcome State Fault Refusal :=
  .next (if s.hostLive && s.portOn p then f s else s)

/-- Mb/s of a rate code. -/
def rateMbps (r : Nat) : Nat := if r = 1 then 1000 else if r = 2 then 2500 else if r = 3 then 10000 else if r = 4 then 25000 else 0

def State.portRate (s : State) (p : Nat) : Nat := s.rf (Reg.MAC_CFG p) 2 0

/-- The rates and FEC modes of Table 8.1. -/
def rateOk (p r fec : Nat) : Bool :=
  (r == 0 || (if p < 2 then [1, 3, 4] else if p = 2 then [3, 4] else [1, 2, 3]).contains r) &&
    (fec == 0 || (fec == 1 && decide (p < 3) && (r == 3 || r == 4)) || (fec == 2 && r == 4))

/-! ### DVT load (R460, R461) -/

/-- L of R460. -/
def dvtLen (vlan udp : Bool) (nch w : Nat) : Nat :=
  Nat.max 64 (14 + 4 * b2n vlan + 28 * b2n udp + 16 + 8 * nch * w + 4)

/-- Bytes per sample by the FMT bit. -/
def fmtW (house : Bool) : Nat := if house then 4 else 3

/-- L of a transmit stream as configured. -/
def txLen (cfg : Word) : Nat := dvtLen (bit cfg 28) (bit cfg 29) (fld cfg 8 0) (fmtW (bit cfg 30))

/-- Registers of an array of `n` with stride `st` from `base` that differ from reset and satisfy `f`. -/
def State.regsWhere (s : State) (base n st : Nat) (f : Nat → Word → Bool) : List (Nat × Word) :=
  (s.regs.filter (fun e => decide (base ≤ e.1 ∧ e.1 < base + n * st) && decide ((e.1 - base) % st = 0) &&
    f ((e.1 - base) / st) e.2)).map (fun e => ((e.1 - base) / st, e.2))

/-- Enabled transmit streams, ascending. -/
def State.txEnabled (s : State) : List (Nat × Word) := s.regsWhere (Reg.DVT_TXCFG 0) 512 16 (fun _ w => bit w 31)

/-- Enabled subscriptions as written, ascending. -/
def State.rxEnabled (s : State) : List (Nat × Word) := s.regsWhere (Reg.DVT_RXID 0) 512 8 (fun _ w => bit w 31)

/-- The hinge relays taken copies on P2 (R575). -/
def State.relays (s : State) : Bool := s.rb Reg.HNG_CTRL 0 && s.rb Reg.HNG_CTRL 1

/-- Bits per folio of the DVT load of port `p`; the relay counts on P2 with the length of an untagged layer-2 frame of
each subscription that accepts P0 or P1. -/
def State.dvtBits (s : State) (p : Nat) : Nat :=
  let tx := (s.txEnabled.filter (fun e => decide (p < 3) && bit e.2 (24 + p))).map (fun e => (txLen e.2 + 20) * 8)
  let rl := if p = 2 ∧ s.relays then
      (s.rxEnabled.filter (fun e => bit e.2 29 || bit e.2 28)).map (fun e =>
        (dvtLen false false (s.rf (Reg.DVT_RXMAP e.1) 8 0) (fmtW (bit e.2 30)) + 20) * 8)
    else []
  (tx ++ rl).foldl (· + ·) 0

/-- No port carries more than 60.000 µs of DVT load at its rate; a port with RATE = 0 carries none. -/
def State.budgetOk (s : State) : Bool :=
  (List.range 3).all (fun p => s.portRate p == 0 || decide (s.dvtBits p ≤ 60 * rateMbps (s.portRate p)))

/-- Keep a change of configuration only if every port's DVT load stays within the budget (R461). -/
def budgeted (s s' : State) : State := if s'.budgetOk then s' else s.evt Reg.DVT_EVT 1

/-! ### MAC_CFG and the link (R437, R438) -/

/-- LINK becomes 0: frames in queue 6 are not kept. -/
def linkDown (p : Nat) (s : State) : State :=
  if s.link p then
    let s := (s.setBit (Reg.MAC_STATUS p) 31 false).evt (Reg.MAC_EVT p) 1
    s.setPort p { s.port p with queue := (s.port p).queue.filter (fun e => e.1 != 6), busy8 := 0 }
  else s

/-- A write of MAC_CFG. -/
def macCfgWriteOp (p : Nat) (v : Word) (s : State) : State :=
  if !rateOk p (fld v 2 0) (fld v 6 5) then s.evt (Reg.MAC_EVT p) 2
  else
    let len := fld v 29 16
    let ok := 1518 ≤ len ∧ len ≤ 9216
    let old := s.portRate p
    let s1 := (s.typeWrite (Reg.MAC_CFG p) v).setFld (Reg.MAC_CFG p) 29 16 (if ok then len else s.rf (Reg.MAC_CFG p) 29 16)
    if old ≠ fld v 2 0 ∧ !s1.budgetOk then s.evt Reg.DVT_EVT 1
    else
      let s := if ok then s1 else s1.evt (Reg.MAC_EVT p) 2
      if old = fld v 2 0 then s else (linkDown p s).setFld (Reg.MAC_STATUS p) 2 0 (fld v 2 0)

def execMacCfgWrite (p : Nat) (v : Word) (s : State) : Host.Outcome State Fault Refusal :=
  hostDo s (fun s => if p < 4 then regRow (Reg.MAC_CFG p) (macCfgWriteOp p v) s else s)

/-- The conditions of R438 are met: LINK becomes 1. A port that is off has no PCS. -/
def portLinkUpOp (p : Nat) (s : State) : State :=
  if s.portRate p = 0 then s
  else
    let s := s.setFld (Reg.MAC_STATUS p) 30 29 0
    if s.link p then s else (s.setBit (Reg.MAC_STATUS p) 31 true).evt (Reg.MAC_EVT p) 0

def execPortLinkUp (p : Nat) (s : State) : Host.Outcome State Fault Refusal := portDo p s (portLinkUpOp p)

/-- Lock is lost or a fault sequence is received. -/
def portLinkDownOp (p : Nat) (lf rf : Bool) (s : State) : State :=
  linkDown p ((s.setBit (Reg.MAC_STATUS p) 30 lf).setBit (Reg.MAC_STATUS p) 29 rf)

def execPortLinkDown (p : Nat) (lf rf : Bool) (s : State) : Host.Outcome State Fault Refusal :=
  portDo p s (portLinkDownOp p lf rf)

/-- A PCS code error outside any frame, while the PCS holds lock. -/
def pcsCodeErrorOp (p : Nat) (s : State) : State := if s.portRate p = 0 then s else s.macCount p 19 1

def execPcsCodeError (p : Nat) (s : State) : Host.Outcome State Fault Refusal := portDo p s (pcsCodeErrorOp p)

/-! ### IPv4 -/

/-- The 16-bit words of bytes summed. -/
def sum16 : List Byte → Nat
  | a :: b :: t => a.toNat * 256 + b.toNat + sum16 t
  | [a] => a.toNat * 256
  | [] => 0

/-- The ones'-complement sum folded to 16 bits. -/
def fold16 (n : Nat) : Nat :=
  let a := n % 65536 + n / 65536
  let b := a % 65536 + a / 65536
  b % 65536 + b / 65536

/-- The Internet checksum of bytes. -/
def inetSum (l : List Byte) : Nat := 65535 - fold16 (sum16 l)

/-- IPv4 header length of a packet, in bytes. -/
def ihl (b : List Byte) : Nat := beAt b 0 1 % 16 * 4

/-- The UDP destination port of an IPv4 packet. -/
def udpPort (f : Frame) : Option Nat :=
  if f.etype = 0x0800 ∧ beAt f.payload 9 1 = 17 then some (beAt f.payload (ihl f.payload + 2) 2) else none

/-- The UDP checksum, verified where it is not 0. -/
def udpSumOk (b : List Byte) : Bool :=
  let udp := b.drop 20
  let n := beAt udp 4 2
  beAt udp 6 2 == 0 ||
    (fold16 (sum16 (slice b 12 8) + 17 + n + sum16 (udp.take n)) == 65535)

/-- The tests of R456. -/
def ipv4Ok (b : List Byte) : Bool :=
  beAt b 0 1 == 0x45 && decide (beAt b 6 2 % 0x4000 = 0) && decide (fold16 (sum16 (b.take 20)) = 65535) && udpSumOk b

/-- An IPv4 UDP packet: header of 20 bytes with DF, UDP checksum 0. -/
def ipv4Packet (tos ttl id src dst sport dport : Nat) (body : List Byte) : List Byte :=
  let head (sum : Nat) : List Byte := beBytes 0x45 1 ++ beBytes tos 1 ++ beBytes (28 + body.length) 2 ++ beBytes id 2 ++
    beBytes 0x4000 2 ++ beBytes ttl 1 ++ beBytes 17 1 ++ beBytes sum 2 ++ beBytes src 4 ++ beBytes dst 4
  head (inetSum (head 0)) ++ beBytes sport 2 ++ beBytes dport 2 ++ beBytes (8 + body.length) 2 ++ [0, 0] ++ body

/-! ### Transmit queues (R441 to R444) -/

/-- A frame offered to queue `q` other than 6: dropped when 64 wait there. -/
def offer (p q : Nat) (f : Frame) (s : State) : State :=
  let x := s.port p
  if 64 ≤ (x.queue.filter (fun e => e.1 == q)).length then (s.macCount p 38 1).evt (Reg.MAC_EVT p) 5
  else s.setPort p { x with queue := x.queue ++ [(q, f)] }

/-- A frame of the Steward runtime; DVT frames and AES67 packets are not offered. -/
def frameOfferedOp (p q : Nat) (f : Frame) (s : State) : State := if q = 6 ∨ 8 ≤ q then s else offer p q f s

def execFrameOffered (p q : Nat) (f : Frame) (s : State) : Host.Outcome State Fault Refusal :=
  portDo p s (frameOfferedOp p q f)

/-- A frame of audio enters queue 6, which never drops. -/
def offerDvt (p : Nat) (f : Frame) (s : State) : State :=
  s.setPort p { s.port p with queue := (s.port p).queue ++ [(6, f)] }

/-- 12 × the DVT release that next falls due at system time `t`, in 2^-40 ns (R443). -/
def nextRelease12 (t : Int) : Int :=
  let t12 := 12 * t
  let q := t12 / (1000000 * 1099511627776)
  let r := (q * 1000000 + 144000) * 1099511627776
  if t12 ≤ r then r else r + 1000000 * 1099511627776

/-- A frame of another queue than 6 starts at system time `t` only if it ends, preamble included, by the next DVT
release. -/
def State.mayStart (s : State) (p q : Nat) (f : Frame) (t : Int) : Bool :=
  q == 6 || decide (12 * t * (rateMbps (s.portRate p) : Int) + 12 * ((f.len + 8) * 8 * 1000 * 1099511627776 : Nat) ≤
    nextRelease12 t * (rateMbps (s.portRate p) : Int))

/-- The control type of a layer-2 frame with FMT = 0xF. -/
def ctypeOf (etype : Nat) (f : Frame) : Option Nat :=
  if f.etype = etype ∧ beAt f.payload 0 1 % 16 = 15 ∧ 16 ≤ f.payload.length then some (beAt f.payload 12 2) else none

/-- The medium transmit timestamp in eighths of a tick (R507). -/
def State.txStamp (s : State) (p eighth : Nat) : Int := s.tim.now8 + eighth + s.rf (Reg.TIM_TXLAT p) 15 0

/-- The medium receive timestamp. -/
def State.rxStamp (s : State) (p eighth : Nat) : Int := s.tim.now8 + eighth - s.rf (Reg.TIM_RXLAT p) 15 0

/-- Bytes of a list from offset `i` replaced. -/
def patch (l : List Byte) (i : Nat) (b : List Byte) : List Byte := l.take i ++ b ++ l.drop (i + b.length)

/-- Offset of the PTP message in the payload of a frame, if it is PTP (step 7): 0 on layer 2, after the headers in
UDP/IPv4. -/
def ptpOffset (f : Frame) : Option Nat :=
  if f.etype = 0x88F7 then some 0
  else if udpPort f = some 319 ∨ udpPort f = some 320 then some (ihl f.payload + 8)
  else none

/-- A PTP event message: message types 0 to 3 (log entry 145). -/
def ptpEvent (f : Frame) : Bool := match ptpOffset f with
  | some o => decide (beAt f.payload o 1 % 16 < 4)
  | none => false

/-- A one-step Sync gets its own medium timestamp (R510): 48 bits of seconds and 32 of nanoseconds at byte 34 of the
message, the fraction added to correctionField at byte 8, the UDP checksum 0. -/
def State.oneStep (s : State) (p : Nat) (t8 : Int) (f : Frame) : Frame :=
  match ptpOffset f with
  | none => f
  | some o =>
    if s.rb Reg.TIM_PTPCFG p ∧ beAt f.payload o 1 % 16 = 0 then
      let t := if p = 0 then s.tim.va.at8 t8 else if p = 1 then s.tim.vb.at8 t8 else s.tim.t8 t8
      let ns := t / 1099511627776
      let frac := (t / 16777216 % 65536).toNat
      let corr := beAt f.payload (o + 8) 8 + frac
      let b := patch f.payload (o + 8) (beBytes corr 8)
      let b := patch b (o + 34) (beBytes (ns / 1000000000 % 281474976710656).toNat 6 ++ beBytes (ns % 1000000000).toNat 4)
      { f with payload := if f.etype = 0x88F7 then b else patch b (o - 2) [0, 0] }
    else f

/-- The hinge logic keeps the transmit timestamp of each HINGE per path: 0 = P2, 1 = P0, 2 = P1 (R509). -/
def hingeTxStamp (p : Nat) (t8 : Nat) (s : State) : State :=
  let h := s.hng
  { s with hng := if p = 2 then { h with tx0 := t8, txPrev0 := h.tx0 } else if p = 0 then { h with tx1 := t8 } else { h with tx2 := t8 } }

/-- Eighths of a tick that a frame with preamble and gap occupies a port (R442, R461). -/
def frameEighths (rate len : Nat) : Nat := (len + 20) * 8 * 8 * 1024 / rateMbps rate

/-- An idle port starts the head frame of its highest non-empty queue (R442, R443, R448). -/
def portTransmitOp (p eighth : Nat) (s : State) : State :=
  let now := 8 * s.clock + eighth
  if !s.link p || s.portRate p == 0 || decide (now < (s.port p).busy8) then s
  else
    match headQueue (s.port p).queue with
    | none => s
    | some (q, f) =>
      if !s.mayStart p q f (s.tim.t8 (s.tim.now8 + eighth)) then s
      else
        let t8 := s.txStamp p eighth
        let hinge := decide (q = 5 ∧ ctypeOf (s.rf Reg.DVT_CTRL 31 16) f = some 0x10)
        let s := if hinge ∧ p < 3 then hingeTxStamp p t8.toNat s else s
        let f := if q = 7 then s.oneStep p t8 f else f
        let s := ((s.macCount p 24 1).macCount p 25 f.len).macCount p (26 + dstClass f.dst) 1
        let s := match sizeBin f.len with
          | some b => s.macCount p (29 + b) 1
          | none => s
        s.setPort p { s.port p with
          queue := popQueue q (s.port p).queue, lastTx := some f, busy8 := now + frameEighths (s.portRate p) f.len,
          txAt := if q = 7 || hinge then some t8 else none }

def execPortTransmit (p eighth : Nat) (s : State) : Host.Outcome State Fault Refusal := portDo p s (portTransmitOp p eighth)

/-- The quality level that an ESMC message carries: the slow protocol of subtype 0x0A, its level in the low half of
byte 13 (G.8264; log entry 149). -/
def esmcLevel (f : Frame) : Option Nat :=
  if f.etype = 0x8809 ∧ beAt f.payload 0 1 = 10 ∧ 14 ≤ f.payload.length then some (beAt f.payload 13 1 % 16) else none

/-- An ESMC message on P0 or P1 gives the quality level of the port's SyncE candidate (R520). -/
def esmcHeard (p ql : Nat) (s : State) : State :=
  let s := s.setFld (Reg.RSC_CST (p + 2)) 23 16 ql
  if p = 0 then s.setRsc { s.rsc with noEsmc0 := 0 } else if p = 1 then s.setRsc { s.rsc with noEsmc1 := 0 } else s

/-- The Steward runtime takes the oldest frame of a port's ring and returns its place (R785). -/
def ringPlaceFreedOp (p : Nat) (s : State) : State :=
  let x := s.port p
  let s := s.setPort p { x with ring := x.ring.drop 1 }
  match x.ring.head?.bind (fun e => esmcLevel e.1) with
  | some ql => if p < 2 then esmcHeard p ql s else s
  | none => s

def execStewardRingPlaceFreed (p : Nat) (s : State) : Host.Outcome State Fault Refusal := portDo p s (ringPlaceFreedOp p)

/-- The address of a port. -/
def State.macAddr (s : State) (p : Nat) : Nat :=
  (s.reg (Reg.MAC_ADDRLO p)).toNat + 4294967296 * s.rf (Reg.MAC_ADDRHI p) 15 0

end Sys2Proof.Machine
end

