-- ==== Sys2Proof/Machine/Flags.lean ====
section
/-! DEFINITION. The SR flags of a Teller (Table 4.4) and the narrowing of exact results that raises them (R242, R245).
Each function answers the narrowed result and the flags it raises, as bits of SR. -/

namespace Sys2Proof.Machine

/-- SR bits of Table 4.4. -/
def flagSV : Nat := 1
def flagWV : Nat := 2
def flagAV : Nat := 4
def flagSX : Nat := 8

/-- An exact result wrapped to 32 bits, WV when it does not fit. -/
def wrap32 (x : Int) : Word × Nat := (wdi x, if (wdi x).toInt = x then 0 else flagWV)

/-- An exact result saturated to 32 bits, SV when it does not fit. -/
def satur32 (x : Int) : Word × Nat := (wdi (sat32 x), if sat32 x = x then 0 else flagSV)

/-- An exact result wrapped to 80 bits, AV when it does not fit. -/
def wrap80 (x : Int) : BitVec 80 × Nat := (BitVec.ofInt 80 x, if (BitVec.ofInt 80 x).toInt = x then 0 else flagAV)

/-- sat80 (R242). -/
def clamp80 (x : Int) : Int := clampI (-604462909807314587353088) 604462909807314587353087 x

/-- An exact result saturated to 80 bits, AV when it does not fit. -/
def satur80 (x : Int) : BitVec 80 × Nat := (BitVec.ofInt 80 (clamp80 x), if clamp80 x = x then 0 else flagAV)

/-- The exact rounded quotient round-half-up(x / 2^sh); x for sh = 0 (R17, R245). -/
def rhu (x : Int) (sh : Nat) : Int := if sh = 0 then x else (x + 2 ^ (sh - 1)) / 2 ^ sh

/-- SR with flags raised (R213). -/
def raise (sr : Word) (fl : Nat) : Word := sr ||| wd fl

end Sys2Proof.Machine
end

