-- ==== Sys2Proof/Machine/Ledger.lean ====
section
/-! DEFINITION. The Ledger (chapter 3): gain codes, the change queue, the ramp engine, the row map, the mix of a sink,
source gates and re-points. -/

namespace Sys2Proof.Machine

def State.setLdg (s : State) (l : Ldg) : State := { s with ldg := l }

/-- The number of crosspoints. -/
def xpCount : Nat := 5242880

/-- The gain store code of crosspoint `x` (R156). -/
def State.gain (s : State) (x : Nat) : Nat := (s.rdHalf (0x20000000 + 2 * x)).toNat

def State.setGain (s : State) (x c : Nat) : State := s.wrHalf (0x20000000 + 2 * x) (BitVec.ofNat 16 c)

/-! ### Codes of the folio being mixed -/

/-- The slot and ramp that names crosspoint `x`. -/
def findXp (l : List (Nat × Ramp)) (x : Nat) : Option (Nat × Ramp) := l.find? (fun e => e.2.xp == x)

/-- The code of a crosspoint without a ramp in the folio being mixed: what a write with EN = 0 replaces in the store
counts to the end of the mix slot (R116, R165). -/
def State.steadyCode (s : State) (x : Nat) : Nat :=
  match s.ldg.was.find? (fun e => e.1 == x) with
  | some e => e.2
  | none => s.gain x

/-- The code of crosspoint `x` at sample `j` of the folio being mixed (R170, R179). -/
def State.codeAt (s : State) (x j : Nat) : Nat :=
  match findXp s.ldg.ramps x with
  | some (k, r) =>
    if r.bad then (Config.badRamp k ((s.pst.cur).getD 0) j).toNat else rampCode r.start r.target (r.done + j + 1) r.len
  | none => s.steadyCode x

/-- Crosspoint `x` is non-zero in at least one of the 8 samples of the folio (R146, R118, R157). -/
def State.xpLive (s : State) (x : Nat) : Bool := (List.range 8).any (fun j => s.codeAt x j != 0)

/-- Crosspoints that may be non-zero: those with a listed gain store byte, those of a ramp, and those written
in the mix slot. -/
def State.xpListed (s : State) : List Nat :=
  let l := s.mem.filterMap (fun e => if 0x20000000 ≤ e.1 ∧ e.1 < 0x20A00000 then some ((e.1 - 0x20000000) / 2) else none)
  addAll (addAll (addAll [] l) (s.ldg.ramps.map (fun e => e.2.xp))) (s.ldg.was.map (·.1))

/-- Row (src, g) is live (R146); with NOSKIP or a row map parity error every row counts (R149, R153). -/
def State.rowLive (s : State) (src g : Nat) : Bool :=
  s.rb Reg.LDG_CTRL 2 || s.ldg.parity.contains src ||
    (List.range 40).any (fun k => s.xpLive ((40 * g + k) * 2048 + src))

/-- The live rows of group `g` by the codes. -/
def State.liveRows (s : State) (g : Nat) : List Nat :=
  let xs := s.xpListed.filter (fun x => decide (x / 2048 / 40 = g) && s.xpLive x)
  addAll (addAll [] (xs.map (fun x => x % 2048))) s.ldg.parity

/-- The cost of mixing group `g` in CORE cycles (R147, R149). -/
def State.groupCost (s : State) (g : Nat) : Nat :=
  if s.rb Reg.LDG_CTRL 2 then 1024
  else
    let n := (s.liveRows g).length
    if (n + 1) / 2 < 16 then 16 else (n + 1) / 2

/-- The sinks that source `src` feeds in the folio (R113 steps 3 and 4). -/
def State.sinksOf (s : State) (src : Nat) : List Nat :=
  (s.xpListed.filter (fun x => decide (x % 2048 = src) && s.xpLive x)).map (fun x => x / 2048)

/-- The groups that a source reaches directly; all of them on a parity error (R153). -/
def State.groupsOf (s : State) (src : Nat) : List Nat :=
  if s.ldg.parity.contains src then List.range 64 else addAll [] ((s.sinksOf src).map (fun k => k / 40))

/-- LDG_RMLO or LDG_RMHI (`h` = 0 or 1) of the source in LDG_RMSEL. -/
def State.rowMapWord (s : State) (h : Nat) : Word :=
  let src := s.rf Reg.LDG_RMSEL 10 0
  wd ((List.range 32).foldl (fun n i => n + (if s.rowLive src (32 * h + i) then 2 ^ i else 0)) 0)

/-! ### The mix (R145, R158 to R162) -/

/-- The exact sum of sink `k` at sample `j` over the source rows. -/
def State.mixSum (s : State) (rows : List (Nat × Word)) (k j : Nat) : Int :=
  rows.foldl (fun acc e =>
    if e.1 % 8 = j then acc + e.2.toInt * (coef (s.codeAt (k * 2048 + e.1 / 8) j) : Int) else acc) 0

/-- The sink result of an exact sum, whether the accumulator range was exceeded, and whether it saturated. -/
def sinkResult (acc : Int) : Int × Bool × Bool :=
  if acc < -9223372036854775808 then (-2147483648, true, true)
  else if 9223372036854775807 < acc then (2147483647, true, true)
  else
    let y := roundHalfUp acc 4194304
    (sat32 y, false, decide (sat32 y ≠ y))

/-- The 8 results of sink `k`, whether one saturated, with the events of R159 and R161; 0 while PS5 is off (R195). -/
def mixSink (rows : List (Nat × Word)) (k : Nat) (s : State) : List Word × Bool × State :=
  if !s.domOn 5 then (List.replicate 8 0, false, s)
  else
    let rs := (List.range 8).map (fun j => sinkResult (s.mixSum rows k j))
    let aovf := rs.any (fun r => r.2.1)
    let sat := rs.any (fun r => r.2.2)
    let s := (s.evtIf aovf Reg.LDG_EVT 1).evtIf sat Reg.LDG_EVT 0
    (rs.map (fun r => wdi r.1), sat, s)

/-! ### Gain changes (R163 to R178) -/

/-- Slots in use. -/
def Ldg.used (l : Ldg) : List Nat := addAll (addAll (l.ramps.map (·.1)) (l.fresh.map (·.1))) (l.held.map (·.1))

/-- The lowest ramp slot that no ramp holds. -/
def freeSlot (l : Ldg) : Option Nat :=
  match (List.range (l.used.length + 1)).find? (fun k => !l.used.contains k) with
  | some k => if k < 65536 then some k else none
  | none => none

/-- How many slots are in use. -/
def Ldg.slots (l : Ldg) : Nat := l.used.length

/-- LDG_STATUS as the state stands. -/
def State.ldgStatus (s : State) : Word :=
  wd (b2n s.ldg.ready * 2 ^ 31 + b2n (!s.ldg.held.isEmpty) * 2 ^ 30 + s.ldg.queue.length * 2 ^ 17 + s.ldg.slots)

/-- A ramp slot written into the ramp table (Table 3.2). -/
def writeSlot (k : Nat) (r : Ramp) (valid : Bool) (s : State) : State :=
  let a := 0x21000000 + 16 * k
  (((s.wrWord a (wd (r.xp % 8388608 + b2n valid * 2 ^ 31))).wrWord (a + 4) (wd (r.start + r.target * 65536))).wrWord
    (a + 8) (wd r.len)).wrWord (a + 12) (wd r.done)

/-- The slot that crosspoint `x` holds: by a ramp, or by a change accepted and not begun (R172). -/
def Ldg.slotOf (l : Ldg) (x : Nat) : Option Nat :=
  (findXp l.fresh x).orElse (fun _ => (findXp l.held x).orElse (fun _ => findXp l.ramps x)) |>.map (·.1)

/-- The change at the head of the queue can be accepted (R168). -/
def State.canAccept (s : State) (c : Chg) : Bool :=
  (s.ldg.slotOf c.xp).isSome || s.gain c.xp == c.code || (freeSlot s.ldg).isSome

/-- Ramp `r` to begin with the next folio in slot `k`. Where it replaces one that starts from the code of an uncorrectable
word, it starts from that code (Table 3.7). -/
def putFresh (k : Nat) (r : Ramp) (l : List (Nat × Ramp)) : List (Nat × Ramp) :=
  match l.find? (fun e => e.1 == k) with
  | some (_, q) => aput l Ramp.none k (if q.forced && !r.forced then { r with start := q.start, forced := true } else r)
  | none => aput l Ramp.none k r

/-- A change takes slot `k`, held or to begin with the next folio. The table shows what the slot's ramp does until the
change begins. -/
def takeSlot (k : Nat) (hold : Bool) (r : Ramp) (s : State) : State :=
  let shown := (findXp s.ldg.ramps r.xp).isSome || (hold && (findXp s.ldg.fresh r.xp).isSome)
  let s := if shown then s else writeSlot k r true s
  if hold then s.setLdg { s.ldg with held := aput s.ldg.held Ramp.none k r }
  else s.setLdg { s.ldg with fresh := putFresh k r s.ldg.fresh }

/-- Accept a change (R168 to R174): into the slot its crosspoint holds, without effect when the target is the code and
no slot is held, else into a free slot. What a retargeted ramp applies in the folio being mixed stays. -/
def acceptChg (c : Chg) (s : State) : State :=
  let slot := match s.ldg.slotOf c.xp with
    | some k => some k
    | none => if s.gain c.xp = c.code then none else freeSlot s.ldg
  match slot with
  | none => s
  | some k => takeSlot k (s.rb Reg.LDG_CTRL 1) ⟨c.xp, s.gain c.xp, c.code, s.rf (Reg.LDG_RAMPT c.rt) 17 0, 0, false, false⟩ s

/-- The change at the head of the queue is accepted as soon as R168 allows it; until then it waits, and so does every
change behind it. -/
def changeAcceptOp (s : State) : State :=
  match s.ldg.queue with
  | [] => s
  | c :: t => if s.canAccept c then acceptChg c (s.setLdg { s.ldg with queue := t }) else s

def execChangeAccept (s : State) : Host.Outcome State Fault Refusal := hostDo s changeAcceptOp

/-! ### Write beats at the stores (R163, R165, R167, R179) -/

/-- The codes of a beat at address `addr`, by crosspoint. -/
def beatCodes (addr : Nat) (codes : List Half) : List (Nat × Nat) :=
  codes.zipIdx.map (fun e => ((addr - 0x20000000) / 2 + e.2, e.1.toNat))

/-- A code set at once in the store, with EN = 0 (R165). The folio being mixed keeps the code that it had (R116, R117). -/
def setCode (x c : Nat) (s : State) : State :=
  let was := if s.pst.cur.isSome && !s.ldg.was.any (fun e => e.1 == x) then s.ldg.was ++ [(x, s.gain x)] else s.ldg.was
  (s.setLdg { s.ldg with was := was }).setGain x c

/-- A beat of codes performed: gain changes with EN = 1 (R163), codes at once with EN = 0 (R165). -/
def performGain (rt : Option Nat) (l : List (Nat × Nat)) (s : State) : State :=
  if s.rb Reg.LDG_CTRL 0 then
    let rt := rt.getD (s.rf Reg.LDG_CTRL 7 4)
    s.setLdg { s.ldg with queue := s.ldg.queue ++ (l.map (fun e => ⟨e.1, e.2, rt⟩)) }
  else l.foldl (fun s e => setCode e.1 e.2 s) s

/-- Words written into the ramp table (R179): ignored with RTWR while EN = 1; else performed, and taken into the engine at
the end of the mix slot. -/
def performRamp (l : List (Nat × Word)) (s : State) : State :=
  if s.rb Reg.LDG_CTRL 0 then s.evt Reg.LDG_EVT 4
  else l.foldl (fun s e =>
    let s := s.wrWord e.1 e.2
    s.setLdg { s.ldg with touched := addTo s.ldg.touched ((e.1 - 0x21000000) / 4) }) s

def performBeat (b : LdgBeat) (s : State) : State :=
  match b with
  | .gain rt l => performGain rt l s
  | .ramp l => performRamp l s

/-- The change queue can take the beat. -/
def State.beatFits (s : State) (b : LdgBeat) : Bool :=
  match b with
  | .gain _ l => !s.rb Reg.LDG_CTRL 0 || decide (s.ldg.queue.length + l.length ≤ 4096)
  | .ramp _ => true

/-- A write beat at the Ledger stores (R163, R165, R167): it waits when the queue cannot take every code, with QFULL, and
behind a beat that waits. -/
def ledgerBeat (b : LdgBeat) (s : State) : State :=
  if s.ldg.waiting = [] ∧ s.beatFits b then performBeat b s
  else (s.setLdg { s.ldg with waiting := s.ldg.waiting ++ [b] }).evtIf (!s.beatFits b) Reg.LDG_EVT 2

/-- A write of codes into the gain store at `addr`; with PS5 off, outside the store or misaligned it ends with an error
response (R58, R59). -/
def gainStoreWriteOp (addr : Nat) (codes : List Half) (s : State) : State :=
  if addr < 0x20000000 ∨ 0x20A00000 < addr + 2 * codes.length ∨ addr % 2 ≠ 0 then
    (clhError .stw 0 true addr (if addr % 2 ≠ 0 then 2 else 1) s).answer .err []
  else if !s.domOn 5 then (clhError .stw 0 true addr 3 s).answer .err []
  else (ledgerBeat (.gain none (beatCodes addr codes)) s).answer .ok []

def execGainStoreWrite (addr : Nat) (codes : List Half) (s : State) : Host.Outcome State Fault Refusal :=
  hostDo s (gainStoreWriteOp addr codes)

/-- The beat now at the head of those that wait finds the queue without room for it: QFULL (R167). -/
def headWaits (s : State) : State :=
  match s.ldg.waiting with
  | [] => s
  | b :: _ => s.evtIf (!s.beatFits b) Reg.LDG_EVT 2

/-- The oldest waiting beat is performed once there is room, with the EN and WRT then in force (R163, R167); the next one
may have to wait in its turn. -/
def waitingBeatOp (s : State) : State :=
  match s.ldg.waiting with
  | [] => s
  | b :: t => if s.beatFits b then headWaits (performBeat b (s.setLdg { s.ldg with waiting := t })) else s

def execWaitingBeat (s : State) : Host.Outcome State Fault Refusal := hostDo s waitingBeatOp

/-- A write of LDG_CHGV (R164, R780): one gain change; at once with EN = 0; refused with an error response on a full
queue; ignored with CHGERR for a crosspoint out of range, which is tested first. -/
def chgvWriteOp (v : Word) (s : State) : State :=
  let x := s.rf Reg.LDG_CHGX 22 0
  if !s.domOn 5 then (clhError .stw 0 true Reg.LDG_CHGV 3 s).answer .err []
  else if xpCount ≤ x then (s.evt Reg.LDG_EVT 9).answer .ok []
  else if s.rb Reg.LDG_CTRL 0 then
    if 4096 ≤ s.ldg.queue.length then (s.evt Reg.LDG_EVT 10).answer .err []
    else (s.setLdg { s.ldg with queue := s.ldg.queue ++ [⟨x, fld v 15 0, fld v 19 16⟩] }).answer .ok []
  else (setCode x (fld v 15 0) s).answer .ok []

def execChgvWrite (v : Word) (s : State) : Host.Outcome State Fault Refusal := hostDo s (chgvWriteOp v)

/-- HOLD = 0 releases every change then held: it begins whatever HOLD becomes later (R174). -/
def releaseHeld (s : State) : State :=
  s.setLdg { s.ldg with
    fresh := s.ldg.held.foldl (fun l e => putFresh e.1 e.2 l) s.ldg.fresh, held := [] }

/-- A write of LDG_CTRL. -/
def holdWriteOp (v : Word) (s : State) : State :=
  let s := s.typeWrite Reg.LDG_CTRL v
  if bit v 1 then s else releaseHeld s

def execHoldWrite (v : Word) (s : State) : Host.Outcome State Fault Refusal :=
  hostDo s (regRow Reg.LDG_CTRL (holdWriteOp v))

/-- A Clearinghouse write of words into the ramp table at `addr` (R179); behind a waiting beat it waits (R167). -/
def rampTableWriteOp (addr : Nat) (ws : List Word) (s : State) : State :=
  if addr < 0x21000000 ∨ 0x21100000 < addr + 4 * ws.length ∨ addr % 4 ≠ 0 then
    (clhError .stw 0 true addr (if addr % 4 ≠ 0 then 2 else 1) s).answer .err []
  else if !s.domOn 5 then (clhError .stw 0 true addr 3 s).answer .err []
  else (ledgerBeat (.ramp (ws.zipIdx.map (fun e => (addr + 4 * e.2, e.1)))) s).answer .ok []

def execRampTableWrite (addr : Nat) (ws : List Word) (s : State) : Host.Outcome State Fault Refusal :=
  hostDo s (rampTableWriteOp addr ws)

/-- A write of LDG_RAMPTk: 12 to 192,000 samples, else ignored with RTERR (R176). -/
def ramptWriteOp (k : Nat) (v : Word) (s : State) : State :=
  let n := fld v 17 0
  if 12 ≤ n ∧ n ≤ 192000 then s.setReg (Reg.LDG_RAMPT k) (wd n) else s.evt Reg.LDG_EVT 3

def execRamptWrite (k : Nat) (v : Word) (s : State) : Host.Outcome State Fault Refusal :=
  hostDo s (regRow (Reg.LDG_RAMPT k) (ramptWriteOp k v))

/-! ### The end of a mix slot -/

/-- A ramp after the folio being mixed, its code written back (R178); finished ramps free their slot (R171), unless a
change holds it. The write-back decides over a code written with EN = 0 in the slot (R165). -/
def advanceRamp (k : Nat) (r : Ramp) (s : State) : State :=
  if r.bad then s
  else
    let d := if r.len ≤ r.done + 8 then r.len else r.done + 8
    let s := s.setGain r.xp (rampCode r.start r.target d r.len)
    let r := { r with done := d }
    if d = r.len then
      let s := match findXp s.ldg.held r.xp with
        | some (_, h) => writeSlot k h true s
        | none => if (findXp s.ldg.fresh r.xp).isSome then s else writeSlot k r false s
      s.setLdg { s.ldg with ramps := adel s.ldg.ramps k }
    else (writeSlot k r true s).setLdg { s.ldg with ramps := aput s.ldg.ramps Ramp.none k r }

/-- A slot of the ramp table of which words were written over the Clearinghouse is taken into the engine as it stands
(R179). -/
def reloadSlot (k : Nat) (s : State) : State :=
  let w := fun i => s.rdWord (0x21000000 + 16 * k + 4 * i)
  let len := fld (w 2) 17 0
  let dn := fld (w 3) 17 0
  let x := fld (w 0) 22 0
  let bad := decide (xpCount ≤ x) || decide (len < 12) || decide (192000 < len) || decide (len ≤ dn)
  let ramps := adel s.ldg.ramps k
  let ramps := if bit (w 0) 31 then aput ramps Ramp.none k ⟨x, fld (w 1) 15 0, fld (w 1) 31 16, len, dn, false, bad⟩ else ramps
  s.setLdg { s.ldg with ramps := ramps, fresh := adel s.ldg.fresh k, held := adel s.ldg.held k }

/-- Ramp `e.2` with the mark of R179 where another slot of `l` names its crosspoint. -/
def markTwin (l : List (Nat × Ramp)) (e : Nat × Ramp) : Nat × Ramp :=
  (e.1, { e.2 with bad := e.2.bad || l.any (fun d => d.2.xp == e.2.xp && d.1 != e.1) })

/-- Every one of several valid slots that name one crosspoint is undefined, those of changes accepted among them
(R179). -/
def markTwins (s : State) : State :=
  let l := s.ldg.ramps ++ s.ldg.fresh ++ s.ldg.held
  s.setLdg { s.ldg with
    ramps := s.ldg.ramps.map (markTwin l), fresh := s.ldg.fresh.map (markTwin l), held := s.ldg.held.map (markTwin l) }

/-- A change accepted begins: its ramp starts from the code at the last sample applied (R170, R172), or from the code of
an uncorrectable word (Table 3.7). -/
def beginFresh (k : Nat) (r : Ramp) (s : State) : State :=
  let r := { r with start := if r.forced then r.start else s.gain r.xp, done := 0, forced := false }
  (writeSlot k r true s).setLdg { s.ldg with ramps := aput s.ldg.ramps Ramp.none k r, fresh := adel s.ldg.fresh k }

/-- A ramp slot with an uncorrectable error is freed: its crosspoint takes TARGET, or keeps the code last written back
(Table 3.7). -/
def freeRamp (target : Bool) (k : Nat) (s : State) : State :=
  let take := fun (l : List (Nat × Ramp)) (s : State) => match l.find? (fun e => e.1 == k) with
    | some (_, r) => writeSlot k r false (if target then s.setGain r.xp r.target else s)
    | none => s
  let s := take s.ldg.fresh (take s.ldg.held (take s.ldg.ramps s))
  s.setLdg { s.ldg with ramps := adel s.ldg.ramps k, fresh := adel s.ldg.fresh k, held := adel s.ldg.held k }

/-- One code of an uncorrectable gain store word: a ramp to off by RAMPT0 from the code as read, at most 0xF400, that
begins with the next folio; off from that folio where no slot is free (Table 3.7). -/
def eccCode (x : Nat) (s : State) : State :=
  if s.gain x = 0 then s
  else
    match (s.ldg.slotOf x).orElse (fun _ => freeSlot s.ldg) with
    | some k => takeSlot k false ⟨x, Nat.min (s.gain x) 0xF400, 0, s.rf (Reg.LDG_RAMPT 0) 17 0, 0, true, false⟩ s
    | none => s.setLdg { s.ldg with off := addTo s.ldg.off x }

/-- The mix slot boundary of the Ledger: slots that an error frees end, ramps of the folio just mixed advance when one was
mixed (R117), ramps that an error completes end, written slots are taken in, accepted changes begin with the next folio
(R169, R779), parity marks end (R153). Words written into the ramp table stand against what the advance writes. -/
def ledgerBoundary (mixed : Bool) (s : State) : State :=
  let taken := s.ldg.touched.map (fun w => (w, s.rdWord (0x21000000 + 4 * w)))
  let s := s.ldg.freed.foldl (fun s k => freeRamp false k s) s
  let s := if mixed then s.ldg.ramps.foldl (fun s e => advanceRamp e.1 e.2 s) s else s
  let s := s.ldg.complete.foldl (fun s k => freeRamp true k s) s
  let s := s.ldg.off.foldl (fun s x => s.setGain x 0) s
  let s := taken.foldl (fun s e => s.wrWord (0x21000000 + 4 * e.1) e.2) s
  let s := (addAll [] (taken.map (fun e => e.1 / 4))).foldl (fun s k => reloadSlot k s) s
  let s := if taken.isEmpty then s else markTwins s
  let s := s.ldg.fresh.foldl (fun s e => beginFresh e.1 e.2 s) s
  s.setLdg { s.ldg with touched := [], was := [], complete := [], freed := [], off := [], parity := [] }

/-! ### Bindings, gates and re-points (R185 to R192, R781) -/

/-- A binding is well encoded by Table 3.5 (R781, R192). -/
def bindOk (isA : Bool) (b : Nat) : Bool :=
  let i := b % 4096
  match b / 4096 % 16 with
  | 0 => decide (i = 0)
  | 1 => decide (i < 2048)
  | 2 => decide (i < 512)
  | 3 => true
  | 4 => decide (i < 1280)
  | 5 => isA && decide (i < 128)
  | 6 => decide (i < 128)
  | _ => false

/-- The binding that source assembly reads (LDG_BINDs). -/
def State.bind (s : State) (src : Nat) : Nat := s.rf (Reg.LDG_BIND src) 15 0

/-- The source gate of `src`. -/
def State.gate (s : State) (src : Nat) : Gate := aget s.ldg.gates Gate.reset src

def setGate (src : Nat) (g : Gate) (s : State) : State :=
  (s.setLdg { s.ldg with gates := aput s.ldg.gates Gate.reset src g }).setBit (Reg.LDG_BIND src) 31
    (decide (g.phase ≠ .normal))

/-- The gate code after `i` samples of the gate's ramp. -/
def Gate.codeAfter (g : Gate) (i : Nat) : Nat :=
  match g.phase with
  | .normal => 0xF400
  | .down => rampCode g.a 0 i g.len
  | .silent => 0
  | .up => rampCode 0 0xF400 i g.len

/-- A re-point at the gate: while the gate falls or is silent the pending binding is replaced; while it rises a new fall
starts from the present code (R186, R190). -/
def repointGate (r : Repoint) (s : State) : State :=
  let g := s.gate r.src
  match g.phase with
  | .normal => setGate r.src ⟨.down, 0xF400, r.len, 0, r.bind⟩ s
  | .down | .silent => setGate r.src { g with bind := r.bind } s
  | .up => setGate r.src ⟨.down, g.codeAfter g.done, r.len, 0, r.bind⟩ s

/-- A write of LDG_REPTB starts a re-point of LDG_REPT.SRC; a bad binding sets REPERR (R192). -/
def repointOp (v : Word) (s : State) : State :=
  let b := fld v 15 0
  let src := s.rf Reg.LDG_REPT 10 0
  let t := s.rf (Reg.LDG_RAMPT (s.rf Reg.LDG_REPT 15 12)) 17 0
  if !bindOk s.isA b then s.evt Reg.LDG_EVT 8
  else
    let s := s.setLdg { s.ldg with repoints := s.ldg.repoints ++ [(s.pst.next, ⟨src, t, b⟩)] }
    repointGate ⟨src, t, b⟩ s

/-- Sources with a re-point in progress (LDG_REPTST.PEND). -/
def State.repPend (s : State) : Nat := (s.ldg.gates.filter (fun e => decide (e.2.phase ≠ .normal))).length

/-- A gate as it enters the entry cut of the next folio: after the fall comes the silent folio, in which the new binding
is read, then the rise, then the normal gate (R187, R188). -/
def Gate.step (g : Gate) : Gate :=
  match g.phase with
  | .normal => g
  | .down => if g.len ≤ g.done then { g with phase := .silent, done := 0 } else g
  | .silent => { g with phase := .up, done := 0 }
  | .up => if g.len ≤ g.done then Gate.reset else g

/-- At an entry cut the gates step; a source whose gate is silent, or was, reads its new binding (R187). -/
def stepGates (s : State) : State :=
  s.ldg.gates.foldl (fun s e =>
    let g := e.2.step
    let s := if e.2.phase = .silent ∨ g.phase = .silent then s.setFld (Reg.LDG_BIND e.1) 15 0 e.2.bind else s
    setGate e.1 g s) s

/-- The gates and bindings as they stood before the entry cut of folio `n`, and the re-points written since (R779). -/
def restoreGates (n : Nat) (gates : List (Nat × Gate)) (binds : List (Nat × Nat)) (s : State) : State :=
  let s := s.ldg.gates.foldl (fun s e => setGate e.1 Gate.reset s) s
  let s := binds.foldl (fun s e => s.setFld (Reg.LDG_BIND e.1) 15 0 e.2) s
  let s := gates.foldl (fun s e => setGate e.1 e.2 s) s
  (s.ldg.repoints.filter (fun e => decide (n < e.1))).foldl (fun s e => repointGate e.2 s) s

/-- After the entry cut, the samples of the folio count as applied. -/
def advanceGates (s : State) : State :=
  s.setLdg { s.ldg with gates := s.ldg.gates.map (fun e => (e.1, { e.2 with done := e.2.done + 8 })) }

end Sys2Proof.Machine
end

