-- ==== Sys2Proof/Machine/Journal.lean ====
section
/-! DEFINITION. Folios in flight, Teller contexts and their port cells, the journal, finality and the taps (chapters 2
and 4). Instants of the folio schedule are counted in thirds of a CORE cycle of system time: a folio is 256,000 of
them and a microsecond 3,072, both exact. -/

namespace Sys2Proof.Machine

/-! ### Instants of the schedule -/

def us3 (n : Nat) : Int := 3072 * n

/-- System time now, in thirds of a CORE cycle. -/
def State.now3 (s : State) : Int := s.sysT * 3072 / (1000 * 1099511627776)

/-- A(n) (R85). -/
def aAt (n : Nat) : Int := 256000 * ((n : Int) + 1)

def State.entryUs (s : State) : Nat := s.rf Reg.PST_CUT 6 0
def State.srcWin (s : State) : Nat := s.rf Reg.PST_WIN 4 0
def State.sinkWin (s : State) : Nat := s.rf Reg.PST_WIN 12 8

/-- POST in force for folio `n` (R96). -/
def State.postUs (s : State) (n : Nat) : Nat :=
  s.pst.postNext.foldl (fun p e => if e.2 ≤ n then e.1 else p) s.pst.post

/-- E(n), M(n) and P(n) (R87). -/
def State.eAt (s : State) (n : Nat) : Int := aAt n + us3 s.entryUs
def State.mAt (s : State) (n : Nat) : Int := aAt n + us3 (s.entryUs + s.srcWin)
def State.pAt (s : State) (n : Nat) : Int := aAt n + us3 (s.postUs n)

/-- The start of the mix of group `g` of folio `n`, by the row map (R90, R147). -/
def State.mixBegin (s : State) (n g : Nat) : Int :=
  s.mAt n + 3 * (((List.range g).map (fun h => s.groupCost h)).foldl (· + ·) 0 : Nat)

/-! ### Folios and contexts -/

def State.setPst (s : State) (p : Pst) : State := { s with pst := p }

def State.fol? (s : State) (n : Nat) : Option Fol := s.pst.fols.find? (fun f => f.n == n)

/-- The folio in flight of this number, replaced. -/
def State.setFol (s : State) (f : Fol) : State :=
  s.setPst { s.pst with fols := s.pst.fols.map (fun g => if g.n = f.n then f else g) }

def State.updFol (s : State) (n : Nat) (g : Fol → Fol) : State :=
  match s.fol? n with
  | some f => s.setFol (g f)
  | none => s

/-- A rerun of task `k` is placed and not complete. -/
def Fol.rerunning (f : Fol) (k : Nat) : Bool := f.reruns.any (fun e => e.1 == k)

def Fol.entry (f : Fol) (g : Nat) : EntrySt := aget f.entries .free g

def Fol.setEntry (f : Fol) (g : Nat) (e : EntrySt) : Fol := { f with entries := aput f.entries .free g e }

/-- The key of a context on a physical Teller. -/
def ctxKey (t c : Nat) : Nat := 256 * (t % 64) + c % 256

def State.ctx (s : State) (k : Nat) : Ctx := aget s.tel.ctxs Ctx.none k

def State.setCtx (s : State) (k : Nat) (c : Ctx) : State :=
  { s with tel := { s.tel with ctxs := aput s.tel.ctxs Ctx.none k c } }

def State.core (s : State) (t : Nat) : Core := aget s.tel.cores Core.reset (t % 64)

def State.setCore (s : State) (t : Nat) (c : Core) : State :=
  { s with tel := { s.tel with cores := aput s.tel.cores Core.reset (t % 64) c } }

/-- The context is dispatched: declared, enabled, not quarantined, on a usable cluster (R268). -/
def State.ctxOn (s : State) (k : Nat) : Bool :=
  let c := s.ctx k
  c.exists_ && c.en && !c.quar && s.clusterOn (k / 256 / 16)

/-- The group of a sink task: that of its channels. -/
def declGroup (d : CtxDecl) : Nat :=
  match d.outs with
  | c :: _ => c.chan / 40
  | [] => match d.ins with
    | c :: _ => c.chan / 40
    | [] => 0

/-- Keys of the contexts that satisfy `p`, in the order of the image (R217). -/
def State.ctxsWhere (s : State) (p : Nat → Ctx → Bool) : List Nat :=
  let l := s.tel.ctxs.filter (fun e => e.2.exists_ && p e.1 e.2)
  let ins := fun (acc : List (Nat × Nat)) (e : Nat × Ctx) => ainsert acc (e.2.decl.order * 16384 + e.1) e.1
  (l.foldl ins []).map (·.2)

/-! ### Port cells (R203, R204) -/

def telBase (t : Nat) : Nat := 0x10000000 + t % 64 * 0x100000

/-- The Clearinghouse address of the port page of folio `n` (R203). -/
def pageBase (t n : Nat) : Nat := telBase t + (if n % 2 = 0 then 0x78000 else 0x7C000)

/-- The byte offset in the page of sample `j` of a cell (R204). -/
def cellOff (c : CellDecl) (j : Nat) : Nat :=
  let cell := c.cell % 512
  if c.inter then cell / 8 * 256 + 4 * (8 * j + cell % 8) else cell * 32 + 4 * j

def State.cellWord (s : State) (t n : Nat) (c : CellDecl) (j : Nat) : Word := s.rdWord (pageBase t n + cellOff c j)

def writeCell (t n : Nat) (c : CellDecl) (f : Nat → Word) (s : State) : State :=
  forN 8 s (fun s j => s.wrWord (pageBase t n + cellOff c j) (f j))

/-! ### Delivery of outputs (R205, R207, R271) -/

/-- The other context of a replacement in its swap folio, and whether this one is the new one. -/
def State.swapMate (s : State) (k n : Nat) : Option (Nat × Bool) :=
  match s.tel.swaps.find? (fun x => x.begun && x.folio == n && (k == ctxKey x.t x.old || k == ctxKey x.t x.new)) with
  | some x => if k = ctxKey x.t x.old then some (ctxKey x.t x.new, false) else some (ctxKey x.t x.old, true)
  | none => none

/-- Sample `i` of a crossfade from `p` to `q` over one folio (R193, R704). -/
def crossfade (p q : Int) (i : Nat) : Int := roundHalfUp (8 * p + (q - p) * (i + 1)) 8

/-- A run of context `k` for folio `n` has been dispatched, and has not written sample `j` of the cell (R207). -/
def State.unwritten (s : State) (k n : Nat) (c : CellDecl) (j : Nat) : Bool :=
  let x := s.core (k / 256)
  if x.run.any (fun r => r.ctx == k % 256 && r.folio == n) then !x.wrote.contains (cellOff c j / 4)
  else (s.fol? n).any (fun f => f.open_.contains k)

/-- The sample in a cell of context `k`; an unwritten word (R207) and a quarantined context (R268) deliver 0. -/
def State.ctxSample (s : State) (k n : Nat) (c : CellDecl) (j : Nat) : Word :=
  if (s.ctx k).quar || s.unwritten k n c j then 0 else s.cellWord (k / 256) n c j

/-- The sample that context `k` delivers from a cell: its own, or the crossfade where both contexts of a replacement
declare the output (R271). -/
def State.outSample (s : State) (k n : Nat) (c : CellDecl) (j : Nat) : Word :=
  let own := s.ctxSample k n c j
  match s.swapMate k n with
  | some (m, isNew) =>
    match (s.ctx m).decl.outs.find? (fun d => d.chan == c.chan) with
    | some d =>
      let other := s.ctxSample m n d j
      if isNew then wdi (crossfade other.toInt own.toInt j) else wdi (crossfade own.toInt other.toInt j)
    | none => own
  | none => own

/-- The outputs of context `k` for folio `n`: a source task's into the Ledger source buffer, a sink task's to the
chain. -/
def deliver (k n : Nat) (s : State) : State :=
  let d := (s.ctx k).decl
  let put := fun (l : List (Nat × Word)) => d.outs.foldl (fun l c => setSmps l c.chan (fun j => s.outSample k n c j)) l
  s.updFol n (fun f => if d.isSrc then { f with rows := put f.rows } else { f with sink := put f.sink })

/-- Every output cell of the context written 0 (R218). -/
def zeroOutputs (k n : Nat) (s : State) : State :=
  (s.ctx k).decl.outs.foldl (fun s c => writeCell (k / 256) n c (fun _ => 0) s) s

/-! ### Bank 0 and the journal (R123 to R128) -/

def bank0Addr (t off : Nat) : Nat := telBase t + 0x40000 + off
def shadowAddr (t off : Nat) : Nat := telBase t + 0x80000 + off

def declOwns (d : CtxDecl) (off : Nat) : Bool := decide (d.base ≤ off) && decide (off < d.base + d.size)

/-- The context of Teller `t` whose region holds bank 0 offset `off`. -/
def State.ownerOf (s : State) (t off : Nat) : Option Nat :=
  (s.tel.ctxs.find? (fun e => decide (e.1 / 256 = t % 64) && e.2.exists_ && declOwns e.2.decl off)).map (·.1)

/-- A bank 0 byte as the Teller reads it (Table 2.6). -/
def State.rdBank0 (s : State) (t off : Nat) : Byte :=
  if (s.core t).dirty.contains (off / 8) then s.rdByte (shadowAddr t off) else s.rdByte (bank0Addr t off)

/-- A task's byte write into bank 0: into the shadow, its word dirty (R123); outside its context it is dropped with
JVIOL (R128): of a store that straddles the boundary the bytes inside are written. -/
def wrBank0 (k off : Nat) (b : Byte) (s : State) : State :=
  let t := k / 256
  if !declOwns (s.ctx k).decl off then s.evt Reg.PST_EVT 4
  else
    let w := off / 8
    let s := if (s.core t).dirty.contains w then s
      else (forN 8 s (fun s i => s.wrByte (shadowAddr t (8 * w + i)) (s.rdByte (bank0Addr t (8 * w + i))))).setCore t
        { s.core t with dirty := (s.core t).dirty ++ [w] }
    s.wrByte (shadowAddr t off) b

/-- Journal records that Teller `t` holds for folio `n`: deferred effects and held Clearinghouse writes (R127). -/
def State.jcount (s : State) (t n : Nat) : Nat :=
  (s.pst.journal.filter (fun r => r.t == t && r.folio == n)).length +
    (s.pst.bank0.filter (fun w => w.t == t && w.folio == n)).length

/-- A journal record of context `k` for folio `n`, dropped with JOVF past 2,048 of its Teller and folio (R127). -/
def journalAdd (k n : Nat) (a : JAct) (s : State) : State :=
  let t := k / 256
  if 2048 ≤ s.jcount t n then s.evt Reg.PST_EVT 3
  else s.setPst { s.pst with journal := s.pst.journal ++ [⟨t, k % 256, n, a⟩] }

/-- A deferred effect performed: bytes of banks 1 to 3, a signal, an event (R127). A deferred STF is a transaction of
master PST (R61, R257). -/
def performJ (r : JRec) (s : State) : State :=
  match r.act with
  | .bank off strobe bytes =>
    bytes.zipIdx.foldl (fun s e => if strobe.testBit e.2 then s.wrByte (telBase r.t + 0x40000 + off + e.2) e.1 else s) s
  | .stf a v => request ⟨.pst, 0, true, a, 4, 1, leBytes v.toNat 4, [], .none, targetOf a⟩ s
  | .sig n => s.raise Reg.RMT_TSIG (bitw (n % 16))
  | .evr n => s.raise Reg.TEL_SWEV (bitw (n % 8))

/-- The effects of one Teller performed in issue order, up to a deferred STF, which is issued and keeps its place until it
retires (R257); what is left. -/
def performList : List (JRec × Bool) → State → List (JRec × Bool) × State
  | [], s => ([], s)
  | (r, true) :: l, s => ((r, true) :: l, s)
  | (r, false) :: l, s =>
    match r.act with
    | .stf _ _ => if s.underReset .pst 0 then ((r, false) :: l, s) else ((r, true) :: l, performJ r s)
    | _ => performList l (performJ r s)

/-- The deferred effects of Teller `t` go as far as they can. -/
def pumpJournal (t : Nat) (s : State) : State :=
  let r := performList (s.pst.todo.filter (fun e => e.1.t == t)) s
  r.2.setPst { r.2.pst with todo := s.pst.todo.filter (fun e => e.1.t != t) ++ r.1 }

/-- A record issued is the STF of this address. -/
def JRec.isStf (r : JRec) (a : Nat) : Bool :=
  match r.act with
  | .stf b _ => b == a
  | _ => false

/-- Remove the first issued STF to address `a`; its Teller. -/
def takeStf (a : Nat) : List (JRec × Bool) → Option (Nat × List (JRec × Bool))
  | [] => none
  | e :: l => if e.2 && e.1.isStf a then some (e.1.t, l) else (takeStf a l).map (fun r => (r.1, e :: r.2))

/-- The oldest STF issued to address `a` has retired; an error response sets STFERR (R258). -/
def stfRetired (a : Nat) (err : Bool) (s : State) : State :=
  match takeStf a s.pst.todo with
  | none => s
  | some (t, rest) => pumpJournal t ((s.setPst { s.pst with todo := rest }).evtIf err Reg.PST_EVT 9)

def JRec.isOf (r : JRec) (k n : Nat) : Bool := r.t == k / 256 && r.ctx == k % 256 && r.folio == n

/-- Dirty marks of a context cleared and its records of the folio discarded (Table 2.6, on reversal). -/
def discard (k n : Nat) (s : State) : State :=
  let t := k / 256
  let d := (s.ctx k).decl
  let s := s.setCore t { s.core t with dirty := (s.core t).dirty.filter (fun w => !declOwns d (8 * w)) }
  s.setPst { s.pst with journal := s.pst.journal.filter (fun r => !r.isOf k n) }

/-- The words of a context's dirty list copied to bank 0; free values where the folio is undefined (R69). -/
def copyDirty (t : Nat) (undef : Bool) (l : List Nat) (s : State) : State :=
  l.foldl (fun s w =>
    if undef then
      ((s.wrWord (bank0Addr t (8 * w)) (Config.freeWord s.free)).wrWord (bank0Addr t (8 * w + 4))
        (Config.freeWord (s.free + 1))).useFree 2
    else forN 8 s (fun s i => s.wrByte (bank0Addr t (8 * w + i)) (s.rdByte (shadowAddr t (8 * w + i))))) s

/-- A record of an undefined folio: what it would store is a free value (R69). -/
def JAct.freed (a : JAct) (i : Nat) : JAct :=
  match a with
  | .bank off strobe bytes => .bank off strobe (bytes.zipIdx.map (fun e => BitVec.ofNat 8 (Config.freeWord (i + e.2)).toNat))
  | .stf b _ => .stf b (Config.freeWord i)
  | a => a

/-- The records of an undefined folio with free values. -/
def freedRecs (l : List JRec) (i : Nat) : List JRec :=
  l.zipIdx.map (fun e => { e.1 with act := e.1.act.freed (i + 8 * e.2) })

/-- A task becomes final: its dirty words are copied, then the Clearinghouse writes that waited (R126), then its records
are applied in issue order (R123, R127). -/
def commit (k n : Nat) (s : State) : State :=
  let t := k / 256
  let d := (s.ctx k).decl
  let undef := (s.fol? n).any (fun f => f.undef)
  let s := copyDirty t undef ((s.core t).dirty.filter (fun w => declOwns d (8 * w))) s
  let s := s.setCore t { s.core t with dirty := (s.core t).dirty.filter (fun w => !declOwns d (8 * w)) }
  let mine := s.pst.bank0.filter (fun w => w.t == t && declOwns d w.off)
  let s := mine.foldl (fun s w => s.wrBytes (bank0Addr t w.off) w.bytes) s
  let s := s.setPst { s.pst with bank0 := s.pst.bank0.filter (fun w => !(w.t == t && declOwns d w.off)) }
  let recs := s.pst.journal.filter (fun r => r.isOf k n)
  let s := s.setPst { s.pst with journal := s.pst.journal.filter (fun r => !r.isOf k n) }
  let (recs, s) := if undef then (freedRecs recs s.free, s.useFree (8 * recs.length)) else (recs, s)
  let s := pumpJournal t (s.setPst { s.pst with todo := s.pst.todo ++ recs.map (fun r => (r, false)) })
  s.updFol n (fun f => { f with prov := f.prov.filter (fun x => x != k) })

/-- The folio whose provisional task holds a Clearinghouse write to a bank 0 byte (R126, R65). -/
def State.holder (s : State) (t off : Nat) : Option (Nat × Nat) :=
  match s.ownerOf t off with
  | some k => (s.pst.fols.find? (fun f => f.prov.contains k)).map (fun f => (k, f.n))
  | none => none

/-- Bytes held for one context: one journal record, counted to the quota of its folio and dropped with JOVF beyond it
(R127). -/
def holdBank0 (t : Nat) (e : Nat × Nat) (l : List (Nat × Byte)) (s : State) : State :=
  match l with
  | [] => s
  | (off, _) :: _ =>
    if 2048 ≤ s.jcount t e.2 then s.evt Reg.PST_EVT 3
    else s.setPst { s.pst with bank0 := s.pst.bank0 ++ [⟨t, off, l.map (·.2), e.2⟩] }

/-- A Clearinghouse write of bytes into bank 0 (R126, R65): those of a context with a provisional task are held, the
others are written at once. -/
def clhBank0 (t off : Nat) (bytes : List Byte) (s : State) : State :=
  let t := t % 64
  let l := bytes.zipIdx.map (fun e => (off + e.2, e.1))
  let holders := (l.filterMap (fun e => s.holder t e.1)).foldl (fun (acc : List (Nat × Nat)) e =>
    if acc.contains e then acc else acc ++ [e]) []
  let s' := (l.filter (fun e => (s.holder t e.1).isNone)).foldl (fun s e => s.wrByte (bank0Addr t e.1) e.2) s
  holders.foldl (fun u h => holdBank0 t h (l.filter (fun e => s.holder t e.1 == some h)) u) s'

/-! ### Taps (R143, R144) -/

/-- Tap `t` takes 8 samples of folio `n` into its ring. -/
def capture (t n : Nat) (f : Nat → Word) (s : State) : State :=
  let i := s.rf (Reg.PST_TAPST t) 8 0
  let s := forN 8 s (fun s j => s.setReg (Reg.PST_TAPBUF (512 * t + (i + j) % 512)) (f j))
  s.setReg (Reg.PST_TAPST t) (wd ((i + 8) % 512 + n % 65536 * 65536))

/-- The active taps whose point and channel match take the samples of folio `n`; free values where it is undefined
(R69). -/
def tapPoint (point n : Nat) (p : Nat → Bool) (f : Nat → Nat → Word) (s : State) : State :=
  let undef := (s.fol? n).any (fun f => f.undef)
  forN 4 s (fun s t =>
    let w := s.reg (Reg.PST_TAP t)
    if s.rb Reg.PST_CTRL 3 && bit w 31 && fld w 26 24 == point && p (fld w 11 0) then
      (if undef then (capture t n (fun j => Config.freeWord (s.free + j)) s).useFree 8 else capture t n (f (fld w 11 0)) s)
    else s)

/-! ### Entries (Table 2.5, R111) -/

/-- Every mix, remix, sink task and rerun of group `g` is complete. -/
def State.groupDone (s : State) (f : Fol) (g : Nat) : Bool :=
  let mine := fun k => !(s.ctx k).decl.isSrc && declGroup (s.ctx k).decl == g
  decide (g < f.mixed) && !f.remix.any (fun r => r.g == g) && !f.open_.any mine &&
    !f.reruns.any (fun e => mine e.1)

/-- The sink tasks of group `g` that are not final. -/
def State.sinkTasks (s : State) (f : Fol) (g : Nat) : List Nat :=
  f.prov.filter (fun k => !(s.ctx k).decl.isSrc && declGroup (s.ctx k).decl == g)

/-- Group `g` of folio `n` becomes FINAL: the mix-out rail reads the outputs of its sink tasks (Table 4.2), they commit
(R124), and its taps capture (R144). -/
def finalize (n g : Nat) (s : State) : State :=
  match s.fol? n with
  | none => s
  | some f =>
    let s := s.setFol (f.setEntry g .final)
    let tasks := s.sinkTasks f g
    let s := tasks.foldl (fun s k => deliver k n s) s
    let s := tasks.foldl (fun s k => commit k n s) s
    let f := (s.fol? n).getD f
    let s := tapPoint 2 n (fun c => c / 40 == g) (fun c j => smp f.mix c j) s
    tapPoint 3 n (fun c => c / 40 == g) (fun c j => smp f.sink c j) s

/-- Entry `g` of folio `n` moves as far as Table 2.5 lets it. -/
def settleGroup (n g : Nat) (s : State) : State :=
  match s.fol? n with
  | none => s
  | some f =>
    let done := s.groupDone f g
    let e := match f.entry g with
      | .reversed => if done then (if f.posted then .posted else .provisional) else .reversed
      | .provisional => if f.posted then .posted else .provisional
      | e => e
    let s := s.setFol (f.setEntry g e)
    if e = .posted ∧ done then finalize n g s else s

/-- Every entry of folio `n` moves as far as Table 2.5 lets it. -/
def settle (n : Nat) (s : State) : State := forN 64 s (fun s g => settleGroup n g s)

/-- Entries not FREE (PST_STATUS.INFLIGHT). -/
def State.inflight (s : State) : Nat :=
  (s.pst.fols.map (fun f => (f.entries.filter (fun e => decide (e.2 ≠ .free))).length)).foldl (· + ·) 0

end Sys2Proof.Machine
end

