-- ==== Sys2Proof/Machine/Operands.lean ====
section
/-! DEFINITION. Operand forms of the Teller operations: data registers, accumulators, predicates, register codes (R227),
control registers, immediates, predicates of execution (R224, R225), effective addresses (R235 to R239), the data
address space (R202) and its cycle costs (R234). -/

namespace Sys2Proof.Machine

/-! ### Registers -/

def Core.dw (c : Core) (n : Nat) : Word := aget c.d 0 (n % 32)
def Core.dv (c : Core) (n : Nat) : Int := (c.dw n).toInt
def Core.aw (c : Core) (n : Nat) : BitVec 80 := aget c.acc 0 (n % 8)
def Core.av (c : Core) (n : Nat) : Int := (c.aw n).toInt
def Core.pw (c : Core) (n : Nat) : BitVec 8 := aget c.p 0xFF (n % 4)
def Core.iw (c : Core) (n : Nat) : Nat := (aget c.i 0 (n % 8)).toNat
def Core.bw (c : Core) (n : Nat) : Nat := (aget c.b 0 (n % 8)).toNat
def Core.lw (c : Core) (n : Nat) : Nat := (aget c.l 0 (n % 8)).toNat
def Core.mv (c : Core) (n : Nat) : Int := (aget c.m 0 (n % 8)).toInt

def Core.setD (c : Core) (n : Nat) (v : Word) : Core := { c with d := aput c.d 0 (n % 32) v }
def Core.setA (c : Core) (n : Nat) (v : BitVec 80) : Core := { c with acc := aput c.acc 0 (n % 8) v }
def Core.setP (c : Core) (n : Nat) (v : BitVec 8) : Core := { c with p := aput c.p 0xFF (n % 4) v }
def Core.setI (c : Core) (n : Nat) (v : Word) : Core := { c with i := aput c.i 0 (n % 8) v }
def Core.setB (c : Core) (n : Nat) (v : Word) : Core := { c with b := aput c.b 0 (n % 8) v }
def Core.setL (c : Core) (n : Nat) (v : Word) : Core := { c with l := aput c.l 0 (n % 8) v }
def Core.setM (c : Core) (n : Nat) (v : Word) : Core := { c with m := aput c.m 0 (n % 8) v }

/-- The register of a 6-bit code (R227). -/
def Core.code (c : Core) (n : Nat) : Word :=
  let n := n % 64
  if n < 32 then c.dw n
  else if n < 40 then aget c.i 0 (n - 32)
  else if n < 48 then aget c.b 0 (n - 40)
  else if n < 56 then aget c.l 0 (n - 48)
  else aget c.m 0 (n - 56)

def Core.setCode (c : Core) (n : Nat) (v : Word) : Core :=
  let n := n % 64
  if n < 32 then c.setD n v
  else if n < 40 then c.setI (n - 32) v
  else if n < 48 then c.setB (n - 40) v
  else if n < 56 then c.setL (n - 48) v
  else c.setM (n - 56) v

/-- The control register of a CTL code 0x0 to 0x7 (R227), as read. -/
def Core.ctl (c : Core) (n : Nat) : Word :=
  match n with
  | 0 => c.sr
  | 1 => c.cr
  | 2 => wd c.lc0.toNat
  | 3 => wd c.lc1.toNat
  | n => wd (c.pw (n - 4)).toNat

/-- A control register written by MOVC (R259); reserved bits of SR stay 0. -/
def Core.setCtl (c : Core) (n : Nat) (v : Word) : Core :=
  match n with
  | 0 => { c with sr := v &&& 0xF }
  | 1 => { c with cr := v }
  | 2 => { c with lc0 := BitVec.ofNat 16 v.toNat }
  | 3 => { c with lc1 := BitVec.ofNat 16 v.toNat }
  | n => c.setP (n - 4) (BitVec.ofNat 8 v.toNat)

def Core.lc (c : Core) (k : Nat) : Nat := if k = 0 then c.lc0.toNat else c.lc1.toNat
def Core.setLc (c : Core) (k n : Nat) : Core :=
  if k = 0 then { c with lc0 := BitVec.ofNat 16 n } else { c with lc1 := BitVec.ofNat 16 n }

/-- The registers as the move slot reads them: those of the start of the bundle (R230). -/
def Core.seen (c : Core) : Core :=
  match c.before with
  | some b => { c with d := b.d, acc := b.acc, p := b.p, sr := b.sr }
  | none => c

/-! ### Operand fields -/

/-- A signed immediate of `n` bits. -/
def immS (n : Nat) (v : Int) : Int := signed n (encSigned n v)

/-- A vector operand field names D0, D8, D16 or D24 (R228). -/
def isVec (n : Nat) : Bool := n % 8 == 0

/-- A predicate field has its upper bits 0 (R228). -/
def isPred (n : Nat) : Bool := decide (n < 4)

/-- The governing mask (R224). -/
def Pred.mask (p : Pred) (c : Core) : Nat :=
  if p.pe then (if p.pn then 255 - (c.pw p.ps).toNat else (c.pw p.ps).toNat) else 255

/-! ### Effective addresses (R235 to R241) -/

/-- Ij modified by `m` bytes (R236). -/
def Core.modify (c : Core) (j : Nat) (m : Int) : Word :=
  let i : Int := c.iw j
  let b : Int := c.bw j
  let l : Int := c.lw j
  if l = 0 then wdi (i + m) else wdi (b + (i - b + m) % l)

/-- The address of byte offset `o` of an access through Ij (R237). -/
def Core.through (c : Core) (j o : Nat) : Nat :=
  let i : Int := c.iw j
  let b : Int := c.bw j
  let l : Int := c.lw j
  if l = 0 then (wdi (i + o)).toNat else (wdi (b + (i - b + o) % l)).toNat

/-- The `n` word addresses of an access by Table 4.8: a single-word access is at its effective address (R235), the words
of a multi-word one (`multi`) by R237. -/
def Core.wordAddrs (c : Core) (multi : Bool) (j mode : Nat) (imm : Int) (n : Nat) : List Nat :=
  (List.range n).map (fun w =>
    if mode % 4 = 3 then (wdi (c.bw j + imm + (4 * w : Nat))).toNat
    else if multi then c.through j (4 * w) else c.iw j)

/-- The stride that CR.SSELj names (R212). -/
def Core.stride (c : Core) (j : Nat) : Int := c.mv (fld c.cr (8 + 3 * (j % 8) + 2) (8 + 3 * (j % 8)))

/-- Ij after an access (Table 4.8). -/
def Core.after (c : Core) (j mode : Nat) (imm : Int) : Core :=
  match mode % 4 with
  | 1 => c.setI j (c.modify j imm)
  | 2 => c.setI j (c.modify j (c.stride j))
  | _ => c

/-- R238: Bj and Lj aligned to the access, Lj at most 0x4_0000. -/
def Core.ringBad (c : Core) (j align : Nat) : Bool :=
  decide (c.bw j % align ≠ 0) || decide (c.lw j % align ≠ 0) || decide (0x40000 < c.lw j)

/-- A data address outside Table 4.1. -/
def addrOut (a : Nat) : Bool := decide (0x40000 ≤ a) || (decide (0x38000 ≤ a) && decide (a < 0x3C000))

/-- The first fault of an access: cause and address (R238, R239). -/
def accessFault (c : Core) (j align : Nat) (addrs : List Nat) : Option (Nat × Nat) :=
  match addrs with
  | [] => none
  | a :: _ =>
    if c.ringBad j align then some (2, a)
    else match addrs.find? (fun x => x % align != 0) with
      | some x => some (2, x)
      | none => match addrs.find? addrOut with
        | some x => some (3, x)
        | none => none

/-! ### The data address space (Table 4.1) -/

/-- The Clearinghouse address of a Teller data address outside bank 0, for a task of folio `n` (R203). -/
def dataAddr (t n a : Nat) : Nat := if 0x3C000 ≤ a then pageBase t n + (a - 0x3C000) else telBase t + 0x40000 + a

/-- One byte as a task reads it (Table 2.6). -/
def State.rdData (s : State) (t n a : Nat) : Byte :=
  if a < 0x10000 then s.rdBank0 t a else s.rdByte (dataAddr t n a)

/-- `m` bytes as a task reads them, little-endian. -/
def State.rdDataNat (s : State) (t n a : Nat) : Nat → Nat
  | 0 => 0
  | m + 1 => (s.rdData t n a).toNat + 256 * s.rdDataNat t n (a + 1) m

/-- The journal records of stores into banks 1 to 3: one per aligned 8-byte word, in the order first touched: offset,
strobe and bytes by lane (R127). -/
def joinStores : List (Nat × Byte) → List (Nat × (Nat × List Byte)) → List (Nat × (Nat × List Byte))
  | [], acc => acc
  | (a, b) :: t, acc =>
    let w := a / 8 * 8
    let put := fun (e : Nat × (Nat × List Byte)) =>
      if e.1 = w then (w, (addMask e.2.1 (a % 8), e.2.2.set (a % 8) b)) else e
    let acc := if acc.any (fun e => e.1 == w) then acc else acc ++ [(w, (0, List.replicate 8 0))]
    joinStores t (acc.map put)

/-- The stores of one operation by the task of context `k` in folio `n`: bank 0 through the shadow, the port view at
once with its words marked written (R206, R207), banks 1 to 3 as journal records. -/
def storeData (k n : Nat) (l : List (Nat × Byte)) (s : State) : State :=
  let t := k / 256
  let one := fun (s : State) (e : Nat × Byte) =>
    if e.1 < 0x10000 then wrBank0 k e.1 e.2 s
    else if 0x3C000 ≤ e.1 then
      (s.wrByte (dataAddr t n e.1) e.2).setCore t { s.core t with wrote := addTo (s.core t).wrote ((e.1 - 0x3C000) / 4) }
    else s
  let s := l.foldl one s
  let far := l.filter (fun e => decide (0x10000 ≤ e.1) && decide (e.1 < 0x3C000))
  (joinStores far []).foldl (fun s e => journalAdd k n (.bank e.1 e.2.1 e.2.2) s) s

/-- The bytes of a word stored at `a`. -/
def wordBytes (a : Nat) (w : Word) : List (Nat × Byte) := (leBytes w.toNat 4).zipIdx.map (fun e => (a + e.2, e.1))

/-! ### Cycle costs (R234) -/

/-- The bank half and the row of a data address: 2 × bank + half, and the row. -/
def halfRow (n a : Nat) : Nat × Nat :=
  let p := if 0x3C000 ≤ a then (if n % 2 = 0 then 0x38000 else 0x3C000) + (a - 0x3C000) else a
  let r := p % 0x10000 / 32
  (2 * (p / 0x10000) + r % 2, r)

/-- Extra cycles of the accesses of one bundle, each a list of word addresses (R234). -/
def extraCycles (n : Nat) (accs : List (List Nat)) : Nat :=
  let hr := accs.flatMap (fun l => l.map (halfRow n))
  let rows := fun h => (addAll [] ((hr.filter (fun e => e.1 == h)).map (·.2))).length
  let halves := (List.range 8).foldl (fun x h => x + (rows h - 1)) 0
  let two := (accs.filter (fun l => match l with
    | a :: t => t.any (fun b => (halfRow n b).1 / 2 != (halfRow n a).1 / 2)
    | [] => false)).length
  halves + two

end Sys2Proof.Machine
end

