-- ==== Sys2Proof/Machine/TellerDecode.lean ====
section
/-! DEFINITION. The 64-bit bundle of a Teller (R222, R223, R226, R229; Tables 4.5, 4.6, 4.9, 4.10): the commands that it
spells. A slot is refused where its opcode is not listed. -/

namespace Sys2Proof.Machine

/-- Bits `hi` to `lo` of a number. -/
def bitsOf (w hi lo : Nat) : Nat := w / 2 ^ lo % 2 ^ (hi + 1 - lo)

/-- A signed field of `n` bits whose lowest bit is `lo`. -/
def sbitsOf (w n lo : Nat) : Int := signed n (w / 2 ^ lo % 2 ^ n)

/-! ### Fields (Table 4.6, R223, R224) -/

/-- A predicate field. -/
def predOf (n : Nat) : Pred := ⟨n.testBit 3, n.testBit 2, n % 4⟩

def cr3Of (w : Nat) : FmtCR3 := ⟨bitsOf w 19 15, bitsOf w 14 10, bitsOf w 9 5, bitsOf w 4 0⟩
def ciOf (w : Nat) : FmtCI := ⟨bitsOf w 19 15, bitsOf w 14 10, sbitsOf w 10 0⟩
def cmOf (w : Nat) : FmtCM := ⟨bitsOf w 19 17, bitsOf w 16 12, bitsOf w 11 7, bitsOf w 6 0⟩
def cnOf (w : Nat) : FmtCN := ⟨bitsOf w 19 15, bitsOf w 14 12, bitsOf w 11 6, bitsOf w 5 0⟩
def csOf (w : Nat) : FmtCS := ⟨bitsOf w 19 15, bitsOf w 14 10, bitsOf w 9 1, bitsOf w 0 0⟩
def maOf (w : Nat) : FmtMA := ⟨bitsOf w 21 17, bitsOf w 16 14, bitsOf w 13 12, sbitsOf w 12 0⟩
def mrOf (w : Nat) : FmtMR := ⟨bitsOf w 21 16, bitsOf w 15 13, bitsOf w 12 10, bitsOf w 9 8, sbitsOf w 8 0⟩
def lfOf (w : Nat) : FmtLF := ⟨bitsOf w 21 17, bitsOf w 16 12, bitsOf w 11 0⟩
def mvOf (w : Nat) : FmtMV := ⟨bitsOf w 21 16, bitsOf w 15 10, bitsOf w 9 0⟩
def mcOf (w : Nat) : FmtMC := ⟨bitsOf w 21 21, bitsOf w 20 17, bitsOf w 16 12, bitsOf w 11 0⟩
def ld2iOf (w : Nat) : FmtLD2I :=
  ⟨bitsOf w 30 29, bitsOf w 28 26, sbitsOf w 10 16, bitsOf w 15 14, bitsOf w 13 11, sbitsOf w 10 1, bitsOf w 0 0⟩
def loopOf (w : Nat) : FmtLoop := ⟨bitsOf w 21 21, bitsOf w 20 20, bitsOf w 19 12, bitsOf w 11 9, bitsOf w 8 0⟩

/-! ### Slots -/

/-- What a slot spells: a NOP, an operation, or an opcode that no table lists (R229). -/
inductive Slot where
  | nop
  | op (i : Instr)
  | unlisted
  deriving DecidableEq, Repr

/-- The arithmetic and logic operations of Table 4.9, opcodes 0x01 to 0x1E. -/
def aluSlot (t : Nat) (p : Pred) (w opc : Nat) : Slot :=
  let r := cr3Of w
  match opc with
  | 0x01 => .op (.add t p r)
  | 0x02 => .op (.adds t p r)
  | 0x03 => .op (.sub t p r)
  | 0x04 => .op (.subs t p r)
  | 0x05 => .op (.neg t p r)
  | 0x06 => .op (.negs t p r)
  | 0x07 => .op (.abs t p r)
  | 0x08 => .op (.abss t p r)
  | 0x09 => .op (.min t p r)
  | 0x0A => .op (.max t p r)
  | 0x0B => .op (.and t p r)
  | 0x0C => .op (.or t p r)
  | 0x0D => .op (.xor t p r)
  | 0x0E => .op (.shl t p r)
  | 0x0F => .op (.shls t p r)
  | 0x10 => .op (.asr t p r)
  | 0x11 => .op (.asrr t p r)
  | 0x12 => .op (.lsr t p r)
  | 0x13 => .op (.addi t p (ciOf w))
  | 0x14 => .op (.addis t p (ciOf w))
  | 0x18 => .op (.cmpeq t p r)
  | 0x19 => .op (.cmplt t p r)
  | 0x1A => .op (.cmple t p r)
  | 0x1B => .op (.vcmpeq t p r)
  | 0x1C => .op (.vcmplt t p r)
  | 0x1D => .op (.vcmple t p r)
  | 0x1E => .op (.plog t p r)
  | _ => .unlisted

/-- The accumulator and search operations of Table 4.9, opcodes 0x20 to 0x3B. -/
def accSlot (t : Nat) (p : Pred) (w opc : Nat) : Slot :=
  match opc with
  | 0x20 => .op (.mul t p (cmOf w))
  | 0x21 => .op (.mac t p (cmOf w))
  | 0x22 => .op (.macs t p (cmOf w))
  | 0x23 => .op (.msu t p (cmOf w))
  | 0x24 => .op (.msus t p (cmOf w))
  | 0x25 => .op (.dot8z t p (cmOf w))
  | 0x26 => .op (.dot8 t p (cmOf w))
  | 0x27 => .op (.dot8s t p (cmOf w))
  | 0x28 => .op (.vmac8z t p (cmOf w))
  | 0x29 => .op (.vmac8 t p (cmOf w))
  | 0x2A => .op (.vmac8s t p (cmOf w))
  | 0x2B => .op (.vmsu8 t p (cmOf w))
  | 0x2C => .op (.vmsu8s t p (cmOf w))
  | 0x30 => .op (.rnd t p (cnOf w))
  | 0x31 => .op (.rndw t p (cnOf w))
  | 0x32 => .op (.trn t p (cnOf w))
  | 0x33 => .op (.amov t p (cnOf w))
  | 0x34 => .op (.aadd t p (cnOf w))
  | 0x35 => .op (.aadds t p (cnOf w))
  | 0x36 => .op (.ash t p (cnOf w))
  | 0x37 => .op (.aclr t p (cnOf w))
  | 0x38 => .op (.sinit t p (csOf w))
  | 0x39 => .op (.smax t p (csOf w))
  | 0x3A => .op (.smin t p (csOf w))
  | 0x3B => .op (.sred t p (csOf w))
  | _ => .unlisted

/-- The compute slot, 30 bits (R223). -/
def computeSlot (t w : Nat) : Slot :=
  let p := predOf (bitsOf w 29 26)
  let opc := bitsOf w 25 20
  if opc = 0 then .nop else if opc < 0x20 then aluSlot t p w opc else accSlot t p w opc

/-- The memory operations of Table 4.10. -/
def memSlot (t : Nat) (p : Pred) (w opc : Nat) : Slot :=
  match opc with
  | 0x00 => .nop
  | 0x01 => .op (.ldw t p (maOf w))
  | 0x02 => .op (.ldh t p (maOf w))
  | 0x03 => .op (.ldv t p (maOf w))
  | 0x04 => .op (.stw t p (maOf w))
  | 0x05 => .op (.sth t p (maOf w))
  | 0x06 => .op (.stv t p (maOf w))
  | 0x07 => .op (.str t p (mrOf w))
  | 0x08 => .op (.strv t p (mrOf w))
  | 0x09 => .op (.ldf t p (lfOf w))
  | 0x0A => .op (.stf t p (lfOf w))
  | _ => .unlisted

/-- The register operations. -/
def registerSlot (t : Nat) (p : Pred) (w opc : Nat) : Slot :=
  match opc with
  | 0x00 => .op (.movr t p (mvOf w))
  | 0x01 => .op (.movc t p (mcOf w))
  | 0x02 => .op (.modi t p (bitsOf w 21 19) (sbitsOf w 19 0))
  | _ => .unlisted

/-- The control operations. -/
def controlSlot (t : Nat) (p : Pred) (w opc : Nat) : Slot :=
  match opc with
  | 0x00 => .op (.br t p (sbitsOf w 13 0))
  | 0x01 => .op (.call t p (sbitsOf w 13 0))
  | 0x02 => .op (.ret t p)
  | 0x03 => .op (.loop t p (loopOf w))
  | 0x04 => .op (.endRun t p)
  | 0x05 => .op (.sig t p (bitsOf w 3 0))
  | 0x06 => .op (.evr t p (bitsOf w 2 0))
  | _ => .unlisted

/-- The move slot, 33 bits (R223). -/
def moveSlot (t w : Nat) : Slot :=
  let p := predOf (bitsOf w 30 27)
  let opc := bitsOf w 26 22
  match bitsOf w 32 31 with
  | 0 => memSlot t p w opc
  | 1 => registerSlot t p w opc
  | 2 => controlSlot t p w opc
  | _ => .op (.ld2i t (ld2iOf w))

/-- A long bundle (Table 4.5): LDI. -/
def longSlot (t w : Nat) : Slot :=
  if bitsOf w 62 58 = 0 then .op (.ldi t (bitsOf w 57 52) (wd (bitsOf w 31 0)) (bitsOf w 51 32)) else .unlisted

/-- What the word `w` of a NOP command spells: a compute slot; or a move slot, where bit 63 marks a long bundle. -/
def slotOf (t : Nat) (move : Bool) (w : Nat) : Slot :=
  if !move then computeSlot t w else if w.testBit 63 then longSlot t w else moveSlot t w

/-! ### Bundles -/

/-- The command of a slot: its operation, or the NOP command with the slot's word, which faults where the opcode is
unlisted. -/
def slotCommand (t : Nat) (move : Bool) (w : Nat) : Instr :=
  match slotOf t move w with
  | .op i => i
  | _ => .nop t move w

/-- The commands that a bundle spells for Teller `t`, in the order in which the model takes them. A slot whose opcode is
unlisted faults the bundle at issue (R782): the other slot executes nothing. -/
def bundleCommands (t w : Nat) : List Instr :=
  if w.testBit 63 then [slotCommand t true w]
  else
    let c := bitsOf w 62 33
    let m := bitsOf w 32 0
    if computeSlot t c = .unlisted then [.nop t false c]
    else if moveSlot t m = .unlisted then [.nop t true m]
    else [slotCommand t false c, slotCommand t true m]

end Sys2Proof.Machine
end

