-- ==== Sys2Proof/Machine/TellerCore.lean ====
section
/-! DEFINITION. The bundle of a Teller (R222, R230 to R234), its program counter and loops (R262 to R266), faults and
the end of a run (R215, R218, R267, R268). A compute command executes the compute slot of the bundle in progress; a
move command executes its move slot and ends it. -/

namespace Sys2Proof.Machine

/-! ### Program counter and loops -/

/-- After the bundle at `pc`, no branch taken: the loops ending there, inner first (R262 to R264); an inner loop that does
not end there stays active. -/
def Core.edge (c : Core) : List TLoop → Core
  | [] => { c with pc := (c.pc + 1) % 8192, loops := [] }
  | l :: rest =>
    if c.pc = l.end_ ∧ !l.zero then
      if c.lc l.k = 0 then c.edge rest
      else { c.setLc l.k (c.lc l.k - 1) with pc := l.start, loops := l :: rest }
    else
      let d := c.edge rest
      { d with loops := l :: d.loops }

/-- The loops around the outermost loop of count 0 whose body begins at `pc`, and that body's end. -/
def zeroLoop (pc : Nat) : List TLoop → Option (Nat × List TLoop)
  | [] => none
  | l :: rest => (zeroLoop pc rest).orElse (fun _ => if l.zero && l.start == pc then some (l.end_, rest) else none)

/-- The next bundle; the body of a loop of count 0 is skipped after its SKIP bundles, with every loop in it (R263). -/
def Core.advance (c : Core) : Core :=
  let c := c.edge c.loops
  match zeroLoop c.pc c.loops with
  | some (e, rest) => { c with pc := e }.edge rest
  | none => c

def TLoop.holds (l : TLoop) (pc : Nat) : Bool := decide (l.start ≤ pc) && decide (pc ≤ l.end_)

/-- A taken branch to `a` ends every active loop whose body it leaves (R265). -/
def Core.jump (c : Core) (a : Nat) : Core :=
  { c with pc := a % 8192, loops := c.loops.filter (fun l => !(l.holds c.pc && !l.holds (a % 8192))) }

/-- The end of a bundle: the loads of the bundle before become visible (R231, R232), its own loads wait, the cycles
count, the program counter moves. -/
def Core.endBundle (c : Core) (loads : List (Nat × Word)) (extra : Nat) (tgt : Option Nat) : Core :=
  let c := c.loads.foldl (fun c e => c.setD e.1 e.2) c
  let c := { c with loads := loads, before := none, cyc := c.cyc + 1 + extra }
  match tgt with
  | some a => c.jump a
  | none => c.advance

/-! ### The end of a run -/

/-- The peaks of TEL_LOAD and PST_REVMAX.MAXTEL. -/
def loadPeaks (t n : Nat) (s : State) : State :=
  match s.fol? n with
  | none => s
  | some f =>
    let fc := aget f.firstCyc 0 t
    let rc := aget f.rerunCyc 0 t
    let s := if s.rf (Reg.TEL_LOAD t) 16 0 < fc then s.latchFld (Reg.TEL_LOAD t) 16 0 fc else s
    let s := if s.rf (Reg.TEL_LOAD t) 29 17 < rc then s.latchFld (Reg.TEL_LOAD t) 29 17 rc else s
    if s.rf Reg.PST_REVMAX 29 17 < rc then s.latchFld Reg.PST_REVMAX 29 17 rc else s

/-- Cycles of the run so far, an LDF stall included (R234, R257). -/
def State.runCyc (s : State) (t : Nat) : Nat :=
  let c := s.core t
  match c.stall with
  | some (_, _, t0) => c.cyc + (s.clock - t0)
  | none => c.cyc

/-- Remove the earliest entry of task `k` among reruns placed. -/
def eraseRerun (k : Nat) : List (Nat × Int) → List (Nat × Int)
  | [] => []
  | e :: l => if e.1 = k then l else e :: eraseRerun k l

/-- A source rerun is still to complete in the folio. -/
def State.srcRerun (s : State) (f : Fol) : Bool := f.reruns.any (fun e => (s.ctx e.1).decl.isSrc)

/-- Tap point 1 of folio `n`: the rows the Ledger posts, once M(n) has brought them and every source rerun is complete
(R143). -/
def tapRows (n : Nat) (s : State) : State :=
  match s.fol? n with
  | some f => if f.posted && f.slot && !s.srcRerun f then tapPoint 1 n (fun _ => true) (fun c j => smp f.rows c j) s else s
  | none => s

/-- The end of task `k` in folio `n`, after `cyc` cycles on Teller `t`: a first run leaves the open tasks, a rerun the
placed ones. The mix-in rail read the outputs of a first run at M(n) (Table 4.2): a run stopped later is delivered as 0
(R218); a rerun's are delivered at its end (R120). A task of a posted folio commits (R124), and entries move (R111). -/
def endTask (t k n : Nat) (rerun stopped : Bool) (cyc : Nat) (s : State) : State :=
  let src := (s.ctx k).decl.isSrc
  let s := s.updFol n (fun f =>
    if rerun then { f with
      reruns := eraseRerun k f.reruns, redisp := eraseRerun k f.redisp, rerunCyc := aupd f.rerunCyc 0 t (fun x => x + 16 + cyc) }
    else { f with open_ := f.open_.filter (fun x => x != k), firstCyc := aupd f.firstCyc 0 t (fun x => x + cyc) })
  let s := loadPeaks t n s
  match s.fol? n with
  | none => s
  | some f =>
    let s := if src && f.slot && (rerun || stopped) then deliver k n s else s
    let s := if src && f.posted && !f.rerunning k && !f.open_.contains k then commit k n s else s
    settle n (if src && rerun then tapRows n s else s)

/-- Responses that are due to the LDFs of Teller `t` (R256). -/
def State.ldfDue (s : State) (t : Nat) : Nat :=
  let mine := fun (x : Txn) => x.m == tellerMaster t && x.id == t % 16
  (s.clh.waiting.filter mine).length + (s.clh.inflight.filter (fun d => mine d.txn && !d.discard)).length

/-- The LDF of a run that ends in its stall is given up: while it waits at its port it is not issued (R606); else its
response is to be discarded (R220, R257). -/
def dropLdf (t : Nat) (s : State) : State :=
  let c := s.core t
  let s := s.setClh { s.clh with parked := s.clh.parked.filter (fun x => !(x.m == tellerMaster t && x.id == t % 16)) }
  s.setCore t { c with stall := none, stale := Nat.min (c.stale + b2n c.stall.isSome) (s.ldfDue t) }

/-- A run leaves its Teller. -/
def finishRun (t : Nat) (stopped : Bool) (s : State) : State :=
  let t := t % 64
  match (s.core t).run with
  | none => s
  | some r =>
    let cyc := s.runCyc t
    let s := dropLdf t s
    let s := s.setCore t { s.core t with run := none, before := none, loads := [], loops := [], stack := [] }
    endTask t (ctxKey t r.ctx) r.folio r.rerun stopped cyc s

/-- A run stopped (R218): outputs 0, bank 0 changes and deferred effects discarded. -/
def stopRun (t : Nat) (s : State) : State :=
  match (s.core t).run with
  | none => s
  | some r => finishRun t true (discard (ctxKey t r.ctx) r.folio (zeroOutputs (ctxKey t r.ctx) r.folio s))

/-- A faulting folio of a context counts once; in QLIM consecutive ones, or after CAUSE 0x7 or 0x8, it is quarantined
(R268, R269). -/
def countFault (k : Nat) (now : Bool) (s : State) : State :=
  let c := s.ctx k
  let c := if c.faulted then c else { c with faulted := true, fcons := Nat.min 15 (c.fcons + 1) }
  let q := s.rf Reg.TEL_CTRL 7 4
  if (q ≠ 0 ∧ q ≤ c.fcons) ∨ now then (s.setCtx k { c with quar := true }).evt Reg.TEL_EVT 4 else s.setCtx k c

/-- What a quarantined context still has waiting is not run: its outputs are 0 (R268). -/
def endWaiting (k : Nat) (s : State) : State :=
  if (s.core (k / 256)).run.any (fun r => r.ctx == k % 256) then s
  else s.pst.fols.foldl (fun s f =>
    let s := if f.open_.contains k then endTask (k / 256) k f.n false true 0 (zeroOutputs k f.n s) else s
    forN (f.reruns.filter (fun e => e.1 == k)).length s (fun s _ =>
      endTask (k / 256) k f.n true true 0 (discard k f.n (zeroOutputs k f.n s)))) s

/-- A Teller fault (R267): recorded, and the run stopped; a quarantined context has no further run (R268). -/
def tellerFault (t cause addr : Nat) (s : State) : State :=
  let t := t % 64
  match (s.core t).run with
  | none => s
  | some r =>
    let s := s.evt Reg.TEL_EVT 0
    let s := s.setReg Reg.TEL_FLT0 (wd (t * 2 ^ 24 + r.ctx % 256 * 65536 + cause))
    let s := s.setReg Reg.TEL_FLT1 (wd (s.core t).pc)
    let s := s.setReg Reg.TEL_FLT2 (wd addr)
    let ecc := decide (cause = 7 ∨ cause = 8)
    let s := s.evtIf ecc Reg.TEL_EVT 9
    let s := stopRun t (countFault (ctxKey t r.ctx) ecc s)
    if (s.ctx (ctxKey t r.ctx)).quar then endWaiting (ctxKey t r.ctx) s else s

/-! ### The compute slot -/

/-- What a compute operation writes, and the flags it raises. -/
structure Writes where
  d : List (Nat × Word)
  acc : List (Nat × BitVec 80)
  p : List (Nat × BitVec 8)
  fl : Nat

def Writes.none : Writes := ⟨[], [], [], 0⟩

def Writes.apply (w : Writes) (c : Core) : Core :=
  let c := w.d.foldl (fun c e => c.setD e.1 e.2) c
  let c := w.acc.foldl (fun c e => c.setA e.1 e.2) c
  let c := w.p.foldl (fun c e => c.setP e.1 e.2) c
  { c with sr := raise c.sr w.fl }

/-- With PE = 0 the fields PN and PS must be 0 (R224). -/
def predBad (p : Pred) : Bool := !p.pe && (p.pn || p.ps % 4 != 0)

/-- The Teller can issue: it executes a run and does not stall. -/
def Core.issues (c : Core) : Bool := c.run.isSome && c.stall.isNone

/-- An operation of the compute slot. A bundle whose compute slot has executed ends first, its move slot a NOP. A fault
of the encoding is raised at issue (R782); a scalar operation executes on bit 0 of the governing mask, a vector one
(`vec`) by lanes (R225). -/
def computeOp (t : Nat) (p : Pred) (bad vec : Bool) (f : Core → Nat → Writes) (s : State) : State :=
  if !(s.core t).issues then s
  else
    let c := s.core t
    let c := if c.before.isSome then c.endBundle [] 0 Option.none else c
    let s := s.setCore t c
    if bad || predBad p then tellerFault t 1 0 s
    else
      let m := Pred.mask p c
      let w := if vec || m.testBit 0 then f c m else Writes.none
      let b : Before := ⟨c.d, c.acc, c.p, c.sr, w.fl, w.d.map (fun e => e.1 % 32) ++ w.p.map (fun e => 32 + e.1 % 4)⟩
      s.setCore t { w.apply c with before := some b }

/-! ### The move slot -/

/-- What a move operation comes to: a fault with its address, or a state, the loads, the extra cycles and the target of
a taken branch. -/
inductive MoveRes where
  | fault (cause addr : Nat)
  | done (s : State) (loads : List (Nat × Word)) (extra : Nat) (tgt : Option Nat)

/-- The end of the bundle of Teller `t`. -/
def endBundle (t : Nat) (loads : List (Nat × Word)) (extra : Nat) (tgt : Option Nat) (s : State) : State :=
  s.setCore t ((s.core t).endBundle loads extra tgt)

/-- An operation of the move slot: it ends the bundle. `bad` is the fault its encoding decides; STV and STRV (`vec`)
execute whatever the mask (R260), others on bit 0. It reads the registers of the start of the bundle (R230). -/
def moveOp (t : Nat) (p : Pred) (bad : Option Nat) (vec : Bool) (f : Core → Run → Nat → State → MoveRes) (s : State) : State :=
  if !(s.core t).issues then s
  else
    match (if bad.isNone && predBad p then some 1 else bad), (s.core t).run with
    | some cause, _ => tellerFault t cause 0 s
    | Option.none, Option.none => s
    | Option.none, some r =>
      let c := (s.core t).seen
      let m := Pred.mask p c
      if vec || m.testBit 0 then
        match f c r m s with
        | .fault cause a => tellerFault t cause a s
        | .done s loads extra tgt => endBundle t loads extra tgt s
      else endBundle t [] 0 Option.none s

end Sys2Proof.Machine
end

