-- ==== Sys2Proof/Machine/TellerMove.lean ====
section
/-! DEFINITION. The move operations of a Teller (Table 4.10, R240, R241, R255 to R266), END (R215) and the answers to an
LDF (R257). -/

namespace Sys2Proof.Machine

/-! ### Loads -/

/-- The cursor after the access, in the Teller's registers. -/
def afterAccess (t j mode : Nat) (imm : Int) (s : State) : State := s.setCore t ((s.core t).after j mode imm)

/-- A load of `n` words, or of one halfword, by Table 4.8. -/
def loadOp (t : Nat) (p : Pred) (o : FmtMA) (bad : Bool) (n align : Nat) (val : State → Run → Nat → Word) (s : State) :
    State :=
  moveOp t p (if bad then some 1 else none) false (fun c r _ s =>
    let imm := immS 12 o.imm
    let as := c.wordAddrs (decide (1 < n)) o.i o.mode imm n
    match accessFault c o.i align as with
    | some (cause, a) => .fault cause a
    | none =>
      let loads := as.zipIdx.map (fun e => ((o.r + e.2) % 32, val s r e.1))
      .done (afterAccess t o.i o.mode imm s) loads (extraCycles r.folio [as]) none) s

def loadWord (t : Nat) (s : State) (r : Run) (a : Nat) : Word := wd (s.rdDataNat (t % 64) r.folio a 4)

def execLdw (t : Nat) (p : Pred) (o : FmtMA) (s : State) : Host.Outcome State Fault Refusal :=
  .next (loadOp t p o false 1 4 (loadWord t) s)

def execLdh (t : Nat) (p : Pred) (o : FmtMA) (s : State) : Host.Outcome State Fault Refusal :=
  .next (loadOp t p o false 1 2 (fun s r a => wdi (signed 16 (s.rdDataNat (t % 64) r.folio a 2))) s)

def execLdv (t : Nat) (p : Pred) (o : FmtMA) (s : State) : Host.Outcome State Fault Refusal :=
  .next (loadOp t p o (!isVec o.r) 8 4 (loadWord t) s)

/-- LD2I (R240): two vectors through two cursors of different address generators, each cursor then modified. Two loads
of one register in one bundle leave it a free value: the spec states none. -/
def ld2iOp (t : Nat) (o : FmtLD2I) (s : State) : State :=
  let bad : Option Nat := if o.z ≠ 0 then some 1 else if o.ia % 4 = o.ib % 4 then some 5 else none
  moveOp t ⟨false, false, 0⟩ bad false (fun c r _ s =>
    let aa := c.wordAddrs true o.ia 0 0 8
    let ab := c.wordAddrs true o.ib 0 0 8
    match accessFault c o.ia 4 aa, accessFault c o.ib 4 ab with
    | some (cause, a), _ => .fault cause a
    | none, some (cause, a) => .fault cause a
    | none, none =>
      let la := aa.zipIdx.map (fun e => ((8 * o.ga + e.2) % 32, loadWord t s r e.1))
      let lb := ab.zipIdx.map (fun e => ((8 * o.gb + e.2) % 32, loadWord t s r e.1))
      let same := decide (o.ga % 4 = o.gb % 4)
      let lb := if same then lb.zipIdx.map (fun e => (e.1.1, Config.freeWord (s.free + e.2))) else lb
      let s := if same then { s with free := s.free + 8 } else s
      let s := afterAccess t o.ia 1 (4 * immS 10 o.imma) s
      let s := afterAccess t o.ib 1 (4 * immS 10 o.immb) s
      .done s (la ++ lb) (extraCycles r.folio [aa, ab]) none) s

def execLd2i (t : Nat) (o : FmtLD2I) (s : State) : Host.Outcome State Fault Refusal := .next (ld2iOp t o s)

/-! ### Stores -/

/-- A store of the listed (word number, bytes) of an access through cursor `j`. -/
def storeOp (t : Nat) (p : Pred) (bad vec : Bool) (j mode : Nat) (imm : Int) (align : Nat)
    (vals : Core → Nat → List (Nat × List Byte)) (sv : Core → Nat → Bool) (s : State) : State :=
  moveOp t p (if bad then some 1 else none) vec (fun c r m s =>
    let vs := vals c m
    let as := vs.map (fun e => ((c.wordAddrs vec j mode imm (e.1 + 1)).getLast?).getD 0)
    match accessFault c j align as with
    | some (cause, a) => .fault cause a
    | none =>
      let bytes := (as.zip vs).flatMap (fun e => e.2.2.zipIdx.map (fun b => (e.1 + b.2, b.1)))
      let s := storeData (ctxKey t r.ctx) r.folio bytes s
      let s := afterAccess t j mode imm s
      let s := if sv c m then s.setCore t { s.core t with sr := raise (s.core t).sr flagSV } else s
      .done s [] (extraCycles r.folio [as]) none) s

def wordLe (w : Word) : List Byte := leBytes w.toNat 4

def noFlag (_ : Core) (_ : Nat) : Bool := false

def execStw (t : Nat) (p : Pred) (o : FmtMA) (s : State) : Host.Outcome State Fault Refusal :=
  .next (storeOp t p false false o.i o.mode (immS 12 o.imm) 4 (fun c _ => [(0, wordLe (c.dw o.r))]) noFlag s)

def execSth (t : Nat) (p : Pred) (o : FmtMA) (s : State) : Host.Outcome State Fault Refusal :=
  .next (storeOp t p false false o.i o.mode (immS 12 o.imm) 2 (fun c _ => [(0, leBytes (c.dw o.r).toNat 2)]) noFlag s)

def execStv (t : Nat) (p : Pred) (o : FmtMA) (s : State) : Host.Outcome State Fault Refusal :=
  .next (storeOp t p (!isVec o.r) true o.i o.mode (immS 12 o.imm) 4
    (fun c m => (maskList m 8).map (fun k => (k, wordLe (c.dw (o.r + k))))) noFlag s)

/-- RND of an accumulator as a store uses it (R245). -/
def Core.rounded (c : Core) (acc sh : Nat) : Word × Nat := satur32 (rhu (c.av acc) (sh % 64))

def execStr (t : Nat) (p : Pred) (o : FmtMR) (s : State) : Host.Outcome State Fault Refusal :=
  .next (storeOp t p false false o.i o.mode (immS 8 o.imm) 4 (fun c _ => [(0, wordLe (c.rounded o.acc o.sh).1)])
    (fun c _ => (c.rounded o.acc o.sh).2 != 0) s)

def execStrv (t : Nat) (p : Pred) (o : FmtMR) (s : State) : Host.Outcome State Fault Refusal :=
  .next (storeOp t p false true o.i o.mode (immS 8 o.imm) 4
    (fun c m => (maskList m 8).map (fun k => (k, wordLe (c.rounded k o.sh).1)))
    (fun c m => (maskList m 8).any (fun k => (c.rounded k o.sh).2 != 0)) s)

/-! ### The Clearinghouse (R256, R257) -/

/-- The read of one word by the master port of the cluster (R61, R256). -/
def askLdf (t a : Nat) (s : State) : State :=
  request ⟨tellerMaster t, t % 16, false, a, 4, 1, [], [], .none, targetOf a⟩ s

/-- LDF stalls until its response (R257). Responses that a master reset took are due no more. -/
def ldfOp (t : Nat) (p : Pred) (o : FmtLF) (s : State) : State :=
  if !(s.core t).issues then s
  else if o.imm ≠ 0 ∨ predBad p then tellerFault t 1 0 s
  else
    let c := (s.core t).seen
    if (Pred.mask p c).testBit 0 then
      let a := (c.dw o.a).toNat
      askLdf t a (s.setCore t { s.core t with
        stall := some (o.r % 32, (a, s.clock)), stale := Nat.min (s.core t).stale (s.ldfDue t) })
    else endBundle t [] 0 none s

def execLdf (t : Nat) (p : Pred) (o : FmtLF) (s : State) : Host.Outcome State Fault Refusal := .next (ldfOp t p o s)

/-- A response reaches the master port of Teller `t`: one that is late is discarded; else its word ends the stall, and an
error response faults the task (R220, R256, R257). -/
def ldfArrive (t : Nat) (d : DoneTxn) (s : State) : State :=
  let c := s.core t
  if d.discard then s
  else if c.stale ≠ 0 then s.setCore t { c with stale := c.stale - 1 }
  else
    match c.stall with
    | none => s
    | some (r, a, _) =>
      let s := s.setCore t { c with stall := none, cyc := s.runCyc t }
      if d.resp = .ok then endBundle t [(r, wd (leNat d.data))] 0 none s else tellerFault t 6 a s

/-- The oldest response due to Teller `t` arrives. -/
def ldfResponseOp (t : Nat) (s : State) : State :=
  match takeDone (tellerMaster t) (t % 16) s.clh.inflight with
  | none => s
  | some (d, rest) => resetsSettle (ldfArrive t d (s.setClh { s.clh with inflight := rest }))

def execLdfResponse (t : Nat) (s : State) : Host.Outcome State Fault Refusal := .next (ldfResponseOp t s)

/-- 16,384 cycles after the issue the response has not come: the task faults (R257). -/
def ldfTimeoutOp (t : Nat) (s : State) : State :=
  match (s.core t).stall with
  | none => s
  | some (_, a, _) => tellerFault t 6 a s

def execLdfTimeout (t : Nat) (s : State) : Host.Outcome State Fault Refusal := .next (ldfTimeoutOp t s)

/-- STF queues a deferred store to the address in D(a). -/
def execStf (t : Nat) (p : Pred) (o : FmtLF) (s : State) : Host.Outcome State Fault Refusal :=
  .next (moveOp t p (if o.imm ≠ 0 then some 1 else none) false (fun c r _ s =>
    .done (journalAdd (ctxKey t r.ctx) r.folio (.stf (c.dw o.a).toNat (c.dw o.r)) s) [] 0 none) s)

/-- A deferred STF write to `addr` gets an error response (R258): one that waits for its target is not performed and
recorded, one already answered with an error retires. Other effects of the task stand. -/
def stfErrorOp (addr : Nat) (s : State) : State :=
  let mine := fun (t : Txn) => t.m == .pst && t.addr == addr
  match s.clh.waiting.find? mine with
  | some x =>
    stfRetired addr true (clhError .pst x.id true addr 5 (s.setClh { s.clh with waiting := s.clh.waiting.erase x }))
  | none =>
    match s.clh.inflight.find? (fun d => mine d.txn && d.resp == .err && !d.discard) with
    | some d => stfRetired addr true (s.setClh { s.clh with inflight := s.clh.inflight.erase d })
    | none => s

def execStfError (addr : Nat) (s : State) : Host.Outcome State Fault Refusal := hostDo s (stfErrorOp addr)

def execSig (t : Nat) (p : Pred) (n : Nat) (s : State) : Host.Outcome State Fault Refusal :=
  .next (moveOp t p none false (fun _ r _ s =>
    .done (journalAdd (ctxKey t r.ctx) r.folio (.sig (n % 16)) s) [] 0 none) s)

def execEvr (t : Nat) (p : Pred) (n : Nat) (s : State) : Host.Outcome State Fault Refusal :=
  .next (moveOp t p none false (fun _ r _ s =>
    .done (journalAdd (ctxKey t r.ctx) r.folio (.evr (n % 8)) s) [] 0 none) s)

/-! ### Register moves -/

/-- A move-slot write of a data register or predicate (32 + j): where the compute slot of the bundle writes it too, the
spec states no value and it is free. -/
def Core.clash (c : Core) (n : Nat) : Bool :=
  match c.before with
  | some b => b.wrote.contains n
  | none => false

/-- Write register code `n`. -/
def writeCode (t n : Nat) (v : Word) (s : State) : State :=
  let c := s.core t
  if n % 64 < 32 ∧ c.clash (n % 64) then
    { (s.setCore t (c.setCode n (Config.freeWord s.free))) with free := s.free + 1 }
  else s.setCore t (c.setCode n v)

def execMovr (t : Nat) (p : Pred) (o : FmtMV) (s : State) : Host.Outcome State Fault Refusal :=
  .next (moveOp t p (if o.z ≠ 0 then some 1 else none) false (fun c _ _ s =>
    .done (writeCode t o.dst (c.code o.src) s) [] 0 none) s)

/-- A control register written: a flag that the bundle raises survives a write of SR (R213). -/
def writeCtl (t n : Nat) (v : Word) (s : State) : State :=
  let c := s.core t
  if n = 0 then
    let fl := match c.before with
      | some b => b.flags
      | none => 0
    s.setCore t { c with sr := raise (v &&& 0xF) fl }
  else if 4 ≤ n ∧ c.clash (32 + (n - 4)) then
    { (s.setCore t (c.setCtl n (Config.freeWord s.free))) with free := s.free + 1 }
  else s.setCore t (c.setCtl n v)

def execMovc (t : Nat) (p : Pred) (o : FmtMC) (s : State) : Host.Outcome State Fault Refusal :=
  .next (moveOp t p (if o.z ≠ 0 ∨ 8 ≤ o.ctl then some 1 else none) false (fun c _ _ s =>
    .done (if o.dir % 2 = 0 then writeCtl t o.ctl (c.dw o.d) s else writeCode t (o.d % 32) (c.ctl o.ctl) s) [] 0 none) s)

def execModi (t : Nat) (p : Pred) (i : Nat) (imm : Int) (s : State) : Host.Outcome State Fault Refusal :=
  .next (moveOp t p none false (fun c _ _ s =>
    .done (s.setCore t ((s.core t).setI i (c.modify i (immS 19 imm)))) [] 0 none) s)

/-- LDI is a long bundle of its own: a bundle whose compute slot has executed ends first (R222). -/
def ldiOp (t reg : Nat) (imm : Word) (z : Nat) (s : State) : State :=
  if !(s.core t).issues then s
  else
    let s := if (s.core t).before.isSome then endBundle t [] 0 none s else s
    moveOp t ⟨false, false, 0⟩ (if z ≠ 0 then some 1 else none) false (fun _ _ _ s =>
      .done (writeCode t reg imm s) [] 0 none) s

def execLdi (t reg : Nat) (imm : Word) (z : Nat) (s : State) : Host.Outcome State Fault Refusal := .next (ldiOp t reg imm z s)

/-! ### Control -/

/-- PC + OFF, OFF signed 13-bit bundles. -/
def Core.target (c : Core) (off : Int) : Nat := (((c.pc : Int) + immS 13 off) % 8192).toNat

def execBr (t : Nat) (p : Pred) (off : Int) (s : State) : Host.Outcome State Fault Refusal :=
  .next (moveOp t p none false (fun c _ _ s => .done s [] 2 (some (c.target off))) s)

def execCall (t : Nat) (p : Pred) (off : Int) (s : State) : Host.Outcome State Fault Refusal :=
  .next (moveOp t p none false (fun c _ _ s =>
    if 4 ≤ c.stack.length then .fault 4 0
    else
      let ret := (c.pc + 1) % 8192
      .done (s.setCore t { s.core t with stack := ret :: (s.core t).stack }) [] 2 (some (c.target off))) s)

def execRet (t : Nat) (p : Pred) (s : State) : Host.Outcome State Fault Refusal :=
  .next (moveOp t p none false (fun c _ _ s =>
    match c.stack with
    | [] => .fault 4 0
    | a :: rest => .done (s.setCore t { s.core t with stack := rest }) [] 2 (some a)) s)

/-- LOOP (R262 to R264). LC holds the iterations that remain after the current one (R259). -/
def loopOp (t : Nat) (p : Pred) (o : FmtLoop) (s : State) : State :=
  moveOp t p (if o.stop < 1 + o.skip then some 1 else none) false (fun c _ _ s =>
    let k := o.k % 2
    let n := if o.src % 2 = 0 then o.cnt % 256 else (c.dw (o.cnt % 32)).toNat % 65536
    let l : TLoop := ⟨k, (c.pc + 1 + o.skip) % 8192, (c.pc + o.stop) % 8192, decide (n = 0)⟩
    let inside := match c.loops with
      | [] => true
      | e :: _ => decide (e.start ≤ l.start) && decide (l.end_ ≤ e.end_)
    if c.loops.any (fun e => e.k == k) || !inside then .fault 1 0
    else
      let c' := (s.core t).setLc k (n - 1)
      .done (s.setCore t { c' with loops := l :: c'.loops }) [] 0 none) s

def execLoop (t : Nat) (p : Pred) (o : FmtLoop) (s : State) : Host.Outcome State Fault Refusal := .next (loopOp t p o s)

/-! ### END (R215, R216, R207, R221) -/

/-- The preset write-back of each Ij that CR.PERSIST selects. -/
def persist (t : Nat) (r : Run) (s : State) : State :=
  let c := s.core t
  let k := ctxKey t r.ctx
  let b := (s.ctx k).decl.base
  (maskList (fld c.cr 7 0) 8).foldl (fun s j => storeData k r.folio (wordBytes (b + 4 * j) (wd (c.iw j))) s) s

/-- Output words that the run left unwritten are delivered as 0, with NOOUT (R207). -/
def fillOutputs (t : Nat) (r : Run) (s : State) : State :=
  let wrote := (s.core t).wrote
  (s.ctx (ctxKey t r.ctx)).decl.outs.foldl (fun s c => forN 8 s (fun s j =>
    if wrote.contains (cellOff c j / 4) then s
    else (s.wrWord (pageBase t r.folio + cellOff c j) 0).evt Reg.TEL_EVT 5)) s

/-- The record of saturation at END (R221). -/
def satAtEnd (t : Nat) (s : State) : State :=
  if bit (s.core t).sr 0 || bit (s.core t).sr 2 then
    let a := if t % 64 < 32 then Reg.TEL_SATLO else Reg.TEL_SATHI
    (s.raise a (bitw (t % 32))).evtIf (s.rb Reg.TEL_CTRL 1) Reg.TEL_EVT 3
  else s

/-- A run that used all its declared cycles without completing its END (R132). -/
def overrun (t : Nat) (s : State) : State := stopRun t (s.evt Reg.PST_EVT 5)

/-- The run ends within its declared cycles, END taking 2, or is stopped (R132). -/
def endRunOp (t : Nat) (p : Pred) (s : State) : State :=
  if !(s.core t).issues then s
  else
    match (s.core t).run with
    | none => s
    | some r =>
      if predBad p then tellerFault t 1 0 s
      else if !(Pred.mask p (s.core t).seen).testBit 0 then endBundle t [] 0 none s
      else
        let k := ctxKey t r.ctx
        let cyc := (s.core t).cyc + 2
        if (s.ctx k).decl.cycles < cyc then overrun t s
        else
          let s := s.setCore t { s.core t with cyc := cyc }
          let s := satAtEnd t (fillOutputs t r (persist t r s))
          let x := s.ctx k
          let s := if r.rerun then s
            else (s.setCtx k { x with last := cyc, max := Nat.max x.max cyc }).note (regKey Reg.TEL_CTXMAX k) (wd cyc)
          finishRun t false s

def execEndRun (t : Nat) (p : Pred) (s : State) : Host.Outcome State Fault Refusal := .next (endRunOp t p s)

end Sys2Proof.Machine
end

