-- ==== Sys2Proof/Machine/TellerRun.lean ====
section
/-! DEFINITION. The runs of the Tellers (R214 to R221), their contexts (R268) and replacements (R270). -/

namespace Sys2Proof.Machine

/-! ### Starting a run -/

/-- One input cell of a task; free values where the folio is undefined (R69). -/
def fillCell (t : Nat) (f : Fol) (src : Bool) (c : CellDecl) (s : State) : State :=
  if f.undef then (writeCell t f.n c (fun j => Config.freeWord (s.free + j)) s).useFree 8
  else writeCell t f.n c (fun j => smp (if src then f.src else f.mix) c.chan j) s

/-- The input cells of a task, written by the source rail or the mix-out rail (Table 4.2). -/
def fillInputs (k n : Nat) (s : State) : State :=
  match s.fol? n with
  | none => s
  | some f =>
    let d := (s.ctx k).decl
    d.ins.foldl (fun s c => fillCell (k / 256) f d.isSrc c s) s

/-- The registers from the preset block (chapter 4, "Tasks and contexts"): word 8 × b + j. -/
def State.preset (s : State) (t base b : Nat) : List (Nat × Word) :=
  forN 8 [] (fun l j => aput l 0 j (wd (leNat ((List.range 4).map (fun i => s.rdBank0 t (base + 4 * (8 * b + j) + i))))))

/-- The task-start state (R214), dispatch having taken 4 cycles (R215), every output word unwritten (R207). -/
def startRun (k n : Nat) (rerun : Bool) (s : State) : State :=
  let t := k / 256
  let d := (s.ctx k).decl
  s.setCore t { Core.reset with
    i := s.preset t d.base 0, b := s.preset t d.base 1, l := s.preset t d.base 2, m := s.preset t d.base 3,
    cr := d.cr, pc := d.entry % 8192, cyc := 4, run := some ⟨k % 256, n, rerun⟩, dirty := (s.core t).dirty,
    stale := (s.core t).stale }

/-- The first run that Teller `t` is to start: the oldest dispatched and not complete (R217). -/
def State.nextFirst (s : State) (t : Nat) : Option (Nat × Nat) :=
  (s.pst.fols.flatMap (fun f => f.open_.map (fun k => (k, f.n)))).find? (fun e => e.1 / 256 == t % 64)

/-- A deferred effect of context `k` is still to be performed. -/
def State.todoOf (s : State) (k : Nat) : Bool := s.pst.todo.any (fun e => e.1.t == k / 256 && e.1.ctx == k % 256)

/-- A first run starts when its Teller is free, in the order of R217, after the context's task of every earlier folio
has committed (R125). -/
def firstRunStartOp (t c : Nat) (s : State) : State :=
  let k := ctxKey t c
  match s.nextFirst t with
  | none => s
  | some (k', n) =>
    if k' ≠ k ∨ (s.core t).run.isSome ∨ s.pst.fols.any (fun f => decide (f.n < n) && f.prov.contains k) ∨ s.todoOf k then s
    else
      let x := s.ctx k
      let s := s.setCtx k { x with fcons := if x.faulted then x.fcons else 0, faulted := false }
      startRun k n false s

def execFirstRunStart (t c : Nat) (s : State) : Host.Outcome State Fault Refusal := hostDo s (firstRunStartOp t c)

/-- A rerun is placed on Teller `t`: the earliest start among those of the folios (R217). -/
def State.nextRerun (s : State) (t : Nat) : Option (Nat × Nat) :=
  let l := s.pst.fols.flatMap (fun f => (f.reruns.filter (fun e => e.1 / 256 == t % 64 && !f.open_.contains e.1)).map
    (fun e => (e.2, e.1, f.n)))
  (l.foldl (fun (b : Option (Int × Nat × Nat)) e => match b with
    | some x => if e.1 < x.1 then some e else b
    | none => some e) none).map (fun e => (e.2.1, e.2.2))

/-- A rerun restores the context (R123), takes the present inputs of a source task again, and starts on its Teller when
that is free, the earliest placed first (R217). -/
def rerunStartOp (t c : Nat) (s : State) : State :=
  let k := ctxKey t c
  match s.nextRerun t with
  | none => s
  | some (k', n) =>
    if k' ≠ k ∨ (s.core t).run.isSome then s
    else
      let s := discard k n s
      startRun k n true (if (s.ctx k).decl.isSrc then fillInputs k n s else s)

def execRerunStart (t c : Nat) (s : State) : Host.Outcome State Fault Refusal := hostDo s (rerunStartOp t c)

/-! ### Stops -/

/-- A run that has used all its declared cycles is stopped with TOVR (R132); with cycles left nothing happens. -/
def taskOverrunOp (t : Nat) (s : State) : State :=
  match (s.core t).run with
  | none => s
  | some r => if (s.ctx (ctxKey t r.ctx)).decl.cycles ≤ s.runCyc t then overrun t s else s

def execTaskOverrun (t : Nat) (s : State) : Host.Outcome State Fault Refusal := hostDo s (taskOverrunOp t)

/-- The end of the window of a run of task `k` in folio `f`: M(n) for a first run of a source task, SINKWIN after the
dispatch for a run of a sink task; a source rerun has none (R219, R93). -/
def State.windowEnd (s : State) (f : Fol) (k : Nat) (rerun : Bool) : Option Int :=
  let d := (s.ctx k).decl
  if d.isSrc then (if rerun then none else some (s.mAt f.n))
  else if rerun then (f.redisp.find? (fun e => e.1 == k)).map (fun e => e.2 + us3 s.sinkWin)
  else some (s.mixBegin f.n (declGroup d + 1) + us3 s.sinkWin)

/-- The runs of Teller `t` that are dispatched and not complete and have a window: its end, the task, the folio, a
rerun. -/
def State.windows (s : State) (t : Nat) : List (Int × (Nat × Run)) :=
  let one := fun (f : Fol) (rerun : Bool) (k : Nat) =>
    if k / 256 = t % 64 then (s.windowEnd f k rerun).map (fun e => (e, (k, ⟨k % 256, f.n, rerun⟩))) else none
  s.pst.fols.flatMap (fun f => f.open_.filterMap (one f false) ++ (f.redisp.map (·.1)).filterMap (one f true))

/-- The entry of the list whose window ends first. -/
def firstWindow (l : List (Int × (Nat × Run))) : Option (Nat × Run) :=
  (l.foldl (fun (b : Option (Int × (Nat × Run))) e => match b with
    | some x => if e.1 < x.1 then some e else b
    | none => some e) none).map (·.2)

/-- The window watchdog (R219): with WDEN = 1 the run of the Teller whose window ends first is stopped, started or
not; its outputs are 0 (R218). -/
def windowWatchdogOp (t : Nat) (s : State) : State :=
  if !s.rb Reg.TEL_CTRL 0 then s
  else
    match firstWindow (s.windows t) with
    | none => s
    | some (k, r) =>
      let s := s.evt Reg.TEL_EVT 1
      if (s.core t).run = some r then stopRun t s
      else
        let z := zeroOutputs k r.folio s
        endTask (t % 64) k r.folio r.rerun true 0 (if r.rerun then discard k r.folio z else z)

def execWindowWatchdog (t : Nat) (s : State) : Host.Outcome State Fault Refusal := hostDo s (windowWatchdogOp t)

/-- A Teller that did not stop is reset: its run is stopped, pipeline, registers and return stack are reset, memories
stay; WRST (R220). Its transactions end by a master reset (R604). -/
def tellerResetOp (t : Nat) (s : State) : State :=
  let s := stopRun t s
  let s := (s.setCore t { Core.reset with dirty := (s.core t).dirty }).evt Reg.TEL_EVT 2
  masterReset (tellerMaster t) [t % 16] s

def execTellerReset (t : Nat) (s : State) : Host.Outcome State Fault Refusal := hostDo s (tellerResetOp t)

/-! ### Contexts -/

/-- The context that TEL_CTXSEL names. -/
def State.ctxSel (s : State) : Nat := ctxKey (s.rf Reg.TEL_CTXSEL 13 8) (s.rf Reg.TEL_CTXSEL 7 0)

/-- A write of TEL_CTXCMD: 1 or 2 waits for the next folio; 0 and 3 are no action. -/
def ctxCmdWrite (v : Word) (s : State) : State :=
  let c := fld v 1 0
  let k := s.ctxSel
  if (c = 1 ∨ c = 2) ∧ (s.ctx k).exists_ then s.setCtx k { s.ctx k with cmd := c } else s

def execContextEnable (v : Word) (s : State) : Host.Outcome State Fault Refusal := hostDo s (ctxCmdWrite v)

def execContextDisable (v : Word) (s : State) : Host.Outcome State Fault Refusal := hostDo s (ctxCmdWrite v)

/-- A replacement at the entry cut of folio `n` (R271): both contexts run in the swap folio, or in the first folio cut
from it on where it is skipped (R140); after it only the new one. -/
def swapCut (n : Nat) (s : State) (x : Swap) : State :=
  let new := ctxKey x.t x.new
  let old := ctxKey x.t x.old
  if x.begun then s.setCtx old { s.ctx old with en := false }
  else if x.folio ≤ n then s.setCtx new { s.ctx new with en := true }
  else s

/-- The commands that waited are applied at the entry cut of folio `n`, and so are replacements. -/
def applyCtxCmds (n : Nat) (s : State) : State :=
  let cmd := fun (s : State) (e : Nat × Ctx) =>
    if e.2.cmd = 1 then s.setCtx e.1 { e.2 with en := true, quar := false, fcons := 0, cmd := 0 }
    else if e.2.cmd = 2 then s.setCtx e.1 { e.2 with en := false, cmd := 0 }
    else s
  let s := s.tel.ctxs.foldl cmd s
  let s := s.tel.swaps.foldl (swapCut n) s
  { s with tel := { s.tel with swaps := s.tel.swaps.map (fun x =>
      if !x.begun && decide (x.folio ≤ n) then { x with folio := n, begun := true } else x) } }

/-- PST_FOLIO: the folio of the latest entry cut. -/
def State.pstFolio (s : State) : Nat := s.pst.cut

/-- Context `k` has first runs in folio `n`, as commands and replacements waiting now will have it: a TEL_CTXCMD decides
before the replacements; the swap folio of a replacement runs both its contexts (R194, R270, R271). -/
def State.runsIn (s : State) (k n : Nat) : Bool :=
  let c := s.ctx k
  let en := if c.cmd = 1 then true else if c.cmd = 2 then false else c.en && !c.quar
  s.tel.swaps.foldl (fun on x =>
    if k = ctxKey x.t x.new ∧ x.folio ≤ n then true
    else if k = ctxKey x.t x.old ∧ x.folio < n then false
    else on) en

/-- A write of TEL_SWAPGO (R270): the replacement is checked and scheduled, or SWAPERR. -/
def swapGoOp (v : Word) (s : State) : State :=
  if !bit v 0 then s
  else
    let t := s.rf Reg.TEL_SWAP 29 24
    let old := ctxKey t (s.rf Reg.TEL_SWAP 7 0)
    let new := ctxKey t (s.rf Reg.TEL_SWAP 15 8)
    let ahead := ((s.reg Reg.TEL_SWAPF).toNat + 2 ^ 32 - s.pstFolio % 2 ^ 32) % 2 ^ 32
    let folio := s.pstFolio + ahead
    let load := ((s.ctxsWhere (fun k _ => decide (k / 256 = t) && (s.runsIn k folio || k == new))).map
      (fun k => (s.ctx k).decl.cycles)).foldl (· + ·) 0
    if 3 ≤ ahead ∧ ahead ≤ 12000 ∧ (s.ctx old).exists_ ∧ (s.ctx old).en ∧ (s.ctx new).exists_ ∧ old ≠ new ∧ load ≤ 80000 then
      let x : Swap := ⟨t, old % 256, new % 256, folio, false⟩
      { s with tel := { s.tel with swaps := s.tel.swaps ++ [x] } }.setBit Reg.TEL_SWAPST 0 true
    else s.evt Reg.TEL_EVT 7

def execSwapGo (v : Word) (s : State) : Host.Outcome State Fault Refusal := hostDo s (swapGoOp v)

/-- The swap folio is posted (R271). -/
def swapPosted (n : Nat) (s : State) : State :=
  let mine := fun (x : Swap) => x.begun && x.folio == n
  if s.tel.swaps.any mine then
    (s.setBit Reg.TEL_SWAPST 0 (s.tel.swaps.any (fun x => !x.begun || decide (n < x.folio)))).evt Reg.TEL_EVT 6
  else s

/-! ### Fetching (R222) -/

/-- The commands that the bundle of Teller `t` spells, fetched from its instruction memory at its program counter:
bundle k stands at offset 8k, little-endian (R222). The sender of commands issues these. -/
def State.bundleAt (s : State) (t : Nat) : List Instr :=
  bundleCommands t (leNat (s.rdBytes (telBase t + 8 * (s.core t).pc) 8))

end Sys2Proof.Machine
end

