-- ==== Sys2Proof/Machine/SinkChain.lean ====
section
/-! DEFINITION. The sink chain (chapter 5): delay lines, final limiter, decimation, format reduction, and the writes of
its registers. -/

namespace Sys2Proof.Machine

def State.setOut (s : State) (o : Out) : State := { s with out := o }

def State.snk (s : State) (k : Nat) : Snk := aget s.out.snk Snk.reset k

def State.setSnk (s : State) (k : Nat) (x : Snk) : State := s.setOut { s.out with snk := aput s.out.snk Snk.reset k x }

/-- The value of an OUT register in force for the folio being processed (R302). -/
def State.inForce (s : State) (a : Nat) : Word := aget s.out.force (regReset a) a

/-- The folio in which a write made now takes effect: n + 1 during L(n), else the next one processed (R302). -/
def State.effectFolio (s : State) : Nat :=
  match s.pst.cur with
  | some n => if s.pst.paused then 0 else n + 1
  | none => 0

/-- A register write staged for the folio of R302. A delay or limiter register written twice takes the last value. -/
def stageOut (merge : Bool) (a : Nat) (v : Word) (s : State) : State :=
  let f := s.effectFolio
  let l := if merge then s.out.staged.filter (fun e => !(e.1 == f && e.2.1 == a)) else s.out.staged
  s.setOut { s.out with staged := l ++ [(f, (a, v))] }

/-! ### Register writes (R295 to R306) -/

def vaultSlots : Nat := 22369621

/-- The line of sink `k` as its registers are written: enabled, BASE and LEN. Snk holds what is in force (R302). -/
def State.lineOn (s : State) (k : Nat) : Bool := s.rb (Reg.OUT_DCFG k) 31
def State.lineBase (s : State) (k : Nat) : Nat := s.rf (Reg.OUT_DCFG k) 24 0
def State.lineLen (s : State) (k : Nat) : Nat := s.rf (Reg.OUT_DLEN k) 22 0

/-- Sinks whose line is enabled as the registers are written. -/
def State.linesOn (s : State) : List Nat :=
  (s.regs.filter (fun e => decide (Reg.OUT_DCFG 0 ≤ e.1) && decide (e.1 < Reg.OUT_DCFG 2560) && bit e.2 31)).map
    (fun e => (e.1 - Reg.OUT_DCFG 0) / 4)

/-- OUT_STATUS.USED: the sum of LEN over the lines in force. -/
def State.outUsed (s : State) : Nat :=
  ((s.out.snk.filter (fun e => e.2.on)).map (fun e => e.2.len)).foldl (· + ·) 0

/-- A write of OUT_DCFGk (R296, R302, R303, R321). -/
def dcfgWriteOp (k : Nat) (v : Word) (s : State) : State :=
  let base := fld v 24 0
  let len := s.lineLen k
  let overlap := s.linesOn.any (fun j => decide (j ≠ k) && decide (s.lineBase j < base + len) &&
    decide (base < s.lineBase j + s.lineLen j))
  if bit v 31 ∧ !s.domOn 6 then s
  else if bit v 31 ∧ (vaultSlots < base + len ∨ overlap ∨ (s.lineOn k ∧ base ≠ s.lineBase k)) then s.evt Reg.OUT_EVT 1
  else
    let was := s.lineOn k
    let s := s.typeWrite (Reg.OUT_DCFG k) v
    let s := if was ≠ bit v 31 then stageOut false (Reg.OUT_DCFG k) v s else s
    if bit v 31 then s else s.setReg (Reg.OUT_DLY k) 0

def execDcfgWrite (k : Nat) (v : Word) (s : State) : Host.Outcome State Fault Refusal := hostDo s (dcfgWriteOp k v)

/-- A write of OUT_DLYk (R301, R302). -/
def dlyWriteOp (k : Nat) (v : Word) (s : State) : State :=
  let d := fld v 29 0
  if s.lineOn k ∧ d ≤ (s.lineLen k - 3) * 256 ∧ (d % 256 = 0 ∨ 256 ≤ d) then
    stageOut true (Reg.OUT_DLY k) (wd d) (s.setReg (Reg.OUT_DLY k) (wd d))
  else s.evt Reg.OUT_EVT 1

def execDlyWrite (k : Nat) (v : Word) (s : State) : Host.Outcome State Fault Refusal := hostDo s (dlyWriteOp k v)

/-- A write of OUT_DLENk (R296). -/
def dlenWriteOp (k : Nat) (v : Word) (s : State) : State :=
  let n := fld v 22 0
  if s.lineOn k ∨ n < 4 ∨ 4194304 < n then s.evt Reg.OUT_EVT 1 else s.setReg (Reg.OUT_DLEN k) (wd n)

def execDlenWrite (k : Nat) (v : Word) (s : State) : Host.Outcome State Fault Refusal := hostDo s (dlenWriteOp k v)

/-- A write of OUT_LIMk (`thr` false) or OUT_THRk (R306, R302). -/
def limWriteOp (k : Nat) (thr : Bool) (v : Word) (s : State) : State :=
  let a := if thr then Reg.OUT_THR k else Reg.OUT_LIM k
  if (if thr then fld v 30 0 = 0 else 32 < fld v 5 0) then s.evt Reg.OUT_EVT 2
  else
    let s := s.typeWrite a v
    stageOut true a (s.reg a) s

def execLimWrite (k : Nat) (thr : Bool) (v : Word) (s : State) : Host.Outcome State Fault Refusal :=
  hostDo s (limWriteOp k thr v)

/-- A write of an OUT_ATK or OUT_REL entry at address `a`: 1 to 2^30, else ignored with LIMERR. -/
def coefWrite (a : Nat) (v : Word) (s : State) : State :=
  let k := fld v 30 0
  if k = 0 ∨ 0x40000000 < k then s.evt Reg.OUT_EVT 2
  else stageOut true a (wd k) (s.setReg a (wd k))

/-- A write of OUT_FMTk: ignored for an amplifier sink of the -A (R316). -/
def fmtWrite (k : Nat) (v : Word) (s : State) : State :=
  if s.isA ∧ 2528 ≤ k then s else s.typeWrite (Reg.OUT_FMT k) v

/-- OUT_FMTk as it reads (R316). -/
def State.outFmt (s : State) (k : Nat) : Word := if s.isA ∧ 2528 ≤ k ∧ k < 2560 then 3 else s.reg (Reg.OUT_FMT k)

/-! ### Taking staged writes into force -/

/-- A change of the delay in force (R304, R305, R783): pending behind a crossfade and in place of a pending one, which a
write of the delay in force cancels; no change when equal; else a crossfade. -/
def takeDly (k d : Nat) (s : State) : State :=
  let x := s.snk k
  if !x.on then s
  else if x.xf.isSome || x.pend.isSome then s.setSnk k { x with pend := if d = x.dly then none else some d }
  else if d = x.dly then s
  else
    let len := s.rf (Reg.LDG_RAMPT (s.rf (Reg.OUT_DCFG k) 30 27)) 17 0
    s.setSnk k { x with xf := some ⟨x.dly, d, 0, len⟩, dly := d }

/-- A line enabled, or disabled, with the BASE and LEN then in force (R302, R303). -/
def takeLine (k : Nat) (v : Word) (s : State) : State :=
  s.setSnk k { s.snk k with
    on := bit v 31, base := fld v 24 0, len := s.lineLen k, w := 0, dly := 0, xf := none, pend := none, bad := 0 }

/-- A staged write comes into force. -/
def takeStaged (a : Nat) (v : Word) (s : State) : State :=
  let s := s.setOut { s.out with force := aput s.out.force (regReset a) a v }
  if Reg.OUT_DLY 0 ≤ a ∧ a < Reg.OUT_DLY 2560 then takeDly ((a - Reg.OUT_DLY 0) / 4) (fld v 29 0) s
  else if Reg.OUT_DCFG 0 ≤ a ∧ a < Reg.OUT_DCFG 2560 then takeLine ((a - Reg.OUT_DCFG 0) / 4) v s
  else s

/-- The writes that take effect by folio `n` come into force, in their order. -/
def applyStaged (n : Nat) (s : State) : State :=
  let now := s.out.staged.filter (fun e => decide (e.1 ≤ n))
  let s := s.setOut { s.out with staged := s.out.staged.filter (fun e => !decide (e.1 ≤ n)) }
  now.foldl (fun s e => takeStaged e.2.1 e.2.2 s) s

/-! ### Delay stage (R297 to R304) -/

/-- The address of a Vault-D sample slot (R55). -/
def slotAddr (i : Nat) : Nat := 0x30000000 + 3 * i

/-- The coefficients h_-1, h_0, h_1, h_2 of R300 for f = F / 256. -/
def lagrange (f : Int) : List Int :=
  [roundHalfUp (4194304 * (-(f * (f - 256) * (f - 512)))) 100663296,
   roundHalfUp (4194304 * ((f + 256) * (f - 256) * (f - 512))) 33554432,
   roundHalfUp (4194304 * (-((f + 256) * f * (f - 512)))) 33554432,
   roundHalfUp (4194304 * ((f + 256) * f * (f - 256))) 100663296]

/-- The value read at write index `pos` of a line (R298, R299). -/
def State.lineRead (s : State) (k : Nat) (pos : Int) : Int :=
  if pos < 0 then 0
  else signed 24 (leNat (s.rdBytes (slotAddr ((s.snk k).base + pos.toNat % (s.snk k).len)) 3)) * 256

/-- The positions that the output at write index `w` reads for delay `d` in 1/256 sample (R300). -/
def readPos (w d : Nat) : List Int :=
  let i : Int := (w : Int) - ((d / 256 : Nat) : Int)
  if d % 256 = 0 then [i] else [i + 1, i, i - 1, i - 2]

/-- The output at write index `w` for delay `d` in 1/256 sample (R300). -/
def State.delayed (s : State) (k w d : Nat) : Int :=
  if d % 256 = 0 then (readPos w d).foldl (fun a p => a + s.lineRead k p) 0
  else
    let sum := ((lagrange ((d % 256 : Nat) : Int)).zip (readPos w d)).foldl (fun a e => a + e.1 * s.lineRead k e.2) 0
    sat32 (roundHalfUp sum 4194304)

/-- The output reads a slot that a Clearinghouse write has met and the chain has not written since (R323). -/
def Snk.tainted (q : Snk) (d : Nat) : Bool := (readPos q.w d).any (fun p => decide (0 ≤ p) && decide (p < (q.bad : Int)))

/-- One sample through the delay stage of sink `k`. -/
def delaySample (k : Nat) (x : Int) (s : State) : Int × State :=
  let q := s.snk k
  if !q.on then (x, s)
  else if !s.domOn 6 then (0, s)
  else
    let v := sat24 (roundHalfUp x 256)
    let s := s.wrBytes (slotAddr (q.base + q.w % q.len)) (leBytes (encSigned 24 v) 3)
    let (y, xf) := match q.xf with
      | some f =>
        let i := f.i + 1
        let yo := s.delayed k q.w f.old
        let yn := s.delayed k q.w f.new
        (roundHalfUp (f.len * yo + (yn - yo) * i) f.len, if i < f.len then some { f with i := i } else none)
      | none => (s.delayed k q.w q.dly, none)
    let tainted := q.tainted q.dly || q.xf.any (fun f => q.tainted f.old)
    let s := s.setSnk k { q with w := q.w + 1, xf := xf }
    if tainted then ((Config.freeWord s.free).toInt, s.useFree 1) else (y, s)

/-- The sample slots with a byte in the Vault-D word at `a`. -/
def vaultSlotsOf (a : Nat) : List Nat :=
  let o := a - 0x30000000
  (List.range 4).map (fun i => o / 3 + i) |>.filter (fun k => decide (3 * k < o + 8))

/-- The word at `a` lies in a line in force of a sink that satisfies `p`. -/
def State.inLine (s : State) (p : Nat → Bool) (a : Nat) : Bool :=
  (vaultSlotsOf a).any (fun k => s.out.snk.any (fun e => p e.1 && e.2.on && decide (e.2.base ≤ k) && decide (k < e.2.base + e.2.len)))

/-- An uncorrectable word of a line: every sample with a byte in it reads 0 until its slot is written again (R322). -/
def eccLine (a : Nat) (s : State) : State :=
  let s := (vaultSlotsOf a).foldl (fun s k => s.wrBytes (slotAddr k) [0, 0, 0]) s
  (s.evt Reg.OUT_EVT 4).count Reg.OUT_CNT_ECCU 1 51

/-- The reads of group `g` meet words with correctable and with uncorrectable errors (R322): only words of its lines. -/
def chainErrors (g : Nat) (corrected bad : List Nat) (s : State) : State :=
  let mine := fun (a : Nat) => s.inLine (fun k => k / 40 == g) (a / 8 * 8)
  let s := s.evtIf (corrected.any mine) Reg.OUT_EVT 3
  (bad.filter mine).foldl (fun s a => eccLine (a / 8 * 8) s) s

/-- The 8 samples of sink `k` of a folio through the delay stage; a pending change begins first (R305). -/
def delayStage (f : Fol) (k : Nat) (s : State) : List Int × State :=
  let q := s.snk k
  let s := match q.xf, q.pend with
    | none, some d => takeDly k d (s.setSnk k { q with pend := none })
    | _, _ => s
  forN 8 ([], s) (fun (acc : List Int × State) j =>
    let r := delaySample k (smp f.sink k j).toInt acc.2
    (acc.1 ++ [r.1], r.2))

/-- The FINAL results of sink `k` as the chain takes them: free values where the folio is undefined (R69), so that
what the chain keeps of them is computed from free values too. -/
def takeSink (f : Fol) (k : Nat) (s : State) : Fol × State :=
  if f.undef then ({ f with sink := setSmps f.sink k (fun j => Config.freeWord (s.free + j)) }, s.useFree 8) else (f, s)

/-! ### Final limiter (R306 to R312) -/

def State.limOn (s : State) (k : Nat) : Bool := bit (s.inForce (Reg.OUT_LIM k)) 31
def State.limLa (s : State) (k : Nat) : Nat := fld (s.inForce (Reg.OUT_LIM k)) 5 0
def State.limLink (s : State) (k : Nat) : Nat := fld (s.inForce (Reg.OUT_LIM k)) 23 18
def State.limThr (s : State) (k : Nat) : Nat := fld (s.inForce (Reg.OUT_THR k)) 30 0

def one30 : Nat := 1073741824

/-- req[n] (R308). -/
def limReq (thr : Nat) (x : Int) : Nat := if x = 0 then one30 else Nat.min one30 (thr * one30 / x.natAbs)

/-- Enabled members of link group `l`, in number order (R310). -/
def State.members (s : State) (l : Nat) : List Nat :=
  if l = 0 then []
  else
    (s.out.force.filter (fun e => decide (Reg.OUT_LIM 0 ≤ e.1) && decide (e.1 < Reg.OUT_LIM 2560) && bit e.2 31 &&
      decide (fld e.2 23 18 = l))).map (fun e => (e.1 - Reg.OUT_LIM 0) / 4)

/-- The LA of a link group: that of its smallest member number (R310). -/
def State.groupLa (s : State) (l : Nat) : Nat :=
  match s.members l with
  | k :: _ => s.limLa k
  | [] => 0

/-- A member that takes part in its link: its LA is the group's. -/
def State.linked (s : State) (k : Nat) : Bool :=
  s.limOn k && decide (s.limLink k ≠ 0) && s.limLa k == s.groupLa (s.limLink k)

/-- The windows' least req of sink `k` for the inputs `xs` of a folio, sample by sample. -/
def State.ownT (s : State) (k : Nat) (xs : List Int) : List Nat :=
  let h := (s.snk k).hist
  let thr := s.limThr k
  let la := s.limLa k
  (List.range 8).map (fun j =>
    let win := ((xs.take (j + 1)).reverse ++ h).take (la + 1)
    win.foldl (fun m x => Nat.min m (limReq thr x)) one30)

/-- The delay stage's output of sink `k`: kept with the folio where a link has asked for it already. -/
def delayOf (f : Fol) (k : Nat) (s : State) : List Int × State :=
  if f.tval.any (fun e => e.1 / 8 == k) then ((List.range 8).map (fun j => (smp f.dout k j).toInt), s)
  else
    let r := takeSink f k s
    delayStage r.1 k r.2

/-- The delay stage's output and the t of every linked member of the link groups of sink group `g`, kept with the folio
(R308, R310). -/
def linkTargets (n g : Nat) (s : State) : State :=
  let need := addAll [] (((List.range 40).map (fun i => 40 * g + i)).flatMap (fun k =>
    if s.linked k then s.members (s.limLink k) else []))
  need.foldl (fun s k =>
    match s.fol? n with
    | none => s
    | some f =>
      if f.tval.any (fun e => e.1 / 8 == k) || !s.linked k then s
      else
        let (xs, s) := delayOf f k s
        let ts := s.ownT k xs
        s.setFol { f with
          dout := setSmps f.dout k (fun j => wdi (xs.getD j 0))
          tval := ts.zipIdx.foldl (fun l e => ainsert (adel l (8 * k + e.2)) (8 * k + e.2) e.1) f.tval }) s

/-- One sample of the limiter: the new gain and the output (R308). -/
def limStep (g t kk : Nat) (x : Int) (thr : Nat) : Nat × Int :=
  let st := roundHalfUp (((t : Int) - g) * kk) one30
  let g' := if st = 0 ∧ t ≠ g then t else ((g : Int) + st).toNat
  (g', clampI (-(thr : Int)) thr (roundHalfUp (x * g') one30))

/-- The 8 samples of sink `k` through the limiter. -/
def limStage (f : Fol) (k : Nat) (xs : List Int) (s : State) : List Int × State :=
  let la := s.limLa k
  let thr := s.limThr k
  let own := s.ownT k xs
  let lim := s.inForce (Reg.OUT_LIM k)
  let atk := fld (s.inForce (Reg.OUT_ATK (fld lim 13 10))) 30 0
  let rel := fld (s.inForce (Reg.OUT_REL (fld lim 17 14))) 30 0
  let peers := if s.linked k then (s.members (s.limLink k)).filter (fun m => s.linked m) else []
  let q := s.snk k
  let all := xs.reverse ++ q.hist
  let r := forN 8 ([], (q.g, one30)) (fun (acc : List Int × (Nat × Nat)) j =>
    let x := all.getD (7 - j + la) 0
    if s.limOn k then
      let t := peers.foldl (fun m p => Nat.min m (aget f.tval one30 (8 * p + j))) (own.getD j one30)
      let g := acc.2.1
      let o := limStep g t (if t < g then atk else rel) x thr
      (acc.1 ++ [o.2], (o.1, Nat.min acc.2.2 o.1))
    else (acc.1 ++ [x], acc.2))
  let hist := all.take 32
  let hist := if hist.all (fun x => x == 0) then [] else hist
  let s := s.setSnk k { q with g := r.2.1, gmin := Nat.min q.gmin r.2.2, hist := hist }
  (r.1, if s.limOn k then s.note (regKey Reg.OUT_SGAIN k) (wd (2147483648 + r.2.2)) else s)

/-! ### Decimation (R313, R314) and format reduction (R315 to R318) -/

/-- Coefficient `j` of OUT_HBC (R314). A half-band filter (R313) has 1/2 at its centre, tap 63, and 0 at every tap an even
distance from it. -/
def hbCoef (j : Nat) : Word := if j = 63 then 0x20000000 else if j % 2 = 1 then 0 else Config.halfBand j

/-- Tap `i` of the filter, symmetric about tap 63. -/
def hbTap (i : Nat) : Int := (hbCoef (if i ≤ 63 then i else 126 - i)).toInt

/-- The filter over the samples, newest first. -/
def hbFir (l : List Int) : Int :=
  sat32 (roundHalfUp (l.zipIdx.foldl (fun a e => if e.2 < 127 then a + hbTap e.2 * e.1 else a) 0) 1073741824)

/-- The filtered house samples of a RATE48 sink; other sinks pass unchanged. -/
def decStage (k : Nat) (xs : List Int) (s : State) : List Int × State :=
  let q := s.snk k
  if bit (s.outFmt k) 3 then
    let all := xs.reverse ++ q.fir
    ((List.range 8).map (fun j => hbFir (all.drop (7 - j))), s.setSnk k { q with fir := all.take 126 })
  else (xs, if q.fir = [] then s else s.setSnk k { q with fir := [] })

/-- One step of the generator of R318. -/
def xorshift (st : Word) : Word :=
  let a := st ^^^ (st <<< 13)
  let b := a ^^^ (a >>> 17)
  b ^^^ (b <<< 5)

/-- The seed of R318. -/
def ditherSeed (n k : Nat) : Word :=
  let st := wd n ^^^ wd (k * 0x9E3779B9)
  if st = 0 then 1 else st

/-- Format reduction of the samples of one sink (Table 5.6); whether a clamp changed one. -/
def reduce (fmt : Word) (n k : Nat) (xs : List Int) : List Int × Bool :=
  let one := fun (d x : Int) =>
    match fld fmt 1 0 with
    | 0 => (x, x)
    | 1 => (sat24 (roundHalfUp (x + d) 16), roundHalfUp (x + d) 16)
    | 2 => (clampI (-32768) 32767 (roundHalfUp (x + d) 4096), roundHalfUp (x + d) 4096)
    | _ => (satAmp x, x)
  let b := if fld fmt 1 0 = 1 then 4 else 12
  let dith := bit fmt 2 && (fld fmt 1 0 == 1 || fld fmt 1 0 == 2)
  let r := xs.foldl (fun (acc : (List Int × Bool) × Word) x =>
    let s1 := xorshift acc.2
    let s2 := xorshift s1
    let d : Int := if dith then ((s1.toNat % 2 ^ b + s2.toNat % 2 ^ b : Nat) : Int) - (2 ^ b - 1) else 0
    let y := one d x
    ((acc.1.1 ++ [y.1], acc.1.2 || decide (y.1 ≠ y.2)), s2)) (([], false), ditherSeed n k)
  r.1

/-- Sink `k` of folio `n` through the whole chain (R293). While PS6 is off a sink with a line outputs 0 (R321). -/
def chainSink (n k : Nat) (s : State) : State :=
  match s.fol? n with
  | none => s
  | some f =>
    let off := (s.snk k).on && !s.domOn 6
    let s := s.evtIf off Reg.OUT_EVT 5
    let (xs, s) := delayOf f k s
    let (ys, s) := limStage f k xs s
    let (zs, s) := decStage k ys s
    let zs := if off then List.replicate 8 0 else zs
    let s := tapPoint 4 n (fun c => c == k) (fun _ j => wdi (zs.getD j 0)) s
    let fmt := s.outFmt k
    let zs := if bit fmt 3 then [zs.getD 0 0, zs.getD 2 0, zs.getD 4 0, zs.getD 6 0] else zs
    let (os, clip) := if off then (zs, false) else reduce fmt n k zs
    let s := s.evtIf clip Reg.OUT_EVT 0
    let s := if clip then s.count Reg.OUT_CNT_CLIP 1 51 else s
    s.updFol n (fun f => { f with out := (os.map wdi).zipIdx.foldl (fun l e => setSmp l k e.2 e.1) f.out })

/-! ### One group (R98) -/

/-- The groups that hold a member linked with a member of group `g`. -/
def State.linkedGroups (s : State) (g : Nat) : List Nat :=
  addAll [] ((((List.range 40).map (fun i => 40 * g + i)).flatMap (fun k =>
    if s.linked k then s.members (s.limLink k) else [])).map (fun k => k / 40))

/-- LIMERR for a member excluded from its link (R310). -/
def linkErrors (g : Nat) (s : State) : State :=
  s.evtIf ((List.range 40).any (fun i =>
    s.limOn (40 * g + i) && decide (s.limLink (40 * g + i) ≠ 0) && !s.linked (40 * g + i))) Reg.OUT_EVT 2

/-- The envelope of amplifier channel `c` in folio `n` (R320). -/
def Fol.envelope (f : Fol) (c : Nat) : Nat :=
  (List.range 8).foldl (fun m j => Nat.max m (smp f.out (2528 + c) j).toInt.natAbs) 0

/-- ENVELOPE of output folio `n + 2` (Table 7.4). -/
def envelopeBytes (f : Fol) : List Byte :=
  leBytes (f.n + 2) 6 ++ [0, 0] ++ (List.range 32).flatMap (fun c => leBytes (f.envelope c) 4)

/-- The checksum of the sink chain outputs (R574). -/
def State.checksum (s : State) (f : Fol) : Word :=
  crc32 ((List.range 2560).flatMap (fun k =>
    (List.range (if bit (s.outFmt k) 3 then 4 else 8)).flatMap (fun j => leBytes (smp f.out k j).toNat 4)))

/-- The oldest posted folio whose group `g` is FINAL and not processed. -/
def State.chainFolio (s : State) (g : Nat) : Option Fol :=
  s.pst.fols.find? (fun f => f.posted && decide (f.entry g = .final) && !f.chained.contains g)

/-- The sink chain processes group `g` of the oldest folio in which it is FINAL, from P(n) on and after every older
folio (R98); linked limiters wait for one another's groups. Its reads of Vault-D meet the words `corrected` with a
correctable error and the words `bad` with an uncorrectable one (R322). -/
def sinkChainGroupOp (g : Nat) (corrected bad : List Nat) (s : State) : State :=
  match s.chainFolio g with
  | none => s
  | some f =>
    let older := s.pst.fols.any (fun x => decide (x.n < f.n) && x.posted && decide (x.chained.length < 64))
    if older then s
    else
      let s := if f.chained = [] then applyStaged f.n s else s
      if (s.linkedGroups g).any (fun h => decide (f.entry h ≠ .final) && !f.chained.contains h) then s
      else
        let s := linkErrors g (linkTargets f.n g (chainErrors g corrected bad s))
        let s := forN 40 s (fun s i => chainSink f.n (40 * g + i) s)
        let s := s.updFol f.n (fun f => { f.setEntry g .free with chained := f.chained ++ [g] })
        match s.fol? f.n with
        | none => s
        | some f =>
          let s := if g = 63 ∧ s.isA then s.hostQueue 2 (envelopeBytes f) else s
          if f.chained.length = 64 then
            { s with hng := { s.hng with csums := ((f.n + 2, s.checksum f) :: s.hng.csums).take 8 } }
          else s

def execSinkChainGroup (g : ChainReads) (s : State) : Host.Outcome State Fault Refusal :=
  hostDo s (sinkChainGroupOp g.group g.corrected g.bad)

end Sys2Proof.Machine
end

