-- ==== Sys2Proof/Machine/Exchange.lean ====
section
/-! DEFINITION. The Exchange (chapter 5): configuration, channel states, samples, slips and status records. Measured
rates are given in mHz, deviations in 10^-9. -/

namespace Sys2Proof.Machine

def State.exc (s : State) (c : Nat) : ExcCh := aget s.out.exc ExcCh.reset c

def State.setExc (s : State) (c : Nat) (x : ExcCh) : State := s.setOut { s.out with exc := aput s.out.exc ExcCh.reset c x }

/-- Channels 0 to 255 are asynchronous (R272). -/
def excAsync (c : Nat) : Bool := decide (c < 256)

/-- An input binding that an Exchange channel accepts (R273). -/
def excInOk (b : Nat) : Bool :=
  let i := b % 4096
  match b / 4096 % 16 with
  | 2 => decide (i < 512)
  | 3 => true
  | 6 => decide (i < 128)
  | _ => false

/-! ### Rings in Vault-S (Table 5.4) -/

/-- The part of the Exchange region that belongs to channel `c`. -/
def excBase (c : Nat) : Nat := if excAsync c then 0x40C00000 + c * 0x1000 else 0x40D00000 + (c - 256) * 0x400

/-- Input samples, and house samples, that the rings of channel `c` hold. -/
def excRingLen (c : Nat) : Nat := if excAsync c then 768 else 192
def excHouseLen (c : Nat) : Nat := if excAsync c then 256 else 64

/-- The channel of an address in the Exchange region. -/
def excOfAddr (a : Nat) : Nat :=
  if a < 0x40D00000 then (a - 0x40C00000) / 4096 else 256 + (a - 0x40D00000) / 1024

/-- An input sample enters the ring of channel `c` (R281, R289). -/
def excPush (c : Nat) (e : ExcIn) (s : State) : State :=
  let x := s.exc c
  (s.wrWord (excBase c + 4 * (x.wpos % excRingLen c)) e.v).setExc c { x with
    ring := (e :: x.ring).take (excRingLen c), wpos := x.wpos + 1, taint := x.taint - 1 }

/-- A sample of input `b` reaches every enabled channel bound to it. -/
def excFeed (b : Nat) (e : ExcIn) (s : State) : State :=
  s.out.exc.foldl (fun s x => if bit x.2.cfg 31 && fld x.2.cfg 15 0 == b then excPush x.1 e s else s) s

/-- A Clearinghouse write has met the rings of channel `c`: an enabled channel has undefined content until its ring is
written anew (R290). -/
def excTaint (c : Nat) (s : State) : State :=
  let x := s.exc c
  if bit x.cfg 31 then
    let s := s.setExc c { x with taint := excRingLen c }
    let free := s.free
    (s.setOut { s.out with excNow := setSmps s.out.excNow c (fun j => Config.freeWord (free + j)) }).useFree 8
  else s

/-! ### Configuration (R273, R277) -/

/-- A write of EXC_CFGc: checked (R273, Table 5.1); it takes effect at the next mix slot boundary (R277). -/
def excCfgWriteOp (c : Nat) (v : Word) (s : State) : State :=
  if !excInOk (fld v 15 0) || (!excAsync c && decide (4 < fld v 18 16)) then s.evt Reg.EXC_EVT 5
  else
    let s := s.typeWrite (Reg.EXC_CFG c) v
    s.setExc c { s.exc c with pend := some (s.reg (Reg.EXC_CFG c)) }

def execExcCfgWrite (c : Nat) (v : Word) (s : State) : Host.Outcome State Fault Refusal :=
  hostDo s (regRow (Reg.EXC_CFG c) (excCfgWriteOp c v))

/-- A channel restarts (R277): its rings are empty, so that its output is 0 until input comes. -/
def ExcCh.restart (c : Nat) (x : ExcCh) : ExcCh :=
  { x with
    st := if excAsync c then .acquire else .locked, fill := if excAsync c then x.fill else 96, syncErr := false,
    fadeIn := 0, fadeOut := none, dev := 0, drift := 0, ring := [], taint := 0, zeroFrom := none }

/-- The pending configuration of a channel comes into force (R277, R283). -/
def excTake (c : Nat) (s : State) : State :=
  let x := s.exc c
  match x.pend with
  | none => s
  | some v =>
    let y := { x with cfg := v, pend := none }
    if !bit v 31 then s.setExc c { y with st := .off, fadeIn := 0, fadeOut := none, ring := [], taint := 0 }
    else if !bit x.cfg 31 then s.setExc c { y.restart c with slips := 0, losses := 0 }
    else if fld v 15 0 ≠ fld x.cfg 15 0 ∨ (!excAsync c ∧ fld v 18 16 ≠ fld x.cfg 18 16) then s.setExc c (y.restart c)
    else s.setExc c y

/-- The mix slot boundary of the Exchange (R277). -/
def excBoundary (s : State) : State := s.out.exc.foldl (fun s e => excTake e.1 s) s

/-- The rate that the estimator shows for the timestamps of a channel, at the bandwidth of EXC_CTRL.ABW, 0b11 as 0b01
(R281, R282); without input it keeps its value. -/
def State.excEstimate (s : State) (x : ExcCh) : Word :=
  let abw := s.rf Reg.EXC_CTRL 2 1
  if x.ring = [] then x.rate else Config.rateEstimate (if abw = 3 then 1 else abw) (x.ring.map (fun e => (e.stamp, e.idx)))

/-- 100 ms within ±1/256 sample in ACQUIRE: LOCKED, and a fade-in from the next folio (R283, R284). -/
def acquireLockOp (c : Nat) (s : State) : State :=
  let x := s.exc c
  if excAsync c ∧ x.st = .acquire then
    (s.setExc c { x with st := .locked, fadeIn := 0, fadeOut := none, rate := s.excEstimate x }).evt Reg.EXC_EVT 0
  else s

def execAcquireLock (c : Nat) (s : State) : Host.Outcome State Fault Refusal := hostDo s (acquireLockOp c)

def rateInRange (mhz : Nat) : Bool := decide (8000000 ≤ mhz) && decide (mhz ≤ 216000000)

/-- f_in / 96,000 in 2.30 fixed point (R281). -/
def excRateWord (mhz : Nat) : Word := wd (mhz * 2 ^ 30 / 96000000)

/-- Input samples per folio of a synchronous rate code, as a fraction (Table 5.1). -/
def syncPerFolio (code : Nat) : Nat × Nat :=
  match code with
  | 0 => (8, 3)
  | 1 => (147, 40)
  | 2 => (4, 1)
  | 3 => (147, 20)
  | _ => (16, 1)

/-- The ratio of a channel in 2.30 fixed point: the fixed one of its code, or the measured one (R278, R281). -/
def ExcCh.ratio (x : ExcCh) (c : Nat) : Nat :=
  if excAsync c then x.rate.toNat else let r := syncPerFolio (fld x.cfg 18 16); r.1 * 2 ^ 30 / (8 * r.2)

/-- The input sample period in thirds of a tick, of which a house sample has 32,000; 0 before a rate is measured. -/
def ExcCh.period (x : ExcCh) (c : Nat) : Nat := 32000 * 2 ^ 30 / x.ratio c

/-- The instant of an input sample in thirds of a tick. -/
def ExcCh.instant (x : ExcCh) (c : Nat) (e : ExcIn) : Nat := 3 * e.stamp + e.idx * x.period c

/-- The first input sample period without a sample, after the newest sample that came. -/
def ExcCh.missing (x : ExcCh) (c : Nat) : Option Nat := (x.ring.find? (·.got)).map (fun e => x.instant c e + x.period c)

/-- Loss of input: LOCKED to LOST, counted; out of range also RANGE (R283, R285). From the first missing period on, or
from now where samples still come, the input is 0. -/
def inputLossOp (c rate : Nat) (s : State) : State :=
  let x := s.exc c
  if excAsync c ∧ x.st = .locked then
    let s := s.setExc c { x with
      st := .lost, rate := excRateWord rate, losses := Nat.min 65535 (x.losses + 1), fadeOut := none,
      zeroFrom := some (Nat.min (3 * s.tick) ((x.missing c).getD (3 * s.tick))) }
    ((s.evt Reg.EXC_EVT 1).evtIf (!rateInRange rate) Reg.EXC_EVT 4).count Reg.EXC_CNT_LOSS 1 50
  else s

def execInputLoss (c rate : Nat) (s : State) : Host.Outcome State Fault Refusal := hostDo s (inputLossOp c rate)

/-- A phase error beyond ±2 samples: the output fades out, then the channel is in ACQUIRE (R283, R284). -/
def phaseErrorOp (c : Nat) (s : State) : State :=
  let x := s.exc c
  if excAsync c ∧ x.st = .locked ∧ x.fadeOut = none then s.setExc c { x with fadeOut := some 0 } else s

def execPhaseError (c : Nat) (s : State) : Host.Outcome State Fault Refusal := hostDo s (phaseErrorOp c)

/-- Input samples resume within range: LOST to ACQUIRE (R283). -/
def inputResumeOp (c rate : Nat) (s : State) : State :=
  let x := s.exc c
  if excAsync c ∧ x.st = .lost ∧ rateInRange rate then
    s.setExc c { x with st := .acquire, rate := excRateWord rate, fadeIn := 0, fadeOut := none, zeroFrom := none }
  else s

def execInputResume (c rate : Nat) (s : State) : Host.Outcome State Fault Refusal := hostDo s (inputResumeOp c rate)

/-- The 1 s measurement of a synchronous channel: more than 20 ppm off is SYNCERR (R280). -/
def syncRatioCheckOp (c : Nat) (dev : Int) (s : State) : State :=
  let x := s.exc c
  if !excAsync c ∧ x.st = .locked then
    let err := decide (20000 < dev.natAbs)
    let r := syncPerFolio (fld x.cfg 18 16)
    let rate := wdi (((r.1 : Int) * 2 ^ 30 * (1000000000 + dev)) / (r.2 * 8 * 1000000000))
    (s.setExc c { x with syncErr := err, dev := dev, rate := rate }).evtIf err Reg.EXC_EVT 3
  else s

def execSyncRatioCheck (c : Nat) (dev : Int) (s : State) : Host.Outcome State Fault Refusal :=
  hostDo s (syncRatioCheckOp c dev)

/-! ### The work of one folio -/

/-- The group delay in house samples (Table 5.3). -/
def excDelay (c : Nat) : Nat := if excAsync c then 64 else 24

/-- The nominal time of house sample `j` of the input folio that ends at tick `now` (R288), in thirds of a tick. -/
def houseAt (now j : Nat) : Int := 3 * now - 32000 * (8 - j : Nat)

/-- House sample `j` lies a group delay past the first missing input sample period, or past the entry to LOST by rate
(R285). -/
def ExcCh.decayed (x : ExcCh) (c now j : Nat) : Bool :=
  match x.zeroFrom.orElse (fun _ => x.missing c) with
  | some z => decide ((z : Int) + 32000 * excDelay c ≤ houseAt now j)
  | none => true

/-- The input samples that house sample `j` is converted from: their instants less the one that it carries, a group delay
before its nominal time (R287, R288), from a group delay before that one on. -/
def ExcCh.window (x : ExcCh) (c now j : Nat) : List (Int × Int) :=
  let d : Int := 32000 * excDelay c
  let live := x.ring.filter (fun e => e.got && x.zeroFrom.all (fun z => decide (x.instant c e < z)))
  (live.map (fun e => ((x.instant c e : Int) - (houseAt now j - d), e.v.toInt))).filter (fun e => decide (-d < e.1))

/-- Sample `j` as channel `c` converts it, saturated (R275): 0 for input of value 0, and without input (R277, R285). -/
def ExcCh.value (x : ExcCh) (c now j : Nat) : Int :=
  let w := x.window c now j
  if x.decayed c now j || w.all (fun e => e.2 == 0) then 0 else sat32 (Config.convert (x.ratio c) w)

/-- Sample `j` of channel `c` for the input folio that ends at tick `now`, with its fades (R283 to R285). -/
def ExcCh.sample (x : ExcCh) (c now j : Nat) : Word :=
  let v := x.value c now j
  match x.st with
  | .off => 0
  | .acquire => 0
  | .lost => wdi v
  | .locked =>
    if !excAsync c then wdi v
    else
      match x.fadeOut with
      | some k => if k + j < 95 then wdi (roundHalfUp (v * (96 - (k + j + 1) : Nat)) 96) else 0
      | none => if x.fadeIn + j < 95 then wdi (roundHalfUp (v * (x.fadeIn + j + 1 : Nat)) 96) else wdi v

/-- An input sample repeated, where too few are left, or dropped (R279): the newest one. -/
def slipRing (repeat_ : Bool) (l : List ExcIn) : List ExcIn :=
  match l with
  | [] => []
  | e :: t => if repeat_ then e :: e :: t else t

/-- The drift of a synchronous ring in one folio, and the slip when its fill leaves 32 to 160 (R279). -/
def syncAdvance (c : Nat) (s : State) : State :=
  let x := s.exc c
  if excAsync c || x.st != .locked then s
  else
    let r := syncPerFolio (fld x.cfg 18 16)
    let d := x.drift + x.dev * r.1
    let one : Int := 1000000000 * r.2
    let k := d / one
    let fill := ((x.fill : Int) + k).toNat
    let x := { x with drift := d - k * one, fill := fill }
    if fill < 32 ∨ 160 < fill then
      let s := s.setExc c { x with
        fill := if fill < 32 then fill + 1 else fill - 1, slips := Nat.min 65535 (x.slips + 1),
        ring := slipRing (decide (fill < 32)) x.ring }
      (s.count Reg.EXC_CNT_SLIP 1 50).evt Reg.EXC_EVT 2
    else s.setExc c x

/-- The fades of an asynchronous channel after its 8 samples; a finished fade-out enters ACQUIRE (R284). -/
def fadeAdvance (c : Nat) (s : State) : State :=
  let x := s.exc c
  match x.st, x.fadeOut with
  | .locked, some k =>
    if 96 ≤ k + 8 then s.setExc c { x with st := .acquire, fadeOut := none, fadeIn := 0 }
    else s.setExc c { x with fadeOut := some (k + 8) }
  | .locked, none => s.setExc c { x with fadeIn := Nat.min 96 (x.fadeIn + 8) }
  | _, _ => s

/-- EXC_CHST of channel `c`. -/
def State.excChst (s : State) (c : Nat) : Word :=
  let x := s.exc c
  wd (x.st.code * 2 ^ 30 + b2n x.syncErr * 2 ^ 29 + x.fill % 1024)

/-- The status record of channel `c` for input folio `n`, in Steward SRAM (R291). -/
def excRecord (c n : Nat) (s : State) : State :=
  let x := s.exc c
  let a := 0x011E0000 + 16 * c
  (((s.wrWord a (s.excChst c)).wrWord (a + 4) x.rate).wrWord (a + 8) (wd n)).wrWord (a + 12) (wd (x.slips + x.losses * 65536))

/-! ### AES67 samples (R480, R481) -/

def State.arx (s : State) (r : Nat) : A67 := aget s.net.arx A67.reset r

def State.setArx (s : State) (r : Nat) (x : A67) : State := { s with net := { s.net with arx := aput s.net.arx A67.reset r x } }

/-- Sample rate of an AES67 stream. -/
def a67Fs (cfg : Word) : Nat := if bit cfg 29 then 96000 else 48000

/-- Samples of an AES67 stream in a folio. -/
def a67Per (cfg : Word) : Nat := if bit cfg 29 then 8 else 4

/-- The number of the stream's sample that is `i`-th due in folio `q`, LAT × 10 µs after its instant. -/
def a67Due (cfg : Word) (q i : Nat) : Int := ((a67Per cfg * q + i : Nat) : Int) - (fld cfg 8 0 * a67Fs cfg / 100000 : Nat)

/-- The instant, in 2^-40 ns of system time, at which sample `num` of an AES67 stream is due (R480). -/
def a67DueAt (cfg : Word) (num : Int) : Int :=
  num * 1000000000 * 1099511627776 / a67Fs cfg + (fld cfg 8 0 * 10000 * 1099511627776 : Nat)

/-- The packet of stream `r` that brought sample `num` by the time at which it is due. -/
def State.a67Brought (s : State) (r : Nat) (num : Int) : Option A67Got :=
  let cfg := s.reg (Reg.DVT_A67RXCFG r)
  (s.arx r).got.find? (fun g => decide ((g.num : Int) ≤ num ∧ num < g.num + g.cnt ∧ g.t ≤ a67DueAt cfg num))

/-- Stream `r` carries AES67 channel `ch` (0 to 127). -/
def State.a67Carries (s : State) (r ch : Nat) : Bool :=
  let cfg := s.reg (Reg.DVT_A67RXCFG r)
  s.rb Reg.DVT_CTRL 0 && bit cfg 31 && decide (fld cfg 21 15 ≤ ch) && decide (ch < fld cfg 21 15 + fld cfg 28 22)

/-- AES67 samples due in input folio `n` reach the channels bound to them, each at the instant at which it is due (R480);
one that has not arrived then reads 0. -/
def excAes67 (n c : Nat) (s : State) : State :=
  let b := fld (s.exc c).cfg 15 0
  let ch := b % 4096
  if b / 4096 ≠ 6 then s
  else
    match (List.range 16).find? (fun r => s.a67Carries r ch) with
    | none => s
    | some r =>
      let cfg := s.reg (Reg.DVT_A67RXCFG r)
      forN (a67Per cfg) s (fun s i =>
        let num := a67Due cfg n i
        let g := s.a67Brought r num
        let v := match g with
          | some g => g.words.getD ((num - g.num).toNat * fld cfg 28 22 + (ch - fld cfg 21 15)) 0
          | none => 0
        excPush c ⟨(s.thirdsAt (a67DueAt cfg num) / 3).toNat, 0, v, g.isSome⟩ s)

/-- The 8 house samples of channel `c` for input folio `n`, written into its output ring (R276, R289); free values while
its content is undefined (R290). -/
def excRender (n c : Nat) (s : State) : State :=
  let s := excAes67 n c s
  let x := s.exc c
  let x := if excAsync c && (x.st == .acquire || x.st == .locked) then { x with rate := s.excEstimate x } else x
  let s := s.setExc c x
  let v := fun j => if x.taint = 0 then x.sample c s.tick j else Config.freeWord (s.free + j)
  let a := excBase c + 4 * excRingLen c
  let s := forN 8 s (fun s j => s.wrWord (a + 4 * ((8 * n + j) % excHouseLen c)) (v j))
  let s := s.setOut { s.out with excNow := setSmps s.out.excNow c v }
  if x.taint = 0 then s else s.useFree 8

/-- The Exchange at A(n): 8 samples of every enabled channel (R276), slips, fades and records. -/
def excFolio (n : Nat) (s : State) : State :=
  let on := (s.out.exc.filter (fun e => decide (e.2.st ≠ .off))).map (·.1)
  let s := s.setOut { s.out with excNow := [] }
  on.foldl (fun s c => fadeAdvance c (syncAdvance c (excRecord c n (excRender n c s)))) s

/-- EXC_STATUS. -/
def State.excStatus (s : State) : Word :=
  let a := (s.out.exc.filter (fun e => excAsync e.1 && decide (e.2.st = .locked))).length
  let y := (s.out.exc.filter (fun e => !excAsync e.1 && decide (e.2.st = .locked) && !e.2.syncErr)).length
  wd (y * 65536 + a)

/-- PS8 switched on: every channel OFF, EXC_CFGc at its reset value (R292). -/
def excPowerOn (s : State) : State :=
  (s.setOut { s.out with exc := [], excNow := [] }).resetRegs (Reg.EXC_CFG 0) (Reg.EXC_CFG 1280)

end Sys2Proof.Machine
end

