-- ==== Sys2Proof/Machine/Local.lean ====
section
/-! DEFINITION. Serial audio ports and Till ports (chapter 12). -/

namespace Sys2Proof.Machine

/-! ### Serial audio ports -/

def State.sapPort (s : State) (n : Nat) : SapPort := aget s.sap SapPort.reset n

def State.setSap (s : State) (n : Nat) (p : SapPort) : State := { s with sap := aput s.sap SapPort.reset n p }

def State.sapOn (s : State) (n : Nat) : Bool := s.rb (Reg.SAP_CFG n) 31
def State.sapMaster (s : State) (n : Nat) : Bool := s.rb (Reg.SAP_CFG n) 30
def State.sap48 (s : State) (n : Nat) : Bool := s.rb (Reg.SAP_CFG n) 27
def State.sapTdm (s : State) (n : Nat) : Bool := decide (s.rf (Reg.SAP_CFG n) 29 28 = 2)

/-- Bit clocks per frame and slots per port (Table 12.1). -/
def State.sapBits (s : State) (n : Nat) : Nat := if s.sapTdm n then (if s.sap48 n then 512 else 256) else 64
def State.sapSlots (s : State) (n : Nat) : Nat := if s.sapTdm n then (if s.sap48 n then 32 else 16) else 4

/-- Bits of a slot word by WL (R643). -/
def wlBits (wl : Nat) : Nat := if wl = 0 then 24 else if wl = 1 then 16 else 32

/-- A slot word as its source gets it (R644). -/
def wlIn (wl : Nat) (w : Word) : Word :=
  match wl with
  | 0 => wdi (signed 24 w.toNat * 16)
  | 1 => wdi (signed 16 w.toNat * 4096)
  | _ => w

/-! Pins (R640 to R643) -/

/-- The 32 bit clocks of an output slot: its word, most significant bit first, then 0. -/
def slotBits (wl : Nat) (w : Word) : List Bool :=
  (List.range 32).map (fun i => decide (i < wlBits wl) && w.toNat.testBit (wlBits wl - 1 - i))

/-- Data line `d` of port `n` while it sends a frame: slot s stands on line floor(s / S) in position s mod S. -/
def State.sapLine (s : State) (n d : Nat) (frame : List Word) : List Bool :=
  let per := s.sapSlots n / 2
  (List.range per).flatMap (fun k => slotBits (s.rf (Reg.SAP_CFG n) 26 25) (frame.getD (d * per + k) 0))

/-- The level of FS in bit clock `b` of a frame (R641). -/
def State.sapFs (s : State) (n b : Nat) : Bool :=
  match s.rf (Reg.SAP_CFG n) 29 28 with
  | 0 => decide (31 ≤ b ∧ b < 63)
  | 1 => decide (b < 32)
  | _ => if s.rb (Reg.SAP_CFG n) 23 then b + 1 == s.sapBits n else b == 0

/-! Alignment -/

/-- The present folio start in thirds of a TCNT tick, for folio `f`. -/
def State.folioThirds (s : State) (f : Nat) : Int := s.thirdsAt (((f : Int) * 1000000 * 1099511627776) / 12)

/-- The first AUDIO edge at or after the start of the present folio, and that folio: an AUDIO cycle is 125 thirds of a
tick. -/
def State.sapPlaced (s : State) : Int × Nat :=
  let f := folioOf s.sysT
  (-(-(s.folioThirds f) / 125), f)

/-- A master port places its frames on the folio (R648). -/
def sapPlace (n : Nat) (s : State) : State := s.setSap n { s.sapPort n with al := some s.sapPlaced }

/-- SAP_CFGn as a write leaves it: a reserved FMT or WL, and a change of FMT, RATE or MASTER while enabled, is ignored. -/
def sapCfgTaken (old v : Word) : Word :=
  let keep := fun (hi lo : Nat) (bad : Bool) (w : Word) => if bad then putFld w hi lo (fld old hi lo) else w
  keep 29 28 (fld v 29 28 == 3 || bit old 31) (keep 27 27 (bit old 31) (keep 30 30 (bit old 31) (keep 26 25 (fld v 26 25 == 3) v)))

/-- A write of SAP_CFGn: the fields that may not change keep their value, with CFGERR. Enabling a master aligns it (R648);
enabling a slave starts both crossings at their nominal fill (R653). -/
def sapCfgWriteOp (n : Nat) (v : Word) (s : State) : State :=
  let old := s.reg (Reg.SAP_CFG n)
  let w := sapCfgTaken old v
  let s := (s.typeWrite (Reg.SAP_CFG n) w).evtIf (w != v) Reg.SAP_EVT 2
  if bit w 31 ∧ !bit old 31 then
    if bit w 30 then sapPlace n s
    else s.setSap n { SapPort.reset with rx := List.replicate 32 [], tx := List.replicate 32 [] }
  else if !bit w 31 then s.setSap n SapPort.reset
  else s

def execSapEnable (n : Nat) (v : Word) (s : State) : Host.Outcome State Fault Refusal :=
  hostDo s (regRow (Reg.SAP_CFG n) (sapCfgWriteOp n v))

/-- A write of SAP_ALIGN re-aligns the enabled master ports whose bit is set (R648). -/
def sapAlignOp (v : Word) (s : State) : State :=
  (maskList (fld v 15 0) 16).foldl (fun s n => if s.sapOn n && s.sapMaster n then sapPlace n s else s) s

def execSapAlign (v : Word) (s : State) : Host.Outcome State Fault Refusal := hostDo s (regRow Reg.SAP_ALIGN (sapAlignOp v))

/-- A slip counted (R650, R653). -/
def sapSlip (s : State) : State := (s.count Reg.SAP_CNT_SLIP 1 58).evt Reg.SAP_EVT 0

/-- One frame dropped or repeated in a direction whose fill left 16 to 48 (R653); whether one was. -/
def slipFrames (l : List (List Word)) : List (List Word) × Bool :=
  if 48 < l.length then (l.drop 1, true)
  else if l.length < 16 then
    match l with
    | [] => ([[]], true)
    | a :: t => (a :: a :: t, true)
  else (l, false)

/-- The fill checks of both directions of a slave port. -/
def sapFills (n : Nat) (s : State) : State :=
  let p := s.sapPort n
  let a := slipFrames p.rx
  let b := slipFrames p.tx
  let s := s.setSap n { p with rx := a.1, tx := b.1 }
  let s := if a.2 then (sapSlip s).cdcErr 1 else s
  if b.2 then (sapSlip s).cdcErr 1 else s

/-- The slots of a frame of port `n` reach the Exchange channels bound to them, with the frame's timestamp (R654). -/
def sapToExc (n : Nat) (w : Nat → Word) (stamp idx : Nat) (s : State) : State :=
  let wl := s.rf (Reg.SAP_CFG n) 26 25
  forN (s.sapSlots n) s (fun s i => excFeed (0x2000 + 32 * n + i) ⟨stamp, idx, wlIn wl (w i), true⟩ s)

/-- The tick at which the frame of house sample `j` of folio `n` starts on a master port: it keeps its cadence in
AUDIO cycles from its alignment on (R648). -/
def State.frameTick (s : State) (p n j : Nat) : Nat :=
  match (s.sapPort p).al with
  | some (e, f0) => (125 * (e + 2048 * ((n : Int) - f0) + 256 * j) / 3).toNat
  | none => ((s.folioThirds n + 32000 * j) / 3).toNat

/-- A slave port receives a frame and sends one; a frame of another length is discarded with FSERR (R652, R653). -/
def slaveFrameOp (n bits : Nat) (ws : List Word) (s : State) : State :=
  if !s.sapOn n || s.sapMaster n then s
  else if bits ≠ s.sapBits n then s.evt Reg.SAP_EVT 3
  else
    let p := s.sapPort n
    let s := sapToExc n (fun i => ws.getD i 0) s.tick 0 s
    sapFills n (s.setSap n { p with rx := p.rx ++ [ws], tx := p.tx.drop 1 })

def execSlaveFrame (n bits : Nat) (ws : List Word) (s : State) : Host.Outcome State Fault Refusal :=
  hostDo s (slaveFrameOp n bits ws)

/-- Source assembly takes `k` frames of a slave port; an empty crossing repeats the last. -/
def takeFrames : Nat → List (List Word) → List Word → List (List Word) × (List (List Word) × List Word)
  | 0, rx, last => ([], (rx, last))
  | k + 1, rx, last =>
    let a := match rx with
      | [] => last
      | f :: _ => f
    let r := takeFrames k (rx.drop 1) a
    (a :: r.1, r.2)

/-- The slots of port `p` for input folio `n` (R647, R651). On a 48 kHz port frame i gives sample 2i; a direct binding
reads no stated value between. -/
def sapCapture (n p : Nat) (s : State) : State :=
  if !s.sapOn p then s
  else
    let wl := s.rf (Reg.SAP_CFG p) 26 25
    let per := if s.sap48 p then 4 else 8
    let q := s.sapPort p
    let taken := if s.sapMaster p then ([], (q.rx, q.last)) else takeFrames per q.rx q.last
    let word := fun slot j =>
      if s.sap48 p && j % 2 == 1 then Config.sapInput p slot n (8 + j)
      else
        let i := if s.sap48 p then j / 2 else j
        if s.sapMaster p then Config.sapInput p slot n j else (taken.1.getD i []).getD slot 0
    let now := forN (s.sapSlots p) [] (fun l slot => setSmps l slot (fun j =>
      if q.slipIn = some false ∧ j = 0 then smp q.now slot (if s.sap48 p then 6 else 7) else wlIn wl (word slot j)))
    let s := s.setSap p { q with rx := taken.2.1, last := taken.2.2, now := now, slipIn := none }
    if s.sapMaster p then
      forN per s (fun s i =>
        let j := if s.sap48 p then 2 * i else i
        sapToExc p (fun slot => Config.sapInput p slot n j) (s.frameTick p n j) 0 s)
    else sapFills p s

/-- PHASE of a master port at the folio start of `f`, in AUDIO cycles (R650): a folio is 2,048 cycles. -/
def State.sapPhase (s : State) (p f : Nat) : Int :=
  match (s.sapPort p).al with
  | none => 0
  | some (e, f0) => (125 * (e + 2048 * ((f : Int) - f0)) - s.folioThirds f) / 125

/-- At a folio boundary a master port re-aligns if its phase is beyond 128 cycles: a port that runs late drops a frame
in each direction, one that runs early repeats one (R650). -/
def sapBoundary (f p : Nat) (s : State) : State :=
  if !(s.sapOn p && s.sapMaster p) then s
  else
    let ph := s.sapPhase p f
    if 128 < ph.natAbs then
      let s := sapPlace p s
      let drop := some (decide (0 < ph))
      (sapSlip (s.setSap p { s.sapPort p with slipIn := drop, slipOut := drop })).evt Reg.SAP_EVT 1
    else s

/-- The frames that go out after a re-alignment: the first is dropped, or repeated. -/
def slipped (slip : Option Bool) (frames : List (List Word)) : List (List Word) :=
  match slip with
  | none => frames
  | some true => frames.drop 1
  | some false => frames.take 1 ++ frames

/-- Sample `j` of sink `k` as a destination that needs this format and rate carries it, and whether it mismatches
(R319); a number that names no sink sends 0. -/
def State.destSample (s : State) (f : Fol) (k fmt : Nat) (r48 : Bool) (j : Nat) : Word × Bool :=
  if 2560 ≤ k then (0, false)
  else if fld (s.outFmt k) 1 0 = fmt ∧ bit (s.outFmt k) 3 = r48 then (smp f.out k j, false)
  else (0, true)

/-- OUT format that a WL needs (R645). -/
def wlFmt (wl : Nat) : Nat := if wl = 0 then 1 else if wl = 1 then 2 else 0

/-- SAP_OMAP entry of slot `i` of port `p`. -/
def omapReg (p i : Nat) : Nat := Reg.SAP_OMAP (32 * p + i)

/-- The output frames of port `p` for the rendered folio `f` (R645, R649, R653). `l1` gives what slot `i` plays at house
sample `j` in place of a word while the level-1 path plays there (R702, R704). -/
def sapEgress (f : Option Fol) (l1 : Nat → Nat → Word → Word) (p : Nat) (s : State) : State :=
  if !s.sapOn p then s
  else
    let wl := s.rf (Reg.SAP_CFG p) 26 25
    let slots := (List.range (s.sapSlots p)).map (fun i => s.reg (omapReg p i))
    let word := fun (w : Word) j => match f with
      | some f => if bit w 31 then s.destSample f (fld w 11 0) (wlFmt wl) (s.sap48 p) j else (0, false)
      | none => (0, false)
    let per := if s.sap48 p then 4 else 8
    let frames := (List.range per).map (fun j => slots.zipIdx.map (fun e =>
      wd ((l1 e.2 (if s.sap48 p then 2 * j else j) (word e.1 j).1).toNat % 2 ^ wlBits wl)))
    let s := s.evtIf (slots.any (fun w => (word w 0).2)) Reg.OUT_EVT 6
    let q := s.sapPort p
    if s.sapMaster p then s.setSap p { q with tx := slipped q.slipOut frames, slipOut := none } else sapFills p (s.setSap p { q with tx := q.tx ++ frames })

/-- A write of a SAP_OMAP entry (R646). -/
def omapWrite (a : Nat) (v : Word) (s : State) : State :=
  if s.isA ∧ 2528 ≤ fld v 11 0 ∧ fld v 11 0 < 2560 then s.evt Reg.SAP_EVT 2 else s.typeWrite a v

/-! ### Till ports -/

def State.till (s : State) (n : Nat) : TillPort := aget s.til TillPort.reset n

def State.setTill (s : State) (n : Nat) (p : TillPort) : State := { s with til := aput s.til TillPort.reset n p }

def State.tilCfg (s : State) (n : Nat) : Word := s.reg (Reg.TIL_CFG n)
def State.tilNch (s : State) (n : Nat) : Nat := fld (s.tilCfg n) 10 0

/-- XOFF rises at HIGH and falls at LOW (R662). -/
def xoffOf (wm : Word) (fill : Nat) (was : Bool) : Bool :=
  if fld wm 30 16 ≤ fill then true else if fill ≤ fld wm 14 0 then false else was

/-- A sample in the format of TIL_CFG.FMT as its source gets it (R658). -/
def tillIn (cfg w : Word) : Word := if bit cfg 29 then wdi (signed 24 (fld w 31 8) * 16) else w

/-- A word of a frame reaches the Exchange channels bound to its channel. The tick at which the header crossed the
interface is the timestamp of sample 0; later samples of the frame go by their number (R667). -/
def tillToExc (n : Nat) (w : Word) (first : Bool) (s : State) : State :=
  let p := s.till n
  if first then s.setTill n { p with hdrAt := s.tick, pos := 0 }
  else
    let nch := Nat.max 1 (s.tilNch n)
    let s := s.setTill n { p with pos := p.pos + 1 }
    if p.pos < 8 * nch then
      excFeed (0x3000 + 1024 * n + p.pos % nch) ⟨p.hdrAt, p.pos / nch, tillIn (s.tilCfg n) w, true⟩ s
    else s

/-- A received word (R660, R662, R664). -/
def tillWordReceivedOp (n : Nat) (w : Word) (first : Bool) (s : State) : State :=
  let p := s.till n
  if !bit (s.tilCfg n) 31 || (p.discard && !first) then s
  else if 16384 ≤ p.rx.length then
    ((s.setTill n { p with discard := true }).evt Reg.TIL_EVT (4 * n + 1)).cdcErr 2
  else
    let rx := p.rx ++ [(w, first)]
    tillToExc n w first
      (s.setTill n { p with rx := rx, discard := false, xoff := xoffOf (s.reg (Reg.TIL_WM n)) rx.length p.xoff })

def execTillWordReceived (n : Nat) (w : Word) (first : Bool) (s : State) : Host.Outcome State Fault Refusal :=
  hostDo s (tillWordReceivedOp n w first)

/-- TILL_HOLDn changes (R666). -/
def tillHoldOp (n : Nat) (high : Bool) (s : State) : State := s.setTill n { s.till n with hold := high }

def execTillHold (n : Nat) (high : Bool) (s : State) : Host.Outcome State Fault Refusal := hostDo s (tillHoldOp n high)

/-- One word leaves the transmit side unless it is empty or held (R666). -/
def tillWordSentOp (n : Nat) (s : State) : State :=
  let p := s.till n
  match p.tx with
  | [] => s
  | w :: t => if p.hold || !bit (s.tilCfg n) 30 then s else s.setTill n { p with tx := t, sent := some w }

def execTillWordSent (n : Nat) (s : State) : Host.Outcome State Fault Refusal := hostDo s (tillWordSentOp n)

/-- A write of TIL_WMn (R663). -/
def tilWmWriteOp (n : Nat) (v : Word) (s : State) : State :=
  if fld v 14 0 < fld v 30 16 ∧ fld v 30 16 ≤ 16384 then
    let s := s.typeWrite (Reg.TIL_WM n) v
    let p := s.till n
    s.setTill n { p with xoff := xoffOf (s.reg (Reg.TIL_WM n)) p.rx.length p.xoff }
  else s.evt Reg.TIL_EVT 16

def execTilWmWrite (n : Nat) (v : Word) (s : State) : Host.Outcome State Fault Refusal :=
  hostDo s (regRow (Reg.TIL_WM n) (tilWmWriteOp n v))

/-- A write of TIL_CFGn: a reserved DIV, and an NCH out of range or changed while enabled, keep their value, with
CFGERR. -/
def tilCfgWrite (n : Nat) (v : Word) (s : State) : State :=
  let old := s.tilCfg n
  let nch := fld v 10 0
  let w := if fld v 28 27 = 3 then putFld v 28 27 (fld old 28 27) else v
  let w := if nch = 0 ∨ 1024 < nch ∨ bit old 31 ∨ bit old 30 then putFld w 10 0 (fld old 10 0) else w
  (s.typeWrite (Reg.TIL_CFG n) w).evtIf (w != v) Reg.TIL_EVT 16

/-- A write of a TIL_TXMAP entry (R38). -/
def txmapWrite (a : Nat) (v : Word) (s : State) : State :=
  if s.isA ∧ 2528 ≤ fld v 11 0 ∧ fld v 11 0 < 2560 then s.evt Reg.TIL_EVT 16 else s.typeWrite a v

/-- Read `k` words of the frame present: past its end, or from an empty FIFO, the last word read; the words, what is
left, the last word, and whether one was missing (R661). -/
def takeWords (k : Nat) (rx : List (Word × Bool)) (last : Word) : List Word × (List (Word × Bool) × (Word × Bool)) :=
  let body := match rx with
    | [] => []
    | a :: t => a :: t.takeWhile (fun e => !e.2)
  let got := (body.take k).map (·.1)
  let last := got.getLastD last
  (got ++ List.replicate (k - got.length) last, (rx.drop (Nat.min k body.length), (last, decide (got.length < k))))

/-- At A(n) one frame is taken on port `n` (R661). Words that stand between it and the next header stay (log entry 160). -/
def tillTake (n : Nat) (s : State) : State :=
  if !bit (s.tilCfg n) 31 then s
  else
    let p := s.till n
    let nch := s.tilNch n
    let r := takeWords (1 + 8 * nch) p.rx p.lastWord
    let rx := r.2.1
    let short := r.2.2.2
    let hdr := fld (r.1.getD 0 0) 15 0
    let real := decide (p.rx ≠ [])
    let seqBad := match p.prevHdr with
      | some h => real && decide (hdr ≠ (h + 1) % 65536)
      | none => false
    let smps := forN nch [] (fun l c => setSmps l c (fun j => tillIn (s.tilCfg n) (r.1.getD (1 + j * nch + c) 0)))
    let s := s.setTill n { p with
      rx := rx, lastWord := r.2.2.1, discard := p.discard || (short && decide (rx = [])),
      prevHdr := if real then some hdr else p.prevHdr, samples := smps,
      xoff := xoffOf (s.reg (Reg.TIL_WM n)) rx.length p.xoff }
    let s := s.evtIf seqBad Reg.TIL_EVT (4 * n + 3)
    if short then (s.evt Reg.TIL_EVT (4 * n)).cdcErr 2 else s

/-- Egress of output folio `m`, rendered as `f`, on Till port `n` (R665). -/
def tillEgress (f : Fol) (m n : Nat) (s : State) : State :=
  if !bit (s.tilCfg n) 30 then s
  else
    let p := s.till n
    let nch := s.tilNch n
    if 16384 < p.tx.length + 1 + 8 * nch then s.evt Reg.TIL_EVT (4 * n + 2)
    else
      let fmt := bit (s.tilCfg n) 29
      let chan := fun c j => s.destSample f (s.rf (Reg.TIL_TXMAP (1024 * n + c)) 11 0) (b2n fmt) false j
      let word := fun c j => let w := (chan c j).1; if fmt then wd (w.toNat % 16777216 * 256) else w
      let body := (List.range 8).flatMap (fun j => (List.range nch).map (fun c => (word c j, false)))
      let s := s.evtIf ((List.range nch).any (fun c => (chan c 0).2)) Reg.OUT_EVT 6
      s.setTill n { p with tx := p.tx ++ (wd (0xA55A0000 + m % 65536), true) :: body }

/-- TIL_STn as it reads. -/
def State.tilSt (s : State) (n : Nat) : Word :=
  let p := s.till n
  wd (b2n (decide (p.rx = [])) * 2 ^ 31 + b2n p.xoff * 2 ^ 30 + b2n p.hold * 2 ^ 29 + p.tx.length / 2 % 16384 * 2 ^ 15 +
    p.rx.length)

/-- SAP_STn as it reads: the fill of a slave port, the phase of a master port. -/
def State.sapSt (s : State) (n : Nat) : Word :=
  if !s.sapOn n then 0
  else if s.sapMaster n then wd (encSigned 16 (s.sapPhase n (folioOf s.sysT))) else wd ((s.sapPort n).rx.length % 64 * 65536)

end Sys2Proof.Machine
end

