-- ==== Sys2Proof/Machine/Posting.lean ====
section
/-! DEFINITION. The folio sequencer and the Posting engine (chapter 2): source assembly, arrivals, admission, mix slots,
remixes, and the writes of PST_CTRL, PST_CUT and PST_WIN. Posting itself is completed in Folio.lean. A command that
stands for an instant of the schedule (ENTRY_CUT, FIRST_RUN_START and the like) is performed when it comes: its sender
chooses the instant (log entry 96). -/

namespace Sys2Proof.Machine

/-! ### Sources (R84, R103 to R107, Table 3.5) -/

/-- The channel of a network input: DVT 0 to 2047, AES67 from 2048. -/
def netChan (b : Nat) : Option Nat :=
  match b / 4096 with
  | 1 => some (b % 4096)
  | 6 => some (2048 + b % 4096)
  | _ => none

/-- Sample `j` that the field die's SENSE of input folio `n` carries for channel `i` (R44); a free value where none
came. -/
def State.senseSample (s : State) (n i j : Nat) : Word :=
  if s.kwy.senseFolio = some n then smp s.kwy.sense i j
  else match s.kwy.sensed.find? (fun e => e.1 == n) with
    | some e => smp e.2 i j
    | none => Config.noSense n i j

/-- Sample `j` of a local input for input folio `n`. -/
def State.localSample (s : State) (b n j : Nat) : Word :=
  let i := b % 4096
  match b / 4096 with
  | 2 => if s.domOn 8 && s.sapOn (i / 32) then smp (s.sapPort (i / 32)).now (i % 32) j else 0
  | 3 => if s.domOn 8 then smp (s.till (i / 1024)).samples (i % 1024) j else 0
  | 4 => if s.domOn 8 then smp s.out.excNow i j else 0
  | 5 => if 72 ≤ i then 0 else s.senseSample n i j
  | _ => 0

/-- Sources with a binding other than none. -/
def State.boundSources (s : State) : List Nat :=
  (s.regs.filter (fun e => decide (Reg.LDG_BIND 0 ≤ e.1) && decide (e.1 < Reg.LDG_BIND 2048) &&
    decide (fld e.2 15 0 ≠ 0))).map (fun e => (e.1 - Reg.LDG_BIND 0) / 4)

/-- The concealed sample `j` of a source (R106, R107). -/
def State.concealed (s : State) (src j : Nat) : Word :=
  let k := aget s.pst.k 0 src + 1
  if s.rb (Reg.PST_CMODE (src / 32)) (src % 32) || decide (8 ≤ k) then 0
  else wdi (roundHalfUp (smp s.pst.x src j).toInt (2 ^ k))

/-- A source's samples through its gate (R185, R191). -/
def gated (f : Fol) (src j : Nat) (x : Word) : Word :=
  wdi (scale22 x.toInt (coef (aget f.gcode 0xF400 (8 * src + j))))

/-- The samples of a channel in the arrivals for folio `n`. -/
def arrivedAt (l : List Arrival) (n ch : Nat) : Option Arrival := l.find? (fun a => a.folio == n && a.chans.contains ch)

/-- A source enters folio `f`: samples before and after the gate. -/
def putSource (src : Nat) (v : Nat → Word) (f : Fol) : Fol :=
  { f with raw := setSmps f.raw src v, src := setSmps f.src src (fun j => gated f src j (v j)) }

/-- An enabled subscription, or AES67 receive stream, covers the network channel; one that nothing covers reads 0
(R465). -/
def State.covered (s : State) (ch : Nat) : Bool :=
  if ch < 2048 then
    s.net.subs.any (fun e => e.2.on && decide (s.rf (Reg.DVT_RXMAP e.1) 26 16 ≤ ch) &&
      decide (ch < s.rf (Reg.DVT_RXMAP e.1) 26 16 + s.rf (Reg.DVT_RXMAP e.1) 8 0))
  else
    (List.range 16).any (fun r => s.rb (Reg.DVT_A67RXCFG r) 31 && decide (s.rf (Reg.DVT_A67RXCFG r) 21 15 ≤ ch - 2048) &&
      decide (ch - 2048 < s.rf (Reg.DVT_A67RXCFG r) 21 15 + s.rf (Reg.DVT_A67RXCFG r) 28 22))

/-- Source assembly of folio `f` (R92, R104). A folio of which an AES67 stream brought only some samples counts as
received, and the missing ones read 0 (log entry 104). -/
def assemble (s : State) (f : Fol) : Fol :=
  s.boundSources.foldl (fun f src =>
    let b := s.bind src
    match netChan b with
    | none => putSource src (fun j => s.localSample b f.n j) f
    | some ch =>
      if !s.covered ch then putSource src (fun _ => 0) f
      else match arrivedAt s.pst.arrived f.n ch with
      | some a => { putSource src (fun j => smp a.data ch j) f with recv := f.recv ++ [src] }
      | none => { putSource src (fun j => s.concealed src j) f with conc := f.conc ++ [src] }) f

/-- Gate codes of the folio about to be cut, and the sources silent in it (R187, R189, R191). -/
def gateCodes (s : State) (f : Fol) : Fol :=
  s.ldg.gates.foldl (fun f e =>
    let codes := forN 8 f.gcode (fun l j => aput l 0xF400 (8 * e.1 + j) (e.2.codeAfter (e.2.done + j + 1)))
    { f with gcode := codes, silent := if e.2.phase = .silent then f.silent ++ [e.1] else f.silent }) f

/-! ### Planned times (R90, R217) -/

/-- Busy intervals of tasks in order: each begins at its dispatch or at the end of the one before (R217). -/
def chainRes : List (Int × Nat) → Int → List (Int × Int)
  | [], _ => []
  | (d, c) :: t, e =>
    let st := if d < e then e else d
    (st, st + 3 * c) :: chainRes t (st + 3 * c)

/-- Reservations of first runs on Teller `t` around folio `n`. -/
def State.reservations (s : State) (t n : Nat) (begun : Bool) : List (Int × Int) :=
  let decl := fun k => (s.ctx k).decl.cycles
  let srcs := s.ctxsWhere (fun k c => c.decl.isSrc && decide (k / 256 = t) && s.ctxOn k)
  let sinks := fun m => (List.range 64).flatMap (fun g =>
    (s.ctxsWhere (fun k c => !c.decl.isSrc && decide (declGroup c.decl = g) && decide (k / 256 = t) && s.ctxOn k)).map
      (fun k => (s.mixBegin m (g + 1), decl k)))
  let src := fun m => srcs.map (fun k => (s.eAt m, decl k))
  chainRes ((if begun then [] else if n = 0 then [] else sinks (n - 1)) ++ src n ++ (if begun then sinks n else []) ++
    src (n + 1)) (-1000000000)

/-- Insert an interval by its start. -/
def insIv (x : Int × Int) : List (Int × Int) → List (Int × Int)
  | [] => [x]
  | y :: t => if x.1 ≤ y.1 then x :: y :: t else y :: insIv x t

/-- The first start at or after `t` of a free interval of length `len`. -/
def firstFree (len : Int) : List (Int × Int) → Int → Int
  | [], t => t
  | (a, b) :: r, t => if t + len ≤ a then t else firstFree len r (if t < b then b else t)

/-- Where a rerun of `cyc` cycles at or after `t0` lies on Teller `t`: no reservation and no other rerun of any folio
covers it (R217). -/
def State.placeRerun (s : State) (t : Nat) (f : Fol) (t0 : Int) (cyc : Nat) : Int × Int :=
  let booked := s.pst.fols.flatMap (fun g => if g.n = f.n then f.booked else g.booked)
  let busy := (booked.filter (fun e => e.1 == t)).foldl (fun l e => insIv e.2 l) (s.reservations t f.n f.slot)
  let st := firstFree (3 * (cyc : Int)) busy t0
  (st, st + 3 * cyc)

/-! ### Late arrivals (R113 to R122) -/

/-- The dependent sinks of a source task's outputs, by the codes (R113, R152). LDG_CTRL.NOSKIP and parity errors
change the row map, not the codes. -/
def State.dependents (s : State) (k : Nat) : List Nat :=
  let fed := addAll [] ((s.ctx k).decl.outs.flatMap (fun c => s.sinksOf c.chan))
  let viaTasks := (s.ctxsWhere (fun _ c => !c.decl.isSrc && c.decl.ins.any (fun d => fed.contains d.chan))).flatMap
    (fun t => (s.ctx t).decl.outs.map (·.chan))
  addAll fed viaTasks

/-- The dependent groups of a source task: those of its dependent sinks, or all where the row map entry of a source
that it produces failed parity (R114, R153). -/
def State.dependsOn (s : State) (k : Nat) (deps : List Nat) (g : Nat) : Bool :=
  deps.any (fun d => d / 40 == g) || (s.ctx k).decl.outs.any (fun c => s.ldg.parity.contains c.chan)

/-- Sink tasks that write one of the sinks; a quarantined context is not dispatched (R268). -/
def State.sinkTasksOf (s : State) (f : Fol) (g : Nat) (deps : List Nat) : List Nat :=
  f.prov.filter (fun k => !(s.ctx k).quar && !(s.ctx k).decl.isSrc && decide (declGroup (s.ctx k).decl = g) &&
    (s.ctx k).decl.outs.any (fun d => deps.contains d.chan))

/-- Sink tasks of a group that will run, dispatched or not. -/
def State.sinkTasksPlanned (s : State) (g : Nat) (deps : List Nat) : List Nat :=
  s.ctxsWhere (fun k c => !c.decl.isSrc && decide (declGroup c.decl = g) && s.ctxOn k &&
    c.decl.outs.any (fun d => deps.contains d.chan))

/-- The remix already queued for group `g` that begins at or after `r`: it renews the group for this admission too. -/
def Fol.laterRemix (f : Fol) (g : Nat) (r : Int) : Option Remix := f.remix.find? (fun q => q.g == g && decide (r ≤ q.start))

/-- The remix queue with the dependent sinks of the groups `gs` added to the first remix of each that begins at or after
`r` (Table 2.5, "work merged"). -/
def mergeDeps (deps : List Nat) (r : Int) : List Nat → List Remix → List Remix
  | _, [] => []
  | gs, q :: l =>
    if gs.contains q.g ∧ r ≤ q.start then
      { q with deps := addAll q.deps (deps.filter (fun d => decide (d / 40 = q.g))) } ::
        mergeDeps deps r (gs.filter (fun g => g != q.g)) l
    else q :: mergeDeps deps r gs l

/-- The outcome of the test of R119 for a source task. -/
structure Verdict where
  r : Int
  iv : Int × Int
  groups : List Nat
  merged : List Nat
  deps : List Nat
  start : Int
  h : Int
  plan : List (Nat × Nat)
  ok : Bool

/-- The test of R119 for source task `k` of folio `f`, decided at `t0`. The sink reruns that the admission adds, to
remixes already queued too, count for the limit of 5,333 cycles. -/
def State.admission (s : State) (f : Fol) (k : Nat) (t0 : Int) : Verdict :=
  let t := k / 256
  let cyc := 16 + (s.ctx k).decl.cycles
  let iv := s.placeRerun t f t0 cyc
  let r := iv.2
  let deps := if r ≤ s.mAt f.n then [] else s.dependents k
  let reached := if r ≤ s.mAt f.n then [] else
    (List.range 64).filter (fun g => s.dependsOn k deps g && decide (s.mixBegin f.n g < r))
  let groups := reached.filter (fun g => (f.laterRemix g r).isNone)
  let merged := reached.filter (fun g => (f.laterRemix g r).isSome)
  let cost : Int := 3 * (((groups.map (fun g => s.groupCost g)).foldl (· + ·) 0 : Nat) : Int)
  let passEnd := s.mixBegin f.n 64
  let m := fun (a b : Int) => if a < b then b else a
  let start := m (m f.h passEnd) r
  let finish := start + cost + us3 s.sinkWin
  let added := fun g =>
    let old := match f.laterRemix g r with
      | some q => s.sinkTasksPlanned g q.deps
      | none => []
    (s.sinkTasksPlanned g deps).filter (fun q => !old.contains q)
  let plan := (reached.flatMap added).foldl (fun p q => aupd p 0 (q / 256) (fun x => x + 16 + (s.ctx q).decl.cycles))
    (aupd f.plan 0 t (fun x => x + cyc))
  ⟨r, iv, groups, merged, deps, start, start + cost, plan,
    decide (finish ≤ s.mAt (f.n + 1)) && plan.all (fun e => decide (e.2 ≤ 5333))⟩

/-- Sources of folio `f` that an arrival feeds: those concealed, and those of which an earlier packet brought other
samples (R481). -/
def State.lateSources (s : State) (f : Fol) (a : Arrival) : List Nat :=
  (f.conc ++ f.recv).filter (fun src => match netChan (s.bind src) with
    | some ch => a.chans.contains ch
    | none => false)

/-- The samples of source `src` with those of an arrival: beside what a received source has, in place of a concealed
folio. A packet lists no sample that it does not carry, and what is not listed is 0. -/
def withArrival (f : Fol) (a : Arrival) (src ch j : Nat) : Word :=
  if f.recv.contains src && smp a.data ch j == 0 then smp f.raw src j else smp a.data ch j

/-- A source of folio `f` takes received samples; it counts as received and re-entered where `flip` says so. -/
def receiveLate (s : State) (a : Arrival) (flip : Bool) (src : Nat) (f : Fol) : Fol :=
  match netChan (s.bind src) with
  | none => f
  | some ch =>
    let g := putSource src (withArrival f a src ch) f
    if flip then
      { g with recv := addTo f.recv src, conc := f.conc.filter (fun x => x != src), reent := addTo f.reent src }
    else g

/-- A source that the partner conceals: its received data is given up (R136). -/
def concealSource (s : State) (src : Nat) (f : Fol) : Fol :=
  { putSource src (fun j => s.concealed src j) f with
    recv := f.recv.filter (fun x => x != src), conc := addTo f.conc src, reent := f.reent.filter (fun x => x != src) }

/-- The data held for a concealed source of the folio, of all the packets that brought some. -/
def State.heldFor (s : State) (f : Fol) (src : Nat) : Option Arrival :=
  match netChan (s.bind src) with
  | some ch =>
    match f.held.filter (fun a => a.chans.contains ch) with
    | [] => none
    | a :: l => some { a with data := l.foldl (fun d b => b.data.foldl (fun d e => aput d 0 e.1 e.2) d) a.data }
  | none => none

/-- A source takes the state that the receipt gives it. -/
def adoptSource (conc : List Nat) (s : State) (src : Nat) (f : Fol) : Fol :=
  if conc.contains src then concealSource s src f
  else match s.heldFor f src with
    | some a => receiveLate s a true src f
    | none => f

/-- What came changes source `src` of a folio. -/
def LateData.put (d : LateData) (s : State) (flip : Bool) (src : Nat) (f : Fol) : Fol :=
  match d with
  | .packet a => receiveLate s a flip src f
  | .receipt conc => adoptSource conc s src f

/-- With the rerun of task `k` source `src` counts as received: the task produces it, or no task that reads it does. A
source that another reader produces stays as that task's verdict has it (R121). -/
def State.flips (s : State) (f : Fol) (k src : Nat) : Bool :=
  let makes := fun q => (s.ctx q).decl.outs.any (fun c => c.chan == src)
  makes k || !f.prov.any (fun q => (s.ctx q).decl.isSrc && makes q && (s.ctx q).decl.ins.any (fun c => c.chan == src))

/-- The remix entries of admitted groups, one after the other from `start` (R121). -/
def queueRemix (s : State) (deps : List Nat) : List Nat → Int → List Remix
  | [], _ => []
  | g :: t, st => ⟨g, st, deps.filter (fun d => decide (d / 40 = g))⟩ :: queueRemix s deps t (st + 3 * s.groupCost g)

/-- Sources that the change takes out of the concealed set, or gives more samples: an admitted late arrival counts them
(Table 2.3). -/
def LateData.counted (d : LateData) (f g : Fol) (srcs : List Nat) : Nat :=
  match d with
  | .packet _ => (srcs.filter (fun x => !g.conc.contains x && (f.conc.contains x ||
      (List.range 8).any (fun j => smp g.raw x j != smp f.raw x j)))).length
  | .receipt _ => 0

/-- A source task is admitted (R119, R120): its sources change, the task is to be rerun, the groups are queued, or merged
into remixes queued already, and the provisional ones reversed. Where no group is queued the horizon h stays as it is
(log entry 102). -/
def admitTask (n k : Nat) (v : Verdict) (d : LateData) (late : List Nat) (s : State) : State :=
  match s.fol? n with
  | none => s
  | some f =>
    let g := late.foldl (fun g src => d.put s (s.flips f k src) src g) f
    let new := d.counted f g late
    let f := g
    let rev := fun (f : Fol) g => if f.entry g = .provisional ∧ g < f.mixed then f.setEntry g .reversed else f
    let f := (v.groups ++ v.merged).foldl rev f
    let f := { f with
      reruns := f.reruns ++ [(k, v.iv.1)], booked := f.booked ++ [(k / 256, v.iv)], plan := v.plan,
      remix := mergeDeps v.deps v.r v.merged f.remix ++ queueRemix s v.deps v.groups v.start,
      h := if v.groups = [] then f.h else v.h }
    (s.setFol f).count (Reg.PST_CNT 0) new 48

/-- A refused task (R121): its concealed sources stand. -/
def refuse (late : List Nat) (s : State) : State :=
  if late = [] then s else (s.count (Reg.PST_CNT 1) late.length 48).evt Reg.PST_EVT 1

/-- What came is refused for task `k`: a late arrival counts the sources that the verdict decides and that are not
re-entered; a receipt diverges (R136). -/
def refuseLate (n k : Nat) (d : LateData) (srcs : List Nat) (s : State) : State :=
  match d with
  | .packet _ => refuse (srcs.filter (fun x => (s.fol? n).any (fun f => s.flips f k x && !f.reent.contains x))) s
  | .receipt _ => s.evt Reg.PST_EVT 6

/-- The test of R119 for one task at `t0`, and what follows from it; before M(n) (`atM` false) a rerun that would end
after M(n) waits for it, unless P(n) has passed and closed the input set (R133). -/
def decideTask (n : Nat) (d : LateData) (k : Nat) (srcs : List Nat) (t0 : Int) (atM : Bool) (s : State) : State :=
  match s.fol? n with
  | none => s
  | some f =>
    let v := s.admission f k t0
    if !atM && !f.slot && decide (t0 < s.mAt n) && decide (s.mAt n < v.r) then
      if f.waits then refuseLate n k d srcs s else s.setPst { s.pst with deferred := s.pst.deferred ++ [⟨n, d, k, srcs⟩] }
    else if v.ok then admitTask n k v d srcs s
    else refuseLate n k d srcs s

/-- The source tasks that read a source of `late`, in ascending order of the lowest source that each produces (R119); a
quarantined context is not dispatched (R268). -/
def State.readers (s : State) (f : Fol) (late : List Nat) : List Nat :=
  let ts := f.prov.filter (fun k => (s.ctx k).decl.isSrc && !(s.ctx k).quar && (s.ctx k).decl.ins.any (fun c => late.contains c.chan))
  let low := fun k => (s.ctx k).decl.outs.foldl (fun m c => Nat.min m c.chan) 4096
  (ts.foldl (fun l k => ainsert l (low k * 16384 + k) k) ([] : List (Nat × Nat))).map (·.2)

/-- Sources that change with no rerun and no remix: those that no source task produces (R122), and those that none reads,
whose rows no task could renew (log entry 103). -/
def State.freeSources (s : State) (f : Fol) (late : List Nat) : List Nat :=
  let tasks := f.prov.filter (fun k => (s.ctx k).decl.isSrc && !(s.ctx k).quar)
  late.filter (fun src => !tasks.any (fun k => (s.ctx k).decl.outs.any (fun c => c.chan == src)) ||
    !tasks.any (fun k => (s.ctx k).decl.ins.any (fun c => c.chan == src)))

/-- A change of the sources `late` of folio `n`, decided at `t0` (R119, R122). -/
def decideLate (n : Nat) (d : LateData) (late : List Nat) (t0 : Int) (atM : Bool) (s : State) : State :=
  match s.fol? n with
  | none => s
  | some f =>
    let read := s.readers f late
    let free := s.freeSources f late
    let g := free.foldl (fun f src => d.put s true src f) f
    let s := (s.setFol g).count (Reg.PST_CNT 0) (d.counted f g free) 48
    read.foldl (fun s k =>
      decideTask n d k (late.filter (fun src => (s.ctx k).decl.ins.any (fun c => c.chan == src))) t0 atM s) s

/-- Instant `t` of system time in thirds of a CORE cycle. -/
def thirdsOf (t : Int) : Int := t * 3072 / (1000 * 1099511627776)

/-- The partner's receipt of folio `n`, where it has come and decides the concealed set (R136). -/
def State.receiptOf (s : State) (n : Nat) : Option (List Nat) :=
  if s.rb Reg.PST_CTRL 1 then (s.hng.receipts.find? (fun e => e.1 == n)).map (·.2) else none

/-- A late arrival of a folio in flight: kept for a receipt, and decided at `t0` (R119). After the partner's receipt a
source that it marks concealed stays so, and one that it marks received is tested for the receipt (R136). -/
def lateArrival (a : Arrival) (t0 : Int) (s : State) : State :=
  match s.fol? a.folio with
  | none => s
  | some f =>
    let late := s.lateSources f a
    let s := s.setFol { f with held := f.held ++ [a] }
    match s.receiptOf a.folio with
    | some conc =>
      decideLate a.folio (.receipt conc) (late.filter (fun x => !conc.contains x)) t0 false
        (refuse (late.filter (fun x => conc.contains x)) s)
    | none => decideLate a.folio (.packet a) late t0 false s

/-- A source task of folio `n` whose inputs came on time after its dispatch reads them: it starts anew if it has begun. -/
def redispatch (n k : Nat) (s : State) : State :=
  let s := fillInputs k n s
  let begun := (s.core (k / 256)).run.any (fun r => r.ctx == k % 256 && r.folio == n)
  if begun then startRun k n false (discard k n s)
  else (discard k n s).updFol n (fun f => { f with open_ := addTo f.open_ k })

/-- An arrival on time by its timestamp (R498, R778) that comes after the row of the entry cut and before the mix
slot: its sources are received, and the source tasks that read them render them (log entry 131). -/
def onTimeArrival (a : Arrival) (s : State) : State :=
  match s.fol? a.folio with
  | none => s
  | some f =>
    let srcs := s.lateSources f a
    let g := srcs.foldl (fun g src => { receiveLate s a true src g with reent := f.reent }) f
    (s.readers f srcs).foldl (fun s k => redispatch a.folio k s) (s.setFol g)

/-- The concealed set of folio `n` becomes the partner's, decided at `t0` (R136). -/
def adoptReceipt (conc : List Nat) (n : Nat) (t0 : Int) (atM : Bool) (s : State) : State :=
  match s.fol? n with
  | none => s
  | some f =>
    let all := f.recv.filter (fun x => conc.contains x && (netChan (s.bind x)).isSome) ++
      f.conc.filter (fun x => !conc.contains x && (s.heldFor f x).isSome)
    decideLate n (.receipt conc) all t0 atM s

/-- A packet that is discarded late (Table 2.3). -/
def countLate (s : State) : State := (s.count (Reg.PST_CNT 2) 1 48).evt Reg.PST_EVT 0

/-- Samples that are on time for a folio not yet cut; those of one packet after another for the same channels join. -/
def keepArrival (a : Arrival) (s : State) : State :=
  match s.pst.arrived.find? (fun b => b.folio == a.folio && b.chans == a.chans) with
  | some b =>
    let both := { b with data := a.data.foldl (fun l e => aput l 0 e.1 e.2) b.data }
    s.setPst { s.pst with arrived := s.pst.arrived.filter (fun b => !(b.folio == a.folio && b.chans == a.chans)) ++ [both] }
  | none => s.setPst { s.pst with arrived := s.pst.arrived ++ [a] }

/-- An arrival of a packet of input folio `n` at system time `t` (Table 2.3, R102). One that is late by its timestamp
before the folio's entry cut has been taken waits for the cut. While PST_CTRL.EN = 0 arrivals are dropped and not
counted (log entry 105), and so are those of a folio that is not rendered (log entry 137). -/
def arrive (a : Arrival) (t : Int) (s : State) : State :=
  let n := a.folio
  let x := 12 * t
  let early : Int := ((n : Int) - 1) * 1000000 * 1099511627776
  if !s.pst.run then s
  else if x < early then s.count (Reg.PST_CNT 3) 1 48
  else if folio12 (n + 1) (s.postUs n) ≤ x then countLate s
  else
    match s.fol? n with
    | some f =>
      if f.posted then countLate s
      else if x < folio12 (n + 1) s.entryUs then
        if f.slot then lateArrival a (s.eAt n) s else onTimeArrival a s
      else lateArrival a (thirdsOf t) s
    | none =>
      if n < s.pst.next then s
      else if folio12 (n + 1) s.entryUs ≤ x then s.setPst { s.pst with early := s.pst.early ++ [(a, t)] }
      else keepArrival a s

/-! ### Re-points while the sequencer is paused (R779) -/

/-- Folio `n`, cut and not begun, is cut again for source `src`: its gate stands as before the cut with the re-points
since, and the source tasks that read it are dispatched again (log entry 134). -/
def recut (n src : Nat) (s : State) : State :=
  match s.fol? n with
  | none => s
  | some f =>
    let s := stepGates (restoreGates n f.gates0 f.binds0 s)
    let g := putSource src (fun j => smp f.raw src j) (gateCodes s { f with gcode := [], silent := [] })
    let s := advanceGates (s.setFol g)
    (s.readers g [src]).foldl (fun s k => redispatch n k s) s

/-- A write of LDG_REPTB. While the sequencer is paused its start folio is the first folio rendered afterwards (R779). -/
def repointWriteOp (v : Word) (s : State) : State :=
  let src := s.rf Reg.LDG_REPT 10 0
  let s := repointOp v s
  match s.pst.fols.find? (fun f => !f.slot) with
  | some f => if s.pst.paused && bindOk s.isA (fld v 15 0) then recut f.n src s else s
  | none => s

def execRepoint (v : Word) (s : State) : Host.Outcome State Fault Refusal :=
  hostDo s (regRow Reg.LDG_REPTB (repointWriteOp v))

/-! ### The entry cut (R92) -/

/-- What came before the cut for folio `n` and is late by its timestamp, and a receipt that came before it, are decided
(R102, R136). -/
def decideEarly (n : Nat) (s : State) : State :=
  let due := s.pst.early.filter (fun e => e.1.folio == n)
  let s := s.setPst { s.pst with early := s.pst.early.filter (fun e => decide (n < e.1.folio)) }
  let s := due.foldl (fun s e => lateArrival e.1 (thirdsOf e.2) s) s
  match s.receiptOf n with
  | some conc => adoptReceipt conc n (s.eAt n) false s
  | none => s

/-- E(n): entries allocated, inputs assembled and concealed, source tasks dispatched. -/
def entryCutOp (s : State) : State :=
  if !s.pst.run then s
  else
    let n := s.pst.next
    let gates := s.ldg.gates
    let binds := gates.map (fun e => (e.1, s.bind e.1))
    let s := stepGates (applyCtxCmds n s)
    let f := assemble s (gateCodes s { Fol.fresh n with
      gates0 := gates, binds0 := binds, undef := s.pst.undef.any (fun m => decide (n ≤ m)) })
    let f := forN 64 f (fun f g => f.setEntry g .opened)
    let tasks := s.ctxsWhere (fun k c => c.decl.isSrc && s.ctxOn k)
    let f := { f with open_ := tasks, prov := tasks }
    let s := s.setPst { s.pst with
      fols := s.pst.fols ++ [f], next := n + 1, cut := n, post := s.postUs n,
      postNext := s.pst.postNext.filter (fun e => decide (n < e.2)),
      arrived := s.pst.arrived.filter (fun a => decide (n < a.folio)),
      undef := s.pst.undef.filter (fun m => decide (n < m)) }
    let s := s.setReg Reg.PST_FOLIO_LO (wd n)
    let s := tasks.foldl (fun s k => fillInputs k n s) s
    decideEarly n (advanceGates s)

def execEntryCut (s : State) : Host.Outcome State Fault Refusal := hostDo s entryCutOp

/-- Subscriptions whose EN was written take it in force at a mix slot boundary (R463); one that is enabled counts its
folios without a copy anew (R466). -/
def subsBoundary (s : State) : State :=
  { s with net := { s.net with subs := s.net.subs.map (fun e => match e.2.pendEn with
      | some true => (e.1, { e.2 with on := true, pendEn := none, miss := 0, lost := false })
      | some false => (e.1, { e.2 with on := false, pendEn := none })
      | none => e) } }

/-- The hinge logic holds RCPTTX and SHADOW: while the node is paired in any state (R573). -/
def State.hingeHolds (s : State) : Bool :=
  match s.hng.st with
  | .alone | .pairing => false
  | _ => true

/-- At a mix slot boundary SHADOW takes the role: 1 on the shadow, 0 on the decider (R573). -/
def shadowBoundary (s : State) : State :=
  if s.hingeHolds then (s.setBit Reg.PST_CTRL 2 true).setBit Reg.PST_CTRL 1 (!s.hng.decider) else s

/-! ### The mix slot (R88, R139 to R142) -/

/-- The first folio whose entry cut lies after the present (R777, R140). -/
def State.firstAfter (s : State) (extra12 : Int) : Nat :=
  let x := 12 * s.sysT + extra12 - 12000 * (s.entryUs : Int) * 1099511627776
  (x / (1000000 * 1099511627776)).toNat

/-- A folio that is dropped: its runs end as on a reversal, its entries are freed. A replacement whose swap folio it
was takes the next folio cut (log entry 23). -/
def dropFolio (n : Nat) (s : State) : State :=
  let s := forN 64 s (fun s t => match (s.core t).run with
    | some r => if r.folio = n then stopRun t s else s
    | none => s)
  match s.fol? n with
  | none => s
  | some f =>
    let s := f.prov.foldl (fun s k => discard k n s) s
    let s := { s with tel := { s.tel with swaps := s.tel.swaps.map (fun (x : Swap) =>
      if x.begun && x.folio == n then { x with begun := false } else x) } }
    s.setPst { s.pst with fols := s.pst.fols.filter (fun g => g.n != n) }

/-- Every network source is concealed for `m` more folios (R140). -/
def concealMore (m : Nat) (s : State) : State :=
  let net := s.boundSources.filter (fun x => (netChan (s.bind x)).isSome)
  s.setPst { s.pst with k := net.foldl (fun l x => aupd l 0 x (fun k => k + m)) s.pst.k }

def slip (s : State) : State := (s.count (Reg.PST_CNT 6) 1 48).evt Reg.PST_EVT 2

/-- The running mix slot ends: with its folio rendered ramps advance (R117, R779); accepted changes begin. -/
def slotEnd (mixed : Bool) (s : State) : State :=
  let s := excBoundary (ledgerBoundary mixed s)
  s.setPst { s.pst with cur := none }

/-- Source gates do not advance through folios that are not rendered: they stand as before the entry cut of the oldest
folio without a mix slot completed (R779). -/
def gatesBack (s : State) : State :=
  match s.pst.fols.find? (fun f => !f.slot || s.pst.cur == some f.n) with
  | some f => restoreGates f.n f.gates0 f.binds0 s
  | none => s

/-- M(n): the mix slot of folio `f` begins (R88, R90, R119): the mix-in rail reads the outputs of the source tasks (Table
4.2), and deferred decisions are taken. -/
def slotBegin (f : Fol) (s : State) : State :=
  let n := f.n
  let s := (s.ctxsWhere (fun k c => c.decl.isSrc && s.ctxOn k)).foldl (fun s k => deliver k n s) s
  let first : EntrySt := if f.posted then .posted else .provisional
  let s := s.updFol n (fun f => { f.setEntry 0 first with slot := true })
  let s := s.setPst { s.pst with cur := some n, paused := false }
  let s := { s with tel := { s.tel with swaps := s.tel.swaps.filter (fun x => !x.begun || decide (n ≤ x.folio)) } }
  let s := s.setLdg { s.ldg with repoints := s.ldg.repoints.filter (fun e => decide (n < e.1)) }
  let due := s.pst.deferred.filter (fun d => d.folio == n)
  let s := s.setPst { s.pst with deferred := s.pst.deferred.filter (fun d => decide (n < d.folio)) }
  tapRows n (due.foldl (fun s d => decideTask n d.data d.task d.srcs (s.mAt n) true s) s)

/-- A mix slot boundary with L(n) due: the active view changes (R499, R501), the slot before ends, the view's folio
number is compared with n + 1 (R140, R141), and L(n) begins. -/
def mixSlotStartOp (s : State) : State :=
  if !s.pst.run then s
  else
    match s.pst.fols.find? (fun f => !f.slot) with
    | none => s
    | some f =>
      let s := shadowBoundary (subsBoundary (slotEnd s.pst.cur.isSome (timeBoundary s)))
      let v := folioOf s.sysT
      if f.n + 2 < v then
        let n' := s.firstAfter 0
        let gone := s.pst.fols.filter (fun g => !g.slot)
        let m := n' - f.n - (gone.filter (fun g => g.posted)).length
        let s := concealMore m (gone.foldl (fun s g => dropFolio g.n s) (gatesBack s))
        slip (s.setPst { s.pst with next := n', paused := false })
      else if v < f.n then
        if s.pst.paused then s else slip (s.setPst { s.pst with paused := true })
      else
        match s.fol? f.n with
        | some f => slotBegin f s
        | none => s

def execMixSlotStart (s : State) : Host.Outcome State Fault Refusal := hostDo s mixSlotStartOp

/-- The 40 sinks of group `g` of folio `f` mixed (R145): the results of those `only` selects replace what was there, and a
saturated sink counts once per folio (R161). -/
def mixGroup (f : Fol) (g : Nat) (only : Nat → Bool) (s : State) : Fol × State :=
  forN 40 (f, s) (fun acc i =>
    let k := 40 * g + i
    let f := acc.1
    let (r, sat, s) := mixSink f.rows k acc.2
    let f := if only k then { f with mix := setSmps f.mix k (fun j => r.getD j 0) } else f
    if sat ∧ !f.satDone.contains k then ({ f with satDone := f.satDone ++ [k] }, s.count Reg.LDG_CNT_SAT 1 49) else (f, s))

/-- The mix of the running group ends (R93): its results, its sink tasks, the next group. `parity` lists sources whose
row map entry failed (R153). -/
def groupMixEndOp (parity : List Nat) (s : State) : State :=
  match s.pst.cur with
  | none => s
  | some n =>
    match s.fol? n with
    | none => s
    | some f =>
      if 64 ≤ f.mixed then s
      else
        let s := (s.setLdg { s.ldg with parity := addAll s.ldg.parity parity }).evtIf (decide (parity ≠ [])) Reg.LDG_EVT 7
        let g := f.mixed
        let (f, s) := mixGroup f g (fun _ => true) s
        let tasks := s.ctxsWhere (fun k c => !c.decl.isSrc && decide (declGroup c.decl = g) && s.ctxOn k)
        let taken := fun k => s.tel.ctxs.any (fun e => e.2.exists_ && !e.2.decl.isSrc && e.2.decl.outs.any (fun c => c.chan == k))
        let sink := forN 40 f.sink (fun l i =>
          let k := 40 * g + i
          if taken k then setSmps l k (fun _ => 0) else setSmps l k (fun j => smp f.mix k j))
        let began : EntrySt := if f.posted then .posted else .provisional
        let f := if g < 63 then f.setEntry (g + 1) began else f
        let f := { f with
          sink := sink, mixed := g + 1, open_ := addAll f.open_ tasks, prov := addAll f.prov tasks }
        let f := if f.remix.any (fun q => q.g == g) ∧ f.entry g = .provisional then f.setEntry g .reversed else f
        let s := s.setFol f
        let s := tasks.foldl (fun s k => fillInputs k n s) s
        let pass := ((List.range 64).map (fun h => s.groupCost h)).foldl (· + ·) 0
        let s := if g = 63 then s.setReg Reg.LDG_PASS (wd pass) else s
        settle n s

def execGroupMixEnd (parity : List Nat) (s : State) : Host.Outcome State Fault Refusal := hostDo s (groupMixEndOp parity)

/-- A sink task is dispatched again at `t0`, the end of its group's remix (R93): its inputs are written (Table 4.2),
and the rerun takes its interval (R217). -/
def sinkRerun (n : Nat) (t0 : Int) (k : Nat) (s : State) : State :=
  let s := fillInputs k n s
  match s.fol? n with
  | none => s
  | some f =>
    let iv := s.placeRerun (k / 256) f t0 (16 + (s.ctx k).decl.cycles)
    s.setFol { f with
      reruns := f.reruns ++ [(k, iv.1)], redisp := f.redisp ++ [(k, t0)], booked := f.booked ++ [(k / 256, iv)] }

/-- The remix at the head of the queue ends (R115, R121): all 40 sinks are mixed, the dependent ones take the new results,
and their sink tasks are dispatched again. -/
def remixEndOp (s : State) : State :=
  match s.pst.fols.find? (fun f => f.slot && decide (f.mixed = 64) && decide (f.remix ≠ [])) with
  | none => s
  | some f =>
    match f.remix with
    | [] => s
    | q :: rest =>
      let cost := s.groupCost q.g
      let (f, s) := mixGroup f q.g (fun k => q.deps.contains k) s
      let tasks := s.sinkTasksOf f q.g q.deps
      let taken := fun k => s.tel.ctxs.any (fun e => e.2.exists_ && !e.2.decl.isSrc && e.2.decl.outs.any (fun c => c.chan == k))
      let sink := q.deps.foldl (fun l k => if taken k then l else setSmps l k (fun j => smp f.mix k j)) f.sink
      let cyc := f.remixCyc + cost
      let s := s.setFol { f with sink := sink, remix := rest, remixCyc := cyc }
      let s := tasks.foldl (fun s k => sinkRerun f.n (q.start + 3 * cost) k s) s
      let s := if s.rf Reg.PST_REVMAX 16 0 < cyc then s.latchFld Reg.PST_REVMAX 16 0 cyc else s
      settle f.n (s.count (Reg.PST_CNT 5) 1 48)

def execRemixEnd (s : State) : Host.Outcome State Fault Refusal := hostDo s remixEndOp

/-! ### Register writes (R95, R96, R777) -/

/-- A write of PST_CTRL. EN written 1 starts with the first folio whose entry cut lies after the write (R777); EN written
0 stops the engine, its folios in flight and their tasks. -/
def pstCtrlWriteOp (v : Word) (s : State) : State :=
  let was := s.rb Reg.PST_CTRL 0
  let sh := s.rb Reg.PST_CTRL 1
  let s := s.typeWrite Reg.PST_CTRL v
  let s := if s.hingeHolds then (s.setBit Reg.PST_CTRL 2 true).setBit Reg.PST_CTRL 1 sh else s
  if bit v 0 ∧ !was then
    s.setPst { s.pst with run := true, paused := false, next := s.firstAfter 0, cur := none, post := s.rf Reg.PST_CUT 14 8,
                          postNext := [], undef := none }
  else if !bit v 0 ∧ was then
    let s := gatesBack s
    let s := s.pst.fols.foldl (fun s f => dropFolio f.n s) s
    let s := slotEnd false s
    s.setPst { s.pst with
      run := false, paused := false, fols := [], arrived := [], early := [], deferred := [], journal := [], undef := none }
  else s

def execPstEnWrite (v : Word) (s : State) : Host.Outcome State Fault Refusal := hostDo s (pstCtrlWriteOp v)

/-- The conditions of Table 2.1. -/
def cutsOk (entry post src sink : Nat) : Bool :=
  decide (entry < post) && decide (1 ≤ src) && decide (src ≤ 19) && decide (1 ≤ sink) && decide (sink ≤ 19) &&
    decide (post + src ≤ entry + 83) && decide (entry + src ≤ 79)

/-- A write of PST_CUT (R95, R96). -/
def pstCutWriteOp (v : Word) (s : State) : State :=
  let entry := fld v 6 0
  let post := fld v 14 8
  let run := s.rb Reg.PST_CTRL 0
  if !cutsOk entry post s.srcWin s.sinkWin ∨ (run ∧ entry ≠ s.entryUs) then s.evt Reg.PST_EVT 8
  else
    let s := s.typeWrite Reg.PST_CUT v
    if run then
      let n := s.firstAfter (12 * 83334 * 1099511627776 - 1)
      s.setPst { s.pst with postNext := s.pst.postNext.filter (fun e => decide (e.2 < n)) ++ [(post, n)] }
    else s.setPst { s.pst with post := post, postNext := [] }

def execPstCutWrite (v : Word) (s : State) : Host.Outcome State Fault Refusal := hostDo s (pstCutWriteOp v)

/-- A write of PST_WIN (R95, R96). -/
def pstWinWriteOp (v : Word) (s : State) : State :=
  let src := fld v 4 0
  let sink := fld v 12 8
  let run := s.rb Reg.PST_CTRL 0
  if !cutsOk s.entryUs (s.rf Reg.PST_CUT 14 8) src sink ∨ (run ∧ (src ≠ s.srcWin ∨ sink ≠ s.sinkWin)) then s.evt Reg.PST_EVT 8
  else s.typeWrite Reg.PST_WIN v

def execPstWinWrite (v : Word) (s : State) : Host.Outcome State Fault Refusal := hostDo s (pstWinWriteOp v)

/-! ### Posting (R133 to R135, R108) -/

/-- A map of sources as 64 registers. -/
def writeMap (reg : Nat → Nat) (l : List Nat) (s : State) : State :=
  forN 64 s (fun s i => s.setReg (reg i) (wd ((l.filter (fun x => x / 32 == i)).foldl (fun n x => addMask n (x % 32)) 0)))

/-- Concealment count and stored folio of the sources of a posted folio (R108, R189). A source bound to a network channel
that nothing covers is neither concealed nor received: its count stays (log entry 106). -/
def postSources (f : Fol) (p : Pst) : Pst :=
  let p := f.recv.foldl (fun p x => { p with k := aput p.k 0 x 0, x := setSmps p.x x (fun j => smp f.raw x j) }) p
  let p := f.conc.foldl (fun p x => { p with k := aupd p.k 0 x (fun k => k + 1) }) p
  f.silent.foldl (fun p x => { p with k := aput p.k 0 x 0, x := setSmps p.x x (fun _ => 0) }) p

/-- The received samples of an undefined folio (R69): free values from number `i` on. -/
def freedRaw (i : Nat) (f : Fol) : Fol :=
  { f with raw := f.recv.zipIdx.foldl (fun l e => setSmps l e.1 (fun j => Config.freeWord (i + 8 * e.2 + j))) f.raw }

/-- Decisions that would wait for an M(n) later than P(n) are refused at P(n), when the input set closes (R133). -/
def refuseDeferred (n : Nat) (s : State) : State :=
  let due := s.pst.deferred.filter (fun d => d.folio == n)
  due.foldl (fun s d => refuseLate n d.task d.data d.srcs s)
    (s.setPst { s.pst with deferred := s.pst.deferred.filter (fun d => d.folio != n) })

/-- P(n) for folio `f`: posted, receipt stored (R135), source tasks final (R124), taps (R144). -/
def postFolio (f : Fol) (s : State) : State :=
  let n := f.n
  let s := refuseDeferred n (s.setFol { f with posted := true, waits := false })
  let s := if f.undef then (s.setPst (postSources (freedRaw s.free f) s.pst)).useFree (8 * f.recv.length)
    else s.setPst (postSources f s.pst)
  let s := s.count (Reg.PST_CNT 4) f.conc.length 48
  let s := f.conc.foldl (fun s x => s.raise (Reg.PST_LATEMAP (x / 32)) (bitw (x % 32))) s
  let s := if s.rb Reg.PST_CTRL 4 then s
    else writeMap Reg.PST_RCPT_REENT f.reent (writeMap Reg.PST_RCPT_CONC f.conc
      ((s.setReg Reg.PST_RCPT_FOLIO_LO (wd n)).setReg Reg.PST_RCPT_FOLIO_HI (wd (n / 2 ^ 32))))
  let final := f.prov.filter (fun k => (s.ctx k).decl.isSrc && !f.open_.contains k && !f.rerunning k)
  let s := final.foldl (fun s k => commit k n s) s
  let s := tapPoint 0 n (fun _ => true) (fun c j => smp f.raw c j) s
  swapPosted n (settle n (tapRows n s))

end Sys2Proof.Machine
end

