-- ==== Sys2Proof/Machine/Dvt.lean ====
section
/-! DEFINITION. Received frames: the steps of Table 8.3, the DVT engine and the merge, AES67 receive; and the register
writes of the DVT block (chapter 8). -/

namespace Sys2Proof.Machine

/-! ### Subscriptions and valid copies (R462 to R475) -/

/-- DVT_CNT counter `i` by `n`: 0 BADHDR, 1 NOSUB, 2 DUP, 3 A67BAD, 4 A67SEQ, 5 A67MISS. -/
def dvtCount (i n : Nat) (s : State) : State := s.count (Reg.DVT_CNT i) n 52

/-- A DVT frame that matches a subscription, or its IPv4 layer, fails a test. -/
def badHdr (s : State) : State := (dvtCount 0 1 s).evt Reg.DVT_EVT 2

/-- The bytes after the DVT header start are exactly `n`, apart from the padding of a 64-byte frame. -/
def lenOk (f : Frame) (have_ n : Nat) : Bool := have_ == n || (decide (n ≤ have_) && f.len == 64)

/-- Port `p` is one that subscription word `w` accepts. -/
def accepts (w : Word) (p : Nat) : Bool := (p == 0 && bit w 28) || (p == 1 && bit w 29) || (p == 2 && bit w 27)

/-- The samples of a DVT frame at key 8 × channel + j, with first channel `base` (R458, R459). -/
def dvtSamples (b : List Byte) (nch w base : Nat) : List (Nat × Word) :=
  forN nch [] (fun l c => setSmps l (base + c) (fun j =>
    let v := beAt b (16 + (j * nch + c) * w) w
    if w = 3 then wdi (signed 24 v * 16) else wd v))

/-- The skew of folio `n` of subscription `k`, once both networks have delivered (R475). -/
def skewNote (k : Nat) (t0 t1 : Int) (s : State) : State :=
  let d := t1 - t0
  let sk := d / 1099511627776
  let s := s.setSub k { s.sub k with skew := sk, skewMax := Nat.max (s.sub k).skewMax sk.natAbs }
  let s := s.note (regKey Reg.DVT_PSKMAX k) (wd (Nat.max (s.noted (regKey Reg.DVT_PSKMAX k)).toNat sk.natAbs))
  s.evtIf (decide (s.rf Reg.DVT_CTRL 7 2 * 1000 * 1099511627776 < d.natAbs)) Reg.DVT_EVT 5

/-- Copies of recent folios (folio, port, arrival time), with one more: the first of its folio on its port stays. -/
def addCopy (p n : Nat) (t : Int) (l : List (Nat × (Nat × Int))) : List (Nat × (Nat × Int)) :=
  let keep := l.filter (fun c => decide (n ≤ c.1 + 8))
  if l.any (fun c => c.1 == n && c.2.1 == p) then keep else keep ++ [(n, (p, t))]

/-- The skew of folio `n` at its first valid copy on `p` when the other network has brought one, both before P(n); early
copies are valid too (R464, R475). -/
def skewTake (k p n : Nat) (t : Int) (s : State) : State :=
  let x := s.sub k
  let first := !x.heard.any (fun c => c.1 == n && c.2.1 == p)
  let before := fun (t : Int) => decide (12 * t < folio12 (n + 1) (s.postUs n))
  let s := s.setSub k { x with heard := addCopy p n t x.heard }
  match x.heard.find? (fun c => c.1 == n && c.2.1 == 1 - p) with
  | some c =>
    if first ∧ p < 2 ∧ before t ∧ before c.2.2 then (if p = 1 then skewNote k c.2.2 t s else skewNote k t c.2.2 s) else s
  | none => s

/-- A valid copy of folio `n` for subscription `k` at time `t` on port `p` that is not early is noted: LIVE and the
arrival per port (R466, R474). -/
def copyNote (k p n : Nat) (t : Int) (s : State) : State :=
  let x := s.sub k
  (s.setSub k { x with miss := 0, lost := false, copies := addCopy p n t x.copies }).setBit (Reg.DVT_RXID k) 26 true

/-- The samples that subscription `k` brought of folio `n` are dropped before anything has used them. -/
def dropCopy (k n : Nat) (s : State) : State :=
  let map := s.reg (Reg.DVT_RXMAP k)
  let lo := fld map 26 16
  let mine := fun (a : Arrival) => a.folio == n && a.chans.any (fun c => decide (lo ≤ c) && decide (c < lo + fld map 8 0))
  s.setPst { s.pst with
    arrived := s.pst.arrived.filter (fun a => !mine a), early := s.pst.early.filter (fun e => !mine e.1),
    deferred := s.pst.deferred.filter (fun d => match d.data with
      | .packet a => !mine a
      | .receipt _ => true) }

/-- Folio `n` is still to be cut: nothing has used a copy of it. -/
def State.uncut (s : State) (n : Nat) : Bool := (s.fol? n).isNone && decide (s.pst.next ≤ n)

/-- The frame of a taken copy forwarded unchanged on P2 (R575). -/
def relayCopy (p : Nat) (f : Frame) (s : State) : State :=
  if s.relays ∧ p < 2 ∧ s.portOn 2 then offer 2 5 f s else s

/-- A valid copy: early, taken, or a duplicate (R472, R473, R101). Of two copies whose folio is still to be cut the
earlier by arrival time is taken, whichever row came first (log entry 115). `b` starts at the DVT header. -/
def validCopy (k p : Nat) (f : Frame) (b : List Byte) (t : Int) (s : State) : State :=
  let n := beAt b 6 6
  let w := s.reg (Reg.DVT_RXID k)
  let map := s.reg (Reg.DVT_RXMAP k)
  let base := fld map 26 16
  let nch := fld map 8 0
  let a : Arrival := ⟨n, (List.range nch).map (fun c => base + c), dvtSamples b nch (fmtW (bit w 30)) base⟩
  let s := skewTake k p n t s
  if 12 * t < ((n : Int) - 1) * 1000000 * 1099511627776 then arrive a t s
  else
    let s := copyNote k p n t s
    let x := s.sub k
    match x.taken.find? (fun c => c.1 == n) with
    | none => relayCopy p f (arrive a t (s.setSub k { x with taken := x.taken ++ [(n, (p, t))] }))
    | some (_, p', t') =>
      let s := dvtCount 2 1 s
      if (t < t' ∨ t = t' ∧ p < p') ∧ s.uncut n then
        arrive a t (dropCopy k n (s.setSub k { x with taken := x.taken.filter (fun c => c.1 != n) ++ [(n, (p, t))] }))
      else s

/-- Service level (SEC_BOOTST.LEVEL). -/
def State.level (s : State) : Nat := s.rf Reg.SEC_BOOTST 25 24

/-- The level-1 path runs: from service level 1 until the output folio of its crossfade (R700, R704). -/
def State.l1Run (s : State) : Bool := s.level == 1 || s.boot.crossAt.isSome

/-- The input of the level-1 path from DVT: the first copy of a folio from A(n) − 2 folios until A(n) + 40.000 µs
(R700, R472). -/
def l1Frame (p : Nat) (f : Frame) (b : List Byte) (t : Int) (s : State) : State :=
  match s.boot.l1 with
  | none => s
  | some l =>
    let n := beAt b 6 6
    let w := fmtW (l.fmt == 1)
    let ok := l.kind == 1 && l.ports.testBit p && decide (p < 2) && beAt b 2 3 == l.id && beAt b 0 1 == 0x10 + l.fmt &&
      beAt b 12 2 == l.nch && lenOk f b.length (16 + 8 * l.nch * w) && decide (l.ch < l.nch)
    if s.l1Run && ok && !s.out.l1in.any (fun e => e.1 == n) && decide (((n : Int) - 1) * 1000000 * 1099511627776 ≤ 12 * t) &&
        decide (12 * t < folio12 (n + 1) 40) then
      let x := dvtSamples b l.nch w 0
      { s with out := { s.out with l1in := s.out.l1in ++ [(n, (List.range 8).map (fun j => smp x l.ch j))] } }
    else s

/-- A DVT audio frame at port `p` (R464): the subscription with its stream, then the other tests. -/
def dvtAudio (p : Nat) (f : Frame) (b : List Byte) (t : Int) (s : State) : State :=
  let stream := beAt b 2 3
  let s := l1Frame p f b t s
  match s.net.subs.find? (fun e => e.2.on && decide (s.rf (Reg.DVT_RXID e.1) 22 0 = stream)) with
  | none => dvtCount 1 1 s
  | some (k, _) =>
    let w := s.reg (Reg.DVT_RXID k)
    let nch := s.rf (Reg.DVT_RXMAP k) 8 0
    let ok := beAt b 0 1 / 16 == 1 && beAt b 0 1 % 16 == b2n (bit w 30) && beAt b 12 2 == nch &&
      lenOk f b.length (16 + 8 * nch * fmtW (bit w 30)) && accepts w p
    if ok then validCopy k p f b t s else badHdr s

/-- The partner's frames on P2, for the fill of R582. -/
def partnerNote (p : Nat) (b : List Byte) (s : State) : State :=
  if p = 2 ∧ beAt b 2 3 / 512 = s.rf Reg.HNG_CFG 13 0 then
    { s with hng := { s.hng with p2Seen := (s.hng.p2Seen ++ [(beAt b 2 3 % 512, beAt b 6 6)]).drop ((s.hng.p2Seen.length + 1) - 2048) } }
  else s

/-! ### AES67 receive (R478 to R481) -/

/-- Bytes of an AES67 sample. -/
def a67W (cfg : Word) : Nat := if bit cfg 30 then 2 else 3

/-- An enabled receive stream whose destination the packet has. -/
def State.a67Dest (s : State) (r : Nat) (f : Frame) : Bool :=
  s.rb (Reg.DVT_A67RXCFG r) 31 && decide (beAt f.payload 16 4 = (s.reg (Reg.DVT_A67RXADDR r)).toNat) &&
    decide (udpPort f = some (s.rf (Reg.DVT_A67RXPORT r) 31 16))

/-- The other tests of R479 on the RTP packet `b` for stream `r`. -/
def State.a67Ok (s : State) (r : Nat) (b : List Byte) : Bool :=
  let cfg := s.reg (Reg.DVT_A67RXCFG r)
  let n := b.length - 12
  decide (12 ≤ b.length) && decide (beAt b 0 1 = 0x80) &&
    decide (beAt b 1 1 % 128 = s.rf (Reg.DVT_A67RXPORT r) 6 0) &&
    (s.reg (Reg.DVT_A67RXSSRC r) == 0 || decide (beAt b 8 4 = (s.reg (Reg.DVT_A67RXSSRC r)).toNat)) &&
    decide (n ≤ 1440) && decide (n % (fld cfg 28 22 * a67W cfg) = 0)

/-- A payload sample in the house format (R459's scale for L24; L16 as 16-bit words of Table 5.6). -/
def a67Sample (cfg : Word) (v : Nat) : Word := if bit cfg 30 then wdi (signed 16 v * 4096) else wdi (signed 24 v * 16)

/-- The sample number of an RTP timestamp: the one nearest to the arrival that has it (R478). -/
def a67Number (fs : Nat) (t : Int) (ts ofs : Nat) : Int :=
  let now := t * fs / (1000000000 * 1099511627776)
  now + signed 32 (((ts : Int) - ofs - now) % 4294967296).toNat

/-- The house samples of a packet of `cnt` samples from house sample `i0`, folio by folio: each folio is an arrival of its
own (R481). A 48 kHz packet feeds no source directly (R480). -/
def a67Arrivals (cfg : Word) (b : List Byte) (cnt : Nat) (i0 : Int) (per : Nat) (t : Int) (s : State) : State :=
  let nch := fld cfg 28 22
  let base := 2048 + fld cfg 21 15
  let w := a67W cfg
  let n0 := (i0 / per).toNat
  let n1 := ((i0 + cnt - 1) / per).toNat
  (List.range (if cnt = 0 then 0 else n1 + 1 - n0)).foldl (fun s k =>
    let n := n0 + k
    let data := (List.range cnt).foldl (fun l (i : Nat) =>
      let h : Int := i0 + i
      if h / per = n then
        forN nch l (fun l (c : Nat) => aput l 0 (8 * (base + c) + (h % per).toNat) (a67Sample cfg (beAt b (12 + (i * nch + c) * w) w)))
      else l) []
    if per = 8 then arrive ⟨n, (List.range nch).map (fun c => base + c), data⟩ t s else arrive ⟨n, [], []⟩ t s) s

/-- At time `t` samples of the packet may still be due, or be counted as missing, within the next 12 folios. -/
def a67Awaited (cfg : Word) (t : Int) (g : A67Got) : Bool :=
  decide (t ≤ a67DueAt cfg ((g.num + g.cnt : Nat) : Int) + 1000000 * 1099511627776)

/-- An AES67 packet on P3 whose destination an enabled stream has. -/
def a67Packet (f : Frame) (t : Int) (s : State) : State :=
  let b := slice f.payload (ihl f.payload + 8) (beAt f.payload (ihl f.payload + 4) 2 - 8)
  match (List.range 16).find? (fun r => s.a67Dest r f && s.a67Ok r b) with
  | none => (dvtCount 3 1 s).evt Reg.DVT_EVT 6
  | some r =>
    let cfg := s.reg (Reg.DVT_A67RXCFG r)
    let cnt := (b.length - 12) / (fld cfg 28 22 * a67W cfg)
    let sn := beAt b 2 2
    let gap := match (s.arx r).seq with
      | some q => (sn + 65536 - (q + 1) % 65536) % 65536
      | none => 0
    let num := a67Number (a67Fs cfg) t (beAt b 4 4) (s.reg (Reg.DVT_A67RXOFS r)).toNat
    let words := (List.range (cnt * fld cfg 28 22)).map (fun i => a67Sample cfg (beAt b (12 + i * a67W cfg) (a67W cfg)))
    let s := s.setArx r { s.arx r with
      seq := some sn, got := (⟨num.toNat, cnt, t, words⟩ :: (s.arx r).got).filter (fun g => a67Awaited cfg t g) }
    let s := if gap = 0 then s else (dvtCount 4 gap s).evt Reg.DVT_EVT 7
    let lat := fld cfg 8 0
    if bit cfg 29 then a67Arrivals cfg b cnt (num + lat * 24 / 25) 8 t s
    else a67Arrivals cfg b cnt (num + lat * 12 / 25) 4 t s

/-- Samples due at Exchange channels during folio `q` that had not arrived when due (R481). -/
def State.a67Missing (s : State) (r q : Nat) : Nat :=
  let cfg := s.reg (Reg.DVT_A67RXCFG r)
  let users := (s.out.exc.filter (fun e => e.2.st != .off && decide (fld e.2.cfg 15 12 = 6) &&
    s.a67Carries r (fld e.2.cfg 6 0))).length
  users * ((List.range (a67Per cfg)).filter (fun i => (s.a67Brought r (a67Due cfg q i)).isNone)).length

/-- The misses of the folio that ends, over all receive streams. -/
def a67MissFolio (q : Nat) (s : State) : State :=
  forN 16 s (fun s r => let n := s.a67Missing r q; if n = 0 then s else dvtCount 5 n s)

/-! ### Control frames (R552) -/

/-- The LEN that Table 10.1 gives a control payload, if its type is one of the table. -/
def ctrlLen (ctype : Nat) (b : List Byte) : Option Nat :=
  match ctype with
  | 1 => some 12
  | 2 => some (if beAt b 2 1 = 1 then 264 else 8)
  | 3 => if beAt b 2 2 ≤ 256 then some (4 + 12 * beAt b 2 2) else none
  | 4 => if beAt b 2 2 ≤ 256 then some (4 + 4 * beAt b 2 2) else none
  | 5 => if beAt b 2 2 ≤ 256 then some (4 + 16 * beAt b 2 2) else none
  | 6 => some 4
  | 16 => some 40
  | 17 => some 520
  | 18 => some (8 + beAt b 6 2)
  | _ => none

/-- A control frame of a type and length of Table 10.1 goes on to the rows that process it; another is discarded and
counted. -/
def controlFrame (f : Frame) (b : List Byte) (s : State) : State :=
  let p := b.drop 16
  match ctrlLen (beAt b 12 2) p with
  | some n => if lenOk f p.length n then s else s.count Reg.DIS_CNT_CBAD 1 55
  | none => s.count Reg.DIS_CNT_CBAD 1 55

/-! ### The receive steps (R445, R447) -/

/-- The frame without its VLAN tag (step 5). -/
def untag (f : Frame) : Frame := { f with vlan := none, len := f.len - 4 * b2n f.vlan.isSome }

/-- Steps 7 to 9: PTP and accepted addresses to the Steward ring, which holds 256 frames; a PTP event message takes its
medium timestamp `stamp` with it (R509). -/
def toSteward (p : Nat) (f : Frame) (stamp : Int) (s : State) : State :=
  let pass := (ptpOffset f).isSome || f.dst == s.macAddr p || f.dst == broadcast ||
    (isGroup f.dst && s.rb (Reg.MAC_CFG p) 8) || s.rb (Reg.MAC_CFG p) 7
  if !pass then s.macCount p 22 1
  else if 256 ≤ (s.port p).ring.length then (s.macCount p 21 1).evt (Reg.MAC_EVT p) 4
  else s.setPort p { s.port p with ring := (s.port p).ring ++ [(untag f, if ptpEvent f then some stamp else none)] }

/-- Steps 5 to 9 on a frame that is not a MAC control frame, with its arrival time and medium timestamp. -/
def classify (p : Nat) (f : Frame) (t stamp : Int) (s : State) : State :=
  let l2 := f.etype == s.rf Reg.DVT_CTRL 31 16
  let udp := udpPort f == some (s.rf Reg.DVT_UDP 15 0)
  let a67 := p == 3 && f.etype == 0x0800 && (List.range 16).any (fun r => s.a67Dest r f)
  let on := s.rb Reg.DVT_CTRL 0
  if l2 then
    let s := s.macCount p 23 1
    if beAt f.payload 0 1 % 16 = 15 then controlFrame f f.payload s
    else if on then dvtAudio p f f.payload t (partnerNote p f.payload s) else s
  else if udp then
    let s := s.macCount p 23 1
    if !on then s
    else if ipv4Ok f.payload then dvtAudio p f (f.payload.drop 28) t (partnerNote p (f.payload.drop 28) s) else badHdr s
  else if a67 then
    let s := s.macCount p 23 1
    if on then a67Packet f t s else s
  else toSteward p f stamp s

/-- A frame received at port `p`; `eighth` is the eighth of the tick of its start-frame delimiter (R506). -/
def frameReceivedOp (p : Nat) (f : Frame) (eighth : Nat) (s : State) : State :=
  if !s.link p then s
  else
    let stamp := s.rxStamp p eighth
    let t := cut16 (s.tim.t8 stamp)
    let s := if f.codeErr then s.macCount p 19 1 else s
    let s := match sizeBin f.len with
      | some b => s.macCount p (5 + b) 1
      | none => s
    if f.len < 64 then s.macCount p (if f.fcsOk then 15 else 16) 1
    else if s.rf (Reg.MAC_CFG p) 29 16 < f.len then s.macCount p (if f.fcsOk then 17 else 18) 1
    else if !f.fcsOk || f.codeErr then s.macCount p 14 1
    else
      let s := ((s.macCount p 0 1).macCount p 1 f.len).macCount p (2 + dstClass f.dst) 1
      if f.etype = 0x8808 ∧ f.vlan = none then s.macCount p 20 1 else classify p f t stamp s

def execFrameReceived (p : Nat) (f : Frame) (eighth : Nat) (s : State) : Host.Outcome State Fault Refusal :=
  portDo p s (frameReceivedOp p f eighth)

/-! ### Enables (R461, R463, R468, R484) -/

def dvtCfgErr (s : State) : State := s.evt Reg.DVT_EVT 0

/-- NCH within Table 8.7 for its format. -/
def nchOk (house : Bool) (n : Nat) : Bool := decide (1 ≤ n) && decide (n ≤ if house then 270 else 360)

/-- The channels of two ranges overlap. -/
def overlap (a n b m : Nat) : Bool := decide (a < b + m) && decide (b < a + n)

/-- A write of DVT_RXIDk. A write that enables is checked by R463; FMT of an enabled subscription stays; EN takes effect
at the next mix slot boundary. -/
def rxidWrite (k : Nat) (v : Word) (s : State) : State :=
  let old := s.reg (Reg.DVT_RXID k)
  let base := s.rf (Reg.DVT_RXMAP k) 26 16
  let nch := s.rf (Reg.DVT_RXMAP k) 8 0
  let others := s.rxEnabled.filter (fun e => e.1 != k)
  let clash := others.any (fun e => decide (fld e.2 22 0 = fld v 22 0) ||
    overlap base nch (s.rf (Reg.DVT_RXMAP e.1) 26 16) (s.rf (Reg.DVT_RXMAP e.1) 8 0))
  if bit v 31 ∧ (2048 < base + nch ∨ !nchOk (bit v 30) nch ∨ clash) then dvtCfgErr s
  else if bit old 31 ∧ bit v 30 ≠ bit old 30 then dvtCfgErr s
  else
    let s1 := s.typeWrite (Reg.DVT_RXID k) v
    let x := s1.sub k
    let s1 := if bit v 31 ≠ x.on then s1.setSub k { x with pendEn := some (bit v 31) } else s1.setSub k { x with pendEn := none }
    budgeted s s1

def execSubscriptionEnable (k : Nat) (v : Word) (s : State) : Host.Outcome State Fault Refusal :=
  hostDo s (fun s => if k < 512 then (if s.pst.run then rxidWrite k v s else subsBoundary (rxidWrite k v s)) else s)

/-- A write of DVT_RXMAPk, ignored while the subscription is enabled. -/
def rxmapWrite (k : Nat) (v : Word) (s : State) : State :=
  if s.rb (Reg.DVT_RXID k) 31 then dvtCfgErr s else s.typeWrite (Reg.DVT_RXMAP k) v

/-- The first output folio whose DVT release lies at least 83.334 µs after now (R468). -/
def State.firstRelease (s : State) : Nat :=
  let x := 12 * s.sysT + 12 * (83334 - 12000) * 1099511627776
  (-((-x) / (1000000 * 1099511627776)) - 1).toNat

/-- A write of DVT_TXCFGk; one that leaves EN as it is leaves a change that awaits its output folio (R468). -/
def txcfgWrite (k : Nat) (v : Word) (s : State) : State :=
  let nch := fld v 8 0
  let long := (List.range 3).any (fun p => bit v (24 + p) && decide (s.rf (Reg.MAC_CFG p) 29 16 < txLen v))
  if bit v 31 ∧ (2560 < fld v 20 9 + nch ∨ !nchOk (bit v 30) nch ∨ long) then dvtCfgErr s
  else
    let s1 := s.typeWrite (Reg.DVT_TXCFG k) v
    let x := s1.tx k
    let pend := if bit v 31 = s.rb (Reg.DVT_TXCFG k) 31 then x.pend
      else if bit v 31 ≠ x.on then some (bit v 31, s.firstRelease) else none
    let s1 := s1.setTx k { x with pend := pend }
    budgeted s s1

def execTransmitStreamEnable (k : Nat) (v : Word) (s : State) : Host.Outcome State Fault Refusal :=
  hostDo s (fun s => if k < 512 then txcfgWrite k v s else s)

/-- SPP of Table 8.10. -/
def a67Spp (cfg : Word) : Nat :=
  let n := match fld cfg 13 12 with
    | 0 => 6
    | 1 => 12
    | 2 => 16
    | _ => 48
  if bit cfg 29 then 2 * n else n

/-- A write of an AES67 stream's configuration (R484); 1 to 64 channels (R477). A stream just enabled starts afresh. -/
def a67cfgWrite (tx : Bool) (r : Nat) (v : Word) (s : State) : State :=
  let reg := fun i => if tx then Reg.DVT_A67TXCFG i else Reg.DVT_A67RXCFG i
  let nch := fld v 28 22
  let clash := (List.range 16).any (fun i => i != r && s.rb (reg i) 31 &&
    overlap (fld v 21 15) nch (s.rf (reg i) 21 15) (s.rf (reg i) 28 22))
  let long := tx && decide (1440 < a67Spp v * nch * a67W v)
  if bit v 31 ∧ (nch = 0 ∨ 64 < nch ∨ 128 < fld v 21 15 + nch ∨ clash ∨ long) then dvtCfgErr s
  else
    let fresh := bit v 31 && !s.rb (reg r) 31
    let s := s.typeWrite (reg r) v
    if !fresh then s
    else if tx then { s with net := { s.net with atx := aput s.net.atx A67.reset r A67.reset } } else s.setArx r A67.reset

def execAes67StreamEnable (tx : Bool) (r : Nat) (v : Word) (s : State) : Host.Outcome State Fault Refusal :=
  hostDo s (fun s => if r < 16 then a67cfgWrite tx r v s else s)

/-- LOSSN folios have passed without a valid copy (R466). -/
def streamLossOp (k : Nat) (s : State) : State :=
  let x := s.sub k
  if x.on ∧ !x.lost ∧ s.rf Reg.DVT_CTRL 15 8 ≤ x.miss then
    ((s.setSub k { x with lost := true }).setBit (Reg.DVT_RXID k) 26 false).evt Reg.DVT_EVT 4
  else s

def execStreamLoss (k : Nat) (s : State) : Host.Outcome State Fault Refusal :=
  hostDo s (fun s => if k < 512 then streamLossOp k s else s)

/-- A folio ends: enabled subscriptions without a valid copy in it count it (R466). -/
def missFolio (q : Nat) (s : State) : State :=
  s.net.subs.foldl (fun s e =>
    let x := e.2
    if x.on ∧ !x.copies.any (fun c => folioOf c.2.2 == q) then s.setSub e.1 { x with miss := x.miss + 1 } else s) s

/-- At P(n) the path losses of every enabled subscription are counted (R474). -/
def netPosted (n : Nat) (s : State) : State :=
  s.net.subs.foldl (fun s e =>
    let w := s.reg (Reg.DVT_RXID e.1)
    let lossOn := fun p => e.2.on && bit w (28 + p) && !e.2.copies.any (fun c => c.1 == n && c.2.1 == p)
    let s := if lossOn 0 then (s.count (Reg.DVT_PLOSS (2 * e.1)) 1 53).evt Reg.DVT_EVT 3 else s
    if lossOn 1 then (s.count (Reg.DVT_PLOSS (2 * e.1 + 1)) 1 53).evt Reg.DVT_EVT 3 else s) s

/-! ### Other writes and views of the DVT and MAC blocks -/

/-- A sink named by a transmit slot: sinks 2528 to 2559 of an -A are ignored (R38, R471). -/
def txmapSinkWrite (a : Nat) (v : Word) (s : State) : State :=
  if s.isA ∧ 2528 ≤ fld v 11 0 ∧ fld v 11 0 < 2560 then dvtCfgErr s else s.typeWrite a v

/-- A write of a DVT register. -/
def dvtWrite (a : Nat) (v : Word) (s : State) : State :=
  if a = Reg.DVT_CTRL then
    let old := s.rf a 15 8
    let s := s.typeWrite a v
    if fld v 15 8 = 0 then dvtCfgErr (s.setFld a 15 8 old) else s
  else if Reg.DVT_RXID 0 ≤ a ∧ a < Reg.DVT_RXID 512 then
    let k := (a - Reg.DVT_RXID 0) / 8
    if (a - Reg.DVT_RXID 0) % 8 = 0 then (if s.pst.run then rxidWrite k v s else subsBoundary (rxidWrite k v s))
    else rxmapWrite k v s
  else if Reg.DVT_TXCFG 0 ≤ a ∧ a < Reg.DVT_TXCFG 512 ∧ (a - Reg.DVT_TXCFG 0) % 16 = 0 then
    txcfgWrite ((a - Reg.DVT_TXCFG 0) / 16) v s
  else if Reg.DVT_TXMAP 0 ≤ a ∧ a < Reg.DVT_TXMAP 2560 then txmapSinkWrite a v s
  else if Reg.DVT_A67RXCFG 0 ≤ a ∧ a < Reg.DVT_A67RXCFG 16 ∧ (a - Reg.DVT_A67RXCFG 0) % 32 = 0 then
    a67cfgWrite false ((a - Reg.DVT_A67RXCFG 0) / 32) v s
  else if Reg.DVT_A67TXCFG 0 ≤ a ∧ a < Reg.DVT_A67TXCFG 16 ∧ (a - Reg.DVT_A67TXCFG 0) % 32 = 0 then
    a67cfgWrite true ((a - Reg.DVT_A67TXCFG 0) / 32) v s
  else if Reg.DVT_A67TXMAP 0 ≤ a ∧ a < Reg.DVT_A67TXMAP 128 then txmapSinkWrite a v s
  else s.typeWrite a v

/-- A write of a MAC register of port `p`. -/
def macWrite (p a : Nat) (v : Word) (s : State) : State := if a = Reg.MAC_CFG p then macCfgWriteOp p v s else s.typeWrite a v

/-- DVT_STATUS as it reads: live subscriptions, streams sending. -/
def State.dvtStatus (s : State) : Word :=
  wd ((s.rxEnabled.filter (fun e => bit e.2 26)).length * 65536 + (s.net.txs.filter (fun e => e.2.on)).length)

end Sys2Proof.Machine
end

