-- ==== Sys2Proof/Machine/DvtTx.lean ====
section
/-! DEFINITION. What the ports send of an output folio: DVT frames and AES67 packets at the DVT release, and the control
frames of chapter 10 (chapter 8, "Transmit streams" and "AES67 on P3"; R551). -/

namespace Sys2Proof.Machine

/-- Node address (R76). -/
def State.nodeAddr (s : State) : Nat := s.rf Reg.DIS_ADDR 13 0

/-- The rendered folio whose output folio is `m` (R86). -/
def State.outFol (s : State) (m : Nat) : Option Fol := if m < 2 then none else s.fol? (m - 2)

/-- DVT payload of stream `k`: samples of output folio `f` in channel order (R458), and whether a sink mismatched
(R471). -/
def State.dvtPayload (s : State) (f : Fol) (cfg : Word) : List Byte × Bool :=
  let nch := fld cfg 8 0
  let house := bit cfg 30
  let chan := fun c j => s.destSample f (s.rf (Reg.DVT_TXMAP (fld cfg 20 9 + c)) 11 0) (if house then 0 else 1) false j
  ((List.range 8).flatMap (fun j => (List.range nch).flatMap (fun c => beBytes (chan c j).1.toNat (fmtW house))),
    (List.range nch).any (fun c => (chan c 0).2))

/-- DVT header (Table 8.6). -/
def dvtHeader (fmt flags stream folio nch : Nat) : List Byte :=
  beBytes (0x10 + fmt) 1 ++ beBytes flags 1 ++ beBytes stream 3 ++ [0] ++ beBytes folio 6 ++ beBytes nch 2 ++ [0, 0]

/-- The frame of stream `k` for output folio `m` on port `p` (R455, R457, R470). -/
def State.dvtFrame (s : State) (k m p : Nat) (body : List Byte) : Frame :=
  let cfg := s.reg (Reg.DVT_TXCFG k)
  let hinge := bit cfg 27
  let node := if hinge then s.rf Reg.HNG_CFG 13 0 else s.nodeAddr
  let data := dvtHeader (b2n (bit cfg 30)) (b2n hinge) (node * 512 + k) m (fld cfg 8 0) ++ body
  let hi := s.reg (Reg.DVT_TXDAHI k)
  let dst := (s.reg (Reg.DVT_TXDALO k)).toNat + 4294967296 * fld hi 15 0
  let vlan := if bit cfg 28 then some (fld cfg 23 21 * 8192 + fld hi 27 16) else none
  let port := s.rf Reg.DVT_UDP 15 0
  if bit cfg 29 then
    mkFrame dst (s.macAddr p) vlan 0x0800
      (ipv4Packet (s.rf Reg.DVT_UDP 31 26 * 4) (s.rf Reg.DVT_UDP 23 16) (Config.ipId k m).toNat
        (s.reg (Reg.MAC_IPADDR p)).toNat (s.reg (Reg.DVT_TXIP k)).toNat port port data)
  else mkFrame dst (s.macAddr p) vlan (s.rf Reg.DVT_CTRL 31 16) data

/-- Port `p` sends audio: it has power, LINK = 1 and a rate (R467). -/
def State.portSends (s : State) (p : Nat) : Bool := s.portOn p && s.link p && s.portRate p != 0

/-- The frame of stream `k` enters queue 6 of its ports selected by `ports`. -/
def sendStream (f : Fol) (m k : Nat) (ports : Nat → Bool) (s : State) : State :=
  let cfg := s.reg (Reg.DVT_TXCFG k)
  let r := s.dvtPayload f cfg
  let s := s.evtIf r.2 Reg.OUT_EVT 6
  forN 3 s (fun s p => if bit cfg (24 + p) && ports p && s.portSends p then offerDvt p (s.dvtFrame k m p r.1) s else s)

/-- Changes of EN whose first output folio has come take effect (R468). -/
def txEffect (m : Nat) (s : State) : State :=
  { s with net := { s.net with txs := s.net.txs.filterMap (fun e =>
      match e.2.pend with
      | some (on, m0) => if m0 ≤ m then (if on then some (e.1, ⟨true, none⟩) else none) else some e
      | none => some e) } }

/-! ### AES67 transmit (R482, R483) -/

def State.atx (s : State) (t : Nat) : A67 := aget s.net.atx A67.reset t

def State.setAtx (s : State) (t : Nat) (x : A67) : State := { s with net := { s.net with atx := aput s.net.atx A67.reset t x } }

/-- One packet of stream `t` with its samples, sequence number and RTP timestamp. -/
def State.a67Frame (s : State) (t sn ts : Nat) (body : List Byte) : Frame :=
  let rtp := [0x80] ++ beBytes (s.rf (Reg.DVT_A67TXPORT t) 6 0) 1 ++ beBytes sn 2 ++ beBytes ts 4 ++
    beBytes (s.reg (Reg.DVT_A67TXSSRC t)).toNat 4 ++ body
  let ip := (s.reg (Reg.DVT_A67TXADDR t)).toNat
  mkFrame (Config.a67Mac ip).toNat (s.macAddr 3) none 0x0800
    (ipv4Packet Config.a67Tos.toNat Config.a67Ttl.toNat (Config.ipId (512 + t) sn).toNat (s.reg (Reg.MAC_IPADDR 3)).toNat ip
      Config.a67Port.toNat (s.rf (Reg.DVT_A67TXPORT t) 31 16) rtp)

/-- Packets that the samples held complete: `end_` is the number of the sample after the last held one. -/
def a67Packets (t nch spp w : Nat) (end_ ofs : Nat) : Nat → State → State
  | 0, s => s
  | fuel + 1, s =>
    let x := s.atx t
    if x.buf.length < spp * nch ∨ nch = 0 then s
    else
      let first := end_ - x.buf.length / nch
      let body := (x.buf.take (spp * nch)).flatMap (fun v => beBytes v.toNat w)
      let sn := x.seq.getD 0
      let s := if s.portSends 3 then offerDvt 3 (s.a67Frame t sn ((first + ofs) % 4294967296) body) s else s
      a67Packets t nch spp w end_ ofs fuel (s.setAtx t { x with seq := some ((sn + 1) % 65536), buf := x.buf.drop (spp * nch) })

/-- Output folio `m` of transmit stream `t`: its samples are held until a packet is full. After a gap in the output
folios a packet starts anew, so that its timestamp is that of its first sample (R483, log entry 146). -/
def a67Release (f : Fol) (m t : Nat) (s : State) : State :=
  let cfg := s.reg (Reg.DVT_A67TXCFG t)
  if !bit cfg 31 then s
  else
    let per := if bit cfg 29 then 8 else 4
    let nch := fld cfg 28 22
    let chan := fun c j => s.destSample f (s.rf (Reg.DVT_A67TXMAP ((fld cfg 21 15 + c) % 128)) 11 0)
      (if bit cfg 30 then 2 else 1) (!bit cfg 29) j
    let s := s.evtIf ((List.range nch).any (fun c => (chan c 0).2)) Reg.OUT_EVT 6
    let new := (List.range per).flatMap (fun j => (List.range nch).map (fun c => (chan c j).1))
    let x := s.atx t
    let seq := some (x.seq.getD (m % 65536))
    let held := if x.fol = some (m - 1) then x.buf else []
    let s := s.setAtx t { x with buf := held ++ new, fol := some m, seq := seq }
    a67Packets t nch (a67Spp cfg) (a67W cfg) (per * (m + 1)) (s.reg (Reg.DVT_A67TXOFS t)).toNat 3 s

/-! ### The DVT release (R443, R467, R469, R581) -/

/-- The frames of output folio `m` enter queue 6 in ascending stream index, then the AES67 packets; with EN = 0 none is
sent. A stream with OWNER = 1 sends only while NETTKO = 1. -/
def releaseFolio (m : Nat) (s : State) : State :=
  let s := txEffect m s
  match s.outFol m with
  | none => s
  | some f =>
    if !s.rb Reg.DVT_CTRL 0 then s
    else
      let s := (s.net.txs.filter (fun e => e.2.on)).foldl (fun s e =>
        if s.rb (Reg.DVT_TXCFG e.1) 27 && !s.hng.nettko then s else sendStream f m e.1 (fun _ => true) s) s
      if s.portOn 3 then forN 16 s (fun s t => a67Release f m t s) else s

/-- 12.000 µs after the folio start, the frames of the output folio whose egress has begun are released. -/
def dvtReleaseOp (s : State) : State :=
  match s.pst.egress with
  | some m => releaseFolio m s
  | none => s

def execDvtRelease (s : State) : Host.Outcome State Fault Refusal := hostDo s dvtReleaseOp

/-! ### Control frames sent (R551, R553) -/

/-- The sequencer's folio number (R140): n + 1 while L(n) runs. -/
def State.seqFolio (s : State) : Nat :=
  match s.pst.cur with
  | some n => n + 1
  | none => s.pst.cut

/-- A control frame of this node on port `p`: queue 5. Control frames leave a port that has power. -/
def sendControl (p dst ctype : Nat) (payload : List Byte) (s : State) : State :=
  if s.portOn p then
    offer p 5 (mkFrame dst (s.macAddr p) none (s.rf Reg.DVT_CTRL 31 16)
      (dvtHeader 15 0 (s.nodeAddr * 512) s.seqFolio ctype ++ payload)) s
  else s

/-- District group of district `d`; the venue group has 0xFF. -/
def State.group (s : State) (d : Nat) : Nat :=
  s.rf Reg.DIS_MCHI 15 0 * 4294967296 + s.rf Reg.DIS_MCLO 31 8 * 256 + d

/-- A control frame on both networks. -/
def sendNetworks (dst ctype : Nat) (payload : List Byte) (s : State) : State :=
  sendControl 1 dst ctype payload (sendControl 0 dst ctype payload s)

end Sys2Proof.Machine
end

