-- ==== Sys2Proof/Machine/KwyLink.lean ====
section
/-! DEFINITION. The Keyway link, the launch of messages, the proxy, and the launch of HINGE frames (chapter 7, "Link",
"Messages" and "Commands and the proxy window"; R572). -/

namespace Sys2Proof.Machine

def State.setKwy (s : State) (k : Kwy) : State := { s with kwy := k }

/-- A command on the host's side of the Keyway: an ML2560-P has none (R5). -/
def kwyDo (s : State) (f : State → State) : Host.Outcome State Fault Refusal := .next (if s.isA then f s else s)

/-! ### HINGE frames (R572, Table 10.2) -/

/-- FIELDOK: the Keyway is UP and the field die has not reported AUTONOMY; 1 on the -P (Table 10.5). -/
def State.fieldOk (s : State) : Bool := !s.isA || (s.kwy.link == .up && !s.rb Reg.KWY_STATUS 3)

/-- The lines that this node drives: its own half, all in TAKEN, none in YIELDED. -/
def State.ownedNow (s : State) : Word :=
  match s.hng.st with
  | .taken => s.reg Reg.HNG_LINES
  | .yielded => 0
  | _ => s.reg Reg.HNG_OWN

/-- Own checksum of the output folio whose egress began latest (R574). -/
def State.egressCsum (s : State) : Word :=
  match s.pst.egress with
  | some m => aget s.hng.csums 0 m
  | none => 0

/-- The HINGE payload for path `i` (0 = P2, 1 = P0, 2 = P1). -/
def State.hingePayload (s : State) (i : Nat) (release : Bool) : List Byte :=
  let h := s.hng
  let tx := if i = 0 then h.tx0 else if i = 1 then h.tx1 else h.tx2
  let rx := if i = 0 then h.rx0 else if i = 1 then h.rx1 else h.rx2
  beBytes s.nodeAddr 2 ++ beBytes h.st.code 1 ++
    beBytes (b2n s.fieldOk + 2 * b2n h.synced + 4 * b2n release + 8 * b2n h.decider) 1 ++
    beBytes (s.reg Reg.HNG_IMGID).toNat 4 ++ beBytes s.ownedNow.toNat 4 ++ beBytes s.egressCsum.toNat 4 ++
    beBytes tx 8 ++ beBytes rx 8 ++ beBytes 0 8

/-- The partner's source address, learned from its ANNOUNCE. -/
def State.partnerMac (s : State) : Nat := (aget s.dis.heard Heard.none (s.rf Reg.HNG_CFG 13 0)).src

/-- One HINGE on path `i`. -/
def sendHinge (i : Nat) (release : Bool) (s : State) : State :=
  sendControl (if i = 0 then 2 else i - 1) s.partnerMac 0x10 (s.hingePayload i release) s

/-- The hinge is active. -/
def State.hinged (s : State) : Bool := s.rb Reg.HNG_CTRL 0

/-- A change of FIELDOK to 0 is sent at once on P2. -/
def fieldOkFollow (was : Bool) (s : State) : State := if s.hinged && was && !s.fieldOk then sendHinge 0 false s else s

/-! ### Proxy accesses (R407, R408, Table 7.5) -/

/-- A proxy access ends: its Clearinghouse transaction gets its response, or the answer is the sender's. -/
def proxyEnd (p : Proxy) (r : Resp) (v : Word) (s : State) : State :=
  let data := if p.wr then [] else leBytes v.toNat 4
  match p.txn with
  | some t => if r = .ok then clhAnswer t r data s else clhRefuse t r 5 s
  | none => s.answer r data

/-- The next waiting access, if none is outstanding, becomes one CMD. -/
def proxyNext (s : State) : State :=
  match s.kwy.out, s.kwy.waiting with
  | none, p :: rest =>
    let tag := (s.kwy.tag + 1) % 65536
    let s := s.setKwy { s.kwy with out := some { p with tag := tag }, waiting := rest, tag := tag }
    s.hostQueue 3 (leBytes tag 2 ++ [if p.wr then 2 else 1, 0] ++ leBytes (p.addr - 0x70000000) 4 ++
      leBytes (if p.wr then p.v.toNat else 0) 4)
  | _, _ => s

/-- An access to the proxy window: an error while the link is not UP (R75). The takeover write goes ahead of every
waiting access. -/
def proxyAccess (urgent : Bool) (p : Proxy) (s : State) : State :=
  if s.kwy.link ≠ .up then proxyEnd p .err 0 s
  else
    proxyNext (s.setKwy { s.kwy with waiting := if urgent then p :: s.kwy.waiting else s.kwy.waiting ++ [p] })

/-- A write through the proxy window by the part's own logic or runtime. -/
def proxyWrite (urgent : Bool) (a : Nat) (v : Word) (s : State) : State := proxyAccess urgent ⟨none, true, a, v, 0, false⟩ s

/-- The outstanding access ends with an error, and the next begins. -/
def proxyFail (e : Nat) (s : State) : State :=
  match s.kwy.out with
  | some p => proxyNext (proxyEnd p .err 0 ((s.setKwy { s.kwy with out := none }).evt Reg.KWY_EVT e))
  | none => s

/-- A master's access to the proxy window (R407, R609): the checks of R58, R75 and R589, then a CMD. -/
def proxyAccessOp (m : Master) (wr : Bool) (a : Nat) (v : Word) (s : State) : State :=
  if a < 0x70000000 ∨ 0x70100000 ≤ a then s
  else
    let t : Txn := ⟨m, 0, wr, a, 4, 1, if wr then leBytes v.toNat 4 else [], [], .none, 7⟩
    let c := s.accessCause m wr a 4 1
    if c = 0 then proxyAccess false ⟨some t, wr, a, v, 0, false⟩ s else clhRefuse t .err c s

def execProxyAccess (m : Master) (wr : Bool) (a : Nat) (v : Word) (s : State) : Host.Outcome State Fault Refusal :=
  hostDo s (proxyAccessOp m wr a v)

/-- 20.000 µs have passed since the launch of the outstanding CMD. -/
def cmdTimeoutOp (s : State) : State :=
  match s.kwy.out with
  | some p => if p.launched then proxyFail 3 s else s
  | none => s

def execCmdTimeout (s : State) : Host.Outcome State Fault Refusal := kwyDo s cmdTimeoutOp

/-! ### Link states (Table 7.1) -/

/-- Both receive lanes of one end are aligned to commas: that end goes to TRAIN (R387). The field die recovers its
clock from the lanes (R385). -/
def lanesAlignedOp (host : Bool) (s : State) : State :=
  if host then
    (if s.kwy.link = .down ∧ s.rb Reg.KWY_CTRL 0 ∧ s.hostLive then s.setKwy { s.kwy with link := .train } else s)
  else if s.field.link = .down ∧ s.fieldLive then s.setField { s.field with link := .train, laneClock := true }
  else s

def execLanesAligned (host : Bool) (s : State) : Host.Outcome State Fault Refusal := kwyDo s (lanesAlignedOp host)

/-- Deskew of one end is complete with LD in KEYWAY cycles, the other end being in TRAIN or UP: UP, or LDERR beyond 1,536
where the host's end measures it. -/
def trainingCompleteOp (host : Bool) (ld : Nat) (s : State) : State :=
  if host then
    if s.kwy.link ≠ .train ∨ s.field.link = .down then s
    else if 1536 < ld then s.evt Reg.KWY_EVT 9
    else
      let s := s.setReg Reg.KWY_LD (wd ld)
      (s.setKwy { s.kwy with link := .up, txSeq := 0, rxSeq := none, ready := [], held := [], first := [], busyUntil := 0 }).evt
        Reg.KWY_EVT 0
  else if s.field.link ≠ .train ∨ s.kwy.link = .down ∨ 1536 < ld then s
  else
    let s := s.setFld Reg.FKWY_STATUS 26 16 ld
    foutSettle
      (s.setField { s.field with link := .up, txSeq := 0, rxSeq := none, ready := [], held := [], first := [], busyUntil := 0 })

def execTrainingComplete (host : Bool) (ld : Nat) (s : State) : Host.Outcome State Fault Refusal :=
  kwyDo s (trainingCompleteOp host ld)

/-- Waiting accesses end with an error. -/
def proxyFlush : List Proxy → State → State
  | [], s => s
  | p :: t, s => proxyFlush t (proxyEnd p .err 0 s)

/-- The field die's end goes DOWN: messages not sent are lost, F0 frames among them counted as dropped. -/
def fieldEndDown (s : State) : State :=
  let wasUp := s.field.link = .up
  let frames := ((s.field.ready ++ s.field.held).filter (fun m => m.typ == 8)).length
  let s := forN frames s (fun s _ => fbusDrop s)
  let s := s.setField { s.field with link := .down, ready := [], held := [], first := [] }
  let s := if wasUp then s.fevt Reg.FKWY_EVT 4 else s
  if s.fieldLive then foutSettle s else s

/-- The host's end goes DOWN: messages not sent are lost, the outstanding access ends with CMDTO, waiting ones with an
error. -/
def hostEndDown (s : State) : State :=
  let wasUp := s.kwy.link = .up
  let ok := s.fieldOk
  let out := s.kwy.out
  let waiting := s.kwy.waiting
  let s := s.setKwy { s.kwy with link := .down, ready := [], held := [], first := [], out := none, waiting := [] }
  let s := match out with
    | some p => proxyEnd p .err 0 (s.evt Reg.KWY_EVT 3)
    | none => s
  let s := proxyFlush waiting s
  fieldOkFollow ok (if wasUp then s.evt Reg.KWY_EVT 1 else s)

/-- Both ends go DOWN (Table 7.1, a reset of either die). -/
def keywayDown (s : State) : State := hostEndDown (fieldEndDown s)

/-- Code-group errors or loss of alignment at one end take it from UP to DOWN; EN = 0 takes the host's end DOWN from any
state. -/
def keywayLinkDownOp (host errs : Bool) (s : State) : State :=
  if host then
    (if (errs ∧ s.kwy.link = .up) ∨ (!s.rb Reg.KWY_CTRL 0 ∧ s.kwy.link ≠ .down) then hostEndDown s else s)
  else if errs ∧ s.field.link = .up then fieldEndDown s else s

def execKeywayLinkDown (host errs : Bool) (s : State) : Host.Outcome State Fault Refusal := kwyDo s (keywayLinkDownOp host errs)

/-- A write of KWY_CTRL. -/
def kwyCtrlWrite (v : Word) (s : State) : State := keywayLinkDownOp true false (s.typeWrite Reg.KWY_CTRL v)

/-- Loss of lane clock: the recovery PLL holds its last frequency until the next boundary (R386). -/
def laneClockLossOp (s : State) : State := s.setField { s.field with laneClock := false }

def execLaneClockLoss (s : State) : Host.Outcome State Fault Refusal := fieldDo s laneClockLossOp

/-- A carrier boundary of channel 0: FIELD changes to the oscillator without lane clock, and back once the link is UP. -/
def fieldClockSwitchOp (s : State) : State :=
  if !s.field.osc && !s.field.laneClock then (s.setField { s.field with osc := true }).fevt Reg.FSYS_EVT 2
  else if s.field.osc && s.field.laneClock && s.field.link == .up then
    (s.setField { s.field with osc := false }).fevt Reg.FSYS_EVT 2
  else s

def execFieldClockSwitch (s : State) : Host.Outcome State Fault Refusal := fieldDo s fieldClockSwitchOp

/-! ### The launch of messages (R391, R397, R784) -/

/-- The header of a message (Table 7.2). -/
def kwyHeader (m : KwyMsg) : List Byte := leBytes m.typ 1 ++ [0] ++ leBytes m.seq 2 ++ leBytes m.len 2

/-- The CRC that a message must carry (R393). -/
def kwyCrc (m : KwyMsg) : Word := crc32 (kwyHeader m ++ m.payload)

/-- Priority of Table 7.3; 1 is the highest. -/
def kwyPriority (fromHost : Bool) (typ : Nat) : Nat :=
  match typ with
  | 1 => 4
  | 2 => 2
  | 3 => 3
  | 4 => 3
  | 5 => 4
  | 6 => 5
  | 7 => 1
  | 8 => if fromHost then 5 else 6
  | 9 => if fromHost then 1 else 2
  | _ => 7

/-- Ticks for which a message occupies both lanes: 10 a byte pair and a delimiter (R384, R390). -/
def laneTicks (m : KwyMsg) : Nat := 10 * (2 + (10 + m.payload.length) / 2)

/-- The first of the messages of the highest priority. -/
def pickMessage (fromHost : Bool) (l : List KwyMsg) : Option KwyMsg :=
  l.foldl (fun b m => match b with
    | none => some m
    | some x => if kwyPriority fromHost m.typ < kwyPriority fromHost x.typ then some m else some x) none

/-- The message ends within `room` ticks. -/
def fits (room : Int) (m : KwyMsg) : Bool := decide ((laneTicks m : Int) ≤ room)

/-- The messages that may start, of a list in order of queueing: those that end in time, and behind none of their own type
that does not (R391, R784). -/
def startable (room : Int) : List Nat → List KwyMsg → List KwyMsg
  | _, [] => []
  | blocked, m :: t =>
    if blocked.contains m.typ || !fits room m then startable room (m.typ :: blocked) t else m :: startable room blocked t

/-- The messages among which one is chosen (R784): until those that the folio start made ready are sent, a held
message and those behind it wait. -/
def candidates (first ready held : List KwyMsg) : List KwyMsg :=
  if first = [] then held ++ ready else first ++ ready.filter (fun m => !held.any (fun h => h.typ == m.typ))

/-- The message to launch, and the lists made ready by the folio start, ready and held after it: one that does not fit and
would go first is held. -/
def nextMessage (fromHost : Bool) (room : Int) (first ready held : List KwyMsg) :
    Option KwyMsg × (List KwyMsg × (List KwyMsg × List KwyMsg)) :=
  let cands := candidates first ready held
  let go := startable room [] cands
  let pick := pickMessage fromHost go
  let late := fun m => cands.contains m && !go.contains m && (match pick with
    | some p => decide (kwyPriority fromHost m.typ ≤ kwyPriority fromHost p.typ)
    | none => true)
  (pick, first.filter (fun m => !late m), ready.filter (fun m => !late m),
    held ++ (first ++ ready).filter late)

/-- Remove the first occurrence. -/
def removeMsg (x : KwyMsg) : List KwyMsg → List KwyMsg
  | [] => []
  | m :: t => if m = x then t else m :: removeMsg x t

/-- Sequence number, FOFS of a HEARTBEAT and CRC are set at the launch. -/
def finishMsg (seq fofs : Nat) (m : KwyMsg) : KwyMsg :=
  let p := if m.typ = 9 then patch m.payload 6 (leBytes fofs 2) else m.payload
  let m := { m with seq := seq, payload := p }
  { m with crc := kwyCrc m }

/-- Ticks from now to the host's next folio start, and since the start of folio `q` (R13). -/
def State.hostRoom (s : State) : Int :=
  let q := (12 * s.sysT) / (1000000 * 1099511627776)
  ((q + 1) * 1000000 * 1099511627776 - 12 * s.sysT) * 1024 / (12 * 1000 * 1099511627776)

def State.hostFofs (s : State) (q : Nat) : Nat :=
  ((12 * s.sysT - (q : Int) * 1000000 * 1099511627776) * 1024 / (12 * 1000 * 1099511627776)).toNat

/-- FIELD cycles of field folio `f`: one folio in three has 85,334, as in R88; which one is DEDUCED (log entry 109). -/
def folioTicks (f : Nat) : Nat := if f % 3 = 0 then 85334 else 85333

/-- Ticks from now to the next field folio start (R402). -/
def State.fieldRoom (s : State) : Int := ((s.field.folioAt + folioTicks s.field.folio : Nat) : Int) - s.clock

/-- The lists without the message launched. -/
def takeMsg (m : KwyMsg) (l : List KwyMsg × (List KwyMsg × List KwyMsg)) : List KwyMsg × (List KwyMsg × List KwyMsg) :=
  if l.1.contains m then (removeMsg m l.1, l.2)
  else if l.2.2.contains m then (l.1, (l.2.1, removeMsg m l.2.2))
  else (l.1, (removeMsg m l.2.1, l.2.2))

/-- A message leaves the host when the lanes are free. -/
def hostLaunch (s : State) : State :=
  if s.kwy.link ≠ .up ∨ s.clock < s.kwy.busyUntil then s
  else
    let r := nextMessage true s.hostRoom s.kwy.first s.kwy.ready s.kwy.held
    match r.1 with
    | none => s.setKwy { s.kwy with first := r.2.1, ready := r.2.2.1, held := r.2.2.2 }
    | some m =>
      let x := finishMsg s.kwy.txSeq (s.hostFofs (leNat (m.payload.take 6))) m
      let out := if m.typ = 3 then s.kwy.out.map (fun p => { p with launched := true }) else s.kwy.out
      let l := takeMsg m r.2
      s.setKwy { s.kwy with
        first := l.1, ready := l.2.1, held := l.2.2,
        txSeq := (s.kwy.txSeq + 1) % 65536, busyUntil := s.clock + laneTicks m, sent := some x, out := out }

/-- A message leaves the field die. -/
def fieldLaunch (s : State) : State :=
  if s.field.link ≠ .up ∨ s.clock < s.field.busyUntil then s
  else
    let r := nextMessage false s.fieldRoom s.field.first s.field.ready s.field.held
    match r.1 with
    | none => s.setField { s.field with first := r.2.1, ready := r.2.2.1, held := r.2.2.2 }
    | some m =>
      let x := finishMsg s.field.txSeq (s.clock - s.field.folioAt) m
      let l := takeMsg m r.2
      s.setField { s.field with
        first := l.1, ready := l.2.1, held := l.2.2,
        txSeq := (s.field.txSeq + 1) % 65536, busyUntil := s.clock + laneTicks m, sent := some x }

/-- A folio start: what the last one made ready and was not sent joins the held messages (R784). -/
def kwyFolio (s : State) : State := s.setKwy { s.kwy with held := s.kwy.held ++ s.kwy.first, first := [] }

def execKeywayMessageLaunch (fromHost : Bool) (s : State) : Host.Outcome State Fault Refusal :=
  kwyDo s (fun s => if fromHost then hostLaunch s else fieldLaunch s)

end Sys2Proof.Machine
end

