-- ==== Sys2Proof/Machine/Keyway.lean ====
section
/-! DEFINITION. Keyway messages as each end accepts them, the folio timing of the field die, heartbeats and the FAULT log
(chapter 7, "Messages", "Folio timing across the barrier", "Heartbeat and field autonomy"). -/

namespace Sys2Proof.Machine

/-! ### Acceptance and counting (R398, R399) -/

/-- The LEN of Table 7.3; FBUS carries FLEN and the frame, padded to even. -/
def kwyLen (m : KwyMsg) : Nat :=
  match m.typ with
  | 1 => 1032
  | 2 => 136
  | 3 => 12
  | 4 => 12
  | 5 => 16
  | 6 => 1736
  | 7 => 8
  | 8 => let n := leNat (m.payload.take 2); 4 + n + n % 2
  | 9 => 12
  | _ => 0

/-- Types that travel from the host, and from the field die. -/
def typesFromHost : List Nat := [1, 2, 3, 8, 9]
def typesFromField : List Nat := [4, 5, 6, 7, 8, 9]

/-- The first check of R398 that fails: 0 CODE, 1 TYPE, 2 LEN, 3 CRC. -/
def kwyFails (types : List Nat) (m : KwyMsg) : Option Nat :=
  if m.codeErr then some 0
  else if !types.contains m.typ then some 1
  else if m.len ≠ kwyLen m ∨ m.payload.length ≠ m.len then some 2
  else if m.crc ≠ kwyCrc m then some 3
  else none

/-- Messages missing between the last accepted SEQ and this one. -/
def seqGap (prev : Option Nat) (seq : Nat) : Nat :=
  match prev with
  | some q => (seq + 65536 - (q + 1) % 65536) % 65536
  | none => 0

/-- A message from the host as the field die receives it. -/
def fieldTake (m : KwyMsg) (act : List Byte → State → State) (s : State) : State :=
  if s.field.link ≠ .up then s
  else
    match kwyFails typesFromHost m with
    | some i => (s.fkwyCount (Reg.FKWY_CNT i) 1).fevt Reg.FKWY_EVT 0
    | none =>
      let gap := seqGap s.field.rxSeq m.seq
      let s := s.setField { s.field with rxSeq := some m.seq }
      let s := if gap = 0 then s else (s.fkwyCount (Reg.FKWY_CNT 4) gap).fevt Reg.FKWY_EVT 1
      act m.payload s

/-- KWY counter `i` by `n`. -/
def kwyCount (i n : Nat) (s : State) : State := s.count (Reg.KWY_CNT i) n 60

/-- A message from the field die as the host receives it. -/
def hostTake (m : KwyMsg) (act : List Byte → State → State) (s : State) : State :=
  if s.kwy.link ≠ .up then s
  else
    match kwyFails typesFromField m with
    | some i => (kwyCount i 1 s).evt Reg.KWY_EVT 5
    | none =>
      let gap := seqGap s.kwy.rxSeq m.seq
      let s := s.setKwy { s.kwy with rxSeq := some m.seq }
      let s := if gap = 0 then s else (kwyCount 4 gap s).evt Reg.KWY_EVT 6
      act m.payload s

/-! ### Messages to the field die -/

/-- The output folio due next (R403): the one of the present field folio, until it is accepted or missing. -/
def State.dueFolio (s : State) : Nat :=
  match s.field.lastBlock with
  | some b => if s.field.folio ≤ b + 1 then b + 1 else s.field.folio - 1
  | none => s.field.folio - 1

/-- Sample `j` of channel `c` in a BLOCK. -/
def blockWord (b : List Byte) (c j : Nat) : Word := wd (leNat (slice b (8 + (32 * j + c) * 4) 4))

/-- The largest magnitude of channel `c` in a BLOCK (R405). -/
def blockPeak (b : List Byte) (c : Nat) : Nat :=
  (List.range 8).foldl (fun m j => Nat.max m (blockWord b c j).toInt.natAbs) 0

/-- The envelopes of output folio `m` become known. -/
def envelopeKnown (m : Nat) (env : Nat → Nat) (s : State) : State := silenceFrom m env (applyEnvelope m env s)

/-- Samples of the channel's sink enter the window of R375. -/
def Chan.heard (x : Chan) (l : List Int) : Chan := { x with sq := x.sq + sumSquares l, sqN := x.sqN + l.length }

/-- BLOCK (R403, R404, R405, R412, R415). In AUTONOMY it is discarded; so is one whose folio is not due. The samples of a
claimed channel are ignored with CMDREF (R432). -/
def blockOp (b : List Byte) (s : State) : State :=
  let m := leNat (b.take 6)
  if s.field.autonomy ∨ m ≠ s.dueFolio then s
  else
    let samples := forN 256 [] (fun l k => aput l 0 k (wd (leNat (slice b (8 + k * 4) 4))))
    let s := s.setField { s.field with blocks := ((m, samples) :: s.field.blocks).take 3, lastBlock := some m }
    let s := forN 32 s (fun s c =>
      let x := (s.chan c).heard ((List.range 8).map (fun j => (blockWord b c j).toInt))
      match x.pend with
      | some len =>
        let n := match x.nxt with
          | some (n2, .host) => Nat.max n2 (8 * m)
          | _ => 8 * m
        s.setChan c { x with src := .up n len, pend := none }
      | none => s.setChan c x)
    let s := forN 32 s (fun s c => if s.claimed c then cmdRefused c s else s)
    if s.field.envs.any (fun e => e.1 == m) then s else envelopeKnown m (blockPeak b) s

/-- ENVELOPE. -/
def envelopeOp (b : List Byte) (s : State) : State :=
  if s.field.autonomy then s else envelopeKnown (leNat (b.take 6)) (fun c => leNat (slice b (8 + 4 * c) 4)) s

/-- CMD: performed and acknowledged (R408): 2 = OP not valid, 1 = no register at ADDR. -/
def cmdOp (b : List Byte) (s : State) : State :=
  let op := leNat (slice b 2 1)
  let off := leNat (slice b 4 4)
  let a := 0x70000000 + off
  let known := decide (off < 0x100000 ∧ off % 4 = 0) && (regSpec? a).isSome
  let res : Nat := if op ≠ 1 ∧ op ≠ 2 then 2 else if known then 0 else 1
  let data : Word := if res = 0 ∧ op = 1 then fieldRead a s else 0
  let s := if res = 0 ∧ op = 2 then fieldWrite a (wd (leNat (slice b 8 4))) s else if res = 0 then s.clearRC a else s
  s.fieldQueue 4 (b.take 2 ++ [BitVec.ofNat 8 res, 0] ++ slice b 4 4 ++ leBytes data.toNat 4)

/-- FBUS: the frame enters queue Q of F0 (R433). -/
def fbusToFieldOp (b : List Byte) (s : State) : State :=
  f0Offer (leNat (slice b 2 1)) (frameOf (slice b 4 (leNat (b.take 2)))) s

/-- HEARTBEAT of the host: field folio timing, the reference of R411 and the count of R414. Where it gives the folio in
progress another number, what is under way goes on (R425, R432). -/
def hostHeartbeatOp (b : List Byte) (s : State) : State :=
  let start := s.clock - (s.rf Reg.FKWY_STATUS 26 16 + leNat (slice b 6 2))
  let q := leNat (b.take 6)
  let s := renumber ((q : Int) - (s.field.folio + roundHalfUp (3 * ((start : Int) - s.field.folioAt)) 256000)) s
  let f := s.field
  s.setField { f with
    lastHb := some s.clock, folio := q, folioAt := start,
    recov := if f.hbSeen then f.recov else f.recov + 1, hbSeen := true }

def execBlock (m : KwyMsg) (s : State) : Host.Outcome State Fault Refusal := fieldDo s (fieldTake m blockOp)

def execEnvelope (m : KwyMsg) (s : State) : Host.Outcome State Fault Refusal := fieldDo s (fieldTake m envelopeOp)

def execCmd (m : KwyMsg) (s : State) : Host.Outcome State Fault Refusal := fieldDo s (fieldTake m cmdOp)

def execFbusToField (m : KwyMsg) (s : State) : Host.Outcome State Fault Refusal := fieldDo s (fieldTake m fbusToFieldOp)

def execHostHeartbeat (m : KwyMsg) (s : State) : Host.Outcome State Fault Refusal := fieldDo s (fieldTake m hostHeartbeatOp)

/-! ### Messages to the host -/

/-- CMDACK (Table 7.5): the outstanding access ends, or the CMDACK is stray. -/
def cmdackOp (b : List Byte) (s : State) : State :=
  match s.kwy.out with
  | some p =>
    if p.tag = leNat (b.take 2) then
      if leNat (slice b 2 1) = 0 then
        proxyNext (proxyEnd p .ok (wd (leNat (slice b 8 4))) (s.setKwy { s.kwy with out := none }))
      else proxyFail 4 s
    else kwyCount 5 1 s
  | none => kwyCount 5 1 s

/-- STATUS: the field's mode, Strongbox, FOUT, inputs and override map; a report of AUTONOMY and a release of FOUT raise
their events when they change (Table 14.8). -/
def statusOp (b : List Byte) (s : State) : State :=
  let ok := s.fieldOk
  let mode := decide (leNat (slice b 6 1) % 2 = 1)
  let sbx := leNat (slice b 7 1) % 2
  let fout := leNat (slice b 7 1) / 2 % 2
  let wasA := s.rb Reg.KWY_STATUS 3
  let wasF := s.rb Reg.KWY_FSTAT0 16
  let s := (s.setBit Reg.KWY_STATUS 3 mode).setFld Reg.KWY_STATUS 4 4 sbx
  let s := s.setReg Reg.KWY_FSTAT0 (wd (sbx * 262144 + b2n mode * 131072 + fout * 65536 + leNat (slice b 12 2)))
  let s := s.setReg Reg.KWY_FSTAT1 (wd (leNat (slice b 8 4)))
  let s := s.evtIf (mode && !wasA) Reg.KWY_EVT 8
  let s := if fout = 1 ∧ !wasF then s.sum 10 else s
  fieldOkFollow ok s

/-- SENSE: sample j of channel k, 24 bits, as house sample S × 2^4 of input folio f + 1 (R396, R406). It comes after
A(f), so the samples of the folios before stay until their entry cuts. -/
def senseOp (b : List Byte) (s : State) : State :=
  let f := leNat (b.take 6)
  let data := forN 72 [] (fun l k => setSmps l k (fun j => wdi (signed 24 (leNat (slice b (8 + (72 * j + k) * 3) 3)) * 16)))
  let old := match s.kwy.senseFolio with
    | some n => ((n, s.kwy.sense) :: s.kwy.sensed).take 3
    | none => s.kwy.sensed
  s.setKwy { s.kwy with sense := data, senseFolio := some (f + 1), sensed := old }

/-- FAULT: KWY_FEVT, and an entry of the log, which holds 64 (R413). -/
def faultOp (b : List Byte) (s : State) : State :=
  let r : FaultRec := ⟨leNat (slice b 0 1), leNat (slice b 1 1), leNat (slice b 2 1), leNat (slice b 3 1)⟩
  let s := if r.blk ≤ 8 then s.raise Reg.KWY_FEVT (bitw r.blk) else s
  let s := if s.kwy.log.length < 64 then s.setKwy { s.kwy with log := s.kwy.log ++ [r] }
    else (s.setKwy { s.kwy with logOvf := true }).note (regKey Reg.KWY_FLOG 0) (bitw 30)
  s.evt Reg.KWY_EVT 7

/-- FBUS: a frame of F0 reaches the Steward runtime. -/
def fbusToHostOp (b : List Byte) (s : State) : State := s.setKwy { s.kwy with frame := some (slice b 4 (leNat (b.take 2))) }

/-- HEARTBEAT of the field die (R416). -/
def fieldHeartbeatOp (_ : List Byte) (s : State) : State :=
  (s.setKwy { s.kwy with lastHb := some s.clock }).setBit Reg.KWY_STATUS 2 true

def execCmdack (m : KwyMsg) (s : State) : Host.Outcome State Fault Refusal := kwyDo s (hostTake m cmdackOp)

def execStatus (m : KwyMsg) (s : State) : Host.Outcome State Fault Refusal := kwyDo s (hostTake m statusOp)

def execSense (m : KwyMsg) (s : State) : Host.Outcome State Fault Refusal := kwyDo s (hostTake m senseOp)

def execFault (m : KwyMsg) (s : State) : Host.Outcome State Fault Refusal := kwyDo s (hostTake m faultOp)

def execFbusToHost (m : KwyMsg) (s : State) : Host.Outcome State Fault Refusal := kwyDo s (hostTake m fbusToHostOp)

def execFieldHeartbeat (m : KwyMsg) (s : State) : Host.Outcome State Fault Refusal := kwyDo s (hostTake m fieldHeartbeatOp)

/-- No field HEARTBEAT has been accepted for 250.000 µs (R416). -/
def fhblossOp (s : State) : State := (s.setBit Reg.KWY_STATUS 2 false).evt Reg.KWY_EVT 2

def execFhbloss (s : State) : Host.Outcome State Fault Refusal := kwyDo s fhblossOp

/-- A read of KWY_FLOG removes the oldest entry, and clears OVF unless it was set in this tick (R25). -/
def kwyFlogReadOp (s : State) : State :=
  let keep := bit (s.noted (regKey Reg.KWY_FLOG 0)) 30
  let ovf := b2n s.kwy.logOvf * 1073741824
  match s.kwy.log with
  | [] => (s.setKwy { s.kwy with logOvf := keep }).answer .ok (leBytes ovf 4)
  | r :: t =>
    let v := 2147483648 + ovf + r.blk % 16 * 16777216 + r.bit % 32 * 65536 + r.chan % 256 * 256 + r.cause % 256
    (s.setKwy { s.kwy with log := t, logOvf := keep }).answer .ok (leBytes v 4)

/-- On the ML2560-P the register reads 0 (Table 0.2, R6). -/
def execKwyFlogRead (s : State) : Host.Outcome State Fault Refusal :=
  .next (if s.isA then kwyFlogReadOp s else s.answer .ok (leBytes 0 4))

/-! ### Field folios (R402, R404, R406, R409) -/

/-- STATUS of field folio `f`. -/
def State.statusPayload (s : State) (f : Nat) : List Byte :=
  let flags := b2n s.sbxLoaded + 2 * b2n (s.rb Reg.FFIN_FOUT 31)
  let ovr := (List.range 32).foldl (fun m c => if s.claimed c then m + 2 ^ c else m) 0
  leBytes f 6 ++ [BitVec.ofNat 8 (b2n s.field.autonomy), BitVec.ofNat 8 flags] ++ leBytes ovr 4 ++
    leBytes (s.rf Reg.FFIN_STATE 15 0) 2 ++ [0, 0]

/-- Sample `j` of player `p` in field folio `f`; 0 while it does not play. -/
def State.playerSample (s : State) (p f j : Nat) : Int :=
  match (s.player p).play with
  | some x =>
    let n := 8 * f + j
    if n < x.start ∨ (!x.rep ∧ x.start + s.playLen x + (if x.tone then 0 else sbxTail) ≤ n) then 0
    else s.playLoop x.rep x (n - x.start)
  | none => 0

/-- A player's sample as SENSE carries it: the house sample is S × 2^4 (R396). -/
def playerSense (y : Int) : Int := sat24 (roundOpen 2 y 16)

/-- A sense sample of a voltage in nV (R396). -/
def senseCode (nv : Int) : Int := sat24 (roundHalfUp (nv * 8388608) 1200000000)

/-- SENSE of field folio `f`: sensed inputs on channels 0 to 63, players on 64 to 71 (R396). -/
def State.sensePayload (s : State) (f : Nat) : List Byte :=
  leBytes f 6 ++ [0, 0] ++ (List.range 8).flatMap (fun j => (List.range 72).flatMap (fun k =>
    leBytes (if k < 64 then encSigned 24 (senseCode (Config.senseInput k j f))
      else encSigned 24 (playerSense (s.playerSample (k - 64) f j))) 3))

/-- The field die's next folio starts, 85,333 or 85,334 FIELD cycles after the last (R402): players take their
commands; HEARTBEAT of this folio, STATUS and SENSE of the one before become ready while the link is UP; a folio that
passed without a host HEARTBEAT ends the run of R414. -/
def fieldFolioStartOp (s : State) : State :=
  let f := s.field.folio
  let next := s.field.folioAt + folioTicks f
  if s.clock < next then s
  else
    let sense := s.sensePayload f
    let s := s.setField { s.field with
      folio := f + 1, folioAt := next, recov := if s.field.hbSeen then s.field.recov else 0, hbSeen := false,
      held := s.field.held ++ s.field.first, first := [] }
    let s := playersFolio s
    ((s.fieldFirst 9 (leBytes (f + 1) 6 ++ [0, 0, 0, 0, 0, 0])).fieldFirst 5 (s.statusPayload f)).fieldFirst 6 sense

def execFieldFolioStart (s : State) : Host.Outcome State Fault Refusal := fieldDo s fieldFolioStartOp

/-- The output folio due has not come by 20.000 µs after the folio start: host audio ramps out over it, and the first
folio after it ramps in (R404). In AUTONOMY no BLOCK is due. -/
def blockMissingOp (s : State) : State :=
  let m := s.field.folio - 1
  if s.field.autonomy ∨ s.dueFolio ≠ m ∨ s.field.folio = 0 then s
  else
    let s := (s.fkwyCount (Reg.FKWY_CNT 5) 1).fevt Reg.FKWY_EVT 2
    let s := s.setField { s.field with lastBlock := some m }
    forN 32 s (fun s c =>
      let x := (s.chan c).heard (List.replicate 8 0)
      let x := x.settle (8 * m)
      if x.cur = .host ∧ x.pend = none then
        s.setChan c { x with src := .out (8 * m) (s.lastPlayed c), pend := some 8 }
      else s.setChan c x)

def execBlockMissing (s : State) : Host.Outcome State Fault Refusal := fieldDo s blockMissingOp

end Sys2Proof.Machine
end

