-- ==== Sys2Proof/Machine/Districts.lean ====
section
/-! DEFINITION. Registrars, the directory and announcements (chapter 10, R551 to R567). -/

namespace Sys2Proof.Machine

def State.setDis (s : State) (d : Dis) : State := { s with dis := d }

/-- The district of a node address (R76). -/
def districtOf (node : Nat) : Nat := node % 16384 / 128

def State.district (s : State) : Nat := districtOf s.nodeAddr

/-- This node may be elected now (R555, R562). -/
def State.eligible (s : State) : Bool :=
  s.rb Reg.DIS_CFG 0 && !s.dis.mute && s.rf Reg.SEC_BOOTST 25 24 != 0 && (s.link 0 || s.link 1)

/-- The smaller address, where there is one. -/
def lower (a : Option Nat) (n : Nat) : Option Nat := match a with
  | some m => some (if n < m then n else m)
  | none => some n

/-- The registrar of a scope: the lowest claimant heard within 300 ms, this node among them while it claims (R557). -/
def State.registrar (s : State) (scope : Nat) : Option Nat :=
  let own := if scope = 0 then s.dis.isD else s.dis.isV
  (s.dis.claims.filter (fun e => e.1.1 == scope && decide (s.clock ≤ e.2 + ms 300))).foldl (fun a e => lower a e.1.2)
    (if own then some s.nodeAddr else none)

/-- Nodes held in the directory. -/
def Dis.nodes (d : Dis) : List Nat := addAll [] (d.dir.map (fun e => e.1 / 512))

/-- What a read of a DIS register shows. -/
def disRead (a : Nat) (s : State) : Word :=
  let d := s.registrar 0
  let v := s.registrar 1
  if a = Reg.DIS_STATUS then
    wd (b2n d.isSome * 2 ^ 31 + b2n v.isSome * 2 ^ 30 + b2n s.dis.isD * 2 ^ 29 + b2n s.dis.isV * 2 ^ 28 +
      b2n s.eligible * 2 ^ 27 + d.getD 0)
  else if a = Reg.DIS_VREG then wd (v.getD 0)
  else if a = Reg.DIS_NREC then wd (s.dis.nodes.length % 128 * 2 ^ 17 + s.dis.dir.length)
  else s.reg a

/-- The registrar of a scope is noted; a change since it was noted last is an event. -/
def noteRegistrar (scope : Nat) (s : State) : State :=
  let r := (s.registrar scope).getD 65535
  (s.setDis { s.dis with known := aput s.dis.known 65535 scope r }).evtIf (aget s.dis.known 65535 scope != r) Reg.DIS_EVT (1 + scope)

/-- A change of roles or registrars is an event. -/
def roleEvents (was : State) (s : State) : State :=
  noteRegistrar 1 (noteRegistrar 0 (s.evtIf (was.dis.isD != s.dis.isD || was.dis.isV != s.dis.isV) Reg.DIS_EVT 0))

/-- The Ethernet address of a node: the source address of its ANNOUNCE. -/
def State.macOf (s : State) (node : Nat) : Nat := (aget s.dis.heard Heard.none node).src

/-! ### ANNOUNCE (R560 to R564) -/

/-- An ANNOUNCE is received: the directory learns the node. One with this node's own address from another source is a
duplicate address, and the node with the larger source address gives way. -/
def announceOp (node flags src : Nat) (imgId : Word) (partner ntx : Nat) (s : State) : State :=
  if !s.runtime then s
  else if node = s.nodeAddr then
    if src = s.macAddr 0 ∨ src = s.macAddr 1 then s
    else
      let s := s.evt Reg.DIS_EVT 3
      if src < s.macAddr 0 then (s.setDis { s.dis with mute := true }).setBit Reg.DIS_CFG 0 false else s
  else
    let d := { s.dis with heard := aput s.dis.heard Heard.none node ⟨flags, src, imgId, partner, ntx, s.clock⟩ }
    s.setDis (if flags.testBit 1 then { d with regs := aput d.regs 65535 (districtOf node) node } else d)

def execAnnounce (node flags src : Nat) (imgId : Word) (partner ntx : Nat) (s : State) :
    Host.Outcome State Fault Refusal :=
  hostDo s (announceOp node flags src imgId partner ntx)

def State.announcePayload (s : State) : List Byte :=
  let flags := b2n s.eligible + 2 * b2n s.dis.isD + 4 * b2n s.dis.isV + 8 * s.rf Reg.SEC_BOOTST 25 24
  beBytes s.nodeAddr 2 ++ [BitVec.ofNat 8 flags, 0] ++ beBytes (s.reg Reg.HNG_IMGID).toNat 4 ++
    beBytes (if s.hinged then s.rf Reg.HNG_CFG 13 0 else 0xFFFF) 2 ++ beBytes s.txEnabled.length 2

/-- The node's slot: its ANNOUNCE goes to its district, a district registrar's to the venue as well. -/
def periodicAnnounceOp (s : State) : State :=
  if !s.runtime || s.dis.mute then s
  else
    let p := s.announcePayload
    let s := sendNetworks (s.group s.district) 1 p s
    if s.dis.isD then sendNetworks (s.group 0xFF) 1 p s else s

def execPeriodicAnnounce (s : State) : Host.Outcome State Fault Refusal := hostDo s periodicAnnounceOp

/-! ### CLAIM (R556 to R558) -/

/-- A CLAIM is received: a claimant yields to a lower address at once; a venue CLAIM names the registrars of districts. -/
def claimOp (node scope : Nat) (regs : List Nat) (s : State) : State :=
  if !s.runtime ∨ 1 < scope ∨ (scope = 0 ∧ districtOf node ≠ s.district) ∨ node = s.nodeAddr then s
  else
    let d := s.dis
    let low := decide (node < s.nodeAddr)
    let d := { d with
      claims := d.claims.filter (fun e => e.1 != (scope, node)) ++ [((scope, node), s.clock)],
      last := aput d.last (65535, 0) scope (node, s.clock),
      isD := d.isD && !(scope == 0 && low), isV := d.isV && !low,
      regs := if scope = 1 then (regs.take 128).zipIdx.foldl (fun l e => aput l 65535 e.2 e.1) d.regs else d.regs }
    roleEvents s (s.setDis d)

def execClaim (node scope _nrec : Nat) (regs : List Nat) (s : State) : Host.Outcome State Fault Refusal :=
  hostDo s (claimOp node scope regs)

/-- The CLAIMs of the roles that this node holds. -/
def sendClaims (s : State) : State :=
  let head := fun (scope n : Nat) => beBytes s.nodeAddr 2 ++ [BitVec.ofNat 8 scope, 0] ++ beBytes n 2 ++ [0, 0]
  let known := aput s.dis.regs 65535 s.district s.nodeAddr
  let list := (List.range 128).flatMap (fun d => beBytes (aget known 65535 d) 2)
  let s := if s.dis.isD then sendNetworks (s.group s.district) 2 (head 0 s.dis.nodes.length) s else s
  if s.dis.isV then sendNetworks (s.group 0xFF) 2 (head 1 known.length ++ list) s else s

/-- Every 100 ms. -/
def claimIntervalOp (s : State) : State := if s.runtime then sendClaims s else s

def execClaimInterval (s : State) : Host.Outcome State Fault Refusal := hostDo s claimIntervalOp

/-- The CLAIM heard last in a scope. -/
def Dis.lastClaim (d : Dis) (scope : Nat) : Option (Nat × Nat) := (d.last.find? (fun e => e.1 == scope)).map (fun e => e.2)

/-- The claimant heard last in a scope: the registrar that is lost. -/
def Dis.lastClaimant (d : Dis) (scope : Nat) : Option Nat := (d.lastClaim scope).map (fun e => e.1)

/-- This node's instant after the last CLAIM heard has come: 300 ms, and 4 ms for each address of the scope before it
(R558). Where none has been heard it is the slot of Table 10.3, which the row brings. -/
def State.claimSlot (s : State) (scope : Nat) : Bool :=
  let k := if scope = 0 then s.nodeAddr % 128 else s.district
  match s.dis.lastClaim scope with
  | some e => decide (e.2 + ms 300 + ms 4 * k ≤ s.clock)
  | none => true

/-- A lower-addressed eligible node of the scope, other than the lost registrar, has announced itself within 3.072 s. -/
def State.lowerHeard (s : State) (scope : Nat) : Bool :=
  s.dis.heard.any (fun e =>
    decide (e.1 < s.nodeAddr) && s.dis.lastClaimant scope != some e.1 && decide (s.clock ≤ e.2.at_ + ms 3072) &&
      (if scope = 0 then districtOf e.1 == s.district && e.2.flags.testBit 0 else e.2.flags.testBit 1))

/-- No CLAIM of the scope has been heard for 300 ms, and this node's slot has come: the registrar is lost, which is a change,
and the node claims if it may. -/
def claimTimeoutOp (scope : Nat) (s : State) : State :=
  if !s.runtime ∨ 1 < scope ∨ (s.registrar scope).isSome ∨ !s.claimSlot scope then s
  else
    let may := s.eligible && !s.lowerHeard scope && (scope == 0 || s.dis.isD)
    let d := { s.dis with claims := s.dis.claims.filter (fun e => e.1.1 != scope) }
    let d := if may then (if scope = 0 then { d with isD := true } else { d with isV := true }) else d
    let t := roleEvents s (s.setDis d)
    if may then sendClaims t else t

def execClaimTimeout (scope : Nat) (s : State) : Host.Outcome State Fault Refusal := hostDo s (claimTimeoutOp scope)

/-! ### The directory (R559, R561, R567) -/

/-- A record of the directory. -/
def StreamRec.none : StreamRec := ⟨0, 0, 0, 0, 0⟩

def streamsStore (node : Nat) (recs : List StreamRec) (s : State) : State :=
  s.setDis { s.dis with
    dir := recs.foldl (fun l r => if r.index < 512 then aput l StreamRec.none (512 * node + r.index) r else l) s.dis.dir }

/-- STREAMS of a node of the district reach its registrar. -/
def streamsOp (node : Nat) (recs : List StreamRec) (s : State) : State :=
  if s.runtime && s.dis.isD && districtOf node == s.district then streamsStore node recs s else s

def execStreams (node : Nat) (recs : List StreamRec) (s : State) : Host.Outcome State Fault Refusal :=
  hostDo s (streamsOp node recs)

/-- This node's records: its enabled transmit streams. -/
def State.ownStreams (s : State) : List StreamRec :=
  s.txEnabled.map (fun e =>
    let k := (e.1 - Reg.DVT_TXCFG 0) / 16
    ⟨k, fld e.2 8 0, b2n (bit e.2 30), b2n (bit e.2 29),
      (s.reg (Reg.DVT_TXDALO k)).toNat + 4294967296 * s.rf (Reg.DVT_TXDAHI k) 15 0⟩)

def recBytes (r : StreamRec) : List Byte :=
  beBytes r.index 2 ++ beBytes r.nch 2 ++ beBytes r.fmt 1 ++ beBytes r.encap 1 ++ beBytes r.da 6

/-- The slot after a new registrar, or after a change: STREAMS in frames of at most 256 records. -/
def streamsSlotOp (s : State) : State :=
  if !s.runtime then s
  else match s.registrar 0 with
    | none => s
    | some r =>
      if r = s.nodeAddr then
        streamsStore r s.ownStreams (s.setDis { s.dis with dir := s.dis.dir.filter (fun e => e.1 / 512 != r) })
      else
        let send := fun (l : List StreamRec) (s : State) =>
          if l.isEmpty then s
          else sendNetworks (s.macOf r) 3 (beBytes s.nodeAddr 2 ++ beBytes l.length 2 ++ l.flatMap recBytes) s
        send (s.ownStreams.drop 256) (send (s.ownStreams.take 256) s)

def execStreamsSlot (s : State) : Host.Outcome State Fault Refusal := hostDo s streamsSlotOp

/-- The answer for one stream of this district. -/
def State.lookup (s : State) (id : Nat) : ReplyRec :=
  match s.dis.dir.find? (fun e => e.1 == id) with
  | some (_, r) => ⟨id, r.nch, r.fmt, true, r.da, r.encap⟩
  | none => ⟨id, 0, 0, false, 0, 0⟩

def replyBytes (r : ReplyRec) : List Byte :=
  beBytes r.id 4 ++ beBytes r.nch 2 ++ beBytes r.fmt 1 ++ beBytes (b2n r.found) 1 ++ beBytes r.da 6 ++ beBytes r.encap 1 ++ [0]

def sendReply (node tag : Nat) (l : List ReplyRec) (s : State) : State :=
  if l.isEmpty then s
  else sendNetworks (s.macOf node) 5 (beBytes tag 2 ++ beBytes l.length 2 ++ l.flatMap replyBytes) s

def sendQuery (node tag : Nat) (ids : List Nat) (s : State) : State :=
  if ids.isEmpty then s
  else sendNetworks (s.macOf node) 4 (beBytes tag 2 ++ beBytes ids.length 2 ++ ids.flatMap (fun i => beBytes i 4)) s

/-- The districts of stream IDs, each once. -/
def districtsOf (ids : List Nat) : List Nat := addAll [] (ids.map (fun i => districtOf (i / 512)))

/-- Streams of other districts are asked for at their registrars; of a district without a known registrar they are not
found. `back` notes who asked. -/
def forward (ids : List Nat) (back : Nat → State → State) (lost : List ReplyRec → State → State) (s : State) : State :=
  (districtsOf ids).foldl (fun s d =>
    let mine := ids.filter (fun i => districtOf (i / 512) == d)
    let r := aget s.dis.regs 65535 d
    if r = 65535 then lost (mine.map (fun i => ⟨i, 0, 0, false, 0, 0⟩)) s
    else
      let t := (s.dis.tag + 1) % 65536
      sendQuery r t mine (back t (s.setDis { s.dis with tag := t }))) s

/-- QUERY: a district registrar answers for its own district and forwards the rest. -/
def queryOp (src tag : Nat) (ids : List Nat) (s : State) : State :=
  if !(s.runtime && s.dis.isD) then s
  else
    let local_ := ids.filter (fun i => districtOf (i / 512) == s.district)
    let rest := ids.filter (fun i => districtOf (i / 512) != s.district)
    let s := sendReply src tag (local_.map s.lookup) s
    forward rest (fun t s => s.setDis { s.dis with forwarded := s.dis.forwarded ++ [(t, (src, tag))] }) (sendReply src tag) s

def execQuery (src tag : Nat) (ids : List Nat) (s : State) : Host.Outcome State Fault Refusal :=
  hostDo s (queryOp src tag ids)

def ReplyRec.none : ReplyRec := ⟨0, 0, 0, false, 0, 0⟩

def learn (l : List ReplyRec) (s : State) : State :=
  s.setDis { s.dis with lookups := l.foldl (fun m r => aput m ReplyRec.none r.id r) s.dis.lookups }

/-- REPLY: passed on to the node that asked, or learnt. -/
def replyOp (tag : Nat) (recs : List ReplyRec) (s : State) : State :=
  if !s.runtime then s
  else match s.dis.forwarded.find? (fun e => e.1 == tag) with
    | some (_, (src, t)) =>
      sendReply src t recs (s.setDis { s.dis with forwarded := s.dis.forwarded.filter (fun e => e.1 != tag) })
    | none => learn recs s

def execReply (tag : Nat) (recs : List ReplyRec) (s : State) : Host.Outcome State Fault Refusal :=
  hostDo s (replyOp tag recs)

/-- The slot after cold start, or once the registrars are heard: a QUERY for every subscription. -/
def querySlotOp (s : State) : State :=
  if !s.runtime then s
  else
    let ids := (s.rxEnabled.map (fun e => fld e.2 22 0)).take 256
    match s.registrar 0 with
    | none => s
    | some r =>
      if r = s.nodeAddr then
        let s1 := learn ((ids.filter (fun i => districtOf (i / 512) == s.district)).map s.lookup) s
        forward (ids.filter (fun i => districtOf (i / 512) != s.district)) (fun _ s => s) learn s1
      else
        let t := (s.dis.tag + 1) % 65536
        sendQuery r t ids (s.setDis { s.dis with tag := t })

def execQuerySlot (s : State) : Host.Outcome State Fault Refusal := hostDo s querySlotOp

/-- A node's records leave the directory. -/
def forget (node : Nat) (s : State) : State :=
  if !s.runtime then s
  else
    roleEvents s (s.setDis { s.dis with
      heard := s.dis.heard.filter (fun e => e.1 != node), dir := s.dis.dir.filter (fun e => e.1 / 512 != node),
      claims := s.dis.claims.filter (fun e => e.1.2 != node),
      regs := s.dis.regs.filter (fun e => e.2 != node) })

/-- A node that is shut down sends LEAVE and announces itself no more (R567). -/
def shutDown (s : State) : State :=
  let s := sendNetworks (s.group s.district) 6 (beBytes s.nodeAddr 2 ++ [0, 0]) s
  s.setDis { s.dis with mute := true }

/-- LEAVE of a node. -/
def execLeave (node : Nat) (s : State) : Host.Outcome State Fault Refusal := hostDo s (forget node)

/-- Three consecutive periodic ANNOUNCEs of a node are missing (R567): 3.072 s have passed since its last one. -/
def recordExpiryOp (node : Nat) (s : State) : State :=
  if s.dis.heard.any (fun e => e.1 == node && decide (s.clock < e.2.at_ + ms 3072)) then s else forget node s

def execRecordExpiry (node : Nat) (s : State) : Host.Outcome State Fault Refusal := hostDo s (recordExpiryOp node)

end Sys2Proof.Machine
end

