-- ==== Sys2Proof/Machine/Hinge.lean ====
section
/-! DEFINITION. The hinge pair: states, heartbeats, checksums, takeover, fill and release (chapter 10, "Hinge pairs").
Receipts and runtime changes stand in Folio.lean and Runtime.lean. -/

namespace Sys2Proof.Machine

def State.setHng (s : State) (h : Hng) : State := { s with hng := h }

/-- The partner's address (HNG_CFG). -/
def State.partner (s : State) : Nat := s.rf Reg.HNG_CFG 13 0

/-- The partner's half of the lines (R569). -/
def State.partnerLines (s : State) : Word := s.reg Reg.HNG_LINES &&& ~~~(s.reg Reg.HNG_OWN)

/-- A HINGE was accepted within 250 µs. -/
def State.pathUp (s : State) (t : Option Nat) : Bool :=
  match t with
  | some t => decide (s.clock < t + us 250)
  | none => false

/-! ### Entering states (Table 10.4, R573, R580) -/

/-- PAIRED: from PAIRING the lower-addressed node is the decider; other ways keep the roles. -/
def enterPaired (s : State) : State :=
  let h := s.hng
  let dec := if h.st = .pairing then decide (s.nodeAddr < s.partner) else h.decider
  (s.setHng { h with st := .paired, decider := dec }).evt Reg.HNG_EVT 0

/-- TAKEN: the partner's half starts, the partner's streams are sent. -/
def enterTaken (s : State) : State :=
  let s := if s.isA then proxyWrite true Reg.FPWM_TKO s.partnerLines s else s
  (s.setHng { s.hng with st := .taken, decider := true, nettko := true, rel := none }).evt Reg.HNG_EVT 1

/-- YIELDED: the partner drives this node's half. -/
def enterYielded (s : State) : State :=
  (s.setHng { s.hng with st := .yielded, decider := false, rel := none }).evt Reg.HNG_EVT 2

/-- A write of HNG_CTRL: EN starts PAIRING, or returns to ALONE; RELAY counts towards the DVT load of P2 (R461). -/
def hngEnableOp (v : Word) (s : State) : State :=
  let was := s.hinged
  let s1 := s.typeWrite Reg.HNG_CTRL v
  if !s1.budgetOk ∧ s1.relays then s.evt Reg.DVT_EVT 1
  else if s1.hinged ∧ !was then s1.setHng { Hng.reset with st := .pairing, csums := s1.hng.csums }
  else if !s1.hinged ∧ was then s1.setHng { Hng.reset with csums := s1.hng.csums }
  else s1

def execHngEnable (v : Word) (s : State) : Host.Outcome State Fault Refusal := hostDo s (hngEnableOp v)

/-! ### HINGE accepted (R570 to R574, R579) -/

/-- The time of arrival and the timestamp on the path of the port. -/
def hingeHeard (port : Nat) (m : HingeMsg) (ts : Nat) (s : State) : State :=
  let h := s.hng
  let now := some s.clock
  let h := { h with pSt := m.st, pSynced := m.synced, pFieldOk := m.fieldOk }
  if port = 2 then
    let q := folioOf s.sysT
    let run := match h.runFolio with
      | some p => if p = q then h.run else if p + 1 = q then h.run + 1 else 1
      | none => 1
    -- HNG_PDLY by the delay request-response arithmetic: sent and heard last, each way.
    let t1 := if folioOf (s.tim.t8 h.tx0) = q then h.txPrev0 else h.tx0
    let dly : Int := (((m.rxLast : Int) - t1) + ((h.rx0 : Int) - m.txPrev)) / 2
    let s := if h.rx0 = 0 then s else s.setReg Reg.HNG_PDLY (wdi dly)
    -- The frame before, whose transmit timestamp this one brings, gives the phase of the hinge candidate (Table 9.3).
    let phase := if h.rx0 = 0 then h.phase else (h.rx0 : Int) - m.txPrev - dly
    s.setHng { h with last0 := now, rx0 := ts, run := run, runFolio := some q, phase := phase }
  else if port = 0 then s.setHng { h with last1 := now, rx1 := ts }
  else s.setHng { h with last2 := now, rx2 := ts }

/-- A partner checksum against the own of the same output folio, q − 1 of the folio q in which it comes, once a folio
(R574). -/
def compareCsum (c : Word) (s : State) : State :=
  let m := folioOf s.sysT - 1
  let h := s.hng
  match h.csums.find? (fun e => e.1 == m) with
  | none => s
  | some (_, own) =>
    if h.compared = some m then s
    else
      let s := s.setReg Reg.HNG_PCSUM c
      if own = c then
        let n := Nat.min 16 (h.matches_ + 1)
        let sync := s.rf Reg.HNG_CFG 27 24 ≤ n
        (s.setHng { h with compared := some m, matches_ := n, mismatches := 0, synced := h.synced || decide sync }).evtIf
          (decide sync && !h.synced) Reg.HNG_EVT 4
      else
        let n := Nat.min 16 (h.mismatches + 1)
        let div := s.rf Reg.HNG_CFG 31 28 ≤ n ∧ (h.synced ∨ n = s.rf Reg.HNG_CFG 31 28)
        let s := s.count Reg.HNG_CNT_CSMIS 1 54
        (s.setHng { h with compared := some m, mismatches := n, matches_ := 0, synced := h.synced && !decide div }).evtIf
          (decide div) Reg.HNG_EVT 5

/-- The transitions that a HINGE causes. A partner whose IMGID differs is never paired (R570). -/
def hingeMoves (port : Nat) (m : HingeMsg) (s : State) : State :=
  let same := m.imgId = s.reg Reg.HNG_IMGID
  let twelve := port = 2 ∧ 12 ≤ s.hng.run
  match s.hng.st with
  | .alone => s
  | .pairing => if m.st = 4 then enterYielded s else if twelve ∧ same then enterPaired s else s
  | .paired => if m.release ∨ (s.isA ∧ !m.fieldOk) then enterTaken s else s
  | .split => if m.release ∨ (s.isA ∧ !m.fieldOk) then enterTaken s else if twelve ∧ same then enterPaired s else s
  | .taken => s
  | .yielded =>
    if m.release ∧ same then
      enterPaired (if s.isA then proxyWrite true Reg.FPWM_TKO (s.reg Reg.HNG_OWN) s else s)
    else s

/-- A HINGE of the partner at port P0, P1 or P2; `ts` is its medium receive timestamp. -/
def hingeOp (port : Nat) (m : HingeMsg) (ts : Nat) (s : State) : State :=
  if !s.hinged ∨ m.node ≠ s.partner ∨ 3 ≤ port then s
  else
    let s := hingeHeard port m ts s
    let s := s.evtIf (decide (m.imgId ≠ s.reg Reg.HNG_IMGID)) Reg.HNG_EVT 6
    hingeMoves port m (compareCsum m.csum s)

def execHinge (port : Nat) (m : HingeMsg) (ts : Nat) (s : State) : Host.Outcome State Fault Refusal := hostDo s (hingeOp port m ts)

/-- A HINGE was accepted on some path within 250.000 µs. -/
def State.heard250 (s : State) : Bool := s.pathUp s.hng.last0 || s.pathUp s.hng.last1 || s.pathUp s.hng.last2

/-- 250.000 µs without an accepted HINGE on any path: takeover (Table 10.5). -/
def heartbeatLossOp (s : State) : State :=
  if s.heard250 then s
  else match s.hng.st with
    | .paired | .split => enterTaken s
    | _ => s

def execHeartbeatLoss (s : State) : Host.Outcome State Fault Refusal := hostDo s heartbeatLossOp

/-- 250.000 µs without a HINGE on P2 while one came on P0 or P1: SPLIT. -/
def splitOp (s : State) : State :=
  if s.hng.st = .paired ∧ s.heard250 = true ∧ s.pathUp s.hng.last0 = false then
    (s.setHng { s.hng with st := .split, run := 0, runFolio := none, rel := none }).evt Reg.HNG_EVT 3
  else s

def execSplit (s : State) : Host.Outcome State Fault Refusal := hostDo s splitOp

/-! ### Filling the partner's streams (R582) -/

/-- Frame time of stream `k` on P2 in 2^-40 ns. -/
def State.p2Frame (s : State) (k : Nat) : Int :=
  (txLen (s.reg (Reg.DVT_TXCFG k)) + 20) * 8 * 1000 * 1099511627776 / rateMbps (s.portRate 2)

/-- The instant in 2^-40 ns of T at which the partner's P2 copy of stream `k` of output folio `m` is overdue: the DVT
release, the frame times of the partner's streams up to it, and FILLW (R582). Every partner stream includes P2 (R577). -/
def State.fillAt (s : State) (k m : Nat) : Int :=
  let owner := s.net.txs.filter (fun e => e.2.on && s.rb (Reg.DVT_TXCFG e.1) 27 && decide (e.1 ≤ k))
  ((m + 1 : Nat) : Int) * 1000000 * 1099511627776 / 12 + (12 + s.rf Reg.HNG_CFG 23 19) * 1000 * 1099511627776 +
    (owner.map (fun e => s.p2Frame e.1)).foldl (· + ·) 0

/-- The partner's P2 copy of stream `k` of the output folio now sent is missing past its fill time: this node sends it on
the stream's other ports. -/
def fillOp (k : Nat) (s : State) : State :=
  match s.pst.egress with
  | none => s
  | some m =>
    let may := s.rb Reg.HNG_CTRL 2 && (s.hng.st == .paired || s.hng.st == .split) && s.link 2
    if may && (s.tx k).on && s.rb (Reg.DVT_TXCFG k) 27 && !s.hng.p2Seen.contains (k, m) && !s.hng.filled.contains k && s.rb Reg.DVT_CTRL 0 &&
        decide (s.fillAt k m ≤ s.sysT) then
      match s.outFol m with
      | none => s
      | some f =>
        let s := sendStream f m k (fun p => p != 2) s
        let s := s.count Reg.HNG_CNT_FILL 1 54
        s.setHng { s.hng with nettko := true, filled := s.hng.filled ++ [k] }
    else s

def execFill (k : Nat) (s : State) : Host.Outcome State Fault Refusal := hostDo s (fun s => if k < 512 then fillOp k s else s)

/-- A folio ends: whether every partner stream's P2 copy of the output folio sent in it came; after 12 in a row NETTKO
clears outside TAKEN (R582). -/
def fillFolio (s : State) : State :=
  match s.pst.egress with
  | none => s
  | some m =>
    let mine := (s.net.txs.filter (fun e => e.2.on && s.rb (Reg.DVT_TXCFG e.1) 27)).map (·.1)
    let run := if mine.all (fun k => s.hng.p2Seen.contains (k, m)) then Nat.min 12 (s.hng.p2Run + 1) else 0
    let clear := run = 12 ∧ s.hng.st ≠ .taken
    s.setHng { s.hng with p2Run := run, filled := [], nettko := s.hng.nettko && !decide clear }

/-! ### The release sequence (R583) -/

/-- STOP each channel given up. -/
def releaseStart (give : Bool) (lines : Word) (s : State) : State :=
  let s := if s.isA then
      (maskList lines.toNat 32).foldl (fun s c => proxyWrite false (Reg.FPWM_CHCMD c) 2 s) s
    else s
  s.setHng { s.hng with rel := some ⟨give, .stopping, lines.toNat⟩, relAt := s.clock }

def hngCfgErr (s : State) : State := s.evt Reg.HNG_EVT 7

/-- GIVE in PAIRED gives the own half. -/
def giveOp (s : State) : State :=
  if s.hng.st = .paired ∧ s.hng.rel = none then releaseStart true (s.reg Reg.HNG_OWN) s else hngCfgErr s

/-- RETURN in TAKEN, with the partner YIELDED and SYNCED, gives the partner's half back. -/
def returnOp (s : State) : State :=
  if s.hng.st = .taken ∧ s.hng.pSt = 5 ∧ s.hng.pSynced ∧ s.hng.rel = none then releaseStart false s.partnerLines s
  else hngCfgErr s

def execGive (s : State) : Host.Outcome State Fault Refusal := hostDo s giveOp

def execHngReturn (s : State) : Host.Outcome State Fault Refusal := hostDo s returnOp

/-- Once the channels given up are OFF, FPWM_HSW opens their switches. The runtime reads the field registers, HSWT among
them, over the Keyway: nothing happens while the link is down (R29, R407). -/
def releaseSwitchOpenOp (s : State) : State :=
  match s.hng.rel with
  | some r =>
    if r.step ≠ .stopping then s
    else if !s.isA then s.setHng { s.hng with rel := some { r with step := .opening }, relAt := s.clock }
    else if s.kwy.link ≠ .up ∨ s.field.link ≠ .up ∨ (maskList r.lines 32).any (fun c => (s.chan c).st != .off) then s
    else
      let wait := s.clock + us (s.rf Reg.FPWM_TIM 31 24)
      let s := proxyWrite false Reg.FPWM_HSW (s.reg Reg.FPWM_HSW &&& ~~~(wd r.lines)) s
      s.setHng { s.hng with rel := some { r with step := .opening }, relAt := wait }
  | none => s

def execReleaseSwitchOpen (s : State) : Host.Outcome State Fault Refusal := hostDo s releaseSwitchOpenOp

/-- HSWT has passed since the switches opened: the HINGE with RELEASE goes out on P2 and the node enters the state that
follows. The -P has no switches to wait for. -/
def releaseHswtElapsedOp (s : State) : State :=
  match s.hng.rel with
  | some r =>
    if r.step = .opening ∧ s.hng.relAt ≤ s.clock then
      let s := sendHinge 0 true s
      if r.give then enterYielded s else enterPaired (s.setHng { s.hng with rel := none })
    else s
  | none => s

def execReleaseHswtElapsed (s : State) : Host.Outcome State Fault Refusal := hostDo s releaseHswtElapsedOp

/-! ### Registers of HNG -/

/-- A write of an HNG register. -/
def hngWrite (a : Nat) (v : Word) (s : State) : State :=
  let en := s.hinged
  if a = Reg.HNG_CTRL then hngEnableOp v s
  else if a = Reg.HNG_CFG then
    let s := if fld v 31 28 = 0 then hngCfgErr s else s.setFld a 31 28 (fld v 31 28)
    let s := if fld v 27 24 = 0 then hngCfgErr s else s.setFld a 27 24 (fld v 27 24)
    let s := s.setFld a 23 19 (fld v 23 19)
    if en then (if fld v 13 0 = s.partner then s else hngCfgErr s) else s.setFld a 13 0 (fld v 13 0)
  else if a = Reg.HNG_OWN ∨ a = Reg.HNG_LINES then
    if !s.isA then s else if en then hngCfgErr s else s.typeWrite a v
  else if a = Reg.HNG_CMD then
    match fld v 1 0 with
    | 1 => giveOp s
    | 2 => returnOp s
    | 0 => s
    | _ => hngCfgErr s
  else s.typeWrite a v

/-- What a read of an HNG register shows. -/
def hngRead (a : Nat) (s : State) : Word :=
  let h := s.hng
  if a = Reg.HNG_STATUS then
    wd (h.st.code * 536870912 + b2n h.decider * 268435456 + b2n h.synced * 134217728 + b2n h.nettko * 67108864 +
      (b2n (s.pathUp h.last0) + 2 * b2n (s.pathUp h.last1) + 4 * b2n (s.pathUp h.last2)) * 8388608)
  else if a = Reg.HNG_CSUM then s.egressCsum
  else s.reg a

end Sys2Proof.Machine
end

