-- ==== Sys2Proof/Machine/Xsp.lean ====
section
/-! DEFINITION. The configuration flash: the selector, the commands of XSP and their refusals (chapter 13,
"Configuration flash" and "Runtime control"). -/

namespace Sys2Proof.Machine

def State.setBoot (s : State) (b : Boot) : State := { s with boot := b }

def State.setPwr (s : State) (p : Pwr) : State := { s with pwr := p }

def State.setXsp (s : State) (x : Xsp) : State := { s with xsp := x }

/-- The brace state (R722). -/
def State.braced (s : State) : Bool := s.pwr.braceStart.isSome

/-- The Clearinghouse address of flash offset 0. -/
def flash : Nat := 0x80000000

/-! ### Areas -/

def slotBase (slot : Nat) : Nat := if slot = 0 then 0x200000 else 0x4100000

/-- `[a, a + n)` meets `[b, b + m)`. -/
def meets (a n b m : Nat) : Bool := decide (a < b + m) && decide (b < a + n)

/-- A slot is in use: the boot ROM reads it, or the node runs from it. -/
def State.slotUsed (s : State) : Bool := match s.boot.phase with
  | .held | .failed => false
  | _ => true

/-- XSP_PROT: the slot in use and the winning selector copy. -/
def State.xspProt (s : State) : Word :=
  wd ((if s.slotUsed then 2 ^ s.boot.slot else 0) + (match s.boot.winner with
    | some c => 2 ^ (2 + c)
    | none => 0))

/-- The refusals of R710; a page byte of 0xFF programs nothing. -/
def State.xspRefuses (s : State) (c : FlashCmd) : Bool :=
  let n := if c.erase then 65536 else 256
  (s.slotUsed && meets c.addr n (slotBase s.boot.slot) 66060288) ||
    (match s.boot.winner with
     | none => false
     | some w =>
       if c.erase then meets c.addr n (65536 * w) 65536
       else c.page.zipIdx.any (fun e =>
         let o := c.addr + e.2
         e.1 != 0xFF && decide (65536 * w ≤ o ∧ o < 65536 * w + 65536) &&
           !decide (65536 * w + 16 ≤ o ∧ o < 65536 * w + 24)))

/-! ### Commands (R710 to R712) -/

/-- A command runs or is suspended. -/
def State.xspBusy (s : State) : Bool := s.xsp.run.isSome

/-- The command running is an erase, suspended by the brace state. -/
def State.xspSuspended (s : State) : Bool :=
  s.braced && (match s.xsp.run with
    | some c => c.erase
    | none => false)

/-- XSP_STATUS as it reads. -/
def State.xspStatus (s : State) : Word := wd (2 * b2n s.xspSuspended + b2n (s.xspBusy && !s.xspSuspended))

/-- Words from address `a` become free values. -/
def freeFill (a n : Nat) (s : State) : State :=
  forN n s (fun s i => let (v, s) := s.nextFree; s.wrWord (a + 4 * i) v)

/-- The content that a command which fails, or which a reset cuts short, leaves open (R711). -/
def flashOpen (c : FlashCmd) (s : State) : State := freeFill (flash + c.addr) (if c.erase then 16384 else 64) s

/-- A command performed: erased bytes are 0xFF, programming clears bits. -/
def flashPerform (c : FlashCmd) (s : State) : State :=
  if c.erase then s.clearMem (flash + c.addr) (flash + c.addr + 65536) else progBytes s (flash + c.addr) c.page

/-- Waiting commands start once none runs and the brace state is over. -/
def xspNext (s : State) : State :=
  if s.braced || s.xspBusy then s
  else match s.xsp.waiting with
    | [] => s
    | c :: t => s.setXsp ⟨some c, t⟩

/-- A write of XSP_CMD: ignored when misaligned, beyond the device or while a command runs, refused by R710, waiting in
the brace state. -/
def xspCmdWrite (v : Word) (s : State) : State :=
  let cmd := fld v 1 0
  let a := (s.reg Reg.XSP_ADDR).toNat
  if cmd ≠ 1 ∧ cmd ≠ 2 then s
  else
    let c : FlashCmd := ⟨decide (cmd = 1), a, if cmd = 1 then [] else s.pageBuf (Reg.XSP_BUF 0)⟩
    if a % (if c.erase then 65536 else 256) ≠ 0 ∨ s.flashSize ≤ a ∨ (s.xspBusy ∧ !s.braced) then s.evt Reg.XSP_EVT 4
    else if s.xspRefuses c then s.evt Reg.XSP_EVT 1
    else xspNext (s.setXsp { s.xsp with waiting := s.xsp.waiting ++ [c] })

def execXspEraseSector (s : State) : Host.Outcome State Fault Refusal := hostDo s (xspCmdWrite 1)

def execXspProgramPage (s : State) : Host.Outcome State Fault Refusal := hostDo s (xspCmdWrite 2)

/-- The device ends the command running: DONE, or FLERR. A suspended erase does not end. -/
def xspCommandDoneOp (ok : Bool) (s : State) : State :=
  match s.xsp.run with
  | none => s
  | some c =>
    if s.xspSuspended then s
    else
      let s := s.setXsp { s.xsp with run := none }
      xspNext (if ok then (flashPerform c s).evt Reg.XSP_EVT 0 else (flashOpen c s).evt Reg.XSP_EVT 3)

def execXspCommandDone (ok : Bool) (s : State) : Host.Outcome State Fault Refusal := hostDo s (xspCommandDoneOp ok)

/-- A write of XSP_SIZE: 27 or 28 (R674). -/
def xspSizeWrite (v : Word) (s : State) : State :=
  if fld v 4 0 = 27 ∨ fld v 4 0 = 28 then s.typeWrite Reg.XSP_SIZE v else s.evt Reg.XSP_EVT 4

/-! ### The selector (R676 to R679, Table 13.2) -/

/-- A selector copy is valid. -/
def State.selValid (s : State) (c : Nat) : Bool :=
  let a := flash + 65536 * c
  s.rdWord a == 0x4C455342 && s.rdWord (a + 12) == crc32 (s.rdBytes a 12) && decide ((s.rdByte (a + 8)).toNat ≤ 1)

/-- The winning copy. -/
def State.selWinner (s : State) : Option Nat :=
  let gen := fun c => (s.rdWord (flash + 65536 * c + 4)).toNat
  if s.selValid 0 && (!s.selValid 1 || decide (gen 1 ≤ gen 0)) then some 0 else if s.selValid 1 then some 1 else none

/-- Attempt bits of a copy that are 0. -/
def State.attempts (s : State) (c : Nat) : Nat :=
  ((List.range 32).filter (fun i => !bit (s.rdWord (flash + 65536 * c + 20)) i)).length

/-- The lowest attempt bit still 1 is programmed to 0. -/
def programAttempt (c : Nat) (s : State) : State :=
  let a := flash + 65536 * c + 20
  let w := s.rdWord a
  match (List.range 32).find? (fun i => bit w i) with
  | some i => s.wrWord a (w &&& ~~~(bitw i))
  | none => s

/-- The order of slots (R677), with the attempt of R678. -/
def selectSlots (s : State) : State :=
  match s.selWinner with
  | none => s.setBoot { s.boot with winner := none, pref := 0, confirmed := false, slot := 0, left := [1] }
  | some c =>
    let pref := (s.rdByte (flash + 65536 * c + 8)).toNat
    let conf := s.rdByte (flash + 65536 * c + 16) == 0
    let first := if conf ∨ s.attempts c < 3 then pref else 1 - pref
    let s := if !conf ∧ first = pref then programAttempt c s else s
    s.setBoot { s.boot with winner := some c, pref := pref, confirmed := conf, slot := first, left := [1 - first] }

/-- The boot ROM begins the order of slots: SFDP gives XSP_SIZE (R674), the selector the slots, and the first header is
read. -/
def bootBegin (s : State) : State :=
  let s := selectSlots (s.setReg Reg.XSP_SIZE (wd (27 + b2n s.fuse.flash256)))
  let b := s.boot
  s.setReg Reg.SEC_BOOTST (wd (2 ^ 29 + b.slot * 2 ^ 28 + b2n (b.confirmed && b.slot == b.pref) * 2 ^ 26 + 0x110000))

/-- CONFIRM programmed in the winning copy (R679). -/
def programConfirm (s : State) : State :=
  match s.boot.winner with
  | some c => (s.wrByte (flash + 65536 * c + 16) 0).setBoot { s.boot with confirmed := true }
  | none => s

end Sys2Proof.Machine
end

