-- ==== Sys2Proof/Machine/RmtCmd.lean ====
section
/-! DEFINITION. The Remit engine's channels: states, commands, doorbells and register views (chapter 11, "Channel states
and commands", "Appending to a chain", "Halt, abort and disable"). -/

namespace Sys2Proof.Machine

def State.rmtCh (s : State) (n : Nat) : RmtCh := aget s.rmt RmtCh.reset n

def State.setRmt (s : State) (n : Nat) (c : RmtCh) : State := { s with rmt := aput s.rmt RmtCh.reset n c }

/-- A command or write ignored (R622). -/
def rmtCfgErr (s : State) : State := s.evt Reg.RMT_EVT2 0

/-- The 64-bit program word at `a`, if its fetch gets no error response. -/
def State.rmtWord (s : State) (a : Nat) : Option Nat :=
  if s.accessCause .rmt false a 8 1 = 0 ∧ !(s.xspBusy ∧ flash ≤ a) then some (leNat (s.rdBytes a 8)) else none

def rmtOp (w : Nat) : Nat := w / 2 ^ 60

/-- Bits `hi` to `lo` of a program word. -/
def rmtFld (w hi lo : Nat) : Nat := w / 2 ^ lo % 2 ^ (hi + 1 - lo)

/-- The word is an END. -/
def isEnd (w : Option Nat) : Bool := w == some 0

/-- Bytes of the MOVE at the channel's word that are not written. -/
def State.rmtRest (s : State) (c : RmtCh) : Nat :=
  match c.mv with
  | some m => m.len
  | none => match s.rmtWord c.pc with
    | some w => if rmtOp w = 1 then rmtFld w 23 0 else 0
    | none => 0

/-- A locked MOVE that goes no further gives its lock back: it issues no later transaction (log entry 110). -/
def rmtUnlock (n : Nat) (s : State) : State :=
  match (s.rmtCh n).mv with
  | some m => if m.lk then s.setClh (s.clh.unlock .rmt [2 * n, 2 * n + 1]) else s
  | none => s

/-- ABORT takes effect: IDLE, with the first word not completed and the bytes of its MOVE not written (R630). -/
def rmtAborted (n : Nat) (s : State) : State :=
  let c := s.rmtCh n
  (rmtUnlock n s).setRmt n { c with
    st := .idle, aborted := true, rem := s.rmtRest c, loop := none, ending := false, waiting := false, mv := none }

/-- DISABLE of a channel (R632): what REM and BYTES hold until the next START is undefined. -/
def rmtDisable (n : Nat) (s : State) : State :=
  let (r, s) := s.nextFree
  let (b, s) := s.nextFree
  let c := s.rmtCh n
  (s.setRmt n { RmtCh.reset with
    pc := c.pc, complete := c.complete, aborted := c.aborted, late := c.late, cause := c.cause, rem := fld r 23 0, next := c.next }).setReg
    (Reg.RMT_BYTES n) b

/-- START: RUN at RMT_PCn, with COMPLETE and ABORTED cleared (R623). -/
def rmtBegin (n : Nat) (s : State) : State :=
  let c := s.rmtCh n
  match c.st with
  | .idle | .idleAtEnd | .fault =>
    if !s.rb Reg.RMT_CTRL 0 then rmtCfgErr s
    else
      (s.setRmt n { RmtCh.reset with st := .run, pc := c.pc, db := c.db, late := c.late, next := c.next }).setReg (Reg.RMT_BYTES n) 0
  | _ => rmtCfgErr s

def rmtHalt (n : Nat) (s : State) : State :=
  match (s.rmtCh n).st with
  | .run => s.setRmt n { s.rmtCh n with st := .halting }
  | _ => rmtCfgErr s

def rmtResume (n : Nat) (s : State) : State :=
  match (s.rmtCh n).st with
  | .halted => s.setRmt n { s.rmtCh n with st := .run }
  | _ => rmtCfgErr s

/-- ABORT (R630, R631): after completion it only sets ABORT_LATE. -/
def rmtAbort (n : Nat) (s : State) : State :=
  let c := s.rmtCh n
  match c.st with
  | .run | .halting => s.setRmt n { c with st := .aborting }
  | .halted => rmtAborted n s
  | .idleAtEnd => (s.setRmt n { c with late := true }).note (Reg.RMT_ST n) (bitw 26)
  | _ => rmtCfgErr s

/-- DISABLE of one channel, with the master reset of its IDs (Table 11.4). -/
def rmtDisableOne (n : Nat) (s : State) : State := masterReset .rmt [2 * n, 2 * n + 1] (rmtDisable n s)

/-- A write of RMT_CMDn. -/
def rmtCmdWrite (n : Nat) (v : Word) (s : State) : State :=
  match fld v 2 0 with
  | 1 => rmtBegin n s
  | 2 => rmtHalt n s
  | 3 => rmtResume n s
  | 4 => rmtAbort n s
  | 5 => rmtDisableOne n s
  | _ => s

/-- A command on Remit channel `n`, 0 to 15. -/
def rmtDo (n : Nat) (s : State) (f : State → State) : Host.Outcome State Fault Refusal :=
  hostDo s (fun s => if n < 16 then f s else s)

def execRmtStart (n : Nat) (s : State) : Host.Outcome State Fault Refusal := rmtDo n s (rmtBegin n)

def execHalt (n : Nat) (s : State) : Host.Outcome State Fault Refusal := rmtDo n s (rmtHalt n)

def execResume (n : Nat) (s : State) : Host.Outcome State Fault Refusal := rmtDo n s (rmtResume n)

def execAbort (n : Nat) (s : State) : Host.Outcome State Fault Refusal := rmtDo n s (rmtAbort n)

def execDisable (n : Nat) (s : State) : Host.Outcome State Fault Refusal := rmtDo n s (rmtDisableOne n)

/-- A write of RMT_CTRL: EN = 0 disables every channel. -/
def engineDisableOp (v : Word) (s : State) : State :=
  let s := s.typeWrite Reg.RMT_CTRL v
  if bit v 0 then s else masterReset .rmt [] (forN 16 s (fun s n => rmtDisable n s))

def execEngineDisable (v : Word) (s : State) : Host.Outcome State Fault Refusal := hostDo s (engineDisableOp v)

/-- The doorbell of one channel (R626, R627): parked at a word that is still END, it parks again. -/
def ringOne (n : Nat) (s : State) : State :=
  let c := s.rmtCh n
  match c.st with
  | .run | .halting | .halted => s.setRmt n { c with db := true }
  | .idleAtEnd =>
    if isEnd (s.rmtWord c.pc) then s.setRmt n { c with db := false }
    else s.setRmt n { c with st := .run, db := false, complete := false, aborted := false }
  | _ => s

/-- A write of RMT_DBELL. -/
def doorbellOp (v : Word) (s : State) : State := forN 16 s (fun s n => if bit v n then ringOne n s else s)

def execDoorbell (v : Word) (s : State) : Host.Outcome State Fault Refusal := hostDo s (doorbellOp v)

/-- A write of RMT_PCn (R622). -/
def rmtPcWriteOp (n : Nat) (v : Word) (s : State) : State :=
  let c := s.rmtCh n
  match c.st with
  | .idle | .idleAtEnd | .fault => s.setRmt n { c with pc := v.toNat / 8 * 8 }
  | _ => rmtCfgErr s

def execRmtPcWrite (n : Nat) (v : Word) (s : State) : Host.Outcome State Fault Refusal := rmtDo n s (rmtPcWriteOp n v)

/-- Every transaction of the channel has retired (Table 11.7). An END whose doorbell was rung meanwhile is fetched
anew. -/
def channelRetiredOp (n : Nat) (s : State) : State :=
  let c := s.rmtCh n
  match c.st with
  | .halting => s.setRmt n { c with st := .halted }
  | .aborting => rmtAborted n s
  | .run =>
    if !c.ending then s
    else if c.db then s.setRmt n { c with db := false, ending := false }
    else s.setRmt n { c with st := .idleAtEnd, complete := true, ending := false, rem := 0 }
  | _ => s

def execChannelRetired (n : Nat) (s : State) : Host.Outcome State Fault Refusal := rmtDo n s (channelRetiredOp n)

/-! ### Registers -/

/-- A write of an RMT register. -/
def rmtWrite (a : Nat) (v : Word) (s : State) : State :=
  if a = Reg.RMT_CTRL then engineDisableOp v s
  else if a = Reg.RMT_DBELL then doorbellOp v s
  else if Reg.RMT_CFG 0 ≤ a then
    let n := (a - Reg.RMT_CFG 0) / 32
    if a = Reg.RMT_PC n then rmtPcWriteOp n v s
    else if a = Reg.RMT_CMD n then rmtCmdWrite n v s
    else if a = Reg.RMT_ST n then (if bit v 26 then s.setRmt n { s.rmtCh n with late := bit (s.noted a) 26 } else s)
    else s.typeWrite a v
  else s.typeWrite a v

/-- What a read of an RMT register shows. -/
def rmtRead (a : Nat) (s : State) : Word :=
  if a = Reg.RMT_STATUS then
    wd (forN 16 0 (fun m n => match (s.rmtCh n).st with
      | .run => m + 2 ^ n
      | .idleAtEnd => m + 2 ^ (16 + n)
      | _ => m))
  else if Reg.RMT_CFG 0 ≤ a then
    let n := (a - Reg.RMT_CFG 0) / 32
    let c := s.rmtCh n
    if a = Reg.RMT_PC n then wd c.pc
    else if a = Reg.RMT_ST n then
      let left := match c.loop with
        | some l => l.left
        | none => 0
      wd (c.st.code * 2 ^ 29 + b2n c.complete * 2 ^ 28 + b2n c.aborted * 2 ^ 27 + b2n c.late * 2 ^ 26 +
        b2n c.db * 2 ^ 25 + c.cause * 65536 + left)
    else if a = Reg.RMT_REM n then wd (match c.st with
      | .run | .halting | .halted | .aborting => s.rmtRest c
      | _ => c.rem)
    else s.reg a
  else s.reg a

end Sys2Proof.Machine
end

