-- ==== Sys2Proof/Machine/Power.lean ====
section
/-! DEFINITION. Power domains, the brace state, the scrub (chapter 14). -/

namespace Sys2Proof.Machine

/-! ### Domains (R717 to R720) -/

/-- The units and memories of domain PSd take their reset state. -/
def domainReset (d : Nat) (s : State) : State :=
  if d ≤ 4 then
    let c := d - 1
    let s := s.clearMem (0x10000000 + c * 0x1000000) (0x11000000 + c * 0x1000000)
    { s with
      tel := {
        cores := s.tel.cores.filter (fun e => e.1 / 16 != c),
        ctxs := s.tel.ctxs.filter (fun e => e.1 / 4096 != c),
        swaps := s.tel.swaps.filter (fun x => x.t / 16 != c),
        restore := s.tel.restore.filter (fun e => e.1 / 4096 != c) } }
  else if d = 5 then
    let s := (s.clearMem 0x20000000 0x21100000).resetRegs 0x60090000 0x600A0000
    { s with ldg := Ldg.reset }
  else if d = 6 then s.clearMem 0x30000000 0x34000000
  else if d = 7 then
    let s := linkDown 3 (linkDown 2 s)
    ((s.setPort 2 Port.reset).setPort 3 Port.reset).resetRegs 0x60120000 0x60140000
  else
    let s := excPowerOn ((s.resetRegs 0x600B0000 0x600C0000).resetRegs 0x601A0000 0x601C0000)
    { s with sap := [], til := [] }

/-- PS6 has been switched on: every line is disabled (R321). -/
def linesOff (s : State) : State :=
  let s := s.linesOn.foldl (fun s k => (s.setBit (Reg.OUT_DCFG k) 31 false).setReg (Reg.OUT_DLY k) 0) s
  let line := fun (a : Nat) => decide (Reg.OUT_DCFG 0 ≤ a ∧ a < Reg.OUT_DCFG 2560) || decide (Reg.OUT_DLY 0 ≤ a ∧ a < Reg.OUT_DLY 2560)
  let s := s.setOut { s.out with staged := s.out.staged.filter (fun e => !line e.2.1) }
  s.out.snk.foldl (fun s e => takeLine e.1 0 (s.setReg (Reg.OUT_DLY e.1) 0)) s

/-- A unit of the domain that stops with it: its master's transactions end (Table 11.4). -/
def domainMasters (d : Nat) (s : State) : State :=
  match d with
  | 1 => masterReset .tc0 [] s
  | 2 => masterReset .tc1 [] s
  | 3 => masterReset .tc2 [] s
  | 4 => masterReset .tc3 [] s
  | 8 => masterReset .exc [] s
  | _ => s

/-- The longest switch of Table 14.2, in ticks. -/
def switchTicks (d : Nat) (on : Bool) : Nat :=
  if !on then us 20 else match d with
    | 5 | 8 => us 150
    | 6 => us 2000
    | 7 => us 100
    | _ => us 200

/-- Domain PSd begins to switch. Off: its targets close, its masters are reset, it is isolated and loses its contents. -/
def switchDomain (d : Nat) (on : Bool) (s : State) : State :=
  let s := s.setPwr { s.pwr with switching := s.pwr.switching ++ [(d, (on, s.clock + switchTicks d on))] }
  if on then s else domainReset d (domainMasters d (s.setBit Reg.PWR_STATUS (d - 1) false))

/-- A placed logical Teller stands in cluster `c`. -/
def State.holdsPlaced (s : State) (c : Nat) : Bool :=
  (List.range 64).any (fun t => s.rb (Reg.TEL_MAP t) 31 && s.rf (Reg.TEL_MAP t) 5 0 / 16 == c)

/-- A switch of R719: ignored. -/
def State.switchBad (s : State) (d : Nat) (on : Bool) : Bool :=
  (on && decide (d ≤ 4) && s.rb Reg.TEL_CLST (3 + d)) || (!on && decide (d ≤ 4) && s.holdsPlaced (d - 1)) ||
    s.pwr.switching.any (fun e => e.1 == d)

/-- A PWR_CTRL write performed. -/
def pwrCtrlPerform (v : Word) (s : State) : State :=
  let new := fld v 7 0
  let old := s.rf Reg.PWR_CTRL 7 0
  let ds := (List.range 8).filter (fun i => new.testBit i != old.testBit i)
  if ds.any (fun i => s.switchBad (i + 1) (new.testBit i)) then s.evt Reg.PWR_EVT 3
  else ds.foldl (fun s i => switchDomain (i + 1) (new.testBit i) s) (s.setReg Reg.PWR_CTRL (wd new))

/-- A write of PWR_CTRL: held in the brace state (R723). -/
def pwrCtrlWriteOp (v : Word) (s : State) : State :=
  if s.braced then s.setPwr { s.pwr with heldCtrl := s.pwr.heldCtrl ++ [v] } else pwrCtrlPerform v s

def execPwrCtrlWrite (v : Word) (s : State) : Host.Outcome State Fault Refusal := hostDo s (pwrCtrlWriteOp v)

/-- A switch completes (R718): a domain switched on is in its reset state and shows in ON; PS5 clears its stores next. -/
def domainSwitchCompleteOp (d : Nat) (s : State) : State :=
  match s.pwr.switching.find? (fun e => e.1 == d) with
  | none => s
  | some (_, on, _) =>
    let s := s.setPwr { s.pwr with
      switching := s.pwr.switching.filter (fun e => e.1 != d), ldgClearing := s.pwr.ldgClearing || (on && d == 5) }
    let s := if on then (domainReset d s).setBit Reg.PWR_STATUS (d - 1) true else s
    let s := if on && d == 6 then linesOff s else s
    s.evt Reg.PWR_EVT 2

/-- PWR_STATUS as it reads. -/
def State.pwrStatus (s : State) : Word :=
  let busy := forN 8 0 (fun n i => if s.pwr.switching.any (fun e => e.1 == i + 1) then n + 2 ^ i else n)
  wd (2 ^ 31 * b2n s.braced + 2 ^ 30 * b2n (!s.pwr.heldCtrl.isEmpty) + 256 * busy + s.rf Reg.PWR_STATUS 7 0)

/-- The Ledger has cleared its stores (R196). They were cleared when PS5 came on; what has been written since stays. -/
def ledgerClearCompleteOp (s : State) : State :=
  if s.pwr.ldgClearing && s.domOn 5 then
    let s := s.setPwr { s.pwr with ldgClearing := false }
    { s with ldg := { s.ldg with ready := true } }
  else s

def execLedgerClearComplete (s : State) : Host.Outcome State Fault Refusal := hostDo s ledgerClearCompleteOp

/-! ### The brace state (R722 to R725) -/

/-- Supplies `below` (a mask) are below warning and none is at reset level. On entry XSP suspends its erase by itself
(R711), PWR_CTRL and SEC_ARBCMD writes are held from now on, the runtime appends a record to the post-mortem log. -/
def braceStateOp (below : Nat) (s : State) : State :=
  if !s.hostLive ∨ below % 64 = 0 then s
  else
    let s := (s.raise Reg.PWR_SUP (wd (below % 64 * 65536))).setFld Reg.PWR_SUP 5 0 below
    if s.braced then s
    else
      let pm := if s.pwr.stwDown then s.pwr.pmLog else s.pwr.pmLog ++ [.brace s.clock]
      ((s.setPwr { s.pwr with braceStart := some s.clock, pmLog := pm }).evt Reg.PWR_EVT 0).count Reg.PWR_CNT_BRACE 1 62

def execBraceState (below : Nat) (s : State) : Host.Outcome State Fault Refusal := hostDo s (braceStateOp below)

/-! ### Anti-rollback (R692) -/

/-- A write of SEC_ARBCMD: ignored unless it lies above the count and within the running image's SVN; held in the brace
state. The fuses are then being blown. -/
def arbAdvanceOp (v : Word) (s : State) : State :=
  let n := fld v 6 0
  if s.braced then s.setBoot { s.boot with arbHeld := s.boot.arbHeld ++ [v] }
  else if n ≤ s.fuse.arb ∨ s.rf Reg.SEC_BOOTST 6 0 < n then s.evt Reg.SEC_EVT 5
  else s.setBoot { s.boot with arbBusy := some n }

def execArbAdvance (v : Word) (s : State) : Host.Outcome State Fault Refusal := hostDo s (arbAdvanceOp v)

/-- The fuses are blown: an OTP bit changes only from 0 to 1 (R688). -/
def arbFusesBlownOp (s : State) : State :=
  match s.boot.arbBusy with
  | none => s
  | some n =>
    let s := s.setBoot { s.boot with arbBusy := none }
    ({ s with fuse := { s.fuse with arb := Nat.max s.fuse.arb n } }).evt Reg.SEC_EVT 4

def execArbFusesBlown (s : State) : Host.Outcome State Fault Refusal := hostDo s arbFusesBlownOp

/-- Every supply has been above restore for 1 ms (R725): held operations proceed in order. -/
def braceExitOp (s : State) : State :=
  match s.pwr.braceStart with
  | none => s
  | some t0 =>
    let us_ := (s.clock - t0) / 1024
    let s := s.latchFld Reg.PWR_BRMAX 31 0 (Nat.max (s.reg Reg.PWR_BRMAX).toNat us_)
    let held := s.pwr.heldCtrl
    let arb := s.boot.arbHeld
    let s := (s.setPwr { s.pwr with braceStart := none, heldCtrl := [] }).setBoot { s.boot with arbHeld := [] }
    let s := (s.setFld Reg.PWR_SUP 5 0 0).evt Reg.PWR_EVT 1
    let s := held.foldl (fun s v => pwrCtrlPerform v s) s
    xspNext (arb.foldl (fun s v => arbAdvanceOp v s) s)

/-! ### The scrub (R739, R740, Table 14.6) -/

/-- Memory bytes as the image holds them, over `[a, b)` (R198, R269). -/
def restoreImage (a b : Nat) (s : State) : State :=
  (s.boot.image.filter (fun e => decide (a ≤ e.1) && decide (e.1 < b))).foldl (fun s e => s.wrByte e.1 e.2) (s.clearMem a b)

/-- The image's bytes over `[a, a + n)`. -/
def State.imageBytes (s : State) (a n : Nat) : List Byte := (List.range n).map (fun i => aget s.boot.image 0 (a + i))

/-- The bundle at which the code of context `k` ends: the next entry of another context of the Teller, else the end of the
memory. The code of a context is not laid out (log entry 142). -/
def State.codeEnd (s : State) (k : Nat) : Nat :=
  s.tel.ctxs.foldl (fun m e =>
    if e.2.exists_ ∧ e.1 / 256 = k / 256 ∧ (s.ctx k).decl.entry < e.2.decl.entry ∧ e.2.decl.entry < m then e.2.decl.entry
    else m) 8192

/-- The runtime rewrites a context's code, or its bank 0 region, from the image, and re-enables the context at the next
folio unless it is disabled (R269). Bank 0 of a provisional task takes the bytes at its commit (R126). -/
def restoreCtx (k : Nat) (code : Bool) (s : State) : State :=
  let c := s.ctx k
  let d := c.decl
  let s := if code then restoreImage (telBase (k / 256) + 8 * d.entry) (telBase (k / 256) + 8 * s.codeEnd k) s
    else clhBank0 (k / 256) d.base (s.imageBytes (bank0Addr (k / 256) d.base) d.size) s
  if c.en && c.cmd != 2 then s.setCtx k { s.ctx k with cmd := 1 } else s

/-- The runtime restores a context, once it runs (R734). -/
def askRestore (k : Nat) (code : Bool) (s : State) : State :=
  if s.runtime then restoreCtx k code s else { s with tel := { s.tel with restore := s.tel.restore ++ [(k, code)] } }

/-- A context is quarantined at once (R269). -/
def quarantine (k : Nat) (s : State) : State :=
  endWaiting k ((s.setCtx k { s.ctx k with quar := true }).evt Reg.TEL_EVT 4)

/-- An uncorrectable word of a Teller memory, met by the scrub as if its context had read it (R740): a fault with
CAUSE 0x7 or 0x8 where the context runs, the latter with the data address (R267); the context is quarantined and
restored (R269). -/
def eccContext (k a : Nat) (s : State) : State :=
  let t := k / 256
  let code := decide (a % 0x100000 < 0x10000)
  let s :=
    if (s.core t).run.any (fun r => r.ctx == k % 256) then
      tellerFault t (if code then 7 else 8) (if code then 0 else a % 0x100000 - 0x40000) s
    else quarantine k (s.evt Reg.TEL_EVT 9)
  askRestore k code s

/-- An uncorrectable journal record of a context, in Vault-S (Table 14.6). -/
def eccJournal (k : Nat) (s : State) : State :=
  let t := k / 256
  let s := if (s.core t).run.any (fun r => r.ctx == k % 256) then stopRun t s else s
  askRestore k false (quarantine k s)

/-- A word without a block of its own (R740). -/
def eccSys (a : Nat) (s : State) : State := (s.setReg Reg.SYS_ECCADDR (wd a)).evt Reg.SYS_EVT 1

/-- The codes that the image holds for a gain store word, by crosspoint. -/
def State.imageCodes (s : State) (x0 : Nat) : List (Nat × Nat) :=
  (List.range 4).map (fun i => (x0 + i, leNat (s.imageBytes (0x20000000 + 2 * (x0 + i)) 2)))

/-- An uncorrectable gain store word: its codes ramp to off, then the runtime writes the image's codes as gain changes
with RAMPT0 (R198), once it runs (R734). -/
def eccGain (a : Nat) (s : State) : State :=
  let x0 := (a - 0x20000000) / 2
  let s := forN 4 s (fun s i => eccCode (x0 + i) s)
  let s := s.count Reg.LDG_CNT_ECCU 1 49
  if s.runtime then ledgerBeat (.gain (some 0) (s.imageCodes x0)) s
  else s.setLdg { s.ldg with restore := s.ldg.restore ++ [s.imageCodes x0] }

/-- The runtime runs: it restores what was found while it did not (R198, R269). -/
def runtimeRestores (s : State) : State :=
  let codes := s.ldg.restore
  let ctxs := s.tel.restore
  let s := { s.setLdg { s.ldg with restore := [] } with tel := { s.tel with restore := [] } }
  let s := codes.foldl (fun s l => ledgerBeat (.gain (some 0) l) s) s
  ctxs.foldl (fun s e => restoreCtx e.1 e.2 s) s

/-- A network copy that held the word is not valid any more: its samples are dropped, and another copy may be taken. -/
def eccCopy (k q p : Nat) (s : State) : State :=
  let x := s.sub k
  let was := fun (c : Nat × (Nat × Int)) => c.1 == q && c.2.1 == p
  let s := s.setSub k { x with copies := x.copies.filter (fun c => !was c), taken := x.taken.filter (fun c => !was c) }
  if x.taken.any was then dropCopy k q s else s

/-- An Exchange channel restarts, as by R277. -/
def excRestart (c : Nat) (s : State) : State :=
  let x := s.exc c
  if bit x.cfg 31 then s.setExc c (x.restart c) else s

/-- A Vault-D word that the scrub finds: as if a line had read it (R322), where it belongs to one. -/
def eccVaultD (a : Nat) (s : State) : State := if s.inLine (fun _ => true) a then eccLine a s else eccSys a s

/-- The cause of a host internal reset is recorded, and within 100 ns the lanes stop and the outputs rest (R731); the
reset takes effect 10 µs later. A reset already due stays. -/
def hostResetCause (code : Nat) (s : State) : State :=
  if s.pwr.intReset.isSome ∨ !s.hostLive then s
  else
    let s := keywayDown (s.setPwr { s.pwr with intReset := some (code, s.clock + us 10) })
    s.setField { s.field with laneClock := false }

/-- One uncorrectable word (Table 14.6). -/
def eccWord (w : BadWord) (s : State) : State :=
  let a := w.addr / 8 * 8
  let s := (s.sum 2).count Reg.SYS_CNT_ECCU 1 61
  let key := w.ctx.map (fun e => ctxKey e.1 e.2)
  if a < 0x20000 then hostResetCause 8 s
  else if a < 0x1200000 then
    let s := s.evt Reg.SYS_EVT 1
    s.setPwr { s.pwr with stwReq := true }
  else if 0x10000000 ≤ a ∧ a < 0x14000000 then
    (match key with
     | some k => eccContext k a s
     | none => eccSys a s)
  else if 0x20000000 ≤ a ∧ a < 0x20A00000 then
    (eccGain a (s.setReg Reg.LDG_ECCADDR (wd a))).evt Reg.LDG_EVT 6
  else if 0x21000000 ≤ a ∧ a < 0x21100000 then
    let k := (a - 0x21000000) / 16
    let s := (s.setReg Reg.LDG_ECCADDR (wd a)).evt Reg.LDG_EVT 6
    if a % 16 = 8 then s.setLdg { s.ldg with complete := addTo s.ldg.complete k }
    else s.setLdg { s.ldg with freed := addTo s.ldg.freed k }
  else if 0x30000000 ≤ a ∧ a < 0x34000000 then eccVaultD a s
  else if 0x40000000 ≤ a ∧ a < 0x40800000 then
    (match w.copy with
     | some (k, q, p) => eccCopy k q p (s.evt Reg.SYS_EVT 1)
     | none => eccSys a s)
  else if 0x40800000 ≤ a ∧ a < 0x40C00000 then
    (match key with
     | some k => eccJournal k (s.evt Reg.SYS_EVT 1)
     | none => eccSys a s)
  else if 0x40C00000 ≤ a ∧ a < 0x40E00000 then
    if bit (s.exc (excOfAddr a)).cfg 31 then excRestart (excOfAddr a) (s.evt Reg.SYS_EVT 1) else eccSys a s
  else eccSys a s

/-- One corrected word: recorded where its block says (Table 14.6). -/
def eccCorrected (a : Nat) (s : State) : State :=
  let s := s.count Reg.SYS_CNT_ECCC 1 61
  if 0x10000000 ≤ a ∧ a < 0x14000000 then s.evt Reg.TEL_EVT 8
  else if 0x20000000 ≤ a ∧ a < 0x21100000 then (s.evt Reg.LDG_EVT 5).count Reg.LDG_CNT_ECCC 1 49
  else if 0x30000000 ≤ a ∧ a < 0x34000000 then s.evt Reg.OUT_EVT 3
  else s.evt Reg.SYS_EVT 0

/-- The scrub of a period has corrected some words and found others uncorrectable. -/
def scrubPeriodOp (corrected : List Nat) (bad : List BadWord) (s : State) : State :=
  if !s.hostLive then s
  else bad.foldl (fun s w => eccWord w s) (corrected.foldl (fun s a => eccCorrected a s) s)

def execScrubPeriod (corrected : List Nat) (bad : List BadWord) (s : State) : Host.Outcome State Fault Refusal :=
  hostDo s (scrubPeriodOp corrected bad)

/-- The field scrub: the 4 samples of an uncorrectable word play 0 until the next load (Table 14.6). `bad` lists
Strongbox offsets. -/
def fieldScrubOp (bad : List Nat) (s : State) : State :=
  bad.foldl (fun s a => (s.wrBytes (strongbox + a % 0x1000000 / 8 * 8) (List.replicate 8 0)).fevt Reg.FSBX_EVT 2) s

def execFieldScrub (bad : List Nat) (s : State) : Host.Outcome State Fault Refusal := fieldDo s (fieldScrubOp bad)

end Sys2Proof.Machine
end

