-- ==== Sys2Proof/Machine/Supply.lean ====
section
/-! DEFINITION. Supplies, resets, the Steward, its watchdog, and temperatures (chapter 14). -/

namespace Sys2Proof.Machine

/-! ### The host start and host resets (R694, R720, R730 to R732) -/

/-- The boot ROM runs: PS1 to PS6 are switched on, the order of slots is evaluated, and the first header is read. -/
def hostStart (s : State) : State :=
  bootBegin (pwrCtrlWriteOp 0x3F (s.setBoot { Boot.reset with phase := .header }))

/-- The host die starts if nothing holds it any more. -/
def hostRelease (s : State) : State := if s.hostLive then hostStart s else s

/-- The post-mortem log (R732). -/
def pmLo : Nat := 0x11FF000
def pmHi : Nat := 0x1200000

/-- A host reset: every host block and memory takes its reset state; the field die, both flash devices, the fuses and,
where `pm` says, the post-mortem log keep theirs. `hold` says what holds the die afterwards. A root that stays locked
shows in CLK_STATUS. -/
def hostReset (cause supply : Nat) (pm : Bool) (hold : Hold) (s : State) : State :=
  let s := if s.isA then keywayDown s else s
  let s := match s.xsp.run with
    | some c => flashOpen c s
    | none => s
  let p := s.pwr
  let field := s.field
  let clk := if hold.root then 0 else s.reg Reg.CLK_STATUS &&& wd 0x300
  let s := { State.reset with
    pending := s.pending, clock := s.clock, free := s.free, ans := s.ans, slotId := s.slotId, fuse := s.fuse,
    mem := s.mem.filter (fun e => decide (0x80000000 ≤ e.1) || (pm && decide (pmLo ≤ e.1) && decide (e.1 < pmHi))),
    regs := s.regs.filter (fun e => decide (0x70000000 ≤ e.1)),
    pwr := { Pwr.reset with
      hold := hold, pmLog := if pm then p.pmLog else [], fSupply := p.fSupply, fPin := p.fPin, fHot := p.fHot },
    field := { field with laneClock := false },
    net := { Net.reset with f0 := s.net.f0 } }
  (s.setReg Reg.CLK_STATUS clk).setReg Reg.SYS_RSTCAUSE (wd (cause * 2 ^ 28 + supply * 2 ^ 24))

/-- The root locks to the XO: ROOTLOCK and XOOK; the host domains, held until then after power-up, start (R546, R547). -/
def rootLockOp (s : State) : State :=
  let held := s.pwr.hold.root
  let s := s.setReg Reg.CLK_STATUS (s.reg Reg.CLK_STATUS ||| wd 0x300)
  if held then hostRelease (s.setPwr { s.pwr with hold := { s.pwr.hold with root := false } }) else s

def execRootLock (s : State) : Host.Outcome State Fault Refusal := .next (rootLockOp s)

/-- Every host supply has been above restore for 1 ms (R715). -/
def hostSupplyGoodOp (s : State) : State :=
  if s.pwr.hold.supply then hostRelease (s.setPwr { s.pwr with hold := { s.pwr.hold with supply := false } }) else s

def execHostSupplyGood (s : State) : Host.Outcome State Fault Refusal := .next (hostSupplyGoodOp s)

/-- A host supply at reset level (R726); after it the root must lock again. -/
def hostSupervisorResetOp (supply : Nat) (s : State) : State :=
  if s.pwr.hold.supply then s else hostReset 1 (supply % 16) false { s.pwr.hold with supply := true, root := true } s

def execHostSupervisorReset (supply : Nat) (s : State) : Host.Outcome State Fault Refusal :=
  .next (hostSupervisorResetOp supply s)

/-- A ball holds the die in reset: a reset if the die ran, else a further hold. -/
def ballReset (cause : Nat) (hold : Hold) (s : State) : State :=
  if s.hostLive then hostReset cause 0 true hold s else s.setPwr { s.pwr with hold := hold }

/-- RST_N low (R730). -/
def execHostPinReset (s : State) : Host.Outcome State Fault Refusal :=
  .next (ballReset 2 { s.pwr.hold with pin := true } s)

/-- PRSNT_N high (R737). -/
def execPrsntNHigh (s : State) : Host.Outcome State Fault Refusal :=
  .next (ballReset 3 { s.pwr.hold with prsnt := true } s)

/-- PRSNT_N low for 10 ms. -/
def prsntNReleaseOp (s : State) : State :=
  if s.pwr.hold.prsnt then hostRelease (s.setPwr { s.pwr with hold := { s.pwr.hold with prsnt := false } }) else s

def execPrsntNRelease (s : State) : Host.Outcome State Fault Refusal := .next (prsntNReleaseOp s)

/-- RST_N high again. -/
def rstNReleaseOp (s : State) : State :=
  if s.pwr.hold.pin then hostRelease (s.setPwr { s.pwr with hold := { s.pwr.hold with pin := false } }) else s

def execRstNRelease (s : State) : Host.Outcome State Fault Refusal := .next (rstNReleaseOp s)

/-- The host internal reset that is due, by a cause or by a Restart message, takes effect; the die is then released
unless it is too hot (R742). An uncorrectable word of the boot ROM shows after the restart (Table 14.6). A root that
has lost lock must lock first (log entry 148). -/
def hostInternalResetOp (s : State) : State :=
  let due := match s.pwr.intReset, s.pwr.restart with
    | some (c, t), _ => if t ≤ s.clock then some c else none
    | none, some t => if t ≤ s.clock then some 4 else none
    | none, none => none
  match due with
  | none => s
  | some c =>
    let s := hostRelease (hostReset c 0 true { s.pwr.hold with hot := s.pwr.hold.hot || c == 7, root := s.pwr.hold.root || c == 6 } s)
    s.evtIf (c == 8) Reg.SYS_EVT 1

def execHostInternalReset (s : State) : Host.Outcome State Fault Refusal := .next (hostInternalResetOp s)

/-- The root loses lock (R730, Table 14.6). -/
def rootLossOp (s : State) : State := hostResetCause 6 ((s.setBit Reg.CLK_STATUS 8 false).evt Reg.CLK_EVT 0)

def execRootLossOfLock (s : State) : Host.Outcome State Fault Refusal := hostDo s rootLossOp

/-! ### The Steward (R733, R734, R741) -/

def stewardRequest (s : State) : State := s.setPwr { s.pwr with stwReq := true }

/-- A write of SYS_RST: without the key it is ignored. -/
def sysRstWrite (v : Word) (s : State) : State :=
  if fld v 15 8 ≠ 0xA5 then s.evt Reg.SYS_EVT 6
  else
    let s := if bit v 1 then stewardRequest s else s
    if bit v 0 then hostResetCause 4 s else s

def execHostResetRequest (v : Word) (s : State) : Host.Outcome State Fault Refusal := hostDo s (sysRstWrite v)

def execStwResetRequest (v : Word) (s : State) : Host.Outcome State Fault Refusal := hostDo s (sysRstWrite v)

/-- The two cores disagree. -/
def lockstepOp (s : State) : State := if s.hostLive && !s.pwr.stwDown then stewardRequest (s.evt Reg.SYS_EVT 2) else s

def execLockstepMismatch (s : State) : Host.Outcome State Fault Refusal := hostDo s lockstepOp

/-- The Steward reset asked for: counted; the STW master is reset (Table 11.4). -/
def stewardResetOp (s : State) : State :=
  if s.pwr.stwReq then
    masterReset .stw [] ((s.setPwr { s.pwr with stwReq := false, stwDown := true }).count Reg.SYS_CNT_STWRST 1 61)
  else s

def execStewardReset (s : State) : Host.Outcome State Fault Refusal := hostDo s stewardResetOp

/-- The runtime runs again. -/
def stewardRestartOp (s : State) : State :=
  if s.pwr.stwDown then
    let s := (s.setPwr { s.pwr with stwDown := false }).evt Reg.SYS_EVT 5
    if s.runtime then followL (runtimeRestores s) else s
  else s

def execStewardRuntimeRestart (s : State) : Host.Outcome State Fault Refusal := hostDo s stewardRestartOp

/-- The watchdog's period begins. -/
def watchdogStart (s : State) : State :=
  s.setPwr { s.pwr with wdDeadline := if s.rb Reg.SYS_WDOG 31 then some (s.clock + ms (s.rf Reg.SYS_WDOG 9 0)) else none }

/-- A write of SYS_WDKICK: 0xA5 restarts the period. -/
def watchdogKickOp (v : Word) (s : State) : State := if fld v 7 0 = 0xA5 then watchdogStart s else s.evt Reg.SYS_EVT 6

def execWatchdogKick (v : Word) (s : State) : Host.Outcome State Fault Refusal := hostDo s (watchdogKickOp v)

/-- A write of SYS_WDOG: PERIOD is 1 to 1,000 ms. -/
def wdogWrite (v : Word) (s : State) : State :=
  let p := fld v 9 0
  let ok := decide (1 ≤ p) && decide (p ≤ 1000)
  let w := if ok then v else putFld v 9 0 (s.rf Reg.SYS_WDOG 9 0)
  (watchdogStart (s.typeWrite Reg.SYS_WDOG w)).evtIf (!ok) Reg.SYS_EVT 6

/-- The watchdog's period has ended without a kick. -/
def State.wdExpired (s : State) : Bool :=
  s.rb Reg.SYS_WDOG 31 && match s.pwr.wdDeadline with
    | some t => decide (t ≤ s.clock)
    | none => false

/-- The watchdog expires (R741). -/
def watchdogExpiryOp (s : State) : State :=
  if s.wdExpired && s.hostLive then
    let s := watchdogStart (s.evt Reg.SYS_EVT 3)
    let again := match s.pwr.wdLast with
      | some t => decide (s.clock ≤ t + 10240000000)
      | none => false
    if s.rb Reg.SYS_WDOG 30 || again then hostResetCause 5 s
    else stewardRequest (s.setPwr { s.pwr with wdLast := some s.clock })
  else s

def execWatchdogExpiry (s : State) : Host.Outcome State Fault Refusal := hostDo s watchdogExpiryOp

/-! ### Temperatures (R742, R743), in 0.25 °C -/

/-- A host measurement. -/
def hostTempOp (tj : Int) (s : State) : State :=
  if s.pwr.hold.hot then
    if tj ≤ 500 then hostRelease (s.setPwr { s.pwr with hold := { s.pwr.hold with hot := false } }) else s
  else if !s.hostLive then s
  else
    let hot := if 580 ≤ tj then s.pwr.hot + 1 else 0
    let top := match s.pwr.tmax with
      | some m => if m < tj then tj else m
      | none => tj
    let s := (s.setPwr { s.pwr with hot := hot, tmax := some top }).setFld Reg.SYS_TEMP 11 0 (encSigned 12 tj)
    let s := (s.note (regKey Reg.SYS_TEMP 0) (wd (4096 + encSigned 12 tj))).evtIf (decide (520 ≤ tj)) Reg.SYS_EVT 4
    if 10 ≤ hot then hostResetCause 7 s else s

def execHostTemperatureMeasurement (tj : Int) (s : State) : Host.Outcome State Fault Refusal := .next (hostTempOp tj s)

/-! ### The field die (R727 to R729, R737, R743) -/

/-- A field reset: power-stage outputs at 0, every field block and the Strongbox reset; the host sees the link go down.
A flash command cut short leaves its range open. -/
def fieldReset (s : State) : State :=
  let s := keywayDown s
  let s := match s.field.pg with
    | some (erase, a) =>
      if erase then freeFill (fflash + a / 65536 * 65536) 16384 s else freeFill (fflash + a / 256 * 256) 64 s
    | none => s
  let s := { s with mem := s.mem.filter (fun e => decide (e.1 < strongbox)) }
  ((s.resetRegs 0x70000000 0x70100000).setField Field.reset).setF0 F0.reset

/-- The field die starts if nothing holds it: in AUTONOMY, with the Strongbox load running (R729). -/
def fieldRelease (s : State) : State :=
  if s.fieldLive then foutSettle (sbxLoadBegin (s.setField { s.field with folioAt := s.clock })) else s

def execFieldSupplyBelowWarning (supply : Nat) (s : State) : Host.Outcome State Fault Refusal :=
  fieldDo s (fun s => (s.setReg Reg.FSYS_SUP (s.reg Reg.FSYS_SUP ||| wd (2 ^ (24 + supply % 3)))).fevt Reg.FSYS_SUP 31)

def execFieldWarningEnd (s : State) : Host.Outcome State Fault Refusal :=
  fieldDo s (fun s => s.setFld Reg.FSYS_SUP 26 24 0)

/-- A field supply at reset level (R728). -/
def execFieldSupplyReset (s : State) : Host.Outcome State Fault Refusal :=
  kwyDo s (fun s => if s.pwr.fSupply then s else (fieldReset s).setPwr { s.pwr with fSupply := true })

/-- Every field supply has been above restore for 1 ms (R715, R729). -/
def execFieldSupplyGood (s : State) : Host.Outcome State Fault Refusal :=
  kwyDo s (fun s => if s.pwr.fSupply then fieldRelease (s.setPwr { s.pwr with fSupply := false }) else s)

/-- FPRSNT_N high. -/
def execFprsntNHigh (s : State) : Host.Outcome State Fault Refusal :=
  kwyDo s (fun s => if s.pwr.fPin then s else (fieldReset s).setPwr { s.pwr with fPin := true })

/-- FPRSNT_N low for 10 ms. -/
def execFprsntNRelease (s : State) : Host.Outcome State Fault Refusal :=
  kwyDo s (fun s => if s.pwr.fPin then fieldRelease (s.setPwr { s.pwr with fPin := false }) else s)

/-- A channel not under override is stopped as by STOP. -/
def heatStop (c : Nat) (s : State) : State :=
  if s.claimed c then s
  else match (s.chan c).st with
    | .off | .lockout => s
    | _ => stopOp c s

/-- A field measurement. -/
def fieldTempOp (tj : Int) (s : State) : State :=
  if s.pwr.fHot then
    if tj < 560 then fieldRelease (s.setPwr { s.pwr with fHot := false }) else s
  else if !s.fieldLive then s
  else if 660 ≤ tj then (fieldReset s).setPwr { s.pwr with fHot := true }
  else foutSettle <|
    let s := s.setFld Reg.FSYS_SUP 11 0 (encSigned 12 tj)
    let s := s.fevtIf (decide (560 ≤ tj)) Reg.FSYS_SUP 30
    if 620 ≤ tj then (forN 32 (s.setField { s.field with overTemp := true }) (fun s c => heatStop c s)).fevt Reg.FSYS_SUP 29
    else if tj < 560 then s.setField { s.field with overTemp := false }
    else s

def execFieldTemperatureMeasurement (tj : Int) (s : State) : Host.Outcome State Fault Refusal := kwyDo s (fieldTempOp tj)

end Sys2Proof.Machine
end

