-- ==== Sys2Proof/Machine/Regs.lean ====
section
/-! DEFINITION. The host register blocks as a bus master sees them: what a write does (R23, R25, and the effects that
the chapters give single registers), what a read shows, and what a read changes (R26, R487, R413). -/

namespace Sys2Proof.Machine

/-! ### Writes -/

/-- TIM_SRVA or TIM_SRVB, which only the Steward runtime writes (R516). -/
def srvRegWrite (m : Master) (i : Nat) (v : Word) (s : State) : State :=
  if m = .stw then srvWrite i (bit v 31) (fld v 30 28) (fld v 27 20) (fld v 19 0) s else s

/-- TIM registers (chapter 9). -/
def timWrite (m : Master) (a : Nat) (v : Word) (s : State) : State :=
  let k := (a - Reg.TIM_SEC_LO 0) / 64
  if a = Reg.TIM_CTRL then timCtrlWrite v s
  else if a = Reg.TIM_SNAP then snapOp v s
  else if a = Reg.TIM_ALIGN then alignOp v s
  else if a = Reg.TIM_PULSE then pulseEnableOp v s
  else if a = Reg.TIM_PPSW then (if 1 ≤ fld v 18 0 ∧ fld v 18 0 ≤ 500000 then s.typeWrite a v else s.evt Reg.TIM_EVT 0)
  else if a = Reg.TIM_SRVA then srvRegWrite m 0 v s
  else if a = Reg.TIM_SRVB then srvRegWrite m 1 v s
  else if Reg.TIM_SEC_LO 0 ≤ a ∧ a < Reg.TIM_SEC_LO 3 then
    if a = Reg.TIM_RATE_HI k then rateCommitOp k v s
    else if a = Reg.TIM_VCMD k then vcmdWrite k v s
    else if a = Reg.TIM_SLEWR k then slewRateWrite k v s
    else s.typeWrite a v
  else s.typeWrite a v

/-- RSC registers (chapter 9). -/
def rscWrite (a : Nat) (v : Word) (s : State) : State :=
  if a = Reg.RSC_CTRL then rscCtrlWrite v (s.refPhase s.rsc.sel) s
  else if a = Reg.RSC_NCO then ncoWriteOp v s
  else if a = Reg.RSC_WTR then wtrWrite v s
  else if Reg.RSC_CCFG 0 ≤ a ∧ a = Reg.RSC_CLIM ((a - Reg.RSC_CCFG 0) / 16) then climWrite ((a - Reg.RSC_CCFG 0) / 16) v s
  else s.typeWrite a v

/-- SYS registers (chapter 14). -/
def sysWrite (a : Nat) (v : Word) (s : State) : State :=
  if a = Reg.SYS_RST then sysRstWrite v s
  else if a = Reg.SYS_WDOG then wdogWrite v s
  else if a = Reg.SYS_WDKICK then watchdogKickOp v s
  else if a = Reg.SYS_SCRUB then (if fld v 7 0 = 0 then s.evt Reg.SYS_EVT 6 else s.typeWrite a v)
  else s.typeWrite a v

/-- EVT registers: the shared software sources, and the counter sources of EVT_RAW1 (R745, Table 14.7). -/
def evtWrite (a : Nat) (v : Word) (s : State) : State :=
  if a = Reg.EVT_RAW 1 then s.setReg a ((s.reg a &&& ~~~(v &&& 0x7FFF0000)) ||| s.setHere a)
  else if a = Reg.EVT_SWCLR then s.setReg Reg.EVT_SWSET (s.reg Reg.EVT_SWSET &&& ~~~v)
  else s.typeWrite a v

/-- PST registers (chapter 2). -/
def pstWrite (a : Nat) (v : Word) (s : State) : State :=
  if a = Reg.PST_CTRL then pstCtrlWriteOp v s
  else if a = Reg.PST_CUT then pstCutWriteOp v s
  else if a = Reg.PST_WIN then pstWinWriteOp v s
  else s.typeWrite a v

/-- LDG registers (chapter 3). -/
def ldgWrite (a : Nat) (v : Word) (s : State) : State :=
  if a = Reg.LDG_CTRL then holdWriteOp v s
  else if a = Reg.LDG_CHGV then chgvWriteOp v s
  else if a = Reg.LDG_REPTB then repointWriteOp v s
  else if Reg.LDG_RAMPT 0 ≤ a ∧ a ≤ Reg.LDG_RAMPT 15 then ramptWriteOp ((a - Reg.LDG_RAMPT 0) / 4) v s
  else s.typeWrite a v

/-- TEL registers (chapter 4). -/
def telWrite (a : Nat) (v : Word) (s : State) : State :=
  if a = Reg.TEL_CTXCMD then ctxCmdWrite v s
  else if a = Reg.TEL_SWAPGO then swapGoOp v s
  else s.typeWrite a v

/-- OUT registers (chapter 5). -/
def outWrite (a : Nat) (v : Word) (s : State) : State :=
  if a < Reg.OUT_ATK 0 then s.typeWrite a v
  else if a < Reg.OUT_HBC 0 then coefWrite a v s
  else if a < Reg.OUT_DLY 0 then s
  else if a < Reg.OUT_DCFG 0 then dlyWriteOp ((a - Reg.OUT_DLY 0) / 4) v s
  else if a < Reg.OUT_DLEN 0 then dcfgWriteOp ((a - Reg.OUT_DCFG 0) / 4) v s
  else if a < Reg.OUT_LIM 0 then dlenWriteOp ((a - Reg.OUT_DLEN 0) / 4) v s
  else if a < Reg.OUT_THR 0 then limWriteOp ((a - Reg.OUT_LIM 0) / 4) false v s
  else if a < Reg.OUT_FMT 0 then limWriteOp ((a - Reg.OUT_THR 0) / 4) true v s
  else fmtWrite ((a - Reg.OUT_FMT 0) / 4) v s

/-- SAP and TIL registers (chapter 12). -/
def sapWrite (a : Nat) (v : Word) (s : State) : State :=
  if a = Reg.SAP_ALIGN then sapAlignOp v s
  else if Reg.SAP_OMAP 0 ≤ a then omapWrite a v s
  else if Reg.SAP_CFG 0 ≤ a ∧ a = Reg.SAP_CFG ((a - Reg.SAP_CFG 0) / 8) then sapCfgWriteOp ((a - Reg.SAP_CFG 0) / 8) v s
  else s.typeWrite a v

def tilWrite (a : Nat) (v : Word) (s : State) : State :=
  let n := (a - Reg.TIL_CFG 0) / 16
  if Reg.TIL_TXMAP 0 ≤ a then txmapWrite a v s
  else if a < Reg.TIL_CFG 0 then s.typeWrite a v
  else if a = Reg.TIL_CFG n then tilCfgWrite n v s
  else if a = Reg.TIL_WM n then tilWmWriteOp n v s
  else s.typeWrite a v

/-- XSP registers (chapter 13). -/
def xspWrite (a : Nat) (v : Word) (s : State) : State :=
  if a = Reg.XSP_CMD then xspCmdWrite v s
  else if a = Reg.XSP_SIZE then xspSizeWrite v s
  else s.typeWrite a v

/-- KWY registers (chapter 7); on the ML2560-P the block ignores writes (note to R72). -/
def kwyWrite (a : Nat) (v : Word) (s : State) : State :=
  if !s.isA then s else if a = Reg.KWY_CTRL then kwyCtrlWrite v s else s.typeWrite a v

/-- A write of `v` by master `m` to the host register at `a`. -/
def regPerform (m : Master) (a : Nat) (v : Word) (s : State) : State :=
  match a / 0x10000 with
  | 0x6000 => sysWrite a v s
  | 0x6001 => if a = Reg.PWR_CTRL then pwrCtrlWriteOp v s else s.typeWrite a v
  | 0x6003 => rscWrite a v s
  | 0x6004 => timWrite m a v s
  | 0x6005 => evtWrite a v s
  | 0x6006 => if a = Reg.SEC_ARBCMD then arbAdvanceOp v s else s.typeWrite a v
  | 0x6008 => pstWrite a v s
  | 0x6009 => ldgWrite a v s
  | 0x600A => telWrite a v s
  | 0x600B => if Reg.EXC_CFG 0 ≤ a then excCfgWriteOp ((a - Reg.EXC_CFG 0) / 4) v s else s.typeWrite a v
  | 0x600D => outWrite a v s
  | 0x6010 => macWrite 0 a v s
  | 0x6011 => macWrite 1 a v s
  | 0x6012 => macWrite 2 a v s
  | 0x6013 => macWrite 3 a v s
  | 0x6014 => dvtWrite a v s
  | 0x6015 => hngWrite a v s
  | 0x6019 => rmtWrite a v s
  | 0x601A => sapWrite a v s
  | 0x601B => tilWrite a v s
  | 0x601D => xspWrite a v s
  | 0x601E => kwyWrite a v s
  | _ => s.typeWrite a v

/-- A register write and whether it succeeds: LDG_CHGV answers an error on a full queue (R780), and leaves the verdict in
the answer. -/
def regWrite (m : Master) (a : Nat) (v : Word) (s : State) : Bool × State :=
  let t := regPerform m a v (s.answer .ok [])
  (if a = Reg.LDG_CHGV then t.ans.resp == .ok else true, { t with ans := s.ans })

/-! ### Reads -/

/-- The smaller of two numbers. -/
def minN (a b : Nat) : Nat := if a ≤ b then a else b

/-- SYS registers: what is fused, and the highest temperature. -/
def sysRead (a : Nat) (s : State) : Word :=
  if a = Reg.SYS_ID then
    putFld (putFld (putFld (s.reg a) 15 12 s.fuse.variant) 11 8 s.fuse.hstep) 7 4 (if s.isA then s.fuse.fstep else 15)
  else if a = Reg.SYS_TEMP then
    putFld (s.reg a) 27 16 (match s.pwr.tmax with
      | some t => encSigned 12 t
      | none => 0)
  else s.reg a

/-- floor(J) in ns, saturating, and the rest in 2^-16 ns. -/
def State.juncNs (s : State) : Int := clampI (-2147483648) 2147483647 (s.tim.juncAt8 s.tim.now8 / 1099511627776)

/-- RSC registers: the phase of the open loop (R536) and the holdover frequency (R533). -/
def rscRead (a : Nat) (s : State) : Word :=
  if a = Reg.RSC_PDOUT then s.pdout
  else if a = Reg.RSC_HOFREQ then wdi (s.rsc.holdover s.clock)
  else s.reg a

def timRead (a : Nat) (s : State) : Word :=
  let k := (a - Reg.TIM_SEC_LO 0) / 64
  if a = Reg.TIM_TCNT_LO then wd s.tick
  else if Reg.TIM_SNAPW 0 ≤ a ∧ a ≤ Reg.TIM_SNAPW 3 then s.snapWord ((a - Reg.TIM_SNAPW 0) / 4)
  else if a = Reg.TIM_JUNC_NS then wdi s.juncNs
  else if a = Reg.TIM_JUNC_FRAC then wdi (s.tim.juncAt8 s.tim.now8 % 1099511627776 / 16777216)
  else if Reg.TIM_SEC_LO 0 ≤ a ∧ a < Reg.TIM_SEC_LO 3 ∧ a = Reg.TIM_SLEWREM k then
    wdi (((s.tim.view k).rebase s.tick).slew / 1099511627776)
  else s.reg a

def evtRead (a : Nat) (s : State) : Word :=
  if Reg.EVT_RAW 0 ≤ a ∧ a ≤ Reg.EVT_RAW 3 then s.evtRaw ((a - Reg.EVT_RAW 0) / 4)
  else if a = Reg.EVT_SWCLR then s.reg Reg.EVT_SWSET
  else if a = Reg.EVT_PIN then wd (2 * b2n s.faultN + b2n s.evtN)
  else s.reg a

/-- SEC registers: what is in OTP (Table 13.8). -/
def secRead (a : Nat) (s : State) : Word :=
  if a = Reg.SEC_STATUS then
    wd (b2n (decide (s.fuse.keyhash = 0)) * 2 ^ 31 + b2n (decide (s.fuse.imgkey ≠ 0)) * 2 ^ 30 +
      s.fuse.jtag % 4 * 2 ^ 28 + s.fuse.arb % 128 * 2 ^ 21)
  else if a = Reg.SEC_SERLO then wd s.fuse.serial.toNat
  else if a = Reg.SEC_SERHI then wd (s.fuse.serial.toNat / 4294967296)
  else if Reg.SEC_KEYHASH 0 ≤ a ∧ a ≤ Reg.SEC_KEYHASH 7 then
    wd (s.fuse.keyhash.toNat / 2 ^ (32 * ((a - Reg.SEC_KEYHASH 0) / 4)))
  else s.reg a

def pstRead (a : Nat) (s : State) : Word :=
  if a = Reg.PST_STATUS then
    wd (minN 128 s.inflight * 256 + 2 * b2n s.pst.paused + b2n (s.pst.run && !s.pst.paused))
  else if a = Reg.PST_FOLIO_LO then wd s.pst.cut
  else s.reg a

def ldgRead (a : Nat) (s : State) : Word :=
  if a = Reg.LDG_STATUS then s.ldgStatus
  else if a = Reg.LDG_RMLO then s.rowMapWord 0
  else if a = Reg.LDG_RMHI then s.rowMapWord 1
  else if a = Reg.LDG_REPTST then wd s.repPend
  else if Reg.LDG_BIND 0 ≤ a then
    putFld (s.reg a) 31 31 (b2n (decide ((s.gate ((a - Reg.LDG_BIND 0) / 4)).phase ≠ .normal)))
  else s.reg a

def telRead (a : Nat) (s : State) : Word :=
  let c := s.ctx s.ctxSel
  if a = Reg.TEL_CLST then putFld (s.reg a) 3 0 (forN 4 0 (fun m c => if s.domOn (c + 1) then m + 2 ^ c else m))
  else if a = Reg.TEL_CTXST then
    wd (b2n c.en * 2 ^ 31 + b2n c.quar * 2 ^ 30 + c.fcons % 16 * 2 ^ 20 + c.decl.cycles % 131072)
  else if a = Reg.TEL_CTXLAST then wd c.last
  else if a = Reg.TEL_CTXMAX then wd c.max
  else s.reg a

def excRead (a : Nat) (s : State) : Word :=
  let c := s.rf Reg.EXC_CHSEL 10 0
  if a = Reg.EXC_STATUS then s.excStatus
  else if a = Reg.EXC_CHST then s.excChst c
  else if a = Reg.EXC_RATE then (s.exc c).rate
  else s.reg a

def outRead (a : Nat) (s : State) : Word :=
  let k := s.rf Reg.OUT_SEL 11 0
  if a = Reg.OUT_STATUS then wd s.outUsed
  else if a = Reg.OUT_SST then
    wd (b2n (s.snk k).xf.isSome * 2 ^ 31 + b2n (s.snk k).pend.isSome * 2 ^ 30 + (s.snk k).dly % 2 ^ 30)
  else if a = Reg.OUT_SGAIN then wd (s.snk k).gmin
  else if Reg.OUT_HBC 0 ≤ a ∧ a ≤ Reg.OUT_HBC 63 then hbCoef ((a - Reg.OUT_HBC 0) / 4)
  else if Reg.OUT_FMT 0 ≤ a then s.outFmt ((a - Reg.OUT_FMT 0) / 4)
  else s.reg a

def dvtRead (a : Nat) (s : State) : Word :=
  let x := s.sub (s.rf Reg.DVT_PSEL 8 0)
  if a = Reg.DVT_STATUS then s.dvtStatus
  else if a = Reg.DVT_PSKEW then wdi x.skew
  else if a = Reg.DVT_PSKMAX then wd x.skewMax
  else s.reg a

/-- The master of index `i` (Table 11.1). -/
def masterOf (i : Nat) : Master :=
  [Master.stw, .rmt, .tc0, .tc1, .tc2, .tc3, .net, .exc, .hsp, .pst].getD i .stw

/-- The transactions of a master without their last response: requests, responses due, proxy accesses. -/
def State.outstanding (s : State) (m : Master) : Nat :=
  let proxies := (match s.kwy.out with
    | some p => [p]
    | none => []) ++ s.kwy.waiting
  (s.clh.waiting.filter (fun t => t.m == m)).length + (s.clh.inflight.filter (fun d => d.txn.m == m)).length +
    (proxies.filter (fun p => match p.txn with
      | some t => t.m == m
      | none => false)).length

/-- The limits of Table 11.1. -/
def outLimit : Master → Nat
  | .stw | .rmt | .net | .pst => 32
  | .exc => 8
  | _ => 16

def clhRead (a : Nat) (s : State) : Word :=
  if a = Reg.CLH_LKST then
    let one := fun (l : Option Lock) => match l with
      | some x => 16 + masterIdx x.m
      | none => 0
    wd (one s.clh.lockV + 256 * one s.clh.lockS)
  else if Reg.CLH_MST 0 ≤ a ∧ a ≤ Reg.CLH_MST 9 then
    let m := masterOf ((a - Reg.CLH_MST 0) / 4)
    wd (b2n (s.clh.resetting.any (fun e => e.1 == m)) * 2 ^ 31 + b2n (holds s.clh.lockV m || holds s.clh.lockS m) * 2 ^ 30 +
      minN (outLimit m) (s.outstanding m))
  else s.reg a

def tilRead (a : Nat) (s : State) : Word :=
  let n := (a - Reg.TIL_CFG 0) / 16
  if Reg.TIL_CFG 0 ≤ a ∧ a = Reg.TIL_ST n then s.tilSt n else s.reg a

def sapRead (a : Nat) (s : State) : Word :=
  let n := (a - Reg.SAP_CFG 0) / 8
  if Reg.SAP_CFG 0 ≤ a ∧ a = Reg.SAP_ST n then s.sapSt n else s.reg a

def xspRead (a : Nat) (s : State) : Word :=
  if a = Reg.XSP_STATUS then s.xspStatus else if a = Reg.XSP_PROT then s.xspProt else s.reg a

/-- The oldest FAULT as KWY_FLOG shows it. -/
def State.flogWord (s : State) : Word :=
  let ovf := b2n s.kwy.logOvf * 1073741824
  match s.kwy.log with
  | [] => wd ovf
  | r :: _ => wd (2147483648 + ovf + r.blk % 16 * 16777216 + r.bit % 32 * 65536 + r.chan % 256 * 256 + r.cause % 256)

def kwyRead (a : Nat) (s : State) : Word :=
  if !s.isA then 0
  else if a = Reg.KWY_STATUS then putFld (s.reg a) 1 0 s.kwy.link.code
  else if a = Reg.KWY_FLOG then s.flogWord
  else s.reg a

/-- What a read of the host register at `a` shows. WO bits read 0 (Table 0.5): the registers hold none. -/
def State.regView (s : State) (a : Nat) : Word :=
  match a / 0x10000 with
  | 0x6000 => sysRead a s
  | 0x6001 => if a = Reg.PWR_STATUS then s.pwrStatus else s.reg a
  | 0x6002 => if a = Reg.CLK_STATUS then s.clkStatus else s.reg a
  | 0x6003 => rscRead a s
  | 0x6004 => timRead a s
  | 0x6005 => evtRead a s
  | 0x6006 => secRead a s
  | 0x6008 => pstRead a s
  | 0x6009 => ldgRead a s
  | 0x600A => telRead a s
  | 0x600B => excRead a s
  | 0x600D => outRead a s
  | 0x6014 => dvtRead a s
  | 0x6015 => hngRead a s
  | 0x6016 => disRead a s
  | 0x6018 => clhRead a s
  | 0x6019 => rmtRead a s
  | 0x601A => sapRead a s
  | 0x601B => tilRead a s
  | 0x601C => if a = Reg.HSP_STATUS then wd (16 - s.hsp.posted.length) else s.reg a
  | 0x601D => xspRead a s
  | 0x601E => kwyRead a s
  | _ => s.reg a

/-- What a read of the host register at `a` changes: RC fields clear (R26), an upper word is latched, an entry leaves the
FAULT log. -/
def readEffect (a : Nat) (s : State) : State :=
  if a = Reg.TIM_TCNT_LO then s.setReg Reg.TIM_TCNT_HI (wd (s.tick / 4294967296))
  else if a = Reg.PST_FOLIO_LO then s.setReg Reg.PST_FOLIO_HI (wd (s.pst.cut / 4294967296 % 65536))
  else if a = Reg.KWY_FLOG then
    (if s.isA then s.setKwy { s.kwy with log := s.kwy.log.drop 1, logOvf := bit (s.noted (regKey Reg.KWY_FLOG 0)) 30 } else s)
  else if a = Reg.SYS_TEMP then
    let m := s.noted (regKey Reg.SYS_TEMP 0)
    s.setPwr { s.pwr with tmax := if bit m 12 then some (signed 12 (fld m 11 0)) else none }
  else if a = Reg.OUT_SGAIN then
    let k := s.rf Reg.OUT_SEL 11 0
    let m := s.noted (regKey Reg.OUT_SGAIN k)
    s.setSnk k { s.snk k with gmin := if bit m 31 then fld m 30 0 else (s.snk k).g }
  else if a = Reg.DVT_PSKMAX then
    let k := s.rf Reg.DVT_PSEL 8 0
    s.setSub k { s.sub k with skewMax := (s.noted (regKey Reg.DVT_PSKMAX k)).toNat }
  else if a = Reg.TEL_CTXMAX then
    s.setCtx s.ctxSel { s.ctx s.ctxSel with max := (s.noted (regKey Reg.TEL_CTXMAX s.ctxSel)).toNat }
  else s.clearRC a

/-- A read: the value and the state after it. -/
def regRead (a : Nat) (s : State) : Word × State := (s.regView a, readEffect a s)

end Sys2Proof.Machine
end

