-- ==== Sys2Proof/Machine/Bus.lean ====
section
/-! DEFINITION. What a target does with a burst: memories, stores and registers behind the Clearinghouse (chapters 1
and 11), and the register accesses by name. -/

namespace Sys2Proof.Machine

/-! ### Beats -/

/-- Pieces of `n` bytes, `k` of them, with their addresses. -/
def pieces (n a : Nat) (l : List Byte) (st : List Bool) : Nat → List (Nat × (List Byte × List Bool))
  | 0 => []
  | k + 1 => (a, (l.take n, st.take n)) :: pieces n (a + n) (l.drop n) (st.drop n) k

/-- Halfwords that bytes spell. -/
def halves : List Byte → List Half
  | a :: b :: t => BitVec.ofNat 16 (leNat [a, b]) :: halves t
  | _ => []

/-- Words that bytes spell. -/
def words : List Byte → List Word
  | a :: b :: c :: d :: t => wd (leNat [a, b, c, d]) :: words t
  | _ => []

/-! ### Memory targets -/

/-- A write of Vault-D bytes `lo` to `hi - 1` leaves the slots of enabled delay lines that it meets undefined until
the sink chain has written them anew (R323). -/
def taintLines (lo hi : Nat) (s : State) : State :=
  s.out.snk.foldl (fun s e =>
    let b := 0x30000000 + 3 * e.2.base
    if e.2.on ∧ lo < b + 3 * e.2.len ∧ b < hi then s.setSnk e.1 { s.snk e.1 with bad := (s.snk e.1).w } else s) s

/-- Rendered samples of an undefined folio: free values (R69). -/
def Fol.freed (f : Fol) (i : Nat) : Fol :=
  { f with undef := true, out := f.out.zipIdx.map (fun e => (e.1.1, Config.freeWord (i + e.2))) }

/-- The sink chain's state of a sink that has processed an undefined folio: free values from number `i` on, 160 of them,
and a delay line whose slots are to be written anew (R69, R323). -/
def Snk.freed (q : Snk) (i : Nat) : Snk :=
  { q with
    bad := if q.on then q.w else q.bad
    g := (Config.freeWord i).toNat % (one30 + 1)
    gmin := (Config.freeWord (i + 1)).toNat % (one30 + 1)
    hist := (List.range 32).map (fun j => (Config.freeWord (i + 2 + j)).toInt)
    fir := if q.fir = [] then [] else (List.range 126).map (fun j => (Config.freeWord (i + 34 + j)).toInt) }

/-- What has been computed from the folios in flight outside them: the sink chain's state of the groups that have
processed one, the checksums, the source samples that concealment repeats (R69). -/
def taintDerived (s : State) : State :=
  let s := (addAll [] (s.pst.fols.flatMap (fun f => f.chained))).foldl (fun s g =>
    forN 40 s (fun s i => (s.setSnk (40 * g + i) ((s.snk (40 * g + i)).freed s.free)).useFree 160)) s
  let f0 := s.free
  let done := s.pst.fols.map (fun f => f.n + 2)
  let s := { s with hng := { s.hng with csums := s.hng.csums.zipIdx.map (fun (e : (Nat × Word) × Nat) =>
    if done.contains e.1.1 then (e.1.1, Config.freeWord (f0 + e.2)) else e.1) } }
  let s := s.useFree s.hng.csums.length
  (addAll [] ((s.pst.fols.filter (fun f => f.posted)).flatMap (fun f => f.recv))).foldl (fun s c =>
    let i := s.free
    (s.setPst { s.pst with x := setSmps s.pst.x c (fun j => Config.freeWord (i + j)) }).useFree 8) s

/-- The folios in flight, and those with arrivals waiting, have undefined content, and what is computed from them
(R69). -/
def taintFolios (s : State) : State :=
  let s := taintDerived s
  let ahead := s.pst.arrived.map (fun a => a.folio) ++ s.pst.early.map (fun e => e.1.folio)
  let top := ahead.foldl Nat.max (s.pst.undef.getD 0)
  let n := (s.pst.fols.map (fun f => f.out.length)).foldl (· + ·) 0
  (s.setPst { s.pst with
    fols := s.pst.fols.zipIdx.map (fun e => e.1.freed (s.free + 20480 * e.2)),
    undef := if ahead = [] then s.pst.undef else some top }).useFree (20480 * s.pst.fols.length + n)

/-- A DVT stream is active in either direction. -/
def State.streaming (s : State) : Bool := s.net.subs.any (fun e => e.2.on) || s.net.txs.any (fun e => e.2.on)

/-- The Vault-S address `a` lies in a network buffer that the units use while they hold frames or a stream is active. -/
def inNetBuffer (a : Nat) : Bool := decide (0x40000000 ≤ a ∧ a < 0x40800000) && Config.netBuffer a

/-- The units keep what they hold at the Vault-S address `a`, in no stated layout: frames and stream samples in the network
buffers, records in the journal region (R67, R123, R440, log entry 118). -/
def State.unitHeld (s : State) (a : Nat) : Bool :=
  if a < 0x40000000 ∨ 0x40C00000 ≤ a then false
  else if 0x40800000 ≤ a then !(s.pst.journal.isEmpty && s.pst.bank0.isEmpty && s.pst.todo.isEmpty)
  else (s.streaming || s.net.ports.any (fun e => !e.2.ring.isEmpty || !e.2.queue.isEmpty)) && inNetBuffer a

/-- A run of bytes written into a memory that is not a Ledger store: bank 0 by the journal's rules (R65, R126); the
last byte of Vault-D takes nothing (R56); the journal region of Vault-S, and the network buffers assigned to an active
stream, leave the folios undefined (R69), the Exchange region the channels that it meets (R290). -/
def memWrite (a : Nat) (l : List Byte) (s : State) : State :=
  if 0x10000000 ≤ a ∧ a < 0x14000000 then
    let t := (a - 0x10000000) / 0x100000
    let o := a % 0x100000
    if 0x40000 ≤ o ∧ o < 0x50000 then clhBank0 t (o - 0x40000) l s else s.wrBytes a l
  else if 0x30000000 ≤ a ∧ a < 0x34000000 then
    taintLines a (a + l.length) (s.wrBytes a (l.take (0x33FFFFFF - a)))
  else
    let s := s.wrBytes a l
    let net := s.streaming && (List.range l.length).any (fun i => inNetBuffer (a + i))
    if 0x40800000 ≤ a ∧ a < 0x40C00000 ∨ net then taintFolios s
    else if 0x40C00000 ≤ a ∧ a < 0x40E00000 then
      (List.range (excOfAddr (a + l.length - 1) + 1 - excOfAddr a)).foldl (fun s i => excTaint (excOfAddr a + i) s) s
    else s

/-- One beat at the Ledger stores: codes into the gain store, or words into the ramp table (R167). -/
def storeBeat (a : Nat) (l : List Byte) (strobes : List Bool) (s : State) : State :=
  let runs := strobeRuns a l strobes
  if runs.isEmpty then s
  else if a < 0x21000000 then ledgerBeat (.gain none (runs.flatMap (fun r => beatCodes r.1 (halves r.2)))) s
  else ledgerBeat (.ramp (runs.flatMap (fun r => (words r.2).zipIdx.map (fun e => (r.1 + 4 * e.2, e.1))))) s

/-! ### A burst at its target -/

/-- A proxy access made and answered as a whole (Table 7.5; log entry 56): an error where the field die does not
answer, or has no register. The fault relay follows a write (R420). -/
def proxySync (wr : Bool) (a : Nat) (v : Word) (s : State) : Bool × (Word × State) :=
  if s.field.link ≠ .up ∨ !s.fieldLive then (false, (0, s.evt Reg.KWY_EVT 3))
  else if (regSpec? a).isNone then (false, (0, s.evt Reg.KWY_EVT 4))
  else if wr then (true, (0, foutSettle (fieldWrite a v s)))
  else (true, (fieldRead a s, s.clearRC a))

/-- A write burst by master `m`, performed at its target at once, with its response (R590, R591, R609). -/
def busWrite (m : Master) (id a size beats : Nat) (data : List Byte) (strobes : List Bool) (s : State) : Resp × State :=
  let data := data.take (size * beats) ++ List.replicate (size * beats - data.length) 0
  let runs := strobeRuns a data strobes
  let c := s.accessCause m true a size beats
  let c := if c = 0 ∧ !runsWhole (unitAt a) runs then 2 else c
  if c ≠ 0 then (.err, clhError m id true a c s)
  else if runs.isEmpty then (.ok, s)
  else if 0x60000000 ≤ a ∧ a < 0x60200000 then
    let (ok, s) := regWrite m a (wd (leNat data)) s
    if ok then (.ok, s) else (.err, clhError m id true a 5 s)
  else if 0x70000000 ≤ a ∧ a < 0x70100000 then
    -- The runtime's writes are CMDs in arrival order; their response comes with the CMDACK (R407).
    let later := m == .stw && s.kwy.link == .up
    let (ok, (_, s)) := if later then (true, ((0 : Word), proxyWrite false a (wd (leNat data)) s))
      else proxySync true a (wd (leNat data)) s
    if ok then (.ok, s) else (.err, clhError m id true a 5 s)
  else if 0x20000000 ≤ a ∧ a < 0x21100000 then
    (.ok, (pieces size a data strobes beats).foldl (fun s p => storeBeat p.1 p.2.1 p.2.2 s) s)
  else (.ok, runs.foldl (fun s r => memWrite r.1 r.2 s) s)

/-- A read burst by master `m`, performed at once. The flash window answers an error while an XSP command runs or is
suspended (R712). A byte at which the units of Vault-S keep what they hold reads as a free value (R67). -/
def busRead (m : Master) (id a size beats : Nat) (s : State) : (Resp × List Byte) × State :=
  let c := s.accessCause m false a size beats
  if c ≠ 0 then ((.err, []), clhError m id false a c s)
  else if 0x60000000 ≤ a ∧ a < 0x60200000 then
    let (v, s) := regRead a s
    ((.ok, leBytes v.toNat 4), s)
  else if 0x70000000 ≤ a ∧ a < 0x70100000 then
    let (ok, (v, s)) := proxySync false a 0 s
    if ok then ((.ok, leBytes v.toNat 4), s) else ((.err, []), clhError m id false a 5 s)
  else if flash ≤ a ∧ s.xspBusy then ((.err, []), clhError m id false a 5 (s.evt Reg.XSP_EVT 2))
  else if (List.range (size * beats)).any (fun i => s.unitHeld (a + i)) then
    ((.ok, (List.range (size * beats)).map (fun i =>
      if s.unitHeld (a + i) then (Config.freeWord (s.free + i)).setWidth 8 else s.rdByte (a + i))), s.useFree (size * beats))
  else ((.ok, s.rdBytes a (size * beats)), s)

/-! ### Register accesses by name -/

/-- The address lies in the proxy window: an access becomes a CMD (R407). -/
def inProxy (a : Nat) : Bool := decide (0x70000000 ≤ a ∧ a < 0x70100000)

/-- A write of one register by a master: what is no register answers an error; a field register is reached through the
proxy, which answers over the Clearinghouse. -/
def registerWriteOp (m : Master) (a : Nat) (v : Word) (s : State) : State :=
  if inProxy a then proxyAccessOp m true a v s
  else if singleWord a then
    let (r, s) := busWrite m 0 a 4 1 (leBytes v.toNat 4) [] s
    s.answer r []
  else s.answer .err []

def execRegisterWrite (m : Master) (a : Nat) (v : Word) (s : State) : Host.Outcome State Fault Refusal :=
  hostDo s (registerWriteOp m a v)

/-- A read of one register by the Steward: RC fields answer what they held, and clear (R26). -/
def rcReadOp (a : Nat) (s : State) : State :=
  if inProxy a then proxyAccessOp .stw false a 0 s
  else if singleWord a then
    let ((r, d), s) := busRead .stw 0 a 4 1 s
    s.answer r d
  else s.answer .err []

def execRcRead (a : Nat) (s : State) : Host.Outcome State Fault Refusal := hostDo s (rcReadOp a)

end Sys2Proof.Machine
end

