-- ==== Sys2Proof/Machine/Clh.lean ====
section
/-! DEFINITION. The Clearinghouse: requests, arbitration, retirement, locks (chapter 11). A burst is performed whole at its
grant; a proxy access becomes a CMD and is answered later. -/

namespace Sys2Proof.Machine

/-! ### Requests -/

def clhTransactionOp (m : Master) (id : Nat) (wr : Bool) (addr size beats : Nat) (data : List Byte)
    (strobes : List Bool) (lock : LockMark) (s : State) : State :=
  let n := size * beats
  request ⟨m, id % 256, wr, addr, size, beats,
    if wr then data.take n ++ List.replicate (n - data.length) 0 else [], strobes.take n, lock, targetOf addr⟩ s

def execClhTransaction (m : Master) (id : Nat) (wr : Bool) (addr size beats : Nat) (data : List Byte)
    (strobes : List Bool) (lock : LockMark) (s : State) : Host.Outcome State Fault Refusal :=
  hostDo s (clhTransactionOp m id wr addr size beats data strobes lock)

/-- Transactions of `m` that the fabric holds and that have no last response at the master. -/
def State.held (s : State) (p : Txn → Bool) : Nat :=
  (s.clh.inflight.filter (fun d => p d.txn)).length +
    ((match s.kwy.out with
      | some q => [q]
      | none => []) ++ s.kwy.waiting).countP (fun q => match q.txn with
        | some t => p t
        | none => false)

/-- The requests that the fabric has taken, in order: a master's limit of Table 11.1, four for a Remit channel (R595). -/
def State.taken (s : State) : List Txn → List Txn → List Txn
  | [], acc => acc
  | t :: rest, acc =>
    let same := fun (u : Txn) => u.m == t.m
    let chan := fun (u : Txn) => u.m == .rmt && u.id / 2 == t.id / 2
    let room := decide (s.held same + acc.countP same < outLimit t.m) &&
      (t.m != .rmt || decide (s.held chan + acc.countP chan < 4))
    s.taken rest (if room then acc ++ [t] else acc)

/-! ### Arbitration (R592) -/

/-- CLH_PRIt of a master. -/
def State.priority (s : State) (t : Nat) (m : Master) : Nat :=
  let i := masterIdx m
  if i < 8 then s.rf (Reg.CLH_PRILO t) (4 * i + 3) (4 * i) else s.rf (Reg.CLH_PRIHI t) (4 * (i - 8) + 3) (4 * (i - 8))

/-- The master granted at target `t` among the requesters: the highest priority, and among equals the first in index order
after the one granted last at that priority. -/
def State.winner (s : State) (t : Nat) (req : List Master) : Option Master :=
  let top := req.foldl (fun p m => max p (s.priority t m)) 0
  let eq := req.filter (fun m => s.priority t m == top)
  let last := aget s.clh.last 9 (16 * t + top)
  ((List.range 10).map (fun i => masterOf ((last + 1 + i) % 10))).find? (fun m => eq.contains m)

/-- A granted burst is performed. What has lost its power or register since gets ERR. -/
def performTxn (t : Txn) (s : State) : State :=
  let proxy := decide (t.target = 7) && s.accessCause t.m t.wr t.addr t.size t.beats == 0 &&
    (!t.wr || !(strobeRuns t.addr t.data t.strobes).isEmpty)
  if proxy then proxyAccess false ⟨some t, t.wr, t.addr, wd (leNat t.data), 0, false⟩ s
  else if t.wr then
    let (r, s) := busWrite t.m t.id t.addr t.size t.beats t.data t.strobes s
    clhAnswer t r [] s
  else
    let ((r, d), s) := busRead t.m t.id t.addr t.size t.beats s
    clhAnswer t r d s

/-- The burst leaves the queue, takes or keeps its lock (R600), and is performed. -/
def grant (t : Txn) (s : State) : State :=
  let c := { s.clh with
    waiting := s.clh.waiting.erase t,
    last := aput s.clh.last 9 (16 * t.target + s.priority t.target t.m) (masterIdx t.m) }
  if c.lockBad t then clhRefuse t .err 7 (s.setClh c)
  else
    let since := match c.lockOf t.target with
      | some l => l.since
      | none => s.clock
    let c := if t.lock = .none then c else c.setLock t.target (some ⟨t.m, since, t.id, t.wr, t.addr⟩)
    performTxn t (s.setClh c)

/-- The previous burst of target `t` has ended. While a gain store beat waits on a full change queue the Ledger store
grants nothing (R167); a locked target grants its holder only. -/
def burstGrantOp (t : Nat) (s : State) : State :=
  if t = 3 ∧ s.ldg.waiting ≠ [] then s
  else
    let q := (s.taken s.clh.waiting []).filter (fun x => x.target == t &&
      (match s.clh.lockOf t with
       | some l => l.m == x.m
       | none => true))
    match s.winner t (q.map (fun x => x.m)) with
    | some m => match q.find? (fun x => x.m == m) with
      | some x => grant x s
      | none => s
    | none => s

def execBurstGrant (t : Nat) (s : State) : Host.Outcome State Fault Refusal := hostDo s (burstGrantOp t)

/-- A locked sequence has been open for 4,096 FABRIC cycles: it is forced open (R602). Its transactions not yet
granted get LKERR; while its last one is still to come, so does every later one. -/
def lockTimeoutOp (t : Nat) (s : State) : State :=
  match s.clh.lockOf t with
  | none => s
  | some l =>
    if s.clock < l.since + 8192 then s
    else
      let whose := seqOwner l.m l.id
      let ended := s.clh.inflight.any (fun d => seqOwner d.txn.m d.txn.id == whose && d.txn.target == t && d.txn.lock == .last)
      let c := s.clh.setLock t none
      let c := if ended then c else { c with forced := c.forced ++ [(t, whose)] }
      let s := (s.setClh c).evt Reg.CLH_EVT 1
      let s := if s.rb Reg.CLH_ERRINFO 31 then s
        else ((s.setReg Reg.CLH_ERRINFO (wd (masterIdx l.m * 2 ^ 24 + b2n l.wr * 2 ^ 23 + t * 2 ^ 20 + l.id * 256 + 6))).raise
          Reg.CLH_ERRINFO (bitw 31)).setReg Reg.CLH_ERRADDR (wd l.addr)
      s.clh.waiting.foldl (fun s x =>
        if s.clh.isForced x then lockRefuse x (s.setClh { s.clh with waiting := s.clh.waiting.erase x }) else s) s

def execLockTimeout (t : Nat) (s : State) : Host.Outcome State Fault Refusal := hostDo s (lockTimeoutOp t)

/-! ### The host SPI bridge's posted writes (R636, R672) -/

/-- The oldest posted write is issued, each after the previous one has retired. -/
def hspIssue (s : State) : State :=
  match s.hsp.posted with
  | (a, v) :: _ =>
    if s.outstanding .hsp = 0 then
      request ⟨.hsp, 0, true, a, 4, 1, leBytes v.toNat 4, [], .none, targetOf a⟩ s
    else s
  | [] => s

/-- An error response to a posted write. -/
def postedError (a : Nat) (s : State) : State :=
  let s := { s with hsp := { s.hsp with errPend := true } }
  let s := (s.count Reg.HSP_CNT_WERR 1 59).evt Reg.HSP_EVT 0
  if s.rb Reg.HSP_ERRADDR 0 then s else (s.setReg Reg.HSP_ERRADDR (wd (a / 4 * 4))).raise Reg.HSP_ERRADDR 1

/-- The oldest posted write has retired. -/
def postedDone (d : DoneTxn) (s : State) : State :=
  match s.hsp.posted with
  | (a, _) :: rest =>
    if d.txn.wr && d.txn.addr == a && !d.discard then
      let s := { s with hsp := { s.hsp with posted := rest } }
      if d.resp = .ok then s else postedError a s
    else s
  | [] => s

/-! ### Retirement (R591, R596, R600) -/

/-- Addresses that a waiting beat writes. -/
def LdgBeat.addrs : LdgBeat → List Nat
  | .gain _ l => l.map (fun e => 0x20000000 + 2 * e.1)
  | .ramp l => l.map (·.1)

/-- A beat of the write still waits at the Ledger stores (R167). -/
def State.beatWaits (s : State) (t : Txn) : Bool :=
  t.wr && s.ldg.waiting.any (fun b => b.addrs.any (fun a => decide (t.addr ≤ a) && decide (a < t.addr + t.size * t.beats)))

/-- What a master does with the response that has reached it: a Teller's LDF ends its stall, a deferred STF retires, a
posted write makes room for the next. -/
def respond (d : DoneTxn) (s : State) : State :=
  match d.txn.m with
  | .hsp => hspIssue (postedDone d s)
  | .tc0 => ldfArrive (d.txn.id % 16) d s
  | .tc1 => ldfArrive (16 + d.txn.id % 16) d s
  | .tc2 => ldfArrive (32 + d.txn.id % 16) d s
  | .tc3 => ldfArrive (48 + d.txn.id % 16) d s
  | .pst => stfRetired d.txn.addr (decide (d.resp ≠ .ok)) s
  | _ => s

/-- The oldest response due to master `m` for `id` reaches it: the master sees the response and the data; the last
transaction of a locked sequence ends it. -/
def transactionRetireOp (m : Master) (id : Nat) (s : State) : State :=
  match takeDone m id s.clh.inflight with
  | none => s
  | some (d, rest) =>
    if s.beatWaits d.txn then s
    else
      let s := s.setClh { s.clh with inflight := rest }
      let s := if d.txn.lock = .last ∧ holds (s.clh.lockOf d.txn.target) m then s.setClh (s.clh.setLock d.txn.target none) else s
      let s := if d.discard then s else s.answer d.resp d.data
      respond d (resetsSettle s)

def execTransactionRetire (m : Master) (id : Nat) (s : State) : Host.Outcome State Fault Refusal :=
  hostDo s (transactionRetireOp m id)

/-- The last response of each ID under reset has been discarded. -/
def masterResetCompleteOp (m : Master) (s : State) : State :=
  let s := resetsSettle (s.setClh { s.clh with inflight := s.clh.inflight.filter (fun d => !(d.discard && d.txn.m == m)) })
  if m = .hsp then hspIssue s else s

def execMasterResetComplete (m : Master) (s : State) : Host.Outcome State Fault Refusal := hostDo s (masterResetCompleteOp m)

/-! ### HSPI commands (R669 to R673) -/

/-- The commands that the bytes of one HSPI command are, HSPI_CS_N rising after them (Table 12.3). An unlisted command
byte, a field cut short or a count out of range is a command error; the complete words of a WRITE are performed
(R671). -/
def hspiCommands : List Byte → List Instr
  | 0x02 :: a :: b :: c :: d :: t =>
    let w := words t
    let write := if w = [] then [] else [Instr.hspiWrite (leNat [d, c, b, a]) (w.take 16) none]
    if t.length % 4 = 0 ∧ w ≠ [] ∧ w.length ≤ 16 then write else write ++ [.hspiCsNRise]
  | [0x0B, a, b, c, d, n] =>
    if 1 ≤ n.toNat ∧ n.toNat ≤ 16 then [.hspiRead (leNat [d, c, b, a]) n.toNat] else [.hspiCsNRise]
  | [0x05] => [.hspiStatus]
  | [0x0C] => [.hspiSync]
  | [0x9F] => [.hspiId]
  | [0x66] => [.hspiReset]
  | _ => [.hspiCsNRise]

/-- The byte of a WRITE of `n` words at which the crossing of 64 bytes overflows: its flag may show full from 61 held
(R549, Table 9.11). -/
def crossingFull (n : Nat) (full : Option Nat) : Option Nat := full.filter (fun k => decide (61 ≤ k ∧ k < 5 + 4 * n))

/-- WRITE: each word becomes one posted write; beyond 16 held it is dropped. An overflow of the crossing at byte `k`
of the command ends it: the words complete before it are performed (R671, R673). -/
def hspiWriteOp (addr : Nat) (ws : List Word) (full : Option Nat) (s : State) : State :=
  let ws := ws.take 16
  let full := crossingFull ws.length full
  let ws := match full with
    | some k => ws.take ((k - 5) / 4)
    | none => ws
  let s := ws.zipIdx.foldl (fun s e =>
    if 16 ≤ s.hsp.posted.length then s.evt Reg.HSP_EVT 1
    else { s with hsp := { s.hsp with posted := s.hsp.posted ++ [((addr + 4 * e.2) % 4294967296, e.1)] } }) s
  hspIssue (if full.isSome then (s.evt Reg.HSP_EVT 2).cdcErr 3 else s)

def execHspiWrite (addr : Nat) (ws : List Word) (full : Option Nat) (s : State) : Host.Outcome State Fault Refusal :=
  hostDo s (hspiWriteOp addr ws full)

/-- The target of an address grants master `m` nothing: another master's lock holds it, or a write beat waits at the
Ledger stores (R167, R600). -/
def State.lockedOut (s : State) (m : Master) (a : Nat) : Bool :=
  (targetOf a == 3 && !s.ldg.waiting.isEmpty) ||
  match s.clh.lockOf (targetOf a) with
  | some l => l.m != m
  | none => false

/-- The reads of a READ, in order: 0xA5 and the word, or 0xE5 and four bytes of 0. -/
def hspiReads (addr : Nat) : Nat → State → List Byte × State
  | 0, s => ([], s)
  | n + 1, s =>
    let ((r, d), s) := busRead .hsp 0 addr 4 1 s
    let b := if r = .ok then 0xA5 :: d else 0xE5 :: List.replicate 4 0
    let (l, s) := hspiReads ((addr + 4) % 4294967296) n s
    (b ++ l, s)

/-- READ: while posted writes remain, or the target is locked, the bridge sends 0x00 (R637). -/
def hspiReadOp (addr n : Nat) (s : State) : State :=
  if n = 0 ∨ 16 < n then s.evt Reg.HSP_EVT 2
  else if s.hsp.posted ≠ [] ∨ s.underReset .hsp 0 ∨ (List.range n).any (fun i => s.lockedOut .hsp (addr + 4 * i)) then s.answer .ok [0x00]
  else
    let (l, s) := hspiReads addr n s
    s.answer .ok l

def execHspiRead (addr n : Nat) (s : State) : Host.Outcome State Fault Refusal := hostDo s (hspiReadOp addr n)

def hspiStatusOp (s : State) : State :=
  s.answer .ok [BitVec.ofNat 8 (16 - s.hsp.posted.length + 32 * b2n s.hsp.errPend)]

def execHspiStatus (s : State) : Host.Outcome State Fault Refusal := hostDo s hspiStatusOp

/-- SYNC: 0x00 while posted writes remain, then 0xA5, or 0xE5 after an error since the previous SYNC. -/
def hspiSyncOp (s : State) : State :=
  if s.hsp.posted ≠ [] then s.answer .ok [0x00]
  else ({ s with hsp := { s.hsp with errPend := false } }).answer .ok [if s.hsp.errPend then 0xE5 else 0xA5]

def execHspiSync (s : State) : Host.Outcome State Fault Refusal := hostDo s hspiSyncOp

def hspiIdOp (s : State) : State := s.answer .ok (leBytes (s.regView Reg.SYS_ID).toNat 4)

def execHspiId (s : State) : Host.Outcome State Fault Refusal := hostDo s hspiIdOp

/-- RESET: the bridge's master reset; posted writes not issued are discarded (Table 11.4). -/
def hspiResetOp (s : State) : State := masterReset .hsp [] { s with hsp := Hsp.reset }

def execHspiReset (s : State) : Host.Outcome State Fault Refusal := hostDo s hspiResetOp

/-- HSPI_CS_N rises inside a field: the command ends early (R671). -/
def hspiCsNRiseOp (s : State) : State := (s.evt Reg.HSP_EVT 2).answer .ok []

def execHspiCsNRise (s : State) : Host.Outcome State Fault Refusal := hostDo s hspiCsNRiseOp

/-- The oldest posted write, of address `addr`, ends with an error response. -/
def hspiPostedWriteErrorOp (addr : Nat) (s : State) : State :=
  match s.hsp.posted with
  | (a, _) :: rest =>
    if a = addr then
      let mine := fun (t : Txn) => t.m == .hsp && t.wr && t.addr == a
      let s := if s.clh.inflight.any (fun d => mine d.txn && d.resp == .err) then s else clhError .hsp 0 true a 5 s
      let s := s.setClh { s.clh with
        waiting := s.clh.waiting.filter (fun t => !mine t),
        inflight := s.clh.inflight.filter (fun d => d.discard || !mine d.txn) }
      hspIssue (postedError a { s with hsp := { s.hsp with posted := rest } })
    else s
  | [] => s

def execHspiPostedWriteError (addr : Nat) (s : State) : Host.Outcome State Fault Refusal :=
  hostDo s (hspiPostedWriteErrorOp addr)

end Sys2Proof.Machine
end

