-- ==== Sys2Proof/Machine/Remit.lean ====
section
/-! DEFINITION. The program words of the Remit engine (chapter 11, R611 to R620, R624, R625, R627, R633): each command is
the execution of one word by channel n; of a MOVE it is the next burst. -/

namespace Sys2Proof.Machine

/-! ### Faults and fetches (R612, R633) -/

/-- A channel faults at its word. -/
def rmtFault (n cause : Nat) (s : State) : State :=
  ((rmtUnlock n s).setRmt n { s.rmtCh n with
    st := .fault, cause := cause, ending := false, waiting := false, mv := none }).evt Reg.RMT_EVT (16 + n)

/-- A reserved opcode, or a reserved bit that is not 0 (Table 11.5). -/
def rmtReserved (w : Nat) : Bool :=
  match rmtOp w with
  | 0 => rmtFld w 59 0 != 0
  | 1 => rmtFld w 56 24 != 0
  | 2 => false
  | 3 => rmtFld w 57 32 != 0
  | 4 => rmtFld w 58 4 != 0
  | 5 => rmtFld w 59 32 != 0
  | _ => true

/-- A program fetch by channel `n`: the error is recorded as any other (R609, R712). -/
def rmtFetch (n a : Nat) (s : State) : Option Nat × State :=
  match s.rmtWord a with
  | some w => (some w, s)
  | none =>
    let ((_, _), s) := busRead .rmt (2 * n) a 8 1 s
    (none, s)

/-- Channel `n` executes its word if it is one of opcode `op`: only in RUN, not while it waits, nor at an END that
parks, nor between the bursts of a MOVE. -/
def rmtWordOp (op n : Nat) (f : Nat → State → State) (s : State) : State :=
  let c := s.rmtCh n
  if c.st ≠ .run ∨ c.waiting ∨ c.ending ∨ c.mv.isSome then s
  else
    match rmtFetch n c.pc s with
    | (none, s) => rmtFault n 3 s
    | (some w, s) => if rmtReserved w then rmtFault n 1 s else if rmtOp w = op then f w s else s

def rmtExec (op n : Nat) (s : State) (f : Nat → State → State) : Host.Outcome State Fault Refusal :=
  rmtDo n s (rmtWordOp op n f)

/-- The next word: the channel's own registers may have been written by the word itself. -/
def rmtNext (n pc : Nat) (s : State) : State :=
  match (s.rmtCh n).st with
  | .run | .halting | .aborting => s.setRmt n { s.rmtCh n with pc := pc % 4294967296, rem := 0, waiting := false, mv := none }
  | _ => s

/-! ### MOVE (R613 to R615) -/

/-- The largest access of at most `n` bytes that is aligned at `a`: 4 bytes in the register windows (R589). -/
def accessAt (a n : Nat) : Nat :=
  let p := ([64, 32, 16, 8, 4, 2].find? (fun p => decide (p ≤ n) && a % p == 0)).getD 1
  if singleWord a ∧ 4 < p then 4 else p

/-- `n` bytes from `a` by legal accesses, unless one answers an error; `left` bounds their number. -/
def rmtGet (id : Nat) : Nat → Nat → Nat → State → Option (List Byte) × State
  | 0, _, _, s => (some [], s)
  | left + 1, a, n, s =>
    if n = 0 then (some [], s)
    else
      let p := accessAt a n
      let ((r, d), s) := busRead .rmt id a p 1 s
      if r ≠ .ok then (none, s)
      else
        match rmtGet id left (a + p) (n - p) s with
        | (some l, s) => (some (d ++ l), s)
        | (none, s) => (none, s)

/-- Bytes written from `a` by legal accesses; answers how many were written before an error. -/
def rmtPut (id : Nat) : Nat → Nat → List Byte → State → (Nat × Bool) × State
  | 0, _, _, s => ((0, true), s)
  | left + 1, a, l, s =>
    if l.isEmpty then ((0, true), s)
    else
      let p := accessAt a l.length
      let (r, s) := busWrite .rmt id a p 1 (l.take p) [] s
      if r ≠ .ok then ((0, false), s)
      else
        let ((k, ok), s) := rmtPut id left (a + p) (l.drop p) s
        ((k + p, ok), s)

/-- The bytes of the next burst: 4 where an address is fixed or an end is a register, else at most 16 beats of 64 bytes at
either end, so that no burst crosses 4 KiB (R588, R589, R613). -/
def RmtMove.burst (m : RmtMove) : Nat :=
  if m.sfix || m.dfix || singleWord m.src || singleWord m.dst then minN m.len 4
  else minN m.len (minN (1024 - m.dst % 1024) (1024 - m.src % 1024))

/-- The rest of the MOVE after `k` bytes. -/
def RmtMove.advance (m : RmtMove) (k : Nat) : RmtMove :=
  { m with
    src := if m.sfix then m.src else (m.src + k) % 4294967296, dst := if m.dfix then m.dst else (m.dst + k) % 4294967296,
    len := m.len - k }

/-- LK is permitted to Vault-S and Steward SRAM, up to 256 bytes (R615). -/
def lockable (dst len : Nat) : Bool :=
  decide (len ≤ 256) &&
    (decide (0x40000000 ≤ dst ∧ dst + len ≤ 0x40E00000) || decide (0x1000000 ≤ dst ∧ dst + len ≤ 0x1200000))

/-- The MOVE that a word and its extension spell for channel `c`, in run i of its loop (R616). -/
def RmtCh.moveAt (c : RmtCh) (w x : Nat) : RmtMove :=
  let (i, ss, ds) := match c.loop with
    | some l => ((l.run : Int), l.sstr, l.dstr)
    | none => (0, 0, 0)
  let src := (((x % 4294967296 : Nat) : Int) + 4 * i * ss) % 4294967296
  let dst := (((x / 4294967296 : Nat) : Int) + 4 * i * ds) % 4294967296
  ⟨src.toNat, dst.toNat, rmtFld w 23 0, rmtFld w 58 58 == 1, rmtFld w 57 57 == 1, rmtFld w 59 59 == 1⟩

/-- The condition of fault cause 7 (Table 11.9). -/
def RmtMove.bad (m : RmtMove) : Bool :=
  m.len == 0 || ((m.sfix || m.dfix) && m.len % 4 != 0) || (m.lk && !lockable m.dst m.len)

/-- The MOVE whose next burst channel `n` is about to issue. -/
def State.rmtMove (s : State) (n : Nat) : Option RmtMove :=
  let c := s.rmtCh n
  if c.st ≠ .run ∨ c.waiting ∨ c.ending then none
  else match c.mv, s.rmtWord c.pc, s.rmtWord (c.pc + 8) with
    | some m, _, _ => some m
    | none, some w, some x =>
      if rmtOp w = 1 ∧ !rmtReserved w ∧ !(c.moveAt w x).bad then some (c.moveAt w x) else none
    | none, _, _ => none

/-- Channel `n` may issue a burst to the target of `a` under its rate limit (R625). -/
def State.paced (s : State) (n a : Nat) : Bool := decide (aget (s.rmtCh n).next 0 (targetOf a) ≤ s.clock)

/-- A locked MOVE of channel `n` waits while another channel's locked sequence holds its target: the master holds one lock
(R601). -/
def State.seqTaken (s : State) (n : Nat) (m : RmtMove) : Bool :=
  m.lk && match s.clh.lockOf (targetOf m.dst) with
    | some l => l.m == .rmt && seqOwner l.m l.id != seqOwner .rmt (2 * n)
    | none => false

/-- Channel `n` has a burst that neither a lock nor its rate limit holds back. -/
def State.rmtReady (s : State) (n : Nat) : Bool :=
  match s.rmtMove n with
  | some m => !s.lockedOut .rmt m.src && !s.lockedOut .rmt m.dst && !s.seqTaken n m && s.paced n m.src && s.paced n m.dst
  | none => false

/-- RMT_CFGn.PRI. -/
def State.rmtPri (s : State) (n : Nat) : Nat := s.rf (Reg.RMT_CFG n) 27 24

/-- The channel that the port serves: among those ready the highest PRI, and among equals the first after the one last
served at that priority (R624). -/
def State.rmtWinner (s : State) : Option Nat :=
  let ready := (List.range 16).filter s.rmtReady
  let top := (ready.map s.rmtPri).foldl Nat.max 0
  let eq := ready.filter (fun n => s.rmtPri n == top)
  let last := aget s.clh.rmtLast 15 top
  ((List.range 16).map (fun i => (last + 1 + i) % 16)).find? (fun n => eq.contains n)

/-- The spacing after a burst of `k` bytes at `a`: ceil(256 b / r) FABRIC cycles for its b beats, in CORE cycles; none
without a limit (R625). -/
def State.rmtSpace (s : State) (n a k : Nat) : Nat :=
  let r := s.rf (Reg.RMT_CFG n) 7 0
  let b := (a % 64 + k + 63) / 64
  if r = 0 then 0 else 2 * ((256 * b + r - 1) / r)

/-- A burst of `k` bytes of `m` is issued: the rate limit counts from it. -/
def paceBurst (n k : Nat) (m : RmtMove) (s : State) : State :=
  let note := fun (l : List (Nat × Nat)) (a : Nat) =>
    if s.rf (Reg.RMT_CFG n) 7 0 = 0 then l
    else aput l 0 (targetOf a) (Nat.max s.clock (aget l 0 (targetOf a)) + s.rmtSpace n a k)
  s.setRmt n { s.rmtCh n with next := note (note (s.rmtCh n).next m.src) m.dst }

/-- The reads and the writes of one burst of `k` bytes: the fault cause (0 for none) and the bytes written. Where an
address is fixed every access is 4 bytes (R613). -/
def rmtBurst (n k : Nat) (m : RmtMove) (s : State) : (Nat × Nat) × State :=
  if m.sfix || m.dfix then
    match busRead .rmt (2 * n) m.src 4 1 s with
    | ((.ok, d), s) =>
      let (r, s) := busWrite .rmt (2 * n + 1) m.dst 4 1 d [] s
      ((if r = .ok then 0 else 5, if r = .ok then 4 else 0), s)
    | (_, s) => ((4, 0), s)
  else
    match rmtGet (2 * n) k m.src k s with
    | (none, s) => ((4, 0), s)
    | (some d, s) =>
      let ((done, ok), s) := rmtPut (2 * n + 1) k m.dst d s
      ((if ok then 0 else 5, done), s)

/-- The next burst of a MOVE: it waits while another channel is served first. The last one ends the MOVE, and its locked
sequence; a sequence that was forced open faults, as does a lock on a second target (R601, R602, R615). -/
def moveBurst (n : Nat) (m : RmtMove) (s : State) : State :=
  if s.rmtWinner ≠ some n then s
  else
    let other := if targetOf m.dst = 0 then s.clh.lockS else s.clh.lockV
    let stop := fun (cause code rest : Nat) (s : State) =>
      rmtFault n cause ((if code = 0 then s else clhError .rmt (2 * n + 1) true m.dst code s).setRmt n { s.rmtCh n with rem := rest })
    if m.lk ∧ s.clh.forced.contains (targetOf m.dst, seqOwner .rmt (2 * n)) then
      let gone := fun (e : Nat × (Master × Nat)) => e == (targetOf m.dst, seqOwner .rmt (2 * n))
      stop 8 6 m.len (s.setClh { s.clh with forced := s.clh.forced.filter (fun e => !gone e) })
    else if m.lk ∧ holds other .rmt then stop 5 7 m.len s
    else
      let k := m.burst
      let s := s.setClh { s.clh with rmtLast := aput s.clh.rmtLast 15 (s.rmtPri n) n }
      let ((cause, done), s) := rmtBurst n k m (paceBurst n k m s)
      let s := s.count (Reg.RMT_BYTES n) done 57
      let rest := m.advance k
      if cause ≠ 0 then stop cause 0 (m.len - done) s
      else if rest.len = 0 then rmtNext n ((s.rmtCh n).pc + 16) (rmtUnlock n (s.setRmt n { s.rmtCh n with mv := some m }))
      else
        let since := match s.clh.lockOf (targetOf m.dst) with
          | some l => l.since
          | none => s.clock
        let s := if m.lk then s.setClh (s.clh.setLock (targetOf m.dst) (some ⟨.rmt, since, 2 * n + 1, true, m.dst⟩)) else s
        s.setRmt n { s.rmtCh n with mv := some rest, rem := rest.len }

def moveWord (n w : Nat) (s : State) : State :=
  match rmtFetch n ((s.rmtCh n).pc + 8) s with
  | (none, s) => rmtFault n 3 s
  | (some x, s) =>
    let m := (s.rmtCh n).moveAt w x
    if m.bad then rmtFault n 7 s else moveBurst n m s

/-- MOVE: its next burst, or the first one of the word at the program counter. -/
def rmtMoveOp (n : Nat) (s : State) : State :=
  match (s.rmtCh n).mv, (s.rmtCh n).st with
  | some m, .run => moveBurst n m s
  | _, _ => rmtWordOp 1 n (moveWord n) s

def execMove (n : Nat) (s : State) : Host.Outcome State Fault Refusal := rmtDo n s (rmtMoveOp n)

/-! ### LOOP (R616) -/

def loopWord (n w : Nat) (s : State) : State :=
  let c := s.rmtCh n
  match c.loop with
  | some l =>
    if l.word ≠ c.pc then rmtFault n 6 s
    else if l.left = 0 then rmtNext n (c.pc + 8) (s.setRmt n { c with loop := none })
    else rmtNext n l.start (s.setRmt n { c with loop := some { l with left := l.left - 1, run := l.run + 1 } })
  | none =>
    let back := rmtFld w 59 52
    let cnt := rmtFld w 51 36
    if back = 0 ∨ cnt = 0 then rmtFault n 6 s
    else if cnt = 1 then rmtNext n (c.pc + 8) s
    else
      let start := (c.pc + 4294967296 - 8 * back) % 4294967296
      rmtNext n start (s.setRmt n { c with
        loop := some ⟨start, c.pc, cnt - 2, 1, signed 18 (rmtFld w 35 18), signed 18 (rmtFld w 17 0)⟩ })

def execRemitLoop (n : Nat) (s : State) : Host.Outcome State Fault Refusal := rmtExec 2 n s (loopWord n)

/-! ### WAIT (R617) -/

/-- x has reached v modulo 2^32. -/
def reached (x v : Nat) : Bool := decide ((x + 4294967296 - v % 4294967296) % 4294967296 < 2147483648)

/-- The condition of a WAIT word holds (Table 11.6). -/
def State.waitHolds (s : State) (w : Nat) : Bool :=
  let v := rmtFld w 31 0
  match rmtFld w 59 58 with
  | 0 => reached (s.reg Reg.RMT_FENCE).toNat v
  | 1 => reached (s.pst.cut % 4294967296) v
  | 2 => s.rb Reg.RMT_FLAG (v % 16)
  | _ => s.rb Reg.RMT_TSIG (v % 16)

/-- The condition is taken: kinds 2 and 3 clear their bit. -/
def waitTaken (n w : Nat) (s : State) : State :=
  let v := rmtFld w 31 0 % 16
  let s := match rmtFld w 59 58 with
    | 2 => s.setBit Reg.RMT_FLAG v false
    | 3 => s.setBit Reg.RMT_TSIG v false
    | _ => s
  rmtNext n ((s.rmtCh n).pc + 8) s

def waitWord (n w : Nat) (s : State) : State :=
  if s.waitHolds w then waitTaken n w s else s.setRmt n { s.rmtCh n with waiting := true }

def execWait (n : Nat) (s : State) : Host.Outcome State Fault Refusal := rmtExec 3 n s (waitWord n)

/-- The condition of a held WAIT holds. -/
def waitConditionMetOp (n : Nat) (s : State) : State :=
  let c := s.rmtCh n
  if c.st = .run ∧ c.waiting then
    match s.rmtWord c.pc with
    | some w => if s.waitHolds w then waitTaken n w s else s
    | none => s
  else s

def execWaitConditionMet (n : Nat) (s : State) : Host.Outcome State Fault Refusal := rmtDo n s (waitConditionMetOp n)

/-! ### SIGNAL, LINK, END (R618, R620, R627) -/

def signalWord (n w : Nat) (s : State) : State :=
  let s := s.setBit Reg.RMT_FLAG (rmtFld w 3 0) true
  rmtNext n ((s.rmtCh n).pc + 8) (s.evtIf (rmtFld w 59 59 == 1) Reg.RMT_EVT n)

def execSignal (n : Nat) (s : State) : Host.Outcome State Fault Refusal := rmtExec 4 n s (signalWord n)

def linkWord (n w : Nat) (s : State) : State :=
  let a := rmtFld w 31 0
  if a % 8 ≠ 0 then rmtFault n 2 s else rmtNext n a s

def execLink (n : Nat) (s : State) : Host.Outcome State Fault Refusal := rmtExec 5 n s (linkWord n)

/-- END: a doorbell rung meanwhile is taken, and the word is fetched anew; else the channel parks once its
transactions have retired (CHANNEL_RETIRED). -/
def endWord (n : Nat) (s : State) : State :=
  let c := s.rmtCh n
  if c.db then s.setRmt n { c with db := false } else s.setRmt n { c with ending := true }

def execRemitEnd (n : Nat) (s : State) : Host.Outcome State Fault Refusal := rmtExec 0 n s (fun _ s => endWord n s)

end Sys2Proof.Machine
end

