-- ==== Sys2Proof/Machine/Boot.lean ====
section
/-! DEFINITION. The boot ROM, the configuration image, service levels and management messages (chapter 13). The contents of
headers and sections, and the verdicts of the cryptographic checks, are operands. -/

namespace Sys2Proof.Machine

/-! ### Slots (R677, R693) -/

/-- SEC_BOOTST.STAGE. -/
def bootStage (n : Nat) (s : State) : State := s.setFld Reg.SEC_BOOTST 31 29 n

/-- The code that SEC_BOOTST records for a slot. -/
def slotCode (slot code : Nat) (s : State) : State :=
  if slot = 0 then s.setFld Reg.SEC_BOOTST 23 20 code else s.setFld Reg.SEC_BOOTST 19 16 code

/-- The whole order begins: selector, first header; what BIST found stays. -/
def bootOrder (s : State) : State :=
  let done := s.boot.bistDone
  bootBegin (s.setBoot { Boot.reset with phase := .header, bistDone := done })

/-- A slot is rejected: its cause is recorded, what its MEM records wrote is cleared, and the next slot is tried. After
both the host stays in the boot ROM, and tries again 10 s later. -/
def rejectSlot (code : Nat) (s : State) : State :=
  let b := s.boot
  let s := b.written.foldl (fun s r => s.clearMem r.1 (r.1 + r.2)) (slotCode b.slot code s)
  let s := { s.resetRegs (Reg.TEL_MAP 0) (Reg.TEL_MAP 64) with tel := Tel.reset }
  let s := (s.evt Reg.SEC_EVT 0).setBit Reg.SEC_BOOTST 27 true
  let fresh := { Boot.reset with
    winner := b.winner, pref := b.pref, confirmed := b.confirmed, bistDone := b.bistDone }
  match b.left with
  | x :: rest =>
    let s := s.setBoot { fresh with phase := .header, slot := x, left := rest }
    bootStage 1 ((s.setBit Reg.SEC_BOOTST 28 (x == 1)).setBit Reg.SEC_BOOTST 26 (b.confirmed && x == b.pref))
  | [] => bootStage 7 (s.setBoot { fresh with phase := .failed, slot := b.slot, retryAt := some (s.clock + ms 10000) })

/-! ### The header (R690) -/

/-- Why a header is rejected, 0 for none. -/
def State.headerCode (s : State) (h : ImgHeader) : Nat :=
  if !h.formatOk ∨ h.nsect < 6 ∨ 9 < h.nsect ∨ 66060288 < h.total then 2
  else if !h.variantMask.testBit (s.fuse.variant - 1) then 6
  else if s.fuse.keyhash ≠ 0 ∧ !h.keyHashOk then 3
  else if !h.sigOk then 4
  else if h.svn < s.fuse.arb then 5
  else 0

/-- The header of the slot being tried is read and checked. -/
def headerVerifyOp (h : ImgHeader) (s : State) : State :=
  if s.boot.phase ≠ .header then s
  else if s.headerCode h = 0 then bootStage 2 (s.setBoot { s.boot with phase := .sections, hdr := some h })
  else rejectSlot (s.headerCode h) s

def execHeaderVerify (h : ImgHeader) (s : State) : Host.Outcome State Fault Refusal := hostDo s (headerVerifyOp h)

/-! ### Sections and records (R681 to R687, R691, R787) -/

/-- The section that a parameter key belongs to (Table 13.7). -/
def keySection (k : Nat) : Nat :=
  if 1 ≤ k ∧ k ≤ 4 then 1 else if k = 0x10 then 3 else if k = 0x60 then 6 else if k = 0x70 then 7 else if k = 0x80 then 8 else 0

/-- The key of a parameter record. -/
def Rec.key : Rec → Option Nat
  | .param k _ => some k
  | .time _ => some 0x10
  | .contexts _ => some 0x80
  | _ => none

/-- The host register blocks, or the proxy window, that a section's REG records may write (Table 13.5). -/
def regPermitted (typ a : Nat) : Bool :=
  let b := a / 0x10000
  a % 4 == 0 && (match typ with
    | 1 => [0x6000, 0x6001, 0x6005, 0x6016, 0x601A, 0x601B, 0x601C].contains b
    | 2 => [0x6010, 0x6011, 0x6012, 0x6013, 0x6014].contains b
    | 3 => [0x6002, 0x6003, 0x6004].contains b
    | 4 => b == 0x6015
    | 5 => decide (0x7000 ≤ b ∧ b < 0x7010)
    | 7 => [0x6009, 0x6008, 0x600B].contains b
    | 8 => b == 0x600A
    | 9 => b == 0x600D
    | _ => false)

/-- The memory that a section's MEM records may write; a Teller window must hold the whole record. -/
def memPermitted (typ nlog a n : Nat) : Bool :=
  match typ with
  | 7 => decide (0x20000000 ≤ a ∧ a + n ≤ 0x20A00000)
  | 8 =>
    let o := a % 0x100000
    decide (0x10000000 ≤ a ∧ a < 0x10000000 + nlog * 0x100000) &&
      (decide (o + n ≤ 0x10000) || decide (0x40000 ≤ o ∧ o + n ≤ 0x80000))
  | _ => false

/-- The value of a parameter is one that the image may hold. -/
def State.paramOk (s : State) (k : Nat) (b : List Byte) : Bool :=
  match k with
  | 1 => b.length == 2
  | 2 => b.length == 2 && decide (1 ≤ leNat (b.take 1) ∧ leNat (b.take 1) ≤ 64 ∧ leNat (b.drop 1) ≤ 3 ∧
      leNat (b.take 1) ≤ 16 * (4 - leNat (b.drop 1)))
  | 3 => b.length == 24
  | 4 => b.length == 32
  | 0x60 => true
  | 0x70 => b.length == 4096 && (List.range 2048).all (fun i => bindOk s.isA (leNat (slice b (2 * i) 2)))
  | _ => false

/-- One record of a section of type `typ` is permitted. -/
def State.recOk (s : State) (typ : Nat) : Rec → Bool
  | .stop => true
  | .reg a _ => regPermitted typ a
  | .mem a l => memPermitted typ s.boot.nlog a l.length
  | .param k b => keySection k == typ && s.paramOk k b
  | .time _ => typ == 3
  | .contexts _ => typ == 8
  | .other _ => false

/-- No key stands twice. -/
def keysOnce : List Nat → Bool
  | [] => true
  | k :: t => !t.contains k && keysOnce t

/-- The records of a section are accepted (R684, R787). -/
def State.recsOk (s : State) (sec : ImgSection) : Bool :=
  let keys := sec.recs.filterMap Rec.key
  sec.recs.getLast? == some .stop && (sec.recs.dropLast).all (fun r => r != .stop) && sec.recs.all (s.recOk sec.typ) &&
    keysOnce keys && (sec.typ != 1 || (keys.contains 1 && keys.contains 2))

/-- Bytes that a record takes when staged (R683, R687); the spec does not lay out the parameters of the PTP options and of
the contexts, and they are not counted. -/
def Rec.staged : Rec → Nat
  | .reg _ _ => 16
  | .param _ b => 8 + (2 + b.length + 7) / 8 * 8
  | _ => 0

def isStaged : Rec → Bool
  | .reg _ _ | .param _ _ | .time _ | .contexts _ => true
  | _ => false

/-- The required sections are there (Table 13.5). -/
def State.hasRequired (s : State) (seen : List Nat) : Bool :=
  ([1, 2, 3, 7, 8, 9] ++ if s.isA then [5, 6] else []).all (fun t => seen.contains t)

/-- Why a section is rejected, 0 for none. -/
def State.sectionCode (s : State) (sec : ImgSection) (h : ImgHeader) : Nat :=
  let seen := s.boot.seen ++ [sec.typ]
  if sec.typ = 0 ∨ 9 < sec.typ ∨ s.boot.seen.any (fun t => decide (sec.typ ≤ t)) ∨
      (seen.length = h.nsect ∧ !s.hasRequired seen) then 2
  else if !sec.crcOk then 7
  else if !sec.digestOk then 8
  else if sec.enc ∧ s.fuse.imgkey = 0 then 13
  else if sec.enc ∧ !sec.tagOk then 9
  else if sec.typ = 1 ∧ !sec.enc ∧ (sec.recs.filterMap Rec.key).contains 4 then 13
  else if !s.recsOk sec then 10
  else if 1572864 < s.boot.stagedBytes + (sec.recs.map Rec.staged).sum then 11
  else 0

/-- Bytes of the image written into a memory, and kept as the content that restores it. -/
def imageWrite (a : Nat) (l : List Byte) (s : State) : State :=
  let s := s.wrBytes a l
  let img := l.zipIdx.foldl (fun m e => aput m 0 (a + e.2) e.1) s.boot.image
  s.setBoot { s.boot with image := img, written := s.boot.written ++ [(a, l.length)] }

/-- A MEM record of an accepted section: a Teller window is that of the physical Teller (R685), and without placement
nothing is written (R699). -/
def memRecord (typ : Nat) (r : Rec) (s : State) : State :=
  match r with
  | .mem a l =>
    if typ = 7 then imageWrite a l s
    else
      let m := Reg.TEL_MAP ((a - 0x10000000) / 0x100000)
      if s.boot.placed ∧ s.rb m 31 then imageWrite (telBase (s.rf m 5 0) + a % 0x100000) l s else s
  | _ => s

/-! ### BIST and placement (R697 to R699, R201) -/

/-- A domain is switched off by the boot ROM. -/
def domainOff (d : Nat) (s : State) : State :=
  let s := s.setBit Reg.PWR_CTRL (d - 1) false
  let s := s.setPwr { s.pwr with switching := s.pwr.switching.filter (fun e => e.1 != d) }
  if s.domOn d then switchDomain d false s else s

/-- The clusters that are not fenced, ascending. -/
def State.clusters (s : State) : List Nat := (List.range 4).filter (fun c => !s.rb Reg.TEL_CLST (4 + c))

/-- A cluster that an image tried earlier left off is switched on again. -/
def domainBack (d : Nat) (s : State) : State :=
  if s.rb Reg.PWR_CTRL (d - 1) then s else switchDomain d true (s.setBit Reg.PWR_CTRL (d - 1) true)

/-- Logical Tellers are placed; clusters without a placed Teller are switched off. -/
def place (s : State) : State :=
  let cs := s.clusters
  let n := s.boot.nlog
  if s.boot.fenceMax < 4 - cs.length ∨ 16 * cs.length < n then s.evt Reg.SEC_EVT 1
  else
    let s := (cs.take ((n + 15) / 16)).foldl (fun s c => domainBack (c + 1) s) s
    let s := forN n s (fun s t => s.setReg (Reg.TEL_MAP t) (wd (2 ^ 31 + 16 * cs.getD (t / 16) 0 + t % 16)))
    let s := s.setBoot { s.boot with placed := true }
    (cs.drop ((n + 15) / 16)).foldl (fun s c => domainOff (c + 1) s) s

/-- BIST of the clusters has ended: failing ones are fenced and switched off. -/
def bistEndOp (fail : Nat) (s : State) : State :=
  if s.boot.bistDone ∨ s.boot.phase = .held then s
  else
    let f := fail % 16
    let s := s.setReg Reg.TEL_CLST (wd (f * 272))
    let s := (maskList f 4).foldl (fun s c => domainOff (c + 1) s) s
    let s := s.setBoot { s.boot with bistDone := true }
    if s.boot.seen.contains 1 then place s else s

def execBistEnd (fail : Nat) (s : State) : Host.Outcome State Fault Refusal := hostDo s (bistEndOp fail)

/-! ### Staged records are applied (R687, Table 13.7) -/

/-- Every switching that PWR_CTRL asks for is complete. -/
def State.pwrSettled (s : State) : Bool :=
  s.pwr.switching.isEmpty && s.pwr.heldCtrl.isEmpty &&
    (List.range 8).all (fun i => !s.rb Reg.PWR_CTRL i || s.domOn (i + 1))

/-- The node address (R76, R78). -/
def addrParam (v : Nat) (s : State) : State :=
  let slot := v.testBit 15
  let a := if slot then v % 16384 / 128 * 128 + s.slotId % 128 else v % 16384
  (s.setReg Reg.DIS_ADDR (wd (b2n slot * 2 ^ 31 + a))).setBit Reg.DIS_CFG 0 (v.testBit 14)

/-- The level-1 path (Table 13.10). -/
def l1Param (b : List Byte) : L1Cfg :=
  { kind := leNat (slice b 0 1), ports := leNat (slice b 1 1), ch := leNat (slice b 2 2), id := leNat (slice b 4 4),
    nch := leNat (slice b 8 2), fmt := leNat (slice b 10 1), gain := leNat (slice b 12 2), amp := leNat (slice b 16 4),
    sapOut := leNat (slice b 20 1), sapSlots := leNat (slice b 22 2) }

/-- The valid messages that a STRONGBOX parameter expects: COUNT, then NSAMP and PCRC of each message. -/
def sbxParam (b : List Byte) : Nat :=
  let n := leNat (slice b 0 2)
  forN (minN n 64) 0 (fun m e => if leNat (slice b (2 + 8 * e) 4) = 0 then m else m + 2 ^ e)

/-- A context takes its place on the physical Teller of its logical one. -/
def putContext (d : CtxDecl) (s : State) : State :=
  let m := Reg.TEL_MAP d.t
  if s.rb m 31 then
    let p := s.rf m 5 0
    s.setCtx (ctxKey p d.ctx) { Ctx.none with decl := { d with t := p }, exists_ := true, en := d.enabled }
  else s

/-- One parameter. -/
def paramApply (k : Nat) (b : List Byte) (s : State) : State :=
  match k with
  | 1 => addrParam (leNat b) s
  | 3 => s.setBoot { s.boot with l1 := if leNat (b.take 1) = 0 then none else some (l1Param b) }
  | 4 => s.setBoot { s.boot with mkey := some b }
  | 0x60 => s.setBoot { s.boot with sbxValid := some (sbxParam b) }
  | 0x70 => forN 2048 s (fun s i => s.setReg (Reg.LDG_BIND i) (wd (leNat (slice b (2 * i) 2))))
  | _ => s

/-- One staged record; whether its write succeeded. On the ML2560-P, FIELD and STRONGBOX apply nothing (R682); FIELD
records wait for level 1 (R707). -/
def applyRec (typ : Nat) (r : Rec) (s : State) : Bool × State :=
  if typ = 5 ∨ typ = 6 then
    if !s.isA then (true, s)
    else
      match r with
      | .param k b => (true, paramApply k b s)
      | _ => (true, s.setBoot { s.boot with fieldRecs := s.boot.fieldRecs ++ [r] })
  else
    match r with
    | .reg a v =>
      let (q, s) := busWrite .stw 0 a 4 1 (leBytes v.toNat 4) [] s
      (q == .ok, s)
    | .param k b => (true, paramApply k b s)
    | .time o => (true, s.setBoot { s.boot with standalone := o.standalone, stepth := o.stepth, activeSel := o.active, ptp := o.ptp })
    | .contexts cs => (true, cs.foldl (fun s d => putContext d s) s)
    | _ => (true, s)

/-- What the runtime does through the proxy window at level 1 once the link is UP (R702, R707): the FIELD records, the
comparison of the Strongbox, the start of the AMP channels. -/
def fieldSetup (s : State) : State :=
  if s.boot.fieldPend && s.isA && s.kwy.link == .up then
    let s := s.boot.fieldRecs.foldl (fun s r => match r with
      | .reg a v => proxyWrite false a v s
      | _ => s) s
    let lo := proxySync false Reg.FSBX_VALIDLO 0 s
    let hi := proxySync false Reg.FSBX_VALIDHI 0 lo.2.2
    let have_ := lo.2.1.toNat + 4294967296 * hi.2.1.toNat
    let s := hi.2.2.evtIf (match s.boot.sbxValid with
      | some v => decide (v ≠ have_)
      | none => false) Reg.SEC_EVT 2
    let amp := match s.boot.l1 with
      | some l => l.amp
      | none => 0
    let s := (maskList amp 32).foldl (fun s c => proxyWrite false (Reg.FPWM_CHCMD c) 1 s) s
    s.setBoot { s.boot with fieldRecs := [], fieldPend := false }
  else s

/-- The runtime starts at service level 1. -/
def levelOne (s : State) : State :=
  let h := s.boot.hdr
  let svn := (h.map (fun x => x.svn)).getD 0
  let ver := (h.map (fun x => x.imgVer)).getD 0
  let s := s.setBoot { s.boot with phase := .running, staged := [], fieldPend := s.isA }
  let s := ((slotCode s.boot.slot 0 s).setFld Reg.SEC_BOOTST 6 0 svn).setFld Reg.SEC_BOOTST 25 24 1
  runtimeRestores (fieldSetup (watchdogStart (bootStage 4 (s.setReg Reg.SEC_IMGVER ver))))

/-- The staged records, in order. A PWR_CTRL write completes before the next record is applied; a write that gets an error
response rejects the slot. -/
def applyRecs : List (Nat × Rec) → State → State
  | [], s => levelOne s
  | (t, r) :: rest, s =>
    if !s.pwrSettled then s.setBoot { s.boot with staged := (t, r) :: rest }
    else
      match applyRec t r s with
      | (true, s) => applyRecs rest s
      | (false, s) => rejectSlot 10 s

/-- The boot ROM goes on where it waited for a domain. -/
def bootContinue (s : State) : State := if s.boot.phase = .applying then applyRecs s.boot.staged s else s

/-- A domain switch completes (R718), and the boot ROM goes on. -/
def execDomainSwitchComplete (d : Nat) (s : State) : Host.Outcome State Fault Refusal :=
  hostDo s (fun s => bootContinue (domainSwitchCompleteOp d s))

/-- The brace state ends (R725), and the boot ROM goes on. -/
def execBraceExit (s : State) : Host.Outcome State Fault Refusal := hostDo s (fun s => bootContinue (braceExitOp s))

/-- A section accepted: PLACE counts at once; MEM records are written; REG and PARAM records are staged. After the last
section the staged records are applied. -/
def sectionTake (sec : ImgSection) (h : ImgHeader) (s : State) : State :=
  let drop := !s.isA && (sec.typ == 5 || sec.typ == 6)
  let b := s.boot
  let s := s.setBoot { b with
    seen := b.seen ++ [sec.typ], stagedBytes := b.stagedBytes + (sec.recs.map Rec.staged).sum,
    staged := b.staged ++ (if drop then [] else (sec.recs.filter isStaged).map (fun r => (sec.typ, r))) }
  let s := sec.recs.foldl (fun s r => match r with
    | .param 2 l => s.setBoot { s.boot with nlog := leNat (l.take 1), fenceMax := leNat (l.drop 1) }
    | _ => s) s
  let s := if sec.typ = 1 ∧ s.boot.bistDone then place s else s
  let s := sec.recs.foldl (fun s r => memRecord sec.typ r s) s
  if s.boot.seen.length = h.nsect then bootContinue (bootStage 3 (s.setBoot { s.boot with phase := .applying })) else s

/-- The boot ROM must wait: for BIST before TELLER (R695), for the Ledger before it writes the gain store (R686). -/
def State.sectionWaits (s : State) (sec : ImgSection) : Bool :=
  (sec.typ == 8 && !s.boot.bistDone) ||
    (sec.typ == 7 && !s.ldg.ready && sec.recs.any (fun r => match r with
      | .mem _ _ => true
      | _ => false))

/-- The next section is read and checked. -/
def sectionCheckOp (sec : ImgSection) (s : State) : State :=
  match s.boot.phase, s.boot.hdr with
  | .sections, some h =>
    if s.sectionWaits sec then s
    else if s.sectionCode sec h = 0 then sectionTake sec h s
    else rejectSlot (s.sectionCode sec h) s
  | _, _ => s

def execSectionCheck (sec : ImgSection) (s : State) : Host.Outcome State Fault Refusal := hostDo s (sectionCheckOp sec)

/-- 10 s after both slots were rejected. -/
def bootRetryOp (s : State) : State :=
  match s.boot.phase, s.boot.retryAt with
  | .failed, some t => if t ≤ s.clock then bootOrder s else s
  | _, _ => s

def execBootRetry (s : State) : Host.Outcome State Fault Refusal := hostDo s bootRetryOp

/-! ### Service level 2 (R679, R692, R703, R704) -/

/-- Every enabled subscription is LIVE, or lost by R466. -/
def State.subsSettled (s : State) : Bool :=
  s.rxEnabled.all (fun e => bit e.2 26 || (s.sub e.1).lost)

/-- The time of the node is good for level 2. -/
def State.timeGood (s : State) : Bool :=
  s.boot.standalone || (s.tim.act == 0 && s.tim.ptpA.lock) || (s.tim.act == 1 && s.tim.ptpB.lock)

/-- CONFIRM, and the advance of ARB that the image asks for. -/
def confirmSlot (s : State) : State :=
  if s.boot.winner.isSome && !s.boot.confirmed && s.boot.slot == s.boot.pref then
    let s := (programConfirm s).setBit Reg.SEC_BOOTST 26 true
    match s.boot.hdr with
    | some h => if h.arbAdv then arbAdvanceOp (wd h.svn) s else s
    | none => s
  else s

/-- At a mix slot boundary the runtime enters level 2, once its conditions hold. -/
def serviceLevel2Op (s : State) : State :=
  if s.runtime && s.rf Reg.SEC_BOOTST 25 24 == 1 && s.boot.placed && s.rb Reg.PST_CTRL 0 && s.timeGood && s.subsSettled then
    let n := match s.pst.cur with
      | some n => n
      | none => s.pst.next
    confirmSlot ((s.setFld Reg.SEC_BOOTST 25 24 2).setBoot { s.boot with crossAt := some (n + 2) })
  else s

def execServiceLevel2 (s : State) : Host.Outcome State Fault Refusal := hostDo s serviceLevel2Op

/-! ### Management messages (R504, R505, R576, R708, R709, Table 13.13) -/

/-- The classes of Table 13.13. -/
inductive MClass where
  | control | setTime | query | update | restart | unknown
  deriving DecidableEq, Repr

def classOf (t : Nat) : MClass :=
  if t = 0x10 then .setTime
  else if 1 ≤ t ∧ t ≤ 0xFF then .control
  else if 0x100 ≤ t ∧ t ≤ 0x1FF then .query
  else if 0x200 ≤ t ∧ t ≤ 0x2FF then .update
  else if t = 0x300 then .restart
  else .unknown

/-- A message is accepted (R709); before T is valid only Set-time and Query are (R505), without the freshness test. -/
def State.mgmtOk (s : State) (m : MgmtMsg) : Bool :=
  let age := s.sysNs / 1000000000 - m.tsec
  s.boot.mkey.isSome && m.tagOk && (match s.boot.lastSeq with
    | some q => decide (q < m.seq)
    | none => true) &&
    (if s.tim.tvalid then decide (-30 ≤ age ∧ age ≤ 30) else classOf m.mtype == .setTime || classOf m.mtype == .query) &&
    classOf m.mtype != .unknown

/-- A message of class `c` reaches the runtime. -/
def mgmt (c : MClass) (m : MgmtMsg) (s : State) (f : State → State) : State :=
  if !s.runtime then s
  else if !s.mgmtOk m then s.evt Reg.SEC_EVT 3
  else if classOf m.mtype ≠ c then s
  else f (s.setBoot { s.boot with lastSeq := some m.seq })

/-- What a control message asks for is performed. -/
def performAct (a : CtrlAct) (s : State) : State :=
  match a with
  | .write addr v => (busWrite .stw 0 addr 4 1 (leBytes v.toNat 4) [] s).2
  | .shutDown => shutDown s

def performActs (acts : List CtrlAct) (s : State) : State := acts.foldl (fun s a => performAct a s) s

/-- A node of a pair: control messages go through CHANGE (R576). -/
def State.paired (s : State) : Bool := s.hinged && s.hng.st == .paired

/-- The bytes of a management message (Table 13.12); the tag is not in State. -/
def mgmtBytes (m : MgmtMsg) (s : State) : List Byte × State :=
  let (tag, s) := (List.range 8).foldl (fun (p : List Byte × State) _ =>
    let (w, s) := p.2.nextFree
    (p.1 ++ leBytes w.toNat 4, s)) ([], s)
  (beBytes m.mtype 2 ++ beBytes m.body.length 2 ++ beBytes m.seq 8 ++ beBytes m.tsec 6 ++ [0, 0] ++ m.body ++ tag, s)

/-- A runtime message is scheduled on both nodes, at least 3 folios ahead. -/
def scheduleChange (m : MgmtMsg) (acts : List CtrlAct) (s : State) : State :=
  let (k, s) := s.nextFree
  let e := s.seqFolio + 3 + fld k 7 0
  let (b, s) := mgmtBytes m s
  let s := sendControl 2 s.partnerMac 0x12 (beBytes e 6 ++ beBytes b.length 2 ++ b) s
  s.setHng { s.hng with changes := s.hng.changes ++ [(e, acts)] }

def controlMessageOp (m : MgmtMsg) (acts : List CtrlAct) (s : State) : State :=
  mgmt .control m s (fun s => if s.paired then scheduleChange m acts s else performActs acts s)

def execControlMessage (m : MgmtMsg) (acts : List CtrlAct) (s : State) : Host.Outcome State Fault Refusal :=
  hostDo s (controlMessageOp m acts)

/-- Set time: view L to the time of the message, unless a PTP instance is locked. -/
def setTimeOp (m : MgmtMsg) (s : State) : State :=
  mgmt .setTime m s (fun s =>
    if s.tim.ptpA.lock || s.tim.ptpB.lock then s
    else setViewTo 2 (((beAt m.body 0 6 : Int) * 1000000000 + beAt m.body 6 4) * 1099511627776) s)

def execSetTime (m : MgmtMsg) (s : State) : Host.Outcome State Fault Refusal := hostDo s (setTimeOp m)

/-- Query: the registers asked for are read. -/
def mgmtQueryOp (m : MgmtMsg) (regs : List Nat) (s : State) : State :=
  mgmt .query m s (fun s =>
    let (d, s) := regs.foldl (fun (p : List Byte × State) a =>
      let ((_, b), s) := busRead .stw 0 a 4 1 p.2
      (p.1 ++ b, s)) ([], s)
    s.answer .ok d)

def execMgmtQuery (m : MgmtMsg) (regs : List Nat) (s : State) : Host.Outcome State Fault Refusal :=
  hostDo s (mgmtQueryOp m regs)

/-- Words into a page buffer. -/
def fillBuf (base : Nat) (data : List Word) (s : State) : State :=
  (data.take 64).zipIdx.foldl (fun s e => (busWrite .stw 0 (base + 4 * e.2) 4 1 (leBytes e.1.toNat 4) [] s).2) s

/-- Update: 0 erases and 1 programs configuration flash, 2 erases and 3 programs Strongbox flash (R426). A selector write that
the runtime refuses, because the target slot fails the checks of R690 and R691, is any other number: it performs
nothing. -/
def updateOp (m : MgmtMsg) (addr cmd : Nat) (data : List Word) (s : State) : State :=
  mgmt .update m s (fun s =>
    let put := fun (a : Nat) (v : Nat) (s : State) => (busWrite .stw 0 a 4 1 (leBytes v 4) [] s).2
    match cmd with
    | 0 => put Reg.XSP_CMD 1 (put Reg.XSP_ADDR addr s)
    | 1 => put Reg.XSP_CMD 2 (put Reg.XSP_ADDR addr (fillBuf (Reg.XSP_BUF 0) data s))
    | 2 => put Reg.FSBX_PGCMD 1 (put Reg.FSBX_PGADDR addr s)
    | 3 => put Reg.FSBX_PGCMD 2 (put Reg.FSBX_PGADDR addr (fillBuf (Reg.FSBX_PGBUF 0) data s))
    | _ => s)

def execUpdate (m : MgmtMsg) (addr cmd : Nat) (data : List Word) (s : State) : Host.Outcome State Fault Refusal :=
  hostDo s (updateOp m addr cmd data)

/-- Restart: a host reset 100 ms after the reply. -/
def restartOp (m : MgmtMsg) (s : State) : State :=
  mgmt .restart m s (fun s => s.setPwr { s.pwr with restart := some (s.clock + ms 100) })

def execRestart (m : MgmtMsg) (s : State) : Host.Outcome State Fault Refusal := hostDo s (restartOp m)

end Sys2Proof.Machine
end

