-- ==== Sys2Proof/Machine/Folio.lean ====
section
/-! DEFINITION. The start of a folio, the posting cut, and the receipts and runtime changes of a hinge pair (chapters 2
and 10; the level-1 path of chapter 13). -/

namespace Sys2Proof.Machine

/-! ### The level-1 path (R700 to R704) -/

/-- Input folio `n` of the level-1 path; 0 where it has none. -/
def State.l1Input (s : State) (n : Nat) : List Word :=
  match s.out.l1in.find? (fun e => e.1 == n) with
  | some e => e.2
  | none => List.replicate 8 0

/-- The SAP slot of the level-1 path in the input folio that ends. -/
def l1Capture (n : Nat) (s : State) : State :=
  match s.boot.l1 with
  | some l =>
    if l.kind = 2 ∧ s.l1Run then
      let x := (List.range 8).map (fun j => s.localSample (8192 + 32 * (l.ch / 256 % 32) + l.ch % 32) n j)
      s.setOut { s.out with l1in := s.out.l1in ++ [(n, x)] }
    else s
  | none => s

/-- The scaled output samples for the newest input folio, given the inputs newest first (R701). Output sample j is
filtered sample j − 1, whose odd ones are means of their neighbours; with the 63 samples of the filter the path delays
64. -/
def l1Samples (gain : Nat) (h : List Int) : List Int :=
  let y := fun k => hbFir (h.drop k)
  let z := fun (j : Nat) => if j % 2 = 1 then y (8 - j) else roundHalfUp (y (9 - j) + y (7 - j)) 2
  (List.range 8).map (fun j => scale22 (z j) (coef gain))

/-- Rendering of input folio `n` by the level-1 path, if it runs. -/
def l1Render (n : Nat) (s : State) : Option (L1Cfg × List Int) × State :=
  match s.boot.l1 with
  | none => (none, s)
  | some l =>
    if s.l1Run then
      let h := ((s.l1Input n).map (fun w => w.toInt)).reverse ++ s.out.l1hist
      let s := s.setOut { s.out with l1hist := h.take 135, l1in := s.out.l1in.filter (fun e => decide (n < e.1)) }
      (some (l, l1Samples l.gain h), s)
    else (none, s)

/-- Sample `i` of the crossfade from `p` to `q` (R704). -/
def crossSample (p q : Int) (i : Nat) : Int := roundHalfUp (8 * p + (q - p) * (i + 1)) 8

/-- What plays where the level-1 path plays: its own sample, or the crossfade in the first folio of level 2. -/
def l1Play (cross : Bool) (p : Int) (q : Word) (i : Nat) : Word := if cross then wdi (crossSample p q.toInt i) else wdi p

/-- The level-1 path plays in output folio `m`, alone or crossing over. -/
def State.l1Plays (s : State) (m : Nat) : Bool := s.level == 1 || (match s.boot.crossAt with
  | some c => decide (m ≤ c)
  | none => false)

/-- Output folio `m` is the one in which level 2 takes over. -/
def State.crosses (s : State) (m : Nat) : Bool := s.boot.crossAt == some m

/-- After the crossfade the path stops. -/
def l1Stop (m : Nat) (s : State) : State :=
  match s.boot.crossAt with
  | some c =>
    if c ≤ m then
      (s.setBoot { s.boot with crossAt := none }).setOut { s.out with l1hist := [], l1in := [] }
    else s
  | none => s

/-! ### Egress (R99, R401, R409) -/

/-- BLOCK of output folio `m` (Table 7.4): sample j of channel c by `v`. -/
def blockBytes (m : Nat) (v : Nat → Nat → Word) : List Byte :=
  leBytes m 6 ++ [0, 0] ++ (List.range 8).flatMap (fun j => (List.range 32).flatMap (fun c => leBytes (v c j).toNat 4))

/-- Sample j of AMP channel c as the BLOCK of output folio `m` carries it (R702, R704). -/
def State.blockSample (s : State) (m : Nat) (f : Option Fol) (l1 : Option (L1Cfg × List Int)) (c j : Nat) : Word :=
  let q := match f with
    | some f => smp f.out (2528 + c) j
    | none => 0
  if s.l1Plays m then
    match l1 with
    | some (l, p) =>
      if l.amp.testBit c then l1Play (s.crosses m) (satAmp (p.getD j 0)) q j else if s.crosses m then q else 0
    | none => if s.crosses m then q else 0
  else q

/-- BLOCK and HEARTBEAT of output folio `m` become ready at the folio start of `m + 1` (R401, R409). -/
def keywayEgress (m : Nat) (f : Option Fol) (l1 : Option (L1Cfg × List Int)) (s : State) : State :=
  let has := if s.l1Plays m && !s.crosses m then l1.isSome else f.isSome
  let s := kwyFolio s
  if !s.isA || !has then s
  else
    let s' := s.hostFirst 1 (blockBytes m (s.blockSample m f l1))
    if s.rb Reg.KWY_CTRL 1 then
      s'.hostFirst 9 (leBytes (m + 1) 6 ++ [0, 0, BitVec.ofNat 8 s.level, 0, 0, 0])
    else s'

/-- What slot `i` of port `p` plays at house sample `j` in output folio `m`. -/
def State.l1Slot (s : State) (m : Nat) (l1 : Option (L1Cfg × List Int)) (p i j : Nat) (q : Word) : Word :=
  match l1 with
  | some (l, x) =>
    if s.l1Plays m && p == l.sapOut && l.sapSlots.testBit i then
      l1Play (s.crosses m) (sat24 (roundHalfUp (x.getD j 0) 16)) q j
    else q
  | none => q

/-- The SAP and Till ports take the output folio. -/
def portEgress (m : Nat) (f : Option Fol) (l1 : Option (L1Cfg × List Int)) (s : State) : State :=
  let s := forN 16 s (fun s p =>
    let mine := match l1 with
      | some (l, _) => l.sapOut == p && s.l1Plays m
      | none => false
    if f.isSome || mine then sapEgress f (s.l1Slot m l1 p) p s else s)
  match f with
  | some f => forN 4 s (fun s n => tillEgress f m n s)
  | none => s

/-- The rendered folio of output folio `m`, once the sink chain has completed it, unless the sequencer is paused
(R141). -/
def State.ready (s : State) (m : Nat) : Option Fol :=
  match s.outFol m with
  | some f => if f.chained.length = 64 ∧ !s.pst.paused then some f else none
  | none => none

/-- Egress of output folio `m`; folios sent before it are no longer held. -/
def egress (m : Nat) (s : State) : State :=
  let f := s.ready m
  let (l1, s) := l1Render (m - 2) s
  let s := s.setPst { s.pst with
    egress := if f.isSome then some m else none,
    fols := s.pst.fols.filter (fun g => !(decide (g.n + 2 < m) && decide (g.chained.length = 64))) }
  let s := keywayEgress m f l1 (portEgress m f l1 s)
  let s := if s.hinged && f.isSome then sendHinge 2 false (sendHinge 1 false (sendHinge 0 false s)) else s
  l1Stop m s

/-- The local inputs of input folio `n` reach source assembly (R84). -/
def captureLocal (n : Nat) (s : State) : State :=
  let s := if s.domOn 8 then
      excFolio n (forN 4 (forN 16 s (fun s p => sapCapture n p (sapBoundary (n + 1) p s))) (fun s t => tillTake t s))
    else s
  l1Capture n s

/-- A folio starts in the active view (R13). -/
def folioStartOp (s : State) : State :=
  let q := folioOf s.sysT
  if q = 0 then s
  else
    let s := fillFolio (a67MissFolio (q - 1) (missFolio (q - 1) s))
    egress (q - 1) (captureLocal (q - 1) (fieldSetup s))

def execFolioStart (s : State) : Host.Outcome State Fault Refusal := hostDo s folioStartOp

/-! ### The posting cut and receipts (R133 to R136, R578) -/

/-- A map of sources as the 256 bytes of a RECEIPT (Table 10.2). -/
def mapBytes (l : List Nat) : List Byte :=
  (List.range 256).map (fun i => BitVec.ofNat 8 ((l.filter (fun x => x / 8 == i)).foldl (fun n x => addMask n (x % 8)) 0))

/-- The posting receipt over P2 (R135). -/
def sendReceipt (f : Fol) (s : State) : State :=
  if s.rb Reg.PST_CTRL 2 then
    sendControl 2 s.partnerMac 0x11 (beBytes f.n 6 ++ [0, 0] ++ mapBytes f.conc ++ mapBytes f.reent) s
  else s

/-- Folio `n` is posted with the input set it has. -/
def postNow (n : Nat) (s : State) : State :=
  match s.fol? n with
  | some f => postFolio f (sendReceipt f s)
  | none => s

/-- A source that the partner's receipt marks received and for which the node holds no data sets RCPTMISS (R136). -/
def receiptMisses (conc : List Nat) (n : Nat) (s : State) : State :=
  match s.fol? n with
  | some f => s.evtIf (f.conc.any (fun x => !conc.contains x && (s.heldFor f x).isNone)) Reg.PST_EVT 7
  | none => s

/-- P(n) of the oldest folio not posted. A shadow has taken the partner's receipt, or waits for it; what is still to
be decided is refused then too (R133). -/
def postingCutOp (s : State) : State :=
  match s.pst.fols.find? (fun f => !f.posted && !f.waits) with
  | none => s
  | some f =>
    let n := f.n
    let s := netPosted n s
    if s.rb Reg.PST_CTRL 1 then
      match s.receiptOf n with
      | some conc => postNow n (receiptMisses conc n s)
      | none => refuseDeferred n (s.updFol n (fun f => { f with waits := true }))
    else postNow n s

def execPostingCut (s : State) : Host.Outcome State Fault Refusal := hostDo s postingCutOp

/-- The partner's receipt of folio `n` at a shadow (R136): its reversals are tested when it arrives, at the entry cut
where it came before it. -/
def receiptOp (n : Nat) (conc : List Nat) (s : State) : State :=
  if !s.rb Reg.PST_CTRL 1 then s
  else
    match s.fol? n with
    | some f =>
      if f.waits then postNow n (receiptMisses conc n (adoptReceipt conc n s.now3 true s))
      else if f.posted then s
      else adoptReceipt conc n s.now3 false (s.setHng { s.hng with receipts := ((n, conc) :: s.hng.receipts).take 4 })
    | none => s.setHng { s.hng with receipts := ((n, conc) :: s.hng.receipts).take 4 }

/-- The sources of a bitmap of a RECEIPT. -/
def mapSources (l : List Byte) : List Nat := (List.range 2048).filter (fun x => (l.getD (x / 8) 0).toNat.testBit (x % 8))

/-- An accepted RECEIPT: folio, CONC and REENT. -/
def execReceipt (n : Nat) (conc _reent : List Byte) (s : State) : Host.Outcome State Fault Refusal :=
  hostDo s (receiptOp n (mapSources conc))

/-- M(n + 1) − SINKWIN passes without the receipt: the shadow posts with its own set (R578). -/
def receiptMissingOp (s : State) : State :=
  match s.pst.fols.find? (fun f => f.waits) with
  | some f => postNow f.n (s.count Reg.HNG_CNT_NORCPT 1 54)
  | none => s

def execReceiptMissing (s : State) : Host.Outcome State Fault Refusal := hostDo s receiptMissingOp

/-! ### Runtime changes of a pair (R576) -/

/-- A CHANGE of the partner. -/
def changeOp (e : Nat) (acts : List CtrlAct) (s : State) : State :=
  if s.hinged then s.setHng { s.hng with changes := s.hng.changes ++ [(e, acts)] } else s

def execChange (e : Nat) (acts : List CtrlAct) (s : State) : Host.Outcome State Fault Refusal := hostDo s (changeOp e acts)

/-- The writes of a runtime message whose effective folio is `e`: a Teller replacement takes it as its folio. -/
def swapAt (e : Nat) (acts : List CtrlAct) : List CtrlAct :=
  acts.map (fun a => match a with
    | .write addr v => .write addr (if addr = Reg.TEL_SWAPF then wd e else v)
    | .shutDown => .shutDown)

/-- During L(EFOLIO − 1) the messages due are performed. -/
def changePerformOp (s : State) : State :=
  match s.pst.cur with
  | none => s
  | some n =>
    let due := s.hng.changes.filter (fun e => decide (e.1 ≤ n + 1))
    let s := s.setHng { s.hng with changes := s.hng.changes.filter (fun e => !decide (e.1 ≤ n + 1)) }
    due.foldl (fun s e => performActs (swapAt e.1 e.2) s) s

def execChangePerform (s : State) : Host.Outcome State Fault Refusal := hostDo s changePerformOp

end Sys2Proof.Machine
end

