-- ==== Sys2Proof/Machine/PtpTx.lean ====
section
/-! DEFINITION. The PTP messages that the node sends as a master (chapter 9, R512, R513). -/

namespace Sys2Proof.Machine

/-- The clockClass that the node advertises: what the TIME section assigns to the state of the RSC (R513, R515). -/
def State.clockClass (s : State) : Nat :=
  (s.boot.ptp.classes[s.rsc.st.code]?).getD (Config.openClass s.rsc.st.code).toNat

/-- The domain number of instance `i` (Table 9.2). -/
def State.ptpDomain (s : State) (i : Nat) : Nat := if i = 0 then s.boot.ptp.da else if i = 1 then s.boot.ptp.db else s.boot.ptp.dc

/-- Message `n` of instance `i`: its type, the domain number at byte 4, and in an Announce the clockClass at byte 48,
where IEEE 1588-2019 has them (log entry 147); the other bytes are open. -/
def State.ptpMsg (s : State) (i n : Nat) : List Byte :=
  let typ := (Config.ptpType i n).toNat
  let b := (List.range (if typ = 11 then 64 else 44)).map (Config.ptpByte i n)
  let b := patch (patch b 0 (beBytes typ 1)) 4 (beBytes (s.ptpDomain i) 1)
  if typ = 11 then patch b 48 (beBytes s.clockClass 1) else b

/-- One message of instance `i` on its port enters queue 7: P0, P1 and P3 serve DA, DB and DC. By the TIME section a port
uses IEEE 802.3 or UDP/IPv4, event messages to port 319 and the others to port 320 (Table 9.2). -/
def ptpSend (i p n : Nat) (s : State) : State :=
  let m := s.ptpMsg i n
  let port := if (Config.ptpType i n).toNat < 4 then 319 else 320
  let dst := (Config.ptpDst i).toNat
  let f := if s.boot.ptp.udp.testBit p then
      mkFrame dst (s.macAddr p) none 0x0800 (ipv4Packet Config.ptpTos.toNat Config.ptpTtl.toNat (Config.ipId (1024 + i) n).toNat
        (s.reg (Reg.MAC_IPADDR p)).toNat (Config.ptpIp i).toNat port port m)
    else mkFrame dst (s.macAddr p) none 0x88F7 m
  if s.portOn p then offer p 7 f s else s

/-- A Sync or Announce interval of instance `i` ends: a master of DA or DB, and the master-only port of DC, send. -/
def syncIntervalOp (i : Nat) (s : State) : State :=
  if !s.runtime then s
  else if i < 2 then
    let p := s.tim.ptp i
    if p.master then ptpSend i i p.sent (s.setTim (s.tim.setPtp i { p with sent := p.sent + 1 })) else s
  else if i = 2 then
    ptpSend 2 3 s.tim.dcSent (s.setTim { s.tim with dcSent := s.tim.dcSent + 1 })
  else s

def execSyncInterval (i : Nat) (s : State) : Host.Outcome State Fault Refusal := hostDo s (syncIntervalOp i)

end Sys2Proof.Machine
end

