-- ==== Sys2Proof/Machine/TellerAlu.lean ====
section
/-! DEFINITION. The compute operations of a Teller (Table 4.9, R242 to R254). -/

namespace Sys2Proof.Machine

/-! ### Writes of one register -/

def wD (n : Nat) (r : Word × Nat) : Writes := ⟨[(n, r.1)], [], [], r.2⟩
def wA (n : Nat) (r : BitVec 80 × Nat) : Writes := ⟨[], [(n, r.1)], [], r.2⟩
def wP (n : Nat) (v : Nat) : Writes := ⟨[], [], [(n, BitVec.ofNat 8 v)], 0⟩

/-- A scalar operation of format CR3 or CI without a field that can be wrong. -/
def dataOp (t : Nat) (p : Pred) (d : Nat) (f : Core → Word × Nat) (s : State) : State :=
  computeOp t p false false (fun c _ => wD d (f c)) s

/-- No flag. -/
def plain (w : Word) : Word × Nat := (w, 0)

/-- A slot whose word is a NOP (R229). An opcode that no table lists faults at issue (R229, R782); a word that spells an
operation is that operation's own command. -/
def nopOp (t : Nat) (move : Bool) (w : Nat) (s : State) : State :=
  let always : Pred := ⟨false, false, 0⟩
  match slotOf t move w with
  | .op _ => s
  | x =>
    let bad := decide (x = .unlisted)
    if move then moveOp t always (if bad then some 1 else none) false (fun _ _ _ s => .done s [] 0 none) s
    else computeOp t always bad false (fun _ _ => Writes.none) s

def execNop (t : Nat) (move : Bool) (w : Nat) (s : State) : Host.Outcome State Fault Refusal := .next (nopOp t move w s)

/-! ### Arithmetic and logic -/

def execAdd (t : Nat) (p : Pred) (o : FmtCR3) (s : State) : Host.Outcome State Fault Refusal :=
  .next (dataOp t p o.d (fun c => wrap32 (c.dv o.a + c.dv o.b)) s)

def execAdds (t : Nat) (p : Pred) (o : FmtCR3) (s : State) : Host.Outcome State Fault Refusal :=
  .next (dataOp t p o.d (fun c => satur32 (c.dv o.a + c.dv o.b)) s)

def execSub (t : Nat) (p : Pred) (o : FmtCR3) (s : State) : Host.Outcome State Fault Refusal :=
  .next (dataOp t p o.d (fun c => wrap32 (c.dv o.a - c.dv o.b)) s)

def execSubs (t : Nat) (p : Pred) (o : FmtCR3) (s : State) : Host.Outcome State Fault Refusal :=
  .next (dataOp t p o.d (fun c => satur32 (c.dv o.a - c.dv o.b)) s)

def execNeg (t : Nat) (p : Pred) (o : FmtCR3) (s : State) : Host.Outcome State Fault Refusal :=
  .next (dataOp t p o.d (fun c => wrap32 (-(c.dv o.a))) s)

def execNegs (t : Nat) (p : Pred) (o : FmtCR3) (s : State) : Host.Outcome State Fault Refusal :=
  .next (dataOp t p o.d (fun c => satur32 (-(c.dv o.a))) s)

def iabs (x : Int) : Int := if x < 0 then -x else x

def execAbs (t : Nat) (p : Pred) (o : FmtCR3) (s : State) : Host.Outcome State Fault Refusal :=
  .next (dataOp t p o.d (fun c => wrap32 (iabs (c.dv o.a))) s)

def execAbss (t : Nat) (p : Pred) (o : FmtCR3) (s : State) : Host.Outcome State Fault Refusal :=
  .next (dataOp t p o.d (fun c => satur32 (iabs (c.dv o.a))) s)

def execMin (t : Nat) (p : Pred) (o : FmtCR3) (s : State) : Host.Outcome State Fault Refusal :=
  .next (dataOp t p o.d (fun c => plain (if c.dv o.a ≤ c.dv o.b then c.dw o.a else c.dw o.b)) s)

def execMax (t : Nat) (p : Pred) (o : FmtCR3) (s : State) : Host.Outcome State Fault Refusal :=
  .next (dataOp t p o.d (fun c => plain (if c.dv o.a ≤ c.dv o.b then c.dw o.b else c.dw o.a)) s)

def execAnd (t : Nat) (p : Pred) (o : FmtCR3) (s : State) : Host.Outcome State Fault Refusal :=
  .next (dataOp t p o.d (fun c => plain (c.dw o.a &&& c.dw o.b)) s)

def execOr (t : Nat) (p : Pred) (o : FmtCR3) (s : State) : Host.Outcome State Fault Refusal :=
  .next (dataOp t p o.d (fun c => plain (c.dw o.a ||| c.dw o.b)) s)

def execXor (t : Nat) (p : Pred) (o : FmtCR3) (s : State) : Host.Outcome State Fault Refusal :=
  .next (dataOp t p o.d (fun c => plain (c.dw o.a ^^^ c.dw o.b)) s)

def execShl (t : Nat) (p : Pred) (o : FmtCR3) (s : State) : Host.Outcome State Fault Refusal :=
  .next (dataOp t p o.d (fun c => wrap32 (c.dv o.a * 2 ^ (o.s % 32))) s)

def execShls (t : Nat) (p : Pred) (o : FmtCR3) (s : State) : Host.Outcome State Fault Refusal :=
  .next (dataOp t p o.d (fun c => satur32 (c.dv o.a * 2 ^ (o.s % 32))) s)

def execAsr (t : Nat) (p : Pred) (o : FmtCR3) (s : State) : Host.Outcome State Fault Refusal :=
  .next (dataOp t p o.d (fun c => plain (wdi (c.dv o.a / 2 ^ (o.s % 32)))) s)

def execAsrr (t : Nat) (p : Pred) (o : FmtCR3) (s : State) : Host.Outcome State Fault Refusal :=
  .next (dataOp t p o.d (fun c => plain (wdi (rhu (c.dv o.a) (o.s % 32)))) s)

def execLsr (t : Nat) (p : Pred) (o : FmtCR3) (s : State) : Host.Outcome State Fault Refusal :=
  .next (dataOp t p o.d (fun c => plain (wd ((c.dw o.a).toNat / 2 ^ (o.s % 32)))) s)

def execAddi (t : Nat) (p : Pred) (o : FmtCI) (s : State) : Host.Outcome State Fault Refusal :=
  .next (dataOp t p o.d (fun c => wrap32 (c.dv o.a + immS 10 o.imm)) s)

def execAddis (t : Nat) (p : Pred) (o : FmtCI) (s : State) : Host.Outcome State Fault Refusal :=
  .next (dataOp t p o.d (fun c => satur32 (c.dv o.a + immS 10 o.imm)) s)

/-! ### Compares and predicate logic -/

/-- A scalar compare: 0xFF or 0x00 into P(d) (Table 4.9). -/
def cmpOp (t : Nat) (p : Pred) (o : FmtCR3) (r : Int → Int → Bool) (s : State) : State :=
  computeOp t p (!isPred o.d) false (fun c _ => wP o.d (if r (c.dv o.a) (c.dv o.b) then 255 else 0)) s

def execCmpeq (t : Nat) (p : Pred) (o : FmtCR3) (s : State) : Host.Outcome State Fault Refusal :=
  .next (cmpOp t p o (fun a b => decide (a = b)) s)

def execCmplt (t : Nat) (p : Pred) (o : FmtCR3) (s : State) : Host.Outcome State Fault Refusal :=
  .next (cmpOp t p o (fun a b => decide (a < b)) s)

def execCmple (t : Nat) (p : Pred) (o : FmtCR3) (s : State) : Host.Outcome State Fault Refusal :=
  .next (cmpOp t p o (fun a b => decide (a ≤ b)) s)

/-- The lanes of a mask: `f k` where bit k of `m` is 1, else bit k of `old`. -/
def laneBits (m old : Nat) (f : Nat → Bool) : Nat :=
  forN 8 0 (fun acc k => acc + (if (if m.testBit k then f k else old.testBit k) then 2 ^ k else 0))

/-- A vector compare: bit k of P(d) in the lanes that execute. -/
def vcmpOp (t : Nat) (p : Pred) (o : FmtCR3) (r : Int → Int → Bool) (s : State) : State :=
  computeOp t p (!isPred o.d || !isVec o.a || !isVec o.b) true
    (fun c m => if m = 0 then Writes.none else wP o.d (laneBits m (c.pw o.d).toNat (fun k => r (c.dv (o.a + k)) (c.dv (o.b + k))))) s

def execVcmpeq (t : Nat) (p : Pred) (o : FmtCR3) (s : State) : Host.Outcome State Fault Refusal :=
  .next (vcmpOp t p o (fun a b => decide (a = b)) s)

def execVcmplt (t : Nat) (p : Pred) (o : FmtCR3) (s : State) : Host.Outcome State Fault Refusal :=
  .next (vcmpOp t p o (fun a b => decide (a < b)) s)

def execVcmple (t : Nat) (p : Pred) (o : FmtCR3) (s : State) : Host.Outcome State Fault Refusal :=
  .next (vcmpOp t p o (fun a b => decide (a ≤ b)) s)

/-- Predicate logic by S = 0 to 3; a larger S is out of its range (R246). -/
def plog (sel : Nat) (a b : BitVec 8) : BitVec 8 :=
  match sel with
  | 0 => a &&& b
  | 1 => a ||| b
  | 2 => a &&& ~~~b
  | _ => ~~~a

def execPlog (t : Nat) (p : Pred) (o : FmtCR3) (s : State) : Host.Outcome State Fault Refusal :=
  .next (computeOp t p (!isPred o.d || !isPred o.a || !isPred o.b || !decide (o.s < 4)) false
    (fun c _ => wP o.d (plog o.s (c.pw o.a) (c.pw o.b)).toNat) s)

/-! ### Multiply-accumulate (R243, R244) -/

/-- A scalar multiply: the new value of ACCn from its old value and the product. -/
def mulOp (t : Nat) (p : Pred) (o : FmtCM) (f : Int → Int → BitVec 80 × Nat) (s : State) : State :=
  computeOp t p (o.z != 0) false (fun c _ => wA o.acc (f (c.av o.acc) (c.dv o.a * c.dv o.b))) s

def execMul (t : Nat) (p : Pred) (o : FmtCM) (s : State) : Host.Outcome State Fault Refusal :=
  .next (mulOp t p o (fun _ x => wrap80 x) s)

def execMac (t : Nat) (p : Pred) (o : FmtCM) (s : State) : Host.Outcome State Fault Refusal :=
  .next (mulOp t p o (fun a x => wrap80 (a + x)) s)

def execMacs (t : Nat) (p : Pred) (o : FmtCM) (s : State) : Host.Outcome State Fault Refusal :=
  .next (mulOp t p o (fun a x => satur80 (a + x)) s)

def execMsu (t : Nat) (p : Pred) (o : FmtCM) (s : State) : Host.Outcome State Fault Refusal :=
  .next (mulOp t p o (fun a x => wrap80 (a - x)) s)

def execMsus (t : Nat) (p : Pred) (o : FmtCM) (s : State) : Host.Outcome State Fault Refusal :=
  .next (mulOp t p o (fun a x => satur80 (a - x)) s)

/-- The exact sum of the eight products (R244). -/
def Core.dot (c : Core) (a b : Nat) : Int := forN 8 0 (fun x k => x + c.dv (a + k) * c.dv (b + k))

/-- A dot product, a scalar operation on one accumulator. -/
def dotOp (t : Nat) (p : Pred) (o : FmtCM) (f : Int → Int → BitVec 80 × Nat) (s : State) : State :=
  computeOp t p (o.z != 0 || !isVec o.a || !isVec o.b) false
    (fun c _ => wA o.acc (f (c.av o.acc) (c.dot o.a o.b))) s

def execDot8z (t : Nat) (p : Pred) (o : FmtCM) (s : State) : Host.Outcome State Fault Refusal :=
  .next (dotOp t p o (fun _ x => wrap80 x) s)

def execDot8 (t : Nat) (p : Pred) (o : FmtCM) (s : State) : Host.Outcome State Fault Refusal :=
  .next (dotOp t p o (fun a x => wrap80 (a + x)) s)

def execDot8s (t : Nat) (p : Pred) (o : FmtCM) (s : State) : Host.Outcome State Fault Refusal :=
  .next (dotOp t p o (fun a x => satur80 (a + x)) s)

/-- A per-lane multiply: ACCk in the lanes that execute. -/
def vmacOp (t : Nat) (p : Pred) (o : FmtCM) (f : Int → Int → BitVec 80 × Nat) (s : State) : State :=
  computeOp t p (o.z != 0 || !isVec o.a || !isVec o.b) true
    (fun c m => forN 8 Writes.none (fun w k =>
      if m.testBit k then
        let r := f (c.av k) (c.dv (o.a + k) * c.dv (o.b + k))
        { w with acc := w.acc ++ [(k, r.1)], fl := w.fl ||| r.2 }
      else w)) s

def execVmac8z (t : Nat) (p : Pred) (o : FmtCM) (s : State) : Host.Outcome State Fault Refusal :=
  .next (vmacOp t p o (fun _ x => wrap80 x) s)

def execVmac8 (t : Nat) (p : Pred) (o : FmtCM) (s : State) : Host.Outcome State Fault Refusal :=
  .next (vmacOp t p o (fun a x => wrap80 (a + x)) s)

def execVmac8s (t : Nat) (p : Pred) (o : FmtCM) (s : State) : Host.Outcome State Fault Refusal :=
  .next (vmacOp t p o (fun a x => satur80 (a + x)) s)

def execVmsu8 (t : Nat) (p : Pred) (o : FmtCM) (s : State) : Host.Outcome State Fault Refusal :=
  .next (vmacOp t p o (fun a x => wrap80 (a - x)) s)

def execVmsu8s (t : Nat) (p : Pred) (o : FmtCM) (s : State) : Host.Outcome State Fault Refusal :=
  .next (vmacOp t p o (fun a x => satur80 (a - x)) s)

/-! ### Accumulators -/

/-- An operation of format CN from an accumulator into Dd. -/
def accToData (t : Nat) (p : Pred) (o : FmtCN) (f : Int → Word × Nat) (s : State) : State :=
  computeOp t p (o.z != 0) false (fun c _ => wD o.d (f (c.av o.acc))) s

def execRnd (t : Nat) (p : Pred) (o : FmtCN) (s : State) : Host.Outcome State Fault Refusal :=
  .next (accToData t p o (fun a => satur32 (rhu a (o.sh % 64))) s)

def execRndw (t : Nat) (p : Pred) (o : FmtCN) (s : State) : Host.Outcome State Fault Refusal :=
  .next (accToData t p o (fun a => wrap32 (rhu a (o.sh % 64))) s)

def execTrn (t : Nat) (p : Pred) (o : FmtCN) (s : State) : Host.Outcome State Fault Refusal :=
  .next (accToData t p o (fun a => satur32 (a / 2 ^ (o.sh % 64))) s)

/-- AMOV shifts by 0 to 47; more faults (R246). -/
def execAmov (t : Nat) (p : Pred) (o : FmtCN) (s : State) : Host.Outcome State Fault Refusal :=
  .next (computeOp t p (o.z != 0 || !decide (o.sh ≤ 47)) false
    (fun c _ => wA o.acc (wrap80 (c.dv o.d * 2 ^ o.sh))) s)

/-- AADD and AADDS: D[2:0] names the second accumulator, D[4:3] must be 0 (R243). -/
def aaddOp (t : Nat) (p : Pred) (o : FmtCN) (f : Int → BitVec 80 × Nat) (s : State) : State :=
  computeOp t p (o.z != 0 || !decide (o.d < 8)) false (fun c _ => wA o.acc (f (c.av o.acc + c.av o.d))) s

def execAadd (t : Nat) (p : Pred) (o : FmtCN) (s : State) : Host.Outcome State Fault Refusal :=
  .next (aaddOp t p o wrap80 s)

def execAadds (t : Nat) (p : Pred) (o : FmtCN) (s : State) : Host.Outcome State Fault Refusal :=
  .next (aaddOp t p o satur80 s)

/-- ASH: the shift is the signed 6-bit field. -/
def ash (a sh : Int) : BitVec 80 × Nat :=
  if 0 ≤ sh then satur80 (a * 2 ^ sh.toNat) else wrap80 (a / 2 ^ (-sh).toNat)

def execAsh (t : Nat) (p : Pred) (o : FmtCN) (s : State) : Host.Outcome State Fault Refusal :=
  .next (computeOp t p (o.z != 0) false (fun c _ => wA o.acc (ash (c.av o.acc) (signed 6 o.sh))) s)

/-- ACLR: one accumulator, or all with D[0] = 1; D[4:1] must be 0 (R243). -/
def execAclr (t : Nat) (p : Pred) (o : FmtCN) (s : State) : Host.Outcome State Fault Refusal :=
  .next (computeOp t p (o.z != 0 || !decide (o.d < 2)) false
    (fun _ _ => if o.d = 1 then ⟨[], (List.range 8).map (fun k => (k, 0)), [], 0⟩ else wA o.acc (0, 0)) s)

/-! ### Search (R247 to R254) -/

/-- The search state of a lane: VAL, IDX and STEP. -/
structure SearchLane where
  val : Int
  idx : Nat
  stp : Nat

def searchLane (a : BitVec 80) : SearchLane :=
  ⟨(BitVec.ofNat 32 a.toNat).toInt, a.toNat / 2 ^ 32 % 2 ^ 32, a.toNat / 2 ^ 64⟩

def SearchLane.pack (l : SearchLane) : BitVec 80 :=
  BitVec.ofNat 80 (l.stp % 65536 * 2 ^ 64 + l.idx % 2 ^ 32 * 2 ^ 32 + (wdi l.val).toNat)

def emptyIdx : Nat := 0xFFFFFFFF

/-- The VAL of an empty lane: the least for a maximum, the greatest for a minimum (R250, R253). -/
def searchStart (mn : Nat) : Int := if mn = 0 then -2147483648 else 2147483647

def execSinit (t : Nat) (p : Pred) (o : FmtCS) (s : State) : Host.Outcome State Fault Refusal :=
  .next (computeOp t p (o.z != 0) false
    (fun _ _ => ⟨[], (List.range 8).map (fun k => (k, (SearchLane.mk (searchStart o.mn) emptyIdx 0).pack)), [], 0⟩) s)

/-- One search step of a lane (R251): whether it replaces, then STEP + 1; and whether STEP wraps. -/
def searchStep (better : Int → Int → Bool) (live : Bool) (k : Nat) (e : Int) (l : SearchLane) : SearchLane × Bool :=
  let l' := if live && (l.idx == emptyIdx || better e l.val) then { l with val := e, idx := 8 * l.stp + k } else l
  ({ l' with stp := (l.stp + 1) % 65536 }, l.stp == 65535)

def searchOp (t : Nat) (p : Pred) (o : FmtCS) (better : Int → Int → Bool) (s : State) : State :=
  computeOp t p (o.z != 0 || !isVec o.a) true
    (fun c m => forN 8 Writes.none (fun w k =>
      let r := searchStep better (m.testBit k) k (c.dv (o.a + k)) (searchLane (c.aw k))
      { w with acc := w.acc ++ [(k, r.1.pack)], fl := w.fl ||| (if r.2 then flagSX else 0) })) s

def execSmax (t : Nat) (p : Pred) (o : FmtCS) (s : State) : Host.Outcome State Fault Refusal :=
  .next (searchOp t p o (fun e v => decide (v < e)) s)

def execSmin (t : Nat) (p : Pred) (o : FmtCS) (s : State) : Host.Outcome State Fault Refusal :=
  .next (searchOp t p o (fun e v => decide (e < v)) s)

/-- The best VAL and its lowest IDX among the lanes that are not empty (R253). -/
def searchBest (mn : Nat) (l : List SearchLane) : Int × Nat :=
  l.foldl (fun b x =>
    if x.idx = emptyIdx then b
    else if b.2 = emptyIdx then (x.val, x.idx)
    else if (if mn = 0 then b.1 < x.val else x.val < b.1) then (x.val, x.idx)
    else if x.val = b.1 ∧ x.idx < b.2 then (x.val, x.idx)
    else b) (searchStart mn, emptyIdx)

def execSred (t : Nat) (p : Pred) (o : FmtCS) (s : State) : Host.Outcome State Fault Refusal :=
  .next (computeOp t p (o.z != 0 || o.d % 32 == o.a % 32) false
    (fun c _ =>
      let b := searchBest o.mn ((List.range 8).map (fun k => searchLane (c.aw k)))
      ⟨[(o.d, wdi b.1), (o.a, wd b.2)], [], [], 0⟩) s)

end Sys2Proof.Machine
end

