-- ==== Sys2Proof/Machine/Dispatch.lean ====
section
/-! DEFINITION. The dispatch of a command to its meaning: one arm per constructor of Instr. -/

namespace Sys2Proof.Machine

def exec (i : Instr) (s : State) : Host.Outcome State Fault Refusal :=
  match i with
  | .registerWrite m addr v => Sys2Proof.Machine.execRegisterWrite m addr v s
  | .rcRead addr => Sys2Proof.Machine.execRcRead addr s
  | .clhTransaction m id wr addr size beats data strobes lock => Sys2Proof.Machine.execClhTransaction m id wr addr size beats data strobes lock s
  | .burstGrant target => Sys2Proof.Machine.execBurstGrant target s
  | .transactionRetire m id => Sys2Proof.Machine.execTransactionRetire m id s
  | .lockTimeout target => Sys2Proof.Machine.execLockTimeout target s
  | .masterResetComplete m => Sys2Proof.Machine.execMasterResetComplete m s
  | .bistEnd failed => Sys2Proof.Machine.execBistEnd failed s
  | .xspCommandDone ok => Sys2Proof.Machine.execXspCommandDone ok s
  | .hspiWrite addr ws full => Sys2Proof.Machine.execHspiWrite addr ws full s
  | .hspiRead addr n => Sys2Proof.Machine.execHspiRead addr n s
  | .hostResetRequest v => Sys2Proof.Machine.execHostResetRequest v s
  | .stwResetRequest v => Sys2Proof.Machine.execStwResetRequest v s
  | .watchdogKick v => Sys2Proof.Machine.execWatchdogKick v s
  | .pwrCtrlWrite v => Sys2Proof.Machine.execPwrCtrlWrite v s
  | .domainSwitchComplete d => Sys2Proof.Machine.execDomainSwitchComplete d s
  | .trainingComplete host ld => Sys2Proof.Machine.execTrainingComplete host ld s
  | .keywayLinkDown host errs => Sys2Proof.Machine.execKeywayLinkDown host errs s
  | .block m => Sys2Proof.Machine.execBlock m s
  | .envelope m => Sys2Proof.Machine.execEnvelope m s
  | .cmd m => Sys2Proof.Machine.execCmd m s
  | .cmdack m => Sys2Proof.Machine.execCmdack m s
  | .status m => Sys2Proof.Machine.execStatus m s
  | .sense m => Sys2Proof.Machine.execSense m s
  | .fault m => Sys2Proof.Machine.execFault m s
  | .fbusToField m => Sys2Proof.Machine.execFbusToField m s
  | .fbusToHost m => Sys2Proof.Machine.execFbusToHost m s
  | .hostHeartbeat m => Sys2Proof.Machine.execHostHeartbeat m s
  | .fieldHeartbeat m => Sys2Proof.Machine.execFieldHeartbeat m s
  | .proxyAccess m wr addr v => Sys2Proof.Machine.execProxyAccess m wr addr v s
  | .force v => Sys2Proof.Machine.execForce v s
  | .exit v => Sys2Proof.Machine.execExit v s
  | .finMeasurement ohms => Sys2Proof.Machine.execFinMeasurement ohms s
  | .foutClr v => Sys2Proof.Machine.execFoutClr v s
  | .rel v => Sys2Proof.Machine.execRel v s
  | .reload v => Sys2Proof.Machine.execReload v s
  | .playerGo p v => Sys2Proof.Machine.execPlayerGo p v s
  | .playerStop p v => Sys2Proof.Machine.execPlayerStop p v s
  | .overrideRepeat c => Sys2Proof.Machine.execOverrideRepeat c s
  | .start c => Sys2Proof.Machine.execStart c s
  | .stop c => Sys2Proof.Machine.execStop c s
  | .clear c => Sys2Proof.Machine.execClear c s
  | .startSequence c => Sys2Proof.Machine.execStartSequence c s
  | .enableTimeElapsed c => Sys2Proof.Machine.execEnableTimeElapsed c s
  | .hold50Complete c => Sys2Proof.Machine.execHold50Complete c s
  | .rampInComplete c => Sys2Proof.Machine.execRampInComplete c s
  | .stopRampOutComplete c => Sys2Proof.Machine.execStopRampOutComplete c s
  | .stopHold50Complete c => Sys2Proof.Machine.execStopHold50Complete c s
  | .stopEnableTimeElapsed c => Sys2Proof.Machine.execStopEnableTimeElapsed c s
  | .carrierPeriod c => Sys2Proof.Machine.execCarrierPeriod c s
  | .boostPeriod p rail bus => Sys2Proof.Machine.execBoostPeriod p rail bus s
  | .hswWrite v => Sys2Proof.Machine.execHswWrite v s
  | .takeoverStart v => Sys2Proof.Machine.execTakeoverStart v s
  | .hswtElapsed c => Sys2Proof.Machine.execHswtElapsed c s
  | .avoidanceRun v => Sys2Proof.Machine.execAvoidanceRun v s
  | .carrierModeWrite v => Sys2Proof.Machine.execCarrierModeWrite v s
  | .ilimCrossing c mv ticks => Sys2Proof.Machine.execIlimCrossing c mv ticks s
  | .iscCrossing c mv => Sys2Proof.Machine.execIscCrossing c mv s
  | .fltAssert c => Sys2Proof.Machine.execFltAssert c s
  | .lineOverVoltage c mv => Sys2Proof.Machine.execLineOverVoltage c mv s
  | .retry c => Sys2Proof.Machine.execRetry c s
  | .probeComplete c => Sys2Proof.Machine.execProbeComplete c s
  | .dcOffset c mv => Sys2Proof.Machine.execDcOffset c mv s
  | .ntcWarning k mv => Sys2Proof.Machine.execNtcWarning k mv s
  | .ntcTrip k mv => Sys2Proof.Machine.execNtcTrip k mv s
  | .thermalRestore k mv => Sys2Proof.Machine.execThermalRestore k mv s
  | .boostOverCurrent p mv => Sys2Proof.Machine.execBoostOverCurrent p mv s
  | .boostOcPersist p => Sys2Proof.Machine.execBoostOcPersist p s
  | .boostRetry p => Sys2Proof.Machine.execBoostRetry p s
  | .boostOverVoltage p rail => Sys2Proof.Machine.execBoostOverVoltage p rail s
  | .railOverVoltage p rail => Sys2Proof.Machine.execRailOverVoltage p rail s
  | .impedanceEstimate c vs is => Sys2Proof.Machine.execImpedanceEstimate c vs is s
  | .pilotStart c => Sys2Proof.Machine.execPilotStart c s
  | .earthLeakage mv => Sys2Proof.Machine.execEarthLeakage mv s
  | .f0FrameReceived f => Sys2Proof.Machine.execF0FrameReceived f s
  | .f0Transmit deferred => Sys2Proof.Machine.execF0Transmit deferred s
  | .f0Collision late deferred => Sys2Proof.Machine.execF0Collision late deferred s
  | .macCfgWrite p v => Sys2Proof.Machine.execMacCfgWrite p v s
  | .portLinkUp p => Sys2Proof.Machine.execPortLinkUp p s
  | .portLinkDown p lfault rfault => Sys2Proof.Machine.execPortLinkDown p lfault rfault s
  | .frameReceived p f eighth => Sys2Proof.Machine.execFrameReceived p f eighth s
  | .frameOffered p q f => Sys2Proof.Machine.execFrameOffered p q f s
  | .portTransmit p eighth => Sys2Proof.Machine.execPortTransmit p eighth s
  | .subscriptionEnable sub v => Sys2Proof.Machine.execSubscriptionEnable sub v s
  | .transmitStreamEnable str v => Sys2Proof.Machine.execTransmitStreamEnable str v s
  | .aes67StreamEnable tx str v => Sys2Proof.Machine.execAes67StreamEnable tx str v s
  | .streamLoss sub => Sys2Proof.Machine.execStreamLoss sub s
  | .rateCommit view v => Sys2Proof.Machine.execRateCommit view v s
  | .rateTakesEffect view => Sys2Proof.Machine.execRateTakesEffect view s
  | .set view => Sys2Proof.Machine.execSet view s
  | .step view => Sys2Proof.Machine.execStep view s
  | .slew view => Sys2Proof.Machine.execSlew view s
  | .cancel view => Sys2Proof.Machine.execCancel view s
  | .slewDone view => Sys2Proof.Machine.execSlewDone view s
  | .activeWrite v => Sys2Proof.Machine.execActiveWrite v s
  | .jclr v => Sys2Proof.Machine.execJclr v s
  | .snap v => Sys2Proof.Machine.execSnap v s
  | .align v => Sys2Proof.Machine.execAlign v s
  | .pulseEnable v => Sys2Proof.Machine.execPulseEnable v s
  | .ptpMessage inst m => Sys2Proof.Machine.execPtpMessage inst m s
  | .rscMeasurement ms => Sys2Proof.Machine.execRscMeasurement ms s
  | .buildoutComplete ofs resid => Sys2Proof.Machine.execBuildoutComplete ofs resid s
  | .rscOpen v => Sys2Proof.Machine.execRscOpen v s
  | .rscClose v phase => Sys2Proof.Machine.execRscClose v phase s
  | .ncoWrite v => Sys2Proof.Machine.execNcoWrite v s
  | .rscFreerun v => Sys2Proof.Machine.execRscFreerun v s
  | .groupMixEnd parity => Sys2Proof.Machine.execGroupMixEnd parity s
  | .sinkChainGroup g => Sys2Proof.Machine.execSinkChainGroup g s
  | .pstEnWrite v => Sys2Proof.Machine.execPstEnWrite v s
  | .pstCutWrite v => Sys2Proof.Machine.execPstCutWrite v s
  | .pstWinWrite v => Sys2Proof.Machine.execPstWinWrite v s
  | .firstRunStart t ctx => Sys2Proof.Machine.execFirstRunStart t ctx s
  | .rerunStart t ctx => Sys2Proof.Machine.execRerunStart t ctx s
  | .taskOverrun t => Sys2Proof.Machine.execTaskOverrun t s
  | .windowWatchdog t => Sys2Proof.Machine.execWindowWatchdog t s
  | .tellerReset t => Sys2Proof.Machine.execTellerReset t s
  | .ldfResponse t => Sys2Proof.Machine.execLdfResponse t s
  | .ldfTimeout t => Sys2Proof.Machine.execLdfTimeout t s
  | .stfError addr => Sys2Proof.Machine.execStfError addr s
  | .contextEnable v => Sys2Proof.Machine.execContextEnable v s
  | .contextDisable v => Sys2Proof.Machine.execContextDisable v s
  | .swapGo v => Sys2Proof.Machine.execSwapGo v s
  | .nop t moveSlot w => Sys2Proof.Machine.execNop t moveSlot w s
  | .add t p o => Sys2Proof.Machine.execAdd t p o s
  | .adds t p o => Sys2Proof.Machine.execAdds t p o s
  | .sub t p o => Sys2Proof.Machine.execSub t p o s
  | .subs t p o => Sys2Proof.Machine.execSubs t p o s
  | .neg t p o => Sys2Proof.Machine.execNeg t p o s
  | .negs t p o => Sys2Proof.Machine.execNegs t p o s
  | .abs t p o => Sys2Proof.Machine.execAbs t p o s
  | .abss t p o => Sys2Proof.Machine.execAbss t p o s
  | .min t p o => Sys2Proof.Machine.execMin t p o s
  | .max t p o => Sys2Proof.Machine.execMax t p o s
  | .and t p o => Sys2Proof.Machine.execAnd t p o s
  | .or t p o => Sys2Proof.Machine.execOr t p o s
  | .xor t p o => Sys2Proof.Machine.execXor t p o s
  | .shl t p o => Sys2Proof.Machine.execShl t p o s
  | .shls t p o => Sys2Proof.Machine.execShls t p o s
  | .asr t p o => Sys2Proof.Machine.execAsr t p o s
  | .asrr t p o => Sys2Proof.Machine.execAsrr t p o s
  | .lsr t p o => Sys2Proof.Machine.execLsr t p o s
  | .addi t p o => Sys2Proof.Machine.execAddi t p o s
  | .addis t p o => Sys2Proof.Machine.execAddis t p o s
  | .cmpeq t p o => Sys2Proof.Machine.execCmpeq t p o s
  | .cmplt t p o => Sys2Proof.Machine.execCmplt t p o s
  | .cmple t p o => Sys2Proof.Machine.execCmple t p o s
  | .vcmpeq t p o => Sys2Proof.Machine.execVcmpeq t p o s
  | .vcmplt t p o => Sys2Proof.Machine.execVcmplt t p o s
  | .vcmple t p o => Sys2Proof.Machine.execVcmple t p o s
  | .plog t p o => Sys2Proof.Machine.execPlog t p o s
  | .mul t p o => Sys2Proof.Machine.execMul t p o s
  | .mac t p o => Sys2Proof.Machine.execMac t p o s
  | .macs t p o => Sys2Proof.Machine.execMacs t p o s
  | .msu t p o => Sys2Proof.Machine.execMsu t p o s
  | .msus t p o => Sys2Proof.Machine.execMsus t p o s
  | .dot8z t p o => Sys2Proof.Machine.execDot8z t p o s
  | .dot8 t p o => Sys2Proof.Machine.execDot8 t p o s
  | .dot8s t p o => Sys2Proof.Machine.execDot8s t p o s
  | .vmac8z t p o => Sys2Proof.Machine.execVmac8z t p o s
  | .vmac8 t p o => Sys2Proof.Machine.execVmac8 t p o s
  | .vmac8s t p o => Sys2Proof.Machine.execVmac8s t p o s
  | .vmsu8 t p o => Sys2Proof.Machine.execVmsu8 t p o s
  | .vmsu8s t p o => Sys2Proof.Machine.execVmsu8s t p o s
  | .rnd t p o => Sys2Proof.Machine.execRnd t p o s
  | .rndw t p o => Sys2Proof.Machine.execRndw t p o s
  | .trn t p o => Sys2Proof.Machine.execTrn t p o s
  | .amov t p o => Sys2Proof.Machine.execAmov t p o s
  | .aadd t p o => Sys2Proof.Machine.execAadd t p o s
  | .aadds t p o => Sys2Proof.Machine.execAadds t p o s
  | .ash t p o => Sys2Proof.Machine.execAsh t p o s
  | .aclr t p o => Sys2Proof.Machine.execAclr t p o s
  | .sinit t p o => Sys2Proof.Machine.execSinit t p o s
  | .smax t p o => Sys2Proof.Machine.execSmax t p o s
  | .smin t p o => Sys2Proof.Machine.execSmin t p o s
  | .sred t p o => Sys2Proof.Machine.execSred t p o s
  | .ldw t p o => Sys2Proof.Machine.execLdw t p o s
  | .ldh t p o => Sys2Proof.Machine.execLdh t p o s
  | .ldv t p o => Sys2Proof.Machine.execLdv t p o s
  | .stw t p o => Sys2Proof.Machine.execStw t p o s
  | .sth t p o => Sys2Proof.Machine.execSth t p o s
  | .stv t p o => Sys2Proof.Machine.execStv t p o s
  | .str t p o => Sys2Proof.Machine.execStr t p o s
  | .strv t p o => Sys2Proof.Machine.execStrv t p o s
  | .ldf t p o => Sys2Proof.Machine.execLdf t p o s
  | .stf t p o => Sys2Proof.Machine.execStf t p o s
  | .movr t p o => Sys2Proof.Machine.execMovr t p o s
  | .movc t p o => Sys2Proof.Machine.execMovc t p o s
  | .modi t p ireg imm => Sys2Proof.Machine.execModi t p ireg imm s
  | .br t p off => Sys2Proof.Machine.execBr t p off s
  | .call t p off => Sys2Proof.Machine.execCall t p off s
  | .ret t p => Sys2Proof.Machine.execRet t p s
  | .loop t p o => Sys2Proof.Machine.execLoop t p o s
  | .endRun t p => Sys2Proof.Machine.execEndRun t p s
  | .sig t p n => Sys2Proof.Machine.execSig t p n s
  | .evr t p n => Sys2Proof.Machine.execEvr t p n s
  | .ld2i t o => Sys2Proof.Machine.execLd2i t o s
  | .ldi t reg imm z => Sys2Proof.Machine.execLdi t reg imm z s
  | .gainStoreWrite addr codes => Sys2Proof.Machine.execGainStoreWrite addr codes s
  | .chgvWrite v => Sys2Proof.Machine.execChgvWrite v s
  | .holdWrite v => Sys2Proof.Machine.execHoldWrite v s
  | .rampTableWrite addr ws => Sys2Proof.Machine.execRampTableWrite addr ws s
  | .ramptWrite k v => Sys2Proof.Machine.execRamptWrite k v s
  | .repoint v => Sys2Proof.Machine.execRepoint v s
  | .excCfgWrite c v => Sys2Proof.Machine.execExcCfgWrite c v s
  | .acquireLock c => Sys2Proof.Machine.execAcquireLock c s
  | .inputLoss c rate => Sys2Proof.Machine.execInputLoss c rate s
  | .phaseError c => Sys2Proof.Machine.execPhaseError c s
  | .inputResume c rate => Sys2Proof.Machine.execInputResume c rate s
  | .syncRatioCheck c dev => Sys2Proof.Machine.execSyncRatioCheck c dev s
  | .dcfgWrite k v => Sys2Proof.Machine.execDcfgWrite k v s
  | .dlyWrite k v => Sys2Proof.Machine.execDlyWrite k v s
  | .dlenWrite k v => Sys2Proof.Machine.execDlenWrite k v s
  | .limWrite k thr v => Sys2Proof.Machine.execLimWrite k thr v s
  | .sapEnable n v => Sys2Proof.Machine.execSapEnable n v s
  | .sapAlign v => Sys2Proof.Machine.execSapAlign v s
  | .slaveFrame n bits words => Sys2Proof.Machine.execSlaveFrame n bits words s
  | .tillWordReceived n w first => Sys2Proof.Machine.execTillWordReceived n w first s
  | .tillHold n high => Sys2Proof.Machine.execTillHold n high s
  | .tilWmWrite n v => Sys2Proof.Machine.execTilWmWrite n v s
  | .move n => Sys2Proof.Machine.execMove n s
  | .remitLoop n => Sys2Proof.Machine.execRemitLoop n s
  | .wait n => Sys2Proof.Machine.execWait n s
  | .waitConditionMet n => Sys2Proof.Machine.execWaitConditionMet n s
  | .signal n => Sys2Proof.Machine.execSignal n s
  | .link n => Sys2Proof.Machine.execLink n s
  | .remitEnd n => Sys2Proof.Machine.execRemitEnd n s
  | .rmtStart n => Sys2Proof.Machine.execRmtStart n s
  | .halt n => Sys2Proof.Machine.execHalt n s
  | .resume n => Sys2Proof.Machine.execResume n s
  | .abort n => Sys2Proof.Machine.execAbort n s
  | .disable n => Sys2Proof.Machine.execDisable n s
  | .engineDisable v => Sys2Proof.Machine.execEngineDisable v s
  | .doorbell v => Sys2Proof.Machine.execDoorbell v s
  | .rmtPcWrite n v => Sys2Proof.Machine.execRmtPcWrite n v s
  | .channelRetired n => Sys2Proof.Machine.execChannelRetired n s
  | .hngEnable v => Sys2Proof.Machine.execHngEnable v s
  | .hinge port m ts => Sys2Proof.Machine.execHinge port m ts s
  | .receipt folio conc reent => Sys2Proof.Machine.execReceipt folio conc reent s
  | .change efolio acts => Sys2Proof.Machine.execChange efolio acts s
  | .fill str => Sys2Proof.Machine.execFill str s
  | .keywayMessageLaunch fromHost => Sys2Proof.Machine.execKeywayMessageLaunch fromHost s
  | .tillWordSent n => Sys2Proof.Machine.execTillWordSent n s
  | .pulseOutputEdge o eighth => Sys2Proof.Machine.execPulseOutputEdge o eighth s
  | .headerVerify h => Sys2Proof.Machine.execHeaderVerify h s
  | .sectionCheck sec => Sys2Proof.Machine.execSectionCheck sec s
  | .arbAdvance v => Sys2Proof.Machine.execArbAdvance v s
  | .controlMessage m acts => Sys2Proof.Machine.execControlMessage m acts s
  | .setTime m => Sys2Proof.Machine.execSetTime m s
  | .mgmtQuery m regs => Sys2Proof.Machine.execMgmtQuery m regs s
  | .update m addr cmd data => Sys2Proof.Machine.execUpdate m addr cmd data s
  | .restart m => Sys2Proof.Machine.execRestart m s
  | .hspiPostedWriteError addr => Sys2Proof.Machine.execHspiPostedWriteError addr s
  | .braceState below => Sys2Proof.Machine.execBraceState below s
  | .hostSupervisorReset supply => Sys2Proof.Machine.execHostSupervisorReset supply s
  | .hostTemperatureMeasurement tj => Sys2Proof.Machine.execHostTemperatureMeasurement tj s
  | .fieldTemperatureMeasurement tj => Sys2Proof.Machine.execFieldTemperatureMeasurement tj s
  | .scrubPeriod corrected bad => Sys2Proof.Machine.execScrubPeriod corrected bad s
  | .fieldSupplyBelowWarning supply => Sys2Proof.Machine.execFieldSupplyBelowWarning supply s
  | .announceReceiptTimeout inst => Sys2Proof.Machine.execAnnounceReceiptTimeout inst s
  | .disqualification k => Sys2Proof.Machine.execDisqualification k s
  | .announce node flags src imgId partner ntx => Sys2Proof.Machine.execAnnounce node flags src imgId partner ntx s
  | .claim node scope nrec regs => Sys2Proof.Machine.execClaim node scope nrec regs s
  | .streams node recs => Sys2Proof.Machine.execStreams node recs s
  | .query src tag ids => Sys2Proof.Machine.execQuery src tag ids s
  | .reply tag recs => Sys2Proof.Machine.execReply tag recs s
  | .leave node => Sys2Proof.Machine.execLeave node s
  | .claimTimeout scope => Sys2Proof.Machine.execClaimTimeout scope s
  | .recordExpiry node => Sys2Proof.Machine.execRecordExpiry node s
  | .syncInterval inst => Sys2Proof.Machine.execSyncInterval inst s
  | .fieldScrub bad => Sys2Proof.Machine.execFieldScrub bad s
  | .stewardRingPlaceFreed p => Sys2Proof.Machine.execStewardRingPlaceFreed p s
  | .pcsCodeError p => Sys2Proof.Machine.execPcsCodeError p s
  | .tcntLoRead => Sys2Proof.Machine.execTcntLoRead s
  | .kwyFlogRead => Sys2Proof.Machine.execKwyFlogRead s
  | .hostSupplyGood => Sys2Proof.Machine.execHostSupplyGood s
  | .bootRetry => Sys2Proof.Machine.execBootRetry s
  | .serviceLevel2 => Sys2Proof.Machine.execServiceLevel2 s
  | .arbFusesBlown => Sys2Proof.Machine.execArbFusesBlown s
  | .xspEraseSector => Sys2Proof.Machine.execXspEraseSector s
  | .xspProgramPage => Sys2Proof.Machine.execXspProgramPage s
  | .hspiStatus => Sys2Proof.Machine.execHspiStatus s
  | .hspiSync => Sys2Proof.Machine.execHspiSync s
  | .hspiId => Sys2Proof.Machine.execHspiId s
  | .hspiReset => Sys2Proof.Machine.execHspiReset s
  | .hspiCsNRise => Sys2Proof.Machine.execHspiCsNRise s
  | .braceExit => Sys2Proof.Machine.execBraceExit s
  | .hostPinReset => Sys2Proof.Machine.execHostPinReset s
  | .prsntNHigh => Sys2Proof.Machine.execPrsntNHigh s
  | .prsntNRelease => Sys2Proof.Machine.execPrsntNRelease s
  | .fprsntNHigh => Sys2Proof.Machine.execFprsntNHigh s
  | .fprsntNRelease => Sys2Proof.Machine.execFprsntNRelease s
  | .hostInternalReset => Sys2Proof.Machine.execHostInternalReset s
  | .lockstepMismatch => Sys2Proof.Machine.execLockstepMismatch s
  | .stewardReset => Sys2Proof.Machine.execStewardReset s
  | .stewardRuntimeRestart => Sys2Proof.Machine.execStewardRuntimeRestart s
  | .watchdogExpiry => Sys2Proof.Machine.execWatchdogExpiry s
  | .ledgerClearComplete => Sys2Proof.Machine.execLedgerClearComplete s
  | .fieldWarningEnd => Sys2Proof.Machine.execFieldWarningEnd s
  | .fieldSupplyReset => Sys2Proof.Machine.execFieldSupplyReset s
  | .fieldSupplyGood => Sys2Proof.Machine.execFieldSupplyGood s
  | .rootLock => Sys2Proof.Machine.execRootLock s
  | .rootLossOfLock => Sys2Proof.Machine.execRootLossOfLock s
  | .xoFailure => Sys2Proof.Machine.execXoFailure s
  | .lanesAligned host => Sys2Proof.Machine.execLanesAligned host s
  | .laneClockLoss => Sys2Proof.Machine.execLaneClockLoss s
  | .fieldClockSwitch => Sys2Proof.Machine.execFieldClockSwitch s
  | .cmdTimeout => Sys2Proof.Machine.execCmdTimeout s
  | .blockMissing => Sys2Proof.Machine.execBlockMissing s
  | .fieldFolioStart => Sys2Proof.Machine.execFieldFolioStart s
  | .autonomyEntry => Sys2Proof.Machine.execAutonomyEntry s
  | .autonomyExit => Sys2Proof.Machine.execAutonomyExit s
  | .fhbloss => Sys2Proof.Machine.execFhbloss s
  | .strongboxLoadEnd => Sys2Proof.Machine.execStrongboxLoadEnd s
  | .toneBurstEnd => Sys2Proof.Machine.execToneBurstEnd s
  | .sbxEraseSector => Sys2Proof.Machine.execSbxEraseSector s
  | .sbxProgramPage => Sys2Proof.Machine.execSbxProgramPage s
  | .sbxCommandDone => Sys2Proof.Machine.execSbxCommandDone s
  | .avoidanceRunComplete => Sys2Proof.Machine.execAvoidanceRunComplete s
  | .f0BackoffEnd => Sys2Proof.Machine.execF0BackoffEnd s
  | .dvtRelease => Sys2Proof.Machine.execDvtRelease s
  | .junctionDone => Sys2Proof.Machine.execJunctionDone s
  | .folioStart => Sys2Proof.Machine.execFolioStart s
  | .entryCut => Sys2Proof.Machine.execEntryCut s
  | .mixSlotStart => Sys2Proof.Machine.execMixSlotStart s
  | .remixEnd => Sys2Proof.Machine.execRemixEnd s
  | .postingCut => Sys2Proof.Machine.execPostingCut s
  | .waitingBeat => Sys2Proof.Machine.execWaitingBeat s
  | .changeAccept => Sys2Proof.Machine.execChangeAccept s
  | .receiptMissing => Sys2Proof.Machine.execReceiptMissing s
  | .changePerform => Sys2Proof.Machine.execChangePerform s
  | .heartbeatLoss => Sys2Proof.Machine.execHeartbeatLoss s
  | .split => Sys2Proof.Machine.execSplit s
  | .give => Sys2Proof.Machine.execGive s
  | .hngReturn => Sys2Proof.Machine.execHngReturn s
  | .releaseSwitchOpen => Sys2Proof.Machine.execReleaseSwitchOpen s
  | .releaseHswtElapsed => Sys2Proof.Machine.execReleaseHswtElapsed s
  | .periodicAnnounce => Sys2Proof.Machine.execPeriodicAnnounce s
  | .claimInterval => Sys2Proof.Machine.execClaimInterval s
  | .streamsSlot => Sys2Proof.Machine.execStreamsSlot s
  | .rstNRelease => Sys2Proof.Machine.execRstNRelease s
  | .querySlot => Sys2Proof.Machine.execQuerySlot s

end Sys2Proof.Machine
end

