-- ==== Sys2Proof/Machine/Tick.lean ====
section
/-! DEFINITION. What passes when no command waits: one tick of the 1.024 GHz time base. -/

namespace Sys2Proof.Machine

/-- One tick: the model's clock, and TCNT unless the host die is held in reset (R485, R486). What hardware set in the
tick before can be cleared from now on (R25). -/
def tick (s : State) : State :=
  let s := { s with clock := s.clock + 1, setNow := [] }
  if s.hostLive then { s with tim := { s.tim with tcnt := s.tim.tcnt + 1 } } else s

end Sys2Proof.Machine
end

