-- ==== Sys2Proof/Safety.lean ====
section
/-! DEFINITION. What the statements call a good state, what no command changes, and what a run without a stop is. -/

namespace Sys2Proof.Machine

/-- A good state: the memory and the register file stand in their canonical forms (keys strictly rising, no entry equal to
what an unlisted key reads as), so that equal contents are equal data. -/
structure State.Good (s : State) : Prop where
  mem : Memory.wf s.mem = true
  regs : canonBy regReset s.regs = true

/-- What no command of the block touches: the queue of waiting commands, the model's clock, the balls SLOT_ID (R78), and
every fuse but the anti-rollback count (R8, R691); and free values are used once: their counter never falls. -/
structure State.SameFixed (s t : State) : Prop where
  pending : t.pending = s.pending
  clock : t.clock = s.clock
  slotId : t.slotId = s.slotId
  fuse : t.fuse = { s.fuse with arb := t.fuse.arb }
  free : s.free ≤ t.free

/-- A safe run: it stops neither with a fault nor with a refusal. -/
def safe (o : Host.Outcome State Fault Refusal) : Prop := ∃ t, o = .next t

end Sys2Proof.Machine
end

