-- ==== Sys2Proof/Certificates/Slice0/Obligations.lean ====
section
/-! DEFINITION. The statements for the provers: what the block, its registers and every family of commands do. -/

open Sys2Proof.Machine Sys2Proof

/-- A register whose writes have no effect beyond their access types: the blocks CLK, DIS and CLH hold only such. -/
abbrev plainBlock (a : Nat) : Prop := a / 65536 = 0x6002 ∨ a / 65536 = 0x6016 ∨ a / 65536 = 0x6018

/-- A command has changed the registers and the units of the field die only: every host register, every byte of memory and
every other part of the state is as before. -/
def onlyField (s t : State) : Prop :=
  t = { s with
    setNow := t.setNow
    regs := t.regs
    field := t.field } ∧ ∀ a, a < 0x70000000 → t.reg a = s.reg a

/-- Command `i` completes with channel `c` of the field die at `x`, every other channel and the host side as before, and `p`
of the state after it. -/
def chanBecomes (s : State) (i : Instr) (c : Nat) (x : Chan) (p : State → Prop) : Prop :=
  ∃ t, exec i s = .next t ∧ t.chan c = x ∧ (∀ d, d ≠ c → t.chan d = s.chan d) ∧ onlyField s t ∧ p t

/-! ### The block: queue, tick, invariants -/

/-- A command waiting at the front of the queue is performed with the rest of the queue behind it. -/
def Obligations.StepRunsFrontCommand : Prop :=
  ∀ (c : Instr) (rest : List Instr) (s : State), step { s with pending := c :: rest } = exec c { s with pending := rest }

/-- With no command waiting a step lets one tick of 1.024 GHz pass (the model's choice, log entry 2): TCNT is incremented
by 1, modulo 2^64, unless the host die is held in reset, what hardware set in the tick before can be cleared from now on, and
nothing else changes but the model's clock. -/
def Obligations.EmptyQueueTicks : Prop :=
  ∀ s : State, s.pending = [] → step s = .next { s with
    clock := s.clock + 1
    setNow := []
    tim := { s.tim with tcnt := if s.hostLive then s.tim.tcnt + 1 else s.tim.tcnt } }

/-- The state after power-on is good: memory and register file stand in their canonical forms. -/
def Obligations.ResetIsGood : Prop := State.reset.Good

/-- Every step keeps the canonical forms of memory and register file, from every good state. -/
def Obligations.StepKeepsGood : Prop := ∀ s t : State, s.Good → step s = .next t → t.Good

/-- No command touches the queue, the model's clock, the balls SLOT_ID, or a fuse but the anti-rollback count, and the
count of free values used never falls. -/
def Obligations.CommandsKeepFixed : Prop := ∀ (c : Instr) (s t : State), exec c s = .next t → s.SameFixed t

/-- Every command completes: no step of the block stops, and each takes exactly one command from the queue. -/
def Obligations.StepNeverStops : Prop := ∀ s : State, ∃ t, step s = .next t ∧ t.pending = s.pending.tail

/-! ### Registers (R23, R26, R487, R413) -/

/-- The registers that a read shows or changes otherwise than by their RC fields. -/
def readsOtherwise : List Nat :=
  [Reg.TIM_TCNT_LO, Reg.PST_FOLIO_LO, Reg.KWY_FLOG, Reg.SYS_TEMP, Reg.OUT_SGAIN, Reg.DVT_PSKMAX, Reg.TEL_CTXMAX]

/-- REGISTER_WRITE: an access that breaks no rule sets the register by the access types of its bits, bit by bit: RW bits
take the value, W1C bits written 1 clear unless hardware set them in the same tick, W1S bits written 1 set, every other bit
stays; the master is answered OK, and nothing else changes. An access that breaks a rule is answered ERR and leaves every byte
of memory; one to the proxy window is the proxy access. RC_READ answers what the register showed before the read, and its RC fields clear but for bits that hardware set in the
same tick; every other register is unchanged; one in the proxy window is the proxy access. A read of KWY_FLOG takes the oldest
FAULT out of the log; on the ML2560-P it answers 0. -/
def Obligations.RegisterAccess : Prop :=
  ((∀ (s : State) (m : Master) (a : Nat) (v : Word) (r : RegSpec), s.hostLive = true → plainBlock a →
    regSpec? a = some r → s.accessCause m true a 4 1 = 0 →
    exec (.registerWrite m a v) s =
      .next ((s.setReg a (writeByType r (s.reg a) v ||| (s.setHere a &&& wd r.w1c))).answer .ok [])) ∧
  (∀ (r : RegSpec) (old v : Word) (i : Nat), i < 32 → (writeByType r old v).getLsbD i =
    if (wd r.w1s).getLsbD i then old.getLsbD i || v.getLsbD i
    else if (wd r.rw).getLsbD i then v.getLsbD i || ((wd r.w1c).getLsbD i && old.getLsbD i && !v.getLsbD i)
    else if (wd r.w1c).getLsbD i then old.getLsbD i && !v.getLsbD i
    else old.getLsbD i) ∧
  (∀ (s : State) (m : Master) (a : Nat) (v : Word), s.hostLive = true → 0x60000000 ≤ a → a < 0x70000000 →
    s.accessCause m true a 4 1 ≠ 0 →
    ∃ t, exec (.registerWrite m a v) s = .next t ∧ t.ans = ⟨.err, []⟩ ∧ t.mem = s.mem ∧ t.rb Reg.CLH_EVT 0 = true) ∧
  (∀ (s : State) (m : Master) (a : Nat) (v : Word), 0x70000000 ≤ a → a < 0x70100000 →
    exec (.registerWrite m a v) s = exec (.proxyAccess m true a v) s)) ∧
  ((∀ (s : State) (a : Nat) (r : RegSpec), s.hostLive = true → 0x60000000 ≤ a → a < 0x60200000 →
    s.accessCause .stw false a 4 1 = 0 → regSpec? a = some r → a ∉ readsOtherwise →
    ∃ t, exec (.rcRead a) s = .next t ∧ t.ans = ⟨.ok, leBytes (s.regView a).toNat 4⟩ ∧
      t.reg a = ((s.reg a &&& ~~~(wd r.rc)) ||| (s.setHere a &&& wd r.rc)) ∧ ∀ b, b ≠ a → t.reg b = s.reg b) ∧
  (∀ (s : State) (a : Nat), 0x70000000 ≤ a → a < 0x70100000 →
    exec (.rcRead a) s = exec (.proxyAccess .stw false a 0) s) ∧
  (∀ s : State, s.isA = false → exec .kwyFlogRead s = .next (s.answer .ok [0, 0, 0, 0])) ∧
  (∀ (s : State) (e : FaultRec) (l : List FaultRec), s.isA = true → s.kwy.log = e :: l → s.kwy.logOvf = false →
    s.noted (regKey Reg.KWY_FLOG 0) = 0 → exec .kwyFlogRead s = .next ({ s with kwy := { s.kwy with log := l, logOvf := false } }.answer .ok
      (leBytes (2147483648 + e.blk % 16 * 16777216 + e.bit % 32 * 65536 + e.chan % 256 * 256 + e.cause % 256) 4))))

/-- A read of TIM_TCNT_LO latches TCNT[63:32] into TIM_TCNT_HI in the same tick, and answers TCNT[31:0]. -/
def Obligations.TcntLoReadLatches : Prop :=
  ∀ s : State, s.hostLive = true → ∃ t, exec .tcntLoRead s = .next t ∧
    t.reg Reg.TIM_TCNT_HI = wd (s.tim.tcnt.toNat / 4294967296) ∧
    t.ans = ⟨.ok, leBytes (s.tim.tcnt.toNat % 4294967296) 4⟩ ∧ t.tim = s.tim ∧
    ∀ a, a ≠ Reg.TIM_TCNT_HI → t.reg a = s.reg a

/-! ### The Clearinghouse and the host SPI bridge (chapters 11 and 12) -/

/-- No transaction of any master is under way: no response is due, and no proxy access. -/
abbrev fabricIdle (s : State) : Prop :=
  s.clh.inflight = [] ∧ s.kwy.out = none ∧ s.kwy.waiting = [] ∧ s.clh.resetting = []

/-- The transaction that CLH_TRANSACTION brings for a read. -/
def readTxn (m : Master) (id a size beats : Nat) (strobes : List Bool) : Txn :=
  ⟨m, id % 256, false, a, size, beats, [], strobes.take (size * beats), .none, targetOf a⟩

/-- CLH_TRANSACTION and BURST_GRANT: a read that breaks no rule waits at its target and nothing else changes. A read of
Vault-S that alone waits is granted and performed: its bytes are in the response due to its master, but for those at which
the units keep what they hold, and memory and registers are unchanged. A transaction that breaks R588 or R589, or R58 to R60 (a cause of CLH_ERRINFO other than 0), gets an error response and
is not performed: it waits at no target, memory is unchanged, and CLH_EVT.ERR is set. TRANSACTION_RETIRE hands the oldest response of the ID to its master, and a posted write of the host SPI bridge leaves its
queue; LOCK_TIMEOUT forces open a sequence that has been open for 4,096 FABRIC cycles; a master
reset is complete when the last response of its IDs has been discarded. -/
def Obligations.FabricTransactions : Prop :=
  ((∀ (s : State) (m : Master) (id a size beats : Nat) (data : List Byte) (strobes : List Bool), s.hostLive = true →
    s.underReset m (id % 256) = false → s.accessCause m false a size beats = 0 →
    exec (.clhTransaction m id false a size beats data strobes .none) s = .next { s with
      clh := { s.clh with waiting := s.clh.waiting ++ [readTxn m id a size beats strobes] } }) ∧
  (∀ (s : State) (x : Txn), s.hostLive = true → fabricIdle s → s.clh.waiting = [x] → x.wr = false → x.lock = .none →
    x.target = 0 → 0x40000000 ≤ x.addr → x.addr < 0x40E00000 → s.clh.lockV = none →
    s.accessCause x.m false x.addr x.size x.beats = 0 →
    ∃ t d, exec (.burstGrant 0) s = .next t ∧ t.clh.waiting = [] ∧ t.clh.inflight = [⟨x, .ok, d, false⟩] ∧
      d.length = x.size * x.beats ∧
      (∀ i, i < x.size * x.beats → s.unitHeld (x.addr + i) = false → d[i]? = some (s.rdByte (x.addr + i))) ∧
      t.mem = s.mem ∧ t.regs = s.regs)) ∧
  (∀ (s : State) (m : Master) (id : Nat) (wr : Bool) (a size beats : Nat) (data : List Byte) (strobes : List Bool)
    (l : LockMark), s.hostLive = true → s.underReset m (id % 256) = false → s.accessCause m wr a size beats ≠ 0 →
    ∃ t d, exec (.clhTransaction m id wr a size beats data strobes l) s = .next t ∧
      t.clh.inflight = s.clh.inflight ++ [d] ∧ d.resp = .err ∧ d.data = [] ∧ d.txn.m = m ∧ d.txn.id = id % 256 ∧
      t.clh.waiting = s.clh.waiting ∧ t.mem = s.mem ∧ t.rb Reg.CLH_EVT 0 = true) ∧
  ((∀ (s : State) (m : Master) (id : Nat) (d : DoneTxn) (rest : List DoneTxn), s.hostLive = true →
    (m = .stw ∨ m = .rmt ∨ m = .net ∨ m = .exc) →
    takeDone m id s.clh.inflight = some (d, rest) → s.beatWaits d.txn = false → d.txn.lock = .none → d.discard = false →
    s.clh.resetting = [] → s.clh.parked = [] →
    exec (.transactionRetire m id) s =
      .next { s with
        clh := { s.clh with inflight := rest }
        ans := ⟨d.resp, d.data⟩ }) ∧
  (∀ (s : State) (id : Nat) (d : DoneTxn) (a : Nat) (v : Word) (ps : List (Nat × Word)), s.hostLive = true →
    s.clh.inflight = [d] → d.txn.m = .hsp → d.txn.id = id → d.txn.wr = true → d.txn.addr = a → d.resp = .ok →
    d.txn.lock = .none → d.discard = false → s.beatWaits d.txn = false → s.clh.resetting = [] → s.clh.parked = [] → s.hsp.posted = (a, v) :: ps →
    ∃ t, exec (.transactionRetire .hsp id) s = .next t ∧ t.hsp.posted = ps ∧ t.ans = ⟨.ok, d.data⟩ ∧ t.mem = s.mem) ∧
  (∀ (s : State) (k : Nat) (l : Lock), s.hostLive = true → k < 2 → s.clh.lockOf k = some l → s.clh.inflight = [] →
    s.clh.waiting = [] → l.since + 8192 ≤ s.clock →
    ∃ t, exec (.lockTimeout k) s = .next t ∧ t.clh.lockOf k = none ∧ t.clh.forced = s.clh.forced ++ [(k, seqOwner l.m l.id)] ∧
      t.rb Reg.CLH_EVT 1 = true ∧ t.mem = s.mem) ∧
  (∀ (s : State) (m : Master), s.hostLive = true → m ≠ .hsp → s.clh.resetting = [(m, [])] →
    (∀ d ∈ s.clh.inflight, d.discard = true ∧ d.txn.m = m) → s.kwy.out = none → s.clh.parked = [] →
    ∃ t, exec (.masterResetComplete m) s = .next t ∧ t.clh.inflight = [] ∧ t.clh.resetting = [] ∧
      t.rb Reg.CLH_EVT 2 = true ∧ t.mem = s.mem))

/-- The commands of the host SPI bridge (Table 12.3): WRITE holds the word as a posted write, and ends at a byte that overflows the crossing, READ answers 0xA5 and the
word, STATUS, SYNC and ID answer, RESET empties the bridge, a rise of HSPI_CS_N sets CMDERR, and an error response to the
posted write sets WERR and records its address while HSP_ERRADDR.VALID is 0. -/
def Obligations.HspiCommands : Prop :=
  (∀ (s : State) (a : Nat) (w : Word), s.hostLive = true → s.hsp.posted = [] → s.outstanding .hsp ≠ 0 → a < 4294967296 →
    exec (.hspiWrite a [w] none) s = .next { s with hsp := { s.hsp with posted := [(a, w)] } }) ∧
  (∀ (s : State) (a k : Nat) (ws : List Word), s.hostLive = true → s.hsp.posted = [] → s.outstanding .hsp ≠ 0 →
    ws.length ≤ 16 → 61 ≤ k → k < 5 + 4 * ws.length →
    ∃ t, exec (.hspiWrite a ws (some k)) s = .next t ∧ t.hsp.posted.map (·.2) = ws.take ((k - 5) / 4) ∧
      t.rb Reg.HSP_EVT 2 = true ∧ t.rb Reg.CLK_CDCST 3 = true ∧ t.mem = s.mem) ∧
  (∀ (s : State) (a : Nat), s.hostLive = true → s.hsp.posted = [] → s.underReset .hsp 0 = false →
    s.lockedOut .hsp a = false → 0x40000000 ≤ a → a < 0x40E00000 → s.accessCause .hsp false a 4 1 = 0 →
    ∃ t d, exec (.hspiRead a 1) s = .next t ∧ t.ans = ⟨.ok, 0xA5 :: d⟩ ∧ d.length = 4 ∧
      (∀ i, i < 4 → s.unitHeld (a + i) = false → d[i]? = some (s.rdByte (a + i))) ∧ t.mem = s.mem ∧ t.regs = s.regs ∧
      t.hsp = s.hsp) ∧
  (∀ s : State, s.hostLive = true → exec .hspiStatus s =
    .next { s with ans := ⟨.ok, [BitVec.ofNat 8 (16 - s.hsp.posted.length + 32 * b2n s.hsp.errPend)]⟩ }) ∧
  (∀ s : State, s.hostLive = true → s.hsp.posted = [] → exec .hspiSync s =
    .next { s with
      hsp := { s.hsp with errPend := false }
      ans := ⟨.ok, [if s.hsp.errPend then 0xE5 else 0xA5]⟩ }) ∧
  (∀ s : State, s.hostLive = true → exec .hspiId s =
    .next { s with ans := ⟨.ok, leBytes (s.regView Reg.SYS_ID).toNat 4⟩ }) ∧
  (∀ s : State, s.hostLive = true → fabricIdle s → ∃ t, exec .hspiReset s = .next t ∧ t.hsp.posted = [] ∧
    t.hsp.errPend = false ∧ t.rb Reg.CLH_EVT 2 = true ∧ t.mem = s.mem ∧ ∀ x ∈ t.clh.waiting, x.m ≠ .hsp) ∧
  (∀ s : State, s.hostLive = true → ∃ t, exec .hspiCsNRise s = .next t ∧ t.rb Reg.HSP_EVT 2 = true ∧ t.hsp = s.hsp ∧
    t.mem = s.mem) ∧
  (∀ (s : State) (a : Nat) (v : Word), s.hostLive = true → s.hsp.posted = [(a, v)] → fabricIdle s → s.clh.waiting = [] →
    s.rb Reg.HSP_ERRADDR 0 = false →
    ∃ t, exec (.hspiPostedWriteError a) s = .next t ∧ t.hsp.posted = [] ∧ t.hsp.errPend = true ∧
      t.rb Reg.HSP_EVT 0 = true ∧ t.reg Reg.HSP_ERRADDR = wd (a / 4 * 4 + 1) ∧ t.mem = s.mem)

/-! ### Boot, anti-rollback, flash, management (chapter 13) -/

/-- A header that fails the signature check rejects the slot: its cause is recorded in SEC_BOOTST, SEC_EVT.FALLBACK is set, and
the other slot is tried; after both, the boot ROM stays in FAIL until it tries again 10 s later. The anti-rollback count: a write of SEC_ARBCMD above the count and within the running image's SVN starts the fuses, any
other is ignored and sets CFGERR; the fuses, once blown, hold the new count, which never falls. -/
def Obligations.SlotSelectionAndRollback : Prop :=
  (∀ (s : State) (h : ImgHeader), s.hostLive = true → s.boot.phase = .header → h.formatOk = true → 6 ≤ h.nsect →
    h.nsect ≤ 9 → h.total ≤ 66060288 → h.variantMask.testBit (s.fuse.variant - 1) = true →
    (s.fuse.keyhash = 0 ∨ h.keyHashOk = true) → h.sigOk = false → s.boot.slot = 0 → s.boot.written = [] →
    (s.boot.left = [1] → ∃ t, exec (.headerVerify h) s = .next t ∧ t.boot.phase = .header ∧ t.boot.slot = 1 ∧
      t.rf Reg.SEC_BOOTST 23 20 = 4 ∧ t.rb Reg.SEC_EVT 0 = true) ∧
    (s.boot.left = [] → ∃ t, exec (.headerVerify h) s = .next t ∧ t.boot.phase = .failed ∧ t.rf Reg.SEC_BOOTST 31 29 = 7 ∧
      t.boot.retryAt = some (s.clock + ms 10000) ∧ t.rf Reg.SEC_BOOTST 23 20 = 4)) ∧
  ((∀ (s : State) (v : Word), s.hostLive = true → s.braced = false → s.fuse.arb < fld v 6 0 →
    fld v 6 0 ≤ s.rf Reg.SEC_BOOTST 6 0 →
    exec (.arbAdvance v) s = .next { s with boot := { s.boot with arbBusy := some (fld v 6 0) } }) ∧
  (∀ (s : State) (v : Word), s.hostLive = true → s.braced = false →
    (fld v 6 0 ≤ s.fuse.arb ∨ s.rf Reg.SEC_BOOTST 6 0 < fld v 6 0) →
    ∃ t, exec (.arbAdvance v) s = .next t ∧ t.boot = s.boot ∧ t.fuse = s.fuse ∧ t.rb Reg.SEC_EVT 5 = true) ∧
  (∀ (s : State) (v : Word), s.hostLive = true → s.braced = true →
    exec (.arbAdvance v) s = .next { s with boot := { s.boot with arbHeld := s.boot.arbHeld ++ [v] } }) ∧
  (∀ (s : State) (n : Nat), s.hostLive = true → s.boot.arbBusy = some n →
    ∃ t, exec .arbFusesBlown s = .next t ∧ t.fuse = { s.fuse with arb := Nat.max s.fuse.arb n } ∧ t.boot.arbBusy = none ∧
      t.rb Reg.SEC_EVT 4 = true ∧ t.mem = s.mem))

/-- Runtime control messages once accepted (R709): a register write is performed by its access types, a time is set in view
L and makes T valid, a query answers the register, an update erases flash, a restart is due 100 ms later; the highest SEQ
is held. A message that is not accepted changes no memory and sets SEC_EVT.AUTHFAIL. -/
def Obligations.ManagementMessages : Prop :=
  (∀ (s : State) (m : MgmtMsg) (a : Nat) (v : Word) (r : RegSpec), s.hostLive = true → s.runtime = true → s.mgmtOk m = true →
    classOf m.mtype = .control → s.paired = false → plainBlock a → regSpec? a = some r →
    s.accessCause .stw true a 4 1 = 0 →
    ∃ t, exec (.controlMessage m [.write a v]) s = .next t ∧ t.reg a =
        (writeByType r (s.reg a) v ||| (s.setHere a &&& wd r.w1c)) ∧
      (∀ b, b ≠ a → t.reg b = s.reg b) ∧ t.boot.lastSeq = some m.seq ∧ t.mem = s.mem) ∧
  (∀ (s : State) (m : MgmtMsg), s.hostLive = true → s.runtime = true → s.mgmtOk m = true → classOf m.mtype = .control →
    s.paired = false → ∃ t, exec (.controlMessage m [.shutDown]) s = .next t ∧ t.dis = { s.dis with mute := true } ∧
      t.net = (sendNetworks (s.group s.district) 6 (beBytes s.nodeAddr 2 ++ [0, 0])
        { s with boot := { s.boot with lastSeq := some m.seq } }).net ∧
      t.boot.lastSeq = some m.seq ∧ t.mem = s.mem) ∧
  (∀ (s : State) (m : MgmtMsg), s.hostLive = true → s.runtime = true → s.mgmtOk m = true → classOf m.mtype = .setTime →
    s.tim.ptpA.lock = false → s.tim.ptpB.lock = false →
    ∃ t, exec (.setTime m) s = .next t ∧ t.tim.tvalid = true ∧ t.tim.vl.anchor = s.tim.tcnt.toNat ∧
      t.tim.vl.offset = ((beAt m.body 0 6 : Int) * 1000000000 + beAt m.body 6 4) * 1099511627776 ∧
      t.boot.lastSeq = some m.seq ∧ t.mem = s.mem) ∧
  (∀ (s : State) (m : MgmtMsg) (a : Nat), s.hostLive = true → s.runtime = true → s.mgmtOk m = true →
    classOf m.mtype = .query → 0x60000000 ≤ a → a < 0x60200000 → s.accessCause .stw false a 4 1 = 0 →
    ∃ t, exec (.mgmtQuery m [a]) s = .next t ∧ t.boot.lastSeq = some m.seq ∧ t.mem = s.mem ∧
      t.ans = ⟨.ok, leBytes (({ s with boot := { s.boot with lastSeq := some m.seq } } : State).regView a).toNat 4⟩) ∧
  (∀ (s : State) (m : MgmtMsg) (a : Nat), s.hostLive = true → s.runtime = true → s.mgmtOk m = true →
    classOf m.mtype = .update → a % 65536 = 0 → a < s.flashSize → a < 268435456 → s.xsp = Xsp.reset → s.braced = false →
    s.xspRefuses ⟨true, a, []⟩ = false →
    ∃ t, exec (.update m a 0 []) s = .next t ∧ t.xsp.run = some ⟨true, a, []⟩ ∧ t.boot.lastSeq = some m.seq ∧ t.mem = s.mem) ∧
  (∀ (s : State) (m : MgmtMsg), s.hostLive = true → s.runtime = true → s.mgmtOk m = true → classOf m.mtype = .restart →
    exec (.restart m) s = .next { s with
      boot := { s.boot with lastSeq := some m.seq }
      pwr := { s.pwr with restart := some (s.clock + ms 100) } }) ∧
  (∀ (s : State) (m : MgmtMsg) (acts : List CtrlAct), s.hostLive = true → s.runtime = true → s.mgmtOk m = false →
    ∃ t, exec (.controlMessage m acts) s = .next t ∧ t.rb Reg.SEC_EVT 3 = true ∧ t.mem = s.mem ∧ t.boot = s.boot)

/-- HEADER_VERIFY accepts a header that passes every check of R690: the sections come next. SECTION_CHECK accepts a section
of REG records that passes the checks: they are staged in order, and nothing else of registers or memory changes.
BOOT_RETRY tries the whole order again once it is due; BIST_END fences the failing clusters; SERVICE_LEVEL_2 is entered. The configuration flash: a command that the device accepts runs at once; an erase that ends well leaves its sector at
0xFF, and every other byte of memory as it was. -/
def Obligations.BootAndFlash : Prop :=
  ((∀ (s : State) (h : ImgHeader), s.hostLive = true → s.boot.phase = .header → h.formatOk = true → 6 ≤ h.nsect →
    h.nsect ≤ 9 → h.total ≤ 66060288 → h.variantMask.testBit (s.fuse.variant - 1) = true →
    (s.fuse.keyhash = 0 ∨ h.keyHashOk = true) → h.sigOk = true → s.fuse.arb ≤ h.svn →
    ∃ t, exec (.headerVerify h) s = .next t ∧ t.boot = { s.boot with phase := .sections, hdr := some h } ∧
      t.rf Reg.SEC_BOOTST 31 29 = 2 ∧ t.mem = s.mem) ∧
  (∀ (s : State) (sec : ImgSection) (h : ImgHeader), s.hostLive = true → s.boot.phase = .sections → s.boot.hdr = some h →
    sec.typ = 2 → s.sectionCode sec h = 0 → s.boot.seen.length + 1 ≠ h.nsect →
    (∀ r ∈ sec.recs, r = .stop ∨ ∃ a v, r = .reg a v) →
    ∃ t, exec (.sectionCheck sec) s = .next t ∧ t.boot.seen = s.boot.seen ++ [2] ∧
      t.boot.staged = s.boot.staged ++ (sec.recs.filter isStaged).map (fun r => (2, r)) ∧ t.mem = s.mem ∧ t.regs = s.regs) ∧
  (∀ (s : State) (due : Nat), s.hostLive = true → s.boot.phase = .failed → s.boot.retryAt = some due → due ≤ s.clock →
    ∃ t, exec .bootRetry s = .next t ∧ t.boot.phase = .header ∧ t.boot.winner = s.selWinner ∧ t.boot.seen = []) ∧
  (∀ (s : State) (f : Nat), s.hostLive = true → s.boot.phase = .header → s.boot.bistDone = false → s.boot.seen = [] →
    f < 16 → ∃ t, exec (.bistEnd f) s = .next t ∧ t.boot.bistDone = true ∧ t.reg Reg.TEL_CLST = wd (f * 272)) ∧
  (∀ s : State, s.hostLive = true → s.runtime = true → s.rf Reg.SEC_BOOTST 25 24 = 1 → s.boot.placed = true →
    s.rb Reg.PST_CTRL 0 = true → s.boot.standalone = true → s.subsSettled = true → s.boot.winner = none →
    ∃ t, exec .serviceLevel2 s = .next t ∧ t.rf Reg.SEC_BOOTST 25 24 = 2 ∧ t.mem = s.mem)) ∧
  ((∀ (s : State) (a : Nat), s.hostLive = true → (s.reg Reg.XSP_ADDR).toNat = a → a % 65536 = 0 → a < s.flashSize →
    s.xsp = Xsp.reset → s.braced = false → s.xspRefuses ⟨true, a, []⟩ = false →
    exec .xspEraseSector s = .next { s with xsp := ⟨some ⟨true, a, []⟩, []⟩ }) ∧
  (∀ (s : State) (a : Nat), s.hostLive = true → (s.reg Reg.XSP_ADDR).toNat = a → a % 256 = 0 → a < s.flashSize →
    s.xsp = Xsp.reset → s.braced = false → s.xspRefuses ⟨false, a, s.pageBuf (Reg.XSP_BUF 0)⟩ = false →
    exec .xspProgramPage s = .next { s with xsp := ⟨some ⟨false, a, s.pageBuf (Reg.XSP_BUF 0)⟩, []⟩ }) ∧
  (∀ (s : State) (a : Nat), s.hostLive = true → s.xsp = ⟨some ⟨true, a, []⟩, []⟩ → s.braced = false →
    a + 65536 ≤ 268435456 → ∃ t, exec (.xspCommandDone true) s = .next t ∧ t.xsp = Xsp.reset ∧
      t.rb Reg.XSP_EVT 0 = true ∧
      ∀ b, t.rdByte b = if flash + a ≤ b ∧ b < flash + a + 65536 then 0xFF else s.rdByte b))

/-! ### Power, resets, supervision (chapter 14) -/

/-- Only `h` holds the host die in reset. -/
abbrev heldOnlyBy (s : State) (h : Hold) : Prop := s.pwr.hold = h

/-- A host reset: the host die is held, SYS_RSTCAUSE holds the cause, every host memory but the flash devices reads its reset
value (the post-mortem log stays except after a supply reset), the flash devices keep their bytes. -/
def hostResetDone (s t : State) (cause supply : Nat) (keepLog : Bool) : Prop :=
  t.hostLive = false ∧ t.reg Reg.SYS_RSTCAUSE = wd (cause * 2 ^ 28 + supply * 2 ^ 24) ∧
    (∀ a, a < 0x80000000 → t.rdByte a = if keepLog = true ∧ pmLo ≤ a ∧ a < pmHi then s.rdByte a else 0) ∧
    (∀ a, 0x80000000 ≤ a → t.rdByte a = s.rdByte a) ∧ t.tim = Tim.reset ∧ t.tel = Tel.reset ∧ t.ldg = Ldg.reset ∧
    t.boot = Boot.reset

/-- What starts the host die: supply good, PRSNT_N low for 10 ms, RST_N high, the lock of the root after power-up, each as the
last hold that ends. The die leaves reset and the boot ROM reads a header. A supply at reset level, RST_N low and PRSNT_N high reset the host die, each with its cause; a host internal reset that
is due restarts it with the cause that was recorded. No flash command runs. -/
def Obligations.HostStartsAndResets : Prop :=
  (∀ s : State,
    (heldOnlyBy s ⟨true, false, false, false, false⟩ →
      ∃ t, exec .hostSupplyGood s = .next t ∧ t.hostLive = true ∧ t.boot.phase = .header) ∧
    (heldOnlyBy s ⟨false, true, false, false, false⟩ →
      ∃ t, exec .rstNRelease s = .next t ∧ t.hostLive = true ∧ t.boot.phase = .header) ∧
    (heldOnlyBy s ⟨false, false, true, false, false⟩ →
      ∃ t, exec .prsntNRelease s = .next t ∧ t.hostLive = true ∧ t.boot.phase = .header) ∧
    (heldOnlyBy s ⟨false, false, false, false, true⟩ →
      ∃ t, exec .rootLock s = .next t ∧ t.hostLive = true ∧ t.boot.phase = .header ∧ t.rb Reg.CLK_STATUS 8 = true) ∧
    (heldOnlyBy s ⟨true, true, false, false, false⟩ →
      ∃ t, exec .hostSupplyGood s = .next t ∧ t.hostLive = false ∧ t.mem = s.mem ∧ t.regs = s.regs)) ∧
  ((∀ (s : State) (k : Nat), s.pwr.hold.supply = false → s.xsp.run = none →
    ∃ t, exec (.hostSupervisorReset k) s = .next t ∧ t.pwr.hold.supply = true ∧ hostResetDone s t 1 (k % 16) false) ∧
  (∀ s : State, s.hostLive = true → s.xsp.run = none →
    ∃ t, exec .hostPinReset s = .next t ∧ t.pwr.hold.pin = true ∧ hostResetDone s t 2 0 true) ∧
  (∀ s : State, s.hostLive = true → s.xsp.run = none →
    ∃ t, exec .prsntNHigh s = .next t ∧ t.pwr.hold.prsnt = true ∧ hostResetDone s t 3 0 true) ∧
  (∀ (s : State) (c due : Nat), s.hostLive = true → s.pwr.intReset = some (c, due) → due ≤ s.clock → c ≠ 6 → c ≠ 7 → c ≠ 8 →
    ∃ t, exec .hostInternalReset s = .next t ∧ t.hostLive = true ∧ t.boot.phase = .header ∧
      t.reg Reg.SYS_RSTCAUSE = wd (c * 2 ^ 28)))

/-- SYS_RST with its key requests a host reset, due 10 µs later, or a Steward reset; without the key it is ignored and sets
SYS_EVT.CFGERR. The Steward: a lockstep mismatch and the watchdog's first expiry request its reset, the reset is counted
down and the runtime restarts; 0xA5 to SYS_WDKICK restarts the watchdog's period. -/
def Obligations.StewardAndWatchdog : Prop :=
  (∀ (s : State) (v : Word), s.hostLive = true → fld v 15 8 = 0xA5 → bit v 0 = true → s.pwr.intReset = none →
    ∃ t, exec (.hostResetRequest v) s = .next t ∧ t.pwr.intReset = some (4, s.clock + us 10) ∧ t.mem = s.mem) ∧
  (∀ (s : State) (v : Word), s.hostLive = true → fld v 15 8 = 0xA5 → bit v 0 = false → bit v 1 = true →
    exec (.stwResetRequest v) s = .next { s with pwr := { s.pwr with stwReq := true } }) ∧
  (∀ (s : State) (v : Word), s.hostLive = true → fld v 15 8 ≠ 0xA5 →
    ∃ t, exec (.hostResetRequest v) s = .next t ∧ t.pwr = s.pwr ∧ t.rb Reg.SYS_EVT 6 = true ∧ t.mem = s.mem) ∧
  (∀ s : State, s.hostLive = true → s.pwr.stwDown = false →
    ∃ t, exec .lockstepMismatch s = .next t ∧ t.pwr = { s.pwr with stwReq := true } ∧ t.rb Reg.SYS_EVT 2 = true ∧
      t.mem = s.mem) ∧
  (∀ s : State, s.hostLive = true → s.pwr.stwReq = true →
    ∃ t, exec .stewardReset s = .next t ∧ t.pwr = { s.pwr with stwReq := false, stwDown := true } ∧ t.mem = s.mem) ∧
  (∀ s : State, s.hostLive = true → s.pwr.stwDown = true → s.ldg.restore = [] → s.tel.restore = [] →
    ∃ t, exec .stewardRuntimeRestart s = .next t ∧ t.pwr = { s.pwr with stwDown := false } ∧ t.rb Reg.SYS_EVT 5 = true ∧
      t.mem = s.mem) ∧
  (∀ (s : State) (v : Word), s.hostLive = true → fld v 7 0 = 0xA5 → s.rb Reg.SYS_WDOG 31 = true →
    exec (.watchdogKick v) s =
      .next { s with pwr := { s.pwr with wdDeadline := some (s.clock + ms (s.rf Reg.SYS_WDOG 9 0)) } }) ∧
  (∀ (s : State) (d : Nat), s.hostLive = true → s.rb Reg.SYS_WDOG 31 = true → s.rb Reg.SYS_WDOG 30 = false →
    s.pwr.wdDeadline = some d → d ≤ s.clock → s.pwr.wdLast = none →
    ∃ t, exec .watchdogExpiry s = .next t ∧ t.pwr.stwReq = true ∧ t.pwr.wdLast = some s.clock ∧
      t.rb Reg.SYS_EVT 3 = true ∧ t.mem = s.mem)

/-- The brace state: entry records the supplies and the time and sets PWR_EVT.BRACE, the exit sets PWR_EVT.BRACEX.
PWR_CTRL switches a domain and holds its value; the switch completes in PWR_STATUS. The Ledger is ready once cleared. Temperatures, the scrub and the clock sources: a host temperature of 130.0 °C or more sets SYS_EVT.TWARN and shows in
SYS_TEMP; a word that the scrub corrects in the Ledger's stores is recorded there and changes no byte; loss of lock of the
root starts a host internal reset. -/
def Obligations.BraceDomainsTemperatures : Prop :=
  ((∀ (s : State) (m : Nat), s.hostLive = true → m % 64 ≠ 0 → s.braced = false →
    ∃ t, exec (.braceState m) s = .next t ∧ t.pwr.braceStart = some s.clock ∧ t.rb Reg.PWR_EVT 0 = true ∧
      t.reg Reg.PWR_SUP = s.reg Reg.PWR_SUP ||| wd (m % 64 * 65537) ∧ t.mem = s.mem) ∧
  (∀ (s : State) (t0 : Nat), s.hostLive = true → s.pwr.braceStart = some t0 → s.pwr.heldCtrl = [] → s.boot.arbHeld = [] →
    s.xsp.waiting = [] → s.boot.phase ≠ .applying →
    ∃ t, exec .braceExit s = .next t ∧ t.pwr.braceStart = none ∧ t.rb Reg.PWR_EVT 1 = true ∧ t.mem = s.mem) ∧
  (∀ (s : State) (v : Word), s.hostLive = true → s.braced = true →
    exec (.pwrCtrlWrite v) s = .next { s with pwr := { s.pwr with heldCtrl := s.pwr.heldCtrl ++ [v] } }) ∧
  (∀ (s : State) (v : Word), s.hostLive = true → s.braced = false → s.rf Reg.PWR_CTRL 7 0 < 128 →
    fld v 7 0 = s.rf Reg.PWR_CTRL 7 0 + 128 → s.pwr.switching = [] →
    ∃ t, exec (.pwrCtrlWrite v) s = .next t ∧ t.reg Reg.PWR_CTRL = wd (fld v 7 0) ∧
      t.pwr = { s.pwr with switching := [(8, (true, s.clock + us 150))] } ∧ t.mem = s.mem ∧
      ∀ a, a ≠ Reg.PWR_CTRL → t.reg a = s.reg a) ∧
  (∀ (s : State) (due : Nat), s.hostLive = true → s.pwr.switching = [(8, (true, due))] → s.boot.phase ≠ .applying →
    ∃ t, exec (.domainSwitchComplete 8) s = .next t ∧ t.rb Reg.PWR_STATUS 7 = true ∧ t.pwr.switching = [] ∧
      t.rb Reg.PWR_EVT 2 = true ∧ t.sap = [] ∧ t.til = []) ∧
  (∀ s : State, s.hostLive = true → s.pwr.ldgClearing = true → s.domOn 5 = true →
    exec .ledgerClearComplete s = .next { s with
      pwr := { s.pwr with ldgClearing := false }
      ldg := { s.ldg with ready := true } })) ∧
  ((∀ (s : State) (tj : Int), s.hostLive = true → 520 ≤ tj → tj < 580 →
    ∃ t, exec (.hostTemperatureMeasurement tj) s = .next t ∧ t.rb Reg.SYS_EVT 4 = true ∧ t.pwr.hot = 0 ∧
      t.rf Reg.SYS_TEMP 11 0 = encSigned 12 tj ∧ t.mem = s.mem) ∧
  (∀ (s : State) (a : Nat), s.hostLive = true → 0x20000000 ≤ a → a < 0x21100000 →
    ∃ t, exec (.scrubPeriod [a] []) s = .next t ∧ t.rb Reg.LDG_EVT 5 = true ∧ t.mem = s.mem) ∧
  (∀ s : State, s.hostLive = true → s.pwr.intReset = none →
    ∃ t, exec .rootLossOfLock s = .next t ∧ t.pwr.intReset = some (6, s.clock + us 10) ∧ t.rb Reg.CLK_EVT 0 = true ∧
      t.rb Reg.CLK_STATUS 8 = false ∧ t.field.laneClock = false ∧ t.mem = s.mem) ∧
  (∀ s : State, s.hostLive = true → ∃ t, exec .rootLock s = .next t ∧ t.rb Reg.CLK_STATUS 8 = true ∧ t.mem = s.mem) ∧
  (∀ s : State, s.hostLive = true → ∃ t, exec .xoFailure s = .next t ∧ t.rb Reg.CLK_EVT 1 = true ∧ t.mem = s.mem))

/-- The field die's supplies, ball and temperature: a supply at reset level or FPRSNT_N high resets it (AUTONOMY, link DOWN,
its registers at their reset values), the end of the last hold starts it with the Strongbox load, a supply below warning
sets FSYS_SUP, and a junction temperature of 140.0 °C sets its warning bit and shows in FSYS_SUP. -/
def Obligations.FieldDieSupervision : Prop :=
  (∀ s : State, s.isA = true → s.pwr.fSupply = false →
    ∃ t, exec .fieldSupplyReset s = .next t ∧ t.field = Field.reset ∧ t.pwr.fSupply = true ∧
      ∀ a, 0x70000000 ≤ a → a < 0x70100000 → t.reg a = regReset a) ∧
  (∀ s : State, s.isA = true → s.pwr.fPin = false →
    ∃ t, exec .fprsntNHigh s = .next t ∧ t.field = Field.reset ∧ t.pwr.fPin = true ∧
      ∀ a, 0x70000000 ≤ a → a < 0x70100000 → t.reg a = regReset a) ∧
  (∀ s : State, s.isA = true → s.pwr.fSupply = true → s.pwr.fPin = false → s.pwr.fHot = false →
    ∃ t, exec .fieldSupplyGood s = .next t ∧ t.fieldLive = true ∧ t.reg Reg.FSBX_STATUS = wd 536870912 ∧
      t.field.loading = true ∧ t.mem = s.mem) ∧
  (∀ s : State, s.isA = true → s.pwr.fPin = true → s.pwr.fSupply = false → s.pwr.fHot = false →
    ∃ t, exec .fprsntNRelease s = .next t ∧ t.fieldLive = true ∧ t.reg Reg.FSBX_STATUS = wd 536870912 ∧
      t.field.loading = true ∧ t.mem = s.mem) ∧
  (∀ (s : State) (k : Nat), s.fieldLive = true → k < 3 →
    ∃ t, exec (.fieldSupplyBelowWarning k) s = .next t ∧ t.rb Reg.FSYS_SUP (24 + k) = true ∧ t.rb Reg.FSYS_SUP 31 = true ∧
      onlyField s t) ∧
  (∀ s : State, s.fieldLive = true →
    ∃ t, exec .fieldWarningEnd s = .next t ∧ t.rf Reg.FSYS_SUP 26 24 = 0 ∧ onlyField s t) ∧
  (∀ (s : State) (tj : Int), s.fieldLive = true → 560 ≤ tj → tj < 620 →
    ∃ t, exec (.fieldTemperatureMeasurement tj) s = .next t ∧ t.rb Reg.FSYS_SUP 30 = true ∧
      t.rf Reg.FSYS_SUP 11 0 = encSigned 12 tj ∧ onlyField s t) ∧
  (∀ (s : State) (a : Nat), s.fieldLive = true →
    ∃ t, exec (.fieldScrub [a]) s = .next t ∧ t.rb Reg.FSBX_EVT 2 = true ∧
      ∀ b, t.rdByte b = if strongbox + a % 0x1000000 / 8 * 8 ≤ b ∧ b < strongbox + a % 0x1000000 / 8 * 8 + 8 then 0
        else s.rdByte b)

/-! ### Time (chapter 9) -/

/-- The view commands of Table 9.1. SET puts the staged time at the present tick and drops a slew, STEP adds TIM_ADJ to
OFFSET, SLEW starts a slew of TIM_ADJ and CANCEL drops what remains of one, both from the view re-anchored without a step.
A RATE is committed 4 ticks ahead, takes effect once that tick has come without a step of the view or of J, and is ignored out
of range. Each leaves every byte of memory and, where no PTP port is grandmaster, the other two views; the view of a
grandmaster follows view L. -/
def Obligations.ViewCommands : Prop :=
  (∀ s : State, s.hostLive = true → s.runtime = true → ∃ t, exec (.set 2) s = .next t ∧
    t.tim.vl.offset = s.staged 2 ∧ ∀ i, i < 2 → (s.tim.ptp i).master = true → t.tim.view i = { t.tim.vl with pend := none }) ∧
  ∀ (s : State) (k : Nat), s.hostLive = true → k < 3 →
    (s.runtime = false ∨ (s.tim.ptpA.master = false ∧ s.tim.ptpB.master = false)) →
    (∃ t, exec (.set k) s = .next t ∧ t.tim.view k = { s.tim.view k with
        anchor := s.tick
        offset := s.staged k
        slew := 0
        slewAt := s.tick } ∧ (k = 2 → t.tim.tvalid = true) ∧ (∀ j, j < 3 → j ≠ k → t.tim.view j = s.tim.view j) ∧ t.mem = s.mem) ∧
    exec (.step k) s = .next { s with
      tim := s.tim.setView k { s.tim.view k with offset := (s.tim.view k).offset + s.adj k } } ∧
    exec (.slew k) s = .next { s with
      tim := s.tim.setView k { (s.tim.view k).rebase s.tick with
        slew := s.adj k
        slewAt := s.tick
        slewPpm := s.rf (Reg.TIM_SLEWR k) 4 0 } } ∧
    exec (.cancel k) s = .next { s with tim := s.tim.setView k { (s.tim.view k).rebase s.tick with slew := 0 } } ∧
    ((s.tim.view k).slew ≠ 0 → ((s.tim.view k).rebase s.tick).slew = 0 → ∃ t, exec (.slewDone k) s = .next t ∧
      t.tim.view k = (s.tim.view k).rebase s.tick ∧ t.rb Reg.TIM_EVT 1 = true ∧ t.mem = s.mem) ∧
    (∀ (v : Word) (r : Nat), r = fld v 15 0 * 4294967296 + (s.reg (Reg.TIM_RATE_LO k)).toNat → ratePpmLo ≤ r →
      r ≤ ratePpmHi → ∃ t, exec (.rateCommit k v) s = .next t ∧ t.tim.view k = { s.tim.view k with
        pend := some (s.tick + 4, r) } ∧ t.rf (Reg.TIM_RATE_HI k) 15 0 = fld v 15 0 ∧ t.mem = s.mem) ∧
    (∀ (v : Word), ratePpmHi < fld v 15 0 * 4294967296 + (s.reg (Reg.TIM_RATE_LO k)).toNat →
      ∃ t, exec (.rateCommit k v) s = .next t ∧ t.tim = s.tim ∧ t.rb Reg.TIM_EVT 0 = true ∧ t.mem = s.mem) ∧
    (∀ c r, (s.tim.view k).pend = some (c, r) → c ≤ s.tick → ∃ t, exec (.rateTakesEffect k) s = .next t ∧
      t.tim.view k = { (s.tim.view k).rebase c with
        rate := r
        pend := none } ∧
      (s.tim.act < 3 → t.tim.juncAt8 (8 * c) = s.tim.juncAt8 (8 * c)) ∧
      (∀ j, j < 3 → j ≠ k → t.tim.view j = s.tim.view j) ∧ t.mem = s.mem ∧ t.regs = s.regs)

/-- System time: a change of ACTIVE waits for the next mix slot boundary, as JCLR does; a snapshot captures TCNT, the views
and T at one tick, truncated to 2^-16 ns; a junction that has reached 0 sets JDONE; ALIGN and the enable of a pulse output
request its alignment, the others keep no cadence; an edge of PPS that is due measures its misalignment, and none is made where none is due. -/
def Obligations.SystemTimeCommands : Prop :=
  (∀ (s : State) (v : Word), s.hostLive = true → fld v 1 0 ≠ 3 → fld v 1 0 ≠ s.tim.act →
    ∃ t, exec (.activeWrite v) s = .next t ∧ t.tim = { s.tim with pendAct := some (fld v 1 0) } ∧
      t.rb Reg.TIM_STATUS 2 = true ∧ t.rf Reg.TIM_CTRL 1 0 = fld v 1 0 ∧ t.mem = s.mem) ∧
  (∀ (s : State) (v : Word), s.hostLive = true → bit v 2 = true →
    exec (.jclr v) s = .next { s with tim := { s.tim with jclr := true } }) ∧
  (∀ (s : State) (v : Word), s.hostLive = true → bit v 0 = true →
    ∃ t, exec (.snap v) s = .next t ∧ t.tim.snapTcnt = s.tim.tcnt.toNat ∧
      t.tim.snapT = s.tim.t8 s.tim.now8 / 16777216 ∧ t.tim.snapA = s.tim.va.at8 s.tim.now8 / 16777216 ∧
      t.tim.snapB = s.tim.vb.at8 s.tim.now8 / 16777216 ∧ t.tim.snapL = s.tim.vl.at8 s.tim.now8 / 16777216 ∧
      t.regs = s.regs ∧ t.mem = s.mem) ∧
  (∀ s : State, s.hostLive = true → s.tim.junc ≠ 0 → s.tim.juncAt8 s.tim.now8 = 0 →
    ∃ t, exec .junctionDone s = .next t ∧ t.tim = { s.tim with
      junc := 0
      juncAt := s.tick } ∧ t.rb Reg.TIM_EVT 2 = true ∧ t.rb Reg.TIM_STATUS 3 = false ∧ t.mem = s.mem) ∧
  (∀ (s : State) (o : Nat), s.hostLive = true → o < 3 →
    ∃ t, exec (.align (bitw o)) s = .next t ∧ t.tim = s.tim.setPulse o { s.tim.pulse o with alignReq := true } ∧
      t.regs = s.regs ∧ t.mem = s.mem) ∧
  (∀ (s : State) (o : Nat), s.hostLive = true → o < 3 → s.rf Reg.TIM_PULSE 2 0 = 0 →
    ∃ t, exec (.pulseEnable (bitw o)) s = .next t ∧ t.tim.pulse o = { s.tim.pulse o with alignReq := true } ∧
      (∀ j, j < 3 → j ≠ o → t.tim.pulse j = Pulse.reset) ∧ (∀ k, k < 3 → t.tim.view k = s.tim.view k) ∧
      t.rb Reg.TIM_PULSE o = true ∧ t.mem = s.mem) ∧
  (∀ (s : State) (e : Nat) (i : Int), s.hostLive = true → s.pulseDue 0 (s.tim.now8 + e) = some i →
    ∃ t, exec (.pulseOutputEdge 0 e) s = .next t ∧
      t.reg Reg.TIM_MISPPS = wdi (misalign (s.tim.t8 (s.tim.now8 + e)) 1000000000 1) ∧
      t.tim.pps.last = some i ∧ t.tim.pps.alignReq = false ∧ t.mem = s.mem) ∧
  (∀ (s : State) (o e : Nat), s.hostLive = true → s.pulseDue o (s.tim.now8 + e) = none →
    exec (.pulseOutputEdge o e) s = .next s)

/-- The RSC: a candidate measured with loss of signal, or disqualified, is out; a build-out that completes locks to the new
candidate, holds its phase, and leaves a residual of at most 50 ns that slews from then on; OPEN opens the loop, or is held during a
build-out, which then opens it; its end captures the phase of the selected candidate and closes the loop, on HOLDOVER if only
candidate 7 is qualified; EN = 0 takes it to FREERUN, with no correction of the XO; RSC_NCO sets the control value, clamped to
PULL, while the loop is open, and is ignored otherwise. With the XO stopped the control value stays. -/
def Obligations.RscCommands : Prop :=
  (∀ (s : State) (ms : List RscMeas) (k : Nat), s.hostLive = true → (k = 4 ∨ k = 5) → s.rsc.cands.length = 8 →
    (ms.getD k ⟨0, true⟩).los = true →
    ∃ t, exec (.rscMeasurement ms) s = .next t ∧ (t.rsc.cand k).los = true ∧ (t.rsc.cand k).disq = true ∧
      t.rsc.noEsmc0 = s.rsc.noEsmc0 + 1 ∧ t.mem = s.mem) ∧
  (∀ (s : State) (k : Nat), s.hostLive = true → k < 7 → s.rsc.cands.length = 8 →
    ∃ t, exec (.disqualification k) s = .next t ∧ t.rsc.cand k = { s.rsc.cand k with
      los := true
      disq := true
      wtr := none } ∧ t.mem = s.mem) ∧
  (∀ (s : State) (ofs resid : Int), s.hostLive = true → s.rsc.st = .buildout → s.rsc.openHeld = false →
    ∃ t, exec (.buildoutComplete ofs resid) s = .next t ∧ t.rsc.st = .locked ∧ t.rsc.sel = s.rsc.new ∧
      t.reg Reg.RSC_BOFS = wdi ofs ∧ t.rsc.resid = clampI (-50000) 50000 resid ∧ t.rsc.residAt = s.clock ∧ t.rb Reg.RSC_EVT 1 = true ∧ t.mem = s.mem) ∧
  (∀ (s : State) (ofs resid : Int), s.hostLive = true → s.rsc.st = .buildout → s.rsc.openHeld = true →
    ∃ t, exec (.buildoutComplete ofs resid) s = .next t ∧ t.rsc.st = .opened ∧ t.rsc.openHeld = false ∧
      t.rsc.sel = s.rsc.new ∧ t.rb Reg.RSC_EVT 1 = true ∧ t.mem = s.mem) ∧
  (∀ (s : State) (v : Word), s.hostLive = true → bit v 0 = true →
    (s.rsc.st = .locked ∨ s.rsc.st = .holdover ∨ s.rsc.st = .freerun) →
    ∃ t, exec (.rscOpen v) s = .next t ∧ t.rsc.st = .opened ∧ t.rsc.ctl = s.rsc.ctl ∧ t.rsc.sel = s.rsc.sel ∧
      t.rsc.cands = s.rsc.cands ∧ t.reg Reg.RSC_NCO = s.reg Reg.RSC_NCO ∧ t.rb Reg.RSC_CTRL 1 = true ∧ t.mem = s.mem) ∧
  (∀ (s : State) (v : Word), s.hostLive = true → bit v 0 = true → s.rsc.st = .buildout →
    ∃ t, exec (.rscOpen v) s = .next t ∧ t.rsc = { s.rsc with openHeld := true } ∧ t.rb Reg.RSC_CTRL 1 = true ∧
      t.mem = s.mem) ∧
  (∀ (s : State) (v : Word) (ph : Int), s.hostLive = true → bit v 0 = true → s.rsc.st = .opened →
    ∃ t, exec (.rscClose v ph) s = .next t ∧ t.rsc.st = (if t.onlyXo then .holdover else .locked) ∧
      t.reg Reg.RSC_BOFS = wdi (if s.rsc.sel < 2 ∨ s.rsc.sel = 6 then s.refPhase s.rsc.sel else ph) ∧
      t.reg Reg.RSC_NCO = s.rsc.ctl ∧ t.rsc.ctl = s.rsc.ctl ∧ t.rsc.sel = s.rsc.sel ∧ t.rb Reg.RSC_CTRL 1 = false ∧
      t.mem = s.mem) ∧
  (∀ (s : State) (v : Word), s.hostLive = true →
    ∃ t, exec (.rscFreerun v) s = .next t ∧ t.rsc.st = .freerun ∧ t.rsc.openHeld = false ∧ t.rsc.sel = s.rsc.sel ∧
      t.rsc.cands = s.rsc.cands ∧ t.rsc.ctl = (if s.xoOk then 0 else s.rsc.ctl) ∧ t.mem = s.mem) ∧
  (∀ (s : State) (v : Word), s.hostLive = true → s.rsc.st = .opened →
    ∃ t, exec (.ncoWrite v) s = .next t ∧ t.reg Reg.RSC_NCO = v ∧
      t.rsc.ctl = (if s.xoOk then wdi (clampI (-((s.rf Reg.RSC_CTRL 23 16 : Int) * 1099511627776 / 1000000))
        ((s.rf Reg.RSC_CTRL 23 16 : Int) * 1099511627776 / 1000000) (signed 32 v.toNat)) else s.rsc.ctl) ∧ t.mem = s.mem) ∧
  (∀ (s : State) (ms : List RscMeas), s.hostLive = true → s.xoOk = false →
    ∃ t, exec (.rscMeasurement ms) s = .next t ∧ t.rsc.ctl = s.rsc.ctl ∧ t.mem = s.mem) ∧
  (∀ (s : State) (v : Word), s.hostLive = true → s.rsc.st ≠ .opened →
    ∃ t, exec (.ncoWrite v) s = .next t ∧ t.rsc = s.rsc ∧ t.rb Reg.RSC_EVT 6 = true ∧ t.mem = s.mem)

/-! ### Amplifier channels and boost (chapter 6) -/

/-- Boost controller `p` becomes `b` by command `i`, every channel and every other controller as before, and `q` of the
state after it. -/
def bstBecomes (s : State) (i : Instr) (p : Nat) (b : Bst) (q : State → Prop) : Prop :=
  ∃ t, exec i s = .next t ∧ t.bst p = b ∧ (∀ d, d ≠ p → t.bst d = s.bst d) ∧ (∀ c, t.chan c = s.chan c) ∧ onlyField s t ∧ q t

/-- Channel `c` latches by command `i` with this cause: safe-off in TRIP, the cause recorded and the FAULT event set, the
cause's own bit of FPRO_EVT set, the time of the latch kept. -/
def latches (s : State) (i : Instr) (c cause b : Nat) : Prop :=
  chanBecomes s i c { (s.chan c).safeOff with
    st := .trip
    latches := s.clock :: (s.chan c).recent s.clock } (fun t =>
      t.rf (Reg.FPRO_CHST c) 31 28 = cause ∧ t.rb Reg.FPRO_EVT b = true ∧ t.rb Reg.FPRO_EVT 4 = true)

/-- START is accepted in OFF by a channel that no override claims, STOP begins the stop sequence with a ramp-out, CLEAR
takes LOCKOUT to OFF; a command that the state does not accept changes no channel and sets FPWM_EVT.CMDREF. A takeover start
sets the hinge switch and waits for HSWT. The start and stop sequences of a channel that no override claims, step by step: the hinge switch time, EN, the
release of both outputs at 50 %, the ramp-in, RUN; the ramp-out, 50 % held, both outputs at 0, EN low and OFF. -/
def Obligations.ChannelStartAndStop : Prop :=
  (∀ (s : State) (c : Nat), s.fieldLive = true → c < 32 → s.claimed c = false →
    ((s.chan c).st = .off → s.field.overTemp = false →
      chanBecomes s (.start c) c ((s.chan c).begin .start) (fun _ => True)) ∧
    ((s.chan c).st ≠ .off → chanBecomes s (.start c) c (s.chan c) (fun t => t.rb Reg.FPWM_EVT 6 = true)) ∧
    (((s.chan c).st = .start ∨ (s.chan c).st = .run ∨ (s.chan c).st = .probe) → (s.chan c).ph = .playing →
      chanBecomes s (.stop c) c { s.chan c with
        st := .stop
        ph := .rampOut
        hot := false
        pilot := false
        seq := .out s.nextSample (s.lastPlayed c) } (fun _ => True)) ∧
    ((s.chan c).st = .lockout → chanBecomes s (.clear c) c { (s.chan c).safeOff with st := .off }
      (fun t => t.rb Reg.FPRO_LOCK c = false)) ∧
    ((s.chan c).st ≠ .lockout → chanBecomes s (.clear c) c (s.chan c) (fun t => t.rb Reg.FPWM_EVT 6 = true)) ∧
    ((s.chan c).st = .off → chanBecomes s (.takeoverStart (bitw c)) c { (s.chan c).safeOff with
      st := .start
      ph := .hswt
      tko := true } (fun t => t.rb Reg.FPWM_HSW c = true))) ∧
  (∀ (s : State) (c : Nat), s.fieldLive = true → c < 32 → s.claimed c = false →
    ((s.chan c).ph = .hswt → chanBecomes s (.hswtElapsed c) c { s.chan c with ph := .waitRail } (fun _ => True)) ∧
    ((s.chan c).ph = .waitRail → 400 ≤ (s.bst (c / 2)).rail → chanBecomes s (.startSequence c) c { s.chan c with
      en := true
      ph := .enable } (fun _ => True)) ∧
    ((s.chan c).ph = .waitRail → (s.bst (c / 2)).rail < 400 →
      chanBecomes s (.startSequence c) c (s.chan c) (fun _ => True)) ∧
    ((s.chan c).ph = .enable → (s.chan c).en = true → chanBecomes s (.enableTimeElapsed c) c { (s.chan c).half with
      pwm := true
      ph := .hold50
      err := 0
      fltOn := true } (fun _ => True)) ∧
    ((s.chan c).ph ≠ .enable → (s.chan c).en = true →
      chanBecomes s (.enableTimeElapsed c) c { s.chan c with fltOn := true } (fun _ => True)) ∧
    ((s.chan c).ph = .hold50 → chanBecomes s (.hold50Complete c) c { s.chan c with
      ph := .rampIn
      seq := .up s.nextSample (if (s.chan c).tko then 8 else s.rf Reg.FPWM_RAMP 9 0) } (fun _ => True)) ∧
    ((s.chan c).ph = .rampIn → (s.chan c).st = .start → chanBecomes s (.rampInComplete c) c { s.chan c with
      st := .run
      tko := false
      probing := false
      ph := .playing
      seq := .on } (fun _ => True)) ∧
    ((s.chan c).ph = .rampIn → (s.chan c).st = .probe → chanBecomes s (.rampInComplete c) c { s.chan c with
      ph := .playing
      seq := .on } (fun _ => True)) ∧
    ((s.chan c).ph = .rampOut → (s.chan c).hot = false → chanBecomes s (.stopRampOutComplete c) c {
      (if (s.chan c).pwm then (s.chan c).half else s.chan c) with
      ph := .stopHold
      seq := .on } (fun _ => True)) ∧
    ((s.chan c).ph = .rampOut → (s.chan c).hot = true →
      chanBecomes s (.stopRampOutComplete c) c { (s.chan c).safeOff with st := .thermal } (fun _ => True)) ∧
    ((s.chan c).ph = .stopHold → chanBecomes s (.stopHold50Complete c) c { s.chan c with
      pwm := false
      wa := 0
      wb := 0
      ta := 0
      tb := 0
      ph := .stopEn } (fun _ => True)) ∧
    ((s.chan c).ph = .stopEn →
      chanBecomes s (.stopEnableTimeElapsed c) c { (s.chan c).safeOff with st := .off } (fun _ => True)))

/-- The input of the carrier period that begins for channel `c`: its sample stream at the centre of the period, and the
pilot. -/
def periodInput (s : State) (c : Nat) : Int :=
  let pos := s.centrePos (s.assigned c)
  (pilotSettle c pos (enterSamples c (pos / 64000) s)).evaluate c pos

/-- Modulation and carrier assignment: a channel in RUN gets the pulse widths 4N + e and 4N − e of R337 while e is within the
limit, and 50 % with FPWM_EVT.RAILUV set while its rail is below 20.00 V; FPWM_CTRL takes a divider and a mode in range; an avoidance run holds
its clear dividers, or sets its event and leaves the assignment. -/
def Obligations.CarrierAssignment : Prop :=
  (∀ (s : State) (c : Nat) (e : Int), s.fieldLive = true → c < 32 → (s.chan c).st = .run → (s.chan c).ph = .playing →
    (s.chan c).pwm = true → (s.chan c).probing = false → s.assigned c = (s.chan c).div → 400 ≤ (s.bst (c / 2)).rail →
    e = roundHalfUp (periodInput s c * (s.rf (Reg.FPWM_CHCFG c) 31 16 : Nat) * (8 * (s.chan c).div : Nat) * 16777216 /
      ((5 * 268435456 * (s.bst (c / 2)).rail : Nat) : Int) + (s.chan c).err) 16777216 →
    e.natAbs ≤ s.elim c (s.chan c).div →
    ∃ t, exec (.carrierPeriod c) s = .next t ∧ (t.chan c).wa = (4 * (s.chan c).div + e).toNat ∧
      (t.chan c).wb = (4 * (s.chan c).div - e).toNat ∧ (t.chan c).st = .run ∧
      (∀ d, d ≠ c → t.chan d = s.chan d) ∧ onlyField s t) ∧
  (∀ (s : State) (c : Nat), s.fieldLive = true → c < 32 → (s.chan c).ph = .playing → (s.chan c).pwm = true →
    s.assigned c = (s.chan c).div → (s.bst (c / 2)).rail < 400 →
    ∃ t, exec (.carrierPeriod c) s = .next t ∧ (t.chan c).wa = 4 * (s.chan c).div ∧
      (t.chan c).wb = 4 * (s.chan c).div ∧ t.rb Reg.FPWM_EVT 3 = true ∧ onlyField s t) ∧
  (∀ (s : State) (v : Word), s.fieldLive = true → 427 ≤ fld v 27 16 → fld v 27 16 ≤ 3413 → fld v 1 0 ≤ 1 →
    ∃ t, exec (.carrierModeWrite v) s = .next t ∧ t.rf Reg.FPWM_CTRL 27 16 = fld v 27 16 ∧
      t.rf Reg.FPWM_CTRL 1 0 = fld v 1 0 ∧ t.rb Reg.FPWM_CTRL 29 = bit v 29 ∧ (∀ c, t.chan c = s.chan c) ∧ onlyField s t) ∧
  (∀ (s : State) (v : Word), s.fieldLive = true → bit v 31 = true → s.rb Reg.FPWM_AVDST 31 = false →
    ∃ t, exec (.avoidanceRun v) s = .next t ∧ t.rb Reg.FPWM_AVDST 31 = true ∧
      t.field.avdRun = some ((s.typeWrite Reg.FPWM_AVD v).search 3414 0 (2 * t.rf Reg.FPWM_AVD 9 8 + 1)) ∧
      (∀ c, t.chan c = s.chan c) ∧ onlyField s t) ∧
  (∀ (s : State) (l : List Nat), s.fieldLive = true → s.field.avdRun = some l → l.length ≤ 7 → (∀ n ∈ l, n < 4096) →
    ∃ t, exec .avoidanceRunComplete s = .next t ∧ t.field.avdRun = none ∧
      t.field.avoid = (if l = [] then s.field.avoid else l) ∧ t.rb Reg.FPWM_EVT (if l = [] then 1 else 0) = true ∧
      t.rb Reg.FPWM_AVDST 31 = false ∧ (∀ c, t.chan c = s.chan c) ∧ onlyField s t) ∧
  (∀ (s : State) (v : Word), s.fieldLive = true → (∀ c, c < 32 → (s.chan c).st = .off) →
    ∃ t, exec (.hswWrite v) s = .next t ∧ t.reg Reg.FPWM_HSW = v ∧ (∀ c, t.chan c = s.chan c) ∧ onlyField s t) ∧
  (∀ (s : State) (v : Word), s.fieldLive = true → (∀ c, c < 32 → (s.chan c).st = .run) → s.reg Reg.FPWM_HSW ≠ v →
    ∃ t, exec (.hswWrite v) s = .next t ∧ t.reg Reg.FPWM_HSW = s.reg Reg.FPWM_HSW ∧ t.rb Reg.FPWM_EVT 4 = true ∧
      (∀ c, t.chan c = s.chan c) ∧ onlyField s t)

/-- The boost controllers: each period a controller measures its rail and the bus, is off while EN is 0 and else regulates
unless its set point is at or below the bus; an over-current ends the gate pulse, 64 periods of it turn the gate off for RETRYT, after which the
controller restarts at VMIN; an over-voltage turns the gate off; a rail above BOV + 5.00 V latches both channels. -/
def Obligations.BoostControllers : Prop :=
  ∀ (s : State) (p : Nat), s.fieldLive = true → p < 16 →
    (∀ rail bus, (s.bst p).st ≠ .ocWait → (s.bst p).st ≠ .latched → (s.bst p).ov = false →
      ∃ t, exec (.boostPeriod p rail bus) s = .next t ∧ (t.bst p).rail = Nat.min rail 4095 ∧
        t.rf Reg.FBST_BUS 11 0 = Nat.min bus 4095 ∧
        (t.bst p).st = (if s.rb Reg.FBST_CTRL p = false then .off
          else if (t.bst p).set ≤ 512000 * bus then .belowBus else .regulating) ∧
        (t.bst p).gate = decide ((t.bst p).st = .regulating) ∧ (∀ c, t.chan c = s.chan c) ∧ onlyField s t) ∧
    (∀ mv, s.rf Reg.FBST_PROT 11 0 < mv → bstBecomes s (.boostOverCurrent p mv) p { s.bst p with
      gate := false
      oc := true
      ocRun := if (s.bst p).oc then (s.bst p).ocRun else (s.bst p).ocRun + 1 } (fun t => t.rb Reg.FBST_EVT 0 = true)) ∧
    (∀ mv, mv ≤ s.rf Reg.FBST_PROT 11 0 → bstBecomes s (.boostOverCurrent p mv) p (s.bst p) (fun _ => True)) ∧
    (64 ≤ (s.bst p).ocRun → (s.bst p).st = .regulating → (s.bst p).ocTimes = [] →
      bstBecomes s (.boostOcPersist p) p { s.bst p with
        st := .ocWait
        gate := false
        ocRun := 0
        ocTimes := [s.clock] } (fun _ => True)) ∧
    (64 ≤ (s.bst p).ocRun → (s.bst p).st = .regulating → (s.bst p).ocTimes = [s.clock, s.clock, s.clock] →
      ∃ t, exec (.boostOcPersist p) s = .next t ∧ (t.bst p).st = .latched ∧ t.rb Reg.FBST_EVT 1 = true ∧ onlyField s t) ∧
    ((s.bst p).st = .ocWait → bstBecomes s (.boostRetry p) p { s.bst p with
      st := .regulating
      set := 512000 * s.rf Reg.FBST_LIM 11 0 } (fun _ => True)) ∧
    (∀ rail, s.rf Reg.FBST_PROT 27 16 < rail → bstBecomes s (.boostOverVoltage p rail) p { s.bst p with
      rail := Nat.min rail 4095
      gate := false
      ov := true } (fun t => t.rb Reg.FBST_EVT 2 = true)) ∧
    (∀ rail, s.rf Reg.FBST_PROT 27 16 + 100 < rail → (∀ i, i < 2 → (s.chan (2 * p + i)).st = .run ∧
        (s.chan (2 * p + i)).latches = []) →
      ∃ t, exec (.railOverVoltage p rail) s = .next t ∧ t.rb Reg.FBST_EVT 3 = true ∧ onlyField s t ∧
        (∀ i, i < 2 → (t.chan (2 * p + i)).st = .trip ∧ (t.chan (2 * p + i)).en = false ∧
          (t.chan (2 * p + i)).pwm = false ∧ t.rf (Reg.FPRO_CHST (2 * p + i)) 31 28 = 7) ∧
        ∀ d, d ≠ 2 * p → d ≠ 2 * p + 1 → t.chan d = s.chan d)

/-- Latches of one channel in a state that may latch, with fewer than three latches in the preceding 10 s: each comparator or
ball trips it with its own cause; a DC fault, or the fourth latch within 10 s, locks it out. RETRYT later a probe begins, and one
that ends without a latch reaches RUN. -/
def Obligations.ChannelProtection : Prop :=
  ∀ (s : State) (c : Nat), s.fieldLive = true → c < 32 →
    ((s.chan c).st.mayLatch = true → ((s.chan c).recent s.clock).length < 3 →
      (∀ mv, s.rf (Reg.FPRO_THR c) 27 16 < mv → latches s (.iscCrossing c mv) c 1 0) ∧
      (∀ mv ticks, s.rf (Reg.FPRO_THR c) 11 0 < mv → s.rf Reg.FPRO_CFG 31 24 ≤ ticks → (s.chan c).pwm = true →
        (s.chan c).ilim = false → 15 ≤ (s.chan c).ilimRun → latches s (.ilimCrossing c mv ticks) c 2 1) ∧
      (((s.chan c).en = false ∨ (s.chan c).fltOn = true) → latches s (.fltAssert c) c 3 2) ∧
      (∀ mv, s.rf Reg.FPRO_DCOV 31 16 < mv → latches s (.lineOverVoltage c mv) c 4 3)) ∧
    (∀ mv, (s.chan c).st.mayLatch = true → 3 ≤ ((s.chan c).recent s.clock).length → s.rf (Reg.FPRO_THR c) 27 16 < mv →
      chanBecomes s (.iscCrossing c mv) c { (s.chan c).safeOff with
        st := .lockout
        latches := s.clock :: (s.chan c).recent s.clock } (fun t => t.rb Reg.FPRO_LOCK c = true ∧ t.rb Reg.FPRO_EVT 5 = true)) ∧
    (∀ mv : Int, (s.chan c).st.mayLatch = true → s.rf Reg.FPRO_DCOV 15 0 < mv.natAbs →
      chanBecomes s (.dcOffset c mv) c { (s.chan c).safeOff with
        st := .lockout
        latches := s.clock :: (s.chan c).recent s.clock } (fun t => t.rb Reg.FPRO_LOCK c = true ∧
          t.rf (Reg.FPRO_CHST c) 31 28 = 5 ∧ t.rb Reg.FPRO_EVT 6 = true)) ∧
    (∀ mv ticks, s.rf (Reg.FPRO_THR c) 11 0 < mv → s.rf Reg.FPRO_CFG 31 24 ≤ ticks → (s.chan c).pwm = true →
      (s.chan c).ilim = false → (s.chan c).ilimRun < 15 → chanBecomes s (.ilimCrossing c mv ticks) c { s.chan c with
        ilim := true
        ilimRun := (s.chan c).ilimRun + 1 } (fun _ => True)) ∧
    (∀ mv ticks, (mv ≤ s.rf (Reg.FPRO_THR c) 11 0 ∨ ticks < s.rf Reg.FPRO_CFG 31 24) →
      chanBecomes s (.ilimCrossing c mv ticks) c (s.chan c) (fun _ => True)) ∧
    ((s.chan c).en = true → (s.chan c).fltOn = false → chanBecomes s (.fltAssert c) c (s.chan c) (fun _ => True)) ∧
    (∀ mv, ((s.chan c).st.mayLatch = false ∨ mv ≤ s.rf (Reg.FPRO_THR c) 27 16) →
      chanBecomes s (.iscCrossing c mv) c (s.chan c) (fun _ => True)) ∧
    ((s.chan c).st = .trip → chanBecomes s (.retry c) c { (s.chan c).begin .probe with probing := true } (fun _ => True)) ∧
    ((s.chan c).st = .probe → (s.chan c).probing = true → (s.chan c).pwm = true → s.claimed c = false →
      chanBecomes s (.probeComplete c) c { s.chan c with
        st := .run
        tko := false
        probing := false } (fun _ => True))

/-- Temperatures at the NTC inputs, line and earth monitoring: a warning sets its event; a trip ramps out the four
channels of the input that play, towards THERMAL; a measurement above RESTORE starts those in THERMAL and ends the warning; an impedance estimate is recorded in
FMON_Z from the pilot where it has played through the window and else from a programme that is loud enough, with a free value
where no load current was measured; the pilot starts on a silent channel in RUN. -/
def Obligations.ThermalAndMonitoring : Prop :=
  (∀ (s : State) (k mv : Nat), s.fieldLive = true → k < 8 → mv < 2 * s.rf Reg.FPRO_NTC 29 20 →
    inMask s.field.warm k = false →
    ∃ t, exec (.ntcWarning k mv) s = .next t ∧ t.rb Reg.FPRO_EVT 7 = true ∧ (∀ c, t.chan c = s.chan c) ∧ onlyField s t) ∧
  (∀ (s : State) (k mv : Nat), s.fieldLive = true → k < 8 → mv < 2 * s.rf Reg.FPRO_NTC 19 10 →
    ∃ t, exec (.ntcTrip k mv) s = .next t ∧ t.rb Reg.FPRO_EVT 8 = true ∧ onlyField s t ∧
      (∀ i, i < 4 → (s.chan (4 * k + i)).st = .run → (s.chan (4 * k + i)).ph = .playing →
        (t.chan (4 * k + i)).ph = .rampOut ∧ (t.chan (4 * k + i)).hot = true ∧ (t.chan (4 * k + i)).st = .run ∧
          t.rf (Reg.FPRO_CHST (4 * k + i)) 31 28 = 6 ∧ ∃ v, (t.chan (4 * k + i)).seq = .out s.nextSample v) ∧
      (∀ i, i < 4 → (s.chan (4 * k + i)).st = .off → t.chan (4 * k + i) = s.chan (4 * k + i)) ∧
      ∀ c, c / 4 ≠ k → t.chan c = s.chan c) ∧
  (∀ (s : State) (k mv : Nat), s.fieldLive = true → k < 8 → 2 * s.rf Reg.FPRO_NTC 9 0 < mv →
    ∃ t, exec (.thermalRestore k mv) s = .next t ∧ onlyField s t ∧ t.field.warm = delMask s.field.warm k ∧
      (∀ c, c / 4 = k → t.chan c = if (s.chan c).st = .thermal then (s.chan c).begin .start else s.chan c) ∧
      ∀ c, c / 4 ≠ k → t.chan c = s.chan c) ∧
  (∀ (s : State) (c : Nat) (vs is : List Int), s.fieldLive = true → c < 32 → (s.chan c).st = .run →
    (s.chan c).pilot = false → (s.chan c).pilWin = false → (s.chan c).loud = true → sumSquares is ≠ 0 →
    ∃ t, exec (.impedanceEstimate c vs is) s = .next t ∧ t.reg (Reg.FMON_Z c) =
      wd (2147483648 + impedance (s.reg (Reg.FMON_ZK c)).toNat (sumSquares vs) (sumSquares is)) ∧
      (t.chan c).sqN = 0 ∧ onlyField s t ∧ ∀ d, d ≠ c → t.chan d = s.chan d) ∧
  (∀ (s : State) (c : Nat) (vs is : List Int), s.fieldLive = true → c < 32 → (s.chan c).st = .run →
    s.pilotWindow c = true →
    ∃ t, exec (.impedanceEstimate c vs is) s = .next t ∧ (dftBin is ≠ 0 → onlyField s t ∧ t.reg (Reg.FMON_Z c) =
      wd (2147483648 + 1073741824 + impedance (s.reg (Reg.FMON_ZK c)).toNat (dftBin vs) (dftBin is))) ∧
      t.rb (Reg.FMON_Z c) 31 = true ∧ t.rb (Reg.FMON_Z c) 30 = true ∧ ∀ d, d ≠ c → t.chan d = s.chan d) ∧
  (∀ (s : State) (c : Nat) (vs is : List Int), s.fieldLive = true → c < 32 → (s.chan c).st = .run →
    (s.chan c).pilot = false → (s.chan c).pilWin = false → (s.chan c).loud = true → sumSquares is = 0 →
    ∃ t, exec (.impedanceEstimate c vs is) s = .next t ∧ t.free = s.free + 1 ∧ t.reg (Reg.FMON_Z c) =
      wd (2147483648 + fld (Config.freeWord s.free) 23 0) ∧ t.mem = s.mem ∧
      ∀ d, d ≠ c → t.chan d = s.chan d) ∧
  (∀ (s : State) (c : Nat) (vs is : List Int), s.fieldLive = true → c < 32 → s.pilotWindow c = false →
    ((s.chan c).st ≠ .run ∨ (s.chan c).pilot = true ∨ (s.chan c).pilWin = true ∨ (s.chan c).loud = false) →
    ∃ t, exec (.impedanceEstimate c vs is) s = .next t ∧ t.reg (Reg.FMON_Z c) = s.reg (Reg.FMON_Z c) ∧ onlyField s t) ∧
  (∀ (s : State) (c : Nat), s.fieldLive = true → c < 32 → s.rb Reg.FMON_CTRL 0 = true → (s.chan c).st = .run →
    (s.chan c).quiet = true → s.claimed c = false → (s.chan c).pilot = false →
    chanBecomes s (.pilotStart c) c { s.chan c with
      pilot := true
      pilUp := s.nextSample
      pilOut := none
      pilWin := true } (fun _ => True)) ∧
  (∀ (s : State) (mv : Nat), s.fieldLive = true → s.rf Reg.FMON_ELK 15 0 < mv →
    ∃ t, exec (.earthLeakage mv) s = .next t ∧ t.rf Reg.FMON_ELK 31 16 = Nat.min mv 65535 ∧
      t.rf Reg.FMON_ELK 15 0 = s.rf Reg.FMON_ELK 15 0 ∧ t.rb Reg.FMON_EVT 2 = true ∧ (∀ c, t.chan c = s.chan c) ∧ onlyField s t)

/-! ### Fire inputs, Strongbox, players, override, autonomy (chapter 7) -/

/-- The Strongbox: RELOAD starts a load unless the Strongbox is in use; a load whose content fails the checks of R422 ends
LOADED and rejected, one that passes copies the flash; erase and program commands run with FSBX_STATUS.BUSY set, and when
they complete the flash holds 0xFF, or the old bytes AND the buffer's; the players take GO and STOP; a playback of the tone changes
to its message once that is valid, where its on-burst has ended. -/
def Obligations.StrongboxCommands : Prop :=
  (∀ s : State, s.fieldLive = true → s.sbxBusy = false → (∀ c, s.ovrOf c = none) → s.field.asserted = 0 →
    ∃ t, exec (.reload 1) s = .next t ∧ t.field.loading = true ∧ t.reg Reg.FSBX_STATUS = wd 536870912 ∧
      t.reg Reg.FSBX_VALIDLO = 0 ∧ t.reg Reg.FSBX_VALIDHI = 0 ∧ onlyField s t) ∧
  (∀ s : State, s.fieldLive = true → s.field.loading = true → s.rb Reg.FSYS_STATUS 2 = true → s.sbxAccepted = false →
    ∃ t, exec .strongboxLoadEnd s = .next t ∧ t.field.loading = false ∧ t.reg Reg.FSBX_STATUS = wd 3221225472 ∧
      t.rb Reg.FSBX_EVT 0 = true ∧ t.rb Reg.FSBX_EVT 1 = true ∧ t.mem = s.mem) ∧
  (∀ s : State, s.fieldLive = true → s.field.loading = true → s.rb Reg.FSYS_STATUS 2 = true → s.sbxAccepted = true →
    ∃ t, exec .strongboxLoadEnd s = .next t ∧ t.field.loading = false ∧ t.sbxLoaded = true ∧ t.rb Reg.FSBX_EVT 0 = true ∧
      (∀ a, a < 0x1000000 → t.rdByte (strongbox + a) = s.rdByte (fflash + a)) ∧
      ∀ a, a < strongbox → t.rdByte a = s.rdByte a) ∧
  (∀ s : State, s.fieldLive = true → s.rb Reg.FSBX_STATUS 29 = false →
    (∃ t, exec .sbxEraseSector s = .next t ∧ t.field.pg = some (true, (s.reg Reg.FSBX_PGADDR).toNat) ∧
      t.rb Reg.FSBX_STATUS 29 = true ∧ onlyField s t) ∧
    (∃ t, exec .sbxProgramPage s = .next t ∧ t.field.pg = some (false, (s.reg Reg.FSBX_PGADDR).toNat) ∧
      t.rb Reg.FSBX_STATUS 29 = true ∧ onlyField s t)) ∧
  (∀ s : State, s.fieldLive = true → s.rb Reg.FSBX_STATUS 29 = true →
    ∃ t, exec .sbxEraseSector s = .next t ∧ t.field.pg = s.field.pg ∧ t.rb Reg.FSBX_EVT 5 = true ∧ onlyField s t) ∧
  (∀ (s : State) (a : Nat), s.fieldLive = true → s.field.pg = some (true, a) →
    ∃ t, exec .sbxCommandDone s = .next t ∧ t.field.pg = none ∧ t.rb Reg.FSBX_STATUS 29 = false ∧
      t.rb Reg.FSBX_EVT 6 = true ∧ ∀ b, t.rdByte b =
        if fflash + a / 65536 * 65536 ≤ b ∧ b < fflash + a / 65536 * 65536 + 65536 then 0xFF else s.rdByte b) ∧
  (∀ (s : State) (a : Nat), s.fieldLive = true → s.field.pg = some (false, a) →
    ∃ t, exec .sbxCommandDone s = .next t ∧ t.field.pg = none ∧ t.rb Reg.FSBX_EVT 6 = true ∧
      ∀ b, t.rdByte b = if fflash + a / 256 * 256 ≤ b ∧ b < fflash + a / 256 * 256 + 256 then
        s.rdByte b &&& (s.pageBuf (Reg.FSBX_PGBUF 0)).getD (b - (fflash + a / 256 * 256)) 0 else s.rdByte b) ∧
  (∀ (s : State) (p : Nat) (v : Word), s.fieldLive = true → p < 8 → bit v 31 = true → bit v 30 = false →
    ∃ t, exec (.playerGo p v) s = .next t ∧ t.player p = { s.player p with
        go := some (s.newPlay (fld v 21 16) (8 * s.field.folio + 8) (fld v 15 0) (bit v 29))
        stop := false } ∧ (∀ q, q ≠ p → t.player q = s.player q) ∧ (∀ c, t.chan c = s.chan c) ∧ onlyField s t) ∧
  (∀ (s : State) (p : Nat) (v : Word), s.fieldLive = true → p < 8 → bit v 30 = true →
    ∃ t, exec (.playerStop p v) s = .next t ∧ t.player p = { s.player p with
        go := none
        stop := true } ∧ (∀ q, q ≠ p → t.player q = s.player q) ∧ (∀ c, t.chan c = s.chan c) ∧ onlyField s t) ∧
  (∀ (s : State) (c : Nat) (p : Play), s.fieldLive = true → s.sbxLoaded = true → (s.chan c).cur = .message p →
    p.tone = true → s.msgValid p.msg = true →
    ∃ t, exec .toneBurstEnd s = .next t ∧ (t.chan c).cur = .message (
      if s.nextSample ≤ p.start then { p with tone := false }
      else if 48000 ≤ (s.nextSample - p.start) % 96000 then { p with
        tone := false
        start := s.nextSample }
      else p) ∧ onlyField s t)

/-- A fire input measured in its active range enters that state after DEB measurements: FFIN_STATE, FFIN_RES, and FIN of
FFIN_EVT; an entry of override that is enabled for it becomes asserted. FFIN_FOUT.CLR ends a latched release while no source is
enabled; FSBX_CMD.REL releases a latched entry. AUTONOMY: its entry sets FSYS_EVT.AUTON and starts the count of recovered folios anew; every channel that no override claims ramps
its host audio out at the next sample; with HINGE = 1 those with their switch set go to safe-off in OFF. FORCE enters it, EXIT
and the automatic exit leave it once RECOV folios had HEARTBEATs. -/
def Obligations.FireOverrideAndAutonomy : Prop :=
  ((∀ (s : State) (r : Nat), s.fieldLive = true → s.rf Reg.FFIN_CFG 7 0 = 1 → s.rf Reg.FFIN_CFG 11 8 = 1 →
    s.finState 0 = 0 → 10 * s.rf Reg.FFIN_THR 29 20 ≤ r → r < 10 * s.rf Reg.FFIN_THR 19 10 → r ≤ 20000 →
    ∃ t, exec (.finMeasurement [some r]) s = .next t ∧ t.finState 0 = 1 ∧ t.reg (Reg.FFIN_RES 0) = wd r ∧
      t.rb Reg.FFIN_EVT 0 = true ∧ (s.rb (Reg.FSBX_OVR 0) 31 = true → inMask t.field.asserted 0 = true) ∧
      (s.rb (Reg.FSBX_OVR 0) 31 = false → t.field.asserted = s.field.asserted) ∧ onlyField s t) ∧
  (∀ (s : State) (v : Word), s.fieldLive = true → bit v 29 = true → fld v 9 0 = 0 →
    ∃ t, exec (.foutClr v) s = .next t ∧ t.rb Reg.FFIN_FOUT 31 = false ∧ (∀ c, t.chan c = s.chan c) ∧ onlyField s t) ∧
  (∀ (s : State) (k : Nat), s.fieldLive = true → k < 8 → s.rb (Reg.FSBX_OVR k) 30 = true →
    inMask s.field.asserted k = true →
    ∃ t, exec (.rel (bitw (8 + k))) s = .next t ∧ t.field.asserted = s.field.asserted - 2 ^ k ∧
      t.rb Reg.FSBX_EVT 4 = true ∧ onlyField s t) ∧
  (∀ (s : State) (c : Nat) (p : Play), s.fieldLive = true → c < 32 →
    ((s.chan c).settle s.nextSample).cur = .message p → p.rep = true →
    s.claimed c = true → chanBecomes s (.overrideRepeat c) c { (s.chan c).settle s.nextSample with
      cur := .message { p with start := s.nextSample } } (fun _ => True))) ∧
  (∀ s : State, s.fieldLive = true →
    (s.field.autonomy = false → s.rb Reg.FPWM_CTRL 29 = false →
      ∃ t, exec .autonomyEntry s = .next t ∧ t.field.autonomy = true ∧ t.field.recov = 0 ∧ t.rb Reg.FSYS_EVT 0 = true ∧
        onlyField s t ∧ ∀ c, c < 32 → (s.claimed c = false → (t.chan c).pend = none ∧ (t.chan c).st = (s.chan c).st ∧
          ∃ v, (t.chan c).src = .out s.nextSample v) ∧ (s.claimed c = true → t.chan c = s.chan c)) ∧
    (s.field.autonomy = false → s.rb Reg.FPWM_CTRL 29 = true →
      ∃ t, exec .autonomyEntry s = .next t ∧ t.field.autonomy = true ∧ onlyField s t ∧
        ∀ c, c < 32 → s.claimed c = false → s.rb Reg.FPWM_HSW c = true → (s.chan c).st = .run →
          (t.chan c).st = .off ∧ (t.chan c).pwm = false ∧ t.rb Reg.FPWM_HSW c = false) ∧
    (∀ v : Word, s.field.autonomy = false → bit v 30 = true → bit v 29 = false → fld v 7 0 ≠ 0 →
      ∃ t, exec (.force v) s = .next t ∧ t.field.autonomy = true ∧ t.rf Reg.FSYS_AUT 7 0 = fld v 7 0 ∧
        t.rb Reg.FSYS_EVT 0 = true ∧ onlyField s t) ∧
    (∀ v : Word, s.field.autonomy = true → bit v 29 = true → bit v 30 = false → fld v 7 0 ≠ 0 →
      fld v 7 0 ≤ s.field.recov →
      ∃ t, exec (.exit v) s = .next t ∧ t.field.autonomy = false ∧ t.rf Reg.FSYS_AUT 7 0 = fld v 7 0 ∧
        t.rb Reg.FSYS_EVT 1 = true ∧ onlyField s t) ∧
    (∀ v : Word, s.field.autonomy = true → bit v 29 = true → bit v 30 = false → s.field.recov < fld v 7 0 →
      ∃ t, exec (.exit v) s = .next t ∧ t.field.autonomy = true ∧ t.rb Reg.FSYS_EVT 3 = true ∧ onlyField s t) ∧
    (s.field.autonomy = true → s.rb Reg.FSYS_AUT 31 = true → s.rf Reg.FSYS_AUT 7 0 ≤ s.field.recov →
      ∃ t, exec .autonomyExit s = .next t ∧ t.field.autonomy = false ∧ t.field.lastBlock = none ∧
        t.rb Reg.FSYS_EVT 1 = true ∧ onlyField s t ∧
        ∀ c, c < 32 → s.claimed c = false → (s.chan c).st = .run →
          t.chan c = { s.chan c with pend := some (s.rf Reg.FPWM_RAMP 9 0) }) ∧
    (s.field.autonomy = true → s.rb Reg.FSYS_AUT 31 = false →
      ∃ t, exec .autonomyExit s = .next t ∧ t.field.autonomy = true ∧ (∀ c, t.chan c = s.chan c) ∧ onlyField s t))

/-! ### The Keyway and the field bus (chapters 7 and 8) -/

/-- The Keyway's link: each end, aligned, goes to TRAIN; training that ends in time takes it UP with sequence numbers from 0
and LD recorded, beyond 1,536 KEYWAY cycles the host sets LDERR; errors take an UP end DOWN, and EN = 0 the host's end; a message
launches when the lanes are free, with its sequence number and CRC; loss of lane clock and the change of the FIELD clock; loss of the field's HEARTBEAT. -/
def Obligations.KeywayLink : Prop :=
  (∀ s : State, s.isA = true → s.hostLive = true → s.kwy.link = .down → s.rb Reg.KWY_CTRL 0 = true →
    exec (.lanesAligned true) s = .next { s with kwy := { s.kwy with link := .train } }) ∧
  (∀ s : State, s.fieldLive = true → s.field.link = .down →
    exec (.lanesAligned false) s = .next { s with field := { s.field with
      link := .train
      laneClock := true } }) ∧
  (∀ (s : State) (ld : Nat), s.isA = true → s.kwy.link = .train → s.field.link ≠ .down → ld ≤ 1536 →
    ∃ t, exec (.trainingComplete true ld) s = .next t ∧ t.kwy.link = .up ∧ t.kwy.txSeq = 0 ∧ t.kwy.rxSeq = none ∧
      t.reg Reg.KWY_LD = wd ld ∧ t.rb Reg.KWY_EVT 0 = true ∧ t.field = s.field ∧ t.mem = s.mem) ∧
  (∀ (s : State) (ld : Nat), s.isA = true → s.kwy.link ≠ .down → s.field.link = .train → ld ≤ 1536 →
    ∃ t, exec (.trainingComplete false ld) s = .next t ∧ t.field.link = .up ∧ t.field.txSeq = 0 ∧ t.field.rxSeq = none ∧
      t.rf Reg.FKWY_STATUS 26 16 = ld ∧ (∀ c, t.chan c = s.chan c) ∧ onlyField s t) ∧
  (∀ (s : State) (ld : Nat), s.isA = true → s.kwy.link = .train → s.field.link ≠ .down → 1536 < ld →
    ∃ t, exec (.trainingComplete true ld) s = .next t ∧ t.kwy = s.kwy ∧ t.field = s.field ∧ t.rb Reg.KWY_EVT 9 = true ∧
      t.mem = s.mem) ∧
  (∀ s : State, s.isA = true → s.kwy.link = .up → s.kwy.out = none → s.kwy.waiting = [] →
    ∃ t, exec (.keywayLinkDown true true) s = .next t ∧ t.kwy.link = .down ∧ t.kwy.ready = [] ∧ t.kwy.held = [] ∧
      t.rb Reg.KWY_EVT 1 = true ∧ t.field = s.field ∧ t.mem = s.mem) ∧
  (∀ s : State, s.isA = true → s.kwy.link = .train → s.rb Reg.KWY_CTRL 0 = false → s.kwy.out = none →
    s.kwy.waiting = [] → ∃ t, exec (.keywayLinkDown true false) s = .next t ∧ t.kwy.link = .down ∧ t.field = s.field ∧
      t.mem = s.mem) ∧
  (∀ s : State, s.fieldLive = true → s.field.link = .up →
    ∃ t, exec (.keywayLinkDown false true) s = .next t ∧ t.field.link = .down ∧ t.field.ready = [] ∧ t.field.held = [] ∧
      t.rb Reg.FKWY_EVT 4 = true ∧ (∀ c, t.chan c = s.chan c) ∧ onlyField s t) ∧
  (∀ s : State, s.fieldLive = true → ∃ t, exec .laneClockLoss s = .next t ∧ t.field.laneClock = false ∧
    (∀ c, t.chan c = s.chan c) ∧ onlyField s t) ∧
  (∀ s : State, s.fieldLive = true → s.field.osc = false → s.field.laneClock = false →
    ∃ t, exec .fieldClockSwitch s = .next t ∧ t.field.osc = true ∧ t.rb Reg.FSYS_EVT 2 = true ∧ onlyField s t) ∧
  (∀ s : State, s.fieldLive = true → s.field.osc = true → s.field.laneClock = true → s.field.link = .up →
    ∃ t, exec .fieldClockSwitch s = .next t ∧ t.field.osc = false ∧ t.rb Reg.FSYS_EVT 2 = true ∧ onlyField s t) ∧
  (∀ (s : State) (m : KwyMsg), s.isA = true → s.kwy.link = .up → s.kwy.busyUntil ≤ s.clock → s.kwy.ready = [m] →
    s.kwy.first = [] → s.kwy.held = [] → (laneTicks m : Int) ≤ s.hostRoom → m.typ ≠ 3 → m.typ ≠ 9 →
    exec (.keywayMessageLaunch true) s = .next { s with kwy := { s.kwy with
      ready := []
      held := []
      txSeq := (s.kwy.txSeq + 1) % 65536
      busyUntil := s.clock + laneTicks m
      sent := some { m with
        seq := s.kwy.txSeq
        crc := kwyCrc { m with seq := s.kwy.txSeq } } } }) ∧
  (∀ (s : State) (m : KwyMsg), s.isA = true → s.field.link = .up → s.field.busyUntil ≤ s.clock → s.field.ready = [m] →
    s.field.first = [] → s.field.held = [] → s.fieldRoom < (laneTicks m : Int) →
    exec (.keywayMessageLaunch false) s = .next { s with field := { s.field with
      ready := []
      held := [m] } }) ∧
  (∀ s : State, s.isA = true → ∃ t, exec .fhbloss s = .next t ∧ t.rb Reg.KWY_STATUS 2 = false ∧
    t.rb Reg.KWY_EVT 2 = true ∧ t.rb Reg.EVT_SUM 5 = true ∧ t.kwy = s.kwy ∧ t.mem = s.mem)

/-- The field die accepts message `m` of this type, with the sequence number it expects. -/
abbrev fieldAccepts (s : State) (m : KwyMsg) (typ : Nat) : Prop :=
  s.fieldLive = true ∧ s.field.link = .up ∧ m.typ = typ ∧ kwyFails typesFromHost m = none ∧
    seqGap s.field.rxSeq m.seq = 0

/-- The host accepts message `m` of this type, with the sequence number it expects. -/
abbrev hostAccepts (s : State) (m : KwyMsg) (typ : Nat) : Prop :=
  s.isA = true ∧ s.kwy.link = .up ∧ m.typ = typ ∧ kwyFails typesFromField m = none ∧ seqGap s.kwy.rxSeq m.seq = 0

/-- Messages that the field die accepts: the BLOCK that is due gives its 256 samples to its output folio, ENVELOPE its 32
envelopes, a HEARTBEAT the field folio and its time, what is under way
going on at the sample numbers that follow; CMD writes a register and answers; FBUS puts its frame in F0's queue. One that
fails a check is counted with its cause and changes no channel. A BLOCK that is missing at 20 µs is counted. -/
def Obligations.MessagesToField : Prop :=
  (∀ (s : State) (m : KwyMsg), fieldAccepts s m 1 → s.field.autonomy = false → leNat (m.payload.take 6) = s.dueFolio →
    ∃ t l, exec (.block m) s = .next t ∧ t.field.rxSeq = some m.seq ∧ t.field.lastBlock = some s.dueFolio ∧
      t.field.blocks = (s.dueFolio, l) :: s.field.blocks.take 2 ∧
      (∀ k, k < 256 → aget l 0 k = wd (leNat (slice m.payload (8 + k * 4) 4))) ∧ onlyField s t) ∧
  (∀ (s : State) (m : KwyMsg), fieldAccepts s m 2 → s.field.autonomy = false →
    ∃ t l r, exec (.envelope m) s = .next t ∧ t.field.envs = (leNat (m.payload.take 6), l) :: r ∧
      (∀ c, c < 32 → aget l 0 c = leNat (slice m.payload (8 + 4 * c) 4)) ∧ onlyField s t) ∧
  (∀ (s : State) (m : KwyMsg) (c : Nat), fieldAccepts s m 3 → c < 32 → leNat (slice m.payload 2 1) = 2 →
    leNat (slice m.payload 4 4) = Reg.FMON_ZK c - 0x70000000 →
    ∃ t r, exec (.cmd m) s = .next t ∧ t.reg (Reg.FMON_ZK c) = wd (leNat (slice m.payload 8 4)) ∧
      t.field.ready = s.field.ready ++ [⟨false, 4, 0, 12, m.payload.take 2 ++ [0, 0] ++ slice m.payload 4 4 ++ [0, 0, 0, 0], 0⟩] ++ r ∧
      (∀ d, t.chan d = s.chan d) ∧ onlyField s t) ∧
  (∀ (s : State) (m : KwyMsg) (c : Nat), fieldAccepts s m 3 → c < 32 → leNat (slice m.payload 2 1) = 1 →
    leNat (slice m.payload 4 4) = Reg.FMON_ZK c - 0x70000000 →
    ∃ t r, exec (.cmd m) s = .next t ∧ t.reg (Reg.FMON_ZK c) = s.reg (Reg.FMON_ZK c) ∧
      t.field.ready = s.field.ready ++ [⟨false, 4, 0, 12, m.payload.take 2 ++ [0, 0] ++ slice m.payload 4 4 ++
        leBytes (s.reg (Reg.FMON_ZK c)).toNat 4, 0⟩] ++ r ∧ (∀ d, t.chan d = s.chan d) ∧ onlyField s t) ∧
  (∀ (s : State) (m : KwyMsg), fieldAccepts s m 9 →
    ∃ t, exec (.hostHeartbeat m) s = .next t ∧ t.field.folio = leNat (m.payload.take 6) ∧
      t.field.folioAt = s.clock - (s.rf Reg.FKWY_STATUS 26 16 + leNat (slice m.payload 6 2)) ∧
      t.field.lastHb = some s.clock ∧ onlyField s t ∧
      (∀ d : Int, d = (leNat (m.payload.take 6) : Int) - (s.field.folio + roundHalfUp (3 * ((t.field.folioAt : Int) -
          s.field.folioAt)) 256000) →
        (d = 0 → ∀ c, t.chan c = s.chan c) ∧
        (d ≠ 0 → ∀ c, s.chan c ≠ Chan.reset → t.chan c = (s.chan c).shift (8 * d)))) ∧
  (∀ (s : State) (m : KwyMsg) (q : Nat), fieldAccepts s m 8 → leNat (slice m.payload 2 1) = q → q < 4 →
    s.net.f0.sel = none → (s.net.f0.queue.filter (fun e => e.1 == q)).length < 4 →
    ∃ t, exec (.fbusToField m) s = .next t ∧
      t.net.f0.queue = s.net.f0.queue ++ [(q, frameOf (slice m.payload 4 (leNat (m.payload.take 2))))] ∧
      t.net.ports = s.net.ports ∧ (∀ c, t.chan c = s.chan c) ∧ t.mem = s.mem) ∧
  (∀ (s : State) (m : KwyMsg) (k : Nat), s.fieldLive = true → s.field.link = .up → kwyFails typesFromHost m = some k →
    ∀ i ∈ [Instr.block m, .envelope m, .cmd m, .fbusToField m, .hostHeartbeat m],
      ∃ t, exec i s = .next t ∧ t.reg (Reg.FKWY_CNT k) = s.reg (Reg.FKWY_CNT k) + 1 ∧ t.rb Reg.FKWY_EVT 0 = true ∧
        t.field.rxSeq = s.field.rxSeq ∧ (∀ c, t.chan c = s.chan c) ∧ onlyField s t) ∧
  (∀ s : State, s.fieldLive = true → s.field.autonomy = false → s.field.folio ≠ 0 → s.dueFolio = s.field.folio - 1 →
    ∃ t, exec .blockMissing s = .next t ∧ t.field.lastBlock = some (s.field.folio - 1) ∧ t.rb Reg.FKWY_EVT 2 = true ∧
      t.reg (Reg.FKWY_CNT 5) = s.reg (Reg.FKWY_CNT 5) + 1 ∧ onlyField s t ∧
      ∀ c, c < 32 → (s.chan c).cur = .host → (s.chan c).nxt = none → (s.chan c).pend = none → (t.chan c).pend = some 8 ∧
        ∃ v, (t.chan c).src = .out (8 * (s.field.folio - 1)) v)

/-- A field folio starts: the folio counts up, and while the link is UP HEARTBEAT, STATUS and SENSE become ready, in this
order; while it is not UP none. Messages that the host accepts: CMDACK ends the outstanding access with its data, or with
CMDERR; STATUS shows in KWY_STATUS and KWY_FSTAT; SENSE gives the input folio after its own; FAULT sets KWY_FEVT and enters the log; FBUS
and HEARTBEAT are taken. The proxy window: while the link is UP an access that breaks no rule becomes one CMD with the next tag; 20 µs after the
launch it ends with an error and CMDTO. -/
def Obligations.MessagesToHostAndProxy : Prop :=
  ((∀ s : State, s.fieldLive = true → s.field.link = .up → s.field.folioAt + folioTicks s.field.folio ≤ s.clock →
    ∃ t a b r, exec .fieldFolioStart s = .next t ∧ t.field.folio = s.field.folio + 1 ∧
      t.field.folioAt = s.field.folioAt + folioTicks s.field.folio ∧
      t.field.first = [⟨false, 9, 0, 12, leBytes (s.field.folio + 1) 6 ++ [0, 0, 0, 0, 0, 0], 0⟩, a, b] ∧
      a.typ = 5 ∧ b.typ = 6 ∧ t.field.ready = s.field.ready ++ r ∧ t.field.held = s.field.held ++ s.field.first ∧
      onlyField s t) ∧
  (∀ s : State, s.fieldLive = true → s.field.link ≠ .up → s.field.folioAt + folioTicks s.field.folio ≤ s.clock →
    ∃ t, exec .fieldFolioStart s = .next t ∧ t.field.folio = s.field.folio + 1 ∧
      t.field.folioAt = s.field.folioAt + folioTicks s.field.folio ∧ t.field.first = [] ∧
      t.field.ready = s.field.ready ∧ onlyField s t) ∧
  (∀ (s : State) (m : KwyMsg) (p : Proxy), hostAccepts s m 4 → s.kwy.out = some p → p.txn = none → s.kwy.waiting = [] →
    p.tag = leNat (m.payload.take 2) →
    (leNat (slice m.payload 2 1) = 0 → ∃ t, exec (.cmdack m) s = .next t ∧ t.kwy.out = none ∧
      t.ans = ⟨.ok, if p.wr then [] else leBytes (wd (leNat (slice m.payload 8 4))).toNat 4⟩ ∧ t.regs = s.regs ∧
      t.mem = s.mem) ∧
    (leNat (slice m.payload 2 1) ≠ 0 → ∃ t, exec (.cmdack m) s = .next t ∧ t.kwy.out = none ∧ t.ans.resp = .err ∧
      t.rb Reg.KWY_EVT 4 = true ∧ t.mem = s.mem)) ∧
  (∀ (s : State) (m : KwyMsg), hostAccepts s m 5 → leNat (slice m.payload 6 1) = 1 → s.rb Reg.KWY_STATUS 3 = false →
    ∃ t, exec (.status m) s = .next t ∧ t.rb Reg.KWY_STATUS 3 = true ∧ t.rb Reg.KWY_EVT 8 = true ∧
      t.reg Reg.KWY_FSTAT1 = wd (leNat (slice m.payload 8 4)) ∧ t.mem = s.mem) ∧
  (∀ (s : State) (m : KwyMsg), hostAccepts s m 6 →
    ∃ t, exec (.sense m) s = .next t ∧ t.kwy.senseFolio = some (leNat (m.payload.take 6) + 1) ∧
      (∀ k j, k < 72 → j < 8 → smp t.kwy.sense k j = wdi (signed 24 (leNat (slice m.payload (8 + (72 * j + k) * 3) 3)) * 16)) ∧
      t.regs = s.regs ∧ t.mem = s.mem) ∧
  (∀ (s : State) (m : KwyMsg) (k : Nat), hostAccepts s m 7 → leNat (slice m.payload 0 1) = k → k ≤ 8 →
    s.kwy.log.length < 64 →
    ∃ t, exec (.fault m) s = .next t ∧ t.rb Reg.KWY_FEVT k = true ∧ t.rb Reg.KWY_EVT 7 = true ∧
      t.kwy.log = s.kwy.log ++ [⟨k, leNat (slice m.payload 1 1), leNat (slice m.payload 2 1), leNat (slice m.payload 3 1)⟩] ∧
      t.mem = s.mem) ∧
  (∀ (s : State) (m : KwyMsg), hostAccepts s m 8 →
    ∃ t, exec (.fbusToHost m) s = .next t ∧ t.kwy.frame = some (slice m.payload 4 (leNat (m.payload.take 2))) ∧
      t.regs = s.regs ∧ t.mem = s.mem) ∧
  (∀ (s : State) (m : KwyMsg), hostAccepts s m 9 →
    ∃ t, exec (.fieldHeartbeat m) s = .next t ∧ t.kwy.lastHb = some s.clock ∧ t.rb Reg.KWY_STATUS 2 = true ∧ t.mem = s.mem)) ∧
  ((∀ (s : State) (m : Master) (wr : Bool) (a : Nat) (v : Word), s.hostLive = true → 0x70000000 ≤ a → a < 0x70100000 →
    s.accessCause m wr a 4 1 = 0 → s.kwy.link = .up → s.kwy.out = none → s.kwy.waiting = [] →
    ∃ t p, exec (.proxyAccess m wr a v) s = .next t ∧ t.kwy.out = some p ∧ p.wr = wr ∧ p.addr = a ∧ p.v = v ∧
      p.tag = (s.kwy.tag + 1) % 65536 ∧ p.launched = false ∧ t.kwy.waiting = [] ∧
      t.kwy.ready = s.kwy.ready ++ [⟨false, 3, 0, 12, leBytes ((s.kwy.tag + 1) % 65536) 2 ++ [if wr then 2 else 1, 0] ++
        leBytes (a - 0x70000000) 4 ++ leBytes (if wr then v.toNat else 0) 4, 0⟩] ∧ t.regs = s.regs ∧ t.mem = s.mem) ∧
  (∀ (s : State) (m : Master) (wr : Bool) (a : Nat) (v : Word), s.hostLive = true → 0x70000000 ≤ a → a < 0x70100000 →
    s.accessCause m wr a 4 1 ≠ 0 →
    ∃ t, exec (.proxyAccess m wr a v) s = .next t ∧ t.rb Reg.CLH_EVT 0 = true ∧ t.kwy = s.kwy ∧ t.mem = s.mem) ∧
  (∀ (s : State) (p : Proxy), s.isA = true → s.kwy.out = some p → p.launched = true → p.txn = none → s.kwy.waiting = [] →
    ∃ t, exec .cmdTimeout s = .next t ∧ t.kwy.out = none ∧ t.rb Reg.KWY_EVT 3 = true ∧ t.ans.resp = .err ∧ t.mem = s.mem))

/-- The field bus F0: a good frame for the node is counted and goes to the host; the selected frame is sent, backs off after a
collision for a number of slots below 2^min(n, 10), is given up after a late one, and may be attempted again when the
back-off ends. -/
def Obligations.FieldBusF0 : Prop :=
  (∀ (s : State) (f : Frame), s.fieldLive = true → s.rb Reg.FBUS_CTRL 0 = true → f.codeErr = false → f.fcsOk = true →
    64 ≤ f.len → f.len ≤ 1518 → s.f0Dst f.dst = true → s.field.link = .up → s.field.ready = [] → s.field.held = [] →
    (∀ i, i < 48 → bit (s.reg (Reg.FBUS_CNT i)) 31 = true) →
    ∃ t r, exec (.f0FrameReceived f) s = .next t ∧ t.reg (Reg.FBUS_CNT 0) = s.reg (Reg.FBUS_CNT 0) + 1 ∧
      t.field.ready = ⟨false, 8, 0, 4 + (frameBytes f).length + (frameBytes f).length % 2, leBytes (frameBytes f).length 2 ++
        [0, 0] ++ frameBytes f ++ (if (frameBytes f).length % 2 = 1 then [0] else []), 0⟩ :: r ∧ onlyField s t) ∧
  (∀ (s : State) (f : Frame), s.fieldLive = true → s.rb Reg.FBUS_CTRL 0 = true → f.codeErr = false → f.fcsOk = false →
    64 ≤ f.len → f.len ≤ 1518 →
    ∃ t, exec (.f0FrameReceived f) s = .next t ∧ t.reg (Reg.FBUS_CNT 14) = s.reg (Reg.FBUS_CNT 14) + 1 ∧
      t.reg (Reg.FBUS_CNT 0) = s.reg (Reg.FBUS_CNT 0) ∧ (∀ c, t.chan c = s.chan c) ∧ onlyField s t) ∧
  (∀ (s : State) (x : F0Tx), s.fieldLive = true → s.rb Reg.FBUS_CTRL 0 = true → s.net.f0.sel = some x →
    x.backoff = none →
    (∃ t, exec (.f0Transmit false) s = .next t ∧ t.net = { s.net with f0 := { s.net.f0 with sel := none } } ∧
      t.reg (Reg.FBUS_CNT 24) = s.reg (Reg.FBUS_CNT 24) + 1 ∧ (∀ c, t.chan c = s.chan c) ∧ t.mem = s.mem) ∧
    (x.coll < 15 → ∃ t k, exec (.f0Collision false false) s = .next t ∧ k < 2 ^ Nat.min (x.coll + 1) 10 ∧
      t.net.f0.sel = some { x with
        coll := x.coll + 1
        backoff := some k } ∧ t.net.f0.queue = s.net.f0.queue ∧ t.mem = s.mem) ∧
    (∃ t, exec (.f0Collision true false) s = .next t ∧ t.net.f0.sel = none ∧ t.rb Reg.FBUS_EVT 0 = true ∧
      t.reg (Reg.FBUS_CNT 41) = s.reg (Reg.FBUS_CNT 41) + 1 ∧ t.mem = s.mem)) ∧
  (∀ (s : State) (x : F0Tx), s.fieldLive = true → s.net.f0.sel = some x →
    ∃ t, exec .f0BackoffEnd s = .next t ∧ t.net = { s.net with f0 := { s.net.f0 with sel := some { x with backoff := none } } } ∧
      (∀ c, t.chan c = s.chan c) ∧ t.mem = s.mem)

/-! ### Network ports, DVT, AES67 (chapter 8) -/

/-- The ports: MAC_CFG takes a rate that its port has, a change of rate takes LINK to 0; LINK follows the conditions of R438;
the Steward runtime's frames wait in their queue, or are dropped when 64 wait; an idle port sends the head of its highest
queue and counts it; a code error outside frames is counted; a place of the Steward ring is returned,
and an ESMC message in it gives the quality level of the port's SyncE candidate (its format is the model's, log entry 149). -/
def Obligations.NetworkPorts : Prop :=
  ∀ (s : State) (p : Nat), s.hostLive = true → p < 4 → s.portOn p = true →
    (∀ v : Word, rateOk p (fld v 2 0) (fld v 6 5) = true → 1518 ≤ fld v 29 16 → fld v 29 16 ≤ 9216 →
      fld v 2 0 = s.portRate p →
      exec (.macCfgWrite p v) s = .next ((s.typeWrite (Reg.MAC_CFG p) v).setFld (Reg.MAC_CFG p) 29 16 (fld v 29 16))) ∧
    (∀ v : Word, rateOk p (fld v 2 0) (fld v 6 5) = true → 1518 ≤ fld v 29 16 → fld v 29 16 ≤ 9216 →
      fld v 2 0 ≠ s.portRate p → s.txEnabled = [] → s.relays = false → s.link p = true →
      ∃ t, exec (.macCfgWrite p v) s = .next t ∧ t.portRate p = fld v 2 0 ∧ t.link p = false ∧
        t.rf (Reg.MAC_STATUS p) 2 0 = fld v 2 0 ∧ t.rb (Reg.MAC_EVT p) 1 = true ∧ t.mem = s.mem) ∧
    (∀ v : Word, rateOk p (fld v 2 0) (fld v 6 5) = false →
      ∃ t, exec (.macCfgWrite p v) s = .next t ∧ t.reg (Reg.MAC_CFG p) = s.reg (Reg.MAC_CFG p) ∧
        t.rb (Reg.MAC_EVT p) 2 = true ∧ t.net = s.net ∧ t.mem = s.mem) ∧
    (s.portRate p ≠ 0 → s.link p = false →
      ∃ t, exec (.portLinkUp p) s = .next t ∧ t.link p = true ∧ t.rf (Reg.MAC_STATUS p) 30 29 = 0 ∧
        t.rb (Reg.MAC_EVT p) 0 = true ∧ t.net = s.net ∧ t.mem = s.mem) ∧
    (∀ lf rf : Bool, s.link p = true →
      ∃ t, exec (.portLinkDown p lf rf) s = .next t ∧ t.link p = false ∧ t.rb (Reg.MAC_STATUS p) 30 = lf ∧
        t.rb (Reg.MAC_STATUS p) 29 = rf ∧ t.rb (Reg.MAC_EVT p) 1 = true ∧
        t.port p = { s.port p with
          queue := (s.port p).queue.filter (fun e => e.1 != 6)
          busy8 := 0 } ∧
        (∀ q, q ≠ p → t.port q = s.port q) ∧ t.mem = s.mem) ∧
    (∀ (q : Nat) (f : Frame), q < 8 → q ≠ 6 → ((s.port p).queue.filter (fun e => e.1 == q)).length < 64 →
      exec (.frameOffered p q f) s =
        .next (s.setPort p { s.port p with queue := (s.port p).queue ++ [(q, f)] })) ∧
    (∀ (q : Nat) (f : Frame), q < 8 → q ≠ 6 → 64 ≤ ((s.port p).queue.filter (fun e => e.1 == q)).length →
      ∃ t, exec (.frameOffered p q f) s = .next t ∧ t.net = s.net ∧ t.rb (Reg.MAC_EVT p) 5 = true ∧
        t.reg (Reg.MAC_CNT p 38) = s.reg (Reg.MAC_CNT p 38) + 1 ∧ t.mem = s.mem) ∧
    (∀ (e : Nat) (f : Frame), s.link p = true → s.portRate p ≠ 0 → (s.port p).queue = [(6, f)] →
      (s.port p).busy8 ≤ 8 * s.clock + e →
      ∃ t, exec (.portTransmit p e) s = .next t ∧ t.port p = { s.port p with
          queue := []
          lastTx := some f
          txAt := none
          busy8 := 8 * s.clock + e + frameEighths (s.portRate p) f.len } ∧ (∀ q, q ≠ p → t.port q = s.port q) ∧
        t.reg (Reg.MAC_CNT p 24) = s.reg (Reg.MAC_CNT p 24) + 1 ∧ t.hng = s.hng ∧ t.mem = s.mem) ∧
    ((∀ x, (s.port p).ring.head? = some x → x.1.etype ≠ 0x8809) → exec (.stewardRingPlaceFreed p) s =
      .next (s.setPort p { s.port p with ring := (s.port p).ring.drop 1 })) ∧
    (∀ (f : Frame) (st : Option Int) (l : List (Frame × Option Int)) (ql : Nat), p < 2 → (s.port p).ring = (f, st) :: l →
      esmcLevel f = some ql → ∃ t, exec (.stewardRingPlaceFreed p) s = .next t ∧ (t.port p).ring = l ∧
        t.rf (Reg.RSC_CST (p + 2)) 23 16 = ql ∧ (p = 0 → t.rsc.noEsmc0 = 0) ∧ (p = 1 → t.rsc.noEsmc1 = 0) ∧ t.mem = s.mem) ∧
    (s.portRate p ≠ 0 → ∃ t, exec (.pcsCodeError p) s = .next t ∧
      t.reg (Reg.MAC_CNT p 19) = s.reg (Reg.MAC_CNT p 19) + 1 ∧ t.net = s.net ∧ t.mem = s.mem)

/-- The receive steps: a good frame for the node that no engine takes is counted and goes to the Steward ring; a bad FCS is
counted and the frame discarded; a DVT frame that no subscription wants counts in NOSUB; the copy that a subscription waits
for makes it LIVE and is taken. -/
def Obligations.FrameReception : Prop :=
  ∀ (s : State) (p e : Nat) (f : Frame), s.hostLive = true → p < 4 → s.portOn p = true → s.link p = true →
    f.codeErr = false → 64 ≤ f.len → f.len ≤ s.rf (Reg.MAC_CFG p) 29 16 →
    (f.fcsOk = false → ∃ t, exec (.frameReceived p f e) s = .next t ∧
      t.reg (Reg.MAC_CNT p 14) = s.reg (Reg.MAC_CNT p 14) + 1 ∧ t.reg (Reg.MAC_CNT p 0) = s.reg (Reg.MAC_CNT p 0) ∧
      t.net = s.net ∧ t.mem = s.mem) ∧
    (f.fcsOk = true → f.etype ≠ 0x8808 → f.etype ≠ 0x0800 → f.etype ≠ 0x88F7 → f.etype ≠ s.rf Reg.DVT_CTRL 31 16 →
      f.dst = s.macAddr p → (s.port p).ring.length < 256 →
      ∃ t, exec (.frameReceived p f e) s = .next t ∧ t.port p = { s.port p with ring := (s.port p).ring ++ [(untag f, none)] } ∧
        (∀ q, q ≠ p → t.port q = s.port q) ∧ t.reg (Reg.MAC_CNT p 0) = s.reg (Reg.MAC_CNT p 0) + 1 ∧ t.mem = s.mem) ∧
    (f.fcsOk = true → f.etype ≠ 0x8808 → f.etype = s.rf Reg.DVT_CTRL 31 16 → beAt f.payload 0 1 % 16 ≠ 15 →
      s.rb Reg.DVT_CTRL 0 = true → s.boot.l1 = none → p < 2 → s.net.subs = [] →
      ∃ t, exec (.frameReceived p f e) s = .next t ∧ t.reg (Reg.DVT_CNT 1) = s.reg (Reg.DVT_CNT 1) + 1 ∧
        t.net = s.net ∧ t.mem = s.mem) ∧
    (∀ (k : Nat) (x : Sub), f.fcsOk = true → f.etype ≠ 0x8808 → f.etype = s.rf Reg.DVT_CTRL 31 16 →
      beAt f.payload 0 1 = 16 + b2n (s.rb (Reg.DVT_RXID k) 30) → s.rb Reg.DVT_CTRL 0 = true → s.boot.l1 = none → p < 2 →
      k < 512 → s.net.subs = [(k, x)] → x.on = true → x.copies = [] → x.taken = [] → x.heard = [] →
      s.rf (Reg.DVT_RXID k) 22 0 = beAt f.payload 2 3 → s.rb (Reg.DVT_RXID k) (28 + p) = true →
      beAt f.payload 12 2 = s.rf (Reg.DVT_RXMAP k) 8 0 →
      f.payload.length = 16 + 8 * s.rf (Reg.DVT_RXMAP k) 8 0 * fmtW (s.rb (Reg.DVT_RXID k) 30) →
      ((beAt f.payload 6 6 : Int) - 1) * 1000000 * 1099511627776 ≤ 12 * cut16 (s.tim.t8 (s.rxStamp p e)) →
      s.relays = false → s.pst.run = false →
      ∃ t, exec (.frameReceived p f e) s = .next t ∧ t.sub k = { x with
          miss := 0
          lost := false
          copies := [(beAt f.payload 6 6, (p, cut16 (s.tim.t8 (s.rxStamp p e))))]
          taken := [(beAt f.payload 6 6, (p, cut16 (s.tim.t8 (s.rxStamp p e))))]
          heard := [(beAt f.payload 6 6, (p, cut16 (s.tim.t8 (s.rxStamp p e))))] } ∧ t.rb (Reg.DVT_RXID k) 26 = true ∧ t.mem = s.mem)

/-- Streams: a write that enables a subscription or a transmit stream within its ranges and the load budget is held, and
takes effect at the next boundary, or at its first output folio; out of range, or beyond the budget, it is ignored with
its event; an AES67 stream that becomes enabled starts afresh; the DVT release sends the output folio; LOSSN folios without
a copy lose a subscription. -/
def Obligations.StreamCommands : Prop :=
  (∀ (s : State) (k : Nat) (v : Word), s.hostLive = true → k < 512 → s.pst.run = true → bit v 31 = true →
    s.rb (Reg.DVT_RXID k) 31 = false → s.rf (Reg.DVT_RXMAP k) 26 16 + s.rf (Reg.DVT_RXMAP k) 8 0 ≤ 2048 →
    nchOk (bit v 30) (s.rf (Reg.DVT_RXMAP k) 8 0) = true → s.rxEnabled = [] → (s.sub k).on = false →
    (s.typeWrite (Reg.DVT_RXID k) v).budgetOk = true →
    exec (.subscriptionEnable k v) s =
      .next ((s.typeWrite (Reg.DVT_RXID k) v).setSub k { s.sub k with pendEn := some true })) ∧
  (∀ (s : State) (k : Nat) (v : Word), s.hostLive = true → k < 512 → s.pst.run = true → bit v 31 = true →
    2048 < s.rf (Reg.DVT_RXMAP k) 26 16 + s.rf (Reg.DVT_RXMAP k) 8 0 →
    ∃ t, exec (.subscriptionEnable k v) s = .next t ∧ t.reg (Reg.DVT_RXID k) = s.reg (Reg.DVT_RXID k) ∧ t.net = s.net ∧
      t.rb Reg.DVT_EVT 0 = true ∧ t.mem = s.mem) ∧
  (∀ (s : State) (k : Nat) (v : Word), s.hostLive = true → k < 512 → bit v 31 = true → fld v 26 24 = 0 →
    fld v 20 9 + fld v 8 0 ≤ 2560 → nchOk (bit v 30) (fld v 8 0) = true → (s.tx k).on = false →
    s.rb (Reg.DVT_TXCFG k) 31 = false →
    (s.typeWrite (Reg.DVT_TXCFG k) v).budgetOk = true →
    exec (.transmitStreamEnable k v) s =
      .next ((s.typeWrite (Reg.DVT_TXCFG k) v).setTx k { s.tx k with pend := some (true, s.firstRelease) })) ∧
  (∀ (s : State) (k : Nat) (v : Word), s.hostLive = true → k < 512 → bit v 31 = true → fld v 26 24 = 0 →
    fld v 20 9 + fld v 8 0 ≤ 2560 → nchOk (bit v 30) (fld v 8 0) = true →
    (s.typeWrite (Reg.DVT_TXCFG k) v).budgetOk = false →
    ∃ t, exec (.transmitStreamEnable k v) s = .next t ∧ t.reg (Reg.DVT_TXCFG k) = s.reg (Reg.DVT_TXCFG k) ∧ t.net = s.net ∧
      t.rb Reg.DVT_EVT 1 = true ∧ t.mem = s.mem) ∧
  (∀ (s : State) (r : Nat) (v : Word), s.hostLive = true → r < 16 → bit v 31 = true → 1 ≤ fld v 28 22 →
    fld v 28 22 ≤ 64 → fld v 21 15 + fld v 28 22 ≤ 128 →
    ((∀ i, i < 16 → s.rb (Reg.DVT_A67RXCFG i) 31 = false) → ∃ t, exec (.aes67StreamEnable false r v) s = .next t ∧
      t.rb (Reg.DVT_A67RXCFG r) 31 = true ∧ t.arx r = A67.reset ∧ t.net.atx = s.net.atx ∧ t.mem = s.mem) ∧
    ((∀ i, i < 16 → s.rb (Reg.DVT_A67TXCFG i) 31 = false) → a67Spp v * fld v 28 22 * a67W v ≤ 1440 →
      ∃ t, exec (.aes67StreamEnable true r v) s = .next t ∧ t.rb (Reg.DVT_A67TXCFG r) 31 = true ∧ t.atx r = A67.reset ∧
        t.net.arx = s.net.arx ∧ t.mem = s.mem)) ∧
  (∀ (s : State) (k m : Nat) (f : Fol), s.hostLive = true → k < 512 → s.pst.egress = some m → s.outFol m = some f →
    s.rb Reg.DVT_CTRL 0 = true → s.net.txs = [(k, ⟨true, none⟩)] → fld (s.reg (Reg.DVT_TXCFG k)) 27 24 = 1 →
    s.portSends 0 = true → s.portOn 3 = false →
    ∃ t, exec .dvtRelease s = .next t ∧ (t.port 0).queue = (s.port 0).queue ++
        [(6, s.dvtFrame k m 0 (s.dvtPayload f (s.reg (Reg.DVT_TXCFG k))).1)] ∧
      (∀ p, p ≠ 0 → t.port p = s.port p) ∧ t.mem = s.mem) ∧
  (∀ s : State, s.hostLive = true → s.pst.egress = none → exec .dvtRelease s = .next s) ∧
  (∀ (s : State) (k : Nat), s.hostLive = true → k < 512 → (s.sub k).on = true → (s.sub k).lost = false →
    s.rf Reg.DVT_CTRL 15 8 ≤ (s.sub k).miss →
    ∃ t, exec (.streamLoss k) s = .next t ∧ t.sub k = { s.sub k with lost := true } ∧
      t.rb (Reg.DVT_RXID k) 26 = false ∧ t.rb Reg.DVT_EVT 4 = true ∧ (∀ j, j ≠ k → t.sub j = s.sub j) ∧ t.mem = s.mem)

/-- PTP, while the Steward runtime runs: while unlocked, an offset above STEPTH (and of 1 µs or more) is removed by a SET of
the port's view; an announce receipt timeout unlocks it. While the runtime does not run nothing is processed. A Sync or Announce interval ends: a master of DA or DB, and domain DC, put their message into queue 7 of their port, as
IEEE 802.3 with EtherType 0x88F7 or as UDP/IPv4 by the TIME section. -/
def Obligations.PtpServoAndMessages : Prop :=
  ((∀ (s : State) (i : Nat) (m : PtpSync), s.hostLive = true → s.runtime = true → i < 2 → m.isSync = true →
    m.pstate ≠ 4 → (s.tim.ptp i).master = false → (s.tim.ptp i).lock = false → 1000 * 65536 ≤ m.offset →
    (s.boot.stepth : Int) * 65536 < m.offset →
    ∃ t, exec (.ptpMessage i m) s = .next t ∧ t.tim.view i = { s.tim.view i with
      anchor := s.tick
      offset := cut16 ((s.tim.view i).at8 s.tim.now8 - m.offset * 16777216)
      slew := 0
      slewAt := s.tick } ∧ (t.tim.ptp i).lock = false ∧ t.rb (srvReg i) 31 = false ∧ t.mem = s.mem) ∧
  (∀ (s : State) (i : Nat), s.hostLive = true → s.runtime = true → i < 2 →
    ∃ t, exec (.announceReceiptTimeout i) s = .next t ∧ (t.tim.ptp i).lock = false ∧ t.rb (srvReg i) 31 = false ∧
      t.tim.view i = s.tim.view i ∧ t.mem = s.mem) ∧
  (∀ (s : State) (i : Nat) (m : PtpSync), s.runtime = false → exec (.ptpMessage i m) s = .next s)) ∧
  ((∀ s : State, s.hostLive = true → s.runtime = true → s.portOn 3 = true →
    ((s.port 3).queue.filter (fun e => e.1 == 7)).length < 64 →
    ∃ t f, exec (.syncInterval 2) s = .next t ∧ t.tim = { s.tim with dcSent := s.tim.dcSent + 1 } ∧
      (t.port 3).queue = (s.port 3).queue ++ [(7, f)] ∧ f.etype = (if s.boot.ptp.udp.testBit 3 then 0x0800 else 0x88F7) ∧ t.regs = s.regs ∧ t.mem = s.mem) ∧
  (∀ (s : State) (i : Nat), s.hostLive = true → s.runtime = true → i < 2 → (s.tim.ptp i).master = true →
    ((s.port i).queue.filter (fun e => e.1 == 7)).length < 64 →
    ∃ t f, exec (.syncInterval i) s = .next t ∧ (t.tim.ptp i).sent = (s.tim.ptp i).sent + 1 ∧
      (t.port i).queue = (s.port i).queue ++ [(7, f)] ∧ f.etype = (if s.boot.ptp.udp.testBit i then 0x0800 else 0x88F7) ∧ t.regs = s.regs ∧ t.mem = s.mem))

/-! ### Exchange, sink chain, serial audio and Till ports (chapters 5 and 12) -/

/-- The Exchange: a configuration with a binding it accepts is held until the next mix slot boundary, another is ignored with
CFGERR; an asynchronous channel locks, is lost, resumes and fades out by its conditions; the 1 s check of a synchronous one
records its deviation and flags more than 20 ppm. -/
def Obligations.ExchangeCommands : Prop :=
  ∀ (s : State) (c : Nat), s.hostLive = true → c < 1280 →
    (∀ v : Word, s.powered (Reg.EXC_CFG c) = true → excInOk (fld v 15 0) = true → (c < 256 ∨ fld v 18 16 ≤ 4) →
      ∃ t, exec (.excCfgWrite c v) s = .next t ∧ t.reg (Reg.EXC_CFG c) = (s.typeWrite (Reg.EXC_CFG c) v).reg (Reg.EXC_CFG c) ∧
        t.exc c = { s.exc c with pend := some (t.reg (Reg.EXC_CFG c)) } ∧ (∀ d, d ≠ c → t.exc d = s.exc d) ∧ t.mem = s.mem) ∧
    (∀ v : Word, s.powered (Reg.EXC_CFG c) = false → ∃ t, exec (.excCfgWrite c v) s = .next t ∧ t.ans = ⟨.err, []⟩ ∧
      t.out = s.out ∧ t.rb Reg.CLH_EVT 0 = true ∧ t.mem = s.mem) ∧
    (∀ v : Word, s.powered (Reg.EXC_CFG c) = true → excInOk (fld v 15 0) = false →
      ∃ t, exec (.excCfgWrite c v) s = .next t ∧ t.reg (Reg.EXC_CFG c) = s.reg (Reg.EXC_CFG c) ∧ t.out = s.out ∧
        t.rb Reg.EXC_EVT 5 = true ∧ t.mem = s.mem) ∧
    (c < 256 → (s.exc c).st = .acquire → ∃ t, exec (.acquireLock c) s = .next t ∧ t.exc c = { s.exc c with
      st := .locked
      fadeIn := 0
      fadeOut := none
      rate := s.excEstimate (s.exc c) } ∧ t.rb Reg.EXC_EVT 0 = true ∧ (∀ d, d ≠ c → t.exc d = s.exc d) ∧ t.mem = s.mem) ∧
    (∀ rate, c < 256 → (s.exc c).st = .locked → ∃ t, exec (.inputLoss c rate) s = .next t ∧ t.exc c = { s.exc c with
      st := .lost
      rate := excRateWord rate
      losses := Nat.min 65535 ((s.exc c).losses + 1)
      fadeOut := none
      zeroFrom := some (Nat.min (3 * s.tick) (((s.exc c).missing c).getD (3 * s.tick))) } ∧ t.rb Reg.EXC_EVT 1 = true ∧ (rateInRange rate = false → t.rb Reg.EXC_EVT 4 = true) ∧
      t.reg Reg.EXC_CNT_LOSS = s.reg Reg.EXC_CNT_LOSS + 1 ∧ (∀ d, d ≠ c → t.exc d = s.exc d) ∧ t.mem = s.mem) ∧
    (c < 256 → (s.exc c).st = .locked → (s.exc c).fadeOut = none →
      exec (.phaseError c) s = .next (s.setExc c { s.exc c with fadeOut := some 0 })) ∧
    (∀ rate, c < 256 → (s.exc c).st = .lost → rateInRange rate = true →
      exec (.inputResume c rate) s = .next (s.setExc c { s.exc c with
        st := .acquire
        rate := excRateWord rate
        fadeIn := 0
        fadeOut := none
        zeroFrom := none })) ∧
    (∀ rate, rateInRange rate = false → exec (.inputResume c rate) s = .next s) ∧
    (∀ dev : Int, 256 ≤ c → (s.exc c).st = .locked → ∃ t, exec (.syncRatioCheck c dev) s = .next t ∧
      (t.exc c).syncErr = decide (20000 < dev.natAbs) ∧ (t.exc c).dev = dev ∧ (t.exc c).st = .locked ∧
      (20000 < dev.natAbs → t.rb Reg.EXC_EVT 3 = true) ∧ (∀ d, d ≠ c → t.exc d = s.exc d) ∧ t.mem = s.mem)

/-- The sink chain's registers: a delay line is enabled where it fits and overlaps no other, a delay within the line is
held for the folio of R302, LEN only while the line is off, a limiter's look-ahead and threshold in range; each other
write is ignored with its event. The limiter never exceeds its threshold. -/
def Obligations.SinkChainRegisters : Prop :=
  (∀ (s : State) (k : Nat) (v : Word), s.hostLive = true → k < 2560 →
    (bit v 31 = true → s.domOn 6 = true → s.lineOn k = false → fld v 24 0 + s.lineLen k ≤ vaultSlots →
      (∀ j ∈ s.linesOn, j = k ∨ fld v 24 0 + s.lineLen k ≤ s.lineBase j ∨ s.lineBase j + s.lineLen j ≤ fld v 24 0) →
      ∃ t, exec (.dcfgWrite k v) s = .next t ∧ t.lineOn k = true ∧ t.lineBase k = fld v 24 0 ∧
        t.out = { s.out with staged := s.out.staged ++ [(s.effectFolio, (Reg.OUT_DCFG k, v))] } ∧ t.mem = s.mem) ∧
    (bit v 31 = true → s.domOn 6 = true → vaultSlots < fld v 24 0 + s.lineLen k →
      ∃ t, exec (.dcfgWrite k v) s = .next t ∧ t.lineOn k = s.lineOn k ∧ t.out = s.out ∧ t.rb Reg.OUT_EVT 1 = true ∧
        t.mem = s.mem) ∧
    (s.lineOn k = true → fld v 29 0 ≤ (s.lineLen k - 3) * 256 → (fld v 29 0 % 256 = 0 ∨ 256 ≤ fld v 29 0) →
      ∃ t, exec (.dlyWrite k v) s = .next t ∧ t.reg (Reg.OUT_DLY k) = wd (fld v 29 0) ∧
        (s.effectFolio, (Reg.OUT_DLY k, wd (fld v 29 0))) ∈ t.out.staged ∧ t.mem = s.mem ∧
        ∀ a, a ≠ Reg.OUT_DLY k → t.reg a = s.reg a) ∧
    (s.lineOn k = false → ∃ t, exec (.dlyWrite k v) s = .next t ∧ t.out = s.out ∧ t.rb Reg.OUT_EVT 1 = true ∧
      t.mem = s.mem ∧ t.reg (Reg.OUT_DLY k) = s.reg (Reg.OUT_DLY k)) ∧
    (s.lineOn k = false → 4 ≤ fld v 22 0 → fld v 22 0 ≤ 4194304 →
      exec (.dlenWrite k v) s = .next (s.setReg (Reg.OUT_DLEN k) (wd (fld v 22 0)))) ∧
    (s.lineOn k = true → ∃ t, exec (.dlenWrite k v) s = .next t ∧ t.reg (Reg.OUT_DLEN k) = s.reg (Reg.OUT_DLEN k) ∧
      t.rb Reg.OUT_EVT 1 = true ∧ t.out = s.out ∧ t.mem = s.mem) ∧
    (fld v 5 0 ≤ 32 → ∃ t, exec (.limWrite k false v) s = .next t ∧
      t.reg (Reg.OUT_LIM k) = (s.typeWrite (Reg.OUT_LIM k) v).reg (Reg.OUT_LIM k) ∧
      (s.effectFolio, (Reg.OUT_LIM k, t.reg (Reg.OUT_LIM k))) ∈ t.out.staged ∧ t.mem = s.mem) ∧
    (fld v 30 0 ≠ 0 → ∃ t, exec (.limWrite k true v) s = .next t ∧
      t.reg (Reg.OUT_THR k) = (s.typeWrite (Reg.OUT_THR k) v).reg (Reg.OUT_THR k) ∧
      (s.effectFolio, (Reg.OUT_THR k, t.reg (Reg.OUT_THR k))) ∈ t.out.staged ∧ t.mem = s.mem) ∧
    (32 < fld v 5 0 → ∃ t, exec (.limWrite k false v) s = .next t ∧ t.out = s.out ∧ t.rb Reg.OUT_EVT 2 = true ∧
      t.mem = s.mem)) ∧
  ∀ (g t kk thr : Nat) (x : Int), (limStep g t kk x thr).2.natAbs ≤ thr

/-- The writes of a delay line and of a limiter complete for every value they accept, and say what is then stored: EN of
OUT_DCFG with room in Vault-D and no overlap, EN = 0 at any time, a delay with D ≥ 1 wherever its fraction is not 0, a length of
4 to 4,194,304 while the line is off, a look-ahead to 32 and a threshold that is not 0. A change of EN, a delay and a limiter
value are staged for the folio of R302; every other register keeps its value. A value not accepted leaves the registers of the
sink and sets DERR or LIMERR. -/
def Obligations.DelayLineAndLimiterWritesComplete : Prop :=
  ∀ (s : State) (k : Nat) (v : Word), s.hostLive = true → k < 2560 →
    (bit v 31 = true → s.domOn 6 = true → fld v 24 0 + s.lineLen k ≤ vaultSlots →
      (∀ j ∈ s.linesOn, j = k ∨ fld v 24 0 + s.lineLen k ≤ s.lineBase j ∨ s.lineBase j + s.lineLen j ≤ fld v 24 0) →
      (s.lineOn k = true → fld v 24 0 = s.lineBase k) →
      ∃ t, exec (.dcfgWrite k v) s = .next t ∧ t.lineOn k = true ∧ t.lineBase k = fld v 24 0 ∧
        t.out = (if s.lineOn k then s.out
          else { s.out with staged := s.out.staged ++ [(s.effectFolio, (Reg.OUT_DCFG k, v))] }) ∧
        (∀ a, a ≠ Reg.OUT_DCFG k → t.reg a = s.reg a) ∧ t.mem = s.mem) ∧
    (bit v 31 = true → s.domOn 6 = false → exec (.dcfgWrite k v) s = .next s) ∧
    (bit v 31 = false → ∃ t, exec (.dcfgWrite k v) s = .next t ∧ t.lineOn k = false ∧ t.reg (Reg.OUT_DLY k) = 0 ∧
        t.out = (if s.lineOn k then { s.out with staged := s.out.staged ++ [(s.effectFolio, (Reg.OUT_DCFG k, v))] }
          else s.out) ∧
        (∀ a, a ≠ Reg.OUT_DCFG k → a ≠ Reg.OUT_DLY k → t.reg a = s.reg a) ∧ t.mem = s.mem) ∧
    (s.lineOn k = true → fld v 29 0 ≤ (s.lineLen k - 3) * 256 → (fld v 29 0 % 256 = 0 ∨ 256 ≤ fld v 29 0) →
      ∃ t, exec (.dlyWrite k v) s = .next t ∧ t.reg (Reg.OUT_DLY k) = wd (fld v 29 0) ∧
        t.out = { s.out with staged :=
          s.out.staged.filter (fun e => !(e.1 == s.effectFolio && e.2.1 == Reg.OUT_DLY k)) ++
            [(s.effectFolio, (Reg.OUT_DLY k, wd (fld v 29 0)))] } ∧
        (∀ a, a ≠ Reg.OUT_DLY k → t.reg a = s.reg a) ∧ t.mem = s.mem) ∧
    ((s.lineOn k = false ∨ (s.lineLen k - 3) * 256 < fld v 29 0 ∨ fld v 29 0 % 256 ≠ 0 ∧ fld v 29 0 < 256) →
      ∃ t, exec (.dlyWrite k v) s = .next t ∧ t.reg (Reg.OUT_DLY k) = s.reg (Reg.OUT_DLY k) ∧ t.out = s.out ∧
        t.rb Reg.OUT_EVT 1 = true ∧ t.mem = s.mem) ∧
    (s.lineOn k = false → 4 ≤ fld v 22 0 → fld v 22 0 ≤ 4194304 →
      exec (.dlenWrite k v) s = .next (s.setReg (Reg.OUT_DLEN k) (wd (fld v 22 0)))) ∧
    ((s.lineOn k = true ∨ fld v 22 0 < 4 ∨ 4194304 < fld v 22 0) →
      ∃ t, exec (.dlenWrite k v) s = .next t ∧ t.reg (Reg.OUT_DLEN k) = s.reg (Reg.OUT_DLEN k) ∧ t.out = s.out ∧
        t.rb Reg.OUT_EVT 1 = true ∧ t.mem = s.mem) ∧
    (∀ thr : Bool, (if thr then fld v 30 0 ≠ 0 else fld v 5 0 ≤ 32) →
      ∃ t, exec (.limWrite k thr v) s = .next t ∧
        t.reg (if thr then Reg.OUT_THR k else Reg.OUT_LIM k) =
          (s.typeWrite (if thr then Reg.OUT_THR k else Reg.OUT_LIM k) v).reg (if thr then Reg.OUT_THR k else Reg.OUT_LIM k) ∧
        (∀ a, a ≠ (if thr then Reg.OUT_THR k else Reg.OUT_LIM k) → t.reg a = s.reg a) ∧
        (s.effectFolio, ((if thr then Reg.OUT_THR k else Reg.OUT_LIM k),
          t.reg (if thr then Reg.OUT_THR k else Reg.OUT_LIM k))) ∈ t.out.staged ∧ t.out.snk = s.out.snk ∧ t.mem = s.mem) ∧
    (∀ thr : Bool, (if thr then fld v 30 0 = 0 else 32 < fld v 5 0) →
      ∃ t, exec (.limWrite k thr v) s = .next t ∧ t.reg (Reg.OUT_LIM k) = s.reg (Reg.OUT_LIM k) ∧
        t.reg (Reg.OUT_THR k) = s.reg (Reg.OUT_THR k) ∧ t.out = s.out ∧ t.rb Reg.OUT_EVT 2 = true ∧ t.mem = s.mem)

/-- The serial audio ports: enabling a master places its frames on the folio, enabling a slave starts both crossings at 32
frames; a reserved FMT keeps the field, and a change of the format of a running port keeps it, each with CFGERR; SAP_ALIGN places the masters it names; a frame of the right length that a slave receives enters its crossing and
one leaves, and its slots reach the Exchange channels bound to them with the tick as timestamp; one of another length is discarded with FSERR. The Till ports: a received word enters the FIFO, with XOFF by the watermarks, or overflows it; a header word gives the
timestamp of its frame; a word leaves the transmit
side unless it is held or disabled; TILL_HOLD is the port's; TIL_WM takes LOW < HIGH ≤ 16,384. -/
def Obligations.AudioAndTillPorts : Prop :=
  (∀ (s : State) (n : Nat), s.hostLive = true → n < 16 →
    (∀ v : Word, s.powered (Reg.SAP_CFG n) = true → fld v 29 28 ≠ 3 → fld v 26 25 ≠ 3 → bit v 31 = true →
      s.sapOn n = false →
      (bit v 30 = true → ∃ t, exec (.sapEnable n v) s = .next t ∧ t.sapOn n = true ∧
        t.sapPort n = { s.sapPort n with al := some s.sapPlaced } ∧
        (∀ m, m ≠ n → t.sapPort m = s.sapPort m) ∧ t.mem = s.mem) ∧
      (bit v 30 = false → ∃ t, exec (.sapEnable n v) s = .next t ∧ t.sapOn n = true ∧
        (t.sapPort n).rx.length = 32 ∧ (t.sapPort n).tx.length = 32 ∧ (∀ m, m ≠ n → t.sapPort m = s.sapPort m) ∧
        t.mem = s.mem)) ∧
    (∀ v : Word, s.powered (Reg.SAP_CFG n) = true → fld v 29 28 = 3 → ∃ t, exec (.sapEnable n v) s = .next t ∧
      t.rf (Reg.SAP_CFG n) 29 28 = s.rf (Reg.SAP_CFG n) 29 28 ∧ t.rb Reg.SAP_EVT 2 = true ∧ t.mem = s.mem) ∧
    (∀ v : Word, s.powered (Reg.SAP_CFG n) = true → s.sapOn n = true → fld v 30 27 ≠ s.rf (Reg.SAP_CFG n) 30 27 →
      ∃ t, exec (.sapEnable n v) s = .next t ∧ t.rf (Reg.SAP_CFG n) 30 27 = s.rf (Reg.SAP_CFG n) 30 27 ∧
        t.rb Reg.SAP_EVT 2 = true ∧ t.mem = s.mem) ∧
    (s.powered Reg.SAP_ALIGN = true → s.sapOn n = true → s.sapMaster n = true → exec (.sapAlign (bitw n)) s =
      .next (s.setSap n { s.sapPort n with al := some s.sapPlaced })) ∧
    (∀ ws : List Word, s.sapOn n = true → s.sapMaster n = false → 16 ≤ (s.sapPort n).rx.length →
      (s.sapPort n).rx.length < 48 → 17 ≤ (s.sapPort n).tx.length → (s.sapPort n).tx.length ≤ 48 →
      ∃ t, exec (.slaveFrame n (s.sapBits n) ws) s = .next t ∧ t.sapPort n = { s.sapPort n with
        rx := (s.sapPort n).rx ++ [ws]
        tx := (s.sapPort n).tx.drop 1 } ∧ (∀ m, m ≠ n → t.sapPort m = s.sapPort m) ∧
        (∀ c, bit (s.exc c).cfg 31 = false → t.exc c = s.exc c) ∧
        (∀ i c, i < s.sapSlots n → bit (s.exc c).cfg 31 = true →
          fld (s.exc c).cfg 15 0 = 0x2000 + 32 * n + i → s.out.exc = [(c, s.exc c)] →
          t.exc c = { s.exc c with
            ring := (⟨s.tick, 0, wlIn (s.rf (Reg.SAP_CFG n) 26 25) (ws.getD i 0), true⟩ :: (s.exc c).ring).take (excRingLen c)
            wpos := (s.exc c).wpos + 1
            taint := (s.exc c).taint - 1 }) ∧ t.regs = s.regs) ∧
    (∀ (bits : Nat) (ws : List Word), s.sapOn n = true → s.sapMaster n = false → bits ≠ s.sapBits n →
      ∃ t, exec (.slaveFrame n bits ws) s = .next t ∧ t.sap = s.sap ∧ t.rb Reg.SAP_EVT 3 = true ∧ t.mem = s.mem)) ∧
  (∀ (s : State) (n : Nat), s.hostLive = true → n < 4 →
    (∀ w : Word, bit (s.tilCfg n) 31 = true → (s.till n).rx.length < 16384 →
      exec (.tillWordReceived n w true) s = .next (s.setTill n { s.till n with
        rx := (s.till n).rx ++ [(w, true)]
        discard := false
        xoff := xoffOf (s.reg (Reg.TIL_WM n)) ((s.till n).rx.length + 1) (s.till n).xoff
        hdrAt := s.tick
        pos := 0 })) ∧
    (∀ w : Word, bit (s.tilCfg n) 31 = true → (s.till n).discard = false → (s.till n).rx.length < 16384 →
      ∃ t, exec (.tillWordReceived n w false) s = .next t ∧ t.till n = { s.till n with
        rx := (s.till n).rx ++ [(w, false)]
        xoff := xoffOf (s.reg (Reg.TIL_WM n)) ((s.till n).rx.length + 1) (s.till n).xoff
        pos := (s.till n).pos + 1 } ∧ (∀ m, m ≠ n → t.till m = s.till m) ∧
        (∀ c, bit (s.exc c).cfg 31 = false → t.exc c = s.exc c) ∧ t.regs = s.regs) ∧
    (∀ (w : Word) (first : Bool), bit (s.tilCfg n) 31 = true → ((s.till n).discard = false ∨ first = true) →
      16384 ≤ (s.till n).rx.length →
      ∃ t, exec (.tillWordReceived n w first) s = .next t ∧ t.till n = { s.till n with discard := true } ∧
        t.rb Reg.TIL_EVT (4 * n + 1) = true ∧ t.mem = s.mem) ∧
    (∀ (w : Word × Bool) (l : List (Word × Bool)), (s.till n).tx = w :: l → (s.till n).hold = false →
      bit (s.tilCfg n) 30 = true → exec (.tillWordSent n) s = .next (s.setTill n { s.till n with
        tx := l
        sent := some w })) ∧
    ((s.till n).hold = true → exec (.tillWordSent n) s = .next s) ∧
    (∀ high : Bool, exec (.tillHold n high) s = .next (s.setTill n { s.till n with hold := high })) ∧
    (∀ v : Word, s.powered (Reg.TIL_WM n) = true → fld v 14 0 < fld v 30 16 → fld v 30 16 ≤ 16384 →
      ∃ t, exec (.tilWmWrite n v) s = .next t ∧ t.rf (Reg.TIL_WM n) 14 0 = fld v 14 0 ∧
        t.rf (Reg.TIL_WM n) 30 16 = fld v 30 16 ∧ (t.till n).rx = (s.till n).rx ∧
        (t.till n).xoff = xoffOf (t.reg (Reg.TIL_WM n)) (s.till n).rx.length (s.till n).xoff ∧ t.mem = s.mem) ∧
    (∀ v : Word, s.powered (Reg.TIL_WM n) = true → fld v 30 16 ≤ fld v 14 0 → ∃ t, exec (.tilWmWrite n v) s = .next t ∧ t.til = s.til ∧
      t.reg (Reg.TIL_WM n) = s.reg (Reg.TIL_WM n) ∧ t.rb Reg.TIL_EVT 16 = true ∧ t.mem = s.mem))

/-! ### The Remit engine (chapter 11) -/

/-- Channel `n` is about to execute program word `w`, of opcode `op`, at its program counter. -/
abbrev atWord (s : State) (n op w : Nat) : Prop :=
  s.hostLive = true ∧ n < 16 ∧ (s.rmtCh n).st = .run ∧ (s.rmtCh n).waiting = false ∧ (s.rmtCh n).ending = false ∧
    (s.rmtCh n).mv = none ∧ s.rmtWord (s.rmtCh n).pc = some w ∧ rmtReserved w = false ∧ rmtOp w = op

/-- Channel `n` becomes `c`; every other channel and all memory stay. -/
def channelBecomes (s : State) (i : Instr) (n : Nat) (c : RmtCh) (p : State → Prop) : Prop :=
  ∃ t, exec i s = .next t ∧ t.rmtCh n = c ∧ (∀ m, m ≠ n → t.rmtCh m = s.rmtCh m) ∧ t.mem = s.mem ∧ p t

/-- The channel at its next word. -/
def atNext (c : RmtCh) (pc : Nat) : RmtCh := { c with
  pc := pc % 4294967296
  rem := 0
  waiting := false
  mv := none }

/-- Program words: a channel that the arbitration of R624 serves copies the next burst of its MOVE, which ends at a boundary
of 1,024 bytes at either end, and no other byte; one that it does not serve waits; LOOP repeats its body CNT times, WAIT goes on once its condition holds and clears a flag that it
waited for, SIGNAL sets its flag, LINK continues at its address, END parks unless a doorbell was rung; a LINK that is not
aligned faults. -/
def Obligations.RemitWords : Prop :=
  (∀ (s : State) (n w x : Nat), atWord s n 1 w → s.rmtWord ((s.rmtCh n).pc + 8) = some x → (s.rmtCh n).loop = none →
    rmtFld w 59 57 = 0 → rmtFld w 23 0 ≠ 0 →
    s.rmtMove n = some ⟨x % 4294967296, x / 4294967296, rmtFld w 23 0, false, false, false⟩) ∧
  (∀ (s : State) (n : Nat) (m : RmtMove), s.hostLive = true → n < 16 → s.rmtMove n = some m → s.rmtWinner = some n →
    m.sfix = false → m.dfix = false → m.lk = false → s.rf (Reg.RMT_CFG n) 7 0 = 0 → 0x40000000 ≤ m.src →
    m.src + m.len ≤ 0x40E00000 → 0x40000000 ≤ m.dst → m.dst + m.len ≤ 0x40E00000 →
    ∃ t, exec (.move n) s = .next t ∧
      t.rmtCh n = (if m.len = m.burst then atNext (s.rmtCh n) ((s.rmtCh n).pc + 16) else { s.rmtCh n with
        mv := some { m with
          src := m.src + m.burst
          dst := m.dst + m.burst
          len := m.len - m.burst }
        rem := m.len - m.burst }) ∧
      m.burst = Nat.min m.len (Nat.min (1024 - m.dst % 1024) (1024 - m.src % 1024)) ∧
      (∀ k, k < m.burst → s.unitHeld (m.src + k) = false → t.rdByte (m.dst + k) = s.rdByte (m.src + k)) ∧
      (∀ a, a < m.dst ∨ m.dst + m.burst ≤ a → t.rdByte a = s.rdByte a) ∧
      t.reg (Reg.RMT_BYTES n) = wd ((s.reg (Reg.RMT_BYTES n)).toNat + m.burst)) ∧
  (∀ (s : State) (n : Nat), s.hostLive = true → n < 16 → (s.rmtMove n).isSome = true → s.rmtWinner ≠ some n →
    exec (.move n) s = .next s) ∧
  (∀ (s : State) (n w : Nat), atWord s n 2 w →
    ((s.rmtCh n).loop = none → rmtFld w 59 52 ≠ 0 → rmtFld w 51 36 = 1 →
      channelBecomes s (.remitLoop n) n (atNext (s.rmtCh n) ((s.rmtCh n).pc + 8)) (fun t => t.regs = s.regs)) ∧
    ((s.rmtCh n).loop = none → rmtFld w 59 52 ≠ 0 → 2 ≤ rmtFld w 51 36 →
      ∃ t l, exec (.remitLoop n) s = .next t ∧ (t.rmtCh n).loop = some l ∧ l.left = rmtFld w 51 36 - 2 ∧ l.run = 1 ∧
        l.word = (s.rmtCh n).pc ∧ (t.rmtCh n).pc = l.start ∧
        l.start = ((s.rmtCh n).pc + 4294967296 - 8 * rmtFld w 59 52) % 4294967296 ∧ t.mem = s.mem ∧ t.regs = s.regs) ∧
    (∀ l, (s.rmtCh n).loop = some l → l.word = (s.rmtCh n).pc → l.left = 0 →
      channelBecomes s (.remitLoop n) n (atNext { s.rmtCh n with loop := none } ((s.rmtCh n).pc + 8)) (fun t => t.regs = s.regs)) ∧
    (∀ l, (s.rmtCh n).loop = some l → l.word = (s.rmtCh n).pc → l.left ≠ 0 →
      channelBecomes s (.remitLoop n) n (atNext { s.rmtCh n with loop := some { l with
        left := l.left - 1
        run := l.run + 1 } } l.start) (fun t => t.regs = s.regs))) ∧
  (∀ (s : State) (n w : Nat), atWord s n 3 w →
    (s.waitHolds w = false →
      channelBecomes s (.wait n) n { s.rmtCh n with waiting := true } (fun t => t.regs = s.regs)) ∧
    (s.waitHolds w = true → rmtFld w 59 58 = 2 →
      channelBecomes s (.wait n) n (atNext (s.rmtCh n) ((s.rmtCh n).pc + 8))
        (fun t => t.rb Reg.RMT_FLAG (rmtFld w 31 0 % 16) = false))) ∧
  (∀ (s : State) (n w : Nat), s.hostLive = true → n < 16 → (s.rmtCh n).st = .run → (s.rmtCh n).waiting = true →
    s.rmtWord (s.rmtCh n).pc = some w → s.waitHolds w = true → rmtFld w 59 58 = 3 →
    channelBecomes s (.waitConditionMet n) n (atNext (s.rmtCh n) ((s.rmtCh n).pc + 8))
      (fun t => t.rb Reg.RMT_TSIG (rmtFld w 31 0 % 16) = false)) ∧
  (∀ (s : State) (n w : Nat), atWord s n 4 w →
    channelBecomes s (.signal n) n (atNext (s.rmtCh n) ((s.rmtCh n).pc + 8))
      (fun t => t.rb Reg.RMT_FLAG (rmtFld w 3 0) = true ∧ (rmtFld w 59 59 = 1 → t.rb Reg.RMT_EVT n = true))) ∧
  (∀ (s : State) (n w : Nat), atWord s n 5 w →
    (rmtFld w 31 0 % 8 = 0 → channelBecomes s (.link n) n (atNext (s.rmtCh n) (rmtFld w 31 0)) (fun t => t.regs = s.regs)) ∧
    (rmtFld w 31 0 % 8 ≠ 0 → ∃ t, exec (.link n) s = .next t ∧ (t.rmtCh n).st = .fault ∧ (t.rmtCh n).cause = 2 ∧
      (t.rmtCh n).pc = (s.rmtCh n).pc ∧ t.rb Reg.RMT_EVT (16 + n) = true ∧ t.mem = s.mem)) ∧
  (∀ (s : State) (n w : Nat), atWord s n 0 w →
    ((s.rmtCh n).db = false →
      channelBecomes s (.remitEnd n) n { s.rmtCh n with ending := true } (fun t => t.regs = s.regs)) ∧
    ((s.rmtCh n).db = true →
      channelBecomes s (.remitEnd n) n { s.rmtCh n with db := false } (fun t => t.regs = s.regs)))

/-- Channel commands (Table 11.7): START runs a parked channel, HALT, RESUME and ABORT move it by its state, DISABLE resets
it but for PC and its flags, with REM and BYTES free values, EN = 0 disables every channel, a doorbell wakes a channel whose word is no END, RMT_PC
is held 8-byte aligned, and a channel whose transactions have retired completes; a command that the state does not take is ignored with
CFGERR. -/
def Obligations.RemitCommands : Prop :=
  ∀ (s : State) (n : Nat), s.hostLive = true → n < 16 →
    ((s.rmtCh n).st = .idle → s.rb Reg.RMT_CTRL 0 = true → channelBecomes s (.rmtStart n) n { RmtCh.reset with
      st := .run
      pc := (s.rmtCh n).pc
      db := (s.rmtCh n).db
      late := (s.rmtCh n).late
      next := (s.rmtCh n).next } (fun t => t.reg (Reg.RMT_BYTES n) = 0)) ∧
    ((s.rmtCh n).st = .run →
      channelBecomes s (.rmtStart n) n (s.rmtCh n) (fun t => t.rb Reg.RMT_EVT2 0 = true) ∧
      channelBecomes s (.halt n) n { s.rmtCh n with st := .halting } (fun t => t.regs = s.regs) ∧
      channelBecomes s (.abort n) n { s.rmtCh n with st := .aborting } (fun t => t.regs = s.regs) ∧
      channelBecomes s (.doorbell (bitw n)) n { s.rmtCh n with db := true } (fun t => t.regs = s.regs) ∧
      ∀ v, channelBecomes s (.rmtPcWrite n v) n (s.rmtCh n) (fun t => t.rb Reg.RMT_EVT2 0 = true)) ∧
    ((s.rmtCh n).st = .halted →
      channelBecomes s (.resume n) n { s.rmtCh n with st := .run } (fun t => t.regs = s.regs) ∧
      channelBecomes s (.abort n) n { s.rmtCh n with
        st := .idle
        aborted := true
        rem := s.rmtRest (s.rmtCh n)
        loop := none
        ending := false
        waiting := false
        mv := none } (fun t => t.regs = s.regs)) ∧
    ((s.rmtCh n).st ≠ .halted → channelBecomes s (.resume n) n (s.rmtCh n) (fun t => t.rb Reg.RMT_EVT2 0 = true)) ∧
    ((s.rmtCh n).st = .idleAtEnd →
      channelBecomes s (.abort n) n { s.rmtCh n with late := true } (fun t => t.regs = s.regs) ∧
      (isEnd (s.rmtWord (s.rmtCh n).pc) = false → channelBecomes s (.doorbell (bitw n)) n { s.rmtCh n with
        st := .run
        db := false
        complete := false
        aborted := false } (fun t => t.regs = s.regs))) ∧
    (∀ v : Word, (s.rmtCh n).st = .idle →
      channelBecomes s (.rmtPcWrite n v) n { s.rmtCh n with pc := v.toNat / 8 * 8 } (fun t => t.regs = s.regs)) ∧
    ((s.rmtCh n).st = .halting → channelBecomes s (.channelRetired n) n { s.rmtCh n with st := .halted } (fun t => t.regs = s.regs)) ∧
    ((s.rmtCh n).st = .run → (s.rmtCh n).ending = true → (s.rmtCh n).db = false →
      channelBecomes s (.channelRetired n) n { s.rmtCh n with
        st := .idleAtEnd
        complete := true
        ending := false
        rem := 0 } (fun t => t.regs = s.regs)) ∧
    (s.clh.inflight = [] → s.kwy.out = none → ∃ t, exec (.disable n) s = .next t ∧ (t.rmtCh n).st = .idle ∧
      (t.rmtCh n).pc = (s.rmtCh n).pc ∧ (t.rmtCh n).rem = fld (Config.freeWord s.free) 23 0 ∧
      t.reg (Reg.RMT_BYTES n) = Config.freeWord (s.free + 1) ∧ t.free = s.free + 2 ∧ t.rb Reg.CLH_EVT 2 = true ∧
      (∀ m, m ≠ n → t.rmtCh m = s.rmtCh m) ∧ t.mem = s.mem) ∧
    (∀ v : Word, bit v 0 = false → s.clh.inflight = [] → s.kwy.out = none →
      ∃ t, exec (.engineDisable v) s = .next t ∧ t.rb Reg.RMT_CTRL 0 = false ∧ (t.rmtCh n).st = .idle ∧
        (t.rmtCh n).pc = (s.rmtCh n).pc ∧ t.rb Reg.CLH_EVT 2 = true ∧ t.mem = s.mem)

/-! ### The Ledger (chapter 3) -/

/-- Gain store writes, LDG_CHGV, the change queue, ramps and the ramp table: with EN = 1 a code is queued as a gain change
with the ramp time in force, or its beat waits while the queue has no room, and with EN = 0 it is the crosspoint's code at
once, no other code changes, and a folio being mixed keeps the codes that it had; a write misplaced or with PS5 off ends with an error response. -/
def Obligations.GainChanges : Prop :=
  ∀ (s : State), s.hostLive = true →
    (∀ (addr : Nat) (codes : List Half), s.domOn 5 = true → 0x20000000 ≤ addr → addr + 2 * codes.length ≤ 0x20A00000 →
      addr % 2 = 0 →
      (s.rb Reg.LDG_CTRL 0 = true → s.ldg.waiting = [] → s.ldg.queue.length + codes.length ≤ 4096 →
        exec (.gainStoreWrite addr codes) s = .next ((s.setLdg { s.ldg with
          queue := s.ldg.queue ++ codes.zipIdx.map
            (fun e => ⟨(addr - 0x20000000) / 2 + e.2, e.1.toNat, s.rf Reg.LDG_CTRL 7 4⟩) }).answer .ok [])) ∧
      (s.rb Reg.LDG_CTRL 0 = true → 4096 < s.ldg.queue.length + codes.length →
        ∃ t, exec (.gainStoreWrite addr codes) s = .next t ∧ t.rb Reg.LDG_EVT 2 = true ∧ t.ldg = { s.ldg with
          waiting := s.ldg.waiting ++ [.gain none (beatCodes addr codes)] } ∧ t.ans = ⟨.ok, []⟩ ∧ t.mem = s.mem) ∧
      (s.rb Reg.LDG_CTRL 0 = false → s.ldg.waiting = [] →
        ∃ t, exec (.gainStoreWrite addr codes) s = .next t ∧
          (∀ i c, codes[i]? = some c → t.gain ((addr - 0x20000000) / 2 + i) = c.toNat) ∧
          (∀ a, a < addr ∨ addr + 2 * codes.length ≤ a → t.rdByte a = s.rdByte a) ∧
          (s.pst.cur.isSome = true → ∀ x, t.steadyCode x = s.steadyCode x) ∧
          t.ldg = { s.ldg with was := t.ldg.was } ∧ (s.pst.cur = none → t.ldg = s.ldg) ∧ t.regs = s.regs ∧
          t.ans = ⟨.ok, []⟩)) ∧
    (∀ (addr : Nat) (codes : List Half), s.domOn 5 = false ∨ addr < 0x20000000 ∨ 0x20A00000 < addr + 2 * codes.length ∨
      addr % 2 ≠ 0 → ∃ t, exec (.gainStoreWrite addr codes) s = .next t ∧ t.ans = ⟨.err, []⟩ ∧
        t.rb Reg.CLH_EVT 0 = true ∧ t.ldg = s.ldg ∧ t.mem = s.mem) ∧
    (∀ (cs : List (Nat × Nat)) (l : List LdgBeat), s.ldg.waiting = .gain none cs :: l →
      (s.rb Reg.LDG_CTRL 0 = true → s.ldg.queue.length + cs.length ≤ 4096 →
        ∃ t, exec .waitingBeat s = .next t ∧ t.ldg = { s.ldg with
          waiting := l
          queue := s.ldg.queue ++ cs.map (fun e => ⟨e.1, e.2, s.rf Reg.LDG_CTRL 7 4⟩) } ∧ t.mem = s.mem ∧
          (l = [] → t.regs = s.regs) ∧
          ∀ b m, l = b :: m → (t.beatFits b = true → t.regs = s.regs) ∧
            (t.beatFits b = false → t.rb Reg.LDG_EVT 2 = true)) ∧
      (s.rb Reg.LDG_CTRL 0 = true → 4096 < s.ldg.queue.length + cs.length → exec .waitingBeat s = .next s)) ∧
    (∀ (ws : List (Nat × Word)) (l : List LdgBeat), s.ldg.waiting = .ramp ws :: l → s.rb Reg.LDG_CTRL 0 = true →
      ∃ t, exec .waitingBeat s = .next t ∧ t.ldg = { s.ldg with waiting := l } ∧ t.rb Reg.LDG_EVT 4 = true ∧
        t.mem = s.mem) ∧
    (∀ v : Word, s.domOn 5 = true →
      (xpCount ≤ s.rf Reg.LDG_CHGX 22 0 → ∃ t, exec (.chgvWrite v) s = .next t ∧ t.rb Reg.LDG_EVT 9 = true ∧
        t.ldg = s.ldg ∧ t.mem = s.mem) ∧
      (s.rf Reg.LDG_CHGX 22 0 < xpCount → s.rb Reg.LDG_CTRL 0 = true → s.ldg.queue.length < 4096 →
        exec (.chgvWrite v) s = .next ((s.setLdg { s.ldg with
          queue := s.ldg.queue ++ [⟨s.rf Reg.LDG_CHGX 22 0, fld v 15 0, fld v 19 16⟩] }).answer .ok [])) ∧
      (s.rf Reg.LDG_CHGX 22 0 < xpCount → s.rb Reg.LDG_CTRL 0 = true → 4096 ≤ s.ldg.queue.length →
        ∃ t, exec (.chgvWrite v) s = .next t ∧ t.rb Reg.LDG_EVT 10 = true ∧ t.ans = ⟨.err, []⟩ ∧ t.ldg = s.ldg ∧
          t.mem = s.mem) ∧
      (s.rf Reg.LDG_CHGX 22 0 < xpCount → s.rb Reg.LDG_CTRL 0 = false →
        ∃ t, exec (.chgvWrite v) s = .next t ∧ t.gain (s.rf Reg.LDG_CHGX 22 0) = fld v 15 0 ∧
          (∀ x, x ≠ s.rf Reg.LDG_CHGX 22 0 → t.gain x = s.gain x) ∧
          (s.pst.cur.isSome = true → ∀ x, t.steadyCode x = s.steadyCode x) ∧
          t.ldg = { s.ldg with was := t.ldg.was } ∧ (s.pst.cur = none → t.ldg = s.ldg) ∧ t.regs = s.regs)) ∧
    (∀ (c : Chg) (l : List Chg), s.ldg.queue = c :: l → s.ldg.ramps = [] → s.ldg.fresh = [] → s.ldg.held = [] →
      (s.gain c.xp ≠ c.code → s.rb Reg.LDG_CTRL 1 = false → ∃ t, exec .changeAccept s = .next t ∧ t.ldg = { s.ldg with
        queue := l
        fresh := [(0, ⟨c.xp, s.gain c.xp, c.code, s.rf (Reg.LDG_RAMPT c.rt) 17 0, 0, false, false⟩)] } ∧
        t.regs = s.regs ∧ ∀ a, a < 0x21000000 ∨ 0x21000010 ≤ a → t.rdByte a = s.rdByte a) ∧
      (s.gain c.xp ≠ c.code → s.rb Reg.LDG_CTRL 1 = true → ∃ t, exec .changeAccept s = .next t ∧ t.ldg = { s.ldg with
        queue := l
        held := [(0, ⟨c.xp, s.gain c.xp, c.code, s.rf (Reg.LDG_RAMPT c.rt) 17 0, 0, false, false⟩)] } ∧
        t.regs = s.regs ∧ ∀ a, a < 0x21000000 ∨ 0x21000010 ≤ a → t.rdByte a = s.rdByte a) ∧
      (s.gain c.xp = c.code → exec .changeAccept s = .next (s.setLdg { s.ldg with queue := l }))) ∧
    (∀ v : Word, s.powered Reg.LDG_CTRL = true → ∃ t, exec (.holdWrite v) s = .next t ∧
      t.reg Reg.LDG_CTRL = (s.typeWrite Reg.LDG_CTRL v).reg Reg.LDG_CTRL ∧ t.mem = s.mem ∧
      (bit v 1 = true → t.ldg = s.ldg) ∧
      (bit v 1 = false → t.ldg.queue = s.ldg.queue ∧ t.ldg.ramps = s.ldg.ramps ∧ t.ldg.held = [] ∧
        (s.ldg.held = [] → t.ldg = s.ldg) ∧
        (∀ (k : Nat) (r : Ramp), s.ldg.fresh = [] → s.ldg.held = [(k, r)] → r ≠ Ramp.none → t.ldg.fresh = [(k, r)]))) ∧
    (∀ v : Word, s.powered Reg.LDG_CTRL = false → ∃ t, exec (.holdWrite v) s = .next t ∧ t.ans = ⟨.err, []⟩ ∧
      t.ldg = s.ldg ∧ t.mem = s.mem) ∧
    (∀ (addr : Nat) (ws : List Word), s.domOn 5 = true → 0x21000000 ≤ addr → addr + 4 * ws.length ≤ 0x21100000 →
      addr % 4 = 0 → s.ldg.waiting = [] →
      (s.rb Reg.LDG_CTRL 0 = true → ∃ t, exec (.rampTableWrite addr ws) s = .next t ∧ t.rb Reg.LDG_EVT 4 = true ∧
        t.mem = s.mem ∧ t.ldg = s.ldg) ∧
      (s.rb Reg.LDG_CTRL 0 = false → ∃ t, exec (.rampTableWrite addr ws) s = .next t ∧
        (∀ i w, ws[i]? = some w → t.rdWord (addr + 4 * i) = w ∧ (addr - 0x21000000) / 4 + i ∈ t.ldg.touched) ∧
        (∀ a, a < addr ∨ addr + 4 * ws.length ≤ a → t.rdByte a = s.rdByte a) ∧ t.regs = s.regs)) ∧
    (∀ v : Word, s.powered Reg.LDG_REPTB = true → (s.pst.paused = false ∨ ∀ f ∈ s.pst.fols, f.slot = true) →
      (bindOk s.isA (fld v 15 0) = false → ∃ t, exec (.repoint v) s = .next t ∧ t.rb Reg.LDG_EVT 8 = true ∧
        t.ldg = s.ldg ∧ t.mem = s.mem) ∧
      (bindOk s.isA (fld v 15 0) = true → ∃ t, exec (.repoint v) s = .next t ∧
        t.rb (Reg.LDG_BIND (s.rf Reg.LDG_REPT 10 0)) 31 = true ∧
        t.bind (s.rf Reg.LDG_REPT 10 0) = s.bind (s.rf Reg.LDG_REPT 10 0) ∧
        (t.gate (s.rf Reg.LDG_REPT 10 0)).bind = fld v 15 0 ∧
        ((s.gate (s.rf Reg.LDG_REPT 10 0)).phase = .normal → t.gate (s.rf Reg.LDG_REPT 10 0) =
          ⟨.down, 0xF400, s.rf (Reg.LDG_RAMPT (s.rf Reg.LDG_REPT 15 12)) 17 0, 0, fld v 15 0⟩) ∧
        ((s.gate (s.rf Reg.LDG_REPT 10 0)).phase = .down ∨ (s.gate (s.rf Reg.LDG_REPT 10 0)).phase = .silent →
          t.gate (s.rf Reg.LDG_REPT 10 0) = { s.gate (s.rf Reg.LDG_REPT 10 0) with bind := fld v 15 0 }) ∧
        (∀ src, src ≠ s.rf Reg.LDG_REPT 10 0 → t.gate src = s.gate src) ∧ t.mem = s.mem)) ∧
    (∀ (v : Word) (f : Fol) (src len : Nat), s.powered Reg.LDG_REPTB = true → bindOk s.isA (fld v 15 0) = true →
      src = s.rf Reg.LDG_REPT 10 0 → len = s.rf (Reg.LDG_RAMPT (s.rf Reg.LDG_REPT 15 12)) 17 0 → 0 < len →
      s.pst.paused = true → s.pst.fols = [f] → f.slot = false → f.n < s.pst.next → f.gates0 = [] → f.binds0 = [] →
      s.ldg.gates = [] → s.ldg.repoints = [] →
      ∃ t f', exec (.repoint v) s = .next t ∧ t.fol? f.n = some f' ∧ t.gate src = ⟨.down, 0xF400, len, 8, fld v 15 0⟩ ∧
        (∀ j, j < 8 → smp f'.src src j = wdi (scale22 (smp f.raw src j).toInt (coef (rampCode 0xF400 0 (j + 1) len)))) ∧
        ∀ x j, x ≠ src → j < 8 → smp f'.src x j = smp f.src x j)

/-! ### The folio cadence and the Posting engine (chapter 2) -/

/-- A folio start sends the output folio that is complete, its BLOCK over the Keyway included, and none while it is not; an
entry cut puts the next folio in flight with every entry OPEN; a mix slot begins with entry 0 PROVISIONAL, waits while the
view is behind and skips when it is more than two folios ahead; a group's mix gives each of its 40 sinks the saturated,
rounded sum and no other sink anything; a remix renews its dependent sinks. -/
def Obligations.FolioCommands : Prop :=
  ∀ (s : State), s.hostLive = true →
    (∀ (q : Nat) (f : Fol), folioOf s.sysT = q → q ≠ 0 → s.boot.fieldPend = false → s.pst.fols = [f] → f.n + 3 = q →
      f.chained.length = 64 → s.pst.paused = false →
      ∃ t, exec .folioStart s = .next t ∧ t.pst.egress = some (q - 1) ∧ t.pst.fols = [f] ∧
        (s.isA = true → s.kwy.link = .up → s.level ≠ 1 → s.boot.crossAt = none → ∃ m ∈ t.kwy.first, m.typ = 1 ∧
          m.payload = blockBytes (q - 1) (fun c j => smp f.out (2528 + c) j))) ∧
    (folioOf s.sysT ≠ 0 → s.boot.fieldPend = false → s.pst.fols = [] →
      ∃ t, exec .folioStart s = .next t ∧ t.pst.egress = none) ∧
    (s.pst.run = true → s.pst.early = [] → s.rb Reg.PST_CTRL 1 = false → ∃ t f, exec .entryCut s = .next t ∧ t.pst.fols = s.pst.fols ++ [f] ∧ f.n = s.pst.next ∧
      (∀ g, g < 64 → f.entry g = .opened) ∧ f.posted = false ∧ f.mixed = 0 ∧ t.pst.next = s.pst.next + 1 ∧
      t.pst.cut = s.pst.next ∧ t.reg Reg.PST_FOLIO_LO = wd s.pst.next) ∧
    (s.pst.run = false → exec .entryCut s = .next s) ∧
    (∀ f : Fol, s.pst.run = true → s.pst.fols = [f] → f.slot = false → s.tim.pendAct = none → s.tim.jclr = false →
      (f.posted = false → s.pst.deferred = [] → f.n ≤ folioOf s.sysT → folioOf s.sysT ≤ f.n + 2 →
        ∃ t f', exec .mixSlotStart s = .next t ∧ t.pst.cur = some f.n ∧ t.fol? f.n = some f' ∧ f'.slot = true ∧
          f'.entry 0 = .provisional ∧ f'.mixed = f.mixed ∧ t.pst.paused = false) ∧
      (folioOf s.sysT < f.n → s.pst.paused = false → ∃ t, exec .mixSlotStart s = .next t ∧ t.pst.paused = true ∧
        t.pst.cur = none ∧ t.pst.fols = [f] ∧ t.rb Reg.PST_EVT 2 = true ∧
        t.reg (Reg.PST_CNT 6) = s.reg (Reg.PST_CNT 6) + 1) ∧
      (f.n + 2 < folioOf s.sysT → ∃ t, exec .mixSlotStart s = .next t ∧ t.pst.next = s.firstAfter 0 ∧
        t.pst.cur = none ∧ t.rb Reg.PST_EVT 2 = true)) ∧
    (∀ (n : Nat) (f : Fol), s.pst.cur = some n → s.fol? n = some f → f.mixed < 64 → s.domOn 5 = true →
      ∃ t f', exec (.groupMixEnd []) s = .next t ∧ t.fol? n = some f' ∧ f'.mixed = f.mixed + 1 ∧
        (∀ k j, k / 40 = f.mixed → j < 8 → smp f'.mix k j = wdi (sinkResult (s.mixSum f.rows k j)).1) ∧
        (∀ k j, k / 40 ≠ f.mixed → j < 8 → smp f'.mix k j = smp f.mix k j)) ∧
    (∀ (f : Fol) (q : Remix) (rest : List Remix),
      s.pst.fols.find? (fun f => f.slot && decide (f.mixed = 64) && decide (f.remix ≠ [])) = some f →
      f.remix = q :: rest → s.domOn 5 = true →
      ∃ t f', exec .remixEnd s = .next t ∧ t.fol? f.n = some f' ∧ f'.remix = rest ∧
        (∀ k j, k ∈ q.deps → k / 40 = q.g → j < 8 → smp f'.mix k j = wdi (sinkResult (s.mixSum f.rows k j)).1) ∧
        (∀ k j, k ∉ q.deps → j < 8 → smp f'.mix k j = smp f.mix k j) ∧
        t.reg (Reg.PST_CNT 5) = s.reg (Reg.PST_CNT 5) + 1)

/-- The posting cut posts the oldest folio that is not posted, with its receipt in the registers, and on a shadow waits for the
partner's; a receipt is kept for its folio, is decided with it while it is in flight, or lets it be posted; without it the folio is posted with its own set and
counted; the sink chain processes a FINAL group once, and sinks without delay, limiter and reduction pass unchanged. -/
def Obligations.PostingCommands : Prop :=
  ∀ (s : State), s.hostLive = true →
    (∀ f : Fol, s.pst.fols = [f] → f.posted = false → f.waits = false → (∀ x ∈ f.conc, x < 2048) →
      (s.rb Reg.PST_CTRL 1 = false → ∃ t f', exec .postingCut s = .next t ∧ t.fol? f.n = some f' ∧ f'.posted = true ∧
        f'.waits = false ∧ (s.rb Reg.PST_CTRL 4 = false → t.reg Reg.PST_RCPT_FOLIO_LO = wd f.n)) ∧
      (s.rb Reg.PST_CTRL 1 = true → s.hng.receipts = [] → ∃ t, exec .postingCut s = .next t ∧
        t.pst.fols = [{ f with waits := true }] ∧ t.mem = s.mem)) ∧
    (∀ (n : Nat) (conc reent : List Byte),
      (s.rb Reg.PST_CTRL 1 = true → s.fol? n = none → exec (.receipt n conc reent) s = .next (s.setHng { s.hng with
        receipts := ((n, mapSources conc) :: s.hng.receipts).take 4 })) ∧
      (∀ f, s.rb Reg.PST_CTRL 1 = true → s.fol? n = some f → f.waits = true →
        ∃ t f', exec (.receipt n conc reent) s = .next t ∧ t.fol? n = some f' ∧ f'.posted = true ∧ f'.waits = false) ∧
      (∀ f, s.rb Reg.PST_CTRL 1 = true → s.fol? n = some f → f.waits = false → f.posted = false →
        ∃ t f', exec (.receipt n conc reent) s = .next t ∧ t.fol? n = some f' ∧ f'.posted = false ∧
          t.hng.receipts = ((n, mapSources conc) :: s.hng.receipts).take 4 ∧ t.mem = s.mem) ∧
      (∀ f, s.fol? n = some f → f.waits = false → f.posted = true → exec (.receipt n conc reent) s = .next s) ∧
      (s.rb Reg.PST_CTRL 1 = false → exec (.receipt n conc reent) s = .next s)) ∧
    (∀ f : Fol, s.pst.fols = [f] → f.waits = true → (∀ x ∈ f.conc, x < 2048) →
      ∃ t f', exec .receiptMissing s = .next t ∧ t.fol? f.n = some f' ∧ f'.posted = true ∧ f'.waits = false ∧
        t.reg Reg.HNG_CNT_NORCPT = s.reg Reg.HNG_CNT_NORCPT + 1) ∧
    (∀ (f : Fol) (g : Nat) (corrected bad : List Nat), g < 64 → s.pst.fols = [f] → f.posted = true → f.entry g = .final → f.chained = [] →
      s.out.staged = [] → s.linkedGroups g = [] → f.undef = false →
      ∃ t f', exec (.sinkChainGroup ⟨g, corrected, bad⟩) s = .next t ∧ t.fol? f.n = some f' ∧ f'.entry g = .free ∧ f'.chained = [g] ∧
        ∀ k j, k / 40 = g → j < 8 → (s.snk k).on = false → s.limOn k = false → s.limLa k = 0 →
          s.outFmt k = 0 → (∀ e ∈ f.tval, e.1 / 8 ≠ k) →
          smp f'.out k j = smp f.sink k j)

/-- PST_CTRL.EN starts with the first folio whose entry cut lies after the write, and stops with no folio in flight; PST_CUT
and PST_WIN are taken where Table 2.1 allows them and ignored with CFGERR elsewhere; a CHANGE of a pair is kept for its
folio, then its writes are performed by their access types. -/
def Obligations.SequencerRegisters : Prop :=
  ∀ (s : State) (v : Word), s.hostLive = true →
    (s.rb Reg.PST_CTRL 0 = false → bit v 0 = true → ∃ t, exec (.pstEnWrite v) s = .next t ∧ t.pst.run = true ∧
      t.pst.next = s.firstAfter 0 ∧ t.pst.cur = none ∧ t.pst.post = s.rf Reg.PST_CUT 14 8 ∧
      t.rb Reg.PST_CTRL 0 = true ∧ t.mem = s.mem) ∧
    (s.rb Reg.PST_CTRL 0 = true → bit v 0 = false → ∃ t, exec (.pstEnWrite v) s = .next t ∧ t.pst.run = false ∧
      t.pst.fols = [] ∧ t.pst.arrived = [] ∧ t.pst.journal = []) ∧
    (cutsOk (fld v 6 0) (fld v 14 8) s.srcWin s.sinkWin = true → s.rb Reg.PST_CTRL 0 = false →
      ∃ t, exec (.pstCutWrite v) s = .next t ∧ t.entryUs = fld v 6 0 ∧ t.pst = { s.pst with
        post := fld v 14 8
        postNext := [] } ∧ t.mem = s.mem) ∧
    (cutsOk (fld v 6 0) (fld v 14 8) s.srcWin s.sinkWin = false →
      ∃ t, exec (.pstCutWrite v) s = .next t ∧ t.reg Reg.PST_CUT = s.reg Reg.PST_CUT ∧ t.rb Reg.PST_EVT 8 = true ∧
        t.pst = s.pst ∧ t.mem = s.mem) ∧
    (s.rb Reg.PST_CTRL 0 = true → fld v 6 0 ≠ s.entryUs →
      ∃ t, exec (.pstCutWrite v) s = .next t ∧ t.reg Reg.PST_CUT = s.reg Reg.PST_CUT ∧ t.rb Reg.PST_EVT 8 = true ∧
        t.pst = s.pst) ∧
    (cutsOk s.entryUs (s.rf Reg.PST_CUT 14 8) (fld v 4 0) (fld v 12 8) = true → s.rb Reg.PST_CTRL 0 = false →
      ∃ t, exec (.pstWinWrite v) s = .next t ∧ t.srcWin = fld v 4 0 ∧ t.sinkWin = fld v 12 8 ∧ t.pst = s.pst ∧
        t.mem = s.mem) ∧
    (cutsOk s.entryUs (s.rf Reg.PST_CUT 14 8) (fld v 4 0) (fld v 12 8) = false →
      ∃ t, exec (.pstWinWrite v) s = .next t ∧ t.reg Reg.PST_WIN = s.reg Reg.PST_WIN ∧ t.rb Reg.PST_EVT 8 = true) ∧
    (∀ (e : Nat) (acts : List CtrlAct),
      (s.hinged = true → exec (.change e acts) s = .next (s.setHng { s.hng with changes := s.hng.changes ++ [(e, acts)] })) ∧
      (s.hinged = false → exec (.change e acts) s = .next s)) ∧
    (∀ (n e a : Nat) (r : RegSpec), s.pst.cur = some n → s.hng.changes = [(e, [.write a v])] → e ≤ n + 1 → plainBlock a →
      s.setNow = [] → regSpec? a = some r → s.accessCause .stw true a 4 1 = 0 →
      exec .changePerform s = .next ((s.setHng { s.hng with changes := [] }).setReg a (writeByType r (s.reg a) v))) ∧
    (∀ n : Nat, s.pst.cur = some n → (∀ e ∈ s.hng.changes, n + 1 < e.1) → exec .changePerform s = .next s)

/-! ### The Tellers (chapter 4) -/

/-- Teller `t` executes a run and does not stall, no compute slot of the bundle has executed, and predicate `p` is well
formed with bit 0 of its mask set: a scalar operation executes. -/
abbrev slotOpen (s : State) (t : Nat) (p : Pred) : Prop :=
  (s.core t).issues = true ∧ (s.core t).before = none ∧ predBad p = false ∧ (Pred.mask p (s.core t)).testBit 0 = true

/-- A compute operation completes: Teller `t` holds `c` and the registers of the start of the bundle for its move slot (R230),
and nothing else changes. -/
def computes (s : State) (i : Instr) (t : Nat) (c : Core) : Prop :=
  ∃ b, exec i s = .next (s.setCore t { c with before := some b }) ∧ b.d = (s.core t).d ∧ b.acc = (s.core t).acc ∧
    b.p = (s.core t).p ∧ b.sr = (s.core t).sr

/-- A scalar operation writes `v` into D(d) and raises the flags `fl`. -/
def writesD (s : State) (i : Instr) (t d : Nat) (v : Word) (fl : Nat) : Prop :=
  computes s i t { (s.core t).setD d v with sr := (s.core t).sr ||| wd fl }

/-- A scalar operation writes `v` into ACC(n) and raises the flags `fl`. -/
def writesA (s : State) (i : Instr) (t n : Nat) (v : BitVec 80) (fl : Nat) : Prop :=
  computes s i t { (s.core t).setA n v with sr := (s.core t).sr ||| wd fl }

/-- A result that does not fit in 32 bits. -/
def outside32 (x : Int) : Bool := decide (x < -2147483648) || decide (2147483647 < x)

/-- A result that does not fit in 80 bits. -/
def outside80 (x : Int) : Bool := decide (x < -604462909807314587353088) || decide (604462909807314587353087 < x)

/-- WV where an exact 32-bit result wraps. -/
def wv (x : Int) : Nat := if outside32 x then 2 else 0

/-- SV where an exact 32-bit result saturates. -/
def sv (x : Int) : Nat := if outside32 x then 1 else 0

/-- AV where an exact 80-bit result wraps or saturates. -/
def av (x : Int) : Nat := if outside80 x then 4 else 0

/-- Table 4.9, arithmetic, logic and shifts: each scalar operation writes its result into D(d) and no other register, wrapped with WV or
saturated with SV where the exact result does not fit; with bit 0 of the mask 0 it writes nothing; a NOP changes no register, and an opcode that no table lists faults. -/
def Obligations.TellerArithmetic : Prop :=
  ∀ (s : State) (t : Nat) (p : Pred), slotOpen s t p →
    (∀ o : FmtCR3,
      writesD s (.add t p o) t o.d ((s.core t).dw o.a + (s.core t).dw o.b) (wv ((s.core t).dv o.a + (s.core t).dv o.b)) ∧
      writesD s (.adds t p o) t o.d (wdi (sat32 ((s.core t).dv o.a + (s.core t).dv o.b)))
        (sv ((s.core t).dv o.a + (s.core t).dv o.b)) ∧
      writesD s (.sub t p o) t o.d ((s.core t).dw o.a - (s.core t).dw o.b) (wv ((s.core t).dv o.a - (s.core t).dv o.b)) ∧
      writesD s (.subs t p o) t o.d (wdi (sat32 ((s.core t).dv o.a - (s.core t).dv o.b)))
        (sv ((s.core t).dv o.a - (s.core t).dv o.b)) ∧
      writesD s (.neg t p o) t o.d (-(s.core t).dw o.a) (wv (-(s.core t).dv o.a)) ∧
      writesD s (.negs t p o) t o.d (wdi (sat32 (-(s.core t).dv o.a))) (sv (-(s.core t).dv o.a)) ∧
      writesD s (.abs t p o) t o.d (if (s.core t).dv o.a < 0 then -(s.core t).dw o.a else (s.core t).dw o.a)
        (if (s.core t).dv o.a = -2147483648 then 2 else 0) ∧
      writesD s (.abss t p o) t o.d (wdi (sat32 ((s.core t).dv o.a).natAbs))
        (if (s.core t).dv o.a = -2147483648 then 1 else 0) ∧
      writesD s (.min t p o) t o.d (if (s.core t).dv o.a ≤ (s.core t).dv o.b then (s.core t).dw o.a else (s.core t).dw o.b) 0 ∧
      writesD s (.max t p o) t o.d (if (s.core t).dv o.a ≤ (s.core t).dv o.b then (s.core t).dw o.b else (s.core t).dw o.a) 0 ∧
      writesD s (.and t p o) t o.d ((s.core t).dw o.a &&& (s.core t).dw o.b) 0 ∧
      writesD s (.or t p o) t o.d ((s.core t).dw o.a ||| (s.core t).dw o.b) 0 ∧
      writesD s (.xor t p o) t o.d ((s.core t).dw o.a ^^^ (s.core t).dw o.b) 0 ∧
      writesD s (.shl t p o) t o.d ((s.core t).dw o.a <<< (o.s % 32)) (wv ((s.core t).dv o.a * 2 ^ (o.s % 32))) ∧
      writesD s (.shls t p o) t o.d (wdi (sat32 ((s.core t).dv o.a * 2 ^ (o.s % 32)))) (sv ((s.core t).dv o.a * 2 ^ (o.s % 32))) ∧
      writesD s (.asr t p o) t o.d (((s.core t).dw o.a).sshiftRight (o.s % 32)) 0 ∧
      writesD s (.asrr t p o) t o.d
        (if o.s % 32 = 0 then (s.core t).dw o.a else wdi (((s.core t).dv o.a + 2 ^ (o.s % 32 - 1)) / 2 ^ (o.s % 32))) 0 ∧
      writesD s (.lsr t p o) t o.d ((s.core t).dw o.a >>> (o.s % 32)) 0) ∧
    (∀ o : FmtCI,
      writesD s (.addi t p o) t o.d ((s.core t).dw o.a + wdi (immS 10 o.imm)) (wv ((s.core t).dv o.a + immS 10 o.imm)) ∧
      writesD s (.addis t p o) t o.d (wdi (sat32 ((s.core t).dv o.a + immS 10 o.imm)))
        (sv ((s.core t).dv o.a + immS 10 o.imm))) ∧
    (∀ w : Nat,
      (slotOf t false w = .nop → computes s (.nop t false w) t (s.core t)) ∧
      (slotOf t false w = .unlisted → ∃ u, exec (.nop t false w) s = .next u ∧ u.rb Reg.TEL_EVT 0 = true ∧
        u.rf Reg.TEL_FLT0 15 0 = 1 ∧ (u.core t).run = none)) ∧
    (∀ (q : Pred) (o : FmtCR3), predBad q = false → (Pred.mask q (s.core t)).testBit 0 = false →
      computes s (.add t q o) t (s.core t) ∧ computes s (.shls t q o) t (s.core t))

/-- Table 4.9, compares, predicates and multiplication: a scalar compare writes 0xFF or 0x00 into its predicate, a vector compare one bit for each
lane of the mask and keeps the others, PLOG combines two predicates; multiply, accumulate, dot product and the accumulator
operations write the exact result, wrapped or saturated to 80 bits with AV where it does not fit; RND, RNDW and TRN narrow an
accumulator into D(d). -/
def Obligations.TellerPredicatesAndAccumulators : Prop :=
  ∀ (s : State) (t : Nat) (p : Pred), slotOpen s t p →
    (∀ o : FmtCR3, o.d < 4 →
      computes s (.cmpeq t p o) t ((s.core t).setP o.d (if (s.core t).dv o.a = (s.core t).dv o.b then 0xFF else 0)) ∧
      computes s (.cmplt t p o) t ((s.core t).setP o.d (if (s.core t).dv o.a < (s.core t).dv o.b then 0xFF else 0)) ∧
      computes s (.cmple t p o) t ((s.core t).setP o.d (if (s.core t).dv o.a ≤ (s.core t).dv o.b then 0xFF else 0)) ∧
      (o.a < 4 → o.b < 4 →
        (o.s = 0 → computes s (.plog t p o) t ((s.core t).setP o.d ((s.core t).pw o.a &&& (s.core t).pw o.b))) ∧
        (o.s = 1 → computes s (.plog t p o) t ((s.core t).setP o.d ((s.core t).pw o.a ||| (s.core t).pw o.b))) ∧
        (o.s = 2 → computes s (.plog t p o) t ((s.core t).setP o.d ((s.core t).pw o.a &&& ~~~(s.core t).pw o.b))) ∧
        (o.s = 3 → computes s (.plog t p o) t ((s.core t).setP o.d (~~~(s.core t).pw o.a)))) ∧
      (o.a % 8 = 0 → o.b % 8 = 0 → ∀ (i : Instr) (r : Int → Int → Bool),
        (i = .vcmpeq t p o ∧ r = fun a b => decide (a = b)) ∨ (i = .vcmplt t p o ∧ r = fun a b => decide (a < b)) ∨
          (i = .vcmple t p o ∧ r = fun a b => decide (a ≤ b)) →
        ∃ v : BitVec 8, computes s i t ((s.core t).setP o.d v) ∧ ∀ k, k < 8 → v.getLsbD k =
          if (Pred.mask p (s.core t)).testBit k then r ((s.core t).dv (o.a + k)) ((s.core t).dv (o.b + k))
          else ((s.core t).pw o.d).getLsbD k)) ∧
    (∀ (o : FmtCM) (x y z : Int), o.z = 0 → (s.core t).dv o.a * (s.core t).dv o.b = x → (s.core t).av o.acc + x = y →
      (s.core t).av o.acc - x = z →
      writesA s (.mul t p o) t o.acc (BitVec.ofInt 80 x) 0 ∧
      writesA s (.mac t p o) t o.acc (BitVec.ofInt 80 y) (av y) ∧
      writesA s (.macs t p o) t o.acc (BitVec.ofInt 80 (clamp80 y)) (av y) ∧
      writesA s (.msu t p o) t o.acc (BitVec.ofInt 80 z) (av z) ∧
      writesA s (.msus t p o) t o.acc (BitVec.ofInt 80 (clamp80 z)) (av z)) ∧
    (∀ (o : FmtCM) (x y : Int), o.z = 0 → o.a % 8 = 0 → o.b % 8 = 0 →
      ((List.range 8).map (fun k => (s.core t).dv (o.a + k) * (s.core t).dv (o.b + k))).sum = x → (s.core t).av o.acc + x = y →
      writesA s (.dot8z t p o) t o.acc (BitVec.ofInt 80 x) 0 ∧
      writesA s (.dot8 t p o) t o.acc (BitVec.ofInt 80 y) (av y) ∧
      writesA s (.dot8s t p o) t o.acc (BitVec.ofInt 80 (clamp80 y)) (av y)) ∧
    (∀ (o : FmtCN) (r : Int), o.z = 0 →
      (o.sh < 64 → (s.core t).av o.acc / 2 ^ o.sh = r →
        writesD s (.trn t p o) t o.d (wdi (sat32 r)) (sv r)) ∧
      (o.sh < 64 → o.sh ≠ 0 → ((s.core t).av o.acc + 2 ^ (o.sh - 1)) / 2 ^ o.sh = r →
        writesD s (.rnd t p o) t o.d (wdi (sat32 r)) (sv r) ∧ writesD s (.rndw t p o) t o.d (wdi r) (wv r)) ∧
      (o.sh = 0 → (s.core t).av o.acc = r →
        writesD s (.rnd t p o) t o.d (wdi (sat32 r)) (sv r) ∧ writesD s (.rndw t p o) t o.d (wdi r) (wv r)) ∧
      (o.sh ≤ 47 → writesA s (.amov t p o) t o.acc (BitVec.ofInt 80 ((s.core t).dv o.d * 2 ^ o.sh)) 0) ∧
      (o.d < 8 → (s.core t).av o.acc + (s.core t).av o.d = r →
        writesA s (.aadd t p o) t o.acc (BitVec.ofInt 80 r) (av r) ∧
        writesA s (.aadds t p o) t o.acc (BitVec.ofInt 80 (clamp80 r)) (av r)) ∧
      (o.sh < 32 → (s.core t).av o.acc * 2 ^ o.sh = r →
        writesA s (.ash t p o) t o.acc (BitVec.ofInt 80 (clamp80 r)) (av r)) ∧
      (32 ≤ o.sh → o.sh < 64 →
        writesA s (.ash t p o) t o.acc (BitVec.ofInt 80 ((s.core t).av o.acc / 2 ^ (64 - o.sh))) 0) ∧
      (o.d = 0 → writesA s (.aclr t p o) t o.acc 0 0) ∧
      (o.d = 1 → ∃ c, computes s (.aclr t p o) t { s.core t with acc := c } ∧ ∀ n, aget c 0 (n % 8) = 0)) ∧
    (∀ o : FmtCM, o.z ≠ 0 → (s.core t).run.isSome = true → ∃ u, exec (.mac t p o) s = .next u ∧
      u.rb Reg.TEL_EVT 0 = true ∧ u.rf Reg.TEL_FLT0 15 0 = 1 ∧ (u.core t).run = none)

/-- Search state after the samples of one vector: a live lane takes a better value with its number, every lane counts its
step. -/
def searched (better : Int → Int → Bool) (live : Bool) (k : Nat) (e : Int) (a b : SearchLane) : Prop :=
  b.stp = (a.stp + 1) % 65536 ∧
    (if live = true ∧ (a.idx = 0xFFFFFFFF ∨ better e a.val = true) then b.val = e ∧ b.idx = 8 * a.stp + k
     else b.val = a.val ∧ b.idx = a.idx)

/-- Vector operations act lane by lane, in the lanes of the mask only: VMAC8Z, VMAC8, VMAC8S, VMSU8 and VMSU8S on
accumulator k, with AV if the result of a lane does not fit; SMAX and SMIN on the search state of each lane, with SX when a
STEP wraps; SINIT empties every lane; SRED gives the best value and the lowest index that has it. -/
def Obligations.TellerVectorsAndSearch : Prop :=
  ∀ (s : State) (t : Nat) (p : Pred), slotOpen s t p →
    (∀ (o : FmtCM) (i : Instr) (f : Int → Int → Int) (clampIt : Bool), o.z = 0 → o.a % 8 = 0 → o.b % 8 = 0 →
      (i = .vmac8z t p o ∧ (f = fun _ x => x) ∧ clampIt = false) ∨ (i = .vmac8 t p o ∧ (f = fun a x => a + x) ∧ clampIt = false) ∨
        (i = .vmac8s t p o ∧ (f = fun a x => a + x) ∧ clampIt = true) ∨
        (i = .vmsu8 t p o ∧ (f = fun a x => a - x) ∧ clampIt = false) ∨
        (i = .vmsu8s t p o ∧ (f = fun a x => a - x) ∧ clampIt = true) →
      ∃ c : Core, computes s i t { s.core t with
        acc := c.acc
        sr := (s.core t).sr ||| wd (if (List.range 8).any (fun k => (Pred.mask p (s.core t)).testBit k &&
          outside80 (f ((s.core t).av k) ((s.core t).dv (o.a + k) * (s.core t).dv (o.b + k)))) then 4 else 0) } ∧
        ∀ k, k < 8 → c.aw k = if (Pred.mask p (s.core t)).testBit k then
            BitVec.ofInt 80 (if clampIt then clamp80 (f ((s.core t).av k) ((s.core t).dv (o.a + k) * (s.core t).dv (o.b + k)))
              else f ((s.core t).av k) ((s.core t).dv (o.a + k) * (s.core t).dv (o.b + k)))
          else (s.core t).aw k) ∧
    (∀ (o : FmtCS) (i : Instr) (better : Int → Int → Bool), o.z = 0 → o.a % 8 = 0 →
      (i = .smax t p o ∧ better = fun e v => decide (v < e)) ∨ (i = .smin t p o ∧ better = fun e v => decide (e < v)) →
      ∃ c : Core, computes s i t { s.core t with
        acc := c.acc
        sr := (s.core t).sr ||| wd (if (List.range 8).any (fun k => (searchLane ((s.core t).aw k)).stp == 65535) then 8 else 0) } ∧
        ∀ k, k < 8 → searched better ((Pred.mask p (s.core t)).testBit k) k ((s.core t).dv (o.a + k))
          (searchLane ((s.core t).aw k)) (searchLane (c.aw k))) ∧
    (∀ o : FmtCS, o.z = 0 →
      (∃ c : Core, computes s (.sinit t p o) t { s.core t with acc := c.acc } ∧
        ∀ k, k < 8 → searchLane (c.aw k) = ⟨if o.mn = 0 then -2147483648 else 2147483647, 0xFFFFFFFF, 0⟩) ∧
      (o.d % 32 ≠ o.a % 32 → ∃ (v : Int) (x : Nat),
        computes s (.sred t p o) t (((s.core t).setD o.d (wdi v)).setD o.a (wd x)) ∧
        ((∀ k, k < 8 → (searchLane ((s.core t).aw k)).idx = 0xFFFFFFFF) →
          v = (if o.mn = 0 then -2147483648 else 2147483647) ∧ x = 0xFFFFFFFF) ∧
        ((∃ k, k < 8 ∧ (searchLane ((s.core t).aw k)).idx ≠ 0xFFFFFFFF) →
          (∃ k, k < 8 ∧ searchLane ((s.core t).aw k) = ⟨v, x, (searchLane ((s.core t).aw k)).stp⟩ ∧ x ≠ 0xFFFFFFFF) ∧
          ∀ k, k < 8 → (searchLane ((s.core t).aw k)).idx ≠ 0xFFFFFFFF →
            (if o.mn = 0 then (searchLane ((s.core t).aw k)).val ≤ v else v ≤ (searchLane ((s.core t).aw k)).val) ∧
            ((searchLane ((s.core t).aw k)).val = v → x ≤ (searchLane ((s.core t).aw k)).idx))))

/-- Teller `t` executes run `r` and does not stall, no compute slot of the bundle has executed, and predicate `p` is well
formed. -/
abbrev moveOpen (s : State) (t : Nat) (p : Pred) (r : Run) : Prop :=
  (s.core t).run = some r ∧ (s.core t).stall = none ∧ (s.core t).before = none ∧ predBad p = false

/-- A move operation completes: it leaves the state `u` and ends the bundle with these loads, extra cycles and branch
target. -/
def moves (s : State) (i : Instr) (t : Nat) (u : State) (loads : List (Nat × Word)) (extra : Nat) (tgt : Option Nat) : Prop :=
  exec i s = .next (u.setCore t ((u.core t).endBundle loads extra tgt))

/-- The address of an access of one word or halfword (Table 4.8). -/
def oneAddr (c : Core) (j mode : Nat) (imm : Int) : Nat := ((c.wordAddrs false j mode imm 1).head?).getD 0

/-- A scalar store of the `n` low bytes of `v` at data address `a` completes with the registers `c`: in the port view the
bytes stand at once and no other byte of memory changes; in bank 0 of the context's own region the task reads them and the
Clearinghouse's bank 0 does not change; in banks 1 to 3 one journal record holds them and no memory changes. -/
def storesAt (s : State) (i : Instr) (t : Nat) (r : Run) (c : Core) (a n v : Nat) : Prop :=
  ∃ u, moves s i t u [] 0 none ∧ u.core t = { c with
      dirty := (u.core t).dirty
      wrote := (u.core t).wrote } ∧
    (0x3C000 ≤ a → u.pst = s.pst ∧ leNat (u.rdBytes (dataAddr t r.folio a) n) = v % 256 ^ n ∧
      ∀ x, x < dataAddr t r.folio a ∨ dataAddr t r.folio a + n ≤ x → u.rdByte x = s.rdByte x) ∧
    (a < 0x10000 → (∀ k, k < n → declOwns (s.ctx (ctxKey t r.ctx)).decl (a + k) = true) →
      u.rdDataNat (t % 64) r.folio a n = v % 256 ^ n ∧
      ∀ x, x < telBase t + 0x80000 ∨ telBase t + 0x90000 ≤ x → u.rdByte x = s.rdByte x) ∧
    (0x10000 ≤ a → a < 0x38000 →
      s.jcount (t % 64) r.folio < 2048 → u.mem = s.mem ∧
      ∃ bytes : List Byte, leNat (slice bytes (a % 8) n) = v % 256 ^ n ∧ u.pst.journal = s.pst.journal ++
        [⟨t % 64, r.ctx % 256, r.folio, .bank (a / 8 * 8) ((2 ^ n - 1) * 2 ^ (a % 8)) bytes⟩])

/-- Loads and stores of a Teller (Tables 4.8 and 4.10): a load answers what the task reads at the addresses of its cursor and waits for
the end of the next bundle; a store writes its bytes and no others; STV and STRV store the lanes of the mask; LD2I
loads two vectors, and one register loaded twice holds a free value; an address or an alignment outside the rules faults. -/
def Obligations.TellerLoadsAndStores : Prop :=
  ∀ (s : State) (t : Nat) (p : Pred) (r : Run), moveOpen s t p r →
    ((Pred.mask p (s.core t)).testBit 0 = true → ∀ (o : FmtMA) (m : Int) (a : Nat), m = immS 12 o.imm →
      a = oneAddr (s.core t) o.i o.mode m →
      (accessFault (s.core t) o.i 4 [a] = none →
        moves s (.ldw t p o) t (s.setCore t ((s.core t).after o.i o.mode m))
          [(o.r % 32, wd (s.rdDataNat (t % 64) r.folio a 4))] 0 none ∧
        storesAt s (.stw t p o) t r ((s.core t).after o.i o.mode m) a 4 ((s.core t).dw o.r).toNat) ∧
      (accessFault (s.core t) o.i 2 [a] = none →
        moves s (.ldh t p o) t (s.setCore t ((s.core t).after o.i o.mode m))
          [(o.r % 32, (BitVec.ofNat 16 (s.rdDataNat (t % 64) r.folio a 2)).signExtend 32)] 0 none ∧
        storesAt s (.sth t p o) t r ((s.core t).after o.i o.mode m) a 2 ((s.core t).dw o.r).toNat) ∧
      (o.r % 8 = 0 → accessFault (s.core t) o.i 4 ((s.core t).wordAddrs true o.i o.mode m 8) = none →
        ∃ x, moves s (.ldv t p o) t (s.setCore t ((s.core t).after o.i o.mode m))
          (((s.core t).wordAddrs true o.i o.mode m 8).zipIdx.map
            (fun e => ((o.r + e.2) % 32, wd (s.rdDataNat (t % 64) r.folio e.1 4)))) x none) ∧
      (∀ e x, accessFault (s.core t) o.i 4 [a] = some (e, x) → e < 65536 →
        ∃ u, exec (.ldw t p o) s = .next u ∧ u.rb Reg.TEL_EVT 0 = true ∧ u.rf Reg.TEL_FLT0 15 0 = e ∧
          u.reg Reg.TEL_FLT2 = wd x ∧ (u.core t).run = none)) ∧
    ((Pred.mask p (s.core t)).testBit 0 = true → ∀ (o : FmtMR) (m : Int) (a : Nat) (q : Int), m = immS 8 o.imm →
      a = oneAddr (s.core t) o.i o.mode m → accessFault (s.core t) o.i 4 [a] = none →
      q = rhu ((s.core t).av o.acc) (o.sh % 64) →
      storesAt s (.str t p o) t r { (s.core t).after o.i o.mode m with
        sr := if sat32 q = q then (s.core t).sr else (s.core t).sr ||| 1 } a 4 (wdi (sat32 q)).toNat) ∧
    (∀ (o : FmtMA) (a : Nat), a = (s.core t).iw o.i → o.mode % 4 ≠ 3 → o.r % 8 = 0 →
      (s.core t).lw o.i = 0 → (s.core t).bw o.i % 4 = 0 → a % 4 = 0 → 0x3C000 ≤ a → a + 32 ≤ 0x40000 →
      ∃ u x, moves s (.stv t p o) t u [] x none ∧
        (∀ k, k < 8 → u.rdWord (dataAddr t r.folio a + 4 * k) = if (Pred.mask p (s.core t)).testBit k then (s.core t).dw (o.r + k)
          else s.rdWord (dataAddr t r.folio a + 4 * k)) ∧
        (∀ b, b < dataAddr t r.folio a ∨ dataAddr t r.folio a + 32 ≤ b → u.rdByte b = s.rdByte b) ∧ u.pst = s.pst) ∧
    (∀ (o : FmtMR) (a : Nat), a = (s.core t).iw o.i → o.mode % 4 ≠ 3 → (s.core t).lw o.i = 0 → (s.core t).bw o.i % 4 = 0 →
      a % 4 = 0 → 0x3C000 ≤ a → a + 32 ≤ 0x40000 →
      ∃ u x, moves s (.strv t p o) t u [] x none ∧
        (∀ k, k < 8 → u.rdWord (dataAddr t r.folio a + 4 * k) = if (Pred.mask p (s.core t)).testBit k then
            wdi (sat32 (rhu ((s.core t).av k) (o.sh % 64)))
          else s.rdWord (dataAddr t r.folio a + 4 * k)) ∧
        (∀ b, b < dataAddr t r.folio a ∨ dataAddr t r.folio a + 32 ≤ b → u.rdByte b = s.rdByte b) ∧ u.pst = s.pst) ∧
    (∀ o : FmtLD2I, o.z = 0 → o.ia % 4 ≠ o.ib % 4 →
      accessFault (s.core t) o.ia 4 ((s.core t).wordAddrs true o.ia 0 0 8) = none →
      accessFault (s.core t) o.ib 4 ((s.core t).wordAddrs true o.ib 0 0 8) = none →
      ∃ x, moves s (.ld2i t o) t
        { s.setCore t (((s.core t).setI o.ia ((s.core t).modify o.ia (4 * immS 10 o.imma))).setI o.ib
            ((s.core t).modify o.ib (4 * immS 10 o.immb))) with
          free := if o.ga % 4 = o.gb % 4 then s.free + 8 else s.free }
        ((List.range 8).map (fun k => ((8 * o.ga + k) % 32, wd (s.rdDataNat (t % 64) r.folio ((s.core t).through o.ia (4 * k)) 4))) ++
          (List.range 8).map (fun k => ((8 * o.gb + k) % 32, if o.ga % 4 = o.gb % 4 then Config.freeWord (s.free + k)
            else wd (s.rdDataNat (t % 64) r.folio ((s.core t).through o.ib (4 * k)) 4)))) x none)

/-- The bundle and the other moves (R213, R227, R231, R236, R257, R259, R262 to R266): loads of the bundle before become visible at the
end of a bundle; cursors move by Table 4.8; LDF stalls until its response, which the destination takes, or faults with cause 6; deferred
stores, signals and events are journal records; registers move by their codes; branches, calls, returns and loops move the
program counter. -/
def Obligations.TellerMovesAndControl : Prop :=
  (∀ (c : Core) (ls : List (Nat × Word)) (x : Nat),
    (c.endBundle ls x none).loads = ls ∧ (c.endBundle ls x none).cyc = c.cyc + 1 + x ∧
    (∀ n w, c.loads = [(n, w)] → (c.endBundle ls x none).dw n = w) ∧
    (c.loops = [] → (c.endBundle ls x none).pc = (c.pc + 1) % 8192) ∧
    (∀ l rest, c.loops = l :: rest → (∀ z ∈ l :: rest, z.zero = false) → c.pc = l.end_ →
      (c.lc l.k ≠ 0 → (c.endBundle ls x none).pc = l.start ∧ (c.endBundle ls x none).lc l.k = c.lc l.k - 1 ∧
        (c.endBundle ls x none).loops = c.loops) ∧
      (c.lc l.k = 0 → rest = [] → (c.endBundle ls x none).pc = (c.pc + 1) % 8192 ∧ (c.endBundle ls x none).loops = [])) ∧
    (∀ l, c.loops = [l] → l.zero = true → (c.pc + 1) % 8192 = l.start →
      (c.endBundle ls x none).pc = (l.end_ + 1) % 8192 ∧ (c.endBundle ls x none).loops = []) ∧
    (∀ i l, c.loops = [i, l] → l.zero = true → i.end_ ≠ c.pc → (c.pc + 1) % 8192 = l.start →
      (c.endBundle ls x none).pc = (l.end_ + 1) % 8192 ∧ (c.endBundle ls x none).loops = []) ∧
    (∀ a, (c.endBundle ls x (some a)).pc = a % 8192 ∧ (c.endBundle ls x (some a)).cyc = c.cyc + 1 + x)) ∧
  (∀ (c : Core) (j mode : Nat) (m : Int),
    (mode % 4 = 0 ∨ mode % 4 = 3 → c.after j mode m = c) ∧
    (mode % 4 = 1 → c.lw j = 0 → c.after j mode m = c.setI j (wdi ((c.iw j : Int) + m))) ∧
    (mode % 4 = 1 → c.lw j ≠ 0 → c.after j mode m = c.setI j (wdi ((c.bw j : Int) + ((c.iw j : Int) - c.bw j + m) % c.lw j))) ∧
    (mode % 4 = 2 → c.lw j = 0 → c.after j mode m = c.setI j (wdi ((c.iw j : Int) + c.mv (fld c.cr (8 + 3 * (j % 8) + 2) (8 + 3 * (j % 8))))))) ∧
  ∀ (s : State) (t : Nat) (p : Pred) (r : Run), moveOpen s t p r → (Pred.mask p (s.core t)).testBit 0 = true →
    (∀ w : Nat,
      (slotOf t true w = .nop → moves s (.nop t true w) t s [] 0 none) ∧
      (slotOf t true w = .unlisted → ∃ u, exec (.nop t true w) s = .next u ∧ u.rb Reg.TEL_EVT 0 = true ∧
        u.rf Reg.TEL_FLT0 15 0 = 1 ∧ (u.core t).run = none)) ∧
    (∀ o : FmtLF, o.imm = 0 →
      (∃ u, exec (.ldf t p o) s = .next u ∧
        u.core t = { s.core t with
          stall := some (o.r % 32, ((s.core t).dw o.a).toNat, s.clock)
          stale := Nat.min (s.core t).stale (s.ldfDue t) } ∧ u.mem = s.mem ∧
        (s.underReset (tellerMaster t) (t % 16) = true → u.clh = { s.clh with
          parked := s.clh.parked ++ [⟨tellerMaster t, t % 16, false, ((s.core t).dw o.a).toNat, 4, 1, [], [], .none,
            targetOf ((s.core t).dw o.a).toNat⟩] }) ∧
        (s.underReset (tellerMaster t) (t % 16) = false →
          s.accessCause (tellerMaster t) false ((s.core t).dw o.a).toNat 4 1 = 0 →
          u.clh.waiting = s.clh.waiting ++ [⟨tellerMaster t, t % 16, false, ((s.core t).dw o.a).toNat, 4, 1, [], [], .none,
            targetOf ((s.core t).dw o.a).toNat⟩])) ∧
      (s.jcount (t % 64) r.folio < 2048 →
        moves s (.stf t p o) t (s.setPst { s.pst with
          journal := s.pst.journal ++ [⟨t % 64, r.ctx % 256, r.folio, .stf ((s.core t).dw o.a).toNat ((s.core t).dw o.r)⟩] }) [] 0 none)) ∧
    (∀ n : Nat, s.jcount (t % 64) r.folio < 2048 →
      moves s (.sig t p n) t (s.setPst { s.pst with
        journal := s.pst.journal ++ [⟨t % 64, r.ctx % 256, r.folio, .sig (n % 16)⟩] }) [] 0 none ∧
      moves s (.evr t p n) t (s.setPst { s.pst with
        journal := s.pst.journal ++ [⟨t % 64, r.ctx % 256, r.folio, .evr (n % 8)⟩] }) [] 0 none) ∧
    (∀ o : FmtMV, o.z = 0 → moves s (.movr t p o) t (s.setCore t ((s.core t).setCode o.dst ((s.core t).code o.src))) [] 0 none) ∧
    (∀ o : FmtMC, o.z = 0 → o.ctl < 8 →
      (o.dir % 2 = 0 → moves s (.movc t p o) t (s.setCore t ((s.core t).setCtl o.ctl ((s.core t).dw o.d))) [] 0 none) ∧
      (o.dir % 2 = 1 → moves s (.movc t p o) t (s.setCore t ((s.core t).setD o.d ((s.core t).ctl o.ctl))) [] 0 none)) ∧
    (∀ (j : Nat) (m : Int), moves s (.modi t p j m) t (s.setCore t ((s.core t).setI j ((s.core t).modify j (immS 19 m)))) [] 0 none) ∧
    (∀ (n : Nat) (v : Word), moves s (.ldi t n v 0) t (s.setCore t ((s.core t).setCode n v)) [] 0 none) ∧
    (∀ off : Int,
      moves s (.br t p off) t s [] 2 (some ((((s.core t).pc : Int) + immS 13 off) % 8192).toNat) ∧
      ((s.core t).stack.length < 4 → moves s (.call t p off) t (s.setCore t { s.core t with
        stack := ((s.core t).pc + 1) % 8192 :: (s.core t).stack }) [] 2
          (some ((((s.core t).pc : Int) + immS 13 off) % 8192).toNat)) ∧
      (4 ≤ (s.core t).stack.length → ∃ u, exec (.call t p off) s = .next u ∧ u.rb Reg.TEL_EVT 0 = true ∧
        u.rf Reg.TEL_FLT0 15 0 = 4 ∧ (u.core t).run = none)) ∧
    (∀ q : Pred, predBad q = false → (Pred.mask q (s.core t)).testBit 0 = false → ∀ off, moves s (.br t q off) t s [] 0 none) ∧
    (∀ a l, (s.core t).stack = a :: l → moves s (.ret t p) t (s.setCore t { s.core t with stack := l }) [] 2 (some a)) ∧
    (∀ (o : FmtLoop) (n : Nat), 1 + o.skip ≤ o.stop → (s.core t).loops = [] →
      n = (if o.src % 2 = 0 then o.cnt % 256 else ((s.core t).dw o.cnt).toNat % 65536) →
      moves s (.loop t p o) t (s.setCore t { (s.core t).setLc (o.k % 2) (n - 1) with
        loops := [⟨o.k % 2, ((s.core t).pc + 1 + o.skip) % 8192, ((s.core t).pc + o.stop) % 8192, decide (n = 0)⟩] }) [] 0 none)

/-- Runs of a Teller: a first run and a rerun start from the context's declaration; END and the stops by declared cycles,
watchdog and reset end the run, with the event of each; of the runs dispatched, started or not, the watchdog ends the one whose
window ends first; a reset clears the registers. -/
def Obligations.TellerRuns : Prop :=
  ∀ (s : State) (t : Nat), s.hostLive = true →
    (∀ c n : Nat, s.nextFirst t = some (ctxKey t c, n) → (s.core t).run = none →
      (∀ f ∈ s.pst.fols, f.n < n → ctxKey t c ∉ f.prov) → s.todoOf (ctxKey t c) = false →
      ∃ u, exec (.firstRunStart t c) s = .next u ∧ (u.core t).run = some ⟨c % 256, n, false⟩ ∧
        (u.core t).pc = (s.ctx (ctxKey t c)).decl.entry % 8192 ∧ (u.core t).cr = (s.ctx (ctxKey t c)).decl.cr ∧
        (u.core t).cyc = 4 ∧ (u.core t).sr = 0 ∧ (u.core t).acc = [] ∧ (u.core t).d = [] ∧ (u.core t).stack = [] ∧
        (u.core t).dirty = (s.core t).dirty ∧ u.mem = s.mem ∧ u.regs = s.regs ∧ u.pst = s.pst) ∧
    (∀ c n : Nat, s.nextRerun t = some (ctxKey t c, n) → (s.core t).run = none →
      ∃ u, exec (.rerunStart t c) s = .next u ∧ (u.core t).run = some ⟨c % 256, n, true⟩ ∧
        (u.core t).pc = (s.ctx (ctxKey t c)).decl.entry % 8192 ∧ (u.core t).cyc = 4 ∧ u.regs = s.regs ∧
        (∀ w, w ∈ (u.core t).dirty → declOwns (s.ctx (ctxKey t c)).decl (8 * w) = false) ∧
        ∀ j ∈ u.pst.journal, j.isOf (ctxKey t c) n = false) ∧
    (∀ (p : Pred) (r : Run), moveOpen s t p r → (Pred.mask p (s.core t)).testBit 0 = true →
      ((s.core t).cyc + 2 ≤ (s.ctx (ctxKey t r.ctx)).decl.cycles →
        ∃ u, exec (.endRun t p) s = .next u ∧ (u.core t).run = none ∧ (u.core t).stack = [] ∧
          (r.rerun = false → (u.ctx (ctxKey t r.ctx)).last = (s.core t).cyc + 2 ∧
            (u.ctx (ctxKey t r.ctx)).max = Nat.max (s.ctx (ctxKey t r.ctx)).max ((s.core t).cyc + 2)) ∧
          (bit (s.core t).sr 0 = true → u.rb (if t % 64 < 32 then Reg.TEL_SATLO else Reg.TEL_SATHI) (t % 32) = true)) ∧
      ((s.ctx (ctxKey t r.ctx)).decl.cycles < (s.core t).cyc + 2 →
        ∃ u, exec (.endRun t p) s = .next u ∧ (u.core t).run = none ∧ u.rb Reg.PST_EVT 5 = true)) ∧
    (∀ r : Run, (s.core t).run = some r →
      ((s.ctx (ctxKey t r.ctx)).decl.cycles ≤ s.runCyc t →
        ∃ u, exec (.taskOverrun t) s = .next u ∧ (u.core t).run = none ∧ u.rb Reg.PST_EVT 5 = true) ∧
      (s.runCyc t < (s.ctx (ctxKey t r.ctx)).decl.cycles → exec (.taskOverrun t) s = .next s) ∧
      (∀ f : Fol, s.rb Reg.TEL_CTRL 0 = true → r.rerun = false → r.ctx < 256 → s.pst.fols = [f] → f.n = r.folio →
        f.open_ = [ctxKey t r.ctx] → f.redisp = [] →
        ∃ u, exec (.windowWatchdog t) s = .next u ∧ (u.core t).run = none ∧ u.rb Reg.TEL_EVT 1 = true) ∧
      (∀ (f : Fol) (m : Int), s.rb Reg.TEL_CTRL 0 = true → r.rerun = true → r.ctx < 256 → s.pst.fols = [f] → f.n = r.folio →
        f.open_ = [] → f.redisp = [(ctxKey t r.ctx, m)] → (s.ctx (ctxKey t r.ctx)).decl.isSrc = false →
        ∃ u, exec (.windowWatchdog t) s = .next u ∧ (u.core t).run = none ∧ u.rb Reg.TEL_EVT 1 = true)) ∧
    (s.rb Reg.TEL_CTRL 0 = false ∨ (∀ f ∈ s.pst.fols, f.open_ = [] ∧ f.redisp = []) →
      exec (.windowWatchdog t) s = .next s) ∧
    (∀ (k : Nat) (r : Run), s.rb Reg.TEL_CTRL 0 = true → firstWindow (s.windows t) = some (k, r) →
      (s.core t).run ≠ some r →
      ∃ u, exec (.windowWatchdog t) s = .next u ∧ (u.core t).run = (s.core t).run ∧ u.rb Reg.TEL_EVT 1 = true ∧
        (r.rerun = false → ∀ f, u.fol? r.folio = some f → k ∉ f.open_)) ∧
    (∃ u, exec (.tellerReset t) s = .next u ∧ u.core t = { Core.reset with dirty := (u.core t).dirty } ∧
      u.rb Reg.TEL_EVT 2 = true)

/-- The answers to an LDF, and the record of a failed deferred store (R220, R256 to R258): the oldest response due ends the stall
with its word, or faults with cause 6; one of an ended stall is discarded; none in time faults; an error response to a
deferred store sets STFERR and the other effects of its task stand. TEL_CTXCMD waits for the next folio in the context that TEL_CTXSEL names; a replacement that R270 allows is scheduled, another is
ignored with SWAPERR. -/
def Obligations.LdfResponsesAndContexts : Prop :=
  ((∀ (s : State) (t a d t0 : Nat) (r : Run), (s.core t).run = some r → (s.core t).stall = some (d, a, t0) →
    (∀ (x : DoneTxn) (rest : List DoneTxn), takeDone (tellerMaster t) (t % 16) s.clh.inflight = some (x, rest) →
      (x.discard = false → (s.core t).stale = 0 →
        (x.resp = .ok → ∃ u, exec (.ldfResponse t) s = .next u ∧
          u.core t = ({ s.core t with
            stall := none
            cyc := (s.core t).cyc + (s.clock - t0) } : Core).endBundle [(d, wd (leNat x.data))] 0 none ∧
          u.mem = s.mem ∧ (s.clh.parked = [] → u.clh.inflight = rest)) ∧
        (x.resp ≠ .ok → ∃ u, exec (.ldfResponse t) s = .next u ∧ u.rb Reg.TEL_EVT 0 = true ∧
          u.rf Reg.TEL_FLT0 15 0 = 6 ∧ (u.core t).run = none)) ∧
      (x.discard = false → (s.core t).stale ≠ 0 → ∃ u, exec (.ldfResponse t) s = .next u ∧
        u.core t = { s.core t with stale := (s.core t).stale - 1 } ∧ u.mem = s.mem ∧ (s.clh.parked = [] → u.clh.inflight = rest)) ∧
      (x.discard = true → ∃ u, exec (.ldfResponse t) s = .next u ∧ u.core t = s.core t ∧ u.mem = s.mem ∧
        (s.clh.parked = [] → u.clh.inflight = rest))) ∧
    (takeDone (tellerMaster t) (t % 16) s.clh.inflight = none → exec (.ldfResponse t) s = .next s) ∧
    (∃ u, exec (.ldfTimeout t) s = .next u ∧ u.rb Reg.TEL_EVT 0 = true ∧ u.rf Reg.TEL_FLT0 15 0 = 6 ∧ (u.core t).run = none)) ∧
  ∀ (s : State) (a k : Nat) (rest : List (JRec × Bool)), s.hostLive = true → takeStf a s.pst.todo = some (k, rest) →
    (∀ x : Txn, s.clh.waiting.find? (fun t => t.m == .pst && t.addr == a) = some x →
      ∃ u, exec (.stfError a) s = .next u ∧ u.rb Reg.PST_EVT 9 = true ∧ u.rb Reg.CLH_EVT 0 = true ∧
        ((∀ e ∈ rest, e.1.t ≠ k) → u.mem = s.mem ∧ u.pst.todo = rest ∧ u.tel = s.tel ∧
          u.clh.waiting = s.clh.waiting.erase x)) ∧
    (∀ x : DoneTxn, s.clh.waiting.find? (fun t => t.m == .pst && t.addr == a) = none →
      s.clh.inflight.find? (fun d => (d.txn.m == .pst && d.txn.addr == a) && d.resp == .err && !d.discard) = some x →
      ∃ u, exec (.stfError a) s = .next u ∧ u.rb Reg.PST_EVT 9 = true ∧
        ((∀ e ∈ rest, e.1.t ≠ k) → u.mem = s.mem ∧ u.pst.todo = rest ∧ u.tel = s.tel ∧
          u.clh.inflight = s.clh.inflight.erase x))) ∧
  (∀ (s : State) (v : Word), s.hostLive = true →
    ((s.ctx s.ctxSel).exists_ = true →
      (fld v 1 0 = 1 → exec (.contextEnable v) s = .next (s.setCtx s.ctxSel { s.ctx s.ctxSel with cmd := 1 })) ∧
      (fld v 1 0 = 2 → exec (.contextDisable v) s = .next (s.setCtx s.ctxSel { s.ctx s.ctxSel with cmd := 2 }))) ∧
    (fld v 1 0 = 0 ∨ fld v 1 0 = 3 → exec (.contextEnable v) s = .next s ∧ exec (.contextDisable v) s = .next s) ∧
    (∀ (t old new ahead : Nat), bit v 0 = true → t = s.rf Reg.TEL_SWAP 29 24 → old = s.rf Reg.TEL_SWAP 7 0 →
      new = s.rf Reg.TEL_SWAP 15 8 → ahead = ((s.reg Reg.TEL_SWAPF).toNat + 4294967296 - s.pst.cut % 4294967296) % 4294967296 →
      ((s.ctx (ctxKey t old)).exists_ = true → (s.ctx (ctxKey t old)).en = true → (s.ctx (ctxKey t new)).exists_ = true →
        old ≠ new → 3 ≤ ahead → ahead ≤ 12000 →
        ((s.ctxsWhere (fun k _ => decide (k / 256 = t) && (s.runsIn k (s.pst.cut + ahead) || k == ctxKey t new))).map
          (fun k => (s.ctx k).decl.cycles)).foldl (· + ·) 0 ≤ 80000 →
        ∃ u, exec (.swapGo v) s = .next u ∧ u.tel = { s.tel with swaps := s.tel.swaps ++ [⟨t, old, new, s.pst.cut + ahead, false⟩] } ∧
          u.rb Reg.TEL_SWAPST 0 = true ∧ u.mem = s.mem) ∧
      (ahead < 3 ∨ 12000 < ahead ∨ (s.ctx (ctxKey t old)).en = false → ∃ u, exec (.swapGo v) s = .next u ∧ u.tel = s.tel ∧
        u.rb Reg.TEL_EVT 7 = true ∧ u.mem = s.mem)) ∧
    (bit v 0 = false → exec (.swapGo v) s = .next s))

/-! ### Hinge pairs and districts (chapter 10) -/

/-- The state of a pair, Table 10.4: enabling starts PAIRING and disabling returns to ALONE, within the DVT budget of a relay; the
twelfth HINGE in a row on P2 pairs and the lower address decides; a RELEASE, or no HINGE at all, takes the partner's half;
checksums are compared once a folio; P2 alone lost is a split; a partner's copy overdue on P2 is filled. The release sequence (R583): GIVE in PAIRED and RETURN in TAKEN start it where the partner allows, and set CFGERR
elsewhere; the switches open, over the Keyway, once the channels given up are OFF; after HSWT the node is YIELDED, or PAIRED again. -/
def Obligations.PairsAndReleases : Prop :=
  (∀ (s : State), s.hostLive = true →
    (∀ v : Word, s.rb Reg.HNG_CTRL 0 = !(bit v 0) → (s.typeWrite Reg.HNG_CTRL v).budgetOk = true →
      (bit v 0 = true → ∃ t, exec (.hngEnable v) s = .next t ∧ t.hinged = true ∧ t.hng = { Hng.reset with
        st := .pairing
        csums := s.hng.csums } ∧ t.mem = s.mem) ∧
      (bit v 0 = false → ∃ t, exec (.hngEnable v) s = .next t ∧ t.hinged = false ∧ t.hng = { Hng.reset with
        csums := s.hng.csums } ∧ t.mem = s.mem)) ∧
    (∀ v : Word, (s.typeWrite Reg.HNG_CTRL v).budgetOk = false → (s.typeWrite Reg.HNG_CTRL v).relays = true →
      ∃ t, exec (.hngEnable v) s = .next t ∧ t.rb Reg.DVT_EVT 1 = true ∧ t.reg Reg.HNG_CTRL = s.reg Reg.HNG_CTRL ∧
        t.hng = s.hng) ∧
    (∀ (port : Nat) (m : HingeMsg) (ts : Nat), s.hinged = true → m.node ≠ s.partner → exec (.hinge port m ts) s = .next s) ∧
    (∀ (port : Nat) (m : HingeMsg) (ts : Nat), s.hinged = true → m.node = s.partner → port < 3 →
      (s.hng.st = .pairing → port = 2 → s.hng.run = 11 → s.hng.runFolio = some (folioOf s.sysT - 1) → folioOf s.sysT ≠ 0 →
        m.imgId = s.reg Reg.HNG_IMGID → m.st ≠ 4 → ∃ t, exec (.hinge port m ts) s = .next t ∧ t.hng.st = .paired ∧
          t.hng.decider = decide (s.nodeAddr < s.partner) ∧ t.rb Reg.HNG_EVT 0 = true ∧ t.mem = s.mem) ∧
      (s.hng.st = .paired → m.release = true → ∃ t, exec (.hinge port m ts) s = .next t ∧ t.hng.st = .taken ∧
        t.hng.decider = true ∧ t.hng.nettko = true ∧ t.rb Reg.HNG_EVT 1 = true ∧ t.mem = s.mem) ∧
      (∀ n own, s.hng.st = .paired → m.release = false → m.fieldOk = true → s.hng.compared ≠ some (folioOf s.sysT - 1) →
        s.hng.csums.find? (fun e => e.1 == folioOf s.sysT - 1) = some (n, own) →
        ∃ t, exec (.hinge port m ts) s = .next t ∧ t.hng.st = .paired ∧ t.reg Reg.HNG_PCSUM = m.csum ∧
          t.hng.compared = some (folioOf s.sysT - 1) ∧
          (own = m.csum → t.hng.matches_ = Nat.min 16 (s.hng.matches_ + 1) ∧ t.hng.mismatches = 0) ∧
          (own ≠ m.csum → t.hng.mismatches = Nat.min 16 (s.hng.mismatches + 1) ∧ t.hng.matches_ = 0 ∧
            t.reg Reg.HNG_CNT_CSMIS = s.reg Reg.HNG_CNT_CSMIS + 1))) ∧
    (s.heard250 = false → s.hng.st = .paired ∨ s.hng.st = .split → ∃ t, exec .heartbeatLoss s = .next t ∧ t.hng.st = .taken ∧
      t.hng.decider = true ∧ t.hng.nettko = true ∧ t.hng.rel = none ∧ t.rb Reg.HNG_EVT 1 = true) ∧
    (s.heard250 = true ∨ s.hng.st = .alone ∨ s.hng.st = .taken ∨ s.hng.st = .yielded ∨ s.hng.st = .pairing →
      exec .heartbeatLoss s = .next s) ∧
    (s.hng.st = .paired → s.heard250 = true → s.pathUp s.hng.last0 = false → ∃ t, exec .split s = .next t ∧ t.hng.st = .split ∧ t.hng.decider = s.hng.decider ∧
      t.rb Reg.HNG_EVT 3 = true ∧ t.mem = s.mem) ∧
    (s.hng.st ≠ .paired ∨ s.heard250 = false ∨ s.pathUp s.hng.last0 = true → exec .split s = .next s) ∧
    (∀ (k m : Nat) (f : Fol), k < 512 → s.pst.egress = some m → s.outFol m = some f → s.rb Reg.HNG_CTRL 2 = true →
      s.hng.st = .paired → s.link 2 = true → (s.tx k).on = true → s.rb (Reg.DVT_TXCFG k) 27 = true → s.rb Reg.DVT_CTRL 0 = true →
      ((k, m) ∉ s.hng.p2Seen → k ∉ s.hng.filled → s.fillAt k m ≤ s.sysT →
        ∃ t, exec (.fill k) s = .next t ∧ t.hng.nettko = true ∧ t.hng.filled = s.hng.filled ++ [k] ∧ t.mem = s.mem ∧ t.pst = s.pst ∧
        t.reg Reg.HNG_CNT_FILL = s.reg Reg.HNG_CNT_FILL + 1) ∧
      ((k, m) ∈ s.hng.p2Seen ∨ k ∈ s.hng.filled ∨ s.sysT < s.fillAt k m → exec (.fill k) s = .next s))) ∧
  (∀ (s : State), s.hostLive = true →
    (s.hng.st = .paired → s.hng.rel = none → ∃ t, exec .give s = .next t ∧ t.hng = { s.hng with
      rel := some ⟨true, .stopping, (s.reg Reg.HNG_OWN).toNat⟩
      relAt := s.clock } ∧ t.mem = s.mem) ∧
    (s.hng.st ≠ .paired ∨ s.hng.rel ≠ none → ∃ t, exec .give s = .next t ∧ t.hng = s.hng ∧ t.rb Reg.HNG_EVT 7 = true) ∧
    (s.hng.st = .taken → s.hng.pSt = 5 → s.hng.pSynced = true → s.hng.rel = none →
      ∃ t, exec .hngReturn s = .next t ∧ t.hng = { s.hng with
        rel := some ⟨false, .stopping, s.partnerLines.toNat⟩
        relAt := s.clock } ∧ t.mem = s.mem) ∧
    (s.hng.st ≠ .taken ∨ s.hng.pSynced = false → ∃ t, exec .hngReturn s = .next t ∧ t.hng = s.hng ∧
      t.rb Reg.HNG_EVT 7 = true) ∧
    (∀ r : Release, s.hng.rel = some r →
      (r.step = .stopping → (s.isA = true → s.kwy.link = .up ∧ s.field.link = .up ∧
          ∀ c, c < 32 → r.lines.testBit c = true → (s.chan c).st = .off) →
        ∃ t, exec .releaseSwitchOpen s = .next t ∧ t.hng = { s.hng with
          rel := some { r with step := .opening }
          relAt := if s.isA then s.clock + us (s.rf Reg.FPWM_TIM 31 24) else s.clock } ∧ t.mem = s.mem) ∧
      (r.step = .stopping → s.isA = true → s.kwy.link ≠ .up → exec .releaseSwitchOpen s = .next s) ∧
      (∀ c, r.step = .stopping → s.isA = true → c < 32 → r.lines.testBit c = true → (s.chan c).st ≠ .off →
        exec .releaseSwitchOpen s = .next s) ∧
      (r.step = .opening → s.clock < s.hng.relAt →
        exec .releaseHswtElapsed s = .next s) ∧
      (r.step = .opening → s.hng.relAt ≤ s.clock → r.give = true → ∃ t, exec .releaseHswtElapsed s = .next t ∧ t.hng.st = .yielded ∧
        t.hng.decider = false ∧ t.hng.rel = none ∧ t.rb Reg.HNG_EVT 2 = true ∧ t.mem = s.mem) ∧
      (r.step = .opening → s.hng.relAt ≤ s.clock → r.give = false → ∃ t, exec .releaseHswtElapsed s = .next t ∧ t.hng.st = .paired ∧
        t.hng.rel = none ∧ t.rb Reg.HNG_EVT 0 = true ∧ t.mem = s.mem)))

/-- Announcements and registrars (R551 to R562): an ANNOUNCE enters the directory, a duplicate of this node's address is an
event and the larger source address falls silent; a CLAIM of a lower address ends this node's role; without a CLAIM an
eligible node takes the role at its instant after the last CLAIM heard; while the registrar is heard it does not; LEAVE and three
missing ANNOUNCEs forget a node. The messages of registrars (R558 to R567, Table 10.2): STREAMS enter the directory of the registrar, QUERY is answered from it, or forwarded,
REPLY is learnt or passed on, and the slots of a node send its ANNOUNCE, CLAIM, STREAMS and QUERY on both networks. -/
def Obligations.DistrictRolesAndMessages : Prop :=
  (∀ (s : State) (node : Nat), s.hostLive = true → s.runtime = true →
    (∀ (flags src : Nat) (img : Word) (partner ntx : Nat),
      (node ≠ s.nodeAddr → ∃ t, exec (.announce node flags src img partner ntx) s = .next t ∧
        aget t.dis.heard Heard.none node = ⟨flags, src, img, partner, ntx, s.clock⟩ ∧
        (∀ n, n ≠ node → aget t.dis.heard Heard.none n = aget s.dis.heard Heard.none n) ∧
        (flags.testBit 1 = true → aget t.dis.regs 65535 (districtOf node) = node) ∧ t.regs = s.regs ∧ t.mem = s.mem) ∧
      (node = s.nodeAddr → src ≠ s.macAddr 0 → src ≠ s.macAddr 1 →
        ∃ t, exec (.announce node flags src img partner ntx) s = .next t ∧ t.rb Reg.DIS_EVT 3 = true ∧
          (src < s.macAddr 0 → t.dis.mute = true ∧ t.rb Reg.DIS_CFG 0 = false) ∧
          (s.macAddr 0 ≤ src → t.dis = s.dis) ∧ t.mem = s.mem)) ∧
    (∀ (nrec : Nat) (regs : List Nat), node ≠ s.nodeAddr →
      (districtOf node = s.district → ∃ t, exec (.claim node 0 nrec regs) s = .next t ∧
        ((0, node), s.clock) ∈ t.dis.claims ∧ t.dis.isD = (s.dis.isD && !decide (node < s.nodeAddr)) ∧
        t.dis.isV = (s.dis.isV && !decide (node < s.nodeAddr)) ∧ t.dis.regs = s.dis.regs ∧ t.mem = s.mem) ∧
      (∃ t, exec (.claim node 1 nrec regs) s = .next t ∧ ((1, node), s.clock) ∈ t.dis.claims ∧ t.dis.isD = s.dis.isD ∧
        t.dis.isV = (s.dis.isV && !decide (node < s.nodeAddr)) ∧
        (∀ d r, d < 128 → regs[d]? = some r → aget t.dis.regs 65535 d = r) ∧ t.mem = s.mem)) ∧
    (s.registrar 0 = none → s.claimSlot 0 = true → s.eligible = true → s.lowerHeard 0 = false →
      ∃ t, exec (.claimTimeout 0) s = .next t ∧ t.dis.isD = true ∧
        t.dis.isV = s.dis.isV ∧ (∀ e ∈ t.dis.claims, e.1.1 ≠ 0) ∧ t.mem = s.mem) ∧
    (s.registrar 0 = none → s.claimSlot 0 = true → aget s.dis.known 65535 0 ≠ 65535 → aget s.dis.known 65535 0 ≠ s.nodeAddr →
      ∃ t, exec (.claimTimeout 0) s = .next t ∧ t.rb Reg.DIS_EVT 1 = true ∧ (∀ e ∈ t.dis.claims, e.1.1 ≠ 0) ∧
        t.dis.last = s.dis.last) ∧
    (∀ k n at_, s.dis.lastClaim k = some (n, at_) →
      s.clock < at_ + ms 300 + ms 4 * (if k = 0 then s.nodeAddr % 128 else districtOf s.nodeAddr) →
      exec (.claimTimeout k) s = .next s) ∧
    (s.registrar 0 ≠ none → exec (.claimTimeout 0) s = .next s) ∧
    (s.eligible = false → ∃ t, exec (.claimTimeout 0) s = .next t ∧ t.dis.isD = s.dis.isD ∧ t.dis.isV = s.dis.isV) ∧
    (s.registrar 1 = none → s.claimSlot 1 = true → s.eligible = true → s.lowerHeard 1 = false → s.dis.isD = true →
      ∃ t, exec (.claimTimeout 1) s = .next t ∧ t.dis.isV = true ∧ t.dis.isD = true) ∧
    (∀ i, (i = Instr.leave node ∨ (i = Instr.recordExpiry node ∧
        ∀ e ∈ s.dis.heard, e.1 = node → e.2.at_ + ms 3072 ≤ s.clock)) → ∃ t, exec i s = .next t ∧
      (∀ e ∈ t.dis.heard, e.1 ≠ node) ∧ (∀ e ∈ t.dis.dir, e.1 / 512 ≠ node) ∧ (∀ e ∈ t.dis.claims, e.1.2 ≠ node) ∧
      (∀ e ∈ t.dis.regs, e.2 ≠ node) ∧ (∀ e ∈ s.dis.heard, e.1 ≠ node → e ∈ t.dis.heard) ∧
      t.dis.isD = s.dis.isD ∧ t.mem = s.mem)) ∧
  (∀ (s : State), s.hostLive = true → s.runtime = true →
    (∀ (node : Nat) (r : StreamRec), s.dis.isD = true → districtOf node = s.district → r.index < 512 →
      ∃ t, exec (.streams node [r]) s = .next t ∧ aget t.dis.dir StreamRec.none (512 * node + r.index) = r ∧
        (∀ k, k ≠ 512 * node + r.index → aget t.dis.dir StreamRec.none k = aget s.dis.dir StreamRec.none k) ∧
        t.regs = s.regs ∧ t.mem = s.mem) ∧
    (∀ (node : Nat) (recs : List StreamRec), s.dis.isD = false → exec (.streams node recs) s = .next s) ∧
    (∀ (src tag : Nat) (ids : List Nat), s.dis.isD = true →
      (ids ≠ [] → (∀ i ∈ ids, districtOf (i / 512) = s.district) → exec (.query src tag ids) s = .next
        (sendNetworks (s.macOf src) 5 (beBytes tag 2 ++ beBytes ids.length 2 ++ ids.flatMap (fun i => replyBytes (s.lookup i))) s)) ∧
      (∀ i r, ids = [i] → districtOf (i / 512) ≠ s.district → aget s.dis.regs 65535 (districtOf (i / 512)) = r → r ≠ 65535 →
        ∃ t, exec (.query src tag ids) s = .next t ∧ t.dis = { s.dis with
          tag := (s.dis.tag + 1) % 65536
          forwarded := s.dis.forwarded ++ [((s.dis.tag + 1) % 65536, (src, tag))] } ∧ t.mem = s.mem)) ∧
    (∀ (tag : Nat) (r : ReplyRec), s.dis.forwarded = [] →
      ∃ t, exec (.reply tag [r]) s = .next t ∧ aget t.dis.lookups ReplyRec.none r.id = r ∧
        (∀ k, k ≠ r.id → aget t.dis.lookups ReplyRec.none k = aget s.dis.lookups ReplyRec.none k) ∧ t.mem = s.mem) ∧
    (∀ (tag src b : Nat) (recs : List ReplyRec), s.dis.forwarded = [(tag, (src, b))] →
      ∃ t, exec (.reply tag recs) s = .next t ∧ t.dis = { s.dis with forwarded := [] } ∧ t.mem = s.mem) ∧
    (s.dis.mute = false → s.dis.isD = false →
      exec .periodicAnnounce s = .next (sendNetworks (s.group s.district) 1 s.announcePayload s)) ∧
    (s.dis.mute = true → exec .periodicAnnounce s = .next s) ∧
    (s.dis.isV = false →
      (s.dis.isD = true → exec .claimInterval s = .next (sendNetworks (s.group s.district) 2
        (beBytes s.nodeAddr 2 ++ [0, 0] ++ beBytes s.dis.nodes.length 2 ++ [0, 0]) s)) ∧
      (s.dis.isD = false → exec .claimInterval s = .next s)) ∧
    (∀ r, s.registrar 0 = some r → r ≠ s.nodeAddr →
      (s.ownStreams ≠ [] → s.ownStreams.length ≤ 256 → exec .streamsSlot s = .next (sendNetworks (s.macOf r) 3
        (beBytes s.nodeAddr 2 ++ beBytes s.ownStreams.length 2 ++ s.ownStreams.flatMap recBytes) s)) ∧
      (∀ ids, ids = (s.rxEnabled.map (fun e => fld e.2 22 0)).take 256 → ids ≠ [] →
        exec .querySlot s = .next (sendNetworks (s.macOf r) 4 (beBytes ((s.dis.tag + 1) % 65536) 2 ++ beBytes ids.length 2 ++
          ids.flatMap (fun i => beBytes i 4)) (s.setDis { s.dis with tag := (s.dis.tag + 1) % 65536 })))) ∧
    (s.registrar 0 = none → exec .streamsSlot s = .next s ∧ exec .querySlot s = .next s))

/-! ### Frames -/

/-- A command of a Teller, or REMIX_END, which changes the same kinds of state. -/
def tellerCommand : Instr → Bool
  | .firstRunStart .. | .rerunStart .. | .taskOverrun .. | .windowWatchdog .. | .ldfResponse .. | .ldfTimeout ..
  | .contextEnable .. | .contextDisable .. | .swapGo .. | .nop .. | .add .. | .adds .. | .sub .. | .subs .. | .neg ..
  | .negs .. | .abs .. | .abss .. | .min .. | .max .. | .and .. | .or .. | .xor .. | .shl .. | .shls .. | .asr ..
  | .asrr .. | .lsr .. | .addi .. | .addis .. | .cmpeq .. | .cmplt .. | .cmple .. | .vcmpeq .. | .vcmplt ..
  | .vcmple .. | .plog .. | .mul .. | .mac .. | .macs .. | .msu .. | .msus .. | .dot8z .. | .dot8 .. | .dot8s ..
  | .vmac8z .. | .vmac8 .. | .vmac8s .. | .vmsu8 .. | .vmsu8s .. | .rnd .. | .rndw .. | .trn .. | .amov .. | .aadd ..
  | .aadds .. | .ash .. | .aclr .. | .sinit .. | .smax .. | .smin .. | .sred .. | .ldw .. | .ldh .. | .ldv .. | .stw ..
  | .sth .. | .stv .. | .str .. | .strv .. | .ldf .. | .stf .. | .movr .. | .movc .. | .modi .. | .br .. | .call ..
  | .ret .. | .loop .. | .endRun .. | .sig .. | .evr .. | .ld2i .. | .ldi .. | .remixEnd => true
  | _ => false

/-- A command of the field die that leaves the host die as it is. -/
def fieldCommand : Instr → Bool
  | .block .. | .envelope .. | .cmd .. | .hostHeartbeat .. | .force .. | .exit .. | .finMeasurement .. | .foutClr ..
  | .rel .. | .reload .. | .playerGo .. | .playerStop .. | .overrideRepeat .. | .start .. | .stop .. | .clear ..
  | .startSequence .. | .enableTimeElapsed .. | .hold50Complete .. | .rampInComplete .. | .stopRampOutComplete ..
  | .stopHold50Complete .. | .stopEnableTimeElapsed .. | .carrierPeriod .. | .boostPeriod .. | .hswWrite ..
  | .takeoverStart .. | .hswtElapsed .. | .avoidanceRun .. | .carrierModeWrite .. | .ilimCrossing .. | .iscCrossing ..
  | .fltAssert .. | .lineOverVoltage .. | .retry .. | .probeComplete .. | .dcOffset .. | .ntcWarning .. | .ntcTrip ..
  | .thermalRestore .. | .boostOverCurrent .. | .boostOcPersist .. | .boostRetry .. | .boostOverVoltage ..
  | .railOverVoltage .. | .pilotStart .. | .earthLeakage .. | .f0FrameReceived .. | .fieldSupplyBelowWarning ..
  | .fieldWarningEnd | .laneClockLoss | .fieldClockSwitch | .blockMissing | .fieldFolioStart | .autonomyEntry
  | .autonomyExit | .toneBurstEnd | .sbxEraseSector | .sbxProgramPage | .avoidanceRunComplete => true
  | _ => false

/-- A command of time. -/
def timeCommand : Instr → Bool
  | .rateCommit .. | .rateTakesEffect .. | .set .. | .step .. | .slew .. | .cancel .. | .slewDone .. | .activeWrite ..
  | .jclr .. | .snap .. | .align .. | .pulseEnable .. | .ptpMessage .. | .pulseOutputEdge ..
  | .announceReceiptTimeout .. | .junctionDone => true
  | _ => false

/-- A command of the network ports and streams. -/
def networkCommand : Instr → Bool
  | .macCfgWrite .. | .portLinkDown .. | .frameOffered .. | .subscriptionEnable .. | .transmitStreamEnable ..
  | .aes67StreamEnable .. | .streamLoss .. | .dvtRelease | .periodicAnnounce
  | .claimInterval => true
  | _ => false

/-- A command of the district. -/
def districtCommand : Instr → Bool
  | .announce .. | .claim .. | .streams .. | .query .. | .reply .. | .leave .. | .claimTimeout .. | .recordExpiry ..
  | .streamsSlot | .querySlot => true
  | _ => false

/-- A command of the Exchange and the sink chain. -/
def sinkCommand : Instr → Bool
  | .excCfgWrite .. | .acquireLock .. | .inputLoss .. | .phaseError .. | .inputResume .. | .syncRatioCheck ..
  | .dcfgWrite .. | .dlyWrite .. | .limWrite .. => true
  | _ => false

/-- A command of the serial audio and Till ports. -/
def audioPortCommand : Instr → Bool
  | .sapEnable .. | .sapAlign .. | .slaveFrame .. | .tillWordReceived .. | .tillHold .. | .tilWmWrite ..
  | .tillWordSent .. => true
  | _ => false

/-- A command of the Ledger. -/
def ledgerCommand : Instr → Bool
  | .gainStoreWrite .. | .chgvWrite .. | .holdWrite .. | .rampTableWrite .. | .waitingBeat
  | .changeAccept => true
  | _ => false

/-- A command of the reference clock. -/
def referenceCommand : Instr → Bool
  | .rscMeasurement .. | .buildoutComplete .. | .rscOpen .. | .rscClose .. | .ncoWrite .. | .rscFreerun ..
  | .disqualification .. => true
  | _ => false

/-- A command of the Remit engine. -/
def remitCommand : Instr → Bool
  | .waitConditionMet .. | .rmtStart .. | .halt .. | .resume .. | .abort .. | .doorbell .. | .rmtPcWrite ..
  | .channelRetired .. => true
  | _ => false

/-- A command that may write a byte of memory. -/
def memoryCommand : Instr → Bool
  | .registerWrite .. | .burstGrant .. | .transactionRetire .. | .bistEnd .. | .xspCommandDone .. | .pwrCtrlWrite ..
  | .domainSwitchComplete .. | .groupMixEnd .. | .sinkChainGroup .. | .pstEnWrite .. | .rerunStart .. | .taskOverrun ..
  | .windowWatchdog .. | .tellerReset .. | .ldfResponse .. | .ldfTimeout .. | .stfError .. | .nop .. | .add ..
  | .adds .. | .sub .. | .subs .. | .neg .. | .negs .. | .abs .. | .abss .. | .min .. | .max .. | .and .. | .or ..
  | .xor .. | .shl .. | .shls .. | .asr .. | .asrr .. | .lsr .. | .addi .. | .addis .. | .cmpeq .. | .cmplt ..
  | .cmple .. | .vcmpeq .. | .vcmplt .. | .vcmple .. | .plog .. | .mul .. | .mac .. | .macs .. | .msu .. | .msus ..
  | .dot8z .. | .dot8 .. | .dot8s .. | .vmac8z .. | .vmac8 .. | .vmac8s .. | .vmsu8 .. | .vmsu8s .. | .rnd ..
  | .rndw .. | .trn .. | .amov .. | .aadd .. | .aadds .. | .ash .. | .aclr .. | .sinit .. | .smax .. | .smin ..
  | .sred .. | .ldw .. | .ldh .. | .ldv .. | .stw .. | .sth .. | .stv .. | .str .. | .strv .. | .ldf .. | .stf ..
  | .movr .. | .movc .. | .modi .. | .br .. | .call .. | .ret .. | .loop .. | .endRun .. | .sig .. | .evr .. | .ld2i ..
  | .ldi .. | .gainStoreWrite .. | .chgvWrite .. | .rampTableWrite .. | .slaveFrame .. | .tillWordReceived ..
  | .move .. | .receipt .. | .headerVerify .. | .sectionCheck .. | .controlMessage .. | .update ..
  | .hostSupervisorReset .. | .hostTemperatureMeasurement .. | .fieldTemperatureMeasurement .. | .scrubPeriod ..
  | .fieldScrub .. | .hostSupplyGood | .bootRetry | .serviceLevel2 | .braceExit | .hostPinReset | .prsntNHigh
  | .prsntNRelease | .fprsntNHigh | .hostInternalReset | .stewardRuntimeRestart | .fieldSupplyReset | .strongboxLoadEnd
  | .sbxCommandDone | .folioStart | .entryCut | .mixSlotStart | .remixEnd | .postingCut | .waitingBeat | .changeAccept
  | .receiptMissing | .changePerform | .rstNRelease | .frameReceived .. | .repoint .. | .rootLock => true
  | _ => false

/-- The frames of the commands: a command of one unit changes that unit's state, registers, and where the unit has them memory
or free values, and nothing else; a command of the field die leaves every host register; a command that is not a memory command leaves
every byte of memory. -/
def Obligations.CommandFrames : Prop :=
  ∀ (c : Instr) (s t : State), exec c s = .next t →
    (tellerCommand c = true → t = { s with
      setNow := t.setNow
      free := t.free
      regs := t.regs
      mem := t.mem
      clh := t.clh
      pst := t.pst
      tel := t.tel }) ∧
    (fieldCommand c = true → onlyField s t) ∧
    (timeCommand c = true → t = { s with
      setNow := t.setNow
      regs := t.regs
      tim := t.tim }) ∧
    (networkCommand c = true → t = { s with
      ans := t.ans
      setNow := t.setNow
      regs := t.regs
      net := t.net }) ∧
    (districtCommand c = true → t = { s with
      setNow := t.setNow
      regs := t.regs
      dis := t.dis
      net := t.net }) ∧
    (sinkCommand c = true → t = { s with
      ans := t.ans
      setNow := t.setNow
      regs := t.regs
      out := t.out }) ∧
    (audioPortCommand c = true → t = { s with
      ans := t.ans
      setNow := t.setNow
      regs := t.regs
      mem := t.mem
      sap := t.sap
      til := t.til
      out := t.out }) ∧
    (ledgerCommand c = true → t = { s with
      ans := t.ans
      setNow := t.setNow
      regs := t.regs
      mem := t.mem
      ldg := t.ldg }) ∧
    (∀ v : Word, c = .repoint v → t = { s with
      ans := t.ans
      setNow := t.setNow
      free := t.free
      regs := t.regs
      mem := t.mem
      ldg := t.ldg
      pst := t.pst
      tel := t.tel } ∧ (s.pst.paused = false → t = { s with
        ans := t.ans
        setNow := t.setNow
        regs := t.regs
        ldg := t.ldg })) ∧
    (∀ n : Nat, c = .stewardRingPlaceFreed n → t = { s with
      setNow := t.setNow
      regs := t.regs
      rsc := t.rsc
      net := t.net }) ∧
    (referenceCommand c = true → t = { s with
      setNow := t.setNow
      free := t.free
      regs := t.regs
      rsc := t.rsc }) ∧
    (remitCommand c = true → t = { s with
      setNow := t.setNow
      regs := t.regs
      clh := t.clh
      rmt := t.rmt }) ∧
    (memoryCommand c = false → t.mem = s.mem)

/-! ### Rules stated word for word -/

/-- Ramp entries (R176): LDG_RAMPTk is 96 at reset; a write of 12 to 192,000 sets it, a write outside this range is ignored and sets
LDG_EVT.RTERR. -/
def Obligations.RampLengths : Prop :=
  (∀ k, k < 16 → State.reset.reg (Reg.LDG_RAMPT k) = 96) ∧
  ∀ (s : State) (k : Nat) (v : Word), s.hostLive = true → s.domOn 5 = true → k < 16 →
    (12 ≤ fld v 17 0 → fld v 17 0 ≤ 192000 → ∃ t, exec (.ramptWrite k v) s = .next t ∧
      t.rf (Reg.LDG_RAMPT k) 17 0 = fld v 17 0 ∧ t.mem = s.mem ∧ t.ldg = s.ldg ∧
      ∀ a, a ≠ Reg.LDG_RAMPT k → t.reg a = s.reg a) ∧
    (fld v 17 0 < 12 ∨ 192000 < fld v 17 0 → ∃ t, exec (.ramptWrite k v) s = .next t ∧ t.rb Reg.LDG_EVT 3 = true ∧
      t.mem = s.mem ∧ t.ldg = s.ldg ∧ ∀ a, a ≠ Reg.LDG_EVT → t.reg a = s.reg a)

/-- A RATE that takes effect at tick c0 (R490): the view sets OFFSET = V(c0) and its anchor to c0, the new RATE applies from c0, and
the view shows at c0 what it showed before. -/
def Obligations.RateChangeDoesNotStep : Prop :=
  ∀ (s : State) (k c r : Nat), s.hostLive = true → k < 3 → (s.tim.view k).pend = some (c, r) → c ≤ s.tick →
    ∃ t, exec (.rateTakesEffect k) s = .next t ∧ (t.tim.view k).offset = (s.tim.view k).at8 (8 * c) ∧
      (t.tim.view k).anchor = c ∧ (t.tim.view k).rate = r ∧ (t.tim.view k).at8 (8 * c) = (s.tim.view k).at8 (8 * c)

/-- Visibility (R231): what a compute operation leaves in the data, accumulator and predicate registers is visible to the
next bundle, and its own bundle still sees what stood there; a loaded value is visible from the second bundle after the load, and
the bundle after the load sees the old value. -/
def Obligations.ResultsBecomeVisible : Prop :=
  (∀ (s : State) (i : Instr) (t : Nat) (c : Core), (s.core t).issues = true → (s.core t).loads = [] → computes s i t c →
    c.run = (s.core t).run → c.stall = (s.core t).stall → c.loads = [] →
    ∃ u w, exec i s = .next u ∧ exec (.nop t true 0) u = .next w ∧ (u.core t).seen.d = (s.core t).d ∧
      (u.core t).seen.acc = (s.core t).acc ∧ (u.core t).seen.p = (s.core t).p ∧ (w.core t).d = c.d ∧
      (w.core t).acc = c.acc ∧ (w.core t).p = c.p) ∧
  (∀ (s u : State) (i : Instr) (t x : Nat) (ls : List (Nat × Word)) (tgt : Option Nat), moves s i t u ls x tgt →
    (u.core t).issues = true → (u.core t).loads = [] → (ls.map (·.1)).Nodup → (∀ e ∈ ls, e.1 < 32) →
    ∃ v w, exec i s = .next v ∧ exec (.nop t true 0) v = .next w ∧ (v.core t).d = (u.core t).d ∧
      ∀ e ∈ ls, (w.core t).dw e.1 = e.2)

/-- Bad bindings (R192): a re-point with an unknown kind or an index out of range, and one of kind 0x5 on the -P, is ignored and sets
LDG_EVT.REPERR. -/
def Obligations.BadBindingIsIgnored : Prop :=
  ∀ (s : State) (v : Word) (kind index : Nat), s.hostLive = true → s.domOn 5 = true → kind = fld v 15 12 → index = fld v 11 0 →
    (7 ≤ kind ∨ (kind = 0 ∧ index ≠ 0) ∨ (kind = 1 ∧ 2048 ≤ index) ∨ (kind = 2 ∧ 512 ≤ index) ∨
      (kind = 4 ∧ 1280 ≤ index) ∨ (kind = 5 ∧ (128 ≤ index ∨ s.isA = false)) ∨ (kind = 6 ∧ 128 ≤ index)) →
    ∃ t, exec (.repoint v) s = .next t ∧ t.rb Reg.LDG_EVT 8 = true ∧ t.ldg = s.ldg ∧ t.mem = s.mem ∧
      ∀ a, a ≠ Reg.LDG_EVT → t.reg a = s.reg a

/-! ### Commands that complete -/

/-- The commands of the field die's fire inputs, override and autonomy, of F0, of the hinge pair and of the districts complete: each
answers a next state with its effect, for every state that meets the conditions of its rule. -/
def Obligations.FieldHingeAndDistrictCommandsComplete : Prop :=
  (∀ s : State, s.fieldLive = true →
    (∀ v : Word, s.field.autonomy = false → bit v 30 = true → bit v 29 = false → fld v 7 0 ≠ 0 →
      ∃ t, exec (.force v) s = .next t ∧ t.field.autonomy = true) ∧
    (∀ v : Word, s.field.autonomy = true → bit v 29 = true → bit v 30 = false → fld v 7 0 ≠ 0 → fld v 7 0 ≤ s.field.recov →
      ∃ t, exec (.exit v) s = .next t ∧ t.field.autonomy = false) ∧
    (s.field.autonomy = false → ∃ t, exec .autonomyEntry s = .next t ∧ t.field.autonomy = true) ∧
    (s.field.autonomy = true → s.rb Reg.FSYS_AUT 31 = true → s.rf Reg.FSYS_AUT 7 0 ≤ s.field.recov →
      ∃ t, exec .autonomyExit s = .next t ∧ t.field.autonomy = false) ∧
    (∀ (ohms : List (Option Nat)) (k r : Nat), k < 8 → s.rb Reg.FFIN_CFG k = true → ohms.getD k none = some r → r ≤ 20000 →
      ∃ t, exec (.finMeasurement ohms) s = .next t ∧ t.reg (Reg.FFIN_RES k) = wd r) ∧
    (∀ v : Word, bit v 29 = true → fld v 9 0 = 0 → ∃ t, exec (.foutClr v) s = .next t ∧ t.rb Reg.FFIN_FOUT 31 = false) ∧
    (∀ k, k < 8 → s.rb (Reg.FSBX_OVR k) 30 = true → inMask s.field.asserted k = true →
      ∃ t, exec (.rel (bitw (8 + k))) s = .next t ∧ inMask t.field.asserted k = false) ∧
    (∀ (c : Nat) (p : Play), c < 32 → ((s.chan c).settle s.nextSample).cur = .message p → p.rep = true → s.claimed c = true →
      ∃ t, exec (.overrideRepeat c) s = .next t ∧ (t.chan c).cur = .message { p with start := s.nextSample }) ∧
    (∀ f : Frame, s.rb Reg.FBUS_CTRL 0 = true → f.codeErr = false → f.fcsOk = true → 64 ≤ f.len → f.len ≤ 1518 →
      ∃ t, exec (.f0FrameReceived f) s = .next t ∧ t.reg (Reg.FBUS_CNT 0) = s.reg (Reg.FBUS_CNT 0) + 1) ∧
    (∀ (x : F0Tx) (deferred : Bool), s.rb Reg.FBUS_CTRL 0 = true → s.net.f0.sel = some x → x.backoff = none →
      (∃ t, exec (.f0Transmit deferred) s = .next t ∧ t.net.f0.sel = none) ∧
      (∃ t, exec (.f0Collision true deferred) s = .next t ∧ t.net.f0.sel = none)) ∧
    (∀ x : F0Tx, s.net.f0.sel = some x → ∃ t, exec .f0BackoffEnd s = .next t ∧
      t.net.f0.sel = some { x with backoff := none })) ∧
  (∀ s : State, s.hostLive = true →
    (∀ v : Word, s.hinged = false → bit v 0 = true → (s.typeWrite Reg.HNG_CTRL v).budgetOk = true →
      ∃ t, exec (.hngEnable v) s = .next t ∧ t.hinged = true ∧ t.hng.st = .pairing) ∧
    (∀ (port : Nat) (m : HingeMsg) (ts : Nat), s.hinged = true → m.node = s.partner → port < 3 → s.hng.st = .paired →
      m.release = true → ∃ t, exec (.hinge port m ts) s = .next t ∧ t.hng.st = .taken) ∧
    (s.hng.st = .paired → s.heard250 = false → ∃ t, exec .heartbeatLoss s = .next t ∧ t.hng.st = .taken) ∧
    (s.hng.st = .paired → s.heard250 = true → s.pathUp s.hng.last0 = false →
      ∃ t, exec .split s = .next t ∧ t.hng.st = .split) ∧
    (∀ (k m : Nat) (f : Fol), k < 512 → s.pst.egress = some m → s.outFol m = some f → s.rb Reg.HNG_CTRL 2 = true →
      s.hng.st = .paired → s.link 2 = true → (s.tx k).on = true → s.rb (Reg.DVT_TXCFG k) 27 = true → s.rb Reg.DVT_CTRL 0 = true →
      (k, m) ∉ s.hng.p2Seen → k ∉ s.hng.filled → s.fillAt k m ≤ s.sysT → ∃ t, exec (.fill k) s = .next t ∧ t.hng.nettko = true) ∧
    (s.hng.st = .paired → s.hng.rel = none → ∃ t, exec .give s = .next t ∧ t.hng.rel.isSome = true) ∧
    (s.hng.st = .taken → s.hng.pSt = 5 → s.hng.pSynced = true → s.hng.rel = none →
      ∃ t, exec .hngReturn s = .next t ∧ t.hng.rel.isSome = true) ∧
    (∀ r : Release, s.hng.rel = some r →
      (r.step = .stopping → (s.isA = true → s.kwy.link = .up ∧ s.field.link = .up ∧
          ∀ c, c < 32 → r.lines.testBit c = true → (s.chan c).st = .off) →
        ∃ t, exec .releaseSwitchOpen s = .next t ∧ t.hng.rel = some { r with step := .opening }) ∧
      (r.step = .opening → s.hng.relAt ≤ s.clock →
        ∃ t, exec .releaseHswtElapsed s = .next t ∧ t.hng.rel = none))) ∧
  ∀ (s : State) (node : Nat), s.hostLive = true → s.runtime = true →
    (∀ (flags src : Nat) (img : Word) (partner ntx : Nat), node ≠ s.nodeAddr →
      ∃ t, exec (.announce node flags src img partner ntx) s = .next t ∧
        aget t.dis.heard Heard.none node = ⟨flags, src, img, partner, ntx, s.clock⟩) ∧
    (∀ (nrec : Nat) (regs : List Nat), node ≠ s.nodeAddr →
      ∃ t, exec (.claim node 1 nrec regs) s = .next t ∧ ((1, node), s.clock) ∈ t.dis.claims) ∧
    (s.registrar 0 = none → s.claimSlot 0 = true → s.eligible = true → s.lowerHeard 0 = false →
      ∃ t, exec (.claimTimeout 0) s = .next t ∧ t.dis.isD = true) ∧
    (∃ t, exec (.leave node) s = .next t ∧ ∀ e ∈ t.dis.heard, e.1 ≠ node) ∧
    ((∀ e ∈ s.dis.heard, e.1 = node → e.2.at_ + ms 3072 ≤ s.clock) →
      ∃ t, exec (.recordExpiry node) s = .next t ∧ ∀ e ∈ t.dis.heard, e.1 ≠ node) ∧
    (∀ r : StreamRec, s.dis.isD = true → districtOf node = s.district → r.index < 512 →
      ∃ t, exec (.streams node [r]) s = .next t ∧ aget t.dis.dir StreamRec.none (512 * node + r.index) = r) ∧
    (∀ (src tag : Nat) (ids : List Nat), s.dis.isD = true → ids ≠ [] → (∀ i ∈ ids, districtOf (i / 512) = s.district) →
      ∃ t, exec (.query src tag ids) s = .next t ∧ t = sendNetworks (s.macOf src) 5
        (beBytes tag 2 ++ beBytes ids.length 2 ++ ids.flatMap (fun i => replyBytes (s.lookup i))) s) ∧
    (∀ (tag : Nat) (r : ReplyRec), s.dis.forwarded = [] →
      ∃ t, exec (.reply tag [r]) s = .next t ∧ aget t.dis.lookups ReplyRec.none r.id = r) ∧
    (s.dis.mute = false → s.dis.isD = false →
      ∃ t, exec .periodicAnnounce s = .next t ∧ t = sendNetworks (s.group s.district) 1 s.announcePayload s) ∧
    (s.dis.isD = true → s.dis.isV = false →
      ∃ t, exec .claimInterval s = .next t ∧ t = sendNetworks (s.group s.district) 2
        (beBytes s.nodeAddr 2 ++ [0, 0] ++ beBytes s.dis.nodes.length 2 ++ [0, 0]) s) ∧
    (∀ r, s.registrar 0 = some r → r ≠ s.nodeAddr →
      (s.ownStreams ≠ [] → s.ownStreams.length ≤ 256 → ∃ t, exec .streamsSlot s = .next t ∧ t = sendNetworks (s.macOf r) 3
        (beBytes s.nodeAddr 2 ++ beBytes s.ownStreams.length 2 ++ s.ownStreams.flatMap recBytes) s) ∧
      (∃ t, exec .querySlot s = .next t ∧ t.dis.tag = (s.dis.tag + 1) % 65536))
end

