-- ==== Sys2Proof/Laws/Assoc.lean ====
section
/-! SUPPORT. Laws of the sparse tables: what a read gives after a write, and that writes and filters keep the canonical
form. -/

namespace Sys2Proof.Machine

variable {α : Type}

theorem aget_adel_same (l : List (Nat × α)) (d : α) (k : Nat) : aget (adel l k) d k = d := by
  induction l with
  | nil => rfl
  | cons e t ih =>
    unfold adel at ih ⊢
    by_cases h : e.1 = k
    · simpa [h] using ih
    · simpa [h, aget] using ih

theorem aget_adel_ne (l : List (Nat × α)) (d : α) {j k : Nat} (h : j ≠ k) : aget (adel l k) d j = aget l d j := by
  induction l with
  | nil => rfl
  | cons e t ih =>
    unfold adel at ih ⊢
    by_cases hk : e.1 = k
    · have hj : ¬ k = j := fun q => h q.symm
      simpa [hk, aget, hj] using ih
    · by_cases hj : e.1 = j
      · subst hj; simp [h, aget]
      · simpa [hk, aget, hj] using ih

theorem aget_ainsert_same (l : List (Nat × α)) (d : α) (k : Nat) (v : α) (h : ∀ e ∈ l, e.1 ≠ k) :
    aget (ainsert l k v) d k = v := by
  induction l with
  | nil => simp [ainsert, aget]
  | cons e t ih =>
    unfold ainsert
    split
    · simp [aget]
    · have h1 : e.1 ≠ k := h e (by simp)
      simp [aget, h1, ih (fun x hx => h x (by simp [hx]))]

theorem aget_ainsert_ne (l : List (Nat × α)) (d : α) {j k : Nat} (v : α) (h : j ≠ k) :
    aget (ainsert l k v) d j = aget l d j := by
  induction l with
  | nil => simp [ainsert, aget, h.symm]
  | cons e t ih =>
    unfold ainsert
    split
    · simp [aget, h.symm]
    · by_cases hj : e.1 = j <;> simp [aget, hj, ih]

theorem adel_keys (l : List (Nat × α)) (k : Nat) : ∀ e ∈ adel l k, e.1 ≠ k := by
  intro e he
  simpa using (List.mem_filter.mp he).2

/-- A read gives what was written. -/
@[simp] theorem aget_aput_same [DecidableEq α] (l : List (Nat × α)) (d : α) (k : Nat) (v : α) :
    aget (aput l d k v) d k = v := by
  unfold aput
  split
  · rename_i h; rw [aget_adel_same, h]
  · exact aget_ainsert_same _ _ _ _ (adel_keys l k)

/-- A write leaves every other key alone, whatever its own default. -/
theorem aget_aput_ne [DecidableEq α] (l : List (Nat × α)) (d e : α) {j k : Nat} (v : α) (h : j ≠ k) :
    aget (aput l d k v) e j = aget l e j := by
  unfold aput
  split
  · exact aget_adel_ne _ _ h
  · rw [aget_ainsert_ne _ _ _ h, aget_adel_ne _ _ h]

theorem aget_aput [DecidableEq α] (l : List (Nat × α)) (d : α) (j k : Nat) (v : α) :
    aget (aput l d k v) d j = if j = k then v else aget l d j := by
  split
  · rename_i h; subst h; simp
  · rename_i h; exact aget_aput_ne _ _ _ _ h

/-! ### The canonical form -/

theorem rising_iff (l : List (Nat × α)) : rising l = true ↔ l.Pairwise (fun a b => a.1 < b.1) := by
  induction l with
  | nil => simp [rising]
  | cons a t ih =>
    cases t with
    | nil => simp [rising]
    | cons b u =>
      rw [rising, Bool.and_eq_true, ih, decide_eq_true_eq]
      constructor
      · rintro ⟨h, p⟩
        refine List.pairwise_cons.mpr ⟨?_, p⟩
        intro x hx
        rcases List.mem_cons.mp hx with rfl | hx
        · exact h
        · exact Nat.lt_trans h ((List.pairwise_cons.mp p).1 x hx)
      · intro p
        exact ⟨(List.pairwise_cons.mp p).1 b (by simp), (List.pairwise_cons.mp p).2⟩

theorem canonBy_iff [DecidableEq α] (d : Nat → α) (l : List (Nat × α)) :
    canonBy d l = true ↔ l.Pairwise (fun a b => a.1 < b.1) ∧ ∀ e ∈ l, e.2 ≠ d e.1 := by
  unfold canonBy
  rw [Bool.and_eq_true, rising_iff]
  simp

theorem canonBy_filter [DecidableEq α] {d : Nat → α} {l : List (Nat × α)} (p : Nat × α → Bool)
    (h : canonBy d l = true) : canonBy d (l.filter p) = true := by
  rw [canonBy_iff] at h ⊢
  exact ⟨h.1.filter _, fun e he => h.2 e (List.mem_filter.mp he).1⟩

theorem mem_ainsert {l : List (Nat × α)} {k : Nat} {v : α} {e : Nat × α} (h : e ∈ ainsert l k v) :
    e = (k, v) ∨ e ∈ l := by
  induction l with
  | nil => simpa [ainsert] using h
  | cons a t ih =>
    unfold ainsert at h
    split at h
    · rcases List.mem_cons.mp h with h | h
      · exact .inl h
      · exact .inr h
    · rcases List.mem_cons.mp h with h | h
      · exact .inr (by simp [h])
      · rcases ih h with h | h
        · exact .inl h
        · exact .inr (List.mem_cons_of_mem _ h)

theorem pairwise_ainsert {l : List (Nat × α)} {k : Nat} (v : α) (h : l.Pairwise (fun a b => a.1 < b.1))
    (hk : ∀ e ∈ l, e.1 ≠ k) : (ainsert l k v).Pairwise (fun a b => a.1 < b.1) := by
  induction l with
  | nil => simp [ainsert]
  | cons a t ih =>
    obtain ⟨h1, h2⟩ := List.pairwise_cons.mp h
    have hka : a.1 ≠ k := hk a (by simp)
    unfold ainsert
    split
    · rename_i hlt
      refine List.pairwise_cons.mpr ⟨?_, h⟩
      intro x hx
      rcases List.mem_cons.mp hx with rfl | hx
      · exact hlt
      · exact Nat.lt_trans hlt (h1 x hx)
    · rename_i hge
      refine List.pairwise_cons.mpr ⟨?_, ih h2 (fun e he => hk e (by simp [he]))⟩
      intro x hx
      rcases mem_ainsert hx with rfl | hx
      · show a.1 < k
        omega
      · exact h1 x hx

/-- A write keeps the canonical form. -/
theorem canonBy_aput [DecidableEq α] {d : Nat → α} {l : List (Nat × α)} (k : Nat) (v : α) (h : canonBy d l = true) :
    canonBy d (aput l (d k) k v) = true := by
  unfold aput
  split
  · exact canonBy_filter _ h
  · rename_i hv
    have h' := (canonBy_iff d _).mp (canonBy_filter (fun e => e.1 != k) h)
    rw [canonBy_iff]
    refine ⟨pairwise_ainsert v h'.1 (adel_keys l k), ?_⟩
    intro e he
    rcases mem_ainsert he with rfl | he
    · exact hv
    · exact h'.2 e he

end Sys2Proof.Machine
end

