-- ==== Sys2Proof/Laws/Keeps.lean ====
section
/-! SUPPORT. The relation that every operation of the model keeps: from a state to the states that it can become without a
command being taken from the queue. One lemma per operation (Laws/Keeps*.lean) says that it stays in the relation. -/

namespace Sys2Proof.Machine

/-- From `u`, state `s` is good if `u` was, and nothing fixed has changed. -/
structure Keeps (u s : State) : Prop where
  good : u.Good → s.Good
  fixed : u.SameFixed s

theorem Keeps.rfl' (s : State) : Keeps s s :=
  ⟨id, ⟨rfl, rfl, rfl, rfl, Nat.le_refl _⟩⟩

theorem Keeps.trans {a b c : State} (h : Keeps a b) (k : Keeps b c) : Keeps a c where
  good := fun g => k.good (h.good g)
  fixed := by
    obtain ⟨h1, h2, h3, h4, h5⟩ := h.fixed
    obtain ⟨k1, k2, k3, k4, k5⟩ := k.fixed
    exact ⟨k1.trans h1, k2.trans h2, k3.trans h3, by rw [k4, h4], Nat.le_trans h5 k5⟩

/-- An update of fields that the relation does not speak of. -/
theorem keeps_same {u s t : State} (h : Keeps u s) (h1 : t.mem = s.mem) (h2 : t.regs = s.regs)
    (h3 : t.pending = s.pending) (h4 : t.clock = s.clock) (h5 : t.slotId = s.slotId)
    (h6 : t.fuse = { s.fuse with arb := t.fuse.arb }) (h7 : s.free ≤ t.free) : Keeps u t :=
  h.trans ⟨fun g => ⟨h1 ▸ g.mem, h2 ▸ g.regs⟩, ⟨h3, h4, h5, h6, h7⟩⟩

/-- An update of fields that the relation does not speak of, as the structure update writes it. -/
theorem keeps_mk {u s : State} {ans setNow pwr boot xsp tim rsc clh rmt sap til hsp dis hng ldg pst tel out kwy field net}
    (h : Keeps u s) : Keeps u (State.mk s.pending s.clock s.free ans setNow s.regs s.mem s.slotId s.fuse pwr boot xsp tim rsc clh rmt sap til hsp dis hng ldg pst tel
      out kwy field net) :=
  keeps_same h rfl rfl rfl rfl rfl rfl (Nat.le_refl _)

/-- The same with free values used. -/
theorem keeps_mkFree {u s : State} {n : Nat} {ans setNow pwr boot xsp tim rsc clh rmt sap til hsp dis hng ldg pst tel out kwy field net}
    (h : Keeps u s) : Keeps u (State.mk s.pending s.clock (s.free + n) ans setNow s.regs s.mem s.slotId s.fuse pwr boot xsp tim rsc clh rmt sap til hsp dis hng ldg pst tel
      out kwy field net) :=
  keeps_same h rfl rfl rfl rfl rfl rfl (Nat.le_add_right _ _)

theorem keeps_ite {u s t : State} {c : Prop} [Decidable c] (h : Keeps u s) (k : Keeps u t) :
    Keeps u (if c then s else t) := by
  split
  · exact h
  · exact k

theorem keeps_itePair {β : Type} {u : State} {p q : β × State} {c : Prop} [Decidable c] (h : Keeps u p.2)
    (k : Keeps u q.2) : Keeps u (if c then p else q).2 := by
  split
  · exact h
  · exact k

theorem keeps_cut {a b : Prop} (h : a → b) (k : a) : b := h k

theorem keeps_foldl {α : Type} {u s : State} {l : List α} {f : State → α → State}
    (hf : ∀ t x, Keeps u t → Keeps u (f t x)) (h : Keeps u s) : Keeps u (l.foldl f s) := by
  induction l generalizing s with
  | nil => exact h
  | cons a t ih => exact ih (hf s a h)

theorem keeps_forN {u s : State} {n : Nat} {f : State → Nat → State}
    (hf : ∀ t x, Keeps u t → Keeps u (f t x)) (h : Keeps u s) : Keeps u (forN n s f) := keeps_foldl hf h

theorem keeps_forN_pair {β : Type} {u : State} {n : Nat} {f : β × State → Nat → β × State} {p : β × State}
    (hf : ∀ t x, Keeps u t.2 → Keeps u (f t x).2) (h : Keeps u p.2) : Keeps u (forN n p f).2 := by
  unfold forN
  generalize List.range n = l
  induction l generalizing p with
  | nil => exact h
  | cons a t ih => exact ih (hf p a h)

theorem keeps_foldl_pair {α β : Type} {u : State} {l : List α} {f : β × State → α → β × State} {p : β × State}
    (hf : ∀ t x, Keeps u t.2 → Keeps u (f t x).2) (h : Keeps u p.2) : Keeps u (l.foldl f p).2 := by
  induction l generalizing p with
  | nil => exact h
  | cons a t ih => exact ih (hf p a h)

/-- Free values are used. -/
theorem keeps_free {u s : State} (n : Nat) (h : Keeps u s) : Keeps u { s with free := s.free + n } :=
  keeps_same h rfl rfl rfl rfl rfl rfl (Nat.le_add_right _ _)

theorem keeps_pair {β : Type} {u s : State} {p : β × State} {a : β} (h : Keeps u p.2) (e : p = (a, s)) : Keeps u s := by
  rw [e] at h; exact h

/-! ### The four primitives -/

theorem keeps_setReg {u s : State} (a : Nat) (v : Word) (h : Keeps u s) : Keeps u (s.setReg a v) :=
  h.trans ⟨fun g => ⟨g.mem, canonBy_aput a v g.regs⟩, ⟨rfl, rfl, rfl, rfl, Nat.le_refl _⟩⟩

theorem keeps_raise {u s : State} (a : Nat) (m : Word) (h : Keeps u s) : Keeps u (s.raise a m) :=
  keeps_same (keeps_setReg a (s.reg a ||| m) h) rfl rfl rfl rfl rfl rfl (Nat.le_refl _)

theorem keeps_wrByte {u s : State} (a : Nat) (b : Byte) (h : Keeps u s) : Keeps u (s.wrByte a b) :=
  h.trans ⟨fun g => ⟨canonBy_aput a b g.mem, g.regs⟩, ⟨rfl, rfl, rfl, rfl, Nat.le_refl _⟩⟩

theorem keeps_filters {u s t : State} {p : Host.Cell → Bool} {q : Nat × Word → Bool} (h : Keeps u s)
    (h1 : t.mem = s.mem.filter p) (h2 : t.regs = s.regs.filter q)
    (h3 : t.pending = s.pending) (h4 : t.clock = s.clock) (h5 : t.slotId = s.slotId)
    (h6 : t.fuse = { s.fuse with arb := t.fuse.arb }) (h7 : s.free ≤ t.free) : Keeps u t :=
  h.trans ⟨fun g => ⟨h1 ▸ canonBy_filter p g.mem, h2 ▸ canonBy_filter q g.regs⟩, ⟨h3, h4, h5, h6, h7⟩⟩

theorem keeps_clearMem {u s : State} (a b : Nat) (h : Keeps u s) : Keeps u (s.clearMem a b) :=
  h.trans ⟨fun g => ⟨canonBy_filter _ g.mem, g.regs⟩, ⟨rfl, rfl, rfl, rfl, Nat.le_refl _⟩⟩

theorem keeps_resetRegs {u s : State} (a b : Nat) (h : Keeps u s) : Keeps u (s.resetRegs a b) :=
  h.trans ⟨fun g => ⟨g.mem, canonBy_filter _ g.regs⟩, ⟨rfl, rfl, rfl, rfl, Nat.le_refl _⟩⟩

end Sys2Proof.Machine
end

