-- ==== Sys2Proof/Laws/KeepsOps.lean ====
section
/-! SUPPORT. What the named operations, time, resources, Ledger, Journal and clearing house keep: one lemma `keeps_<operation>` per operation, in the
relation of Laws/Keeps.lean. -/

set_option maxRecDepth 4000

namespace Sys2Proof.Machine

theorem keeps_answer {u s : State} (x1 : Resp) (x2 : List Byte) (h : Keeps u s) : Keeps u (State.answer s x1 x2) := by
  unfold State.answer
  repeat' first | (with_reducible apply keeps_mk; with_reducible assumption)

theorem keeps_sum {u s : State} (x1 : Nat) (h : Keeps u s) : Keeps u (State.sum s x1) := by
  unfold State.sum
  repeat' first | with_reducible assumption | with_reducible apply keeps_raise

theorem keeps_evt {u s : State} (x1 x2 : Nat) (h : Keeps u s) : Keeps u (State.evt s x1 x2) := by
  unfold State.evt
  repeat' first
    | with_reducible assumption | with_reducible apply keeps_raise | with_reducible apply keeps_sum | split

theorem keeps_cdcErr {u s : State} (x1 : Nat) (h : Keeps u s) : Keeps u (State.cdcErr s x1) := by
  unfold State.cdcErr
  repeat' first | with_reducible assumption | with_reducible apply keeps_evt | with_reducible apply keeps_raise

theorem keeps_clearRC {u s : State} (x1 : Nat) (h : Keeps u s) : Keeps u (State.clearRC s x1) := by
  unfold State.clearRC
  repeat' first | with_reducible assumption | with_reducible apply keeps_setReg | split

theorem keeps_count {u s : State} (x1 x2 x3 : Nat) (h : Keeps u s) : Keeps u (State.count s x1 x2 x3) := by
  unfold State.count
  repeat' first
    | with_reducible assumption | with_reducible apply keeps_setReg | with_reducible apply keeps_raise
    | with_reducible refine keeps_ite ?_ ?_

theorem keeps_evtIf {u s : State} (x1 : Bool) (x2 x3 : Nat) (h : Keeps u s) : Keeps u (State.evtIf s x1 x2 x3) := by
  unfold State.evtIf
  repeat' first | with_reducible assumption | with_reducible apply keeps_evt | with_reducible refine keeps_ite ?_ ?_

theorem keeps_fieldQueue {u s : State} (x1 : Nat) (x2 : List Byte) (h : Keeps u s) :
    Keeps u (State.fieldQueue s x1 x2) := by
  unfold State.fieldQueue
  repeat' first | (with_reducible apply keeps_mk; with_reducible assumption) | with_reducible refine keeps_ite ?_ ?_

theorem keeps_fevtC {u s : State} (x1 x2 : Nat) (x3 x4 : Nat) (h : Keeps u s) :
    Keeps u (State.fevtC s x1 x2 x3 x4) := by
  unfold State.fevtC
  repeat' first
    | with_reducible assumption | with_reducible apply keeps_raise | with_reducible apply keeps_fieldQueue
    | with_reducible refine keeps_ite ?_ ?_

theorem keeps_fevt {u s : State} (x1 x2 : Nat) (h : Keeps u s) : Keeps u (State.fevt s x1 x2) := by
  unfold State.fevt
  repeat' first | with_reducible assumption | with_reducible apply keeps_fevtC

theorem keeps_fbusCount {u s : State} (x1 x2 : Nat) (h : Keeps u s) : Keeps u (State.fbusCount s x1 x2) := by
  unfold State.fbusCount
  repeat' first
    | with_reducible assumption | with_reducible apply keeps_setReg | with_reducible apply keeps_fevt
    | with_reducible apply keeps_raise | with_reducible refine keeps_ite ?_ ?_

theorem keeps_fevtIf {u s : State} (x1 : Bool) (x2 x3 : Nat) (h : Keeps u s) : Keeps u (State.fevtIf s x1 x2 x3) := by
  unfold State.fevtIf
  repeat' first | with_reducible assumption | with_reducible apply keeps_fevt | with_reducible refine keeps_ite ?_ ?_

theorem keeps_fieldFirst {u s : State} (x1 : Nat) (x2 : List Byte) (h : Keeps u s) :
    Keeps u (State.fieldFirst s x1 x2) := by
  unfold State.fieldFirst
  repeat' first | (with_reducible apply keeps_mk; with_reducible assumption) | with_reducible refine keeps_ite ?_ ?_

theorem keeps_fkwyCount {u s : State} (x1 x2 : Nat) (h : Keeps u s) : Keeps u (State.fkwyCount s x1 x2) := by
  unfold State.fkwyCount
  repeat' first | with_reducible assumption | with_reducible apply keeps_fevtIf | with_reducible apply keeps_setReg

theorem keeps_hostFirst {u s : State} (x1 : Nat) (x2 : List Byte) (h : Keeps u s) :
    Keeps u (State.hostFirst s x1 x2) := by
  unfold State.hostFirst
  repeat' first | (with_reducible apply keeps_mk; with_reducible assumption) | with_reducible refine keeps_ite ?_ ?_

theorem keeps_hostQueue {u s : State} (x1 : Nat) (x2 : List Byte) (h : Keeps u s) :
    Keeps u (State.hostQueue s x1 x2) := by
  unfold State.hostQueue
  repeat' first | (with_reducible apply keeps_mk; with_reducible assumption) | with_reducible refine keeps_ite ?_ ?_

theorem keeps_setFld {u s : State} (x1 x2 : Nat) (x3 x4 : Nat) (h : Keeps u s) :
    Keeps u (State.setFld s x1 x2 x3 x4) := by
  unfold State.setFld
  repeat' first | with_reducible assumption | with_reducible apply keeps_setReg

theorem keeps_latchFld {u s : State} (x1 x2 : Nat) (x3 x4 : Nat) (h : Keeps u s) :
    Keeps u (State.latchFld s x1 x2 x3 x4) := by
  unfold State.latchFld
  repeat' first
    | (intro x; refine keeps_cut (a := Keeps u x) ?_ ?_; intro _; clear_value x) | lift_lets -underBinder
    | with_reducible apply keeps_setFld | (with_reducible apply keeps_mk; with_reducible assumption)

theorem keeps_macCount {u s : State} (x1 x2 x3 : Nat) (h : Keeps u s) : Keeps u (State.macCount s x1 x2 x3) := by
  unfold State.macCount
  repeat' first
    | with_reducible assumption | with_reducible apply keeps_setReg | with_reducible apply keeps_evt
    | with_reducible apply keeps_raise | with_reducible refine keeps_ite ?_ ?_

theorem keeps_nextFree {u s : State} (h : Keeps u s) : Keeps u (State.nextFree s).2 := by
  unfold State.nextFree
  repeat' first | (with_reducible apply keeps_mkFree; with_reducible assumption)

theorem keeps_note {u s : State} (x1 : Nat) (x2 : Word) (h : Keeps u s) : Keeps u (State.note s x1 x2) := by
  unfold State.note
  repeat' first | (with_reducible apply keeps_mk; with_reducible assumption)

theorem keeps_setBit {u s : State} (x1 x2 : Nat) (x3 : Bool) (h : Keeps u s) : Keeps u (State.setBit s x1 x2 x3) := by
  unfold State.setBit
  repeat' first | with_reducible assumption | with_reducible apply keeps_setFld

theorem keeps_typeWrite {u s : State} (x1 : Nat) (x2 : Word) (h : Keeps u s) : Keeps u (State.typeWrite s x1 x2) := by
  unfold State.typeWrite
  repeat' first | with_reducible assumption | with_reducible apply keeps_setReg | split

theorem keeps_useFree {u s : State} (x1 : Nat) (h : Keeps u s) : Keeps u (State.useFree s x1) := by
  unfold State.useFree
  repeat' first | (with_reducible apply keeps_mkFree; with_reducible assumption)

theorem keeps_wrBytes {u s : State} (x1 : Nat) (x2 : List Byte) (h : Keeps u s) :
    Keeps u (State.wrBytes s x1 x2) := by
  revert h
  fun_induction State.wrBytes s x1 x2 <;> intro h
  repeat' first | apply_assumption | with_reducible apply keeps_wrByte

theorem keeps_wrHalf {u s : State} (x1 : Nat) (x2 : Half) (h : Keeps u s) : Keeps u (State.wrHalf s x1 x2) := by
  unfold State.wrHalf
  repeat' first | with_reducible assumption | with_reducible apply keeps_wrBytes

theorem keeps_wrStrobed {u s : State} (x1 : Nat) (x2 : List Byte) (x3 : List Bool) (h : Keeps u s) :
    Keeps u (State.wrStrobed s x1 x2 x3) := by
  revert h
  fun_induction State.wrStrobed s x1 x2 x3 <;> intro h
  repeat' first | apply_assumption | with_reducible apply keeps_wrByte

theorem keeps_wrWord {u s : State} (x1 : Nat) (x2 : Word) (h : Keeps u s) : Keeps u (State.wrWord s x1 x2) := by
  unfold State.wrWord
  repeat' first | with_reducible assumption | with_reducible apply keeps_wrBytes

theorem keeps_setClh {u s : State} (x1 : Clh) (h : Keeps u s) : Keeps u (State.setClh s x1) := by
  unfold State.setClh
  repeat' first | (with_reducible apply keeps_mk; with_reducible assumption)

theorem keeps_clhAnswer {u s : State} (x0 : Txn) (x1 : Resp) (x2 : List Byte) (h : Keeps u s) :
    Keeps u (clhAnswer x0 x1 x2 s) := by
  unfold clhAnswer
  repeat' first | with_reducible assumption | with_reducible apply keeps_setClh

theorem keeps_clhError {u s : State} (x0 : Master) (x1 : Nat) (x2 : Bool) (x3 x4 : Nat) (h : Keeps u s) :
    Keeps u (clhError x0 x1 x2 x3 x4 s) := by
  unfold clhError
  repeat' first
    | with_reducible assumption | with_reducible apply keeps_evt | with_reducible apply keeps_count
    | with_reducible apply keeps_setReg | with_reducible apply keeps_raise | with_reducible refine keeps_ite ?_ ?_

theorem keeps_clhRefuse {u s : State} (x0 : Txn) (x1 : Resp) (x2 : Nat) (h : Keeps u s) :
    Keeps u (clhRefuse x0 x1 x2 s) := by
  unfold clhRefuse
  repeat' first
    | with_reducible assumption | with_reducible apply keeps_clhAnswer | with_reducible apply keeps_clhError

theorem keeps_lockRefuse {u s : State} (x0 : Txn) (h : Keeps u s) : Keeps u (lockRefuse x0 s) := by
  unfold lockRefuse
  repeat' first
    | with_reducible assumption | with_reducible apply keeps_clhRefuse | with_reducible apply keeps_setClh
    | with_reducible refine keeps_ite ?_ ?_

theorem keeps_masterReset {u s : State} (x0 : Master) (x1 : List Nat) (h : Keeps u s) :
    Keeps u (masterReset x0 x1 s) := by
  unfold masterReset
  repeat' first
    | (intro x; refine keeps_cut (a := Keeps u x) ?_ ?_; intro _; clear_value x) | (intro x; clear_value x)
    | lift_lets -underBinder | with_reducible apply keeps_setClh | with_reducible apply keeps_evt
    | (with_reducible apply keeps_mk; with_reducible assumption) | with_reducible refine keeps_ite ?_ ?_

theorem keeps_regRow {u s : State} (x0 : Nat) {x1 : State → State} (hf : ∀ t, Keeps u t → Keeps u (x1 t)) (h : Keeps u s) :
    Keeps u (regRow x0 x1 s) :=
  keeps_ite (hf _ h) (keeps_answer _ _ (keeps_clhError _ _ _ _ _ h))

theorem keeps_request {u s : State} (x0 : Txn) (h : Keeps u s) : Keeps u (request x0 s) := by
  unfold request
  repeat' first
    | with_reducible assumption | with_reducible apply keeps_clhRefuse | with_reducible apply keeps_lockRefuse
    | with_reducible apply keeps_setClh | with_reducible refine keeps_ite ?_ ?_

theorem keeps_unpark {u s : State} (h : Keeps u s) : Keeps u (unpark s) := by
  unfold unpark
  repeat' first
    | with_reducible assumption | with_reducible refine keeps_foldl ?_ ?_ | with_reducible apply keeps_request
    | with_reducible apply keeps_setClh

theorem keeps_resetsSettle {u s : State} (h : Keeps u s) : Keeps u (resetsSettle s) := by
  unfold resetsSettle
  repeat' first
    | with_reducible assumption | with_reducible apply keeps_unpark | with_reducible apply keeps_evtIf
    | with_reducible apply keeps_setClh

theorem keeps_setTim {u s : State} (x1 : Tim) (h : Keeps u s) : Keeps u (State.setTim s x1) := by
  unfold State.setTim
  repeat' first | (with_reducible apply keeps_mk; with_reducible assumption)

theorem keeps_followL {u s : State} (h : Keeps u s) : Keeps u (followL s) := by
  unfold followL
  repeat' first
    | with_reducible assumption | intro _ | with_reducible refine keeps_forN ?_ ?_
    | with_reducible apply keeps_setTim | with_reducible refine keeps_ite ?_ ?_

theorem keeps_changeView {u s : State} (x1 x2 : Nat) (x3 : View) (h : Keeps u s) :
    Keeps u (State.changeView s x1 x2 x3) := by
  unfold State.changeView
  repeat' first | with_reducible assumption | with_reducible apply keeps_followL | with_reducible apply keeps_setTim

theorem keeps_activeWriteOp {u s : State} (x0 : Word) (h : Keeps u s) : Keeps u (activeWriteOp x0 s) := by
  unfold activeWriteOp
  repeat' first
    | with_reducible assumption | with_reducible apply keeps_evt | with_reducible apply keeps_setFld
    | with_reducible apply keeps_setBit | with_reducible apply keeps_setTim | with_reducible refine keeps_ite ?_ ?_

theorem keeps_alignMask {u s : State} (x0 : Nat) (h : Keeps u s) : Keeps u (alignMask x0 s) := by
  unfold alignMask
  repeat' first
    | with_reducible assumption | intro _ | with_reducible refine keeps_forN ?_ ?_
    | with_reducible apply keeps_setTim | with_reducible refine keeps_ite ?_ ?_

theorem keeps_alignOp {u s : State} (x0 : Word) (h : Keeps u s) : Keeps u (alignOp x0 s) := by
  unfold alignOp
  repeat' first | with_reducible assumption | with_reducible apply keeps_alignMask

theorem keeps_srvWrite {u s : State} (x0 : Nat) (x1 : Bool) (x2 x3 x4 : Nat) (h : Keeps u s) :
    Keeps u (srvWrite x0 x1 x2 x3 x4 s) := by
  unfold srvWrite
  repeat' first
    | with_reducible assumption | with_reducible apply keeps_setTim | with_reducible apply keeps_evtIf
    | with_reducible apply keeps_setReg

theorem keeps_announceTimeoutOp {u s : State} (x0 : Nat) (h : Keeps u s) : Keeps u (announceTimeoutOp x0 s) := by
  unfold announceTimeoutOp
  repeat' first
    | with_reducible assumption | with_reducible apply keeps_setTim | with_reducible apply keeps_srvWrite
    | with_reducible refine keeps_ite ?_ ?_

theorem keeps_cancelOp {u s : State} (x0 : Nat) (h : Keeps u s) : Keeps u (cancelOp x0 s) := by
  unfold cancelOp
  repeat' first | with_reducible assumption | with_reducible apply keeps_changeView

theorem keeps_jclrOp {u s : State} (x0 : Word) (h : Keeps u s) : Keeps u (jclrOp x0 s) := by
  unfold jclrOp
  repeat' first
    | with_reducible assumption | with_reducible apply keeps_setTim | with_reducible refine keeps_ite ?_ ?_

theorem keeps_jbusy {u s : State} (h : Keeps u s) : Keeps u (jbusy s) := by
  unfold jbusy
  repeat' first | with_reducible assumption | with_reducible apply keeps_setBit

theorem keeps_junctionDoneOp {u s : State} (h : Keeps u s) : Keeps u (junctionDoneOp s) := by
  unfold junctionDoneOp
  repeat' first
    | with_reducible assumption | with_reducible apply keeps_evt | with_reducible apply keeps_jbusy
    | with_reducible apply keeps_setTim | with_reducible refine keeps_ite ?_ ?_

theorem keeps_setViewTo {u s : State} (x0 : Nat) (x1 : Int) (h : Keeps u s) : Keeps u (setViewTo x0 x1 s) := by
  unfold setViewTo
  repeat' first
    | with_reducible assumption | with_reducible apply keeps_changeView | with_reducible apply keeps_setBit
    | with_reducible apply keeps_setTim | with_reducible refine keeps_ite ?_ ?_

theorem keeps_rateCommitOp {u s : State} (x0 : Nat) (x1 : Word) (h : Keeps u s) : Keeps u (rateCommitOp x0 x1 s) := by
  unfold rateCommitOp
  repeat' first
    | with_reducible assumption | with_reducible apply keeps_setFld | with_reducible apply keeps_setTim
    | with_reducible apply keeps_evt | with_reducible refine keeps_ite ?_ ?_

theorem keeps_slewBy {u s : State} (x0 : Nat) (x1 : Int) (h : Keeps u s) : Keeps u (slewBy x0 x1 s) := by
  unfold slewBy
  repeat' first | with_reducible assumption | with_reducible apply keeps_changeView

theorem keeps_firstLock {u s : State} (x0 : Nat) (h : Keeps u s) : Keeps u (firstLock x0 s) := by
  unfold firstLock
  repeat' first
    | with_reducible assumption | with_reducible apply keeps_setViewTo | with_reducible apply keeps_setTim
    | with_reducible apply keeps_activeWriteOp | with_reducible refine keeps_ite ?_ ?_

theorem keeps_ptpMessageOp {u s : State} (x0 : Nat) (x1 : PtpSync) (h : Keeps u s) :
    Keeps u (ptpMessageOp x0 x1 s) := by
  unfold ptpMessageOp
  repeat' first
    | with_reducible assumption | with_reducible apply keeps_setViewTo | with_reducible apply keeps_setReg
    | with_reducible apply keeps_rateCommitOp | with_reducible apply keeps_slewBy | with_reducible apply keeps_setTim
    | with_reducible apply keeps_followL | with_reducible apply keeps_firstLock | with_reducible apply keeps_srvWrite
    | with_reducible refine keeps_ite ?_ ?_

theorem keeps_pulseStop {u s : State} (x0 : Nat) (h : Keeps u s) : Keeps u (pulseStop x0 s) := by
  unfold pulseStop
  repeat' first
    | with_reducible assumption | intro _ | with_reducible refine keeps_forN ?_ ?_
    | with_reducible apply keeps_setTim | with_reducible refine keeps_ite ?_ ?_

theorem keeps_pulseEnableOp {u s : State} (x0 : Word) (h : Keeps u s) : Keeps u (pulseEnableOp x0 s) := by
  unfold pulseEnableOp
  repeat' first
    | with_reducible assumption | with_reducible apply keeps_pulseStop | with_reducible apply keeps_setFld
    | with_reducible apply keeps_alignMask

theorem keeps_pulseEdgeOp {u s : State} (x0 x1 : Nat) (h : Keeps u s) : Keeps u (pulseEdgeOp x0 x1 s) := by
  unfold pulseEdgeOp
  repeat' first
    | with_reducible assumption | (intro x; clear_value x) | lift_lets -underBinder
    | with_reducible apply keeps_setTim | with_reducible apply keeps_setReg | with_reducible apply keeps_evtIf
    | split

theorem keeps_rateTakesEffectOp {u s : State} (x0 : Nat) (h : Keeps u s) : Keeps u (rateTakesEffectOp x0 s) := by
  unfold rateTakesEffectOp
  repeat' first | with_reducible assumption | with_reducible apply keeps_changeView | split

theorem keeps_setOp {u s : State} (x0 : Nat) (h : Keeps u s) : Keeps u (setOp x0 s) := by
  unfold setOp
  repeat' first | with_reducible assumption | with_reducible apply keeps_setViewTo

theorem keeps_slewOp {u s : State} (x0 : Nat) (h : Keeps u s) : Keeps u (slewOp x0 s) := by
  unfold slewOp
  repeat' first | with_reducible assumption | with_reducible apply keeps_slewBy

theorem keeps_slewDoneOp {u s : State} (x0 : Nat) (h : Keeps u s) : Keeps u (slewDoneOp x0 s) := by
  unfold slewDoneOp
  repeat' first
    | with_reducible assumption | with_reducible apply keeps_evt | with_reducible apply keeps_changeView
    | with_reducible refine keeps_ite ?_ ?_

theorem keeps_snapOp {u s : State} (x0 : Word) (h : Keeps u s) : Keeps u (snapOp x0 s) := by
  unfold snapOp
  repeat' first
    | with_reducible assumption | with_reducible apply keeps_setTim | with_reducible refine keeps_ite ?_ ?_

theorem keeps_stepOp {u s : State} (x0 : Nat) (h : Keeps u s) : Keeps u (stepOp x0 s) := by
  unfold stepOp
  repeat' first | with_reducible assumption | with_reducible apply keeps_changeView

theorem keeps_tcntLoReadOp {u s : State} (h : Keeps u s) : Keeps u (tcntLoReadOp s) := by
  unfold tcntLoReadOp
  repeat' first | with_reducible assumption | with_reducible apply keeps_answer | with_reducible apply keeps_setReg

theorem keeps_xoFailureOp {u s : State} (h : Keeps u s) : Keeps u (xoFailureOp s) := by
  unfold xoFailureOp
  repeat' first | with_reducible assumption | with_reducible apply keeps_evt | with_reducible apply keeps_setBit

theorem keeps_jslewWrite {u s : State} (x0 : Word) (h : Keeps u s) : Keeps u (jslewWrite x0 s) := by
  unfold jslewWrite
  repeat' first
    | with_reducible assumption | with_reducible apply keeps_setFld | with_reducible apply keeps_setTim
    | with_reducible apply keeps_evt | with_reducible refine keeps_ite ?_ ?_

theorem keeps_slewRateWrite {u s : State} (x0 : Nat) (x1 : Word) (h : Keeps u s) :
    Keeps u (slewRateWrite x0 x1 s) := by
  unfold slewRateWrite
  repeat' first
    | with_reducible assumption | with_reducible apply keeps_setFld | with_reducible apply keeps_changeView
    | with_reducible apply keeps_evt | with_reducible refine keeps_ite ?_ ?_

theorem keeps_timCtrlWrite {u s : State} (x0 : Word) (h : Keeps u s) : Keeps u (timCtrlWrite x0 s) := by
  unfold timCtrlWrite
  repeat' first
    | with_reducible assumption | with_reducible apply keeps_jclrOp | with_reducible apply keeps_activeWriteOp
    | with_reducible apply keeps_jslewWrite

theorem keeps_timeBoundary {u s : State} (h : Keeps u s) : Keeps u (timeBoundary s) := by
  unfold timeBoundary
  repeat' first
    | with_reducible assumption | with_reducible apply keeps_setTim | with_reducible apply keeps_setBit
    | with_reducible apply keeps_setFld | with_reducible apply keeps_jbusy | split

theorem keeps_vcmdWrite {u s : State} (x0 : Nat) (x1 : Word) (h : Keeps u s) : Keeps u (vcmdWrite x0 x1 s) := by
  unfold vcmdWrite
  repeat' first
    | with_reducible assumption | with_reducible apply keeps_setOp | with_reducible apply keeps_stepOp
    | with_reducible apply keeps_slewOp | with_reducible apply keeps_cancelOp | with_reducible apply keeps_evt
    | split

theorem keeps_setRsc {u s : State} (x1 : Rsc) (h : Keeps u s) : Keeps u (State.setRsc s x1) := by
  unfold State.setRsc
  repeat' first | (with_reducible apply keeps_mk; with_reducible assumption)

theorem keeps_setCtl {u s : State} (x0 : Word) (h : Keeps u s) : Keeps u (setCtl x0 s) := by
  unfold setCtl
  repeat' first
    | with_reducible assumption | with_reducible apply keeps_setReg | with_reducible apply keeps_setRsc
    | with_reducible refine keeps_ite ?_ ?_

theorem keeps_rscStatus {u s : State} (h : Keeps u s) : Keeps u (rscStatus s) := by
  unfold rscStatus
  repeat' first | with_reducible assumption | with_reducible apply keeps_setReg

theorem keeps_rscEnter {u s : State} (x0 : RscState) (h : Keeps u s) : Keeps u (rscEnter x0 s) := by
  unfold rscEnter
  repeat' first
    | with_reducible assumption | (intro x; refine keeps_cut (a := Keeps u x) ?_ ?_; intro _; clear_value x)
    | (intro x; clear_value x) | lift_lets -underBinder | with_reducible apply keeps_setReg
    | with_reducible apply keeps_rscStatus | with_reducible apply keeps_setRsc | with_reducible apply keeps_evt
    | with_reducible apply keeps_sum | split

theorem keeps_rscToOpen {u s : State} (h : Keeps u s) : Keeps u (rscToOpen s) := by
  unfold rscToOpen
  repeat' first | with_reducible assumption | with_reducible apply keeps_rscEnter | with_reducible apply keeps_setRsc

theorem keeps_buildoutCompleteOp {u s : State} (x0 x1 : Int) (h : Keeps u s) :
    Keeps u (buildoutCompleteOp x0 x1 s) := by
  unfold buildoutCompleteOp
  repeat' first
    | with_reducible assumption | (intro x; refine keeps_cut (a := Keeps u x) ?_ ?_; intro _; clear_value x)
    | (intro x; clear_value x) | lift_lets -underBinder | with_reducible apply keeps_setReg
    | with_reducible apply keeps_setRsc | with_reducible apply keeps_setCtl | with_reducible apply keeps_evt
    | with_reducible apply keeps_rscToOpen | with_reducible apply keeps_rscEnter
    | (with_reducible apply keeps_mkFree; with_reducible assumption) | with_reducible refine keeps_ite ?_ ?_

theorem keeps_candStatus {u s : State} (x0 : Nat) (h : Keeps u s) : Keeps u (candStatus x0 s) := by
  unfold candStatus
  repeat' first | with_reducible assumption | with_reducible apply keeps_setReg

theorem keeps_climWrite {u s : State} (x0 : Nat) (x1 : Word) (h : Keeps u s) : Keeps u (climWrite x0 x1 s) := by
  unfold climWrite
  repeat' first
    | with_reducible assumption | with_reducible apply keeps_evt | with_reducible apply keeps_setReg
    | with_reducible refine keeps_ite ?_ ?_

theorem keeps_rscToHoldover {u s : State} (h : Keeps u s) : Keeps u (rscToHoldover s) := by
  unfold rscToHoldover
  repeat' first
    | with_reducible assumption | with_reducible apply keeps_rscEnter | with_reducible apply keeps_setRsc
    | with_reducible apply keeps_rscToOpen | with_reducible refine keeps_ite ?_ ?_

theorem keeps_rscAbandon {u s : State} (h : Keeps u s) : Keeps u (rscAbandon s) := by
  unfold rscAbandon
  repeat' first
    | with_reducible assumption | with_reducible apply keeps_rscToHoldover | with_reducible apply keeps_rscStatus
    | with_reducible apply keeps_setRsc | with_reducible refine keeps_ite ?_ ?_

theorem keeps_holdFrequency {u s : State} (h : Keeps u s) : Keeps u (holdFrequency s) := by
  unfold holdFrequency
  repeat' first | with_reducible assumption | with_reducible apply keeps_setCtl

theorem keeps_rscSwitch {u s : State} (x0 : Nat) (h : Keeps u s) : Keeps u (rscSwitch x0 s) := by
  unfold rscSwitch
  repeat' first
    | with_reducible assumption | with_reducible apply keeps_rscEnter | with_reducible apply keeps_holdFrequency
    | with_reducible apply keeps_setRsc

theorem keeps_rscEvaluate {u s : State} (h : Keeps u s) : Keeps u (rscEvaluate s) := by
  unfold rscEvaluate
  repeat' first
    | with_reducible assumption | (intro x; clear_value x) | lift_lets -underBinder
    | with_reducible apply keeps_rscStatus | with_reducible apply keeps_setRsc | with_reducible apply keeps_rscSwitch
    | with_reducible apply keeps_rscToHoldover | with_reducible apply keeps_holdFrequency | split

theorem keeps_rscAfterDisq {u s : State} (x0 : Nat) (h : Keeps u s) : Keeps u (rscAfterDisq x0 s) := by
  unfold rscAfterDisq
  repeat' first
    | with_reducible assumption | with_reducible apply keeps_rscAbandon | with_reducible apply keeps_rscEvaluate
    | with_reducible refine keeps_ite ?_ ?_

theorem keeps_disqualificationOp {u s : State} (x0 : Nat) (h : Keeps u s) : Keeps u (disqualificationOp x0 s) := by
  unfold disqualificationOp
  repeat' first
    | with_reducible assumption | with_reducible apply keeps_setRsc | with_reducible apply keeps_evtIf
    | with_reducible apply keeps_candStatus | with_reducible apply keeps_rscAfterDisq
    | with_reducible refine keeps_ite ?_ ?_

theorem keeps_ncoApply {u s : State} (h : Keeps u s) : Keeps u (ncoApply s) := by
  unfold ncoApply
  repeat' first
    | with_reducible assumption | with_reducible apply keeps_setRsc | with_reducible refine keeps_ite ?_ ?_

theorem keeps_ncoWriteOp {u s : State} (x0 : Word) (h : Keeps u s) : Keeps u (ncoWriteOp x0 s) := by
  unfold ncoWriteOp
  repeat' first
    | with_reducible assumption | with_reducible apply keeps_ncoApply | with_reducible apply keeps_setReg
    | with_reducible apply keeps_evt | with_reducible refine keeps_ite ?_ ?_

theorem keeps_rscClose {u s : State} (x0 : Int) (h : Keeps u s) : Keeps u (rscClose x0 s) := by
  unfold rscClose
  repeat' first
    | with_reducible assumption | with_reducible apply keeps_setReg | with_reducible apply keeps_rscEnter
    | with_reducible refine keeps_ite ?_ ?_

theorem keeps_rscFollow {u s : State} (x0 : Int) (h : Keeps u s) : Keeps u (rscFollow x0 s) := by
  unfold rscFollow
  repeat' first
    | with_reducible assumption | with_reducible apply keeps_setCtl | with_reducible apply keeps_rscEnter
    | with_reducible apply keeps_setRsc | with_reducible apply keeps_ncoApply | with_reducible apply keeps_rscToOpen
    | with_reducible apply keeps_rscClose | split

theorem keeps_rscCtrlWrite {u s : State} (x0 : Word) (x1 : Int) (h : Keeps u s) : Keeps u (rscCtrlWrite x0 x1 s) := by
  unfold rscCtrlWrite
  repeat' first
    | with_reducible assumption | with_reducible apply keeps_typeWrite | with_reducible apply keeps_evtIf
    | with_reducible apply keeps_rscFollow

theorem keeps_rscCloseOp {u s : State} (x0 : Word) (x1 : Int) (h : Keeps u s) : Keeps u (rscCloseOp x0 x1 s) := by
  unfold rscCloseOp
  repeat' first | with_reducible assumption | with_reducible apply keeps_rscCtrlWrite

theorem keeps_rscFreerunOp {u s : State} (x0 : Word) (h : Keeps u s) : Keeps u (rscFreerunOp x0 s) := by
  unfold rscFreerunOp
  repeat' first | with_reducible assumption | with_reducible apply keeps_rscCtrlWrite

theorem keeps_measureCand {u s : State} (x0 : Nat) (x1 : Bool) (x2 : Int) (h : Keeps u s) :
    Keeps u (measureCand x0 x1 x2 s) := by
  unfold measureCand
  repeat' first
    | with_reducible assumption | with_reducible apply keeps_setReg | with_reducible apply keeps_evtIf
    | with_reducible apply keeps_setBit | with_reducible apply keeps_setRsc | with_reducible refine keeps_ite ?_ ?_

theorem keeps_rscMeasurementOp {u s : State} (x0 : List RscMeas) (h : Keeps u s) :
    Keeps u (rscMeasurementOp x0 s) := by
  unfold rscMeasurementOp
  repeat' first
    | with_reducible assumption | (intro x; refine keeps_cut (a := Keeps u x) ?_ ?_; intro _; clear_value x)
    | intro _ | lift_lets -underBinder | with_reducible refine keeps_forN ?_ ?_ | with_reducible apply keeps_setRsc
    | with_reducible apply keeps_measureCand | with_reducible apply keeps_candStatus
    | with_reducible apply keeps_setCtl | with_reducible apply keeps_setReg | with_reducible apply keeps_rscAbandon
    | with_reducible apply keeps_rscEvaluate | (with_reducible apply keeps_mkFree; with_reducible assumption)
    | with_reducible refine keeps_ite ?_ ?_

theorem keeps_rscOpenOp {u s : State} (x0 : Word) (h : Keeps u s) : Keeps u (rscOpenOp x0 s) := by
  unfold rscOpenOp
  repeat' first | with_reducible assumption | with_reducible apply keeps_rscCtrlWrite

theorem keeps_wtrWrite {u s : State} (x0 : Word) (h : Keeps u s) : Keeps u (wtrWrite x0 s) := by
  unfold wtrWrite
  repeat' first
    | with_reducible assumption | with_reducible apply keeps_evt | with_reducible apply keeps_setFld
    | with_reducible refine keeps_ite ?_ ?_

theorem keeps_setGain {u s : State} (x1 x2 : Nat) (h : Keeps u s) : Keeps u (State.setGain s x1 x2) := by
  unfold State.setGain
  repeat' first | with_reducible assumption | with_reducible apply keeps_wrHalf

theorem keeps_setLdg {u s : State} (x1 : Ldg) (h : Keeps u s) : Keeps u (State.setLdg s x1) := by
  unfold State.setLdg
  repeat' first | (with_reducible apply keeps_mk; with_reducible assumption)

theorem keeps_writeSlot {u s : State} (x0 : Nat) (x1 : Ramp) (x2 : Bool) (h : Keeps u s) :
    Keeps u (writeSlot x0 x1 x2 s) := by
  unfold writeSlot
  repeat' first | with_reducible assumption | with_reducible apply keeps_wrWord

theorem keeps_takeSlot {u s : State} (x0 : Nat) (x1 : Bool) (x2 : Ramp) (h : Keeps u s) :
    Keeps u (takeSlot x0 x1 x2 s) := by
  unfold takeSlot
  repeat' first
    | with_reducible assumption | with_reducible apply keeps_writeSlot | with_reducible apply keeps_setLdg
    | with_reducible refine keeps_ite ?_ ?_

theorem keeps_acceptChg {u s : State} (x0 : Chg) (h : Keeps u s) : Keeps u (acceptChg x0 s) := by
  unfold acceptChg
  repeat' first
    | with_reducible assumption | (intro x; clear_value x) | lift_lets -underBinder
    | with_reducible apply keeps_takeSlot | split

theorem keeps_advanceGates {u s : State} (h : Keeps u s) : Keeps u (advanceGates s) := by
  unfold advanceGates
  repeat' first | with_reducible assumption | with_reducible apply keeps_setLdg

theorem keeps_advanceRamp {u s : State} (x0 : Nat) (x1 : Ramp) (h : Keeps u s) : Keeps u (advanceRamp x0 x1 s) := by
  unfold advanceRamp
  repeat' first
    | with_reducible assumption | (intro x; refine keeps_cut (a := Keeps u x) ?_ ?_; intro _; clear_value x)
    | (intro x; clear_value x) | subst x | lift_lets -underBinder | with_reducible apply keeps_setGain
    | with_reducible apply keeps_writeSlot | with_reducible apply keeps_setLdg | split

theorem keeps_beginFresh {u s : State} (x0 : Nat) (x1 : Ramp) (h : Keeps u s) : Keeps u (beginFresh x0 x1 s) := by
  unfold beginFresh
  repeat' first | with_reducible assumption | with_reducible apply keeps_setLdg | with_reducible apply keeps_writeSlot

theorem keeps_changeAcceptOp {u s : State} (h : Keeps u s) : Keeps u (changeAcceptOp s) := by
  unfold changeAcceptOp
  repeat' first
    | with_reducible assumption | with_reducible apply keeps_acceptChg | with_reducible apply keeps_setLdg | split

theorem keeps_setCode {u s : State} (x0 x1 : Nat) (h : Keeps u s) : Keeps u (setCode x0 x1 s) := by
  unfold setCode
  repeat' first | with_reducible assumption | with_reducible apply keeps_setGain | with_reducible apply keeps_setLdg

theorem keeps_chgvWriteOp {u s : State} (x0 : Word) (h : Keeps u s) : Keeps u (chgvWriteOp x0 s) := by
  unfold chgvWriteOp
  repeat' first
    | with_reducible assumption | with_reducible apply keeps_answer | with_reducible apply keeps_clhError
    | with_reducible apply keeps_evt | with_reducible apply keeps_setLdg | with_reducible apply keeps_setCode
    | with_reducible refine keeps_ite ?_ ?_

theorem keeps_eccCode {u s : State} (x0 : Nat) (h : Keeps u s) : Keeps u (eccCode x0 s) := by
  unfold eccCode
  repeat' first
    | with_reducible assumption | with_reducible apply keeps_takeSlot | with_reducible apply keeps_setLdg | split

theorem keeps_performGain {u s : State} (x0 : Option Nat) (x1 : List (Nat × Nat)) (h : Keeps u s) :
    Keeps u (performGain x0 x1 s) := by
  unfold performGain
  repeat' first
    | with_reducible assumption | intro _ | with_reducible refine keeps_foldl ?_ ?_
    | with_reducible apply keeps_setLdg | with_reducible apply keeps_setCode | with_reducible refine keeps_ite ?_ ?_

theorem keeps_performRamp {u s : State} (x0 : List (Nat × Word)) (h : Keeps u s) : Keeps u (performRamp x0 s) := by
  unfold performRamp
  repeat' first
    | with_reducible assumption | intro _ | with_reducible refine keeps_foldl ?_ ?_ | with_reducible apply keeps_evt
    | with_reducible apply keeps_wrWord | with_reducible apply keeps_setLdg | with_reducible refine keeps_ite ?_ ?_

theorem keeps_performBeat {u s : State} (x0 : LdgBeat) (h : Keeps u s) : Keeps u (performBeat x0 s) := by
  unfold performBeat
  repeat' first
    | with_reducible assumption | with_reducible apply keeps_performGain | with_reducible apply keeps_performRamp
    | split

theorem keeps_ledgerBeat {u s : State} (x0 : LdgBeat) (h : Keeps u s) : Keeps u (ledgerBeat x0 s) := by
  unfold ledgerBeat
  repeat' first
    | with_reducible assumption | with_reducible apply keeps_performBeat | with_reducible apply keeps_evtIf
    | with_reducible apply keeps_setLdg | with_reducible refine keeps_ite ?_ ?_

theorem keeps_gainStoreWriteOp {u s : State} (x0 : Nat) (x1 : List Half) (h : Keeps u s) :
    Keeps u (gainStoreWriteOp x0 x1 s) := by
  unfold gainStoreWriteOp
  repeat' first
    | with_reducible assumption | with_reducible apply keeps_answer | with_reducible apply keeps_clhError
    | with_reducible apply keeps_ledgerBeat | with_reducible refine keeps_ite ?_ ?_

theorem keeps_releaseHeld {u s : State} (h : Keeps u s) : Keeps u (releaseHeld s) := by
  unfold releaseHeld
  repeat' first | with_reducible assumption | with_reducible apply keeps_setLdg

theorem keeps_holdWriteOp {u s : State} (x0 : Word) (h : Keeps u s) : Keeps u (holdWriteOp x0 s) := by
  unfold holdWriteOp
  repeat' first
    | with_reducible assumption | with_reducible apply keeps_typeWrite | with_reducible apply keeps_releaseHeld
    | with_reducible refine keeps_ite ?_ ?_

theorem keeps_rampTableWriteOp {u s : State} (x0 : Nat) (x1 : List Word) (h : Keeps u s) :
    Keeps u (rampTableWriteOp x0 x1 s) := by
  unfold rampTableWriteOp
  repeat' first
    | with_reducible assumption | with_reducible apply keeps_answer | with_reducible apply keeps_clhError
    | with_reducible apply keeps_ledgerBeat | with_reducible refine keeps_ite ?_ ?_

theorem keeps_ramptWriteOp {u s : State} (x0 : Nat) (x1 : Word) (h : Keeps u s) : Keeps u (ramptWriteOp x0 x1 s) := by
  unfold ramptWriteOp
  repeat' first
    | with_reducible assumption | with_reducible apply keeps_setReg | with_reducible apply keeps_evt
    | with_reducible refine keeps_ite ?_ ?_

theorem keeps_headWaits {u s : State} (h : Keeps u s) : Keeps u (headWaits s) := by
  unfold headWaits
  repeat' first | with_reducible assumption | with_reducible apply keeps_evtIf | split

theorem keeps_waitingBeatOp {u s : State} (h : Keeps u s) : Keeps u (waitingBeatOp s) := by
  unfold waitingBeatOp
  repeat' first
    | with_reducible assumption | with_reducible apply keeps_headWaits | with_reducible apply keeps_performBeat
    | with_reducible apply keeps_setLdg | split

theorem keeps_freeRamp {u s : State} (x0 : Bool) (x1 : Nat) (h : Keeps u s) : Keeps u (freeRamp x0 x1 s) := by
  have ht : ∀ (l : List (Nat × Ramp)) (s : State), Keeps u s → Keeps u (match l.find? (fun e => e.1 == x1) with
      | some (_, r) => writeSlot x1 r false (if x0 then s.setGain r.xp r.target else s)
      | none => s) := by
    intro l s h
    split
    · exact keeps_writeSlot _ _ _ (keeps_ite (keeps_setGain _ _ h) h)
    · exact h
  exact keeps_setLdg _ (ht _ _ (ht _ _ (ht _ _ h)))

theorem keeps_reloadSlot {u s : State} (x0 : Nat) (h : Keeps u s) : Keeps u (reloadSlot x0 s) := by
  unfold reloadSlot
  repeat' first
    | with_reducible assumption | intro _ | with_reducible refine keeps_foldl ?_ ?_
    | with_reducible apply keeps_wrWord | with_reducible apply keeps_setLdg

theorem keeps_markTwins {u s : State} (h : Keeps u s) : Keeps u (markTwins s) := by
  unfold markTwins
  repeat' first | with_reducible assumption | with_reducible apply keeps_setLdg

theorem keeps_ledgerBoundary {u s : State} (x0 : Bool) (h : Keeps u s) : Keeps u (ledgerBoundary x0 s) := by
  unfold ledgerBoundary
  repeat' first
    | with_reducible assumption | intro _ | with_reducible refine keeps_foldl ?_ ?_
    | with_reducible apply keeps_freeRamp | with_reducible apply keeps_advanceRamp
    | with_reducible apply keeps_setGain | with_reducible apply keeps_wrWord | with_reducible apply keeps_reloadSlot
    | with_reducible apply keeps_markTwins | with_reducible apply keeps_beginFresh
    | with_reducible apply keeps_setLdg | with_reducible refine keeps_ite ?_ ?_

theorem keeps_mixSink {u s : State} (x0 : List (Nat × Word)) (x1 : Nat) (h : Keeps u s) :
    Keeps u (mixSink x0 x1 s).2.2 := by
  unfold mixSink
  repeat' first | with_reducible assumption | with_reducible apply keeps_evtIf | split

theorem keeps_setGate {u s : State} (x0 : Nat) (x1 : Gate) (h : Keeps u s) : Keeps u (setGate x0 x1 s) := by
  unfold setGate
  repeat' first | with_reducible assumption | with_reducible apply keeps_setBit | with_reducible apply keeps_setLdg

theorem keeps_repointGate {u s : State} (x0 : Repoint) (h : Keeps u s) : Keeps u (repointGate x0 s) := by
  unfold repointGate
  repeat' first
    | with_reducible assumption | (intro x; clear_value x) | lift_lets -underBinder
    | with_reducible apply keeps_setGate | split

theorem keeps_repointOp {u s : State} (x0 : Word) (h : Keeps u s) : Keeps u (repointOp x0 s) := by
  unfold repointOp
  repeat' first
    | with_reducible assumption | with_reducible apply keeps_evt | with_reducible apply keeps_setLdg
    | with_reducible apply keeps_repointGate | with_reducible refine keeps_ite ?_ ?_

theorem keeps_restoreGates {u s : State} (x0 : Nat) (x1 : List (Nat × Gate)) (x2 : List (Nat × Nat)) (h : Keeps u s) :
    Keeps u (restoreGates x0 x1 x2 s) := by
  unfold restoreGates
  repeat' first
    | with_reducible assumption | intro _ | with_reducible refine keeps_foldl ?_ ?_
    | with_reducible apply keeps_setGate | with_reducible apply keeps_setFld | with_reducible apply keeps_repointGate

theorem keeps_stepGates {u s : State} (h : Keeps u s) : Keeps u (stepGates s) := by
  unfold stepGates
  repeat' first
    | with_reducible assumption | intro _ | with_reducible refine keeps_foldl ?_ ?_
    | with_reducible apply keeps_setFld | with_reducible apply keeps_setGate | with_reducible refine keeps_ite ?_ ?_

theorem keeps_setCore {u s : State} (x1 : Nat) (x2 : Core) (h : Keeps u s) : Keeps u (State.setCore s x1 x2) := by
  unfold State.setCore
  repeat' first | (with_reducible apply keeps_mk; with_reducible assumption)

theorem keeps_setCtx {u s : State} (x1 : Nat) (x2 : Ctx) (h : Keeps u s) : Keeps u (State.setCtx s x1 x2) := by
  unfold State.setCtx
  repeat' first | (with_reducible apply keeps_mk; with_reducible assumption)

theorem keeps_setPst {u s : State} (x1 : Pst) (h : Keeps u s) : Keeps u (State.setPst s x1) := by
  unfold State.setPst
  repeat' first | (with_reducible apply keeps_mk; with_reducible assumption)

theorem keeps_setFol {u s : State} (x1 : Fol) (h : Keeps u s) : Keeps u (State.setFol s x1) := by
  unfold State.setFol
  repeat' first | with_reducible assumption | with_reducible apply keeps_setPst

theorem keeps_updFol {u s : State} (x1 : Nat) (x2 : Fol → Fol) (h : Keeps u s) : Keeps u (State.updFol s x1 x2) := by
  unfold State.updFol
  repeat' first | with_reducible assumption | with_reducible apply keeps_setFol | split

theorem keeps_capture {u s : State} (x0 x1 : Nat) (x2 : Nat → Word) (h : Keeps u s) :
    Keeps u (capture x0 x1 x2 s) := by
  unfold capture
  repeat' first
    | with_reducible assumption | intro _ | with_reducible refine keeps_forN ?_ ?_
    | with_reducible apply keeps_setReg

theorem keeps_holdBank0 {u s : State} (x0 : Nat) (x1 : Nat × Nat) (x2 : List (Nat × Byte)) (h : Keeps u s) :
    Keeps u (holdBank0 x0 x1 x2 s) := by
  unfold holdBank0
  repeat' first
    | with_reducible assumption | with_reducible apply keeps_evt | with_reducible apply keeps_setPst | split

theorem keeps_clhBank0 {u s : State} (x0 x1 : Nat) (x2 : List Byte) (h : Keeps u s) :
    Keeps u (clhBank0 x0 x1 x2 s) := by
  unfold clhBank0
  repeat' first
    | with_reducible assumption | intro _ | with_reducible refine keeps_foldl ?_ ?_
    | with_reducible apply keeps_wrByte | with_reducible apply keeps_holdBank0

theorem keeps_copyDirty {u s : State} (x0 : Nat) (x1 : Bool) (x2 : List Nat) (h : Keeps u s) :
    Keeps u (copyDirty x0 x1 x2 s) := by
  unfold copyDirty
  repeat' first
    | with_reducible assumption | intro _ | with_reducible refine keeps_forN ?_ ?_
    | with_reducible refine keeps_foldl ?_ ?_ | with_reducible apply keeps_useFree
    | with_reducible apply keeps_wrWord | with_reducible apply keeps_wrByte | with_reducible refine keeps_ite ?_ ?_

theorem keeps_performJ {u s : State} (x0 : JRec) (h : Keeps u s) : Keeps u (performJ x0 s) := by
  unfold performJ
  repeat' first
    | with_reducible assumption | intro _ | with_reducible refine keeps_foldl ?_ ?_
    | with_reducible apply keeps_wrByte | with_reducible apply keeps_request | with_reducible apply keeps_raise
    | split

theorem keeps_performList {u s : State} (x0 : List (JRec × Bool)) (h : Keeps u s) : Keeps u (performList x0 s).2 := by
  fun_induction performList x0 s
  case case5 ih => exact ih (keeps_performJ _ h)
  all_goals first | exact h | exact keeps_performJ _ h

theorem keeps_pumpJournal {u s : State} (x0 : Nat) (h : Keeps u s) : Keeps u (pumpJournal x0 s) := by
  unfold pumpJournal
  repeat' first
    | with_reducible assumption | with_reducible apply keeps_performList | with_reducible apply keeps_setPst

theorem keeps_commit {u s : State} (x0 x1 : Nat) (h : Keeps u s) : Keeps u (commit x0 x1 s) := by
  unfold commit
  repeat' first
    | with_reducible assumption | intro _ | with_reducible refine keeps_foldl ?_ ?_
    | with_reducible apply keeps_copyDirty | with_reducible apply keeps_setCore | with_reducible apply keeps_wrBytes
    | with_reducible apply keeps_setPst | with_reducible apply keeps_useFree | with_reducible apply keeps_pumpJournal
    | with_reducible apply keeps_updFol | with_reducible refine keeps_itePair ?_ ?_

theorem keeps_deliver {u s : State} (x0 x1 : Nat) (h : Keeps u s) : Keeps u (deliver x0 x1 s) := by
  unfold deliver
  repeat' first | with_reducible assumption | with_reducible apply keeps_updFol

theorem keeps_discard {u s : State} (x0 x1 : Nat) (h : Keeps u s) : Keeps u (discard x0 x1 s) := by
  unfold discard
  repeat' first | with_reducible assumption | with_reducible apply keeps_setCore | with_reducible apply keeps_setPst

theorem keeps_tapPoint {u s : State} (x0 x1 : Nat) (x2 : Nat → Bool) (x3 : Nat → Nat → Word) (h : Keeps u s) :
    Keeps u (tapPoint x0 x1 x2 x3 s) := by
  unfold tapPoint
  repeat' first
    | with_reducible assumption | intro _ | with_reducible refine keeps_forN ?_ ?_
    | with_reducible apply keeps_useFree | with_reducible apply keeps_capture | with_reducible refine keeps_ite ?_ ?_

theorem keeps_finalize {u s : State} (x0 x1 : Nat) (h : Keeps u s) : Keeps u (finalize x0 x1 s) := by
  unfold finalize
  repeat' first
    | with_reducible assumption | intro _ | with_reducible refine keeps_foldl ?_ ?_
    | with_reducible apply keeps_setFol | with_reducible apply keeps_deliver | with_reducible apply keeps_commit
    | with_reducible apply keeps_tapPoint | split

theorem keeps_journalAdd {u s : State} (x0 x1 : Nat) (x2 : JAct) (h : Keeps u s) :
    Keeps u (journalAdd x0 x1 x2 s) := by
  unfold journalAdd
  repeat' first
    | with_reducible assumption | with_reducible apply keeps_evt | with_reducible apply keeps_setPst
    | with_reducible refine keeps_ite ?_ ?_

theorem keeps_settleGroup {u s : State} (x0 x1 : Nat) (h : Keeps u s) : Keeps u (settleGroup x0 x1 s) := by
  unfold settleGroup
  repeat' first
    | with_reducible assumption | (intro x; refine keeps_cut (a := Keeps u x) ?_ ?_; intro _; clear_value x)
    | (intro x; clear_value x) | lift_lets -underBinder | with_reducible apply keeps_setFol
    | with_reducible apply keeps_finalize | split

theorem keeps_settle {u s : State} (x0 : Nat) (h : Keeps u s) : Keeps u (settle x0 s) := by
  unfold settle
  repeat' first
    | with_reducible assumption | intro _ | with_reducible refine keeps_forN ?_ ?_
    | with_reducible apply keeps_settleGroup

theorem keeps_stfRetired {u s : State} (x0 : Nat) (x1 : Bool) (h : Keeps u s) : Keeps u (stfRetired x0 x1 s) := by
  unfold stfRetired
  repeat' first
    | with_reducible assumption | with_reducible apply keeps_pumpJournal | with_reducible apply keeps_evtIf
    | with_reducible apply keeps_setPst | split

theorem keeps_wrBank0 {u s : State} (x0 x1 : Nat) (x2 : Byte) (h : Keeps u s) : Keeps u (wrBank0 x0 x1 x2 s) := by
  unfold wrBank0
  repeat' first
    | with_reducible assumption | intro _ | with_reducible refine keeps_forN ?_ ?_ | with_reducible apply keeps_evt
    | with_reducible apply keeps_setCore | with_reducible apply keeps_wrByte | with_reducible refine keeps_ite ?_ ?_

theorem keeps_writeCell {u s : State} (x0 x1 : Nat) (x2 : CellDecl) (x3 : Nat → Word) (h : Keeps u s) :
    Keeps u (writeCell x0 x1 x2 x3 s) := by
  unfold writeCell
  repeat' first
    | with_reducible assumption | intro _ | with_reducible refine keeps_forN ?_ ?_
    | with_reducible apply keeps_wrWord

theorem keeps_zeroOutputs {u s : State} (x0 x1 : Nat) (h : Keeps u s) : Keeps u (zeroOutputs x0 x1 s) := by
  unfold zeroOutputs
  repeat' first
    | with_reducible assumption | intro _ | with_reducible refine keeps_foldl ?_ ?_
    | with_reducible apply keeps_writeCell

end Sys2Proof.Machine
end

