-- ==== Sys2Proof/Laws/KeepsTeller.lean ====
section
/-! SUPPORT. What the Tellers, the sink chain, the local ports and the Posting Engine keep: one lemma `keeps_<operation>` per operation, in the
relation of Laws/Keeps.lean. -/

set_option maxRecDepth 4000

namespace Sys2Proof.Machine

theorem keeps_storeData {u s : State} (x0 x1 : Nat) (x2 : List (Nat × Byte)) (h : Keeps u s) :
    Keeps u (storeData x0 x1 x2 s) := by
  unfold storeData
  repeat' first
    | with_reducible assumption | intro _ | with_reducible refine keeps_foldl ?_ ?_
    | with_reducible apply keeps_wrBank0 | with_reducible apply keeps_setCore | with_reducible apply keeps_wrByte
    | with_reducible apply keeps_journalAdd | with_reducible refine keeps_ite ?_ ?_

theorem keeps_dropLdf {u s : State} (x0 : Nat) (h : Keeps u s) : Keeps u (dropLdf x0 s) := by
  unfold dropLdf
  repeat' first | with_reducible assumption | with_reducible apply keeps_setClh | with_reducible apply keeps_setCore

theorem keeps_loadPeaks {u s : State} (x0 x1 : Nat) (h : Keeps u s) : Keeps u (loadPeaks x0 x1 s) := by
  unfold loadPeaks
  repeat' first
    | with_reducible assumption | (intro x; refine keeps_cut (a := Keeps u x) ?_ ?_; intro _; clear_value x)
    | (intro x; clear_value x) | subst x | lift_lets -underBinder | with_reducible apply keeps_latchFld | split

theorem keeps_tapRows {u s : State} (x0 : Nat) (h : Keeps u s) : Keeps u (tapRows x0 s) := by
  unfold tapRows
  repeat' first | with_reducible assumption | with_reducible apply keeps_tapPoint | split

theorem keeps_endTask {u s : State} (x0 x1 x2 : Nat) (x3 x4 : Bool) (x5 : Nat) (h : Keeps u s) :
    Keeps u (endTask x0 x1 x2 x3 x4 x5 s) := by
  unfold endTask
  repeat' first
    | with_reducible assumption | (intro x; refine keeps_cut (a := Keeps u x) ?_ ?_; intro _; clear_value x)
    | (intro x; clear_value x) | subst x | lift_lets -underBinder | with_reducible apply keeps_updFol
    | with_reducible apply keeps_loadPeaks | with_reducible apply keeps_deliver | with_reducible apply keeps_commit
    | with_reducible apply keeps_settle | with_reducible apply keeps_tapRows | split

theorem keeps_finishRun {u s : State} (x0 : Nat) (x1 : Bool) (h : Keeps u s) : Keeps u (finishRun x0 x1 s) := by
  unfold finishRun
  repeat' first
    | with_reducible assumption | (intro x; refine keeps_cut (a := Keeps u x) ?_ ?_; intro _; clear_value x)
    | (intro x; clear_value x) | lift_lets -underBinder | with_reducible apply keeps_dropLdf
    | with_reducible apply keeps_setCore | with_reducible apply keeps_endTask | split

theorem keeps_stopRun {u s : State} (x0 : Nat) (h : Keeps u s) : Keeps u (stopRun x0 s) := by
  unfold stopRun
  repeat' first
    | with_reducible assumption | with_reducible apply keeps_finishRun | with_reducible apply keeps_discard
    | with_reducible apply keeps_zeroOutputs | split

theorem keeps_countFault {u s : State} (x0 : Nat) (x1 : Bool) (h : Keeps u s) : Keeps u (countFault x0 x1 s) := by
  unfold countFault
  repeat' first
    | with_reducible assumption | with_reducible apply keeps_evt | with_reducible apply keeps_setCtx
    | with_reducible refine keeps_ite ?_ ?_

theorem keeps_endWaiting {u s : State} (x0 : Nat) (h : Keeps u s) : Keeps u (endWaiting x0 s) := by
  unfold endWaiting
  repeat' first
    | with_reducible assumption | intro _ | with_reducible refine keeps_forN ?_ ?_
    | with_reducible refine keeps_foldl ?_ ?_ | with_reducible apply keeps_endTask
    | with_reducible apply keeps_zeroOutputs | with_reducible apply keeps_discard
    | with_reducible refine keeps_ite ?_ ?_

theorem keeps_tellerFault {u s : State} (x0 x1 x2 : Nat) (h : Keeps u s) : Keeps u (tellerFault x0 x1 x2 s) := by
  unfold tellerFault
  repeat' first
    | with_reducible assumption | (intro x; refine keeps_cut (a := Keeps u x) ?_ ?_; intro _; clear_value x)
    | (intro x; clear_value x) | lift_lets -underBinder | with_reducible apply keeps_evt
    | with_reducible apply keeps_setReg | with_reducible apply keeps_evtIf | with_reducible apply keeps_stopRun
    | with_reducible apply keeps_countFault | with_reducible apply keeps_endWaiting | split

theorem keeps_computeOp {u s : State} (x0 : Nat) (x1 : Pred) (x2 x3 : Bool) (x4 : Core → Nat → Writes) (h : Keeps u s) :
    Keeps u (computeOp x0 x1 x2 x3 x4 s) := by
  unfold computeOp
  repeat' first
    | with_reducible assumption | with_reducible apply keeps_setCore | with_reducible apply keeps_tellerFault
    | with_reducible refine keeps_ite ?_ ?_

theorem keeps_endBundle {u s : State} (x0 : Nat) (x1 : List (Nat × Word)) (x2 : Nat) (x3 : Option Nat) (h : Keeps u s) :
    Keeps u (endBundle x0 x1 x2 x3 s) := by
  unfold endBundle
  repeat' first | with_reducible assumption | with_reducible apply keeps_setCore

/-- The same of what a move's own part answers. -/
def MoveRes.Keeps (u : State) : MoveRes → Prop
  | .fault _ _ => True
  | .done s _ _ _ => Machine.Keeps u s

theorem MoveRes.keeps_fault (u : State) (c a : Nat) : MoveRes.Keeps u (.fault c a) := True.intro

theorem MoveRes.keeps_done {u s : State} (l : List (Nat × Word)) (e : Nat) (g : Option Nat) (h : Machine.Keeps u s) :
    MoveRes.Keeps u (.done s l e g) := h

theorem keeps_moveOp {u s : State} (x0 : Nat) (x1 : Pred) (x2 : Option Nat) (x3 : Bool)
    {x4 : Core → Run → Nat → State → MoveRes}
    (hf : ∀ c r m, MoveRes.Keeps u (x4 c r m s)) (h : Keeps u s) : Keeps u (moveOp x0 x1 x2 x3 x4 s) := by
  unfold moveOp
  dsimp only
  split
  · exact h
  · split
    · exact keeps_tellerFault _ _ _ h
    · exact h
    · split
      · split
        · exact keeps_tellerFault _ _ _ h
        · rename_i e
          have k := hf (s.core x0).seen ‹_› (Pred.mask x1 (s.core x0).seen)
          rw [e] at k
          exact keeps_endBundle _ _ _ _ k
      · exact keeps_endBundle _ _ _ _ h

theorem keeps_afterAccess {u s : State} (x0 x1 x2 : Nat) (x3 : Int) (h : Keeps u s) :
    Keeps u (afterAccess x0 x1 x2 x3 s) := by
  unfold afterAccess
  repeat' first | with_reducible assumption | with_reducible apply keeps_setCore

theorem keeps_askLdf {u s : State} (x0 x1 : Nat) (h : Keeps u s) : Keeps u (askLdf x0 x1 s) := by
  unfold askLdf
  repeat' first
    | with_reducible assumption | with_reducible apply keeps_setClh | with_reducible apply keeps_request

theorem keeps_overrun {u s : State} (x0 : Nat) (h : Keeps u s) : Keeps u (overrun x0 s) := by
  unfold overrun
  repeat' first | with_reducible assumption | with_reducible apply keeps_stopRun | with_reducible apply keeps_evt

theorem keeps_satAtEnd {u s : State} (x0 : Nat) (h : Keeps u s) : Keeps u (satAtEnd x0 s) := by
  unfold satAtEnd
  repeat' first
    | with_reducible assumption | with_reducible apply keeps_evtIf | with_reducible apply keeps_raise
    | with_reducible refine keeps_ite ?_ ?_

theorem keeps_fillOutputs {u s : State} (x0 : Nat) (x1 : Run) (h : Keeps u s) : Keeps u (fillOutputs x0 x1 s) := by
  unfold fillOutputs
  repeat' first
    | with_reducible assumption | intro _ | with_reducible refine keeps_forN ?_ ?_
    | with_reducible refine keeps_foldl ?_ ?_ | with_reducible apply keeps_evt | with_reducible apply keeps_wrWord
    | with_reducible refine keeps_ite ?_ ?_

theorem keeps_persist {u s : State} (x0 : Nat) (x1 : Run) (h : Keeps u s) : Keeps u (persist x0 x1 s) := by
  unfold persist
  repeat' first
    | with_reducible assumption | intro _ | with_reducible refine keeps_foldl ?_ ?_
    | with_reducible apply keeps_storeData

theorem keeps_endRunOp {u s : State} (x0 : Nat) (x1 : Pred) (h : Keeps u s) : Keeps u (endRunOp x0 x1 s) := by
  unfold endRunOp
  repeat' first
    | with_reducible assumption | (intro x; refine keeps_cut (a := Keeps u x) ?_ ?_; intro _; clear_value x)
    | (intro x; clear_value x) | subst x | lift_lets -underBinder | with_reducible apply keeps_tellerFault
    | with_reducible apply keeps_endBundle | with_reducible apply keeps_overrun | with_reducible apply keeps_setCore
    | with_reducible apply keeps_satAtEnd | with_reducible apply keeps_fillOutputs
    | with_reducible apply keeps_persist | with_reducible apply keeps_note | with_reducible apply keeps_setCtx
    | with_reducible apply keeps_finishRun | split

theorem keeps_ld2iOp {u s : State} (x0 : Nat) (x1 : FmtLD2I) (h : Keeps u s) : Keeps u (ld2iOp x0 x1 s) := by
  unfold ld2iOp
  repeat' first
    | with_reducible assumption | (intro x; refine keeps_cut (a := Keeps u x) ?_ ?_; intro _; clear_value x)
    | intro _ | subst x | lift_lets -underBinder | with_reducible apply keeps_moveOp
    | with_reducible apply keeps_afterAccess | with_reducible exact MoveRes.keeps_fault _ _ _
    | with_reducible refine MoveRes.keeps_done _ _ _ ?_
    | (with_reducible apply keeps_mkFree; with_reducible assumption) | split

theorem keeps_ldfOp {u s : State} (x0 : Nat) (x1 : Pred) (x2 : FmtLF) (h : Keeps u s) :
    Keeps u (ldfOp x0 x1 x2 s) := by
  unfold ldfOp
  repeat' first
    | with_reducible assumption | with_reducible apply keeps_tellerFault | with_reducible apply keeps_askLdf
    | with_reducible apply keeps_setCore | with_reducible apply keeps_endBundle
    | with_reducible refine keeps_ite ?_ ?_

theorem keeps_ldfArrive {u s : State} (x0 : Nat) (x1 : DoneTxn) (h : Keeps u s) : Keeps u (ldfArrive x0 x1 s) := by
  unfold ldfArrive
  repeat' first
    | with_reducible assumption | (intro x; refine keeps_cut (a := Keeps u x) ?_ ?_; intro _; clear_value x)
    | (intro x; clear_value x) | lift_lets -underBinder | with_reducible apply keeps_setCore
    | with_reducible apply keeps_endBundle | with_reducible apply keeps_tellerFault | split

theorem keeps_ldfResponseOp {u s : State} (x0 : Nat) (h : Keeps u s) : Keeps u (ldfResponseOp x0 s) := by
  unfold ldfResponseOp
  repeat' first
    | with_reducible assumption | with_reducible apply keeps_resetsSettle | with_reducible apply keeps_ldfArrive
    | with_reducible apply keeps_setClh | split

theorem keeps_ldfTimeoutOp {u s : State} (x0 : Nat) (h : Keeps u s) : Keeps u (ldfTimeoutOp x0 s) := by
  unfold ldfTimeoutOp
  repeat' first | with_reducible assumption | with_reducible apply keeps_tellerFault | split

theorem keeps_loadOp {u s : State} (x0 : Nat) (x1 : Pred) (x2 : FmtMA) (x3 : Bool) (x4 x5 : Nat) (x6 : State → Run → Nat → Word) (h : Keeps u s) :
    Keeps u (loadOp x0 x1 x2 x3 x4 x5 x6 s) := by
  unfold loadOp
  repeat' first
    | with_reducible assumption | intro _ | lift_lets -underBinder | with_reducible apply keeps_moveOp
    | with_reducible apply keeps_afterAccess | with_reducible exact MoveRes.keeps_fault _ _ _
    | with_reducible refine MoveRes.keeps_done _ _ _ ?_ | split

theorem keeps_writeCode {u s : State} (x0 x1 : Nat) (x2 : Word) (h : Keeps u s) : Keeps u (writeCode x0 x1 x2 s) := by
  unfold writeCode
  dsimp only
  split
  · exact keeps_same h rfl rfl rfl rfl rfl rfl (Nat.le_add_right _ _)
  · exact keeps_setCore _ _ h

theorem keeps_ldiOp {u s : State} (x0 x1 : Nat) (x2 : Word) (x3 : Nat) (h : Keeps u s) :
    Keeps u (ldiOp x0 x1 x2 x3 s) := by
  unfold ldiOp
  repeat' first
    | with_reducible assumption | intro _ | with_reducible apply keeps_endBundle | with_reducible apply keeps_moveOp
    | with_reducible apply keeps_writeCode | with_reducible refine MoveRes.keeps_done _ _ _ ?_
    | with_reducible refine keeps_ite ?_ ?_

theorem keeps_loopOp {u s : State} (x0 : Nat) (x1 : Pred) (x2 : FmtLoop) (h : Keeps u s) :
    Keeps u (loopOp x0 x1 x2 s) := by
  unfold loopOp
  repeat' first
    | with_reducible assumption | intro _ | lift_lets -underBinder | with_reducible apply keeps_moveOp
    | with_reducible apply keeps_setCore | with_reducible exact MoveRes.keeps_fault _ _ _
    | with_reducible refine MoveRes.keeps_done _ _ _ ?_ | split

theorem keeps_writeCtl {u s : State} (x0 x1 : Nat) (x2 : Word) (h : Keeps u s) : Keeps u (writeCtl x0 x1 x2 s) := by
  unfold writeCtl
  dsimp only
  split
  · exact keeps_setCore _ _ h
  · split
    · exact keeps_same h rfl rfl rfl rfl rfl rfl (Nat.le_add_right _ _)
    · exact keeps_setCore _ _ h

theorem keeps_stfErrorOp {u s : State} (x0 : Nat) (h : Keeps u s) : Keeps u (stfErrorOp x0 s) := by
  unfold stfErrorOp
  repeat' first
    | with_reducible assumption | (intro x; clear_value x) | lift_lets -underBinder
    | with_reducible apply keeps_stfRetired | with_reducible apply keeps_clhError | with_reducible apply keeps_setClh
    | split

theorem keeps_storeOp {u s : State} (x0 : Nat) (x1 : Pred) (x2 x3 : Bool) (x4 x5 : Nat) (x6 : Int) (x7 : Nat) (x8 : Core → Nat → List (Nat × List Byte)) (x9 : Core → Nat → Bool) (h : Keeps u s) :
    Keeps u (storeOp x0 x1 x2 x3 x4 x5 x6 x7 x8 x9 s) := by
  unfold storeOp
  repeat' first
    | with_reducible assumption | (intro x; refine keeps_cut (a := Keeps u x) ?_ ?_; intro _; clear_value x)
    | intro _ | subst x | lift_lets -underBinder | with_reducible apply keeps_moveOp
    | with_reducible apply keeps_storeData | with_reducible apply keeps_afterAccess
    | with_reducible apply keeps_setCore | with_reducible exact MoveRes.keeps_fault _ _ _
    | with_reducible refine MoveRes.keeps_done _ _ _ ?_ | split

theorem keeps_swapCut {u s : State} (x0 : Nat) (x2 : Swap) (h : Keeps u s) : Keeps u (swapCut x0 s x2) := by
  unfold swapCut
  repeat' first
    | with_reducible assumption | with_reducible apply keeps_setCtx | with_reducible refine keeps_ite ?_ ?_

theorem keeps_applyCtxCmds {u s : State} (x0 : Nat) (h : Keeps u s) : Keeps u (applyCtxCmds x0 s) := by
  unfold applyCtxCmds
  repeat' first
    | (intro x; refine keeps_cut (a := Keeps u x) ?_ ?_; intro _; clear_value x) | intro _ | lift_lets -underBinder
    | with_reducible refine keeps_foldl ?_ ?_ | with_reducible apply keeps_setCtx
    | with_reducible apply keeps_swapCut | (with_reducible apply keeps_mk; with_reducible assumption)
    | with_reducible refine keeps_ite ?_ ?_

theorem keeps_ctxCmdWrite {u s : State} (x0 : Word) (h : Keeps u s) : Keeps u (ctxCmdWrite x0 s) := by
  unfold ctxCmdWrite
  repeat' first
    | with_reducible assumption | with_reducible apply keeps_setCtx | with_reducible refine keeps_ite ?_ ?_

theorem keeps_startRun {u s : State} (x0 x1 : Nat) (x2 : Bool) (h : Keeps u s) : Keeps u (startRun x0 x1 x2 s) := by
  unfold startRun
  repeat' first | with_reducible assumption | with_reducible apply keeps_setCore

theorem keeps_firstRunStartOp {u s : State} (x0 x1 : Nat) (h : Keeps u s) : Keeps u (firstRunStartOp x0 x1 s) := by
  unfold firstRunStartOp
  repeat' first
    | with_reducible assumption | (intro x; refine keeps_cut (a := Keeps u x) ?_ ?_; intro _; clear_value x)
    | (intro x; clear_value x) | lift_lets -underBinder | with_reducible apply keeps_setCtx
    | with_reducible apply keeps_startRun | split

theorem keeps_fillCell {u s : State} (x0 : Nat) (x1 : Fol) (x2 : Bool) (x3 : CellDecl) (h : Keeps u s) :
    Keeps u (fillCell x0 x1 x2 x3 s) := by
  unfold fillCell
  repeat' first
    | with_reducible assumption | with_reducible apply keeps_useFree | with_reducible apply keeps_writeCell
    | with_reducible refine keeps_ite ?_ ?_

theorem keeps_fillInputs {u s : State} (x0 x1 : Nat) (h : Keeps u s) : Keeps u (fillInputs x0 x1 s) := by
  unfold fillInputs
  repeat' first
    | with_reducible assumption | intro _ | with_reducible refine keeps_foldl ?_ ?_
    | with_reducible apply keeps_fillCell | split

theorem keeps_rerunStartOp {u s : State} (x0 x1 : Nat) (h : Keeps u s) : Keeps u (rerunStartOp x0 x1 s) := by
  unfold rerunStartOp
  repeat' first
    | with_reducible assumption | (intro x; refine keeps_cut (a := Keeps u x) ?_ ?_; intro _; clear_value x)
    | (intro x; clear_value x) | lift_lets -underBinder | with_reducible apply keeps_discard
    | with_reducible apply keeps_startRun | with_reducible apply keeps_fillInputs | split

theorem keeps_swapGoOp {u s : State} (x0 : Word) (h : Keeps u s) : Keeps u (swapGoOp x0 s) := by
  unfold swapGoOp
  repeat' first
    | with_reducible apply keeps_setBit | with_reducible apply keeps_evt
    | (with_reducible apply keeps_mk; with_reducible assumption) | with_reducible refine keeps_ite ?_ ?_

theorem keeps_taskOverrunOp {u s : State} (x0 : Nat) (h : Keeps u s) : Keeps u (taskOverrunOp x0 s) := by
  unfold taskOverrunOp
  repeat' first | with_reducible assumption | with_reducible apply keeps_overrun | split

theorem keeps_tellerResetOp {u s : State} (x0 : Nat) (h : Keeps u s) : Keeps u (tellerResetOp x0 s) := by
  unfold tellerResetOp
  repeat' first
    | with_reducible assumption | with_reducible apply keeps_stopRun | with_reducible apply keeps_evt
    | with_reducible apply keeps_setCore | with_reducible apply keeps_masterReset

theorem keeps_windowWatchdogOp {u s : State} (x0 : Nat) (h : Keeps u s) : Keeps u (windowWatchdogOp x0 s) := by
  unfold windowWatchdogOp
  repeat' first
    | with_reducible assumption | (intro x; refine keeps_cut (a := Keeps u x) ?_ ?_; intro _; clear_value x)
    | lift_lets -underBinder | with_reducible apply keeps_evt | with_reducible apply keeps_stopRun
    | with_reducible apply keeps_zeroOutputs | with_reducible apply keeps_endTask
    | with_reducible apply keeps_discard | split

theorem keeps_swapPosted {u s : State} (x0 : Nat) (h : Keeps u s) : Keeps u (swapPosted x0 s) := by
  unfold swapPosted
  repeat' first
    | with_reducible assumption | with_reducible apply keeps_evt | with_reducible apply keeps_setBit
    | with_reducible refine keeps_ite ?_ ?_

theorem keeps_setOut {u s : State} (x1 : Out) (h : Keeps u s) : Keeps u (State.setOut s x1) := by
  unfold State.setOut
  repeat' first | (with_reducible apply keeps_mk; with_reducible assumption)

theorem keeps_setSnk {u s : State} (x1 : Nat) (x2 : Snk) (h : Keeps u s) : Keeps u (State.setSnk s x1 x2) := by
  unfold State.setSnk
  repeat' first | with_reducible assumption | with_reducible apply keeps_setOut

theorem keeps_takeDly {u s : State} (x0 x1 : Nat) (h : Keeps u s) : Keeps u (takeDly x0 x1 s) := by
  unfold takeDly
  repeat' first
    | with_reducible assumption | with_reducible apply keeps_setSnk | with_reducible refine keeps_ite ?_ ?_

theorem keeps_takeLine {u s : State} (x0 : Nat) (x1 : Word) (h : Keeps u s) : Keeps u (takeLine x0 x1 s) := by
  unfold takeLine
  repeat' first | with_reducible assumption | with_reducible apply keeps_setSnk

theorem keeps_takeStaged {u s : State} (x0 : Nat) (x1 : Word) (h : Keeps u s) : Keeps u (takeStaged x0 x1 s) := by
  unfold takeStaged
  repeat' first
    | with_reducible assumption | with_reducible apply keeps_setOut | with_reducible apply keeps_takeDly
    | with_reducible apply keeps_takeLine | with_reducible refine keeps_ite ?_ ?_

theorem keeps_applyStaged {u s : State} (x0 : Nat) (h : Keeps u s) : Keeps u (applyStaged x0 s) := by
  unfold applyStaged
  repeat' first
    | with_reducible assumption | intro _ | with_reducible refine keeps_foldl ?_ ?_
    | with_reducible apply keeps_setOut | with_reducible apply keeps_takeStaged

theorem keeps_eccLine {u s : State} (x0 : Nat) (h : Keeps u s) : Keeps u (eccLine x0 s) := by
  unfold eccLine
  repeat' first
    | with_reducible assumption | intro _ | with_reducible refine keeps_foldl ?_ ?_
    | with_reducible apply keeps_wrBytes | with_reducible apply keeps_count | with_reducible apply keeps_evt

theorem keeps_chainErrors {u s : State} (x0 : Nat) (x1 x2 : List Nat) (h : Keeps u s) :
    Keeps u (chainErrors x0 x1 x2 s) := by
  unfold chainErrors
  repeat' first
    | with_reducible assumption | intro _ | with_reducible refine keeps_foldl ?_ ?_
    | with_reducible apply keeps_evtIf | with_reducible apply keeps_eccLine

theorem keeps_takeSink {u s : State} (x0 : Fol) (x1 : Nat) (h : Keeps u s) : Keeps u (takeSink x0 x1 s).2 := by
  unfold takeSink
  repeat' first
    | with_reducible assumption | with_reducible apply keeps_useFree | with_reducible refine keeps_itePair ?_ ?_

theorem keeps_delaySample {u s : State} (x0 : Nat) (x1 : Int) (h : Keeps u s) : Keeps u (delaySample x0 x1 s).2 := by
  unfold delaySample
  dsimp only
  exact keeps_itePair h (keeps_itePair h (keeps_itePair (keeps_useFree _ (keeps_setSnk _ _ (keeps_wrBytes _ _ h)))
    (keeps_setSnk _ _ (keeps_wrBytes _ _ h))))

theorem keeps_delayStage {u s : State} (x0 : Fol) (x1 : Nat) (h : Keeps u s) : Keeps u (delayStage x0 x1 s).2 := by
  unfold delayStage
  repeat' first
    | with_reducible assumption | intro _ | with_reducible refine keeps_forN_pair ?_ ?_
    | with_reducible apply keeps_takeDly | with_reducible apply keeps_setSnk | with_reducible apply keeps_delaySample
    | split

theorem keeps_delayOf {u s : State} (x0 : Fol) (x1 : Nat) (h : Keeps u s) : Keeps u (delayOf x0 x1 s).2 := by
  unfold delayOf
  repeat' first
    | with_reducible assumption | with_reducible apply keeps_takeSink | with_reducible apply keeps_delayStage
    | with_reducible refine keeps_itePair ?_ ?_

theorem keeps_limStage {u s : State} (x0 : Fol) (x1 : Nat) (x2 : List Int) (h : Keeps u s) :
    Keeps u (limStage x0 x1 x2 s).2 := by
  unfold limStage
  repeat' first
    | with_reducible assumption | with_reducible apply keeps_setSnk | with_reducible apply keeps_note
    | with_reducible refine keeps_ite ?_ ?_

theorem keeps_decStage {u s : State} (x0 : Nat) (x1 : List Int) (h : Keeps u s) : Keeps u (decStage x0 x1 s).2 := by
  unfold decStage
  repeat' first
    | with_reducible assumption | with_reducible apply keeps_setSnk | with_reducible refine keeps_ite ?_ ?_
    | with_reducible refine keeps_itePair ?_ ?_

theorem keeps_chainSink {u s : State} (x0 : Nat) (x1 : Nat) (h : Keeps u s) : Keeps u (chainSink x0 x1 s) := by
  unfold chainSink
  dsimp only
  split
  · exact h
  · exact keeps_updFol _ _ (keeps_ite (keeps_count _ _ _ (keeps_evtIf _ _ _ (keeps_tapPoint _ _ _ _ (keeps_decStage _ _
      (keeps_limStage _ _ _ (keeps_delayOf _ _ (keeps_evtIf _ _ _ h)))))))
      (keeps_evtIf _ _ _ (keeps_tapPoint _ _ _ _ (keeps_decStage _ _
      (keeps_limStage _ _ _ (keeps_delayOf _ _ (keeps_evtIf _ _ _ h)))))))

theorem keeps_stageOut {u s : State} (x0 : Bool) (x1 : Nat) (x2 : Word) (h : Keeps u s) :
    Keeps u (stageOut x0 x1 x2 s) := by
  unfold stageOut
  repeat' first | with_reducible assumption | with_reducible apply keeps_setOut

theorem keeps_coefWrite {u s : State} (x0 : Nat) (x1 : Word) (h : Keeps u s) : Keeps u (coefWrite x0 x1 s) := by
  unfold coefWrite
  repeat' first
    | with_reducible assumption | with_reducible apply keeps_evt | with_reducible apply keeps_stageOut
    | with_reducible apply keeps_setReg | with_reducible refine keeps_ite ?_ ?_

theorem keeps_dcfgWriteOp {u s : State} (x0 : Nat) (x1 : Word) (h : Keeps u s) : Keeps u (dcfgWriteOp x0 x1 s) := by
  unfold dcfgWriteOp
  repeat' first
    | with_reducible assumption | with_reducible apply keeps_evt | with_reducible apply keeps_typeWrite
    | with_reducible apply keeps_stageOut | with_reducible apply keeps_setReg | with_reducible refine keeps_ite ?_ ?_

theorem keeps_dlenWriteOp {u s : State} (x0 : Nat) (x1 : Word) (h : Keeps u s) : Keeps u (dlenWriteOp x0 x1 s) := by
  unfold dlenWriteOp
  repeat' first
    | with_reducible assumption | with_reducible apply keeps_evt | with_reducible apply keeps_setReg
    | with_reducible refine keeps_ite ?_ ?_

theorem keeps_dlyWriteOp {u s : State} (x0 : Nat) (x1 : Word) (h : Keeps u s) : Keeps u (dlyWriteOp x0 x1 s) := by
  unfold dlyWriteOp
  repeat' first
    | with_reducible assumption | with_reducible apply keeps_stageOut | with_reducible apply keeps_setReg
    | with_reducible apply keeps_evt | with_reducible refine keeps_ite ?_ ?_

theorem keeps_limWriteOp {u s : State} (x0 : Nat) (x1 : Bool) (x2 : Word) (h : Keeps u s) :
    Keeps u (limWriteOp x0 x1 x2 s) := by
  unfold limWriteOp
  repeat' first
    | with_reducible assumption | with_reducible apply keeps_evt | with_reducible apply keeps_typeWrite
    | with_reducible apply keeps_stageOut | with_reducible refine keeps_ite ?_ ?_

theorem keeps_linkErrors {u s : State} (x0 : Nat) (h : Keeps u s) : Keeps u (linkErrors x0 s) := by
  unfold linkErrors
  repeat' first | with_reducible assumption | with_reducible apply keeps_evtIf

theorem keeps_linkTargets {u s : State} (x0 x1 : Nat) (h : Keeps u s) : Keeps u (linkTargets x0 x1 s) := by
  unfold linkTargets
  repeat' first
    | with_reducible assumption | intro _ | with_reducible refine keeps_foldl ?_ ?_
    | with_reducible apply keeps_delayOf | with_reducible apply keeps_setFol | split

theorem keeps_sinkChainGroupOp {u s : State} (x0 : Nat) (x1 x2 : List Nat) (h : Keeps u s) :
    Keeps u (sinkChainGroupOp x0 x1 x2 s) := by
  unfold sinkChainGroupOp
  repeat' first
    | (intro x; refine keeps_cut (a := Keeps u x) ?_ ?_; intro _; clear_value x) | intro _ | subst x
    | lift_lets -underBinder | with_reducible refine keeps_forN ?_ ?_ | with_reducible apply keeps_applyStaged
    | with_reducible apply keeps_linkErrors | with_reducible apply keeps_linkTargets
    | with_reducible apply keeps_chainErrors | with_reducible apply keeps_chainSink
    | with_reducible apply keeps_updFol | with_reducible apply keeps_hostQueue
    | (with_reducible apply keeps_mk; with_reducible assumption) | split

theorem keeps_fmtWrite {u s : State} (x0 : Nat) (x1 : Word) (h : Keeps u s) : Keeps u (fmtWrite x0 x1 s) := by
  unfold fmtWrite
  repeat' first
    | with_reducible assumption | with_reducible apply keeps_typeWrite | with_reducible refine keeps_ite ?_ ?_

theorem keeps_setArx {u s : State} (x1 : Nat) (x2 : A67) (h : Keeps u s) : Keeps u (State.setArx s x1 x2) := by
  unfold State.setArx
  repeat' first | (with_reducible apply keeps_mk; with_reducible assumption)

theorem keeps_setExc {u s : State} (x1 : Nat) (x2 : ExcCh) (h : Keeps u s) : Keeps u (State.setExc s x1 x2) := by
  unfold State.setExc
  repeat' first | with_reducible assumption | with_reducible apply keeps_setOut

theorem keeps_acquireLockOp {u s : State} (x0 : Nat) (h : Keeps u s) : Keeps u (acquireLockOp x0 s) := by
  unfold acquireLockOp
  repeat' first
    | with_reducible assumption | with_reducible apply keeps_evt | with_reducible apply keeps_setExc
    | with_reducible refine keeps_ite ?_ ?_

theorem keeps_excPush {u s : State} (x0 : Nat) (x1 : ExcIn) (h : Keeps u s) : Keeps u (excPush x0 x1 s) := by
  unfold excPush
  repeat' first | with_reducible assumption | with_reducible apply keeps_setExc | with_reducible apply keeps_wrWord

theorem keeps_excAes67 {u s : State} (x0 x1 : Nat) (h : Keeps u s) : Keeps u (excAes67 x0 x1 s) := by
  unfold excAes67
  repeat' first
    | with_reducible assumption | intro _ | lift_lets -underBinder | with_reducible refine keeps_forN ?_ ?_
    | with_reducible apply keeps_excPush | split

theorem keeps_excTake {u s : State} (x0 : Nat) (h : Keeps u s) : Keeps u (excTake x0 s) := by
  unfold excTake
  repeat' first
    | with_reducible assumption | (intro x; clear_value x) | lift_lets -underBinder
    | with_reducible apply keeps_setExc | split

theorem keeps_excBoundary {u s : State} (h : Keeps u s) : Keeps u (excBoundary s) := by
  unfold excBoundary
  repeat' first
    | with_reducible assumption | intro _ | with_reducible refine keeps_foldl ?_ ?_
    | with_reducible apply keeps_excTake

theorem keeps_excCfgWriteOp {u s : State} (x0 : Nat) (x1 : Word) (h : Keeps u s) :
    Keeps u (excCfgWriteOp x0 x1 s) := by
  unfold excCfgWriteOp
  repeat' first
    | with_reducible assumption | with_reducible apply keeps_evt | with_reducible apply keeps_typeWrite
    | with_reducible apply keeps_setExc | with_reducible refine keeps_ite ?_ ?_

theorem keeps_excFeed {u s : State} (x0 : Nat) (x1 : ExcIn) (h : Keeps u s) : Keeps u (excFeed x0 x1 s) := by
  unfold excFeed
  repeat' first
    | with_reducible assumption | intro _ | with_reducible refine keeps_foldl ?_ ?_
    | with_reducible apply keeps_excPush | with_reducible refine keeps_ite ?_ ?_

theorem keeps_fadeAdvance {u s : State} (x0 : Nat) (h : Keeps u s) : Keeps u (fadeAdvance x0 s) := by
  unfold fadeAdvance
  repeat' first
    | with_reducible assumption | (intro x; clear_value x) | lift_lets -underBinder
    | with_reducible apply keeps_setExc | split

theorem keeps_syncAdvance {u s : State} (x0 : Nat) (h : Keeps u s) : Keeps u (syncAdvance x0 s) := by
  unfold syncAdvance
  repeat' first
    | with_reducible assumption | with_reducible apply keeps_setExc | with_reducible apply keeps_evt
    | with_reducible apply keeps_count | with_reducible refine keeps_ite ?_ ?_

theorem keeps_excRecord {u s : State} (x0 x1 : Nat) (h : Keeps u s) : Keeps u (excRecord x0 x1 s) := by
  unfold excRecord
  repeat' first | with_reducible assumption | with_reducible apply keeps_wrWord

theorem keeps_excRender {u s : State} (x0 x1 : Nat) (h : Keeps u s) : Keeps u (excRender x0 x1 s) := by
  unfold excRender
  repeat' first
    | with_reducible assumption | intro _ | with_reducible refine keeps_forN ?_ ?_
    | with_reducible apply keeps_excAes67 | with_reducible apply keeps_setExc | with_reducible apply keeps_wrWord
    | with_reducible apply keeps_setOut | with_reducible apply keeps_useFree | with_reducible refine keeps_ite ?_ ?_

theorem keeps_excFolio {u s : State} (x0 : Nat) (h : Keeps u s) : Keeps u (excFolio x0 s) := by
  unfold excFolio
  repeat' first
    | with_reducible assumption | intro _ | with_reducible refine keeps_foldl ?_ ?_
    | with_reducible apply keeps_setOut | with_reducible apply keeps_fadeAdvance
    | with_reducible apply keeps_syncAdvance | with_reducible apply keeps_excRecord
    | with_reducible apply keeps_excRender

theorem keeps_excPowerOn {u s : State} (h : Keeps u s) : Keeps u (excPowerOn s) := by
  unfold excPowerOn
  repeat' first | with_reducible assumption | with_reducible apply keeps_resetRegs | with_reducible apply keeps_setOut

theorem keeps_excTaint {u s : State} (x0 : Nat) (h : Keeps u s) : Keeps u (excTaint x0 s) := by
  unfold excTaint
  repeat' first
    | with_reducible assumption | with_reducible apply keeps_setExc | with_reducible apply keeps_useFree
    | with_reducible apply keeps_setOut | with_reducible refine keeps_ite ?_ ?_

theorem keeps_inputLossOp {u s : State} (x0 x1 : Nat) (h : Keeps u s) : Keeps u (inputLossOp x0 x1 s) := by
  unfold inputLossOp
  repeat' first
    | with_reducible assumption | with_reducible apply keeps_setExc | with_reducible apply keeps_count
    | with_reducible apply keeps_evtIf | with_reducible apply keeps_evt | with_reducible refine keeps_ite ?_ ?_

theorem keeps_inputResumeOp {u s : State} (x0 x1 : Nat) (h : Keeps u s) : Keeps u (inputResumeOp x0 x1 s) := by
  unfold inputResumeOp
  repeat' first
    | with_reducible assumption | with_reducible apply keeps_setExc | with_reducible refine keeps_ite ?_ ?_

theorem keeps_phaseErrorOp {u s : State} (x0 : Nat) (h : Keeps u s) : Keeps u (phaseErrorOp x0 s) := by
  unfold phaseErrorOp
  repeat' first
    | with_reducible assumption | with_reducible apply keeps_setExc | with_reducible refine keeps_ite ?_ ?_

theorem keeps_syncRatioCheckOp {u s : State} (x0 : Nat) (x1 : Int) (h : Keeps u s) :
    Keeps u (syncRatioCheckOp x0 x1 s) := by
  unfold syncRatioCheckOp
  repeat' first
    | with_reducible assumption | with_reducible apply keeps_evtIf | with_reducible apply keeps_setExc
    | with_reducible refine keeps_ite ?_ ?_

theorem keeps_setSap {u s : State} (x1 : Nat) (x2 : SapPort) (h : Keeps u s) : Keeps u (State.setSap s x1 x2) := by
  unfold State.setSap
  repeat' first | (with_reducible apply keeps_mk; with_reducible assumption)

theorem keeps_setTill {u s : State} (x1 : Nat) (x2 : TillPort) (h : Keeps u s) : Keeps u (State.setTill s x1 x2) := by
  unfold State.setTill
  repeat' first | (with_reducible apply keeps_mk; with_reducible assumption)

theorem keeps_sapPlace {u s : State} (x0 : Nat) (h : Keeps u s) : Keeps u (sapPlace x0 s) := by
  unfold sapPlace
  repeat' first | with_reducible assumption | with_reducible apply keeps_setSap

theorem keeps_sapAlignOp {u s : State} (x0 : Word) (h : Keeps u s) : Keeps u (sapAlignOp x0 s) := by
  unfold sapAlignOp
  repeat' first
    | with_reducible assumption | intro _ | with_reducible refine keeps_foldl ?_ ?_
    | with_reducible apply keeps_sapPlace | with_reducible refine keeps_ite ?_ ?_

theorem keeps_sapCfgWriteOp {u s : State} (x0 : Nat) (x1 : Word) (h : Keeps u s) :
    Keeps u (sapCfgWriteOp x0 x1 s) := by
  unfold sapCfgWriteOp
  repeat' first
    | with_reducible assumption | with_reducible apply keeps_evtIf | with_reducible apply keeps_evt | with_reducible apply keeps_typeWrite
    | with_reducible apply keeps_sapPlace | with_reducible apply keeps_setSap | with_reducible refine keeps_ite ?_ ?_

theorem keeps_sapToExc {u s : State} (x0 : Nat) (x1 : Nat → Word) (x2 x3 : Nat) (h : Keeps u s) :
    Keeps u (sapToExc x0 x1 x2 x3 s) := by
  unfold sapToExc
  repeat' first
    | with_reducible assumption | intro _ | with_reducible refine keeps_forN ?_ ?_
    | with_reducible apply keeps_excFeed

theorem keeps_sapSlip {u s : State} (h : Keeps u s) : Keeps u (sapSlip s) := by
  unfold sapSlip
  repeat' first | with_reducible assumption | with_reducible apply keeps_evt | with_reducible apply keeps_count

theorem keeps_sapFills {u s : State} (x0 : Nat) (h : Keeps u s) : Keeps u (sapFills x0 s) := by
  unfold sapFills
  repeat' first
    | with_reducible assumption | with_reducible apply keeps_setSap | with_reducible apply keeps_cdcErr
    | with_reducible apply keeps_sapSlip | with_reducible refine keeps_ite ?_ ?_

theorem keeps_slaveFrameOp {u s : State} (x0 x1 : Nat) (x2 : List Word) (h : Keeps u s) :
    Keeps u (slaveFrameOp x0 x1 x2 s) := by
  unfold slaveFrameOp
  repeat' first
    | with_reducible assumption | with_reducible apply keeps_evt | with_reducible apply keeps_sapToExc
    | with_reducible apply keeps_sapFills | with_reducible apply keeps_setSap | with_reducible refine keeps_ite ?_ ?_

theorem keeps_tilWmWriteOp {u s : State} (x0 : Nat) (x1 : Word) (h : Keeps u s) : Keeps u (tilWmWriteOp x0 x1 s) := by
  unfold tilWmWriteOp
  repeat' first
    | with_reducible assumption | with_reducible apply keeps_typeWrite | with_reducible apply keeps_setTill
    | with_reducible apply keeps_evt | with_reducible refine keeps_ite ?_ ?_

theorem keeps_tillHoldOp {u s : State} (x0 : Nat) (x1 : Bool) (h : Keeps u s) : Keeps u (tillHoldOp x0 x1 s) := by
  unfold tillHoldOp
  repeat' first | with_reducible assumption | with_reducible apply keeps_setTill

theorem keeps_tillToExc {u s : State} (x0 : Nat) (x1 : Word) (x2 : Bool) (h : Keeps u s) :
    Keeps u (tillToExc x0 x1 x2 s) := by
  unfold tillToExc
  repeat' first
    | with_reducible assumption | with_reducible apply keeps_setTill | with_reducible apply keeps_excFeed
    | with_reducible refine keeps_ite ?_ ?_

theorem keeps_tillWordReceivedOp {u s : State} (x0 : Nat) (x1 : Word) (x2 : Bool) (h : Keeps u s) :
    Keeps u (tillWordReceivedOp x0 x1 x2 s) := by
  unfold tillWordReceivedOp
  repeat' first
    | with_reducible assumption | with_reducible apply keeps_cdcErr | with_reducible apply keeps_evt
    | with_reducible apply keeps_setTill | with_reducible apply keeps_tillToExc
    | with_reducible refine keeps_ite ?_ ?_

theorem keeps_tillWordSentOp {u s : State} (x0 : Nat) (h : Keeps u s) : Keeps u (tillWordSentOp x0 s) := by
  unfold tillWordSentOp
  repeat' first
    | with_reducible assumption | (intro x; clear_value x) | lift_lets -underBinder
    | with_reducible apply keeps_setTill | split

theorem keeps_omapWrite {u s : State} (x0 : Nat) (x1 : Word) (h : Keeps u s) : Keeps u (omapWrite x0 x1 s) := by
  unfold omapWrite
  repeat' first
    | with_reducible assumption | with_reducible apply keeps_evt | with_reducible apply keeps_typeWrite
    | with_reducible refine keeps_ite ?_ ?_

theorem keeps_sapBoundary {u s : State} (x0 x1 : Nat) (h : Keeps u s) : Keeps u (sapBoundary x0 x1 s) := by
  unfold sapBoundary
  repeat' first
    | with_reducible assumption | with_reducible apply keeps_setSap | with_reducible apply keeps_setFld | with_reducible apply keeps_evt
    | with_reducible apply keeps_sapSlip | with_reducible apply keeps_sapPlace
    | with_reducible refine keeps_ite ?_ ?_

theorem keeps_sapCapture {u s : State} (x0 x1 : Nat) (h : Keeps u s) : Keeps u (sapCapture x0 x1 s) := by
  unfold sapCapture
  repeat' first
    | with_reducible assumption | intro _ | with_reducible refine keeps_forN ?_ ?_
    | with_reducible apply keeps_setSap | with_reducible apply keeps_sapToExc | with_reducible apply keeps_sapFills
    | with_reducible refine keeps_ite ?_ ?_

theorem keeps_sapEgress {u s : State} (x0 : Option Fol) (x1 : Nat → Nat → Word → Word) (x2 : Nat) (h : Keeps u s) :
    Keeps u (sapEgress x0 x1 x2 s) := by
  unfold sapEgress
  repeat' first
    | with_reducible assumption | with_reducible apply keeps_evtIf | with_reducible apply keeps_setSap
    | with_reducible apply keeps_sapFills | with_reducible refine keeps_ite ?_ ?_

theorem keeps_tilCfgWrite {u s : State} (x0 : Nat) (x1 : Word) (h : Keeps u s) : Keeps u (tilCfgWrite x0 x1 s) :=
  keeps_evtIf _ _ _ (keeps_typeWrite _ _ h)

theorem keeps_tillEgress {u s : State} (x0 : Fol) (x1 x2 : Nat) (h : Keeps u s) :
    Keeps u (tillEgress x0 x1 x2 s) := by
  unfold tillEgress
  repeat' first
    | with_reducible assumption | with_reducible apply keeps_evt | with_reducible apply keeps_evtIf
    | with_reducible apply keeps_setTill | with_reducible refine keeps_ite ?_ ?_

theorem keeps_tillTake {u s : State} (x0 : Nat) (h : Keeps u s) : Keeps u (tillTake x0 s) := by
  unfold tillTake
  repeat' first
    | with_reducible assumption | with_reducible apply keeps_setTill | with_reducible apply keeps_evtIf
    | with_reducible apply keeps_cdcErr | with_reducible apply keeps_evt | with_reducible refine keeps_ite ?_ ?_

theorem keeps_txmapWrite {u s : State} (x0 : Nat) (x1 : Word) (h : Keeps u s) : Keeps u (txmapWrite x0 x1 s) := by
  unfold txmapWrite
  repeat' first
    | with_reducible assumption | with_reducible apply keeps_evt | with_reducible apply keeps_typeWrite
    | with_reducible refine keeps_ite ?_ ?_

theorem keeps_admitTask {u s : State} (x0 x1 : Nat) (x2 : Verdict) (x3 : LateData) (x4 : List Nat) (h : Keeps u s) :
    Keeps u (admitTask x0 x1 x2 x3 x4 s) := by
  unfold admitTask
  repeat' first
    | with_reducible assumption | with_reducible apply keeps_count | with_reducible apply keeps_setFol | split

theorem keeps_refuse {u s : State} (x0 : List Nat) (h : Keeps u s) : Keeps u (refuse x0 s) := by
  unfold refuse
  repeat' first
    | with_reducible assumption | with_reducible apply keeps_evt | with_reducible apply keeps_count
    | with_reducible refine keeps_ite ?_ ?_

theorem keeps_refuseLate {u s : State} (x0 x1 : Nat) (x2 : LateData) (x3 : List Nat) (h : Keeps u s) :
    Keeps u (refuseLate x0 x1 x2 x3 s) := by
  unfold refuseLate
  repeat' first
    | with_reducible assumption | with_reducible apply keeps_refuse | with_reducible apply keeps_evt | split

theorem keeps_decideTask {u s : State} (x0 : Nat) (x1 : LateData) (x2 : Nat) (x3 : List Nat) (x4 : Int) (x5 : Bool) (h : Keeps u s) :
    Keeps u (decideTask x0 x1 x2 x3 x4 x5 s) := by
  unfold decideTask
  repeat' first
    | with_reducible assumption | (intro x; clear_value x) | lift_lets -underBinder
    | with_reducible apply keeps_setPst | with_reducible apply keeps_admitTask
    | with_reducible apply keeps_refuseLate | split

theorem keeps_decideLate {u s : State} (x0 : Nat) (x1 : LateData) (x2 : List Nat) (x3 : Int) (x4 : Bool) (h : Keeps u s) :
    Keeps u (decideLate x0 x1 x2 x3 x4 s) := by
  unfold decideLate
  repeat' first
    | with_reducible assumption | intro _ | with_reducible refine keeps_foldl ?_ ?_
    | with_reducible apply keeps_count | with_reducible apply keeps_setFol | with_reducible apply keeps_decideTask
    | split

theorem keeps_adoptReceipt {u s : State} (x0 : List Nat) (x1 : Nat) (x2 : Int) (x3 : Bool) (h : Keeps u s) :
    Keeps u (adoptReceipt x0 x1 x2 x3 s) := by
  unfold adoptReceipt
  repeat' first | with_reducible assumption | with_reducible apply keeps_decideLate | split

theorem keeps_countLate {u s : State} (h : Keeps u s) : Keeps u (countLate s) := by
  unfold countLate
  repeat' first | with_reducible assumption | with_reducible apply keeps_evt | with_reducible apply keeps_count

theorem keeps_lateArrival {u s : State} (x0 : Arrival) (x1 : Int) (h : Keeps u s) :
    Keeps u (lateArrival x0 x1 s) := by
  unfold lateArrival
  repeat' first
    | with_reducible assumption | (intro x; refine keeps_cut (a := Keeps u x) ?_ ?_; intro _; clear_value x)
    | (intro x; clear_value x) | lift_lets -underBinder | with_reducible apply keeps_setFol
    | with_reducible apply keeps_decideLate | with_reducible apply keeps_refuse | split

theorem keeps_redispatch {u s : State} (x0 x1 : Nat) (h : Keeps u s) : Keeps u (redispatch x0 x1 s) := by
  unfold redispatch
  repeat' first
    | with_reducible assumption | with_reducible apply keeps_fillInputs | with_reducible apply keeps_startRun
    | with_reducible apply keeps_discard | with_reducible apply keeps_updFol | with_reducible refine keeps_ite ?_ ?_

theorem keeps_onTimeArrival {u s : State} (x0 : Arrival) (h : Keeps u s) : Keeps u (onTimeArrival x0 s) := by
  unfold onTimeArrival
  repeat' first
    | with_reducible assumption | intro _ | with_reducible refine keeps_foldl ?_ ?_
    | with_reducible apply keeps_redispatch | with_reducible apply keeps_setFol | split

theorem keeps_keepArrival {u s : State} (x0 : Arrival) (h : Keeps u s) : Keeps u (keepArrival x0 s) := by
  unfold keepArrival
  repeat' first | with_reducible assumption | with_reducible apply keeps_setPst | split

theorem keeps_arrive {u s : State} (x0 : Arrival) (x1 : Int) (h : Keeps u s) : Keeps u (arrive x0 x1 s) := by
  unfold arrive
  repeat' first
    | with_reducible assumption | (intro x; clear_value x) | lift_lets -underBinder
    | with_reducible apply keeps_count | with_reducible apply keeps_countLate
    | with_reducible apply keeps_lateArrival | with_reducible apply keeps_onTimeArrival
    | with_reducible apply keeps_setPst | with_reducible apply keeps_keepArrival | split

theorem keeps_concealMore {u s : State} (x0 : Nat) (h : Keeps u s) : Keeps u (concealMore x0 s) := by
  unfold concealMore
  repeat' first | with_reducible assumption | with_reducible apply keeps_setPst

theorem keeps_decideEarly {u s : State} (x0 : Nat) (h : Keeps u s) : Keeps u (decideEarly x0 s) := by
  unfold decideEarly
  repeat' first
    | with_reducible assumption | intro _ | lift_lets -underBinder | with_reducible refine keeps_foldl ?_ ?_
    | with_reducible apply keeps_setPst | with_reducible apply keeps_lateArrival
    | with_reducible apply keeps_adoptReceipt | split

theorem keeps_dropFolio {u s : State} (x0 : Nat) (h : Keeps u s) : Keeps u (dropFolio x0 s) := by
  unfold dropFolio
  repeat' first
    | (intro x; refine keeps_cut (a := Keeps u x) ?_ ?_; intro _; clear_value x) | intro _ | lift_lets -underBinder
    | with_reducible refine keeps_forN ?_ ?_ | with_reducible refine keeps_foldl ?_ ?_
    | with_reducible apply keeps_stopRun | with_reducible apply keeps_discard | with_reducible apply keeps_setPst
    | (with_reducible apply keeps_mk; with_reducible assumption) | split

theorem keeps_entryCutOp {u s : State} (h : Keeps u s) : Keeps u (entryCutOp s) := by
  unfold entryCutOp
  repeat' first
    | with_reducible assumption | intro _ | with_reducible refine keeps_foldl ?_ ?_
    | with_reducible apply keeps_stepGates | with_reducible apply keeps_applyCtxCmds
    | with_reducible apply keeps_setPst | with_reducible apply keeps_setReg | with_reducible apply keeps_fillInputs
    | with_reducible apply keeps_decideEarly | with_reducible apply keeps_advanceGates
    | with_reducible refine keeps_ite ?_ ?_

theorem keeps_mixGroup {u s : State} (x0 : Fol) (x1 : Nat) (x2 : Nat → Bool) (h : Keeps u s) :
    Keeps u (mixGroup x0 x1 x2 s).2 := by
  unfold mixGroup
  repeat' first
    | with_reducible assumption | intro _ | with_reducible refine keeps_forN_pair ?_ ?_
    | with_reducible apply keeps_mixSink | with_reducible apply keeps_count
    | with_reducible refine keeps_itePair ?_ ?_

theorem keeps_groupMixEndOp {u s : State} (x0 : List Nat) (h : Keeps u s) : Keeps u (groupMixEndOp x0 s) := by
  unfold groupMixEndOp
  repeat' first
    | with_reducible assumption | intro _ | with_reducible refine keeps_foldl ?_ ?_
    | with_reducible apply keeps_evtIf | with_reducible apply keeps_setLdg | with_reducible apply keeps_mixGroup
    | with_reducible apply keeps_setFol | with_reducible apply keeps_fillInputs | with_reducible apply keeps_setReg
    | with_reducible apply keeps_settle | split

theorem keeps_shadowBoundary {u s : State} (h : Keeps u s) : Keeps u (shadowBoundary s) := by
  unfold shadowBoundary
  repeat' first
    | with_reducible assumption | with_reducible apply keeps_setBit | with_reducible refine keeps_ite ?_ ?_

theorem keeps_subsBoundary {u s : State} (h : Keeps u s) : Keeps u (subsBoundary s) := by
  unfold subsBoundary
  repeat' first | (with_reducible apply keeps_mk; with_reducible assumption)

theorem keeps_slotEnd {u s : State} (x0 : Bool) (h : Keeps u s) : Keeps u (slotEnd x0 s) := by
  unfold slotEnd
  repeat' first
    | with_reducible assumption | with_reducible apply keeps_excBoundary | with_reducible apply keeps_ledgerBoundary
    | with_reducible apply keeps_setPst

theorem keeps_gatesBack {u s : State} (h : Keeps u s) : Keeps u (gatesBack s) := by
  unfold gatesBack
  repeat' first | with_reducible assumption | with_reducible apply keeps_restoreGates | split

theorem keeps_slip {u s : State} (h : Keeps u s) : Keeps u (slip s) := by
  unfold slip
  repeat' first | with_reducible assumption | with_reducible apply keeps_evt | with_reducible apply keeps_count

theorem keeps_slotBegin {u s : State} (x0 : Fol) (h : Keeps u s) : Keeps u (slotBegin x0 s) := by
  unfold slotBegin
  repeat' first
    | (intro x; refine keeps_cut (a := Keeps u x) ?_ ?_; intro _; clear_value x) | intro _ | lift_lets -underBinder
    | with_reducible refine keeps_foldl ?_ ?_ | with_reducible apply keeps_deliver
    | with_reducible apply keeps_updFol | with_reducible apply keeps_setPst | with_reducible apply keeps_setLdg
    | with_reducible apply keeps_tapRows | with_reducible apply keeps_decideTask
    | (with_reducible apply keeps_mk; with_reducible assumption)

theorem keeps_mixSlotStartOp {u s : State} (h : Keeps u s) : Keeps u (mixSlotStartOp s) := by
  unfold mixSlotStartOp
  repeat' first
    | with_reducible assumption | intro _ | lift_lets -underBinder | with_reducible refine keeps_foldl ?_ ?_
    | with_reducible apply keeps_shadowBoundary | with_reducible apply keeps_subsBoundary
    | with_reducible apply keeps_slotEnd | with_reducible apply keeps_timeBoundary
    | with_reducible apply keeps_dropFolio | with_reducible apply keeps_gatesBack | with_reducible apply keeps_slip
    | with_reducible apply keeps_setPst | with_reducible apply keeps_concealMore
    | with_reducible apply keeps_slotBegin | split

theorem keeps_pstCutWriteOp {u s : State} (x0 : Word) (h : Keeps u s) : Keeps u (pstCutWriteOp x0 s) := by
  unfold pstCutWriteOp
  repeat' first
    | with_reducible assumption | with_reducible apply keeps_evt | with_reducible apply keeps_typeWrite
    | with_reducible apply keeps_setPst | with_reducible refine keeps_ite ?_ ?_

theorem keeps_pstCtrlWriteOp {u s : State} (x0 : Word) (h : Keeps u s) : Keeps u (pstCtrlWriteOp x0 s) := by
  unfold pstCtrlWriteOp
  repeat' first
    | with_reducible assumption | intro _ | with_reducible refine keeps_foldl ?_ ?_
    | with_reducible apply keeps_typeWrite | with_reducible apply keeps_setBit | with_reducible apply keeps_setPst
    | with_reducible apply keeps_gatesBack | with_reducible apply keeps_dropFolio
    | with_reducible apply keeps_slotEnd | with_reducible refine keeps_ite ?_ ?_

theorem keeps_pstWinWriteOp {u s : State} (x0 : Word) (h : Keeps u s) : Keeps u (pstWinWriteOp x0 s) := by
  unfold pstWinWriteOp
  repeat' first
    | with_reducible assumption | with_reducible apply keeps_evt | with_reducible apply keeps_typeWrite
    | with_reducible refine keeps_ite ?_ ?_

theorem keeps_sinkRerun {u s : State} (x0 : Nat) (x1 : Int) (x2 : Nat) (h : Keeps u s) :
    Keeps u (sinkRerun x0 x1 x2 s) := by
  unfold sinkRerun
  repeat' first
    | with_reducible assumption | (intro x; refine keeps_cut (a := Keeps u x) ?_ ?_; intro _; clear_value x)
    | lift_lets -underBinder | with_reducible apply keeps_fillInputs | with_reducible apply keeps_setFol | split

theorem keeps_remixEndOp {u s : State} (h : Keeps u s) : Keeps u (remixEndOp s) := by
  unfold remixEndOp
  repeat' first
    | with_reducible assumption | intro _ | with_reducible refine keeps_foldl ?_ ?_
    | with_reducible apply keeps_mixGroup | with_reducible apply keeps_setFol | with_reducible apply keeps_sinkRerun
    | with_reducible apply keeps_latchFld | with_reducible apply keeps_settle | with_reducible apply keeps_count
    | split

theorem keeps_recut {u s : State} (x0 x1 : Nat) (h : Keeps u s) : Keeps u (recut x0 x1 s) := by
  unfold recut
  repeat' first
    | with_reducible assumption | intro _ | with_reducible refine keeps_foldl ?_ ?_
    | with_reducible apply keeps_stepGates | with_reducible apply keeps_restoreGates
    | with_reducible apply keeps_advanceGates | with_reducible apply keeps_setFol
    | with_reducible apply keeps_redispatch | split

theorem keeps_repointWriteOp {u s : State} (x0 : Word) (h : Keeps u s) : Keeps u (repointWriteOp x0 s) := by
  unfold repointWriteOp
  repeat' first
    | with_reducible assumption | (intro x; refine keeps_cut (a := Keeps u x) ?_ ?_; intro _; clear_value x)
    | (intro x; clear_value x) | lift_lets -underBinder | with_reducible apply keeps_repointOp
    | with_reducible apply keeps_recut | split

theorem keeps_refuseDeferred {u s : State} (x0 : Nat) (h : Keeps u s) : Keeps u (refuseDeferred x0 s) := by
  unfold refuseDeferred
  repeat' first
    | with_reducible assumption | intro _ | with_reducible refine keeps_foldl ?_ ?_
    | with_reducible apply keeps_refuseLate | with_reducible apply keeps_setPst

theorem keeps_writeMap {u s : State} (x0 : Nat → Nat) (x1 : List Nat) (h : Keeps u s) :
    Keeps u (writeMap x0 x1 s) := by
  unfold writeMap
  repeat' first
    | with_reducible assumption | intro _ | with_reducible refine keeps_forN ?_ ?_
    | with_reducible apply keeps_setReg

theorem keeps_postFolio {u s : State} (x0 : Fol) (h : Keeps u s) : Keeps u (postFolio x0 s) := by
  unfold postFolio
  repeat' first
    | with_reducible assumption | intro _ | with_reducible refine keeps_foldl ?_ ?_
    | with_reducible apply keeps_refuseDeferred | with_reducible apply keeps_setFol
    | with_reducible apply keeps_useFree | with_reducible apply keeps_setPst | with_reducible apply keeps_count
    | with_reducible apply keeps_raise | with_reducible apply keeps_writeMap | with_reducible apply keeps_setReg
    | with_reducible apply keeps_commit | with_reducible apply keeps_tapPoint | with_reducible apply keeps_swapPosted
    | with_reducible apply keeps_settle | with_reducible apply keeps_tapRows | with_reducible refine keeps_ite ?_ ?_

theorem keeps_aaddOp {u s : State} (x0 : Nat) (x1 : Pred) (x2 : FmtCN) (x3 : Int → BitVec 80 × Nat) (h : Keeps u s) :
    Keeps u (aaddOp x0 x1 x2 x3 s) := by
  unfold aaddOp
  repeat' first | with_reducible assumption | with_reducible apply keeps_computeOp

theorem keeps_accToData {u s : State} (x0 : Nat) (x1 : Pred) (x2 : FmtCN) (x3 : Int → Word × Nat) (h : Keeps u s) :
    Keeps u (accToData x0 x1 x2 x3 s) := by
  unfold accToData
  repeat' first | with_reducible assumption | with_reducible apply keeps_computeOp

theorem keeps_cmpOp {u s : State} (x0 : Nat) (x1 : Pred) (x2 : FmtCR3) (x3 : Int → Int → Bool) (h : Keeps u s) :
    Keeps u (cmpOp x0 x1 x2 x3 s) := by
  unfold cmpOp
  repeat' first | with_reducible assumption | with_reducible apply keeps_computeOp

theorem keeps_dataOp {u s : State} (x0 : Nat) (x1 : Pred) (x2 : Nat) (x3 : Core → Word × Nat) (h : Keeps u s) :
    Keeps u (dataOp x0 x1 x2 x3 s) := by
  unfold dataOp
  repeat' first | with_reducible assumption | with_reducible apply keeps_computeOp

theorem keeps_dotOp {u s : State} (x0 : Nat) (x1 : Pred) (x2 : FmtCM) (x3 : Int → Int → BitVec 80 × Nat) (h : Keeps u s) :
    Keeps u (dotOp x0 x1 x2 x3 s) := by
  unfold dotOp
  repeat' first | with_reducible assumption | with_reducible apply keeps_computeOp

theorem keeps_mulOp {u s : State} (x0 : Nat) (x1 : Pred) (x2 : FmtCM) (x3 : Int → Int → BitVec 80 × Nat) (h : Keeps u s) :
    Keeps u (mulOp x0 x1 x2 x3 s) := by
  unfold mulOp
  repeat' first | with_reducible assumption | with_reducible apply keeps_computeOp

theorem keeps_nopOp {u s : State} (x0 : Nat) (x1 : Bool) (x2 : Nat) (h : Keeps u s) : Keeps u (nopOp x0 x1 x2 s) := by
  unfold nopOp
  dsimp only
  split
  · exact h
  · exact keeps_ite (keeps_moveOp _ _ _ _ (fun _ _ _ => MoveRes.keeps_done _ _ _ h) h) (keeps_computeOp _ _ _ _ _ h)

theorem keeps_searchOp {u s : State} (x0 : Nat) (x1 : Pred) (x2 : FmtCS) (x3 : Int → Int → Bool) (h : Keeps u s) :
    Keeps u (searchOp x0 x1 x2 x3 s) := by
  unfold searchOp
  repeat' first | with_reducible assumption | with_reducible apply keeps_computeOp

theorem keeps_vcmpOp {u s : State} (x0 : Nat) (x1 : Pred) (x2 : FmtCR3) (x3 : Int → Int → Bool) (h : Keeps u s) :
    Keeps u (vcmpOp x0 x1 x2 x3 s) := by
  unfold vcmpOp
  repeat' first | with_reducible assumption | with_reducible apply keeps_computeOp

theorem keeps_vmacOp {u s : State} (x0 : Nat) (x1 : Pred) (x2 : FmtCM) (x3 : Int → Int → BitVec 80 × Nat) (h : Keeps u s) :
    Keeps u (vmacOp x0 x1 x2 x3 s) := by
  unfold vmacOp
  repeat' first | with_reducible assumption | with_reducible apply keeps_computeOp

end Sys2Proof.Machine
end

