-- ==== Sys2Proof/Laws/KeepsField.lean ====
section
/-! SUPPORT. What the field die keep: one lemma `keeps_<operation>` per operation, in the
relation of Laws/Keeps.lean. -/

set_option maxRecDepth 4000

namespace Sys2Proof.Machine

theorem keeps_setField {u s : State} (x1 : Field) (h : Keeps u s) : Keeps u (State.setField s x1) := by
  unfold State.setField
  repeat' first | (with_reducible apply keeps_mk; with_reducible assumption)

theorem keeps_setBst {u s : State} (x1 : Nat) (x2 : Bst) (h : Keeps u s) : Keeps u (State.setBst s x1 x2) := by
  unfold State.setBst
  repeat' first | with_reducible assumption | with_reducible apply keeps_setField

theorem keeps_setChan {u s : State} (x1 : Nat) (x2 : Chan) (h : Keeps u s) : Keeps u (State.setChan s x1 x2) := by
  unfold State.setChan
  repeat' first | with_reducible assumption | with_reducible apply keeps_setField

theorem keeps_setOvr {u s : State} (x1 : Nat) (x2 : OvrCh) (h : Keeps u s) : Keeps u (State.setOvr s x1 x2) := by
  unfold State.setOvr
  repeat' first | with_reducible assumption | with_reducible apply keeps_setField

theorem keeps_enterOff {u s : State} (x0 : Nat) (h : Keeps u s) : Keeps u (enterOff x0 s) := by
  unfold enterOff
  repeat' first
    | with_reducible assumption | with_reducible apply keeps_setChan | with_reducible apply keeps_setOvr | split

theorem keeps_foutSettle {u s : State} (h : Keeps u s) : Keeps u (foutSettle s) := by
  unfold foutSettle
  repeat' first | with_reducible assumption | with_reducible apply keeps_fevtIf | with_reducible apply keeps_setBit

theorem keeps_foutWrite {u s : State} (x0 : Word) (h : Keeps u s) : Keeps u (foutWrite x0 s) := by
  unfold foutWrite
  repeat' first
    | with_reducible assumption | with_reducible apply keeps_typeWrite | with_reducible apply keeps_setBit
    | with_reducible refine keeps_ite ?_ ?_

theorem keeps_messageStart {u s : State} (x0 x1 : Nat) (x2 : OvrWait) (h : Keeps u s) :
    Keeps u (messageStart x0 x1 x2 s) := by
  unfold messageStart
  repeat' first
    | with_reducible assumption | with_reducible apply keeps_setChan | with_reducible apply keeps_setOvr | split

theorem keeps_renumber {u s : State} (x0 : Int) (h : Keeps u s) : Keeps u (renumber x0 s) := by
  unfold renumber
  repeat' first
    | with_reducible assumption | with_reducible apply keeps_setField | with_reducible refine keeps_ite ?_ ?_

theorem keeps_sourceOut {u s : State} (x0 x1 : Nat) (h : Keeps u s) : Keeps u (sourceOut x0 x1 s) := by
  unfold sourceOut
  repeat' first | with_reducible assumption | with_reducible apply keeps_setChan

theorem keeps_faultMsg {u s : State} (x1 x2 x3 : Nat) (h : Keeps u s) : Keeps u (State.faultMsg s x1 x2 x3) := by
  unfold State.faultMsg
  repeat' first
    | with_reducible assumption | with_reducible apply keeps_fieldQueue | with_reducible apply keeps_fevtC
    | with_reducible refine keeps_ite ?_ ?_

theorem keeps_applyEnvelope {u s : State} (x0 : Nat) (x1 : Nat → Nat) (h : Keeps u s) :
    Keeps u (applyEnvelope x0 x1 s) := by
  unfold applyEnvelope
  repeat' first | with_reducible assumption | with_reducible apply keeps_setField

theorem keeps_avoidanceRunCompleteOp {u s : State} (h : Keeps u s) : Keeps u (avoidanceRunCompleteOp s) := by
  unfold avoidanceRunCompleteOp
  repeat' first
    | with_reducible assumption | with_reducible apply keeps_setReg | with_reducible apply keeps_fevt
    | with_reducible apply keeps_setField | split

theorem keeps_avoidanceRunOp {u s : State} (x0 : Word) (h : Keeps u s) : Keeps u (avoidanceRunOp x0 s) := by
  unfold avoidanceRunOp
  repeat' first
    | with_reducible assumption | with_reducible apply keeps_typeWrite | with_reducible apply keeps_fevt
    | with_reducible apply keeps_setBit | with_reducible apply keeps_setField | with_reducible refine keeps_ite ?_ ?_

theorem keeps_boostOcPersistOp {u s : State} (x0 : Nat) (h : Keeps u s) : Keeps u (boostOcPersistOp x0 s) := by
  unfold boostOcPersistOp
  repeat' first
    | with_reducible assumption | with_reducible apply keeps_setBst | with_reducible apply keeps_fevtC
    | with_reducible refine keeps_ite ?_ ?_

theorem keeps_boostOverCurrentOp {u s : State} (x0 x1 : Nat) (h : Keeps u s) :
    Keeps u (boostOverCurrentOp x0 x1 s) := by
  unfold boostOverCurrentOp
  repeat' first
    | with_reducible assumption | with_reducible apply keeps_fevtC | with_reducible apply keeps_setBst
    | with_reducible refine keeps_ite ?_ ?_

theorem keeps_boostOverVoltageOp {u s : State} (x0 x1 : Nat) (h : Keeps u s) :
    Keeps u (boostOverVoltageOp x0 x1 s) := by
  unfold boostOverVoltageOp
  repeat' first
    | with_reducible assumption | with_reducible apply keeps_fevtC | with_reducible apply keeps_setBst
    | with_reducible refine keeps_ite ?_ ?_

theorem keeps_formOvr {u s : State} (x0 : Nat) (h : Keeps u s) : Keeps u (formOvr x0 s) := by
  unfold formOvr
  repeat' first | with_reducible assumption | with_reducible apply keeps_setField

theorem keeps_boostPeriodOp {u s : State} (x0 x1 x2 : Nat) (h : Keeps u s) : Keeps u (boostPeriodOp x0 x1 x2 s) := by
  unfold boostPeriodOp
  repeat' first
    | with_reducible assumption | with_reducible apply keeps_formOvr | with_reducible apply keeps_setFld
    | with_reducible apply keeps_setBst

theorem keeps_boostRetryOp {u s : State} (x0 : Nat) (h : Keeps u s) : Keeps u (boostRetryOp x0 s) := by
  unfold boostRetryOp
  repeat' first
    | with_reducible assumption | with_reducible apply keeps_setBst | with_reducible refine keeps_ite ?_ ?_

theorem keeps_carrierModeWriteOp {u s : State} (x0 : Word) (h : Keeps u s) : Keeps u (carrierModeWriteOp x0 s) := by
  unfold carrierModeWriteOp
  repeat' first
    | with_reducible assumption | with_reducible apply keeps_setBit | with_reducible apply keeps_setFld
    | with_reducible apply keeps_fevt | with_reducible refine keeps_ite ?_ ?_

theorem keeps_pilotSettle {u s : State} (x0 x1 : Nat) (h : Keeps u s) : Keeps u (pilotSettle x0 x1 s) := by
  unfold pilotSettle
  repeat' first
    | with_reducible assumption | (intro x; clear_value x) | lift_lets -underBinder
    | with_reducible apply keeps_setChan | split

theorem keeps_enterSamples {u s : State} (x0 x1 : Nat) (h : Keeps u s) : Keeps u (enterSamples x0 x1 s) := by
  unfold enterSamples
  repeat' first | with_reducible assumption | with_reducible apply keeps_setChan

theorem keeps_modulate {u s : State} (x0 : Nat) (x1 : Int) (h : Keeps u s) : Keeps u (modulate x0 x1 s) := by
  unfold modulate
  repeat' first
    | with_reducible assumption | with_reducible apply keeps_fevtC | with_reducible apply keeps_setChan
    | with_reducible refine keeps_ite ?_ ?_

theorem keeps_carrierPeriodOp {u s : State} (x0 : Nat) (h : Keeps u s) : Keeps u (carrierPeriodOp x0 s) := by
  unfold carrierPeriodOp
  repeat' first
    | with_reducible assumption | (intro x; refine keeps_cut (a := Keeps u x) ?_ ?_; intro _; clear_value x)
    | (intro x; clear_value x) | lift_lets -underBinder | with_reducible apply keeps_pilotSettle
    | with_reducible apply keeps_enterSamples | with_reducible apply keeps_setChan
    | with_reducible apply keeps_modulate | split

theorem keeps_cmdRefused {u s : State} (x0 : Nat) (h : Keeps u s) : Keeps u (cmdRefused x0 s) := by
  unfold cmdRefused
  repeat' first | with_reducible assumption | with_reducible apply keeps_fevtC

theorem keeps_startOp {u s : State} (x0 : Nat) (h : Keeps u s) : Keeps u (startOp x0 s) := by
  unfold startOp
  repeat' first
    | with_reducible assumption | with_reducible apply keeps_setChan | with_reducible apply keeps_cmdRefused
    | with_reducible refine keeps_ite ?_ ?_

theorem keeps_stopOp {u s : State} (x0 : Nat) (h : Keeps u s) : Keeps u (stopOp x0 s) := by
  unfold stopOp
  repeat' first
    | with_reducible assumption | (intro x; clear_value x) | lift_lets -underBinder
    | with_reducible apply keeps_cmdRefused | with_reducible apply keeps_setChan | split

theorem keeps_clearOp {u s : State} (x0 : Nat) (h : Keeps u s) : Keeps u (clearOp x0 s) := by
  unfold clearOp
  repeat' first
    | with_reducible assumption | with_reducible apply keeps_enterOff | with_reducible apply keeps_setReg
    | with_reducible apply keeps_cmdRefused | with_reducible refine keeps_ite ?_ ?_

theorem keeps_chcmdWrite {u s : State} (x0 : Nat) (x1 : Word) (h : Keeps u s) : Keeps u (chcmdWrite x0 x1 s) := by
  unfold chcmdWrite
  repeat' first
    | with_reducible assumption | with_reducible apply keeps_startOp | with_reducible apply keeps_stopOp
    | with_reducible apply keeps_clearOp | split

theorem keeps_latch {u s : State} (x0 x1 : Nat) (x2 : Option Nat) (h : Keeps u s) : Keeps u (latch x0 x1 x2 s) := by
  unfold latch
  repeat' first
    | with_reducible assumption | (intro x; refine keeps_cut (a := Keeps u x) ?_ ?_; intro _; clear_value x)
    | intro _ | subst x | lift_lets -underBinder | with_reducible apply keeps_setChan
    | with_reducible apply keeps_setReg | with_reducible apply keeps_fevtC | with_reducible apply keeps_faultMsg
    | with_reducible apply keeps_raise | split

theorem keeps_dcOffsetOp {u s : State} (x0 : Nat) (x1 : Int) (h : Keeps u s) : Keeps u (dcOffsetOp x0 x1 s) := by
  unfold dcOffsetOp
  repeat' first | with_reducible assumption | with_reducible apply keeps_latch | with_reducible refine keeps_ite ?_ ?_

theorem keeps_earthLeakageOp {u s : State} (x0 : Nat) (h : Keeps u s) : Keeps u (earthLeakageOp x0 s) := by
  unfold earthLeakageOp
  repeat' first | with_reducible assumption | with_reducible apply keeps_fevtIf | with_reducible apply keeps_setFld

theorem keeps_enableTimeElapsedOp {u s : State} (x0 : Nat) (h : Keeps u s) : Keeps u (enableTimeElapsedOp x0 s) := by
  unfold enableTimeElapsedOp
  repeat' first
    | with_reducible assumption | with_reducible apply keeps_setChan | with_reducible refine keeps_ite ?_ ?_

theorem keeps_enterRun {u s : State} (x0 : Nat) (h : Keeps u s) : Keeps u (enterRun x0 s) := by
  unfold enterRun
  repeat' first
    | with_reducible assumption | with_reducible apply keeps_messageStart | with_reducible apply keeps_setChan

theorem keeps_fltAssertOp {u s : State} (x0 : Nat) (h : Keeps u s) : Keeps u (fltAssertOp x0 s) := by
  unfold fltAssertOp
  repeat' first | with_reducible assumption | with_reducible apply keeps_latch | with_reducible refine keeps_ite ?_ ?_

theorem keeps_hold50CompleteOp {u s : State} (x0 : Nat) (h : Keeps u s) : Keeps u (hold50CompleteOp x0 s) := by
  unfold hold50CompleteOp
  repeat' first
    | with_reducible assumption | with_reducible apply keeps_messageStart | with_reducible apply keeps_setChan
    | with_reducible refine keeps_ite ?_ ?_

theorem keeps_hswWriteOp {u s : State} (x0 : Word) (h : Keeps u s) : Keeps u (hswWriteOp x0 s) := by
  unfold hswWriteOp
  repeat' first | with_reducible assumption | with_reducible apply keeps_fevtIf | with_reducible apply keeps_setReg

theorem keeps_hswtElapsedOp {u s : State} (x0 : Nat) (h : Keeps u s) : Keeps u (hswtElapsedOp x0 s) := by
  unfold hswtElapsedOp
  repeat' first
    | with_reducible assumption | with_reducible apply keeps_setChan | with_reducible refine keeps_ite ?_ ?_

theorem keeps_ilimCrossingOp {u s : State} (x0 x1 x2 : Nat) (h : Keeps u s) :
    Keeps u (ilimCrossingOp x0 x1 x2 s) := by
  unfold ilimCrossingOp
  repeat' first
    | with_reducible assumption | with_reducible apply keeps_setChan | with_reducible apply keeps_latch
    | with_reducible refine keeps_ite ?_ ?_

theorem keeps_reportZ {u s : State} (x0 x1 : Nat) (x2 : Bool) (h : Keeps u s) : Keeps u (reportZ x0 x1 x2 s) := by
  unfold reportZ
  repeat' first
    | with_reducible assumption | with_reducible apply keeps_setReg | with_reducible apply keeps_setChan
    | with_reducible apply keeps_fevtC | with_reducible refine keeps_ite ?_ ?_

theorem keeps_impedanceEstimateOp {u s : State} (x0 : Nat) (x1 x2 : List Int) (h : Keeps u s) :
    Keeps u (impedanceEstimateOp x0 x1 x2 s) := by
  unfold impedanceEstimateOp
  repeat' first
    | with_reducible assumption | with_reducible apply keeps_setChan | with_reducible apply keeps_reportZ
    | with_reducible apply keeps_nextFree | with_reducible refine keeps_ite ?_ ?_

theorem keeps_iscCrossingOp {u s : State} (x0 x1 : Nat) (h : Keeps u s) : Keeps u (iscCrossingOp x0 x1 s) := by
  unfold iscCrossingOp
  repeat' first | with_reducible assumption | with_reducible apply keeps_latch | with_reducible refine keeps_ite ?_ ?_

theorem keeps_lineOverVoltageOp {u s : State} (x0 x1 : Nat) (h : Keeps u s) :
    Keeps u (lineOverVoltageOp x0 x1 s) := by
  unfold lineOverVoltageOp
  repeat' first | with_reducible assumption | with_reducible apply keeps_latch | with_reducible refine keeps_ite ?_ ?_

theorem keeps_ntcTripOp {u s : State} (x0 x1 : Nat) (h : Keeps u s) : Keeps u (ntcTripOp x0 x1 s) := by
  unfold ntcTripOp
  repeat' first
    | with_reducible assumption | intro _ | lift_lets -underBinder | with_reducible refine keeps_forN ?_ ?_
    | with_reducible apply keeps_fevtC | with_reducible apply keeps_setChan | with_reducible apply keeps_setFld
    | split

theorem keeps_ntcWarningOp {u s : State} (x0 x1 : Nat) (h : Keeps u s) : Keeps u (ntcWarningOp x0 x1 s) := by
  unfold ntcWarningOp
  repeat' first
    | with_reducible assumption | with_reducible apply keeps_fevtC | with_reducible apply keeps_setField
    | with_reducible refine keeps_ite ?_ ?_

theorem keeps_pilotStartOp {u s : State} (x0 : Nat) (h : Keeps u s) : Keeps u (pilotStartOp x0 s) := by
  unfold pilotStartOp
  repeat' first
    | with_reducible assumption | with_reducible apply keeps_setChan | with_reducible refine keeps_ite ?_ ?_

theorem keeps_probeCompleteOp {u s : State} (x0 : Nat) (h : Keeps u s) : Keeps u (probeCompleteOp x0 s) := by
  unfold probeCompleteOp
  repeat' first
    | with_reducible assumption | with_reducible apply keeps_enterRun | with_reducible apply keeps_setChan
    | with_reducible refine keeps_ite ?_ ?_

theorem keeps_railOverVoltageOp {u s : State} (x0 x1 : Nat) (h : Keeps u s) :
    Keeps u (railOverVoltageOp x0 x1 s) := by
  unfold railOverVoltageOp
  repeat' first
    | with_reducible assumption | with_reducible apply keeps_latch | with_reducible apply keeps_fevtC
    | with_reducible refine keeps_ite ?_ ?_

theorem keeps_rampInCompleteOp {u s : State} (x0 : Nat) (h : Keeps u s) : Keeps u (rampInCompleteOp x0 s) := by
  unfold rampInCompleteOp
  repeat' first
    | with_reducible assumption | with_reducible apply keeps_setChan | with_reducible apply keeps_enterRun
    | with_reducible refine keeps_ite ?_ ?_

theorem keeps_retryOp {u s : State} (x0 : Nat) (h : Keeps u s) : Keeps u (retryOp x0 s) := by
  unfold retryOp
  repeat' first
    | with_reducible assumption | with_reducible apply keeps_setChan | with_reducible refine keeps_ite ?_ ?_

theorem keeps_startSequenceOp {u s : State} (x0 : Nat) (h : Keeps u s) : Keeps u (startSequenceOp x0 s) := by
  unfold startSequenceOp
  repeat' first
    | with_reducible assumption | with_reducible apply keeps_setChan | with_reducible refine keeps_ite ?_ ?_

theorem keeps_stopEnableTimeElapsedOp {u s : State} (x0 : Nat) (h : Keeps u s) :
    Keeps u (stopEnableTimeElapsedOp x0 s) := by
  unfold stopEnableTimeElapsedOp
  repeat' first
    | with_reducible assumption | with_reducible apply keeps_enterOff | with_reducible refine keeps_ite ?_ ?_

theorem keeps_stopHold50CompleteOp {u s : State} (x0 : Nat) (h : Keeps u s) :
    Keeps u (stopHold50CompleteOp x0 s) := by
  unfold stopHold50CompleteOp
  repeat' first
    | with_reducible assumption | with_reducible apply keeps_setChan | with_reducible refine keeps_ite ?_ ?_

theorem keeps_stopRampOutCompleteOp {u s : State} (x0 : Nat) (h : Keeps u s) :
    Keeps u (stopRampOutCompleteOp x0 s) := by
  unfold stopRampOutCompleteOp
  repeat' first
    | with_reducible assumption | with_reducible apply keeps_setChan | with_reducible refine keeps_ite ?_ ?_

theorem keeps_takeoverOne {u s : State} (x0 : Nat) (h : Keeps u s) : Keeps u (takeoverOne x0 s) := by
  unfold takeoverOne
  repeat' first
    | with_reducible assumption | with_reducible apply keeps_setChan | with_reducible apply keeps_setBit
    | with_reducible apply keeps_cmdRefused | with_reducible refine keeps_ite ?_ ?_

theorem keeps_takeoverStartOp {u s : State} (x0 : Word) (h : Keeps u s) : Keeps u (takeoverStartOp x0 s) := by
  unfold takeoverStartOp
  repeat' first
    | with_reducible assumption | intro _ | with_reducible refine keeps_forN ?_ ?_
    | with_reducible apply keeps_takeoverOne | with_reducible refine keeps_ite ?_ ?_

theorem keeps_thermalRestoreOp {u s : State} (x0 x1 : Nat) (h : Keeps u s) : Keeps u (thermalRestoreOp x0 x1 s) := by
  unfold thermalRestoreOp
  repeat' first
    | with_reducible assumption | intro _ | with_reducible refine keeps_forN ?_ ?_
    | with_reducible apply keeps_setField | with_reducible apply keeps_setChan
    | with_reducible refine keeps_ite ?_ ?_

theorem keeps_fbstCtrlWrite {u s : State} (x0 : Word) (h : Keeps u s) : Keeps u (fbstCtrlWrite x0 s) := by
  unfold fbstCtrlWrite
  repeat' first
    | with_reducible assumption | intro _ | with_reducible refine keeps_forN ?_ ?_
    | with_reducible apply keeps_typeWrite | with_reducible apply keeps_setBst

theorem keeps_fmonCtrlWrite {u s : State} (x0 : Word) (h : Keeps u s) : Keeps u (fmonCtrlWrite x0 s) := by
  unfold fmonCtrlWrite
  repeat' first
    | with_reducible assumption | intro _ | with_reducible refine keeps_forN ?_ ?_
    | with_reducible apply keeps_typeWrite | with_reducible apply keeps_setChan
    | with_reducible refine keeps_ite ?_ ?_

theorem keeps_guardWrite {u s : State} (x0 : Bool) (x1 x2 x3 : Nat) (x4 : Word) (h : Keeps u s) :
    Keeps u (guardWrite x0 x1 x2 x3 x4 s) := by
  unfold guardWrite
  repeat' first
    | with_reducible assumption | with_reducible apply keeps_typeWrite | with_reducible apply keeps_fevt
    | with_reducible refine keeps_ite ?_ ?_

theorem keeps_hingeSafeOff {u s : State} (h : Keeps u s) : Keeps u (hingeSafeOff s) := by
  unfold hingeSafeOff
  repeat' first
    | with_reducible assumption | intro _ | lift_lets -underBinder | with_reducible refine keeps_forN ?_ ?_
    | with_reducible apply keeps_setBit | with_reducible apply keeps_setChan | split

theorem keeps_powerStageWrite {u s : State} (x0 : Nat) (x1 : Word) (h : Keeps u s) :
    Keeps u (powerStageWrite x0 x1 s) := by
  unfold powerStageWrite
  repeat' first
    | with_reducible assumption | with_reducible apply keeps_carrierModeWriteOp
    | with_reducible apply keeps_guardWrite | with_reducible apply keeps_avoidanceRunOp
    | with_reducible apply keeps_hswWriteOp | with_reducible apply keeps_takeoverStartOp
    | with_reducible apply keeps_chcmdWrite | with_reducible apply keeps_fbstCtrlWrite
    | with_reducible apply keeps_fmonCtrlWrite | with_reducible apply keeps_typeWrite
    | with_reducible refine keeps_ite ?_ ?_

theorem keeps_silenceFrom {u s : State} (x0 : Nat) (x1 : Nat → Nat) (h : Keeps u s) :
    Keeps u (silenceFrom x0 x1 s) := by
  unfold silenceFrom
  repeat' first
    | with_reducible assumption | intro _ | with_reducible refine keeps_forN ?_ ?_
    | with_reducible apply keeps_setChan

theorem keeps_setFin {u s : State} (x1 : Nat) (x2 : Fin_) (h : Keeps u s) : Keeps u (State.setFin s x1 x2) := by
  unfold State.setFin
  repeat' first | with_reducible assumption | with_reducible apply keeps_setField

theorem keeps_setPlayer {u s : State} (x1 : Nat) (x2 : Player) (h : Keeps u s) :
    Keeps u (State.setPlayer s x1 x2) := by
  unfold State.setPlayer
  repeat' first | with_reducible assumption | with_reducible apply keeps_setField

theorem keeps_assertEntry {u s : State} (x0 : Nat) (h : Keeps u s) : Keeps u (assertEntry x0 s) := by
  unfold assertEntry
  repeat' first | with_reducible assumption | with_reducible apply keeps_fevtIf | with_reducible apply keeps_setField

theorem keeps_replaceSource {u s : State} (x0 : Nat) (x1 : AudioSrc) (h : Keeps u s) :
    Keeps u (replaceSource x0 x1 s) := by
  unfold replaceSource
  repeat' first | with_reducible assumption | with_reducible apply keeps_setChan

theorem keeps_claimBy {u s : State} (x0 x1 : Nat) (h : Keeps u s) : Keeps u (claimBy x0 x1 s) := by
  unfold claimBy
  repeat' first
    | with_reducible assumption | with_reducible apply keeps_replaceSource | with_reducible apply keeps_setChan
    | with_reducible apply keeps_setOvr | split

theorem mem_copyFlash {l : List Host.Cell} (h : Memory.wf l = true) :
    Memory.wf (l.filter (fun e => decide (e.1 < strongbox)) ++
      ((l.filter (fun e => decide (e.1 < strongbox))).filter (fun e => decide (fflash ≤ e.1))).map
        (fun e => (e.1 + fflash, e.2))) = true := by
  obtain ⟨h1, h2⟩ := (canonBy_iff _ _).mp (canonBy_filter (fun e => decide (e.1 < strongbox)) h)
  refine (canonBy_iff _ _).mpr ⟨?_, ?_⟩
  · refine List.pairwise_append.mpr ⟨h1, ?_, ?_⟩
    · rw [List.pairwise_map]
      refine (h1.filter _).imp ?_
      intro a b hab
      show a.1 + fflash < b.1 + fflash
      omega
    · intro a ha b hb
      obtain ⟨e, he, rfl⟩ := List.mem_map.mp hb
      have ha' := (List.mem_filter.mp ha).2
      have he' := (List.mem_filter.mp he).2
      simp only [decide_eq_true_eq] at ha' he'
      have hs : strongbox = fflash + fflash := rfl
      show a.1 < e.1 + fflash
      omega
  · intro e he
    rcases List.mem_append.mp he with he | he
    · exact h2 e he
    · obtain ⟨x, hx, rfl⟩ := List.mem_map.mp he
      have hm := (List.mem_filter.mp hx).1
      have hf := (List.mem_filter.mp hx).2
      have hd := h2 x hm
      have hf' : fflash ≤ x.1 := of_decide_eq_true hf
      have c1 : memDefault x.1 = 0xFF := if_pos (Or.inr hf')
      have c2 : memDefault (x.1 + fflash) = 0xFF := if_pos (Or.inr (Nat.le_trans hf' (Nat.le_add_right _ _)))
      rw [c1] at hd
      rw [c2]
      exact hd

theorem keeps_copyFlash {u s : State} (h : Keeps u s) : Keeps u (copyFlash s) :=
  h.trans ⟨fun g => ⟨mem_copyFlash g.mem, g.regs⟩, ⟨rfl, rfl, rfl, rfl, Nat.le_refl _⟩⟩

theorem keeps_unclaim {u s : State} (x0 : Nat) (h : Keeps u s) : Keeps u (unclaim x0 s) := by
  unfold unclaim
  repeat' first
    | with_reducible assumption | with_reducible apply keeps_setField | with_reducible apply keeps_replaceSource
    | with_reducible apply keeps_setChan

theorem keeps_refreshClaims {u s : State} (h : Keeps u s) : Keeps u (refreshClaims s) := by
  unfold refreshClaims
  repeat' first
    | with_reducible assumption | intro _ | with_reducible refine keeps_forN ?_ ?_
    | with_reducible apply keeps_unclaim | with_reducible apply keeps_claimBy | split

theorem keeps_releaseEntry {u s : State} (x0 : Nat) (h : Keeps u s) : Keeps u (releaseEntry x0 s) := by
  unfold releaseEntry
  repeat' first
    | with_reducible assumption | with_reducible apply keeps_fevt | with_reducible apply keeps_setField
    | with_reducible refine keeps_ite ?_ ?_

theorem keeps_finChange {u s : State} (x0 x1 : Nat) (x2 : Bool) (h : Keeps u s) : Keeps u (finChange x0 x1 x2 s) := by
  unfold finChange
  repeat' first
    | with_reducible assumption | with_reducible apply keeps_setFld | with_reducible apply keeps_setFin
    | with_reducible apply keeps_fevtC | with_reducible apply keeps_assertEntry | with_reducible apply keeps_setField
    | with_reducible apply keeps_releaseEntry | with_reducible refine keeps_ite ?_ ?_

theorem keeps_finOne {u s : State} (x0 : Nat) (x1 : Option Nat) (h : Keeps u s) : Keeps u (finOne x0 x1 s) := by
  unfold finOne
  repeat' first
    | with_reducible assumption | with_reducible apply keeps_setReg | with_reducible apply keeps_setFin
    | with_reducible apply keeps_finChange | with_reducible refine keeps_ite ?_ ?_

theorem keeps_finMeasurementOp {u s : State} (x0 : List (Option Nat)) (h : Keeps u s) :
    Keeps u (finMeasurementOp x0 s) := by
  unfold finMeasurementOp
  repeat' first
    | with_reducible assumption | intro _ | with_reducible refine keeps_forN ?_ ?_
    | with_reducible apply keeps_refreshClaims | with_reducible apply keeps_finOne

theorem keeps_overrideRepeatOp {u s : State} (x0 : Nat) (h : Keeps u s) : Keeps u (overrideRepeatOp x0 s) := by
  unfold overrideRepeatOp
  repeat' first
    | with_reducible assumption | (intro x; clear_value x) | lift_lets -underBinder
    | with_reducible apply keeps_setChan | split

theorem keeps_playWrite {u s : State} (x0 : Nat) (x1 : Word) (h : Keeps u s) : Keeps u (playWrite x0 x1 s) := by
  unfold playWrite
  repeat' first
    | with_reducible assumption | with_reducible apply keeps_typeWrite | with_reducible apply keeps_setPlayer

theorem keeps_sbxLoadBegin {u s : State} (h : Keeps u s) : Keeps u (sbxLoadBegin s) := by
  unfold sbxLoadBegin
  repeat' first | with_reducible assumption | with_reducible apply keeps_setField | with_reducible apply keeps_setReg

theorem keeps_fsbxCmdWrite {u s : State} (x0 : Word) (h : Keeps u s) : Keeps u (fsbxCmdWrite x0 s) := by
  unfold fsbxCmdWrite
  repeat' first
    | with_reducible assumption | intro _ | with_reducible refine keeps_forN ?_ ?_
    | with_reducible apply keeps_releaseEntry | with_reducible apply keeps_refreshClaims
    | with_reducible apply keeps_fevt | with_reducible apply keeps_sbxLoadBegin
    | with_reducible refine keeps_ite ?_ ?_

theorem keeps_progBytes {u s : State} (x1 : Nat) (x2 : List Byte) (h : Keeps u s) : Keeps u (progBytes s x1 x2) := by
  revert h
  fun_induction progBytes s x1 x2 <;> intro h
  repeat' first | apply_assumption | with_reducible apply keeps_wrByte

theorem keeps_sbxCommandDoneOp {u s : State} (h : Keeps u s) : Keeps u (sbxCommandDoneOp s) := by
  unfold sbxCommandDoneOp
  repeat' first
    | with_reducible assumption | with_reducible apply keeps_clearMem | with_reducible apply keeps_progBytes
    | with_reducible apply keeps_fevt | with_reducible apply keeps_setBit | with_reducible apply keeps_setField
    | split

theorem keeps_pgCmdWrite {u s : State} (x0 : Word) (h : Keeps u s) : Keeps u (pgCmdWrite x0 s) := by
  unfold pgCmdWrite
  repeat' first
    | with_reducible assumption | with_reducible apply keeps_fevt | with_reducible apply keeps_setBit
    | with_reducible apply keeps_setField | with_reducible refine keeps_ite ?_ ?_

theorem keeps_toneBurstEndOp {u s : State} (h : Keeps u s) : Keeps u (toneBurstEndOp s) := by
  unfold toneBurstEndOp
  repeat' first
    | with_reducible assumption | with_reducible apply keeps_setField | with_reducible refine keeps_ite ?_ ?_

theorem keeps_ffinCfgWrite {u s : State} (x0 : Word) (h : Keeps u s) : Keeps u (ffinCfgWrite x0 s) := by
  unfold ffinCfgWrite
  repeat' first
    | with_reducible assumption | intro _ | with_reducible refine keeps_forN ?_ ?_
    | with_reducible apply keeps_setFld | with_reducible apply keeps_fevt | with_reducible apply keeps_refreshClaims
    | with_reducible apply keeps_setFin | with_reducible apply keeps_finChange
    | with_reducible refine keeps_ite ?_ ?_

theorem keeps_ovrWrite {u s : State} (x0 : Nat) (x1 : Word) (h : Keeps u s) : Keeps u (ovrWrite x0 x1 s) := by
  unfold ovrWrite
  repeat' first
    | with_reducible assumption | with_reducible apply keeps_typeWrite | with_reducible apply keeps_refreshClaims

theorem keeps_fireWrite {u s : State} (x0 : Nat) (x1 : Word) (h : Keeps u s) : Keeps u (fireWrite x0 x1 s) := by
  unfold fireWrite
  repeat' first
    | with_reducible assumption | with_reducible apply keeps_ffinCfgWrite | with_reducible apply keeps_guardWrite
    | with_reducible apply keeps_foutWrite | with_reducible apply keeps_fsbxCmdWrite
    | with_reducible apply keeps_pgCmdWrite | with_reducible apply keeps_ovrWrite
    | with_reducible apply keeps_refreshClaims | with_reducible apply keeps_typeWrite
    | with_reducible apply keeps_playWrite | with_reducible refine keeps_ite ?_ ?_

theorem keeps_playersFolio {u s : State} (h : Keeps u s) : Keeps u (playersFolio s) := by
  unfold playersFolio
  repeat' first
    | with_reducible assumption | intro _ | lift_lets -underBinder | with_reducible refine keeps_forN ?_ ?_
    | with_reducible apply keeps_setPlayer | split

theorem keeps_sbxLoadFinish {u s : State} (h : Keeps u s) : Keeps u (sbxLoadFinish s) := by
  unfold sbxLoadFinish
  repeat' first
    | with_reducible assumption | intro _ | with_reducible refine keeps_forN ?_ ?_
    | with_reducible apply keeps_copyFlash | with_reducible apply keeps_setField | with_reducible apply keeps_setReg
    | with_reducible apply keeps_fevtC | with_reducible apply keeps_fevt | with_reducible refine keeps_ite ?_ ?_

theorem keeps_setF0 {u s : State} (x1 : F0) (h : Keeps u s) : Keeps u (State.setF0 s x1) := by
  unfold State.setF0
  repeat' first | (with_reducible apply keeps_mk; with_reducible assumption)

theorem keeps_f0BackoffEndOp {u s : State} (h : Keeps u s) : Keeps u (f0BackoffEndOp s) := by
  unfold f0BackoffEndOp
  repeat' first | with_reducible assumption | with_reducible apply keeps_setF0 | split

theorem keeps_f0Select {u s : State} (h : Keeps u s) : Keeps u (f0Select s) := by
  unfold f0Select
  repeat' first
    | with_reducible assumption | (intro x; clear_value x) | lift_lets -underBinder
    | with_reducible apply keeps_setF0 | split

theorem keeps_f0Attempt {u s : State} (x0 : Bool) (x1 : F0Tx → State → State)
    (hf : ∀ q t, Keeps u t → Keeps u (x1 q t)) (h : Keeps u s) :
    Keeps u (f0Attempt x0 x1 s) := by
  unfold f0Attempt
  repeat' first
    | with_reducible assumption | (intro x; refine keeps_cut (a := Keeps u x) ?_ ?_; intro _; clear_value x)
    | lift_lets -underBinder | with_reducible apply keeps_f0Select | with_reducible apply keeps_fbusCount
    | with_reducible apply hf | split

theorem keeps_f0Collided {u s : State} (x0 : Bool) (x1 : F0Tx) (h : Keeps u s) : Keeps u (f0Collided x0 x1 s) := by
  unfold f0Collided
  repeat' first
    | with_reducible assumption | with_reducible apply keeps_setF0 | with_reducible apply keeps_fevt
    | with_reducible apply keeps_fbusCount | with_reducible refine keeps_ite ?_ ?_

theorem keeps_fbusDrop {u s : State} (h : Keeps u s) : Keeps u (fbusDrop s) := by
  unfold fbusDrop
  repeat' first | with_reducible assumption | with_reducible apply keeps_fevt | with_reducible apply keeps_fkwyCount

theorem keeps_relayToHost {u s : State} (x0 : Frame) (h : Keeps u s) : Keeps u (relayToHost x0 s) := by
  unfold relayToHost
  repeat' first
    | with_reducible assumption | with_reducible apply keeps_fieldQueue | with_reducible apply keeps_fbusDrop
    | with_reducible refine keeps_ite ?_ ?_

theorem keeps_f0FrameReceivedOp {u s : State} (x0 : Frame) (h : Keeps u s) : Keeps u (f0FrameReceivedOp x0 s) := by
  unfold f0FrameReceivedOp
  repeat' first
    | with_reducible assumption | (intro x; refine keeps_cut (a := Keeps u x) ?_ ?_; intro _; clear_value x)
    | subst x | lift_lets -underBinder | with_reducible apply keeps_fbusCount
    | with_reducible apply keeps_relayToHost | split

theorem keeps_f0Sent {u s : State} (x0 : F0Tx) (h : Keeps u s) : Keeps u (f0Sent x0 s) := by
  unfold f0Sent
  repeat' first
    | with_reducible assumption | with_reducible apply keeps_fbusCount | with_reducible apply keeps_setF0 | split

theorem keeps_f0Offer {u s : State} (x0 : Nat) (x1 : Frame) (h : Keeps u s) : Keeps u (f0Offer x0 x1 s) := by
  unfold f0Offer
  repeat' first
    | with_reducible assumption | with_reducible apply keeps_setF0 | with_reducible apply keeps_fbusDrop
    | with_reducible apply keeps_fbusCount | with_reducible refine keeps_ite ?_ ?_

theorem keeps_autonomyEnter {u s : State} (h : Keeps u s) : Keeps u (autonomyEnter s) := by
  unfold autonomyEnter
  repeat' first
    | with_reducible assumption | intro _ | with_reducible refine keeps_forN ?_ ?_
    | with_reducible apply keeps_setChan | with_reducible apply keeps_setField | with_reducible apply keeps_fevt
    | with_reducible apply keeps_hingeSafeOff | with_reducible refine keeps_ite ?_ ?_

theorem keeps_autonomyLeave {u s : State} (h : Keeps u s) : Keeps u (autonomyLeave s) := by
  unfold autonomyLeave
  repeat' first
    | with_reducible assumption | intro _ | with_reducible refine keeps_forN ?_ ?_
    | with_reducible apply keeps_setChan | with_reducible apply keeps_fevt | with_reducible apply keeps_setField
    | with_reducible refine keeps_ite ?_ ?_

theorem keeps_autonomyExitOp {u s : State} (h : Keeps u s) : Keeps u (autonomyExitOp s) := by
  unfold autonomyExitOp
  repeat' first
    | with_reducible assumption | with_reducible apply keeps_autonomyLeave | with_reducible refine keeps_ite ?_ ?_

theorem keeps_fsysAutWrite {u s : State} (x0 : Word) (h : Keeps u s) : Keeps u (fsysAutWrite x0 s) := by
  unfold fsysAutWrite
  repeat' first
    | with_reducible assumption | with_reducible apply keeps_setBit | with_reducible apply keeps_fevt
    | with_reducible apply keeps_setFld | with_reducible apply keeps_autonomyLeave
    | with_reducible apply keeps_autonomyEnter | with_reducible refine keeps_ite ?_ ?_

theorem keeps_fieldWrite {u s : State} (x0 : Nat) (x1 : Word) (h : Keeps u s) : Keeps u (fieldWrite x0 x1 s) := by
  unfold fieldWrite
  repeat' first
    | with_reducible assumption | with_reducible apply keeps_fsysAutWrite | with_reducible apply keeps_typeWrite
    | with_reducible apply keeps_powerStageWrite | with_reducible apply keeps_fireWrite | split

theorem keeps_presetEntry {u s : State} (x0 : Nat) (x1 : Word) (h : Keeps u s) : Keeps u (presetEntry x0 x1 s) := by
  unfold presetEntry
  repeat' first
    | with_reducible assumption | with_reducible apply keeps_fieldWrite | with_reducible apply keeps_fevt
    | with_reducible refine keeps_ite ?_ ?_

theorem keeps_presetApply {u s : State} (h : Keeps u s) : Keeps u (presetApply s) := by
  unfold presetApply
  repeat' first
    | with_reducible assumption | intro _ | with_reducible refine keeps_forN ?_ ?_
    | with_reducible apply keeps_presetEntry | with_reducible apply keeps_fevt
    | with_reducible refine keeps_ite ?_ ?_

theorem keeps_strongboxLoadEndOp {u s : State} (h : Keeps u s) : Keeps u (strongboxLoadEndOp s) := by
  unfold strongboxLoadEndOp
  repeat' first
    | with_reducible assumption | with_reducible apply keeps_sbxLoadFinish | with_reducible apply keeps_setBit
    | with_reducible apply keeps_presetApply | with_reducible refine keeps_ite ?_ ?_

end Sys2Proof.Machine
end

