-- ==== Sys2Proof/Laws/KeepsNet.lean ====
section
/-! SUPPORT. What the network, Keyway, Hinge, the districts and the flash port keep: one lemma `keeps_<operation>` per operation, in the
relation of Laws/Keeps.lean. -/

set_option maxRecDepth 4000

namespace Sys2Proof.Machine

theorem keeps_setBoot {u s : State} (x1 : Boot) (h : Keeps u s) : Keeps u (State.setBoot s x1) := by
  unfold State.setBoot
  repeat' first | (with_reducible apply keeps_mk; with_reducible assumption)

theorem keeps_setPwr {u s : State} (x1 : Pwr) (h : Keeps u s) : Keeps u (State.setPwr s x1) := by
  unfold State.setPwr
  repeat' first | (with_reducible apply keeps_mk; with_reducible assumption)

theorem keeps_setXsp {u s : State} (x1 : Xsp) (h : Keeps u s) : Keeps u (State.setXsp s x1) := by
  unfold State.setXsp
  repeat' first | (with_reducible apply keeps_mk; with_reducible assumption)

theorem keeps_xspNext {u s : State} (h : Keeps u s) : Keeps u (xspNext s) := by
  unfold xspNext
  repeat' first | with_reducible assumption | with_reducible apply keeps_setXsp | split

theorem keeps_flashPerform {u s : State} (x0 : FlashCmd) (h : Keeps u s) : Keeps u (flashPerform x0 s) := by
  unfold flashPerform
  repeat' first
    | with_reducible assumption | with_reducible apply keeps_clearMem | with_reducible apply keeps_progBytes
    | with_reducible refine keeps_ite ?_ ?_

theorem keeps_freeFill {u s : State} (x0 x1 : Nat) (h : Keeps u s) : Keeps u (freeFill x0 x1 s) := by
  unfold freeFill
  repeat' first
    | with_reducible assumption | intro _ | with_reducible refine keeps_forN ?_ ?_
    | with_reducible apply keeps_nextFree | with_reducible apply keeps_wrWord

theorem keeps_flashOpen {u s : State} (x0 : FlashCmd) (h : Keeps u s) : Keeps u (flashOpen x0 s) := by
  unfold flashOpen
  repeat' first | with_reducible assumption | with_reducible apply keeps_freeFill

theorem keeps_xspCommandDoneOp {u s : State} (x0 : Bool) (h : Keeps u s) : Keeps u (xspCommandDoneOp x0 s) := by
  unfold xspCommandDoneOp
  repeat' first
    | with_reducible assumption | with_reducible apply keeps_setXsp | with_reducible apply keeps_xspNext
    | with_reducible apply keeps_evt | with_reducible apply keeps_flashPerform | with_reducible apply keeps_flashOpen
    | split

theorem keeps_xspCmdWrite {u s : State} (x0 : Word) (h : Keeps u s) : Keeps u (xspCmdWrite x0 s) := by
  unfold xspCmdWrite
  repeat' first
    | with_reducible assumption | with_reducible apply keeps_evt | with_reducible apply keeps_xspNext
    | with_reducible apply keeps_setXsp | with_reducible refine keeps_ite ?_ ?_

theorem keeps_programAttempt {u s : State} (x0 : Nat) (h : Keeps u s) : Keeps u (programAttempt x0 s) := by
  unfold programAttempt
  repeat' first
    | with_reducible assumption | (intro x; clear_value x) | lift_lets -underBinder
    | with_reducible apply keeps_wrWord | split

theorem keeps_programConfirm {u s : State} (h : Keeps u s) : Keeps u (programConfirm s) := by
  unfold programConfirm
  repeat' first
    | with_reducible assumption | with_reducible apply keeps_setBoot | with_reducible apply keeps_wrByte | split

theorem keeps_selectSlots {u s : State} (h : Keeps u s) : Keeps u (selectSlots s) := by
  unfold selectSlots
  repeat' first
    | with_reducible assumption | with_reducible apply keeps_setBoot | with_reducible apply keeps_programAttempt
    | split

theorem keeps_xspSizeWrite {u s : State} (x0 : Word) (h : Keeps u s) : Keeps u (xspSizeWrite x0 s) := by
  unfold xspSizeWrite
  repeat' first
    | with_reducible assumption | with_reducible apply keeps_typeWrite | with_reducible apply keeps_evt
    | with_reducible refine keeps_ite ?_ ?_

theorem keeps_setPort {u s : State} (x1 : Nat) (x2 : Port) (h : Keeps u s) : Keeps u (State.setPort s x1 x2) := by
  unfold State.setPort
  repeat' first | (with_reducible apply keeps_mk; with_reducible assumption)

theorem keeps_setSub {u s : State} (x1 : Nat) (x2 : Sub) (h : Keeps u s) : Keeps u (State.setSub s x1 x2) := by
  unfold State.setSub
  repeat' first | (with_reducible apply keeps_mk; with_reducible assumption)

theorem keeps_setTx {u s : State} (x1 : Nat) (x2 : TxStream) (h : Keeps u s) : Keeps u (State.setTx s x1 x2) := by
  unfold State.setTx
  repeat' first | (with_reducible apply keeps_mk; with_reducible assumption)

theorem keeps_budgeted {u s t : State} (k : Keeps u t) (h : Keeps u s) : Keeps u (budgeted s t) := by
  unfold budgeted
  split
  · exact k
  · exact keeps_evt _ _ h

theorem keeps_esmcHeard {u s : State} (x0 x1 : Nat) (h : Keeps u s) : Keeps u (esmcHeard x0 x1 s) := by
  unfold esmcHeard
  repeat' first
    | with_reducible assumption | with_reducible apply keeps_setFld | with_reducible apply keeps_setRsc
    | with_reducible refine keeps_ite ?_ ?_

theorem keeps_offer {u s : State} (x0 x1 : Nat) (x2 : Frame) (h : Keeps u s) : Keeps u (offer x0 x1 x2 s) := by
  unfold offer
  repeat' first
    | with_reducible assumption | with_reducible apply keeps_evt | with_reducible apply keeps_macCount
    | with_reducible apply keeps_setPort | with_reducible refine keeps_ite ?_ ?_

theorem keeps_frameOfferedOp {u s : State} (x0 x1 : Nat) (x2 : Frame) (h : Keeps u s) :
    Keeps u (frameOfferedOp x0 x1 x2 s) := by
  unfold frameOfferedOp
  repeat' first | with_reducible assumption | with_reducible apply keeps_offer | with_reducible refine keeps_ite ?_ ?_

theorem keeps_linkDown {u s : State} (x0 : Nat) (h : Keeps u s) : Keeps u (linkDown x0 s) := by
  unfold linkDown
  repeat' first
    | with_reducible assumption | with_reducible apply keeps_evt | with_reducible apply keeps_setBit
    | with_reducible apply keeps_setPort | with_reducible refine keeps_ite ?_ ?_

theorem keeps_macCfgWriteOp {u s : State} (x0 : Nat) (x1 : Word) (h : Keeps u s) :
    Keeps u (macCfgWriteOp x0 x1 s) := by
  unfold macCfgWriteOp
  repeat' first
    | with_reducible assumption | with_reducible apply keeps_evt | with_reducible apply keeps_setFld
    | with_reducible apply keeps_typeWrite | with_reducible apply keeps_linkDown
    | with_reducible refine keeps_ite ?_ ?_

theorem keeps_pcsCodeErrorOp {u s : State} (x0 : Nat) (h : Keeps u s) : Keeps u (pcsCodeErrorOp x0 s) := by
  unfold pcsCodeErrorOp
  repeat' first
    | with_reducible assumption | with_reducible apply keeps_macCount | with_reducible refine keeps_ite ?_ ?_

theorem keeps_portLinkDownOp {u s : State} (x0 : Nat) (x1 x2 : Bool) (h : Keeps u s) :
    Keeps u (portLinkDownOp x0 x1 x2 s) := by
  unfold portLinkDownOp
  repeat' first | with_reducible assumption | with_reducible apply keeps_linkDown | with_reducible apply keeps_setBit

theorem keeps_portLinkUpOp {u s : State} (x0 : Nat) (h : Keeps u s) : Keeps u (portLinkUpOp x0 s) := by
  unfold portLinkUpOp
  repeat' first
    | with_reducible assumption | with_reducible apply keeps_setFld | with_reducible apply keeps_evt
    | with_reducible apply keeps_setBit | with_reducible refine keeps_ite ?_ ?_

theorem keeps_hingeTxStamp {u s : State} (x0 x1 : Nat) (h : Keeps u s) : Keeps u (hingeTxStamp x0 x1 s) := by
  unfold hingeTxStamp
  repeat' first | (with_reducible apply keeps_mk; with_reducible assumption)

theorem keeps_portTransmitOp {u s : State} (x0 x1 : Nat) (h : Keeps u s) : Keeps u (portTransmitOp x0 x1 s) := by
  unfold portTransmitOp
  repeat' first
    | with_reducible assumption | (intro x; refine keeps_cut (a := Keeps u x) ?_ ?_; intro _; clear_value x)
    | (intro x; clear_value x) | subst x | lift_lets -underBinder | with_reducible apply keeps_hingeTxStamp
    | with_reducible apply keeps_macCount | with_reducible apply keeps_setPort | split

theorem keeps_ringPlaceFreedOp {u s : State} (x0 : Nat) (h : Keeps u s) : Keeps u (ringPlaceFreedOp x0 s) := by
  unfold ringPlaceFreedOp
  repeat' first
    | with_reducible assumption | (intro x; refine keeps_cut (a := Keeps u x) ?_ ?_; intro _; clear_value x)
    | (intro x; clear_value x) | lift_lets -underBinder | with_reducible apply keeps_setPort
    | with_reducible apply keeps_esmcHeard | split

theorem keeps_offerDvt {u s : State} (x0 : Nat) (x1 : Frame) (h : Keeps u s) : Keeps u (offerDvt x0 x1 s) := by
  unfold offerDvt
  repeat' first | with_reducible assumption | with_reducible apply keeps_setPort

theorem keeps_a67Arrivals {u s : State} (x0 : Word) (x1 : List Byte) (x2 : Nat) (x3 : Int) (x4 : Nat) (x5 : Int) (h : Keeps u s) :
    Keeps u (a67Arrivals x0 x1 x2 x3 x4 x5 s) := by
  unfold a67Arrivals
  repeat' first
    | with_reducible assumption | intro _ | with_reducible refine keeps_foldl ?_ ?_
    | with_reducible apply keeps_arrive | with_reducible refine keeps_ite ?_ ?_

theorem keeps_dvtCount {u s : State} (x0 x1 : Nat) (h : Keeps u s) : Keeps u (dvtCount x0 x1 s) := by
  unfold dvtCount
  repeat' first | with_reducible assumption | with_reducible apply keeps_count

theorem keeps_a67MissFolio {u s : State} (x0 : Nat) (h : Keeps u s) : Keeps u (a67MissFolio x0 s) := by
  unfold a67MissFolio
  repeat' first
    | with_reducible assumption | intro _ | with_reducible refine keeps_forN ?_ ?_
    | with_reducible apply keeps_dvtCount | with_reducible refine keeps_ite ?_ ?_

theorem keeps_a67Packet {u s : State} (x0 : Frame) (x1 : Int) (h : Keeps u s) : Keeps u (a67Packet x0 x1 s) := by
  unfold a67Packet
  repeat' first
    | with_reducible assumption | (intro x; refine keeps_cut (a := Keeps u x) ?_ ?_; intro _; clear_value x)
    | (intro x; clear_value x) | subst x | lift_lets -underBinder | with_reducible apply keeps_evt
    | with_reducible apply keeps_dvtCount | with_reducible apply keeps_setArx
    | with_reducible apply keeps_a67Arrivals | split

theorem keeps_dvtCfgErr {u s : State} (h : Keeps u s) : Keeps u (dvtCfgErr s) := by
  unfold dvtCfgErr
  repeat' first | with_reducible assumption | with_reducible apply keeps_evt

theorem keeps_a67cfgWrite {u s : State} (x0 : Bool) (x1 : Nat) (x2 : Word) (h : Keeps u s) :
    Keeps u (a67cfgWrite x0 x1 x2 s) := by
  unfold a67cfgWrite
  repeat' first
    | (intro x; refine keeps_cut (a := Keeps u x) ?_ ?_; intro _; clear_value x) | (intro x; clear_value x)
    | lift_lets -underBinder | with_reducible apply keeps_dvtCfgErr | with_reducible apply keeps_typeWrite
    | with_reducible apply keeps_setArx | (with_reducible apply keeps_mk; with_reducible assumption)
    | with_reducible refine keeps_ite ?_ ?_

theorem keeps_badHdr {u s : State} (h : Keeps u s) : Keeps u (badHdr s) := by
  unfold badHdr
  repeat' first | with_reducible assumption | with_reducible apply keeps_evt | with_reducible apply keeps_dvtCount

theorem keeps_controlFrame {u s : State} (x0 : Frame) (x1 : List Byte) (h : Keeps u s) :
    Keeps u (controlFrame x0 x1 s) := by
  unfold controlFrame
  repeat' first
    | with_reducible assumption | (intro x; clear_value x) | lift_lets -underBinder
    | with_reducible apply keeps_count | split

theorem keeps_l1Frame {u s : State} (x0 : Nat) (x1 : Frame) (x2 : List Byte) (x3 : Int) (h : Keeps u s) :
    Keeps u (l1Frame x0 x1 x2 x3 s) := by
  unfold l1Frame
  repeat' first
    | (intro x; clear_value x) | lift_lets -underBinder | (with_reducible apply keeps_mk; with_reducible assumption)
    | split

theorem keeps_skewNote {u s : State} (x0 : Nat) (x1 x2 : Int) (h : Keeps u s) : Keeps u (skewNote x0 x1 x2 s) := by
  unfold skewNote
  repeat' first
    | with_reducible assumption | with_reducible apply keeps_setSub | with_reducible apply keeps_note
    | with_reducible apply keeps_evtIf

theorem keeps_skewTake {u s : State} (x0 x1 x2 : Nat) (x3 : Int) (h : Keeps u s) :
    Keeps u (skewTake x0 x1 x2 x3 s) := by
  unfold skewTake
  repeat' first
    | with_reducible assumption | (intro x; refine keeps_cut (a := Keeps u x) ?_ ?_; intro _; clear_value x)
    | (intro x; clear_value x) | lift_lets -underBinder | with_reducible apply keeps_setSub
    | with_reducible apply keeps_skewNote | split

theorem keeps_copyNote {u s : State} (x0 x1 x2 : Nat) (x3 : Int) (h : Keeps u s) :
    Keeps u (copyNote x0 x1 x2 x3 s) := by
  unfold copyNote
  repeat' first | with_reducible assumption | with_reducible apply keeps_setBit | with_reducible apply keeps_setSub

theorem keeps_relayCopy {u s : State} (x0 : Nat) (x1 : Frame) (h : Keeps u s) : Keeps u (relayCopy x0 x1 s) := by
  unfold relayCopy
  repeat' first | with_reducible assumption | with_reducible apply keeps_offer | with_reducible refine keeps_ite ?_ ?_

theorem keeps_dropCopy {u s : State} (x0 x1 : Nat) (h : Keeps u s) : Keeps u (dropCopy x0 x1 s) := by
  unfold dropCopy
  repeat' first | with_reducible assumption | with_reducible apply keeps_setPst

theorem keeps_validCopy {u s : State} (x0 x1 : Nat) (x2 : Frame) (x3 : List Byte) (x4 : Int) (h : Keeps u s) :
    Keeps u (validCopy x0 x1 x2 x3 x4 s) := by
  unfold validCopy
  repeat' first
    | with_reducible assumption | (intro x; refine keeps_cut (a := Keeps u x) ?_ ?_; intro _; clear_value x)
    | (intro x; clear_value x) | lift_lets -underBinder | with_reducible apply keeps_skewTake
    | with_reducible apply keeps_arrive | with_reducible apply keeps_copyNote | with_reducible apply keeps_relayCopy
    | with_reducible apply keeps_setSub | with_reducible apply keeps_dvtCount | with_reducible apply keeps_dropCopy
    | split

theorem keeps_dvtAudio {u s : State} (x0 : Nat) (x1 : Frame) (x2 : List Byte) (x3 : Int) (h : Keeps u s) :
    Keeps u (dvtAudio x0 x1 x2 x3 s) := by
  unfold dvtAudio
  repeat' first
    | with_reducible assumption | (intro x; refine keeps_cut (a := Keeps u x) ?_ ?_; intro _; clear_value x)
    | (intro x; clear_value x) | lift_lets -underBinder | with_reducible apply keeps_l1Frame
    | with_reducible apply keeps_dvtCount | with_reducible apply keeps_validCopy | with_reducible apply keeps_badHdr
    | split

theorem keeps_partnerNote {u s : State} (x0 : Nat) (x1 : List Byte) (h : Keeps u s) :
    Keeps u (partnerNote x0 x1 s) := by
  unfold partnerNote
  repeat' first | (with_reducible apply keeps_mk; with_reducible assumption) | with_reducible refine keeps_ite ?_ ?_

theorem keeps_toSteward {u s : State} (x0 : Nat) (x1 : Frame) (x2 : Int) (h : Keeps u s) :
    Keeps u (toSteward x0 x1 x2 s) := by
  unfold toSteward
  repeat' first
    | with_reducible assumption | with_reducible apply keeps_macCount | with_reducible apply keeps_evt
    | with_reducible apply keeps_setPort | with_reducible refine keeps_ite ?_ ?_

theorem keeps_classify {u s : State} (x0 : Nat) (x1 : Frame) (x2 x3 : Int) (h : Keeps u s) :
    Keeps u (classify x0 x1 x2 x3 s) := by
  unfold classify
  repeat' first
    | with_reducible assumption | with_reducible apply keeps_macCount | with_reducible apply keeps_controlFrame
    | with_reducible apply keeps_dvtAudio | with_reducible apply keeps_partnerNote
    | with_reducible apply keeps_badHdr | with_reducible apply keeps_a67Packet | with_reducible apply keeps_toSteward
    | with_reducible refine keeps_ite ?_ ?_

theorem keeps_rxidWrite {u s : State} (x0 : Nat) (x1 : Word) (h : Keeps u s) : Keeps u (rxidWrite x0 x1 s) := by
  unfold rxidWrite
  repeat' first
    | with_reducible assumption | with_reducible apply keeps_dvtCfgErr | with_reducible apply keeps_typeWrite
    | with_reducible apply keeps_setSub | with_reducible apply keeps_budgeted | with_reducible refine keeps_ite ?_ ?_

theorem keeps_rxmapWrite {u s : State} (x0 : Nat) (x1 : Word) (h : Keeps u s) : Keeps u (rxmapWrite x0 x1 s) := by
  unfold rxmapWrite
  repeat' first
    | with_reducible assumption | with_reducible apply keeps_dvtCfgErr | with_reducible apply keeps_typeWrite
    | with_reducible refine keeps_ite ?_ ?_

theorem keeps_txcfgWrite {u s : State} (x0 : Nat) (x1 : Word) (h : Keeps u s) : Keeps u (txcfgWrite x0 x1 s) := by
  unfold txcfgWrite
  repeat' first
    | with_reducible assumption | with_reducible apply keeps_dvtCfgErr | with_reducible apply keeps_typeWrite
    | with_reducible apply keeps_setTx | with_reducible apply keeps_budgeted | with_reducible refine keeps_ite ?_ ?_

theorem keeps_txmapSinkWrite {u s : State} (x0 : Nat) (x1 : Word) (h : Keeps u s) :
    Keeps u (txmapSinkWrite x0 x1 s) := by
  unfold txmapSinkWrite
  repeat' first
    | with_reducible assumption | with_reducible apply keeps_dvtCfgErr | with_reducible apply keeps_typeWrite
    | with_reducible refine keeps_ite ?_ ?_

theorem keeps_dvtWrite {u s : State} (x0 : Nat) (x1 : Word) (h : Keeps u s) : Keeps u (dvtWrite x0 x1 s) := by
  unfold dvtWrite
  repeat' first
    | with_reducible assumption | with_reducible apply keeps_typeWrite | with_reducible apply keeps_dvtCfgErr
    | with_reducible apply keeps_setFld | with_reducible apply keeps_rxidWrite
    | with_reducible apply keeps_subsBoundary | with_reducible apply keeps_rxmapWrite
    | with_reducible apply keeps_txcfgWrite | with_reducible apply keeps_txmapSinkWrite
    | with_reducible apply keeps_a67cfgWrite | with_reducible refine keeps_ite ?_ ?_

theorem keeps_frameReceivedOp {u s : State} (x0 : Nat) (x1 : Frame) (x2 : Nat) (h : Keeps u s) :
    Keeps u (frameReceivedOp x0 x1 x2 s) := by
  unfold frameReceivedOp
  repeat' first
    | with_reducible assumption | (intro x; refine keeps_cut (a := Keeps u x) ?_ ?_; intro _; clear_value x)
    | (intro x; clear_value x) | subst x | lift_lets -underBinder | with_reducible apply keeps_macCount
    | with_reducible apply keeps_classify | split

theorem keeps_streamLossOp {u s : State} (x0 : Nat) (h : Keeps u s) : Keeps u (streamLossOp x0 s) := by
  unfold streamLossOp
  repeat' first
    | with_reducible assumption | with_reducible apply keeps_evt | with_reducible apply keeps_setBit
    | with_reducible apply keeps_setSub | with_reducible refine keeps_ite ?_ ?_

theorem keeps_macWrite {u s : State} (x0 x1 : Nat) (x2 : Word) (h : Keeps u s) : Keeps u (macWrite x0 x1 x2 s) := by
  unfold macWrite
  repeat' first
    | with_reducible assumption | with_reducible apply keeps_macCfgWriteOp | with_reducible apply keeps_typeWrite
    | with_reducible refine keeps_ite ?_ ?_

theorem keeps_missFolio {u s : State} (x0 : Nat) (h : Keeps u s) : Keeps u (missFolio x0 s) := by
  unfold missFolio
  repeat' first
    | with_reducible assumption | intro _ | with_reducible refine keeps_foldl ?_ ?_
    | with_reducible apply keeps_setSub | with_reducible refine keeps_ite ?_ ?_

theorem keeps_netPosted {u s : State} (x0 : Nat) (h : Keeps u s) : Keeps u (netPosted x0 s) := by
  unfold netPosted
  repeat' first
    | with_reducible assumption | intro _ | with_reducible refine keeps_foldl ?_ ?_ | with_reducible apply keeps_evt
    | with_reducible apply keeps_count | with_reducible refine keeps_ite ?_ ?_

theorem keeps_setAtx {u s : State} (x1 : Nat) (x2 : A67) (h : Keeps u s) : Keeps u (State.setAtx s x1 x2) := by
  unfold State.setAtx
  repeat' first | (with_reducible apply keeps_mk; with_reducible assumption)

theorem keeps_a67Packets {u s : State} (x0 x1 x2 x3 x4 x5 x6 : Nat) (h : Keeps u s) :
    Keeps u (a67Packets x0 x1 x2 x3 x4 x5 x6 s) := by
  induction x6 generalizing s with
  | zero => exact h
  | succ n ih =>
    unfold a67Packets
    dsimp only
    split
    · exact h
    · exact ih (keeps_setAtx _ _ (keeps_ite (keeps_offerDvt _ _ h) h))

theorem keeps_a67Release {u s : State} (x0 : Fol) (x1 x2 : Nat) (h : Keeps u s) :
    Keeps u (a67Release x0 x1 x2 s) := by
  unfold a67Release
  repeat' first
    | with_reducible assumption | with_reducible apply keeps_evtIf | with_reducible apply keeps_setAtx
    | with_reducible apply keeps_a67Packets | with_reducible refine keeps_ite ?_ ?_

theorem keeps_txEffect {u s : State} (x0 : Nat) (h : Keeps u s) : Keeps u (txEffect x0 s) := by
  unfold txEffect
  repeat' first | (with_reducible apply keeps_mk; with_reducible assumption)

theorem keeps_sendStream {u s : State} (x0 : Fol) (x1 x2 : Nat) (x3 : Nat → Bool) (h : Keeps u s) :
    Keeps u (sendStream x0 x1 x2 x3 s) := by
  unfold sendStream
  repeat' first
    | with_reducible assumption | intro _ | with_reducible refine keeps_forN ?_ ?_ | with_reducible apply keeps_evtIf
    | with_reducible apply keeps_offerDvt | with_reducible refine keeps_ite ?_ ?_

theorem keeps_releaseFolio {u s : State} (x0 : Nat) (h : Keeps u s) : Keeps u (releaseFolio x0 s) := by
  unfold releaseFolio
  repeat' first
    | with_reducible assumption | intro _ | lift_lets -underBinder | with_reducible refine keeps_forN ?_ ?_
    | with_reducible refine keeps_foldl ?_ ?_ | with_reducible apply keeps_txEffect
    | with_reducible apply keeps_sendStream | with_reducible apply keeps_a67Release | split

theorem keeps_dvtReleaseOp {u s : State} (h : Keeps u s) : Keeps u (dvtReleaseOp s) := by
  unfold dvtReleaseOp
  repeat' first | with_reducible assumption | with_reducible apply keeps_releaseFolio | split

theorem keeps_sendControl {u s : State} (x0 x1 x2 : Nat) (x3 : List Byte) (h : Keeps u s) :
    Keeps u (sendControl x0 x1 x2 x3 s) := by
  unfold sendControl
  repeat' first | with_reducible assumption | with_reducible apply keeps_offer | with_reducible refine keeps_ite ?_ ?_

theorem keeps_sendNetworks {u s : State} (x0 x1 : Nat) (x2 : List Byte) (h : Keeps u s) :
    Keeps u (sendNetworks x0 x1 x2 s) := by
  unfold sendNetworks
  repeat' first | with_reducible assumption | with_reducible apply keeps_sendControl

theorem keeps_setKwy {u s : State} (x1 : Kwy) (h : Keeps u s) : Keeps u (State.setKwy s x1) := by
  unfold State.setKwy
  repeat' first | (with_reducible apply keeps_mk; with_reducible assumption)

theorem keeps_proxyNext {u s : State} (h : Keeps u s) : Keeps u (proxyNext s) := by
  unfold proxyNext
  repeat' first
    | with_reducible assumption | with_reducible apply keeps_setKwy | with_reducible apply keeps_hostQueue | split

theorem keeps_proxyEnd {u s : State} (x0 : Proxy) (x1 : Resp) (x2 : Word) (h : Keeps u s) :
    Keeps u (proxyEnd x0 x1 x2 s) := by
  unfold proxyEnd
  repeat' first
    | with_reducible assumption | with_reducible apply keeps_clhAnswer | with_reducible apply keeps_clhRefuse
    | with_reducible apply keeps_answer | split

theorem keeps_proxyFail {u s : State} (x0 : Nat) (h : Keeps u s) : Keeps u (proxyFail x0 s) := by
  unfold proxyFail
  repeat' first
    | with_reducible assumption | with_reducible apply keeps_proxyNext | with_reducible apply keeps_proxyEnd
    | with_reducible apply keeps_evt | with_reducible apply keeps_setKwy | split

theorem keeps_cmdTimeoutOp {u s : State} (h : Keeps u s) : Keeps u (cmdTimeoutOp s) := by
  unfold cmdTimeoutOp
  repeat' first | with_reducible assumption | with_reducible apply keeps_proxyFail | split

theorem keeps_fieldClockSwitchOp {u s : State} (h : Keeps u s) : Keeps u (fieldClockSwitchOp s) := by
  unfold fieldClockSwitchOp
  repeat' first
    | with_reducible assumption | with_reducible apply keeps_fevt | with_reducible apply keeps_setField
    | with_reducible refine keeps_ite ?_ ?_

theorem keeps_proxyFlush {u s : State} (x0 : List Proxy) (h : Keeps u s) : Keeps u (proxyFlush x0 s) := by
  revert h
  fun_induction proxyFlush x0 s <;> intro h
  repeat' first | with_reducible apply keeps_proxyEnd | apply_assumption

theorem keeps_sendHinge {u s : State} (x0 : Nat) (x1 : Bool) (h : Keeps u s) : Keeps u (sendHinge x0 x1 s) := by
  unfold sendHinge
  repeat' first | with_reducible assumption | with_reducible apply keeps_sendControl

theorem keeps_fieldOkFollow {u s : State} (x0 : Bool) (h : Keeps u s) : Keeps u (fieldOkFollow x0 s) := by
  unfold fieldOkFollow
  repeat' first
    | with_reducible assumption | with_reducible apply keeps_sendHinge | with_reducible refine keeps_ite ?_ ?_

theorem keeps_hostEndDown {u s : State} (h : Keeps u s) : Keeps u (hostEndDown s) := by
  unfold hostEndDown
  repeat' first
    | with_reducible assumption | with_reducible apply keeps_setKwy | with_reducible apply keeps_proxyEnd
    | with_reducible apply keeps_evt | with_reducible apply keeps_proxyFlush
    | with_reducible apply keeps_fieldOkFollow | split

theorem keeps_fieldEndDown {u s : State} (h : Keeps u s) : Keeps u (fieldEndDown s) := by
  unfold fieldEndDown
  repeat' first
    | with_reducible assumption | intro _ | with_reducible refine keeps_forN ?_ ?_
    | with_reducible apply keeps_fbusDrop | with_reducible apply keeps_setField | with_reducible apply keeps_fevt
    | with_reducible apply keeps_foutSettle | with_reducible refine keeps_ite ?_ ?_

theorem keeps_keywayLinkDownOp {u s : State} (x0 x1 : Bool) (h : Keeps u s) : Keeps u (keywayLinkDownOp x0 x1 s) := by
  unfold keywayLinkDownOp
  repeat' first
    | with_reducible assumption | with_reducible apply keeps_hostEndDown | with_reducible apply keeps_fieldEndDown
    | with_reducible refine keeps_ite ?_ ?_

theorem keeps_hostLaunch {u s : State} (h : Keeps u s) : Keeps u (hostLaunch s) := by
  unfold hostLaunch
  repeat' first
    | with_reducible assumption | (intro x; clear_value x) | lift_lets -underBinder
    | with_reducible apply keeps_setKwy | split

theorem keeps_fieldLaunch {u s : State} (h : Keeps u s) : Keeps u (fieldLaunch s) := by
  unfold fieldLaunch
  repeat' first
    | with_reducible assumption | (intro x; clear_value x) | lift_lets -underBinder
    | with_reducible apply keeps_setField | split

theorem keeps_laneClockLossOp {u s : State} (h : Keeps u s) : Keeps u (laneClockLossOp s) := by
  unfold laneClockLossOp
  repeat' first | with_reducible assumption | with_reducible apply keeps_setField

theorem keeps_lanesAlignedOp {u s : State} (x0 : Bool) (h : Keeps u s) : Keeps u (lanesAlignedOp x0 s) := by
  unfold lanesAlignedOp
  repeat' first
    | with_reducible assumption | with_reducible apply keeps_setField | with_reducible apply keeps_setKwy
    | with_reducible refine keeps_ite ?_ ?_

theorem keeps_proxyAccess {u s : State} (x0 : Bool) (x1 : Proxy) (h : Keeps u s) : Keeps u (proxyAccess x0 x1 s) := by
  unfold proxyAccess
  repeat' first
    | with_reducible assumption | with_reducible apply keeps_proxyEnd | with_reducible apply keeps_proxyNext
    | with_reducible apply keeps_setKwy | with_reducible refine keeps_ite ?_ ?_

theorem keeps_proxyAccessOp {u s : State} (x0 : Master) (x1 : Bool) (x2 : Nat) (x3 : Word) (h : Keeps u s) :
    Keeps u (proxyAccessOp x0 x1 x2 x3 s) := by
  unfold proxyAccessOp
  repeat' first
    | with_reducible assumption | with_reducible apply keeps_proxyAccess | with_reducible apply keeps_clhRefuse
    | with_reducible refine keeps_ite ?_ ?_

theorem keeps_trainingCompleteOp {u s : State} (x0 : Bool) (x1 : Nat) (h : Keeps u s) :
    Keeps u (trainingCompleteOp x0 x1 s) := by
  unfold trainingCompleteOp
  repeat' first
    | with_reducible assumption | with_reducible apply keeps_evt | with_reducible apply keeps_setFld
    | with_reducible apply keeps_setReg | with_reducible apply keeps_setKwy | with_reducible apply keeps_setField
    | with_reducible apply keeps_foutSettle | with_reducible refine keeps_ite ?_ ?_

theorem keeps_keywayDown {u s : State} (h : Keeps u s) : Keeps u (keywayDown s) := by
  unfold keywayDown
  repeat' first
    | with_reducible assumption | with_reducible apply keeps_hostEndDown | with_reducible apply keeps_fieldEndDown

theorem keeps_kwyCtrlWrite {u s : State} (x0 : Word) (h : Keeps u s) : Keeps u (kwyCtrlWrite x0 s) := by
  unfold kwyCtrlWrite
  repeat' first
    | with_reducible assumption | with_reducible apply keeps_keywayLinkDownOp | with_reducible apply keeps_typeWrite

theorem keeps_kwyFolio {u s : State} (h : Keeps u s) : Keeps u (kwyFolio s) := by
  unfold kwyFolio
  repeat' first | with_reducible assumption | with_reducible apply keeps_setKwy

theorem keeps_proxyWrite {u s : State} (x0 : Bool) (x1 : Nat) (x2 : Word) (h : Keeps u s) :
    Keeps u (proxyWrite x0 x1 x2 s) := by
  unfold proxyWrite
  repeat' first | with_reducible assumption | with_reducible apply keeps_proxyAccess

theorem keeps_blockMissingOp {u s : State} (h : Keeps u s) : Keeps u (blockMissingOp s) := by
  unfold blockMissingOp
  repeat' first
    | with_reducible assumption | intro _ | with_reducible refine keeps_forN ?_ ?_ | with_reducible apply keeps_fevt
    | with_reducible apply keeps_fkwyCount | with_reducible apply keeps_setField | with_reducible apply keeps_setChan
    | with_reducible refine keeps_ite ?_ ?_

theorem keeps_envelopeKnown {u s : State} (x0 : Nat) (x1 : Nat → Nat) (h : Keeps u s) :
    Keeps u (envelopeKnown x0 x1 s) := by
  unfold envelopeKnown
  repeat' first
    | with_reducible assumption | with_reducible apply keeps_silenceFrom | with_reducible apply keeps_applyEnvelope

theorem keeps_blockOp {u s : State} (x0 : List Byte) (h : Keeps u s) : Keeps u (blockOp x0 s) := by
  unfold blockOp
  repeat' first
    | with_reducible assumption | intro _ | lift_lets -underBinder | with_reducible refine keeps_forN ?_ ?_
    | with_reducible apply keeps_setField | with_reducible apply keeps_setChan
    | with_reducible apply keeps_cmdRefused | with_reducible apply keeps_envelopeKnown | split

theorem keeps_cmdOp {u s : State} (x0 : List Byte) (h : Keeps u s) : Keeps u (cmdOp x0 s) := by
  unfold cmdOp
  repeat' first
    | with_reducible assumption | with_reducible apply keeps_fieldWrite | with_reducible apply keeps_clearRC
    | with_reducible apply keeps_fieldQueue | with_reducible refine keeps_ite ?_ ?_

theorem keeps_kwyCount {u s : State} (x0 x1 : Nat) (h : Keeps u s) : Keeps u (kwyCount x0 x1 s) := by
  unfold kwyCount
  repeat' first | with_reducible assumption | with_reducible apply keeps_count

theorem keeps_cmdackOp {u s : State} (x0 : List Byte) (h : Keeps u s) : Keeps u (cmdackOp x0 s) := by
  unfold cmdackOp
  repeat' first
    | with_reducible assumption | with_reducible apply keeps_proxyNext | with_reducible apply keeps_proxyEnd
    | with_reducible apply keeps_setKwy | with_reducible apply keeps_proxyFail | with_reducible apply keeps_kwyCount
    | split

theorem keeps_envelopeOp {u s : State} (x0 : List Byte) (h : Keeps u s) : Keeps u (envelopeOp x0 s) := by
  unfold envelopeOp
  repeat' first
    | with_reducible assumption | with_reducible apply keeps_envelopeKnown | with_reducible refine keeps_ite ?_ ?_

theorem keeps_fieldTake {u s : State} (x0 : KwyMsg) (x1 : List Byte → State → State)
    (hf : ∀ q t, Keeps u t → Keeps u (x1 q t)) (h : Keeps u s) :
    Keeps u (fieldTake x0 x1 s) := by
  unfold fieldTake
  repeat' first
    | with_reducible assumption | with_reducible apply keeps_fevt | with_reducible apply keeps_fkwyCount
    | with_reducible apply keeps_setField | with_reducible apply hf | split

theorem keeps_hostTake {u s : State} (x0 : KwyMsg) (x1 : List Byte → State → State)
    (hf : ∀ q t, Keeps u t → Keeps u (x1 q t)) (h : Keeps u s) :
    Keeps u (hostTake x0 x1 s) := by
  unfold hostTake
  repeat' first
    | with_reducible assumption | with_reducible apply keeps_evt | with_reducible apply keeps_kwyCount
    | with_reducible apply keeps_setKwy | with_reducible apply hf | split

theorem keeps_faultOp {u s : State} (x0 : List Byte) (h : Keeps u s) : Keeps u (faultOp x0 s) := by
  unfold faultOp
  repeat' first
    | with_reducible assumption | with_reducible apply keeps_raise | with_reducible apply keeps_setKwy
    | with_reducible apply keeps_note | with_reducible apply keeps_evt | with_reducible refine keeps_ite ?_ ?_

theorem keeps_fbusToFieldOp {u s : State} (x0 : List Byte) (h : Keeps u s) : Keeps u (fbusToFieldOp x0 s) := by
  unfold fbusToFieldOp
  repeat' first | with_reducible assumption | with_reducible apply keeps_f0Offer

theorem keeps_fbusToHostOp {u s : State} (x0 : List Byte) (h : Keeps u s) : Keeps u (fbusToHostOp x0 s) := by
  unfold fbusToHostOp
  repeat' first | with_reducible assumption | with_reducible apply keeps_setKwy

theorem keeps_fhblossOp {u s : State} (h : Keeps u s) : Keeps u (fhblossOp s) := by
  unfold fhblossOp
  repeat' first | with_reducible assumption | with_reducible apply keeps_evt | with_reducible apply keeps_setBit

theorem keeps_fieldFolioStartOp {u s : State} (h : Keeps u s) : Keeps u (fieldFolioStartOp s) := by
  unfold fieldFolioStartOp
  repeat' first
    | with_reducible assumption | with_reducible apply keeps_setField | with_reducible apply keeps_playersFolio
    | with_reducible apply keeps_fieldFirst | with_reducible refine keeps_ite ?_ ?_

theorem keeps_fieldHeartbeatOp {u s : State} (x0 : List Byte) (h : Keeps u s) : Keeps u (fieldHeartbeatOp x0 s) := by
  unfold fieldHeartbeatOp
  repeat' first | with_reducible assumption | with_reducible apply keeps_setBit | with_reducible apply keeps_setKwy

theorem keeps_hostHeartbeatOp {u s : State} (x0 : List Byte) (h : Keeps u s) : Keeps u (hostHeartbeatOp x0 s) := by
  unfold hostHeartbeatOp
  repeat' first
    | with_reducible assumption | with_reducible apply keeps_renumber | with_reducible apply keeps_setField

theorem keeps_kwyFlogReadOp {u s : State} (h : Keeps u s) : Keeps u (kwyFlogReadOp s) := by
  unfold kwyFlogReadOp
  repeat' first
    | with_reducible assumption | with_reducible apply keeps_answer | with_reducible apply keeps_setKwy | split

theorem keeps_senseOp {u s : State} (x0 : List Byte) (h : Keeps u s) : Keeps u (senseOp x0 s) := by
  unfold senseOp
  repeat' first | with_reducible assumption | with_reducible apply keeps_setKwy

theorem keeps_statusOp {u s : State} (x0 : List Byte) (h : Keeps u s) : Keeps u (statusOp x0 s) := by
  unfold statusOp
  repeat' first
    | with_reducible assumption | with_reducible apply keeps_setFld | with_reducible apply keeps_setBit
    | with_reducible apply keeps_setReg | with_reducible apply keeps_evtIf | with_reducible apply keeps_sum
    | with_reducible apply keeps_fieldOkFollow | with_reducible refine keeps_ite ?_ ?_

theorem keeps_setHng {u s : State} (x1 : Hng) (h : Keeps u s) : Keeps u (State.setHng s x1) := by
  unfold State.setHng
  repeat' first | (with_reducible apply keeps_mk; with_reducible assumption)

theorem keeps_compareCsum {u s : State} (x0 : Word) (h : Keeps u s) : Keeps u (compareCsum x0 s) := by
  unfold compareCsum
  repeat' first
    | with_reducible assumption | intro _ | lift_lets -underBinder | with_reducible apply keeps_setReg
    | with_reducible apply keeps_evtIf | with_reducible apply keeps_setHng | with_reducible apply keeps_count | split

theorem keeps_enterPaired {u s : State} (h : Keeps u s) : Keeps u (enterPaired s) := by
  unfold enterPaired
  repeat' first | with_reducible assumption | with_reducible apply keeps_evt | with_reducible apply keeps_setHng

theorem keeps_enterTaken {u s : State} (h : Keeps u s) : Keeps u (enterTaken s) := by
  unfold enterTaken
  repeat' first
    | with_reducible assumption | with_reducible apply keeps_proxyWrite | with_reducible apply keeps_evt
    | with_reducible apply keeps_setHng | with_reducible refine keeps_ite ?_ ?_

theorem keeps_enterYielded {u s : State} (h : Keeps u s) : Keeps u (enterYielded s) := by
  unfold enterYielded
  repeat' first | with_reducible assumption | with_reducible apply keeps_evt | with_reducible apply keeps_setHng

theorem keeps_fillOp {u s : State} (x0 : Nat) (h : Keeps u s) : Keeps u (fillOp x0 s) := by
  unfold fillOp
  repeat' first
    | with_reducible assumption | (intro x; refine keeps_cut (a := Keeps u x) ?_ ?_; intro _; clear_value x)
    | (intro x; clear_value x) | lift_lets -underBinder | with_reducible apply keeps_sendStream
    | with_reducible apply keeps_count | with_reducible apply keeps_setHng | split

theorem keeps_releaseStart {u s : State} (x0 : Bool) (x1 : Word) (h : Keeps u s) :
    Keeps u (releaseStart x0 x1 s) := by
  unfold releaseStart
  repeat' first
    | with_reducible assumption | intro _ | with_reducible refine keeps_foldl ?_ ?_
    | with_reducible apply keeps_proxyWrite | with_reducible apply keeps_setHng
    | with_reducible refine keeps_ite ?_ ?_

theorem keeps_hngCfgErr {u s : State} (h : Keeps u s) : Keeps u (hngCfgErr s) := by
  unfold hngCfgErr
  repeat' first | with_reducible assumption | with_reducible apply keeps_evt

theorem keeps_giveOp {u s : State} (h : Keeps u s) : Keeps u (giveOp s) := by
  unfold giveOp
  repeat' first
    | with_reducible assumption | with_reducible apply keeps_releaseStart | with_reducible apply keeps_hngCfgErr
    | with_reducible refine keeps_ite ?_ ?_

theorem keeps_heartbeatLossOp {u s : State} (h : Keeps u s) : Keeps u (heartbeatLossOp s) := by
  unfold heartbeatLossOp
  repeat' first | with_reducible assumption | with_reducible apply keeps_enterTaken | split

theorem keeps_hingeHeard {u s : State} (x0 : Nat) (x1 : HingeMsg) (x2 : Nat) (h : Keeps u s) :
    Keeps u (hingeHeard x0 x1 x2 s) := by
  unfold hingeHeard
  repeat' first
    | with_reducible assumption | with_reducible apply keeps_setReg | with_reducible apply keeps_setHng
    | with_reducible refine keeps_ite ?_ ?_

theorem keeps_hingeMoves {u s : State} (x0 : Nat) (x1 : HingeMsg) (h : Keeps u s) : Keeps u (hingeMoves x0 x1 s) := by
  unfold hingeMoves
  repeat' first
    | with_reducible assumption | intro _ | lift_lets -underBinder | with_reducible apply keeps_enterYielded
    | with_reducible apply keeps_enterPaired | with_reducible apply keeps_enterTaken
    | with_reducible apply keeps_proxyWrite | split

theorem keeps_hingeOp {u s : State} (x0 : Nat) (x1 : HingeMsg) (x2 : Nat) (h : Keeps u s) :
    Keeps u (hingeOp x0 x1 x2 s) := by
  unfold hingeOp
  repeat' first
    | with_reducible assumption | with_reducible apply keeps_hingeHeard | with_reducible apply keeps_evtIf
    | with_reducible apply keeps_hingeMoves | with_reducible apply keeps_compareCsum
    | with_reducible refine keeps_ite ?_ ?_

theorem keeps_hngEnableOp {u s : State} (x0 : Word) (h : Keeps u s) : Keeps u (hngEnableOp x0 s) := by
  unfold hngEnableOp
  repeat' first
    | with_reducible assumption | with_reducible apply keeps_typeWrite | with_reducible apply keeps_evt
    | with_reducible apply keeps_setHng | with_reducible refine keeps_ite ?_ ?_

theorem keeps_returnOp {u s : State} (h : Keeps u s) : Keeps u (returnOp s) := by
  unfold returnOp
  repeat' first
    | with_reducible assumption | with_reducible apply keeps_releaseStart | with_reducible apply keeps_hngCfgErr
    | with_reducible refine keeps_ite ?_ ?_

theorem keeps_releaseHswtElapsedOp {u s : State} (h : Keeps u s) : Keeps u (releaseHswtElapsedOp s) := by
  unfold releaseHswtElapsedOp
  repeat' first
    | with_reducible assumption | with_reducible apply keeps_sendHinge | with_reducible apply keeps_enterYielded
    | with_reducible apply keeps_enterPaired | with_reducible apply keeps_setHng | split

theorem keeps_releaseSwitchOpenOp {u s : State} (h : Keeps u s) : Keeps u (releaseSwitchOpenOp s) := by
  unfold releaseSwitchOpenOp
  repeat' first
    | with_reducible assumption | (intro x; refine keeps_cut (a := Keeps u x) ?_ ?_; intro _; clear_value x)
    | (intro x; clear_value x) | subst x | lift_lets -underBinder | with_reducible apply keeps_proxyWrite
    | with_reducible apply keeps_setHng | split

theorem keeps_splitOp {u s : State} (h : Keeps u s) : Keeps u (splitOp s) := by
  unfold splitOp
  repeat' first
    | with_reducible assumption | with_reducible apply keeps_evt | with_reducible apply keeps_setHng
    | with_reducible refine keeps_ite ?_ ?_

theorem keeps_fillFolio {u s : State} (h : Keeps u s) : Keeps u (fillFolio s) := by
  unfold fillFolio
  repeat' first | with_reducible assumption | with_reducible apply keeps_setHng | split

theorem keeps_hngWrite {u s : State} (x0 : Nat) (x1 : Word) (h : Keeps u s) : Keeps u (hngWrite x0 x1 s) := by
  unfold hngWrite
  repeat' first
    | with_reducible assumption | (intro x; refine keeps_cut (a := Keeps u x) ?_ ?_; intro _; clear_value x)
    | (intro x; clear_value x) | subst x | lift_lets -underBinder | with_reducible apply keeps_hngEnableOp
    | with_reducible apply keeps_hngCfgErr | with_reducible apply keeps_setFld | with_reducible apply keeps_typeWrite
    | with_reducible apply keeps_giveOp | with_reducible apply keeps_returnOp | split

theorem keeps_setDis {u s : State} (x1 : Dis) (h : Keeps u s) : Keeps u (State.setDis s x1) := by
  unfold State.setDis
  repeat' first | (with_reducible apply keeps_mk; with_reducible assumption)

theorem keeps_announceOp {u s : State} (x0 x1 x2 : Nat) (x3 : Word) (x4 x5 : Nat) (h : Keeps u s) :
    Keeps u (announceOp x0 x1 x2 x3 x4 x5 s) := by
  unfold announceOp
  repeat' first
    | with_reducible assumption | with_reducible apply keeps_evt | with_reducible apply keeps_setBit
    | with_reducible apply keeps_setDis | with_reducible refine keeps_ite ?_ ?_

theorem keeps_sendClaims {u s : State} (h : Keeps u s) : Keeps u (sendClaims s) := by
  unfold sendClaims
  repeat' first
    | with_reducible assumption | with_reducible apply keeps_sendNetworks | with_reducible refine keeps_ite ?_ ?_

theorem keeps_claimIntervalOp {u s : State} (h : Keeps u s) : Keeps u (claimIntervalOp s) := by
  unfold claimIntervalOp
  repeat' first
    | with_reducible assumption | with_reducible apply keeps_sendClaims | with_reducible refine keeps_ite ?_ ?_

theorem keeps_noteRegistrar {u s : State} (x0 : Nat) (h : Keeps u s) : Keeps u (noteRegistrar x0 s) :=
  keeps_evtIf _ _ _ (keeps_setDis _ h)

theorem keeps_roleEvents {u s : State} (x0 : State) (h : Keeps u s) : Keeps u (roleEvents x0 s) :=
  keeps_noteRegistrar _ (keeps_noteRegistrar _ (keeps_evtIf _ _ _ h))

theorem keeps_claimOp {u s : State} (x0 x1 : Nat) (x2 : List Nat) (h : Keeps u s) : Keeps u (claimOp x0 x1 x2 s) := by
  unfold claimOp
  repeat' first
    | with_reducible assumption | with_reducible apply keeps_roleEvents | with_reducible apply keeps_setDis
    | with_reducible refine keeps_ite ?_ ?_

theorem keeps_claimTimeoutOp {u s : State} (x0 : Nat) (h : Keeps u s) : Keeps u (claimTimeoutOp x0 s) := by
  unfold claimTimeoutOp
  repeat' first
    | with_reducible assumption | with_reducible apply keeps_roleEvents | with_reducible apply keeps_setDis
    | with_reducible apply keeps_sendClaims | with_reducible refine keeps_ite ?_ ?_

theorem keeps_forget {u s : State} (x0 : Nat) (h : Keeps u s) : Keeps u (forget x0 s) := by
  unfold forget
  repeat' first
    | with_reducible assumption | with_reducible apply keeps_roleEvents | with_reducible apply keeps_setDis
    | with_reducible refine keeps_ite ?_ ?_

theorem keeps_periodicAnnounceOp {u s : State} (h : Keeps u s) : Keeps u (periodicAnnounceOp s) := by
  unfold periodicAnnounceOp
  repeat' first
    | with_reducible assumption | with_reducible apply keeps_sendNetworks | with_reducible refine keeps_ite ?_ ?_

theorem keeps_sendReply {u s : State} (x0 x1 : Nat) (x2 : List ReplyRec) (h : Keeps u s) :
    Keeps u (sendReply x0 x1 x2 s) := by
  unfold sendReply
  repeat' first
    | with_reducible assumption | with_reducible apply keeps_sendNetworks | with_reducible refine keeps_ite ?_ ?_

theorem keeps_sendQuery {u s : State} (x0 x1 : Nat) (x2 : List Nat) (h : Keeps u s) :
    Keeps u (sendQuery x0 x1 x2 s) := by
  unfold sendQuery
  repeat' first
    | with_reducible assumption | with_reducible apply keeps_sendNetworks | with_reducible refine keeps_ite ?_ ?_

theorem keeps_forward {u s : State} (x0 : List Nat) {x1 : Nat → State → State} {x2 : List ReplyRec → State → State}
    (h1 : ∀ q t, Keeps u t → Keeps u (x1 q t)) (h2 : ∀ q t, Keeps u t → Keeps u (x2 q t)) (h :
    Keeps u s) :
    Keeps u (forward x0 x1 x2 s) := by
  unfold forward
  repeat' first
    | with_reducible assumption | intro _ | with_reducible refine keeps_foldl ?_ ?_
    | with_reducible apply keeps_sendQuery | with_reducible apply keeps_setDis | with_reducible apply h1
    | with_reducible apply h2 | with_reducible refine keeps_ite ?_ ?_

theorem keeps_queryOp {u s : State} (x0 x1 : Nat) (x2 : List Nat) (h : Keeps u s) : Keeps u (queryOp x0 x1 x2 s) := by
  unfold queryOp
  repeat' first
    | with_reducible assumption | intro _ | with_reducible apply keeps_sendReply | with_reducible apply keeps_forward
    | with_reducible apply keeps_setDis | with_reducible refine keeps_ite ?_ ?_

theorem keeps_learn {u s : State} (x0 : List ReplyRec) (h : Keeps u s) : Keeps u (learn x0 s) := by
  unfold learn
  repeat' first | with_reducible assumption | with_reducible apply keeps_setDis

theorem keeps_querySlotOp {u s : State} (h : Keeps u s) : Keeps u (querySlotOp s) := by
  unfold querySlotOp
  repeat' first
    | with_reducible assumption | intro _ | with_reducible apply keeps_learn | with_reducible apply keeps_forward
    | with_reducible apply keeps_sendQuery | with_reducible apply keeps_setDis | split

theorem keeps_recordExpiryOp {u s : State} (x0 : Nat) (h : Keeps u s) : Keeps u (recordExpiryOp x0 s) := by
  unfold recordExpiryOp
  repeat' first
    | with_reducible assumption | with_reducible apply keeps_forget | with_reducible refine keeps_ite ?_ ?_

theorem keeps_replyOp {u s : State} (x0 : Nat) (x1 : List ReplyRec) (h : Keeps u s) : Keeps u (replyOp x0 x1 s) := by
  unfold replyOp
  repeat' first
    | with_reducible assumption | with_reducible apply keeps_sendReply | with_reducible apply keeps_setDis
    | with_reducible apply keeps_learn | split

theorem keeps_streamsStore {u s : State} (x0 : Nat) (x1 : List StreamRec) (h : Keeps u s) :
    Keeps u (streamsStore x0 x1 s) := by
  unfold streamsStore
  repeat' first | with_reducible assumption | with_reducible apply keeps_setDis

theorem keeps_streamsOp {u s : State} (x0 : Nat) (x1 : List StreamRec) (h : Keeps u s) :
    Keeps u (streamsOp x0 x1 s) := by
  unfold streamsOp
  repeat' first
    | with_reducible assumption | with_reducible apply keeps_streamsStore | with_reducible refine keeps_ite ?_ ?_

theorem keeps_streamsSlotOp {u s : State} (h : Keeps u s) : Keeps u (streamsSlotOp s) := by
  unfold streamsSlotOp
  repeat' first
    | with_reducible assumption
    | with_reducible apply keeps_setDis | with_reducible apply keeps_streamsStore | with_reducible apply keeps_sendNetworks
    | with_reducible refine keeps_ite ?_ ?_ | split

theorem keeps_ptpSend {u s : State} (x0 x1 x2 : Nat) (h : Keeps u s) : Keeps u (ptpSend x0 x1 x2 s) := by
  unfold ptpSend
  repeat' first | with_reducible assumption | with_reducible apply keeps_offer | with_reducible refine keeps_ite ?_ ?_

theorem keeps_syncIntervalOp {u s : State} (x0 : Nat) (h : Keeps u s) : Keeps u (syncIntervalOp x0 s) := by
  unfold syncIntervalOp
  repeat' first
    | with_reducible assumption | with_reducible apply keeps_ptpSend | with_reducible apply keeps_setTim
    | with_reducible refine keeps_ite ?_ ?_

end Sys2Proof.Machine
end

