-- ==== Sys2Proof/Laws/KeepsBus.lean ====
section
/-! SUPPORT. What power, supplies, register accesses, the bus and the Remits keep: one lemma `keeps_<operation>` per operation, in the
relation of Laws/Keeps.lean. -/

set_option maxRecDepth 4000

namespace Sys2Proof.Machine

theorem keeps_arbAdvanceOp {u s : State} (x0 : Word) (h : Keeps u s) : Keeps u (arbAdvanceOp x0 s) := by
  unfold arbAdvanceOp
  repeat' first
    | with_reducible assumption | with_reducible apply keeps_setBoot | with_reducible apply keeps_evt
    | with_reducible refine keeps_ite ?_ ?_

theorem keeps_arbFusesBlownOp {u s : State} (h : Keeps u s) : Keeps u (arbFusesBlownOp s) := by
  unfold arbFusesBlownOp
  split
  · exact h
  · exact keeps_evt _ _ (keeps_same h rfl rfl rfl rfl rfl rfl (Nat.le_refl _))

theorem keeps_restoreImage {u s : State} (x0 x1 : Nat) (h : Keeps u s) : Keeps u (restoreImage x0 x1 s) := by
  unfold restoreImage
  repeat' first
    | with_reducible assumption | intro _ | with_reducible refine keeps_foldl ?_ ?_
    | with_reducible apply keeps_wrByte | with_reducible apply keeps_clearMem

theorem keeps_restoreCtx {u s : State} (x0 : Nat) (x1 : Bool) (h : Keeps u s) : Keeps u (restoreCtx x0 x1 s) := by
  unfold restoreCtx
  repeat' first
    | with_reducible assumption | with_reducible apply keeps_restoreImage | with_reducible apply keeps_clhBank0
    | with_reducible apply keeps_setCtx | with_reducible refine keeps_ite ?_ ?_

theorem keeps_askRestore {u s : State} (x0 : Nat) (x1 : Bool) (h : Keeps u s) : Keeps u (askRestore x0 x1 s) := by
  unfold askRestore
  repeat' first
    | with_reducible apply keeps_restoreCtx | (with_reducible apply keeps_mk; with_reducible assumption)
    | with_reducible refine keeps_ite ?_ ?_

theorem keeps_domainReset {u s : State} (x0 : Nat) (h : Keeps u s) : Keeps u (domainReset x0 s) := by
  unfold domainReset
  repeat' first
    | (intro x; refine keeps_cut (a := Keeps u x) ?_ ?_; intro _; clear_value x) | (intro x; clear_value x)
    | lift_lets -underBinder | with_reducible apply keeps_clearMem | with_reducible apply keeps_resetRegs
    | with_reducible apply keeps_linkDown | with_reducible apply keeps_setPort
    | with_reducible apply keeps_excPowerOn | (with_reducible apply keeps_mk; with_reducible assumption)
    | with_reducible refine keeps_ite ?_ ?_

theorem keeps_domainMasters {u s : State} (x0 : Nat) (h : Keeps u s) : Keeps u (domainMasters x0 s) := by
  unfold domainMasters
  repeat' first | with_reducible assumption | with_reducible apply keeps_masterReset | split

theorem keeps_switchDomain {u s : State} (x0 : Nat) (x1 : Bool) (h : Keeps u s) : Keeps u (switchDomain x0 x1 s) := by
  unfold switchDomain
  repeat' first
    | with_reducible assumption | with_reducible apply keeps_setPwr | with_reducible apply keeps_domainReset
    | with_reducible apply keeps_domainMasters | with_reducible apply keeps_setBit
    | with_reducible refine keeps_ite ?_ ?_

theorem keeps_pwrCtrlPerform {u s : State} (x0 : Word) (h : Keeps u s) : Keeps u (pwrCtrlPerform x0 s) := by
  unfold pwrCtrlPerform
  repeat' first
    | with_reducible assumption | intro _ | with_reducible refine keeps_foldl ?_ ?_ | with_reducible apply keeps_evt
    | with_reducible apply keeps_switchDomain | with_reducible apply keeps_setReg
    | with_reducible refine keeps_ite ?_ ?_

theorem keeps_braceExitOp {u s : State} (h : Keeps u s) : Keeps u (braceExitOp s) := by
  unfold braceExitOp
  repeat' first
    | with_reducible assumption | with_reducible refine keeps_foldl ?_ ?_ | with_reducible apply keeps_latchFld
    | with_reducible apply keeps_setBoot | with_reducible apply keeps_setPwr | with_reducible apply keeps_evt
    | with_reducible apply keeps_setFld | with_reducible apply keeps_pwrCtrlPerform
    | with_reducible apply keeps_xspNext | with_reducible apply keeps_arbAdvanceOp | split

theorem keeps_braceStateOp {u s : State} (x0 : Nat) (h : Keeps u s) : Keeps u (braceStateOp x0 s) := by
  unfold braceStateOp
  repeat' first
    | with_reducible assumption
    | with_reducible apply keeps_setFld | with_reducible apply keeps_raise | with_reducible apply keeps_count
    | with_reducible apply keeps_evt | with_reducible apply keeps_setPwr | with_reducible refine keeps_ite ?_ ?_

theorem keeps_linesOff {u s : State} (h : Keeps u s) : Keeps u (linesOff s) := by
  unfold linesOff
  repeat' first
    | with_reducible assumption | intro _ | with_reducible refine keeps_foldl ?_ ?_
    | with_reducible apply keeps_setBit | with_reducible apply keeps_setOut | with_reducible apply keeps_takeLine
    | with_reducible apply keeps_setReg

theorem keeps_domainSwitchCompleteOp {u s : State} (x0 : Nat) (h : Keeps u s) :
    Keeps u (domainSwitchCompleteOp x0 s) := by
  unfold domainSwitchCompleteOp
  repeat' first
    | with_reducible assumption | with_reducible apply keeps_setPwr | with_reducible apply keeps_setBit
    | with_reducible apply keeps_domainReset | with_reducible apply keeps_linesOff | with_reducible apply keeps_evt
    | split

theorem keeps_quarantine {u s : State} (x0 : Nat) (h : Keeps u s) : Keeps u (quarantine x0 s) := by
  unfold quarantine
  repeat' first
    | with_reducible assumption | with_reducible apply keeps_endWaiting | with_reducible apply keeps_evt
    | with_reducible apply keeps_setCtx

theorem keeps_eccContext {u s : State} (x0 x1 : Nat) (h : Keeps u s) : Keeps u (eccContext x0 x1 s) := by
  unfold eccContext
  repeat' first
    | with_reducible assumption | with_reducible apply keeps_tellerFault | with_reducible apply keeps_quarantine
    | with_reducible apply keeps_evt | with_reducible apply keeps_askRestore | with_reducible refine keeps_ite ?_ ?_

theorem keeps_eccCopy {u s : State} (x0 x1 x2 : Nat) (h : Keeps u s) : Keeps u (eccCopy x0 x1 x2 s) := by
  unfold eccCopy
  repeat' first
    | with_reducible assumption | with_reducible apply keeps_setSub | with_reducible apply keeps_dropCopy
    | with_reducible refine keeps_ite ?_ ?_

theorem keeps_eccCorrected {u s : State} (x0 : Nat) (h : Keeps u s) : Keeps u (eccCorrected x0 s) := by
  unfold eccCorrected
  repeat' first
    | with_reducible assumption | with_reducible apply keeps_count | with_reducible apply keeps_evt
    | with_reducible refine keeps_ite ?_ ?_

theorem keeps_eccGain {u s : State} (x0 : Nat) (h : Keeps u s) : Keeps u (eccGain x0 s) := by
  unfold eccGain
  repeat' first
    | with_reducible assumption | intro _ | with_reducible refine keeps_forN ?_ ?_
    | with_reducible apply keeps_eccCode | with_reducible apply keeps_count | with_reducible apply keeps_ledgerBeat
    | with_reducible apply keeps_setLdg | with_reducible refine keeps_ite ?_ ?_

theorem keeps_eccJournal {u s : State} (x0 : Nat) (h : Keeps u s) : Keeps u (eccJournal x0 s) := by
  unfold eccJournal
  repeat' first
    | with_reducible assumption | with_reducible apply keeps_stopRun | with_reducible apply keeps_askRestore
    | with_reducible apply keeps_quarantine | with_reducible refine keeps_ite ?_ ?_

theorem keeps_eccSys {u s : State} (x0 : Nat) (h : Keeps u s) : Keeps u (eccSys x0 s) := by
  unfold eccSys
  repeat' first | with_reducible assumption | with_reducible apply keeps_evt | with_reducible apply keeps_setReg

theorem keeps_eccVaultD {u s : State} (x0 : Nat) (h : Keeps u s) : Keeps u (eccVaultD x0 s) := by
  unfold eccVaultD
  repeat' first
    | with_reducible assumption | with_reducible apply keeps_eccLine | with_reducible apply keeps_eccSys
    | with_reducible refine keeps_ite ?_ ?_

theorem keeps_hostResetCause {u s : State} (x0 : Nat) (h : Keeps u s) : Keeps u (hostResetCause x0 s) := by
  unfold hostResetCause
  repeat' first
    | with_reducible assumption | with_reducible apply keeps_keywayDown | with_reducible apply keeps_setPwr
    | with_reducible apply keeps_setField | with_reducible refine keeps_ite ?_ ?_

theorem keeps_excRestart {u s : State} (x0 : Nat) (h : Keeps u s) : Keeps u (excRestart x0 s) := by
  unfold excRestart
  repeat' first
    | with_reducible assumption | with_reducible apply keeps_setExc | with_reducible refine keeps_ite ?_ ?_

theorem keeps_eccWord {u s : State} (x0 : BadWord) (h : Keeps u s) : Keeps u (eccWord x0 s) := by
  unfold eccWord
  repeat' first
    | with_reducible assumption | (intro x; refine keeps_cut (a := Keeps u x) ?_ ?_; intro _; clear_value x)
    | (intro x; clear_value x) | lift_lets -underBinder | with_reducible apply keeps_count
    | with_reducible apply keeps_sum | with_reducible apply keeps_hostResetCause | with_reducible apply keeps_evt
    | with_reducible apply keeps_setPwr | with_reducible apply keeps_eccContext | with_reducible apply keeps_eccSys
    | with_reducible apply keeps_eccGain | with_reducible apply keeps_setReg | with_reducible apply keeps_setLdg
    | with_reducible apply keeps_eccVaultD | with_reducible apply keeps_eccCopy
    | with_reducible apply keeps_eccJournal | with_reducible apply keeps_excRestart | split

theorem keeps_fieldScrubOp {u s : State} (x0 : List Nat) (h : Keeps u s) : Keeps u (fieldScrubOp x0 s) := by
  unfold fieldScrubOp
  repeat' first
    | with_reducible assumption | intro _ | with_reducible refine keeps_foldl ?_ ?_ | with_reducible apply keeps_fevt
    | with_reducible apply keeps_wrBytes

theorem keeps_ledgerClearCompleteOp {u s : State} (h : Keeps u s) : Keeps u (ledgerClearCompleteOp s) := by
  unfold ledgerClearCompleteOp
  repeat' first
    | (intro x; refine keeps_cut (a := Keeps u x) ?_ ?_; intro _; clear_value x) | (intro x; clear_value x)
    | lift_lets -underBinder | with_reducible apply keeps_setPwr
    | (with_reducible apply keeps_mk; with_reducible assumption) | with_reducible refine keeps_ite ?_ ?_

theorem keeps_pwrCtrlWriteOp {u s : State} (x0 : Word) (h : Keeps u s) : Keeps u (pwrCtrlWriteOp x0 s) := by
  unfold pwrCtrlWriteOp
  repeat' first
    | with_reducible assumption | with_reducible apply keeps_setPwr | with_reducible apply keeps_pwrCtrlPerform
    | with_reducible refine keeps_ite ?_ ?_

theorem keeps_scrubPeriodOp {u s : State} (x0 : List Nat) (x1 : List BadWord) (h : Keeps u s) :
    Keeps u (scrubPeriodOp x0 x1 s) := by
  unfold scrubPeriodOp
  repeat' first
    | with_reducible assumption | with_reducible refine keeps_foldl ?_ ?_ | with_reducible apply keeps_eccWord
    | with_reducible apply keeps_eccCorrected | with_reducible refine keeps_ite ?_ ?_

theorem keeps_runtimeRestores {u s : State} (h : Keeps u s) : Keeps u (runtimeRestores s) := by
  unfold runtimeRestores
  repeat' first
    | (intro x; refine keeps_cut (a := Keeps u x) ?_ ?_; intro _; clear_value x) | intro _ | lift_lets -underBinder
    | with_reducible refine keeps_foldl ?_ ?_ | with_reducible apply keeps_setLdg
    | with_reducible apply keeps_ledgerBeat | with_reducible apply keeps_restoreCtx
    | (with_reducible apply keeps_mk; with_reducible assumption)

theorem keeps_hostReset {u s : State} (x0 : Nat) (x1 : Nat) (x2 : Bool) (x3 : Hold) (h : Keeps u s) :
    Keeps u (hostReset x0 x1 x2 x3 s) := by
  unfold hostReset
  refine keeps_setReg _ _ (keeps_setReg _ _ (keeps_filters (s := _) ?_ rfl rfl rfl rfl rfl rfl (Nat.le_refl _)))
  have h1 : Keeps u (if s.isA then keywayDown s else s) := keeps_ite (keeps_keywayDown h) h
  split
  · exact keeps_flashOpen _ h1
  · exact h1

theorem keeps_ballReset {u s : State} (x0 : Nat) (x1 : Hold) (h : Keeps u s) : Keeps u (ballReset x0 x1 s) := by
  unfold ballReset
  repeat' first
    | with_reducible assumption | with_reducible apply keeps_hostReset | with_reducible apply keeps_setPwr
    | with_reducible refine keeps_ite ?_ ?_

theorem keeps_fieldRelease {u s : State} (h : Keeps u s) : Keeps u (fieldRelease s) := by
  unfold fieldRelease
  repeat' first
    | with_reducible assumption | with_reducible apply keeps_foutSettle | with_reducible apply keeps_sbxLoadBegin
    | with_reducible apply keeps_setField | with_reducible refine keeps_ite ?_ ?_

theorem keeps_fieldReset {u s : State} (h : Keeps u s) : Keeps u (fieldReset s) := by
  unfold fieldReset
  dsimp only
  refine keeps_setF0 _ (keeps_setField _ (keeps_resetRegs _ _ (keeps_filters (q := fun _ => true) (s := _) ?_ rfl
    (List.filter_eq_self.mpr (fun _ _ => rfl)).symm rfl rfl rfl rfl (Nat.le_refl _))))
  split
  · exact keeps_ite (keeps_freeFill _ _ (keeps_keywayDown h)) (keeps_freeFill _ _ (keeps_keywayDown h))
  · exact keeps_keywayDown h

theorem keeps_heatStop {u s : State} (x0 : Nat) (h : Keeps u s) : Keeps u (heatStop x0 s) := by
  unfold heatStop
  repeat' first | with_reducible assumption | with_reducible apply keeps_stopOp | split

theorem keeps_fieldTempOp {u s : State} (x0 : Int) (h : Keeps u s) : Keeps u (fieldTempOp x0 s) := by
  unfold fieldTempOp
  repeat' first
    | with_reducible assumption | with_reducible refine keeps_forN ?_ ?_ | with_reducible apply keeps_fieldRelease
    | with_reducible apply keeps_setPwr | with_reducible apply keeps_fieldReset
    | with_reducible apply keeps_foutSettle | with_reducible apply keeps_setFld | with_reducible apply keeps_fevtIf
    | with_reducible apply keeps_fevt | with_reducible apply keeps_setField | with_reducible apply keeps_heatStop
    | with_reducible refine keeps_ite ?_ ?_

theorem keeps_bootBegin {u s : State} (h : Keeps u s) : Keeps u (bootBegin s) :=
  keeps_setReg _ _ (keeps_selectSlots (keeps_setReg _ _ h))

theorem keeps_hostStart {u s : State} (h : Keeps u s) : Keeps u (hostStart s) := by
  unfold hostStart
  repeat' first
    | with_reducible assumption | with_reducible apply keeps_pwrCtrlWriteOp | with_reducible apply keeps_setBoot
    | with_reducible apply keeps_bootBegin

theorem keeps_hostRelease {u s : State} (h : Keeps u s) : Keeps u (hostRelease s) := by
  unfold hostRelease
  repeat' first
    | with_reducible assumption | with_reducible apply keeps_hostStart | with_reducible refine keeps_ite ?_ ?_

theorem keeps_hostInternalResetOp {u s : State} (h : Keeps u s) : Keeps u (hostInternalResetOp s) := by
  unfold hostInternalResetOp
  repeat' first
    | with_reducible assumption | with_reducible apply keeps_hostRelease | with_reducible apply keeps_hostReset
    | with_reducible apply keeps_evtIf | split

theorem keeps_stewardRequest {u s : State} (h : Keeps u s) : Keeps u (stewardRequest s) := by
  unfold stewardRequest
  repeat' first | with_reducible assumption | with_reducible apply keeps_setPwr

theorem keeps_sysRstWrite {u s : State} (x0 : Word) (h : Keeps u s) : Keeps u (sysRstWrite x0 s) := by
  unfold sysRstWrite
  repeat' first
    | with_reducible assumption | with_reducible apply keeps_evt | with_reducible apply keeps_stewardRequest
    | with_reducible apply keeps_hostResetCause | with_reducible refine keeps_ite ?_ ?_

theorem keeps_hostSupervisorResetOp {u s : State} (x0 : Nat) (h : Keeps u s) :
    Keeps u (hostSupervisorResetOp x0 s) := by
  unfold hostSupervisorResetOp
  repeat' first
    | with_reducible assumption | with_reducible apply keeps_hostReset | with_reducible refine keeps_ite ?_ ?_

theorem keeps_hostSupplyGoodOp {u s : State} (h : Keeps u s) : Keeps u (hostSupplyGoodOp s) := by
  unfold hostSupplyGoodOp
  repeat' first
    | with_reducible assumption | with_reducible apply keeps_hostRelease | with_reducible apply keeps_setPwr
    | with_reducible refine keeps_ite ?_ ?_

theorem keeps_hostTempOp {u s : State} (x0 : Int) (h : Keeps u s) : Keeps u (hostTempOp x0 s) := by
  unfold hostTempOp
  repeat' first
    | with_reducible assumption | with_reducible apply keeps_hostRelease | with_reducible apply keeps_setPwr
    | with_reducible apply keeps_setFld | with_reducible apply keeps_evtIf | with_reducible apply keeps_note
    | with_reducible apply keeps_hostResetCause | with_reducible refine keeps_ite ?_ ?_

theorem keeps_lockstepOp {u s : State} (h : Keeps u s) : Keeps u (lockstepOp s) := by
  unfold lockstepOp
  repeat' first
    | with_reducible assumption | with_reducible apply keeps_stewardRequest | with_reducible apply keeps_evt
    | with_reducible refine keeps_ite ?_ ?_

theorem keeps_prsntNReleaseOp {u s : State} (h : Keeps u s) : Keeps u (prsntNReleaseOp s) := by
  unfold prsntNReleaseOp
  repeat' first
    | with_reducible assumption | with_reducible apply keeps_hostRelease | with_reducible apply keeps_setPwr
    | with_reducible refine keeps_ite ?_ ?_

theorem keeps_rootLockOp {u s : State} (h : Keeps u s) : Keeps u (rootLockOp s) := by
  unfold rootLockOp
  repeat' first
    | with_reducible assumption | with_reducible apply keeps_setReg | with_reducible apply keeps_hostRelease
    | with_reducible apply keeps_setPwr | with_reducible refine keeps_ite ?_ ?_

theorem keeps_rootLossOp {u s : State} (h : Keeps u s) : Keeps u (rootLossOp s) := by
  unfold rootLossOp
  repeat' first
    | with_reducible assumption | with_reducible apply keeps_hostResetCause | with_reducible apply keeps_evt
    | with_reducible apply keeps_setBit

theorem keeps_rstNReleaseOp {u s : State} (h : Keeps u s) : Keeps u (rstNReleaseOp s) := by
  unfold rstNReleaseOp
  repeat' first
    | with_reducible assumption | with_reducible apply keeps_hostRelease | with_reducible apply keeps_setPwr
    | with_reducible refine keeps_ite ?_ ?_

theorem keeps_stewardResetOp {u s : State} (h : Keeps u s) : Keeps u (stewardResetOp s) := by
  unfold stewardResetOp
  repeat' first
    | with_reducible assumption | with_reducible apply keeps_masterReset | with_reducible apply keeps_count
    | with_reducible apply keeps_setPwr | with_reducible refine keeps_ite ?_ ?_

theorem keeps_stewardRestartOp {u s : State} (h : Keeps u s) : Keeps u (stewardRestartOp s) := by
  unfold stewardRestartOp
  repeat' first
    | with_reducible assumption | with_reducible apply keeps_evt | with_reducible apply keeps_setPwr
    | with_reducible apply keeps_followL | with_reducible apply keeps_runtimeRestores
    | with_reducible refine keeps_ite ?_ ?_

theorem keeps_watchdogStart {u s : State} (h : Keeps u s) : Keeps u (watchdogStart s) := by
  unfold watchdogStart
  repeat' first | with_reducible assumption | with_reducible apply keeps_setPwr

theorem keeps_watchdogExpiryOp {u s : State} (h : Keeps u s) : Keeps u (watchdogExpiryOp s) := by
  unfold watchdogExpiryOp
  repeat' first
    | with_reducible assumption | with_reducible apply keeps_watchdogStart | with_reducible apply keeps_evt
    | with_reducible apply keeps_hostResetCause | with_reducible apply keeps_stewardRequest
    | with_reducible apply keeps_setPwr | with_reducible refine keeps_ite ?_ ?_

theorem keeps_watchdogKickOp {u s : State} (x0 : Word) (h : Keeps u s) : Keeps u (watchdogKickOp x0 s) := by
  unfold watchdogKickOp
  repeat' first
    | with_reducible assumption | with_reducible apply keeps_watchdogStart | with_reducible apply keeps_evt
    | with_reducible refine keeps_ite ?_ ?_

theorem keeps_wdogWrite {u s : State} (x0 : Word) (h : Keeps u s) : Keeps u (wdogWrite x0 s) := by
  unfold wdogWrite
  repeat' first
    | with_reducible assumption | with_reducible apply keeps_evtIf | with_reducible apply keeps_watchdogStart
    | with_reducible apply keeps_typeWrite

theorem keeps_setRmt {u s : State} (x1 : Nat) (x2 : RmtCh) (h : Keeps u s) : Keeps u (State.setRmt s x1 x2) := by
  unfold State.setRmt
  repeat' first | (with_reducible apply keeps_mk; with_reducible assumption)

theorem keeps_rmtUnlock {u s : State} (x0 : Nat) (h : Keeps u s) : Keeps u (rmtUnlock x0 s) := by
  unfold rmtUnlock
  repeat' first | with_reducible assumption | with_reducible apply keeps_setClh | split

theorem keeps_rmtAborted {u s : State} (x0 : Nat) (h : Keeps u s) : Keeps u (rmtAborted x0 s) := by
  unfold rmtAborted
  repeat' first | with_reducible assumption | with_reducible apply keeps_setRmt | with_reducible apply keeps_rmtUnlock

theorem keeps_channelRetiredOp {u s : State} (x0 : Nat) (h : Keeps u s) : Keeps u (channelRetiredOp x0 s) := by
  unfold channelRetiredOp
  repeat' first
    | with_reducible assumption | (intro x; clear_value x) | lift_lets -underBinder
    | with_reducible apply keeps_setRmt | with_reducible apply keeps_rmtAborted | split

theorem keeps_ringOne {u s : State} (x0 : Nat) (h : Keeps u s) : Keeps u (ringOne x0 s) := by
  unfold ringOne
  repeat' first
    | with_reducible assumption | (intro x; clear_value x) | lift_lets -underBinder
    | with_reducible apply keeps_setRmt | split

theorem keeps_doorbellOp {u s : State} (x0 : Word) (h : Keeps u s) : Keeps u (doorbellOp x0 s) := by
  unfold doorbellOp
  repeat' first
    | with_reducible assumption | intro _ | with_reducible refine keeps_forN ?_ ?_
    | with_reducible apply keeps_ringOne | with_reducible refine keeps_ite ?_ ?_

theorem keeps_rmtDisable {u s : State} (x0 : Nat) (h : Keeps u s) : Keeps u (rmtDisable x0 s) := by
  unfold rmtDisable
  repeat' first
    | with_reducible assumption | with_reducible apply keeps_nextFree | with_reducible apply keeps_setReg
    | with_reducible apply keeps_setRmt

theorem keeps_engineDisableOp {u s : State} (x0 : Word) (h : Keeps u s) : Keeps u (engineDisableOp x0 s) := by
  unfold engineDisableOp
  repeat' first
    | with_reducible assumption | with_reducible refine keeps_forN ?_ ?_ | with_reducible apply keeps_typeWrite
    | with_reducible apply keeps_masterReset | with_reducible apply keeps_rmtDisable
    | with_reducible refine keeps_ite ?_ ?_

theorem keeps_rmtCfgErr {u s : State} (h : Keeps u s) : Keeps u (rmtCfgErr s) := by
  unfold rmtCfgErr
  repeat' first | with_reducible assumption | with_reducible apply keeps_evt

theorem keeps_rmtAbort {u s : State} (x0 : Nat) (h : Keeps u s) : Keeps u (rmtAbort x0 s) := by
  unfold rmtAbort
  repeat' first
    | with_reducible assumption | (intro x; clear_value x) | lift_lets -underBinder
    | with_reducible apply keeps_setRmt | with_reducible apply keeps_rmtAborted | with_reducible apply keeps_note
    | with_reducible apply keeps_rmtCfgErr | split

theorem keeps_rmtDisableOne {u s : State} (x0 : Nat) (h : Keeps u s) : Keeps u (rmtDisableOne x0 s) := by
  unfold rmtDisableOne
  repeat' first
    | with_reducible assumption | with_reducible apply keeps_masterReset | with_reducible apply keeps_rmtDisable

theorem keeps_rmtHalt {u s : State} (x0 : Nat) (h : Keeps u s) : Keeps u (rmtHalt x0 s) := by
  unfold rmtHalt
  repeat' first
    | with_reducible assumption | with_reducible apply keeps_setRmt | with_reducible apply keeps_rmtCfgErr | split

theorem keeps_rmtResume {u s : State} (x0 : Nat) (h : Keeps u s) : Keeps u (rmtResume x0 s) := by
  unfold rmtResume
  repeat' first
    | with_reducible assumption | with_reducible apply keeps_setRmt | with_reducible apply keeps_rmtCfgErr | split

theorem keeps_rmtPcWriteOp {u s : State} (x0 : Nat) (x1 : Word) (h : Keeps u s) : Keeps u (rmtPcWriteOp x0 x1 s) := by
  unfold rmtPcWriteOp
  repeat' first
    | with_reducible assumption | (intro x; clear_value x) | lift_lets -underBinder
    | with_reducible apply keeps_setRmt | with_reducible apply keeps_rmtCfgErr | split

theorem keeps_rmtBegin {u s : State} (x0 : Nat) (h : Keeps u s) : Keeps u (rmtBegin x0 s) := by
  unfold rmtBegin
  repeat' first
    | with_reducible assumption | (intro x; clear_value x) | lift_lets -underBinder
    | with_reducible apply keeps_rmtCfgErr | with_reducible apply keeps_setReg | with_reducible apply keeps_setRmt
    | split

theorem keeps_rmtCmdWrite {u s : State} (x0 : Nat) (x1 : Word) (h : Keeps u s) : Keeps u (rmtCmdWrite x0 x1 s) := by
  unfold rmtCmdWrite
  repeat' first
    | with_reducible assumption | with_reducible apply keeps_rmtBegin | with_reducible apply keeps_rmtHalt
    | with_reducible apply keeps_rmtResume | with_reducible apply keeps_rmtAbort
    | with_reducible apply keeps_rmtDisableOne | split

theorem keeps_rmtWrite {u s : State} (x0 : Nat) (x1 : Word) (h : Keeps u s) : Keeps u (rmtWrite x0 x1 s) := by
  unfold rmtWrite
  repeat' first
    | with_reducible assumption | with_reducible apply keeps_engineDisableOp | with_reducible apply keeps_doorbellOp
    | with_reducible apply keeps_rmtPcWriteOp | with_reducible apply keeps_rmtCmdWrite
    | with_reducible apply keeps_setRmt | with_reducible apply keeps_typeWrite
    | with_reducible refine keeps_ite ?_ ?_

theorem keeps_evtWrite {u s : State} (x0 : Nat) (x1 : Word) (h : Keeps u s) : Keeps u (evtWrite x0 x1 s) := by
  unfold evtWrite
  repeat' first
    | with_reducible assumption | with_reducible apply keeps_setReg | with_reducible apply keeps_typeWrite
    | with_reducible refine keeps_ite ?_ ?_

theorem keeps_kwyWrite {u s : State} (x0 : Nat) (x1 : Word) (h : Keeps u s) : Keeps u (kwyWrite x0 x1 s) := by
  unfold kwyWrite
  repeat' first
    | with_reducible assumption | with_reducible apply keeps_kwyCtrlWrite | with_reducible apply keeps_typeWrite
    | with_reducible refine keeps_ite ?_ ?_

theorem keeps_ldgWrite {u s : State} (x0 : Nat) (x1 : Word) (h : Keeps u s) : Keeps u (ldgWrite x0 x1 s) := by
  unfold ldgWrite
  repeat' first
    | with_reducible assumption | with_reducible apply keeps_holdWriteOp | with_reducible apply keeps_chgvWriteOp
    | with_reducible apply keeps_repointWriteOp | with_reducible apply keeps_ramptWriteOp
    | with_reducible apply keeps_typeWrite | with_reducible refine keeps_ite ?_ ?_

theorem keeps_outWrite {u s : State} (x0 : Nat) (x1 : Word) (h : Keeps u s) : Keeps u (outWrite x0 x1 s) := by
  unfold outWrite
  repeat' first
    | with_reducible assumption | with_reducible apply keeps_typeWrite | with_reducible apply keeps_coefWrite
    | with_reducible apply keeps_dlyWriteOp | with_reducible apply keeps_dcfgWriteOp
    | with_reducible apply keeps_dlenWriteOp | with_reducible apply keeps_limWriteOp
    | with_reducible apply keeps_fmtWrite | with_reducible refine keeps_ite ?_ ?_

theorem keeps_pstWrite {u s : State} (x0 : Nat) (x1 : Word) (h : Keeps u s) : Keeps u (pstWrite x0 x1 s) := by
  unfold pstWrite
  repeat' first
    | with_reducible assumption | with_reducible apply keeps_pstCtrlWriteOp
    | with_reducible apply keeps_pstCutWriteOp | with_reducible apply keeps_pstWinWriteOp
    | with_reducible apply keeps_typeWrite | with_reducible refine keeps_ite ?_ ?_

theorem keeps_readEffect {u s : State} (x0 : Nat) (h : Keeps u s) : Keeps u (readEffect x0 s) := by
  unfold readEffect
  repeat' first
    | with_reducible assumption | with_reducible apply keeps_setReg | with_reducible apply keeps_setKwy
    | with_reducible apply keeps_setPwr | with_reducible apply keeps_setSnk | with_reducible apply keeps_setSub
    | with_reducible apply keeps_setCtx | with_reducible apply keeps_clearRC | with_reducible refine keeps_ite ?_ ?_

theorem keeps_sysWrite {u s : State} (x0 : Nat) (x1 : Word) (h : Keeps u s) : Keeps u (sysWrite x0 x1 s) := by
  unfold sysWrite
  repeat' first
    | with_reducible assumption | with_reducible apply keeps_sysRstWrite | with_reducible apply keeps_wdogWrite
    | with_reducible apply keeps_watchdogKickOp | with_reducible apply keeps_evt
    | with_reducible apply keeps_typeWrite | with_reducible refine keeps_ite ?_ ?_

theorem keeps_rscWrite {u s : State} (x0 : Nat) (x1 : Word) (h : Keeps u s) : Keeps u (rscWrite x0 x1 s) := by
  unfold rscWrite
  repeat' first
    | with_reducible assumption | with_reducible apply keeps_nextFree | with_reducible apply keeps_rscCtrlWrite
    | with_reducible apply keeps_ncoWriteOp | with_reducible apply keeps_wtrWrite
    | with_reducible apply keeps_climWrite | with_reducible apply keeps_typeWrite
    | with_reducible refine keeps_ite ?_ ?_

theorem keeps_srvRegWrite {u s : State} (x0 : Master) (x1 : Nat) (x2 : Word) (h : Keeps u s) :
    Keeps u (srvRegWrite x0 x1 x2 s) := by
  unfold srvRegWrite
  repeat' first
    | with_reducible assumption | with_reducible apply keeps_srvWrite | with_reducible refine keeps_ite ?_ ?_

theorem keeps_timWrite {u s : State} (x0 : Master) (x1 : Nat) (x2 : Word) (h : Keeps u s) :
    Keeps u (timWrite x0 x1 x2 s) := by
  unfold timWrite
  repeat' first
    | with_reducible assumption | with_reducible apply keeps_timCtrlWrite | with_reducible apply keeps_snapOp
    | with_reducible apply keeps_alignOp | with_reducible apply keeps_pulseEnableOp
    | with_reducible apply keeps_typeWrite | with_reducible apply keeps_evt | with_reducible apply keeps_srvRegWrite
    | with_reducible apply keeps_rateCommitOp | with_reducible apply keeps_vcmdWrite
    | with_reducible apply keeps_slewRateWrite | with_reducible refine keeps_ite ?_ ?_

theorem keeps_telWrite {u s : State} (x0 : Nat) (x1 : Word) (h : Keeps u s) : Keeps u (telWrite x0 x1 s) := by
  unfold telWrite
  repeat' first
    | with_reducible assumption | with_reducible apply keeps_ctxCmdWrite | with_reducible apply keeps_swapGoOp
    | with_reducible apply keeps_typeWrite | with_reducible refine keeps_ite ?_ ?_

theorem keeps_sapWrite {u s : State} (x0 : Nat) (x1 : Word) (h : Keeps u s) : Keeps u (sapWrite x0 x1 s) := by
  unfold sapWrite
  repeat' first
    | with_reducible assumption | with_reducible apply keeps_sapAlignOp | with_reducible apply keeps_omapWrite
    | with_reducible apply keeps_sapCfgWriteOp | with_reducible apply keeps_typeWrite
    | with_reducible refine keeps_ite ?_ ?_

theorem keeps_tilWrite {u s : State} (x0 : Nat) (x1 : Word) (h : Keeps u s) : Keeps u (tilWrite x0 x1 s) := by
  unfold tilWrite
  repeat' first
    | with_reducible assumption | with_reducible apply keeps_txmapWrite | with_reducible apply keeps_typeWrite
    | with_reducible apply keeps_tilCfgWrite | with_reducible apply keeps_tilWmWriteOp
    | with_reducible refine keeps_ite ?_ ?_

theorem keeps_xspWrite {u s : State} (x0 : Nat) (x1 : Word) (h : Keeps u s) : Keeps u (xspWrite x0 x1 s) := by
  unfold xspWrite
  repeat' first
    | with_reducible assumption | with_reducible apply keeps_xspCmdWrite | with_reducible apply keeps_xspSizeWrite
    | with_reducible apply keeps_typeWrite | with_reducible refine keeps_ite ?_ ?_

theorem keeps_regPerform {u s : State} (x0 : Master) (x1 : Nat) (x2 : Word) (h : Keeps u s) :
    Keeps u (regPerform x0 x1 x2 s) := by
  unfold regPerform
  repeat' first
    | with_reducible assumption | with_reducible apply keeps_sysWrite | with_reducible apply keeps_pwrCtrlWriteOp
    | with_reducible apply keeps_typeWrite | with_reducible apply keeps_rscWrite
    | with_reducible apply keeps_timWrite | with_reducible apply keeps_evtWrite
    | with_reducible apply keeps_arbAdvanceOp | with_reducible apply keeps_pstWrite
    | with_reducible apply keeps_ldgWrite | with_reducible apply keeps_telWrite
    | with_reducible apply keeps_excCfgWriteOp | with_reducible apply keeps_outWrite
    | with_reducible apply keeps_macWrite | with_reducible apply keeps_dvtWrite | with_reducible apply keeps_hngWrite
    | with_reducible apply keeps_rmtWrite | with_reducible apply keeps_sapWrite | with_reducible apply keeps_tilWrite
    | with_reducible apply keeps_xspWrite | with_reducible apply keeps_kwyWrite | split

theorem keeps_regRead {u s : State} (x0 : Nat) (h : Keeps u s) : Keeps u (regRead x0 s).2 := by
  unfold regRead
  repeat' first | with_reducible assumption | with_reducible apply keeps_readEffect

theorem keeps_regWrite {u s : State} (x0 : Master) (x1 : Nat) (x2 : Word) (h : Keeps u s) :
    Keeps u (regWrite x0 x1 x2 s).2 := by
  unfold regWrite
  repeat' first
    | (intro x; refine keeps_cut (a := Keeps u x) ?_ ?_; intro _; clear_value x) | lift_lets -underBinder
    | with_reducible apply keeps_regPerform | with_reducible apply keeps_answer
    | (with_reducible apply keeps_mk; with_reducible assumption)

theorem keeps_proxySync {u s : State} (x0 : Bool) (x1 : Nat) (x2 : Word) (h : Keeps u s) :
    Keeps u (proxySync x0 x1 x2 s).2.2 := by
  unfold proxySync
  repeat' first
    | with_reducible assumption | with_reducible apply keeps_evt | with_reducible apply keeps_foutSettle
    | with_reducible apply keeps_fieldWrite | with_reducible apply keeps_clearRC | split

theorem keeps_busRead {u s : State} (x0 : Master) (x1 x2 : Nat) (x3 x4 : Nat) (h : Keeps u s) :
    Keeps u (busRead x0 x1 x2 x3 x4 s).2 := by
  unfold busRead
  repeat' first
    | with_reducible assumption | with_reducible apply keeps_clhError | with_reducible apply keeps_regRead
    | with_reducible apply keeps_proxySync | with_reducible apply keeps_evt | with_reducible apply keeps_useFree
    | with_reducible refine keeps_itePair ?_ ?_

theorem keeps_storeBeat {u s : State} (x0 : Nat) (x1 : List Byte) (x2 : List Bool) (h : Keeps u s) :
    Keeps u (storeBeat x0 x1 x2 s) := by
  unfold storeBeat
  repeat' first
    | with_reducible assumption | with_reducible apply keeps_ledgerBeat | with_reducible refine keeps_ite ?_ ?_

theorem keeps_taintLines {u s : State} (x0 x1 : Nat) (h : Keeps u s) : Keeps u (taintLines x0 x1 s) := by
  unfold taintLines
  repeat' first
    | with_reducible assumption | intro _ | with_reducible refine keeps_foldl ?_ ?_
    | with_reducible apply keeps_setSnk | with_reducible refine keeps_ite ?_ ?_

theorem keeps_taintDerived {u s : State} (h : Keeps u s) : Keeps u (taintDerived s) := by
  unfold taintDerived
  repeat' first
    | (intro x; refine keeps_cut (a := Keeps u x) ?_ ?_; intro _; clear_value x) | intro _ | lift_lets -underBinder
    | with_reducible refine keeps_forN ?_ ?_ | with_reducible refine keeps_foldl ?_ ?_
    | with_reducible apply keeps_useFree | with_reducible apply keeps_setSnk | with_reducible apply keeps_setPst
    | (with_reducible apply keeps_mk; with_reducible assumption)

theorem keeps_taintFolios {u s : State} (h : Keeps u s) : Keeps u (taintFolios s) := by
  unfold taintFolios
  repeat' first
    | with_reducible assumption | with_reducible apply keeps_taintDerived | with_reducible apply keeps_useFree
    | with_reducible apply keeps_setPst

theorem keeps_memWrite {u s : State} (x0 : Nat) (x1 : List Byte) (h : Keeps u s) : Keeps u (memWrite x0 x1 s) := by
  unfold memWrite
  repeat' first
    | with_reducible assumption | intro _ | with_reducible refine keeps_foldl ?_ ?_
    | with_reducible apply keeps_clhBank0 | with_reducible apply keeps_wrBytes
    | with_reducible apply keeps_taintLines | with_reducible apply keeps_taintFolios
    | with_reducible apply keeps_excTaint | with_reducible refine keeps_ite ?_ ?_

theorem keeps_busWrite {u s : State} (x0 : Master) (x1 x2 : Nat) (x3 x4 : Nat) (x5 : List Byte) (x6 : List Bool) (h : Keeps u s) :
    Keeps u (busWrite x0 x1 x2 x3 x4 x5 x6 s).2 := by
  unfold busWrite
  repeat' first
    | with_reducible assumption | intro _ | with_reducible refine keeps_foldl ?_ ?_
    | with_reducible apply keeps_clhError | with_reducible apply keeps_regWrite
    | with_reducible apply keeps_proxyWrite | with_reducible apply keeps_proxySync
    | with_reducible apply keeps_storeBeat | with_reducible apply keeps_memWrite
    | with_reducible refine keeps_itePair ?_ ?_ | split

theorem keeps_rcReadOp {u s : State} (x0 : Nat) (h : Keeps u s) : Keeps u (rcReadOp x0 s) := by
  unfold rcReadOp
  repeat' first
    | with_reducible assumption | with_reducible apply keeps_proxyAccessOp | with_reducible apply keeps_busRead
    | with_reducible apply keeps_answer | with_reducible refine keeps_ite ?_ ?_

theorem keeps_registerWriteOp {u s : State} (x0 : Master) (x1 : Nat) (x2 : Word) (h : Keeps u s) :
    Keeps u (registerWriteOp x0 x1 x2 s) := by
  unfold registerWriteOp
  repeat' first
    | with_reducible assumption | with_reducible apply keeps_proxyAccessOp | with_reducible apply keeps_busWrite
    | with_reducible apply keeps_answer | with_reducible refine keeps_ite ?_ ?_

theorem keeps_performTxn {u s : State} (x0 : Txn) (h : Keeps u s) : Keeps u (performTxn x0 s) := by
  unfold performTxn
  repeat' first
    | with_reducible assumption | with_reducible apply keeps_proxyAccess | with_reducible apply keeps_busWrite
    | with_reducible apply keeps_clhAnswer | with_reducible apply keeps_busRead
    | with_reducible refine keeps_ite ?_ ?_

theorem keeps_grant {u s : State} (x0 : Txn) (h : Keeps u s) : Keeps u (grant x0 s) := by
  unfold grant
  repeat' first
    | with_reducible assumption | with_reducible apply keeps_clhRefuse | with_reducible apply keeps_setClh
    | with_reducible apply keeps_performTxn | with_reducible refine keeps_ite ?_ ?_

theorem keeps_burstGrantOp {u s : State} (x0 : Nat) (h : Keeps u s) : Keeps u (burstGrantOp x0 s) := by
  unfold burstGrantOp
  repeat' first
    | with_reducible assumption | (intro x; clear_value x) | lift_lets -underBinder
    | with_reducible apply keeps_grant | split

theorem keeps_clhTransactionOp {u s : State} (x0 : Master) (x1 : Nat) (x2 : Bool) (x3 x4 x5 : Nat) (x6 : List Byte) (x7 : List Bool) (x8 : LockMark) (h : Keeps u s) :
    Keeps u (clhTransactionOp x0 x1 x2 x3 x4 x5 x6 x7 x8 s) := by
  unfold clhTransactionOp
  repeat' first | with_reducible assumption | with_reducible apply keeps_request

theorem keeps_hspiCsNRiseOp {u s : State} (h : Keeps u s) : Keeps u (hspiCsNRiseOp s) := by
  unfold hspiCsNRiseOp
  repeat' first | with_reducible assumption | with_reducible apply keeps_answer | with_reducible apply keeps_evt

theorem keeps_hspiIdOp {u s : State} (h : Keeps u s) : Keeps u (hspiIdOp s) := by
  unfold hspiIdOp
  repeat' first | with_reducible assumption | with_reducible apply keeps_answer

theorem keeps_hspIssue {u s : State} (h : Keeps u s) : Keeps u (hspIssue s) := by
  unfold hspIssue
  repeat' first | with_reducible assumption | with_reducible apply keeps_request | split

theorem keeps_postedError {u s : State} (x0 : Nat) (h : Keeps u s) : Keeps u (postedError x0 s) := by
  unfold postedError
  repeat' first
    | with_reducible apply keeps_evt | with_reducible apply keeps_count | with_reducible apply keeps_raise
    | with_reducible apply keeps_setReg | (with_reducible apply keeps_mk; with_reducible assumption)
    | with_reducible refine keeps_ite ?_ ?_

theorem keeps_hspiPostedWriteErrorOp {u s : State} (x0 : Nat) (h : Keeps u s) :
    Keeps u (hspiPostedWriteErrorOp x0 s) := by
  unfold hspiPostedWriteErrorOp
  repeat' first
    | (intro x; refine keeps_cut (a := Keeps u x) ?_ ?_; intro _; clear_value x) | (intro x; clear_value x) | subst x
    | lift_lets -underBinder | with_reducible apply keeps_clhError | with_reducible apply keeps_setClh
    | with_reducible apply keeps_hspIssue | with_reducible apply keeps_postedError
    | (with_reducible apply keeps_mk; with_reducible assumption) | split

theorem keeps_hspiReads {u s : State} (x0 x1 : Nat) (h : Keeps u s) : Keeps u (hspiReads x0 x1 s).2 := by
  induction x1 generalizing s x0 with
  | zero => exact h
  | succ n ih =>
    unfold hspiReads
    exact ih _ (keeps_busRead _ _ _ _ _ h)

theorem keeps_hspiReadOp {u s : State} (x0 x1 : Nat) (h : Keeps u s) : Keeps u (hspiReadOp x0 x1 s) := by
  unfold hspiReadOp
  repeat' first
    | with_reducible assumption | with_reducible apply keeps_evt | with_reducible apply keeps_answer
    | with_reducible apply keeps_hspiReads | with_reducible refine keeps_ite ?_ ?_

theorem keeps_hspiResetOp {u s : State} (h : Keeps u s) : Keeps u (hspiResetOp s) := by
  unfold hspiResetOp
  repeat' first | with_reducible apply keeps_masterReset | (with_reducible apply keeps_mk; with_reducible assumption)

theorem keeps_hspiStatusOp {u s : State} (h : Keeps u s) : Keeps u (hspiStatusOp s) := by
  unfold hspiStatusOp
  repeat' first | with_reducible assumption | with_reducible apply keeps_answer

theorem keeps_hspiSyncOp {u s : State} (h : Keeps u s) : Keeps u (hspiSyncOp s) := by
  unfold hspiSyncOp
  repeat' first
    | with_reducible apply keeps_answer | (with_reducible apply keeps_mk; with_reducible assumption)
    | with_reducible refine keeps_ite ?_ ?_

theorem keeps_hspiWriteOp {u s : State} (x0 : Nat) (x1 : List Word) (x2 : Option Nat) (h : Keeps u s) :
    Keeps u (hspiWriteOp x0 x1 x2 s) := by
  unfold hspiWriteOp
  repeat' first
    | intro _ | with_reducible refine keeps_foldl ?_ ?_ | with_reducible apply keeps_evt
    | with_reducible apply keeps_hspIssue | with_reducible apply keeps_cdcErr
    | (with_reducible apply keeps_mk; with_reducible assumption) | with_reducible refine keeps_ite ?_ ?_

theorem keeps_lockTimeoutOp {u s : State} (x0 : Nat) (h : Keeps u s) : Keeps u (lockTimeoutOp x0 s) := by
  unfold lockTimeoutOp
  repeat' first
    | with_reducible assumption | intro _ | with_reducible refine keeps_foldl ?_ ?_ | with_reducible apply keeps_evt
    | with_reducible apply keeps_setClh | with_reducible apply keeps_setReg | with_reducible apply keeps_raise
    | with_reducible apply keeps_lockRefuse | split

theorem keeps_masterResetCompleteOp {u s : State} (x0 : Master) (h : Keeps u s) :
    Keeps u (masterResetCompleteOp x0 s) := by
  unfold masterResetCompleteOp
  repeat' first
    | with_reducible assumption | with_reducible apply keeps_resetsSettle | with_reducible apply keeps_setClh
    | with_reducible apply keeps_hspIssue | with_reducible refine keeps_ite ?_ ?_

theorem keeps_postedDone {u s : State} (x0 : DoneTxn) (h : Keeps u s) : Keeps u (postedDone x0 s) := by
  unfold postedDone
  repeat' first
    | with_reducible apply keeps_postedError | (with_reducible apply keeps_mk; with_reducible assumption) | split

theorem keeps_respond {u s : State} (x0 : DoneTxn) (h : Keeps u s) : Keeps u (respond x0 s) := by
  unfold respond
  repeat' first
    | with_reducible assumption | with_reducible apply keeps_hspIssue | with_reducible apply keeps_postedDone
    | with_reducible apply keeps_ldfArrive | with_reducible apply keeps_stfRetired | split

theorem keeps_transactionRetireOp {u s : State} (x0 : Master) (x1 : Nat) (h : Keeps u s) :
    Keeps u (transactionRetireOp x0 x1 s) := by
  unfold transactionRetireOp
  repeat' first
    | with_reducible assumption | with_reducible apply keeps_setClh | with_reducible apply keeps_answer
    | with_reducible apply keeps_respond | with_reducible apply keeps_resetsSettle | split

theorem keeps_endWord {u s : State} (x0 : Nat) (h : Keeps u s) : Keeps u (endWord x0 s) := by
  unfold endWord
  repeat' first
    | with_reducible assumption | with_reducible apply keeps_setRmt | with_reducible refine keeps_ite ?_ ?_

theorem keeps_rmtFetch {u s : State} (x0 x1 : Nat) (h : Keeps u s) : Keeps u (rmtFetch x0 x1 s).2 := by
  unfold rmtFetch
  repeat' first | with_reducible assumption | with_reducible apply keeps_busRead | split

theorem keeps_rmtFault {u s : State} (x0 x1 : Nat) (h : Keeps u s) : Keeps u (rmtFault x0 x1 s) := by
  unfold rmtFault
  repeat' first
    | with_reducible assumption | with_reducible apply keeps_evt | with_reducible apply keeps_setRmt
    | with_reducible apply keeps_rmtUnlock

theorem keeps_rmtWordOp {u s : State} (x0 x1 : Nat) {x2 : Nat → State → State}
    (hf : ∀ w t, Keeps u t → Keeps u (x2 w t)) (h : Keeps u s) : Keeps u (rmtWordOp x0 x1 x2 s) := by
  unfold rmtWordOp
  dsimp only
  split
  · exact h
  · have h1 := keeps_rmtFetch x1 (s.rmtCh x1).pc h
    split
    · exact keeps_rmtFault _ _ (keeps_pair h1 (by assumption))
    · have h2 := keeps_pair h1 (by assumption)
      exact keeps_ite (keeps_rmtFault _ _ h2) (keeps_ite (hf _ _ h2) h2)

theorem keeps_rmtNext {u s : State} (x0 x1 : Nat) (h : Keeps u s) : Keeps u (rmtNext x0 x1 s) := by
  unfold rmtNext
  repeat' first | with_reducible assumption | with_reducible apply keeps_setRmt | split

theorem keeps_linkWord {u s : State} (x0 x1 : Nat) (h : Keeps u s) : Keeps u (linkWord x0 x1 s) := by
  unfold linkWord
  repeat' first
    | with_reducible assumption | with_reducible apply keeps_rmtFault | with_reducible apply keeps_rmtNext
    | with_reducible refine keeps_ite ?_ ?_

theorem keeps_rmtGet {u s : State} (x0 x1 x2 x3 : Nat) (h : Keeps u s) : Keeps u (rmtGet x0 x1 x2 x3 s).2 := by
  induction x1 generalizing s x2 x3 with
  | zero => exact h
  | succ n ih =>
    have hb := keeps_busRead .rmt x0 x2 (accessAt x2 x3) 1 h
    unfold rmtGet
    dsimp only
    refine keeps_itePair h (keeps_itePair hb ?_)
    have hi := ih (x2 + accessAt x2 x3) (x3 - accessAt x2 x3) hb
    split <;> exact keeps_pair hi (by assumption)

theorem keeps_rmtPut {u s : State} (x0 x1 x2 : Nat) (x3 : List Byte) (h : Keeps u s) : Keeps u (rmtPut x0 x1 x2 x3 s).2 := by
  induction x1 generalizing s x2 x3 with
  | zero => exact h
  | succ n ih =>
    have hb := keeps_busWrite .rmt x0 x2 (accessAt x2 x3.length) 1 (x3.take (accessAt x2 x3.length)) [] h
    unfold rmtPut
    dsimp only
    exact keeps_itePair h (keeps_itePair hb (ih _ _ hb))

theorem keeps_rmtBurst {u s : State} (x0 x1 : Nat) (x2 : RmtMove) (h : Keeps u s) :
    Keeps u (rmtBurst x0 x1 x2 s).2 := by
  unfold rmtBurst
  repeat' first
    | with_reducible assumption | with_reducible refine keeps_pair (keeps_busRead _ _ _ _ _ ?_) (by assumption)
    | with_reducible apply keeps_busWrite
    | with_reducible refine keeps_pair (keeps_rmtGet _ _ _ _ ?_) (by assumption) | with_reducible apply keeps_rmtPut
    | split

theorem keeps_paceBurst {u s : State} (x0 x1 : Nat) (x2 : RmtMove) (h : Keeps u s) :
    Keeps u (paceBurst x0 x1 x2 s) := by
  unfold paceBurst
  repeat' first | with_reducible assumption | with_reducible apply keeps_setRmt

theorem keeps_moveBurst {u s : State} (x0 : Nat) (x1 : RmtMove) (h : Keeps u s) : Keeps u (moveBurst x0 x1 s) := by
  have hs : ∀ cause code rest t, Keeps u t → Keeps u (rmtFault x0 cause
      ((if code = 0 then t else clhError .rmt (2 * x0 + 1) true x1.dst code t).setRmt x0 { t.rmtCh x0 with rem := rest })) :=
    fun _ _ _ _ k => keeps_rmtFault _ _ (keeps_setRmt _ _ (keeps_ite k (keeps_clhError _ _ _ _ _ k)))
  unfold moveBurst
  dsimp only
  refine keeps_ite h (keeps_ite (hs 8 6 _ _ (keeps_setClh _ h)) (keeps_ite (hs 5 7 _ _ h) ?_))
  have h1 : ∀ k c, Keeps u (rmtBurst x0 k x1 (paceBurst x0 k x1 (s.setClh c))).2 := fun k c =>
    keeps_rmtBurst _ _ _ (keeps_paceBurst _ _ _ (keeps_setClh _ h))
  have h2 := fun k c d => keeps_count (Reg.RMT_BYTES x0) d 57 (h1 k c)
  exact keeps_ite (hs _ 0 _ _ (h2 _ _ _)) (keeps_ite (keeps_rmtNext _ _ (keeps_rmtUnlock _ (keeps_setRmt _ _ (h2 _ _ _))))
    (keeps_setRmt _ _ (keeps_ite (keeps_setClh _ (h2 _ _ _)) (h2 _ _ _))))

theorem keeps_moveWord {u s : State} (x0 x1 : Nat) (h : Keeps u s) : Keeps u (moveWord x0 x1 s) := by
  unfold moveWord
  repeat' first
    | with_reducible assumption | (intro x; clear_value x) | lift_lets -underBinder
    | with_reducible refine keeps_pair (keeps_rmtFetch _ _ ?_) (by assumption) | with_reducible apply keeps_rmtFault
    | with_reducible apply keeps_moveBurst | split

theorem keeps_rmtMoveOp {u s : State} (x0 : Nat) (h : Keeps u s) : Keeps u (rmtMoveOp x0 s) := by
  unfold rmtMoveOp
  repeat' first
    | with_reducible assumption | intro _ | with_reducible apply keeps_moveBurst
    | with_reducible apply keeps_rmtWordOp | with_reducible apply keeps_moveWord | split

theorem keeps_loopWord {u s : State} (x0 x1 : Nat) (h : Keeps u s) : Keeps u (loopWord x0 x1 s) := by
  unfold loopWord
  repeat' first
    | with_reducible assumption | (intro x; clear_value x) | lift_lets -underBinder
    | with_reducible apply keeps_rmtFault | with_reducible apply keeps_rmtNext | with_reducible apply keeps_setRmt
    | split

theorem keeps_signalWord {u s : State} (x0 x1 : Nat) (h : Keeps u s) : Keeps u (signalWord x0 x1 s) := by
  unfold signalWord
  repeat' first
    | with_reducible assumption | with_reducible apply keeps_setBit | with_reducible apply keeps_rmtNext
    | with_reducible apply keeps_evtIf

theorem keeps_waitTaken {u s : State} (x0 x1 : Nat) (h : Keeps u s) : Keeps u (waitTaken x0 x1 s) := by
  unfold waitTaken
  repeat' first
    | with_reducible assumption | with_reducible apply keeps_setBit | with_reducible apply keeps_rmtNext | split

theorem keeps_waitWord {u s : State} (x0 x1 : Nat) (h : Keeps u s) : Keeps u (waitWord x0 x1 s) := by
  unfold waitWord
  repeat' first
    | with_reducible assumption | with_reducible apply keeps_waitTaken | with_reducible apply keeps_setRmt
    | with_reducible refine keeps_ite ?_ ?_

theorem keeps_waitConditionMetOp {u s : State} (x0 : Nat) (h : Keeps u s) : Keeps u (waitConditionMetOp x0 s) := by
  unfold waitConditionMetOp
  repeat' first
    | with_reducible assumption | (intro x; clear_value x) | lift_lets -underBinder
    | with_reducible apply keeps_waitTaken | split

end Sys2Proof.Machine
end

