-- ==== Sys2Proof/Laws/KeepsMgmt.lean ====
section
/-! SUPPORT. What boot, management messages and the folio keep: one lemma `keeps_<operation>` per operation, in the
relation of Laws/Keeps.lean. -/

set_option maxRecDepth 4000

namespace Sys2Proof.Machine

theorem keeps_addrParam {u s : State} (x0 : Nat) (h : Keeps u s) : Keeps u (addrParam x0 s) := by
  unfold addrParam
  repeat' first | with_reducible assumption | with_reducible apply keeps_setBit | with_reducible apply keeps_setReg

theorem keeps_paramApply {u s : State} (x0 : Nat) (x1 : List Byte) (h : Keeps u s) :
    Keeps u (paramApply x0 x1 s) := by
  unfold paramApply
  repeat' first
    | with_reducible assumption | intro _ | with_reducible refine keeps_forN ?_ ?_
    | with_reducible apply keeps_addrParam | with_reducible apply keeps_setBoot | with_reducible apply keeps_setReg
    | split

theorem keeps_putContext {u s : State} (x0 : CtxDecl) (h : Keeps u s) : Keeps u (putContext x0 s) := by
  unfold putContext
  repeat' first
    | with_reducible assumption | with_reducible apply keeps_setCtx | with_reducible refine keeps_ite ?_ ?_

theorem keeps_applyRec {u s : State} (x0 : Nat) (x1 : Rec) (h : Keeps u s) : Keeps u (applyRec x0 x1 s).2 := by
  unfold applyRec
  repeat' first
    | with_reducible assumption | with_reducible refine keeps_foldl ?_ ?_ | with_reducible apply keeps_paramApply
    | with_reducible apply keeps_setBoot | with_reducible apply keeps_busWrite
    | with_reducible apply keeps_putContext | split

theorem keeps_slotCode {u s : State} (x0 x1 : Nat) (h : Keeps u s) : Keeps u (slotCode x0 x1 s) := by
  unfold slotCode
  repeat' first
    | with_reducible assumption | with_reducible apply keeps_setFld | with_reducible refine keeps_ite ?_ ?_

theorem keeps_fieldSetup {u s : State} (h : Keeps u s) : Keeps u (fieldSetup s) := by
  unfold fieldSetup
  refine keeps_ite (keeps_setBoot _ (keeps_foldl (fun t x k => keeps_proxyWrite _ _ _ k) (keeps_evtIf _ _ _
    (keeps_proxySync _ _ _ (keeps_proxySync _ _ _ (keeps_foldl (fun t x k => ?_) h)))))) h
  split
  · exact keeps_proxyWrite _ _ _ k
  · exact k

theorem keeps_bootStage {u s : State} (x0 : Nat) (h : Keeps u s) : Keeps u (bootStage x0 s) := by
  unfold bootStage
  repeat' first | with_reducible assumption | with_reducible apply keeps_setFld

theorem keeps_levelOne {u s : State} (h : Keeps u s) : Keeps u (levelOne s) := by
  unfold levelOne
  repeat' first
    | with_reducible assumption | with_reducible apply keeps_setBoot | with_reducible apply keeps_setFld
    | with_reducible apply keeps_slotCode | with_reducible apply keeps_runtimeRestores
    | with_reducible apply keeps_fieldSetup | with_reducible apply keeps_watchdogStart
    | with_reducible apply keeps_bootStage | with_reducible apply keeps_setReg

theorem keeps_rejectSlot {u s : State} (x0 : Nat) (h : Keeps u s) : Keeps u (rejectSlot x0 s) := by
  unfold rejectSlot
  repeat' first
    | with_reducible assumption | (intro x; refine keeps_cut (a := Keeps u x) ?_ ?_; intro _; clear_value x)
    | intro _ | lift_lets -underBinder | with_reducible refine keeps_foldl ?_ ?_
    | with_reducible apply keeps_clearMem | with_reducible apply keeps_slotCode
    | with_reducible apply keeps_resetRegs | with_reducible apply keeps_setBit | with_reducible apply keeps_evt
    | with_reducible apply keeps_setBoot | with_reducible apply keeps_bootStage
    | (with_reducible apply keeps_mk; with_reducible assumption) | split

theorem keeps_applyRecs {u s : State} (x0 : List (Nat × Rec)) (h : Keeps u s) : Keeps u (applyRecs x0 s) := by
  induction x0 generalizing s with
  | nil => exact keeps_levelOne h
  | cons a t ih =>
    have h1 := keeps_applyRec a.1 a.2 h
    unfold applyRecs
    dsimp only
    split
    · exact keeps_setBoot _ h
    · split
      · exact ih (keeps_pair h1 (by assumption))
      · exact keeps_rejectSlot _ (keeps_pair h1 (by assumption))

theorem keeps_domainOff {u s : State} (x0 : Nat) (h : Keeps u s) : Keeps u (domainOff x0 s) := by
  unfold domainOff
  repeat' first
    | with_reducible assumption | with_reducible apply keeps_setBit | with_reducible apply keeps_setPwr
    | with_reducible apply keeps_switchDomain | with_reducible refine keeps_ite ?_ ?_

theorem keeps_domainBack {u s : State} (x0 : Nat) (h : Keeps u s) : Keeps u (domainBack x0 s) :=
  keeps_ite h (keeps_switchDomain _ _ (keeps_setBit _ _ _ h))

theorem keeps_place {u s : State} (h : Keeps u s) : Keeps u (place s) := by
  unfold place
  repeat' first
    | with_reducible assumption | intro _ | with_reducible refine keeps_forN ?_ ?_
    | with_reducible refine keeps_foldl ?_ ?_ | with_reducible apply keeps_evt | with_reducible apply keeps_setReg
    | with_reducible apply keeps_setBoot | with_reducible apply keeps_domainOff
    | with_reducible apply keeps_domainBack | with_reducible refine keeps_ite ?_ ?_

theorem keeps_bistEndOp {u s : State} (x0 : Nat) (h : Keeps u s) : Keeps u (bistEndOp x0 s) := by
  unfold bistEndOp
  repeat' first
    | with_reducible assumption | intro _ | with_reducible refine keeps_foldl ?_ ?_
    | with_reducible apply keeps_setReg | with_reducible apply keeps_domainOff | with_reducible apply keeps_setBoot
    | with_reducible apply keeps_place | with_reducible refine keeps_ite ?_ ?_

theorem keeps_bootContinue {u s : State} (h : Keeps u s) : Keeps u (bootContinue s) := by
  unfold bootContinue
  repeat' first
    | with_reducible assumption | with_reducible apply keeps_applyRecs | with_reducible refine keeps_ite ?_ ?_

theorem keeps_bootOrder {u s : State} (h : Keeps u s) : Keeps u (bootOrder s) := by
  unfold bootOrder
  repeat' first
    | with_reducible assumption | with_reducible apply keeps_bootBegin | with_reducible apply keeps_setBoot

theorem keeps_bootRetryOp {u s : State} (h : Keeps u s) : Keeps u (bootRetryOp s) := by
  unfold bootRetryOp
  repeat' first | with_reducible assumption | with_reducible apply keeps_bootOrder | split

theorem keeps_confirmSlot {u s : State} (h : Keeps u s) : Keeps u (confirmSlot s) := by
  unfold confirmSlot
  repeat' first
    | with_reducible assumption | (intro x; refine keeps_cut (a := Keeps u x) ?_ ?_; intro _; clear_value x)
    | lift_lets -underBinder | with_reducible apply keeps_setBit | with_reducible apply keeps_programConfirm
    | with_reducible apply keeps_arbAdvanceOp | split

theorem keeps_mgmt {u s : State} (x0 : MClass) (x1 : MgmtMsg) {f : State → State}
    (hf : ∀ t, Keeps u t → Keeps u (f t)) (h : Keeps u s) :
    Keeps u (mgmt x0 x1 s f) := by
  unfold mgmt
  repeat' first
    | with_reducible assumption | with_reducible apply keeps_evt | with_reducible apply keeps_setBoot
    | with_reducible apply hf | with_reducible refine keeps_ite ?_ ?_

theorem keeps_mgmtBytes {u s : State} (x0 : MgmtMsg) (h : Keeps u s) : Keeps u (mgmtBytes x0 s).2 := by
  unfold mgmtBytes
  exact keeps_foldl_pair (fun t _ k => keeps_nextFree k) h

theorem keeps_scheduleChange {u s : State} (x0 : MgmtMsg) (x1 : List CtrlAct) (h : Keeps u s) :
    Keeps u (scheduleChange x0 x1 s) := by
  unfold scheduleChange
  repeat' first
    | with_reducible assumption | with_reducible apply keeps_nextFree | with_reducible apply keeps_mgmtBytes
    | with_reducible apply keeps_sendControl | with_reducible apply keeps_setHng

theorem keeps_shutDown {u s : State} (h : Keeps u s) : Keeps u (shutDown s) :=
  keeps_setDis _ (keeps_sendNetworks _ _ _ h)

theorem keeps_performAct {u s : State} (x0 : CtrlAct) (h : Keeps u s) : Keeps u (performAct x0 s) := by
  cases x0 with
  | write => exact keeps_busWrite _ _ _ _ _ _ _ h
  | shutDown => exact keeps_shutDown h

theorem keeps_performActs {u s : State} (x0 : List CtrlAct) (h : Keeps u s) : Keeps u (performActs x0 s) :=
  keeps_foldl (fun _ _ k => keeps_performAct _ k) h

theorem keeps_controlMessageOp {u s : State} (x0 : MgmtMsg) (x1 : List CtrlAct) (h : Keeps u s) :
    Keeps u (controlMessageOp x0 x1 s) := by
  unfold controlMessageOp
  repeat' first
    | with_reducible assumption | intro _ | with_reducible apply keeps_mgmt
    | with_reducible apply keeps_scheduleChange | with_reducible apply keeps_performActs
    | with_reducible refine keeps_ite ?_ ?_

theorem keeps_headerVerifyOp {u s : State} (x0 : ImgHeader) (h : Keeps u s) : Keeps u (headerVerifyOp x0 s) := by
  unfold headerVerifyOp
  repeat' first
    | with_reducible assumption | with_reducible apply keeps_bootStage | with_reducible apply keeps_setBoot
    | with_reducible apply keeps_rejectSlot | with_reducible refine keeps_ite ?_ ?_

theorem keeps_mgmtQueryOp {u s : State} (x0 : MgmtMsg) (x1 : List Nat) (h : Keeps u s) :
    Keeps u (mgmtQueryOp x0 x1 s) := by
  unfold mgmtQueryOp
  refine keeps_mgmt _ _ (fun t k => keeps_answer _ _ ?_) h
  exact keeps_foldl_pair (fun t _ k => keeps_busRead _ _ _ _ _ k) k

theorem keeps_restartOp {u s : State} (x0 : MgmtMsg) (h : Keeps u s) : Keeps u (restartOp x0 s) := by
  unfold restartOp
  repeat' first
    | with_reducible assumption | intro _ | with_reducible apply keeps_mgmt | with_reducible apply keeps_setPwr

theorem keeps_imageWrite {u s : State} (x0 : Nat) (x1 : List Byte) (h : Keeps u s) :
    Keeps u (imageWrite x0 x1 s) := by
  unfold imageWrite
  repeat' first | with_reducible assumption | with_reducible apply keeps_wrBytes | with_reducible apply keeps_setBoot

theorem keeps_memRecord {u s : State} (x0 : Nat) (x1 : Rec) (h : Keeps u s) : Keeps u (memRecord x0 x1 s) := by
  unfold memRecord
  repeat' first
    | with_reducible assumption | (intro x; clear_value x) | lift_lets -underBinder
    | with_reducible apply keeps_imageWrite | split

theorem keeps_sectionTake {u s : State} (x0 : ImgSection) (x1 : ImgHeader) (h : Keeps u s) :
    Keeps u (sectionTake x0 x1 s) := by
  unfold sectionTake
  repeat' first
    | with_reducible assumption | (intro x; refine keeps_cut (a := Keeps u x) ?_ ?_; intro _; clear_value x)
    | intro _ | subst x | lift_lets -underBinder | with_reducible refine keeps_foldl ?_ ?_
    | with_reducible apply keeps_setBoot | with_reducible apply keeps_place | with_reducible apply keeps_memRecord
    | with_reducible apply keeps_bootContinue | with_reducible apply keeps_bootStage | split

theorem keeps_sectionCheckOp {u s : State} (x0 : ImgSection) (h : Keeps u s) : Keeps u (sectionCheckOp x0 s) := by
  unfold sectionCheckOp
  repeat' first
    | with_reducible assumption | with_reducible apply keeps_sectionTake | with_reducible apply keeps_rejectSlot
    | split

theorem keeps_serviceLevel2Op {u s : State} (h : Keeps u s) : Keeps u (serviceLevel2Op s) := by
  unfold serviceLevel2Op
  repeat' first
    | with_reducible assumption | with_reducible apply keeps_confirmSlot | with_reducible apply keeps_setBoot
    | with_reducible apply keeps_setFld | with_reducible refine keeps_ite ?_ ?_

theorem keeps_setTimeOp {u s : State} (x0 : MgmtMsg) (h : Keeps u s) : Keeps u (setTimeOp x0 s) := by
  unfold setTimeOp
  repeat' first
    | with_reducible assumption | intro _ | with_reducible apply keeps_mgmt | with_reducible apply keeps_setViewTo
    | with_reducible refine keeps_ite ?_ ?_

theorem keeps_fillBuf {u s : State} (x0 : Nat) (x1 : List Word) (h : Keeps u s) : Keeps u (fillBuf x0 x1 s) := by
  unfold fillBuf
  repeat' first
    | with_reducible assumption | intro _ | with_reducible refine keeps_foldl ?_ ?_
    | with_reducible apply keeps_busWrite

theorem keeps_updateOp {u s : State} (x0 : MgmtMsg) (x1 : Nat) (x2 : Nat) (x3 : List Word) (h : Keeps u s) :
    Keeps u (updateOp x0 x1 x2 x3 s) := by
  unfold updateOp
  refine keeps_mgmt _ _ (fun t k => ?_) h
  have hp : ∀ a v s, Keeps u s → Keeps u (busWrite .stw 0 a 4 1 (leBytes v 4) [] s).2 :=
    fun a v s k => keeps_busWrite _ _ _ _ _ _ _ k
  dsimp only
  split
  · exact hp _ _ _ (hp _ _ _ k)
  · exact hp _ _ _ (hp _ _ _ (keeps_fillBuf _ _ k))
  · exact hp _ _ _ (hp _ _ _ k)
  · exact hp _ _ _ (hp _ _ _ (keeps_fillBuf _ _ k))
  · exact k

theorem keeps_l1Capture {u s : State} (x0 : Nat) (h : Keeps u s) : Keeps u (l1Capture x0 s) := by
  unfold l1Capture
  repeat' first | with_reducible assumption | with_reducible apply keeps_setOut | split

theorem keeps_captureLocal {u s : State} (x0 : Nat) (h : Keeps u s) : Keeps u (captureLocal x0 s) := by
  unfold captureLocal
  repeat' first
    | with_reducible assumption | intro _ | with_reducible refine keeps_forN ?_ ?_
    | with_reducible apply keeps_excFolio | with_reducible apply keeps_sapCapture
    | with_reducible apply keeps_sapBoundary | with_reducible apply keeps_tillTake
    | with_reducible apply keeps_l1Capture | with_reducible refine keeps_ite ?_ ?_

theorem keeps_changeOp {u s : State} (x0 : Nat) (x1 : List CtrlAct) (h : Keeps u s) : Keeps u (changeOp x0 x1 s) := by
  unfold changeOp
  repeat' first
    | with_reducible assumption | with_reducible apply keeps_setHng | with_reducible refine keeps_ite ?_ ?_

theorem keeps_changePerformOp {u s : State} (h : Keeps u s) : Keeps u (changePerformOp s) := by
  unfold changePerformOp
  repeat' first
    | with_reducible assumption | intro _ | with_reducible refine keeps_foldl ?_ ?_
    | with_reducible apply keeps_setHng | with_reducible apply keeps_performActs | split

theorem keeps_l1Render {u s : State} (x0 : Nat) (h : Keeps u s) : Keeps u (l1Render x0 s).2 := by
  unfold l1Render
  repeat' first | with_reducible assumption | with_reducible apply keeps_setOut | split

theorem keeps_keywayEgress {u s : State} (x0 : Nat) (x1 : Option Fol) (x2 : Option (L1Cfg × List Int)) (h : Keeps u s) :
    Keeps u (keywayEgress x0 x1 x2 s) := by
  unfold keywayEgress
  repeat' first
    | with_reducible assumption | with_reducible apply keeps_kwyFolio | with_reducible apply keeps_hostFirst
    | with_reducible refine keeps_ite ?_ ?_

theorem keeps_portEgress {u s : State} (x0 : Nat) (x1 : Option Fol) (x2 : Option (L1Cfg × List Int)) (h : Keeps u s) :
    Keeps u (portEgress x0 x1 x2 s) := by
  unfold portEgress
  repeat' first
    | with_reducible assumption | intro _ | lift_lets -underBinder | with_reducible refine keeps_forN ?_ ?_
    | with_reducible apply keeps_sapEgress | with_reducible apply keeps_tillEgress | split

theorem keeps_l1Stop {u s : State} (x0 : Nat) (h : Keeps u s) : Keeps u (l1Stop x0 s) := by
  unfold l1Stop
  repeat' first
    | with_reducible assumption | with_reducible apply keeps_setOut | with_reducible apply keeps_setBoot | split

theorem keeps_egress {u s : State} (x0 : Nat) (h : Keeps u s) : Keeps u (egress x0 s) := by
  unfold egress
  have h1 := fun p => keeps_keywayEgress x0 (s.ready x0) (l1Render (x0 - 2) s).1
    (keeps_portEgress x0 (s.ready x0) (l1Render (x0 - 2) s).1 (keeps_setPst p (keeps_l1Render (x0 - 2) h)))
  exact keeps_l1Stop _ (keeps_ite (keeps_sendHinge _ _ (keeps_sendHinge _ _ (keeps_sendHinge _ _ (h1 _)))) (h1 _))

theorem keeps_folioStartOp {u s : State} (h : Keeps u s) : Keeps u (folioStartOp s) := by
  unfold folioStartOp
  repeat' first
    | with_reducible assumption | with_reducible apply keeps_fillFolio | with_reducible apply keeps_a67MissFolio
    | with_reducible apply keeps_missFolio | with_reducible apply keeps_egress
    | with_reducible apply keeps_captureLocal | with_reducible apply keeps_fieldSetup
    | with_reducible refine keeps_ite ?_ ?_

theorem keeps_sendReceipt {u s : State} (x0 : Fol) (h : Keeps u s) : Keeps u (sendReceipt x0 s) := by
  unfold sendReceipt
  repeat' first
    | with_reducible assumption | with_reducible apply keeps_sendControl | with_reducible refine keeps_ite ?_ ?_

theorem keeps_postNow {u s : State} (x0 : Nat) (h : Keeps u s) : Keeps u (postNow x0 s) := by
  unfold postNow
  repeat' first
    | with_reducible assumption | with_reducible apply keeps_postFolio | with_reducible apply keeps_sendReceipt
    | split

theorem keeps_receiptMisses {u s : State} (x0 : List Nat) (x1 : Nat) (h : Keeps u s) :
    Keeps u (receiptMisses x0 x1 s) := by
  unfold receiptMisses
  repeat' first | with_reducible assumption | with_reducible apply keeps_evtIf | split

theorem keeps_postingCutOp {u s : State} (h : Keeps u s) : Keeps u (postingCutOp s) := by
  unfold postingCutOp
  repeat' first
    | with_reducible assumption | (intro x; refine keeps_cut (a := Keeps u x) ?_ ?_; intro _; clear_value x)
    | (intro x; clear_value x) | lift_lets -underBinder | with_reducible apply keeps_netPosted
    | with_reducible apply keeps_postNow | with_reducible apply keeps_receiptMisses
    | with_reducible apply keeps_refuseDeferred | with_reducible apply keeps_updFol | split

theorem keeps_receiptOp {u s : State} (x0 : Nat) (x1 : List Nat) (h : Keeps u s) : Keeps u (receiptOp x0 x1 s) := by
  unfold receiptOp
  repeat' first
    | with_reducible assumption | with_reducible apply keeps_postNow | with_reducible apply keeps_receiptMisses
    | with_reducible apply keeps_adoptReceipt | with_reducible apply keeps_setHng | split

theorem keeps_receiptMissingOp {u s : State} (h : Keeps u s) : Keeps u (receiptMissingOp s) := by
  unfold receiptMissingOp
  repeat' first
    | with_reducible assumption | with_reducible apply keeps_postNow | with_reducible apply keeps_count | split

end Sys2Proof.Machine
end

