-- ==== Sys2Proof/Laws/State.lean ====
section
/-! SUPPORT. One lemma per field per update of the state, and what a register or a byte reads after a write. -/

namespace Sys2Proof.Machine

/-! ### The updates of registers, memory and answer -/

@[simp] theorem setReg_pending (s : State) (a : Nat) (v : Word) : (s.setReg a v).pending = s.pending := rfl
@[simp] theorem setReg_clock (s : State) (a : Nat) (v : Word) : (s.setReg a v).clock = s.clock := rfl
@[simp] theorem setReg_free (s : State) (a : Nat) (v : Word) : (s.setReg a v).free = s.free := rfl
@[simp] theorem setReg_ans (s : State) (a : Nat) (v : Word) : (s.setReg a v).ans = s.ans := rfl
@[simp] theorem setReg_setNow (s : State) (a : Nat) (v : Word) : (s.setReg a v).setNow = s.setNow := rfl
@[simp] theorem setReg_mem (s : State) (a : Nat) (v : Word) : (s.setReg a v).mem = s.mem := rfl
@[simp] theorem setReg_slotId (s : State) (a : Nat) (v : Word) : (s.setReg a v).slotId = s.slotId := rfl
@[simp] theorem setReg_fuse (s : State) (a : Nat) (v : Word) : (s.setReg a v).fuse = s.fuse := rfl
@[simp] theorem setReg_pwr (s : State) (a : Nat) (v : Word) : (s.setReg a v).pwr = s.pwr := rfl
@[simp] theorem setReg_boot (s : State) (a : Nat) (v : Word) : (s.setReg a v).boot = s.boot := rfl
@[simp] theorem setReg_xsp (s : State) (a : Nat) (v : Word) : (s.setReg a v).xsp = s.xsp := rfl
@[simp] theorem setReg_tim (s : State) (a : Nat) (v : Word) : (s.setReg a v).tim = s.tim := rfl
@[simp] theorem setReg_rsc (s : State) (a : Nat) (v : Word) : (s.setReg a v).rsc = s.rsc := rfl
@[simp] theorem setReg_clh (s : State) (a : Nat) (v : Word) : (s.setReg a v).clh = s.clh := rfl
@[simp] theorem setReg_rmt (s : State) (a : Nat) (v : Word) : (s.setReg a v).rmt = s.rmt := rfl
@[simp] theorem setReg_sap (s : State) (a : Nat) (v : Word) : (s.setReg a v).sap = s.sap := rfl
@[simp] theorem setReg_til (s : State) (a : Nat) (v : Word) : (s.setReg a v).til = s.til := rfl
@[simp] theorem setReg_hsp (s : State) (a : Nat) (v : Word) : (s.setReg a v).hsp = s.hsp := rfl
@[simp] theorem setReg_dis (s : State) (a : Nat) (v : Word) : (s.setReg a v).dis = s.dis := rfl
@[simp] theorem setReg_hng (s : State) (a : Nat) (v : Word) : (s.setReg a v).hng = s.hng := rfl
@[simp] theorem setReg_ldg (s : State) (a : Nat) (v : Word) : (s.setReg a v).ldg = s.ldg := rfl
@[simp] theorem setReg_pst (s : State) (a : Nat) (v : Word) : (s.setReg a v).pst = s.pst := rfl
@[simp] theorem setReg_tel (s : State) (a : Nat) (v : Word) : (s.setReg a v).tel = s.tel := rfl
@[simp] theorem setReg_out (s : State) (a : Nat) (v : Word) : (s.setReg a v).out = s.out := rfl
@[simp] theorem setReg_kwy (s : State) (a : Nat) (v : Word) : (s.setReg a v).kwy = s.kwy := rfl
@[simp] theorem setReg_field (s : State) (a : Nat) (v : Word) : (s.setReg a v).field = s.field := rfl
@[simp] theorem setReg_net (s : State) (a : Nat) (v : Word) : (s.setReg a v).net = s.net := rfl

@[simp] theorem raise_pending (s : State) (a : Nat) (m : Word) : (s.raise a m).pending = s.pending := rfl
@[simp] theorem raise_clock (s : State) (a : Nat) (m : Word) : (s.raise a m).clock = s.clock := rfl
@[simp] theorem raise_free (s : State) (a : Nat) (m : Word) : (s.raise a m).free = s.free := rfl
@[simp] theorem raise_ans (s : State) (a : Nat) (m : Word) : (s.raise a m).ans = s.ans := rfl
@[simp] theorem raise_mem (s : State) (a : Nat) (m : Word) : (s.raise a m).mem = s.mem := rfl
@[simp] theorem raise_slotId (s : State) (a : Nat) (m : Word) : (s.raise a m).slotId = s.slotId := rfl
@[simp] theorem raise_fuse (s : State) (a : Nat) (m : Word) : (s.raise a m).fuse = s.fuse := rfl
@[simp] theorem raise_pwr (s : State) (a : Nat) (m : Word) : (s.raise a m).pwr = s.pwr := rfl
@[simp] theorem raise_boot (s : State) (a : Nat) (m : Word) : (s.raise a m).boot = s.boot := rfl
@[simp] theorem raise_xsp (s : State) (a : Nat) (m : Word) : (s.raise a m).xsp = s.xsp := rfl
@[simp] theorem raise_tim (s : State) (a : Nat) (m : Word) : (s.raise a m).tim = s.tim := rfl
@[simp] theorem raise_rsc (s : State) (a : Nat) (m : Word) : (s.raise a m).rsc = s.rsc := rfl
@[simp] theorem raise_clh (s : State) (a : Nat) (m : Word) : (s.raise a m).clh = s.clh := rfl
@[simp] theorem raise_rmt (s : State) (a : Nat) (m : Word) : (s.raise a m).rmt = s.rmt := rfl
@[simp] theorem raise_sap (s : State) (a : Nat) (m : Word) : (s.raise a m).sap = s.sap := rfl
@[simp] theorem raise_til (s : State) (a : Nat) (m : Word) : (s.raise a m).til = s.til := rfl
@[simp] theorem raise_hsp (s : State) (a : Nat) (m : Word) : (s.raise a m).hsp = s.hsp := rfl
@[simp] theorem raise_dis (s : State) (a : Nat) (m : Word) : (s.raise a m).dis = s.dis := rfl
@[simp] theorem raise_hng (s : State) (a : Nat) (m : Word) : (s.raise a m).hng = s.hng := rfl
@[simp] theorem raise_ldg (s : State) (a : Nat) (m : Word) : (s.raise a m).ldg = s.ldg := rfl
@[simp] theorem raise_pst (s : State) (a : Nat) (m : Word) : (s.raise a m).pst = s.pst := rfl
@[simp] theorem raise_tel (s : State) (a : Nat) (m : Word) : (s.raise a m).tel = s.tel := rfl
@[simp] theorem raise_out (s : State) (a : Nat) (m : Word) : (s.raise a m).out = s.out := rfl
@[simp] theorem raise_kwy (s : State) (a : Nat) (m : Word) : (s.raise a m).kwy = s.kwy := rfl
@[simp] theorem raise_field (s : State) (a : Nat) (m : Word) : (s.raise a m).field = s.field := rfl
@[simp] theorem raise_net (s : State) (a : Nat) (m : Word) : (s.raise a m).net = s.net := rfl

@[simp] theorem latchFld_pending (s : State) (a hi lo v : Nat) : (s.latchFld a hi lo v).pending = s.pending := rfl
@[simp] theorem latchFld_clock (s : State) (a hi lo v : Nat) : (s.latchFld a hi lo v).clock = s.clock := rfl
@[simp] theorem latchFld_free (s : State) (a hi lo v : Nat) : (s.latchFld a hi lo v).free = s.free := rfl
@[simp] theorem latchFld_ans (s : State) (a hi lo v : Nat) : (s.latchFld a hi lo v).ans = s.ans := rfl
@[simp] theorem latchFld_mem (s : State) (a hi lo v : Nat) : (s.latchFld a hi lo v).mem = s.mem := rfl
@[simp] theorem latchFld_slotId (s : State) (a hi lo v : Nat) : (s.latchFld a hi lo v).slotId = s.slotId := rfl
@[simp] theorem latchFld_fuse (s : State) (a hi lo v : Nat) : (s.latchFld a hi lo v).fuse = s.fuse := rfl
@[simp] theorem latchFld_pwr (s : State) (a hi lo v : Nat) : (s.latchFld a hi lo v).pwr = s.pwr := rfl
@[simp] theorem latchFld_boot (s : State) (a hi lo v : Nat) : (s.latchFld a hi lo v).boot = s.boot := rfl
@[simp] theorem latchFld_xsp (s : State) (a hi lo v : Nat) : (s.latchFld a hi lo v).xsp = s.xsp := rfl
@[simp] theorem latchFld_tim (s : State) (a hi lo v : Nat) : (s.latchFld a hi lo v).tim = s.tim := rfl
@[simp] theorem latchFld_rsc (s : State) (a hi lo v : Nat) : (s.latchFld a hi lo v).rsc = s.rsc := rfl
@[simp] theorem latchFld_clh (s : State) (a hi lo v : Nat) : (s.latchFld a hi lo v).clh = s.clh := rfl
@[simp] theorem latchFld_rmt (s : State) (a hi lo v : Nat) : (s.latchFld a hi lo v).rmt = s.rmt := rfl
@[simp] theorem latchFld_sap (s : State) (a hi lo v : Nat) : (s.latchFld a hi lo v).sap = s.sap := rfl
@[simp] theorem latchFld_til (s : State) (a hi lo v : Nat) : (s.latchFld a hi lo v).til = s.til := rfl
@[simp] theorem latchFld_hsp (s : State) (a hi lo v : Nat) : (s.latchFld a hi lo v).hsp = s.hsp := rfl
@[simp] theorem latchFld_dis (s : State) (a hi lo v : Nat) : (s.latchFld a hi lo v).dis = s.dis := rfl
@[simp] theorem latchFld_hng (s : State) (a hi lo v : Nat) : (s.latchFld a hi lo v).hng = s.hng := rfl
@[simp] theorem latchFld_ldg (s : State) (a hi lo v : Nat) : (s.latchFld a hi lo v).ldg = s.ldg := rfl
@[simp] theorem latchFld_pst (s : State) (a hi lo v : Nat) : (s.latchFld a hi lo v).pst = s.pst := rfl
@[simp] theorem latchFld_tel (s : State) (a hi lo v : Nat) : (s.latchFld a hi lo v).tel = s.tel := rfl
@[simp] theorem latchFld_out (s : State) (a hi lo v : Nat) : (s.latchFld a hi lo v).out = s.out := rfl
@[simp] theorem latchFld_kwy (s : State) (a hi lo v : Nat) : (s.latchFld a hi lo v).kwy = s.kwy := rfl
@[simp] theorem latchFld_field (s : State) (a hi lo v : Nat) : (s.latchFld a hi lo v).field = s.field := rfl
@[simp] theorem latchFld_net (s : State) (a hi lo v : Nat) : (s.latchFld a hi lo v).net = s.net := rfl

@[simp] theorem wrByte_pending (s : State) (a : Nat) (b : Byte) : (s.wrByte a b).pending = s.pending := rfl
@[simp] theorem wrByte_clock (s : State) (a : Nat) (b : Byte) : (s.wrByte a b).clock = s.clock := rfl
@[simp] theorem wrByte_free (s : State) (a : Nat) (b : Byte) : (s.wrByte a b).free = s.free := rfl
@[simp] theorem wrByte_ans (s : State) (a : Nat) (b : Byte) : (s.wrByte a b).ans = s.ans := rfl
@[simp] theorem wrByte_setNow (s : State) (a : Nat) (b : Byte) : (s.wrByte a b).setNow = s.setNow := rfl
@[simp] theorem wrByte_regs (s : State) (a : Nat) (b : Byte) : (s.wrByte a b).regs = s.regs := rfl
@[simp] theorem wrByte_slotId (s : State) (a : Nat) (b : Byte) : (s.wrByte a b).slotId = s.slotId := rfl
@[simp] theorem wrByte_fuse (s : State) (a : Nat) (b : Byte) : (s.wrByte a b).fuse = s.fuse := rfl
@[simp] theorem wrByte_pwr (s : State) (a : Nat) (b : Byte) : (s.wrByte a b).pwr = s.pwr := rfl
@[simp] theorem wrByte_boot (s : State) (a : Nat) (b : Byte) : (s.wrByte a b).boot = s.boot := rfl
@[simp] theorem wrByte_xsp (s : State) (a : Nat) (b : Byte) : (s.wrByte a b).xsp = s.xsp := rfl
@[simp] theorem wrByte_tim (s : State) (a : Nat) (b : Byte) : (s.wrByte a b).tim = s.tim := rfl
@[simp] theorem wrByte_rsc (s : State) (a : Nat) (b : Byte) : (s.wrByte a b).rsc = s.rsc := rfl
@[simp] theorem wrByte_clh (s : State) (a : Nat) (b : Byte) : (s.wrByte a b).clh = s.clh := rfl
@[simp] theorem wrByte_rmt (s : State) (a : Nat) (b : Byte) : (s.wrByte a b).rmt = s.rmt := rfl
@[simp] theorem wrByte_sap (s : State) (a : Nat) (b : Byte) : (s.wrByte a b).sap = s.sap := rfl
@[simp] theorem wrByte_til (s : State) (a : Nat) (b : Byte) : (s.wrByte a b).til = s.til := rfl
@[simp] theorem wrByte_hsp (s : State) (a : Nat) (b : Byte) : (s.wrByte a b).hsp = s.hsp := rfl
@[simp] theorem wrByte_dis (s : State) (a : Nat) (b : Byte) : (s.wrByte a b).dis = s.dis := rfl
@[simp] theorem wrByte_hng (s : State) (a : Nat) (b : Byte) : (s.wrByte a b).hng = s.hng := rfl
@[simp] theorem wrByte_ldg (s : State) (a : Nat) (b : Byte) : (s.wrByte a b).ldg = s.ldg := rfl
@[simp] theorem wrByte_pst (s : State) (a : Nat) (b : Byte) : (s.wrByte a b).pst = s.pst := rfl
@[simp] theorem wrByte_tel (s : State) (a : Nat) (b : Byte) : (s.wrByte a b).tel = s.tel := rfl
@[simp] theorem wrByte_out (s : State) (a : Nat) (b : Byte) : (s.wrByte a b).out = s.out := rfl
@[simp] theorem wrByte_kwy (s : State) (a : Nat) (b : Byte) : (s.wrByte a b).kwy = s.kwy := rfl
@[simp] theorem wrByte_field (s : State) (a : Nat) (b : Byte) : (s.wrByte a b).field = s.field := rfl
@[simp] theorem wrByte_net (s : State) (a : Nat) (b : Byte) : (s.wrByte a b).net = s.net := rfl

@[simp] theorem answer_pending (s : State) (r : Resp) (d : List Byte) : (s.answer r d).pending = s.pending := rfl
@[simp] theorem answer_clock (s : State) (r : Resp) (d : List Byte) : (s.answer r d).clock = s.clock := rfl
@[simp] theorem answer_free (s : State) (r : Resp) (d : List Byte) : (s.answer r d).free = s.free := rfl
@[simp] theorem answer_setNow (s : State) (r : Resp) (d : List Byte) : (s.answer r d).setNow = s.setNow := rfl
@[simp] theorem answer_regs (s : State) (r : Resp) (d : List Byte) : (s.answer r d).regs = s.regs := rfl
@[simp] theorem answer_mem (s : State) (r : Resp) (d : List Byte) : (s.answer r d).mem = s.mem := rfl
@[simp] theorem answer_slotId (s : State) (r : Resp) (d : List Byte) : (s.answer r d).slotId = s.slotId := rfl
@[simp] theorem answer_fuse (s : State) (r : Resp) (d : List Byte) : (s.answer r d).fuse = s.fuse := rfl
@[simp] theorem answer_pwr (s : State) (r : Resp) (d : List Byte) : (s.answer r d).pwr = s.pwr := rfl
@[simp] theorem answer_boot (s : State) (r : Resp) (d : List Byte) : (s.answer r d).boot = s.boot := rfl
@[simp] theorem answer_xsp (s : State) (r : Resp) (d : List Byte) : (s.answer r d).xsp = s.xsp := rfl
@[simp] theorem answer_tim (s : State) (r : Resp) (d : List Byte) : (s.answer r d).tim = s.tim := rfl
@[simp] theorem answer_rsc (s : State) (r : Resp) (d : List Byte) : (s.answer r d).rsc = s.rsc := rfl
@[simp] theorem answer_clh (s : State) (r : Resp) (d : List Byte) : (s.answer r d).clh = s.clh := rfl
@[simp] theorem answer_rmt (s : State) (r : Resp) (d : List Byte) : (s.answer r d).rmt = s.rmt := rfl
@[simp] theorem answer_sap (s : State) (r : Resp) (d : List Byte) : (s.answer r d).sap = s.sap := rfl
@[simp] theorem answer_til (s : State) (r : Resp) (d : List Byte) : (s.answer r d).til = s.til := rfl
@[simp] theorem answer_hsp (s : State) (r : Resp) (d : List Byte) : (s.answer r d).hsp = s.hsp := rfl
@[simp] theorem answer_dis (s : State) (r : Resp) (d : List Byte) : (s.answer r d).dis = s.dis := rfl
@[simp] theorem answer_hng (s : State) (r : Resp) (d : List Byte) : (s.answer r d).hng = s.hng := rfl
@[simp] theorem answer_ldg (s : State) (r : Resp) (d : List Byte) : (s.answer r d).ldg = s.ldg := rfl
@[simp] theorem answer_pst (s : State) (r : Resp) (d : List Byte) : (s.answer r d).pst = s.pst := rfl
@[simp] theorem answer_tel (s : State) (r : Resp) (d : List Byte) : (s.answer r d).tel = s.tel := rfl
@[simp] theorem answer_out (s : State) (r : Resp) (d : List Byte) : (s.answer r d).out = s.out := rfl
@[simp] theorem answer_kwy (s : State) (r : Resp) (d : List Byte) : (s.answer r d).kwy = s.kwy := rfl
@[simp] theorem answer_field (s : State) (r : Resp) (d : List Byte) : (s.answer r d).field = s.field := rfl
@[simp] theorem answer_net (s : State) (r : Resp) (d : List Byte) : (s.answer r d).net = s.net := rfl

@[simp] theorem clearMem_pending (s : State) (a b : Nat) : (s.clearMem a b).pending = s.pending := rfl
@[simp] theorem clearMem_clock (s : State) (a b : Nat) : (s.clearMem a b).clock = s.clock := rfl
@[simp] theorem clearMem_free (s : State) (a b : Nat) : (s.clearMem a b).free = s.free := rfl
@[simp] theorem clearMem_ans (s : State) (a b : Nat) : (s.clearMem a b).ans = s.ans := rfl
@[simp] theorem clearMem_setNow (s : State) (a b : Nat) : (s.clearMem a b).setNow = s.setNow := rfl
@[simp] theorem clearMem_regs (s : State) (a b : Nat) : (s.clearMem a b).regs = s.regs := rfl
@[simp] theorem clearMem_slotId (s : State) (a b : Nat) : (s.clearMem a b).slotId = s.slotId := rfl
@[simp] theorem clearMem_fuse (s : State) (a b : Nat) : (s.clearMem a b).fuse = s.fuse := rfl
@[simp] theorem clearMem_pwr (s : State) (a b : Nat) : (s.clearMem a b).pwr = s.pwr := rfl
@[simp] theorem clearMem_boot (s : State) (a b : Nat) : (s.clearMem a b).boot = s.boot := rfl
@[simp] theorem clearMem_xsp (s : State) (a b : Nat) : (s.clearMem a b).xsp = s.xsp := rfl
@[simp] theorem clearMem_tim (s : State) (a b : Nat) : (s.clearMem a b).tim = s.tim := rfl
@[simp] theorem clearMem_rsc (s : State) (a b : Nat) : (s.clearMem a b).rsc = s.rsc := rfl
@[simp] theorem clearMem_clh (s : State) (a b : Nat) : (s.clearMem a b).clh = s.clh := rfl
@[simp] theorem clearMem_rmt (s : State) (a b : Nat) : (s.clearMem a b).rmt = s.rmt := rfl
@[simp] theorem clearMem_sap (s : State) (a b : Nat) : (s.clearMem a b).sap = s.sap := rfl
@[simp] theorem clearMem_til (s : State) (a b : Nat) : (s.clearMem a b).til = s.til := rfl
@[simp] theorem clearMem_hsp (s : State) (a b : Nat) : (s.clearMem a b).hsp = s.hsp := rfl
@[simp] theorem clearMem_dis (s : State) (a b : Nat) : (s.clearMem a b).dis = s.dis := rfl
@[simp] theorem clearMem_hng (s : State) (a b : Nat) : (s.clearMem a b).hng = s.hng := rfl
@[simp] theorem clearMem_ldg (s : State) (a b : Nat) : (s.clearMem a b).ldg = s.ldg := rfl
@[simp] theorem clearMem_pst (s : State) (a b : Nat) : (s.clearMem a b).pst = s.pst := rfl
@[simp] theorem clearMem_tel (s : State) (a b : Nat) : (s.clearMem a b).tel = s.tel := rfl
@[simp] theorem clearMem_out (s : State) (a b : Nat) : (s.clearMem a b).out = s.out := rfl
@[simp] theorem clearMem_kwy (s : State) (a b : Nat) : (s.clearMem a b).kwy = s.kwy := rfl
@[simp] theorem clearMem_field (s : State) (a b : Nat) : (s.clearMem a b).field = s.field := rfl
@[simp] theorem clearMem_net (s : State) (a b : Nat) : (s.clearMem a b).net = s.net := rfl

@[simp] theorem resetRegs_pending (s : State) (a b : Nat) : (s.resetRegs a b).pending = s.pending := rfl
@[simp] theorem resetRegs_clock (s : State) (a b : Nat) : (s.resetRegs a b).clock = s.clock := rfl
@[simp] theorem resetRegs_free (s : State) (a b : Nat) : (s.resetRegs a b).free = s.free := rfl
@[simp] theorem resetRegs_ans (s : State) (a b : Nat) : (s.resetRegs a b).ans = s.ans := rfl
@[simp] theorem resetRegs_setNow (s : State) (a b : Nat) : (s.resetRegs a b).setNow = s.setNow := rfl
@[simp] theorem resetRegs_mem (s : State) (a b : Nat) : (s.resetRegs a b).mem = s.mem := rfl
@[simp] theorem resetRegs_slotId (s : State) (a b : Nat) : (s.resetRegs a b).slotId = s.slotId := rfl
@[simp] theorem resetRegs_fuse (s : State) (a b : Nat) : (s.resetRegs a b).fuse = s.fuse := rfl
@[simp] theorem resetRegs_pwr (s : State) (a b : Nat) : (s.resetRegs a b).pwr = s.pwr := rfl
@[simp] theorem resetRegs_boot (s : State) (a b : Nat) : (s.resetRegs a b).boot = s.boot := rfl
@[simp] theorem resetRegs_xsp (s : State) (a b : Nat) : (s.resetRegs a b).xsp = s.xsp := rfl
@[simp] theorem resetRegs_tim (s : State) (a b : Nat) : (s.resetRegs a b).tim = s.tim := rfl
@[simp] theorem resetRegs_rsc (s : State) (a b : Nat) : (s.resetRegs a b).rsc = s.rsc := rfl
@[simp] theorem resetRegs_clh (s : State) (a b : Nat) : (s.resetRegs a b).clh = s.clh := rfl
@[simp] theorem resetRegs_rmt (s : State) (a b : Nat) : (s.resetRegs a b).rmt = s.rmt := rfl
@[simp] theorem resetRegs_sap (s : State) (a b : Nat) : (s.resetRegs a b).sap = s.sap := rfl
@[simp] theorem resetRegs_til (s : State) (a b : Nat) : (s.resetRegs a b).til = s.til := rfl
@[simp] theorem resetRegs_hsp (s : State) (a b : Nat) : (s.resetRegs a b).hsp = s.hsp := rfl
@[simp] theorem resetRegs_dis (s : State) (a b : Nat) : (s.resetRegs a b).dis = s.dis := rfl
@[simp] theorem resetRegs_hng (s : State) (a b : Nat) : (s.resetRegs a b).hng = s.hng := rfl
@[simp] theorem resetRegs_ldg (s : State) (a b : Nat) : (s.resetRegs a b).ldg = s.ldg := rfl
@[simp] theorem resetRegs_pst (s : State) (a b : Nat) : (s.resetRegs a b).pst = s.pst := rfl
@[simp] theorem resetRegs_tel (s : State) (a b : Nat) : (s.resetRegs a b).tel = s.tel := rfl
@[simp] theorem resetRegs_out (s : State) (a b : Nat) : (s.resetRegs a b).out = s.out := rfl
@[simp] theorem resetRegs_kwy (s : State) (a b : Nat) : (s.resetRegs a b).kwy = s.kwy := rfl
@[simp] theorem resetRegs_field (s : State) (a b : Nat) : (s.resetRegs a b).field = s.field := rfl
@[simp] theorem resetRegs_net (s : State) (a b : Nat) : (s.resetRegs a b).net = s.net := rfl

@[simp] theorem answer_ans (s : State) (r : Resp) (d : List Byte) : (s.answer r d).ans = ⟨r, d⟩ := rfl

/-- What a register reads after a write of it. -/
@[simp] theorem reg_setReg_same (s : State) (a : Nat) (v : Word) : (s.setReg a v).reg a = v := aget_aput_same _ _ _ _

theorem reg_setReg_ne (s : State) {a b : Nat} (v : Word) (h : b ≠ a) : (s.setReg a v).reg b = s.reg b :=
  aget_aput_ne _ _ _ _ h

/-- What a byte reads after a write of it. -/
@[simp] theorem rdByte_wrByte_same (s : State) (a : Nat) (b : Byte) : (s.wrByte a b).rdByte a = b := aget_aput_same _ _ _ _

theorem rdByte_wrByte_ne (s : State) {a c : Nat} (b : Byte) (h : c ≠ a) : (s.wrByte a b).rdByte c = s.rdByte c :=
  aget_aput_ne _ _ _ _ h

@[simp] theorem reg_wrByte (s : State) (a c : Nat) (b : Byte) : (s.wrByte a b).reg c = s.reg c := rfl
@[simp] theorem reg_answer (s : State) (r : Resp) (d : List Byte) (c : Nat) : (s.answer r d).reg c = s.reg c := rfl
@[simp] theorem rdByte_setReg (s : State) (a c : Nat) (v : Word) : (s.setReg a v).rdByte c = s.rdByte c := rfl
@[simp] theorem rdByte_answer (s : State) (r : Resp) (d : List Byte) (c : Nat) : (s.answer r d).rdByte c = s.rdByte c := rfl

/-! ### Events: they write registers and note what they set in the tick -/

theorem evt_eq (s : State) (a i : Nat) : s.evt a i = { s with regs := (s.evt a i).regs, setNow := (s.evt a i).setNow } := by
  unfold State.evt
  split <;> rfl

theorem evtIf_eq (s : State) (c : Bool) (a i : Nat) :
    s.evtIf c a i = { s with regs := (s.evtIf c a i).regs, setNow := (s.evtIf c a i).setNow } := by
  unfold State.evtIf
  split
  · exact evt_eq s a i
  · rfl

theorem count_eq (s : State) (a n k : Nat) :
    s.count a n k = { s with regs := (s.count a n k).regs, setNow := (s.count a n k).setNow } := by
  simp only [State.count]
  split <;> rfl

@[simp] theorem evt_pending (s : State) (a i : Nat) : (s.evt a i).pending = s.pending := by rw [evt_eq]
@[simp] theorem evt_clock (s : State) (a i : Nat) : (s.evt a i).clock = s.clock := by rw [evt_eq]
@[simp] theorem evt_free (s : State) (a i : Nat) : (s.evt a i).free = s.free := by rw [evt_eq]
@[simp] theorem evt_ans (s : State) (a i : Nat) : (s.evt a i).ans = s.ans := by rw [evt_eq]
@[simp] theorem evt_mem (s : State) (a i : Nat) : (s.evt a i).mem = s.mem := by rw [evt_eq]
@[simp] theorem evt_slotId (s : State) (a i : Nat) : (s.evt a i).slotId = s.slotId := by rw [evt_eq]
@[simp] theorem evt_fuse (s : State) (a i : Nat) : (s.evt a i).fuse = s.fuse := by rw [evt_eq]
@[simp] theorem evt_pwr (s : State) (a i : Nat) : (s.evt a i).pwr = s.pwr := by rw [evt_eq]
@[simp] theorem evt_boot (s : State) (a i : Nat) : (s.evt a i).boot = s.boot := by rw [evt_eq]
@[simp] theorem evt_xsp (s : State) (a i : Nat) : (s.evt a i).xsp = s.xsp := by rw [evt_eq]
@[simp] theorem evt_tim (s : State) (a i : Nat) : (s.evt a i).tim = s.tim := by rw [evt_eq]
@[simp] theorem evt_rsc (s : State) (a i : Nat) : (s.evt a i).rsc = s.rsc := by rw [evt_eq]
@[simp] theorem evt_clh (s : State) (a i : Nat) : (s.evt a i).clh = s.clh := by rw [evt_eq]
@[simp] theorem evt_rmt (s : State) (a i : Nat) : (s.evt a i).rmt = s.rmt := by rw [evt_eq]
@[simp] theorem evt_sap (s : State) (a i : Nat) : (s.evt a i).sap = s.sap := by rw [evt_eq]
@[simp] theorem evt_til (s : State) (a i : Nat) : (s.evt a i).til = s.til := by rw [evt_eq]
@[simp] theorem evt_hsp (s : State) (a i : Nat) : (s.evt a i).hsp = s.hsp := by rw [evt_eq]
@[simp] theorem evt_dis (s : State) (a i : Nat) : (s.evt a i).dis = s.dis := by rw [evt_eq]
@[simp] theorem evt_hng (s : State) (a i : Nat) : (s.evt a i).hng = s.hng := by rw [evt_eq]
@[simp] theorem evt_ldg (s : State) (a i : Nat) : (s.evt a i).ldg = s.ldg := by rw [evt_eq]
@[simp] theorem evt_pst (s : State) (a i : Nat) : (s.evt a i).pst = s.pst := by rw [evt_eq]
@[simp] theorem evt_tel (s : State) (a i : Nat) : (s.evt a i).tel = s.tel := by rw [evt_eq]
@[simp] theorem evt_out (s : State) (a i : Nat) : (s.evt a i).out = s.out := by rw [evt_eq]
@[simp] theorem evt_kwy (s : State) (a i : Nat) : (s.evt a i).kwy = s.kwy := by rw [evt_eq]
@[simp] theorem evt_field (s : State) (a i : Nat) : (s.evt a i).field = s.field := by rw [evt_eq]
@[simp] theorem evt_net (s : State) (a i : Nat) : (s.evt a i).net = s.net := by rw [evt_eq]

@[simp] theorem evtIf_pending (s : State) (c : Bool) (a i : Nat) : (s.evtIf c a i).pending = s.pending := by rw [evtIf_eq]
@[simp] theorem evtIf_clock (s : State) (c : Bool) (a i : Nat) : (s.evtIf c a i).clock = s.clock := by rw [evtIf_eq]
@[simp] theorem evtIf_free (s : State) (c : Bool) (a i : Nat) : (s.evtIf c a i).free = s.free := by rw [evtIf_eq]
@[simp] theorem evtIf_ans (s : State) (c : Bool) (a i : Nat) : (s.evtIf c a i).ans = s.ans := by rw [evtIf_eq]
@[simp] theorem evtIf_mem (s : State) (c : Bool) (a i : Nat) : (s.evtIf c a i).mem = s.mem := by rw [evtIf_eq]
@[simp] theorem evtIf_slotId (s : State) (c : Bool) (a i : Nat) : (s.evtIf c a i).slotId = s.slotId := by rw [evtIf_eq]
@[simp] theorem evtIf_fuse (s : State) (c : Bool) (a i : Nat) : (s.evtIf c a i).fuse = s.fuse := by rw [evtIf_eq]
@[simp] theorem evtIf_pwr (s : State) (c : Bool) (a i : Nat) : (s.evtIf c a i).pwr = s.pwr := by rw [evtIf_eq]
@[simp] theorem evtIf_boot (s : State) (c : Bool) (a i : Nat) : (s.evtIf c a i).boot = s.boot := by rw [evtIf_eq]
@[simp] theorem evtIf_xsp (s : State) (c : Bool) (a i : Nat) : (s.evtIf c a i).xsp = s.xsp := by rw [evtIf_eq]
@[simp] theorem evtIf_tim (s : State) (c : Bool) (a i : Nat) : (s.evtIf c a i).tim = s.tim := by rw [evtIf_eq]
@[simp] theorem evtIf_rsc (s : State) (c : Bool) (a i : Nat) : (s.evtIf c a i).rsc = s.rsc := by rw [evtIf_eq]
@[simp] theorem evtIf_clh (s : State) (c : Bool) (a i : Nat) : (s.evtIf c a i).clh = s.clh := by rw [evtIf_eq]
@[simp] theorem evtIf_rmt (s : State) (c : Bool) (a i : Nat) : (s.evtIf c a i).rmt = s.rmt := by rw [evtIf_eq]
@[simp] theorem evtIf_sap (s : State) (c : Bool) (a i : Nat) : (s.evtIf c a i).sap = s.sap := by rw [evtIf_eq]
@[simp] theorem evtIf_til (s : State) (c : Bool) (a i : Nat) : (s.evtIf c a i).til = s.til := by rw [evtIf_eq]
@[simp] theorem evtIf_hsp (s : State) (c : Bool) (a i : Nat) : (s.evtIf c a i).hsp = s.hsp := by rw [evtIf_eq]
@[simp] theorem evtIf_dis (s : State) (c : Bool) (a i : Nat) : (s.evtIf c a i).dis = s.dis := by rw [evtIf_eq]
@[simp] theorem evtIf_hng (s : State) (c : Bool) (a i : Nat) : (s.evtIf c a i).hng = s.hng := by rw [evtIf_eq]
@[simp] theorem evtIf_ldg (s : State) (c : Bool) (a i : Nat) : (s.evtIf c a i).ldg = s.ldg := by rw [evtIf_eq]
@[simp] theorem evtIf_pst (s : State) (c : Bool) (a i : Nat) : (s.evtIf c a i).pst = s.pst := by rw [evtIf_eq]
@[simp] theorem evtIf_tel (s : State) (c : Bool) (a i : Nat) : (s.evtIf c a i).tel = s.tel := by rw [evtIf_eq]
@[simp] theorem evtIf_out (s : State) (c : Bool) (a i : Nat) : (s.evtIf c a i).out = s.out := by rw [evtIf_eq]
@[simp] theorem evtIf_kwy (s : State) (c : Bool) (a i : Nat) : (s.evtIf c a i).kwy = s.kwy := by rw [evtIf_eq]
@[simp] theorem evtIf_field (s : State) (c : Bool) (a i : Nat) : (s.evtIf c a i).field = s.field := by rw [evtIf_eq]
@[simp] theorem evtIf_net (s : State) (c : Bool) (a i : Nat) : (s.evtIf c a i).net = s.net := by rw [evtIf_eq]

@[simp] theorem count_pending (s : State) (a n k : Nat) : (s.count a n k).pending = s.pending := by rw [count_eq]
@[simp] theorem count_clock (s : State) (a n k : Nat) : (s.count a n k).clock = s.clock := by rw [count_eq]
@[simp] theorem count_free (s : State) (a n k : Nat) : (s.count a n k).free = s.free := by rw [count_eq]
@[simp] theorem count_ans (s : State) (a n k : Nat) : (s.count a n k).ans = s.ans := by rw [count_eq]
@[simp] theorem count_mem (s : State) (a n k : Nat) : (s.count a n k).mem = s.mem := by rw [count_eq]
@[simp] theorem count_slotId (s : State) (a n k : Nat) : (s.count a n k).slotId = s.slotId := by rw [count_eq]
@[simp] theorem count_fuse (s : State) (a n k : Nat) : (s.count a n k).fuse = s.fuse := by rw [count_eq]
@[simp] theorem count_pwr (s : State) (a n k : Nat) : (s.count a n k).pwr = s.pwr := by rw [count_eq]
@[simp] theorem count_boot (s : State) (a n k : Nat) : (s.count a n k).boot = s.boot := by rw [count_eq]
@[simp] theorem count_xsp (s : State) (a n k : Nat) : (s.count a n k).xsp = s.xsp := by rw [count_eq]
@[simp] theorem count_tim (s : State) (a n k : Nat) : (s.count a n k).tim = s.tim := by rw [count_eq]
@[simp] theorem count_rsc (s : State) (a n k : Nat) : (s.count a n k).rsc = s.rsc := by rw [count_eq]
@[simp] theorem count_clh (s : State) (a n k : Nat) : (s.count a n k).clh = s.clh := by rw [count_eq]
@[simp] theorem count_rmt (s : State) (a n k : Nat) : (s.count a n k).rmt = s.rmt := by rw [count_eq]
@[simp] theorem count_sap (s : State) (a n k : Nat) : (s.count a n k).sap = s.sap := by rw [count_eq]
@[simp] theorem count_til (s : State) (a n k : Nat) : (s.count a n k).til = s.til := by rw [count_eq]
@[simp] theorem count_hsp (s : State) (a n k : Nat) : (s.count a n k).hsp = s.hsp := by rw [count_eq]
@[simp] theorem count_dis (s : State) (a n k : Nat) : (s.count a n k).dis = s.dis := by rw [count_eq]
@[simp] theorem count_hng (s : State) (a n k : Nat) : (s.count a n k).hng = s.hng := by rw [count_eq]
@[simp] theorem count_ldg (s : State) (a n k : Nat) : (s.count a n k).ldg = s.ldg := by rw [count_eq]
@[simp] theorem count_pst (s : State) (a n k : Nat) : (s.count a n k).pst = s.pst := by rw [count_eq]
@[simp] theorem count_tel (s : State) (a n k : Nat) : (s.count a n k).tel = s.tel := by rw [count_eq]
@[simp] theorem count_out (s : State) (a n k : Nat) : (s.count a n k).out = s.out := by rw [count_eq]
@[simp] theorem count_kwy (s : State) (a n k : Nat) : (s.count a n k).kwy = s.kwy := by rw [count_eq]
@[simp] theorem count_field (s : State) (a n k : Nat) : (s.count a n k).field = s.field := by rw [count_eq]
@[simp] theorem count_net (s : State) (a n k : Nat) : (s.count a n k).net = s.net := by rw [count_eq]

/-- What a register reads after hardware has set bits of it. -/
@[simp] theorem reg_raise_same (s : State) (a : Nat) (m : Word) : (s.raise a m).reg a = s.reg a ||| m :=
  reg_setReg_same s a _

theorem reg_raise_ne (s : State) {a b : Nat} (m : Word) (h : b ≠ a) : (s.raise a m).reg b = s.reg b :=
  reg_setReg_ne s _ h

/-- The bits that hardware sets are noted for the tick (R25). -/
theorem setNow_raise (s : State) (a : Nat) (m : Word) : aget (s.raise a m).setNow 0 a = aget s.setNow 0 a ||| m :=
  aget_aput_same _ _ _ _

/-- An event sets its bit. -/
theorem reg_evt (s : State) {a i : Nat} (h : a ≠ Reg.EVT_SUM) : (s.evt a i).reg a = s.reg a ||| bitw i := by
  simp only [State.evt]
  split
  · rw [State.sum, reg_raise_ne _ _ h, reg_raise_same]
  · rw [reg_raise_same]

/-- An event leaves every register but its own and EVT_SUM. -/
theorem reg_evt_ne (s : State) {a b i : Nat} (h : b ≠ a) (k : b ≠ Reg.EVT_SUM) : (s.evt a i).reg b = s.reg b := by
  simp only [State.evt]
  split
  · rw [State.sum, reg_raise_ne _ _ k, reg_raise_ne _ _ h]
  · rw [reg_raise_ne _ _ h]

theorem bit_or_bitw (w : Word) {i : Nat} (h : i < 32) : bit (w ||| bitw i) i = true := by
  have h2 : 2 ^ i < 2 ^ 32 := Nat.pow_lt_pow_right (by decide) h
  simp only [bit, bitw, wd, BitVec.toNat_or, BitVec.toNat_ofNat, Nat.mod_eq_of_lt h2, Nat.testBit_or, Nat.testBit_two_pow_self,
    Bool.or_true]

theorem rb_evt (s : State) {a i : Nat} (h : a ≠ Reg.EVT_SUM) (k : i < 32) : (s.evt a i).rb a i = true := by
  rw [State.rb, reg_evt s h]
  exact bit_or_bitw _ k

/-! ### The parts of the state, replaced whole -/

@[simp] theorem setClh_clh (s : State) (x : Clh) : (s.setClh x).clh = x := rfl
@[simp] theorem setClh_pending (s : State) (x : Clh) : (s.setClh x).pending = s.pending := rfl
@[simp] theorem setClh_clock (s : State) (x : Clh) : (s.setClh x).clock = s.clock := rfl
@[simp] theorem setClh_free (s : State) (x : Clh) : (s.setClh x).free = s.free := rfl
@[simp] theorem setClh_ans (s : State) (x : Clh) : (s.setClh x).ans = s.ans := rfl
@[simp] theorem setClh_setNow (s : State) (x : Clh) : (s.setClh x).setNow = s.setNow := rfl
@[simp] theorem setClh_regs (s : State) (x : Clh) : (s.setClh x).regs = s.regs := rfl
@[simp] theorem setClh_mem (s : State) (x : Clh) : (s.setClh x).mem = s.mem := rfl
@[simp] theorem setClh_slotId (s : State) (x : Clh) : (s.setClh x).slotId = s.slotId := rfl
@[simp] theorem setClh_fuse (s : State) (x : Clh) : (s.setClh x).fuse = s.fuse := rfl
@[simp] theorem setClh_pwr (s : State) (x : Clh) : (s.setClh x).pwr = s.pwr := rfl
@[simp] theorem setClh_boot (s : State) (x : Clh) : (s.setClh x).boot = s.boot := rfl
@[simp] theorem setClh_xsp (s : State) (x : Clh) : (s.setClh x).xsp = s.xsp := rfl
@[simp] theorem setClh_tim (s : State) (x : Clh) : (s.setClh x).tim = s.tim := rfl
@[simp] theorem setClh_rsc (s : State) (x : Clh) : (s.setClh x).rsc = s.rsc := rfl
@[simp] theorem setClh_rmt (s : State) (x : Clh) : (s.setClh x).rmt = s.rmt := rfl
@[simp] theorem setClh_sap (s : State) (x : Clh) : (s.setClh x).sap = s.sap := rfl
@[simp] theorem setClh_til (s : State) (x : Clh) : (s.setClh x).til = s.til := rfl
@[simp] theorem setClh_hsp (s : State) (x : Clh) : (s.setClh x).hsp = s.hsp := rfl
@[simp] theorem setClh_dis (s : State) (x : Clh) : (s.setClh x).dis = s.dis := rfl
@[simp] theorem setClh_hng (s : State) (x : Clh) : (s.setClh x).hng = s.hng := rfl
@[simp] theorem setClh_ldg (s : State) (x : Clh) : (s.setClh x).ldg = s.ldg := rfl
@[simp] theorem setClh_pst (s : State) (x : Clh) : (s.setClh x).pst = s.pst := rfl
@[simp] theorem setClh_tel (s : State) (x : Clh) : (s.setClh x).tel = s.tel := rfl
@[simp] theorem setClh_out (s : State) (x : Clh) : (s.setClh x).out = s.out := rfl
@[simp] theorem setClh_kwy (s : State) (x : Clh) : (s.setClh x).kwy = s.kwy := rfl
@[simp] theorem setClh_field (s : State) (x : Clh) : (s.setClh x).field = s.field := rfl
@[simp] theorem setClh_net (s : State) (x : Clh) : (s.setClh x).net = s.net := rfl

@[simp] theorem setDis_dis (s : State) (x : Dis) : (s.setDis x).dis = x := rfl
@[simp] theorem setDis_pending (s : State) (x : Dis) : (s.setDis x).pending = s.pending := rfl
@[simp] theorem setDis_clock (s : State) (x : Dis) : (s.setDis x).clock = s.clock := rfl
@[simp] theorem setDis_free (s : State) (x : Dis) : (s.setDis x).free = s.free := rfl
@[simp] theorem setDis_ans (s : State) (x : Dis) : (s.setDis x).ans = s.ans := rfl
@[simp] theorem setDis_setNow (s : State) (x : Dis) : (s.setDis x).setNow = s.setNow := rfl
@[simp] theorem setDis_regs (s : State) (x : Dis) : (s.setDis x).regs = s.regs := rfl
@[simp] theorem setDis_mem (s : State) (x : Dis) : (s.setDis x).mem = s.mem := rfl
@[simp] theorem setDis_slotId (s : State) (x : Dis) : (s.setDis x).slotId = s.slotId := rfl
@[simp] theorem setDis_fuse (s : State) (x : Dis) : (s.setDis x).fuse = s.fuse := rfl
@[simp] theorem setDis_pwr (s : State) (x : Dis) : (s.setDis x).pwr = s.pwr := rfl
@[simp] theorem setDis_boot (s : State) (x : Dis) : (s.setDis x).boot = s.boot := rfl
@[simp] theorem setDis_xsp (s : State) (x : Dis) : (s.setDis x).xsp = s.xsp := rfl
@[simp] theorem setDis_tim (s : State) (x : Dis) : (s.setDis x).tim = s.tim := rfl
@[simp] theorem setDis_rsc (s : State) (x : Dis) : (s.setDis x).rsc = s.rsc := rfl
@[simp] theorem setDis_clh (s : State) (x : Dis) : (s.setDis x).clh = s.clh := rfl
@[simp] theorem setDis_rmt (s : State) (x : Dis) : (s.setDis x).rmt = s.rmt := rfl
@[simp] theorem setDis_sap (s : State) (x : Dis) : (s.setDis x).sap = s.sap := rfl
@[simp] theorem setDis_til (s : State) (x : Dis) : (s.setDis x).til = s.til := rfl
@[simp] theorem setDis_hsp (s : State) (x : Dis) : (s.setDis x).hsp = s.hsp := rfl
@[simp] theorem setDis_hng (s : State) (x : Dis) : (s.setDis x).hng = s.hng := rfl
@[simp] theorem setDis_ldg (s : State) (x : Dis) : (s.setDis x).ldg = s.ldg := rfl
@[simp] theorem setDis_pst (s : State) (x : Dis) : (s.setDis x).pst = s.pst := rfl
@[simp] theorem setDis_tel (s : State) (x : Dis) : (s.setDis x).tel = s.tel := rfl
@[simp] theorem setDis_out (s : State) (x : Dis) : (s.setDis x).out = s.out := rfl
@[simp] theorem setDis_kwy (s : State) (x : Dis) : (s.setDis x).kwy = s.kwy := rfl
@[simp] theorem setDis_field (s : State) (x : Dis) : (s.setDis x).field = s.field := rfl
@[simp] theorem setDis_net (s : State) (x : Dis) : (s.setDis x).net = s.net := rfl

@[simp] theorem setField_field (s : State) (x : Field) : (s.setField x).field = x := rfl
@[simp] theorem setField_pending (s : State) (x : Field) : (s.setField x).pending = s.pending := rfl
@[simp] theorem setField_clock (s : State) (x : Field) : (s.setField x).clock = s.clock := rfl
@[simp] theorem setField_free (s : State) (x : Field) : (s.setField x).free = s.free := rfl
@[simp] theorem setField_ans (s : State) (x : Field) : (s.setField x).ans = s.ans := rfl
@[simp] theorem setField_setNow (s : State) (x : Field) : (s.setField x).setNow = s.setNow := rfl
@[simp] theorem setField_regs (s : State) (x : Field) : (s.setField x).regs = s.regs := rfl
@[simp] theorem setField_mem (s : State) (x : Field) : (s.setField x).mem = s.mem := rfl
@[simp] theorem setField_slotId (s : State) (x : Field) : (s.setField x).slotId = s.slotId := rfl
@[simp] theorem setField_fuse (s : State) (x : Field) : (s.setField x).fuse = s.fuse := rfl
@[simp] theorem setField_pwr (s : State) (x : Field) : (s.setField x).pwr = s.pwr := rfl
@[simp] theorem setField_boot (s : State) (x : Field) : (s.setField x).boot = s.boot := rfl
@[simp] theorem setField_xsp (s : State) (x : Field) : (s.setField x).xsp = s.xsp := rfl
@[simp] theorem setField_tim (s : State) (x : Field) : (s.setField x).tim = s.tim := rfl
@[simp] theorem setField_rsc (s : State) (x : Field) : (s.setField x).rsc = s.rsc := rfl
@[simp] theorem setField_clh (s : State) (x : Field) : (s.setField x).clh = s.clh := rfl
@[simp] theorem setField_rmt (s : State) (x : Field) : (s.setField x).rmt = s.rmt := rfl
@[simp] theorem setField_sap (s : State) (x : Field) : (s.setField x).sap = s.sap := rfl
@[simp] theorem setField_til (s : State) (x : Field) : (s.setField x).til = s.til := rfl
@[simp] theorem setField_hsp (s : State) (x : Field) : (s.setField x).hsp = s.hsp := rfl
@[simp] theorem setField_dis (s : State) (x : Field) : (s.setField x).dis = s.dis := rfl
@[simp] theorem setField_hng (s : State) (x : Field) : (s.setField x).hng = s.hng := rfl
@[simp] theorem setField_ldg (s : State) (x : Field) : (s.setField x).ldg = s.ldg := rfl
@[simp] theorem setField_pst (s : State) (x : Field) : (s.setField x).pst = s.pst := rfl
@[simp] theorem setField_tel (s : State) (x : Field) : (s.setField x).tel = s.tel := rfl
@[simp] theorem setField_out (s : State) (x : Field) : (s.setField x).out = s.out := rfl
@[simp] theorem setField_kwy (s : State) (x : Field) : (s.setField x).kwy = s.kwy := rfl
@[simp] theorem setField_net (s : State) (x : Field) : (s.setField x).net = s.net := rfl

@[simp] theorem setHng_hng (s : State) (x : Hng) : (s.setHng x).hng = x := rfl
@[simp] theorem setHng_pending (s : State) (x : Hng) : (s.setHng x).pending = s.pending := rfl
@[simp] theorem setHng_clock (s : State) (x : Hng) : (s.setHng x).clock = s.clock := rfl
@[simp] theorem setHng_free (s : State) (x : Hng) : (s.setHng x).free = s.free := rfl
@[simp] theorem setHng_ans (s : State) (x : Hng) : (s.setHng x).ans = s.ans := rfl
@[simp] theorem setHng_setNow (s : State) (x : Hng) : (s.setHng x).setNow = s.setNow := rfl
@[simp] theorem setHng_regs (s : State) (x : Hng) : (s.setHng x).regs = s.regs := rfl
@[simp] theorem setHng_mem (s : State) (x : Hng) : (s.setHng x).mem = s.mem := rfl
@[simp] theorem setHng_slotId (s : State) (x : Hng) : (s.setHng x).slotId = s.slotId := rfl
@[simp] theorem setHng_fuse (s : State) (x : Hng) : (s.setHng x).fuse = s.fuse := rfl
@[simp] theorem setHng_pwr (s : State) (x : Hng) : (s.setHng x).pwr = s.pwr := rfl
@[simp] theorem setHng_boot (s : State) (x : Hng) : (s.setHng x).boot = s.boot := rfl
@[simp] theorem setHng_xsp (s : State) (x : Hng) : (s.setHng x).xsp = s.xsp := rfl
@[simp] theorem setHng_tim (s : State) (x : Hng) : (s.setHng x).tim = s.tim := rfl
@[simp] theorem setHng_rsc (s : State) (x : Hng) : (s.setHng x).rsc = s.rsc := rfl
@[simp] theorem setHng_clh (s : State) (x : Hng) : (s.setHng x).clh = s.clh := rfl
@[simp] theorem setHng_rmt (s : State) (x : Hng) : (s.setHng x).rmt = s.rmt := rfl
@[simp] theorem setHng_sap (s : State) (x : Hng) : (s.setHng x).sap = s.sap := rfl
@[simp] theorem setHng_til (s : State) (x : Hng) : (s.setHng x).til = s.til := rfl
@[simp] theorem setHng_hsp (s : State) (x : Hng) : (s.setHng x).hsp = s.hsp := rfl
@[simp] theorem setHng_dis (s : State) (x : Hng) : (s.setHng x).dis = s.dis := rfl
@[simp] theorem setHng_ldg (s : State) (x : Hng) : (s.setHng x).ldg = s.ldg := rfl
@[simp] theorem setHng_pst (s : State) (x : Hng) : (s.setHng x).pst = s.pst := rfl
@[simp] theorem setHng_tel (s : State) (x : Hng) : (s.setHng x).tel = s.tel := rfl
@[simp] theorem setHng_out (s : State) (x : Hng) : (s.setHng x).out = s.out := rfl
@[simp] theorem setHng_kwy (s : State) (x : Hng) : (s.setHng x).kwy = s.kwy := rfl
@[simp] theorem setHng_field (s : State) (x : Hng) : (s.setHng x).field = s.field := rfl
@[simp] theorem setHng_net (s : State) (x : Hng) : (s.setHng x).net = s.net := rfl

@[simp] theorem setPst_pst (s : State) (x : Pst) : (s.setPst x).pst = x := rfl
@[simp] theorem setPst_pending (s : State) (x : Pst) : (s.setPst x).pending = s.pending := rfl
@[simp] theorem setPst_clock (s : State) (x : Pst) : (s.setPst x).clock = s.clock := rfl
@[simp] theorem setPst_free (s : State) (x : Pst) : (s.setPst x).free = s.free := rfl
@[simp] theorem setPst_ans (s : State) (x : Pst) : (s.setPst x).ans = s.ans := rfl
@[simp] theorem setPst_setNow (s : State) (x : Pst) : (s.setPst x).setNow = s.setNow := rfl
@[simp] theorem setPst_regs (s : State) (x : Pst) : (s.setPst x).regs = s.regs := rfl
@[simp] theorem setPst_mem (s : State) (x : Pst) : (s.setPst x).mem = s.mem := rfl
@[simp] theorem setPst_slotId (s : State) (x : Pst) : (s.setPst x).slotId = s.slotId := rfl
@[simp] theorem setPst_fuse (s : State) (x : Pst) : (s.setPst x).fuse = s.fuse := rfl
@[simp] theorem setPst_pwr (s : State) (x : Pst) : (s.setPst x).pwr = s.pwr := rfl
@[simp] theorem setPst_boot (s : State) (x : Pst) : (s.setPst x).boot = s.boot := rfl
@[simp] theorem setPst_xsp (s : State) (x : Pst) : (s.setPst x).xsp = s.xsp := rfl
@[simp] theorem setPst_tim (s : State) (x : Pst) : (s.setPst x).tim = s.tim := rfl
@[simp] theorem setPst_rsc (s : State) (x : Pst) : (s.setPst x).rsc = s.rsc := rfl
@[simp] theorem setPst_clh (s : State) (x : Pst) : (s.setPst x).clh = s.clh := rfl
@[simp] theorem setPst_rmt (s : State) (x : Pst) : (s.setPst x).rmt = s.rmt := rfl
@[simp] theorem setPst_sap (s : State) (x : Pst) : (s.setPst x).sap = s.sap := rfl
@[simp] theorem setPst_til (s : State) (x : Pst) : (s.setPst x).til = s.til := rfl
@[simp] theorem setPst_hsp (s : State) (x : Pst) : (s.setPst x).hsp = s.hsp := rfl
@[simp] theorem setPst_dis (s : State) (x : Pst) : (s.setPst x).dis = s.dis := rfl
@[simp] theorem setPst_hng (s : State) (x : Pst) : (s.setPst x).hng = s.hng := rfl
@[simp] theorem setPst_ldg (s : State) (x : Pst) : (s.setPst x).ldg = s.ldg := rfl
@[simp] theorem setPst_tel (s : State) (x : Pst) : (s.setPst x).tel = s.tel := rfl
@[simp] theorem setPst_out (s : State) (x : Pst) : (s.setPst x).out = s.out := rfl
@[simp] theorem setPst_kwy (s : State) (x : Pst) : (s.setPst x).kwy = s.kwy := rfl
@[simp] theorem setPst_field (s : State) (x : Pst) : (s.setPst x).field = s.field := rfl
@[simp] theorem setPst_net (s : State) (x : Pst) : (s.setPst x).net = s.net := rfl

@[simp] theorem setKwy_kwy (s : State) (x : Kwy) : (s.setKwy x).kwy = x := rfl
@[simp] theorem setKwy_pending (s : State) (x : Kwy) : (s.setKwy x).pending = s.pending := rfl
@[simp] theorem setKwy_clock (s : State) (x : Kwy) : (s.setKwy x).clock = s.clock := rfl
@[simp] theorem setKwy_free (s : State) (x : Kwy) : (s.setKwy x).free = s.free := rfl
@[simp] theorem setKwy_ans (s : State) (x : Kwy) : (s.setKwy x).ans = s.ans := rfl
@[simp] theorem setKwy_setNow (s : State) (x : Kwy) : (s.setKwy x).setNow = s.setNow := rfl
@[simp] theorem setKwy_regs (s : State) (x : Kwy) : (s.setKwy x).regs = s.regs := rfl
@[simp] theorem setKwy_mem (s : State) (x : Kwy) : (s.setKwy x).mem = s.mem := rfl
@[simp] theorem setKwy_slotId (s : State) (x : Kwy) : (s.setKwy x).slotId = s.slotId := rfl
@[simp] theorem setKwy_fuse (s : State) (x : Kwy) : (s.setKwy x).fuse = s.fuse := rfl
@[simp] theorem setKwy_pwr (s : State) (x : Kwy) : (s.setKwy x).pwr = s.pwr := rfl
@[simp] theorem setKwy_boot (s : State) (x : Kwy) : (s.setKwy x).boot = s.boot := rfl
@[simp] theorem setKwy_xsp (s : State) (x : Kwy) : (s.setKwy x).xsp = s.xsp := rfl
@[simp] theorem setKwy_tim (s : State) (x : Kwy) : (s.setKwy x).tim = s.tim := rfl
@[simp] theorem setKwy_rsc (s : State) (x : Kwy) : (s.setKwy x).rsc = s.rsc := rfl
@[simp] theorem setKwy_clh (s : State) (x : Kwy) : (s.setKwy x).clh = s.clh := rfl
@[simp] theorem setKwy_rmt (s : State) (x : Kwy) : (s.setKwy x).rmt = s.rmt := rfl
@[simp] theorem setKwy_sap (s : State) (x : Kwy) : (s.setKwy x).sap = s.sap := rfl
@[simp] theorem setKwy_til (s : State) (x : Kwy) : (s.setKwy x).til = s.til := rfl
@[simp] theorem setKwy_hsp (s : State) (x : Kwy) : (s.setKwy x).hsp = s.hsp := rfl
@[simp] theorem setKwy_dis (s : State) (x : Kwy) : (s.setKwy x).dis = s.dis := rfl
@[simp] theorem setKwy_hng (s : State) (x : Kwy) : (s.setKwy x).hng = s.hng := rfl
@[simp] theorem setKwy_ldg (s : State) (x : Kwy) : (s.setKwy x).ldg = s.ldg := rfl
@[simp] theorem setKwy_pst (s : State) (x : Kwy) : (s.setKwy x).pst = s.pst := rfl
@[simp] theorem setKwy_tel (s : State) (x : Kwy) : (s.setKwy x).tel = s.tel := rfl
@[simp] theorem setKwy_out (s : State) (x : Kwy) : (s.setKwy x).out = s.out := rfl
@[simp] theorem setKwy_field (s : State) (x : Kwy) : (s.setKwy x).field = s.field := rfl
@[simp] theorem setKwy_net (s : State) (x : Kwy) : (s.setKwy x).net = s.net := rfl

@[simp] theorem setLdg_ldg (s : State) (x : Ldg) : (s.setLdg x).ldg = x := rfl
@[simp] theorem setLdg_pending (s : State) (x : Ldg) : (s.setLdg x).pending = s.pending := rfl
@[simp] theorem setLdg_clock (s : State) (x : Ldg) : (s.setLdg x).clock = s.clock := rfl
@[simp] theorem setLdg_free (s : State) (x : Ldg) : (s.setLdg x).free = s.free := rfl
@[simp] theorem setLdg_ans (s : State) (x : Ldg) : (s.setLdg x).ans = s.ans := rfl
@[simp] theorem setLdg_setNow (s : State) (x : Ldg) : (s.setLdg x).setNow = s.setNow := rfl
@[simp] theorem setLdg_regs (s : State) (x : Ldg) : (s.setLdg x).regs = s.regs := rfl
@[simp] theorem setLdg_mem (s : State) (x : Ldg) : (s.setLdg x).mem = s.mem := rfl
@[simp] theorem setLdg_slotId (s : State) (x : Ldg) : (s.setLdg x).slotId = s.slotId := rfl
@[simp] theorem setLdg_fuse (s : State) (x : Ldg) : (s.setLdg x).fuse = s.fuse := rfl
@[simp] theorem setLdg_pwr (s : State) (x : Ldg) : (s.setLdg x).pwr = s.pwr := rfl
@[simp] theorem setLdg_boot (s : State) (x : Ldg) : (s.setLdg x).boot = s.boot := rfl
@[simp] theorem setLdg_xsp (s : State) (x : Ldg) : (s.setLdg x).xsp = s.xsp := rfl
@[simp] theorem setLdg_tim (s : State) (x : Ldg) : (s.setLdg x).tim = s.tim := rfl
@[simp] theorem setLdg_rsc (s : State) (x : Ldg) : (s.setLdg x).rsc = s.rsc := rfl
@[simp] theorem setLdg_clh (s : State) (x : Ldg) : (s.setLdg x).clh = s.clh := rfl
@[simp] theorem setLdg_rmt (s : State) (x : Ldg) : (s.setLdg x).rmt = s.rmt := rfl
@[simp] theorem setLdg_sap (s : State) (x : Ldg) : (s.setLdg x).sap = s.sap := rfl
@[simp] theorem setLdg_til (s : State) (x : Ldg) : (s.setLdg x).til = s.til := rfl
@[simp] theorem setLdg_hsp (s : State) (x : Ldg) : (s.setLdg x).hsp = s.hsp := rfl
@[simp] theorem setLdg_dis (s : State) (x : Ldg) : (s.setLdg x).dis = s.dis := rfl
@[simp] theorem setLdg_hng (s : State) (x : Ldg) : (s.setLdg x).hng = s.hng := rfl
@[simp] theorem setLdg_pst (s : State) (x : Ldg) : (s.setLdg x).pst = s.pst := rfl
@[simp] theorem setLdg_tel (s : State) (x : Ldg) : (s.setLdg x).tel = s.tel := rfl
@[simp] theorem setLdg_out (s : State) (x : Ldg) : (s.setLdg x).out = s.out := rfl
@[simp] theorem setLdg_kwy (s : State) (x : Ldg) : (s.setLdg x).kwy = s.kwy := rfl
@[simp] theorem setLdg_field (s : State) (x : Ldg) : (s.setLdg x).field = s.field := rfl
@[simp] theorem setLdg_net (s : State) (x : Ldg) : (s.setLdg x).net = s.net := rfl

@[simp] theorem setOut_out (s : State) (x : Out) : (s.setOut x).out = x := rfl
@[simp] theorem setOut_pending (s : State) (x : Out) : (s.setOut x).pending = s.pending := rfl
@[simp] theorem setOut_clock (s : State) (x : Out) : (s.setOut x).clock = s.clock := rfl
@[simp] theorem setOut_free (s : State) (x : Out) : (s.setOut x).free = s.free := rfl
@[simp] theorem setOut_ans (s : State) (x : Out) : (s.setOut x).ans = s.ans := rfl
@[simp] theorem setOut_setNow (s : State) (x : Out) : (s.setOut x).setNow = s.setNow := rfl
@[simp] theorem setOut_regs (s : State) (x : Out) : (s.setOut x).regs = s.regs := rfl
@[simp] theorem setOut_mem (s : State) (x : Out) : (s.setOut x).mem = s.mem := rfl
@[simp] theorem setOut_slotId (s : State) (x : Out) : (s.setOut x).slotId = s.slotId := rfl
@[simp] theorem setOut_fuse (s : State) (x : Out) : (s.setOut x).fuse = s.fuse := rfl
@[simp] theorem setOut_pwr (s : State) (x : Out) : (s.setOut x).pwr = s.pwr := rfl
@[simp] theorem setOut_boot (s : State) (x : Out) : (s.setOut x).boot = s.boot := rfl
@[simp] theorem setOut_xsp (s : State) (x : Out) : (s.setOut x).xsp = s.xsp := rfl
@[simp] theorem setOut_tim (s : State) (x : Out) : (s.setOut x).tim = s.tim := rfl
@[simp] theorem setOut_rsc (s : State) (x : Out) : (s.setOut x).rsc = s.rsc := rfl
@[simp] theorem setOut_clh (s : State) (x : Out) : (s.setOut x).clh = s.clh := rfl
@[simp] theorem setOut_rmt (s : State) (x : Out) : (s.setOut x).rmt = s.rmt := rfl
@[simp] theorem setOut_sap (s : State) (x : Out) : (s.setOut x).sap = s.sap := rfl
@[simp] theorem setOut_til (s : State) (x : Out) : (s.setOut x).til = s.til := rfl
@[simp] theorem setOut_hsp (s : State) (x : Out) : (s.setOut x).hsp = s.hsp := rfl
@[simp] theorem setOut_dis (s : State) (x : Out) : (s.setOut x).dis = s.dis := rfl
@[simp] theorem setOut_hng (s : State) (x : Out) : (s.setOut x).hng = s.hng := rfl
@[simp] theorem setOut_ldg (s : State) (x : Out) : (s.setOut x).ldg = s.ldg := rfl
@[simp] theorem setOut_pst (s : State) (x : Out) : (s.setOut x).pst = s.pst := rfl
@[simp] theorem setOut_tel (s : State) (x : Out) : (s.setOut x).tel = s.tel := rfl
@[simp] theorem setOut_kwy (s : State) (x : Out) : (s.setOut x).kwy = s.kwy := rfl
@[simp] theorem setOut_field (s : State) (x : Out) : (s.setOut x).field = s.field := rfl
@[simp] theorem setOut_net (s : State) (x : Out) : (s.setOut x).net = s.net := rfl

@[simp] theorem setRsc_rsc (s : State) (x : Rsc) : (s.setRsc x).rsc = x := rfl
@[simp] theorem setRsc_pending (s : State) (x : Rsc) : (s.setRsc x).pending = s.pending := rfl
@[simp] theorem setRsc_clock (s : State) (x : Rsc) : (s.setRsc x).clock = s.clock := rfl
@[simp] theorem setRsc_free (s : State) (x : Rsc) : (s.setRsc x).free = s.free := rfl
@[simp] theorem setRsc_ans (s : State) (x : Rsc) : (s.setRsc x).ans = s.ans := rfl
@[simp] theorem setRsc_setNow (s : State) (x : Rsc) : (s.setRsc x).setNow = s.setNow := rfl
@[simp] theorem setRsc_regs (s : State) (x : Rsc) : (s.setRsc x).regs = s.regs := rfl
@[simp] theorem setRsc_mem (s : State) (x : Rsc) : (s.setRsc x).mem = s.mem := rfl
@[simp] theorem setRsc_slotId (s : State) (x : Rsc) : (s.setRsc x).slotId = s.slotId := rfl
@[simp] theorem setRsc_fuse (s : State) (x : Rsc) : (s.setRsc x).fuse = s.fuse := rfl
@[simp] theorem setRsc_pwr (s : State) (x : Rsc) : (s.setRsc x).pwr = s.pwr := rfl
@[simp] theorem setRsc_boot (s : State) (x : Rsc) : (s.setRsc x).boot = s.boot := rfl
@[simp] theorem setRsc_xsp (s : State) (x : Rsc) : (s.setRsc x).xsp = s.xsp := rfl
@[simp] theorem setRsc_tim (s : State) (x : Rsc) : (s.setRsc x).tim = s.tim := rfl
@[simp] theorem setRsc_clh (s : State) (x : Rsc) : (s.setRsc x).clh = s.clh := rfl
@[simp] theorem setRsc_rmt (s : State) (x : Rsc) : (s.setRsc x).rmt = s.rmt := rfl
@[simp] theorem setRsc_sap (s : State) (x : Rsc) : (s.setRsc x).sap = s.sap := rfl
@[simp] theorem setRsc_til (s : State) (x : Rsc) : (s.setRsc x).til = s.til := rfl
@[simp] theorem setRsc_hsp (s : State) (x : Rsc) : (s.setRsc x).hsp = s.hsp := rfl
@[simp] theorem setRsc_dis (s : State) (x : Rsc) : (s.setRsc x).dis = s.dis := rfl
@[simp] theorem setRsc_hng (s : State) (x : Rsc) : (s.setRsc x).hng = s.hng := rfl
@[simp] theorem setRsc_ldg (s : State) (x : Rsc) : (s.setRsc x).ldg = s.ldg := rfl
@[simp] theorem setRsc_pst (s : State) (x : Rsc) : (s.setRsc x).pst = s.pst := rfl
@[simp] theorem setRsc_tel (s : State) (x : Rsc) : (s.setRsc x).tel = s.tel := rfl
@[simp] theorem setRsc_out (s : State) (x : Rsc) : (s.setRsc x).out = s.out := rfl
@[simp] theorem setRsc_kwy (s : State) (x : Rsc) : (s.setRsc x).kwy = s.kwy := rfl
@[simp] theorem setRsc_field (s : State) (x : Rsc) : (s.setRsc x).field = s.field := rfl
@[simp] theorem setRsc_net (s : State) (x : Rsc) : (s.setRsc x).net = s.net := rfl

@[simp] theorem setTim_tim (s : State) (x : Tim) : (s.setTim x).tim = x := rfl
@[simp] theorem setTim_pending (s : State) (x : Tim) : (s.setTim x).pending = s.pending := rfl
@[simp] theorem setTim_clock (s : State) (x : Tim) : (s.setTim x).clock = s.clock := rfl
@[simp] theorem setTim_free (s : State) (x : Tim) : (s.setTim x).free = s.free := rfl
@[simp] theorem setTim_ans (s : State) (x : Tim) : (s.setTim x).ans = s.ans := rfl
@[simp] theorem setTim_setNow (s : State) (x : Tim) : (s.setTim x).setNow = s.setNow := rfl
@[simp] theorem setTim_regs (s : State) (x : Tim) : (s.setTim x).regs = s.regs := rfl
@[simp] theorem setTim_mem (s : State) (x : Tim) : (s.setTim x).mem = s.mem := rfl
@[simp] theorem setTim_slotId (s : State) (x : Tim) : (s.setTim x).slotId = s.slotId := rfl
@[simp] theorem setTim_fuse (s : State) (x : Tim) : (s.setTim x).fuse = s.fuse := rfl
@[simp] theorem setTim_pwr (s : State) (x : Tim) : (s.setTim x).pwr = s.pwr := rfl
@[simp] theorem setTim_boot (s : State) (x : Tim) : (s.setTim x).boot = s.boot := rfl
@[simp] theorem setTim_xsp (s : State) (x : Tim) : (s.setTim x).xsp = s.xsp := rfl
@[simp] theorem setTim_rsc (s : State) (x : Tim) : (s.setTim x).rsc = s.rsc := rfl
@[simp] theorem setTim_clh (s : State) (x : Tim) : (s.setTim x).clh = s.clh := rfl
@[simp] theorem setTim_rmt (s : State) (x : Tim) : (s.setTim x).rmt = s.rmt := rfl
@[simp] theorem setTim_sap (s : State) (x : Tim) : (s.setTim x).sap = s.sap := rfl
@[simp] theorem setTim_til (s : State) (x : Tim) : (s.setTim x).til = s.til := rfl
@[simp] theorem setTim_hsp (s : State) (x : Tim) : (s.setTim x).hsp = s.hsp := rfl
@[simp] theorem setTim_dis (s : State) (x : Tim) : (s.setTim x).dis = s.dis := rfl
@[simp] theorem setTim_hng (s : State) (x : Tim) : (s.setTim x).hng = s.hng := rfl
@[simp] theorem setTim_ldg (s : State) (x : Tim) : (s.setTim x).ldg = s.ldg := rfl
@[simp] theorem setTim_pst (s : State) (x : Tim) : (s.setTim x).pst = s.pst := rfl
@[simp] theorem setTim_tel (s : State) (x : Tim) : (s.setTim x).tel = s.tel := rfl
@[simp] theorem setTim_out (s : State) (x : Tim) : (s.setTim x).out = s.out := rfl
@[simp] theorem setTim_kwy (s : State) (x : Tim) : (s.setTim x).kwy = s.kwy := rfl
@[simp] theorem setTim_field (s : State) (x : Tim) : (s.setTim x).field = s.field := rfl
@[simp] theorem setTim_net (s : State) (x : Tim) : (s.setTim x).net = s.net := rfl

@[simp] theorem setBoot_boot (s : State) (x : Boot) : (s.setBoot x).boot = x := rfl
@[simp] theorem setBoot_pending (s : State) (x : Boot) : (s.setBoot x).pending = s.pending := rfl
@[simp] theorem setBoot_clock (s : State) (x : Boot) : (s.setBoot x).clock = s.clock := rfl
@[simp] theorem setBoot_free (s : State) (x : Boot) : (s.setBoot x).free = s.free := rfl
@[simp] theorem setBoot_ans (s : State) (x : Boot) : (s.setBoot x).ans = s.ans := rfl
@[simp] theorem setBoot_setNow (s : State) (x : Boot) : (s.setBoot x).setNow = s.setNow := rfl
@[simp] theorem setBoot_regs (s : State) (x : Boot) : (s.setBoot x).regs = s.regs := rfl
@[simp] theorem setBoot_mem (s : State) (x : Boot) : (s.setBoot x).mem = s.mem := rfl
@[simp] theorem setBoot_slotId (s : State) (x : Boot) : (s.setBoot x).slotId = s.slotId := rfl
@[simp] theorem setBoot_fuse (s : State) (x : Boot) : (s.setBoot x).fuse = s.fuse := rfl
@[simp] theorem setBoot_pwr (s : State) (x : Boot) : (s.setBoot x).pwr = s.pwr := rfl
@[simp] theorem setBoot_xsp (s : State) (x : Boot) : (s.setBoot x).xsp = s.xsp := rfl
@[simp] theorem setBoot_tim (s : State) (x : Boot) : (s.setBoot x).tim = s.tim := rfl
@[simp] theorem setBoot_rsc (s : State) (x : Boot) : (s.setBoot x).rsc = s.rsc := rfl
@[simp] theorem setBoot_clh (s : State) (x : Boot) : (s.setBoot x).clh = s.clh := rfl
@[simp] theorem setBoot_rmt (s : State) (x : Boot) : (s.setBoot x).rmt = s.rmt := rfl
@[simp] theorem setBoot_sap (s : State) (x : Boot) : (s.setBoot x).sap = s.sap := rfl
@[simp] theorem setBoot_til (s : State) (x : Boot) : (s.setBoot x).til = s.til := rfl
@[simp] theorem setBoot_hsp (s : State) (x : Boot) : (s.setBoot x).hsp = s.hsp := rfl
@[simp] theorem setBoot_dis (s : State) (x : Boot) : (s.setBoot x).dis = s.dis := rfl
@[simp] theorem setBoot_hng (s : State) (x : Boot) : (s.setBoot x).hng = s.hng := rfl
@[simp] theorem setBoot_ldg (s : State) (x : Boot) : (s.setBoot x).ldg = s.ldg := rfl
@[simp] theorem setBoot_pst (s : State) (x : Boot) : (s.setBoot x).pst = s.pst := rfl
@[simp] theorem setBoot_tel (s : State) (x : Boot) : (s.setBoot x).tel = s.tel := rfl
@[simp] theorem setBoot_out (s : State) (x : Boot) : (s.setBoot x).out = s.out := rfl
@[simp] theorem setBoot_kwy (s : State) (x : Boot) : (s.setBoot x).kwy = s.kwy := rfl
@[simp] theorem setBoot_field (s : State) (x : Boot) : (s.setBoot x).field = s.field := rfl
@[simp] theorem setBoot_net (s : State) (x : Boot) : (s.setBoot x).net = s.net := rfl

@[simp] theorem setPwr_pwr (s : State) (x : Pwr) : (s.setPwr x).pwr = x := rfl
@[simp] theorem setPwr_pending (s : State) (x : Pwr) : (s.setPwr x).pending = s.pending := rfl
@[simp] theorem setPwr_clock (s : State) (x : Pwr) : (s.setPwr x).clock = s.clock := rfl
@[simp] theorem setPwr_free (s : State) (x : Pwr) : (s.setPwr x).free = s.free := rfl
@[simp] theorem setPwr_ans (s : State) (x : Pwr) : (s.setPwr x).ans = s.ans := rfl
@[simp] theorem setPwr_setNow (s : State) (x : Pwr) : (s.setPwr x).setNow = s.setNow := rfl
@[simp] theorem setPwr_regs (s : State) (x : Pwr) : (s.setPwr x).regs = s.regs := rfl
@[simp] theorem setPwr_mem (s : State) (x : Pwr) : (s.setPwr x).mem = s.mem := rfl
@[simp] theorem setPwr_slotId (s : State) (x : Pwr) : (s.setPwr x).slotId = s.slotId := rfl
@[simp] theorem setPwr_fuse (s : State) (x : Pwr) : (s.setPwr x).fuse = s.fuse := rfl
@[simp] theorem setPwr_boot (s : State) (x : Pwr) : (s.setPwr x).boot = s.boot := rfl
@[simp] theorem setPwr_xsp (s : State) (x : Pwr) : (s.setPwr x).xsp = s.xsp := rfl
@[simp] theorem setPwr_tim (s : State) (x : Pwr) : (s.setPwr x).tim = s.tim := rfl
@[simp] theorem setPwr_rsc (s : State) (x : Pwr) : (s.setPwr x).rsc = s.rsc := rfl
@[simp] theorem setPwr_clh (s : State) (x : Pwr) : (s.setPwr x).clh = s.clh := rfl
@[simp] theorem setPwr_rmt (s : State) (x : Pwr) : (s.setPwr x).rmt = s.rmt := rfl
@[simp] theorem setPwr_sap (s : State) (x : Pwr) : (s.setPwr x).sap = s.sap := rfl
@[simp] theorem setPwr_til (s : State) (x : Pwr) : (s.setPwr x).til = s.til := rfl
@[simp] theorem setPwr_hsp (s : State) (x : Pwr) : (s.setPwr x).hsp = s.hsp := rfl
@[simp] theorem setPwr_dis (s : State) (x : Pwr) : (s.setPwr x).dis = s.dis := rfl
@[simp] theorem setPwr_hng (s : State) (x : Pwr) : (s.setPwr x).hng = s.hng := rfl
@[simp] theorem setPwr_ldg (s : State) (x : Pwr) : (s.setPwr x).ldg = s.ldg := rfl
@[simp] theorem setPwr_pst (s : State) (x : Pwr) : (s.setPwr x).pst = s.pst := rfl
@[simp] theorem setPwr_tel (s : State) (x : Pwr) : (s.setPwr x).tel = s.tel := rfl
@[simp] theorem setPwr_out (s : State) (x : Pwr) : (s.setPwr x).out = s.out := rfl
@[simp] theorem setPwr_kwy (s : State) (x : Pwr) : (s.setPwr x).kwy = s.kwy := rfl
@[simp] theorem setPwr_field (s : State) (x : Pwr) : (s.setPwr x).field = s.field := rfl
@[simp] theorem setPwr_net (s : State) (x : Pwr) : (s.setPwr x).net = s.net := rfl

@[simp] theorem setXsp_xsp (s : State) (x : Xsp) : (s.setXsp x).xsp = x := rfl
@[simp] theorem setXsp_pending (s : State) (x : Xsp) : (s.setXsp x).pending = s.pending := rfl
@[simp] theorem setXsp_clock (s : State) (x : Xsp) : (s.setXsp x).clock = s.clock := rfl
@[simp] theorem setXsp_free (s : State) (x : Xsp) : (s.setXsp x).free = s.free := rfl
@[simp] theorem setXsp_ans (s : State) (x : Xsp) : (s.setXsp x).ans = s.ans := rfl
@[simp] theorem setXsp_setNow (s : State) (x : Xsp) : (s.setXsp x).setNow = s.setNow := rfl
@[simp] theorem setXsp_regs (s : State) (x : Xsp) : (s.setXsp x).regs = s.regs := rfl
@[simp] theorem setXsp_mem (s : State) (x : Xsp) : (s.setXsp x).mem = s.mem := rfl
@[simp] theorem setXsp_slotId (s : State) (x : Xsp) : (s.setXsp x).slotId = s.slotId := rfl
@[simp] theorem setXsp_fuse (s : State) (x : Xsp) : (s.setXsp x).fuse = s.fuse := rfl
@[simp] theorem setXsp_pwr (s : State) (x : Xsp) : (s.setXsp x).pwr = s.pwr := rfl
@[simp] theorem setXsp_boot (s : State) (x : Xsp) : (s.setXsp x).boot = s.boot := rfl
@[simp] theorem setXsp_tim (s : State) (x : Xsp) : (s.setXsp x).tim = s.tim := rfl
@[simp] theorem setXsp_rsc (s : State) (x : Xsp) : (s.setXsp x).rsc = s.rsc := rfl
@[simp] theorem setXsp_clh (s : State) (x : Xsp) : (s.setXsp x).clh = s.clh := rfl
@[simp] theorem setXsp_rmt (s : State) (x : Xsp) : (s.setXsp x).rmt = s.rmt := rfl
@[simp] theorem setXsp_sap (s : State) (x : Xsp) : (s.setXsp x).sap = s.sap := rfl
@[simp] theorem setXsp_til (s : State) (x : Xsp) : (s.setXsp x).til = s.til := rfl
@[simp] theorem setXsp_hsp (s : State) (x : Xsp) : (s.setXsp x).hsp = s.hsp := rfl
@[simp] theorem setXsp_dis (s : State) (x : Xsp) : (s.setXsp x).dis = s.dis := rfl
@[simp] theorem setXsp_hng (s : State) (x : Xsp) : (s.setXsp x).hng = s.hng := rfl
@[simp] theorem setXsp_ldg (s : State) (x : Xsp) : (s.setXsp x).ldg = s.ldg := rfl
@[simp] theorem setXsp_pst (s : State) (x : Xsp) : (s.setXsp x).pst = s.pst := rfl
@[simp] theorem setXsp_tel (s : State) (x : Xsp) : (s.setXsp x).tel = s.tel := rfl
@[simp] theorem setXsp_out (s : State) (x : Xsp) : (s.setXsp x).out = s.out := rfl
@[simp] theorem setXsp_kwy (s : State) (x : Xsp) : (s.setXsp x).kwy = s.kwy := rfl
@[simp] theorem setXsp_field (s : State) (x : Xsp) : (s.setXsp x).field = s.field := rfl
@[simp] theorem setXsp_net (s : State) (x : Xsp) : (s.setXsp x).net = s.net := rfl

/-! ### One unit of a part replaced -/

@[simp] theorem setChan_regs (s : State) (k : Nat) (x : Chan) : (s.setChan k x).regs = s.regs := rfl
@[simp] theorem setChan_mem (s : State) (k : Nat) (x : Chan) : (s.setChan k x).mem = s.mem := rfl
@[simp] theorem setChan_reg (s : State) (k : Nat) (x : Chan) (a : Nat) : (s.setChan k x).reg a = s.reg a := rfl
@[simp] theorem setChan_same (s : State) (k : Nat) (x : Chan) : (s.setChan k x).chan k = x := aget_aput_same _ _ _ _
theorem setChan_ne (s : State) {j k : Nat} (x : Chan) (h : j ≠ k) : (s.setChan k x).chan j = s.chan j := aget_aput_ne _ _ _ _ h

@[simp] theorem setBst_regs (s : State) (k : Nat) (x : Bst) : (s.setBst k x).regs = s.regs := rfl
@[simp] theorem setBst_mem (s : State) (k : Nat) (x : Bst) : (s.setBst k x).mem = s.mem := rfl
@[simp] theorem setBst_reg (s : State) (k : Nat) (x : Bst) (a : Nat) : (s.setBst k x).reg a = s.reg a := rfl
@[simp] theorem setBst_same (s : State) (k : Nat) (x : Bst) : (s.setBst k x).bst k = x := aget_aput_same _ _ _ _
theorem setBst_ne (s : State) {j k : Nat} (x : Bst) (h : j ≠ k) : (s.setBst k x).bst j = s.bst j := aget_aput_ne _ _ _ _ h

@[simp] theorem setPlayer_regs (s : State) (k : Nat) (x : Player) : (s.setPlayer k x).regs = s.regs := rfl
@[simp] theorem setPlayer_mem (s : State) (k : Nat) (x : Player) : (s.setPlayer k x).mem = s.mem := rfl
@[simp] theorem setPlayer_reg (s : State) (k : Nat) (x : Player) (a : Nat) : (s.setPlayer k x).reg a = s.reg a := rfl
@[simp] theorem setPlayer_same (s : State) (k : Nat) (x : Player) : (s.setPlayer k x).player k = x := aget_aput_same _ _ _ _
theorem setPlayer_ne (s : State) {j k : Nat} (x : Player) (h : j ≠ k) : (s.setPlayer k x).player j = s.player j := aget_aput_ne _ _ _ _ h

@[simp] theorem setCtx_regs (s : State) (k : Nat) (x : Ctx) : (s.setCtx k x).regs = s.regs := rfl
@[simp] theorem setCtx_mem (s : State) (k : Nat) (x : Ctx) : (s.setCtx k x).mem = s.mem := rfl
@[simp] theorem setCtx_reg (s : State) (k : Nat) (x : Ctx) (a : Nat) : (s.setCtx k x).reg a = s.reg a := rfl
@[simp] theorem setCtx_same (s : State) (k : Nat) (x : Ctx) : (s.setCtx k x).ctx k = x := aget_aput_same _ _ _ _
theorem setCtx_ne (s : State) {j k : Nat} (x : Ctx) (h : j ≠ k) : (s.setCtx k x).ctx j = s.ctx j := aget_aput_ne _ _ _ _ h

@[simp] theorem setCore_regs (s : State) (k : Nat) (x : Core) : (s.setCore k x).regs = s.regs := rfl
@[simp] theorem setCore_mem (s : State) (k : Nat) (x : Core) : (s.setCore k x).mem = s.mem := rfl
@[simp] theorem setCore_reg (s : State) (k : Nat) (x : Core) (a : Nat) : (s.setCore k x).reg a = s.reg a := rfl
@[simp] theorem setCore_same (s : State) (k : Nat) (x : Core) : (s.setCore k x).core k = x := aget_aput_same _ _ _ _
theorem setCore_ne (s : State) {j k : Nat} (x : Core) (h : j % 64 ≠ k % 64) : (s.setCore k x).core j = s.core j :=
  aget_aput_ne _ _ _ _ h

@[simp] theorem setSap_regs (s : State) (k : Nat) (x : SapPort) : (s.setSap k x).regs = s.regs := rfl
@[simp] theorem setSap_mem (s : State) (k : Nat) (x : SapPort) : (s.setSap k x).mem = s.mem := rfl
@[simp] theorem setSap_reg (s : State) (k : Nat) (x : SapPort) (a : Nat) : (s.setSap k x).reg a = s.reg a := rfl
@[simp] theorem setSap_same (s : State) (k : Nat) (x : SapPort) : (s.setSap k x).sapPort k = x := aget_aput_same _ _ _ _
theorem setSap_ne (s : State) {j k : Nat} (x : SapPort) (h : j ≠ k) : (s.setSap k x).sapPort j = s.sapPort j := aget_aput_ne _ _ _ _ h

@[simp] theorem setTill_regs (s : State) (k : Nat) (x : TillPort) : (s.setTill k x).regs = s.regs := rfl
@[simp] theorem setTill_mem (s : State) (k : Nat) (x : TillPort) : (s.setTill k x).mem = s.mem := rfl
@[simp] theorem setTill_reg (s : State) (k : Nat) (x : TillPort) (a : Nat) : (s.setTill k x).reg a = s.reg a := rfl
@[simp] theorem setTill_same (s : State) (k : Nat) (x : TillPort) : (s.setTill k x).till k = x := aget_aput_same _ _ _ _
theorem setTill_ne (s : State) {j k : Nat} (x : TillPort) (h : j ≠ k) : (s.setTill k x).till j = s.till j := aget_aput_ne _ _ _ _ h

@[simp] theorem setPort_regs (s : State) (k : Nat) (x : Port) : (s.setPort k x).regs = s.regs := rfl
@[simp] theorem setPort_mem (s : State) (k : Nat) (x : Port) : (s.setPort k x).mem = s.mem := rfl
@[simp] theorem setPort_reg (s : State) (k : Nat) (x : Port) (a : Nat) : (s.setPort k x).reg a = s.reg a := rfl
@[simp] theorem setPort_same (s : State) (k : Nat) (x : Port) : (s.setPort k x).port k = x := aget_aput_same _ _ _ _
theorem setPort_ne (s : State) {j k : Nat} (x : Port) (h : j ≠ k) : (s.setPort k x).port j = s.port j := aget_aput_ne _ _ _ _ h

@[simp] theorem setSub_regs (s : State) (k : Nat) (x : Sub) : (s.setSub k x).regs = s.regs := rfl
@[simp] theorem setSub_mem (s : State) (k : Nat) (x : Sub) : (s.setSub k x).mem = s.mem := rfl
@[simp] theorem setSub_reg (s : State) (k : Nat) (x : Sub) (a : Nat) : (s.setSub k x).reg a = s.reg a := rfl
@[simp] theorem setSub_same (s : State) (k : Nat) (x : Sub) : (s.setSub k x).sub k = x := aget_aput_same _ _ _ _
theorem setSub_ne (s : State) {j k : Nat} (x : Sub) (h : j ≠ k) : (s.setSub k x).sub j = s.sub j := aget_aput_ne _ _ _ _ h

@[simp] theorem setTx_regs (s : State) (k : Nat) (x : TxStream) : (s.setTx k x).regs = s.regs := rfl
@[simp] theorem setTx_mem (s : State) (k : Nat) (x : TxStream) : (s.setTx k x).mem = s.mem := rfl
@[simp] theorem setTx_reg (s : State) (k : Nat) (x : TxStream) (a : Nat) : (s.setTx k x).reg a = s.reg a := rfl
@[simp] theorem setTx_same (s : State) (k : Nat) (x : TxStream) : (s.setTx k x).tx k = x := aget_aput_same _ _ _ _
theorem setTx_ne (s : State) {j k : Nat} (x : TxStream) (h : j ≠ k) : (s.setTx k x).tx j = s.tx j := aget_aput_ne _ _ _ _ h

@[simp] theorem setExc_regs (s : State) (k : Nat) (x : ExcCh) : (s.setExc k x).regs = s.regs := rfl
@[simp] theorem setExc_mem (s : State) (k : Nat) (x : ExcCh) : (s.setExc k x).mem = s.mem := rfl
@[simp] theorem setExc_reg (s : State) (k : Nat) (x : ExcCh) (a : Nat) : (s.setExc k x).reg a = s.reg a := rfl
@[simp] theorem setExc_same (s : State) (k : Nat) (x : ExcCh) : (s.setExc k x).exc k = x := aget_aput_same _ _ _ _
theorem setExc_ne (s : State) {j k : Nat} (x : ExcCh) (h : j ≠ k) : (s.setExc k x).exc j = s.exc j := aget_aput_ne _ _ _ _ h

@[simp] theorem setSnk_regs (s : State) (k : Nat) (x : Snk) : (s.setSnk k x).regs = s.regs := rfl
@[simp] theorem setSnk_mem (s : State) (k : Nat) (x : Snk) : (s.setSnk k x).mem = s.mem := rfl
@[simp] theorem setSnk_reg (s : State) (k : Nat) (x : Snk) (a : Nat) : (s.setSnk k x).reg a = s.reg a := rfl
@[simp] theorem setSnk_same (s : State) (k : Nat) (x : Snk) : (s.setSnk k x).snk k = x := aget_aput_same _ _ _ _
theorem setSnk_ne (s : State) {j k : Nat} (x : Snk) (h : j ≠ k) : (s.setSnk k x).snk j = s.snk j := aget_aput_ne _ _ _ _ h

@[simp] theorem setRmt_regs (s : State) (k : Nat) (x : RmtCh) : (s.setRmt k x).regs = s.regs := rfl
@[simp] theorem setRmt_mem (s : State) (k : Nat) (x : RmtCh) : (s.setRmt k x).mem = s.mem := rfl
@[simp] theorem setRmt_reg (s : State) (k : Nat) (x : RmtCh) (a : Nat) : (s.setRmt k x).reg a = s.reg a := rfl
@[simp] theorem setRmt_same (s : State) (k : Nat) (x : RmtCh) : (s.setRmt k x).rmtCh k = x := aget_aput_same _ _ _ _
theorem setRmt_ne (s : State) {j k : Nat} (x : RmtCh) (h : j ≠ k) : (s.setRmt k x).rmtCh j = s.rmtCh j := aget_aput_ne _ _ _ _ h

end Sys2Proof.Machine
end

