-- ==== Sys2Proof/Machine/Balls.lean ====
section
/-! DEFINITION. What each group of balls does, as the state gives it: Table 14.5 until the block enables it, and the block's
signal from then on (R328, R420, R544, R655, R668, R736, R738, R746 to R748). -/

namespace Sys2Proof.Machine

/-- A ball, or a group of balls that act alike. -/
inductive Ball where
  | sapOut (n : Nat) | sapClock (n : Nat) | tillOut (n : Nat) | tillXoff (n : Nat) | pulse (o : Nat)
  | xspiSelect | evtN | faultN | serdesTx (p : Nat) | hostInput
  | en (c : Nat) | hsw (c : Nat) | bstG (p : Nat) | pwm (c : Nat) | fout | fieldInput
  deriving DecidableEq, Repr

/-- What a ball does; `signal` is the block's own signal, `idle` electrical idle. -/
inductive Drive where
  | hiZ | idle | low | high | signal
  deriving DecidableEq, Repr

/-- A level where the block drives, else high impedance. -/
def driveIf (on level : Bool) : Drive := if !on then .hiZ else if level then .high else .low

/-- An open-drain output that pulls low. -/
def openDrain (pull : Bool) : Drive := if pull then .low else .hiZ

/-- The host outputs are their blocks' own: not in a reset, nor from the cause of one on (R731). -/
def State.outLive (s : State) : Bool := s.hostLive && s.pwr.intReset.isNone

/-- The field-side balls. -/
def Ball.isField : Ball → Bool
  | .en _ | .hsw _ | .bstG _ | .pwm _ | .fout | .fieldInput => true
  | _ => false

/-- What the die drives on a ball. A die held in reset drives FAULT_N low from power-up on (Table 14.5, R747); State has no
die without power, whose balls are all at high impedance (log entry 161). -/
def State.driven (s : State) : Ball → Drive
  | .sapOut n => if s.outLive && s.domOn 8 && s.sapOn n then .signal else .hiZ
  | .sapClock n => if s.outLive && s.domOn 8 && s.sapOn n && s.sapMaster n then .signal else .hiZ
  | .tillOut n => if s.outLive && s.domOn 8 && bit (s.tilCfg n) 30 then .signal else .hiZ
  | .tillXoff n => driveIf (s.outLive && s.domOn 8 && bit (s.tilCfg n) 31) (s.till n).xoff
  | .pulse o => driveIf (s.outLive && s.rb Reg.TIM_PULSE o) (s.pulseHigh o s.tim.now8)
  | .xspiSelect => driveIf s.outLive true
  | .evtN => openDrain (s.outLive && s.evtN)
  | .faultN => openDrain (!s.hostLive || s.faultN)
  | .serdesTx p => if s.outLive && s.portOn p && s.portRate p != 0 then .signal else .idle
  | .hostInput | .fieldInput => .hiZ
  | .en c => driveIf true (s.fieldLive && (s.chan c).en)
  | .hsw c => driveIf true (s.fieldLive && s.rb Reg.FPWM_HSW c)
  | .bstG p => if s.fieldLive && (s.bst p).gate then .signal else .low
  | .pwm c => if s.fieldLive && (s.chan c).en then .signal else .low
  | .fout => openDrain (s.fieldLive && !s.rb Reg.FFIN_FOUT 31)

/-- The interrupt that the Steward receives (R746). -/
def State.stwInterrupt (s : State) : Bool := s.outLive && s.routed (Reg.EVT_SMASK 0)

/-- What a ball does: a field-side ball of the -P is not connected (R4). -/
def State.ball (s : State) (b : Ball) : Drive := if b.isField && !s.isA then .hiZ else s.driven b

end Sys2Proof.Machine
end

