-- ==== Sys2Proof/Machine/Jtag.lean ====
section
/-! DEFINITION. JTAG and the OTP fields (chapter 13, R688 and R689). The table of commands has no JTAG row: these say what
the port offers and what programming does to the fuses, for whoever drives the port from outside. -/

namespace Sys2Proof.Machine

/-- The JTAG instructions that R689 names, and those beyond them: programming the OTP (R688), and any other. -/
inductive JtagInstr where
  | bypass | idcode | samplePreload | extest | extestPulse | extestTrain | programOtp | other
  deriving DecidableEq, Repr

/-- What JTAG offers at a value of JTAGLK: everything at 0b00, boundary scan at 0b01, BYPASS and IDCODE at 0b11 (R689); at
0b10, to which Table 13.8 gives no meaning, as at 0b11. -/
def jtagOffers (lk : Nat) (i : JtagInstr) : Bool :=
  match i with
  | .bypass | .idcode => true
  | .samplePreload | .extest | .extestPulse | .extestTrain => decide (lk % 4 ≤ 1)
  | .programOtp | .other => decide (lk % 4 = 0)

/-- JTAG programs KEYHASH, IMGKEY and JTAGLK: bits change from 0 to 1 only, and only where JTAG offers it (R688). -/
def Fuse.program (keyhash imgkey : BitVec 256) (lk : Nat) (f : Fuse) : Fuse :=
  if jtagOffers f.jtag .programOtp then
    { f with keyhash := f.keyhash ||| keyhash, imgkey := f.imgkey ||| imgkey, jtag := f.jtag ||| lk % 4 }
  else f

end Sys2Proof.Machine
end

