-- ==== Sys2Proof/WellFormed.lean ====
section
/-! DEFINITION. Which commands are well formed: every operand within the width that its field or the number of its units
gives it. A meaning is total and does not rest on it. -/

namespace Sys2Proof

def fitsS (bits : Nat) (x : Int) : Bool := decide (-(2 ^ (bits - 1) : Int) ≤ x) && decide (x < 2 ^ (bits - 1))

/-- R224: PS is 2 bits. -/
def predOk (p : Pred) : Bool := decide (p.ps < 4)

/-- Table 4.6. -/
def cr3Ok (o : FmtCR3) : Bool := decide (o.d < 32) && decide (o.a < 32) && decide (o.b < 32) && decide (o.s < 32)
def ciOk (o : FmtCI) : Bool := decide (o.d < 32) && decide (o.a < 32) && fitsS 10 o.imm
def cmOk (o : FmtCM) : Bool := decide (o.acc < 8) && decide (o.a < 32) && decide (o.b < 32) && decide (o.z < 128)
def cnOk (o : FmtCN) : Bool := decide (o.d < 32) && decide (o.acc < 8) && decide (o.sh < 64) && decide (o.z < 64)
def csOk (o : FmtCS) : Bool := decide (o.d < 32) && decide (o.a < 32) && decide (o.z < 512) && decide (o.mn < 2)
def maOk (o : FmtMA) : Bool := decide (o.r < 32) && decide (o.i < 8) && decide (o.mode < 4) && fitsS 12 o.imm
def mrOk (o : FmtMR) : Bool :=
  decide (o.sh < 64) && decide (o.acc < 8) && decide (o.i < 8) && decide (o.mode < 4) && fitsS 8 o.imm
def mvOk (o : FmtMV) : Bool := decide (o.dst < 64) && decide (o.src < 64) && decide (o.z < 1024)
def mcOk (o : FmtMC) : Bool := decide (o.dir < 2) && decide (o.ctl < 16) && decide (o.d < 32) && decide (o.z < 4096)
def lfOk (o : FmtLF) : Bool := decide (o.r < 32) && decide (o.a < 32)
def ld2iOk (o : FmtLD2I) : Bool :=
  decide (o.ga < 4) && decide (o.ia < 8) && fitsS 10 o.imma && decide (o.gb < 4) && decide (o.ib < 8) && fitsS 10 o.immb &&
    decide (o.z < 2)
/-- The fields of R262. -/
def loopOk (o : FmtLoop) : Bool :=
  decide (o.k < 2) && decide (o.src < 2) && decide (o.cnt < 256) && decide (o.skip < 8) && decide (o.stop < 512)

/-- A register access is an aligned 32-bit word (R58). -/
def addrOk (a : Nat) : Bool := decide (a < 4294967296) && decide (a % 4 = 0)

/-- Widths of Table 7.2. -/
def kwyMsgOk (m : KwyMsg) : Bool := decide (m.typ < 256) && decide (m.seq < 65536) && decide (m.len < 65536)

/-- Addresses are 48 bits, EtherType 16, a VLAN tag 16. -/
def frameOk (f : Frame) : Bool :=
  decide (f.dst < 281474976710656) && decide (f.src < 281474976710656) && decide (f.etype < 65536) &&
    decide (f.vlan.getD 0 < 65536)

/-- A burst (R588): a size of 1 to 64 bytes, its write data and strobes as long as it is. -/
def burstOk (wr : Bool) (size beats : Nat) (data : List Byte) (strobes : List Bool) : Bool :=
  (size == 1 || size == 2 || size == 4 || size == 8 || size == 16 || size == 32 || size == 64) && decide (0 < beats) &&
    (if wr then data.length == size * beats && (strobes.isEmpty || strobes.length == size * beats)
     else data.isEmpty && strobes.isEmpty)

def wellFormed (i : Instr) : Bool :=
  match i with
  | .registerWrite _ addr _ => addrOk addr
  | .rcRead addr => addrOk addr
  | .clhTransaction _ _ wr addr size beats data strobes _ => decide (addr < 4294967296) && burstOk wr size beats data strobes
  | .burstGrant target => decide (target < 8)
  | .transactionRetire _ _ => true
  | .lockTimeout target => decide (target < 2)
  | .masterResetComplete _ => true
  | .bistEnd fail => decide (fail < 16)
  | .xspCommandDone _ => true
  | .hspiWrite addr ws full => decide (addr < 4294967296) && (full.elim true fun k => decide (61 ≤ k ∧ k < 5 + 4 * ws.length))
  | .hspiRead addr _ => decide (addr < 4294967296)
  | .hostResetRequest _ => true
  | .stwResetRequest _ => true
  | .watchdogKick _ => true
  | .pwrCtrlWrite _ => true
  | .domainSwitchComplete d => decide (d < 16)
  | .trainingComplete _ ld => decide (ld < 65536)
  | .keywayLinkDown _ _ => true
  | .block m => kwyMsgOk m
  | .envelope m => kwyMsgOk m
  | .cmd m => kwyMsgOk m
  | .cmdack m => kwyMsgOk m
  | .status m => kwyMsgOk m
  | .sense m => kwyMsgOk m
  | .fault m => kwyMsgOk m
  | .fbusToField m => kwyMsgOk m
  | .fbusToHost m => kwyMsgOk m
  | .hostHeartbeat m => kwyMsgOk m
  | .fieldHeartbeat m => kwyMsgOk m
  | .proxyAccess _ _ addr _ => addrOk addr
  | .force _ => true
  | .exit _ => true
  | .finMeasurement _ => true
  | .foutClr _ => true
  | .rel _ => true
  | .reload _ => true
  | .playerGo p _ => decide (p < 8)
  | .playerStop p _ => decide (p < 8)
  | .overrideRepeat c => decide (c < 32)
  | .start c => decide (c < 32)
  | .stop c => decide (c < 32)
  | .clear c => decide (c < 32)
  | .startSequence c => decide (c < 32)
  | .enableTimeElapsed c => decide (c < 32)
  | .hold50Complete c => decide (c < 32)
  | .rampInComplete c => decide (c < 32)
  | .stopRampOutComplete c => decide (c < 32)
  | .stopHold50Complete c => decide (c < 32)
  | .stopEnableTimeElapsed c => decide (c < 32)
  | .carrierPeriod c => decide (c < 32)
  | .boostPeriod p _ _ => decide (p < 16)
  | .hswWrite _ => true
  | .takeoverStart _ => true
  | .hswtElapsed c => decide (c < 32)
  | .avoidanceRun _ => true
  | .carrierModeWrite _ => true
  | .ilimCrossing c _ _ => decide (c < 32)
  | .iscCrossing c _ => decide (c < 32)
  | .fltAssert c => decide (c < 32)
  | .lineOverVoltage c _ => decide (c < 32)
  | .retry c => decide (c < 32)
  | .probeComplete c => decide (c < 32)
  | .dcOffset c _ => decide (c < 32)
  | .ntcWarning k _ => decide (k < 8)
  | .ntcTrip k _ => decide (k < 8)
  | .thermalRestore k _ => decide (k < 8)
  | .boostOverCurrent p _ => decide (p < 16)
  | .boostOcPersist p => decide (p < 16)
  | .boostRetry p => decide (p < 16)
  | .boostOverVoltage p _ => decide (p < 16)
  | .railOverVoltage p _ => decide (p < 16)
  | .impedanceEstimate c _ _ => decide (c < 32)
  | .pilotStart c => decide (c < 32)
  | .earthLeakage _ => true
  | .f0FrameReceived f => frameOk f
  | .f0Transmit _ => true
  | .f0Collision _ _ => true
  | .macCfgWrite p _ => decide (p < 4)
  | .portLinkUp p => decide (p < 4)
  | .portLinkDown p _ _ => decide (p < 4)
  | .frameReceived p f eighth => decide (p < 4) && frameOk f && decide (eighth < 8)
  | .frameOffered p q f => decide (p < 4) && decide (q < 8) && frameOk f
  | .portTransmit p eighth => decide (p < 4) && decide (eighth < 8)
  | .subscriptionEnable sub _ => decide (sub < 512)
  | .transmitStreamEnable str _ => decide (str < 512)
  | .aes67StreamEnable _ str _ => decide (str < 16)
  | .streamLoss sub => decide (sub < 512)
  | .rateCommit view _ => decide (view < 3)
  | .rateTakesEffect view => decide (view < 3)
  | .set view => decide (view < 3)
  | .step view => decide (view < 3)
  | .slew view => decide (view < 3)
  | .cancel view => decide (view < 3)
  | .slewDone view => decide (view < 3)
  | .activeWrite _ => true
  | .jclr _ => true
  | .snap _ => true
  | .align _ => true
  | .pulseEnable _ => true
  | .ptpMessage inst _ => decide (inst < 2)
  | .rscMeasurement _ => true
  | .buildoutComplete _ _ => true
  | .rscOpen _ => true
  | .rscClose _ _ => true
  | .ncoWrite _ => true
  | .rscFreerun _ => true
  | .groupMixEnd _ => true
  | .sinkChainGroup g => decide (g.group < 64)
  | .pstEnWrite _ => true
  | .pstCutWrite _ => true
  | .pstWinWrite _ => true
  | .firstRunStart t ctx => decide (t < 64) && decide (ctx < 256)
  | .rerunStart t ctx => decide (t < 64) && decide (ctx < 256)
  | .taskOverrun t => decide (t < 64)
  | .windowWatchdog t => decide (t < 64)
  | .tellerReset t => decide (t < 64)
  | .ldfResponse t => decide (t < 64)
  | .ldfTimeout t => decide (t < 64)
  | .stfError addr => decide (addr < 4294967296)
  | .contextEnable _ => true
  | .contextDisable _ => true
  | .swapGo _ => true
  | .nop t _ w => decide (t < 64) && decide (w < 18446744073709551616)
  | .add t p o => decide (t < 64) && predOk p && cr3Ok o
  | .adds t p o => decide (t < 64) && predOk p && cr3Ok o
  | .sub t p o => decide (t < 64) && predOk p && cr3Ok o
  | .subs t p o => decide (t < 64) && predOk p && cr3Ok o
  | .neg t p o => decide (t < 64) && predOk p && cr3Ok o
  | .negs t p o => decide (t < 64) && predOk p && cr3Ok o
  | .abs t p o => decide (t < 64) && predOk p && cr3Ok o
  | .abss t p o => decide (t < 64) && predOk p && cr3Ok o
  | .min t p o => decide (t < 64) && predOk p && cr3Ok o
  | .max t p o => decide (t < 64) && predOk p && cr3Ok o
  | .and t p o => decide (t < 64) && predOk p && cr3Ok o
  | .or t p o => decide (t < 64) && predOk p && cr3Ok o
  | .xor t p o => decide (t < 64) && predOk p && cr3Ok o
  | .shl t p o => decide (t < 64) && predOk p && cr3Ok o
  | .shls t p o => decide (t < 64) && predOk p && cr3Ok o
  | .asr t p o => decide (t < 64) && predOk p && cr3Ok o
  | .asrr t p o => decide (t < 64) && predOk p && cr3Ok o
  | .lsr t p o => decide (t < 64) && predOk p && cr3Ok o
  | .addi t p o => decide (t < 64) && predOk p && ciOk o
  | .addis t p o => decide (t < 64) && predOk p && ciOk o
  | .cmpeq t p o => decide (t < 64) && predOk p && cr3Ok o
  | .cmplt t p o => decide (t < 64) && predOk p && cr3Ok o
  | .cmple t p o => decide (t < 64) && predOk p && cr3Ok o
  | .vcmpeq t p o => decide (t < 64) && predOk p && cr3Ok o
  | .vcmplt t p o => decide (t < 64) && predOk p && cr3Ok o
  | .vcmple t p o => decide (t < 64) && predOk p && cr3Ok o
  | .plog t p o => decide (t < 64) && predOk p && cr3Ok o
  | .mul t p o => decide (t < 64) && predOk p && cmOk o
  | .mac t p o => decide (t < 64) && predOk p && cmOk o
  | .macs t p o => decide (t < 64) && predOk p && cmOk o
  | .msu t p o => decide (t < 64) && predOk p && cmOk o
  | .msus t p o => decide (t < 64) && predOk p && cmOk o
  | .dot8z t p o => decide (t < 64) && predOk p && cmOk o
  | .dot8 t p o => decide (t < 64) && predOk p && cmOk o
  | .dot8s t p o => decide (t < 64) && predOk p && cmOk o
  | .vmac8z t p o => decide (t < 64) && predOk p && cmOk o
  | .vmac8 t p o => decide (t < 64) && predOk p && cmOk o
  | .vmac8s t p o => decide (t < 64) && predOk p && cmOk o
  | .vmsu8 t p o => decide (t < 64) && predOk p && cmOk o
  | .vmsu8s t p o => decide (t < 64) && predOk p && cmOk o
  | .rnd t p o => decide (t < 64) && predOk p && cnOk o
  | .rndw t p o => decide (t < 64) && predOk p && cnOk o
  | .trn t p o => decide (t < 64) && predOk p && cnOk o
  | .amov t p o => decide (t < 64) && predOk p && cnOk o
  | .aadd t p o => decide (t < 64) && predOk p && cnOk o
  | .aadds t p o => decide (t < 64) && predOk p && cnOk o
  | .ash t p o => decide (t < 64) && predOk p && cnOk o
  | .aclr t p o => decide (t < 64) && predOk p && cnOk o
  | .sinit t p o => decide (t < 64) && predOk p && csOk o
  | .smax t p o => decide (t < 64) && predOk p && csOk o
  | .smin t p o => decide (t < 64) && predOk p && csOk o
  | .sred t p o => decide (t < 64) && predOk p && csOk o
  | .ldw t p o => decide (t < 64) && predOk p && maOk o
  | .ldh t p o => decide (t < 64) && predOk p && maOk o
  | .ldv t p o => decide (t < 64) && predOk p && maOk o
  | .stw t p o => decide (t < 64) && predOk p && maOk o
  | .sth t p o => decide (t < 64) && predOk p && maOk o
  | .stv t p o => decide (t < 64) && predOk p && maOk o
  | .str t p o => decide (t < 64) && predOk p && mrOk o
  | .strv t p o => decide (t < 64) && predOk p && mrOk o
  | .ldf t p o => decide (t < 64) && predOk p && lfOk o
  | .stf t p o => decide (t < 64) && predOk p && lfOk o
  | .movr t p o => decide (t < 64) && predOk p && mvOk o
  | .movc t p o => decide (t < 64) && predOk p && mcOk o
  | .modi t p i _ => decide (t < 64) && predOk p && decide (i < 8)
  | .br t p _ => decide (t < 64) && predOk p
  | .call t p _ => decide (t < 64) && predOk p
  | .ret t p => decide (t < 64) && predOk p
  | .loop t p o => decide (t < 64) && predOk p && loopOk o
  | .endRun t p => decide (t < 64) && predOk p
  | .sig t p n => decide (t < 64) && predOk p && decide (n < 16)
  | .evr t p n => decide (t < 64) && predOk p && decide (n < 64)
  | .ld2i t o => decide (t < 64) && ld2iOk o
  | .ldi t reg _ _ => decide (t < 64) && decide (reg < 64)
  | .gainStoreWrite addr _ => decide (addr < 4294967296)
  | .chgvWrite _ => true
  | .holdWrite _ => true
  | .rampTableWrite addr _ => decide (addr < 4294967296)
  | .ramptWrite k _ => decide (k < 16)
  | .repoint _ => true
  | .excCfgWrite c _ => decide (c < 1280)
  | .acquireLock c => decide (c < 256)
  | .inputLoss c _ => decide (c < 256)
  | .phaseError c => decide (c < 256)
  | .inputResume c _ => decide (c < 256)
  | .syncRatioCheck c _ => decide (c < 1280)
  | .dcfgWrite k _ => decide (k < 2560)
  | .dlyWrite k _ => decide (k < 2560)
  | .dlenWrite k _ => decide (k < 2560)
  | .limWrite k _ _ => decide (k < 2560)
  | .sapEnable n _ => decide (n < 16)
  | .sapAlign _ => true
  | .slaveFrame n _ _ => decide (n < 16)
  | .tillWordReceived n _ _ => decide (n < 4)
  | .tillHold n _ => decide (n < 4)
  | .tilWmWrite n _ => decide (n < 4)
  | .move n => decide (n < 16)
  | .remitLoop n => decide (n < 16)
  | .wait n => decide (n < 16)
  | .waitConditionMet n => decide (n < 16)
  | .signal n => decide (n < 16)
  | .link n => decide (n < 16)
  | .remitEnd n => decide (n < 16)
  | .rmtStart n => decide (n < 16)
  | .halt n => decide (n < 16)
  | .resume n => decide (n < 16)
  | .abort n => decide (n < 16)
  | .disable n => decide (n < 16)
  | .engineDisable _ => true
  | .doorbell _ => true
  | .rmtPcWrite n _ => decide (n < 16)
  | .channelRetired n => decide (n < 16)
  | .hngEnable _ => true
  | .hinge port _ _ => decide (port < 3)
  | .receipt _ _ _ => true
  | .change _ _ => true
  | .fill str => decide (str < 512)
  | .keywayMessageLaunch _ => true
  | .tillWordSent n => decide (n < 4)
  | .pulseOutputEdge o eighth => decide (o < 3) && decide (eighth < 8)
  | .headerVerify _ => true
  | .sectionCheck _ => true
  | .arbAdvance _ => true
  | .controlMessage _ _ => true
  | .setTime _ => true
  | .mgmtQuery _ _ => true
  | .update _ addr cmd _ => decide (addr < 4294967296) && decide (cmd < 4)
  | .restart _ => true
  | .hspiPostedWriteError addr => decide (addr < 4294967296)
  | .braceState _ => true
  | .hostSupervisorReset _ => true
  | .hostTemperatureMeasurement _ => true
  | .fieldTemperatureMeasurement _ => true
  | .scrubPeriod _ _ => true
  | .fieldSupplyBelowWarning _ => true
  | .announceReceiptTimeout inst => decide (inst < 2)
  | .disqualification k => decide (k < 8)
  | .announce node _ _ _ _ _ => decide (node < 16384)
  | .claim node scope _ _ => decide (node < 16384) && decide (scope < 2)
  | .streams node _ => decide (node < 16384)
  | .query _ _ _ => true
  | .reply _ _ => true
  | .leave node => decide (node < 16384)
  | .claimTimeout scope => decide (scope < 2)
  | .recordExpiry node => decide (node < 16384)
  | .syncInterval inst => decide (inst < 3)
  | .fieldScrub _ => true
  | .stewardRingPlaceFreed p => decide (p < 4)
  | .pcsCodeError p => decide (p < 4)
  | .tcntLoRead => true
  | .kwyFlogRead => true
  | .hostSupplyGood => true
  | .bootRetry => true
  | .serviceLevel2 => true
  | .arbFusesBlown => true
  | .xspEraseSector => true
  | .xspProgramPage => true
  | .hspiStatus => true
  | .hspiSync => true
  | .hspiId => true
  | .hspiReset => true
  | .hspiCsNRise => true
  | .braceExit => true
  | .hostPinReset => true
  | .prsntNHigh => true
  | .prsntNRelease => true
  | .fprsntNHigh => true
  | .fprsntNRelease => true
  | .hostInternalReset => true
  | .lockstepMismatch => true
  | .stewardReset => true
  | .stewardRuntimeRestart => true
  | .watchdogExpiry => true
  | .ledgerClearComplete => true
  | .fieldWarningEnd => true
  | .fieldSupplyReset => true
  | .fieldSupplyGood => true
  | .rootLock => true
  | .rootLossOfLock => true
  | .xoFailure => true
  | .lanesAligned _ => true
  | .laneClockLoss => true
  | .fieldClockSwitch => true
  | .cmdTimeout => true
  | .blockMissing => true
  | .fieldFolioStart => true
  | .autonomyEntry => true
  | .autonomyExit => true
  | .fhbloss => true
  | .strongboxLoadEnd => true
  | .toneBurstEnd => true
  | .sbxEraseSector => true
  | .sbxProgramPage => true
  | .sbxCommandDone => true
  | .avoidanceRunComplete => true
  | .f0BackoffEnd => true
  | .dvtRelease => true
  | .junctionDone => true
  | .folioStart => true
  | .entryCut => true
  | .mixSlotStart => true
  | .remixEnd => true
  | .postingCut => true
  | .waitingBeat => true
  | .changeAccept => true
  | .receiptMissing => true
  | .changePerform => true
  | .heartbeatLoss => true
  | .split => true
  | .give => true
  | .hngReturn => true
  | .releaseSwitchOpen => true
  | .releaseHswtElapsed => true
  | .periodicAnnounce => true
  | .claimInterval => true
  | .streamsSlot => true
  | .rstNRelease => true
  | .querySlot => true

end Sys2Proof
end

