-- ==== Sys2Proof/Tests/Slice0.lean ====
section
/-! SUPPORT. Tests: which commands are well formed; for every statement with hypotheses, states and operands that meet the
hypotheses of each clause; and single commands against values worked out from the spec. -/

namespace Sys2Proof.Tests

set_option maxRecDepth 100000
set_option Elab.async false

open Sys2Proof Sys2Proof.Machine

/-! ### States -/

/-- Both dies released from reset. -/
def live : State := { State.reset with
  pwr := { Pwr.reset with
    hold := ⟨false, false, false, false, false⟩
    fSupply := false } }

/-- The runtime runs. -/
def up : State := { live with boot := { Boot.reset with phase := .running } }

/-- Both ends of the Keyway UP. -/
def linked : State := { live with
  kwy := { Kwy.reset with link := .up }
  field := { Field.reset with
    link := .up
    laneClock := true
    autonomy := false } }

/-- A Keyway message with the CRC that R393 gives it. -/
def kmsg (typ seq : Nat) (payload : List Byte) : KwyMsg :=
  { codeErr := false, typ := typ, seq := seq, len := payload.length, payload := payload,
    crc := kwyCrc ⟨false, typ, seq, payload.length, payload, 0⟩ }

/-- P0 up at 1 Gb/s. -/
def ported : State := ((up.setReg (Reg.MAC_CFG 0) (wd (1518 * 65536 + 1))).setReg (Reg.MAC_STATUS 0) 0x80000001).setReg
  (Reg.MAC_ADDRLO 0) 5

/-- A good frame of 64 bytes for that port. -/
def frame (etype : Nat) (payload : List Byte) : Frame := ⟨64, true, false, 5, 9, none, etype, payload⟩

/-- System time in folio `q`. -/
def inFolio (q : Nat) : State := { linked with
  pst := { Pst.reset with run := true }
  tim := { Tim.reset with vl := { View.reset with offset := q * 83334 * 1099511627776 } } }

/-- PS5 on, and with EN = 1 where asked. -/
def ledgerUp (ctrl : Word) : State := (live.setReg Reg.PWR_STATUS 0x10).setReg Reg.LDG_CTRL ctrl

/-- Teller 5 executes the first run of its context 3 for folio 9. -/
def telling (c : Core) : State := { live with tel := { Tel.reset with
  cores := [(5, { c with run := some ⟨3, 9, false⟩ })]
  ctxs := [(1283, { Ctx.none with
    decl := { CtxDecl.none with
      t := 5
      ctx := 3
      entry := 17
      cycles := 100
      base := 64
      size := 128
      isSrc := true
      enabled := true }
    exists_ := true
    en := true })] } }

/-- A node of a pair in this state. -/
def hinged (st : HngState) : State := { (up.setReg Reg.HNG_CTRL 5).setReg Reg.HNG_CFG 0x112C000A with
  hng := { Hng.reset with st := st } }

/-- A HINGE of the partner. -/
def hmsg : HingeMsg := ⟨10, 2, true, false, false, false, 0, 0, 0, 0, 0⟩

/-- Node 300 of district 2, eligible. -/
def node300 : State := (((up.setReg Reg.DIS_ADDR 300).setReg Reg.DIS_CFG 1).setReg Reg.SEC_BOOTST 0x02000000).setReg
  (Reg.MAC_STATUS 0) 0x80000001

/-! ### Well-formed and ill-formed commands -/

/-- Each command with its operands at the top of their ranges is well formed. -/
theorem smoke_wellFormed_1 : ([.registerWrite .stw 4294967292 0, .rcRead 4294967292, .clhTransaction .stw 0 false
    4294967295 1 1 [] [] .none, .burstGrant 7, .transactionRetire .stw 0, .lockTimeout 1, .masterResetComplete .stw,
    .bistEnd 15, .xspCommandDone false, .hspiWrite 4294967295 [] none, .hspiRead 4294967295 0, .hostResetRequest 0,
    .stwResetRequest 0, .watchdogKick 0, .pwrCtrlWrite 0, .domainSwitchComplete 15, .trainingComplete false 65535,
    .keywayLinkDown false false, .block (kmsg 255 65535 []), .envelope (kmsg 255 65535 []), .cmd (kmsg 255 65535 []),
    .cmdack (kmsg 255 65535 []), .status (kmsg 255 65535 []), .sense (kmsg 255 65535 []), .fault (kmsg 255 65535 []),
    .fbusToField (kmsg 255 65535 []), .fbusToHost (kmsg 255 65535 []), .hostHeartbeat (kmsg 255 65535 []),
    .fieldHeartbeat (kmsg 255 65535 []), .proxyAccess .stw false 4294967292 0, .force 0, .exit 0, .finMeasurement [],
    .foutClr 0, .rel 0, .reload 0, .playerGo 7 0, .playerStop 7 0, .overrideRepeat 31, .start 31, .stop 31, .clear 31,
    .startSequence 31, .enableTimeElapsed 31, .hold50Complete 31, .rampInComplete 31, .stopRampOutComplete 31,
    .stopHold50Complete 31, .stopEnableTimeElapsed 31, .carrierPeriod 31, .boostPeriod 15 0 0, .hswWrite 0,
    .takeoverStart 0, .hswtElapsed 31, .avoidanceRun 0, .carrierModeWrite 0, .ilimCrossing 31 0 0, .iscCrossing 31 0,
    .fltAssert 31, .lineOverVoltage 31 0] : List Instr).all wellFormed = true := by
  decide +kernel

/-- Each command with its operands at the top of their ranges is well formed. -/
theorem smoke_wellFormed_2 : ([.retry 31, .probeComplete 31, .dcOffset 31 0, .ntcWarning 7 0, .ntcTrip 7 0,
    .thermalRestore 7 0, .boostOverCurrent 15 0, .boostOcPersist 15, .boostRetry 15, .boostOverVoltage 15 0,
    .railOverVoltage 15 0, .impedanceEstimate 31 [] [], .pilotStart 31, .earthLeakage 0, .f0FrameReceived (frame 65535
    []), .f0Transmit false, .f0Collision false false, .macCfgWrite 3 0, .portLinkUp 3, .portLinkDown 3 false false,
    .frameReceived 3 (frame 65535 []) 7, .frameOffered 3 7 (frame 65535 []), .portTransmit 3 7, .subscriptionEnable
    511 0, .transmitStreamEnable 511 0, .aes67StreamEnable false 15 0, .streamLoss 511, .rateCommit 2 0,
    .rateTakesEffect 2, .set 2, .step 2, .slew 2, .cancel 2, .slewDone 2, .activeWrite 0, .jclr 0, .snap 0, .align 0,
    .pulseEnable 0, .ptpMessage 1 ⟨0, true, 4, 6, 0, 0⟩, .rscMeasurement [], .buildoutComplete 0 0, .rscOpen 0,
    .rscClose 0 0, .ncoWrite 0, .rscFreerun 0, .groupMixEnd [], .sinkChainGroup ⟨63, [], []⟩, .pstEnWrite 0,
    .pstCutWrite 0, .pstWinWrite 0, .firstRunStart 63 255, .rerunStart 63 255, .taskOverrun 63, .windowWatchdog 63,
    .tellerReset 63, .ldfResponse 63, .ldfTimeout 63, .stfError 4294967295, .contextEnable 0] : List Instr).all
    wellFormed = true := by
  decide +kernel

/-- Each command with its operands at the top of their ranges is well formed. -/
theorem smoke_wellFormed_3 : ([.contextDisable 0, .swapGo 0, .nop 63 false 18446744073709551615, .add 63 ⟨false,
    false, 3⟩ ⟨31, 31, 31, 31⟩, .adds 63 ⟨false, false, 3⟩ ⟨31, 31, 31, 31⟩, .sub 63 ⟨false, false, 3⟩ ⟨31, 31, 31,
    31⟩, .subs 63 ⟨false, false, 3⟩ ⟨31, 31, 31, 31⟩, .neg 63 ⟨false, false, 3⟩ ⟨31, 31, 31, 31⟩, .negs 63 ⟨false,
    false, 3⟩ ⟨31, 31, 31, 31⟩, .abs 63 ⟨false, false, 3⟩ ⟨31, 31, 31, 31⟩, .abss 63 ⟨false, false, 3⟩ ⟨31, 31, 31,
    31⟩, .min 63 ⟨false, false, 3⟩ ⟨31, 31, 31, 31⟩, .max 63 ⟨false, false, 3⟩ ⟨31, 31, 31, 31⟩, .and 63 ⟨false,
    false, 3⟩ ⟨31, 31, 31, 31⟩, .or 63 ⟨false, false, 3⟩ ⟨31, 31, 31, 31⟩, .xor 63 ⟨false, false, 3⟩ ⟨31, 31, 31, 31⟩,
    .shl 63 ⟨false, false, 3⟩ ⟨31, 31, 31, 31⟩, .shls 63 ⟨false, false, 3⟩ ⟨31, 31, 31, 31⟩, .asr 63 ⟨false, false, 3⟩
    ⟨31, 31, 31, 31⟩, .asrr 63 ⟨false, false, 3⟩ ⟨31, 31, 31, 31⟩, .lsr 63 ⟨false, false, 3⟩ ⟨31, 31, 31, 31⟩, .addi
    63 ⟨false, false, 3⟩ ⟨31, 31, -512⟩, .addis 63 ⟨false, false, 3⟩ ⟨31, 31, -512⟩, .cmpeq 63 ⟨false, false, 3⟩ ⟨31,
    31, 31, 31⟩, .cmplt 63 ⟨false, false, 3⟩ ⟨31, 31, 31, 31⟩, .cmple 63 ⟨false, false, 3⟩ ⟨31, 31, 31, 31⟩, .vcmpeq
    63 ⟨false, false, 3⟩ ⟨31, 31, 31, 31⟩, .vcmplt 63 ⟨false, false, 3⟩ ⟨31, 31, 31, 31⟩, .vcmple 63 ⟨false, false, 3⟩
    ⟨31, 31, 31, 31⟩, .plog 63 ⟨false, false, 3⟩ ⟨31, 31, 31, 31⟩, .mul 63 ⟨false, false, 3⟩ ⟨7, 31, 31, 127⟩, .mac 63
    ⟨false, false, 3⟩ ⟨7, 31, 31, 127⟩, .macs 63 ⟨false, false, 3⟩ ⟨7, 31, 31, 127⟩, .msu 63 ⟨false, false, 3⟩ ⟨7, 31,
    31, 127⟩, .msus 63 ⟨false, false, 3⟩ ⟨7, 31, 31, 127⟩, .dot8z 63 ⟨false, false, 3⟩ ⟨7, 31, 31, 127⟩, .dot8 63
    ⟨false, false, 3⟩ ⟨7, 31, 31, 127⟩, .dot8s 63 ⟨false, false, 3⟩ ⟨7, 31, 31, 127⟩, .vmac8z 63 ⟨false, false, 3⟩ ⟨7,
    31, 31, 127⟩, .vmac8 63 ⟨false, false, 3⟩ ⟨7, 31, 31, 127⟩, .vmac8s 63 ⟨false, false, 3⟩ ⟨7, 31, 31, 127⟩, .vmsu8
    63 ⟨false, false, 3⟩ ⟨7, 31, 31, 127⟩, .vmsu8s 63 ⟨false, false, 3⟩ ⟨7, 31, 31, 127⟩, .rnd 63 ⟨false, false, 3⟩
    ⟨31, 7, 63, 63⟩, .rndw 63 ⟨false, false, 3⟩ ⟨31, 7, 63, 63⟩, .trn 63 ⟨false, false, 3⟩ ⟨31, 7, 63, 63⟩, .amov 63
    ⟨false, false, 3⟩ ⟨31, 7, 63, 63⟩, .aadd 63 ⟨false, false, 3⟩ ⟨31, 7, 63, 63⟩, .aadds 63 ⟨false, false, 3⟩ ⟨31, 7,
    63, 63⟩, .ash 63 ⟨false, false, 3⟩ ⟨31, 7, 63, 63⟩, .aclr 63 ⟨false, false, 3⟩ ⟨31, 7, 63, 63⟩, .sinit 63 ⟨false,
    false, 3⟩ ⟨31, 31, 511, 1⟩, .smax 63 ⟨false, false, 3⟩ ⟨31, 31, 511, 1⟩, .smin 63 ⟨false, false, 3⟩ ⟨31, 31, 511,
    1⟩, .sred 63 ⟨false, false, 3⟩ ⟨31, 31, 511, 1⟩, .ldw 63 ⟨false, false, 3⟩ ⟨31, 7, 3, 2047⟩, .ldh 63 ⟨false,
    false, 3⟩ ⟨31, 7, 3, 2047⟩, .ldv 63 ⟨false, false, 3⟩ ⟨31, 7, 3, 2047⟩, .stw 63 ⟨false, false, 3⟩ ⟨31, 7, 3,
    2047⟩, .sth 63 ⟨false, false, 3⟩ ⟨31, 7, 3, 2047⟩] : List Instr).all wellFormed = true := by
  decide +kernel

/-- Each command with its operands at the top of their ranges is well formed. -/
theorem smoke_wellFormed_4 : ([.stv 63 ⟨false, false, 3⟩ ⟨31, 7, 3, 2047⟩, .str 63 ⟨false, false, 3⟩ ⟨63, 7, 7, 3,
    -128⟩, .strv 63 ⟨false, false, 3⟩ ⟨63, 7, 7, 3, -128⟩, .ldf 63 ⟨false, false, 3⟩ ⟨31, 31, 5⟩, .stf 63 ⟨false,
    false, 3⟩ ⟨31, 31, 5⟩, .movr 63 ⟨false, false, 3⟩ ⟨63, 63, 1023⟩, .movc 63 ⟨false, false, 3⟩ ⟨1, 15, 31, 4095⟩,
    .modi 63 ⟨false, false, 3⟩ 7 0, .br 63 ⟨false, false, 3⟩ 0, .call 63 ⟨false, false, 3⟩ 0, .ret 63 ⟨false, false,
    3⟩, .loop 63 ⟨false, false, 3⟩ ⟨1, 1, 255, 7, 511⟩, .endRun 63 ⟨false, false, 3⟩, .sig 63 ⟨false, false, 3⟩ 15,
    .evr 63 ⟨false, false, 3⟩ 63, .ld2i 63 ⟨3, 7, 511, 3, 7, -512, 1⟩, .ldi 63 63 0 0, .gainStoreWrite 4294967295 [],
    .chgvWrite 0, .holdWrite 0, .rampTableWrite 4294967295 [], .ramptWrite 15 0, .repoint 0, .excCfgWrite 1279 0,
    .acquireLock 255, .inputLoss 255 0, .phaseError 255, .inputResume 255 0, .syncRatioCheck 1279 0, .dcfgWrite 2559
    0, .dlyWrite 2559 0, .dlenWrite 2559 0, .limWrite 2559 false 0, .sapEnable 15 0, .sapAlign 0, .slaveFrame 15 0 [],
    .tillWordReceived 3 0 false, .tillHold 3 false, .tilWmWrite 3 0, .move 15, .remitLoop 15, .wait 15,
    .waitConditionMet 15, .signal 15, .link 15, .remitEnd 15, .rmtStart 15, .halt 15, .resume 15, .abort 15, .disable
    15, .engineDisable 0, .doorbell 0, .rmtPcWrite 15 0, .channelRetired 15, .hngEnable 0, .hinge 2 hmsg 0, .receipt 0
    [] [], .change 0 [], .fill 511] : List Instr).all wellFormed = true := by
  decide +kernel

/-- Each command with its operands at the top of their ranges is well formed. -/
theorem smoke_wellFormed_5 : ([.keywayMessageLaunch false, .tillWordSent 3, .pulseOutputEdge 2 7, .headerVerify ⟨true,
    3, true, true, 0, false, 0, 0, 0⟩, .sectionCheck ⟨0, false, true, true, true, []⟩, .arbAdvance 0, .controlMessage
    ⟨0, 0, 0, [], true⟩ [], .setTime ⟨0, 0, 0, [], true⟩, .mgmtQuery ⟨0, 0, 0, [], true⟩ [], .update ⟨0, 0, 0, [],
    true⟩ 4294967295 3 [], .restart ⟨0, 0, 0, [], true⟩, .hspiPostedWriteError 4294967295, .braceState 0,
    .hostSupervisorReset 0, .hostTemperatureMeasurement 0, .fieldTemperatureMeasurement 0, .scrubPeriod [] [],
    .fieldSupplyBelowWarning 0, .announceReceiptTimeout 1, .disqualification 7, .announce 16383 0 0 0 0 0, .claim
    16383 1 0 [], .streams 16383 [], .query 0 0 [], .reply 0 [], .leave 16383, .claimTimeout 1, .recordExpiry 16383,
    .syncInterval 2, .fieldScrub [], .stewardRingPlaceFreed 3, .pcsCodeError 3, .tcntLoRead, .kwyFlogRead,
    .hostSupplyGood, .bootRetry, .serviceLevel2, .arbFusesBlown, .xspEraseSector, .xspProgramPage, .hspiStatus,
    .hspiSync, .hspiId, .hspiReset, .hspiCsNRise, .braceExit, .hostPinReset, .prsntNHigh, .prsntNRelease,
    .fprsntNHigh, .fprsntNRelease, .hostInternalReset, .lockstepMismatch, .stewardReset, .stewardRuntimeRestart,
    .watchdogExpiry, .ledgerClearComplete, .fieldWarningEnd, .fieldSupplyReset, .fieldSupplyGood] : List Instr).all
    wellFormed = true := by
  decide +kernel

/-- Each command with its operands at the top of their ranges is well formed. -/
theorem smoke_wellFormed_6 : ([.rootLock, .rootLossOfLock, .xoFailure, .lanesAligned false, .laneClockLoss,
    .fieldClockSwitch, .cmdTimeout, .blockMissing, .fieldFolioStart, .autonomyEntry, .autonomyExit, .fhbloss,
    .strongboxLoadEnd, .toneBurstEnd, .sbxEraseSector, .sbxProgramPage, .sbxCommandDone, .avoidanceRunComplete,
    .f0BackoffEnd, .dvtRelease, .junctionDone, .folioStart, .entryCut, .mixSlotStart, .remixEnd, .postingCut,
    .waitingBeat, .changeAccept, .receiptMissing, .changePerform, .heartbeatLoss, .split, .give, .hngReturn,
    .releaseSwitchOpen, .releaseHswtElapsed, .periodicAnnounce, .claimInterval, .streamsSlot, .rstNRelease,
    .querySlot] : List Instr).all wellFormed = true := by
  decide +kernel

/-- Each check refuses an operand just outside its range. -/
theorem smoke_illFormed_1 : ([.registerWrite .stw 4294967296 0, .registerWrite .stw 2 0, .rcRead 4294967296, .rcRead
    2, .clhTransaction .stw 0 false 4294967296 1 1 [] [] .none, .burstGrant 8, .lockTimeout 2, .bistEnd 16, .hspiWrite
    4294967296 [] none, .hspiRead 4294967296 0, .domainSwitchComplete 16, .trainingComplete false 65536, .block
    ⟨false, 256, 0, 0, [], 0⟩, .block ⟨false, 0, 65536, 0, [], 0⟩, .block ⟨false, 0, 0, 65536, [], 0⟩, .proxyAccess
    .stw false 4294967296 0, .proxyAccess .stw false 2 0, .playerGo 8 0, .playerStop 8 0, .overrideRepeat 32, .start
    32, .stop 32, .clear 32, .startSequence 32, .enableTimeElapsed 32, .hold50Complete 32, .rampInComplete 32,
    .stopRampOutComplete 32, .stopHold50Complete 32, .stopEnableTimeElapsed 32, .carrierPeriod 32, .boostPeriod 16 0
    0, .hswtElapsed 32, .ilimCrossing 32 0 0, .iscCrossing 32 0, .fltAssert 32, .lineOverVoltage 32 0, .retry 32,
    .probeComplete 32, .dcOffset 32 0, .ntcWarning 8 0, .ntcTrip 8 0, .thermalRestore 8 0, .boostOverCurrent 16 0,
    .boostOcPersist 16, .boostRetry 16, .boostOverVoltage 16 0, .railOverVoltage 16 0, .impedanceEstimate 32 [] [],
    .pilotStart 32, .f0FrameReceived ⟨64, true, false, 281474976710656, 0, none, 0, []⟩, .f0FrameReceived ⟨64, true,
    false, 0, 281474976710656, none, 0, []⟩, .f0FrameReceived ⟨64, true, false, 0, 0, none, 65536, []⟩,
    .f0FrameReceived ⟨64, true, false, 0, 0, some 65536, 0, []⟩, .macCfgWrite 4 0, .portLinkUp 4, .portLinkDown 4
    false false, .frameReceived 4 (frame 65535 []) 7, .frameReceived 3 (frame 65535 []) 8, .frameOffered 4 7 (frame
    65535 [])] : List Instr).all (fun i => !wellFormed i) = true := by
  decide +kernel

/-- Each check refuses an operand just outside its range. -/
theorem smoke_illFormed_2 : ([.frameOffered 3 8 (frame 65535 []), .portTransmit 4 7, .portTransmit 3 8,
    .subscriptionEnable 512 0, .transmitStreamEnable 512 0, .aes67StreamEnable false 16 0, .streamLoss 512,
    .rateCommit 3 0, .rateTakesEffect 3, .set 3, .step 3, .slew 3, .cancel 3, .slewDone 3, .ptpMessage 2 ⟨0, true, 4,
    6, 0, 0⟩, .firstRunStart 64 255, .firstRunStart 63 256, .rerunStart 63 256, .stfError 4294967296, .nop 64 false
    18446744073709551615, .nop 63 false 18446744073709551616, .add 63 ⟨true, false, 4⟩ ⟨31, 31, 31, 31⟩, .add 63
    ⟨false, false, 3⟩ ⟨32, 0, 0, 0⟩, .add 63 ⟨false, false, 3⟩ ⟨0, 32, 0, 0⟩, .add 63 ⟨false, false, 3⟩ ⟨0, 0, 32, 0⟩,
    .add 63 ⟨false, false, 3⟩ ⟨0, 0, 0, 32⟩, .addi 63 ⟨false, false, 3⟩ ⟨32, 0, 0⟩, .addi 63 ⟨false, false, 3⟩ ⟨0, 32,
    0⟩, .addi 63 ⟨false, false, 3⟩ ⟨0, 0, 512⟩, .addi 63 ⟨false, false, 3⟩ ⟨0, 0, -513⟩, .mul 63 ⟨false, false, 3⟩ ⟨8,
    0, 0, 0⟩, .mul 63 ⟨false, false, 3⟩ ⟨0, 32, 0, 0⟩, .mul 63 ⟨false, false, 3⟩ ⟨0, 0, 32, 0⟩, .mul 63 ⟨false, false,
    3⟩ ⟨0, 0, 0, 128⟩, .rnd 63 ⟨false, false, 3⟩ ⟨32, 0, 0, 0⟩, .rnd 63 ⟨false, false, 3⟩ ⟨0, 8, 0, 0⟩, .rnd 63
    ⟨false, false, 3⟩ ⟨0, 0, 64, 0⟩, .rnd 63 ⟨false, false, 3⟩ ⟨0, 0, 0, 64⟩, .sinit 63 ⟨false, false, 3⟩ ⟨32, 0, 0,
    0⟩, .sinit 63 ⟨false, false, 3⟩ ⟨0, 32, 0, 0⟩, .sinit 63 ⟨false, false, 3⟩ ⟨0, 0, 512, 0⟩, .sinit 63 ⟨false,
    false, 3⟩ ⟨0, 0, 0, 2⟩, .ldw 63 ⟨false, false, 3⟩ ⟨32, 0, 0, 0⟩, .ldw 63 ⟨false, false, 3⟩ ⟨0, 8, 0, 0⟩, .ldw 63
    ⟨false, false, 3⟩ ⟨0, 0, 4, 0⟩, .ldw 63 ⟨false, false, 3⟩ ⟨0, 0, 0, 2048⟩, .str 63 ⟨false, false, 3⟩ ⟨64, 0, 0, 0,
    0⟩, .str 63 ⟨false, false, 3⟩ ⟨0, 8, 0, 0, 0⟩, .str 63 ⟨false, false, 3⟩ ⟨0, 0, 8, 0, 0⟩, .str 63 ⟨false, false,
    3⟩ ⟨0, 0, 0, 4, 0⟩, .str 63 ⟨false, false, 3⟩ ⟨0, 0, 0, 0, 128⟩, .ldf 63 ⟨false, false, 3⟩ ⟨32, 0, 0⟩, .ldf 63
    ⟨false, false, 3⟩ ⟨0, 32, 0⟩, .movr 63 ⟨false, false, 3⟩ ⟨64, 0, 0⟩, .movr 63 ⟨false, false, 3⟩ ⟨0, 64, 0⟩, .movr
    63 ⟨false, false, 3⟩ ⟨0, 0, 1024⟩, .movc 63 ⟨false, false, 3⟩ ⟨2, 0, 0, 0⟩, .movc 63 ⟨false, false, 3⟩ ⟨0, 16, 0,
    0⟩, .movc 63 ⟨false, false, 3⟩ ⟨0, 0, 32, 0⟩, .movc 63 ⟨false, false, 3⟩ ⟨0, 0, 0, 4096⟩] : List Instr).all (fun i
    => !wellFormed i) = true := by
  decide +kernel

/-- Each check refuses an operand just outside its range. -/
theorem smoke_illFormed_3 : ([.modi 63 ⟨false, false, 3⟩ 8 0, .loop 63 ⟨false, false, 3⟩ ⟨2, 0, 0, 0, 0⟩, .loop 63
    ⟨false, false, 3⟩ ⟨0, 2, 0, 0, 0⟩, .loop 63 ⟨false, false, 3⟩ ⟨0, 0, 256, 0, 0⟩, .loop 63 ⟨false, false, 3⟩ ⟨0, 0,
    0, 8, 0⟩, .loop 63 ⟨false, false, 3⟩ ⟨0, 0, 0, 0, 512⟩, .sig 63 ⟨false, false, 3⟩ 16, .evr 63 ⟨false, false, 3⟩
    64, .ld2i 63 ⟨4, 0, 0, 0, 0, 0, 0⟩, .ld2i 63 ⟨0, 8, 0, 0, 0, 0, 0⟩, .ld2i 63 ⟨0, 0, 512, 0, 0, 0, 0⟩, .ld2i 63 ⟨0,
    0, 0, 4, 0, 0, 0⟩, .ld2i 63 ⟨0, 0, 0, 0, 8, 0, 0⟩, .ld2i 63 ⟨0, 0, 0, 0, 0, -513, 0⟩, .ld2i 63 ⟨0, 0, 0, 0, 0, 0,
    2⟩, .ldi 63 64 0 0, .gainStoreWrite 4294967296 [], .rampTableWrite 4294967296 [], .ramptWrite 16 0, .excCfgWrite
    1280 0, .acquireLock 256, .inputLoss 256 0, .phaseError 256, .inputResume 256 0, .syncRatioCheck 1280 0,
    .dcfgWrite 2560 0, .dlyWrite 2560 0, .dlenWrite 2560 0, .limWrite 2560 false 0, .sapEnable 16 0, .slaveFrame 16 0
    [], .tillWordReceived 4 0 false, .tillHold 4 false, .tilWmWrite 4 0, .move 16, .remitLoop 16, .wait 16,
    .waitConditionMet 16, .signal 16, .link 16, .remitEnd 16, .rmtStart 16, .halt 16, .resume 16, .abort 16, .disable
    16, .rmtPcWrite 16 0, .channelRetired 16, .hinge 3 hmsg 0, .fill 512, .tillWordSent 4, .pulseOutputEdge 3 7,
    .pulseOutputEdge 2 8, .update ⟨0, 0, 0, [], true⟩ 4294967296 3 [], .update ⟨0, 0, 0, [], true⟩ 4294967295 4 [],
    .hspiPostedWriteError 4294967296, .announceReceiptTimeout 2, .disqualification 8, .announce 16384 0 0 0 0 0,
    .claim 16384 1 0 []] : List Instr).all (fun i => !wellFormed i) = true := by
  decide +kernel

/-- Each check refuses an operand just outside its range. -/
theorem smoke_illFormed_4 : ([.claim 16383 2 0 [], .streams 16384 [], .leave 16384, .claimTimeout 2, .recordExpiry
    16384, .syncInterval 3, .stewardRingPlaceFreed 4, .pcsCodeError 4, .sinkChainGroup ⟨64, [], []⟩, .clhTransaction
    .stw 0 false 0 3 1 [] [] .none, .clhTransaction .stw 0 false 0 4 0 [] [] .none, .clhTransaction .stw 0 true 0 4 1
    [0, 0, 0] [] .none, .clhTransaction .stw 0 true 0 1 1 [0] [true, true] .none, .clhTransaction .stw 0 false 0 1 1
    [0] [] .none] : List Instr).all (fun i => !wellFormed i) = true := by
  decide +kernel

/-! ### States and operands that meet the hypotheses of each statement -/

theorem witness_RegisterAccess :
    (let s : State := live.setReg 0x60020004 0x5
     let a := 0x60020004
     let v : Word := 0xFFFFFFFF
     s.hostLive = true ∧ plainBlock a ∧ (regSpec? a).isSome = true ∧ s.accessCause .stw true a 4 1 = 0 ∧
     wellFormed (.registerWrite .stw a v) = true) ∧
    (let s : State := live
     let a := Reg.DIS_CFG
     let v : Word := 1
     s.hostLive = true ∧ plainBlock a ∧ (regSpec? a).isSome = true ∧ s.accessCause .stw true a 4 1 = 0 ∧
     wellFormed (.registerWrite .stw a v) = true) ∧
    (let s : State := live
     let a := 0x6002FFFC
     s.hostLive = true ∧ singleWord a = true ∧ s.accessCause .stw true a 4 1 ≠ 0 ∧
     wellFormed (.registerWrite .stw a 1) = true) ∧
    (let s : State := live.setReg Reg.PST_CUT 0x1234
     let a := Reg.PST_CUT
     s.hostLive = true ∧ 0x60000000 ≤ a ∧ a < 0x60200000 ∧ s.accessCause .stw false a 4 1 = 0 ∧
     (regSpec? a).isSome = true ∧ a ∉ readsOtherwise ∧ wellFormed (.rcRead a) = true) ∧
    (let s : State := (live.setReg Reg.CLH_EVT 1).evt Reg.CLH_EVT 0
     let a := Reg.CLH_EVT
     let v : Word := 1
     s.hostLive = true ∧ plainBlock a ∧ (regSpec? a).isSome = true ∧ s.accessCause .stw true a 4 1 = 0 ∧
     wellFormed (.registerWrite .stw a v) = true) ∧
    (let s : State := { live with fuse := { Fuse.reset with variant := 2 } }
     s.isA = false ∧ wellFormed (.kwyFlogRead) = true) ∧
    (let a := 0x70000000
     let s : State := linked
     s.hostLive = true ∧ 0x70000000 ≤ a ∧ a < 0x70100000 ∧ wellFormed (.registerWrite .stw a 1) = true) ∧
    (let e : FaultRec := ⟨15, 31, 255, 255⟩
     let s : State := { live with kwy := { Kwy.reset with log := [e] } }
     s.isA = true ∧ s.kwy.log = e :: [] ∧ s.kwy.logOvf = false ∧ wellFormed (.kwyFlogRead) = true) := by
  iterate 7 refine ⟨by decide +kernel, ?_⟩
  decide +kernel

theorem witness_TcntLoReadLatches :
    (let s : State := { live with tim := { Tim.reset with tcnt := 0x123456789ABCDEF0 } }
     s.hostLive = true ∧ wellFormed (.tcntLoRead) = true) :=
  by decide +kernel

theorem witness_FabricTransactions :
    (let s : State := live
     let m := Master.net
     let id := 300
     let a := 0x40DFFFC0
     let size := 64
     let beats := 1
     s.hostLive = true ∧ s.underReset m (id % 256) = false ∧ s.accessCause m false a size beats = 0 ∧
     wellFormed (.clhTransaction m id false a size beats [] [] .none) = true) ∧
    (let x : Txn := readTxn .stw 3 0x40C00000 4 2 []
     let s : State := { (live.wrWord 0x40C00000 0x11223344) with clh := { Clh.reset with waiting := [x] } }
     s.hostLive = true ∧ fabricIdle s ∧ s.clh.waiting = [x] ∧ x.wr = false ∧ x.lock = .none ∧ x.target = 0 ∧
     0x40000000 ≤ x.addr ∧ x.addr < 0x40E00000 ∧ s.clh.lockV = none ∧
     s.accessCause x.m false x.addr x.size x.beats = 0 ∧
     (∀ i ∈ List.range (x.size * x.beats), s.unitHeld (x.addr + i) = false) ∧ wellFormed (.burstGrant 0) = true) ∧
    (let s : State := live
     let m := Master.net
     let id := 7
     let a := 0x40000002
     let size := 4
     let beats := 1
     s.hostLive = true ∧ s.underReset m (id % 256) = false ∧ s.accessCause m true a size beats ≠ 0 ∧
     wellFormed (.clhTransaction m id true a size beats [0, 0, 0, 0] [] .none) = true) ∧
    (let d : DoneTxn := ⟨readTxn .exc 255 0x40000000 4 1 [], .ok, [1, 2, 3, 4], false⟩
     let s : State := { live with clh := { Clh.reset with inflight := [d] } }
     s.hostLive = true ∧ (Master.exc = .stw ∨ Master.exc = .rmt ∨ Master.exc = .net ∨ Master.exc = .exc) ∧
     takeDone .exc 255 s.clh.inflight = some (d, []) ∧ s.beatWaits d.txn = false ∧ d.txn.lock = .none ∧
     d.discard = false ∧ s.clh.resetting = [] ∧ wellFormed (.transactionRetire .exc 255) = true) ∧
    (let l : Lock := ⟨.rmt, 0, 1, true, 0x01000000⟩
     let k := 1
     let s : State := { live with clock := 8192, clh := { Clh.reset with lockS := some l } }
     s.hostLive = true ∧ k < 2 ∧ s.clh.lockOf k = some l ∧ s.clh.inflight = [] ∧ s.clh.waiting = [] ∧
     l.since + 8192 ≤ s.clock ∧ wellFormed (.lockTimeout k) = true) ∧
    (let m := Master.tc0
     let s : State := { live with clh := { Clh.reset with resetting := [(m, [])], inflight := [⟨readTxn m 1 0x40000000 4 1 [], .ok, [], true⟩] } }
     s.hostLive = true ∧ m ≠ .hsp ∧ s.clh.resetting = [(m, [])] ∧ (∀ d ∈ s.clh.inflight, d.discard = true ∧
     d.txn.m = m) ∧ s.kwy.out = none ∧ wellFormed (.masterResetComplete m) = true) ∧
    (let x : Txn := ⟨.hsp, 0, true, 0x40000000, 4, 1, [1, 2, 3, 4], [], .none, 0⟩
     let d : DoneTxn := ⟨x, .ok, [], false⟩
     let s : State := { live with clh := { Clh.reset with inflight := [d] }, hsp := ⟨[(0x40000000, 0x04030201), (8, 9)], false⟩ }
     s.hostLive = true ∧ s.clh.inflight = [d] ∧ d.txn.m = .hsp ∧ d.txn.id = 0 ∧ d.txn.wr = true ∧
     d.txn.addr = 0x40000000 ∧ d.resp = .ok ∧ d.txn.lock = .none ∧ d.discard = false ∧ s.beatWaits d.txn = false ∧
     s.clh.resetting = [] ∧ s.hsp.posted = (0x40000000, 0x04030201) :: [(8, 9)] ∧
     wellFormed (.transactionRetire .hsp 0) = true) := by
  iterate 6 refine ⟨by decide +kernel, ?_⟩
  decide +kernel

theorem witness_HspiCommands :
    (let s : State := { live with clh := { Clh.reset with inflight := [⟨readTxn .hsp 1 0x40000000 4 1 [], .ok, [], false⟩] } }
     let a := 0xFFFFFFFC
     let w : Word := 5
     s.hostLive = true ∧ s.hsp.posted = [] ∧ s.outstanding .hsp ≠ 0 ∧ a < 4294967296 ∧
     wellFormed (.hspiWrite a [w] none) = true) ∧
    (let s : State := { live with clh := { Clh.reset with inflight := [⟨readTxn .hsp 1 0x40000000 4 1 [], .ok, [], false⟩] } }
     let ws : List Word := List.replicate 16 7
     s.hostLive = true ∧ s.hsp.posted = [] ∧ s.outstanding .hsp ≠ 0 ∧ ws.length ≤ 16 ∧ 61 ≤ 68 ∧
     68 < 5 + 4 * ws.length ∧ wellFormed (.hspiWrite 0 ws (some 68)) = true) ∧
    (let s : State := ({ live with boot := { Boot.reset with phase := .running } }.setReg Reg.SEC_BOOTST (wd (4 * 2 ^ 29))).wrWord 0x40DFFFFC 0x01020304
     let a := 0x40DFFFFC
     s.hostLive = true ∧ s.hsp.posted = [] ∧ s.underReset .hsp 0 = false ∧ s.lockedOut .hsp a = false ∧
     0x40000000 ≤ a ∧ a < 0x40E00000 ∧ s.accessCause .hsp false a 4 1 = 0 ∧
     (∀ i ∈ List.range 4, s.unitHeld (a + i) = false) ∧ wellFormed (.hspiRead a 1) = true) ∧
    (let s : State := { live with hsp := ⟨[(0, 0)], true⟩ }
     s.hostLive = true ∧ wellFormed (.hspiStatus) = true) ∧
    (let s : State := { live with hsp := ⟨[], true⟩ }
     s.hostLive = true ∧ s.hsp.posted = [] ∧ wellFormed (.hspiSync) = true) ∧
    (let s : State := live
     s.hostLive = true ∧ wellFormed (.hspiId) = true) ∧
    (let s : State := { live with clh := { Clh.reset with waiting := [readTxn .hsp 1 0x40000000 4 1 []] }, hsp := ⟨[(0, 0)], true⟩ }
     s.hostLive = true ∧ fabricIdle s ∧ wellFormed (.hspiReset) = true) ∧
    (let s : State := live
     s.hostLive = true ∧ wellFormed (.hspiCsNRise) = true) ∧
    (let a := 0x00000006
     let s : State := { live with hsp := ⟨[(a, 3)], false⟩ }
     s.hostLive = true ∧ s.hsp.posted = [(a, 3)] ∧ fabricIdle s ∧ s.clh.waiting = [] ∧
     s.rb Reg.HSP_ERRADDR 0 = false ∧ wellFormed (.hspiPostedWriteError a) = true) := by
  iterate 8 refine ⟨by decide +kernel, ?_⟩
  decide +kernel

theorem witness_BootAndFlash :
    (let s : State := { live with boot := { Boot.reset with phase := .header }, fuse := { Fuse.reset with arb := 127 } }
     let h : ImgHeader := ⟨true, 1, false, true, 127, false, 7, 9, 66060288⟩
     s.hostLive = true ∧ s.boot.phase = .header ∧ h.formatOk = true ∧ 6 ≤ h.nsect ∧ h.nsect ≤ 9 ∧ h.total ≤ 66060288 ∧
     h.variantMask.testBit (s.fuse.variant - 1) = true ∧ (s.fuse.keyhash = 0 ∨ h.keyHashOk = true) ∧ h.sigOk = true ∧
     s.fuse.arb ≤ h.svn ∧ wellFormed (.headerVerify h) = true) ∧
    (let h : ImgHeader := ⟨true, 1, true, true, 0, false, 7, 6, 4096⟩
     let s : State := { live with boot := { Boot.reset with phase := .sections, hdr := some h, seen := [1] } }
     let sec : ImgSection := ⟨2, false, true, true, true, [.reg (Reg.MAC_CFG 0) 1, .stop]⟩
     s.hostLive = true ∧ s.boot.phase = .sections ∧ s.boot.hdr = some h ∧ sec.typ = 2 ∧ s.sectionCode sec h = 0 ∧
     s.boot.seen.length + 1 ≠ h.nsect ∧ wellFormed (.sectionCheck sec) = true) ∧
    (let s : State := { live with boot := { Boot.reset with phase := .failed, retryAt := some 0 } }
     s.hostLive = true ∧ s.boot.phase = .failed ∧ s.boot.retryAt = some 0 ∧ 0 ≤ s.clock ∧
     wellFormed (.bootRetry) = true) ∧
    (let s : State := { live with boot := { Boot.reset with phase := .header } }
     let f := 15
     s.hostLive = true ∧ s.boot.phase = .header ∧ s.boot.bistDone = false ∧ s.boot.seen = [] ∧ f < 16 ∧
     wellFormed (.bistEnd f) = true) ∧
    (let s : State := ({ live with boot := { Boot.reset with phase := .running, placed := true, standalone := true } }.setReg Reg.SEC_BOOTST (wd (2 ^ 24))).setReg Reg.PST_CTRL 1
     s.hostLive = true ∧ s.runtime = true ∧ s.rf Reg.SEC_BOOTST 25 24 = 1 ∧ s.boot.placed = true ∧
     s.rb Reg.PST_CTRL 0 = true ∧ s.boot.standalone = true ∧ s.subsSettled = true ∧ s.boot.winner = none ∧
     wellFormed (.serviceLevel2) = true) ∧
    (let a := 0x00020000
     let s : State := { up with boot := { up.boot with slot := 1 } }.setReg Reg.XSP_ADDR (wd a)
     s.hostLive = true ∧ (s.reg Reg.XSP_ADDR).toNat = a ∧ a % 65536 = 0 ∧ a < s.flashSize ∧ s.xsp = Xsp.reset ∧
     s.braced = false ∧ s.xspRefuses ⟨true, a, []⟩ = false ∧ wellFormed (.xspEraseSector) = true) ∧
    (let a := 0x00020100
     let s : State := { up with boot := { up.boot with slot := 1 } }.setReg Reg.XSP_ADDR (wd a)
     s.hostLive = true ∧ (s.reg Reg.XSP_ADDR).toNat = a ∧ a % 256 = 0 ∧ a < s.flashSize ∧ s.xsp = Xsp.reset ∧
     s.braced = false ∧ s.xspRefuses ⟨false, a, s.pageBuf (Reg.XSP_BUF 0)⟩ = false ∧
     wellFormed (.xspProgramPage) = true) ∧
    (let a := 0x00020000
     let s : State := ({ up with xsp := ⟨some ⟨true, a, []⟩, []⟩ }.wrByte (flash + a) 7).wrByte (flash + a + 65536) 9
     s.hostLive = true ∧ s.xsp = ⟨some ⟨true, a, []⟩, []⟩ ∧ s.braced = false ∧ a + 65536 ≤ 268435456 ∧
     wellFormed (.xspCommandDone true) = true) := by
  iterate 7 refine ⟨by decide +kernel, ?_⟩
  decide +kernel

theorem witness_SlotSelectionAndRollback :
    (let s : State := { live with boot := { Boot.reset with phase := .header, left := [1] } }
     let h : ImgHeader := ⟨true, 3, true, false, 0, false, 7, 6, 4096⟩
     s.hostLive = true ∧ s.boot.phase = .header ∧ h.formatOk = true ∧ 6 ≤ h.nsect ∧ h.nsect ≤ 9 ∧ h.total ≤ 66060288 ∧
     h.variantMask.testBit (s.fuse.variant - 1) = true ∧ (s.fuse.keyhash = 0 ∨ h.keyHashOk = true) ∧ h.sigOk = false ∧
     s.boot.slot = 0 ∧ s.boot.written = [] ∧ s.boot.left = [1] ∧ wellFormed (.headerVerify h) = true) ∧
    (let s : State := { live with boot := { Boot.reset with phase := .header } }
     let h : ImgHeader := ⟨true, 3, true, false, 0, false, 7, 6, 4096⟩
     s.hostLive = true ∧ s.boot.phase = .header ∧ h.sigOk = false ∧ s.boot.left = [] ∧
     wellFormed (.headerVerify h) = true) ∧
    (let s : State := live.setReg Reg.SEC_BOOTST 127
     let v : Word := 127
     s.hostLive = true ∧ s.braced = false ∧ s.fuse.arb < fld v 6 0 ∧ fld v 6 0 ≤ s.rf Reg.SEC_BOOTST 6 0 ∧
     wellFormed (.arbAdvance v) = true) ∧
    (let s : State := live
     let v : Word := 1
     s.hostLive = true ∧ s.braced = false ∧ (fld v 6 0 ≤ s.fuse.arb ∨ s.rf Reg.SEC_BOOTST 6 0 < fld v 6 0) ∧
     wellFormed (.arbAdvance v) = true) ∧
    (let s : State := { live with pwr := { live.pwr with braceStart := some 0 } }
     let v : Word := 1
     s.hostLive = true ∧ s.braced = true ∧ wellFormed (.arbAdvance v) = true) ∧
    (let n := 5
     let s : State := { live with boot := { Boot.reset with arbBusy := some n } }
     s.hostLive = true ∧ s.boot.arbBusy = some n ∧ wellFormed (.arbFusesBlown) = true) := by
  iterate 5 refine ⟨by decide +kernel, ?_⟩
  decide +kernel

theorem witness_ManagementMessages :
    (let s : State := { up with boot := { up.boot with mkey := some [1], lastSeq := some 4 }, tim := { Tim.reset with tvalid := true } }
     let m : MgmtMsg := ⟨0xFF, 5, 30, [], true⟩
     let a := Reg.DIS_CFG
     let v : Word := 1
     s.hostLive = true ∧ s.runtime = true ∧ s.mgmtOk m = true ∧ classOf m.mtype = .control ∧ s.paired = false ∧
     plainBlock a ∧ (regSpec? a).isSome = true ∧ s.accessCause .stw true a 4 1 = 0 ∧
     wellFormed (.controlMessage m [.write a v]) = true) ∧
    (let s : State := { up with boot := { up.boot with mkey := some [1], lastSeq := some 4 }, tim := { Tim.reset with tvalid := true } }
     let m : MgmtMsg := ⟨0xFF, 5, 30, [], true⟩
     s.hostLive = true ∧ s.runtime = true ∧ s.mgmtOk m = true ∧ classOf m.mtype = .control ∧ s.paired = false ∧
     wellFormed (.controlMessage m [.shutDown]) = true) ∧
    (let s : State := { up with boot := { up.boot with mkey := some [1] } }
     let m : MgmtMsg := ⟨0x10, 0, 0, [0, 0, 0, 0, 0, 9, 0, 0, 0, 8], true⟩
     s.hostLive = true ∧ s.runtime = true ∧ s.mgmtOk m = true ∧ classOf m.mtype = .setTime ∧ s.tim.ptpA.lock = false ∧
     s.tim.ptpB.lock = false ∧ wellFormed (.setTime m) = true) ∧
    (let s : State := { up with boot := { up.boot with mkey := some [1] } }
     let m : MgmtMsg := ⟨0x1FF, 0, 0, [], true⟩
     let a := Reg.SEC_BOOTST
     s.hostLive = true ∧ s.runtime = true ∧ s.mgmtOk m = true ∧ classOf m.mtype = .query ∧ 0x60000000 ≤ a ∧
     a < 0x60200000 ∧ s.accessCause .stw false a 4 1 = 0 ∧ wellFormed (.mgmtQuery m [a]) = true) ∧
    (let s : State := { up with boot := { up.boot with mkey := some [1] }, tim := { Tim.reset with tvalid := true } }
     let m : MgmtMsg := ⟨0x200, 0, 0, [], true⟩
     let a := 0x00020000
     s.hostLive = true ∧ s.runtime = true ∧ s.mgmtOk m = true ∧ classOf m.mtype = .update ∧ a % 65536 = 0 ∧
     a < s.flashSize ∧ a < 268435456 ∧ s.xsp = Xsp.reset ∧ s.braced = false ∧ s.xspRefuses ⟨true, a, []⟩ = false ∧
     wellFormed (.update m a 0 []) = true) ∧
    (let s : State := { up with boot := { up.boot with mkey := some [1] }, tim := { Tim.reset with tvalid := true } }
     let m : MgmtMsg := ⟨0x300, 0, 0, [], true⟩
     s.hostLive = true ∧ s.runtime = true ∧ s.mgmtOk m = true ∧ classOf m.mtype = .restart ∧
     wellFormed (.restart m) = true) ∧
    (let s : State := { up with boot := { up.boot with mkey := some [1] }, tim := { Tim.reset with tvalid := true } }
     let m : MgmtMsg := ⟨1, 0, 31, [], true⟩
     s.hostLive = true ∧ s.runtime = true ∧ s.mgmtOk m = false ∧ wellFormed (.controlMessage m []) = true) := by
  iterate 6 refine ⟨by decide +kernel, ?_⟩
  decide +kernel

theorem witness_HostStartsAndResets :
    (let s : State := { State.reset with pwr := { Pwr.reset with hold := ⟨true, false, false, false, false⟩ } }
     heldOnlyBy s ⟨true, false, false, false, false⟩ ∧ wellFormed (.hostSupplyGood) = true) ∧
    (let s : State := { State.reset with pwr := { Pwr.reset with hold := ⟨false, true, false, false, false⟩ } }
     heldOnlyBy s ⟨false, true, false, false, false⟩ ∧ wellFormed (.rstNRelease) = true) ∧
    (let s : State := { State.reset with pwr := { Pwr.reset with hold := ⟨false, false, true, false, false⟩ } }
     heldOnlyBy s ⟨false, false, true, false, false⟩ ∧ wellFormed (.prsntNRelease) = true) ∧
    (let s : State := { State.reset with pwr := { Pwr.reset with hold := ⟨true, true, false, false, false⟩ } }
     heldOnlyBy s ⟨true, true, false, false, false⟩ ∧ wellFormed (.hostSupplyGood) = true) ∧
    (let s : State := { State.reset with pwr := { Pwr.reset with hold := ⟨false, false, false, false, true⟩ } }
     heldOnlyBy s ⟨false, false, false, false, true⟩ ∧ wellFormed (.rootLock) = true) ∧
    (let k := 31
     let s : State := ((live.wrByte 0x011FF000 7).wrByte 0x40000000 7).wrByte 0x80000000 7
     s.pwr.hold.supply = false ∧ s.xsp.run = none ∧ wellFormed (.hostSupervisorReset k) = true) ∧
    (let s : State := ((live.wrByte 0x011FF000 7).wrByte 0x40000000 7).wrByte 0x80000000 7
     s.hostLive = true ∧ s.xsp.run = none ∧ wellFormed (.hostPinReset) = true) ∧
    (let s : State := live
     s.hostLive = true ∧ s.xsp.run = none ∧ wellFormed (.prsntNHigh) = true) ∧
    (let s : State := { live with pwr := { live.pwr with intReset := some (5, 0) } }
     s.hostLive = true ∧ s.pwr.intReset = some (5, 0) ∧ 0 ≤ s.clock ∧ 5 ≠ 6 ∧ 5 ≠ 7 ∧ 5 ≠ 8 ∧
     wellFormed (.hostInternalReset) = true) := by
  iterate 8 refine ⟨by decide +kernel, ?_⟩
  decide +kernel

theorem witness_StewardAndWatchdog :
    (let s : State := live
     let v : Word := 0xA501
     s.hostLive = true ∧ fld v 15 8 = 0xA5 ∧ bit v 0 = true ∧ s.pwr.intReset = none ∧
     wellFormed (.hostResetRequest v) = true) ∧
    (let s : State := live
     let v : Word := 0xA502
     s.hostLive = true ∧ fld v 15 8 = 0xA5 ∧ bit v 0 = false ∧ bit v 1 = true ∧
     wellFormed (.stwResetRequest v) = true) ∧
    (let s : State := live
     let v : Word := 0xA401
     s.hostLive = true ∧ fld v 15 8 ≠ 0xA5 ∧ wellFormed (.hostResetRequest v) = true) ∧
    (let s : State := live
     s.hostLive = true ∧ s.pwr.stwDown = false ∧ wellFormed (.lockstepMismatch) = true) ∧
    (let s : State := { live with pwr := { live.pwr with stwReq := true } }
     s.hostLive = true ∧ s.pwr.stwReq = true ∧ wellFormed (.stewardReset) = true) ∧
    (let s : State := { live with pwr := { live.pwr with stwDown := true } }
     s.hostLive = true ∧ s.pwr.stwDown = true ∧ s.ldg.restore = [] ∧ s.tel.restore = [] ∧
     wellFormed (.stewardRuntimeRestart) = true) ∧
    (let s : State := live.setReg Reg.SYS_WDOG (wd (2 ^ 31 + 10))
     let v : Word := 0xA5
     s.hostLive = true ∧ fld v 7 0 = 0xA5 ∧ s.rb Reg.SYS_WDOG 31 = true ∧ wellFormed (.watchdogKick v) = true) ∧
    (let s : State := { live with pwr := { live.pwr with wdDeadline := some 0 } }.setReg Reg.SYS_WDOG (wd (2 ^ 31 + 10))
     s.hostLive = true ∧ s.rb Reg.SYS_WDOG 31 = true ∧ s.rb Reg.SYS_WDOG 30 = false ∧ s.pwr.wdDeadline = some 0 ∧
     0 ≤ s.clock ∧ s.pwr.wdLast = none ∧ wellFormed (.watchdogExpiry) = true) := by
  iterate 7 refine ⟨by decide +kernel, ?_⟩
  decide +kernel

theorem witness_BraceDomainsTemperatures :
    (let s : State := live
     let m := 127
     s.hostLive = true ∧ m % 64 ≠ 0 ∧ s.braced = false ∧ wellFormed (.braceState m) = true) ∧
    (let s : State := { live with pwr := { live.pwr with braceStart := some 0 } }
     s.hostLive = true ∧ s.pwr.braceStart = some 0 ∧ s.pwr.heldCtrl = [] ∧ s.boot.arbHeld = [] ∧ s.xsp.waiting = [] ∧
     s.boot.phase ≠ .applying ∧ wellFormed (.braceExit) = true) ∧
    (let s : State := { live with pwr := { live.pwr with braceStart := some 0 } }
     let v : Word := 255
     s.hostLive = true ∧ s.braced = true ∧ wellFormed (.pwrCtrlWrite v) = true) ∧
    (let s : State := up.setReg Reg.PWR_CTRL 0x3F
     let v : Word := 0xBF
     s.hostLive = true ∧ s.braced = false ∧ s.rf Reg.PWR_CTRL 7 0 < 128 ∧ fld v 7 0 = s.rf Reg.PWR_CTRL 7 0 + 128 ∧
     s.pwr.switching = [] ∧ wellFormed (.pwrCtrlWrite v) = true) ∧
    (let s : State := { up with pwr := { up.pwr with switching := [(8, (true, 0))] } }
     s.hostLive = true ∧ s.pwr.switching = [(8, (true, 0))] ∧ s.boot.phase ≠ .applying ∧
     wellFormed (.domainSwitchComplete 8) = true) ∧
    (let s : State := { up with pwr := { up.pwr with ldgClearing := true } }.setReg Reg.PWR_STATUS 0x10
     s.hostLive = true ∧ s.pwr.ldgClearing = true ∧ s.domOn 5 = true ∧ wellFormed (.ledgerClearComplete) = true) ∧
    (let s : State := live
     let tj : Int := 520
     s.hostLive = true ∧ 520 ≤ tj ∧ tj < 580 ∧ wellFormed (.hostTemperatureMeasurement tj) = true) ∧
    (let s : State := live
     let tj : Int := 579
     s.hostLive = true ∧ 520 ≤ tj ∧ tj < 580 ∧ wellFormed (.hostTemperatureMeasurement tj) = true) ∧
    (let s : State := live
     let a := 0x210FFFFF
     s.hostLive = true ∧ 0x20000000 ≤ a ∧ a < 0x21100000 ∧ wellFormed (.scrubPeriod [a] []) = true) ∧
    (let s : State := live
     s.hostLive = true ∧ s.pwr.intReset = none ∧ wellFormed (.rootLossOfLock) = true) ∧
    (let s : State := live
     s.hostLive = true ∧ wellFormed (.rootLock) = true) ∧
    (let s : State := live
     s.hostLive = true ∧ wellFormed (.xoFailure) = true) := by
  iterate 11 refine ⟨by decide +kernel, ?_⟩
  decide +kernel

theorem witness_FieldDieSupervision :
    (let s : State := live.setReg Reg.FPWM_HSW 5
     s.isA = true ∧ s.pwr.fSupply = false ∧ wellFormed (.fieldSupplyReset) = true) ∧
    (let s : State := live.setReg Reg.FPWM_HSW 5
     s.isA = true ∧ s.pwr.fPin = false ∧ wellFormed (.fprsntNHigh) = true) ∧
    (let s : State := { live with pwr := { live.pwr with fSupply := true } }
     s.isA = true ∧ s.pwr.fSupply = true ∧ s.pwr.fPin = false ∧ s.pwr.fHot = false ∧
     wellFormed (.fieldSupplyGood) = true) ∧
    (let s : State := { live with pwr := { live.pwr with fPin := true } }
     s.isA = true ∧ s.pwr.fPin = true ∧ s.pwr.fSupply = false ∧ s.pwr.fHot = false ∧
     wellFormed (.fprsntNRelease) = true) ∧
    (let s : State := live
     let k := 2
     s.fieldLive = true ∧ k < 3 ∧ wellFormed (.fieldSupplyBelowWarning k) = true) ∧
    (let s : State := live.setReg Reg.FSYS_SUP 0x87000000
     s.fieldLive = true ∧ wellFormed (.fieldWarningEnd) = true) ∧
    (let s : State := live
     let tj : Int := 560
     s.fieldLive = true ∧ 560 ≤ tj ∧ tj < 620 ∧ wellFormed (.fieldTemperatureMeasurement tj) = true) ∧
    (let s : State := (live.wrByte (strongbox + 15) 7).wrByte (strongbox + 16) 7
     let a := 9
     s.fieldLive = true ∧ wellFormed (.fieldScrub [a]) = true) := by
  iterate 7 refine ⟨by decide +kernel, ?_⟩
  decide +kernel

theorem witness_ViewCommands :
    (let k := 2
     let s : State := (({ live with tim := { Tim.reset with tcnt := 1000, vl := { View.reset with slew := 77, slewAt := 3 } } }.setReg (Reg.TIM_ADJ 2) 5).setReg (Reg.TIM_NS 2) 9)
     s.hostLive = true ∧ k < 3 ∧ s.tim.ptpA.master = false ∧ s.tim.ptpB.master = false ∧ wellFormed (.set k) = true) ∧
    (let k := 0
     let s : State := live.setReg (Reg.TIM_ADJ 0) 5
     s.hostLive = true ∧ k < 3 ∧ s.tim.ptpA.master = false ∧ s.tim.ptpB.master = false ∧ wellFormed (.step k) = true) ∧
    (let k := 0
     let s : State := live.setReg (Reg.TIM_ADJ 0) 5
     s.hostLive = true ∧ k < 3 ∧ s.tim.ptpA.master = false ∧ s.tim.ptpB.master = false ∧ wellFormed (.slew k) = true) ∧
    (let k := 1
     let s : State := { live with tim := { Tim.reset with tcnt := 1000, vb := { View.reset with slew := 77 } } }
     s.hostLive = true ∧ k < 3 ∧ s.tim.ptpA.master = false ∧ s.tim.ptpB.master = false ∧
     wellFormed (.cancel k) = true) ∧
    (let k := 1
     let s : State := { live with tim := { Tim.reset with tcnt := 1000000, vb := { View.reset with slew := 1 } } }
     s.hostLive = true ∧ k < 3 ∧ s.tim.ptpA.master = false ∧ s.tim.ptpB.master = false ∧ (s.tim.view k).slew ≠ 0 ∧
     ((s.tim.view k).rebase s.tick).slew = 0 ∧ wellFormed (.slewDone k) = true) ∧
    (let k := 0
     let s : State := live.setReg (Reg.TIM_RATE_LO 0) 0xFCCCCCCD
     let v : Word := 0xF9
     let r := fld v 15 0 * 4294967296 + (s.reg (Reg.TIM_RATE_LO k)).toNat
     s.hostLive = true ∧ k < 3 ∧ s.tim.ptpA.master = false ∧ s.tim.ptpB.master = false ∧
     r = fld v 15 0 * 4294967296 + (s.reg (Reg.TIM_RATE_LO k)).toNat ∧ ratePpmLo ≤ r ∧ r ≤ ratePpmHi ∧
     wellFormed (.rateCommit k v) = true) ∧
    (let k := 0
     let s : State := live.setReg (Reg.TIM_RATE_LO 0) 0x03333334
     let v : Word := 0xFA
     s.hostLive = true ∧ k < 3 ∧ s.tim.ptpA.master = false ∧ s.tim.ptpB.master = false ∧
     ratePpmHi < fld v 15 0 * 4294967296 + (s.reg (Reg.TIM_RATE_LO k)).toNat ∧ wellFormed (.rateCommit k v) = true) ∧
    (let k := 2
     let s : State := { live with tim := { Tim.reset with tcnt := 10, act := 2, junc := 5000, vl := { View.reset with pend := some (8, 0xFA00000001), slew := 100000000 } } }
     s.hostLive = true ∧ k < 3 ∧ s.tim.ptpA.master = false ∧ s.tim.ptpB.master = false ∧
     (s.tim.view k).pend = some (8, 0xFA00000001) ∧ 8 ≤ s.tick ∧ s.tim.act < 3 ∧
     wellFormed (.rateTakesEffect k) = true) ∧
    (let s : State := ({ up with tim := { Tim.reset with tcnt := 1000, ptpB := { Ptp.reset with master := true } } }.setReg (Reg.TIM_NS 2) 9)
     s.hostLive = true ∧ s.runtime = true ∧ (s.tim.ptp 1).master = true ∧ wellFormed (.set 2) = true) := by
  iterate 8 refine ⟨by decide +kernel, ?_⟩
  decide +kernel

theorem witness_SystemTimeCommands :
    (let s : State := live
     let v : Word := 1
     s.hostLive = true ∧ fld v 1 0 ≠ 3 ∧ fld v 1 0 ≠ s.tim.act ∧ wellFormed (.activeWrite v) = true) ∧
    (let s : State := live
     let v : Word := 4
     s.hostLive = true ∧ bit v 2 = true ∧ wellFormed (.jclr v) = true) ∧
    (let s : State := { live with tim := { Tim.reset with tcnt := 12345 } }
     let v : Word := 1
     s.hostLive = true ∧ bit v 0 = true ∧ wellFormed (.snap v) = true) ∧
    (let s : State := { live with tim := { Tim.reset with tcnt := 100000000, junc := -1 } }
     s.hostLive = true ∧ s.tim.junc ≠ 0 ∧ s.tim.juncAt8 s.tim.now8 = 0 ∧ wellFormed (.junctionDone) = true) ∧
    (let s : State := live
     let o := 2
     s.hostLive = true ∧ o < 3 ∧ wellFormed (.align (bitw o)) = true) ∧
    (let s : State := live.setReg Reg.TIM_PULSE 0
     let o := 2
     s.hostLive = true ∧ o < 3 ∧ s.rf Reg.TIM_PULSE 2 0 = 0 ∧ wellFormed (.pulseEnable (bitw o)) = true) ∧
    (let e : Nat := 7
     let s : State := { live with tim := { Tim.reset with tcnt := 12345, pps := { Pulse.reset with last := some (eighthAt (8 * 12345 + 7) - live.pulseTicks 0) } } }.setReg Reg.TIM_PULSE 1
     s.hostLive = true ∧ s.pulseDue 0 (s.tim.now8 + e) = some (eighthAt (8 * 12345 + 7)) ∧
     wellFormed (.pulseOutputEdge 0 e) = true) ∧
    (let s : State := live.setReg Reg.TIM_PULSE 0
     s.hostLive = true ∧ s.pulseDue 2 (s.tim.now8 + 7) = none ∧ wellFormed (.pulseOutputEdge 2 7) = true) := by
  iterate 7 refine ⟨by decide +kernel, ?_⟩
  decide +kernel

theorem witness_PtpServoAndMessages :
    (let i := 1
     let m : PtpSync := ⟨1000001 * 65536, true, 1, 6, 0, 0⟩
     let s : State := up
     s.hostLive = true ∧ s.runtime = true ∧ i < 2 ∧ m.isSync = true ∧ m.pstate ≠ 4 ∧ (s.tim.ptp i).master = false ∧
     (s.tim.ptp i).lock = false ∧ 1000 * 65536 ≤ m.offset ∧ (s.boot.stepth : Int) * 65536 < m.offset ∧
     wellFormed (.ptpMessage i m) = true) ∧
    (let i := 0
     let s : State := { up with tim := { Tim.reset with ptpA := { Ptp.reset with lock := true } } }
     s.hostLive = true ∧ s.runtime = true ∧ i < 2 ∧ wellFormed (.announceReceiptTimeout i) = true) ∧
    (let s : State := live
     s.runtime = false ∧ wellFormed (.ptpMessage 0 ⟨1000001 * 65536, true, 1, 6, 0, 0⟩) = true) ∧
    (let s : State := up.setReg Reg.PWR_STATUS 64
     s.hostLive = true ∧ s.runtime = true ∧ s.portOn 3 = true ∧
     ((s.port 3).queue.filter (fun e => e.1 == 7)).length < 64 ∧ wellFormed (.syncInterval 2) = true) ∧
    (let i := 1
     let s : State := { up with tim := { Tim.reset with ptpB := { Ptp.reset with master := true } } }
     s.hostLive = true ∧ s.runtime = true ∧ i < 2 ∧ (s.tim.ptp i).master = true ∧
     ((s.port i).queue.filter (fun e => e.1 == 7)).length < 64 ∧ wellFormed (.syncInterval i) = true) := by
  iterate 4 refine ⟨by decide +kernel, ?_⟩
  decide +kernel

theorem witness_RscCommands :
    (let s : State := live
     let ms : List RscMeas := [⟨0, true⟩, ⟨0, true⟩, ⟨0, true⟩, ⟨0, true⟩, ⟨0, true⟩]
     let k := 4
     s.hostLive = true ∧ (k = 4 ∨ k = 5) ∧ s.rsc.cands.length = 8 ∧ (ms.getD k ⟨0, true⟩).los = true ∧
     wellFormed (.rscMeasurement ms) = true) ∧
    (let s : State := live
     let k := 6
     s.hostLive = true ∧ k < 7 ∧ s.rsc.cands.length = 8 ∧ wellFormed (.disqualification k) = true) ∧
    (let s : State := { live with rsc := { Rsc.reset with st := .buildout, new := 3 } }
     let ofs : Int := -5
     s.hostLive = true ∧ s.rsc.st = .buildout ∧ s.rsc.openHeld = false ∧
     wellFormed (.buildoutComplete ofs 60000) = true) ∧
    (let s : State := { live with rsc := { Rsc.reset with st := .holdover, ctl := 9 } }
     let v : Word := 0x00640903
     s.hostLive = true ∧ bit v 0 = true ∧ s.rsc.st = .holdover ∧ wellFormed (.rscOpen v) = true) ∧
    (let s : State := { live with rsc := { Rsc.reset with st := .opened, sel := 2 } }.setReg Reg.RSC_CTRL 0x00010003
     let v : Word := 0x00010001
     let ph : Int := 7
     s.hostLive = true ∧ bit v 0 = true ∧ s.rsc.st = .opened ∧ wellFormed (.rscClose v ph) = true) ∧
    (let s : State := { live with rsc := { Rsc.reset with ctl := 5, st := .locked, openHeld := true } }.setReg Reg.CLK_STATUS 0x300
     let v : Word := 0x00010000
     s.hostLive = true ∧ s.xoOk = true ∧ wellFormed (.rscFreerun v) = true) ∧
    (let s : State := { live with rsc := { Rsc.reset with st := .opened } }.setReg Reg.CLK_STATUS 0x300
     let v : Word := 0x7FFFFFFF
     s.hostLive = true ∧ s.rsc.st = .opened ∧ s.xoOk = true ∧ wellFormed (.ncoWrite v) = true) ∧
    (let s : State := live
     let v : Word := 5
     s.hostLive = true ∧ s.rsc.st ≠ .opened ∧ wellFormed (.ncoWrite v) = true) ∧
    (let s : State := { live with rsc := { Rsc.reset with ctl := 77, st := .locked } }.setReg Reg.CLK_STATUS 0x100
     let ms : List RscMeas := [⟨0, true⟩, ⟨0, false⟩]
     s.hostLive = true ∧ s.xoOk = false ∧ wellFormed (.rscMeasurement ms) = true) ∧
    (let s : State := { live with rsc := { Rsc.reset with st := .buildout, new := 3, openHeld := true } }
     s.hostLive = true ∧ s.rsc.st = .buildout ∧ s.rsc.openHeld = true ∧ wellFormed (.buildoutComplete 5 6) = true) ∧
    (let s : State := { live with rsc := { Rsc.reset with st := .buildout } }
     let v : Word := 0x00640903
     s.hostLive = true ∧ bit v 0 = true ∧ s.rsc.st = .buildout ∧ wellFormed (.rscOpen v) = true) := by
  iterate 10 refine ⟨by decide +kernel, ?_⟩
  decide +kernel

theorem witness_ChannelStartAndStop :
    (let c := 31
     let s : State := live
     s.fieldLive = true ∧ c < 32 ∧ s.claimed c = false ∧ (s.chan c).st = .off ∧ s.field.overTemp = false ∧
     wellFormed (.start c) = true) ∧
    (let c := 31
     let s : State := live.setChan 31 { Chan.reset with st := .run, ph := .playing, pwm := true }
     s.fieldLive = true ∧ c < 32 ∧ s.claimed c = false ∧ (s.chan c).st ≠ .off ∧ wellFormed (.start c) = true) ∧
    (let c := 31
     let s : State := live.setChan 31 { Chan.reset with st := .run, ph := .playing, pwm := true, pilot := true }
     s.fieldLive = true ∧ c < 32 ∧ s.claimed c = false ∧
     ((s.chan c).st = .start ∨ (s.chan c).st = .run ∨ (s.chan c).st = .probe) ∧ (s.chan c).ph = .playing ∧
     wellFormed (.stop c) = true) ∧
    (let c := 31
     let s : State := (live.setChan 31 { Chan.reset with st := .lockout }).setReg Reg.FPRO_LOCK 0x80000000
     s.fieldLive = true ∧ c < 32 ∧ s.claimed c = false ∧ (s.chan c).st = .lockout ∧ wellFormed (.clear c) = true) ∧
    (let c := 0
     let s : State := live
     s.fieldLive = true ∧ c < 32 ∧ s.claimed c = false ∧ (s.chan c).st ≠ .lockout ∧ wellFormed (.clear c) = true) ∧
    (let c := 0
     let s : State := live
     s.fieldLive = true ∧ c < 32 ∧ s.claimed c = false ∧ (s.chan c).st = .off ∧
     wellFormed (.takeoverStart (bitw c)) = true) ∧
    (let c := 0
     let s : State := live.setChan 0 { Chan.reset with st := .start, ph := .hswt, tko := true }
     s.fieldLive = true ∧ c < 32 ∧ s.claimed c = false ∧ (s.chan c).ph = .hswt ∧ wellFormed (.hswtElapsed c) = true) ∧
    (let c := 30
     let s : State := (live.setChan 30 { Chan.reset with st := .start, ph := .waitRail }).setBst 15 { Bst.reset with rail := 400 }
     s.fieldLive = true ∧ c < 32 ∧ s.claimed c = false ∧ (s.chan c).ph = .waitRail ∧ 400 ≤ (s.bst (c / 2)).rail ∧
     wellFormed (.startSequence c) = true) ∧
    (let c := 30
     let s : State := (live.setChan 30 { Chan.reset with st := .start, ph := .waitRail }).setBst 15 { Bst.reset with rail := 399 }
     s.fieldLive = true ∧ c < 32 ∧ s.claimed c = false ∧ (s.chan c).ph = .waitRail ∧ (s.bst (c / 2)).rail < 400 ∧
     wellFormed (.startSequence c) = true) ∧
    (let c := 5
     let s : State := live.setChan 5 { Chan.reset with st := .start, ph := .enable, en := true }
     s.fieldLive = true ∧ c < 32 ∧ s.claimed c = false ∧ (s.chan c).ph = .enable ∧ (s.chan c).en = true ∧
     wellFormed (.enableTimeElapsed c) = true) ∧
    (let c := 5
     let s : State := live.setChan 5 { Chan.reset with st := .stop, ph := .rampOut, en := true }
     s.fieldLive = true ∧ c < 32 ∧ s.claimed c = false ∧ (s.chan c).ph ≠ .enable ∧ (s.chan c).en = true ∧
     wellFormed (.enableTimeElapsed c) = true) ∧
    (let c := 5
     let s : State := live.setChan 5 { Chan.reset with st := .start, ph := .hold50, en := true, pwm := true }
     s.fieldLive = true ∧ c < 32 ∧ s.claimed c = false ∧ (s.chan c).ph = .hold50 ∧
     wellFormed (.hold50Complete c) = true) ∧
    (let c := 5
     let s : State := live.setChan 5 { Chan.reset with st := .start, ph := .rampIn, en := true, pwm := true, tko := true }
     s.fieldLive = true ∧ c < 32 ∧ s.claimed c = false ∧ (s.chan c).ph = .rampIn ∧ (s.chan c).st = .start ∧
     wellFormed (.rampInComplete c) = true) ∧
    (let c := 5
     let s : State := live.setChan 5 { Chan.reset with st := .probe, ph := .rampIn, en := true, pwm := true }
     s.fieldLive = true ∧ c < 32 ∧ s.claimed c = false ∧ (s.chan c).ph = .rampIn ∧ (s.chan c).st = .probe ∧
     wellFormed (.rampInComplete c) = true) ∧
    (let c := 5
     let s : State := live.setChan 5 { Chan.reset with st := .stop, ph := .rampOut, en := true, pwm := true, seq := .out 5 5 }
     s.fieldLive = true ∧ c < 32 ∧ s.claimed c = false ∧ (s.chan c).ph = .rampOut ∧ (s.chan c).hot = false ∧
     wellFormed (.stopRampOutComplete c) = true) ∧
    (let c := 5
     let s : State := live.setChan 5 { Chan.reset with st := .run, ph := .rampOut, en := true, pwm := true, hot := true }
     s.fieldLive = true ∧ c < 32 ∧ s.claimed c = false ∧ (s.chan c).ph = .rampOut ∧ (s.chan c).hot = true ∧
     wellFormed (.stopRampOutComplete c) = true) ∧
    (let c := 5
     let s : State := live.setChan 5 { Chan.reset with st := .stop, ph := .stopHold, en := true, pwm := true, wa := 9, wb := 9 }
     s.fieldLive = true ∧ c < 32 ∧ s.claimed c = false ∧ (s.chan c).ph = .stopHold ∧
     wellFormed (.stopHold50Complete c) = true) ∧
    (let c := 5
     let s : State := live.setChan 5 { Chan.reset with st := .stop, ph := .stopEn, en := true }
     s.fieldLive = true ∧ c < 32 ∧ s.claimed c = false ∧ (s.chan c).ph = .stopEn ∧
     wellFormed (.stopEnableTimeElapsed c) = true) := by
  iterate 17 refine ⟨by decide +kernel, ?_⟩
  decide +kernel

theorem witness_CarrierAssignment :
    (let c := 0
     let s : State := ((live.setChan 0 { Chan.reset with st := .run, ph := .playing, pwm := true, err := 12345 }).setBst 0 { Bst.reset with rail := 400 }).setReg (Reg.FPWM_CHCFG 0) 0x4000FFFF
     let e : Int := roundHalfUp (periodInput s c * (s.rf (Reg.FPWM_CHCFG c) 31 16 : Nat) * (8 * (s.chan c).div : Nat) * 16777216 / ((5 * 268435456 * (s.bst (c / 2)).rail : Nat) : Int) + (s.chan c).err) 16777216
     s.fieldLive = true ∧ c < 32 ∧ (s.chan c).st = .run ∧ (s.chan c).ph = .playing ∧ (s.chan c).pwm = true ∧
     (s.chan c).probing = false ∧ s.assigned c = (s.chan c).div ∧ 400 ≤ (s.bst (c / 2)).rail ∧
     e.natAbs ≤ s.elim c (s.chan c).div ∧ wellFormed (.carrierPeriod c) = true) ∧
    (let c := 0
     let s : State := ((live.setChan 0 { Chan.reset with st := .run, ph := .playing, pwm := true, err := 12345 }).setBst 0 { Bst.reset with rail := 399 })
     s.fieldLive = true ∧ c < 32 ∧ (s.chan c).ph = .playing ∧ (s.chan c).pwm = true ∧ s.assigned c = (s.chan c).div ∧
     (s.bst (c / 2)).rail < 400 ∧ wellFormed (.carrierPeriod c) = true) ∧
    (let s : State := live
     let v : Word := wd (427 * 65536 + 1 + 2 ^ 29)
     s.fieldLive = true ∧ 427 ≤ fld v 27 16 ∧ fld v 27 16 ≤ 3413 ∧ fld v 1 0 ≤ 1 ∧
     wellFormed (.carrierModeWrite v) = true) ∧
    (let s : State := live
     let v : Word := 0x80000300
     s.fieldLive = true ∧ bit v 31 = true ∧ s.rb Reg.FPWM_AVDST 31 = false ∧ wellFormed (.avoidanceRun v) = true) ∧
    (let l : List Nat := [556, 557, 4095]
     let s : State := { live with field := { Field.reset with avdRun := some l } }.setReg Reg.FPWM_AVDST 0x80000000
     s.fieldLive = true ∧ s.field.avdRun = some l ∧ l.length ≤ 7 ∧ (∀ n ∈ l, n < 4096) ∧
     wellFormed (.avoidanceRunComplete) = true) ∧
    (let l : List Nat := []
     let s : State := { live with field := { Field.reset with avdRun := some l } }.setReg Reg.FPWM_AVDST 0x80000000
     s.fieldLive = true ∧ s.field.avdRun = some l ∧ l.length ≤ 7 ∧ (∀ n ∈ l, n < 4096) ∧
     wellFormed (.avoidanceRunComplete) = true) ∧
    (let s : State := live
     let v : Word := 0xFFFFFFFF
     s.fieldLive = true ∧ (∀ c ∈ List.range 32, (s.chan c).st = .off) ∧ wellFormed (.hswWrite v) = true) ∧
    (let s : State := (List.range 32).foldl (fun s c => s.setChan c { Chan.reset with st := .run }) live
     let v : Word := 1
     s.fieldLive = true ∧ (∀ c ∈ List.range 32, (s.chan c).st = .run) ∧ s.reg Reg.FPWM_HSW ≠ v ∧
     wellFormed (.hswWrite v) = true) := by
  iterate 7 refine ⟨by decide +kernel, ?_⟩
  decide +kernel

theorem witness_BoostControllers :
    (let p := 15
     let rail := 5000
     let bus := 100
     let s : State := live.setReg Reg.FBST_CTRL 0
     s.fieldLive = true ∧ p < 16 ∧ (s.bst p).st ≠ .ocWait ∧ (s.bst p).st ≠ .latched ∧ (s.bst p).ov = false ∧
     wellFormed (.boostPeriod p rail bus) = true) ∧
    (let p := 0
     let rail := 500
     let bus := 0
     let s : State := (live.setReg Reg.FBST_CTRL 1).setBst 0 { Bst.reset with st := .regulating, set := 512000 * 400 }
     s.fieldLive = true ∧ p < 16 ∧ (s.bst p).st ≠ .ocWait ∧ (s.bst p).st ≠ .latched ∧ (s.bst p).ov = false ∧
     wellFormed (.boostPeriod p rail bus) = true) ∧
    (let p := 15
     let s : State := live.setBst 15 { Bst.reset with st := .regulating, gate := true }
     let mv := 4096
     s.fieldLive = true ∧ p < 16 ∧ s.rf Reg.FBST_PROT 11 0 < mv ∧ wellFormed (.boostOverCurrent p mv) = true) ∧
    (let p := 15
     let s : State := live.setBst 15 { Bst.reset with st := .regulating, gate := true }
     let mv := 0
     s.fieldLive = true ∧ p < 16 ∧ mv ≤ s.rf Reg.FBST_PROT 11 0 ∧ wellFormed (.boostOverCurrent p mv) = true) ∧
    (let p := 3
     let s : State := live.setBst 3 { Bst.reset with st := .regulating, gate := true, ocRun := 64 }
     s.fieldLive = true ∧ p < 16 ∧ 64 ≤ (s.bst p).ocRun ∧ (s.bst p).st = .regulating ∧ (s.bst p).ocTimes = [] ∧
     wellFormed (.boostOcPersist p) = true) ∧
    (let p := 3
     let s : State := live.setBst 3 { Bst.reset with st := .regulating, gate := true, ocRun := 64, ocTimes := [0, 0, 0] }
     s.fieldLive = true ∧ p < 16 ∧ 64 ≤ (s.bst p).ocRun ∧ (s.bst p).st = .regulating ∧
     (s.bst p).ocTimes = [s.clock, s.clock, s.clock] ∧ wellFormed (.boostOcPersist p) = true) ∧
    (let p := 3
     let s : State := live.setBst 3 { Bst.reset with st := .ocWait }
     s.fieldLive = true ∧ p < 16 ∧ (s.bst p).st = .ocWait ∧ wellFormed (.boostRetry p) = true) ∧
    (let p := 3
     let rail := 4096
     let s : State := live
     s.fieldLive = true ∧ p < 16 ∧ s.rf Reg.FBST_PROT 27 16 < rail ∧ wellFormed (.boostOverVoltage p rail) = true) ∧
    (let p := 15
     let rail := 4200
     let s : State := (live.setChan 30 { Chan.reset with st := .run, ph := .playing, en := true, pwm := true }).setChan 31 { Chan.reset with st := .run, ph := .playing, en := true, pwm := true }
     s.fieldLive = true ∧ p < 16 ∧ s.rf Reg.FBST_PROT 27 16 + 100 < rail ∧
     (∀ i ∈ List.range 2, (s.chan (2 * p + i)).st = .run ∧ (s.chan (2 * p + i)).latches = []) ∧
     wellFormed (.railOverVoltage p rail) = true) := by
  iterate 8 refine ⟨by decide +kernel, ?_⟩
  decide +kernel

theorem witness_ChannelProtection :
    (let c := 31
     let mv := 4096
     let s : State := live.setChan 31 { Chan.reset with st := .run, ph := .playing, en := true, pwm := true, latches := [0, 0], ilimRun := 15 }
     s.fieldLive = true ∧ c < 32 ∧ (s.chan c).st.mayLatch = true ∧ ((s.chan c).recent s.clock).length < 3 ∧
     s.rf (Reg.FPRO_THR c) 27 16 < mv ∧ wellFormed (.iscCrossing c mv) = true) ∧
    (let c := 31
     let mv := 4096
     let ticks := 255
     let s : State := live.setChan 31 { Chan.reset with st := .run, ph := .playing, en := true, pwm := true, latches := [0, 0], ilimRun := 15 }
     s.fieldLive = true ∧ c < 32 ∧ (s.chan c).st.mayLatch = true ∧ ((s.chan c).recent s.clock).length < 3 ∧
     (s.chan c).pwm = true ∧ (s.chan c).ilim = false ∧ 15 ≤ (s.chan c).ilimRun ∧ s.rf (Reg.FPRO_THR c) 11 0 < mv ∧
     s.rf Reg.FPRO_CFG 31 24 ≤ ticks ∧ wellFormed (.ilimCrossing c mv ticks) = true) ∧
    (let c := 31
     let s : State := live.setChan 31 { Chan.reset with st := .run, ph := .playing, en := true, fltOn := true, pwm := true }
     s.fieldLive = true ∧ c < 32 ∧ (s.chan c).st.mayLatch = true ∧ ((s.chan c).recent s.clock).length < 3 ∧
     ((s.chan c).en = false ∨ (s.chan c).fltOn = true) ∧ wellFormed (.fltAssert c) = true) ∧
    (let c := 31
     let mv := 70000
     let s : State := live.setChan 31 { Chan.reset with st := .run, ph := .playing, en := true, pwm := true }
     s.fieldLive = true ∧ c < 32 ∧ (s.chan c).st.mayLatch = true ∧ ((s.chan c).recent s.clock).length < 3 ∧
     s.rf Reg.FPRO_DCOV 31 16 < mv ∧ wellFormed (.lineOverVoltage c mv) = true) ∧
    (let c := 31
     let mv := 4096
     let s : State := live.setChan 31 { Chan.reset with st := .run, ph := .playing, en := true, pwm := true, latches := [0, 0, 0] }
     s.fieldLive = true ∧ c < 32 ∧ (s.chan c).st.mayLatch = true ∧ 3 ≤ ((s.chan c).recent s.clock).length ∧
     s.rf (Reg.FPRO_THR c) 27 16 < mv ∧ wellFormed (.iscCrossing c mv) = true) ∧
    (let c := 31
     let mv : Int := -70000
     let s : State := live.setChan 31 { Chan.reset with st := .run, ph := .playing, en := true, pwm := true }
     s.fieldLive = true ∧ c < 32 ∧ (s.chan c).st.mayLatch = true ∧ s.rf Reg.FPRO_DCOV 15 0 < mv.natAbs ∧
     wellFormed (.dcOffset c mv) = true) ∧
    (let c := 31
     let mv := 4096
     let ticks := 255
     let s : State := live.setChan 31 { Chan.reset with st := .run, ph := .playing, en := true, pwm := true, ilimRun := 14 }
     s.fieldLive = true ∧ c < 32 ∧ (s.chan c).pwm = true ∧ (s.chan c).ilim = false ∧ (s.chan c).ilimRun < 15 ∧
     s.rf (Reg.FPRO_THR c) 11 0 < mv ∧ s.rf Reg.FPRO_CFG 31 24 ≤ ticks ∧
     wellFormed (.ilimCrossing c mv ticks) = true) ∧
    (let c := 31
     let s : State := live.setChan 31 { Chan.reset with st := .start, ph := .enable, en := true }
     s.fieldLive = true ∧ c < 32 ∧ (s.chan c).en = true ∧ (s.chan c).fltOn = false ∧
     wellFormed (.fltAssert c) = true) ∧
    (let c := 31
     let mv := 4096
     let s : State := live
     s.fieldLive = true ∧ c < 32 ∧ (s.chan c).st.mayLatch = false ∧ wellFormed (.iscCrossing c mv) = true) ∧
    (let c := 31
     let s : State := live.setChan 31 { Chan.reset with st := .trip }
     s.fieldLive = true ∧ c < 32 ∧ (s.chan c).st = .trip ∧ wellFormed (.retry c) = true) ∧
    (let c := 31
     let s : State := live.setChan 31 { Chan.reset with st := .probe, ph := .playing, pwm := true, probing := true }
     s.fieldLive = true ∧ c < 32 ∧ (s.chan c).st = .probe ∧ (s.chan c).probing = true ∧ (s.chan c).pwm = true ∧
     s.claimed c = false ∧ wellFormed (.probeComplete c) = true) := by
  iterate 10 refine ⟨by decide +kernel, ?_⟩
  decide +kernel

theorem witness_ThermalAndMonitoring :
    (let k := 7
     let mv := 0
     let s : State := live.setReg Reg.FPRO_NTC 0x20010000
     s.fieldLive = true ∧ k < 8 ∧ mv < 2 * s.rf Reg.FPRO_NTC 29 20 ∧ inMask s.field.warm k = false ∧
     wellFormed (.ntcWarning k mv) = true) ∧
    (let k := 7
     let mv := 0
     let s : State := (live.setReg Reg.FPRO_NTC 0x20010000).setChan 31 { Chan.reset with st := .run, ph := .playing, pwm := true }
     s.fieldLive = true ∧ k < 8 ∧ mv < 2 * s.rf Reg.FPRO_NTC 19 10 ∧ wellFormed (.ntcTrip k mv) = true) ∧
    (let k := 0
     let mv := 3000
     let s : State := live.setChan 3 { Chan.reset with st := .thermal }
     s.fieldLive = true ∧ k < 8 ∧ 2 * s.rf Reg.FPRO_NTC 9 0 < mv ∧ wellFormed (.thermalRestore k mv) = true) ∧
    (let c := 31
     let vs : List Int := [1000, 3]
     let is : List Int := [3]
     let s : State := (live.setChan 31 { Chan.reset with st := .run, sq := 2 ^ 80, sqN := 96000 }).setReg (Reg.FMON_ZK 31) 4096
     s.fieldLive = true ∧ c < 32 ∧ (s.chan c).st = .run ∧ (s.chan c).pilot = false ∧ (s.chan c).pilWin = false ∧
     (s.chan c).loud = true ∧ sumSquares is ≠ 0 ∧ wellFormed (.impedanceEstimate c vs is) = true) ∧
    (let c := 31
     let vs : List Int := [1000, 3]
     let is : List Int := []
     let s : State := (live.setChan 31 { Chan.reset with st := .run, sq := 2 ^ 80, sqN := 96000 }).setReg (Reg.FMON_ZK 31) 4096
     s.fieldLive = true ∧ c < 32 ∧ (s.chan c).st = .run ∧ (s.chan c).pilot = false ∧ (s.chan c).pilWin = false ∧
     (s.chan c).loud = true ∧ sumSquares is = 0 ∧ wellFormed (.impedanceEstimate c vs is) = true) ∧
    (let c := 31
     let s : State := live
     s.fieldLive = true ∧ c < 32 ∧ s.pilotWindow c = false ∧
     ((s.chan c).st ≠ .run ∨ (s.chan c).pilot = true ∨ (s.chan c).loud = false) ∧
     wellFormed (.impedanceEstimate c [5] [5]) = true) ∧
    (let c := 31
     let s : State := (live.setChan 31 { Chan.reset with st := .run, quiet := true }).setReg Reg.FMON_CTRL 1
     s.fieldLive = true ∧ c < 32 ∧ s.rb Reg.FMON_CTRL 0 = true ∧ (s.chan c).st = .run ∧ (s.chan c).quiet = true ∧
     s.claimed c = false ∧ (s.chan c).pilot = false ∧ wellFormed (.pilotStart c) = true) ∧
    (let mv := 70000
     let s : State := live
     s.fieldLive = true ∧ s.rf Reg.FMON_ELK 15 0 < mv ∧ wellFormed (.earthLeakage mv) = true) ∧
    (let c := 31
     let s : State := ({ live with clock := 300000000 } : State).setChan 31 { Chan.reset with st := .run, ph := .playing, pilot := true, pilUp := 0 }
     s.fieldLive = true ∧ c < 32 ∧ (s.chan c).st = .run ∧ s.pilotWindow c = true ∧
     wellFormed (.impedanceEstimate c [5] [5]) = true) := by
  iterate 8 refine ⟨by decide +kernel, ?_⟩
  decide +kernel

theorem witness_FireOverrideAndAutonomy :
    (let r := 500
     let s : State := ((live.setReg Reg.FFIN_CFG 0x101).setReg Reg.FFIN_THR (wd (20 * 2 ^ 20 + 100 * 2 ^ 10 + 1))).setReg (Reg.FSBX_OVR 0) 0x80000000
     s.fieldLive = true ∧ s.rf Reg.FFIN_CFG 7 0 = 1 ∧ s.rf Reg.FFIN_CFG 11 8 = 1 ∧ s.finState 0 = 0 ∧
     10 * s.rf Reg.FFIN_THR 29 20 ≤ r ∧ r < 10 * s.rf Reg.FFIN_THR 19 10 ∧ r ≤ 20000 ∧
     wellFormed (.finMeasurement [some r]) = true) ∧
    (let r := 500
     let s : State := ((live.setReg Reg.FFIN_CFG 0x101).setReg Reg.FFIN_THR (wd (20 * 2 ^ 20 + 100 * 2 ^ 10 + 1)))
     s.fieldLive = true ∧ s.rf Reg.FFIN_CFG 7 0 = 1 ∧ s.rf Reg.FFIN_CFG 11 8 = 1 ∧ s.finState 0 = 0 ∧
     10 * s.rf Reg.FFIN_THR 29 20 ≤ r ∧ r < 10 * s.rf Reg.FFIN_THR 19 10 ∧ r ≤ 20000 ∧
     wellFormed (.finMeasurement [some r]) = true) ∧
    (let s : State := live.setReg Reg.FFIN_FOUT 0x80000000
     let v : Word := 0x20000000
     s.fieldLive = true ∧ bit v 29 = true ∧ fld v 9 0 = 0 ∧ wellFormed (.foutClr v) = true) ∧
    (let k := 7
     let s : State := { live with field := { Field.reset with asserted := 128, latched := 128 } }.setReg (Reg.FSBX_OVR 7) 0x40000000
     s.fieldLive = true ∧ k < 8 ∧ s.rb (Reg.FSBX_OVR k) 30 = true ∧ inMask s.field.asserted k = true ∧
     wellFormed (.rel (bitw (8 + k))) = true) ∧
    (let c := 31
     let p : Play := ⟨3, 0, true, 0xF400, false⟩
     let s : State := { live with field := { Field.reset with ovr := [(31, ⟨0, .no⟩)] } }.setChan 31 { Chan.reset with cur := .host, nxt := some (0, .message p), st := .run }
     s.fieldLive = true ∧ c < 32 ∧ ((s.chan c).settle s.nextSample).cur = .message p ∧ p.rep = true ∧
     s.claimed c = true ∧ wellFormed (.overrideRepeat c) = true) ∧
    (let s : State := { live with field := { Field.reset with autonomy := false, ovr := [(3, ⟨0, .no⟩)] } }.setChan 4 { Chan.reset with st := .run }
     s.fieldLive = true ∧ s.field.autonomy = false ∧ s.rb Reg.FPWM_CTRL 29 = false ∧
     wellFormed (.autonomyEntry) = true) ∧
    (let s : State := ({ live with field := { Field.reset with autonomy := false } }.setReg Reg.FPWM_CTRL 0x222C0000 |>.setReg Reg.FPWM_HSW 0xFFFFFFFF).setChan 31 { Chan.reset with st := .run, pwm := true }
     s.fieldLive = true ∧ s.field.autonomy = false ∧ s.rb Reg.FPWM_CTRL 29 = true ∧
     wellFormed (.autonomyEntry) = true) ∧
    (let v : Word := 0x40000005
     let s : State := { live with field := { Field.reset with autonomy := false } }
     s.fieldLive = true ∧ s.field.autonomy = false ∧ bit v 30 = true ∧ bit v 29 = false ∧ fld v 7 0 ≠ 0 ∧
     wellFormed (.force v) = true) ∧
    (let v : Word := 0x200000FF
     let s : State := { live with field := { Field.reset with recov := 255 } }
     s.fieldLive = true ∧ s.field.autonomy = true ∧ bit v 29 = true ∧ bit v 30 = false ∧ fld v 7 0 ≠ 0 ∧
     fld v 7 0 ≤ s.field.recov ∧ wellFormed (.exit v) = true) ∧
    (let v : Word := 0x200000FF
     let s : State := { live with field := { Field.reset with recov := 254 } }
     s.fieldLive = true ∧ s.field.autonomy = true ∧ bit v 29 = true ∧ bit v 30 = false ∧ s.field.recov < fld v 7 0 ∧
     wellFormed (.exit v) = true) ∧
    (let s : State := ({ live with field := { Field.reset with recov := 3, ovr := [(9, ⟨0, .no⟩)] } }.setReg Reg.FSYS_AUT 0x80000003).setChan 31 { Chan.reset with st := .run }
     s.fieldLive = true ∧ s.field.autonomy = true ∧ s.rb Reg.FSYS_AUT 31 = true ∧
     s.rf Reg.FSYS_AUT 7 0 ≤ s.field.recov ∧ wellFormed (.autonomyExit) = true) ∧
    (let s : State := live.setReg Reg.FSYS_AUT 3
     s.fieldLive = true ∧ s.field.autonomy = true ∧ s.rb Reg.FSYS_AUT 31 = false ∧ wellFormed (.autonomyExit) = true) := by
  iterate 11 refine ⟨by decide +kernel, ?_⟩
  decide +kernel

theorem witness_StrongboxCommands :
    (let s : State := live
     s.fieldLive = true ∧ s.sbxBusy = false ∧ s.field.ovr = [] ∧ s.field.asserted = 0 ∧
     wellFormed (.reload 1) = true) ∧
    (let s : State := { live with field := { Field.reset with loading := true } }.setReg Reg.FSYS_STATUS 4
     s.fieldLive = true ∧ s.field.loading = true ∧ s.rb Reg.FSYS_STATUS 2 = true ∧ s.sbxAccepted = false ∧
     wellFormed (.strongboxLoadEnd) = true) ∧
    (let s : State := live.setReg Reg.FSBX_PGADDR 0x12345
     s.fieldLive = true ∧ s.rb Reg.FSBX_STATUS 29 = false ∧ wellFormed (.sbxEraseSector) = true) ∧
    (let s : State := live.setReg Reg.FSBX_PGADDR 0x12345
     s.fieldLive = true ∧ s.rb Reg.FSBX_STATUS 29 = false ∧ wellFormed (.sbxProgramPage) = true) ∧
    (let s : State := live.setReg Reg.FSBX_STATUS 0x20000000
     s.fieldLive = true ∧ s.rb Reg.FSBX_STATUS 29 = true ∧ wellFormed (.sbxEraseSector) = true) ∧
    (let a := 0x12345
     let s : State := ({ live with field := { Field.reset with pg := some (true, a) } }.wrByte (fflash + 0x10000) 7).wrByte (fflash + 0x20000) 8
     s.fieldLive = true ∧ s.field.pg = some (true, a) ∧ wellFormed (.sbxCommandDone) = true) ∧
    (let a := 0x12345
     let s : State := ({ live with field := { Field.reset with pg := some (false, a) } }.wrByte (fflash + 0x12300) 7).setReg (Reg.FSBX_PGBUF 0) 0x0E
     s.fieldLive = true ∧ s.field.pg = some (false, a) ∧ wellFormed (.sbxCommandDone) = true) ∧
    (let p := 7
     let v : Word := 0xA03F1234
     let s : State := live
     s.fieldLive = true ∧ p < 8 ∧ bit v 31 = true ∧ bit v 30 = false ∧ wellFormed (.playerGo p v) = true) ∧
    (let p := 7
     let v : Word := 0xC0000000
     let s : State := live
     s.fieldLive = true ∧ p < 8 ∧ bit v 30 = true ∧ wellFormed (.playerStop p v) = true) ∧
    (let c := 31
     let p : Play := ⟨0, 3, false, 0xF400, true⟩
     let s : State := ({ live with field := { Field.reset with msgs := [⟨0, 100, true⟩], folio := 10000 } }.setChan 31 { Chan.reset with cur := .message p, st := .run }).setReg Reg.FSBX_STATUS 0x80000000 |>.setReg Reg.FSBX_VALIDLO 1
     s.fieldLive = true ∧ s.sbxLoaded = true ∧ (s.chan c).cur = .message p ∧ p.tone = true ∧ s.msgValid p.msg = true ∧
     48000 ≤ (s.nextSample - p.start) % 96000 ∧ wellFormed (.toneBurstEnd) = true) ∧
    (let s0 : State := ((({ live with field := { Field.reset with loading := true } }.setReg Reg.FSYS_STATUS 4).wrWord fflash 0x31584253).wrWord (fflash + 4) 0x00010001 |>.wrWord (fflash + 8) 100).wrByte (fflash + 4096) 7
     let s : State := s0.wrWord (fflash + 28) (crc32 (s0.rdBytes fflash 28 ++ s0.rdBytes (fflash + 256) 1024))
     s.fieldLive = true ∧ s.field.loading = true ∧ s.rb Reg.FSYS_STATUS 2 = true ∧ s.sbxAccepted = true ∧
     wellFormed (.strongboxLoadEnd) = true) ∧
    (let c := 31
     let p : Play := ⟨0, 3, false, 0xF400, true⟩
     let s : State := ({ live with field := { Field.reset with msgs := [⟨0, 100, true⟩], folio := 5000 } }.setChan 31 { Chan.reset with cur := .message p, st := .run }).setReg Reg.FSBX_STATUS 0x80000000 |>.setReg Reg.FSBX_VALIDLO 1
     s.fieldLive = true ∧ s.sbxLoaded = true ∧ (s.chan c).cur = .message p ∧ p.tone = true ∧ s.msgValid p.msg = true ∧
     p.start < s.nextSample ∧ (s.nextSample - p.start) % 96000 < 48000 ∧ wellFormed (.toneBurstEnd) = true) := by
  iterate 11 refine ⟨by decide +kernel, ?_⟩
  decide +kernel

theorem witness_KeywayLink :
    (let s : State := live.setReg Reg.KWY_CTRL 1
     s.isA = true ∧ s.hostLive = true ∧ s.kwy.link = .down ∧ s.rb Reg.KWY_CTRL 0 = true ∧
     wellFormed (.lanesAligned true) = true) ∧
    (let s : State := live
     s.fieldLive = true ∧ s.field.link = .down ∧ wellFormed (.lanesAligned false) = true) ∧
    (let ld := 1536
     let s : State := { linked with kwy := { Kwy.reset with link := .train, txSeq := 9 } }
     s.isA = true ∧ s.kwy.link = .train ∧ s.field.link ≠ .down ∧ ld ≤ 1536 ∧
     wellFormed (.trainingComplete true ld) = true) ∧
    (let ld := 1536
     let s : State := { linked with field := { linked.field with link := .train, txSeq := 9 } }
     s.isA = true ∧ s.kwy.link ≠ .down ∧ s.field.link = .train ∧ ld ≤ 1536 ∧
     wellFormed (.trainingComplete false ld) = true) ∧
    (let ld := 1537
     let s : State := { linked with kwy := { Kwy.reset with link := .train }, field := { Field.reset with link := .train } }
     s.isA = true ∧ s.kwy.link = .train ∧ s.field.link ≠ .down ∧ 1536 < ld ∧
     wellFormed (.trainingComplete true ld) = true) ∧
    (let s : State := linked
     s.isA = true ∧ s.kwy.link = .up ∧ s.kwy.out = none ∧ s.kwy.waiting = [] ∧
     wellFormed (.keywayLinkDown true true) = true) ∧
    (let s : State := ({ linked with kwy := { Kwy.reset with link := .train } }).setReg Reg.KWY_CTRL 0
     s.isA = true ∧ s.kwy.link = .train ∧ s.rb Reg.KWY_CTRL 0 = false ∧ s.kwy.out = none ∧ s.kwy.waiting = [] ∧
     wellFormed (.keywayLinkDown true false) = true) ∧
    (let s : State := linked
     s.fieldLive = true ∧ s.field.link = .up ∧ wellFormed (.keywayLinkDown false true) = true) ∧
    (let s : State := linked
     s.fieldLive = true ∧ wellFormed (.laneClockLoss) = true) ∧
    (let s : State := { linked with field := { linked.field with osc := false, laneClock := false } }
     s.fieldLive = true ∧ s.field.osc = false ∧ s.field.laneClock = false ∧ wellFormed (.fieldClockSwitch) = true) ∧
    (let s : State := linked
     s.fieldLive = true ∧ s.field.osc = true ∧ s.field.laneClock = true ∧ s.field.link = .up ∧
     wellFormed (.fieldClockSwitch) = true) ∧
    (let m : KwyMsg := ⟨false, 8, 0, 6, [2, 0, 0, 0, 7, 7], 0⟩
     let s : State := { linked with kwy := { Kwy.reset with link := .up, ready := [m], txSeq := 65535 } }
     s.isA = true ∧ s.kwy.link = .up ∧ s.kwy.busyUntil ≤ s.clock ∧ s.kwy.ready = [m] ∧ s.kwy.first = [] ∧
     s.kwy.held = [] ∧ (laneTicks m : Int) ≤ s.hostRoom ∧ m.typ ≠ 3 ∧ m.typ ≠ 9 ∧
     wellFormed (.keywayMessageLaunch true) = true) ∧
    (let m : KwyMsg := ⟨false, 8, 0, 6, [2, 0, 0, 0, 7, 7], 0⟩
     let s : State := { linked with clock := 85300, field := { linked.field with ready := [m] } }
     s.isA = true ∧ s.field.link = .up ∧ s.field.busyUntil ≤ s.clock ∧ s.field.ready = [m] ∧ s.field.first = [] ∧
     s.field.held = [] ∧ s.fieldRoom < (laneTicks m : Int) ∧ wellFormed (.keywayMessageLaunch false) = true) ∧
    (let s : State := linked.setReg Reg.KWY_STATUS 4
     s.isA = true ∧ wellFormed (.fhbloss) = true) := by
  iterate 13 refine ⟨by decide +kernel, ?_⟩
  decide +kernel

theorem witness_MessagesToField :
    (let m : KwyMsg := kmsg 1 0 ([4, 0, 0, 0, 0, 0, 0, 0] ++ (List.range 1024).map (fun i => BitVec.ofNat 8 (i * 7)))
     let s : State := { linked with field := { linked.field with folio := 5, rxSeq := some 65535 } }
     fieldAccepts s m 1 ∧ s.field.autonomy = false ∧ leNat (m.payload.take 6) = s.dueFolio ∧
     wellFormed (.block m) = true) ∧
    (let m : KwyMsg := kmsg 2 7 ([4, 0, 0, 0, 0, 0, 0, 0] ++ (List.range 128).map (fun i => BitVec.ofNat 8 (i * 7)))
     let s : State := { linked with field := { linked.field with folio := 5 } }
     fieldAccepts s m 2 ∧ s.field.autonomy = false ∧ wellFormed (.envelope m) = true) ∧
    (let c := 31
     let m : KwyMsg := kmsg 3 0 ([9, 0, 2, 0] ++ leBytes (Reg.FMON_ZK 31 - 0x70000000) 4 ++ [1, 2, 3, 4])
     let s : State := linked
     fieldAccepts s m 3 ∧ c < 32 ∧ leNat (slice m.payload 2 1) = 2 ∧
     leNat (slice m.payload 4 4) = Reg.FMON_ZK c - 0x70000000 ∧ wellFormed (.cmd m) = true) ∧
    (let c := 0
     let m : KwyMsg := kmsg 3 0 ([9, 0, 1, 0] ++ leBytes (Reg.FMON_ZK 0 - 0x70000000) 4 ++ [1, 2, 3, 4])
     let s : State := linked.setReg (Reg.FMON_ZK 0) 0x01020304
     fieldAccepts s m 3 ∧ c < 32 ∧ leNat (slice m.payload 2 1) = 1 ∧
     leNat (slice m.payload 4 4) = Reg.FMON_ZK c - 0x70000000 ∧ wellFormed (.cmd m) = true) ∧
    (let m : KwyMsg := kmsg 9 3 [1, 2, 3, 4, 5, 6, 100, 0, 0, 0, 0, 0]
     let s : State := { linked with clock := 100000 }.setChan 5 { Chan.reset with cur := .message ⟨3, 40, true, 0xF400, false⟩ }
     fieldAccepts s m 9 ∧
     (leNat (m.payload.take 6) : Int) - (s.field.folio + roundHalfUp (3 * (((s.clock - (s.rf Reg.FKWY_STATUS 26 16 + leNat (slice m.payload 6 2)) : Nat) : Int) - s.field.folioAt)) 256000) ≠ 0 ∧
     s.chan 5 ≠ Chan.reset ∧ wellFormed (.hostHeartbeat m) = true) ∧
    (let q := 3
     let m : KwyMsg := kmsg 8 3 ([60, 0, 3, 0] ++ (List.range 60).map (fun i => BitVec.ofNat 8 i))
     let s : State := linked
     fieldAccepts s m 8 ∧ leNat (slice m.payload 2 1) = q ∧ q < 4 ∧ s.net.f0.sel = none ∧
     (s.net.f0.queue.filter (fun e => e.1 == q)).length < 4 ∧ wellFormed (.fbusToField m) = true) ∧
    (let k := 3
     let m : KwyMsg := { kmsg 9 3 [1, 2, 3, 4, 5, 6, 100, 0, 0, 0, 0, 0] with crc := 0 }
     let s : State := linked
     s.fieldLive = true ∧ s.field.link = .up ∧ kwyFails typesFromHost m = some k ∧
     wellFormed (.hostHeartbeat m) = true) ∧
    (let s : State := { linked with field := { linked.field with folio := 5 } }
     s.fieldLive = true ∧ s.field.autonomy = false ∧ s.field.folio ≠ 0 ∧ s.dueFolio = s.field.folio - 1 ∧
     wellFormed (.blockMissing) = true) ∧
    (let m : KwyMsg := kmsg 9 3 [1, 0, 0, 0, 0, 0, 100, 0, 0, 0, 0, 0]
     let s : State := { linked with clock := 85334 + 100 }.setChan 5 { Chan.reset with cur := .message ⟨3, 40, true, 0xF400, false⟩ }
     fieldAccepts s m 9 ∧
     (leNat (m.payload.take 6) : Int) - (s.field.folio + roundHalfUp (3 * (((s.clock - (s.rf Reg.FKWY_STATUS 26 16 + leNat (slice m.payload 6 2)) : Nat) : Int) - s.field.folioAt)) 256000) = 0 ∧
     wellFormed (.hostHeartbeat m) = true) := by
  iterate 8 refine ⟨by decide +kernel, ?_⟩
  decide +kernel

theorem witness_MessagesToHostAndProxy :
    (let s : State := { linked with clock := 85340 }
     s.fieldLive = true ∧ s.field.link = .up ∧ s.field.folioAt + folioTicks s.field.folio ≤ s.clock ∧
     wellFormed (.fieldFolioStart) = true) ∧
    (let s : State := { live with clock := 85340 }
     s.fieldLive = true ∧ s.field.link ≠ .up ∧ s.field.folioAt + folioTicks s.field.folio ≤ s.clock ∧
     wellFormed (.fieldFolioStart) = true) ∧
    (let m : KwyMsg := kmsg 4 3 [9, 0, 0, 0, 1, 2, 3, 4, 5, 6, 7, 8]
     let p : Proxy := ⟨none, false, 0x70040000, 0, 9, true⟩
     let s : State := { linked with kwy := { linked.kwy with out := some p } }
     hostAccepts s m 4 ∧ s.kwy.out = some p ∧ p.txn = none ∧ s.kwy.waiting = [] ∧ p.tag = leNat (m.payload.take 2) ∧
     leNat (slice m.payload 2 1) = 0 ∧ wellFormed (.cmdack m) = true) ∧
    (let m : KwyMsg := kmsg 4 3 [9, 0, 1, 0, 1, 2, 3, 4, 5, 6, 7, 8]
     let p : Proxy := ⟨none, false, 0x70040000, 0, 9, true⟩
     let s : State := { linked with kwy := { linked.kwy with out := some p } }
     hostAccepts s m 4 ∧ s.kwy.out = some p ∧ p.txn = none ∧ s.kwy.waiting = [] ∧ p.tag = leNat (m.payload.take 2) ∧
     leNat (slice m.payload 2 1) ≠ 0 ∧ wellFormed (.cmdack m) = true) ∧
    (let m : KwyMsg := kmsg 5 3 ([9, 0, 0, 0, 0, 0, 1, 0] ++ (List.range 8).map (fun i => BitVec.ofNat 8 i))
     let s : State := linked
     hostAccepts s m 5 ∧ leNat (slice m.payload 6 1) = 1 ∧ s.rb Reg.KWY_STATUS 3 = false ∧
     wellFormed (.status m) = true) ∧
    (let m : KwyMsg := kmsg 6 3 ([4, 0, 0, 0, 0, 0, 0, 0] ++ (List.range 1728).map (fun i => BitVec.ofNat 8 (i * 5)))
     let s : State := linked
     hostAccepts s m 6 ∧ wellFormed (.sense m) = true) ∧
    (let k := 8
     let m : KwyMsg := kmsg 7 3 [8, 31, 255, 1, 0, 0, 0, 0]
     let s : State := linked
     hostAccepts s m 7 ∧ leNat (slice m.payload 0 1) = k ∧ k ≤ 8 ∧ s.kwy.log.length < 64 ∧
     wellFormed (.fault m) = true) ∧
    (let m : KwyMsg := kmsg 8 3 ([60, 0, 0, 0] ++ (List.range 60).map (fun i => BitVec.ofNat 8 i))
     let s : State := linked
     hostAccepts s m 8 ∧ wellFormed (.fbusToHost m) = true) ∧
    (let m : KwyMsg := kmsg 9 3 [1, 2, 3, 4, 5, 6, 0, 0, 0, 0, 0, 0]
     let s : State := linked
     hostAccepts s m 9 ∧ wellFormed (.fieldHeartbeat m) = true) ∧
    (let m := Master.stw
     let wr := true
     let a := 0x7008FFFC
     let v : Word := 5
     let s : State := { linked with kwy := { linked.kwy with tag := 65535 } }
     s.hostLive = true ∧ 0x70000000 ≤ a ∧ a < 0x70100000 ∧ s.accessCause m wr a 4 1 = 0 ∧ s.kwy.link = .up ∧
     s.kwy.out = none ∧ s.kwy.waiting = [] ∧ wellFormed (.proxyAccess m wr a v) = true) ∧
    (let m := Master.stw
     let a := 0x70090000
     let s : State := linked
     s.hostLive = true ∧ 0x70000000 ≤ a ∧ a < 0x70100000 ∧ s.accessCause m true a 4 1 ≠ 0 ∧
     wellFormed (.proxyAccess m true a 1) = true) ∧
    (let p : Proxy := ⟨none, false, 0x70040000, 0, 9, true⟩
     let s : State := { linked with kwy := { linked.kwy with out := some p } }
     s.isA = true ∧ s.kwy.out = some p ∧ p.launched = true ∧ p.txn = none ∧ s.kwy.waiting = [] ∧
     wellFormed (.cmdTimeout) = true) := by
  iterate 11 refine ⟨by decide +kernel, ?_⟩
  decide +kernel

theorem witness_FieldBusF0 :
    (let f : Frame := ⟨64, true, false, 0xFFFFFFFFFFFF, 5, none, 0x0800, (List.range 46).map (fun i => BitVec.ofNat 8 i)⟩
     let s : State := ((List.range 48).foldl (fun s i => s.setReg (Reg.FBUS_CNT i) 0x80000000) linked).setReg Reg.FBUS_CTRL 3
     s.fieldLive = true ∧ s.rb Reg.FBUS_CTRL 0 = true ∧ f.codeErr = false ∧ f.fcsOk = true ∧ 64 ≤ f.len ∧
     f.len ≤ 1518 ∧ s.f0Dst f.dst = true ∧ s.field.link = .up ∧ s.field.ready = [] ∧ s.field.held = [] ∧
     (∀ i ∈ List.range 48, bit (s.reg (Reg.FBUS_CNT i)) 31 = true) ∧ wellFormed (.f0FrameReceived f) = true) ∧
    (let f : Frame := ⟨1518, false, false, 0xFFFFFFFFFFFF, 5, none, 0x0800, []⟩
     let s : State := linked.setReg Reg.FBUS_CTRL 1
     s.fieldLive = true ∧ s.rb Reg.FBUS_CTRL 0 = true ∧ f.codeErr = false ∧ f.fcsOk = false ∧ 64 ≤ f.len ∧
     f.len ≤ 1518 ∧ wellFormed (.f0FrameReceived f) = true) ∧
    (let f : Frame := ⟨64, true, false, 0xFFFFFFFFFFFF, 5, none, 0x0800, []⟩
     let x : F0Tx := ⟨3, f, 14, none⟩
     let s : State := { linked with net := { Net.reset with f0 := { F0.reset with sel := some x } } }.setReg Reg.FBUS_CTRL 1
     s.fieldLive = true ∧ s.rb Reg.FBUS_CTRL 0 = true ∧ s.net.f0.sel = some x ∧ x.backoff = none ∧
     wellFormed (.f0Transmit false) = true) ∧
    (let f : Frame := ⟨64, true, false, 0xFFFFFFFFFFFF, 5, none, 0x0800, []⟩
     let x : F0Tx := ⟨3, f, 14, none⟩
     let s : State := { linked with net := { Net.reset with f0 := { F0.reset with sel := some x } } }.setReg Reg.FBUS_CTRL 1
     s.fieldLive = true ∧ s.rb Reg.FBUS_CTRL 0 = true ∧ s.net.f0.sel = some x ∧ x.backoff = none ∧ x.coll < 15 ∧
     wellFormed (.f0Collision false false) = true) ∧
    (let f : Frame := ⟨64, true, false, 0xFFFFFFFFFFFF, 5, none, 0x0800, []⟩
     let x : F0Tx := ⟨3, f, 15, none⟩
     let s : State := { linked with net := { Net.reset with f0 := { F0.reset with sel := some x } } }.setReg Reg.FBUS_CTRL 1
     s.fieldLive = true ∧ s.rb Reg.FBUS_CTRL 0 = true ∧ s.net.f0.sel = some x ∧ x.backoff = none ∧
     wellFormed (.f0Collision true false) = true) ∧
    (let f : Frame := ⟨64, true, false, 0xFFFFFFFFFFFF, 5, none, 0x0800, []⟩
     let x : F0Tx := ⟨3, f, 2, some 5⟩
     let s : State := { linked with net := { Net.reset with f0 := { F0.reset with sel := some x } } }
     s.fieldLive = true ∧ s.net.f0.sel = some x ∧ wellFormed (.f0BackoffEnd) = true) := by
  iterate 5 refine ⟨by decide +kernel, ?_⟩
  decide +kernel

theorem witness_NetworkPorts :
    (let p := 0
     let s : State := ported
     let v : Word := wd (9216 * 65536 + 1)
     s.hostLive = true ∧ p < 4 ∧ s.portOn p = true ∧ rateOk p (fld v 2 0) (fld v 6 5) = true ∧ 1518 ≤ fld v 29 16 ∧
     fld v 29 16 ≤ 9216 ∧ fld v 2 0 = s.portRate p ∧ wellFormed (.macCfgWrite p v) = true) ∧
    (let p := 0
     let s : State := ported
     let v : Word := wd (1518 * 65536 + 4 + 64)
     s.hostLive = true ∧ p < 4 ∧ s.portOn p = true ∧ rateOk p (fld v 2 0) (fld v 6 5) = true ∧ 1518 ≤ fld v 29 16 ∧
     fld v 29 16 ≤ 9216 ∧ fld v 2 0 ≠ s.portRate p ∧ s.txEnabled = [] ∧ s.relays = false ∧ s.link p = true ∧
     wellFormed (.macCfgWrite p v) = true) ∧
    (let p := 3
     let s : State := (up.setReg (Reg.MAC_STATUS 3) 0x80000000).setReg Reg.PWR_STATUS 64
     let v : Word := wd (1518 * 65536 + 2)
     s.hostLive = true ∧ p < 4 ∧ s.portOn p = true ∧ rateOk p (fld v 2 0) (fld v 6 5) = true ∧ 1518 ≤ fld v 29 16 ∧
     fld v 29 16 ≤ 9216 ∧ fld v 2 0 ≠ s.portRate p ∧ s.txEnabled = [] ∧ s.relays = false ∧ s.link p = true ∧
     wellFormed (.macCfgWrite p v) = true) ∧
    (let p := 0
     let s : State := ported
     let v : Word := wd (1518 * 65536 + 2)
     s.hostLive = true ∧ p < 4 ∧ s.portOn p = true ∧ rateOk p (fld v 2 0) (fld v 6 5) = false ∧
     wellFormed (.macCfgWrite p v) = true) ∧
    (let p := 0
     let s : State := ported.setReg (Reg.MAC_STATUS 0) 0x60000001
     s.hostLive = true ∧ p < 4 ∧ s.portOn p = true ∧ s.portRate p ≠ 0 ∧ s.link p = false ∧
     wellFormed (.portLinkUp p) = true) ∧
    (let p := 0
     let s : State := ported.setPort 0 { Port.reset with queue := [(6, frame 1 []), (7, frame 1 [])] }
     s.hostLive = true ∧ p < 4 ∧ s.portOn p = true ∧ s.link p = true ∧
     wellFormed (.portLinkDown p true false) = true) ∧
    (let p := 0
     let q := 7
     let f := frame 1 []
     let s : State := ported
     s.hostLive = true ∧ p < 4 ∧ s.portOn p = true ∧ q < 8 ∧ q ≠ 6 ∧
     ((s.port p).queue.filter (fun e => e.1 == q)).length < 64 ∧ wellFormed (.frameOffered p q f) = true) ∧
    (let p := 0
     let q := 0
     let f := frame 1 []
     let s : State := ported.setPort 0 { Port.reset with queue := List.replicate 64 (0, frame 1 []) }
     s.hostLive = true ∧ p < 4 ∧ s.portOn p = true ∧ q < 8 ∧ q ≠ 6 ∧
     64 ≤ ((s.port p).queue.filter (fun e => e.1 == q)).length ∧ wellFormed (.frameOffered p q f) = true) ∧
    (let p := 0
     let f := frame 1 []
     let s : State := ported.setPort 0 { Port.reset with queue := [(6, f)] }
     s.hostLive = true ∧ p < 4 ∧ s.portOn p = true ∧ s.link p = true ∧ s.portRate p ≠ 0 ∧
     (s.port p).queue = [(6, f)] ∧ (s.port p).busy8 ≤ 8 * s.clock + 3 ∧ wellFormed (.portTransmit p 3) = true) ∧
    (let p := 0
     let s : State := ported.setPort 0 { Port.reset with ring := [(frame 1 [], none), (frame 2 [], none)] }
     s.hostLive = true ∧ p < 4 ∧ s.portOn p = true ∧ (s.port p).ring.head? = some (frame 1 [], none) ∧
     (frame 1 []).etype ≠ 0x8809 ∧ wellFormed (.stewardRingPlaceFreed p) = true) ∧
    (let p := 0
     let s : State := ported
     s.hostLive = true ∧ p < 4 ∧ s.portOn p = true ∧ s.portRate p ≠ 0 ∧ wellFormed (.pcsCodeError p) = true) ∧
    (let p := 1
     let f := frame 0x8809 [10, 0, 0x19, 0xA7, 0, 1, 0x10, 0, 0, 0, 1, 0, 4, 0xF2, 0]
     let s : State := { ported with rsc := { Rsc.reset with noEsmc1 := 4 } }.setPort 1 { Port.reset with ring := [(f, none), (frame 2 [], none)] }
     s.hostLive = true ∧ p < 2 ∧ s.portOn 0 = true ∧ (s.port p).ring = [(f, none), (frame 2 [], none)] ∧
     esmcLevel f = some 2 ∧ wellFormed (.stewardRingPlaceFreed p) = true) := by
  iterate 11 refine ⟨by decide +kernel, ?_⟩
  decide +kernel

theorem witness_FrameReception :
    (let p := 0
     let f : Frame := { frame 1 [] with fcsOk := false, len := 1518 }
     let s : State := ported
     s.hostLive = true ∧ p < 4 ∧ s.portOn p = true ∧ s.link p = true ∧ f.codeErr = false ∧ 64 ≤ f.len ∧
     f.len ≤ s.rf (Reg.MAC_CFG p) 29 16 ∧ f.fcsOk = false ∧ wellFormed (.frameReceived p f 3) = true) ∧
    (let p := 0
     let f := frame 0x86DD []
     let s : State := ported
     s.hostLive = true ∧ p < 4 ∧ s.portOn p = true ∧ s.link p = true ∧ f.codeErr = false ∧ 64 ≤ f.len ∧
     f.len ≤ s.rf (Reg.MAC_CFG p) 29 16 ∧ f.fcsOk = true ∧ f.etype ≠ 0x8808 ∧ f.etype ≠ 0x0800 ∧ f.etype ≠ 0x88F7 ∧
     f.etype ≠ s.rf Reg.DVT_CTRL 31 16 ∧ f.dst = s.macAddr p ∧ (s.port p).ring.length < 256 ∧
     wellFormed (.frameReceived p f 3) = true) ∧
    (let p := 0
     let f := frame 0x88B5 (List.replicate 46 0)
     let s : State := ported.setReg Reg.DVT_CTRL 0x88B50301
     s.hostLive = true ∧ p < 4 ∧ s.portOn p = true ∧ s.link p = true ∧ f.codeErr = false ∧ 64 ≤ f.len ∧
     f.len ≤ s.rf (Reg.MAC_CFG p) 29 16 ∧ f.fcsOk = true ∧ f.etype ≠ 0x8808 ∧ f.etype = s.rf Reg.DVT_CTRL 31 16 ∧
     beAt f.payload 0 1 % 16 ≠ 15 ∧ s.rb Reg.DVT_CTRL 0 = true ∧ s.boot.l1 = none ∧ p < 2 ∧ s.net.subs = [] ∧
     wellFormed (.frameReceived p f 3) = true) ∧
    (let p := 0
     let k := 511
     let f : Frame := { frame 0x88B5 ([16, 0, 0, 0, 7, 0, 0, 0, 0, 0, 0, 1, 0, 2, 0, 0] ++ (List.range 48).map (fun i => BitVec.ofNat 8 i)) with len := 82 }
     let x : Sub := { Sub.reset with on := true }
     let s : State := ((({ ported with net := { Net.reset with subs := [(511, x)] } }.setReg Reg.DVT_CTRL 0x88B50301).setReg (Reg.DVT_RXID 511) 0x90000007).setReg (Reg.DVT_RXMAP 511) 2)
     s.hostLive = true ∧ p < 4 ∧ s.portOn p = true ∧ s.link p = true ∧ f.codeErr = false ∧ 64 ≤ f.len ∧
     f.len ≤ s.rf (Reg.MAC_CFG p) 29 16 ∧ f.fcsOk = true ∧ f.etype ≠ 0x8808 ∧ f.etype = s.rf Reg.DVT_CTRL 31 16 ∧
     beAt f.payload 0 1 = 16 + b2n (s.rb (Reg.DVT_RXID k) 30) ∧ s.rb Reg.DVT_CTRL 0 = true ∧ s.boot.l1 = none ∧
     p < 2 ∧ k < 512 ∧ s.net.subs = [(k, x)] ∧ x.on = true ∧ x.copies = [] ∧ x.taken = [] ∧ x.heard = [] ∧
     s.rf (Reg.DVT_RXID k) 22 0 = beAt f.payload 2 3 ∧ s.rb (Reg.DVT_RXID k) (28 + p) = true ∧
     beAt f.payload 12 2 = s.rf (Reg.DVT_RXMAP k) 8 0 ∧
     f.payload.length = 16 + 8 * s.rf (Reg.DVT_RXMAP k) 8 0 * fmtW (s.rb (Reg.DVT_RXID k) 30) ∧
     ((beAt f.payload 6 6 : Int) - 1) * 1000000 * 1099511627776 ≤ 12 * cut16 (s.tim.t8 (s.rxStamp p 3)) ∧
     s.relays = false ∧ s.pst.run = false ∧ wellFormed (.frameReceived p f 3) = true) := by
  iterate 3 refine ⟨by decide +kernel, ?_⟩
  decide +kernel

theorem witness_StreamCommands :
    (let k := 511
     let v : Word := 0xB0000007
     let s : State := { ported with pst := { Pst.reset with run := true } }.setReg (Reg.DVT_RXMAP 511) (wd (2046 * 65536 + 2))
     s.hostLive = true ∧ k < 512 ∧ s.pst.run = true ∧ bit v 31 = true ∧ s.rb (Reg.DVT_RXID k) 31 = false ∧
     s.rf (Reg.DVT_RXMAP k) 26 16 + s.rf (Reg.DVT_RXMAP k) 8 0 ≤ 2048 ∧
     nchOk (bit v 30) (s.rf (Reg.DVT_RXMAP k) 8 0) = true ∧ s.rxEnabled = [] ∧ (s.sub k).on = false ∧
     (s.typeWrite (Reg.DVT_RXID k) v).budgetOk = true ∧ wellFormed (.subscriptionEnable k v) = true) ∧
    (let k := 511
     let v : Word := 0xB0000007
     let s : State := { ported with pst := { Pst.reset with run := true } }.setReg (Reg.DVT_RXMAP 511) (wd (2047 * 65536 + 2))
     s.hostLive = true ∧ k < 512 ∧ s.pst.run = true ∧ bit v 31 = true ∧
     2048 < s.rf (Reg.DVT_RXMAP k) 26 16 + s.rf (Reg.DVT_RXMAP k) 8 0 ∧ wellFormed (.subscriptionEnable k v) = true) ∧
    (let k := 511
     let v : Word := wd (2 ^ 31 + 2558 * 512 + 2)
     let s : State := ported
     s.hostLive = true ∧ k < 512 ∧ bit v 31 = true ∧ fld v 26 24 = 0 ∧ fld v 20 9 + fld v 8 0 ≤ 2560 ∧
     nchOk (bit v 30) (fld v 8 0) = true ∧ (s.tx k).on = false ∧ s.rb (Reg.DVT_TXCFG k) 31 = false ∧
     (s.typeWrite (Reg.DVT_TXCFG k) v).budgetOk = true ∧ wellFormed (.transmitStreamEnable k v) = true) ∧
    (let k := 511
     let v : Word := wd (2 ^ 31 + 2)
     let s : State := (List.range 20).foldl (fun s i => s.setReg (Reg.DVT_TXCFG i) (wd (2 ^ 31 + 2 ^ 24 + 60))) ported
     s.hostLive = true ∧ k < 512 ∧ bit v 31 = true ∧ fld v 26 24 = 0 ∧ fld v 20 9 + fld v 8 0 ≤ 2560 ∧
     nchOk (bit v 30) (fld v 8 0) = true ∧ (s.typeWrite (Reg.DVT_TXCFG k) v).budgetOk = false ∧
     wellFormed (.transmitStreamEnable k v) = true) ∧
    (let r := 15
     let v : Word := wd (2 ^ 31 + 64 * 2 ^ 22 + 64 * 2 ^ 15)
     let s : State := { up with net := { Net.reset with arx := [(15, ⟨some 1, [], none, []⟩)] } }.setReg Reg.PWR_STATUS 64
     s.hostLive = true ∧ r < 16 ∧ bit v 31 = true ∧ 1 ≤ fld v 28 22 ∧ fld v 28 22 ≤ 64 ∧
     fld v 21 15 + fld v 28 22 ≤ 128 ∧ (∀ i ∈ List.range 16, s.rb (Reg.DVT_A67RXCFG i) 31 = false) ∧
     wellFormed (.aes67StreamEnable false r v) = true) ∧
    (let r := 15
     let v : Word := wd (2 ^ 31 + 2 * 2 ^ 22)
     let s : State := { up with net := { Net.reset with atx := [(15, ⟨some 1, [], none, []⟩)] } }.setReg Reg.PWR_STATUS 64
     s.hostLive = true ∧ r < 16 ∧ bit v 31 = true ∧ 1 ≤ fld v 28 22 ∧ fld v 28 22 ≤ 64 ∧
     fld v 21 15 + fld v 28 22 ≤ 128 ∧ (∀ i ∈ List.range 16, s.rb (Reg.DVT_A67TXCFG i) 31 = false) ∧
     a67Spp v * fld v 28 22 * a67W v ≤ 1440 ∧ wellFormed (.aes67StreamEnable true r v) = true) ∧
    (let k := 0
     let m := 9
     let f : Fol := { Fol.fresh 7 with out := [(0, 77)] }
     let s : State := ({ ported with net := { Net.reset with txs := [(0, ⟨true, none⟩)] }, pst := { Pst.reset with egress := some 9, fols := [f] } }.setReg Reg.DVT_CTRL 0x88B50301).setReg (Reg.DVT_TXCFG 0) (wd (2 ^ 31 + 2 ^ 24 + 2))
     s.hostLive = true ∧ k < 512 ∧ s.pst.egress = some m ∧ s.outFol m = some f ∧ s.rb Reg.DVT_CTRL 0 = true ∧
     s.net.txs = [(k, ⟨true, none⟩)] ∧ fld (s.reg (Reg.DVT_TXCFG k)) 27 24 = 1 ∧ s.portSends 0 = true ∧
     s.portOn 3 = false ∧ wellFormed (.dvtRelease) = true) ∧
    (let s : State := ported
     s.hostLive = true ∧ s.pst.egress = none ∧ wellFormed (.dvtRelease) = true) ∧
    (let k := 511
     let s : State := ({ ported with net := { Net.reset with subs := [(511, { Sub.reset with on := true, miss := 3 })] } }.setReg Reg.DVT_CTRL 0x88B50301).setReg (Reg.DVT_RXID 511) 0x94000007
     s.hostLive = true ∧ k < 512 ∧ (s.sub k).on = true ∧ (s.sub k).lost = false ∧
     s.rf Reg.DVT_CTRL 15 8 ≤ (s.sub k).miss ∧ wellFormed (.streamLoss k) = true) := by
  iterate 8 refine ⟨by decide +kernel, ?_⟩
  decide +kernel

theorem witness_ExchangeCommands :
    (let c := 255
     let v := wd (2 ^ 31 + 7 * 65536 + 0x21FF)
     let s : State := up.setReg Reg.PWR_STATUS 0x80
     s.hostLive = true ∧ c < 1280 ∧ s.powered (Reg.EXC_CFG c) = true ∧ excInOk (fld v 15 0) = true ∧
     (c < 256 ∨ fld v 18 16 ≤ 4) ∧ wellFormed (.excCfgWrite c v) = true) ∧
    (let c := 1279
     let v := wd (2 ^ 31 + 4 * 65536 + 0x607F)
     let s : State := up.setReg Reg.PWR_STATUS 0x80
     s.hostLive = true ∧ c < 1280 ∧ s.powered (Reg.EXC_CFG c) = true ∧ excInOk (fld v 15 0) = true ∧
     (c < 256 ∨ fld v 18 16 ≤ 4) ∧ wellFormed (.excCfgWrite c v) = true) ∧
    (let c := 0
     let v := wd (2 ^ 31 + 0x6080)
     let s : State := up.setReg Reg.PWR_STATUS 0x80
     s.hostLive = true ∧ c < 1280 ∧ s.powered (Reg.EXC_CFG c) = true ∧ excInOk (fld v 15 0) = false ∧
     wellFormed (.excCfgWrite c v) = true) ∧
    (let c := 1279
     let v := wd (2 ^ 31 + 0x607F)
     let s : State := up
     s.hostLive = true ∧ c < 1280 ∧ s.powered (Reg.EXC_CFG c) = false ∧ wellFormed (.excCfgWrite c v) = true) ∧
    (let c := 255
     let s : State := (up.setExc c { ExcCh.reset with st := .acquire }).setExc 7 { ExcCh.reset with fill := 3 }
     s.hostLive = true ∧ c < 256 ∧ (s.exc c).st = .acquire ∧ wellFormed (.acquireLock c) = true) ∧
    (let c := 0
     let rate := 7999999
     let s : State := up.setExc c { ExcCh.reset with st := .locked, losses := 65535 }
     s.hostLive = true ∧ c < 256 ∧ (s.exc c).st = .locked ∧ wellFormed (.inputLoss c rate) = true) ∧
    (let c := 0
     let rate := 7999999
     let s : State := (up.setExc c { ExcCh.reset with st := .locked, losses := 65535 }).setReg Reg.EXC_CNT_LOSS 0xFFFFFFFF
     s.hostLive = true ∧ c < 256 ∧ (s.exc c).st = .locked ∧ wellFormed (.inputLoss c rate) = true) ∧
    (let c := 255
     let s : State := up.setExc c { ExcCh.reset with st := .locked }
     s.hostLive = true ∧ c < 256 ∧ (s.exc c).st = .locked ∧ (s.exc c).fadeOut = none ∧
     wellFormed (.phaseError c) = true) ∧
    (let c := 0
     let rate := 216000000
     let s : State := up.setExc c { ExcCh.reset with st := .lost, fadeOut := some 8 }
     s.hostLive = true ∧ c < 256 ∧ (s.exc c).st = .lost ∧ rateInRange rate = true ∧
     wellFormed (.inputResume c rate) = true) ∧
    (let c := 0
     let rate := 216000001
     let s : State := up.setExc c { ExcCh.reset with st := .lost, fadeOut := some 8 }
     s.hostLive = true ∧ rateInRange rate = false ∧ wellFormed (.inputResume c rate) = true) ∧
    (let c := 256
     let dev : Int := -20001
     let s : State := up.setExc c { ExcCh.reset with st := .locked, fill := 96 }
     s.hostLive = true ∧ 256 ≤ c ∧ (s.exc c).st = .locked ∧ wellFormed (.syncRatioCheck c dev) = true) ∧
    (let c := 1279
     let dev : Int := 20000
     let s : State := up.setExc c { ExcCh.reset with st := .locked, fill := 96 }
     s.hostLive = true ∧ 256 ≤ c ∧ (s.exc c).st = .locked ∧ wellFormed (.syncRatioCheck c dev) = true) := by
  iterate 11 refine ⟨by decide +kernel, ?_⟩
  decide +kernel

theorem witness_SinkChainRegisters :
    (let k := 2559
     let v := wd (2 ^ 31 + (vaultSlots - 4))
     let s : State := ((up.setReg Reg.PWR_STATUS 32).setReg (Reg.OUT_DLEN k) 4).setReg (Reg.OUT_DCFG 3) (wd (2 ^ 31 + (vaultSlots - 8))) |>.setReg (Reg.OUT_DLEN 3) 4
     s.hostLive = true ∧ k < 2560 ∧ bit v 31 = true ∧ s.domOn 6 = true ∧ s.lineOn k = false ∧
     fld v 24 0 + s.lineLen k ≤ vaultSlots ∧ s.linesOn = [3] ∧
     (∀ j ∈ s.linesOn, j = k ∨ fld v 24 0 + s.lineLen k ≤ s.lineBase j ∨ s.lineBase j + s.lineLen j ≤ fld v 24 0) ∧
     wellFormed (.dcfgWrite k v) = true) ∧
    (let k := 0
     let v := wd (2 ^ 31 + (vaultSlots - 3))
     let s : State := (up.setReg Reg.PWR_STATUS 32).setReg (Reg.OUT_DLEN k) 4
     s.hostLive = true ∧ k < 2560 ∧ bit v 31 = true ∧ s.domOn 6 = true ∧ vaultSlots < fld v 24 0 + s.lineLen k ∧
     wellFormed (.dcfgWrite k v) = true) ∧
    (let k := 1
     let v := wd 256
     let s : State := (up.setReg (Reg.OUT_DLEN k) 4).setReg (Reg.OUT_DCFG k) 0x80000000
     s.hostLive = true ∧ k < 2560 ∧ s.lineOn k = true ∧ fld v 29 0 ≤ (s.lineLen k - 3) * 256 ∧
     (fld v 29 0 % 256 = 0 ∨ 256 ≤ fld v 29 0) ∧ wellFormed (.dlyWrite k v) = true) ∧
    (let k := 2559
     let v := wd 0
     let s : State := up
     s.hostLive = true ∧ s.lineOn k = false ∧ wellFormed (.dlyWrite k v) = true) ∧
    (let k := 2559
     let v := wd 4194304
     let s : State := up
     s.hostLive = true ∧ s.lineOn k = false ∧ 4 ≤ fld v 22 0 ∧ fld v 22 0 ≤ 4194304 ∧
     wellFormed (.dlenWrite k v) = true) ∧
    (let k := 0
     let v := wd 4
     let s : State := up.setReg (Reg.OUT_DCFG k) 0x80000000
     s.hostLive = true ∧ s.lineOn k = true ∧ wellFormed (.dlenWrite k v) = true) ∧
    (let k := 0
     let v := wd 0xFFFFFFE0
     let s : State := up
     s.hostLive = true ∧ fld v 5 0 ≤ 32 ∧ wellFormed (.limWrite k false v) = true) ∧
    (let k := 2559
     let v := wd 1
     let s : State := up
     s.hostLive = true ∧ fld v 30 0 ≠ 0 ∧ wellFormed (.limWrite k true v) = true) ∧
    (let k := 2559
     let v := wd 33
     let s : State := up
     s.hostLive = true ∧ 32 < fld v 5 0 ∧ wellFormed (.limWrite k false v) = true) := by
  iterate 8 refine ⟨by decide +kernel, ?_⟩
  decide +kernel

theorem witness_AudioAndTillPorts :
    (let n := 15
     let v := wd 0xC0000000
     let s : State := up.setReg Reg.PWR_STATUS 0x80
     s.hostLive = true ∧ n < 16 ∧ s.powered (Reg.SAP_CFG n) = true ∧ fld v 29 28 ≠ 3 ∧ fld v 26 25 ≠ 3 ∧
     bit v 31 = true ∧ s.sapOn n = false ∧ bit v 30 = true ∧ wellFormed (.sapEnable n v) = true) ∧
    (let n := 0
     let v := wd 0xA4000000
     let s : State := up.setReg Reg.PWR_STATUS 0x80
     s.hostLive = true ∧ n < 16 ∧ s.powered (Reg.SAP_CFG n) = true ∧ fld v 29 28 ≠ 3 ∧ fld v 26 25 ≠ 3 ∧
     bit v 31 = true ∧ s.sapOn n = false ∧ bit v 30 = false ∧ wellFormed (.sapEnable n v) = true) ∧
    (let n := 3
     let v := wd 0xB0000000
     let s : State := up.setReg Reg.PWR_STATUS 0x80
     s.hostLive = true ∧ s.powered (Reg.SAP_CFG n) = true ∧ fld v 29 28 = 3 ∧ wellFormed (.sapEnable n v) = true) ∧
    (let n := 0
     let v := wd 0x84000000
     let s : State := (up.setReg Reg.PWR_STATUS 0x80).setReg (Reg.SAP_CFG 0) 0xE0000000
     s.hostLive = true ∧ s.powered (Reg.SAP_CFG n) = true ∧ s.sapOn n = true ∧
     fld v 30 27 ≠ s.rf (Reg.SAP_CFG n) 30 27 ∧ wellFormed (.sapEnable n v) = true) ∧
    (let n := 15
     let s : State := (up.setReg Reg.PWR_STATUS 0x80).setReg (Reg.SAP_CFG 15) 0xC0000000
     s.hostLive = true ∧ s.powered Reg.SAP_ALIGN = true ∧ s.sapOn n = true ∧ s.sapMaster n = true ∧
     wellFormed (.sapAlign (bitw n)) = true) ∧
    (let n := 2
     let ws : List Word := [1, 2]
     let s : State := (up.setReg (Reg.SAP_CFG 2) 0xA0000000).setSap 2 { SapPort.reset with rx := List.replicate 47 [], tx := List.replicate 17 [] }
     s.hostLive = true ∧ s.sapOn n = true ∧ s.sapMaster n = false ∧ 16 ≤ (s.sapPort n).rx.length ∧
     (s.sapPort n).rx.length < 48 ∧ 17 ≤ (s.sapPort n).tx.length ∧ (s.sapPort n).tx.length ≤ 48 ∧
     wellFormed (.slaveFrame n (s.sapBits n) ws) = true) ∧
    (let n := 2
     let ws : List Word := [1, 2]
     let s : State := ((up.setReg (Reg.SAP_CFG 2) 0xA0000000).setSap 2 { SapPort.reset with rx := List.replicate 16 [], tx := List.replicate 48 [] }) |>.setExc 7 { ExcCh.reset with cfg := wd (2 ^ 31 + 0x2041) }
     s.hostLive = true ∧ s.sapOn n = true ∧ s.sapMaster n = false ∧ 16 ≤ (s.sapPort n).rx.length ∧
     (s.sapPort n).rx.length < 48 ∧ 17 ≤ (s.sapPort n).tx.length ∧ (s.sapPort n).tx.length ≤ 48 ∧ 1 < s.sapSlots n ∧
     bit (s.exc 7).cfg 31 = true ∧ fld (s.exc 7).cfg 15 0 = 0x2000 + 32 * n + 1 ∧ s.out.exc = [(7, s.exc 7)] ∧
     wellFormed (.slaveFrame n 256 ws) = true) ∧
    (let n := 2
     let s : State := (up.setReg (Reg.SAP_CFG 2) 0xA0000000).setSap 2 { SapPort.reset with rx := List.replicate 16 [], tx := List.replicate 48 [] }
     s.hostLive = true ∧ s.sapOn n = true ∧ s.sapMaster n = false ∧ 255 ≠ s.sapBits n ∧
     wellFormed (.slaveFrame n 255 [1]) = true) ∧
    (let n := 3
     let s : State := (up.setReg (Reg.TIL_CFG n) 0x80000001).setTill n { TillPort.reset with discard := true }
     s.hostLive = true ∧ n < 4 ∧ bit (s.tilCfg n) 31 = true ∧ (s.till n).rx.length < 16384 ∧
     wellFormed (.tillWordReceived n 5 true) = true) ∧
    (let n := 0
     let s : State := (up.setReg (Reg.TIL_CFG n) 0x80000001).setTill n { TillPort.reset with pos := 3 }
     s.hostLive = true ∧ n < 4 ∧ bit (s.tilCfg n) 31 = true ∧ (s.till n).discard = false ∧
     (s.till n).rx.length < 16384 ∧ wellFormed (.tillWordReceived n 5 false) = true) ∧
    (let n := 3
     let s : State := (up.setReg (Reg.TIL_CFG n) 0x80000001).setTill n { TillPort.reset with rx := List.replicate 16384 (0, false) }
     s.hostLive = true ∧ n < 4 ∧ bit (s.tilCfg n) 31 = true ∧ 16384 ≤ (s.till n).rx.length ∧
     wellFormed (.tillWordReceived n 5 true) = true) ∧
    (let n := 3
     let s : State := (up.setReg (Reg.TIL_CFG n) 0x40000001).setTill n { TillPort.reset with tx := [(7, true), (8, false)] }
     s.hostLive = true ∧ (s.till n).hold = false ∧ bit (s.tilCfg n) 30 = true ∧ wellFormed (.tillWordSent n) = true) ∧
    (let n := 0
     let s : State := (up.setReg (Reg.TIL_CFG n) 0x40000001).setTill n { TillPort.reset with tx := [(7, true), (8, false)], hold := true }
     s.hostLive = true ∧ (s.till n).hold = true ∧ wellFormed (.tillWordSent n) = true) ∧
    (let n := 3
     let s : State := up
     s.hostLive = true ∧ wellFormed (.tillHold n true) = true) ∧
    (let n := 3
     let v := wd (16384 * 65536 + 16383)
     let s : State := up.setReg Reg.PWR_STATUS 0x80
     s.hostLive = true ∧ s.powered (Reg.TIL_WM n) = true ∧ fld v 14 0 < fld v 30 16 ∧ fld v 30 16 ≤ 16384 ∧
     wellFormed (.tilWmWrite n v) = true) ∧
    (let n := 0
     let v := wd (5 * 65536 + 5)
     let s : State := up.setReg Reg.PWR_STATUS 0x80
     s.hostLive = true ∧ s.powered (Reg.TIL_WM n) = true ∧ fld v 30 16 ≤ fld v 14 0 ∧
     wellFormed (.tilWmWrite n v) = true) := by
  iterate 15 refine ⟨by decide +kernel, ?_⟩
  decide +kernel

theorem witness_DelayLineAndLimiterWritesComplete :
    (let k := 0
     let v := wd (2 ^ 31 + 4)
     let s : State := ((up.setReg Reg.PWR_STATUS 32).setReg (Reg.OUT_DLEN k) 5).setReg (Reg.OUT_DCFG 3) (wd (2 ^ 31)) |>.setReg (Reg.OUT_DLEN 3) 4
     s.hostLive = true ∧ k < 2560 ∧ bit v 31 = true ∧ s.domOn 6 = true ∧ fld v 24 0 + s.lineLen k ≤ vaultSlots ∧
     (∀ j ∈ s.linesOn, j = k ∨ fld v 24 0 + s.lineLen k ≤ s.lineBase j ∨ s.lineBase j + s.lineLen j ≤ fld v 24 0) ∧
     s.lineOn k = false ∧ wellFormed (.dcfgWrite k v) = true) ∧
    (let k := 2559
     let v := wd (2 ^ 31 + 2 ^ 27 + 4)
     let s : State := ((up.setReg Reg.PWR_STATUS 32).setReg (Reg.OUT_DLEN k) 5).setReg (Reg.OUT_DCFG k) (wd (2 ^ 31 + 4))
     s.hostLive = true ∧ k < 2560 ∧ bit v 31 = true ∧ s.domOn 6 = true ∧ fld v 24 0 + s.lineLen k ≤ vaultSlots ∧
     s.linesOn = [k] ∧ s.lineOn k = true ∧ fld v 24 0 = s.lineBase k ∧ wellFormed (.dcfgWrite k v) = true) ∧
    (let k := 0
     let v := wd (2 ^ 31)
     let s : State := up.setReg Reg.PWR_STATUS 0
     s.hostLive = true ∧ k < 2560 ∧ bit v 31 = true ∧ s.domOn 6 = false ∧ wellFormed (.dcfgWrite k v) = true) ∧
    (let k := 2559
     let v := wd 77
     let s : State := ((up.setReg Reg.PWR_STATUS 32).setReg (Reg.OUT_DLY k) 512).setReg (Reg.OUT_DCFG k) (wd (2 ^ 31 + 4))
     s.hostLive = true ∧ k < 2560 ∧ bit v 31 = false ∧ s.lineOn k = true ∧ wellFormed (.dcfgWrite k v) = true) ∧
    (let k := 2559
     let v := wd 0
     let s : State := (up.setReg (Reg.OUT_DLEN k) 4).setReg (Reg.OUT_DCFG k) 0x80000000
     s.hostLive = true ∧ k < 2560 ∧ s.lineOn k = true ∧ fld v 29 0 ≤ (s.lineLen k - 3) * 256 ∧
     (fld v 29 0 % 256 = 0 ∨ 256 ≤ fld v 29 0) ∧ wellFormed (.dlyWrite k v) = true) ∧
    (let k := 0
     let v := wd 257
     let s : State := { (up.setReg (Reg.OUT_DLEN k) 5).setReg (Reg.OUT_DCFG k) 0x80000000 with out := { Out.reset with staged := [(0, (Reg.OUT_DLY 0, 5))] } }
     s.hostLive = true ∧ k < 2560 ∧ s.lineOn k = true ∧ fld v 29 0 ≤ (s.lineLen k - 3) * 256 ∧
     (fld v 29 0 % 256 = 0 ∨ 256 ≤ fld v 29 0) ∧ wellFormed (.dlyWrite k v) = true) ∧
    (let k := 0
     let v := wd 255
     let s : State := (up.setReg (Reg.OUT_DLEN k) 5).setReg (Reg.OUT_DCFG k) 0x80000000
     s.hostLive = true ∧ k < 2560 ∧ fld v 29 0 % 256 ≠ 0 ∧ fld v 29 0 < 256 ∧ wellFormed (.dlyWrite k v) = true) ∧
    (let k := 0
     let v := wd 4
     let s : State := up
     s.hostLive = true ∧ k < 2560 ∧ s.lineOn k = false ∧ 4 ≤ fld v 22 0 ∧ fld v 22 0 ≤ 4194304 ∧
     wellFormed (.dlenWrite k v) = true) ∧
    (let k := 2559
     let v := wd 4194305
     let s : State := up
     s.hostLive = true ∧ k < 2560 ∧ 4194304 < fld v 22 0 ∧ wellFormed (.dlenWrite k v) = true) ∧
    (let k := 2559
     let v := wd 0xFFFFFFE0
     let s : State := up
     s.hostLive = true ∧ k < 2560 ∧ fld v 5 0 ≤ 32 ∧ wellFormed (.limWrite k false v) = true) ∧
    (let k := 0
     let v := wd 0x7FFFFFFF
     let s : State := up
     s.hostLive = true ∧ k < 2560 ∧ fld v 30 0 ≠ 0 ∧ wellFormed (.limWrite k true v) = true) ∧
    (let k := 0
     let v := wd 33
     let s : State := up
     s.hostLive = true ∧ k < 2560 ∧ 32 < fld v 5 0 ∧ wellFormed (.limWrite k false v) = true) ∧
    (let k := 2559
     let v := wd 0
     let s : State := up
     s.hostLive = true ∧ k < 2560 ∧ fld v 30 0 = 0 ∧ wellFormed (.limWrite k true v) = true) := by
  iterate 12 refine ⟨by decide +kernel, ?_⟩
  decide +kernel

theorem witness_RemitWords :
    (let src := 1086324736
     let dst := 1088421824
     let len := 64
     let x := dst * 4294967296 + src
     let n := 15
     let w := 2 ^ 60 + 64
     let s : State := ((((live.wrWord 0x40001000 (wd (w % 2 ^ 32))).wrWord (0x40001000 + 4) (wd (w / 2 ^ 32)))).wrWord 0x40001008 (wd src) |>.wrWord 0x4000100C (wd dst) |>.wrWord src 0x01020304).setRmt n { RmtCh.reset with st := .run, pc := 0x40001000 }
     s.hostLive = true ∧ n < 16 ∧ (s.rmtCh n).st = .run ∧ (s.rmtCh n).waiting = false ∧ (s.rmtCh n).ending = false ∧
     s.rmtWord (s.rmtCh n).pc = some w ∧ rmtReserved w = false ∧ rmtOp w = 1 ∧
     s.rmtWord ((s.rmtCh n).pc + 8) = some x ∧ (s.rmtCh n).loop = none ∧ rmtFld w 59 57 = 0 ∧ rmtFld w 23 0 = len ∧
     1 ≤ len ∧ x % 4294967296 = src ∧ x / 4294967296 = dst ∧ 0x40C00000 ≤ src ∧ src + len ≤ 0x40E00000 ∧
     0x40C00000 ≤ dst ∧ dst + len ≤ 0x40E00000 ∧ s.rmtWinner = some n ∧
     s.rmtMove n = some ⟨src, dst, len, false, false, false⟩ ∧ s.rf (Reg.RMT_CFG n) 7 0 = 0 ∧
     RmtMove.burst ⟨src, dst, len, false, false, false⟩ = len ∧ wellFormed (.move n) = true) ∧
    (let src := 1088421887
     let dst := 1086324863
     let len := 1
     let x := dst * 4294967296 + src
     let n := 0
     let w := 2 ^ 60 + 1
     let s : State := ((((live.wrWord 0x40001000 (wd (w % 2 ^ 32))).wrWord (0x40001000 + 4) (wd (w / 2 ^ 32)))).wrWord 0x40001008 (wd src) |>.wrWord 0x4000100C (wd dst) |>.wrWord src 0x01020304).setRmt n { RmtCh.reset with st := .run, pc := 0x40001000 }
     s.hostLive = true ∧ n < 16 ∧ (s.rmtCh n).st = .run ∧ (s.rmtCh n).waiting = false ∧ (s.rmtCh n).ending = false ∧
     s.rmtWord (s.rmtCh n).pc = some w ∧ rmtReserved w = false ∧ rmtOp w = 1 ∧
     s.rmtWord ((s.rmtCh n).pc + 8) = some x ∧ (s.rmtCh n).loop = none ∧ rmtFld w 59 57 = 0 ∧ rmtFld w 23 0 = len ∧
     1 ≤ len ∧ x % 4294967296 = src ∧ x / 4294967296 = dst ∧ 0x40C00000 ≤ src ∧ src + len ≤ 0x40E00000 ∧
     0x40C00000 ≤ dst ∧ dst + len ≤ 0x40E00000 ∧ s.rmtWinner = some n ∧
     s.rmtMove n = some ⟨src, dst, len, false, false, false⟩ ∧ s.rf (Reg.RMT_CFG n) 7 0 = 0 ∧
     RmtMove.burst ⟨src, dst, len, false, false, false⟩ = len ∧ wellFormed (.move n) = true) ∧
    (let src := 1086332931
     let dst := 1086337025
     let len := 63
     let x := dst * 4294967296 + src
     let n := 0
     let w := 2 ^ 60 + 63
     let s : State := ((((live.wrWord 0x40001000 (wd (w % 2 ^ 32))).wrWord (0x40001000 + 4) (wd (w / 2 ^ 32)))).wrWord 0x40001008 (wd src) |>.wrWord 0x4000100C (wd dst) |>.wrWord src 0x01020304).setRmt n { RmtCh.reset with st := .run, pc := 0x40001000 }
     s.hostLive = true ∧ n < 16 ∧ (s.rmtCh n).st = .run ∧ (s.rmtCh n).waiting = false ∧ (s.rmtCh n).ending = false ∧
     s.rmtWord (s.rmtCh n).pc = some w ∧ rmtReserved w = false ∧ rmtOp w = 1 ∧
     s.rmtWord ((s.rmtCh n).pc + 8) = some x ∧ (s.rmtCh n).loop = none ∧ rmtFld w 59 57 = 0 ∧ rmtFld w 23 0 = len ∧
     1 ≤ len ∧ x % 4294967296 = src ∧ x / 4294967296 = dst ∧ 0x40C00000 ≤ src ∧ src + len ≤ 0x40E00000 ∧
     0x40C00000 ≤ dst ∧ dst + len ≤ 0x40E00000 ∧ s.rmtWinner = some n ∧
     s.rmtMove n = some ⟨src, dst, len, false, false, false⟩ ∧ s.rf (Reg.RMT_CFG n) 7 0 = 0 ∧
     RmtMove.burst ⟨src, dst, len, false, false, false⟩ = len ∧ wellFormed (.move n) = true) ∧
    (let src := 1086332931
     let dst := 1086332929
     let len := 20
     let x := dst * 4294967296 + src
     let n := 0
     let w := 2 ^ 60 + 20
     let s : State := ((((live.wrWord 0x40001000 (wd (w % 2 ^ 32))).wrWord (0x40001000 + 4) (wd (w / 2 ^ 32)))).wrWord 0x40001008 (wd src) |>.wrWord 0x4000100C (wd dst) |>.wrWord src 0x01020304).setRmt n { RmtCh.reset with st := .run, pc := 0x40001000 }
     s.hostLive = true ∧ n < 16 ∧ (s.rmtCh n).st = .run ∧ (s.rmtCh n).waiting = false ∧ (s.rmtCh n).ending = false ∧
     s.rmtWord (s.rmtCh n).pc = some w ∧ rmtReserved w = false ∧ rmtOp w = 1 ∧
     s.rmtWord ((s.rmtCh n).pc + 8) = some x ∧ (s.rmtCh n).loop = none ∧ rmtFld w 59 57 = 0 ∧ rmtFld w 23 0 = len ∧
     1 ≤ len ∧ x % 4294967296 = src ∧ x / 4294967296 = dst ∧ 0x40C00000 ≤ src ∧ src + len ≤ 0x40E00000 ∧
     0x40C00000 ≤ dst ∧ dst + len ≤ 0x40E00000 ∧ s.rmtWinner = some n ∧
     s.rmtMove n = some ⟨src, dst, len, false, false, false⟩ ∧ s.rf (Reg.RMT_CFG n) 7 0 = 0 ∧
     RmtMove.burst ⟨src, dst, len, false, false, false⟩ = len ∧ wellFormed (.move n) = true) ∧
    (let src := 1086332931
     let dst := 1088421886
     let len := 5
     let n := 3
     let s : State := live.setRmt n { RmtCh.reset with st := .run, pc := 0x40001000, mv := some ⟨src, dst, len, false, false, false⟩ } |>.wrWord 1086332932 0x01020304
     s.hostLive = true ∧ s.rmtMove n = some ⟨src, dst, len, false, false, false⟩ ∧ s.rmtWinner = some n ∧
     s.rf (Reg.RMT_CFG n) 7 0 = 0 ∧ RmtMove.burst ⟨src, dst, len, false, false, false⟩ = 2 ∧
     wellFormed (.move n) = true) ∧
    (let n := 3
     let s : State := (live.setRmt n { RmtCh.reset with st := .run, pc := 0x40001000, mv := some ⟨1073750019, 1088421886, 5, false, false, false⟩ }).setRmt 2 { RmtCh.reset with st := .run, pc := 0x40001000, mv := some ⟨1073750019, 1088421886, 5, false, false, false⟩ }
     s.hostLive = true ∧ (s.rmtMove n).isSome = true ∧ s.rmtWinner ≠ some n ∧ wellFormed (.move n) = true) ∧
    (let n := 15
     let w := 2 * 2 ^ 60 + 255 * 2 ^ 52 + 1 * 2 ^ 36 + 5
     let s : State := (((live.wrWord 0x40001000 (wd (w % 2 ^ 32))).wrWord (0x40001000 + 4) (wd (w / 2 ^ 32)))).setRmt n { RmtCh.reset with st := .run, pc := 0x40001000 }
     s.hostLive = true ∧ n < 16 ∧ (s.rmtCh n).st = .run ∧ (s.rmtCh n).waiting = false ∧ (s.rmtCh n).ending = false ∧
     s.rmtWord (s.rmtCh n).pc = some w ∧ rmtReserved w = false ∧ rmtOp w = 2 ∧ (s.rmtCh n).loop = none ∧
     rmtFld w 59 52 ≠ 0 ∧ rmtFld w 51 36 = 1 ∧ wellFormed (.remitLoop n) = true) ∧
    (let n := 0
     let w := 2 * 2 ^ 60 + 255 * 2 ^ 52 + 2 * 2 ^ 36 + 5
     let s : State := (((live.wrWord 0x40001000 (wd (w % 2 ^ 32))).wrWord (0x40001000 + 4) (wd (w / 2 ^ 32)))).setRmt n { RmtCh.reset with st := .run, pc := 0x40001000 }
     s.hostLive = true ∧ n < 16 ∧ (s.rmtCh n).st = .run ∧ (s.rmtCh n).waiting = false ∧ (s.rmtCh n).ending = false ∧
     s.rmtWord (s.rmtCh n).pc = some w ∧ rmtReserved w = false ∧ rmtOp w = 2 ∧ (s.rmtCh n).loop = none ∧
     rmtFld w 59 52 ≠ 0 ∧ 2 ≤ rmtFld w 51 36 ∧ wellFormed (.remitLoop n) = true) ∧
    (let n := 0
     let w := 2 * 2 ^ 60 + 1 * 2 ^ 52 + 3 * 2 ^ 36 + 5
     let s : State := (((live.wrWord 0x40001000 (wd (w % 2 ^ 32))).wrWord (0x40001000 + 4) (wd (w / 2 ^ 32)))).setRmt n { RmtCh.reset with st := .run, pc := 0x40001000, loop := some ⟨0x40000FF8, 0x40001000, 0, 4, 0, 5⟩ }
     s.hostLive = true ∧ n < 16 ∧ (s.rmtCh n).st = .run ∧ (s.rmtCh n).waiting = false ∧ (s.rmtCh n).ending = false ∧
     s.rmtWord (s.rmtCh n).pc = some w ∧ rmtReserved w = false ∧ rmtOp w = 2 ∧ True ∧
     wellFormed (.remitLoop n) = true) ∧
    (let n := 0
     let w := 2 * 2 ^ 60 + 1 * 2 ^ 52 + 3 * 2 ^ 36 + 5
     let s : State := (((live.wrWord 0x40001000 (wd (w % 2 ^ 32))).wrWord (0x40001000 + 4) (wd (w / 2 ^ 32)))).setRmt n { RmtCh.reset with st := .run, pc := 0x40001000, loop := some ⟨0x40000FF8, 0x40001000, 7, 4, 0, 5⟩ }
     s.hostLive = true ∧ n < 16 ∧ (s.rmtCh n).st = .run ∧ (s.rmtCh n).waiting = false ∧ (s.rmtCh n).ending = false ∧
     s.rmtWord (s.rmtCh n).pc = some w ∧ rmtReserved w = false ∧ rmtOp w = 2 ∧ True ∧
     wellFormed (.remitLoop n) = true) ∧
    (let n := 0
     let w := 3 * 2 ^ 60 + 2 * 2 ^ 58 + 15
     let s : State := (((live.wrWord 0x40001000 (wd (w % 2 ^ 32))).wrWord (0x40001000 + 4) (wd (w / 2 ^ 32)))).setRmt n { RmtCh.reset with st := .run, pc := 0x40001000 }
     s.hostLive = true ∧ n < 16 ∧ (s.rmtCh n).st = .run ∧ (s.rmtCh n).waiting = false ∧ (s.rmtCh n).ending = false ∧
     s.rmtWord (s.rmtCh n).pc = some w ∧ rmtReserved w = false ∧ rmtOp w = 3 ∧ s.waitHolds w = false ∧
     wellFormed (.wait n) = true) ∧
    (let n := 15
     let w := 3 * 2 ^ 60 + 2 * 2 ^ 58 + 31
     let s : State := ((((live.wrWord 0x40001000 (wd (w % 2 ^ 32))).wrWord (0x40001000 + 4) (wd (w / 2 ^ 32)))).setReg Reg.RMT_FLAG 0xFFFF).setRmt n { RmtCh.reset with st := .run, pc := 0x40001000 }
     s.hostLive = true ∧ n < 16 ∧ (s.rmtCh n).st = .run ∧ (s.rmtCh n).waiting = false ∧ (s.rmtCh n).ending = false ∧
     s.rmtWord (s.rmtCh n).pc = some w ∧ rmtReserved w = false ∧ rmtOp w = 3 ∧ s.waitHolds w = true ∧
     rmtFld w 59 58 = 2 ∧ wellFormed (.wait n) = true) ∧
    (let n := 15
     let w := 3 * 2 ^ 60 + 3 * 2 ^ 58 + 15
     let s : State := ((((live.wrWord 0x40001000 (wd (w % 2 ^ 32))).wrWord (0x40001000 + 4) (wd (w / 2 ^ 32)))).setReg Reg.RMT_TSIG 0xFFFF).setRmt n { RmtCh.reset with st := .run, pc := 0x40001000, waiting := true }
     s.hostLive = true ∧ n < 16 ∧ s.waitHolds w = true ∧ rmtFld w 59 58 = 3 ∧ s.rmtWord (s.rmtCh n).pc = some w ∧
     (s.rmtCh n).waiting = true ∧ wellFormed (.waitConditionMet n) = true) ∧
    (let n := 15
     let w := 4 * 2 ^ 60 + 2 ^ 59 + 15
     let s : State := (((live.wrWord 0x40001000 (wd (w % 2 ^ 32))).wrWord (0x40001000 + 4) (wd (w / 2 ^ 32)))).setRmt n { RmtCh.reset with st := .run, pc := 0x40001000 }
     s.hostLive = true ∧ n < 16 ∧ (s.rmtCh n).st = .run ∧ (s.rmtCh n).waiting = false ∧ (s.rmtCh n).ending = false ∧
     s.rmtWord (s.rmtCh n).pc = some w ∧ rmtReserved w = false ∧ rmtOp w = 4 ∧ True ∧ wellFormed (.signal n) = true) ∧
    (let n := 15
     let w := 5 * 2 ^ 60 + 4294967288
     let s : State := (((live.wrWord 0x40001000 (wd (w % 2 ^ 32))).wrWord (0x40001000 + 4) (wd (w / 2 ^ 32)))).setRmt n { RmtCh.reset with st := .run, pc := 0x40001000 }
     s.hostLive = true ∧ n < 16 ∧ (s.rmtCh n).st = .run ∧ (s.rmtCh n).waiting = false ∧ (s.rmtCh n).ending = false ∧
     s.rmtWord (s.rmtCh n).pc = some w ∧ rmtReserved w = false ∧ rmtOp w = 5 ∧ rmtFld w 31 0 % 8 = 0 ∧
     wellFormed (.link n) = true) ∧
    (let n := 15
     let w := 5 * 2 ^ 60 + 4294967292
     let s : State := (((live.wrWord 0x40001000 (wd (w % 2 ^ 32))).wrWord (0x40001000 + 4) (wd (w / 2 ^ 32)))).setRmt n { RmtCh.reset with st := .run, pc := 0x40001000 }
     s.hostLive = true ∧ n < 16 ∧ (s.rmtCh n).st = .run ∧ (s.rmtCh n).waiting = false ∧ (s.rmtCh n).ending = false ∧
     s.rmtWord (s.rmtCh n).pc = some w ∧ rmtReserved w = false ∧ rmtOp w = 5 ∧ rmtFld w 31 0 % 8 ≠ 0 ∧
     wellFormed (.link n) = true) ∧
    (let n := 15
     let w := 0
     let s : State := (((live.wrWord 0x40001000 (wd (w % 2 ^ 32))).wrWord (0x40001000 + 4) (wd (w / 2 ^ 32)))).setRmt n { RmtCh.reset with st := .run, pc := 0x40001000 }
     s.hostLive = true ∧ n < 16 ∧ (s.rmtCh n).st = .run ∧ (s.rmtCh n).waiting = false ∧ (s.rmtCh n).ending = false ∧
     s.rmtWord (s.rmtCh n).pc = some w ∧ rmtReserved w = false ∧ rmtOp w = 0 ∧ True ∧
     wellFormed (.remitEnd n) = true) ∧
    (let n := 15
     let w := 0
     let s : State := (((live.wrWord 0x40001000 (wd (w % 2 ^ 32))).wrWord (0x40001000 + 4) (wd (w / 2 ^ 32)))).setRmt n { RmtCh.reset with st := .run, pc := 0x40001000, db := true }
     s.hostLive = true ∧ n < 16 ∧ (s.rmtCh n).st = .run ∧ (s.rmtCh n).waiting = false ∧ (s.rmtCh n).ending = false ∧
     s.rmtWord (s.rmtCh n).pc = some w ∧ rmtReserved w = false ∧ rmtOp w = 0 ∧ True ∧
     wellFormed (.remitEnd n) = true) := by
  iterate 17 refine ⟨by decide +kernel, ?_⟩
  decide +kernel

theorem witness_RemitCommands :
    (let n := 15
     let s : State := (live.setReg Reg.RMT_CTRL 1).setRmt n { RmtCh.reset with st := .idle, pc := 0x40001000, db := true, cause := 3 }
     s.hostLive = true ∧ n < 16 ∧ (s.rmtCh n).st = .idle ∧ s.rb Reg.RMT_CTRL 0 = true ∧
     wellFormed (.rmtStart n) = true) ∧
    (let n := 15
     let s : State := (live).setRmt n { RmtCh.reset with st := .run, pc := 0x40001000 }
     s.hostLive = true ∧ n < 16 ∧ (s.rmtCh n).st = .run ∧ True ∧ wellFormed (.rmtStart n) = true) ∧
    (let n := 15
     let s : State := (live).setRmt n { RmtCh.reset with st := .run, pc := 0x40001000 }
     s.hostLive = true ∧ n < 16 ∧ (s.rmtCh n).st = .run ∧ True ∧ wellFormed (.halt n) = true) ∧
    (let n := 15
     let s : State := (live).setRmt n { RmtCh.reset with st := .run, pc := 0x40001000 }
     s.hostLive = true ∧ n < 16 ∧ (s.rmtCh n).st = .run ∧ True ∧ wellFormed (.abort n) = true) ∧
    (let n := 15
     let s : State := (live).setRmt n { RmtCh.reset with st := .run, pc := 0x40001000 }
     s.hostLive = true ∧ n < 16 ∧ (s.rmtCh n).st = .run ∧ True ∧ wellFormed (.doorbell (bitw n)) = true) ∧
    (let n := 15
     let s : State := (live).setRmt n { RmtCh.reset with st := .run, pc := 0x40001000 }
     s.hostLive = true ∧ n < 16 ∧ (s.rmtCh n).st = .run ∧ True ∧ wellFormed (.rmtPcWrite n 64) = true) ∧
    (let n := 15
     let s : State := (live).setRmt n { RmtCh.reset with st := .halted, pc := 0x40001000 }
     s.hostLive = true ∧ n < 16 ∧ (s.rmtCh n).st = .halted ∧ True ∧ wellFormed (.resume n) = true) ∧
    (let n := 15
     let s : State := (live.wrWord 0x40001000 9 |>.wrWord 0x40001004 0x10000000).setRmt n { RmtCh.reset with st := .halted, pc := 0x40001000 }
     s.hostLive = true ∧ n < 16 ∧ (s.rmtCh n).st = .halted ∧ s.rmtRest (s.rmtCh n) = 9 ∧
     wellFormed (.abort n) = true) ∧
    (let n := 0
     let s : State := (live).setRmt n { RmtCh.reset with st := .idle, pc := 0x40001000 }
     s.hostLive = true ∧ n < 16 ∧ (s.rmtCh n).st = .idle ∧ True ∧ wellFormed (.resume n) = true) ∧
    (let n := 0
     let s : State := (live).setRmt n { RmtCh.reset with st := .idleAtEnd, pc := 0x40001000 }
     s.hostLive = true ∧ n < 16 ∧ (s.rmtCh n).st = .idleAtEnd ∧ True ∧ wellFormed (.abort n) = true) ∧
    (let n := 15
     let s : State := (live.wrWord 0x40001000 9).setRmt n { RmtCh.reset with st := .idleAtEnd, pc := 0x40001000 }
     s.hostLive = true ∧ n < 16 ∧ (s.rmtCh n).st = .idleAtEnd ∧ isEnd (s.rmtWord (s.rmtCh n).pc) = false ∧
     wellFormed (.doorbell (bitw n)) = true) ∧
    (let n := 15
     let s : State := (live).setRmt n { RmtCh.reset with st := .idle, pc := 0x40001000 }
     s.hostLive = true ∧ n < 16 ∧ (s.rmtCh n).st = .idle ∧ True ∧ wellFormed (.rmtPcWrite n 0xFFFFFFFF) = true) ∧
    (let n := 15
     let s : State := (live).setRmt n { RmtCh.reset with st := .halting, pc := 0x40001000 }
     s.hostLive = true ∧ n < 16 ∧ (s.rmtCh n).st = .halting ∧ True ∧ wellFormed (.channelRetired n) = true) ∧
    (let n := 15
     let s : State := (live).setRmt n { RmtCh.reset with st := .run, pc := 0x40001000, ending := true }
     s.hostLive = true ∧ n < 16 ∧ (s.rmtCh n).st = .run ∧ True ∧ wellFormed (.channelRetired n) = true) ∧
    (let n := 15
     let s : State := (live).setRmt n { RmtCh.reset with st := .run, pc := 0x40001000 }
     s.hostLive = true ∧ n < 16 ∧ (s.rmtCh n).st = .run ∧ s.clh.inflight = [] ∧ s.kwy.out = none ∧
     wellFormed (.disable n) = true) ∧
    (let n := 15
     let s : State := (live.setReg Reg.RMT_CTRL 1).setRmt n { RmtCh.reset with st := .run, pc := 0x40001000 }
     s.hostLive = true ∧ n < 16 ∧ (s.rmtCh n).st = .run ∧ s.clh.inflight = [] ∧ s.kwy.out = none ∧
     wellFormed (.engineDisable 0) = true) := by
  iterate 15 refine ⟨by decide +kernel, ?_⟩
  decide +kernel

theorem witness_GainChanges :
    (let addr := 0x209FFFFC
     let codes : List Half := [0xF400, 0x1000]
     let s : State := ledgerUp 0x31
     s.hostLive = true ∧ s.domOn 5 = true ∧ 0x20000000 ≤ addr ∧ addr + 2 * codes.length ≤ 0x20A00000 ∧ addr % 2 = 0 ∧
     s.rb Reg.LDG_CTRL 0 = true ∧ s.ldg.waiting = [] ∧ s.ldg.queue.length + codes.length ≤ 4096 ∧
     wellFormed (.gainStoreWrite addr codes) = true) ∧
    (let addr := 0x20000000
     let codes : List Half := [0xF400, 0x1000]
     let s : State := (ledgerUp 1).setLdg { Ldg.reset with queue := List.replicate 4095 ⟨0, 0, 0⟩ }
     s.hostLive = true ∧ s.domOn 5 = true ∧ 0x20000000 ≤ addr ∧ addr + 2 * codes.length ≤ 0x20A00000 ∧ addr % 2 = 0 ∧
     s.rb Reg.LDG_CTRL 0 = true ∧ 4096 < s.ldg.queue.length + codes.length ∧
     wellFormed (.gainStoreWrite addr codes) = true) ∧
    (let addr := 0x20000002
     let codes : List Half := [0xF400, 0x1000]
     let s : State := ledgerUp 0
     s.hostLive = true ∧ s.domOn 5 = true ∧ 0x20000000 ≤ addr ∧ addr + 2 * codes.length ≤ 0x20A00000 ∧ addr % 2 = 0 ∧
     s.rb Reg.LDG_CTRL 0 = false ∧ s.ldg.waiting = [] ∧ wellFormed (.gainStoreWrite addr codes) = true) ∧
    (let addr := 0x20000001
     let s : State := ledgerUp 0
     s.hostLive = true ∧ addr % 2 ≠ 0 ∧ wellFormed (.gainStoreWrite addr [1]) = true) ∧
    (let addr := 0x20000000
     let s : State := live
     s.hostLive = true ∧ s.domOn 5 = false ∧ wellFormed (.gainStoreWrite addr [1]) = true) ∧
    (let s : State := (ledgerUp 0xF1).setLdg { Ldg.reset with waiting := [.gain none [(2, 7), (3, 8)]], queue := List.replicate 4094 ⟨0, 0, 0⟩ }
     s.hostLive = true ∧ s.rb Reg.LDG_CTRL 0 = true ∧ s.ldg.queue.length + 2 ≤ 4096 ∧
     wellFormed (.waitingBeat) = true) ∧
    (let s : State := (ledgerUp 0xF1).setLdg { Ldg.reset with waiting := [.gain none [(2, 7), (3, 8)]], queue := List.replicate 4095 ⟨0, 0, 0⟩ }
     s.hostLive = true ∧ s.rb Reg.LDG_CTRL 0 = true ∧ 4096 < s.ldg.queue.length + 2 ∧
     wellFormed (.waitingBeat) = true) ∧
    (let s : State := (ledgerUp 1).setLdg { Ldg.reset with waiting := [.ramp [(0x21000000, 5)], .gain none [(0, 1)]] }
     s.hostLive = true ∧ s.rb Reg.LDG_CTRL 0 = true ∧ wellFormed (.waitingBeat) = true) ∧
    (let s : State := (ledgerUp 1).setReg Reg.LDG_CHGX 5242880
     s.hostLive = true ∧ s.domOn 5 = true ∧ xpCount ≤ s.rf Reg.LDG_CHGX 22 0 ∧
     wellFormed (.chgvWrite 0x3F400) = true) ∧
    (let s : State := ((ledgerUp 1).setReg Reg.LDG_CHGX 5242879).setLdg { Ldg.reset with queue := List.replicate 4095 ⟨0, 0, 0⟩ }
     s.hostLive = true ∧ s.domOn 5 = true ∧ s.rf Reg.LDG_CHGX 22 0 < xpCount ∧ s.rb Reg.LDG_CTRL 0 = true ∧
     s.ldg.queue.length < 4096 ∧ wellFormed (.chgvWrite 0xF3F400) = true) ∧
    (let s : State := ((ledgerUp 1).setReg Reg.LDG_CHGX 5242879).setLdg { Ldg.reset with queue := List.replicate 4096 ⟨0, 0, 0⟩ }
     s.hostLive = true ∧ s.domOn 5 = true ∧ s.rf Reg.LDG_CHGX 22 0 < xpCount ∧ s.rb Reg.LDG_CTRL 0 = true ∧
     4096 ≤ s.ldg.queue.length ∧ wellFormed (.chgvWrite 0xF3F400) = true) ∧
    (let s : State := ((ledgerUp 0).setReg Reg.LDG_CHGX 5242879).setLdg { Ldg.reset with queue := List.replicate 4096 ⟨0, 0, 0⟩ }
     s.hostLive = true ∧ s.domOn 5 = true ∧ s.rf Reg.LDG_CHGX 22 0 < xpCount ∧ s.rb Reg.LDG_CTRL 0 = false ∧
     wellFormed (.chgvWrite 0xF3F400) = true) ∧
    (let s : State := (ledgerUp 1).setLdg { Ldg.reset with queue := [⟨5, 0xF400, 15⟩, ⟨6, 1, 0⟩] }
     s.hostLive = true ∧ s.ldg.ramps = [] ∧ s.ldg.fresh = [] ∧ s.ldg.held = [] ∧ s.rb Reg.LDG_CTRL 1 = false ∧
     s.gain 5 ≠ 0xF400 ∧ wellFormed (.changeAccept) = true) ∧
    (let s : State := (ledgerUp 3).setLdg { Ldg.reset with queue := [⟨5, 0xF400, 15⟩, ⟨6, 1, 0⟩] }
     s.hostLive = true ∧ s.ldg.ramps = [] ∧ s.ldg.fresh = [] ∧ s.ldg.held = [] ∧ s.rb Reg.LDG_CTRL 1 = true ∧
     s.gain 5 ≠ 0xF400 ∧ wellFormed (.changeAccept) = true) ∧
    (let s : State := (ledgerUp 3).setLdg { Ldg.reset with queue := [⟨5, 0, 15⟩, ⟨6, 1, 0⟩] }
     s.hostLive = true ∧ s.ldg.ramps = [] ∧ s.ldg.fresh = [] ∧ s.ldg.held = [] ∧ s.gain 5 = 0 ∧
     wellFormed (.changeAccept) = true) ∧
    (let s : State := (ledgerUp 3).setLdg { Ldg.reset with held := [(0, ⟨5, 0, 0xF400, 960, 0, false, false⟩)] }
     s.powered Reg.LDG_CTRL = true ∧ s.hostLive = true ∧ wellFormed (.holdWrite 3) = true) ∧
    (let s : State := (ledgerUp 3).setLdg { Ldg.reset with held := [(0, ⟨5, 0, 0xF400, 960, 0, false, false⟩)] }
     s.powered Reg.LDG_CTRL = true ∧ s.hostLive = true ∧ s.ldg.fresh = [] ∧ wellFormed (.holdWrite 1) = true) ∧
    (let s : State := (ledgerUp 3).setLdg { Ldg.reset with fresh := [(0, ⟨5, 0, 0xF400, 960, 0, false, false⟩)] }
     s.hostLive = true ∧ s.powered Reg.LDG_CTRL = true ∧ s.ldg.held = [] ∧ wellFormed (.holdWrite 1) = true) ∧
    (let s : State := live
     s.hostLive = true ∧ s.powered Reg.LDG_CTRL = false ∧ wellFormed (.holdWrite 1) = true) ∧
    (let addr := 0x210FFFFC
     let s : State := ledgerUp 1
     s.hostLive = true ∧ s.domOn 5 = true ∧ 0x21000000 ≤ addr ∧ addr + 4 ≤ 0x21100000 ∧ addr % 4 = 0 ∧
     s.ldg.waiting = [] ∧ s.rb Reg.LDG_CTRL 0 = true ∧ wellFormed (.rampTableWrite addr [5]) = true) ∧
    (let addr := 0x210FFFF8
     let s : State := ledgerUp 0
     s.hostLive = true ∧ s.domOn 5 = true ∧ 0x21000000 ≤ addr ∧ addr + 8 ≤ 0x21100000 ∧ addr % 4 = 0 ∧
     s.ldg.waiting = [] ∧ s.rb Reg.LDG_CTRL 0 = false ∧ wellFormed (.rampTableWrite addr [5, 6]) = true) ∧
    (let s : State := ledgerUp 0
     s.hostLive = true ∧ s.powered Reg.LDG_REPTB = true ∧ s.pst.paused = false ∧
     bindOk s.isA (fld (0x7000 : Word) 15 0) = false ∧ wellFormed (.repoint 0x7000) = true) ∧
    (let s : State := (ledgerUp 0).setReg Reg.LDG_REPT 0xF7FF
     s.hostLive = true ∧ s.powered Reg.LDG_REPTB = true ∧ s.pst.paused = false ∧
     bindOk s.isA (fld (0x507F : Word) 15 0) = true ∧ (s.gate 2047).phase = .normal ∧
     wellFormed (.repoint 0x507F) = true) ∧
    (let s : State := ((ledgerUp 0).setReg Reg.LDG_REPT 0xF7FF).setLdg { Ldg.reset with gates := [(2047, ⟨.silent, 0xF400, 960, 8, 0x1000⟩)] }
     s.hostLive = true ∧ s.powered Reg.LDG_REPTB = true ∧ s.pst.paused = false ∧
     bindOk s.isA (fld (0x507F : Word) 15 0) = true ∧ (s.gate 2047).phase = .silent ∧
     wellFormed (.repoint 0x507F) = true) ∧
    (let addr := 0x20000002
     let codes : List Half := [0xF400, 0x1000]
     let f : Fol := { Fol.fresh 4 with slot := true }
     let s : State := ({ ledgerUp 0 with pst := { Pst.reset with run := true, next := 5, cur := some 4, fols := [f] } }).setGain 2 7
     s.hostLive = true ∧ s.domOn 5 = true ∧ 0x20000000 ≤ addr ∧ addr + 2 * codes.length ≤ 0x20A00000 ∧ addr % 2 = 0 ∧
     s.rb Reg.LDG_CTRL 0 = false ∧ s.ldg.waiting = [] ∧ s.pst.cur.isSome = true ∧
     wellFormed (.gainStoreWrite addr codes) = true) ∧
    (let f : Fol := { Fol.fresh 4 with slot := true }
     let s : State := ({ ledgerUp 0 with pst := { Pst.reset with run := true, next := 5, cur := some 4, fols := [f] } }).setReg Reg.LDG_CHGX 0
     s.hostLive = true ∧ s.domOn 5 = true ∧ s.rf Reg.LDG_CHGX 22 0 < xpCount ∧ s.rb Reg.LDG_CTRL 0 = false ∧
     s.pst.cur.isSome = true ∧ wellFormed (.chgvWrite 0xF3F400) = true) ∧
    (let s : State := (ledgerUp 0xF1).setLdg { Ldg.reset with waiting := [.gain none [(2, 7), (3, 8)], .gain none [(9, 9)]], queue := List.replicate 4094 ⟨0, 0, 0⟩ }
     s.hostLive = true ∧ s.rb Reg.LDG_CTRL 0 = true ∧ s.ldg.queue.length + 2 ≤ 4096 ∧
     wellFormed (.waitingBeat) = true) ∧
    (let s : State := (ledgerUp 0xF1).setLdg { Ldg.reset with waiting := [.gain none [(2, 7), (3, 8)], .gain none [(9, 9)]], queue := List.replicate 4093 ⟨0, 0, 0⟩ }
     s.hostLive = true ∧ s.rb Reg.LDG_CTRL 0 = true ∧ s.ldg.queue.length + 2 ≤ 4096 ∧
     wellFormed (.waitingBeat) = true) ∧
    (let f : Fol := { Fol.fresh 4 with slot := true }
     let s : State := { (ledgerUp 0).setReg Reg.LDG_REPT 0 with pst := { Pst.reset with run := true, paused := true, next := 5, fols := [f] } }
     s.hostLive = true ∧ s.powered Reg.LDG_REPTB = true ∧ (s.pst.paused = false ∨ ∀ f ∈ s.pst.fols, f.slot = true) ∧
     bindOk s.isA (fld (0x507F : Word) 15 0) = true ∧ (s.gate 0).phase = .normal ∧
     wellFormed (.repoint 0x507F) = true) ∧
    (let f : Fol := { Fol.fresh 4 with src := [(8, 0x100000), (17, 6)], raw := [(8, 0x100000), (17, 6)] }
     let len := 960
     let s : State := { ((ledgerUp 0).setReg Reg.LDG_REPT 1).setReg (Reg.LDG_RAMPT 0) 960 with pst := { Pst.reset with run := true, paused := true, next := 5, fols := [f] } }
     s.hostLive = true ∧ s.powered Reg.LDG_REPTB = true ∧ bindOk s.isA (fld (0x507F : Word) 15 0) = true ∧
     s.rf Reg.LDG_REPT 10 0 = 1 ∧ s.rf (Reg.LDG_RAMPT (s.rf Reg.LDG_REPT 15 12)) 17 0 = len ∧ f.slot = false ∧
     f.n < s.pst.next ∧ f.gates0 = [] ∧ f.binds0 = [] ∧ s.ldg.gates = [] ∧ s.ldg.repoints = [] ∧
     wellFormed (.repoint 0x507F) = true) := by
  iterate 29 refine ⟨by decide +kernel, ?_⟩
  decide +kernel

theorem witness_FolioCommands :
    (let f : Fol := { Fol.fresh 2 with chained := List.range 64, out := [(8 * 2528, 0x12345678)] }
     let s : State := { inFolio 5 with pst := { Pst.reset with run := true, fols := [f] } }
     s.hostLive = true ∧ folioOf s.sysT = 5 ∧ s.boot.fieldPend = false ∧ f.n + 3 = 5 ∧ f.chained.length = 64 ∧
     s.pst.paused = false ∧ s.isA = true ∧ s.kwy.link = .up ∧ s.level ≠ 1 ∧ s.boot.crossAt = none ∧
     wellFormed (.folioStart) = true) ∧
    (let s : State := { inFolio 5 with pst := { Pst.reset with run := true, egress := some 3 } }
     s.hostLive = true ∧ folioOf s.sysT ≠ 0 ∧ s.boot.fieldPend = false ∧ wellFormed (.folioStart) = true) ∧
    (let s : State := { inFolio 5 with pst := { Pst.reset with run := true, next := 6 } }
     s.hostLive = true ∧ s.pst.run = true ∧ s.pst.early = [] ∧ s.rb Reg.PST_CTRL 1 = false ∧
     wellFormed (.entryCut) = true) ∧
    (let s : State := live
     s.hostLive = true ∧ s.pst.run = false ∧ wellFormed (.entryCut) = true) ∧
    (let f : Fol := Fol.fresh 4
     let s : State := { inFolio 6 with pst := { Pst.reset with run := true, next := 5, fols := [f] } }
     s.hostLive = true ∧ s.pst.run = true ∧ f.slot = false ∧ s.tim.pendAct = none ∧ s.tim.jclr = false ∧
     f.open_ = [] ∧ f.posted = false ∧ s.pst.deferred = [] ∧ f.n ≤ folioOf s.sysT ∧ folioOf s.sysT ≤ f.n + 2 ∧
     wellFormed (.mixSlotStart) = true) ∧
    (let f : Fol := Fol.fresh 6
     let s : State := { inFolio 5 with pst := { Pst.reset with run := true, next := 7, fols := [f] } }
     s.hostLive = true ∧ s.pst.run = true ∧ f.slot = false ∧ folioOf s.sysT < f.n ∧ s.pst.paused = false ∧
     wellFormed (.mixSlotStart) = true) ∧
    (let f : Fol := Fol.fresh 4
     let s : State := { inFolio 7 with pst := { Pst.reset with run := true, next := 5, fols := [f] } }
     s.hostLive = true ∧ s.pst.run = true ∧ f.slot = false ∧ f.n + 2 < folioOf s.sysT ∧
     wellFormed (.mixSlotStart) = true) ∧
    (let f : Fol := { Fol.fresh 4 with slot := true, mixed := 63, rows := [(8, 0x100000), (17, 0x7FFFFFFF)], mix := [(3, 9)] }
     let s : State := ({ inFolio 5 with pst := { Pst.reset with run := true, next := 5, cur := some 4, fols := [f] } }.setReg Reg.PWR_STATUS 0x10).setGain (2559 * 2048 + 1) 0xF400
     s.hostLive = true ∧ s.pst.cur = some 4 ∧ f.mixed < 64 ∧ s.domOn 5 = true ∧ wellFormed (.groupMixEnd []) = true) ∧
    (let f : Fol := { Fol.fresh 4 with slot := true, mixed := 64, rows := [(8, 0x100000)], remix := [⟨0, 0, [1, 39]⟩], mix := [(3, 9)] }
     let s : State := ({ inFolio 5 with pst := { Pst.reset with run := true, next := 5, cur := some 4, fols := [f] } }.setReg Reg.PWR_STATUS 0x10).setGain (39 * 2048 + 1) 0xF400
     s.hostLive = true ∧ s.domOn 5 = true ∧ wellFormed (.remixEnd) = true) := by
  iterate 8 refine ⟨by decide +kernel, ?_⟩
  decide +kernel

theorem witness_PostingCommands :
    (let f : Fol := { Fol.fresh 4 with conc := [2047] }
     let s : State := { inFolio 6 with pst := { Pst.reset with run := true, fols := [f] } }
     s.hostLive = true ∧ f.posted = false ∧ f.waits = false ∧ s.rb Reg.PST_CTRL 1 = false ∧
     wellFormed (.postingCut) = true) ∧
    (let f : Fol := { Fol.fresh 4 with conc := [2047] }
     let s : State := { inFolio 6 with pst := { Pst.reset with run := true, fols := [f] } }.setReg Reg.PST_CTRL 2
     s.hostLive = true ∧ f.posted = false ∧ f.waits = false ∧ s.rb Reg.PST_CTRL 1 = true ∧ s.hng.receipts = [] ∧
     wellFormed (.postingCut) = true) ∧
    (let s : State := live.setReg Reg.PST_CTRL 2
     s.hostLive = true ∧ s.rb Reg.PST_CTRL 1 = true ∧ s.fol? 9 = none ∧ wellFormed (.receipt 9 [0x80, 1] []) = true) ∧
    (let f : Fol := { Fol.fresh 4 with conc := [2047], waits := true }
     let s : State := { inFolio 6 with pst := { Pst.reset with run := true, fols := [f] } }.setReg Reg.PST_CTRL 2
     s.hostLive = true ∧ s.rb Reg.PST_CTRL 1 = true ∧ wellFormed (.receipt 4 [0x80, 1] []) = true) ∧
    (let s : State := live
     s.hostLive = true ∧ s.rb Reg.PST_CTRL 1 = false ∧ wellFormed (.receipt 9 [0x80, 1] []) = true) ∧
    (let f : Fol := { Fol.fresh 4 with conc := [2047], waits := true }
     let s : State := { inFolio 6 with pst := { Pst.reset with run := true, fols := [f] } }.setReg Reg.PST_CTRL 2
     s.hostLive = true ∧ wellFormed (.receiptMissing) = true) ∧
    (let f : Fol := ({ Fol.fresh 4 with posted := true, sink := [(8 * 2559 + 7, 0x100), (8, 5)] }).setEntry 63 .final
     let s : State := { inFolio 6 with pst := { Pst.reset with run := true, fols := [f] } }.setReg (Reg.OUT_FMT 2558) 0
     s.hostLive = true ∧ f.posted = true ∧ f.entry 63 = .final ∧ f.chained = [] ∧ s.out.staged = [] ∧
     s.linkedGroups 63 = [] ∧ f.tval = [] ∧ f.undef = false ∧ wellFormed (.sinkChainGroup ⟨63, [], []⟩) = true) ∧
    (let f : Fol := ({ Fol.fresh 4 with posted := true, sink := [(8, 5), (15, 6)] }).setEntry 0 .final
     let s : State := ({ inFolio 6 with pst := { Pst.reset with run := true, fols := [f] } }.setReg (Reg.OUT_LIM 1) 0).setReg (Reg.OUT_FMT 1) 0
     s.hostLive = true ∧ f.posted = true ∧ f.entry 0 = .final ∧ (s.snk 1).on = false ∧ s.limOn 1 = false ∧
     s.limLa 1 = 0 ∧ s.outFmt 1 = 0 ∧ f.tval = [] ∧ wellFormed (.sinkChainGroup ⟨0, [], []⟩) = true) ∧
    (let f : Fol := { Fol.fresh 4 with conc := [2047] }
     let s : State := { inFolio 6 with pst := { Pst.reset with run := true, fols := [f] } }.setReg Reg.PST_CTRL 2
     s.hostLive = true ∧ s.rb Reg.PST_CTRL 1 = true ∧ f.waits = false ∧ f.posted = false ∧
     wellFormed (.receipt 4 [0x80, 1] []) = true) ∧
    (let f : Fol := { Fol.fresh 4 with posted := true }
     let s : State := { inFolio 6 with pst := { Pst.reset with run := true, fols := [f] } }.setReg Reg.PST_CTRL 2
     s.hostLive = true ∧ f.waits = false ∧ f.posted = true ∧ wellFormed (.receipt 4 [0x80, 1] []) = true) := by
  iterate 9 refine ⟨by decide +kernel, ?_⟩
  decide +kernel

theorem witness_SequencerRegisters :
    (let v := wd 0x11
     let s : State := inFolio 6
     s.hostLive = true ∧ s.rb Reg.PST_CTRL 0 = false ∧ bit v 0 = true ∧ wellFormed (.pstEnWrite v) = true) ∧
    (let v := wd 0x10
     let s : State := { inFolio 6 with pst := { Pst.reset with run := true, fols := [Fol.fresh 4, Fol.fresh 5] } }.setReg Reg.PST_CTRL 1
     s.hostLive = true ∧ s.rb Reg.PST_CTRL 0 = true ∧ bit v 0 = false ∧ wellFormed (.pstEnWrite v) = true) ∧
    (let v := wd (90 * 256 + 33)
     let s : State := inFolio 6
     s.hostLive = true ∧ cutsOk (fld v 6 0) (fld v 14 8) s.srcWin s.sinkWin = true ∧ s.rb Reg.PST_CTRL 0 = false ∧
     wellFormed (.pstCutWrite v) = true) ∧
    (let v := wd (33 * 256 + 33)
     let s : State := inFolio 6
     s.hostLive = true ∧ cutsOk (fld v 6 0) (fld v 14 8) s.srcWin s.sinkWin = false ∧
     wellFormed (.pstCutWrite v) = true) ∧
    (let v := wd (90 * 256 + 33)
     let s : State := (inFolio 6).setReg Reg.PST_CTRL 1
     s.hostLive = true ∧ s.rb Reg.PST_CTRL 0 = true ∧ fld v 6 0 ≠ s.entryUs ∧ wellFormed (.pstCutWrite v) = true) ∧
    (let v := wd (19 * 256 + 1)
     let s : State := inFolio 6
     s.hostLive = true ∧ cutsOk s.entryUs (s.rf Reg.PST_CUT 14 8) (fld v 4 0) (fld v 12 8) = true ∧
     s.rb Reg.PST_CTRL 0 = false ∧ wellFormed (.pstWinWrite v) = true) ∧
    (let v := wd (20 * 256 + 1)
     let s : State := inFolio 6
     s.hostLive = true ∧ cutsOk s.entryUs (s.rf Reg.PST_CUT 14 8) (fld v 4 0) (fld v 12 8) = false ∧
     wellFormed (.pstWinWrite v) = true) ∧
    (let s : State := up.setReg Reg.HNG_CTRL 1
     s.hostLive = true ∧ s.hinged = true ∧ wellFormed (.change 7 [.write 5 6]) = true) ∧
    (let s : State := up
     s.hostLive = true ∧ s.hinged = false ∧ wellFormed (.change 7 [.write 5 6]) = true) ∧
    (let a := Reg.DIS_CFG
     let v := wd 0x12345678
     let s : State := { inFolio 6 with pst := { Pst.reset with run := true, cur := some 6 }, hng := { Hng.reset with changes := [(7, [.write a v])] } }
     s.hostLive = true ∧ s.setNow = [] ∧ plainBlock a ∧ s.accessCause .stw true a 4 1 = 0 ∧
     wellFormed (.changePerform) = true) ∧
    (let s : State := { inFolio 6 with pst := { Pst.reset with run := true, cur := some 6 }, hng := { Hng.reset with changes := [(8, [.write 5 6])] } }
     s.hostLive = true ∧ wellFormed (.changePerform) = true) := by
  iterate 10 refine ⟨by decide +kernel, ?_⟩
  decide +kernel

theorem witness_TellerRuns :
    (let t := 5
     let f : Fol := { Fol.fresh 9 with open_ := [1283], prov := [1283] }
     let s : State := { telling Core.reset with pst := { Pst.reset with run := true, fols := [f] }, tel := { (telling Core.reset).tel with cores := [(5, { Core.reset with dirty := [4] })] } }
     s.hostLive = true ∧ s.nextFirst t = some (ctxKey t 3, 9) ∧ (s.core t).run = none ∧
     s.todoOf (ctxKey t 3) = false ∧ wellFormed (.firstRunStart t 3) = true) ∧
    (let t := 5
     let f : Fol := { Fol.fresh 9 with reruns := [(1283, 0)], prov := [1283] }
     let s : State := { telling Core.reset with pst := { Pst.reset with run := true, fols := [f], journal := [⟨5, 3, 9, .sig 1⟩, ⟨5, 4, 9, .sig 2⟩] }, tel := { (telling Core.reset).tel with cores := [(5, { Core.reset with dirty := [4, 8, 23, 24] })] } }
     s.hostLive = true ∧ s.nextRerun t = some (ctxKey t 3, 9) ∧ (s.core t).run = none ∧
     wellFormed (.rerunStart t 3) = true) ∧
    (let t := 5
     let s : State := telling { Core.reset with cyc := 98, sr := 1, stack := [3] }
     s.hostLive = true ∧ (s.core t).cyc + 2 ≤ (s.ctx 1283).decl.cycles ∧
     wellFormed (.endRun t ⟨false, false, 0⟩) = true) ∧
    (let t := 5
     let s : State := telling { Core.reset with cyc := 99, sr := 1, stack := [3] }
     s.hostLive = true ∧ (s.ctx 1283).decl.cycles < (s.core t).cyc + 2 ∧
     wellFormed (.endRun t ⟨false, false, 0⟩) = true) ∧
    (let t := 5
     let s : State := telling { Core.reset with cyc := 100 }
     s.hostLive = true ∧ (s.ctx 1283).decl.cycles ≤ s.runCyc t ∧ wellFormed (.taskOverrun t) = true) ∧
    (let t := 5
     let s : State := telling { Core.reset with cyc := 99 }
     s.hostLive = true ∧ s.runCyc t < (s.ctx 1283).decl.cycles ∧ wellFormed (.taskOverrun t) = true) ∧
    (let t := 5
     let f : Fol := { Fol.fresh 9 with open_ := [1283], prov := [1283] }
     let s0 : State := (telling { Core.reset with cyc := 99 }).setReg Reg.TEL_CTRL 1
     let s : State := { s0 with pst := { Pst.reset with run := true, fols := [f] } }
     s.hostLive = true ∧ s.rb Reg.TEL_CTRL 0 = true ∧ f.n = 9 ∧ f.open_ = [ctxKey t 3] ∧ f.redisp = [] ∧
     wellFormed (.windowWatchdog t) = true) ∧
    (let t := 5
     let s : State := (telling { Core.reset with cyc := 99 }).setReg Reg.TEL_CTRL 0
     s.hostLive = true ∧ s.rb Reg.TEL_CTRL 0 = false ∧ wellFormed (.windowWatchdog t) = true) ∧
    (let t := 5
     let f : Fol := { Fol.fresh 9 with redisp := [(1283, 4000)] }
     let s0 : State := (telling Core.reset).setReg Reg.TEL_CTRL 1
     let s : State := { s0 with pst := { Pst.reset with run := true, fols := [f] }, tel := { s0.tel with cores := [(5, { Core.reset with run := some ⟨3, 9, true⟩ })], ctxs := [(1283, { Ctx.none with decl := { CtxDecl.none with t := 5, ctx := 3, cycles := 100 }, exists_ := true, en := true })] } }
     s.hostLive = true ∧ (s.ctx (ctxKey t 3)).decl.isSrc = false ∧ s.rb Reg.TEL_CTRL 0 = true ∧ f.open_ = [] ∧
     f.redisp = [(ctxKey t 3, 4000)] ∧ wellFormed (.windowWatchdog t) = true) ∧
    (let t := 5
     let f : Fol := { Fol.fresh 9 with open_ := [1283], prov := [1283] }
     let s0 : State := (telling Core.reset).setReg Reg.TEL_CTRL 1
     let s : State := { s0 with tel := { s0.tel with cores := [] }, pst := { Pst.reset with run := true, fols := [f] } }
     s.hostLive = true ∧ firstWindow (s.windows t) = some (1283, ⟨3, 9, false⟩) ∧
     (s.core t).run ≠ some ⟨3, 9, false⟩ ∧ s.rb Reg.TEL_CTRL 0 = true ∧ wellFormed (.windowWatchdog t) = true) ∧
    (let t := 5
     let s : State := telling { Core.reset with cyc := 99, d := [(3, 4)], dirty := [1] }
     s.hostLive = true ∧ wellFormed (.tellerReset t) = true) ∧
    (let t := 5
     let s0 : State := (telling Core.reset).setReg Reg.TEL_CTRL 1
     let s : State := { s0 with pst := { Pst.reset with run := true, fols := [Fol.fresh 9] } }
     s.hostLive = true ∧ s.rb Reg.TEL_CTRL 0 = true ∧ (∀ f ∈ s.pst.fols, f.open_ = [] ∧ f.redisp = []) ∧
     wellFormed (.windowWatchdog t) = true) := by
  iterate 11 refine ⟨by decide +kernel, ?_⟩
  decide +kernel

theorem witness_LdfResponsesAndContexts :
    (let t := 5
     let s0 : State := telling { Core.reset with stall := some (7, 0x40DFFFFC, 0) }
     let s : State := { s0 with clock := 40, clh := { Clh.reset with inflight := [⟨⟨tellerMaster 5, 5, false, 0x40DFFFFC, 4, 1, [], [], .none, 0⟩, .ok, [0x78, 0x56, 0x34, 0x12], false⟩] } }
     s.hostLive = true ∧ (takeDone (tellerMaster t) (t % 16) s.clh.inflight).isSome = true ∧ (s.core t).stale = 0 ∧
     wellFormed (.ldfResponse t) = true) ∧
    (let t := 5
     let s0 : State := telling { Core.reset with stall := some (7, 0x40000000, 0) }
     let s : State := { s0 with clh := { Clh.reset with inflight := [⟨⟨tellerMaster 5, 5, false, 0x40000000, 4, 1, [], [], .none, 0⟩, .err, [], false⟩] } }
     s.hostLive = true ∧ (takeDone (tellerMaster t) (t % 16) s.clh.inflight).isSome = true ∧ (s.core t).stale = 0 ∧
     wellFormed (.ldfResponse t) = true) ∧
    (let t := 5
     let s0 : State := telling { Core.reset with stall := some (7, 0x40000000, 0), stale := 1 }
     let s : State := { s0 with clh := { Clh.reset with inflight := [⟨⟨tellerMaster 5, 5, false, 0x40000000, 4, 1, [], [], .none, 0⟩, .ok, [1, 2, 3, 4], false⟩] } }
     s.hostLive = true ∧ (takeDone (tellerMaster t) (t % 16) s.clh.inflight).isSome = true ∧
     wellFormed (.ldfResponse t) = true) ∧
    (let t := 5
     let s0 : State := telling { Core.reset with stall := some (7, 0x40000000, 0) }
     let s : State := { s0 with clh := { Clh.reset with inflight := [⟨⟨tellerMaster 5, 5, false, 0x40000000, 4, 1, [], [], .none, 0⟩, .ok, [1, 2, 3, 4], true⟩] } }
     s.hostLive = true ∧ (takeDone (tellerMaster t) (t % 16) s.clh.inflight).isSome = true ∧
     wellFormed (.ldfResponse t) = true) ∧
    (let t := 5
     let s : State := telling { Core.reset with stall := some (7, 0x40000000, 0) }
     s.hostLive = true ∧ takeDone (tellerMaster t) (t % 16) s.clh.inflight = none ∧
     wellFormed (.ldfResponse t) = true) ∧
    (let t := 5
     let s : State := telling { Core.reset with stall := some (7, 0x40000000, 0) }
     s.hostLive = true ∧ wellFormed (.ldfTimeout t) = true) ∧
    (let s0 : State := telling Core.reset
     let s : State := { s0 with clh := { Clh.reset with waiting := [⟨.pst, 0, true, 0x40000000, 4, 1, [1, 2, 3, 4], [true, true, true, true], .none, 0⟩] }, pst := { Pst.reset with todo := [(⟨5, 3, 9, .stf 0x40000000 7⟩, true)] } }
     s.hostLive = true ∧ takeStf 0x40000000 s.pst.todo = some (5, []) ∧
     (s.clh.waiting.find? (fun t => t.m == .pst && t.addr == 0x40000000)).isSome = true ∧
     wellFormed (.stfError 0x40000000) = true) ∧
    (let s0 : State := telling Core.reset
     let s : State := { s0 with clh := { Clh.reset with inflight := [⟨⟨.pst, 0, true, 0x40000002, 4, 1, [1, 2, 3, 4], [true, true, true, true], .none, 0⟩, .err, [], false⟩] }, pst := { Pst.reset with todo := [(⟨5, 3, 9, .stf 0x40000002 7⟩, true), (⟨6, 3, 9, .sig 1⟩, false)] } }
     s.hostLive = true ∧ takeStf 0x40000002 s.pst.todo = some (5, [(⟨6, 3, 9, .sig 1⟩, false)]) ∧ s.clh.waiting = [] ∧
     wellFormed (.stfError 0x40000002) = true) ∧
    (let s : State := (telling Core.reset).setReg Reg.TEL_CTXSEL 0x503
     s.hostLive = true ∧ (s.ctx s.ctxSel).exists_ = true ∧ wellFormed (.contextEnable 0xFFFFFFFD) = true) ∧
    (let s : State := (telling Core.reset).setReg Reg.TEL_CTXSEL 0x503
     s.hostLive = true ∧ (s.ctx s.ctxSel).exists_ = true ∧ wellFormed (.contextDisable 2) = true) ∧
    (let s : State := (telling Core.reset).setReg Reg.TEL_CTXSEL 0x503
     s.hostLive = true ∧ wellFormed (.contextDisable 3) = true) ∧
    (let s0 : State := (((telling Core.reset).setReg Reg.TEL_SWAP 0x05000403).setReg Reg.TEL_SWAPF 12100)
     let s : State := ({ s0 with pst := { Pst.reset with cut := 100 } }.setCtx 1284 { Ctx.none with exists_ := true, decl := { CtxDecl.none with cycles := 79900 } })
     s.hostLive = true ∧ (s.ctx (ctxKey 5 3)).exists_ = true ∧ (s.ctx (ctxKey 5 3)).en = true ∧
     (s.ctx (ctxKey 5 4)).exists_ = true ∧
     ((s.ctxsWhere (fun k _ => decide (k / 256 = 5) && (s.runsIn k 12100 || k == ctxKey 5 4))).map (fun k => (s.ctx k).decl.cycles)).foldl (· + ·) 0 ≤ 80000 ∧
     wellFormed (.swapGo 1) = true) ∧
    (let s0 : State := (((telling Core.reset).setReg Reg.TEL_SWAP 0x05000403).setReg Reg.TEL_SWAPF 102)
     let s : State := { s0 with pst := { Pst.reset with cut := 100 } }
     s.hostLive = true ∧ wellFormed (.swapGo 1) = true) ∧
    (let s : State := telling Core.reset
     s.hostLive = true ∧ wellFormed (.swapGo 2) = true) := by
  iterate 13 refine ⟨by decide +kernel, ?_⟩
  decide +kernel

theorem witness_PairsAndReleases :
    (let s : State := up
     let v := wd 1
     s.hostLive = true ∧ s.rb Reg.HNG_CTRL 0 = !(bit v 0) ∧ (s.typeWrite Reg.HNG_CTRL v).budgetOk = true ∧
     bit v 0 = true ∧ wellFormed (.hngEnable v) = true) ∧
    (let s : State := hinged .paired
     let v := wd 0
     s.hostLive = true ∧ s.rb Reg.HNG_CTRL 0 = !(bit v 0) ∧ (s.typeWrite Reg.HNG_CTRL v).budgetOk = true ∧
     bit v 0 = false ∧ wellFormed (.hngEnable v) = true) ∧
    (let s : State := hinged .paired
     s.hostLive = true ∧ s.hinged = true ∧ hmsg.node = s.partner ∧
     wellFormed (.hinge 2 { hmsg with node := 11, release := true } 0) = true) ∧
    (let s0 : State := hinged .pairing
     let s : State := { s0 with hng := { s0.hng with run := 11, runFolio := some 4 }, tim := (inFolio 5).tim }
     s.hostLive = true ∧ s.hinged = true ∧ hmsg.node = s.partner ∧ folioOf s.sysT = 5 ∧
     hmsg.imgId = s.reg Reg.HNG_IMGID ∧ hmsg.st ≠ 4 ∧ wellFormed (.hinge 2 hmsg 0) = true) ∧
    (let s : State := hinged .paired
     s.hostLive = true ∧ s.hinged = true ∧ hmsg.node = s.partner ∧
     wellFormed (.hinge 0 { hmsg with release := true } 0) = true) ∧
    (let s0 : State := hinged .paired
     let s : State := { s0 with hng := { s0.hng with csums := [(4, 9)], mismatches := 3, matches_ := 16 }, tim := (inFolio 5).tim }
     s.hostLive = true ∧ s.hinged = true ∧ hmsg.node = s.partner ∧
     wellFormed (.hinge 1 { hmsg with csum := 9 } 0) = true) ∧
    (let s0 : State := hinged .paired
     let s : State := { s0 with hng := { s0.hng with csums := [(4, 9)], matches_ := 16 }, tim := (inFolio 5).tim }
     s.hostLive = true ∧ s.hinged = true ∧ hmsg.node = s.partner ∧
     wellFormed (.hinge 2 { hmsg with csum := 8 } 0) = true) ∧
    (let s : State := hinged .split
     s.hostLive = true ∧ s.heard250 = false ∧ wellFormed (.heartbeatLoss) = true) ∧
    (let s : State := hinged .yielded
     s.hostLive = true ∧ wellFormed (.heartbeatLoss) = true) ∧
    (let s0 : State := hinged .paired
     let s : State := { s0 with hng := { s0.hng with last2 := some 5 }, clock := 256004 }
     s.hostLive = true ∧ s.heard250 = true ∧ wellFormed (.heartbeatLoss) = true) ∧
    (let s0 : State := hinged .paired
     let s : State := { s0 with hng := { s0.hng with last0 := some 4, last2 := some 5 }, clock := 256004 }
     s.hostLive = true ∧ s.heard250 = true ∧ s.pathUp s.hng.last0 = false ∧ wellFormed (.split) = true) ∧
    (let s : State := hinged .taken
     s.hostLive = true ∧ wellFormed (.split) = true) ∧
    (let s0 : State := hinged .paired
     let s : State := { s0 with hng := { s0.hng with last0 := some 5 }, clock := 256004 }
     s.hostLive = true ∧ s.pathUp s.hng.last0 = true ∧ wellFormed (.split) = true) ∧
    (let k := 511
     let s0 : State := ((((hinged .paired).setReg (Reg.MAC_STATUS 2) 0x80000001).setReg (Reg.DVT_TXCFG 511) (wd (2 ^ 31 + 2 ^ 27 + 2 ^ 24 + 2))).setReg Reg.DVT_CTRL 0x88B50301)
     let s : State := { s0 with tim := (inFolio 12).tim, net := { Net.reset with txs := [(511, ⟨true, none⟩)] }, pst := { Pst.reset with egress := some 9, fols := [{ Fol.fresh 7 with out := [(0, 77)] }] } }
     s.hostLive = true ∧ k < 512 ∧ s.pst.egress = some 9 ∧ (s.outFol 9).isSome = true ∧ s.rb Reg.HNG_CTRL 2 = true ∧
     s.hng.st = .paired ∧ s.link 2 = true ∧ (s.tx k).on = true ∧ s.rb (Reg.DVT_TXCFG k) 27 = true ∧
     s.rb Reg.DVT_CTRL 0 = true ∧ (k, 9) ∉ s.hng.p2Seen ∧ k ∉ s.hng.filled ∧ s.fillAt k 9 ≤ s.sysT ∧
     wellFormed (.fill k) = true) ∧
    (let k := 511
     let s0 : State := ((((hinged .paired).setReg (Reg.MAC_STATUS 2) 0x80000001).setReg (Reg.DVT_TXCFG 511) (wd (2 ^ 31 + 2 ^ 27 + 2 ^ 24 + 2))).setReg Reg.DVT_CTRL 0x88B50301)
     let s : State := { s0 with tim := (inFolio 10).tim, net := { Net.reset with txs := [(511, ⟨true, none⟩)] }, pst := { Pst.reset with egress := some 9, fols := [{ Fol.fresh 7 with out := [(0, 77)] }] } }
     s.hostLive = true ∧ k < 512 ∧ s.pst.egress = some 9 ∧ (s.outFol 9).isSome = true ∧ s.rb Reg.HNG_CTRL 2 = true ∧
     s.hng.st = .paired ∧ s.link 2 = true ∧ (s.tx k).on = true ∧ s.rb (Reg.DVT_TXCFG k) 27 = true ∧
     s.rb Reg.DVT_CTRL 0 = true ∧ s.sysT < s.fillAt k 9 ∧ wellFormed (.fill k) = true) ∧
    (let s : State := hinged .paired
     s.hostLive = true ∧ s.hng.st = .paired ∧ s.hng.rel = none ∧ wellFormed (.give) = true) ∧
    (let s : State := hinged .split
     s.hostLive = true ∧ wellFormed (.give) = true) ∧
    (let s0 : State := hinged .taken
     let s : State := { (s0.setReg Reg.HNG_LINES 0xF0).setReg Reg.HNG_OWN 0x3F with hng := { s0.hng with pSt := 5, pSynced := true } }
     s.hostLive = true ∧ s.partnerLines = 0xC0 ∧ wellFormed (.hngReturn) = true) ∧
    (let s : State := hinged .taken
     s.hostLive = true ∧ s.hng.pSynced = false ∧ wellFormed (.hngReturn) = true) ∧
    (let s0 : State := hinged .paired
     let s : State := { s0 with hng := { s0.hng with rel := some ⟨true, .stopping, 0x80000001⟩ }, kwy := linked.kwy, field := linked.field }
     s.hostLive = true ∧ s.kwy.link = .up ∧ s.field.link = .up ∧
     (∀ c ∈ List.range 32, (0x80000001).testBit c = true → (s.chan c).st = .off) ∧
     wellFormed (.releaseSwitchOpen) = true) ∧
    (let s0 : State := hinged .paired
     let s : State := { s0 with hng := { s0.hng with rel := some ⟨true, .stopping, 0x80000001⟩ } }
     s.hostLive = true ∧ s.isA = true ∧ s.kwy.link ≠ .up ∧ wellFormed (.releaseSwitchOpen) = true) ∧
    (let s0 : State := hinged .paired
     let s : State := { s0 with hng := { s0.hng with rel := some ⟨true, .opening, 0x80000001⟩, relAt := 7 }, clock := 7 }
     s.hostLive = true ∧ s.hng.relAt ≤ s.clock ∧ wellFormed (.releaseHswtElapsed) = true) ∧
    (let s0 : State := hinged .taken
     let s : State := { s0 with hng := { s0.hng with rel := some ⟨false, .opening, 0x80000001⟩, relAt := 7 }, clock := 7 }
     s.hostLive = true ∧ s.hng.relAt ≤ s.clock ∧ wellFormed (.releaseHswtElapsed) = true) ∧
    (let s0 : State := hinged .taken
     let s : State := { s0 with hng := { s0.hng with rel := some ⟨false, .opening, 0x80000001⟩, relAt := 7 }, clock := 6 }
     s.hostLive = true ∧ s.isA = true ∧ s.clock < s.hng.relAt ∧ wellFormed (.releaseHswtElapsed) = true) ∧
    (let s : State := (List.range 60).foldl (fun s i => (s.setReg (Reg.DVT_RXID i) 0xF0000000).setReg (Reg.DVT_RXMAP i) 46) (up.setReg (Reg.MAC_CFG 2) 3)
     let v := wd 3
     s.hostLive = true ∧ (s.typeWrite Reg.HNG_CTRL v).budgetOk = false ∧ (s.typeWrite Reg.HNG_CTRL v).relays = true ∧
     wellFormed (.hngEnable v) = true) ∧
    (let s0 : State := ((((hinged .paired).setReg (Reg.MAC_STATUS 2) 0x80000001).setReg (Reg.DVT_TXCFG 0) (wd (2 ^ 31 + 2 ^ 27 + 2 ^ 24 + 2))).setReg Reg.DVT_CTRL 0x88B50301)
     let s : State := { s0 with hng := { s0.hng with p2Seen := [(0, 9)] }, net := { Net.reset with txs := [(0, ⟨true, none⟩)] }, pst := { Pst.reset with egress := some 9, fols := [{ Fol.fresh 7 with out := [(0, 77)] }] } }
     s.hostLive = true ∧ s.pst.egress = some 9 ∧ (s.outFol 9).isSome = true ∧ s.rb Reg.HNG_CTRL 2 = true ∧
     s.hng.st = .paired ∧ s.link 2 = true ∧ (s.tx 0).on = true ∧ s.rb (Reg.DVT_TXCFG 0) 27 = true ∧
     s.rb Reg.DVT_CTRL 0 = true ∧ (0, 9) ∈ s.hng.p2Seen ∧ wellFormed (.fill 0) = true) ∧
    (let s0 : State := hinged .paired
     let s : State := ({ s0 with hng := { s0.hng with rel := some ⟨true, .stopping, 0x80000000⟩ }, kwy := linked.kwy, field := linked.field }).setChan 31 { Chan.reset with st := .run }
     s.hostLive = true ∧ s.isA = true ∧ (0x80000000).testBit 31 = true ∧ (s.chan 31).st ≠ .off ∧
     wellFormed (.releaseSwitchOpen) = true) := by
  iterate 26 refine ⟨by decide +kernel, ?_⟩
  decide +kernel

theorem witness_DistrictRolesAndMessages :
    (let s : State := node300
     s.hostLive = true ∧ s.runtime = true ∧ 301 ≠ s.nodeAddr ∧ wellFormed (.announce 301 2 7 9 0xFFFF 1) = true) ∧
    (let s : State := node300.setReg (Reg.MAC_ADDRLO 0) 5
     s.hostLive = true ∧ s.runtime = true ∧ 300 = s.nodeAddr ∧ 4 ≠ s.macAddr 0 ∧ 4 ≠ s.macAddr 1 ∧ 4 < s.macAddr 0 ∧
     wellFormed (.announce 300 2 4 9 0xFFFF 1) = true) ∧
    (let s : State := node300.setReg (Reg.MAC_ADDRLO 0) 5
     s.hostLive = true ∧ s.runtime = true ∧ 300 = s.nodeAddr ∧ s.macAddr 0 ≤ 6 ∧
     wellFormed (.announce 300 2 6 9 0xFFFF 1) = true) ∧
    (let s : State := { node300 with dis := { Dis.reset with isD := true, isV := true } }
     s.hostLive = true ∧ s.runtime = true ∧ districtOf 299 = s.district ∧ wellFormed (.claim 299 0 1 []) = true) ∧
    (let s : State := { node300 with dis := { Dis.reset with isD := true, isV := true } }
     s.hostLive = true ∧ s.runtime = true ∧ wellFormed (.claim 5000 1 1 [1, 65535, 3]) = true) ∧
    (let s : State := { node300 with dis := { Dis.reset with claims := [((0, 5), 0), ((1, 5), 0)], last := [(0, (5, 0)), (1, (5, 0))], known := [(0, 5), (1, 5)] }, clock := 487424000 }
     s.hostLive = true ∧ s.registrar 0 = none ∧ s.claimSlot 0 = true ∧ aget s.dis.known 65535 0 ≠ 65535 ∧
     aget s.dis.known 65535 0 ≠ s.nodeAddr ∧ s.eligible = true ∧ s.lowerHeard 0 = false ∧
     wellFormed (.claimTimeout 0) = true) ∧
    (let s : State := { node300 with dis := { Dis.reset with claims := [((0, 5), 0), ((1, 5), 0)], last := [(0, (5, 0)), (1, (5, 0))] }, clock := 487423999 }
     s.hostLive = true ∧ s.registrar 0 = none ∧ s.dis.lastClaim 0 = some (5, 0) ∧
     s.clock < 0 + ms 300 + ms 4 * (s.nodeAddr % 128) ∧ wellFormed (.claimTimeout 0) = true) ∧
    (let s : State := { node300 with dis := { Dis.reset with claims := [((1, 5), 0)], last := [(1, (5, 0))], isD := true }, clock := 315391999 }
     s.hostLive = true ∧ s.dis.lastClaim 1 = some (5, 0) ∧ s.clock < 0 + ms 300 + ms 4 * districtOf s.nodeAddr ∧
     wellFormed (.claimTimeout 1) = true) ∧
    (let s : State := { node300 with dis := { Dis.reset with claims := [((0, 5), 0), ((1, 5), 0)] }, clock := 307200000 }
     s.hostLive = true ∧ s.registrar 0 ≠ none ∧ s.eligible = true ∧ s.lowerHeard 0 = false ∧
     wellFormed (.claimTimeout 0) = true) ∧
    (let s : State := node300.setReg Reg.DIS_CFG 0
     s.hostLive = true ∧ s.registrar 0 = none ∧ s.eligible = false ∧ wellFormed (.claimTimeout 0) = true) ∧
    (let s : State := { node300 with dis := { Dis.reset with isD := true } }
     s.hostLive = true ∧ s.registrar 1 = none ∧ s.claimSlot 1 = true ∧ s.eligible = true ∧ s.lowerHeard 1 = false ∧
     s.dis.isD = true ∧ wellFormed (.claimTimeout 1) = true) ∧
    (let s : State := { node300 with dis := { Dis.reset with heard := [(5, Heard.none), (6, { Heard.none with src := 1 })], dir := [(2560, ⟨0, 1, 1, 1, 1⟩)], claims := [((0, 5), 0)], regs := [(2, 5)] } }
     s.hostLive = true ∧ s.runtime = true ∧ wellFormed (.leave 5) = true) ∧
    (let s : State := { node300 with dis := { Dis.reset with heard := [(5, Heard.none), (6, { Heard.none with src := 1 })], dir := [(2560, ⟨0, 1, 1, 1, 1⟩)], claims := [((0, 5), 0)], regs := [(2, 5)] }, clock := ms 3072 }
     s.hostLive = true ∧ s.runtime = true ∧ ∀ e ∈ s.dis.heard, e.1 = 5 → e.2.at_ + ms 3072 ≤ s.clock ∧
     wellFormed (.recordExpiry 5) = true) ∧
    (let s : State := { node300 with dis := { Dis.reset with isD := true } }
     s.hostLive = true ∧ s.runtime = true ∧ districtOf 301 = s.district ∧
     wellFormed (.streams 301 [⟨511, 8, 1, 0, 77⟩]) = true) ∧
    (let s : State := node300
     s.hostLive = true ∧ s.dis.isD = false ∧ wellFormed (.streams 301 [⟨511, 8, 1, 0, 77⟩]) = true) ∧
    (let ids : List Nat := [512 * 301 + 511, 512 * 302]
     let s : State := { node300 with dis := { Dis.reset with isD := true, dir := [(512 * 301 + 511, ⟨511, 8, 1, 0, 77⟩)] } }
     s.hostLive = true ∧ s.runtime = true ∧ ids ≠ [] ∧ (∀ i ∈ ids, districtOf (i / 512) = s.district) ∧
     wellFormed (.query 301 9 ids) = true) ∧
    (let s : State := { node300 with dis := { Dis.reset with isD := true, regs := [(0, 3)], tag := 65535 } }
     s.hostLive = true ∧ s.runtime = true ∧ districtOf (512 / 512) ≠ s.district ∧
     wellFormed (.query 301 9 [512]) = true) ∧
    (let s : State := node300
     s.hostLive = true ∧ s.runtime = true ∧ s.dis.forwarded = [] ∧
     wellFormed (.reply 9 [⟨4, 5, 1, true, 7, 0⟩]) = true) ∧
    (let s : State := { node300 with dis := { Dis.reset with forwarded := [(9, (301, 8))] } }
     s.hostLive = true ∧ s.runtime = true ∧ wellFormed (.reply 9 [⟨4, 5, 1, true, 7, 0⟩]) = true) ∧
    (let s : State := node300
     s.hostLive = true ∧ s.runtime = true ∧ s.dis.mute = false ∧ s.dis.isD = false ∧
     wellFormed (.periodicAnnounce) = true) ∧
    (let s : State := { node300 with dis := { Dis.reset with isD := true } }
     s.hostLive = true ∧ s.runtime = true ∧ s.dis.isV = false ∧ s.dis.isD = true ∧
     wellFormed (.claimInterval) = true) ∧
    (let s : State := ({ node300 with dis := { Dis.reset with claims := [((0, 299), 0)] } }.setReg (Reg.DVT_TXCFG 3) 0x81000002)
     s.hostLive = true ∧ s.runtime = true ∧ s.registrar 0 = some 299 ∧ s.ownStreams ≠ [] ∧ s.ownStreams.length ≤ 256 ∧
     wellFormed (.streamsSlot) = true) ∧
    (let s : State := ({ node300 with dis := { Dis.reset with claims := [((0, 299), 0)] } }.setReg (Reg.DVT_RXID 3) 0x80000007)
     s.hostLive = true ∧ s.runtime = true ∧ s.registrar 0 = some 299 ∧
     (s.rxEnabled.map (fun e => fld e.2 22 0)).take 256 = [7] ∧ wellFormed (.querySlot) = true) ∧
    (let s : State := node300
     s.hostLive = true ∧ s.registrar 0 = none ∧ wellFormed (.streamsSlot) = true) := by
  iterate 23 refine ⟨by decide +kernel, ?_⟩
  decide +kernel

theorem witness_RampLengths :
    (let k := 15
     let v := wd (2 ^ 31 + 192000)
     let s : State := live.setReg Reg.PWR_STATUS 0x10
     s.hostLive = true ∧ s.domOn 5 = true ∧ k < 16 ∧ 12 ≤ fld v 17 0 ∧ fld v 17 0 ≤ 192000 ∧
     wellFormed (.ramptWrite k v) = true) ∧
    (let k := 15
     let v := wd 192001
     let s : State := live.setReg Reg.PWR_STATUS 0x10
     s.hostLive = true ∧ s.domOn 5 = true ∧ k < 16 ∧ wellFormed (.ramptWrite k v) = true) := by
  iterate 1 refine ⟨by decide +kernel, ?_⟩
  decide +kernel

theorem witness_RateChangeDoesNotStep :
    (let s : State := { live with tim := { Tim.reset with va := { View.reset with offset := 7 * 2 ^ 40, anchor := 3, slew := 1000000, slewAt := 5, pend := some (4096, 0xFA00010000) }, tcnt := 4096 } }
     s.hostLive = true ∧ 4096 ≤ s.tick ∧ wellFormed (.rateTakesEffect 0) = true) :=
  by decide +kernel

theorem witness_BadBindingIsIgnored :
    (let s : State := { live.setReg Reg.PWR_STATUS 0x10 with fuse := { Fuse.reset with variant := 0 } }
     s.hostLive = true ∧ s.domOn 5 = true ∧ s.isA = false ∧ wellFormed (.repoint 0x5000) = true) ∧
    (let s : State := live.setReg Reg.PWR_STATUS 0x10
     s.hostLive = true ∧ s.domOn 5 = true ∧ wellFormed (.repoint 0x1800) = true) := by
  iterate 1 refine ⟨by decide +kernel, ?_⟩
  decide +kernel

theorem witness_FieldHingeAndDistrictCommandsComplete :
    (let v : Word := 0x40000005
     let s : State := { live with field := { Field.reset with autonomy := false } }
     s.fieldLive = true ∧ s.field.autonomy = false ∧ bit v 30 = true ∧ bit v 29 = false ∧ fld v 7 0 ≠ 0 ∧
     wellFormed (.force v) = true) ∧
    (let v : Word := 0x200000FF
     let s : State := { live with field := { Field.reset with recov := 255 } }
     s.fieldLive = true ∧ s.field.autonomy = true ∧ bit v 29 = true ∧ bit v 30 = false ∧ fld v 7 0 ≠ 0 ∧
     fld v 7 0 ≤ s.field.recov ∧ wellFormed (.exit v) = true) ∧
    (let s : State := { live with field := { Field.reset with autonomy := false, ovr := [(3, ⟨0, .no⟩)] } }.setChan 4 { Chan.reset with st := .run }
     s.fieldLive = true ∧ s.field.autonomy = false ∧ wellFormed (.autonomyEntry) = true) ∧
    (let s : State := ({ live with field := { Field.reset with recov := 3, ovr := [(9, ⟨0, .no⟩)] } }.setReg Reg.FSYS_AUT 0x80000003).setChan 31 { Chan.reset with st := .run }
     s.fieldLive = true ∧ s.field.autonomy = true ∧ s.rb Reg.FSYS_AUT 31 = true ∧
     s.rf Reg.FSYS_AUT 7 0 ≤ s.field.recov ∧ wellFormed (.autonomyExit) = true) ∧
    (let r := 500
     let s : State := ((live.setReg Reg.FFIN_CFG 0x101).setReg Reg.FFIN_THR (wd (20 * 2 ^ 20 + 100 * 2 ^ 10 + 1)))
     s.fieldLive = true ∧ s.rb Reg.FFIN_CFG 0 = true ∧ r ≤ 20000 ∧ wellFormed (.finMeasurement [some r]) = true) ∧
    (let s : State := live.setReg Reg.FFIN_FOUT 0x80000000
     let v : Word := 0x20000000
     s.fieldLive = true ∧ bit v 29 = true ∧ fld v 9 0 = 0 ∧ wellFormed (.foutClr v) = true) ∧
    (let k := 7
     let s : State := { live with field := { Field.reset with asserted := 128, latched := 128 } }.setReg (Reg.FSBX_OVR 7) 0x40000000
     s.fieldLive = true ∧ k < 8 ∧ s.rb (Reg.FSBX_OVR k) 30 = true ∧ inMask s.field.asserted k = true ∧
     wellFormed (.rel (bitw (8 + k))) = true) ∧
    (let c := 31
     let p : Play := ⟨3, 0, true, 0xF400, false⟩
     let s : State := { live with field := { Field.reset with ovr := [(31, ⟨0, .no⟩)] } }.setChan 31 { Chan.reset with cur := .message p, st := .run }
     s.fieldLive = true ∧ c < 32 ∧ ((s.chan c).settle s.nextSample).cur = .message p ∧ p.rep = true ∧
     s.claimed c = true ∧ wellFormed (.overrideRepeat c) = true) ∧
    (let f : Frame := ⟨64, true, false, 0xFFFFFFFFFFFF, 5, none, 0x0800, (List.range 46).map (fun i => BitVec.ofNat 8 i)⟩
     let s : State := ((List.range 48).foldl (fun s i => s.setReg (Reg.FBUS_CNT i) 0x80000000) linked).setReg Reg.FBUS_CTRL 3
     s.fieldLive = true ∧ s.rb Reg.FBUS_CTRL 0 = true ∧ f.codeErr = false ∧ f.fcsOk = true ∧ 64 ≤ f.len ∧
     f.len ≤ 1518 ∧ wellFormed (.f0FrameReceived f) = true) ∧
    (let f : Frame := ⟨64, true, false, 0xFFFFFFFFFFFF, 5, none, 0x0800, []⟩
     let x : F0Tx := ⟨3, f, 14, none⟩
     let s : State := { linked with net := { Net.reset with f0 := { F0.reset with sel := some x } } }.setReg Reg.FBUS_CTRL 1
     s.fieldLive = true ∧ s.rb Reg.FBUS_CTRL 0 = true ∧ s.net.f0.sel = some x ∧ x.backoff = none ∧
     wellFormed (.f0Transmit false) = true) ∧
    (let f : Frame := ⟨64, true, false, 0xFFFFFFFFFFFF, 5, none, 0x0800, []⟩
     let x : F0Tx := ⟨3, f, 15, none⟩
     let s : State := { linked with net := { Net.reset with f0 := { F0.reset with sel := some x } } }.setReg Reg.FBUS_CTRL 1
     s.fieldLive = true ∧ s.rb Reg.FBUS_CTRL 0 = true ∧ s.net.f0.sel = some x ∧ x.backoff = none ∧
     wellFormed (.f0Collision true false) = true) ∧
    (let f : Frame := ⟨64, true, false, 0xFFFFFFFFFFFF, 5, none, 0x0800, []⟩
     let x : F0Tx := ⟨3, f, 2, some 5⟩
     let s : State := { linked with net := { Net.reset with f0 := { F0.reset with sel := some x } } }
     s.fieldLive = true ∧ s.net.f0.sel = some x ∧ wellFormed (.f0BackoffEnd) = true) ∧
    (let s : State := up
     let v := wd 1
     s.hostLive = true ∧ s.hinged = false ∧ bit v 0 = true ∧ (s.typeWrite Reg.HNG_CTRL v).budgetOk = true ∧
     wellFormed (.hngEnable v) = true) ∧
    (let s : State := hinged .paired
     s.hostLive = true ∧ s.hinged = true ∧ hmsg.node = s.partner ∧ s.hng.st = .paired ∧
     wellFormed (.hinge 0 { hmsg with release := true } 0) = true) ∧
    (let s : State := hinged .paired
     s.hostLive = true ∧ s.hng.st = .paired ∧ s.heard250 = false ∧ wellFormed (.heartbeatLoss) = true) ∧
    (let s0 : State := hinged .paired
     let s : State := { s0 with hng := { s0.hng with last0 := some 4, last2 := some 5 }, clock := 256004 }
     s.hostLive = true ∧ s.heard250 = true ∧ s.pathUp s.hng.last0 = false ∧ wellFormed (.split) = true) ∧
    (let k := 511
     let s0 : State := ((((hinged .paired).setReg (Reg.MAC_STATUS 2) 0x80000001).setReg (Reg.DVT_TXCFG 511) (wd (2 ^ 31 + 2 ^ 27 + 2 ^ 24 + 2))).setReg Reg.DVT_CTRL 0x88B50301)
     let s : State := { s0 with tim := (inFolio 12).tim, net := { Net.reset with txs := [(511, ⟨true, none⟩)] }, pst := { Pst.reset with egress := some 9, fols := [{ Fol.fresh 7 with out := [(0, 77)] }] } }
     s.hostLive = true ∧ k < 512 ∧ s.pst.egress = some 9 ∧ (s.outFol 9).isSome = true ∧ s.rb Reg.HNG_CTRL 2 = true ∧
     s.hng.st = .paired ∧ s.link 2 = true ∧ (s.tx k).on = true ∧ s.rb (Reg.DVT_TXCFG k) 27 = true ∧
     s.rb Reg.DVT_CTRL 0 = true ∧ (k, 9) ∉ s.hng.p2Seen ∧ k ∉ s.hng.filled ∧ s.fillAt k 9 ≤ s.sysT ∧
     wellFormed (.fill k) = true) ∧
    (let s : State := hinged .paired
     s.hostLive = true ∧ s.hng.st = .paired ∧ s.hng.rel = none ∧ wellFormed (.give) = true) ∧
    (let s0 : State := hinged .taken
     let s : State := { (s0.setReg Reg.HNG_LINES 0xF0).setReg Reg.HNG_OWN 0x3F with hng := { s0.hng with pSt := 5, pSynced := true } }
     s.hostLive = true ∧ s.hng.st = .taken ∧ s.hng.pSt = 5 ∧ s.hng.pSynced = true ∧ s.hng.rel = none ∧
     wellFormed (.hngReturn) = true) ∧
    (let s0 : State := hinged .paired
     let s : State := { s0 with hng := { s0.hng with rel := some ⟨true, .stopping, 0x80000001⟩ }, kwy := linked.kwy, field := linked.field }
     s.hostLive = true ∧ s.kwy.link = .up ∧ s.field.link = .up ∧
     (∀ c ∈ List.range 32, (0x80000001).testBit c = true → (s.chan c).st = .off) ∧
     wellFormed (.releaseSwitchOpen) = true) ∧
    (let s0 : State := hinged .paired
     let s : State := { s0 with hng := { s0.hng with rel := some ⟨true, .opening, 0x80000001⟩, relAt := 7 }, clock := 7 }
     s.hostLive = true ∧ s.hng.relAt ≤ s.clock ∧ wellFormed (.releaseHswtElapsed) = true) ∧
    (let s : State := node300
     s.hostLive = true ∧ s.runtime = true ∧ 301 ≠ s.nodeAddr ∧ wellFormed (.announce 301 2 7 9 0xFFFF 1) = true) ∧
    (let s : State := { node300 with dis := { Dis.reset with isD := true, isV := true } }
     s.hostLive = true ∧ s.runtime = true ∧ 5000 ≠ s.nodeAddr ∧ wellFormed (.claim 5000 1 1 [1, 65535, 3]) = true) ∧
    (let s : State := { node300 with dis := { Dis.reset with claims := [((0, 5), 0), ((1, 5), 0)], last := [(0, (5, 0)), (1, (5, 0))], known := [(0, 5), (1, 5)] }, clock := 487424000 }
     s.hostLive = true ∧ s.runtime = true ∧ s.registrar 0 = none ∧ s.claimSlot 0 = true ∧ s.eligible = true ∧
     s.lowerHeard 0 = false ∧ wellFormed (.claimTimeout 0) = true) ∧
    (let s : State := { node300 with dis := { Dis.reset with heard := [(5, Heard.none), (6, { Heard.none with src := 1 })], dir := [(2560, ⟨0, 1, 1, 1, 1⟩)], claims := [((0, 5), 0)], regs := [(2, 5)] } }
     s.hostLive = true ∧ s.runtime = true ∧ s.dis.heard ≠ [] ∧ wellFormed (.leave 5) = true) ∧
    (let s : State := { node300 with dis := { Dis.reset with heard := [(5, Heard.none), (6, { Heard.none with src := 1 })], dir := [(2560, ⟨0, 1, 1, 1, 1⟩)], claims := [((0, 5), 0)], regs := [(2, 5)] }, clock := ms 3072 }
     s.runtime = true ∧ ∀ e ∈ s.dis.heard, e.1 = 5 → e.2.at_ + ms 3072 ≤ s.clock ∧
     wellFormed (.recordExpiry 5) = true) ∧
    (let s : State := { node300 with dis := { Dis.reset with isD := true } }
     s.hostLive = true ∧ s.runtime = true ∧ s.dis.isD = true ∧ districtOf 301 = s.district ∧
     wellFormed (.streams 301 [⟨511, 8, 1, 0, 77⟩]) = true) ∧
    (let ids : List Nat := [512 * 301 + 511, 512 * 302]
     let s : State := { node300 with dis := { Dis.reset with isD := true, dir := [(512 * 301 + 511, ⟨511, 8, 1, 0, 77⟩)] } }
     s.hostLive = true ∧ s.runtime = true ∧ s.dis.isD = true ∧ ids ≠ [] ∧
     (∀ i ∈ ids, districtOf (i / 512) = s.district) ∧ wellFormed (.query 301 9 ids) = true) ∧
    (let s : State := node300
     s.hostLive = true ∧ s.runtime = true ∧ s.dis.forwarded = [] ∧
     wellFormed (.reply 9 [⟨4, 5, 1, true, 7, 0⟩]) = true) ∧
    (let s : State := node300
     s.hostLive = true ∧ s.runtime = true ∧ s.dis.mute = false ∧ s.dis.isD = false ∧
     wellFormed (.periodicAnnounce) = true) ∧
    (let s : State := { node300 with dis := { Dis.reset with isD := true } }
     s.hostLive = true ∧ s.runtime = true ∧ s.dis.isV = false ∧ s.dis.isD = true ∧
     wellFormed (.claimInterval) = true) ∧
    (let s : State := ({ node300 with dis := { Dis.reset with claims := [((0, 299), 0)] } }.setReg (Reg.DVT_TXCFG 3) 0x81000002)
     s.hostLive = true ∧ s.runtime = true ∧ s.registrar 0 = some 299 ∧ 299 ≠ s.nodeAddr ∧ s.ownStreams ≠ [] ∧
     s.ownStreams.length ≤ 256 ∧ wellFormed (.streamsSlot) = true) ∧
    (let s : State := ({ node300 with dis := { Dis.reset with claims := [((0, 299), 0)] } }.setReg (Reg.DVT_RXID 3) 0x80000007)
     s.hostLive = true ∧ s.runtime = true ∧ s.registrar 0 = some 299 ∧ 299 ≠ s.nodeAddr ∧
     wellFormed (.querySlot) = true) := by
  iterate 32 refine ⟨by decide +kernel, ?_⟩
  decide +kernel

/-- What a predicate says of the state that a command leads to; false where it stops. -/
def after (o : Host.Outcome State Fault Refusal) (p : State → Bool) : Bool :=
  match o with
  | .next t => p t
  | _ => false

/-- The command completes. -/
def completes (o : Host.Outcome State Fault Refusal) : Prop := ∃ t, o = .next t

/-- A Teller whose cursors stand in bank 0, in bank 1, in the port view, off the word grid and outside the data space. -/
def cursors : Core := { Core.reset with
  d := [(0, 0x7FFFFFFF), (1, 1), (8, 0x40000000)]
  i := [(0, 64), (1, 0x10000), (2, 0x3C000), (3, 66), (4, 0x40000)] }

/-- Vector registers, search lanes and accumulators for the vector operations. -/
def lanes : Core := { Core.reset with
  d := (List.range 8).map (fun k => (8 + k, wd (100 - 10 * k)))
  acc := (List.range 8).map (fun k => (k, BitVec.ofNat 80 ((k + 1) * 2 ^ 64 + (80 - k) * 2 ^ 32 + 5))) }

theorem witness_StepKeepsGood :
    ({ up with pending := [.give] } : State).Good ∧ completes (step { up with pending := [.give] }) :=
  ⟨⟨by decide +kernel, by decide +kernel⟩, _, rfl⟩

theorem witness_CommandsKeepFixed : completes (exec .give up) := ⟨_, rfl⟩

/-- A command of each class of CommandFrames completes. -/
theorem witness_CommandFrames :
    (tellerCommand (.nop 5 false 0) = true ∧ completes (exec (.nop 5 false 0) (telling Core.reset))) ∧
    (fieldCommand .laneClockLoss = true ∧ completes (exec .laneClockLoss linked)) ∧
    (timeCommand (.snap 1) = true ∧ completes (exec (.snap 1) up)) ∧
    (networkCommand .dvtRelease = true ∧ completes (exec .dvtRelease up)) ∧
    (districtCommand (.leave 7) = true ∧ completes (exec (.leave 7) up)) ∧
    (sinkCommand (.phaseError 7) = true ∧ completes (exec (.phaseError 7) up)) ∧
    (audioPortCommand (.sapAlign 1) = true ∧ completes (exec (.sapAlign 1) up)) ∧
    (ledgerCommand (.holdWrite 1) = true ∧ completes (exec (.holdWrite 1) up)) ∧
    (referenceCommand (.disqualification 1) = true ∧ completes (exec (.disqualification 1) up)) ∧
    (remitCommand (.halt 1) = true ∧ completes (exec (.halt 1) up)) ∧
    (memoryCommand .give = false ∧ completes (exec .give up)) ∧
    (completes (exec (.repoint 0x1005) (ledgerUp 0)) ∧ (ledgerUp 0).pst.paused = false) ∧
    completes (exec (.repoint 0x1005) { ledgerUp 0 with pst := { Pst.reset with paused := true } }) ∧
    completes (exec (.stewardRingPlaceFreed 0) ported) := by
  iterate 11 refine ⟨⟨rfl, _, rfl⟩, ?_⟩
  exact ⟨⟨⟨_, rfl⟩, rfl⟩, ⟨_, rfl⟩, ⟨_, rfl⟩⟩

/-- TellerArithmetic: an open slot, always and under a predicate; a predicate whose bit 0 is 0. -/
theorem witness_TellerArithmetic :
    slotOpen (telling cursors) 5 ⟨false, false, 0⟩ ∧ slotOpen (telling cursors) 5 ⟨true, false, 3⟩ ∧
    (predBad ⟨true, true, 3⟩ = false ∧ (Pred.mask ⟨true, true, 3⟩ ((telling cursors).core 5)).testBit 0 = false) := by
  decide +kernel

/-- TellerPredicatesAndAccumulators: predicates P0 and P3, vectors D0 and D24, shifts 0, 31, 32, 47 and 63, the last
accumulator, and the reserved field of CM. -/
theorem witness_TellerPredicatesAndAccumulators :
    let s := telling lanes
    let p : Pred := ⟨false, false, 0⟩
    slotOpen s 5 p ∧ (0 < 4 ∧ 3 < 4) ∧ (0 % 8 = 0 ∧ 24 % 8 = 0) ∧
    (wellFormed (.plog 5 p ⟨3, 0, 3, 3⟩) && wellFormed (.vcmple 5 p ⟨3, 0, 24, 0⟩) && wellFormed (.macs 5 p ⟨7, 31, 0, 0⟩) &&
      wellFormed (.dot8s 5 p ⟨7, 24, 0, 0⟩) && wellFormed (.rnd 5 p ⟨31, 7, 63, 0⟩) && wellFormed (.rndw 5 p ⟨31, 7, 0, 0⟩) &&
      wellFormed (.amov 5 p ⟨31, 7, 47, 0⟩) && wellFormed (.aadds 5 p ⟨7, 0, 0, 0⟩) && wellFormed (.ash 5 p ⟨0, 7, 31, 0⟩) &&
      wellFormed (.ash 5 p ⟨0, 7, 32, 0⟩) && wellFormed (.aclr 5 p ⟨1, 0, 0, 0⟩) && wellFormed (.mac 5 p ⟨0, 0, 0, 127⟩)) = true ∧
    (s.core 5).run.isSome = true := by
  decide +kernel

/-- TellerVectorsAndSearch: vectors, lanes that hold a value and lanes that are empty. -/
theorem witness_TellerVectorsAndSearch :
    let s := telling lanes
    let p : Pred := ⟨false, false, 0⟩
    let e := telling { Core.reset with acc := (List.range 8).map (fun k => (k, BitVec.ofNat 80 (0xFFFFFFFF * 2 ^ 32))) }
    (slotOpen s 5 p ∧ (searchLane ((s.core 5).aw 7)).idx ≠ 0xFFFFFFFF) ∧
    (slotOpen e 5 p ∧ ∀ k ∈ List.range 8, (searchLane ((e.core 5).aw k)).idx = 0xFFFFFFFF) ∧
    (wellFormed (.vmac8s 5 p ⟨0, 24, 8, 0⟩) && wellFormed (.smax 5 p ⟨0, 24, 0, 0⟩) && wellFormed (.sred 5 p ⟨31, 30, 0, 1⟩)) = true := by
  decide +kernel

/-- TellerLoadsAndStores: an access of each kind that raises no fault, one off the grid, one outside the data space. -/
theorem witness_TellerLoadsAndStores :
    let s := telling cursors
    let p : Pred := ⟨false, false, 0⟩
    let c := s.core 5
    (moveOpen s 5 p ⟨3, 9, false⟩ ∧ (Pred.mask p c).testBit 0 = true) ∧
    (oneAddr c 0 0 0 = 64 ∧ accessFault c 0 4 [64] = none ∧ declOwns (s.ctx (ctxKey 5 3)).decl 67 = true) ∧
    (oneAddr c 1 0 0 = 0x10000 ∧ accessFault c 1 2 [0x10000] = none ∧ s.pst.journal = []) ∧
    (oneAddr c 2 0 0 = 0x3C000 ∧ accessFault c 2 4 (c.wordAddrs true 2 0 0 8) = none ∧ c.lw 2 = 0 ∧ c.bw 2 % 4 = 0) ∧
    accessFault c 3 4 [66] = some (2, 66) ∧ accessFault c 4 4 [0x40000] = some (3, 0x40000) ∧
    (accessFault c 0 4 (c.wordAddrs true 0 0 0 8) = none ∧ 0 % 4 ≠ 1 % 4 ∧ accessFault c 1 4 (c.wordAddrs true 1 0 0 8) = none) := by
  decide +kernel

/-- TellerMovesAndControl: a load that waits, the end of a loop's body with iterations left and without, a loop of count 0,
linear and circular cursors, an empty and a full return stack. -/
theorem witness_TellerMovesAndControl :
    let s := telling cursors
    let p : Pred := ⟨false, false, 0⟩
    let c : Core := { cursors with
      pc := 9
      lc0 := 2
      loads := [(3, 4)]
      loops := [⟨0, 5, 9, false⟩]
      l := [(1, 8)]
      stack := [1, 2, 3, 4] }
    let z : Core := { cursors with
      pc := 9
      loops := [⟨0, 10, 12, true⟩] }
    (moveOpen s 5 p ⟨3, 9, false⟩ ∧ (Pred.mask p (s.core 5)).testBit 0 = true ∧ s.pst.journal = [] ∧ (s.core 5).loops = []) ∧
    (c.pc = 9 ∧ c.lc 0 ≠ 0 ∧ c.lc 1 = 0 ∧ c.loads = [(3, 4)]) ∧ (z.pc + 1) % 8192 = 10 ∧
    (c.lw 0 = 0 ∧ c.lw 1 ≠ 0) ∧ (s.core 5).stack.length < 4 ∧ 4 ≤ c.stack.length ∧
    (predBad ⟨true, true, 0⟩ = false ∧ (Pred.mask ⟨true, true, 0⟩ (s.core 5)).testBit 0 = false) ∧ 1 + 7 ≤ 511 ∧
    (slotOf 5 true 0 = .nop ∧ slotOf 5 true 0x2C00000 = .unlisted ∧ (s.core 5).loads = []) ∧
    ((⟨1, 15, 20, false⟩ : TLoop).end_ ≠ z.pc ∧ (⟨0, 10, 12, true⟩ : TLoop).zero = true ∧
      (z.pc + 1) % 8192 = (⟨0, 10, 12, true⟩ : TLoop).start) ∧
    (s.underReset (tellerMaster 5) 5 = false ∧ s.accessCause (tellerMaster 5) false 0x40C00000 4 1 = 0) := by
  decide +kernel

/-- ResultsBecomeVisible: a compute operation, and a load, of a bundle whose predecessor loaded nothing. -/
theorem witness_ResultsBecomeVisible :
    ((telling cursors).core 5).issues = true ∧ ((telling cursors).core 5).loads = [] ∧
    computes (telling cursors) (.add 5 ⟨false, false, 0⟩ ⟨2, 0, 1, 0⟩) 5
      ({ (telling cursors).core 5 with
        d := [(0, 0x7FFFFFFF), (1, 1), (2, 0x80000000), (8, 0x40000000)]
        sr := 2 }) ∧
    moves (telling cursors) (.ldw 5 ⟨false, false, 0⟩ ⟨7, 0, 0, 0⟩) 5 (telling cursors) [(7, 0)] 0 none :=
  ⟨rfl, rfl, ⟨⟨cursors.d, [], [], 0, 2, [2]⟩, rfl, rfl, rfl, rfl, rfl⟩, rfl⟩

/-! ### Single commands against values of the spec -/

/-- R393: the check value of CRC-32 for the nine digits. -/
theorem test_crc32 : crc32 [0x31, 0x32, 0x33, 0x34, 0x35, 0x36, 0x37, 0x38, 0x39] = 0xCBF43926 := by decide +kernel

/-- R12: one second is 12 folios. -/
theorem test_folioOf : folioOf (1000000000 * 1099511627776) = 12000 ∧ folioOf (83333 * 1099511627776) = 0 ∧
    folioOf (83334 * 1099511627776) = 1 := by decide +kernel

/-- R155: unity, one decade below it, off. -/
theorem test_coef : coef 0xF400 = 4194304 ∧ coef 57344 = 419430 ∧ coef 0 = 0 := by decide +kernel

/-- R170: half way, and the end. -/
theorem test_rampCode : rampCode 100 201 6 12 = 151 ∧ rampCode 201 100 6 12 = 151 ∧ rampCode 0 100 12 12 = 100 := by
  decide +kernel

/-- R281: 48 kHz is one half. -/
theorem test_excRateWord : excRateWord 48000000 = 0x20000000 := by decide +kernel

/-- Access types (R23): RW bits 7 to 4, W1C bits 3 and 2, W1S bits 1 and 0. -/
theorem test_access_types :
    writeByType ⟨0, 1, 4, 0xF0, 0x0C, 0x03, 0, 0, 0, 0⟩ 0xA5 0x3A = 0x37 := by decide +kernel

/-- Table 4.9: ADD wraps with WV, ADDS saturates with SV. -/
theorem test_add_wraps :
    after (exec (.add 5 ⟨false, false, 0⟩ ⟨2, 0, 1, 0⟩) (telling cursors))
      (fun t => (t.core 5).dw 2 == 0x80000000 && (t.core 5).sr == 2) = true ∧
    after (exec (.adds 5 ⟨false, false, 0⟩ ⟨2, 0, 1, 0⟩) (telling cursors))
      (fun t => (t.core 5).dw 2 == 0x7FFFFFFF && (t.core 5).sr == 1) = true := by decide +kernel

/-- Table 4.9: −3 / 2 is −1 by ASRR and −2 by ASR. -/
theorem test_asrr_rounds :
    after (exec (.asrr 5 ⟨false, false, 0⟩ ⟨2, 3, 0, 1⟩) (telling { Core.reset with d := [(3, 0xFFFFFFFD)] }))
      (fun t => (t.core 5).dw 2 == 0xFFFFFFFF) = true ∧
    after (exec (.asr 5 ⟨false, false, 0⟩ ⟨2, 3, 0, 1⟩) (telling { Core.reset with d := [(3, 0xFFFFFFFD)] }))
      (fun t => (t.core 5).dw 2 == 0xFFFFFFFE) = true := by decide +kernel

/-- R244: the eight products 100·100 + 90·90 + … + 30·30 = 38,000. -/
theorem test_dot8z : after (exec (.dot8z 5 ⟨false, false, 0⟩ ⟨2, 8, 8, 0⟩) (telling lanes)) (fun t => (t.core 5).aw 2 == 38000) =
    true := by decide +kernel

/-- R253: of equal values the lowest index, here lane 7's. -/
theorem test_sred_lowest : after (exec (.sred 5 ⟨false, false, 0⟩ ⟨2, 3, 0, 0⟩) (telling lanes))
    (fun t => (t.core 5).dw 2 == 5 && (t.core 5).dw 3 == 73) = true := by decide +kernel

/-- R236: a circular cursor wraps at its length. -/
theorem test_modi_wraps : after (exec (.modi 5 ⟨false, false, 0⟩ 1 8)
    (telling { Core.reset with
      i := [(1, 12)]
      b := [(1, 4)]
      l := [(1, 12)] })) (fun t => (t.core 5).iw 1 == 8) = true := by decide +kernel

/-- R231: a loaded word is not there at the end of its own bundle, and is at the end of the next. -/
theorem test_ldw_delay : after (exec (.ldw 5 ⟨false, false, 0⟩ ⟨7, 2, 0, 0⟩) ((telling cursors).wrWord 0x1057C000 9))
    (fun t => (t.core 5).dw 7 == 0 && after (exec (.nop 5 true 0) t) (fun u => (u.core 5).dw 7 == 9)) = true := by
  decide +kernel

/-- Tables 4.5, 4.6, 4.9, 4.10: ADD D2 = D0 + D1 in the compute slot beside LDW D7 at I2, mode 1, step -4; and LDI. -/
theorem test_bundle :
    bundleCommands 5 (0x110020 * 2 ^ 33 + 0x4E9FFC) = [.add 5 ⟨false, false, 0⟩ ⟨2, 0, 1, 0⟩, .ldw 5 ⟨false, false, 0⟩ ⟨7, 2, 1, -4⟩] ∧
    bundleCommands 5 (2 ^ 63 + 3 * 2 ^ 52 + 0xFFFFFFFF) = [.ldi 5 3 0xFFFFFFFF 0] := by decide +kernel

/-- R229, R782: an opcode that no table lists faults the bundle, whose other slot executes nothing. -/
theorem test_unlisted : bundleCommands 5 (0x1500000 * 2 ^ 33 + 0x4E9FFC) = [.nop 5 false 0x1500000] ∧
    slotOf 5 false 0 = .nop ∧ slotOf 5 false 0x1500000 = .unlisted := by decide +kernel

/-- R266: the fifth call faults with cause 4. -/
theorem test_call_depth : after (exec (.call 5 ⟨false, false, 0⟩ 1) (telling { Core.reset with stack := [1, 2, 3, 4] }))
    (fun t => t.rf Reg.TEL_FLT0 15 0 == 4 && t.rb Reg.TEL_EVT 0 && (t.core 5).run.isNone) = true := by decide +kernel

/-- R156, R165: with EN = 0 a code is stored little-endian at once. -/
theorem test_gainStore : after (exec (.gainStoreWrite 0x20000004 [0x1234]) (ledgerUp 0))
    (fun t => t.rdByte 0x20000004 == 0x34 && t.rdByte 0x20000005 == 0x12 && t.gain 2 == 0x1234) = true := by decide +kernel

/-- R186: a re-point starts the fall of the gate and shows PEND. -/
theorem test_repoint : after (exec (.repoint 0x1005) (ledgerUp 0))
    (fun t => (t.gate 0).bind == 0x1005 && t.rb (Reg.LDG_BIND 0) 31 && (t.gate 0).phase == .down) = true := by decide +kernel

/-- R107: the first concealed folio has half the sample, round-half-up. -/
theorem test_concealed : ({ up with pst := { Pst.reset with x := [(8 * 3, 7)] } } : State).concealed 3 0 = 4 := by decide +kernel

/-- R612: a fetch at an address that nothing answers faults the channel with cause 3. -/
theorem test_remit_fetch : after (exec (.move 2) (up.setRmt 2 { RmtCh.reset with
    st := .run
    pc := 0x50000000 })) (fun t => (t.rmtCh 2).st == .fault && (t.rmtCh 2).cause == 3) = true := by decide +kernel

/-- R663: LOW = HIGH is ignored with CFGERR. -/
theorem test_tilWm : after (exec (.tilWmWrite 1 0x00100010) (up.setReg Reg.PWR_STATUS 0x80))
    (fun t => t.reg (Reg.TIL_WM 1) == up.reg (Reg.TIL_WM 1) && t.rb Reg.TIL_EVT 16) = true := by decide +kernel

/-- R701, R704: the crossfade begins at one eighth and ends at the new sample. -/
theorem test_crossfade : crossSample 0 800 0 = 100 ∧ crossSample 0 800 7 = 800 := by decide +kernel

/-- A step takes the front command, and an empty queue is a tick. -/
theorem test_step : (match step { up with pending := [.split, .give] } with
    | .next t => t.pending == [.give]
    | _ => false) = true ∧ (match step up with
    | .next t => t.clock == up.clock + 1
    | _ => false) = true := by decide +kernel

end Sys2Proof.Tests
end

section
/-! PROOF. What every command keeps: one line per constructor of Instr, from the lemmas of Laws/Keeps*.lean. -/

namespace Sys2Proof.Machine

/-- Every state that an outcome gives stands in the relation `Keeps` to `u`. -/
def OutKeeps (u : State) (o : Host.Outcome State Fault Refusal) : Prop := ∀ t, o = .next t → Keeps u t

section
variable {s : State} {f : State → State}

theorem outKeeps_next {t : State} (h : Keeps s t) : OutKeeps s (.next t) := by
  rintro _ ⟨⟩
  exact h

theorem outKeeps_if {c : Prop} [Decidable c] (hf : ∀ {t}, Keeps s t → Keeps s (f t)) :
    OutKeeps s (.next (if c then f s else s)) :=
  outKeeps_next (keeps_ite (hf (Keeps.rfl' s)) (Keeps.rfl' s))

theorem outKeeps_hostDo (hf : ∀ {t}, Keeps s t → Keeps s (f t)) : OutKeeps s (hostDo s f) := outKeeps_if hf

theorem outKeeps_portDo {p : Nat} (hf : ∀ {t}, Keeps s t → Keeps s (f t)) : OutKeeps s (portDo p s f) :=
  outKeeps_if hf

theorem outKeeps_kwyDo (hf : ∀ {t}, Keeps s t → Keeps s (f t)) : OutKeeps s (kwyDo s f) := outKeeps_if hf

theorem outKeeps_rmtDo {n : Nat} (hf : ∀ {t}, Keeps s t → Keeps s (f t)) : OutKeeps s (rmtDo n s f) :=
  outKeeps_hostDo (fun h => keeps_ite (hf h) h)

theorem outKeeps_rmtExec {op n : Nat} {g : Nat → State → State} (hg : ∀ w {t}, Keeps s t → Keeps s (g w t)) :
    OutKeeps s (rmtExec op n s g) :=
  outKeeps_rmtDo (keeps_rmtWordOp op n (fun w _ => hg w))

theorem outKeeps_fieldDo (hf : ∀ {t}, Keeps s t → Keeps s (f t)) : OutKeeps s (fieldDo s f) :=
  outKeeps_if (f := fun s => foutSettle (f s)) (fun h => keeps_foutSettle (hf h))

theorem outKeeps_chanDo {c : Nat} (hf : ∀ {t}, Keeps s t → Keeps s (f t)) : OutKeeps s (chanDo c s f) :=
  outKeeps_fieldDo (fun h => keeps_ite (hf h) h)

theorem outKeeps_pairDo {p : Nat} (hf : ∀ {t}, Keeps s t → Keeps s (f t)) : OutKeeps s (pairDo p s f) :=
  outKeeps_fieldDo (fun h => keeps_ite (hf h) h)

theorem outKeeps_moveOp {t : Nat} {p : Pred} {bad : Option Nat} {vec : Bool} {g : Core → Run → Nat → State → MoveRes}
    (hg : ∀ c r m, Keeps s s → MoveRes.Keeps s (g c r m s)) : OutKeeps s (.next (moveOp t p bad vec g s)) :=
  outKeeps_next (keeps_moveOp t p bad vec (fun c r m => hg c r m (Keeps.rfl' s)) (Keeps.rfl' s))

end

theorem keeps_fieldDown {u s : State} {p : Pwr} (h : Keeps u s) : Keeps u ((fieldReset s).setPwr p) :=
  keeps_setPwr _ (keeps_fieldReset h)

theorem keeps_fieldUp {u s : State} {p : Pwr} (h : Keeps u s) : Keeps u (fieldRelease (s.setPwr p)) :=
  keeps_fieldRelease (keeps_setPwr _ h)

theorem execCall_keeps (t : Nat) (p : Pred) (off : Int) (s : State) : OutKeeps s (execCall t p off s) :=
  outKeeps_moveOp fun c _ _ h => by
    by_cases hc : 4 ≤ c.stack.length
    · simp only [hc, if_true]
      exact MoveRes.keeps_fault _ _ _
    · simp only [hc, if_false]
      exact MoveRes.keeps_done _ _ _ (keeps_setCore _ _ h)

theorem execRet_keeps (t : Nat) (p : Pred) (s : State) : OutKeeps s (execRet t p s) :=
  outKeeps_moveOp fun c _ _ h => by
    cases c.stack with
    | nil => exact MoveRes.keeps_fault _ _ _
    | cons a rest => exact MoveRes.keeps_done _ _ _ (keeps_setCore _ _ h)

theorem execDomainSwitchComplete_keeps (d : Nat) (s : State) : OutKeeps s (execDomainSwitchComplete d s) :=
  outKeeps_hostDo fun h => keeps_bootContinue (keeps_domainSwitchCompleteOp _ h)

theorem execPlayerGo_keeps (p : Nat) (v : Word) (s : State) : OutKeeps s (execPlayerGo p v s) :=
  outKeeps_fieldDo fun h => keeps_ite (keeps_playWrite _ _ h) h

theorem execPlayerStop_keeps (p : Nat) (v : Word) (s : State) : OutKeeps s (execPlayerStop p v s) :=
  outKeeps_fieldDo fun h => keeps_ite (keeps_playWrite _ _ h) h

theorem execMacCfgWrite_keeps (p : Nat) (v : Word) (s : State) : OutKeeps s (execMacCfgWrite p v s) :=
  outKeeps_hostDo fun h => keeps_ite (keeps_regRow _ (fun _ k => keeps_macCfgWriteOp _ _ k) h) h

theorem execSubscriptionEnable_keeps (k : Nat) (v : Word) (s : State) : OutKeeps s (execSubscriptionEnable k v s) :=
  outKeeps_hostDo fun h => keeps_ite (keeps_ite (keeps_rxidWrite _ _ h) (keeps_subsBoundary (keeps_rxidWrite _ _ h))) h

theorem execTransmitStreamEnable_keeps (k : Nat) (v : Word) (s : State) : OutKeeps s (execTransmitStreamEnable k v s) :=
  outKeeps_hostDo fun h => keeps_ite (keeps_txcfgWrite _ _ h) h

theorem execAes67StreamEnable_keeps (tx : Bool) (r : Nat) (v : Word) (s : State) :
    OutKeeps s (execAes67StreamEnable tx r v s) :=
  outKeeps_hostDo fun h => keeps_ite (keeps_a67cfgWrite _ _ _ h) h

theorem execStreamLoss_keeps (k : Nat) (s : State) : OutKeeps s (execStreamLoss k s) :=
  outKeeps_hostDo fun h => keeps_ite (keeps_streamLossOp _ h) h

theorem execFill_keeps (k : Nat) (s : State) : OutKeeps s (execFill k s) :=
  outKeeps_hostDo fun h => keeps_ite (keeps_fillOp _ h) h

theorem execKeywayMessageLaunch_keeps (fromHost : Bool) (s : State) : OutKeeps s (execKeywayMessageLaunch fromHost s) :=
  outKeeps_kwyDo fun h => keeps_ite (keeps_hostLaunch h) (keeps_fieldLaunch h)

theorem execFieldSupplyBelowWarning_keeps (supply : Nat) (s : State) :
    OutKeeps s (execFieldSupplyBelowWarning supply s) :=
  outKeeps_fieldDo fun h => keeps_fevt _ _ (keeps_setReg _ _ h)

theorem execBraceExit_keeps (s : State) : OutKeeps s (execBraceExit s) :=
  outKeeps_hostDo fun h => keeps_bootContinue (keeps_braceExitOp h)

theorem execFprsntNHigh_keeps (s : State) : OutKeeps s (execFprsntNHigh s) :=
  outKeeps_kwyDo fun h => keeps_ite h (keeps_fieldDown h)

theorem execFprsntNRelease_keeps (s : State) : OutKeeps s (execFprsntNRelease s) :=
  outKeeps_kwyDo fun h => keeps_ite (keeps_fieldUp h) h

theorem execFieldWarningEnd_keeps (s : State) : OutKeeps s (execFieldWarningEnd s) :=
  outKeeps_fieldDo fun h => keeps_setFld _ _ _ _ h

theorem execFieldSupplyReset_keeps (s : State) : OutKeeps s (execFieldSupplyReset s) :=
  outKeeps_kwyDo fun h => keeps_ite h (keeps_fieldDown h)

theorem execFieldSupplyGood_keeps (s : State) : OutKeeps s (execFieldSupplyGood s) :=
  outKeeps_kwyDo fun h => keeps_ite (keeps_fieldUp h) h

/-- Every command keeps the canonical forms, and what no command touches. -/
theorem exec_keeps (c : Instr) (s : State) : OutKeeps s (exec c s) := by
  cases c with
  | registerWrite => exact outKeeps_hostDo (keeps_registerWriteOp _ _ _)
  | rcRead => exact outKeeps_hostDo (keeps_rcReadOp _)
  | clhTransaction => exact outKeeps_hostDo (keeps_clhTransactionOp _ _ _ _ _ _ _ _ _)
  | burstGrant => exact outKeeps_hostDo (keeps_burstGrantOp _)
  | transactionRetire => exact outKeeps_hostDo (keeps_transactionRetireOp _ _)
  | lockTimeout => exact outKeeps_hostDo (keeps_lockTimeoutOp _)
  | masterResetComplete => exact outKeeps_hostDo (keeps_masterResetCompleteOp _)
  | bistEnd => exact outKeeps_hostDo (keeps_bistEndOp _)
  | xspCommandDone => exact outKeeps_hostDo (keeps_xspCommandDoneOp _)
  | hspiWrite => exact outKeeps_hostDo (keeps_hspiWriteOp _ _ _)
  | hspiRead => exact outKeeps_hostDo (keeps_hspiReadOp _ _)
  | hostResetRequest | stwResetRequest => exact outKeeps_hostDo (keeps_sysRstWrite _)
  | watchdogKick => exact outKeeps_hostDo (keeps_watchdogKickOp _)
  | pwrCtrlWrite => exact outKeeps_hostDo (keeps_pwrCtrlWriteOp _)
  | domainSwitchComplete => exact execDomainSwitchComplete_keeps _ s
  | trainingComplete => exact outKeeps_kwyDo (keeps_trainingCompleteOp _ _)
  | keywayLinkDown => exact outKeeps_kwyDo (keeps_keywayLinkDownOp _ _)
  | block => exact outKeeps_fieldDo (keeps_fieldTake _ _ fun _ _ => keeps_blockOp _)
  | envelope => exact outKeeps_fieldDo (keeps_fieldTake _ _ fun _ _ => keeps_envelopeOp _)
  | cmd => exact outKeeps_fieldDo (keeps_fieldTake _ _ fun _ _ => keeps_cmdOp _)
  | cmdack => exact outKeeps_kwyDo (keeps_hostTake _ _ fun _ _ => keeps_cmdackOp _)
  | status => exact outKeeps_kwyDo (keeps_hostTake _ _ fun _ _ => keeps_statusOp _)
  | sense => exact outKeeps_kwyDo (keeps_hostTake _ _ fun _ _ => keeps_senseOp _)
  | fault => exact outKeeps_kwyDo (keeps_hostTake _ _ fun _ _ => keeps_faultOp _)
  | fbusToField => exact outKeeps_fieldDo (keeps_fieldTake _ _ fun _ _ => keeps_fbusToFieldOp _)
  | fbusToHost => exact outKeeps_kwyDo (keeps_hostTake _ _ fun _ _ => keeps_fbusToHostOp _)
  | hostHeartbeat => exact outKeeps_fieldDo (keeps_fieldTake _ _ fun _ _ => keeps_hostHeartbeatOp _)
  | fieldHeartbeat => exact outKeeps_kwyDo (keeps_hostTake _ _ fun _ _ => keeps_fieldHeartbeatOp _)
  | proxyAccess => exact outKeeps_hostDo (keeps_proxyAccessOp _ _ _ _)
  | force | exit => exact outKeeps_fieldDo (keeps_fsysAutWrite _)
  | finMeasurement => exact outKeeps_fieldDo (keeps_finMeasurementOp _)
  | foutClr => exact outKeeps_fieldDo (keeps_foutWrite _)
  | rel | reload => exact outKeeps_fieldDo (keeps_fsbxCmdWrite _)
  | playerGo => exact execPlayerGo_keeps _ _ s
  | playerStop => exact execPlayerStop_keeps _ _ s
  | overrideRepeat => exact outKeeps_chanDo (keeps_overrideRepeatOp _)
  | start => exact outKeeps_chanDo (keeps_startOp _)
  | stop => exact outKeeps_chanDo (keeps_stopOp _)
  | clear => exact outKeeps_chanDo (keeps_clearOp _)
  | startSequence => exact outKeeps_chanDo (keeps_startSequenceOp _)
  | enableTimeElapsed => exact outKeeps_chanDo (keeps_enableTimeElapsedOp _)
  | hold50Complete => exact outKeeps_chanDo (keeps_hold50CompleteOp _)
  | rampInComplete => exact outKeeps_chanDo (keeps_rampInCompleteOp _)
  | stopRampOutComplete => exact outKeeps_chanDo (keeps_stopRampOutCompleteOp _)
  | stopHold50Complete => exact outKeeps_chanDo (keeps_stopHold50CompleteOp _)
  | stopEnableTimeElapsed => exact outKeeps_chanDo (keeps_stopEnableTimeElapsedOp _)
  | carrierPeriod => exact outKeeps_chanDo (keeps_carrierPeriodOp _)
  | boostPeriod => exact outKeeps_pairDo (keeps_boostPeriodOp _ _ _)
  | hswWrite => exact outKeeps_fieldDo (keeps_hswWriteOp _)
  | takeoverStart => exact outKeeps_fieldDo (keeps_takeoverStartOp _)
  | hswtElapsed => exact outKeeps_chanDo (keeps_hswtElapsedOp _)
  | avoidanceRun => exact outKeeps_fieldDo (keeps_avoidanceRunOp _)
  | carrierModeWrite => exact outKeeps_fieldDo (keeps_carrierModeWriteOp _)
  | ilimCrossing => exact outKeeps_chanDo (keeps_ilimCrossingOp _ _ _)
  | iscCrossing => exact outKeeps_chanDo (keeps_iscCrossingOp _ _)
  | fltAssert => exact outKeeps_chanDo (keeps_fltAssertOp _)
  | lineOverVoltage => exact outKeeps_chanDo (keeps_lineOverVoltageOp _ _)
  | retry => exact outKeeps_chanDo (keeps_retryOp _)
  | probeComplete => exact outKeeps_chanDo (keeps_probeCompleteOp _)
  | dcOffset => exact outKeeps_chanDo (keeps_dcOffsetOp _ _)
  | ntcWarning => exact outKeeps_fieldDo (keeps_ntcWarningOp _ _)
  | ntcTrip => exact outKeeps_fieldDo (keeps_ntcTripOp _ _)
  | thermalRestore => exact outKeeps_fieldDo (keeps_thermalRestoreOp _ _)
  | boostOverCurrent => exact outKeeps_pairDo (keeps_boostOverCurrentOp _ _)
  | boostOcPersist => exact outKeeps_pairDo (keeps_boostOcPersistOp _)
  | boostRetry => exact outKeeps_pairDo (keeps_boostRetryOp _)
  | boostOverVoltage => exact outKeeps_pairDo (keeps_boostOverVoltageOp _ _)
  | railOverVoltage => exact outKeeps_pairDo (keeps_railOverVoltageOp _ _)
  | impedanceEstimate => exact outKeeps_chanDo (keeps_impedanceEstimateOp _ _ _)
  | pilotStart => exact outKeeps_chanDo (keeps_pilotStartOp _)
  | earthLeakage => exact outKeeps_fieldDo (keeps_earthLeakageOp _)
  | f0FrameReceived => exact outKeeps_fieldDo (keeps_f0FrameReceivedOp _)
  | f0Transmit => exact outKeeps_fieldDo (keeps_f0Attempt _ _ fun q _ => keeps_f0Sent q)
  | f0Collision => exact outKeeps_fieldDo (keeps_f0Attempt _ _ fun q _ => keeps_f0Collided _ q)
  | macCfgWrite => exact execMacCfgWrite_keeps _ _ s
  | portLinkUp => exact outKeeps_portDo (keeps_portLinkUpOp _)
  | portLinkDown => exact outKeeps_portDo (keeps_portLinkDownOp _ _ _)
  | frameReceived => exact outKeeps_portDo (keeps_frameReceivedOp _ _ _)
  | frameOffered => exact outKeeps_portDo (keeps_frameOfferedOp _ _ _)
  | portTransmit => exact outKeeps_portDo (keeps_portTransmitOp _ _)
  | subscriptionEnable => exact execSubscriptionEnable_keeps _ _ s
  | transmitStreamEnable => exact execTransmitStreamEnable_keeps _ _ s
  | aes67StreamEnable => exact execAes67StreamEnable_keeps _ _ _ s
  | streamLoss => exact execStreamLoss_keeps _ s
  | rateCommit => exact outKeeps_hostDo (keeps_rateCommitOp _ _)
  | rateTakesEffect => exact outKeeps_hostDo (keeps_rateTakesEffectOp _)
  | set => exact outKeeps_hostDo (keeps_setOp _)
  | step => exact outKeeps_hostDo (keeps_stepOp _)
  | slew => exact outKeeps_hostDo (keeps_slewOp _)
  | cancel => exact outKeeps_hostDo (keeps_cancelOp _)
  | slewDone => exact outKeeps_hostDo (keeps_slewDoneOp _)
  | activeWrite => exact outKeeps_hostDo (keeps_activeWriteOp _)
  | jclr => exact outKeeps_hostDo (keeps_jclrOp _)
  | snap => exact outKeeps_hostDo (keeps_snapOp _)
  | align => exact outKeeps_hostDo (keeps_alignOp _)
  | pulseEnable => exact outKeeps_hostDo (keeps_pulseEnableOp _)
  | ptpMessage => exact outKeeps_hostDo (keeps_ptpMessageOp _ _)
  | rscMeasurement => exact outKeeps_hostDo (keeps_rscMeasurementOp _)
  | buildoutComplete => exact outKeeps_hostDo (keeps_buildoutCompleteOp _ _)
  | rscOpen => exact outKeeps_hostDo (keeps_rscOpenOp _)
  | rscClose => exact outKeeps_hostDo (keeps_rscCloseOp _ _)
  | ncoWrite => exact outKeeps_hostDo (keeps_ncoWriteOp _)
  | rscFreerun => exact outKeeps_hostDo (keeps_rscFreerunOp _)
  | groupMixEnd => exact outKeeps_hostDo (keeps_groupMixEndOp _)
  | sinkChainGroup => exact outKeeps_hostDo (keeps_sinkChainGroupOp _ _ _)
  | pstEnWrite => exact outKeeps_hostDo (keeps_pstCtrlWriteOp _)
  | pstCutWrite => exact outKeeps_hostDo (keeps_pstCutWriteOp _)
  | pstWinWrite => exact outKeeps_hostDo (keeps_pstWinWriteOp _)
  | firstRunStart => exact outKeeps_hostDo (keeps_firstRunStartOp _ _)
  | rerunStart => exact outKeeps_hostDo (keeps_rerunStartOp _ _)
  | taskOverrun => exact outKeeps_hostDo (keeps_taskOverrunOp _)
  | windowWatchdog => exact outKeeps_hostDo (keeps_windowWatchdogOp _)
  | tellerReset => exact outKeeps_hostDo (keeps_tellerResetOp _)
  | ldfResponse => exact outKeeps_next (keeps_ldfResponseOp _ (Keeps.rfl' s))
  | ldfTimeout => exact outKeeps_next (keeps_ldfTimeoutOp _ (Keeps.rfl' s))
  | stfError => exact outKeeps_hostDo (keeps_stfErrorOp _)
  | contextEnable | contextDisable => exact outKeeps_hostDo (keeps_ctxCmdWrite _)
  | swapGo => exact outKeeps_hostDo (keeps_swapGoOp _)
  | nop => exact outKeeps_next (keeps_nopOp _ _ _ (Keeps.rfl' s))
  | add | adds | sub | subs | neg | negs | abs | abss | min | max | and | or | xor | shl | shls | asr | asrr
  | lsr | addi | addis =>
    exact outKeeps_next (keeps_dataOp _ _ _ _ (Keeps.rfl' s))
  | cmpeq | cmplt | cmple => exact outKeeps_next (keeps_cmpOp _ _ _ _ (Keeps.rfl' s))
  | vcmpeq | vcmplt | vcmple => exact outKeeps_next (keeps_vcmpOp _ _ _ _ (Keeps.rfl' s))
  | plog => exact outKeeps_next (keeps_computeOp _ _ _ _ _ (Keeps.rfl' s))
  | mul | mac | macs | msu | msus => exact outKeeps_next (keeps_mulOp _ _ _ _ (Keeps.rfl' s))
  | dot8z | dot8 | dot8s => exact outKeeps_next (keeps_dotOp _ _ _ _ (Keeps.rfl' s))
  | vmac8z | vmac8 | vmac8s | vmsu8 | vmsu8s => exact outKeeps_next (keeps_vmacOp _ _ _ _ (Keeps.rfl' s))
  | rnd | rndw | trn => exact outKeeps_next (keeps_accToData _ _ _ _ (Keeps.rfl' s))
  | amov => exact outKeeps_next (keeps_computeOp _ _ _ _ _ (Keeps.rfl' s))
  | aadd | aadds => exact outKeeps_next (keeps_aaddOp _ _ _ _ (Keeps.rfl' s))
  | ash | aclr | sinit => exact outKeeps_next (keeps_computeOp _ _ _ _ _ (Keeps.rfl' s))
  | smax | smin => exact outKeeps_next (keeps_searchOp _ _ _ _ (Keeps.rfl' s))
  | sred => exact outKeeps_next (keeps_computeOp _ _ _ _ _ (Keeps.rfl' s))
  | ldw | ldh | ldv => exact outKeeps_next (keeps_loadOp _ _ _ _ _ _ _ (Keeps.rfl' s))
  | stw | sth | stv | str | strv => exact outKeeps_next (keeps_storeOp _ _ _ _ _ _ _ _ _ _ (Keeps.rfl' s))
  | ldf => exact outKeeps_next (keeps_ldfOp _ _ _ (Keeps.rfl' s))
  | stf => exact outKeeps_moveOp (fun _ _ _ h => MoveRes.keeps_done _ _ _ (keeps_journalAdd _ _ _ h))
  | movr => exact outKeeps_moveOp (fun _ _ _ h => MoveRes.keeps_done _ _ _ (keeps_writeCode _ _ _ h))
  | movc => exact outKeeps_moveOp (fun _ _ _ h =>
      MoveRes.keeps_done _ _ _ (keeps_ite (keeps_writeCtl _ _ _ h) (keeps_writeCode _ _ _ h)))
  | modi => exact outKeeps_moveOp (fun _ _ _ h => MoveRes.keeps_done _ _ _ (keeps_setCore _ _ h))
  | br => exact outKeeps_moveOp (fun _ _ _ h => MoveRes.keeps_done _ _ _ h)
  | call => exact execCall_keeps _ _ _ s
  | ret => exact execRet_keeps _ _ s
  | loop => exact outKeeps_next (keeps_loopOp _ _ _ (Keeps.rfl' s))
  | endRun => exact outKeeps_next (keeps_endRunOp _ _ (Keeps.rfl' s))
  | sig | evr => exact outKeeps_moveOp (fun _ _ _ h => MoveRes.keeps_done _ _ _ (keeps_journalAdd _ _ _ h))
  | ld2i => exact outKeeps_next (keeps_ld2iOp _ _ (Keeps.rfl' s))
  | ldi => exact outKeeps_next (keeps_ldiOp _ _ _ _ (Keeps.rfl' s))
  | gainStoreWrite => exact outKeeps_hostDo (keeps_gainStoreWriteOp _ _)
  | chgvWrite => exact outKeeps_hostDo (keeps_chgvWriteOp _)
  | holdWrite => exact outKeeps_hostDo (keeps_regRow _ fun _ => keeps_holdWriteOp _)
  | rampTableWrite => exact outKeeps_hostDo (keeps_rampTableWriteOp _ _)
  | ramptWrite => exact outKeeps_hostDo (keeps_regRow _ fun _ => keeps_ramptWriteOp _ _)
  | repoint => exact outKeeps_hostDo (keeps_regRow _ fun _ => keeps_repointWriteOp _)
  | excCfgWrite => exact outKeeps_hostDo (keeps_regRow _ fun _ => keeps_excCfgWriteOp _ _)
  | acquireLock => exact outKeeps_hostDo (keeps_acquireLockOp _)
  | inputLoss => exact outKeeps_hostDo (keeps_inputLossOp _ _)
  | phaseError => exact outKeeps_hostDo (keeps_phaseErrorOp _)
  | inputResume => exact outKeeps_hostDo (keeps_inputResumeOp _ _)
  | syncRatioCheck => exact outKeeps_hostDo (keeps_syncRatioCheckOp _ _)
  | dcfgWrite => exact outKeeps_hostDo (keeps_dcfgWriteOp _ _)
  | dlyWrite => exact outKeeps_hostDo (keeps_dlyWriteOp _ _)
  | dlenWrite => exact outKeeps_hostDo (keeps_dlenWriteOp _ _)
  | limWrite => exact outKeeps_hostDo (keeps_limWriteOp _ _ _)
  | sapEnable => exact outKeeps_hostDo (keeps_regRow _ fun _ => keeps_sapCfgWriteOp _ _)
  | sapAlign => exact outKeeps_hostDo (keeps_regRow _ fun _ => keeps_sapAlignOp _)
  | slaveFrame => exact outKeeps_hostDo (keeps_slaveFrameOp _ _ _)
  | tillWordReceived => exact outKeeps_hostDo (keeps_tillWordReceivedOp _ _ _)
  | tillHold => exact outKeeps_hostDo (keeps_tillHoldOp _ _)
  | tilWmWrite => exact outKeeps_hostDo (keeps_regRow _ fun _ => keeps_tilWmWriteOp _ _)
  | move => exact outKeeps_rmtDo (keeps_rmtMoveOp _)
  | remitLoop => exact outKeeps_rmtExec (fun w => keeps_loopWord _ w)
  | wait => exact outKeeps_rmtExec (fun w => keeps_waitWord _ w)
  | waitConditionMet => exact outKeeps_rmtDo (keeps_waitConditionMetOp _)
  | signal => exact outKeeps_rmtExec (fun w => keeps_signalWord _ w)
  | link => exact outKeeps_rmtExec (fun w => keeps_linkWord _ w)
  | remitEnd => exact outKeeps_rmtExec (fun _ => keeps_endWord _)
  | rmtStart => exact outKeeps_rmtDo (keeps_rmtBegin _)
  | halt => exact outKeeps_rmtDo (keeps_rmtHalt _)
  | resume => exact outKeeps_rmtDo (keeps_rmtResume _)
  | abort => exact outKeeps_rmtDo (keeps_rmtAbort _)
  | disable => exact outKeeps_rmtDo (keeps_rmtDisableOne _)
  | engineDisable => exact outKeeps_hostDo (keeps_engineDisableOp _)
  | doorbell => exact outKeeps_hostDo (keeps_doorbellOp _)
  | rmtPcWrite => exact outKeeps_rmtDo (keeps_rmtPcWriteOp _ _)
  | channelRetired => exact outKeeps_rmtDo (keeps_channelRetiredOp _)
  | hngEnable => exact outKeeps_hostDo (keeps_hngEnableOp _)
  | hinge => exact outKeeps_hostDo (keeps_hingeOp _ _ _)
  | receipt => exact outKeeps_hostDo (keeps_receiptOp _ _)
  | change => exact outKeeps_hostDo (keeps_changeOp _ _)
  | fill => exact execFill_keeps _ s
  | keywayMessageLaunch => exact execKeywayMessageLaunch_keeps _ s
  | tillWordSent => exact outKeeps_hostDo (keeps_tillWordSentOp _)
  | pulseOutputEdge => exact outKeeps_hostDo (keeps_pulseEdgeOp _ _)
  | headerVerify => exact outKeeps_hostDo (keeps_headerVerifyOp _)
  | sectionCheck => exact outKeeps_hostDo (keeps_sectionCheckOp _)
  | arbAdvance => exact outKeeps_hostDo (keeps_arbAdvanceOp _)
  | controlMessage => exact outKeeps_hostDo (keeps_controlMessageOp _ _)
  | setTime => exact outKeeps_hostDo (keeps_setTimeOp _)
  | mgmtQuery => exact outKeeps_hostDo (keeps_mgmtQueryOp _ _)
  | update => exact outKeeps_hostDo (keeps_updateOp _ _ _ _)
  | restart => exact outKeeps_hostDo (keeps_restartOp _)
  | hspiPostedWriteError => exact outKeeps_hostDo (keeps_hspiPostedWriteErrorOp _)
  | braceState => exact outKeeps_hostDo (keeps_braceStateOp _)
  | hostSupervisorReset => exact outKeeps_next (keeps_hostSupervisorResetOp _ (Keeps.rfl' s))
  | hostTemperatureMeasurement => exact outKeeps_next (keeps_hostTempOp _ (Keeps.rfl' s))
  | fieldTemperatureMeasurement => exact outKeeps_kwyDo (keeps_fieldTempOp _)
  | scrubPeriod => exact outKeeps_hostDo (keeps_scrubPeriodOp _ _)
  | fieldSupplyBelowWarning => exact execFieldSupplyBelowWarning_keeps _ s
  | announceReceiptTimeout => exact outKeeps_hostDo (keeps_announceTimeoutOp _)
  | disqualification => exact outKeeps_hostDo (keeps_disqualificationOp _)
  | announce => exact outKeeps_hostDo (keeps_announceOp _ _ _ _ _ _)
  | claim => exact outKeeps_hostDo (keeps_claimOp _ _ _)
  | streams => exact outKeeps_hostDo (keeps_streamsOp _ _)
  | query => exact outKeeps_hostDo (keeps_queryOp _ _ _)
  | reply => exact outKeeps_hostDo (keeps_replyOp _ _)
  | leave => exact outKeeps_hostDo (keeps_forget _)
  | claimTimeout => exact outKeeps_hostDo (keeps_claimTimeoutOp _)
  | recordExpiry => exact outKeeps_hostDo (keeps_recordExpiryOp _)
  | syncInterval => exact outKeeps_hostDo (keeps_syncIntervalOp _)
  | fieldScrub => exact outKeeps_fieldDo (keeps_fieldScrubOp _)
  | stewardRingPlaceFreed => exact outKeeps_portDo (keeps_ringPlaceFreedOp _)
  | pcsCodeError => exact outKeeps_portDo (keeps_pcsCodeErrorOp _)
  | tcntLoRead => exact outKeeps_hostDo (keeps_tcntLoReadOp)
  | kwyFlogRead =>
    exact outKeeps_next (keeps_ite (keeps_kwyFlogReadOp (Keeps.rfl' s)) (keeps_answer _ _ (Keeps.rfl' s)))
  | hostSupplyGood => exact outKeeps_next (keeps_hostSupplyGoodOp (Keeps.rfl' s))
  | bootRetry => exact outKeeps_hostDo (keeps_bootRetryOp)
  | serviceLevel2 => exact outKeeps_hostDo (keeps_serviceLevel2Op)
  | arbFusesBlown => exact outKeeps_hostDo (keeps_arbFusesBlownOp)
  | xspEraseSector | xspProgramPage => exact outKeeps_hostDo (keeps_xspCmdWrite _)
  | hspiStatus => exact outKeeps_hostDo (keeps_hspiStatusOp)
  | hspiSync => exact outKeeps_hostDo (keeps_hspiSyncOp)
  | hspiId => exact outKeeps_hostDo (keeps_hspiIdOp)
  | hspiReset => exact outKeeps_hostDo (keeps_hspiResetOp)
  | hspiCsNRise => exact outKeeps_hostDo (keeps_hspiCsNRiseOp)
  | braceExit => exact execBraceExit_keeps s
  | hostPinReset | prsntNHigh => exact outKeeps_next (keeps_ballReset _ _ (Keeps.rfl' s))
  | prsntNRelease => exact outKeeps_next (keeps_prsntNReleaseOp (Keeps.rfl' s))
  | fprsntNHigh => exact execFprsntNHigh_keeps s
  | fprsntNRelease => exact execFprsntNRelease_keeps s
  | hostInternalReset => exact outKeeps_next (keeps_hostInternalResetOp (Keeps.rfl' s))
  | lockstepMismatch => exact outKeeps_hostDo (keeps_lockstepOp)
  | stewardReset => exact outKeeps_hostDo (keeps_stewardResetOp)
  | stewardRuntimeRestart => exact outKeeps_hostDo (keeps_stewardRestartOp)
  | watchdogExpiry => exact outKeeps_hostDo (keeps_watchdogExpiryOp)
  | ledgerClearComplete => exact outKeeps_hostDo (keeps_ledgerClearCompleteOp)
  | fieldWarningEnd => exact execFieldWarningEnd_keeps s
  | fieldSupplyReset => exact execFieldSupplyReset_keeps s
  | fieldSupplyGood => exact execFieldSupplyGood_keeps s
  | rootLock => exact outKeeps_next (keeps_rootLockOp (Keeps.rfl' s))
  | rootLossOfLock => exact outKeeps_hostDo (keeps_rootLossOp)
  | xoFailure => exact outKeeps_hostDo (keeps_xoFailureOp)
  | lanesAligned => exact outKeeps_kwyDo (keeps_lanesAlignedOp _)
  | laneClockLoss => exact outKeeps_fieldDo (keeps_laneClockLossOp)
  | fieldClockSwitch => exact outKeeps_fieldDo (keeps_fieldClockSwitchOp)
  | cmdTimeout => exact outKeeps_kwyDo (keeps_cmdTimeoutOp)
  | blockMissing => exact outKeeps_fieldDo (keeps_blockMissingOp)
  | fieldFolioStart => exact outKeeps_fieldDo (keeps_fieldFolioStartOp)
  | autonomyEntry => exact outKeeps_fieldDo (keeps_autonomyEnter)
  | autonomyExit => exact outKeeps_fieldDo (keeps_autonomyExitOp)
  | fhbloss => exact outKeeps_kwyDo (keeps_fhblossOp)
  | strongboxLoadEnd => exact outKeeps_fieldDo (keeps_strongboxLoadEndOp)
  | toneBurstEnd => exact outKeeps_fieldDo (keeps_toneBurstEndOp)
  | sbxEraseSector | sbxProgramPage => exact outKeeps_fieldDo (keeps_pgCmdWrite _)
  | sbxCommandDone => exact outKeeps_fieldDo (keeps_sbxCommandDoneOp)
  | avoidanceRunComplete => exact outKeeps_fieldDo (keeps_avoidanceRunCompleteOp)
  | f0BackoffEnd => exact outKeeps_fieldDo (keeps_f0BackoffEndOp)
  | dvtRelease => exact outKeeps_hostDo (keeps_dvtReleaseOp)
  | junctionDone => exact outKeeps_hostDo (keeps_junctionDoneOp)
  | folioStart => exact outKeeps_hostDo (keeps_folioStartOp)
  | entryCut => exact outKeeps_hostDo (keeps_entryCutOp)
  | mixSlotStart => exact outKeeps_hostDo (keeps_mixSlotStartOp)
  | remixEnd => exact outKeeps_hostDo (keeps_remixEndOp)
  | postingCut => exact outKeeps_hostDo (keeps_postingCutOp)
  | waitingBeat => exact outKeeps_hostDo (keeps_waitingBeatOp)
  | changeAccept => exact outKeeps_hostDo (keeps_changeAcceptOp)
  | receiptMissing => exact outKeeps_hostDo (keeps_receiptMissingOp)
  | changePerform => exact outKeeps_hostDo (keeps_changePerformOp)
  | heartbeatLoss => exact outKeeps_hostDo (keeps_heartbeatLossOp)
  | split => exact outKeeps_hostDo (keeps_splitOp)
  | give => exact outKeeps_hostDo (keeps_giveOp)
  | hngReturn => exact outKeeps_hostDo (keeps_returnOp)
  | releaseSwitchOpen => exact outKeeps_hostDo (keeps_releaseSwitchOpenOp)
  | releaseHswtElapsed => exact outKeeps_hostDo (keeps_releaseHswtElapsedOp)
  | periodicAnnounce => exact outKeeps_hostDo (keeps_periodicAnnounceOp)
  | claimInterval => exact outKeeps_hostDo (keeps_claimIntervalOp)
  | streamsSlot => exact outKeeps_hostDo (keeps_streamsSlotOp)
  | rstNRelease => exact outKeeps_next (keeps_rstNReleaseOp (Keeps.rfl' s))
  | querySlot => exact outKeeps_hostDo (keeps_querySlotOp)

/-- A tick changes neither memory nor registers. -/
theorem tick_good {s : State} (g : s.Good) : (tick s).Good := by
  unfold tick
  dsimp only
  split <;> exact ⟨g.mem, g.regs⟩

/-- Settles O4: a step is a tick or the command at the front, and both keep the canonical forms. -/
theorem stepKeepsGood : Obligations.StepKeepsGood := by
  intro s t g h
  unfold step at h
  split at h
  · cases h
    exact tick_good g
  · exact (exec_keeps _ _ _ h).good ⟨g.mem, g.regs⟩

/-- Settles O5: it is the second half of the relation that every command keeps. -/
theorem commandsKeepFixed : Obligations.CommandsKeepFixed := fun c s t h => (exec_keeps c s t h).fixed

/-- Settles O3: after power-on nothing differs from what an unlisted key reads as. -/
theorem resetIsGood : Obligations.ResetIsGood := ⟨rfl, rfl⟩

end Sys2Proof.Machine
end

section
/-! PROOF. The frames of the commands: what a state is outside some of its parts, and the rules of the primitives. -/

namespace Sys2Proof.Machine

/-- The parts of the state that a frame leaves open: the registers, the field die (its state and its registers),
memory, the model's own answer and free values, the fuses, and the units. -/
structure Parts where
  regs : Bool := false
  field : Bool := false
  mem : Bool := false
  ans : Bool := false
  free : Bool := false
  fuse : Bool := false
  pwr : Bool := false
  boot : Bool := false
  xsp : Bool := false
  tim : Bool := false
  rsc : Bool := false
  clh : Bool := false
  rmt : Bool := false
  sap : Bool := false
  til : Bool := false
  hsp : Bool := false
  dis : Bool := false
  hng : Bool := false
  ldg : Bool := false
  pst : Bool := false
  tel : Bool := false
  out : Bool := false
  kwy : Bool := false
  net : Bool := false

/-- Register `a` is one of the field die (Table 1.9). -/
def fieldReg (a : Nat) : Bool := decide (0x70000000 ≤ a)

/-- The frame leaves register `a` open. -/
def Parts.opens (m : Parts) (a : Nat) : Bool := m.regs || m.field && fieldReg a

/-- What stands outside the parts `m`: those parts are blanked, and so are the marks of R25, which every frame leaves
open. A command keeps within `m` when it keeps this. -/
def State.outside (m : Parts) (s : State) : State where
  pending := s.pending
  clock := s.clock
  slotId := s.slotId
  setNow := []
  free := if m.free then 0 else s.free
  ans := if m.ans then ⟨.ok, []⟩ else s.ans
  regs := s.regs.filter (fun e => !m.opens e.1)
  mem := if m.mem then [] else s.mem
  fuse := if m.fuse then Fuse.reset else s.fuse
  pwr := if m.pwr then Pwr.reset else s.pwr
  boot := if m.boot then Boot.reset else s.boot
  xsp := if m.xsp then Xsp.reset else s.xsp
  tim := if m.tim then Tim.reset else s.tim
  rsc := if m.rsc then Rsc.reset else s.rsc
  clh := if m.clh then Clh.reset else s.clh
  rmt := if m.rmt then [] else s.rmt
  sap := if m.sap then [] else s.sap
  til := if m.til then [] else s.til
  hsp := if m.hsp then Hsp.reset else s.hsp
  dis := if m.dis then Dis.reset else s.dis
  hng := if m.hng then Hng.reset else s.hng
  ldg := if m.ldg then Ldg.reset else s.ldg
  pst := if m.pst then Pst.reset else s.pst
  tel := if m.tel then Tel.reset else s.tel
  out := if m.out then Out.reset else s.out
  kwy := if m.kwy then Kwy.reset else s.kwy
  field := if m.field then Field.reset else s.field
  net := if m.net then Net.reset else s.net

variable {m : Parts}

/-- `s` differs from `u` within the parts `m` only. -/
def Within (m : Parts) (u s : State) : Prop := s.outside m = u.outside m

theorem Within.refl (m : Parts) (s : State) : Within m s s := rfl

section
variable {u s : State}

theorem within_ite {t : State} {c : Prop} [Decidable c] (hs : Within m u s) (ht : Within m u t) :
    Within m u (if c then s else t) := by
  split
  · exact hs
  · exact ht

theorem within_itePair {β : Type} {p q : β × State} {c : Prop} [Decidable c] (hp : Within m u p.2)
    (hq : Within m u q.2) : Within m u (if c then p else q).2 := by
  split
  · exact hp
  · exact hq

theorem within_foldl {α : Type} {f : State → α → State} {l : List α} (h : Within m u s)
    (hf : ∀ t x, Within m u t → Within m u (f t x)) : Within m u (l.foldl f s) := by
  induction l generalizing s with
  | nil => exact h
  | cons x l ih => exact ih (hf s x h)

theorem within_foldl_pair {α β : Type} {f : β × State → α → β × State} {l : List α} {p : β × State}
    (h : Within m u p.2) (hf : ∀ p x, Within m u p.2 → Within m u (f p x).2) : Within m u (l.foldl f p).2 := by
  induction l generalizing p with
  | nil => exact h
  | cons x l ih => exact ih (hf p x h)

theorem within_forN {f : State → Nat → State} {n : Nat} (h : Within m u s)
    (hf : ∀ t k, Within m u t → Within m u (f t k)) : Within m u (forN n s f) := within_foldl h hf

theorem within_forN_pair {β : Type} {f : β × State → Nat → β × State} {n : Nat} {p : β × State}
    (h : Within m u p.2) (hf : ∀ p k, Within m u p.2 → Within m u (f p k).2) : Within m u (forN n p f).2 :=
  within_foldl_pair h hf

/-- The state of an operation that gives a value besides, after its result has been taken apart. -/
theorem within_of_eq {β : Type} {p : β × State} {b : β} (e : p = (b, s)) (h : Within m u p.2) : Within m u s := by
  rw [e] at h
  exact h

/-! ### Registers -/

theorem filter_adel {α : Type} {p : Nat → Bool} {k : Nat} (hk : p k = false) (l : List (Nat × α)) :
    (adel l k).filter (fun e => p e.1) = l.filter (fun e => p e.1) := by
  unfold adel
  rw [List.filter_filter]
  refine List.filter_congr fun e _ => ?_
  by_cases h : e.1 = k
  · simp [h, hk]
  · simp [h]

theorem filter_ainsert {α : Type} {p : Nat → Bool} {k : Nat} (hk : p k = false) (l : List (Nat × α)) (v : α) :
    (ainsert l k v).filter (fun e => p e.1) = l.filter (fun e => p e.1) := by
  induction l with
  | nil => simp [ainsert, hk]
  | cons e t ih =>
    unfold ainsert
    split
    · simp [hk]
    · simp [List.filter_cons, ih]

/-- A write at a key that a filter drops is not seen behind the filter. -/
theorem filter_aput {α : Type} [DecidableEq α] {p : Nat → Bool} {k : Nat} (hk : p k = false) (l : List (Nat × α))
    (d v : α) : (aput l d k v).filter (fun e => p e.1) = l.filter (fun e => p e.1) := by
  unfold aput
  split
  · exact filter_adel hk l
  · rw [filter_ainsert hk, filter_adel hk]

theorem aget_filter {α : Type} {p : Nat → Bool} {k : Nat} (hk : p k = true) (l : List (Nat × α)) (d : α) :
    aget (l.filter (fun e => p e.1)) d k = aget l d k := by
  induction l with
  | nil => rfl
  | cons e t ih =>
    by_cases h : e.1 = k
    · subst h; simp [hk, aget]
    · by_cases he : p e.1 = true
      · simp [he, aget, h, ih]
      · simp [he, aget, h, ih]

theorem opens_regs (hregs : m.regs) (a : Nat) : m.opens a = true := by simp [Parts.opens, hregs]

theorem opens_of_le (hfield : m.field) {a : Nat} (h : 0x70000000 ≤ a) : m.opens a = true := by
  simp [Parts.opens, fieldReg, hfield, h]

/-- Register `a`, given by its address. -/
theorem opens_const (hfield : m.field) {a : Nat} (h : Nat.ble 0x70000000 a = true) : m.opens a = true :=
  opens_of_le hfield (Nat.le_of_ble_eq_true h)

/-- Register `i` of an array of the field die. -/
theorem opens_array (hfield : m.field) {a : Nat} (i : Nat) (h : Nat.ble 0x70000000 a = true) : m.opens (a + i) = true :=
  opens_of_le hfield (Nat.le_trans (Nat.le_of_ble_eq_true h) (Nat.le_add_right _ _))

section
variable {a : Nat} (ha : m.opens a)
include ha

theorem within_setReg_open (v : Word) (h : Within m u s) : Within m u (s.setReg a v) := by
  have hk : (!m.opens a) = false := by simp [ha]
  have e := filter_aput (p := fun a => !m.opens a) hk s.regs (regReset a) v
  simpa [Within, State.outside, State.setReg, e] using h

theorem within_setFld_open (hi lo v : Nat) (h : Within m u s) : Within m u (s.setFld a hi lo v) :=
  within_setReg_open ha _ h

theorem within_setBit_open (i : Nat) (b : Bool) (h : Within m u s) : Within m u (s.setBit a i b) :=
  within_setReg_open ha _ h

theorem within_raise_open (w : Word) (h : Within m u s) : Within m u (s.raise a w) :=
  within_setReg_open ha _ h

theorem within_typeWrite_open (v : Word) (h : Within m u s) : Within m u (s.typeWrite a v) := by
  unfold State.typeWrite
  split
  · exact within_setReg_open ha _ h
  · exact h

theorem within_clearRC_open (h : Within m u s) : Within m u (s.clearRC a) := by
  unfold State.clearRC
  split
  · exact within_setReg_open ha _ h
  · exact h

end

section
variable (hregs : m.regs)
include hregs

theorem within_setReg (a : Nat) (v : Word) (h : Within m u s) : Within m u (s.setReg a v) :=
  within_setReg_open (opens_regs hregs a) v h

theorem within_setFld (a hi lo v : Nat) (h : Within m u s) : Within m u (s.setFld a hi lo v) :=
  within_setReg hregs a _ h

theorem within_setBit (a i : Nat) (b : Bool) (h : Within m u s) : Within m u (s.setBit a i b) :=
  within_setReg hregs a _ h

theorem within_raise (a : Nat) (w : Word) (h : Within m u s) : Within m u (s.raise a w) :=
  within_setReg hregs a _ h

theorem within_latchFld (a hi lo v : Nat) (h : Within m u s) : Within m u (s.latchFld a hi lo v) :=
  within_setReg hregs a _ h

theorem within_typeWrite (a : Nat) (v : Word) (h : Within m u s) : Within m u (s.typeWrite a v) :=
  within_typeWrite_open (opens_regs hregs a) v h

theorem within_clearRC (a : Nat) (h : Within m u s) : Within m u (s.clearRC a) :=
  within_clearRC_open (opens_regs hregs a) h

end

theorem within_note (key : Nat) (v : Word) (h : Within m u s) : Within m u (s.note key v) := h

/-! ### The other primitives: one part replaced -/

theorem within_wrByte (hmem : m.mem) (a : Nat) (b : Byte) (h : Within m u s) : Within m u (s.wrByte a b) := by
  simpa [Within, State.outside, State.wrByte, hmem] using h

theorem within_nextFree (hfree : m.free) (h : Within m u s) : Within m u s.nextFree.2 := by
  simpa [Within, State.outside, State.nextFree, hfree] using h

theorem within_useFree (hfree : m.free) (n : Nat) (h : Within m u s) : Within m u (s.useFree n) := by
  simpa [Within, State.outside, State.useFree, hfree] using h

theorem within_answer (hans : m.ans) (r : Resp) (d : List Byte) (h : Within m u s) : Within m u (s.answer r d) := by
  simpa [Within, State.outside, State.answer, hans] using h

theorem within_setClh (hclh : m.clh) (x : Clh) (h : Within m u s) : Within m u (s.setClh x) := by
  simpa [Within, State.outside, State.setClh, hclh] using h

theorem within_setField (hfield : m.field) (x : Field) (h : Within m u s) : Within m u (s.setField x) := by
  simpa [Within, State.outside, State.setField, hfield] using h

theorem within_setTim (htim : m.tim) (x : Tim) (h : Within m u s) : Within m u (s.setTim x) := by
  simpa [Within, State.outside, State.setTim, htim] using h

theorem within_setRsc (hrsc : m.rsc) (x : Rsc) (h : Within m u s) : Within m u (s.setRsc x) := by
  simpa [Within, State.outside, State.setRsc, hrsc] using h

theorem within_setLdg (hldg : m.ldg) (x : Ldg) (h : Within m u s) : Within m u (s.setLdg x) := by
  simpa [Within, State.outside, State.setLdg, hldg] using h

theorem within_setPst (hpst : m.pst) (x : Pst) (h : Within m u s) : Within m u (s.setPst x) := by
  simpa [Within, State.outside, State.setPst, hpst] using h

theorem within_setOut (hout : m.out) (x : Out) (h : Within m u s) : Within m u (s.setOut x) := by
  simpa [Within, State.outside, State.setOut, hout] using h

theorem within_setKwy (hkwy : m.kwy) (x : Kwy) (h : Within m u s) : Within m u (s.setKwy x) := by
  simpa [Within, State.outside, State.setKwy, hkwy] using h

theorem within_setHng (hhng : m.hng) (x : Hng) (h : Within m u s) : Within m u (s.setHng x) := by
  simpa [Within, State.outside, State.setHng, hhng] using h

theorem within_setDis (hdis : m.dis) (x : Dis) (h : Within m u s) : Within m u (s.setDis x) := by
  simpa [Within, State.outside, State.setDis, hdis] using h

theorem within_setBoot (hboot : m.boot) (x : Boot) (h : Within m u s) : Within m u (s.setBoot x) := by
  simpa [Within, State.outside, State.setBoot, hboot] using h

theorem within_setPwr (hpwr : m.pwr) (x : Pwr) (h : Within m u s) : Within m u (s.setPwr x) := by
  simpa [Within, State.outside, State.setPwr, hpwr] using h

theorem within_setXsp (hxsp : m.xsp) (x : Xsp) (h : Within m u s) : Within m u (s.setXsp x) := by
  simpa [Within, State.outside, State.setXsp, hxsp] using h

theorem within_free (hfree : m.free) (x : Nat) (h : Within m u s) : Within m u { s with free := x } := by
  simpa [Within, State.outside, hfree] using h

theorem within_fuse (hfuse : m.fuse) (x : Fuse) (h : Within m u s) : Within m u { s with fuse := x } := by
  simpa [Within, State.outside, hfuse] using h

theorem within_rmt (hrmt : m.rmt) (x : List (Nat × RmtCh)) (h : Within m u s) : Within m u { s with rmt := x } := by
  simpa [Within, State.outside, hrmt] using h

theorem within_sap (hsap : m.sap) (x : List (Nat × SapPort)) (h : Within m u s) : Within m u { s with sap := x } := by
  simpa [Within, State.outside, hsap] using h

theorem within_til (htil : m.til) (x : List (Nat × TillPort)) (h : Within m u s) : Within m u { s with til := x } := by
  simpa [Within, State.outside, htil] using h

theorem within_hsp (hhsp : m.hsp) (x : Hsp) (h : Within m u s) : Within m u { s with hsp := x } := by
  simpa [Within, State.outside, hhsp] using h

theorem within_hng (hhng : m.hng) (x : Hng) (h : Within m u s) : Within m u { s with hng := x } := by
  simpa [Within, State.outside, hhng] using h

theorem within_ldg (hldg : m.ldg) (x : Ldg) (h : Within m u s) : Within m u { s with ldg := x } := by
  simpa [Within, State.outside, hldg] using h

theorem within_tel (htel : m.tel) (x : Tel) (h : Within m u s) : Within m u { s with tel := x } := by
  simpa [Within, State.outside, htel] using h

theorem within_kwy (hkwy : m.kwy) (x : Kwy) (h : Within m u s) : Within m u { s with kwy := x } := by
  simpa [Within, State.outside, hkwy] using h

theorem within_field (hfield : m.field) (x : Field) (h : Within m u s) : Within m u { s with field := x } := by
  simpa [Within, State.outside, hfield] using h

theorem within_net (hnet : m.net) (x : Net) (h : Within m u s) : Within m u { s with net := x } := by
  simpa [Within, State.outside, hnet] using h

/-- Every part but memory. -/
abbrev offMem : Parts where
  regs := true
  field := true
  ans := true
  free := true
  fuse := true
  pwr := true
  boot := true
  xsp := true
  tim := true
  rsc := true
  clh := true
  rmt := true
  sap := true
  til := true
  hsp := true
  dis := true
  hng := true
  ldg := true
  pst := true
  tel := true
  out := true
  kwy := true
  net := true

theorem opens_offMem (a : Nat) : offMem.opens a = true := rfl

end

end Sys2Proof.Machine
end

section
/-! PROOF. What each operation of the model leaves unchanged: one lemma per operation, in the model's order. The
hypotheses name the parts that the operation changes; one that only commands with no frame of their own use stands
within `offMem`. -/

namespace Sys2Proof.Machine

variable {m : Parts} {u s : State}

/-! ### Machine/Ops.lean -/

theorem within_wrBytes (hmem : m.mem) (a : Nat) (l : List Byte) (h : Within m u s) : Within m u (s.wrBytes a l) := by
  induction l generalizing s a with
  | nil => exact h
  | cons b l ih => exact ih _ (within_wrByte hmem a b h)

theorem within_wrWord (hmem : m.mem) (a : Nat) (v : Word) (h : Within m u s) : Within m u (s.wrWord a v) :=
  within_wrBytes hmem _ _ h

theorem within_wrHalf (hmem : m.mem) (a : Nat) (v : Half) (h : Within m u s) : Within m u (s.wrHalf a v) :=
  within_wrBytes hmem _ _ h

theorem within_sum (hregs : m.regs) (k : Nat) (h : Within m u s) : Within m u (s.sum k) := within_raise hregs _ _ h

theorem within_evt (hregs : m.regs) (a i : Nat) (h : Within m u s) : Within m u (s.evt a i) := by
  unfold State.evt
  split
  · exact within_sum hregs _ (within_raise hregs _ _ h)
  · exact within_raise hregs _ _ h

theorem within_evtIf (hregs : m.regs) (c : Bool) (a i : Nat) (h : Within m u s) :
    Within m u (s.evtIf c a i) := within_ite (within_evt hregs _ _ h) h

theorem within_cdcErr (hregs : m.regs) (i : Nat) (h : Within m u s) : Within m u (s.cdcErr i) :=
  within_evt hregs _ _ (within_raise hregs _ _ h)

theorem within_fieldQueue (hfield : m.field) (typ : Nat) (payload : List Byte) (h : Within m u s) :
    Within m u (s.fieldQueue typ payload) := within_ite (within_field hfield _ h) h

theorem within_fieldFirst (hfield : m.field) (typ : Nat) (payload : List Byte) (h : Within m u s) :
    Within m u (s.fieldFirst typ payload) := within_ite (within_field hfield _ h) h

theorem within_hostQueue (typ : Nat) (payload : List Byte) (h : Within offMem u s) :
    Within offMem u (s.hostQueue typ payload) := within_ite (within_kwy rfl _ h) h

theorem within_fevtC (hfield : m.field) (a i chan cause : Nat) (ha : m.opens a) (h : Within m u s) :
    Within m u (s.fevtC a i chan cause) :=
  within_ite (within_raise_open ha _ h) (within_fieldQueue hfield _ _ (within_raise_open ha _ h))

theorem within_fevt (hfield : m.field) (a i : Nat) (ha : m.opens a) (h : Within m u s) :
    Within m u (s.fevt a i) := within_fevtC hfield _ _ _ _ ha h

theorem within_fevtIf (hfield : m.field) (c : Bool) (a i : Nat) (ha : m.opens a) (h : Within m u s) :
    Within m u (s.fevtIf c a i) := within_ite (within_fevt hfield _ _ ha h) h

theorem within_count (hregs : m.regs) (a n k : Nat) (h : Within m u s) : Within m u (s.count a n k) :=
  within_ite (within_raise hregs _ _ (within_setReg hregs _ _ h)) (within_setReg hregs _ _ h)

theorem within_fkwyCount (hfield : m.field) (a n : Nat) (ha : m.opens a) (h : Within m u s) :
    Within m u (s.fkwyCount a n) := within_fevtIf hfield _ _ _ (opens_const hfield rfl) (within_setReg_open ha _ h)

theorem within_macCount (hregs : m.regs) (p i n : Nat) (h : Within m u s) : Within m u (s.macCount p i n) :=
  within_ite (within_evt hregs _ _ (within_raise hregs _ _ (within_setReg hregs _ _ h))) (within_setReg hregs _ _ h)

theorem within_fbusCount (hfield : m.field) (i n : Nat) (h : Within m u s) : Within m u (s.fbusCount i n) := by
  have hflag : m.opens (if i < 32 then Reg.FBUS_HRLO else Reg.FBUS_HRHI) = true := by
    split <;> exact opens_const hfield rfl
  have hcnt := within_setReg_open (opens_array hfield (a := 0x70070100) (4 * i) rfl)
    (countUp (s.reg (Reg.FBUS_CNT i)) n).1 h
  exact within_ite (within_fevt hfield _ _ (opens_const hfield rfl) (within_raise_open hflag _ hcnt)) hcnt

/-! ### Machine/ClhCore.lean -/

theorem within_clhError (hregs : m.regs) (msg : Master) (id : Nat) (wr : Bool) (addr cause : Nat)
    (h : Within m u s) : Within m u (clhError msg id wr addr cause s) :=
  within_ite (within_evt hregs _ _ (within_count hregs _ _ _ h)) (within_setReg hregs _ _ (within_raise hregs _ _
    (within_setReg hregs _ _ (within_evt hregs _ _ (within_count hregs _ _ _ h)))))

theorem within_regRow (hans : m.ans) (hregs : m.regs) (a : Nat) {f : State → State}
    (hf : ∀ t, Within m u t → Within m u (f t)) (h : Within m u s) : Within m u (regRow a f s) :=
  within_ite (hf _ h) (within_answer hans _ _ (within_clhError hregs _ _ _ _ _ h))

theorem within_clhAnswer (hclh : m.clh) (t : Txn) (r : Resp) (data : List Byte) (h : Within m u s) :
    Within m u (clhAnswer t r data s) := within_setClh hclh _ h

theorem within_clhRefuse (hclh : m.clh) (hregs : m.regs) (t : Txn) (r : Resp) (cause : Nat) (h : Within m u s) :
    Within m u (clhRefuse t r cause s) := within_clhAnswer hclh _ _ _ (within_clhError hregs _ _ _ _ _ h)

theorem within_lockRefuse (hclh : m.clh) (hregs : m.regs) (t : Txn) (h : Within m u s) :
    Within m u (lockRefuse t s) :=
  within_ite (within_setClh hclh _ (within_clhRefuse hclh hregs _ _ _ h)) (within_clhRefuse hclh hregs _ _ _ h)

theorem within_request (hclh : m.clh) (hregs : m.regs) (t : Txn) (h : Within m u s) :
    Within m u (request t s) :=
  within_ite (within_setClh hclh _ h) (within_ite (within_clhRefuse hclh hregs _ _ _ h) (within_ite (within_lockRefuse
    hclh hregs _ h) (within_ite (within_clhRefuse hclh hregs _ _ _ h) (within_setClh hclh _ h))))

theorem within_masterReset (msg : Master) (ids : List Nat) (h : Within offMem u s) :
    Within offMem u (masterReset msg ids s) := by
  unfold masterReset
  have hkwy : ∀ {t : State} (x : Kwy), Within offMem u t → Within offMem u { t with kwy := x } := within_kwy rfl
  exact within_ite (within_setClh rfl _ (hkwy _ (within_setClh rfl _ h)))
    (within_evt rfl _ _ (hkwy _ (within_setClh rfl _ h)))

theorem within_unpark (hclh : m.clh) (hregs : m.regs) (h : Within m u s) : Within m u (unpark s) :=
  within_foldl (within_setClh hclh _ h) fun _ _ ht => within_request hclh hregs _ ht

theorem within_resetsSettle (hclh : m.clh) (hregs : m.regs) (h : Within m u s) :
    Within m u (resetsSettle s) := within_unpark hclh hregs (within_evtIf hregs _ _ _ (within_setClh hclh _ h))

/-! ### Machine/FieldCore.lean -/

theorem within_setChan (hfield : m.field) (c : Nat) (x : Chan) (h : Within m u s) :
    Within m u (s.setChan c x) := within_setField hfield _ h

theorem within_setBst (hfield : m.field) (p : Nat) (b : Bst) (h : Within m u s) :
    Within m u (s.setBst p b) := within_setField hfield _ h

theorem within_foutSettle (hfield : m.field) (h : Within m u s) : Within m u (foutSettle s) :=
  within_fevtIf hfield _ _ _ (opens_const hfield rfl) (within_setBit_open (opens_const hfield rfl) _ _ h)

theorem within_foutWrite (hfield : m.field) (v : Word) (h : Within m u s) : Within m u (foutWrite v s) :=
  within_ite (within_setBit_open (opens_const hfield rfl) _ _ (within_typeWrite_open (opens_const hfield rfl) _ h))
    (within_typeWrite_open (opens_const hfield rfl) _ h)

theorem within_setOvr (hfield : m.field) (c : Nat) (o : OvrCh) (h : Within m u s) :
    Within m u (s.setOvr c o) := within_setField hfield _ h

theorem within_messageStart (hfield : m.field) (c n : Nat) (w : OvrWait) (h : Within m u s) :
    Within m u (messageStart c n w s) := by
  unfold messageStart
  split
  · split
    · exact within_setChan hfield _ _ (within_setOvr hfield _ _ h)
    · exact h
  · exact h

theorem within_enterOff (hfield : m.field) (c : Nat) (h : Within m u s) : Within m u (enterOff c s) := by
  unfold enterOff
  split
  · exact within_setChan hfield _ _ (within_setOvr hfield _ _ h)
  · exact within_setChan hfield _ _ h

theorem within_renumber (hfield : m.field) (k : Int) (h : Within m u s) : Within m u (renumber k s) :=
  within_ite h (within_setField hfield _ h)

/-! ### Machine/PowerStage.lean -/

theorem within_cmdRefused (hfield : m.field) (c : Nat) (h : Within m u s) : Within m u (cmdRefused c s) :=
  within_fevtC hfield _ _ _ _ (opens_const hfield rfl) h

theorem within_startOp (hfield : m.field) (c : Nat) (h : Within m u s) : Within m u (startOp c s) :=
  within_ite (within_setChan hfield _ _ h) (within_cmdRefused hfield _ h)

theorem within_stopOp (hfield : m.field) (c : Nat) (h : Within m u s) : Within m u (stopOp c s) := by
  unfold stopOp
  dsimp only
  split
  · exact within_cmdRefused hfield _ h
  · split
    · exact within_cmdRefused hfield _ h
    · exact within_cmdRefused hfield _ h
    · exact within_setChan hfield _ _ h
    · exact within_setChan hfield _ _ h
    · exact h
    · exact within_setChan hfield _ _ h
    · exact within_setChan hfield _ _ h
    · exact within_setChan hfield _ _ h

theorem within_clearOp (hfield : m.field) (c : Nat) (h : Within m u s) : Within m u (clearOp c s) :=
  within_ite (within_enterOff hfield _ (within_setReg_open (opens_const hfield rfl) _ h)) (within_cmdRefused hfield _
    h)

theorem within_chcmdWrite (hfield : m.field) (c : Nat) (v : Word) (h : Within m u s) :
    Within m u (chcmdWrite c v s) := by
  unfold chcmdWrite
  split
  · exact within_startOp hfield _ h
  · exact within_stopOp hfield _ h
  · exact within_clearOp hfield _ h
  · exact h

theorem within_startSequenceOp (hfield : m.field) (c : Nat) (h : Within m u s) :
    Within m u (startSequenceOp c s) := within_ite (within_setChan hfield _ _ h) h

theorem within_enableTimeElapsedOp (hfield : m.field) (c : Nat) (h : Within m u s) :
    Within m u (enableTimeElapsedOp c s) :=
  within_ite h (within_ite (within_setChan hfield _ _ h) (within_setChan hfield _ _ h))

theorem within_hold50CompleteOp (hfield : m.field) (c : Nat) (h : Within m u s) :
    Within m u (hold50CompleteOp c s) := within_ite (within_messageStart hfield _ _ _ (within_setChan hfield _ _ h)) h

theorem within_enterRun (hfield : m.field) (c : Nat) (h : Within m u s) : Within m u (enterRun c s) :=
  within_messageStart hfield _ _ _ (within_setChan hfield _ _ h)

theorem within_rampInCompleteOp (hfield : m.field) (c : Nat) (h : Within m u s) :
    Within m u (rampInCompleteOp c s) :=
  within_ite (within_ite (within_enterRun hfield _ (within_setChan hfield _ _ h)) (within_setChan hfield _ _ h)) h

theorem within_stopRampOutCompleteOp (hfield : m.field) (c : Nat) (h : Within m u s) :
    Within m u (stopRampOutCompleteOp c s) :=
  within_ite (within_ite (within_setChan hfield _ _ h) (within_setChan hfield _ _ h)) h

theorem within_stopHold50CompleteOp (hfield : m.field) (c : Nat) (h : Within m u s) :
    Within m u (stopHold50CompleteOp c s) := within_ite (within_setChan hfield _ _ h) h

theorem within_stopEnableTimeElapsedOp (hfield : m.field) (c : Nat) (h : Within m u s) :
    Within m u (stopEnableTimeElapsedOp c s) := within_ite (within_enterOff hfield _ h) h

theorem within_modulate (hfield : m.field) (c : Nat) (x : Int) (h : Within m u s) :
    Within m u (modulate c x s) :=
  within_ite (within_fevtC hfield _ _ _ _ (opens_const hfield rfl) (within_setChan hfield _ _ h)) (within_ite
    (within_setChan hfield _ _ h) (within_fevtC hfield _ _ _ _ (opens_const hfield rfl) (within_setChan hfield _ _
    h)))

theorem within_enterSamples (hfield : m.field) (c n : Nat) (h : Within m u s) :
    Within m u (enterSamples c n s) := within_setChan hfield _ _ h

theorem within_pilotSettle (hfield : m.field) (c pos : Nat) (h : Within m u s) :
    Within m u (pilotSettle c pos s) := by
  unfold pilotSettle
  dsimp only
  split
  · split
    · exact within_setChan hfield _ _ h
    · exact h
  · exact h

theorem within_carrierPeriodOp (hfield : m.field) (c : Nat) (h : Within m u s) :
    Within m u (carrierPeriodOp c s) := by
  unfold carrierPeriodOp
  repeat' first
    | with_reducible first
      | assumption | apply within_modulate | apply within_setChan | apply within_enterSamples
      | apply within_pilotSettle
    | (intro x; refine keeps_cut (a := Within m u x) ?_ ?_; intro _; clear_value x)
    | (intro x; clear_value x) | lift_lets -underBinder | split

theorem within_carrierModeWriteOp (hfield : m.field) (v : Word) (h : Within m u s) :
    Within m u (carrierModeWriteOp v s) := by
  unfold carrierModeWriteOp
  repeat' with_reducible first
    | assumption | apply within_setBit_open | apply within_setFld_open | apply within_fevt | apply within_ite
    | exact opens_const hfield rfl

theorem within_avoidanceRunOp (hfield : m.field) (v : Word) (h : Within m u s) :
    Within m u (avoidanceRunOp v s) :=
  within_ite (within_typeWrite_open (opens_const hfield rfl) _ h) (within_ite (within_fevt hfield _ _ (opens_const
    hfield rfl) (within_typeWrite_open (opens_const hfield rfl) _ h)) (within_setBit_open (opens_const hfield rfl) _ _
    (within_setField hfield _ (within_typeWrite_open (opens_const hfield rfl) _ h))))

theorem within_avoidanceRunCompleteOp (hfield : m.field) (h : Within m u s) :
    Within m u (avoidanceRunCompleteOp s) := by
  unfold avoidanceRunCompleteOp
  repeat' first
    | with_reducible first
      | assumption | apply within_setReg_open | apply within_setField | apply within_fevt
      | exact opens_const hfield rfl
    | split

theorem within_applyEnvelope (hfield : m.field) (msg : Nat) (env : Nat → Nat) (h : Within m u s) :
    Within m u (applyEnvelope msg env s) := within_setField hfield _ h

theorem within_formOvr (hfield : m.field) (c : Nat) (h : Within m u s) : Within m u (formOvr c s) :=
  within_setField hfield _ h

theorem within_boostPeriodOp (hfield : m.field) (p rail bus : Nat) (h : Within m u s) :
    Within m u (boostPeriodOp p rail bus s) :=
  within_setBst hfield _ _ (within_setFld_open (opens_const hfield rfl) _ _ _ (within_formOvr hfield _ (within_formOvr
    hfield _ h)))

theorem within_fbstCtrlWrite (hfield : m.field) (v : Word) (h : Within m u s) :
    Within m u (fbstCtrlWrite v s) :=
  within_forN (within_typeWrite_open (opens_const hfield rfl) _ h) (fun _ _ ht => within_setBst hfield _ _ ht)

theorem within_hswWriteOp (hfield : m.field) (v : Word) (h : Within m u s) : Within m u (hswWriteOp v s) :=
  within_fevtIf hfield _ _ _ (opens_const hfield rfl) (within_setReg_open (opens_const hfield rfl) _ h)

theorem within_takeoverOne (hfield : m.field) (c : Nat) (h : Within m u s) : Within m u (takeoverOne c s) :=
  within_ite (within_setChan hfield _ _ (within_setBit_open (opens_const hfield rfl) _ _ h)) (within_cmdRefused hfield
    _ h)

theorem within_takeoverStartOp (hfield : m.field) (v : Word) (h : Within m u s) :
    Within m u (takeoverStartOp v s) := within_forN h (fun _ _ ht => within_ite (within_takeoverOne hfield _ ht) ht)

theorem within_hswtElapsedOp (hfield : m.field) (c : Nat) (h : Within m u s) :
    Within m u (hswtElapsedOp c s) := within_ite (within_setChan hfield _ _ h) h

theorem within_hingeSafeOff (hfield : m.field) (h : Within m u s) : Within m u (hingeSafeOff s) := by
  unfold hingeSafeOff
  repeat' first
    | with_reducible first
      | assumption | intro _ | apply within_setBit_open | apply within_setChan | apply within_forN
      | exact opens_const hfield rfl
    | lift_lets -underBinder | split

theorem within_faultMsg (hfield : m.field) (bitn c cause : Nat) (h : Within m u s) :
    Within m u (s.faultMsg bitn c cause) :=
  within_ite (within_fieldQueue hfield _ _ h) (within_fevtC hfield _ _ _ _ (opens_const hfield rfl) h)

theorem within_latch (hfield : m.field) (c cause : Nat) (e : Option Nat) (h : Within m u s) :
    Within m u (latch c cause e s) := by
  unfold latch
  repeat' first
    | with_reducible first
      | assumption | apply within_setReg_open | apply within_setChan | apply within_faultMsg | apply within_raise_open
      | apply within_fevtC | apply within_ite | exact opens_const hfield rfl | exact opens_array hfield _ rfl
    | split

theorem within_ilimCrossingOp (hfield : m.field) (c mv ticks : Nat) (h : Within m u s) :
    Within m u (ilimCrossingOp c mv ticks s) :=
  within_ite (within_ite (within_latch hfield _ _ _ (within_setChan hfield _ _ h)) (within_setChan hfield _ _ h)) h

theorem within_iscCrossingOp (hfield : m.field) (c mv : Nat) (h : Within m u s) :
    Within m u (iscCrossingOp c mv s) := within_ite (within_latch hfield _ _ _ h) h

theorem within_fltAssertOp (hfield : m.field) (c : Nat) (h : Within m u s) : Within m u (fltAssertOp c s) :=
  within_ite h (within_latch hfield _ _ _ h)

theorem within_lineOverVoltageOp (hfield : m.field) (c mv : Nat) (h : Within m u s) :
    Within m u (lineOverVoltageOp c mv s) := within_ite (within_latch hfield _ _ _ h) h

theorem within_retryOp (hfield : m.field) (c : Nat) (h : Within m u s) : Within m u (retryOp c s) :=
  within_ite (within_setChan hfield _ _ h) h

theorem within_probeCompleteOp (hfield : m.field) (c : Nat) (h : Within m u s) :
    Within m u (probeCompleteOp c s) :=
  within_ite (within_ite (within_enterRun hfield _ h) (within_setChan hfield _ _ h)) h

theorem within_dcOffsetOp (hfield : m.field) (c : Nat) (mv : Int) (h : Within m u s) :
    Within m u (dcOffsetOp c mv s) := within_ite (within_latch hfield _ _ _ h) h

theorem within_ntcWarningOp (hfield : m.field) (k mv : Nat) (h : Within m u s) :
    Within m u (ntcWarningOp k mv s) :=
  within_ite h (within_ite (within_ite h (within_fevtC hfield _ _ _ _ (opens_const hfield rfl) (within_setField hfield
    _ h))) (within_ite (within_setField hfield _ h) h))

theorem within_ntcTripOp (hfield : m.field) (k mv : Nat) (h : Within m u s) :
    Within m u (ntcTripOp k mv s) := by
  unfold ntcTripOp
  repeat' first
    | with_reducible first
      | assumption | intro _ | apply within_setChan | apply within_setFld_open | apply within_fevtC
      | apply within_forN | exact opens_const hfield rfl | exact opens_array hfield _ rfl
    | lift_lets -underBinder | split

theorem within_thermalRestoreOp (hfield : m.field) (k mv : Nat) (h : Within m u s) :
    Within m u (thermalRestoreOp k mv s) :=
  within_ite (within_forN (within_setField hfield _ h) (fun _ _ ht => within_ite (within_setChan hfield _ _ ht) ht)) h

theorem within_boostOverCurrentOp (hfield : m.field) (p mv : Nat) (h : Within m u s) :
    Within m u (boostOverCurrentOp p mv s) :=
  within_ite (within_fevtC hfield _ _ _ _ (opens_const hfield rfl) (within_setBst hfield _ _ h)) h

theorem within_boostOcPersistOp (hfield : m.field) (p : Nat) (h : Within m u s) :
    Within m u (boostOcPersistOp p s) :=
  within_ite (within_ite (within_fevtC hfield _ _ _ _ (opens_const hfield rfl) (within_setBst hfield _ _ h))
    (within_setBst hfield _ _ h)) h

theorem within_boostRetryOp (hfield : m.field) (p : Nat) (h : Within m u s) :
    Within m u (boostRetryOp p s) := within_ite (within_setBst hfield _ _ h) h

theorem within_boostOverVoltageOp (hfield : m.field) (p rail : Nat) (h : Within m u s) :
    Within m u (boostOverVoltageOp p rail s) :=
  within_ite (within_fevtC hfield _ _ _ _ (opens_const hfield rfl) (within_setBst hfield _ _ h)) h

theorem within_railOverVoltageOp (hfield : m.field) (p rail : Nat) (h : Within m u s) :
    Within m u (railOverVoltageOp p rail s) :=
  within_ite (within_latch hfield _ _ _ (within_latch hfield _ _ _ (within_fevtC hfield _ _ _ _ (opens_const hfield
    rfl) h))) h

theorem within_reportZ (c z : Nat) (pilot : Bool) (h : Within offMem u s) :
    Within offMem u (reportZ c z pilot s) := by
  unfold reportZ
  repeat' with_reducible first
    | assumption | rfl | apply within_setReg | apply within_setChan | apply within_fevtC | apply within_ite
    | apply opens_offMem

theorem within_impedanceEstimateOp (c : Nat) (vs is : List Int) (h : Within offMem u s) :
    Within offMem u (impedanceEstimateOp c vs is s) :=
  within_ite (within_ite (within_reportZ _ _ _ (within_nextFree rfl (within_setChan rfl _ _ h))) (within_reportZ _ _ _
    (within_setChan rfl _ _ h))) (within_setChan rfl _ _ h)

theorem within_silenceFrom (hfield : m.field) (msg : Nat) (env : Nat → Nat) (h : Within m u s) :
    Within m u (silenceFrom msg env s) := within_forN h (fun _ _ ht => within_setChan hfield _ _ ht)

theorem within_pilotStartOp (hfield : m.field) (c : Nat) (h : Within m u s) :
    Within m u (pilotStartOp c s) := within_ite (within_setChan hfield _ _ h) h

theorem within_fmonCtrlWrite (hfield : m.field) (v : Word) (h : Within m u s) :
    Within m u (fmonCtrlWrite v s) :=
  within_ite (within_typeWrite_open (opens_const hfield rfl) _ h) (within_forN (within_typeWrite_open (opens_const
    hfield rfl) _ h) (fun _ _ ht => within_setChan hfield _ _ ht))

theorem within_earthLeakageOp (hfield : m.field) (mv : Nat) (h : Within m u s) :
    Within m u (earthLeakageOp mv s) :=
  within_fevtIf hfield _ _ _ (opens_const hfield rfl) (within_setFld_open (opens_const hfield rfl) _ _ _ h)

theorem within_guardWrite (hfield : m.field) (ok : Bool) (r a e : Nat) (v : Word) (hr : m.opens r)
    (ha : m.opens a) (h : Within m u s) : Within m u (guardWrite ok r a e v s) :=
  within_ite (within_typeWrite_open hr _ h) (within_fevt hfield _ _ ha h)

theorem within_powerStageWrite (hfield : m.field) (a : Nat) (v : Word) (ha : m.opens a) (h : Within m u s) :
    Within m u (powerStageWrite a v s) := by
  unfold powerStageWrite
  repeat' with_reducible first
    | assumption | apply within_fbstCtrlWrite | apply within_typeWrite_open | apply within_fmonCtrlWrite
    | apply within_carrierModeWriteOp | apply within_chcmdWrite | apply within_takeoverStartOp
    | apply within_avoidanceRunOp | apply within_guardWrite | apply within_hswWriteOp | apply within_ite
    | exact opens_const hfield rfl

/-! ### Machine/Fire.lean -/

theorem within_replaceSource (hfield : m.field) (c : Nat) (a : AudioSrc) (h : Within m u s) :
    Within m u (replaceSource c a s) := within_setChan hfield _ _ h

theorem within_claimBy (hfield : m.field) (c k : Nat) (h : Within m u s) : Within m u (claimBy c k s) := by
  unfold claimBy
  split
  · exact within_replaceSource hfield _ _ (within_setChan hfield _ _ (within_setOvr hfield _ _ h))
  · exact within_replaceSource hfield _ _ (within_setChan hfield _ _ (within_setOvr hfield _ _ h))
  · exact within_replaceSource hfield _ _ (within_setChan hfield _ _ (within_setOvr hfield _ _ h))
  · exact within_setChan hfield _ _ (within_setOvr hfield _ _ h)
  · exact within_setChan hfield _ _ (within_setOvr hfield _ _ h)

theorem within_unclaim (hfield : m.field) (c : Nat) (h : Within m u s) : Within m u (unclaim c s) :=
  within_setChan hfield _ _ (within_replaceSource hfield _ _ (within_setChan hfield _ _ (within_setField hfield _ h)))

theorem within_refreshClaims (hfield : m.field) (h : Within m u s) : Within m u (refreshClaims s) := by
  unfold refreshClaims
  repeat' first
    | with_reducible first | assumption | intro _ | apply within_unclaim | apply within_claimBy | apply within_forN
    | split

theorem within_assertEntry (hfield : m.field) (k : Nat) (h : Within m u s) : Within m u (assertEntry k s) :=
  within_fevtIf hfield _ _ _ (opens_const hfield rfl) (within_setField hfield _ h)

theorem within_releaseEntry (hfield : m.field) (k : Nat) (h : Within m u s) :
    Within m u (releaseEntry k s) :=
  within_ite (within_fevt hfield _ _ (opens_const hfield rfl) (within_setField hfield _ h)) h

theorem within_setFin (hfield : m.field) (k : Nat) (x : Fin_) (h : Within m u s) :
    Within m u (s.setFin k x) := within_setField hfield _ h

theorem within_finChange (hfield : m.field) (k st : Nat) (ev : Bool) (h : Within m u s) :
    Within m u (finChange k st ev s) := by
  unfold finChange
  repeat' with_reducible first
    | assumption | apply within_releaseEntry | apply within_setField | apply within_setFld_open | apply within_setFin
    | apply within_assertEntry | apply within_fevtC | apply within_ite | exact opens_const hfield rfl

theorem within_finOne (hfield : m.field) (k : Nat) (ohms : Option Nat) (h : Within m u s) :
    Within m u (finOne k ohms s) :=
  within_ite (within_ite (within_setFin hfield _ _ (within_setReg_open (opens_array hfield _ rfl) _ h)) (within_ite
    (within_finChange hfield _ _ _ (within_setReg_open (opens_array hfield _ rfl) _ h)) (within_setFin hfield _ _
    (within_setReg_open (opens_array hfield _ rfl) _ h)))) h

theorem within_finMeasurementOp (hfield : m.field) (ohms : List (Option Nat)) (h : Within m u s) :
    Within m u (finMeasurementOp ohms s) :=
  within_refreshClaims hfield (within_forN h (fun _ _ ht => within_finOne hfield _ _ ht))

theorem within_ffinCfgWrite (hfield : m.field) (v : Word) (h : Within m u s) :
    Within m u (ffinCfgWrite v s) := by
  unfold ffinCfgWrite
  repeat' with_reducible first
    | assumption | intro _ | apply within_refreshClaims | apply within_setFld_open | apply within_setFin
    | apply within_finChange | apply within_fevt | apply within_ite | apply within_forN | exact opens_const hfield rfl

theorem within_sbxLoadBegin (hfield : m.field) (h : Within m u s) : Within m u (sbxLoadBegin s) :=
  within_setField hfield _ (within_setReg_open (opens_const hfield rfl) _ (within_setReg_open (opens_const hfield rfl)
    _ (within_setReg_open (opens_const hfield rfl) _ h)))

theorem within_toneBurstEndOp (hfield : m.field) (h : Within m u s) : Within m u (toneBurstEndOp s) :=
  within_ite (within_setField hfield _ h) h

theorem within_setPlayer (hfield : m.field) (p : Nat) (x : Player) (h : Within m u s) :
    Within m u (s.setPlayer p x) := within_setField hfield _ h

theorem within_playWrite (hfield : m.field) (p : Nat) (v : Word) (h : Within m u s) :
    Within m u (playWrite p v s) := within_setPlayer hfield _ _ (within_typeWrite_open (opens_array hfield _ rfl) _ h)

theorem within_playersFolio (hfield : m.field) (h : Within m u s) : Within m u (playersFolio s) := by
  unfold playersFolio
  repeat' first
    | with_reducible first | assumption | intro _ | apply within_setPlayer | apply within_forN
    | lift_lets -underBinder | split

theorem within_fsbxCmdWrite (hfield : m.field) (v : Word) (h : Within m u s) :
    Within m u (fsbxCmdWrite v s) := by
  unfold fsbxCmdWrite
  repeat' with_reducible first
    | assumption | intro _ | apply within_releaseEntry | apply within_refreshClaims | apply within_sbxLoadBegin
    | apply within_fevt | apply within_ite | apply within_forN | exact opens_const hfield rfl

theorem within_pgCmdWrite (hfield : m.field) (v : Word) (h : Within m u s) : Within m u (pgCmdWrite v s) :=
  within_ite (within_ite (within_fevt hfield _ _ (opens_const hfield rfl) h) (within_setBit_open (opens_const hfield
    rfl) _ _ (within_setField hfield _ h))) h

theorem within_overrideRepeatOp (hfield : m.field) (c : Nat) (h : Within m u s) :
    Within m u (overrideRepeatOp c s) := by
  unfold overrideRepeatOp
  dsimp only
  split
  · split
    · exact within_setChan hfield _ _ h
    · exact h
  · exact h
  · exact h
  · exact h

theorem within_ovrWrite (hfield : m.field) (k : Nat) (v : Word) (h : Within m u s) :
    Within m u (ovrWrite k v s) := within_refreshClaims hfield (within_typeWrite_open (opens_array hfield _ rfl) _ h)

theorem within_fireWrite (hfield : m.field) (a : Nat) (v : Word) (ha : m.opens a) (h : Within m u s) :
    Within m u (fireWrite a v s) := by
  unfold fireWrite
  repeat' with_reducible first
    | assumption | apply within_typeWrite_open | apply within_refreshClaims | apply within_pgCmdWrite
    | apply within_ovrWrite | apply within_ffinCfgWrite | apply within_fsbxCmdWrite | apply within_playWrite
    | apply within_guardWrite | apply within_foutWrite | apply within_ite | exact opens_const hfield rfl

/-! ### Machine/NetF0.lean -/

theorem within_setF0 (f : F0) (h : Within offMem u s) : Within offMem u (s.setF0 f) := within_net rfl _ h

theorem within_fbusDrop (hfield : m.field) (h : Within m u s) : Within m u (fbusDrop s) :=
  within_fevt hfield _ _ (opens_const hfield rfl) (within_fkwyCount hfield _ _ (opens_const hfield rfl) h)

theorem within_relayToHost (hfield : m.field) (f : Frame) (h : Within m u s) :
    Within m u (relayToHost f s) := within_ite (within_fieldQueue hfield _ _ h) (within_fbusDrop hfield h)

theorem within_f0FrameReceivedOp (hfield : m.field) (f : Frame) (h : Within m u s) :
    Within m u (f0FrameReceivedOp f s) := by
  unfold f0FrameReceivedOp
  repeat' first
    | with_reducible first | assumption | apply within_relayToHost | apply within_fbusCount
    | (intro x; refine keeps_cut (a := Within m u x) ?_ ?_; intro _; clear_value x)
    | subst x | lift_lets -underBinder | split

theorem within_f0Offer (q : Nat) (f : Frame) (h : Within offMem u s) : Within offMem u (f0Offer q f s) :=
  within_ite (within_setF0 _ h) (within_fbusDrop rfl (within_fbusCount rfl _ _ h))

theorem within_f0Select (h : Within offMem u s) : Within offMem u (f0Select s) := by
  unfold f0Select
  dsimp only
  split
  · exact within_setF0 _ h
  · exact h

theorem within_f0Attempt (deferred : Bool) {act : F0Tx → State → State}
    (hact : ∀ x t, Within offMem u t → Within offMem u (act x t)) (h : Within offMem u s) :
    Within offMem u (f0Attempt deferred act s) := by
  have hsel := within_f0Select h
  unfold f0Attempt
  dsimp only
  repeat' split
  all_goals with_reducible first | assumption | apply hact
  · exact within_fbusCount rfl _ _ hsel
  · exact hsel

theorem within_f0Sent (t : F0Tx) (h : Within offMem u s) : Within offMem u (f0Sent t s) := by
  unfold f0Sent
  repeat' first
    | with_reducible first | assumption | rfl | apply within_setF0 | apply within_fbusCount
    | split

theorem within_f0Collided (late : Bool) (t : F0Tx) (h : Within offMem u s) :
    Within offMem u (f0Collided late t s) :=
  within_ite (within_setF0 _ (within_fevt rfl _ _ (opens_offMem _) (within_fbusCount rfl _ _ h))) (within_ite
    (within_setF0 _ (within_fevt rfl _ _ (opens_offMem _) (within_fbusCount rfl _ _ h))) (within_setF0 _ h))

theorem within_f0BackoffEndOp (h : Within offMem u s) : Within offMem u (f0BackoffEndOp s) := by
  unfold f0BackoffEndOp
  split
  · exact within_setF0 _ h
  · exact h

/-! ### Machine/FieldRegs.lean -/

theorem within_autonomyEnter (hfield : m.field) (h : Within m u s) : Within m u (autonomyEnter s) :=
  within_ite h (within_fevt hfield _ _ (opens_const hfield rfl) (within_hingeSafeOff hfield (within_setField hfield _
    (within_forN h (fun _ _ ht => within_ite ht (within_setChan hfield _ _ ht))))))

theorem within_autonomyLeave (hfield : m.field) (h : Within m u s) : Within m u (autonomyLeave s) :=
  within_fevt hfield _ _ (opens_const hfield rfl) (within_setField hfield _ (within_forN h (fun _ _ ht => within_ite
    ht (within_ite (within_setChan hfield _ _ ht) (within_setChan hfield _ _ ht)))))

theorem within_fsysAutWrite (hfield : m.field) (v : Word) (h : Within m u s) :
    Within m u (fsysAutWrite v s) := by
  unfold fsysAutWrite
  repeat' with_reducible first
    | assumption | apply within_setBit_open | apply within_setFld_open | apply within_autonomyLeave
    | apply within_fevt | apply within_autonomyEnter | apply within_ite | exact opens_const hfield rfl

theorem within_autonomyExitOp (hfield : m.field) (h : Within m u s) : Within m u (autonomyExitOp s) :=
  within_ite (within_autonomyLeave hfield h) h

theorem within_fieldWrite (hfield : m.field) (a : Nat) (v : Word) (ha : m.opens a) (h : Within m u s) :
    Within m u (fieldWrite a v s) := by
  unfold fieldWrite
  repeat' first
    | with_reducible first
      | assumption | apply within_fireWrite | apply within_typeWrite_open | apply within_fsysAutWrite
      | apply within_powerStageWrite
    | split

/-! ### Machine/Time.lean -/

theorem within_followL (htim : m.tim) (h : Within m u s) : Within m u (followL s) :=
  within_forN h (fun _ _ ht => within_ite (within_setTim htim _ ht) ht)

theorem within_changeView (htim : m.tim) (i c : Nat) (v : View) (h : Within m u s) :
    Within m u (s.changeView i c v) := within_followL htim (within_setTim htim _ h)

theorem within_rateCommitOp (hregs : m.regs) (htim : m.tim) (view : Nat) (v : Word) (h : Within m u s) :
    Within m u (rateCommitOp view v s) :=
  within_ite (within_setTim htim _ (within_setFld hregs _ _ _ _ h)) (within_evt hregs _ _ h)

theorem within_rateTakesEffectOp (htim : m.tim) (view : Nat) (h : Within m u s) :
    Within m u (rateTakesEffectOp view s) := by
  unfold rateTakesEffectOp
  split
  · split
    · exact h
    · exact within_changeView htim _ _ _ h
  · exact h

theorem within_setViewTo (hregs : m.regs) (htim : m.tim) (view : Nat) (t : Int) (h : Within m u s) :
    Within m u (setViewTo view t s) :=
  within_ite (within_setBit hregs _ _ _ (within_setTim htim _ (within_changeView htim _ _ _ h))) (within_changeView
    htim _ _ _ h)

theorem within_setOp (hregs : m.regs) (htim : m.tim) (view : Nat) (h : Within m u s) :
    Within m u (setOp view s) := within_setViewTo hregs htim _ _ h

theorem within_stepOp (htim : m.tim) (view : Nat) (h : Within m u s) : Within m u (stepOp view s) :=
  within_changeView htim _ _ _ h

theorem within_slewBy (htim : m.tim) (view : Nat) (amt : Int) (h : Within m u s) :
    Within m u (slewBy view amt s) := within_changeView htim _ _ _ h

theorem within_slewOp (htim : m.tim) (view : Nat) (h : Within m u s) : Within m u (slewOp view s) :=
  within_slewBy htim _ _ h

theorem within_cancelOp (htim : m.tim) (view : Nat) (h : Within m u s) : Within m u (cancelOp view s) :=
  within_changeView htim _ _ _ h

theorem within_slewDoneOp (hregs : m.regs) (htim : m.tim) (view : Nat) (h : Within m u s) :
    Within m u (slewDoneOp view s) := within_ite (within_evt hregs _ _ (within_changeView htim _ _ _ h)) h

theorem within_activeWriteOp (hregs : m.regs) (htim : m.tim) (v : Word) (h : Within m u s) :
    Within m u (activeWriteOp v s) :=
  within_ite (within_evt hregs _ _ h) (within_ite (within_setBit hregs _ _ _ (within_setTim htim _ (within_setFld
    hregs _ _ _ _ h))) (within_setBit hregs _ _ _ (within_setTim htim _ (within_setFld hregs _ _ _ _ h))))

theorem within_jclrOp (htim : m.tim) (v : Word) (h : Within m u s) : Within m u (jclrOp v s) :=
  within_ite (within_setTim htim _ h) h

theorem within_jbusy (hregs : m.regs) (h : Within m u s) : Within m u (jbusy s) := within_setBit hregs _ _ _ h

theorem within_junctionDoneOp (hregs : m.regs) (htim : m.tim) (h : Within m u s) :
    Within m u (junctionDoneOp s) := within_ite (within_evt hregs _ _ (within_jbusy hregs (within_setTim htim _ h))) h

theorem within_snapOp (htim : m.tim) (v : Word) (h : Within m u s) : Within m u (snapOp v s) :=
  within_ite (within_setTim htim _ h) h

theorem within_tcntLoReadOp (h : Within offMem u s) : Within offMem u (tcntLoReadOp s) :=
  within_answer rfl _ _ (within_setReg rfl _ _ h)

theorem within_alignMask (htim : m.tim) (msg : Nat) (h : Within m u s) : Within m u (alignMask msg s) :=
  within_forN h (fun _ _ ht => within_ite (within_setTim htim _ ht) ht)

theorem within_alignOp (htim : m.tim) (v : Word) (h : Within m u s) : Within m u (alignOp v s) :=
  within_alignMask htim _ h

theorem within_pulseStop (htim : m.tim) (msg : Nat) (h : Within m u s) : Within m u (pulseStop msg s) :=
  within_forN h (fun _ _ ht => within_ite ht (within_setTim htim _ ht))

theorem within_pulseEnableOp (hregs : m.regs) (htim : m.tim) (v : Word) (h : Within m u s) :
    Within m u (pulseEnableOp v s) := within_alignMask htim _ (within_pulseStop htim _ (within_setFld hregs _ _ _ _ h))

theorem within_pulseEdgeOp (hregs : m.regs) (htim : m.tim) (o eighth : Nat) (h : Within m u s) :
    Within m u (pulseEdgeOp o eighth s) := by
  unfold pulseEdgeOp
  dsimp only
  split
  · exact h
  · exact within_evtIf hregs _ _ _ (within_setReg hregs _ _ (within_setTim htim _ h))

theorem within_firstLock (hregs : m.regs) (htim : m.tim) (i : Nat) (h : Within m u s) :
    Within m u (firstLock i s) :=
  within_ite h (within_activeWriteOp hregs htim _ (within_setViewTo hregs htim _ _ (within_setTim htim _ h)))

theorem within_srvWrite (hregs : m.regs) (htim : m.tim) (i : Nat) (lock : Bool) (pstate cc ofs : Nat)
    (h : Within m u s) : Within m u (srvWrite i lock pstate cc ofs s) :=
  within_evtIf hregs _ _ _ (within_setReg hregs _ _ (within_setTim htim _ h))

theorem within_ptpMessageOp (hregs : m.regs) (htim : m.tim) (i : Nat) (msg : PtpSync) (h : Within m u s) :
    Within m u (ptpMessageOp i msg s) := by
  unfold ptpMessageOp
  repeat' with_reducible first
    | assumption | apply within_followL | apply within_setReg | apply within_srvWrite | apply within_slewBy
    | apply within_firstLock | apply within_setViewTo | apply within_setTim | apply within_rateCommitOp
    | apply within_ite

theorem within_announceTimeoutOp (hregs : m.regs) (htim : m.tim) (i : Nat) (h : Within m u s) :
    Within m u (announceTimeoutOp i s) := within_ite h (within_srvWrite hregs htim _ _ _ _ _ (within_setTim htim _ h))

theorem within_xoFailureOp (h : Within offMem u s) : Within offMem u (xoFailureOp s) :=
  within_evt rfl _ _ (within_setBit rfl _ _ _ h)

/-! ### Machine/Rsc.lean -/

theorem within_rscStatus (hregs : m.regs) (h : Within m u s) : Within m u (rscStatus s) := within_setReg hregs _ _ h

theorem within_rscEnter (hregs : m.regs) (hrsc : m.rsc) (st : RscState) (h : Within m u s) :
    Within m u (rscEnter st s) := by
  unfold rscEnter
  dsimp only
  split
  · exact within_rscStatus hregs (within_setRsc hrsc _ (within_setReg hregs _ _ h))
  · split
    · exact within_evt hregs _ _ (within_rscStatus hregs (within_setRsc hrsc _ (within_setReg hregs _ _ h)))
    · exact within_evt hregs _ _ (within_rscStatus hregs (within_setRsc hrsc _ (within_setReg hregs _ _ h)))
    · exact within_sum hregs _ (within_rscStatus hregs (within_setRsc hrsc _ (within_setReg hregs _ _ h)))
    · exact within_rscStatus hregs (within_setRsc hrsc _ (within_setReg hregs _ _ h))

theorem within_setCtl (hregs : m.regs) (hrsc : m.rsc) (w : Word) (h : Within m u s) :
    Within m u (setCtl w s) := within_ite (within_setReg hregs _ _ (within_setRsc hrsc _ h)) h

theorem within_rscToOpen (hregs : m.regs) (hrsc : m.rsc) (h : Within m u s) : Within m u (rscToOpen s) :=
  within_rscEnter hregs hrsc _ (within_setRsc hrsc _ h)

theorem within_rscToHoldover (hregs : m.regs) (hrsc : m.rsc) (h : Within m u s) :
    Within m u (rscToHoldover s) :=
  within_ite (within_rscToOpen hregs hrsc (within_rscEnter hregs hrsc _ (within_setRsc hrsc _ h))) (within_rscEnter
    hregs hrsc _ (within_setRsc hrsc _ h))

theorem within_holdFrequency (hregs : m.regs) (hrsc : m.rsc) (h : Within m u s) :
    Within m u (holdFrequency s) := within_setCtl hregs hrsc _ h

theorem within_rscSwitch (hregs : m.regs) (hrsc : m.rsc) (k : Nat) (h : Within m u s) :
    Within m u (rscSwitch k s) :=
  within_rscEnter hregs hrsc _ (within_holdFrequency hregs hrsc (within_setRsc hrsc _ h))

theorem within_rscEvaluate (hregs : m.regs) (hrsc : m.rsc) (h : Within m u s) : Within m u (rscEvaluate s) := by
  unfold rscEvaluate
  repeat' first
    | with_reducible first
      | assumption | apply within_setRsc | apply within_rscStatus | apply within_holdFrequency
      | apply within_rscToHoldover | apply within_rscSwitch
    | (intro x; clear_value x) | lift_lets -underBinder | split

theorem within_rscAbandon (hregs : m.regs) (hrsc : m.rsc) (h : Within m u s) : Within m u (rscAbandon s) :=
  within_ite (within_rscToHoldover hregs hrsc h) (within_rscStatus hregs (within_setRsc hrsc _ h))

theorem within_rscAfterDisq (hregs : m.regs) (hrsc : m.rsc) (k : Nat) (h : Within m u s) :
    Within m u (rscAfterDisq k s) := within_ite (within_rscAbandon hregs hrsc h) (within_rscEvaluate hregs hrsc h)

theorem within_candStatus (hregs : m.regs) (k : Nat) (h : Within m u s) : Within m u (candStatus k s) :=
  within_setReg hregs _ _ h

theorem within_measureCand (hregs : m.regs) (hrsc : m.rsc) (k : Nat) (los : Bool) (d : Int) (h : Within m u s) :
    Within m u (measureCand k los d s) :=
  within_ite (within_evtIf hregs _ _ _ (within_setRsc hrsc _ (within_setBit hregs _ _ _ (within_evtIf hregs _ _ _
    (within_setReg hregs _ _ h))))) (within_setRsc hrsc _ (within_evtIf hregs _ _ _ (within_evtIf hregs _ _ _
    (within_setBit hregs _ _ _ (within_evtIf hregs _ _ _ (within_setReg hregs _ _ h))))))

theorem within_rscMeasurementOp (hfree : m.free) (hregs : m.regs) (hrsc : m.rsc) (msg : List RscMeas)
    (h : Within m u s) : Within m u (rscMeasurementOp msg s) := by
  unfold rscMeasurementOp
  extract_lets _ _ s1 s0 s2 s3 s4
  have h3 : Within m u s3 := within_forN (within_forN (within_setRsc hrsc _ h)
    fun _ _ ht => within_measureCand hregs hrsc _ _ _ ht) fun _ _ ht => within_candStatus hregs _ ht
  have h4 : Within m u s4 := within_ite (within_setCtl hregs hrsc _ (within_free hfree _ h3)) h3
  exact within_ite (within_rscAbandon hregs hrsc h4) (within_rscEvaluate hregs hrsc h4)

theorem within_disqualificationOp (hregs : m.regs) (hrsc : m.rsc) (k : Nat) (h : Within m u s) :
    Within m u (disqualificationOp k s) :=
  within_ite h (within_rscAfterDisq hregs hrsc _ (within_candStatus hregs _ (within_evtIf hregs _ _ _ (within_setRsc
    hrsc _ h))))

theorem within_buildoutCompleteOp (hfree : m.free) (hregs : m.regs) (hrsc : m.rsc) (ofs resid : Int)
    (h : Within m u s) : Within m u (buildoutCompleteOp ofs resid s) := by
  unfold buildoutCompleteOp
  refine within_ite h ?_
  extract_lets s1 r s2 s3
  have h3 : Within m u s3 :=
    within_setCtl hregs hrsc _ (within_free hfree _ (within_setRsc hrsc _ (within_setReg hregs _ _ h)))
  exact within_evt hregs _ _ (within_ite (within_rscToOpen hregs hrsc h3) (within_rscEnter hregs hrsc _ h3))

theorem within_ncoApply (hrsc : m.rsc) (h : Within m u s) : Within m u (ncoApply s) :=
  within_ite (within_setRsc hrsc _ h) h

theorem within_rscClose (hregs : m.regs) (hrsc : m.rsc) (phase : Int) (h : Within m u s) :
    Within m u (rscClose phase s) :=
  within_ite (within_rscEnter hregs hrsc _ (within_setReg hregs _ _ (within_setReg hregs _ _ h))) (within_rscEnter
    hregs hrsc _ (within_setReg hregs _ _ (within_setReg hregs _ _ h)))

theorem within_rscFollow (hregs : m.regs) (hrsc : m.rsc) (phase : Int) (h : Within m u s) :
    Within m u (rscFollow phase s) := by
  unfold rscFollow
  repeat' first
    | with_reducible first
      | assumption | apply within_rscEnter | apply within_setRsc | apply within_rscClose | apply within_ncoApply
      | apply within_setCtl | apply within_rscToOpen
    | split

theorem within_rscCtrlWrite (hregs : m.regs) (hrsc : m.rsc) (v : Word) (phase : Int) (h : Within m u s) :
    Within m u (rscCtrlWrite v phase s) :=
  within_rscFollow hregs hrsc _ (within_typeWrite hregs _ _ (within_evtIf hregs _ _ _ h))

theorem within_rscOpenOp (hregs : m.regs) (hrsc : m.rsc) (v : Word) (h : Within m u s) :
    Within m u (rscOpenOp v s) := within_rscCtrlWrite hregs hrsc _ _ h

theorem within_rscCloseOp (hregs : m.regs) (hrsc : m.rsc) (v : Word) (phase : Int) (h : Within m u s) :
    Within m u (rscCloseOp v phase s) := within_rscCtrlWrite hregs hrsc _ _ h

theorem within_rscFreerunOp (hregs : m.regs) (hrsc : m.rsc) (v : Word) (h : Within m u s) :
    Within m u (rscFreerunOp v s) := within_rscCtrlWrite hregs hrsc _ _ h

theorem within_ncoWriteOp (hregs : m.regs) (hrsc : m.rsc) (v : Word) (h : Within m u s) :
    Within m u (ncoWriteOp v s) :=
  within_ite (within_ncoApply hrsc (within_setReg hregs _ _ h)) (within_evt hregs _ _ h)

/-! ### Machine/Net.lean -/

theorem within_setPort (hnet : m.net) (p : Nat) (x : Port) (h : Within m u s) : Within m u (s.setPort p x) :=
  within_net hnet _ h

theorem within_setSub (hnet : m.net) (k : Nat) (x : Sub) (h : Within m u s) : Within m u (s.setSub k x) :=
  within_net hnet _ h

theorem within_setTx (hnet : m.net) (k : Nat) (x : TxStream) (h : Within m u s) : Within m u (s.setTx k x) :=
  within_net hnet _ h

theorem within_budgeted (hregs : m.regs) {t : State} (ht : Within m u t) (h : Within m u s) :
    Within m u (budgeted s t) :=
  within_ite ht (within_evt hregs _ _ h)

theorem within_linkDown (hnet : m.net) (hregs : m.regs) (p : Nat) (h : Within m u s) :
    Within m u (linkDown p s) :=
  within_ite (within_setPort hnet _ _ (within_evt hregs _ _ (within_setBit hregs _ _ _ h))) h

theorem within_macCfgWriteOp (hnet : m.net) (hregs : m.regs) (p : Nat) (v : Word) (h : Within m u s) :
    Within m u (macCfgWriteOp p v s) := by
  unfold macCfgWriteOp
  repeat' with_reducible first
    | assumption | apply within_linkDown | apply within_typeWrite | apply within_setFld | apply within_evt
    | apply within_ite

theorem within_portLinkUpOp (p : Nat) (h : Within offMem u s) : Within offMem u (portLinkUpOp p s) :=
  within_ite h (within_ite (within_setFld rfl _ _ _ _ h) (within_evt rfl _ _ (within_setBit rfl _ _ _ (within_setFld
    rfl _ _ _ _ h))))

theorem within_portLinkDownOp (hnet : m.net) (hregs : m.regs) (p : Nat) (lf rf : Bool) (h : Within m u s) :
    Within m u (portLinkDownOp p lf rf s) :=
  within_linkDown hnet hregs _ (within_setBit hregs _ _ _ (within_setBit hregs _ _ _ h))

theorem within_pcsCodeErrorOp (p : Nat) (h : Within offMem u s) : Within offMem u (pcsCodeErrorOp p s) :=
  within_ite h (within_macCount rfl _ _ _ h)

theorem within_offer (hnet : m.net) (hregs : m.regs) (p q : Nat) (f : Frame) (h : Within m u s) :
    Within m u (offer p q f s) :=
  within_ite (within_evt hregs _ _ (within_macCount hregs _ _ _ h)) (within_setPort hnet _ _ h)

theorem within_frameOfferedOp (hnet : m.net) (hregs : m.regs) (p q : Nat) (f : Frame) (h : Within m u s) :
    Within m u (frameOfferedOp p q f s) := within_ite h (within_offer hnet hregs _ _ _ h)

theorem within_offerDvt (hnet : m.net) (p : Nat) (f : Frame) (h : Within m u s) :
    Within m u (offerDvt p f s) := within_setPort hnet _ _ h

theorem within_hingeTxStamp (p t8 : Nat) (h : Within offMem u s) : Within offMem u (hingeTxStamp p t8 s) :=
  within_hng rfl _ h

theorem within_portTransmitOp (p eighth : Nat) (h : Within offMem u s) :
    Within offMem u (portTransmitOp p eighth s) := by
  unfold portTransmitOp
  repeat' first
    | with_reducible first
      | assumption | rfl | apply within_setPort | apply within_hingeTxStamp | apply within_macCount
    | (intro x; refine keeps_cut (a := Within offMem u x) ?_ ?_; intro _; clear_value x)
    | (intro x; clear_value x) | subst x | lift_lets -underBinder | split

theorem within_esmcHeard (hregs : m.regs) (hrsc : m.rsc) (p ql : Nat) (h : Within m u s) :
    Within m u (esmcHeard p ql s) :=
  within_ite (within_setRsc hrsc _ (within_setFld hregs _ _ _ _ h)) (within_ite (within_setRsc hrsc _ (within_setFld
    hregs _ _ _ _ h)) (within_setFld hregs _ _ _ _ h))

theorem within_ringPlaceFreedOp (hnet : m.net) (hregs : m.regs) (hrsc : m.rsc) (p : Nat) (h : Within m u s) :
    Within m u (ringPlaceFreedOp p s) := by
  unfold ringPlaceFreedOp
  dsimp only
  split
  · split
    · exact within_esmcHeard hregs hrsc _ _ (within_setPort hnet _ _ h)
    · exact within_setPort hnet _ _ h
  · exact within_setPort hnet _ _ h

/-! ### Machine/Ledger.lean -/

theorem within_setGain (hmem : m.mem) (x c : Nat) (h : Within m u s) : Within m u (s.setGain x c) :=
  within_wrHalf hmem _ _ h

theorem within_mixSink (hregs : m.regs) (rows : List (Nat × Word)) (k : Nat) (h : Within m u s) :
    Within m u (mixSink rows k s).2.2 := by
  unfold mixSink
  split
  · exact h
  · exact within_evtIf hregs _ _ _ (within_evtIf hregs _ _ _ h)

theorem within_writeSlot (hmem : m.mem) (k : Nat) (r : Ramp) (valid : Bool) (h : Within m u s) :
    Within m u (writeSlot k r valid s) :=
  within_wrWord hmem _ _ (within_wrWord hmem _ _ (within_wrWord hmem _ _ (within_wrWord hmem _ _ h)))

theorem within_takeSlot (hldg : m.ldg) (hmem : m.mem) (k : Nat) (hold : Bool) (r : Ramp) (h : Within m u s) :
    Within m u (takeSlot k hold r s) :=
  within_ite (within_setLdg hldg _ (within_ite h (within_writeSlot hmem _ _ _ h))) (within_setLdg hldg _ (within_ite h
    (within_writeSlot hmem _ _ _ h)))

theorem within_acceptChg (hldg : m.ldg) (hmem : m.mem) (c : Chg) (h : Within m u s) :
    Within m u (acceptChg c s) := by
  unfold acceptChg
  dsimp only
  split
  · exact h
  · exact within_takeSlot hldg hmem _ _ _ h

theorem within_changeAcceptOp (hldg : m.ldg) (hmem : m.mem) (h : Within m u s) :
    Within m u (changeAcceptOp s) := by
  unfold changeAcceptOp
  split
  · exact h
  · split
    · exact within_acceptChg hldg hmem _ (within_setLdg hldg _ h)
    · exact h

theorem within_setCode (hldg : m.ldg) (hmem : m.mem) (x c : Nat) (h : Within m u s) :
    Within m u (setCode x c s) := within_setGain hmem _ _ (within_setLdg hldg _ h)

theorem within_performGain (hldg : m.ldg) (hmem : m.mem) (rt : Option Nat) (l : List (Nat × Nat))
    (h : Within m u s) : Within m u (performGain rt l s) :=
  within_ite (within_setLdg hldg _ h) (within_foldl h (fun _ _ ht => within_setCode hldg hmem _ _ ht))

theorem within_performRamp (hldg : m.ldg) (hmem : m.mem) (hregs : m.regs) (l : List (Nat × Word))
    (h : Within m u s) : Within m u (performRamp l s) :=
  within_ite (within_evt hregs _ _ h) (within_foldl h (fun _ _ ht => within_setLdg hldg _ (within_wrWord hmem _ _
    ht)))

theorem within_performBeat (hldg : m.ldg) (hmem : m.mem) (hregs : m.regs) (b : LdgBeat) (h : Within m u s) :
    Within m u (performBeat b s) := by
  unfold performBeat
  split
  · exact within_performGain hldg hmem _ _ h
  · exact within_performRamp hldg hmem hregs _ h

theorem within_ledgerBeat (hldg : m.ldg) (hmem : m.mem) (hregs : m.regs) (b : LdgBeat) (h : Within m u s) :
    Within m u (ledgerBeat b s) :=
  within_ite (within_performBeat hldg hmem hregs _ h) (within_evtIf hregs _ _ _ (within_setLdg hldg _ h))

theorem within_gainStoreWriteOp (hans : m.ans) (hldg : m.ldg) (hmem : m.mem) (hregs : m.regs) (addr : Nat)
    (codes : List Half) (h : Within m u s) : Within m u (gainStoreWriteOp addr codes s) :=
  within_ite (within_answer hans _ _ (within_clhError hregs _ _ _ _ _ h)) (within_ite (within_answer hans _ _
    (within_clhError hregs _ _ _ _ _ h)) (within_answer hans _ _ (within_ledgerBeat hldg hmem hregs _ h)))

theorem within_headWaits (hregs : m.regs) (h : Within m u s) : Within m u (headWaits s) := by
  unfold headWaits
  split
  · exact h
  · exact within_evtIf hregs _ _ _ h

theorem within_waitingBeatOp (hldg : m.ldg) (hmem : m.mem) (hregs : m.regs) (h : Within m u s) :
    Within m u (waitingBeatOp s) := by
  unfold waitingBeatOp
  split
  · exact h
  · split
    · exact within_headWaits hregs (within_performBeat hldg hmem hregs _ (within_setLdg hldg _ h))
    · exact h

theorem within_chgvWriteOp (hans : m.ans) (hldg : m.ldg) (hmem : m.mem) (hregs : m.regs) (v : Word)
    (h : Within m u s) : Within m u (chgvWriteOp v s) :=
  within_ite (within_answer hans _ _ (within_clhError hregs _ _ _ _ _ h)) (within_ite (within_answer hans _ _
    (within_evt hregs _ _ h)) (within_ite (within_ite (within_answer hans _ _ (within_evt hregs _ _ h)) (within_answer
    hans _ _ (within_setLdg hldg _ h))) (within_answer hans _ _ (within_setCode hldg hmem _ _ h))))

theorem within_releaseHeld (hldg : m.ldg) (h : Within m u s) : Within m u (releaseHeld s) := within_setLdg hldg _ h

theorem within_holdWriteOp (hldg : m.ldg) (hregs : m.regs) (v : Word) (h : Within m u s) :
    Within m u (holdWriteOp v s) :=
  within_ite (within_typeWrite hregs _ _ h) (within_releaseHeld hldg (within_typeWrite hregs _ _ h))

theorem within_rampTableWriteOp (hans : m.ans) (hldg : m.ldg) (hmem : m.mem) (hregs : m.regs) (addr : Nat)
    (ws : List Word) (h : Within m u s) : Within m u (rampTableWriteOp addr ws s) :=
  within_ite (within_answer hans _ _ (within_clhError hregs _ _ _ _ _ h)) (within_ite (within_answer hans _ _
    (within_clhError hregs _ _ _ _ _ h)) (within_answer hans _ _ (within_ledgerBeat hldg hmem hregs _ h)))

theorem within_ramptWriteOp (k : Nat) (v : Word) (h : Within offMem u s) :
    Within offMem u (ramptWriteOp k v s) := within_ite (within_setReg rfl _ _ h) (within_evt rfl _ _ h)

theorem within_setGate (hldg : m.ldg) (hregs : m.regs) (src : Nat) (g : Gate) (h : Within m u s) :
    Within m u (setGate src g s) := within_setBit hregs _ _ _ (within_setLdg hldg _ h)

theorem within_repointGate (hldg : m.ldg) (hregs : m.regs) (r : Repoint) (h : Within m u s) :
    Within m u (repointGate r s) := by
  unfold repointGate
  dsimp only
  split <;> exact within_setGate hldg hregs _ _ h

theorem within_repointOp (hldg : m.ldg) (hregs : m.regs) (v : Word) (h : Within m u s) :
    Within m u (repointOp v s) :=
  within_ite (within_evt hregs _ _ h) (within_repointGate hldg hregs _ (within_setLdg hldg _ h))

theorem within_stepGates (hldg : m.ldg) (hregs : m.regs) (h : Within m u s) : Within m u (stepGates s) :=
  within_foldl h (fun _ _ ht => within_setGate hldg hregs _ _ (within_ite (within_setFld hregs _ _ _ _ ht) ht))

theorem within_restoreGates (hldg : m.ldg) (hregs : m.regs) (n : Nat) (gates : List (Nat × Gate))
    (binds : List (Nat × Nat)) (h : Within m u s) : Within m u (restoreGates n gates binds s) :=
  within_foldl (within_foldl (within_foldl (within_foldl h (fun _ _ ht => within_setGate hldg hregs _ _ ht)) (fun _ _
    ht => within_setFld hregs _ _ _ _ ht)) (fun _ _ ht => within_setGate hldg hregs _ _ ht)) (fun _ _ ht =>
    within_repointGate hldg hregs _ ht)

theorem within_advanceGates (hldg : m.ldg) (h : Within m u s) : Within m u (advanceGates s) := within_setLdg hldg _ h

/-! ### Machine/Journal.lean -/

theorem within_setFol (hpst : m.pst) (f : Fol) (h : Within m u s) : Within m u (s.setFol f) := within_setPst hpst _ h

theorem within_updFol (hpst : m.pst) (n : Nat) (g : Fol → Fol) (h : Within m u s) :
    Within m u (s.updFol n g) := by
  unfold State.updFol
  split
  · exact within_setFol hpst _ h
  · exact h

theorem within_setCtx (htel : m.tel) (k : Nat) (c : Ctx) (h : Within m u s) : Within m u (s.setCtx k c) :=
  within_tel htel _ h

theorem within_setCore (htel : m.tel) (t : Nat) (c : Core) (h : Within m u s) : Within m u (s.setCore t c) :=
  within_tel htel _ h

theorem within_writeCell (hmem : m.mem) (t n : Nat) (c : CellDecl) (f : Nat → Word) (h : Within m u s) :
    Within m u (writeCell t n c f s) := within_forN h (fun _ _ ht => within_wrWord hmem _ _ ht)

theorem within_deliver (hpst : m.pst) (k n : Nat) (h : Within m u s) : Within m u (deliver k n s) :=
  within_updFol hpst _ _ h

theorem within_zeroOutputs (hmem : m.mem) (k n : Nat) (h : Within m u s) : Within m u (zeroOutputs k n s) :=
  within_foldl h (fun _ _ ht => within_writeCell hmem _ _ _ _ ht)

theorem within_wrBank0 (hmem : m.mem) (hregs : m.regs) (htel : m.tel) (k off : Nat) (b : Byte)
    (h : Within m u s) : Within m u (wrBank0 k off b s) :=
  within_ite (within_evt hregs _ _ h) (within_wrByte hmem _ _ (within_ite h (within_setCore htel _ _ (within_forN h
    (fun _ _ ht => within_wrByte hmem _ _ ht)))))

theorem within_journalAdd (hpst : m.pst) (hregs : m.regs) (k n : Nat) (a : JAct) (h : Within m u s) :
    Within m u (journalAdd k n a s) := within_ite (within_evt hregs _ _ h) (within_setPst hpst _ h)

theorem within_performJ (hclh : m.clh) (hmem : m.mem) (hregs : m.regs) (r : JRec) (h : Within m u s) :
    Within m u (performJ r s) := by
  unfold performJ
  repeat' first
    | with_reducible first
      | assumption | intro _ | apply within_request | apply within_raise | apply within_wrByte | apply within_foldl
    | split

theorem within_performList (hclh : m.clh) (hmem : m.mem) (hregs : m.regs) (l : List (JRec × Bool))
    (h : Within m u s) : Within m u (performList l s).2 := by
  fun_induction performList l s
  case case5 ih => exact ih (within_performJ hclh hmem hregs _ h)
  case case4 => exact within_performJ hclh hmem hregs _ h
  all_goals exact h

theorem within_pumpJournal (hclh : m.clh) (hmem : m.mem) (hpst : m.pst) (hregs : m.regs) (t : Nat)
    (h : Within m u s) : Within m u (pumpJournal t s) := within_setPst hpst _ (within_performList hclh hmem hregs _ h)

theorem within_discard (hpst : m.pst) (htel : m.tel) (k n : Nat) (h : Within m u s) :
    Within m u (discard k n s) := within_setPst hpst _ (within_setCore htel _ _ h)

theorem within_copyDirty (hfree : m.free) (hmem : m.mem) (t : Nat) (undef : Bool) (l : List Nat)
    (h : Within m u s) : Within m u (copyDirty t undef l s) :=
  within_foldl h (fun _ _ ht => within_ite (within_useFree hfree _ (within_wrWord hmem _ _ (within_wrWord hmem _ _
    ht))) (within_forN ht (fun _ _ ht => within_wrByte hmem _ _ ht)))

theorem within_commit (hclh : m.clh) (hfree : m.free) (hmem : m.mem) (hpst : m.pst) (hregs : m.regs)
    (htel : m.tel) (k n : Nat) (h : Within m u s) : Within m u (commit k n s) := by
  unfold commit
  repeat' with_reducible first
    | assumption | intro _ | apply within_updFol | apply within_pumpJournal | apply within_setPst
    | apply within_itePair | apply within_useFree | apply within_foldl | apply within_wrBytes | apply within_setCore
    | apply within_copyDirty

theorem within_capture (hregs : m.regs) (t n : Nat) (f : Nat → Word) (h : Within m u s) :
    Within m u (capture t n f s) := within_setReg hregs _ _ (within_forN h (fun _ _ ht => within_setReg hregs _ _ ht))

theorem within_tapPoint (hfree : m.free) (hregs : m.regs) (point n : Nat) (p : Nat → Bool)
    (f : Nat → Nat → Word) (h : Within m u s) : Within m u (tapPoint point n p f s) :=
  within_forN h (fun _ _ ht => within_ite (within_ite (within_useFree hfree _ (within_capture hregs _ _ _ ht))
    (within_capture hregs _ _ _ ht)) ht)

theorem within_finalize (hclh : m.clh) (hfree : m.free) (hmem : m.mem) (hpst : m.pst) (hregs : m.regs)
    (htel : m.tel) (n g : Nat) (h : Within m u s) : Within m u (finalize n g s) := by
  unfold finalize
  repeat' first
    | with_reducible first
      | assumption | intro _ | apply within_commit | apply within_tapPoint | apply within_setFol
      | apply within_deliver | apply within_foldl
    | split

theorem within_settleGroup (hclh : m.clh) (hfree : m.free) (hmem : m.mem) (hpst : m.pst) (hregs : m.regs)
    (htel : m.tel) (n g : Nat) (h : Within m u s) : Within m u (settleGroup n g s) := by
  unfold settleGroup
  repeat' first
    | with_reducible first | assumption | apply within_finalize | apply within_setFol
    | (intro x; refine keeps_cut (a := Within m u x) ?_ ?_; intro _; clear_value x)
    | (intro x; clear_value x) | lift_lets -underBinder | split

theorem within_settle (hclh : m.clh) (hfree : m.free) (hmem : m.mem) (hpst : m.pst) (hregs : m.regs)
    (htel : m.tel) (n : Nat) (h : Within m u s) : Within m u (settle n s) :=
  within_forN h (fun _ _ ht => within_settleGroup hclh hfree hmem hpst hregs htel _ _ ht)

/-! ### Machine/Operands.lean -/

theorem within_storeData (hmem : m.mem) (hpst : m.pst) (hregs : m.regs) (htel : m.tel) (k n : Nat)
    (l : List (Nat × Byte)) (h : Within m u s) : Within m u (storeData k n l s) :=
  within_foldl (within_foldl h (fun _ _ ht => within_ite (within_wrBank0 hmem hregs htel _ _ _ ht) (within_ite
    (within_setCore htel _ _ (within_wrByte hmem _ _ ht)) ht))) (fun _ _ ht => within_journalAdd hpst hregs _ _ _ ht)

/-! ### Machine/TellerCore.lean -/

theorem within_loadPeaks (hregs : m.regs) (t n : Nat) (h : Within m u s) : Within m u (loadPeaks t n s) := by
  unfold loadPeaks
  repeat' first
    | with_reducible first | assumption | apply within_latchFld
    | (intro x; refine keeps_cut (a := Within m u x) ?_ ?_; intro _; clear_value x)
    | (intro x; clear_value x) | subst x | lift_lets -underBinder | split

theorem within_tapRows (hfree : m.free) (hregs : m.regs) (n : Nat) (h : Within m u s) :
    Within m u (tapRows n s) := by
  unfold tapRows
  split
  · split
    · exact within_tapPoint hfree hregs _ _ _ _ h
    · exact h
  · exact h

theorem within_endTask (hclh : m.clh) (hfree : m.free) (hmem : m.mem) (hpst : m.pst) (hregs : m.regs)
    (htel : m.tel) (t k n : Nat) (rerun stopped : Bool) (cyc : Nat) (h : Within m u s) :
    Within m u (endTask t k n rerun stopped cyc s) := by
  unfold endTask
  repeat' first
    | with_reducible first
      | assumption | apply within_settle | apply within_updFol | apply within_commit | apply within_loadPeaks
      | apply within_tapRows | apply within_deliver
    | (intro x; refine keeps_cut (a := Within m u x) ?_ ?_; intro _; clear_value x)
    | (intro x; clear_value x) | lift_lets -underBinder | split

theorem within_dropLdf (hclh : m.clh) (htel : m.tel) (t : Nat) (h : Within m u s) :
    Within m u (dropLdf t s) := within_setCore htel _ _ (within_setClh hclh _ h)

theorem within_finishRun (hclh : m.clh) (hfree : m.free) (hmem : m.mem) (hpst : m.pst) (hregs : m.regs)
    (htel : m.tel) (t : Nat) (stopped : Bool) (h : Within m u s) : Within m u (finishRun t stopped s) := by
  unfold finishRun
  repeat' first
    | with_reducible first | assumption | apply within_dropLdf | apply within_setCore | apply within_endTask
    | (intro x; clear_value x) | lift_lets -underBinder | split

theorem within_stopRun (hclh : m.clh) (hfree : m.free) (hmem : m.mem) (hpst : m.pst) (hregs : m.regs)
    (htel : m.tel) (t : Nat) (h : Within m u s) : Within m u (stopRun t s) := by
  unfold stopRun
  repeat' first
    | with_reducible first | assumption | apply within_zeroOutputs | apply within_discard | apply within_finishRun
    | split

theorem within_countFault (hregs : m.regs) (htel : m.tel) (k : Nat) (now : Bool) (h : Within m u s) :
    Within m u (countFault k now s) :=
  within_ite (within_evt hregs _ _ (within_setCtx htel _ _ h)) (within_setCtx htel _ _ h)

theorem within_endWaiting (hclh : m.clh) (hfree : m.free) (hmem : m.mem) (hpst : m.pst) (hregs : m.regs)
    (htel : m.tel) (k : Nat) (h : Within m u s) : Within m u (endWaiting k s) :=
  within_ite h (within_foldl h (fun _ _ ht => within_forN (within_ite (within_endTask hclh hfree hmem hpst hregs htel
    _ _ _ _ _ _ (within_zeroOutputs hmem _ _ ht)) ht) (fun _ _ ht => within_endTask hclh hfree hmem hpst hregs htel _
    _ _ _ _ _ (within_discard hpst htel _ _ (within_zeroOutputs hmem _ _ ht)))))

theorem within_tellerFault (hclh : m.clh) (hfree : m.free) (hmem : m.mem) (hpst : m.pst) (hregs : m.regs)
    (htel : m.tel) (t cause addr : Nat) (h : Within m u s) : Within m u (tellerFault t cause addr s) := by
  unfold tellerFault
  repeat' first
    | with_reducible first
      | assumption | apply within_setReg | apply within_endWaiting | apply within_stopRun | apply within_evt
      | apply within_evtIf | apply within_countFault
    | (intro x; refine keeps_cut (a := Within m u x) ?_ ?_; intro _; clear_value x)
    | (intro x; clear_value x) | lift_lets -underBinder | split

theorem within_computeOp (hclh : m.clh) (hfree : m.free) (hmem : m.mem) (hpst : m.pst) (hregs : m.regs)
    (htel : m.tel) (t : Nat) (p : Pred) (bad vec : Bool) (f : Core → Nat → Writes) (h : Within m u s) :
    Within m u (computeOp t p bad vec f s) :=
  within_ite h (within_ite (within_tellerFault hclh hfree hmem hpst hregs htel _ _ _ (within_setCore htel _ _ h))
    (within_setCore htel _ _ (within_setCore htel _ _ h)))

theorem within_endBundle (htel : m.tel) (t : Nat) (loads : List (Nat × Word)) (extra : Nat) (tgt : Option Nat)
    (h : Within m u s) : Within m u (endBundle t loads extra tgt s) := within_setCore htel _ _ h

/-- What a move's own part answers keeps within the parts. -/
def MoveRes.Within (m : Parts) (u : State) : MoveRes → Prop
  | .fault _ _ => True
  | .done s _ _ _ => Machine.Within m u s

theorem MoveRes.within_fault (m : Parts) (u : State) (c a : Nat) : MoveRes.Within m u (.fault c a) := True.intro

theorem MoveRes.within_done (l : List (Nat × Word)) (e : Nat) (g : Option Nat) (h : Machine.Within m u s) :
    MoveRes.Within m u (.done s l e g) := h

/-- A part of a move that faults or is done. -/
theorem MoveRes.within_ite {x y : MoveRes} {c : Prop} [Decidable c] (hx : MoveRes.Within m u x)
    (hy : MoveRes.Within m u y) : MoveRes.Within m u (if c then x else y) := by
  split
  · exact hx
  · exact hy

theorem within_moveOp (hpst : m.pst) (hregs : m.regs) (htel : m.tel) (hclh : m.clh) (hfree : m.free) (hmem : m.mem)
    (t : Nat) (p : Pred) (bad : Option Nat) (vec : Bool) {f : Core → Run → Nat → State → MoveRes}
    (hf : ∀ c r k, MoveRes.Within m u (f c r k s)) (h : Within m u s) : Within m u (moveOp t p bad vec f s) := by
  have hfault : ∀ cause a, Within m u (tellerFault t cause a s) := fun _ _ => by
    with_reducible apply within_tellerFault <;> assumption
  have hend : ∀ {t'} l e g, Within m u t' → Within m u (endBundle t l e g t') :=
    fun _ _ _ => within_endBundle htel _ _ _ _
  unfold moveOp
  dsimp only
  split
  · exact h
  · split
    · exact hfault _ _
    · exact h
    next r _ _ =>
      split
      · have hres := hf (s.core t).seen r (Pred.mask p (s.core t).seen)
        split
        · exact hfault _ _
        next e =>
          rw [e] at hres
          exact hend _ _ _ hres
      · exact hend _ _ _ h

/-! ### Machine/TellerMove.lean -/

theorem within_afterAccess (htel : m.tel) (t j mode : Nat) (imm : Int) (h : Within m u s) :
    Within m u (afterAccess t j mode imm s) := within_setCore htel _ _ h

theorem within_loadOp (hclh : m.clh) (hfree : m.free) (hmem : m.mem) (hpst : m.pst) (hregs : m.regs)
    (htel : m.tel) (t : Nat) (p : Pred) (o : FmtMA) (bad : Bool) (n align : Nat)
    (val : State → Run → Nat → Word) (h : Within m u s) : Within m u (loadOp t p o bad n align val s) := by
  unfold loadOp
  repeat' first
    | with_reducible first
      | assumption | intro _ | apply within_moveOp | apply within_afterAccess | apply MoveRes.within_done
      | exact MoveRes.within_fault _ _ _ _
    | lift_lets -underBinder | split

theorem within_ld2iOp (hclh : m.clh) (hfree : m.free) (hmem : m.mem) (hpst : m.pst) (hregs : m.regs)
    (htel : m.tel) (t : Nat) (o : FmtLD2I) (h : Within m u s) : Within m u (ld2iOp t o s) := by
  unfold ld2iOp
  repeat' first
    | with_reducible first
      | assumption | intro _ | apply within_moveOp | apply within_afterAccess | apply MoveRes.within_done
      | exact within_free hfree _ (by assumption) | exact MoveRes.within_fault _ _ _ _
    | lift_lets -underBinder | split

theorem within_storeOp (hclh : m.clh) (hfree : m.free) (hmem : m.mem) (hpst : m.pst) (hregs : m.regs)
    (htel : m.tel) (t : Nat) (p : Pred) (bad vec : Bool) (j mode : Nat) (imm : Int) (align : Nat)
    (vals : Core → Nat → List (Nat × List Byte)) (sv : Core → Nat → Bool) (h : Within m u s) :
    Within m u (storeOp t p bad vec j mode imm align vals sv s) := by
  unfold storeOp
  repeat' first
    | with_reducible first
      | assumption | intro _ | apply within_moveOp | apply within_storeData | apply within_setCore
      | apply within_afterAccess | apply MoveRes.within_done | exact MoveRes.within_fault _ _ _ _
    | lift_lets -underBinder | split

theorem within_askLdf (hclh : m.clh) (hregs : m.regs) (t a : Nat) (h : Within m u s) :
    Within m u (askLdf t a s) := within_request hclh hregs _ h

theorem within_ldfOp (hclh : m.clh) (hfree : m.free) (hmem : m.mem) (hpst : m.pst) (hregs : m.regs)
    (htel : m.tel) (t : Nat) (p : Pred) (o : FmtLF) (h : Within m u s) : Within m u (ldfOp t p o s) :=
  within_ite h (within_ite (within_tellerFault hclh hfree hmem hpst hregs htel _ _ _ h) (within_ite (within_askLdf
    hclh hregs _ _ (within_setCore htel _ _ h)) (within_endBundle htel _ _ _ _ h)))

theorem within_ldfArrive (hclh : m.clh) (hfree : m.free) (hmem : m.mem) (hpst : m.pst) (hregs : m.regs)
    (htel : m.tel) (t : Nat) (d : DoneTxn) (h : Within m u s) : Within m u (ldfArrive t d s) := by
  unfold ldfArrive
  dsimp only
  split
  · exact h
  · split
    · exact within_setCore htel _ _ h
    · split
      · exact h
      · split
        · exact within_endBundle htel _ _ _ _ (within_setCore htel _ _ h)
        · exact within_tellerFault hclh hfree hmem hpst hregs htel _ _ _ (within_setCore htel _ _ h)

theorem within_ldfResponseOp (hclh : m.clh) (hfree : m.free) (hmem : m.mem) (hpst : m.pst) (hregs : m.regs)
    (htel : m.tel) (t : Nat) (h : Within m u s) : Within m u (ldfResponseOp t s) := by
  unfold ldfResponseOp
  repeat' first
    | with_reducible first | assumption | apply within_ldfArrive | apply within_resetsSettle | apply within_setClh
    | split

theorem within_ldfTimeoutOp (hclh : m.clh) (hfree : m.free) (hmem : m.mem) (hpst : m.pst) (hregs : m.regs)
    (htel : m.tel) (t : Nat) (h : Within m u s) : Within m u (ldfTimeoutOp t s) := by
  unfold ldfTimeoutOp
  split
  · exact h
  · exact within_tellerFault hclh hfree hmem hpst hregs htel _ _ _ h

theorem within_writeCode (hfree : m.free) (htel : m.tel) (t n : Nat) (v : Word) (h : Within m u s) :
    Within m u (writeCode t n v s) :=
  within_ite (within_free hfree _ (within_setCore htel _ _ h)) (within_setCore htel _ _ h)

theorem within_writeCtl (hfree : m.free) (htel : m.tel) (t n : Nat) (v : Word) (h : Within m u s) :
    Within m u (writeCtl t n v s) :=
  within_ite (within_setCore htel _ _ h)
    (within_ite (within_free hfree _ (within_setCore htel _ _ h)) (within_setCore htel _ _ h))

theorem within_ldiOp (hclh : m.clh) (hfree : m.free) (hmem : m.mem) (hpst : m.pst) (hregs : m.regs) (htel : m.tel)
    (t reg : Nat) (imm : Word) (z : Nat) (h : Within m u s) : Within m u (ldiOp t reg imm z s) := by
  unfold ldiOp
  refine within_ite h ?_
  extract_lets s1
  have h1 : Within m u s1 := within_ite (within_endBundle htel _ _ _ _ h) h
  exact within_moveOp hpst hregs htel hclh hfree hmem _ _ _ _
    (fun _ _ _ => MoveRes.within_done _ _ _ (within_writeCode hfree htel _ _ _ h1)) h1

theorem within_loopOp (hclh : m.clh) (hfree : m.free) (hmem : m.mem) (hpst : m.pst) (hregs : m.regs)
    (htel : m.tel) (t : Nat) (p : Pred) (o : FmtLoop) (h : Within m u s) : Within m u (loopOp t p o s) := by
  unfold loopOp
  repeat' first
    | with_reducible first
      | assumption | intro _ | apply within_moveOp | apply within_setCore | apply MoveRes.within_done
      | exact MoveRes.within_fault _ _ _ _
    | lift_lets -underBinder | split

theorem within_persist (hmem : m.mem) (hpst : m.pst) (hregs : m.regs) (htel : m.tel) (t : Nat) (r : Run)
    (h : Within m u s) : Within m u (persist t r s) :=
  within_foldl h (fun _ _ ht => within_storeData hmem hpst hregs htel _ _ _ ht)

theorem within_fillOutputs (hmem : m.mem) (hregs : m.regs) (t : Nat) (r : Run) (h : Within m u s) :
    Within m u (fillOutputs t r s) :=
  within_foldl h (fun _ _ ht => within_forN ht (fun _ _ ht => within_ite ht (within_evt hregs _ _ (within_wrWord hmem
    _ _ ht))))

theorem within_satAtEnd (hregs : m.regs) (t : Nat) (h : Within m u s) : Within m u (satAtEnd t s) :=
  within_ite (within_evtIf hregs _ _ _ (within_raise hregs _ _ h)) h

theorem within_overrun (hclh : m.clh) (hfree : m.free) (hmem : m.mem) (hpst : m.pst) (hregs : m.regs)
    (htel : m.tel) (t : Nat) (h : Within m u s) : Within m u (overrun t s) :=
  within_stopRun hclh hfree hmem hpst hregs htel _ (within_evt hregs _ _ h)

theorem within_endRunOp (hclh : m.clh) (hfree : m.free) (hmem : m.mem) (hpst : m.pst) (hregs : m.regs)
    (htel : m.tel) (t : Nat) (p : Pred) (h : Within m u s) : Within m u (endRunOp t p s) := by
  unfold endRunOp
  repeat' first
    | with_reducible first
      | assumption | apply within_persist | apply within_overrun | apply within_endBundle | apply within_note
      | apply within_setCore | apply within_satAtEnd | apply within_fillOutputs | apply within_finishRun
      | apply within_setCtx | apply within_tellerFault
    | (intro x; refine keeps_cut (a := Within m u x) ?_ ?_; intro _; clear_value x)
    | (intro x; clear_value x) | subst x | lift_lets -underBinder | split

/-! ### Machine/TellerRun.lean -/

theorem within_fillCell (hfree : m.free) (hmem : m.mem) (t : Nat) (f : Fol) (src : Bool) (c : CellDecl)
    (h : Within m u s) : Within m u (fillCell t f src c s) :=
  within_ite (within_useFree hfree _ (within_writeCell hmem _ _ _ _ h)) (within_writeCell hmem _ _ _ _ h)

theorem within_fillInputs (hfree : m.free) (hmem : m.mem) (k n : Nat) (h : Within m u s) :
    Within m u (fillInputs k n s) := by
  unfold fillInputs
  split
  · exact h
  · exact within_foldl h (fun _ _ ht => within_fillCell hfree hmem _ _ _ _ ht)

theorem within_startRun (htel : m.tel) (k n : Nat) (rerun : Bool) (h : Within m u s) :
    Within m u (startRun k n rerun s) := within_setCore htel _ _ h

theorem within_firstRunStartOp (htel : m.tel) (t c : Nat) (h : Within m u s) :
    Within m u (firstRunStartOp t c s) := by
  unfold firstRunStartOp
  dsimp only
  split
  · exact h
  · split
    · exact h
    · exact within_startRun htel _ _ _ (within_setCtx htel _ _ h)

theorem within_rerunStartOp (hfree : m.free) (hmem : m.mem) (hpst : m.pst) (htel : m.tel) (t c : Nat)
    (h : Within m u s) : Within m u (rerunStartOp t c s) := by
  unfold rerunStartOp
  dsimp only
  split
  · exact h
  · split
    · exact h
    · split
      · exact within_startRun htel _ _ _ (within_fillInputs hfree hmem _ _ (within_discard hpst htel _ _ h))
      · exact within_startRun htel _ _ _ (within_discard hpst htel _ _ h)

theorem within_taskOverrunOp (hclh : m.clh) (hfree : m.free) (hmem : m.mem) (hpst : m.pst) (hregs : m.regs)
    (htel : m.tel) (t : Nat) (h : Within m u s) : Within m u (taskOverrunOp t s) := by
  unfold taskOverrunOp
  split
  · exact h
  · split
    · exact within_overrun hclh hfree hmem hpst hregs htel _ h
    · exact h

theorem within_windowWatchdogOp (hclh : m.clh) (hfree : m.free) (hmem : m.mem) (hpst : m.pst) (hregs : m.regs)
    (htel : m.tel) (t : Nat) (h : Within m u s) : Within m u (windowWatchdogOp t s) := by
  unfold windowWatchdogOp
  repeat' first
    | with_reducible first
      | assumption | apply within_zeroOutputs | apply within_stopRun | apply within_evt | apply within_discard
      | apply within_endTask
    | (intro x; refine keeps_cut (a := Within m u x) ?_ ?_; intro _; clear_value x) | lift_lets -underBinder | split

theorem within_ctxCmdWrite (htel : m.tel) (v : Word) (h : Within m u s) : Within m u (ctxCmdWrite v s) :=
  within_ite (within_setCtx htel _ _ h) h

theorem within_swapGoOp (hregs : m.regs) (htel : m.tel) (v : Word) (h : Within m u s) :
    Within m u (swapGoOp v s) :=
  within_ite h (within_ite (within_setBit hregs _ _ _ (within_tel htel _ h)) (within_evt hregs _ _ h))

/-! ### Machine/SinkChain.lean -/

theorem within_setSnk (k : Nat) (x : Snk) (h : Within offMem u s) : Within offMem u (s.setSnk k x) :=
  within_setOut rfl _ h

theorem within_stageOut (hout : m.out) (merge : Bool) (a : Nat) (v : Word) (h : Within m u s) :
    Within m u (stageOut merge a v s) := within_setOut hout _ h

theorem within_dcfgWriteOp (hout : m.out) (hregs : m.regs) (k : Nat) (v : Word) (h : Within m u s) :
    Within m u (dcfgWriteOp k v s) :=
  within_ite h (within_ite (within_evt hregs _ _ h) (within_ite (within_ite (within_stageOut hout _ _ _
    (within_typeWrite hregs _ _ h)) (within_typeWrite hregs _ _ h)) (within_setReg hregs _ _ (within_ite
    (within_stageOut hout _ _ _ (within_typeWrite hregs _ _ h)) (within_typeWrite hregs _ _ h)))))

theorem within_dlyWriteOp (hout : m.out) (hregs : m.regs) (k : Nat) (v : Word) (h : Within m u s) :
    Within m u (dlyWriteOp k v s) :=
  within_ite (within_stageOut hout _ _ _ (within_setReg hregs _ _ h)) (within_evt hregs _ _ h)

theorem within_dlenWriteOp (k : Nat) (v : Word) (h : Within offMem u s) :
    Within offMem u (dlenWriteOp k v s) := within_ite (within_evt rfl _ _ h) (within_setReg rfl _ _ h)

theorem within_limWriteOp (hout : m.out) (hregs : m.regs) (k : Nat) (thr : Bool) (v : Word) (h : Within m u s) :
    Within m u (limWriteOp k thr v s) :=
  within_ite (within_evt hregs _ _ h) (within_stageOut hout _ _ _ (within_typeWrite hregs _ _ h))

/-! ### Machine/Exchange.lean -/

theorem within_setExc (hout : m.out) (c : Nat) (x : ExcCh) (h : Within m u s) : Within m u (s.setExc c x) :=
  within_setOut hout _ h

theorem within_excPush (hmem : m.mem) (hout : m.out) (c : Nat) (e : ExcIn) (h : Within m u s) :
    Within m u (excPush c e s) := within_setExc hout _ _ (within_wrWord hmem _ _ h)

theorem within_excFeed (hmem : m.mem) (hout : m.out) (b : Nat) (e : ExcIn) (h : Within m u s) :
    Within m u (excFeed b e s) := within_foldl h (fun _ _ ht => within_ite (within_excPush hmem hout _ _ ht) ht)

theorem within_excCfgWriteOp (hout : m.out) (hregs : m.regs) (c : Nat) (v : Word) (h : Within m u s) :
    Within m u (excCfgWriteOp c v s) :=
  within_ite (within_evt hregs _ _ h) (within_setExc hout _ _ (within_typeWrite hregs _ _ h))

theorem within_acquireLockOp (hout : m.out) (hregs : m.regs) (c : Nat) (h : Within m u s) :
    Within m u (acquireLockOp c s) := within_ite (within_evt hregs _ _ (within_setExc hout _ _ h)) h

theorem within_inputLossOp (hout : m.out) (hregs : m.regs) (c rate : Nat) (h : Within m u s) :
    Within m u (inputLossOp c rate s) :=
  within_ite (within_count hregs _ _ _ (within_evtIf hregs _ _ _ (within_evt hregs _ _ (within_setExc hout _ _ h)))) h

theorem within_phaseErrorOp (hout : m.out) (c : Nat) (h : Within m u s) : Within m u (phaseErrorOp c s) :=
  within_ite (within_setExc hout _ _ h) h

theorem within_inputResumeOp (hout : m.out) (c rate : Nat) (h : Within m u s) :
    Within m u (inputResumeOp c rate s) := within_ite (within_setExc hout _ _ h) h

theorem within_syncRatioCheckOp (hout : m.out) (hregs : m.regs) (c : Nat) (dev : Int) (h : Within m u s) :
    Within m u (syncRatioCheckOp c dev s) := within_ite (within_evtIf hregs _ _ _ (within_setExc hout _ _ h)) h

theorem within_setArx (hnet : m.net) (r : Nat) (x : A67) (h : Within m u s) : Within m u (s.setArx r x) :=
  within_net hnet _ h

/-! ### Machine/Local.lean -/

theorem within_setSap (hsap : m.sap) (n : Nat) (p : SapPort) (h : Within m u s) :
    Within m u (s.setSap n p) := within_sap hsap _ h

theorem within_sapPlace (hsap : m.sap) (n : Nat) (h : Within m u s) : Within m u (sapPlace n s) :=
  within_setSap hsap _ _ h

theorem within_sapCfgWriteOp (hregs : m.regs) (hsap : m.sap) (n : Nat) (v : Word) (h : Within m u s) :
    Within m u (sapCfgWriteOp n v s) := by
  unfold sapCfgWriteOp
  repeat' with_reducible first
    | assumption | apply within_setSap | apply within_typeWrite | apply within_sapPlace | apply within_evtIf
    | apply within_ite

theorem within_sapAlignOp (hsap : m.sap) (v : Word) (h : Within m u s) : Within m u (sapAlignOp v s) :=
  within_foldl h (fun _ _ ht => within_ite (within_sapPlace hsap _ ht) ht)

theorem within_sapSlip (hregs : m.regs) (h : Within m u s) : Within m u (sapSlip s) :=
  within_evt hregs _ _ (within_count hregs _ _ _ h)

theorem within_sapFills (hregs : m.regs) (hsap : m.sap) (n : Nat) (h : Within m u s) :
    Within m u (sapFills n s) :=
  within_ite (within_cdcErr hregs _ (within_sapSlip hregs (within_ite (within_cdcErr hregs _ (within_sapSlip hregs
    (within_setSap hsap _ _ h))) (within_setSap hsap _ _ h)))) (within_ite (within_cdcErr hregs _ (within_sapSlip
    hregs (within_setSap hsap _ _ h))) (within_setSap hsap _ _ h))

theorem within_sapToExc (hmem : m.mem) (hout : m.out) (n : Nat) (w : Nat → Word) (stamp idx : Nat)
    (h : Within m u s) : Within m u (sapToExc n w stamp idx s) :=
  within_forN h (fun _ _ ht => within_excFeed hmem hout _ _ ht)

theorem within_slaveFrameOp (hmem : m.mem) (hout : m.out) (hregs : m.regs) (hsap : m.sap) (n bits : Nat)
    (ws : List Word) (h : Within m u s) : Within m u (slaveFrameOp n bits ws s) :=
  within_ite h (within_ite (within_evt hregs _ _ h) (within_sapFills hregs hsap _ (within_setSap hsap _ _
    (within_sapToExc hmem hout _ _ _ _ h))))

theorem within_setTill (htil : m.til) (n : Nat) (p : TillPort) (h : Within m u s) :
    Within m u (s.setTill n p) := within_til htil _ h

theorem within_tillToExc (hmem : m.mem) (hout : m.out) (htil : m.til) (n : Nat) (w : Word) (first : Bool)
    (h : Within m u s) : Within m u (tillToExc n w first s) :=
  within_ite (within_setTill htil _ _ h) (within_ite (within_excFeed hmem hout _ _ (within_setTill htil _ _ h))
    (within_setTill htil _ _ h))

theorem within_tillWordReceivedOp (hmem : m.mem) (hout : m.out) (hregs : m.regs) (htil : m.til) (n : Nat)
    (w : Word) (first : Bool) (h : Within m u s) : Within m u (tillWordReceivedOp n w first s) :=
  within_ite h (within_ite (within_cdcErr hregs _ (within_evt hregs _ _ (within_setTill htil _ _ h)))
    (within_tillToExc hmem hout htil _ _ _ (within_setTill htil _ _ h)))

theorem within_tillHoldOp (htil : m.til) (n : Nat) (high : Bool) (h : Within m u s) :
    Within m u (tillHoldOp n high s) := within_setTill htil _ _ h

theorem within_tillWordSentOp (htil : m.til) (n : Nat) (h : Within m u s) :
    Within m u (tillWordSentOp n s) := by
  unfold tillWordSentOp
  dsimp only
  split
  · exact h
  · split
    · exact h
    · exact within_setTill htil _ _ h

theorem within_tilWmWriteOp (hregs : m.regs) (htil : m.til) (n : Nat) (v : Word) (h : Within m u s) :
    Within m u (tilWmWriteOp n v s) :=
  within_ite (within_setTill htil _ _ (within_typeWrite hregs _ _ h)) (within_evt hregs _ _ h)

/-! ### Machine/Posting.lean -/

theorem within_redispatch (hfree : m.free) (hmem : m.mem) (hpst : m.pst) (htel : m.tel) (n k : Nat)
    (h : Within m u s) : Within m u (redispatch n k s) :=
  within_ite (within_startRun htel _ _ _ (within_discard hpst htel _ _ (within_fillInputs hfree hmem _ _ h)))
    (within_updFol hpst _ _ (within_discard hpst htel _ _ (within_fillInputs hfree hmem _ _ h)))

theorem within_recut (hfree : m.free) (hldg : m.ldg) (hmem : m.mem) (hpst : m.pst) (hregs : m.regs)
    (htel : m.tel) (n src : Nat) (h : Within m u s) : Within m u (recut n src s) := by
  unfold recut
  repeat' first
    | with_reducible first
      | assumption | intro _ | apply within_redispatch | apply within_advanceGates | apply within_stepGates
      | apply within_setFol | apply within_restoreGates | apply within_foldl
    | split

theorem within_repointWriteOp (hfree : m.free) (hldg : m.ldg) (hmem : m.mem) (hpst : m.pst) (hregs : m.regs)
    (htel : m.tel) (v : Word) (h : Within m u s) : Within m u (repointWriteOp v s) := by
  unfold repointWriteOp
  dsimp only
  split
  · split
    · exact within_recut hfree hldg hmem hpst hregs htel _ _ (within_repointOp hldg hregs _ h)
    · exact within_repointOp hldg hregs _ h
  · exact within_repointOp hldg hregs _ h

theorem within_subsBoundary (hnet : m.net) (h : Within m u s) : Within m u (subsBoundary s) := within_net hnet _ h

theorem within_mixGroup (hregs : m.regs) (f : Fol) (g : Nat) (only : Nat → Bool) (h : Within m u s) :
    Within m u (mixGroup f g only s).2 :=
  within_forN_pair h fun _ _ hp =>
    within_itePair (within_count hregs _ _ _ (within_mixSink hregs _ _ hp)) (within_mixSink hregs _ _ hp)

theorem within_sinkRerun (hfree : m.free) (hmem : m.mem) (hpst : m.pst) (n : Nat) (t0 : Int) (k : Nat)
    (h : Within m u s) : Within m u (sinkRerun n t0 k s) := by
  unfold sinkRerun
  dsimp only
  split
  · exact within_fillInputs hfree hmem _ _ h
  · exact within_setFol hpst _ (within_fillInputs hfree hmem _ _ h)

theorem within_remixEndOp (hclh : m.clh) (hfree : m.free) (hmem : m.mem) (hpst : m.pst) (hregs : m.regs)
    (htel : m.tel) (h : Within m u s) : Within m u (remixEndOp s) := by
  unfold remixEndOp
  repeat' first
    | with_reducible first
      | assumption | intro _ | apply within_settle | apply within_sinkRerun | apply within_setFol
      | apply within_mixGroup | apply within_count | apply within_latchFld | apply within_foldl
    | split

theorem within_pstCutWriteOp (v : Word) (h : Within offMem u s) : Within offMem u (pstCutWriteOp v s) :=
  within_ite (within_evt rfl _ _ h) (within_ite (within_setPst rfl _ (within_typeWrite rfl _ _ h)) (within_setPst rfl
    _ (within_typeWrite rfl _ _ h)))

theorem within_pstWinWriteOp (v : Word) (h : Within offMem u s) : Within offMem u (pstWinWriteOp v s) :=
  within_ite (within_evt rfl _ _ h) (within_typeWrite rfl _ _ h)

/-! ### Machine/Dvt.lean -/

theorem within_dvtCfgErr (hregs : m.regs) (h : Within m u s) : Within m u (dvtCfgErr s) := within_evt hregs _ _ h

theorem within_rxidWrite (hnet : m.net) (hregs : m.regs) (k : Nat) (v : Word) (h : Within m u s) :
    Within m u (rxidWrite k v s) :=
  within_ite (within_dvtCfgErr hregs h) (within_ite (within_dvtCfgErr hregs h) (within_budgeted hregs (within_ite
    (within_setSub hnet _ _ (within_typeWrite hregs _ _ h)) (within_setSub hnet _ _ (within_typeWrite hregs _ _ h)))
    h))

theorem within_txcfgWrite (hnet : m.net) (hregs : m.regs) (k : Nat) (v : Word) (h : Within m u s) :
    Within m u (txcfgWrite k v s) :=
  within_ite (within_dvtCfgErr hregs h) (within_budgeted hregs (within_setTx hnet _ _ (within_typeWrite hregs _ _ h))
    h)

theorem within_a67cfgWrite (hnet : m.net) (hregs : m.regs) (tx : Bool) (r : Nat) (v : Word) (h : Within m u s) :
    Within m u (a67cfgWrite tx r v s) := by
  unfold a67cfgWrite
  extract_lets reg nch clash long fresh s1
  have h1 : Within m u s1 := within_typeWrite hregs _ _ h
  exact within_ite (within_dvtCfgErr hregs h)
    (within_ite h1 (within_ite (within_net hnet _ h1) (within_setArx hnet _ _ h1)))

theorem within_streamLossOp (hnet : m.net) (hregs : m.regs) (k : Nat) (h : Within m u s) :
    Within m u (streamLossOp k s) :=
  within_ite (within_evt hregs _ _ (within_setBit hregs _ _ _ (within_setSub hnet _ _ h))) h

/-! ### Machine/DvtTx.lean -/

theorem within_sendStream (hnet : m.net) (hregs : m.regs) (f : Fol) (msg k : Nat) (ports : Nat → Bool)
    (h : Within m u s) : Within m u (sendStream f msg k ports s) :=
  within_forN (within_evtIf hregs _ _ _ h) (fun _ _ ht => within_ite (within_offerDvt hnet _ _ ht) ht)

theorem within_txEffect (hnet : m.net) (msg : Nat) (h : Within m u s) : Within m u (txEffect msg s) :=
  within_net hnet _ h

theorem within_setAtx (hnet : m.net) (t : Nat) (x : A67) (h : Within m u s) : Within m u (s.setAtx t x) :=
  within_net hnet _ h

theorem within_a67Packets (hnet : m.net) (t nch spp w end_ ofs k : Nat) (h : Within m u s) :
    Within m u (a67Packets t nch spp w end_ ofs k s) := by
  induction k generalizing s with
  | zero => exact h
  | succ n ih =>
    unfold a67Packets
    exact within_ite h (ih (within_setAtx hnet _ _ (within_ite (within_offerDvt hnet _ _ h) h)))

theorem within_a67Release (hnet : m.net) (hregs : m.regs) (f : Fol) (msg t : Nat) (h : Within m u s) :
    Within m u (a67Release f msg t s) :=
  within_ite h (within_a67Packets hnet _ _ _ _ _ _ _ (within_setAtx hnet _ _ (within_evtIf hregs _ _ _ h)))

theorem within_releaseFolio (hnet : m.net) (hregs : m.regs) (msg : Nat) (h : Within m u s) :
    Within m u (releaseFolio msg s) := by
  unfold releaseFolio
  repeat' first
    | with_reducible first
      | assumption | intro _ | apply within_txEffect | apply within_a67Release | apply within_sendStream
      | apply within_foldl | apply within_forN
    | lift_lets -underBinder | split

theorem within_dvtReleaseOp (hnet : m.net) (hregs : m.regs) (h : Within m u s) :
    Within m u (dvtReleaseOp s) := by
  unfold dvtReleaseOp
  split
  · exact within_releaseFolio hnet hregs _ h
  · exact h

theorem within_sendControl (hnet : m.net) (hregs : m.regs) (p dst ctype : Nat) (payload : List Byte)
    (h : Within m u s) : Within m u (sendControl p dst ctype payload s) :=
  within_ite (within_offer hnet hregs _ _ _ h) h

theorem within_sendNetworks (hnet : m.net) (hregs : m.regs) (dst ctype : Nat) (payload : List Byte)
    (h : Within m u s) : Within m u (sendNetworks dst ctype payload s) :=
  within_sendControl hnet hregs _ _ _ _ (within_sendControl hnet hregs _ _ _ _ h)

/-! ### Machine/KwyLink.lean -/

theorem within_sendHinge (i : Nat) (release : Bool) (h : Within offMem u s) :
    Within offMem u (sendHinge i release s) := within_sendControl rfl rfl _ _ _ _ h

theorem within_fieldOkFollow (was : Bool) (h : Within offMem u s) : Within offMem u (fieldOkFollow was s) :=
  within_ite (within_sendHinge _ _ h) h

theorem within_proxyEnd (p : Proxy) (r : Resp) (v : Word) (h : Within offMem u s) :
    Within offMem u (proxyEnd p r v s) := by
  unfold proxyEnd
  repeat' first
    | with_reducible first | assumption | rfl | apply within_answer | apply within_clhRefuse | apply within_clhAnswer
    | split

theorem within_proxyNext (h : Within offMem u s) : Within offMem u (proxyNext s) := by
  unfold proxyNext
  split
  · exact within_hostQueue _ _ (within_setKwy rfl _ h)
  · exact h

theorem within_proxyAccess (urgent : Bool) (p : Proxy) (h : Within offMem u s) :
    Within offMem u (proxyAccess urgent p s) :=
  within_ite (within_proxyEnd _ _ _ h) (within_proxyNext (within_setKwy rfl _ h))

theorem within_proxyWrite (urgent : Bool) (a : Nat) (v : Word) (h : Within offMem u s) :
    Within offMem u (proxyWrite urgent a v s) := within_proxyAccess _ _ h

theorem within_proxyFail (e : Nat) (h : Within offMem u s) : Within offMem u (proxyFail e s) := by
  unfold proxyFail
  split
  · exact within_proxyNext (within_proxyEnd _ _ _ (within_evt rfl _ _ (within_setKwy rfl _ h)))
  · exact h

theorem within_proxyAccessOp (msg : Master) (wr : Bool) (a : Nat) (v : Word) (h : Within offMem u s) :
    Within offMem u (proxyAccessOp msg wr a v s) :=
  within_ite h (within_ite (within_proxyAccess _ _ h) (within_clhRefuse rfl rfl _ _ _ h))

theorem within_cmdTimeoutOp (h : Within offMem u s) : Within offMem u (cmdTimeoutOp s) := by
  unfold cmdTimeoutOp
  split
  · split
    · exact within_proxyFail _ h
    · exact h
  · exact h

theorem within_lanesAlignedOp (host : Bool) (h : Within offMem u s) :
    Within offMem u (lanesAlignedOp host s) :=
  within_ite (within_ite (within_setKwy rfl _ h) h) (within_ite (within_setField rfl _ h) h)

theorem within_trainingCompleteOp (host : Bool) (ld : Nat) (h : Within offMem u s) :
    Within offMem u (trainingCompleteOp host ld s) :=
  within_ite (within_ite h (within_ite (within_evt rfl _ _ h) (within_evt rfl _ _ (within_setKwy rfl _ (within_setReg
    rfl _ _ h))))) (within_ite h (within_foutSettle rfl (within_setField rfl _ (within_setFld rfl _ _ _ _ h))))

theorem within_proxyFlush (l : List Proxy) (h : Within offMem u s) : Within offMem u (proxyFlush l s) := by
  induction l generalizing s with
  | nil => exact h
  | cons p l ih => exact ih (within_proxyEnd _ _ _ h)

theorem within_fieldEndDown (h : Within offMem u s) : Within offMem u (fieldEndDown s) := by
  unfold fieldEndDown
  repeat' with_reducible first
    | assumption | intro _ | rfl | apply within_setField | apply within_fbusDrop | apply within_foutSettle
    | apply within_fevt | apply within_ite | apply opens_offMem | apply within_forN

theorem within_hostEndDown (h : Within offMem u s) : Within offMem u (hostEndDown s) := by
  unfold hostEndDown
  repeat' first
    | with_reducible first
      | assumption | rfl | apply within_proxyFlush | apply within_setKwy | apply within_evt
      | apply within_fieldOkFollow | apply within_proxyEnd
    | split

theorem within_keywayDown (h : Within offMem u s) : Within offMem u (keywayDown s) :=
  within_hostEndDown (within_fieldEndDown h)

theorem within_keywayLinkDownOp (host errs : Bool) (h : Within offMem u s) :
    Within offMem u (keywayLinkDownOp host errs s) :=
  within_ite (within_ite (within_hostEndDown h) h) (within_ite (within_fieldEndDown h) h)

theorem within_laneClockLossOp (hfield : m.field) (h : Within m u s) : Within m u (laneClockLossOp s) :=
  within_setField hfield _ h

theorem within_fieldClockSwitchOp (hfield : m.field) (h : Within m u s) :
    Within m u (fieldClockSwitchOp s) :=
  within_ite (within_fevt hfield _ _ (opens_const hfield rfl) (within_setField hfield _ h)) (within_ite (within_fevt
    hfield _ _ (opens_const hfield rfl) (within_setField hfield _ h)) h)

theorem within_hostLaunch (h : Within offMem u s) : Within offMem u (hostLaunch s) := by
  unfold hostLaunch
  dsimp only
  split
  · exact h
  · split
    · exact within_setKwy rfl _ h
    · exact within_setKwy rfl _ h

theorem within_fieldLaunch (h : Within offMem u s) : Within offMem u (fieldLaunch s) := by
  unfold fieldLaunch
  dsimp only
  split
  · exact h
  · split
    · exact within_setField rfl _ h
    · exact within_setField rfl _ h

/-! ### Machine/Keyway.lean -/

theorem within_fieldTake (hfield : m.field) (msg : KwyMsg) (act : List Byte → State → State)
    (hact : ∀ x t, Within m u t → Within m u (act x t)) (h : Within m u s) :
    Within m u (fieldTake msg act s) := by
  unfold fieldTake
  repeat' first
    | with_reducible first
      | assumption | apply hact | apply within_setField | apply within_fevt | apply within_fkwyCount
      | exact opens_const hfield rfl | exact opens_array hfield _ rfl
    | split

theorem within_kwyCount (i n : Nat) (h : Within offMem u s) : Within offMem u (kwyCount i n s) :=
  within_count rfl _ _ _ h

theorem within_hostTake (msg : KwyMsg) (act : List Byte → State → State)
    (hact : ∀ x t, Within offMem u t → Within offMem u (act x t)) (h : Within offMem u s) :
    Within offMem u (hostTake msg act s) := by
  unfold hostTake
  repeat' first
    | with_reducible first
      | assumption | rfl | apply hact | apply within_setKwy | apply within_evt | apply within_kwyCount
    | split

theorem within_envelopeKnown (hfield : m.field) (msg : Nat) (env : Nat → Nat) (h : Within m u s) :
    Within m u (envelopeKnown msg env s) := within_silenceFrom hfield _ _ (within_applyEnvelope hfield _ _ h)

theorem within_blockOp (hfield : m.field) (b : List Byte) (h : Within m u s) : Within m u (blockOp b s) := by
  unfold blockOp
  repeat' first
    | with_reducible first
      | assumption | intro _ | apply within_setField | apply within_setChan | apply within_envelopeKnown
      | apply within_cmdRefused | apply within_forN
    | lift_lets -underBinder | split

theorem within_envelopeOp (hfield : m.field) (b : List Byte) (h : Within m u s) :
    Within m u (envelopeOp b s) := within_ite h (within_envelopeKnown hfield _ _ h)

theorem within_cmdOp (hfield : m.field) (b : List Byte) (h : Within m u s) : Within m u (cmdOp b s) :=
  within_fieldQueue hfield _ _ (within_ite (within_fieldWrite hfield _ _ (opens_array hfield _ rfl) h) (within_ite
    (within_clearRC_open (opens_array hfield _ rfl) h) h))

theorem within_fbusToFieldOp (b : List Byte) (h : Within offMem u s) : Within offMem u (fbusToFieldOp b s) :=
  within_f0Offer _ _ h

theorem within_hostHeartbeatOp (hfield : m.field) (b : List Byte) (h : Within m u s) :
    Within m u (hostHeartbeatOp b s) := within_setField hfield _ (within_renumber hfield _ h)

theorem within_cmdackOp (b : List Byte) (h : Within offMem u s) : Within offMem u (cmdackOp b s) := by
  unfold cmdackOp
  split
  · split
    · split
      · exact within_proxyNext (within_proxyEnd _ _ _ (within_setKwy rfl _ h))
      · exact within_proxyFail _ h
    · exact within_kwyCount _ _ h
  · exact within_kwyCount _ _ h

theorem within_statusOp (b : List Byte) (h : Within offMem u s) : Within offMem u (statusOp b s) :=
  within_fieldOkFollow _ (within_ite (within_sum rfl _ (within_evtIf rfl _ _ _ (within_setReg rfl _ _ (within_setReg
    rfl _ _ (within_setFld rfl _ _ _ _ (within_setBit rfl _ _ _ h)))))) (within_evtIf rfl _ _ _ (within_setReg rfl _ _
    (within_setReg rfl _ _ (within_setFld rfl _ _ _ _ (within_setBit rfl _ _ _ h))))))

theorem within_senseOp (b : List Byte) (h : Within offMem u s) : Within offMem u (senseOp b s) := within_setKwy rfl _ h

theorem within_faultOp (b : List Byte) (h : Within offMem u s) : Within offMem u (faultOp b s) :=
  within_evt rfl _ _ (within_ite (within_setKwy rfl _ (within_ite (within_raise rfl _ _ h) h)) (within_note _ _
    (within_setKwy rfl _ (within_ite (within_raise rfl _ _ h) h))))

theorem within_fbusToHostOp (b : List Byte) (h : Within offMem u s) : Within offMem u (fbusToHostOp b s) :=
  within_setKwy rfl _ h

theorem within_fieldHeartbeatOp (b : List Byte) (h : Within offMem u s) :
    Within offMem u (fieldHeartbeatOp b s) := within_setBit rfl _ _ _ (within_setKwy rfl _ h)

theorem within_fhblossOp (h : Within offMem u s) : Within offMem u (fhblossOp s) :=
  within_evt rfl _ _ (within_setBit rfl _ _ _ h)

theorem within_kwyFlogReadOp (h : Within offMem u s) : Within offMem u (kwyFlogReadOp s) := by
  unfold kwyFlogReadOp
  split <;> exact within_answer rfl _ _ (within_setKwy rfl _ h)

theorem within_fieldFolioStartOp (hfield : m.field) (h : Within m u s) : Within m u (fieldFolioStartOp s) :=
  within_ite h (within_fieldFirst hfield _ _ (within_fieldFirst hfield _ _ (within_fieldFirst hfield _ _
    (within_playersFolio hfield (within_setField hfield _ h)))))

theorem within_blockMissingOp (hfield : m.field) (h : Within m u s) : Within m u (blockMissingOp s) :=
  within_ite h (within_forN (within_setField hfield _ (within_fevt hfield _ _ (opens_const hfield rfl)
    (within_fkwyCount hfield _ _ (opens_const hfield rfl) h))) (fun _ _ ht => within_ite (within_setChan hfield _ _
    ht) (within_setChan hfield _ _ ht)))

/-! ### Machine/Districts.lean -/

theorem within_noteRegistrar (hdis : m.dis) (hregs : m.regs) (scope : Nat) (h : Within m u s) :
    Within m u (noteRegistrar scope s) := within_evtIf hregs _ _ _ (within_setDis hdis _ h)

theorem within_roleEvents (hdis : m.dis) (hregs : m.regs) (h : Within m u s) :
    Within m u (roleEvents was s) :=
  within_noteRegistrar hdis hregs _ (within_noteRegistrar hdis hregs _ (within_evtIf hregs _ _ _ h))

theorem within_announceOp (hdis : m.dis) (hregs : m.regs) (node flags src : Nat) (imgId : Word)
    (partner ntx : Nat) (h : Within m u s) : Within m u (announceOp node flags src imgId partner ntx s) :=
  within_ite h (within_ite (within_ite h (within_ite (within_setBit hregs _ _ _ (within_setDis hdis _ (within_evt
    hregs _ _ h))) (within_evt hregs _ _ h))) (within_setDis hdis _ h))

theorem within_periodicAnnounceOp (hnet : m.net) (hregs : m.regs) (h : Within m u s) :
    Within m u (periodicAnnounceOp s) :=
  within_ite h (within_ite (within_sendNetworks hnet hregs _ _ _ (within_sendNetworks hnet hregs _ _ _ h))
    (within_sendNetworks hnet hregs _ _ _ h))

theorem within_claimOp (hdis : m.dis) (hregs : m.regs) (node scope : Nat) (regs : List Nat) (h : Within m u s) :
    Within m u (claimOp node scope regs s) := within_ite h (within_roleEvents hdis hregs (within_setDis hdis _ h))

theorem within_sendClaims (hnet : m.net) (hregs : m.regs) (h : Within m u s) : Within m u (sendClaims s) :=
  within_ite (within_sendNetworks hnet hregs _ _ _ (within_ite (within_sendNetworks hnet hregs _ _ _ h) h))
    (within_ite (within_sendNetworks hnet hregs _ _ _ h) h)

theorem within_claimIntervalOp (hnet : m.net) (hregs : m.regs) (h : Within m u s) :
    Within m u (claimIntervalOp s) := within_ite (within_sendClaims hnet hregs h) h

theorem within_claimTimeoutOp (hdis : m.dis) (hnet : m.net) (hregs : m.regs) (scope : Nat) (h : Within m u s) :
    Within m u (claimTimeoutOp scope s) :=
  within_ite h (within_ite (within_sendClaims hnet hregs (within_roleEvents hdis hregs (within_setDis hdis _ h)))
    (within_roleEvents hdis hregs (within_setDis hdis _ h)))

theorem within_streamsStore (hdis : m.dis) (node : Nat) (recs : List StreamRec) (h : Within m u s) :
    Within m u (streamsStore node recs s) := within_setDis hdis _ h

theorem within_streamsOp (hdis : m.dis) (node : Nat) (recs : List StreamRec) (h : Within m u s) :
    Within m u (streamsOp node recs s) := within_ite (within_streamsStore hdis _ _ h) h

theorem within_streamsSlotOp (hdis : m.dis) (hnet : m.net) (hregs : m.regs) (h : Within m u s) :
    Within m u (streamsSlotOp s) := by
  unfold streamsSlotOp
  repeat' first
    | with_reducible first
      | assumption | apply within_sendNetworks | apply within_streamsStore | apply within_setDis | apply within_ite
    | split

theorem within_sendReply (hnet : m.net) (hregs : m.regs) (node tag : Nat) (l : List ReplyRec)
    (h : Within m u s) : Within m u (sendReply node tag l s) := within_ite h (within_sendNetworks hnet hregs _ _ _ h)

theorem within_sendQuery (hnet : m.net) (hregs : m.regs) (node tag : Nat) (ids : List Nat) (h : Within m u s) :
    Within m u (sendQuery node tag ids s) := within_ite h (within_sendNetworks hnet hregs _ _ _ h)

theorem within_forward (hdis : m.dis) (hnet : m.net) (hregs : m.regs) (ids : List Nat)
    (back : Nat → State → State) (lost : List ReplyRec → State → State)
    (hback : ∀ x t, Within m u t → Within m u (back x t)) (hlost : ∀ x t, Within m u t → Within m u (lost x t))
    (h : Within m u s) : Within m u (forward ids back lost s) := by
  unfold forward
  repeat' with_reducible first
    | assumption | intro _ | apply hlost | apply hback | apply within_setDis | apply within_sendQuery
    | apply within_ite | apply within_foldl

theorem within_queryOp (hdis : m.dis) (hnet : m.net) (hregs : m.regs) (src tag : Nat) (ids : List Nat)
    (h : Within m u s) : Within m u (queryOp src tag ids s) :=
  within_ite h (within_forward hdis hnet hregs _ _ _ (fun _ _ ht => within_setDis hdis _ ht) (fun _ _ ht =>
    within_sendReply hnet hregs _ _ _ ht) (within_sendReply hnet hregs _ _ _ h))

theorem within_learn (hdis : m.dis) (l : List ReplyRec) (h : Within m u s) : Within m u (learn l s) :=
  within_setDis hdis _ h

theorem within_replyOp (hdis : m.dis) (hnet : m.net) (hregs : m.regs) (tag : Nat) (recs : List ReplyRec)
    (h : Within m u s) : Within m u (replyOp tag recs s) := by
  unfold replyOp
  split
  · exact h
  · split
    · exact within_sendReply hnet hregs _ _ _ (within_setDis hdis _ h)
    · exact within_learn hdis _ h

theorem within_querySlotOp (hdis : m.dis) (hnet : m.net) (hregs : m.regs) (h : Within m u s) :
    Within m u (querySlotOp s) := by
  unfold querySlotOp
  repeat' first
    | with_reducible first
      | assumption | intro _ | apply within_setDis | apply within_sendQuery | apply within_learn
      | apply within_forward
    | split

theorem within_forget (hdis : m.dis) (hregs : m.regs) (node : Nat) (h : Within m u s) :
    Within m u (forget node s) := within_ite h (within_roleEvents hdis hregs (within_setDis hdis _ h))

theorem within_recordExpiryOp (hdis : m.dis) (hregs : m.regs) (node : Nat) (h : Within m u s) :
    Within m u (recordExpiryOp node s) := within_ite h (within_forget hdis hregs _ h)

/-! ### Machine/Hinge.lean -/

theorem within_enterPaired (h : Within offMem u s) : Within offMem u (enterPaired s) :=
  within_evt rfl _ _ (within_setHng rfl _ h)

theorem within_enterTaken (h : Within offMem u s) : Within offMem u (enterTaken s) :=
  within_evt rfl _ _ (within_setHng rfl _ (within_ite (within_proxyWrite _ _ _ h) h))

theorem within_enterYielded (h : Within offMem u s) : Within offMem u (enterYielded s) :=
  within_evt rfl _ _ (within_setHng rfl _ h)

theorem within_hngEnableOp (v : Word) (h : Within offMem u s) : Within offMem u (hngEnableOp v s) :=
  within_ite (within_evt rfl _ _ h) (within_ite (within_setHng rfl _ (within_typeWrite rfl _ _ h)) (within_ite
    (within_setHng rfl _ (within_typeWrite rfl _ _ h)) (within_typeWrite rfl _ _ h)))

theorem within_hingeHeard (port : Nat) (msg : HingeMsg) (ts : Nat) (h : Within offMem u s) :
    Within offMem u (hingeHeard port msg ts s) :=
  within_ite (within_setHng rfl _ (within_ite h (within_setReg rfl _ _ h))) (within_ite (within_setHng rfl _ h)
    (within_setHng rfl _ h))

theorem within_compareCsum (c : Word) (h : Within offMem u s) : Within offMem u (compareCsum c s) := by
  unfold compareCsum
  dsimp only
  split
  · exact h
  · split
    · exact h
    · split
      · exact within_evtIf rfl _ _ _ (within_setHng rfl _ (within_setReg rfl _ _ h))
      · exact within_evtIf rfl _ _ _ (within_setHng rfl _ (within_count rfl _ _ _ (within_setReg rfl _ _ h)))

theorem within_hingeMoves (port : Nat) (msg : HingeMsg) (h : Within offMem u s) :
    Within offMem u (hingeMoves port msg s) := by
  unfold hingeMoves
  split
  · exact h
  · exact within_ite (within_enterYielded h) (within_ite (within_enterPaired h) h)
  · exact within_ite (within_enterTaken h) h
  · exact within_ite (within_enterTaken h) (within_ite (within_enterPaired h) h)
  · exact h
  · exact within_ite (within_enterPaired (within_ite (within_proxyWrite _ _ _ h) h)) h

theorem within_hingeOp (port : Nat) (msg : HingeMsg) (ts : Nat) (h : Within offMem u s) :
    Within offMem u (hingeOp port msg ts s) :=
  within_ite h (within_hingeMoves _ _ (within_compareCsum _ (within_evtIf rfl _ _ _ (within_hingeHeard _ _ _ h))))

theorem within_heartbeatLossOp (h : Within offMem u s) : Within offMem u (heartbeatLossOp s) := by
  unfold heartbeatLossOp
  split
  · exact h
  · split
    · exact within_enterTaken h
    · exact within_enterTaken h
    · exact h

theorem within_splitOp (h : Within offMem u s) : Within offMem u (splitOp s) := by
  unfold splitOp
  split
  · exact within_evt rfl _ _ (within_setHng rfl _ h)
  · exact h

theorem within_fillOp (k : Nat) (h : Within offMem u s) : Within offMem u (fillOp k s) := by
  unfold fillOp
  dsimp only
  split
  · exact h
  · split
    · split
      · exact h
      · exact within_setHng rfl _ (within_count rfl _ _ _ (within_sendStream rfl rfl _ _ _ _ h))
    · exact h

theorem within_releaseStart (give : Bool) (lines : Word) (h : Within offMem u s) :
    Within offMem u (releaseStart give lines s) :=
  within_setHng rfl _ (within_ite (within_foldl h (fun _ _ ht => within_proxyWrite _ _ _ ht)) h)

theorem within_hngCfgErr (h : Within offMem u s) : Within offMem u (hngCfgErr s) := within_evt rfl _ _ h

theorem within_giveOp (h : Within offMem u s) : Within offMem u (giveOp s) :=
  within_ite (within_releaseStart _ _ h) (within_hngCfgErr h)

theorem within_returnOp (h : Within offMem u s) : Within offMem u (returnOp s) :=
  within_ite (within_releaseStart _ _ h) (within_hngCfgErr h)

theorem within_releaseSwitchOpenOp (h : Within offMem u s) : Within offMem u (releaseSwitchOpenOp s) := by
  unfold releaseSwitchOpenOp
  split
  · split
    · exact h
    · split
      · exact within_setHng rfl _ h
      · split
        · exact h
        · exact within_setHng rfl _ (within_proxyWrite _ _ _ h)
  · exact h

theorem within_releaseHswtElapsedOp (h : Within offMem u s) : Within offMem u (releaseHswtElapsedOp s) := by
  unfold releaseHswtElapsedOp
  split
  · split
    · split
      · exact within_enterYielded (within_sendHinge _ _ h)
      · exact within_enterPaired (within_setHng rfl _ (within_sendHinge _ _ h))
    · exact h
  · exact h

/-! ### Machine/Xsp.lean -/

theorem within_xspNext (h : Within offMem u s) : Within offMem u (xspNext s) := by
  unfold xspNext
  split
  · exact h
  · split
    · exact h
    · exact within_setXsp rfl _ h

theorem within_xspCmdWrite (v : Word) (h : Within offMem u s) : Within offMem u (xspCmdWrite v s) :=
  within_ite h (within_ite (within_evt rfl _ _ h) (within_ite (within_evt rfl _ _ h) (within_xspNext (within_setXsp
    rfl _ h))))

/-! ### Machine/RmtCmd.lean -/

theorem within_setRmt (hrmt : m.rmt) (n : Nat) (c : RmtCh) (h : Within m u s) : Within m u (s.setRmt n c) :=
  within_rmt hrmt _ h

theorem within_rmtCfgErr (hregs : m.regs) (h : Within m u s) : Within m u (rmtCfgErr s) := within_evt hregs _ _ h

theorem within_rmtUnlock (hclh : m.clh) (n : Nat) (h : Within m u s) : Within m u (rmtUnlock n s) := by
  unfold rmtUnlock
  split
  · split
    · exact within_setClh hclh _ h
    · exact h
  · exact h

theorem within_rmtAborted (hclh : m.clh) (hrmt : m.rmt) (n : Nat) (h : Within m u s) :
    Within m u (rmtAborted n s) := within_setRmt hrmt _ _ (within_rmtUnlock hclh _ h)

theorem within_rmtDisable (n : Nat) (h : Within offMem u s) : Within offMem u (rmtDisable n s) :=
  within_setReg rfl _ _ (within_setRmt rfl _ _ (within_nextFree rfl (within_nextFree rfl h)))

theorem within_rmtBegin (hregs : m.regs) (hrmt : m.rmt) (n : Nat) (h : Within m u s) :
    Within m u (rmtBegin n s) := by
  unfold rmtBegin
  dsimp only
  split
  · split
    · exact within_rmtCfgErr hregs h
    · exact within_setReg hregs _ _ (within_setRmt hrmt _ _ h)
  · split
    · exact within_rmtCfgErr hregs h
    · exact within_setReg hregs _ _ (within_setRmt hrmt _ _ h)
  · split
    · exact within_rmtCfgErr hregs h
    · exact within_setReg hregs _ _ (within_setRmt hrmt _ _ h)
  · exact within_rmtCfgErr hregs h

theorem within_rmtHalt (hregs : m.regs) (hrmt : m.rmt) (n : Nat) (h : Within m u s) :
    Within m u (rmtHalt n s) := by
  unfold rmtHalt
  split
  · exact within_setRmt hrmt _ _ h
  · exact within_rmtCfgErr hregs h

theorem within_rmtResume (hregs : m.regs) (hrmt : m.rmt) (n : Nat) (h : Within m u s) :
    Within m u (rmtResume n s) := by
  unfold rmtResume
  split
  · exact within_setRmt hrmt _ _ h
  · exact within_rmtCfgErr hregs h

theorem within_rmtAbort (hclh : m.clh) (hregs : m.regs) (hrmt : m.rmt) (n : Nat) (h : Within m u s) :
    Within m u (rmtAbort n s) := by
  unfold rmtAbort
  dsimp only
  split
  · exact within_setRmt hrmt _ _ h
  · exact within_setRmt hrmt _ _ h
  · exact within_rmtAborted hclh hrmt _ h
  · exact within_note _ _ (within_setRmt hrmt _ _ h)
  · exact within_rmtCfgErr hregs h

theorem within_rmtDisableOne (n : Nat) (h : Within offMem u s) : Within offMem u (rmtDisableOne n s) :=
  within_masterReset _ _ (within_rmtDisable _ h)

theorem within_engineDisableOp (v : Word) (h : Within offMem u s) : Within offMem u (engineDisableOp v s) := by
  unfold engineDisableOp
  repeat' with_reducible first
    | assumption | rfl | apply within_typeWrite | apply within_rmtDisable | apply within_masterReset
    | apply within_ite | apply within_forN

theorem within_ringOne (hrmt : m.rmt) (n : Nat) (h : Within m u s) : Within m u (ringOne n s) := by
  unfold ringOne
  dsimp only
  split
  · exact within_setRmt hrmt _ _ h
  · exact within_setRmt hrmt _ _ h
  · exact within_setRmt hrmt _ _ h
  · split
    · exact within_setRmt hrmt _ _ h
    · exact within_setRmt hrmt _ _ h
  · exact h

theorem within_doorbellOp (hrmt : m.rmt) (v : Word) (h : Within m u s) : Within m u (doorbellOp v s) :=
  within_forN h (fun _ _ ht => within_ite (within_ringOne hrmt _ ht) ht)

theorem within_rmtPcWriteOp (hregs : m.regs) (hrmt : m.rmt) (n : Nat) (v : Word) (h : Within m u s) :
    Within m u (rmtPcWriteOp n v s) := by
  unfold rmtPcWriteOp
  dsimp only
  split
  · exact within_setRmt hrmt _ _ h
  · exact within_setRmt hrmt _ _ h
  · exact within_setRmt hrmt _ _ h
  · exact within_rmtCfgErr hregs h

theorem within_channelRetiredOp (hclh : m.clh) (hrmt : m.rmt) (n : Nat) (h : Within m u s) :
    Within m u (channelRetiredOp n s) := by
  unfold channelRetiredOp
  dsimp only
  split
  · exact within_setRmt hrmt _ _ h
  · exact within_rmtAborted hclh hrmt _ h
  · split
    · exact h
    · split
      · exact within_setRmt hrmt _ _ h
      · exact within_setRmt hrmt _ _ h
  · exact h

/-! ### Machine/Power.lean -/

theorem within_ledgerClearCompleteOp (h : Within offMem u s) : Within offMem u (ledgerClearCompleteOp s) := by
  unfold ledgerClearCompleteOp
  repeat' first
    | with_reducible first
      | assumption | rfl | apply within_setPwr | apply within_ite | exact within_ldg rfl _ (by assumption)
    | (intro x; refine keeps_cut (a := Within offMem u x) ?_ ?_; intro _; clear_value x)
    | (intro x; clear_value x) | lift_lets -underBinder

theorem within_braceStateOp (below : Nat) (h : Within offMem u s) : Within offMem u (braceStateOp below s) :=
  within_ite h (within_ite (within_setFld rfl _ _ _ _ (within_raise rfl _ _ h)) (within_count rfl _ _ _ (within_evt
    rfl _ _ (within_setPwr rfl _ (within_setFld rfl _ _ _ _ (within_raise rfl _ _ h))))))

theorem within_arbAdvanceOp (v : Word) (h : Within offMem u s) : Within offMem u (arbAdvanceOp v s) :=
  within_ite (within_setBoot rfl _ h) (within_ite (within_evt rfl _ _ h) (within_setBoot rfl _ h))

theorem within_arbFusesBlownOp (h : Within offMem u s) : Within offMem u (arbFusesBlownOp s) := by
  unfold arbFusesBlownOp
  split
  · exact h
  · exact within_evt rfl _ _ (within_fuse rfl _ (within_setBoot rfl _ h))

theorem within_hostResetCause (code : Nat) (h : Within offMem u s) :
    Within offMem u (hostResetCause code s) :=
  within_ite h (within_setField rfl _ (within_keywayDown (within_setPwr rfl _ h)))

/-! ### Machine/Supply.lean -/

theorem within_rootLossOp (h : Within offMem u s) : Within offMem u (rootLossOp s) :=
  within_hostResetCause _ (within_evt rfl _ _ (within_setBit rfl _ _ _ h))

theorem within_stewardRequest (h : Within offMem u s) : Within offMem u (stewardRequest s) := within_setPwr rfl _ h

theorem within_sysRstWrite (v : Word) (h : Within offMem u s) : Within offMem u (sysRstWrite v s) :=
  within_ite (within_evt rfl _ _ h) (within_ite (within_hostResetCause _ (within_ite (within_stewardRequest h) h))
    (within_ite (within_stewardRequest h) h))

theorem within_lockstepOp (h : Within offMem u s) : Within offMem u (lockstepOp s) :=
  within_ite (within_stewardRequest (within_evt rfl _ _ h)) h

theorem within_stewardResetOp (h : Within offMem u s) : Within offMem u (stewardResetOp s) :=
  within_ite (within_masterReset _ _ (within_count rfl _ _ _ (within_setPwr rfl _ h))) h

theorem within_watchdogStart (h : Within offMem u s) : Within offMem u (watchdogStart s) := within_setPwr rfl _ h

theorem within_watchdogKickOp (v : Word) (h : Within offMem u s) : Within offMem u (watchdogKickOp v s) :=
  within_ite (within_watchdogStart h) (within_evt rfl _ _ h)

theorem within_watchdogExpiryOp (h : Within offMem u s) : Within offMem u (watchdogExpiryOp s) :=
  within_ite (within_ite (within_hostResetCause _ (within_watchdogStart (within_evt rfl _ _ h)))
    (within_stewardRequest (within_setPwr rfl _ (within_watchdogStart (within_evt rfl _ _ h))))) h

theorem within_fieldRelease (h : Within offMem u s) : Within offMem u (fieldRelease s) :=
  within_ite (within_foutSettle rfl (within_sbxLoadBegin rfl (within_setField rfl _ h))) h

/-! ### Machine/Regs.lean -/

theorem within_readEffect (a : Nat) (h : Within offMem u s) : Within offMem u (readEffect a s) :=
  within_ite (within_setReg rfl _ _ h) (within_ite (within_setReg rfl _ _ h) (within_ite (within_ite (within_setKwy
    rfl _ h) h) (within_ite (within_setPwr rfl _ h) (within_ite (within_setSnk _ _ h) (within_ite (within_setSub rfl _
    _ h) (within_ite (within_setCtx rfl _ _ h) (within_clearRC rfl _ h)))))))

theorem within_regRead (a : Nat) (h : Within offMem u s) : Within offMem u (regRead a s).2 := within_readEffect _ h

/-! ### Machine/Bus.lean -/

theorem within_proxySync (wr : Bool) (a : Nat) (v : Word) (h : Within offMem u s) :
    Within offMem u (proxySync wr a v s).2.2 := by
  unfold proxySync
  split
  · exact within_evt rfl _ _ h
  · split
    · exact within_evt rfl _ _ h
    · split
      · exact within_foutSettle rfl (within_fieldWrite rfl _ _ (opens_offMem _) h)
      · exact within_clearRC rfl _ h

theorem within_busRead (msg : Master) (id a size beats : Nat) (h : Within offMem u s) :
    Within offMem u (busRead msg id a size beats s).2 := by
  unfold busRead
  repeat' with_reducible first
    | assumption | rfl | apply within_itePair | apply within_clhError | apply within_regRead | apply within_proxySync
    | apply within_evt | apply within_useFree

theorem within_rcReadOp (a : Nat) (h : Within offMem u s) : Within offMem u (rcReadOp a s) :=
  within_ite (within_proxyAccessOp _ _ _ _ h) (within_ite (within_answer rfl _ _ (within_busRead _ _ _ _ _ h))
    (within_answer rfl _ _ h))

/-! ### Machine/Clh.lean -/

theorem within_clhTransactionOp (msg : Master) (id : Nat) (wr : Bool) (addr size beats : Nat) (data : List Byte)
    (strobes : List Bool) (lock : LockMark) (h : Within offMem u s) :
    Within offMem u (clhTransactionOp msg id wr addr size beats data strobes lock s) := within_request rfl rfl _ h

theorem within_lockTimeoutOp (t : Nat) (h : Within offMem u s) : Within offMem u (lockTimeoutOp t s) := by
  unfold lockTimeoutOp
  repeat' first
    | with_reducible first
      | assumption | intro _ | rfl | apply within_setReg | apply within_raise | apply within_evt
      | apply within_lockRefuse | apply within_setClh | apply within_foldl
    | split

theorem within_hspIssue (h : Within offMem u s) : Within offMem u (hspIssue s) := by
  unfold hspIssue
  split
  · split
    · exact within_request rfl rfl _ h
    · exact h
  · exact h

theorem within_postedError (a : Nat) (h : Within offMem u s) : Within offMem u (postedError a s) :=
  within_ite (within_evt rfl _ _ (within_count rfl _ _ _ (within_hsp rfl _ h))) (within_raise rfl _ _ (within_setReg
    rfl _ _ (within_evt rfl _ _ (within_count rfl _ _ _ (within_hsp rfl _ h)))))

theorem within_masterResetCompleteOp (msg : Master) (h : Within offMem u s) :
    Within offMem u (masterResetCompleteOp msg s) :=
  within_ite (within_hspIssue (within_resetsSettle rfl rfl (within_setClh rfl _ h))) (within_resetsSettle rfl rfl
    (within_setClh rfl _ h))

theorem within_hspiWriteOp (addr : Nat) (ws : List Word) (full : Option Nat) (h : Within offMem u s) :
    Within offMem u (hspiWriteOp addr ws full s) :=
  within_hspIssue (within_ite (within_cdcErr rfl _ (within_evt rfl _ _ (within_foldl h (fun _ _ ht => within_ite
    (within_evt rfl _ _ ht) (within_hsp rfl _ ht))))) (within_foldl h (fun _ _ ht => within_ite (within_evt rfl _ _
    ht) (within_hsp rfl _ ht))))

theorem within_hspiReads (addr k : Nat) (h : Within offMem u s) : Within offMem u (hspiReads addr k s).2 := by
  induction k generalizing s addr with
  | zero => exact h
  | succ n ih =>
    unfold hspiReads
    exact ih _ (within_busRead _ _ _ _ _ h)

theorem within_hspiReadOp (addr n : Nat) (h : Within offMem u s) : Within offMem u (hspiReadOp addr n s) :=
  within_ite (within_evt rfl _ _ h) (within_ite (within_answer rfl _ _ h) (within_answer rfl _ _ (within_hspiReads _ _
    h)))

theorem within_hspiStatusOp (h : Within offMem u s) : Within offMem u (hspiStatusOp s) := within_answer rfl _ _ h

theorem within_hspiSyncOp (h : Within offMem u s) : Within offMem u (hspiSyncOp s) :=
  within_ite (within_answer rfl _ _ h) (within_answer rfl _ _ (within_hsp rfl _ h))

theorem within_hspiIdOp (h : Within offMem u s) : Within offMem u (hspiIdOp s) := within_answer rfl _ _ h

theorem within_hspiResetOp (h : Within offMem u s) : Within offMem u (hspiResetOp s) :=
  within_masterReset _ _ (within_hsp rfl _ h)

theorem within_hspiCsNRiseOp (h : Within offMem u s) : Within offMem u (hspiCsNRiseOp s) :=
  within_answer rfl _ _ (within_evt rfl _ _ h)

theorem within_hspiPostedWriteErrorOp (addr : Nat) (h : Within offMem u s) :
    Within offMem u (hspiPostedWriteErrorOp addr s) := by
  unfold hspiPostedWriteErrorOp
  split
  · refine within_ite ?_ h
    extract_lets mine s1 s2
    have h1 : Within offMem u s1 := within_ite h (within_clhError rfl _ _ _ _ _ h)
    exact within_hspIssue (within_postedError _ (within_hsp rfl _ (within_setClh rfl _ h1)))
  · exact h

/-! ### Machine/Remit.lean -/

theorem within_rmtFault (n cause : Nat) (h : Within offMem u s) : Within offMem u (rmtFault n cause s) :=
  within_evt rfl _ _ (within_setRmt rfl _ _ (within_rmtUnlock rfl _ h))

theorem within_rmtFetch (n a : Nat) (h : Within offMem u s) : Within offMem u (rmtFetch n a s).2 := by
  unfold rmtFetch
  split
  · exact h
  · exact within_busRead _ _ _ _ _ h

theorem within_rmtWordOp (op n : Nat) {f : Nat → State → State}
    (hf : ∀ w t, Within offMem u t → Within offMem u (f w t)) (h : Within offMem u s) :
    Within offMem u (rmtWordOp op n f s) := by
  have hfetch := within_rmtFetch n (s.rmtCh n).pc h
  unfold rmtWordOp
  dsimp only
  split
  · exact h
  · split
    next e => exact within_rmtFault _ _ (within_of_eq e hfetch)
    next e =>
      have ht := within_of_eq e hfetch
      exact within_ite (within_rmtFault _ _ ht) (within_ite (hf _ _ ht) ht)

theorem within_rmtNext (hrmt : m.rmt) (n pc : Nat) (h : Within m u s) : Within m u (rmtNext n pc s) := by
  unfold rmtNext
  split
  · exact within_setRmt hrmt _ _ h
  · exact within_setRmt hrmt _ _ h
  · exact within_setRmt hrmt _ _ h
  · exact h

theorem within_loopWord (n w : Nat) (h : Within offMem u s) : Within offMem u (loopWord n w s) := by
  unfold loopWord
  dsimp only
  split
  · split
    · exact within_rmtFault _ _ h
    · split
      · exact within_rmtNext rfl _ _ (within_setRmt rfl _ _ h)
      · exact within_rmtNext rfl _ _ (within_setRmt rfl _ _ h)
  · split
    · exact within_rmtFault _ _ h
    · split
      · exact within_rmtNext rfl _ _ h
      · exact within_rmtNext rfl _ _ (within_setRmt rfl _ _ h)

theorem within_waitTaken (hregs : m.regs) (hrmt : m.rmt) (n w : Nat) (h : Within m u s) :
    Within m u (waitTaken n w s) := by
  unfold waitTaken
  split
  · exact within_rmtNext hrmt _ _ (within_setBit hregs _ _ _ h)
  · exact within_rmtNext hrmt _ _ (within_setBit hregs _ _ _ h)
  · exact within_rmtNext hrmt _ _ h

theorem within_waitWord (n w : Nat) (h : Within offMem u s) : Within offMem u (waitWord n w s) :=
  within_ite (within_waitTaken rfl rfl _ _ h) (within_setRmt rfl _ _ h)

theorem within_waitConditionMetOp (hregs : m.regs) (hrmt : m.rmt) (n : Nat) (h : Within m u s) :
    Within m u (waitConditionMetOp n s) := by
  unfold waitConditionMetOp
  dsimp only
  split
  · split
    · split
      · exact within_waitTaken hregs hrmt _ _ h
      · exact h
    · exact h
  · exact h

theorem within_signalWord (n w : Nat) (h : Within offMem u s) : Within offMem u (signalWord n w s) :=
  within_rmtNext rfl _ _ (within_evtIf rfl _ _ _ (within_setBit rfl _ _ _ h))

theorem within_linkWord (n w : Nat) (h : Within offMem u s) : Within offMem u (linkWord n w s) :=
  within_ite (within_rmtFault _ _ h) (within_rmtNext rfl _ _ h)

theorem within_endWord (n : Nat) (h : Within offMem u s) : Within offMem u (endWord n s) :=
  within_ite (within_setRmt rfl _ _ h) (within_setRmt rfl _ _ h)

/-! ### Machine/Boot.lean -/

theorem within_mgmt (c : MClass) (msg : MgmtMsg) {f : State → State}
    (hf : ∀ t, Within offMem u t → Within offMem u (f t)) (h : Within offMem u s) : Within offMem u (mgmt c msg s f) :=
  within_ite h (within_ite (within_evt rfl _ _ h) (within_ite h (hf _ (within_setBoot rfl _ h))))

theorem within_setTimeOp (msg : MgmtMsg) (h : Within offMem u s) : Within offMem u (setTimeOp msg s) :=
  within_mgmt _ _ (fun _ ht => within_ite ht (within_setViewTo rfl rfl _ _ ht)) h

theorem within_mgmtQueryOp (msg : MgmtMsg) (regs : List Nat) (h : Within offMem u s) :
    Within offMem u (mgmtQueryOp msg regs s) :=
  within_mgmt _ _ (fun _ ht => within_answer rfl _ _
    (within_foldl_pair ht fun _ _ hp => within_busRead _ _ _ _ _ hp)) h

theorem within_restartOp (msg : MgmtMsg) (h : Within offMem u s) : Within offMem u (restartOp msg s) :=
  within_mgmt _ _ (fun _ ht => within_setPwr rfl _ ht) h

/-! ### Machine/Folio.lean -/

theorem within_changeOp (e : Nat) (acts : List CtrlAct) (h : Within offMem u s) :
    Within offMem u (changeOp e acts s) := within_ite (within_setHng rfl _ h) h

/-! ### Machine/PtpTx.lean -/

theorem within_ptpSend (i p n : Nat) (h : Within offMem u s) : Within offMem u (ptpSend i p n s) :=
  within_ite (within_offer rfl rfl _ _ _ h) h

theorem within_syncIntervalOp (i : Nat) (h : Within offMem u s) : Within offMem u (syncIntervalOp i s) :=
  within_ite h (within_ite (within_ite (within_ptpSend _ _ _ (within_setTim rfl _ h)) h) (within_ite (within_ptpSend _
    _ _ (within_setTim rfl _ h)) h))

/-! ### Machine/TellerAlu.lean -/

theorem within_dataOp (hclh : m.clh) (hfree : m.free) (hmem : m.mem) (hpst : m.pst) (hregs : m.regs)
    (htel : m.tel) (t : Nat) (p : Pred) (d : Nat) (f : Core → Word × Nat) (h : Within m u s) :
    Within m u (dataOp t p d f s) := within_computeOp hclh hfree hmem hpst hregs htel _ _ _ _ _ h

theorem within_nopOp (hclh : m.clh) (hfree : m.free) (hmem : m.mem) (hpst : m.pst) (hregs : m.regs)
    (htel : m.tel) (t : Nat) (move : Bool) (w : Nat) (h : Within m u s) : Within m u (nopOp t move w s) := by
  unfold nopOp
  dsimp only
  split
  · exact h
  · refine within_ite
      (within_moveOp hpst hregs htel hclh hfree hmem _ _ _ _ (fun _ _ _ => MoveRes.within_done _ _ _ h) h) ?_
    with_reducible apply within_computeOp <;> assumption

theorem within_cmpOp (hclh : m.clh) (hfree : m.free) (hmem : m.mem) (hpst : m.pst) (hregs : m.regs)
    (htel : m.tel) (t : Nat) (p : Pred) (o : FmtCR3) (r : Int → Int → Bool) (h : Within m u s) :
    Within m u (cmpOp t p o r s) := within_computeOp hclh hfree hmem hpst hregs htel _ _ _ _ _ h

theorem within_vcmpOp (hclh : m.clh) (hfree : m.free) (hmem : m.mem) (hpst : m.pst) (hregs : m.regs)
    (htel : m.tel) (t : Nat) (p : Pred) (o : FmtCR3) (r : Int → Int → Bool) (h : Within m u s) :
    Within m u (vcmpOp t p o r s) := within_computeOp hclh hfree hmem hpst hregs htel _ _ _ _ _ h

theorem within_mulOp (hclh : m.clh) (hfree : m.free) (hmem : m.mem) (hpst : m.pst) (hregs : m.regs)
    (htel : m.tel) (t : Nat) (p : Pred) (o : FmtCM) (f : Int → Int → BitVec 80 × Nat) (h : Within m u s) :
    Within m u (mulOp t p o f s) := within_computeOp hclh hfree hmem hpst hregs htel _ _ _ _ _ h

theorem within_dotOp (hclh : m.clh) (hfree : m.free) (hmem : m.mem) (hpst : m.pst) (hregs : m.regs)
    (htel : m.tel) (t : Nat) (p : Pred) (o : FmtCM) (f : Int → Int → BitVec 80 × Nat) (h : Within m u s) :
    Within m u (dotOp t p o f s) := within_computeOp hclh hfree hmem hpst hregs htel _ _ _ _ _ h

theorem within_vmacOp (hclh : m.clh) (hfree : m.free) (hmem : m.mem) (hpst : m.pst) (hregs : m.regs)
    (htel : m.tel) (t : Nat) (p : Pred) (o : FmtCM) (f : Int → Int → BitVec 80 × Nat) (h : Within m u s) :
    Within m u (vmacOp t p o f s) := within_computeOp hclh hfree hmem hpst hregs htel _ _ _ _ _ h

theorem within_accToData (hclh : m.clh) (hfree : m.free) (hmem : m.mem) (hpst : m.pst) (hregs : m.regs)
    (htel : m.tel) (t : Nat) (p : Pred) (o : FmtCN) (f : Int → Word × Nat) (h : Within m u s) :
    Within m u (accToData t p o f s) := within_computeOp hclh hfree hmem hpst hregs htel _ _ _ _ _ h

theorem within_aaddOp (hclh : m.clh) (hfree : m.free) (hmem : m.mem) (hpst : m.pst) (hregs : m.regs)
    (htel : m.tel) (t : Nat) (p : Pred) (o : FmtCN) (f : Int → BitVec 80 × Nat) (h : Within m u s) :
    Within m u (aaddOp t p o f s) := within_computeOp hclh hfree hmem hpst hregs htel _ _ _ _ _ h

theorem within_searchOp (hclh : m.clh) (hfree : m.free) (hmem : m.mem) (hpst : m.pst) (hregs : m.regs)
    (htel : m.tel) (t : Nat) (p : Pred) (o : FmtCS) (better : Int → Int → Bool) (h : Within m u s) :
    Within m u (searchOp t p o better s) := within_computeOp hclh hfree hmem hpst hregs htel _ _ _ _ _ h

end Sys2Proof.Machine
end

section
/-! PROOF. The frame of each class of commands, and from them O55. -/

namespace Sys2Proof.Machine
variable {m : Parts}

section
variable {s : State} {f : State → State}

/-- Every state that an outcome gives differs from `s` within the parts `m` only. -/
def OutWithin (m : Parts) (s : State) (o : Host.Outcome State Fault Refusal) : Prop := ∀ t, o = .next t → Within m s t

theorem outWithin_next {t : State} (h : Within m s t) : OutWithin m s (.next t) := by
  rintro _ ⟨⟩
  exact h

theorem outWithin_if {c : Prop} [Decidable c] (hf : ∀ {t}, Within m s t → Within m s (f t)) :
    OutWithin m s (.next (if c then f s else s)) :=
  outWithin_next (within_ite (hf (Within.refl m s)) (Within.refl m s))

theorem outWithin_hostDo (hf : ∀ {t}, Within m s t → Within m s (f t)) : OutWithin m s (hostDo s f) := outWithin_if hf

theorem outWithin_portDo {p : Nat} (hf : ∀ {t}, Within m s t → Within m s (f t)) : OutWithin m s (portDo p s f) :=
  outWithin_if hf

theorem outWithin_kwyDo (hf : ∀ {t}, Within m s t → Within m s (f t)) : OutWithin m s (kwyDo s f) := outWithin_if hf

theorem outWithin_rmtDo {n : Nat} (hf : ∀ {t}, Within m s t → Within m s (f t)) : OutWithin m s (rmtDo n s f) :=
  outWithin_hostDo (fun h => within_ite (hf h) h)

theorem outWithin_rmtExec {op n : Nat} {g : Nat → State → State}
    (hg : ∀ w {t}, Within offMem s t → Within offMem s (g w t)) : OutWithin offMem s (rmtExec op n s g) :=
  outWithin_rmtDo (within_rmtWordOp op n (fun w _ => hg w))

theorem outWithin_fieldDo (hfield : m.field) (hf : ∀ {t}, Within m s t → Within m s (f t)) :
    OutWithin m s (fieldDo s f) :=
  outWithin_if (f := fun s => foutSettle (f s)) (fun h => within_foutSettle hfield (hf h))

theorem outWithin_chanDo (hfield : m.field) {c : Nat} (hf : ∀ {t}, Within m s t → Within m s (f t)) :
    OutWithin m s (chanDo c s f) :=
  outWithin_fieldDo hfield (fun h => within_ite (hf h) h)

theorem outWithin_pairDo (hfield : m.field) {p : Nat} (hf : ∀ {t}, Within m s t → Within m s (f t)) :
    OutWithin m s (pairDo p s f) :=
  outWithin_fieldDo hfield (fun h => within_ite (hf h) h)

end

/-- What the commands of `tellerCommand` change. -/
abbrev tellerParts : Parts := { clh := true, free := true, mem := true, pst := true, regs := true, tel := true }

/-- What the commands of `fieldCommand` change. -/
abbrev fieldParts : Parts := { field := true }

/-- What the commands of `timeCommand` change. -/
abbrev timeParts : Parts := { regs := true, tim := true }

/-- What the commands of `networkCommand` change. -/
abbrev networkParts : Parts := { ans := true, net := true, regs := true }

/-- What the commands of `districtCommand` change. -/
abbrev districtParts : Parts := { dis := true, net := true, regs := true }

/-- What the commands of `sinkCommand` change. -/
abbrev sinkParts : Parts := { ans := true, out := true, regs := true }

/-- What the commands of `audioPortCommand` change. -/
abbrev audioPortParts : Parts := { ans := true, mem := true, out := true, regs := true, sap := true, til := true }

/-- What the commands of `ledgerCommand` change. -/
abbrev ledgerParts : Parts := { ans := true, ldg := true, mem := true, regs := true }

/-- What the commands of `referenceCommand` change. -/
abbrev referenceParts : Parts := { free := true, regs := true, rsc := true }

/-- What the commands of `remitCommand` change. -/
abbrev remitParts : Parts := { clh := true, regs := true, rmt := true }

theorem outWithin_moveOp {s : State} {t : Nat} {p : Pred} {bad : Option Nat} {vec : Bool}
    {g : Core → Run → Nat → State → MoveRes}
    (hg : ∀ c r k, Within tellerParts s s → MoveRes.Within tellerParts s (g c r k s)) :
    OutWithin tellerParts s (.next (moveOp t p bad vec g s)) :=
  outWithin_next (within_moveOp rfl rfl rfl rfl rfl rfl t p bad vec (fun c r k => hg c r k (Within.refl _ s))
    (Within.refl _ s))

theorem execCall_within (t : Nat) (p : Pred) (off : Int) (s : State) : OutWithin tellerParts s (execCall t p off s) :=
  outWithin_moveOp fun c _ _ h => by
    by_cases hc : 4 ≤ c.stack.length
    · simp only [hc, if_true]
      exact MoveRes.within_fault _ _ _ _
    · simp only [hc, if_false]
      exact MoveRes.within_done _ _ _ (within_setCore rfl _ _ h)

theorem execRet_within (t : Nat) (p : Pred) (s : State) : OutWithin tellerParts s (execRet t p s) :=
  outWithin_moveOp fun c _ _ h => by
    cases c.stack with
    | nil => exact MoveRes.within_fault _ _ _ _
    | cons a rest => exact MoveRes.within_done _ _ _ (within_setCore rfl _ _ h)

theorem execPlayerGo_within (p : Nat) (v : Word) (s : State) : OutWithin fieldParts s (execPlayerGo p v s) :=
  outWithin_fieldDo rfl fun h => within_ite (within_playWrite rfl _ _ h) h

theorem execPlayerStop_within (p : Nat) (v : Word) (s : State) : OutWithin fieldParts s (execPlayerStop p v s) :=
  outWithin_fieldDo rfl fun h => within_ite (within_playWrite rfl _ _ h) h

theorem execFieldSupplyBelowWarning_within (supply : Nat) (s : State) :
    OutWithin fieldParts s (execFieldSupplyBelowWarning supply s) :=
  outWithin_fieldDo rfl fun h => within_fevt rfl _ _ rfl (within_setReg_open rfl _ h)

theorem execFieldWarningEnd_within (s : State) : OutWithin fieldParts s (execFieldWarningEnd s) :=
  outWithin_fieldDo rfl fun h => within_setFld_open rfl _ _ _ h

theorem execMacCfgWrite_within (p : Nat) (v : Word) (s : State) : OutWithin networkParts s (execMacCfgWrite p v s) :=
  outWithin_hostDo fun h =>
    within_ite (within_regRow rfl rfl _ (fun _ k => within_macCfgWriteOp rfl rfl _ _ k) h) h

theorem execSubscriptionEnable_within (k : Nat) (v : Word) (s : State) :
    OutWithin networkParts s (execSubscriptionEnable k v s) :=
  outWithin_hostDo fun h => within_ite
    (within_ite (within_rxidWrite rfl rfl _ _ h) (within_subsBoundary rfl (within_rxidWrite rfl rfl _ _ h))) h

theorem execTransmitStreamEnable_within (k : Nat) (v : Word) (s : State) :
    OutWithin networkParts s (execTransmitStreamEnable k v s) :=
  outWithin_hostDo fun h => within_ite (within_txcfgWrite rfl rfl _ _ h) h

theorem execAes67StreamEnable_within (tx : Bool) (r : Nat) (v : Word) (s : State) :
    OutWithin networkParts s (execAes67StreamEnable tx r v s) :=
  outWithin_hostDo fun h => within_ite (within_a67cfgWrite rfl rfl _ _ _ h) h

theorem execStreamLoss_within (k : Nat) (s : State) : OutWithin networkParts s (execStreamLoss k s) :=
  outWithin_hostDo fun h => within_ite (within_streamLossOp rfl rfl _ h) h

theorem execFill_within (k : Nat) (s : State) : OutWithin offMem s (execFill k s) :=
  outWithin_hostDo fun h => within_ite (within_fillOp _ h) h

theorem execKeywayMessageLaunch_within (fromHost : Bool) (s : State) :
    OutWithin offMem s (execKeywayMessageLaunch fromHost s) :=
  outWithin_kwyDo fun h => within_ite (within_hostLaunch h) (within_fieldLaunch h)

theorem within_fieldUp {u s : State} {p : Pwr} (h : Within offMem u s) :
    Within offMem u (fieldRelease (s.setPwr p)) :=
  within_fieldRelease (within_setPwr rfl _ h)

theorem execFprsntNRelease_within (s : State) : OutWithin offMem s (execFprsntNRelease s) :=
  outWithin_kwyDo fun h => within_ite (within_fieldUp h) h

theorem execFieldSupplyGood_within (s : State) : OutWithin offMem s (execFieldSupplyGood s) :=
  outWithin_kwyDo fun h => within_ite (within_fieldUp h) h

theorem tellerCommand_within {c : Instr} (hc : tellerCommand c = true) (s : State) :
    OutWithin tellerParts s (exec c s) := by
  cases c with
  | firstRunStart => exact outWithin_hostDo (within_firstRunStartOp rfl _ _)
  | rerunStart => exact outWithin_hostDo (within_rerunStartOp rfl rfl rfl rfl _ _)
  | taskOverrun => exact outWithin_hostDo (within_taskOverrunOp rfl rfl rfl rfl rfl rfl _)
  | windowWatchdog => exact outWithin_hostDo (within_windowWatchdogOp rfl rfl rfl rfl rfl rfl _)
  | ldfResponse => exact outWithin_next (within_ldfResponseOp rfl rfl rfl rfl rfl rfl _ (Within.refl _ s))
  | ldfTimeout => exact outWithin_next (within_ldfTimeoutOp rfl rfl rfl rfl rfl rfl _ (Within.refl _ s))
  | contextEnable | contextDisable => exact outWithin_hostDo (within_ctxCmdWrite rfl _)
  | swapGo => exact outWithin_hostDo (within_swapGoOp rfl rfl _)
  | nop => exact outWithin_next (within_nopOp rfl rfl rfl rfl rfl rfl _ _ _ (Within.refl _ s))
  | add | adds | sub | subs | neg | negs | abs | abss | min | max | and | or | xor | shl | shls | asr | asrr | lsr |
  addi | addis =>
    exact outWithin_next (within_dataOp rfl rfl rfl rfl rfl rfl _ _ _ _ (Within.refl _ s))
  | cmpeq | cmplt | cmple => exact outWithin_next (within_cmpOp rfl rfl rfl rfl rfl rfl _ _ _ _ (Within.refl _ s))
  | vcmpeq | vcmplt | vcmple => exact outWithin_next (within_vcmpOp rfl rfl rfl rfl rfl rfl _ _ _ _ (Within.refl _ s))
  | plog => exact outWithin_next (within_computeOp rfl rfl rfl rfl rfl rfl _ _ _ _ _ (Within.refl _ s))
  | mul | mac | macs | msu | msus =>
    exact outWithin_next (within_mulOp rfl rfl rfl rfl rfl rfl _ _ _ _ (Within.refl _ s))
  | dot8z | dot8 | dot8s => exact outWithin_next (within_dotOp rfl rfl rfl rfl rfl rfl _ _ _ _ (Within.refl _ s))
  | vmac8z | vmac8 | vmac8s | vmsu8 | vmsu8s =>
    exact outWithin_next (within_vmacOp rfl rfl rfl rfl rfl rfl _ _ _ _ (Within.refl _ s))
  | rnd | rndw | trn => exact outWithin_next (within_accToData rfl rfl rfl rfl rfl rfl _ _ _ _ (Within.refl _ s))
  | amov => exact outWithin_next (within_computeOp rfl rfl rfl rfl rfl rfl _ _ _ _ _ (Within.refl _ s))
  | aadd | aadds => exact outWithin_next (within_aaddOp rfl rfl rfl rfl rfl rfl _ _ _ _ (Within.refl _ s))
  | ash | aclr | sinit => exact outWithin_next (within_computeOp rfl rfl rfl rfl rfl rfl _ _ _ _ _ (Within.refl _ s))
  | smax | smin => exact outWithin_next (within_searchOp rfl rfl rfl rfl rfl rfl _ _ _ _ (Within.refl _ s))
  | sred => exact outWithin_next (within_computeOp rfl rfl rfl rfl rfl rfl _ _ _ _ _ (Within.refl _ s))
  | ldw | ldh | ldv => exact outWithin_next (within_loadOp rfl rfl rfl rfl rfl rfl _ _ _ _ _ _ _ (Within.refl _ s))
  | stw | sth | stv | str | strv =>
    exact outWithin_next (within_storeOp rfl rfl rfl rfl rfl rfl _ _ _ _ _ _ _ _ _ _ (Within.refl _ s))
  | ldf => exact outWithin_next (within_ldfOp rfl rfl rfl rfl rfl rfl _ _ _ (Within.refl _ s))
  | stf => exact outWithin_moveOp (fun _ _ _ h => MoveRes.within_done _ _ _ (within_journalAdd rfl rfl _ _ _ h))
  | movr => exact outWithin_moveOp (fun _ _ _ h => MoveRes.within_done _ _ _ (within_writeCode rfl rfl _ _ _ h))
  | movc =>
    exact outWithin_moveOp (fun _ _ _ h => MoveRes.within_done _ _ _ (within_ite (within_writeCtl rfl rfl _ _ _ h)
      (within_writeCode rfl rfl _ _ _ h)))
  | modi => exact outWithin_moveOp (fun _ _ _ h => MoveRes.within_done _ _ _ (within_setCore rfl _ _ h))
  | br => exact outWithin_moveOp (fun _ _ _ h => MoveRes.within_done _ _ _ h)
  | call => exact execCall_within _ _ _ s
  | ret => exact execRet_within _ _ s
  | loop => exact outWithin_next (within_loopOp rfl rfl rfl rfl rfl rfl _ _ _ (Within.refl _ s))
  | endRun => exact outWithin_next (within_endRunOp rfl rfl rfl rfl rfl rfl _ _ (Within.refl _ s))
  | sig | evr => exact outWithin_moveOp (fun _ _ _ h => MoveRes.within_done _ _ _ (within_journalAdd rfl rfl _ _ _ h))
  | ld2i => exact outWithin_next (within_ld2iOp rfl rfl rfl rfl rfl rfl _ _ (Within.refl _ s))
  | ldi => exact outWithin_next (within_ldiOp rfl rfl rfl rfl rfl rfl _ _ _ _ (Within.refl _ s))
  | remixEnd => exact outWithin_hostDo (within_remixEndOp rfl rfl rfl rfl rfl rfl)
  | _ => cases hc

theorem fieldCommand_within {c : Instr} (hc : fieldCommand c = true) (s : State) :
    OutWithin fieldParts s (exec c s) := by
  cases c with
  | block => exact outWithin_fieldDo rfl (within_fieldTake rfl _ _ fun _ _ => within_blockOp rfl _)
  | envelope => exact outWithin_fieldDo rfl (within_fieldTake rfl _ _ fun _ _ => within_envelopeOp rfl _)
  | cmd => exact outWithin_fieldDo rfl (within_fieldTake rfl _ _ fun _ _ => within_cmdOp rfl _)
  | hostHeartbeat => exact outWithin_fieldDo rfl (within_fieldTake rfl _ _ fun _ _ => within_hostHeartbeatOp rfl _)
  | force | exit => exact outWithin_fieldDo rfl (within_fsysAutWrite rfl _)
  | finMeasurement => exact outWithin_fieldDo rfl (within_finMeasurementOp rfl _)
  | foutClr => exact outWithin_fieldDo rfl (within_foutWrite rfl _)
  | rel | reload => exact outWithin_fieldDo rfl (within_fsbxCmdWrite rfl _)
  | playerGo => exact execPlayerGo_within _ _ s
  | playerStop => exact execPlayerStop_within _ _ s
  | overrideRepeat => exact outWithin_chanDo rfl (within_overrideRepeatOp rfl _)
  | start => exact outWithin_chanDo rfl (within_startOp rfl _)
  | stop => exact outWithin_chanDo rfl (within_stopOp rfl _)
  | clear => exact outWithin_chanDo rfl (within_clearOp rfl _)
  | startSequence => exact outWithin_chanDo rfl (within_startSequenceOp rfl _)
  | enableTimeElapsed => exact outWithin_chanDo rfl (within_enableTimeElapsedOp rfl _)
  | hold50Complete => exact outWithin_chanDo rfl (within_hold50CompleteOp rfl _)
  | rampInComplete => exact outWithin_chanDo rfl (within_rampInCompleteOp rfl _)
  | stopRampOutComplete => exact outWithin_chanDo rfl (within_stopRampOutCompleteOp rfl _)
  | stopHold50Complete => exact outWithin_chanDo rfl (within_stopHold50CompleteOp rfl _)
  | stopEnableTimeElapsed => exact outWithin_chanDo rfl (within_stopEnableTimeElapsedOp rfl _)
  | carrierPeriod => exact outWithin_chanDo rfl (within_carrierPeriodOp rfl _)
  | boostPeriod => exact outWithin_pairDo rfl (within_boostPeriodOp rfl _ _ _)
  | hswWrite => exact outWithin_fieldDo rfl (within_hswWriteOp rfl _)
  | takeoverStart => exact outWithin_fieldDo rfl (within_takeoverStartOp rfl _)
  | hswtElapsed => exact outWithin_chanDo rfl (within_hswtElapsedOp rfl _)
  | avoidanceRun => exact outWithin_fieldDo rfl (within_avoidanceRunOp rfl _)
  | carrierModeWrite => exact outWithin_fieldDo rfl (within_carrierModeWriteOp rfl _)
  | ilimCrossing => exact outWithin_chanDo rfl (within_ilimCrossingOp rfl _ _ _)
  | iscCrossing => exact outWithin_chanDo rfl (within_iscCrossingOp rfl _ _)
  | fltAssert => exact outWithin_chanDo rfl (within_fltAssertOp rfl _)
  | lineOverVoltage => exact outWithin_chanDo rfl (within_lineOverVoltageOp rfl _ _)
  | retry => exact outWithin_chanDo rfl (within_retryOp rfl _)
  | probeComplete => exact outWithin_chanDo rfl (within_probeCompleteOp rfl _)
  | dcOffset => exact outWithin_chanDo rfl (within_dcOffsetOp rfl _ _)
  | ntcWarning => exact outWithin_fieldDo rfl (within_ntcWarningOp rfl _ _)
  | ntcTrip => exact outWithin_fieldDo rfl (within_ntcTripOp rfl _ _)
  | thermalRestore => exact outWithin_fieldDo rfl (within_thermalRestoreOp rfl _ _)
  | boostOverCurrent => exact outWithin_pairDo rfl (within_boostOverCurrentOp rfl _ _)
  | boostOcPersist => exact outWithin_pairDo rfl (within_boostOcPersistOp rfl _)
  | boostRetry => exact outWithin_pairDo rfl (within_boostRetryOp rfl _)
  | boostOverVoltage => exact outWithin_pairDo rfl (within_boostOverVoltageOp rfl _ _)
  | railOverVoltage => exact outWithin_pairDo rfl (within_railOverVoltageOp rfl _ _)
  | pilotStart => exact outWithin_chanDo rfl (within_pilotStartOp rfl _)
  | earthLeakage => exact outWithin_fieldDo rfl (within_earthLeakageOp rfl _)
  | f0FrameReceived => exact outWithin_fieldDo rfl (within_f0FrameReceivedOp rfl _)
  | fieldSupplyBelowWarning => exact execFieldSupplyBelowWarning_within _ s
  | fieldWarningEnd => exact execFieldWarningEnd_within s
  | laneClockLoss => exact outWithin_fieldDo rfl (within_laneClockLossOp rfl)
  | fieldClockSwitch => exact outWithin_fieldDo rfl (within_fieldClockSwitchOp rfl)
  | blockMissing => exact outWithin_fieldDo rfl (within_blockMissingOp rfl)
  | fieldFolioStart => exact outWithin_fieldDo rfl (within_fieldFolioStartOp rfl)
  | autonomyEntry => exact outWithin_fieldDo rfl (within_autonomyEnter rfl)
  | autonomyExit => exact outWithin_fieldDo rfl (within_autonomyExitOp rfl)
  | toneBurstEnd => exact outWithin_fieldDo rfl (within_toneBurstEndOp rfl)
  | sbxEraseSector | sbxProgramPage => exact outWithin_fieldDo rfl (within_pgCmdWrite rfl _)
  | avoidanceRunComplete => exact outWithin_fieldDo rfl (within_avoidanceRunCompleteOp rfl)
  | _ => cases hc

theorem timeCommand_within {c : Instr} (hc : timeCommand c = true) (s : State) :
    OutWithin timeParts s (exec c s) := by
  cases c with
  | rateCommit => exact outWithin_hostDo (within_rateCommitOp rfl rfl _ _)
  | rateTakesEffect => exact outWithin_hostDo (within_rateTakesEffectOp rfl _)
  | set => exact outWithin_hostDo (within_setOp rfl rfl _)
  | step => exact outWithin_hostDo (within_stepOp rfl _)
  | slew => exact outWithin_hostDo (within_slewOp rfl _)
  | cancel => exact outWithin_hostDo (within_cancelOp rfl _)
  | slewDone => exact outWithin_hostDo (within_slewDoneOp rfl rfl _)
  | activeWrite => exact outWithin_hostDo (within_activeWriteOp rfl rfl _)
  | jclr => exact outWithin_hostDo (within_jclrOp rfl _)
  | snap => exact outWithin_hostDo (within_snapOp rfl _)
  | align => exact outWithin_hostDo (within_alignOp rfl _)
  | pulseEnable => exact outWithin_hostDo (within_pulseEnableOp rfl rfl _)
  | ptpMessage => exact outWithin_hostDo (within_ptpMessageOp rfl rfl _ _)
  | pulseOutputEdge => exact outWithin_hostDo (within_pulseEdgeOp rfl rfl _ _)
  | announceReceiptTimeout => exact outWithin_hostDo (within_announceTimeoutOp rfl rfl _)
  | junctionDone => exact outWithin_hostDo (within_junctionDoneOp rfl rfl)
  | _ => cases hc

theorem networkCommand_within {c : Instr} (hc : networkCommand c = true) (s : State) :
    OutWithin networkParts s (exec c s) := by
  cases c with
  | macCfgWrite => exact execMacCfgWrite_within _ _ s
  | portLinkDown => exact outWithin_portDo (within_portLinkDownOp rfl rfl _ _ _)
  | frameOffered => exact outWithin_portDo (within_frameOfferedOp rfl rfl _ _ _)
  | subscriptionEnable => exact execSubscriptionEnable_within _ _ s
  | transmitStreamEnable => exact execTransmitStreamEnable_within _ _ s
  | aes67StreamEnable => exact execAes67StreamEnable_within _ _ _ s
  | streamLoss => exact execStreamLoss_within _ s
  | dvtRelease => exact outWithin_hostDo (within_dvtReleaseOp rfl rfl)
  | periodicAnnounce => exact outWithin_hostDo (within_periodicAnnounceOp rfl rfl)
  | claimInterval => exact outWithin_hostDo (within_claimIntervalOp rfl rfl)
  | _ => cases hc

theorem districtCommand_within {c : Instr} (hc : districtCommand c = true) (s : State) :
    OutWithin districtParts s (exec c s) := by
  cases c with
  | announce => exact outWithin_hostDo (within_announceOp rfl rfl _ _ _ _ _ _)
  | claim => exact outWithin_hostDo (within_claimOp rfl rfl _ _ _)
  | streams => exact outWithin_hostDo (within_streamsOp rfl _ _)
  | query => exact outWithin_hostDo (within_queryOp rfl rfl rfl _ _ _)
  | reply => exact outWithin_hostDo (within_replyOp rfl rfl rfl _ _)
  | leave => exact outWithin_hostDo (within_forget rfl rfl _)
  | claimTimeout => exact outWithin_hostDo (within_claimTimeoutOp rfl rfl rfl _)
  | recordExpiry => exact outWithin_hostDo (within_recordExpiryOp rfl rfl _)
  | streamsSlot => exact outWithin_hostDo (within_streamsSlotOp rfl rfl rfl)
  | querySlot => exact outWithin_hostDo (within_querySlotOp rfl rfl rfl)
  | _ => cases hc

theorem sinkCommand_within {c : Instr} (hc : sinkCommand c = true) (s : State) :
    OutWithin sinkParts s (exec c s) := by
  cases c with
  | excCfgWrite => exact outWithin_hostDo (within_regRow rfl rfl _ fun _ => within_excCfgWriteOp rfl rfl _ _)
  | acquireLock => exact outWithin_hostDo (within_acquireLockOp rfl rfl _)
  | inputLoss => exact outWithin_hostDo (within_inputLossOp rfl rfl _ _)
  | phaseError => exact outWithin_hostDo (within_phaseErrorOp rfl _)
  | inputResume => exact outWithin_hostDo (within_inputResumeOp rfl _ _)
  | syncRatioCheck => exact outWithin_hostDo (within_syncRatioCheckOp rfl rfl _ _)
  | dcfgWrite => exact outWithin_hostDo (within_dcfgWriteOp rfl rfl _ _)
  | dlyWrite => exact outWithin_hostDo (within_dlyWriteOp rfl rfl _ _)
  | limWrite => exact outWithin_hostDo (within_limWriteOp rfl rfl _ _ _)
  | _ => cases hc

theorem audioPortCommand_within {c : Instr} (hc : audioPortCommand c = true) (s : State) :
    OutWithin audioPortParts s (exec c s) := by
  cases c with
  | sapEnable => exact outWithin_hostDo (within_regRow rfl rfl _ fun _ => within_sapCfgWriteOp rfl rfl _ _)
  | sapAlign => exact outWithin_hostDo (within_regRow rfl rfl _ fun _ => within_sapAlignOp rfl _)
  | slaveFrame => exact outWithin_hostDo (within_slaveFrameOp rfl rfl rfl rfl _ _ _)
  | tillWordReceived => exact outWithin_hostDo (within_tillWordReceivedOp rfl rfl rfl rfl _ _ _)
  | tillHold => exact outWithin_hostDo (within_tillHoldOp rfl _ _)
  | tilWmWrite => exact outWithin_hostDo (within_regRow rfl rfl _ fun _ => within_tilWmWriteOp rfl rfl _ _)
  | tillWordSent => exact outWithin_hostDo (within_tillWordSentOp rfl _)
  | _ => cases hc

theorem ledgerCommand_within {c : Instr} (hc : ledgerCommand c = true) (s : State) :
    OutWithin ledgerParts s (exec c s) := by
  cases c with
  | gainStoreWrite => exact outWithin_hostDo (within_gainStoreWriteOp rfl rfl rfl rfl _ _)
  | chgvWrite => exact outWithin_hostDo (within_chgvWriteOp rfl rfl rfl rfl _)
  | holdWrite => exact outWithin_hostDo (within_regRow rfl rfl _ fun _ => within_holdWriteOp rfl rfl _)
  | rampTableWrite => exact outWithin_hostDo (within_rampTableWriteOp rfl rfl rfl rfl _ _)
  | waitingBeat => exact outWithin_hostDo (within_waitingBeatOp rfl rfl rfl)
  | changeAccept => exact outWithin_hostDo (within_changeAcceptOp rfl rfl)
  | _ => cases hc

theorem referenceCommand_within {c : Instr} (hc : referenceCommand c = true) (s : State) :
    OutWithin referenceParts s (exec c s) := by
  cases c with
  | rscMeasurement => exact outWithin_hostDo (within_rscMeasurementOp rfl rfl rfl _)
  | buildoutComplete => exact outWithin_hostDo (within_buildoutCompleteOp rfl rfl rfl _ _)
  | rscOpen => exact outWithin_hostDo (within_rscOpenOp rfl rfl _)
  | rscClose => exact outWithin_hostDo (within_rscCloseOp rfl rfl _ _)
  | ncoWrite => exact outWithin_hostDo (within_ncoWriteOp rfl rfl _)
  | rscFreerun => exact outWithin_hostDo (within_rscFreerunOp rfl rfl _)
  | disqualification => exact outWithin_hostDo (within_disqualificationOp rfl rfl _)
  | _ => cases hc

theorem remitCommand_within {c : Instr} (hc : remitCommand c = true) (s : State) :
    OutWithin remitParts s (exec c s) := by
  cases c with
  | waitConditionMet => exact outWithin_rmtDo (within_waitConditionMetOp rfl rfl _)
  | rmtStart => exact outWithin_rmtDo (within_rmtBegin rfl rfl _)
  | halt => exact outWithin_rmtDo (within_rmtHalt rfl rfl _)
  | resume => exact outWithin_rmtDo (within_rmtResume rfl rfl _)
  | abort => exact outWithin_rmtDo (within_rmtAbort rfl rfl rfl _)
  | doorbell => exact outWithin_hostDo (within_doorbellOp rfl _)
  | rmtPcWrite => exact outWithin_rmtDo (within_rmtPcWriteOp rfl rfl _ _)
  | channelRetired => exact outWithin_rmtDo (within_channelRetiredOp rfl rfl _)
  | _ => cases hc

/-- The commands that are no memory commands and stand in no class whose frame keeps memory. -/
def otherCommand (c : Instr) : Bool :=
  !(memoryCommand c || fieldCommand c || timeCommand c || networkCommand c || districtCommand c ||
    sinkCommand c || referenceCommand c || remitCommand c)

theorem otherCommand_within {c : Instr} (hc : otherCommand c = true) (s : State) :
    OutWithin offMem s (exec c s) := by
  cases c with
  | rcRead => exact outWithin_hostDo (within_rcReadOp _)
  | clhTransaction => exact outWithin_hostDo (within_clhTransactionOp _ _ _ _ _ _ _ _ _)
  | lockTimeout => exact outWithin_hostDo (within_lockTimeoutOp _)
  | masterResetComplete => exact outWithin_hostDo (within_masterResetCompleteOp _)
  | hspiWrite => exact outWithin_hostDo (within_hspiWriteOp _ _ _)
  | hspiRead => exact outWithin_hostDo (within_hspiReadOp _ _)
  | hostResetRequest | stwResetRequest => exact outWithin_hostDo (within_sysRstWrite _)
  | watchdogKick => exact outWithin_hostDo (within_watchdogKickOp _)
  | trainingComplete => exact outWithin_kwyDo (within_trainingCompleteOp _ _)
  | keywayLinkDown => exact outWithin_kwyDo (within_keywayLinkDownOp _ _)
  | cmdack => exact outWithin_kwyDo (within_hostTake _ _ fun _ _ => within_cmdackOp _)
  | status => exact outWithin_kwyDo (within_hostTake _ _ fun _ _ => within_statusOp _)
  | sense => exact outWithin_kwyDo (within_hostTake _ _ fun _ _ => within_senseOp _)
  | fault => exact outWithin_kwyDo (within_hostTake _ _ fun _ _ => within_faultOp _)
  | fbusToField => exact outWithin_fieldDo rfl (within_fieldTake rfl _ _ fun _ _ => within_fbusToFieldOp _)
  | fbusToHost => exact outWithin_kwyDo (within_hostTake _ _ fun _ _ => within_fbusToHostOp _)
  | fieldHeartbeat => exact outWithin_kwyDo (within_hostTake _ _ fun _ _ => within_fieldHeartbeatOp _)
  | proxyAccess => exact outWithin_hostDo (within_proxyAccessOp _ _ _ _)
  | impedanceEstimate => exact outWithin_chanDo rfl (within_impedanceEstimateOp _ _ _)
  | f0Transmit => exact outWithin_fieldDo rfl (within_f0Attempt _ fun q _ => within_f0Sent q)
  | f0Collision => exact outWithin_fieldDo rfl (within_f0Attempt _ fun q _ => within_f0Collided _ q)
  | portLinkUp => exact outWithin_portDo (within_portLinkUpOp _)
  | portTransmit => exact outWithin_portDo (within_portTransmitOp _ _)
  | pstCutWrite => exact outWithin_hostDo (within_pstCutWriteOp _)
  | pstWinWrite => exact outWithin_hostDo (within_pstWinWriteOp _)
  | firstRunStart => exact outWithin_hostDo (within_firstRunStartOp rfl _ _)
  | contextEnable | contextDisable => exact outWithin_hostDo (within_ctxCmdWrite rfl _)
  | swapGo => exact outWithin_hostDo (within_swapGoOp rfl rfl _)
  | holdWrite => exact outWithin_hostDo (within_regRow rfl rfl _ fun _ => within_holdWriteOp rfl rfl _)
  | ramptWrite => exact outWithin_hostDo (within_regRow rfl rfl _ fun _ => within_ramptWriteOp _ _)
  | dlenWrite => exact outWithin_hostDo (within_dlenWriteOp _ _)
  | sapEnable => exact outWithin_hostDo (within_regRow rfl rfl _ fun _ => within_sapCfgWriteOp rfl rfl _ _)
  | sapAlign => exact outWithin_hostDo (within_regRow rfl rfl _ fun _ => within_sapAlignOp rfl _)
  | tillHold => exact outWithin_hostDo (within_tillHoldOp rfl _ _)
  | tilWmWrite => exact outWithin_hostDo (within_regRow rfl rfl _ fun _ => within_tilWmWriteOp rfl rfl _ _)
  | remitLoop => exact outWithin_rmtExec (fun w => within_loopWord _ w)
  | wait => exact outWithin_rmtExec (fun w => within_waitWord _ w)
  | signal => exact outWithin_rmtExec (fun w => within_signalWord _ w)
  | link => exact outWithin_rmtExec (fun w => within_linkWord _ w)
  | remitEnd => exact outWithin_rmtExec (fun _ => within_endWord _)
  | disable => exact outWithin_rmtDo (within_rmtDisableOne _)
  | engineDisable => exact outWithin_hostDo (within_engineDisableOp _)
  | hngEnable => exact outWithin_hostDo (within_hngEnableOp _)
  | hinge => exact outWithin_hostDo (within_hingeOp _ _ _)
  | change => exact outWithin_hostDo (within_changeOp _ _)
  | fill => exact execFill_within _ s
  | keywayMessageLaunch => exact execKeywayMessageLaunch_within _ s
  | tillWordSent => exact outWithin_hostDo (within_tillWordSentOp rfl _)
  | arbAdvance => exact outWithin_hostDo (within_arbAdvanceOp _)
  | setTime => exact outWithin_hostDo (within_setTimeOp _)
  | mgmtQuery => exact outWithin_hostDo (within_mgmtQueryOp _ _)
  | restart => exact outWithin_hostDo (within_restartOp _)
  | hspiPostedWriteError => exact outWithin_hostDo (within_hspiPostedWriteErrorOp _)
  | braceState => exact outWithin_hostDo (within_braceStateOp _)
  | syncInterval => exact outWithin_hostDo (within_syncIntervalOp _)
  | stewardRingPlaceFreed => exact outWithin_portDo (within_ringPlaceFreedOp rfl rfl rfl _)
  | pcsCodeError => exact outWithin_portDo (within_pcsCodeErrorOp _)
  | tcntLoRead => exact outWithin_hostDo (within_tcntLoReadOp)
  | kwyFlogRead =>
    exact outWithin_next (within_ite (within_kwyFlogReadOp (Within.refl _ s)) (within_answer rfl _ _ (Within.refl _
      s)))
  | arbFusesBlown => exact outWithin_hostDo (within_arbFusesBlownOp)
  | xspEraseSector | xspProgramPage => exact outWithin_hostDo (within_xspCmdWrite _)
  | hspiStatus => exact outWithin_hostDo (within_hspiStatusOp)
  | hspiSync => exact outWithin_hostDo (within_hspiSyncOp)
  | hspiId => exact outWithin_hostDo (within_hspiIdOp)
  | hspiReset => exact outWithin_hostDo (within_hspiResetOp)
  | hspiCsNRise => exact outWithin_hostDo (within_hspiCsNRiseOp)
  | fprsntNRelease => exact execFprsntNRelease_within s
  | lockstepMismatch => exact outWithin_hostDo (within_lockstepOp)
  | stewardReset => exact outWithin_hostDo (within_stewardResetOp)
  | watchdogExpiry => exact outWithin_hostDo (within_watchdogExpiryOp)
  | ledgerClearComplete => exact outWithin_hostDo (within_ledgerClearCompleteOp)
  | fieldSupplyGood => exact execFieldSupplyGood_within s
  | rootLossOfLock => exact outWithin_hostDo (within_rootLossOp)
  | xoFailure => exact outWithin_hostDo (within_xoFailureOp)
  | lanesAligned => exact outWithin_kwyDo (within_lanesAlignedOp _)
  | cmdTimeout => exact outWithin_kwyDo (within_cmdTimeoutOp)
  | fhbloss => exact outWithin_kwyDo (within_fhblossOp)
  | f0BackoffEnd => exact outWithin_fieldDo rfl (within_f0BackoffEndOp)
  | heartbeatLoss => exact outWithin_hostDo (within_heartbeatLossOp)
  | split => exact outWithin_hostDo (within_splitOp)
  | give => exact outWithin_hostDo (within_giveOp)
  | hngReturn => exact outWithin_hostDo (within_returnOp)
  | releaseSwitchOpen => exact outWithin_hostDo (within_releaseSwitchOpenOp)
  | releaseHswtElapsed => exact outWithin_hostDo (within_releaseHswtElapsedOp)
  | _ => cases hc

/-- What a re-point changes: while the sequencer is paused the folio of the entry cut is cut again (R779). -/
abbrev repointParts : Parts :=
  { ans := true, free := true, ldg := true, mem := true, pst := true, regs := true, tel := true }

/-- What a re-point changes while the sequencer runs: no folio is cut again. -/
abbrev postedRepointParts : Parts := { ans := true, ldg := true, regs := true }

/-- What a freed place of the Steward's ring changes. -/
abbrev ringParts : Parts := { net := true, regs := true, rsc := true }

theorem execRepoint_within (v : Word) (s : State) : OutWithin repointParts s (execRepoint v s) :=
  outWithin_hostDo (within_regRow rfl rfl _ fun _ => within_repointWriteOp rfl rfl rfl rfl rfl rfl _)

theorem execStewardRingPlaceFreed_within (n : Nat) (s : State) :
    OutWithin ringParts s (execStewardRingPlaceFreed n s) :=
  outWithin_portDo (within_ringPlaceFreedOp rfl rfl rfl _)

theorem Within.mem_eq {s t : State} (h : Within m s t) (hm : m.mem = false) : t.mem = s.mem := by
  simpa [State.outside, hm] using congrArg State.mem h

theorem Within.pst_eq {s t : State} (h : Within m s t) (hm : m.pst = false) : t.pst = s.pst := by
  simpa [State.outside, hm] using congrArg State.pst h

/-- A register that the frame does not leave open. -/
theorem Within.reg_eq {s t : State} (h : Within m s t) {a : Nat} (ha : m.opens a = false) : t.reg a = s.reg a := by
  have hk : (!m.opens a) = true := by simp [ha]
  have e : aget (t.outside m).regs (regReset a) a = aget (s.outside m).regs (regReset a) a := by rw [h]
  simp only [State.outside, aget_filter (p := fun a => !m.opens a) hk] at e
  exact e

/-- Without a pause no folio is cut again, and the row is the re-point alone. -/
theorem repointWriteOp_unpaused {s : State} (v : Word) (hp : s.pst.paused = false) :
    repointWriteOp v s = repointOp v s := by
  have hpst : (repointOp v s).pst = s.pst :=
    (within_repointOp (m := { ldg := true, regs := true }) rfl rfl v (Within.refl _ s)).pst_eq rfl
  unfold repointWriteOp
  dsimp only
  rw [hpst, hp]
  split <;> rfl

theorem execRepoint_within_unpaused (v : Word) {s : State} (hp : s.pst.paused = false) :
    OutWithin postedRepointParts s (execRepoint v s) := by
  have hrow : Within postedRepointParts s (regRow Reg.LDG_REPTB (repointWriteOp v) s) := by
    unfold regRow
    rw [repointWriteOp_unpaused v hp]
    exact within_regRow rfl rfl _ (fun _ => within_repointOp rfl rfl v) (Within.refl _ s)
  exact outWithin_next (within_ite hrow (Within.refl _ s))

theorem mem_eq_of_not_memoryCommand {c : Instr} {s t : State} (hc : memoryCommand c = false) (ht : exec c s = .next t) :
    t.mem = s.mem := by
  by_cases hfield : fieldCommand c = true
  · exact (fieldCommand_within hfield s t ht).mem_eq rfl
  by_cases htime : timeCommand c = true
  · exact (timeCommand_within htime s t ht).mem_eq rfl
  by_cases hnet : networkCommand c = true
  · exact (networkCommand_within hnet s t ht).mem_eq rfl
  by_cases hdis : districtCommand c = true
  · exact (districtCommand_within hdis s t ht).mem_eq rfl
  by_cases hsink : sinkCommand c = true
  · exact (sinkCommand_within hsink s t ht).mem_eq rfl
  by_cases href : referenceCommand c = true
  · exact (referenceCommand_within href s t ht).mem_eq rfl
  by_cases hrmt : remitCommand c = true
  · exact (remitCommand_within hrmt s t ht).mem_eq rfl
  have hother : otherCommand c = true := by
    simp [otherCommand, hc, hfield, htime, hnet, hdis, hsink, href, hrmt]
  exact (otherCommand_within hother s t ht).mem_eq rfl

/-! ### From what stands outside the parts to the parts -/

/-- `s` with the parts `m` of `t`. -/
def State.patch (m : Parts) (s t : State) : State where
  pending := s.pending
  clock := s.clock
  slotId := s.slotId
  setNow := t.setNow
  free := if m.free then t.free else s.free
  ans := if m.ans then t.ans else s.ans
  regs := t.regs
  mem := if m.mem then t.mem else s.mem
  fuse := if m.fuse then t.fuse else s.fuse
  pwr := if m.pwr then t.pwr else s.pwr
  boot := if m.boot then t.boot else s.boot
  xsp := if m.xsp then t.xsp else s.xsp
  tim := if m.tim then t.tim else s.tim
  rsc := if m.rsc then t.rsc else s.rsc
  clh := if m.clh then t.clh else s.clh
  rmt := if m.rmt then t.rmt else s.rmt
  sap := if m.sap then t.sap else s.sap
  til := if m.til then t.til else s.til
  hsp := if m.hsp then t.hsp else s.hsp
  dis := if m.dis then t.dis else s.dis
  hng := if m.hng then t.hng else s.hng
  ldg := if m.ldg then t.ldg else s.ldg
  pst := if m.pst then t.pst else s.pst
  tel := if m.tel then t.tel else s.tel
  out := if m.out then t.out else s.out
  kwy := if m.kwy then t.kwy else s.kwy
  field := if m.field then t.field else s.field
  net := if m.net then t.net else s.net

theorem eq_ite_of_ite_eq {α : Type} {b : Bool} {d x y : α} (h : (if b then d else y) = if b then d else x) :
    y = if b then y else x := by
  cases b
  · exact h
  · rfl

/-- A command within the parts `m` leaves the state as it was but for them. -/
theorem Within.eq_patch {s t : State} (h : Within m s t) : t = s.patch m t := by
  simp only [Within, State.outside, State.mk.injEq] at h
  obtain ⟨hpending, hclock, hfree, hans, -, -, hmem, hslotId, hfuse, hpwr, hboot, hxsp, htim, hrsc, hclh, hrmt,
    hsap, htil, hhsp, hdis, hhng, hldg, hpst, htel, hout, hkwy, hfield, hnet⟩ := h
  cases t
  rw [State.patch, State.mk.injEq]
  exact ⟨hpending, hclock, eq_ite_of_ite_eq hfree, eq_ite_of_ite_eq hans, rfl, rfl, eq_ite_of_ite_eq hmem, hslotId,
    eq_ite_of_ite_eq hfuse, eq_ite_of_ite_eq hpwr, eq_ite_of_ite_eq hboot, eq_ite_of_ite_eq hxsp, eq_ite_of_ite_eq
    htim, eq_ite_of_ite_eq hrsc, eq_ite_of_ite_eq hclh, eq_ite_of_ite_eq hrmt, eq_ite_of_ite_eq hsap,
    eq_ite_of_ite_eq htil, eq_ite_of_ite_eq hhsp, eq_ite_of_ite_eq hdis, eq_ite_of_ite_eq hhng, eq_ite_of_ite_eq
    hldg, eq_ite_of_ite_eq hpst, eq_ite_of_ite_eq htel, eq_ite_of_ite_eq hout, eq_ite_of_ite_eq hkwy,
    eq_ite_of_ite_eq hfield, eq_ite_of_ite_eq hnet⟩

theorem onlyField_of_within {s t : State} (h : Within fieldParts s t) : onlyField s t := by
  refine ⟨h.eq_patch, fun a ha => h.reg_eq ?_⟩
  simp only [Parts.opens, fieldReg, Bool.false_or, Bool.true_and, decide_eq_false_iff_not]
  omega

/-- Settles O55: every command stays within the parts of its class; the frames are these parts written out. -/
theorem commandFrames : Obligations.CommandFrames := by
  intro c s t ht
  refine ⟨fun hc => (tellerCommand_within hc s t ht).eq_patch,
    fun hc => onlyField_of_within (fieldCommand_within hc s t ht),
    fun hc => (timeCommand_within hc s t ht).eq_patch,
    fun hc => (networkCommand_within hc s t ht).eq_patch,
    fun hc => (districtCommand_within hc s t ht).eq_patch,
    fun hc => (sinkCommand_within hc s t ht).eq_patch,
    fun hc => (audioPortCommand_within hc s t ht).eq_patch,
    fun hc => (ledgerCommand_within hc s t ht).eq_patch,
    ?_, ?_,
    fun hc => (referenceCommand_within hc s t ht).eq_patch,
    fun hc => (remitCommand_within hc s t ht).eq_patch,
    fun hc => mem_eq_of_not_memoryCommand hc ht⟩
  · rintro v rfl
    exact ⟨(execRepoint_within v s t ht).eq_patch, fun hp => (execRepoint_within_unpaused v hp t ht).eq_patch⟩
  · rintro n rfl
    exact (execStewardRingPlaceFreed_within n s t ht).eq_patch

end Sys2Proof.Machine
end

section
/-! PROOF. Register writes by access type, reads that answer and clear (R20 to R26, R413, R590). -/

namespace Sys2Proof.Machine

/-! ### Words as bytes -/

theorem length_leBytes (v n : Nat) : (leBytes v n).length = n := by
  induction n generalizing v with
  | zero => rfl
  | succ n ih => simp [leBytes, ih]

theorem leNat_leBytes (v n : Nat) : leNat (leBytes v n) = v % 256 ^ n := by
  induction n generalizing v with
  | zero => simp [leBytes, leNat, Nat.mod_one]
  | succ n ih => simp [leBytes, leNat, ih, Nat.pow_succ', Nat.mod_mul]

theorem wd_leNat_leBytes (v : Word) : wd (leNat (leBytes v.toNat 4)) = v := by
  have hv : v.toNat % 256 ^ 4 = v.toNat := Nat.mod_eq_of_lt v.isLt
  rw [leNat_leBytes, hv, wd, BitVec.ofNat_toNat, BitVec.setWidth_eq]

/-- Bytes without strobes are one run. -/
theorem strobeRuns_nil (a : Nat) (b : Byte) (l : List Byte) : strobeRuns a (b :: l) [] = [(a, b :: l)] := by
  induction l generalizing a b with
  | nil => rfl
  | cons c l ih =>
    rw [strobeRuns]
    simp [ih]

theorem strobeRuns_leBytes (a v n : Nat) : strobeRuns a (leBytes v (n + 1)) [] = [(a, leBytes v (n + 1))] :=
  strobeRuns_nil a _ _

/-! ### The access rules at a register block -/

section
variable {s : State} {m : Master} {a : Nat} {wr : Bool}

theorem regionOf_register (h : 0x60000000 ≤ a) (h' : a < 0x60200000) :
    regionOf a = if a < 0x601F0000 then some (isWide, (4, true)) else none := by
  simp (disch := omega) only [regionOf, if_neg, if_pos]

/-- An access that breaks no rule lies in a region. -/
theorem regionOf_ne_none {size beats : Nat} (hc : s.accessCause m wr a size beats = 0) : regionOf a ≠ none := by
  intro h
  simp [State.accessCause, h] at hc

theorem unitAt_register (h : 0x60000000 ≤ a) (h' : a < 0x60200000) (hc : s.accessCause m wr a 4 1 = 0) :
    unitAt a = 4 := by
  have hr := regionOf_ne_none hc
  rw [regionOf_register h h'] at hr
  rw [unitAt, regionOf_register h h']
  split at hr
  · rename_i hlt
    simp [hlt]
  · exact absurd rfl hr

/-- An access of a word that breaks no rule is aligned (R60). -/
theorem aligned_of_accessCause (hc : s.accessCause m wr a 4 1 = 0) : a % 4 = 0 := by
  unfold State.accessCause at hc
  split at hc
  · cases hc
  · split at hc
    · cases hc
    · simp_all [sizeOk]

theorem singleWord_of_range (h : 0x60000000 ≤ a) (h' : a < 0x70000000) : singleWord a = true := by
  simp only [singleWord, decide_eq_true_eq]
  omega

theorem inProxy_of_range (h' : a < 0x70000000) : inProxy a = false := by
  simp only [inProxy, decide_eq_false_iff_not]
  omega

theorem inProxy_window (h : 0x70000000 ≤ a) (h' : a < 0x70100000) : inProxy a = true := by
  simp [inProxy, h, h']

/-! ### Register accesses -/

/-- A word that breaks no rule is written at the register blocks as a register write. -/
theorem busWrite_register (v : Word) (h : 0x60000000 ≤ a) (h' : a < 0x60200000) (hc : s.accessCause m true a 4 1 = 0) :
    busWrite m 0 a 4 1 (leBytes v.toNat 4) [] s =
      if (regWrite m a v s).1 then (.ok, (regWrite m a v s).2)
      else (.err, clhError m 0 true a 5 (regWrite m a v s).2) := by
  have hdata : (leBytes v.toNat 4).take (4 * 1) ++ List.replicate (4 * 1 - (leBytes v.toNat 4).length) 0 =
      leBytes v.toNat 4 := by
    rw [length_leBytes, List.take_of_length_le (by rw [length_leBytes])]
    exact List.append_nil _
  have hwhole : runsWhole (unitAt a) [(a, leBytes v.toNat 4)] = true := by
    simp [runsWhole, unitAt_register h h' hc, aligned_of_accessCause hc, length_leBytes]
  unfold busWrite
  simp only [hdata, strobeRuns_leBytes, hc, hwhole]
  simp [h, h', wd_leNat_leBytes]

/-- A word that breaks a rule is not written (R590). -/
theorem busWrite_refused (data : List Byte) (strobes : List Bool) {id size beats : Nat}
    (hc : s.accessCause m true a size beats ≠ 0) :
    busWrite m id a size beats data strobes s = (.err, clhError m id true a (s.accessCause m true a size beats) s) := by
  simp [busWrite, hc]

theorem plainBlock_range (hp : plainBlock a) : 0x60000000 ≤ a ∧ a < 0x60200000 := by
  unfold plainBlock at hp
  omega

theorem regPerform_plainBlock (hp : plainBlock a) (m : Master) (v : Word) (s : State) :
    regPerform m a v s = s.typeWrite a v := by
  unfold regPerform
  rcases hp with hp | hp | hp <;> rw [hp] <;> rfl

theorem typeWrite_eq {r : RegSpec} (hr : regSpec? a = some r) (v : Word) (s : State) :
    s.typeWrite a v = s.setReg a (writeByType r (s.reg a) v ||| (s.setHere a &&& wd r.w1c)) := by
  rw [State.typeWrite, hr]

theorem clearRC_eq {r : RegSpec} (hr : regSpec? a = some r) (s : State) :
    s.clearRC a = s.setReg a ((s.reg a &&& ~~~(wd r.rc)) ||| (s.setHere a &&& wd r.rc)) := by
  rw [State.clearRC, hr]

theorem regWrite_plainBlock {r : RegSpec} (hp : plainBlock a) (hr : regSpec? a = some r) (m : Master) (v : Word)
    (s : State) :
    regWrite m a v s = (true, s.setReg a (writeByType r (s.reg a) v ||| (s.setHere a &&& wd r.w1c))) := by
  have hne : a ≠ Reg.LDG_CHGV := by
    rintro rfl
    revert hp
    decide
  rw [regWrite, regPerform_plainBlock hp, typeWrite_eq hr, if_neg hne]
  rfl

/-- What a refused access notes leaves memory. -/
theorem mem_clhError (id addr cause : Nat) : (clhError m id wr addr cause s).mem = s.mem :=
  (within_clhError (m := { regs := true }) rfl m id wr addr cause (Within.refl _ s)).mem_eq rfl

/-- A refused access sets CLH_EVT.ERR. -/
theorem rb_clhError (id addr cause : Nat) : (clhError m id wr addr cause s).rb Reg.CLH_EVT 0 = true := by
  have herr := rb_evt (s.count Reg.CLH_CNT_ERR 1 56) (a := Reg.CLH_EVT) (i := 0) (by decide) (by decide)
  unfold clhError
  dsimp only
  split
  · exact herr
  · rw [State.rb, reg_setReg_ne _ _ (by decide), reg_raise_ne _ _ (by decide), reg_setReg_ne _ _ (by decide)]
    exact herr

/-- A read of a register that shows and changes nothing besides its RC fields. -/
theorem readEffect_plain (ha : a ∉ readsOtherwise) (s : State) : readEffect a s = s.clearRC a := by
  simp only [readsOtherwise, List.mem_cons, List.not_mem_nil, or_false, not_or] at ha
  obtain ⟨htcnt, hfolio, hflog, htemp, hgain, hskew, hctx⟩ := ha
  rw [readEffect, if_neg htcnt, if_neg hfolio, if_neg hflog, if_neg htemp, if_neg hgain, if_neg hskew, if_neg hctx]

theorem busRead_register (h : 0x60000000 ≤ a) (h' : a < 0x60200000) (hc : s.accessCause m false a 4 1 = 0) :
    busRead m 0 a 4 1 s = ((.ok, leBytes (s.regView a).toNat 4), readEffect a s) := by
  simp [busRead, hc, h, h', regRead]

theorem hostDo_live (hl : s.hostLive = true) (f : State → State) : hostDo s f = .next (f s) := by
  rw [hostDo, if_pos hl]

theorem registerWriteOp_word (h : 0x60000000 ≤ a) (h' : a < 0x70000000) (v : Word) :
    registerWriteOp m a v s =
      (busWrite m 0 a 4 1 (leBytes v.toNat 4) [] s).2.answer (busWrite m 0 a 4 1 (leBytes v.toNat 4) [] s).1 [] := by
  rw [registerWriteOp, inProxy_of_range h', singleWord_of_range h h']
  rfl

theorem rcReadOp_word (h : 0x60000000 ≤ a) (h' : a < 0x70000000) :
    rcReadOp a s = (busRead .stw 0 a 4 1 s).2.answer (busRead .stw 0 a 4 1 s).1.1 (busRead .stw 0 a 4 1 s).1.2 := by
  rw [rcReadOp, inProxy_of_range h', singleWord_of_range h h']
  rfl

end

/-! ### The parts of the statement -/

theorem exec_registerWrite_plainBlock {s : State} {a : Nat} {r : RegSpec} (m : Master) (v : Word)
    (hl : s.hostLive = true) (hp : plainBlock a) (hr : regSpec? a = some r) (hc : s.accessCause m true a 4 1 = 0) :
    exec (.registerWrite m a v) s =
      .next ((s.setReg a (writeByType r (s.reg a) v ||| (s.setHere a &&& wd r.w1c))).answer .ok []) := by
  obtain ⟨h, h'⟩ := plainBlock_range hp
  change hostDo s (registerWriteOp m a v) = _
  rw [hostDo_live hl, registerWriteOp_word h (by omega), busWrite_register v h h' hc, regWrite_plainBlock hp hr]
  rfl

theorem getLsbD_writeByType (r : RegSpec) (old v : Word) {i : Nat} (hi : i < 32) : (writeByType r old v).getLsbD i =
    if (wd r.w1s).getLsbD i then old.getLsbD i || v.getLsbD i
    else if (wd r.rw).getLsbD i then v.getLsbD i || ((wd r.w1c).getLsbD i && old.getLsbD i && !v.getLsbD i)
    else if (wd r.w1c).getLsbD i then old.getLsbD i && !v.getLsbD i
    else old.getLsbD i := by
  simp only [writeByType, BitVec.getLsbD_or, BitVec.getLsbD_and, BitVec.getLsbD_not, hi, decide_true, Bool.true_and]
  by_cases hs : (wd r.w1s).getLsbD i
  · simp only [hs]
    cases old.getLsbD i <;> cases v.getLsbD i <;> simp
  by_cases hrw : (wd r.rw).getLsbD i
  · simp [hs, hrw, Bool.and_comm, Bool.and_left_comm]
  by_cases hc : (wd r.w1c).getLsbD i
  · simp [hs, hrw, hc]
  · simp [hs, hrw, hc]

theorem exec_registerWrite_refused {s : State} {a : Nat} (m : Master) (v : Word) (hl : s.hostLive = true)
    (h : 0x60000000 ≤ a) (h' : a < 0x70000000) (hc : s.accessCause m true a 4 1 ≠ 0) :
    ∃ t, exec (.registerWrite m a v) s = .next t ∧ t.ans = ⟨.err, []⟩ ∧ t.mem = s.mem ∧ t.rb Reg.CLH_EVT 0 = true := by
  refine ⟨_, hostDo_live hl _, ?_⟩
  rw [registerWriteOp_word h h', busWrite_refused _ _ hc]
  exact ⟨rfl, mem_clhError _ _ _, rb_clhError _ _ _⟩

theorem exec_registerWrite_window {a : Nat} (m : Master) (v : Word) (s : State) (h : 0x70000000 ≤ a)
    (h' : a < 0x70100000) : exec (.registerWrite m a v) s = exec (.proxyAccess m true a v) s := by
  have hop : registerWriteOp m a v = proxyAccessOp m true a v := by
    funext s
    rw [registerWriteOp, inProxy_window h h']
    rfl
  exact congrArg (hostDo s) hop

theorem exec_rcRead_register {s : State} {a : Nat} {r : RegSpec} (hl : s.hostLive = true) (h : 0x60000000 ≤ a)
    (h' : a < 0x60200000) (hc : s.accessCause .stw false a 4 1 = 0) (hr : regSpec? a = some r)
    (ha : a ∉ readsOtherwise) :
    ∃ t, exec (.rcRead a) s = .next t ∧ t.ans = ⟨.ok, leBytes (s.regView a).toNat 4⟩ ∧
      t.reg a = ((s.reg a &&& ~~~(wd r.rc)) ||| (s.setHere a &&& wd r.rc)) ∧ ∀ b, b ≠ a → t.reg b = s.reg b := by
  refine ⟨_, hostDo_live hl _, ?_⟩
  rw [rcReadOp_word h (by omega), busRead_register h h' hc, readEffect_plain ha, clearRC_eq hr]
  exact ⟨rfl, reg_setReg_same _ _ _, fun b hb => reg_setReg_ne _ _ hb⟩

theorem exec_rcRead_window {a : Nat} (s : State) (h : 0x70000000 ≤ a) (h' : a < 0x70100000) :
    exec (.rcRead a) s = exec (.proxyAccess .stw false a 0) s := by
  have hop : rcReadOp a = proxyAccessOp .stw false a 0 := by
    funext s
    rw [rcReadOp, inProxy_window h h']
    rfl
  exact congrArg (hostDo s) hop

theorem exec_kwyFlogRead_without_keyway {s : State} (hA : s.isA = false) :
    exec .kwyFlogRead s = .next (s.answer .ok [0, 0, 0, 0]) := by
  change Host.Outcome.next (if s.isA then kwyFlogReadOp s else s.answer .ok (leBytes 0 4)) = _
  rw [hA]
  rfl

/-- The oldest FAULT leaves the log; with no overflow marked it is answered alone. -/
theorem kwyFlogReadOp_cons {s : State} {e : FaultRec} {l : List FaultRec} (hlog : s.kwy.log = e :: l)
    (hovf : s.kwy.logOvf = false) (hnote : s.noted (regKey Reg.KWY_FLOG 0) = 0) :
    kwyFlogReadOp s = { s with kwy := { s.kwy with log := l, logOvf := false } }.answer .ok
      (leBytes (2147483648 + e.blk % 16 * 16777216 + e.bit % 32 * 65536 + e.chan % 256 * 256 + e.cause % 256) 4) := by
  rw [kwyFlogReadOp, hlog, hovf, hnote]
  rfl

theorem exec_kwyFlogRead_cons {s : State} {e : FaultRec} {l : List FaultRec} (hA : s.isA = true)
    (hlog : s.kwy.log = e :: l) (hovf : s.kwy.logOvf = false) (hnote : s.noted (regKey Reg.KWY_FLOG 0) = 0) :
    exec .kwyFlogRead s = .next ({ s with kwy := { s.kwy with log := l, logOvf := false } }.answer .ok
      (leBytes (2147483648 + e.blk % 16 * 16777216 + e.bit % 32 * 65536 + e.chan % 256 * 256 + e.cause % 256) 4)) := by
  change Host.Outcome.next (if s.isA then kwyFlogReadOp s else s.answer .ok (leBytes 0 4)) = _
  rw [if_pos hA, kwyFlogReadOp_cons hlog hovf hnote]

/-- Settles O7, part by part. -/
theorem registerAccess : Obligations.RegisterAccess :=
  ⟨⟨fun _ m _ v _ => exec_registerWrite_plainBlock m v, fun r old v _ => getLsbD_writeByType r old v,
    fun _ m _ v => exec_registerWrite_refused m v, fun s m _ v => exec_registerWrite_window m v s⟩,
    fun _ _ _ => exec_rcRead_register, fun s _ => exec_rcRead_window s, fun _ => exec_kwyFlogRead_without_keyway,
    fun _ _ _ => exec_kwyFlogRead_cons⟩

end Sys2Proof.Machine
end

section
/-! PROOF. What the effects of tasks leave unchanged (R111, R123 to R128, R143, R144): registers, contexts, Tellers and
folios through commits, taps and entries, and through the end of a run (R215, R218). -/

namespace Sys2Proof.Machine

/-! ### Folios in flight, by number -/

theorem n_of_fol? {s : State} {n : Nat} {f : Fol} (h : s.fol? n = some f) : f.n = n := by
  simpa using List.find?_some h

/-- A folio replaced stands wherever one of its number stood. -/
theorem fol?_setFol (s : State) (f : Fol) (n : Nat) :
    (s.setFol f).fol? n = if f.n = n then (s.fol? n).map (fun _ => f) else s.fol? n := by
  have hn : ((fun g : Fol => g.n == n) ∘ fun g => if g.n = f.n then f else g) = fun g => g.n == n := by
    funext g
    dsimp only [Function.comp]
    split <;> simp [*]
  simp only [State.fol?, State.setFol, State.setPst, List.find?_map]
  rw [hn]
  cases hg : s.pst.fols.find? fun g => g.n == n with
  | none => simp
  | some g =>
    have hgn : g.n = n := by simpa using List.find?_some hg
    by_cases hf : f.n = n
    · simp [hf, hgn]
    · simp [hf, hgn, Ne.symm hf]

theorem fol?_setFol_same {s : State} {f g : Fol} (h : s.fol? f.n = some g) : (s.setFol f).fol? f.n = some f := by
  rw [fol?_setFol, if_pos rfl, h]
  rfl

theorem fol?_updFol_same {s : State} {n : Nat} {f : Fol} {g : Fol → Fol} (h : s.fol? n = some f) (hn : (g f).n = f.n) :
    (s.updFol n g).fol? n = some (g f) := by
  have hgn : (g f).n = n := hn.trans (n_of_fol? h)
  simp only [State.updFol, h]
  rw [fol?_setFol, if_pos hgn, h]
  rfl

/-- Every folio in flight shows the same through `π` in both states. -/
def SameFols {α : Type} (π : Fol → α) (u s : State) : Prop := ∀ n, (s.fol? n).map π = (u.fol? n).map π

section
variable {α : Type} {π : Fol → α} {u s : State}

theorem SameFols.of_pst {t : State} (h : SameFols π u s) (hp : t.pst.fols = s.pst.fols) : SameFols π u t := by
  intro n
  rw [← h n, State.fol?, State.fol?, hp]

theorem SameFols.fol? {n : Nat} {f : Fol} (h : SameFols π u s) (hf : u.fol? n = some f) :
    ∃ f', s.fol? n = some f' ∧ π f' = π f := by
  have hn := h n
  rw [hf] at hn
  simpa using hn

theorem sameFols_setFol {f g : Fol} (h : SameFols π u s) (hg : s.fol? f.n = some g) (hπ : π f = π g) :
    SameFols π u (s.setFol f) := by
  intro n
  rw [fol?_setFol, ← h n]
  split
  · rename_i hn
    subst hn
    simp [hg, hπ]
  · rfl

theorem sameFols_updFol {n : Nat} {g : Fol → Fol} (h : SameFols π u s) (hn : ∀ f, (g f).n = f.n)
    (hπ : ∀ f, π (g f) = π f) : SameFols π u (s.updFol n g) := by
  unfold State.updFol
  split
  · rename_i f hf
    have hgf : s.fol? (g f).n = some f := by rw [hn, n_of_fol? hf, hf]
    exact sameFols_setFol h hgf (hπ f)
  · exact h

end

/-! ### The registers that effects of tasks write -/

/-- The registers that commits, taps and the ends of runs may write: the taps (R143, R144), TEL_LOAD and PST_REVMAX, the signals and
events of the journal (R127), and what a refused transaction is recorded in (R609). -/
def taskReg (a : Nat) : Bool :=
  [Reg.PST_REVMAX, Reg.EVT_RAW 1, Reg.EVT_SUM, Reg.TEL_SWEV, Reg.RMT_TSIG, Reg.CLH_EVT, Reg.CLH_ERRINFO,
    Reg.CLH_ERRADDR, Reg.CLH_CNT_ERR].contains a ||
  decide (Reg.PST_TAPST 0 ≤ a ∧ a < Reg.PST_TAPST 4) || decide (Reg.PST_TAPBUF 0 ≤ a ∧ a < Reg.PST_TAPBUF 2048) ||
  decide (Reg.TEL_LOAD 0 ≤ a ∧ a < Reg.TEL_LOAD 64)

/-- The registers outside `taskReg` hold what they held. -/
def RegsKept (u s : State) : Prop := ∀ a, taskReg a = false → s.reg a = u.reg a

theorem ne_of_taskReg {a b : Nat} (ha : taskReg a = false) (hb : taskReg b = true) : a ≠ b := by
  rintro rfl
  rw [ha] at hb
  cases hb

theorem reg_count_ne (s : State) {a b : Nat} (n k : Nat) (h : b ≠ a) (h' : b ≠ Reg.EVT_RAW 1) :
    (s.count a n k).reg b = s.reg b := by
  simp only [State.count]
  split
  · rw [reg_raise_ne _ _ h', reg_setReg_ne _ _ h]
  · rw [reg_setReg_ne _ _ h]

theorem reg_evtIf_ne (s : State) {a b i : Nat} (c : Bool) (h : b ≠ a) (h' : b ≠ Reg.EVT_SUM) :
    (s.evtIf c a i).reg b = s.reg b := by
  unfold State.evtIf
  split
  · exact reg_evt_ne _ h h'
  · rfl

section
variable {u s : State}

theorem RegsKept.trans {t : State} (h : RegsKept u s) (k : RegsKept s t) : RegsKept u t :=
  fun a ha => (k a ha).trans (h a ha)

theorem RegsKept.of_regs {t : State} (h : RegsKept u s) (e : t.regs = s.regs) : RegsKept u t := fun a ha => by
  rw [← h a ha, State.reg, State.reg, e]

theorem regsKept_setReg {b : Nat} (hb : taskReg b = true) (v : Word) (h : RegsKept u s) : RegsKept u (s.setReg b v) :=
  fun a ha => (reg_setReg_ne _ _ (ne_of_taskReg ha hb)).trans (h a ha)

theorem regsKept_raise {b : Nat} (hb : taskReg b = true) (v : Word) (h : RegsKept u s) : RegsKept u (s.raise b v) :=
  fun a ha => (reg_raise_ne _ _ (ne_of_taskReg ha hb)).trans (h a ha)

theorem regsKept_latchFld {b : Nat} (hb : taskReg b = true) (hi lo v : Nat) (h : RegsKept u s) :
    RegsKept u (s.latchFld b hi lo v) :=
  fun a ha => (reg_setReg_ne s _ (ne_of_taskReg ha hb)).trans (h a ha)

theorem regsKept_clhError (m : Master) (id : Nat) (wr : Bool) (addr cause : Nat) (h : RegsKept u s) :
    RegsKept u (clhError m id wr addr cause s) := by
  have herr : RegsKept u ((s.count Reg.CLH_CNT_ERR 1 56).evt Reg.CLH_EVT 0) := fun a ha => by
    rw [reg_evt_ne _ (ne_of_taskReg ha (by decide)) (ne_of_taskReg ha (by decide)),
      reg_count_ne _ _ _ (ne_of_taskReg ha (by decide)) (ne_of_taskReg ha (by decide)), h a ha]
  unfold clhError
  dsimp only
  split
  · exact herr
  · exact regsKept_setReg (by decide) _ (regsKept_raise (by decide) _ (regsKept_setReg (by decide) _ herr))

theorem regsKept_request (t : Txn) (h : RegsKept u s) : RegsKept u (request t s) := by
  have hrefuse : ∀ r cause, RegsKept u (clhRefuse t r cause s) := fun _ cause =>
    (regsKept_clhError t.m t.id t.wr t.addr cause h).of_regs rfl
  have hlock : RegsKept u (lockRefuse t s) := by
    unfold lockRefuse
    dsimp only
    split
    · exact (hrefuse .lkerr 6).of_regs rfl
    · exact hrefuse .lkerr 6
  unfold request
  extract_lets c d
  split
  · exact h
  split
  · exact hrefuse _ _
  split
  · exact hlock
  split
  · exact hrefuse _ _
  · exact h

theorem RegsKept.of_within {m : Parts} {t : State} (h : RegsKept u s) (hw : Within m s t)
    (hm : ∀ a, m.opens a = false) : RegsKept u t :=
  fun a ha => (hw.reg_eq (hm a)).trans (h a ha)

theorem regsKept_performJ (r : JRec) (h : RegsKept u s) : RegsKept u (performJ r s) := by
  unfold performJ
  split
  · refine h.of_within (m := { mem := true }) (within_foldl (Within.refl _ _) fun _ _ ht => ?_) fun _ => rfl
    exact within_ite (within_wrByte rfl _ _ ht) ht
  · exact regsKept_request _ h
  · exact regsKept_raise (by decide) _ h
  · exact regsKept_raise (by decide) _ h

theorem regsKept_performList (l : List (JRec × Bool)) (h : RegsKept u s) : RegsKept u (performList l s).2 := by
  fun_induction performList l s
  case case5 ih => exact ih (regsKept_performJ _ h)
  case case4 => exact regsKept_performJ _ h
  all_goals exact h

theorem regsKept_capture {t : Nat} (ht : t < 4) (n : Nat) (f : Nat → Word) (h : RegsKept u s) :
    RegsKept u (capture t n f s) := by
  have hst : taskReg (Reg.PST_TAPST t) = true := by simp [taskReg]; omega
  have hbuf : ∀ i, taskReg (Reg.PST_TAPBUF (512 * t + i % 512)) = true := by intro i; simp [taskReg]; omega
  have hfold : ∀ (l : List Nat) (i : Nat), RegsKept u
      (l.foldl (fun s j => s.setReg (Reg.PST_TAPBUF (512 * t + (i + j) % 512)) (f j)) s) := fun l i =>
    List.foldlRecOn l _ h fun _ hb j _ => regsKept_setReg (hbuf (i + j)) _ hb
  exact regsKept_setReg hst _ (hfold (List.range 8) (s.rf (Reg.PST_TAPST t) 8 0))

theorem regsKept_tapPoint (point n : Nat) (p : Nat → Bool) (f : Nat → Nat → Word) (h : RegsKept u s) :
    RegsKept u (tapPoint point n p f s) := by
  unfold tapPoint
  refine List.foldlRecOn _ _ h fun b hb t ht => ?_
  dsimp only
  have ht4 : t < 4 := List.mem_range.mp ht
  repeat' split
  · exact (regsKept_capture ht4 n (fun j => Config.freeWord (b.free + j)) hb).of_regs rfl
  · exact regsKept_capture ht4 n _ hb
  · exact hb

end

/-! ### States that effects of tasks reach -/

/-- `s` is reached from `u` by effects of tasks: registers outside `taskReg` stand; of the Tellers only the cores, and
of the sequencer only the folios in flight, the journal, held writes and effects to be performed may differ. -/
structure TaskFrame (u s : State) : Prop where
  reg : RegsKept u s
  tel : s.tel = { u.tel with cores := s.tel.cores }
  pst : s.pst = { u.pst with
    fols := s.pst.fols
    journal := s.pst.journal
    bank0 := s.pst.bank0
    todo := s.pst.todo }

theorem TaskFrame.refl (s : State) : TaskFrame s s := ⟨fun _ _ => rfl, rfl, rfl⟩

theorem TaskFrame.trans {u s t : State} (h : TaskFrame u s) (k : TaskFrame s t) : TaskFrame u t where
  reg := h.reg.trans k.reg
  tel := by rw [k.tel, h.tel]
  pst := by rw [k.pst, h.pst]

theorem TaskFrame.ctx {u s : State} (h : TaskFrame u s) (k : Nat) : s.ctx k = u.ctx k := by
  rw [State.ctx, State.ctx, h.tel]

theorem TaskFrame.rb {u s : State} (h : TaskFrame u s) {a : Nat} (ha : taskReg a = false) (i : Nat) :
    s.rb a i = u.rb a i := by
  rw [State.rb, State.rb, h.reg a ha]

theorem TaskFrame.rf {u s : State} (h : TaskFrame u s) {a : Nat} (ha : taskReg a = false) (hi lo : Nat) :
    s.rf a hi lo = u.rf a hi lo := by
  rw [State.rf, State.rf, h.reg a ha]

/-- `s` is reached from `u` by commits, taps and moves of entries: beside the frame, every Teller holds what it held but
for its dirty list, and the folios show the same through `π`. -/
structure Settled {α : Type} (π : Fol → α) (u s : State) : Prop extends TaskFrame u s where
  core : ∀ t, s.core t = { u.core t with dirty := (s.core t).dirty }
  fols : SameFols π u s

/-- `π` does not look at what settling changes in a folio: its entries, its provisional tasks and its outputs. -/
def Lasting {α : Type} (π : Fol → α) : Prop :=
  ∀ (f : Fol) (entries : List (Nat × EntrySt)) (prov : List Nat) (rows sink : List (Nat × Word)),
    π { f with entries := entries, prov := prov, rows := rows, sink := sink } = π f

theorem Settled.refl {α : Type} (π : Fol → α) (s : State) : Settled π s s := ⟨.refl s, fun _ => rfl, fun _ => rfl⟩

section
variable {α : Type} {π : Fol → α} {u s : State}

/-- What leaves the Tellers, the sequencer and the registers outside `taskReg` alone. -/
theorem Settled.of_eq {t : State} (h : Settled π u s) (hreg : RegsKept s t) (htel : t.tel = s.tel)
    (hpst : t.pst = s.pst) : Settled π u t where
  reg := h.reg.trans hreg
  tel := by rw [htel]; exact h.tel
  pst := by rw [hpst]; exact h.pst
  core k := by
    have hk : t.core k = s.core k := by rw [State.core, State.core, htel]
    rw [hk]
    exact h.core k
  fols := h.fols.of_pst (by rw [hpst])

theorem Within.tel_eq {m : Parts} {t : State} (h : Within m s t) (hm : m.tel = false) : t.tel = s.tel := by
  have e := congrArg State.tel h
  simpa [State.outside, hm] using e

/-- Memory, free values and the Clearinghouse's queues. -/
theorem Settled.of_within {t : State} (h : Settled π u s)
    (hw : Within { mem := true, free := true, clh := true } s t) : Settled π u t :=
  h.of_eq (fun _ _ => hw.reg_eq rfl) (hw.tel_eq rfl) (hw.pst_eq rfl)

theorem settled_queues (h : Settled π u s) (j : List JRec) (b : List HeldWrite) (l : List (JRec × Bool)) :
    Settled π u (s.setPst { s.pst with journal := j, bank0 := b, todo := l }) where
  reg := h.reg
  tel := h.tel
  pst := by rw [setPst_pst]; rw [h.pst]
  core := h.core
  fols := h.fols.of_pst rfl

theorem settled_setDirty (h : Settled π u s) (t : Nat) (l : List Nat) :
    Settled π u (s.setCore t { s.core t with dirty := l }) where
  reg := h.reg
  tel := by
    rw [State.setCore]
    dsimp only
    rw [h.tel]
  pst := h.pst
  core k := by
    by_cases hk : k % 64 = t % 64
    · have hu : u.core k = u.core t := by rw [State.core, State.core, hk]
      have hs : (s.setCore t { s.core t with dirty := l }).core k = { s.core t with dirty := l } := by
        rw [State.core, hk]
        exact setCore_same _ _ _
      rw [hs, hu, h.core t]
    · rw [setCore_ne _ _ hk]
      exact h.core k
  fols := h.fols.of_pst rfl

theorem Settled.of_fols {t : State} (h : Settled π u s) (hf : SameFols π s t)
    (ht : t = s.setPst { s.pst with fols := t.pst.fols }) : Settled π u t where
  reg := fun a ha => by rw [ht]; exact h.reg a ha
  tel := by rw [ht]; exact h.tel
  pst := by rw [ht]; rw [setPst_pst]; rw [h.pst]
  core k := by
    have hk : t.core k = s.core k := by rw [ht]; rfl
    rw [hk]
    exact h.core k
  fols := fun n => (hf n).trans (h.fols n)

theorem settled_setFol {f g : Fol} (h : Settled π u s) (hg : s.fol? f.n = some g) (hπ : π f = π g) :
    Settled π u (s.setFol f) := h.of_fols (sameFols_setFol (fun _ => rfl) hg hπ) rfl

theorem settled_updFol {n : Nat} {g : Fol → Fol} (h : Settled π u s) (hn : ∀ f, (g f).n = f.n)
    (hπ : ∀ f, π (g f) = π f) : Settled π u (s.updFol n g) := by
  refine h.of_fols (sameFols_updFol (fun _ => rfl) hn hπ) ?_
  unfold State.updFol
  split <;> rfl

theorem settled_ite {t : State} {c : Prop} [Decidable c] (hs : Settled π u s) (ht : Settled π u t) :
    Settled π u (if c then s else t) := by
  split
  · exact hs
  · exact ht

theorem settled_foldl {β : Type} {l : List β} {f : State → β → State} (h : Settled π u s)
    (hf : ∀ t x, Settled π u t → Settled π u (f t x)) : Settled π u (l.foldl f s) :=
  List.foldlRecOn l f h fun t ht x _ => hf t x ht

theorem settled_zeroOutputs (k n : Nat) (h : Settled π u s) : Settled π u (zeroOutputs k n s) :=
  h.of_within (within_zeroOutputs rfl k n (Within.refl _ s))

theorem settled_discard (k n : Nat) (h : Settled π u s) : Settled π u (discard k n s) :=
  settled_queues (settled_setDirty h _ _) _ _ _

theorem settled_pumpJournal (t : Nat) (h : Settled π u s) : Settled π u (pumpJournal t s) := by
  have hw : ∀ l, Within { clh := true, mem := true, regs := true } s (performList l s).2 := fun l =>
    within_performList rfl rfl rfl l (Within.refl _ s)
  exact settled_queues (h.of_eq (regsKept_performList _ fun _ _ => rfl) ((hw _).tel_eq rfl) ((hw _).pst_eq rfl)) _ _ _

theorem settled_tapPoint (point n : Nat) (p : Nat → Bool) (f : Nat → Nat → Word) (h : Settled π u s) :
    Settled π u (tapPoint point n p f s) := by
  have hw : Within { free := true, regs := true } s (tapPoint point n p f s) :=
    within_tapPoint rfl rfl _ _ _ _ (Within.refl _ s)
  exact h.of_eq (regsKept_tapPoint _ _ _ _ fun _ _ => rfl) (hw.tel_eq rfl) (hw.pst_eq rfl)

section
variable (hπ : Lasting π)
include hπ

theorem settled_deliver (k n : Nat) (h : Settled π u s) : Settled π u (deliver k n s) := by
  refine settled_updFol h (fun f => ?_) (fun f => ?_)
  · dsimp only
    split <;> rfl
  · dsimp only
    split
    · exact hπ f f.entries f.prov _ f.sink
    · exact hπ f f.entries f.prov f.rows _

theorem settled_commit (k n : Nat) (h : Settled π u s) : Settled π u (commit k n s) := by
  unfold commit
  dsimp only
  refine settled_updFol ?_ (fun _ => rfl) (fun f => hπ f f.entries _ f.rows f.sink)
  refine settled_pumpJournal _ (settled_queues ?_ _ _ _)
  have hdirty := settled_setDirty (h.of_within (within_copyDirty rfl rfl (k / 256)
    ((s.fol? n).any fun f => f.undef) ((s.core (k / 256)).dirty.filter fun w => declOwns (s.ctx k).decl (8 * w))
    (Within.refl _ s))) (k / 256)
  split
  · exact Settled.of_within (settled_queues (settled_queues (Settled.of_within (hdirty _)
      (within_foldl (Within.refl _ _) fun _ _ ht => within_wrBytes rfl _ _ ht)) _ _ _) _ _ _)
      (within_useFree rfl _ (Within.refl _ _))
  · exact settled_queues (settled_queues (Settled.of_within (hdirty _)
      (within_foldl (Within.refl _ _) fun _ _ ht => within_wrBytes rfl _ _ ht)) _ _ _) _ _ _

theorem settled_finalize (n g : Nat) (h : Settled π u s) : Settled π u (finalize n g s) := by
  unfold finalize
  split
  · exact h
  · rename_i f hf
    have hfn : s.fol? (f.setEntry g .final).n = some f := (congrArg s.fol? (n_of_fol? hf)).trans hf
    exact settled_tapPoint _ _ _ _ (settled_tapPoint _ _ _ _ (settled_foldl (settled_foldl
      (settled_setFol h hfn (hπ f _ f.prov f.rows f.sink))
      fun _ _ ht => settled_deliver hπ _ _ ht) fun _ _ ht => settled_commit hπ _ _ ht))

theorem settled_settleGroup (n g : Nat) (h : Settled π u s) : Settled π u (settleGroup n g s) := by
  unfold settleGroup
  split
  · exact h
  · rename_i f hf
    have hset : ∀ e, Settled π u (s.setFol (f.setEntry g e)) := fun e =>
      settled_setFol h ((congrArg s.fol? (n_of_fol? hf)).trans hf) (hπ f _ f.prov f.rows f.sink)
    exact settled_ite (settled_finalize hπ _ _ (hset _)) (hset _)

theorem settled_settle (n : Nat) (h : Settled π u s) : Settled π u (settle n s) :=
  settled_foldl h fun _ _ ht => settled_settleGroup hπ _ _ ht

end

theorem settled_tapRows (n : Nat) (h : Settled π u s) : Settled π u (tapRows n s) := by
  unfold tapRows
  split
  · split
    · exact settled_tapPoint _ _ _ _ h
    · exact h
  · exact h

end

end Sys2Proof.Machine
end

section
/-! PROOF. The end of a run (R215, R218) and what the stores of a run leave unchanged (R206, R207). -/

namespace Sys2Proof.Machine

@[simp] theorem core_mod (s : State) (t : Nat) : s.core (t % 64) = s.core t := by
  rw [State.core, State.core, Nat.mod_mod]

theorem core_congr (s : State) {j t : Nat} (h : j % 64 = t % 64) : s.core j = s.core t := by
  rw [State.core, State.core, h]

theorem ctxKey_div (t c : Nat) : ctxKey t c / 256 = t % 64 := by unfold ctxKey; omega

theorem ctxKey_mod (t c : Nat) : ctxKey t c % 256 = c % 256 := by unfold ctxKey; omega

/-- Teller `t` after its own `setCore`, under any number of the same Teller. -/
theorem core_setCore (s : State) (j t : Nat) (c : Core) :
    (s.setCore j c).core t = if t % 64 = j % 64 then c else s.core t := by
  split
  case isTrue h => rw [core_congr _ h, setCore_same]
  case isFalse h => exact setCore_ne _ _ h

/-! ### The end of a task -/

/-- What the end of a run makes of its folio's tables. -/
def runEnded (t k : Nat) (rerun : Bool) (cyc : Nat) (f : Fol) : Fol :=
  if rerun then { f with
    reruns := eraseRerun k f.reruns, redisp := eraseRerun k f.redisp, rerunCyc := aupd f.rerunCyc 0 t (fun x => x + 16 + cyc) }
  else { f with open_ := f.open_.filter (fun x => x != k), firstCyc := aupd f.firstCyc 0 t (fun x => x + cyc) }

theorem runEnded_n (t k : Nat) (rerun : Bool) (cyc : Nat) (f : Fol) : (runEnded t k rerun cyc f).n = f.n := by
  cases rerun <;> rfl

section
variable {α : Type} {π : Fol → α} {u s : State}

/-- A peak is latched where it is passed. -/
theorem regsKept_peak {b : Nat} (hb : taskReg b = true) (hi lo v : Nat) (h : RegsKept u s) :
    RegsKept u (if s.rf b hi lo < v then s.latchFld b hi lo v else s) := by
  split
  · exact regsKept_latchFld hb hi lo v h
  · exact h

theorem regsKept_loadPeaks {t : Nat} (ht : t < 64) (n : Nat) (h : RegsKept u s) : RegsKept u (loadPeaks t n s) := by
  have hload : taskReg (Reg.TEL_LOAD t) = true := by simp [taskReg]; omega
  have hmax : taskReg Reg.PST_REVMAX = true := by decide
  unfold loadPeaks
  split
  · exact h
  · exact regsKept_peak hmax 29 17 _ (regsKept_peak hload 29 17 _ (regsKept_peak hload 16 0 _ h))

theorem settled_loadPeaks {t : Nat} (ht : t < 64) (n : Nat) (h : Settled π u s) : Settled π u (loadPeaks t n s) := by
  have hw : Within { regs := true } s (loadPeaks t n s) := within_loadPeaks rfl t n (Within.refl _ s)
  exact h.of_eq (regsKept_loadPeaks ht n fun _ _ => rfl) (hw.tel_eq rfl) (hw.pst_eq rfl)

/-- After its folio's tables took the end of the run, a task's end settles entries only. -/
theorem settled_endTask (hπ : Lasting π) {t : Nat} (ht : t < 64) (k n : Nat) (rerun stopped : Bool) (cyc : Nat)
    (h : Settled π u (s.updFol n (runEnded t k rerun cyc))) : Settled π u (endTask t k n rerun stopped cyc s) := by
  have hload : Settled π u (loadPeaks t n (s.updFol n (runEnded t k rerun cyc))) := settled_loadPeaks ht n h
  have e : endTask t k n rerun stopped cyc s =
      match (loadPeaks t n (s.updFol n (runEnded t k rerun cyc))).fol? n with
      | none => loadPeaks t n (s.updFol n (runEnded t k rerun cyc))
      | some f =>
        let src := (s.ctx k).decl.isSrc
        let s := loadPeaks t n (s.updFol n (runEnded t k rerun cyc))
        let s := if src && f.slot && (rerun || stopped) then deliver k n s else s
        let s := if src && f.posted && !f.rerunning k && !f.open_.contains k then commit k n s else s
        settle n (if src && rerun then tapRows n s else s) := rfl
  rw [e]
  split
  · exact hload
  · rename_i f _
    have hdel := settled_ite (c := ((s.ctx k).decl.isSrc && f.slot && (rerun || stopped)) = true)
      (settled_deliver hπ k n hload) hload
    have hcom := settled_ite
      (c := ((s.ctx k).decl.isSrc && f.posted && !f.rerunning k && !f.open_.contains k) = true)
      (settled_commit hπ k n hdel) hdel
    exact settled_settle hπ n (settled_ite (settled_tapRows n hcom) hcom)

theorem lasting_unit : Lasting (fun _ => ()) := fun _ _ _ _ _ => rfl

theorem lasting_open : Lasting Fol.open_ := fun _ _ _ _ _ => rfl

/-- No more is said of the folios: a run's end keeps the frame of its task. -/
theorem settled_endTask_frame {t : Nat} (ht : t < 64) (k n : Nat) (rerun stopped : Bool) (cyc : Nat)
    (h : Settled (fun _ => ()) u s) : Settled (fun _ => ()) u (endTask t k n rerun stopped cyc s) :=
  settled_endTask lasting_unit ht k n rerun stopped cyc (settled_updFol h (runEnded_n t k rerun cyc) fun _ => rfl)

end

/-- A first run that has ended is open in its folio no longer. -/
theorem endTask_open {t : Nat} (ht : t < 64) (k n : Nat) (stopped : Bool) (cyc : Nat) (s : State) {f : Fol}
    (hf : (endTask t k n false stopped cyc s).fol? n = some f) : k ∉ f.open_ := by
  have hopen := (settled_endTask (s := s) lasting_open ht k n false stopped cyc (Settled.refl Fol.open_ _)).fols n
  rw [hf] at hopen
  cases hs : s.fol? n with
  | none =>
    rw [State.updFol, hs] at hopen
    simp [hs] at hopen
  | some g =>
    rw [fol?_updFol_same hs (runEnded_n t k false cyc g)] at hopen
    have : f.open_ = g.open_.filter (fun x => x != k) := by simpa [runEnded] using hopen
    simp [this]

/-! ### A run leaves its Teller -/

section
variable {u s : State}

theorem TaskFrame.setCore (h : TaskFrame u s) (t : Nat) (c : Core) : TaskFrame u (s.setCore t c) where
  reg := h.reg
  tel := by rw [State.setCore]; dsimp only; rw [h.tel]
  pst := h.pst

theorem TaskFrame.setClh (h : TaskFrame u s) (c : Clh) : TaskFrame u (s.setClh c) := ⟨h.reg, h.tel, h.pst⟩

end

/-- The run of Teller `t` has left it, its return stack with it; what else its end may change is the frame's. -/
structure RunLeft (t : Nat) (u s : State) : Prop extends TaskFrame u s where
  run : (s.core t).run = none
  stack : (u.core t).run.isSome → (s.core t).stack = []

theorem runLeft_finishRun (t : Nat) (stopped : Bool) (s : State) : RunLeft t s (finishRun t stopped s) := by
  unfold finishRun
  dsimp only
  rw [core_mod]
  split
  · rename_i hr
    exact { TaskFrame.refl s with run := hr, stack := by simp [hr] }
  · rename_i r _
    set d := dropLdf (t % 64) s with hd
    set v := d.setCore (t % 64) { d.core (t % 64) with
      run := none, before := none, loads := [], loops := [], stack := [] } with hv
    have hframe : TaskFrame s v := (((TaskFrame.refl s).setClh _).setCore _ _).setCore _ _
    have hend : Settled (fun _ => ()) v (endTask (t % 64) (ctxKey (t % 64) r.ctx) r.folio r.rerun stopped
        (s.runCyc (t % 64)) v) :=
      settled_endTask_frame (Nat.mod_lt _ (by decide)) _ _ _ _ _ (Settled.refl _ v)
    have hcore : v.core t = { d.core (t % 64) with
        run := none, before := none, loads := [], loops := [], stack := [] } := by
      rw [hv, core_setCore, if_pos (Nat.mod_mod t 64).symm]
    exact { hframe.trans hend.toTaskFrame with
      run := by rw [hend.core t, hcore]
      stack := fun _ => by rw [hend.core t, hcore] }

theorem runLeft_stopRun (t : Nat) (s : State) : RunLeft t s (stopRun t s) := by
  unfold stopRun
  split
  · rename_i hr
    exact { TaskFrame.refl s with run := hr, stack := by simp [hr] }
  · rename_i r _
    have hz : Settled (fun _ => ()) s (discard (ctxKey t r.ctx) r.folio (zeroOutputs (ctxKey t r.ctx) r.folio s)) :=
      settled_discard _ _ (settled_zeroOutputs _ _ (Settled.refl _ s))
    obtain ⟨hfr, hrun, hst⟩ := runLeft_finishRun t true
      (discard (ctxKey t r.ctx) r.folio (zeroOutputs (ctxKey t r.ctx) r.folio s))
    refine { hz.toTaskFrame.trans hfr with run := hrun, stack := fun h => hst ?_ }
    rw [hz.core t]
    exact h

/-! ### The stores of a run -/

/-- `s` is reached from `u` by stores: of the Tellers only the lists of words written may differ, contexts and folios stand. -/
structure Stored (u s : State) : Prop where
  core : ∀ t, s.core t = { u.core t with
    dirty := (s.core t).dirty
    wrote := (s.core t).wrote }
  ctx : ∀ k, s.ctx k = u.ctx k
  reg : ∀ a, a ≠ Reg.PST_EVT → a ≠ Reg.TEL_EVT → a ≠ Reg.EVT_SUM → s.reg a = u.reg a

theorem Stored.refl (s : State) : Stored s s := ⟨fun _ => rfl, fun _ => rfl, fun _ _ _ _ => rfl⟩

section
variable {u s : State}

theorem Stored.of_tel {t : State} (h : Stored u s) (ht : t.tel = s.tel)
    (hreg : ∀ a, a ≠ Reg.PST_EVT → a ≠ Reg.TEL_EVT → a ≠ Reg.EVT_SUM → t.reg a = s.reg a) : Stored u t where
  core k := by
    have hk : t.core k = s.core k := by rw [State.core, State.core, ht]
    rw [hk]
    exact h.core k
  ctx k := by rw [State.ctx, ht]; exact h.ctx k
  reg a h1 h2 h3 := (hreg a h1 h2 h3).trans (h.reg a h1 h2 h3)

theorem Stored.of_mem {t : State} (h : Stored u s) (hw : Within { mem := true } s t) : Stored u t :=
  h.of_tel (hw.tel_eq rfl) fun _ _ _ _ => hw.reg_eq rfl

theorem Stored.evt (h : Stored u s) {a : Nat} (ha : a = Reg.PST_EVT ∨ a = Reg.TEL_EVT) (i : Nat) :
    Stored u (s.evt a i) := by
  refine h.of_tel (evt_tel s a i) fun b h1 h2 h3 => ?_
  obtain rfl | rfl := ha
  · exact reg_evt_ne _ h1 h3
  · exact reg_evt_ne _ h2 h3

theorem Stored.setCore (h : Stored u s) (t : Nat) {c : Core} (l w : List Nat) (hc : c = s.core t) :
    Stored u (s.setCore t { c with dirty := l, wrote := w }) where
  core k := by
    rw [core_setCore]
    split
    case isTrue hk => rw [hc, h.core t, core_congr u hk]
    case isFalse => exact h.core k
  ctx := h.ctx
  reg := h.reg

theorem stored_wrBank0 (k off : Nat) (b : Byte) (h : Stored u s) : Stored u (wrBank0 k off b s) := by
  unfold wrBank0
  dsimp only
  split
  · exact h.evt (.inl rfl) 4
  · refine Stored.of_mem ?_ (within_wrByte rfl _ _ (Within.refl _ _))
    split
    · exact h
    · have hcopy : Within { mem := true } s (forN 8 s fun v i =>
          v.wrByte (shadowAddr (k / 256) (8 * (off / 8) + i)) (v.rdByte (bank0Addr (k / 256) (8 * (off / 8) + i)))) :=
        within_forN (Within.refl _ s) fun _ _ ht => within_wrByte rfl _ _ ht
      exact (h.of_mem hcopy).setCore _ _ _ (by rw [State.core, State.core, hcopy.tel_eq rfl])

theorem stored_journalAdd (k n : Nat) (a : JAct) (h : Stored u s) : Stored u (journalAdd k n a s) := by
  unfold journalAdd
  dsimp only
  split
  · exact h.evt (.inl rfl) 3
  · exact h.of_tel rfl fun _ _ _ _ => rfl

theorem stored_foldl {β : Type} {l : List β} {f : State → β → State} (h : Stored u s)
    (hf : ∀ t x, Stored u t → Stored u (f t x)) : Stored u (l.foldl f s) :=
  List.foldlRecOn l f h fun t ht x _ => hf t x ht

theorem stored_storeData (k n : Nat) (l : List (Nat × Byte)) (h : Stored u s) : Stored u (storeData k n l s) := by
  refine stored_foldl (stored_foldl h fun v e hv => ?_) fun _ _ hv => stored_journalAdd _ _ _ hv
  repeat' split
  · exact stored_wrBank0 _ _ _ hv
  · exact (hv.of_mem (within_wrByte rfl _ _ (Within.refl _ v))).setCore _ _ _ rfl
  · exact hv

theorem stored_persist (t : Nat) (r : Run) (h : Stored u s) : Stored u (persist t r s) :=
  stored_foldl h fun _ _ hv => stored_storeData _ _ _ hv

theorem stored_fillOutputs (t : Nat) (r : Run) (h : Stored u s) : Stored u (fillOutputs t r s) := by
  refine stored_foldl h fun v c hv => stored_foldl hv fun w j hw => ?_
  split
  · exact hw
  · exact (hw.of_mem (within_wrWord rfl _ _ (Within.refl _ _))).evt (.inr rfl) 5

end

end Sys2Proof.Machine
end

section
/-! PROOF. The runs of a Teller (R214 to R220, R132): O51, start by start and stop by stop. -/

namespace Sys2Proof.Machine

theorem Within.regs_eq {m : Parts} {u s : State} (h : Within m u s) (hm : ∀ a, m.opens a = false) : s.regs = u.regs := by
  have e : s.regs.filter (fun e => !m.opens e.1) = u.regs.filter (fun e => !m.opens e.1) := congrArg State.regs h
  simpa [hm] using e

/-! ### Starts -/

section
variable {s : State} {t : Nat}

theorem firstRunStart_starts (hl : s.hostLive = true) (c n : Nat) (hnext : s.nextFirst t = some (ctxKey t c, n))
    (hidle : (s.core t).run = none) (hprov : ∀ f ∈ s.pst.fols, f.n < n → ctxKey t c ∉ f.prov)
    (htodo : s.todoOf (ctxKey t c) = false) :
    ∃ x, (s.ctx (ctxKey t c)).decl = x.decl ∧
      exec (.firstRunStart t c) s = .next (startRun (ctxKey t c) n false (s.setCtx (ctxKey t c) x)) := by
  have hearlier : s.pst.fols.any (fun f => decide (f.n < n) && f.prov.contains (ctxKey t c)) = false := by
    rw [List.any_eq_false]
    intro f hf
    simpa using hprov f hf
  refine ⟨{ s.ctx (ctxKey t c) with
    fcons := if (s.ctx (ctxKey t c)).faulted then (s.ctx (ctxKey t c)).fcons else 0
    faulted := false }, rfl, ?_⟩
  change hostDo s (firstRunStartOp t c) = _
  rw [hostDo_live hl]
  have hgo : ¬(ctxKey t c ≠ ctxKey t c ∨ (s.core t).run.isSome ∨
      s.pst.fols.any (fun f => decide (f.n < n) && f.prov.contains (ctxKey t c)) ∨ s.todoOf (ctxKey t c)) := by
    simp only [hidle, hearlier, htodo]
    simp
  rw [firstRunStartOp, hnext]
  dsimp only
  rw [if_neg hgo]

theorem rerunStart_starts (hl : s.hostLive = true) (c n : Nat) (hnext : s.nextRerun t = some (ctxKey t c, n))
    (hidle : (s.core t).run = none) :
    ∃ v, Within { mem := true, free := true } (discard (ctxKey t c) n s) v ∧
      exec (.rerunStart t c) s = .next (startRun (ctxKey t c) n true v) := by
  refine ⟨if (s.ctx (ctxKey t c)).decl.isSrc then fillInputs (ctxKey t c) n (discard (ctxKey t c) n s)
    else discard (ctxKey t c) n s, within_ite (within_fillInputs rfl rfl _ _ (Within.refl _ _)) (Within.refl _ _), ?_⟩
  change hostDo s (rerunStartOp t c) = _
  rw [hostDo_live hl]
  have hdecl : (discard (ctxKey t c) n s).ctx (ctxKey t c) = s.ctx (ctxKey t c) := rfl
  simp [rerunStartOp, hnext, hidle, hdecl]

/-- The registers of Teller `t` after a start. -/
theorem core_startRun (c n : Nat) (rerun : Bool) (v : State) :
    (startRun (ctxKey t c) n rerun v).core t = { Core.reset with
      i := v.preset (t % 64) (v.ctx (ctxKey t c)).decl.base 0
      b := v.preset (t % 64) (v.ctx (ctxKey t c)).decl.base 1
      l := v.preset (t % 64) (v.ctx (ctxKey t c)).decl.base 2
      m := v.preset (t % 64) (v.ctx (ctxKey t c)).decl.base 3
      cr := (v.ctx (ctxKey t c)).decl.cr
      pc := (v.ctx (ctxKey t c)).decl.entry % 8192
      cyc := 4
      run := some ⟨c % 256, n, rerun⟩
      dirty := (v.core t).dirty
      stale := (v.core t).stale } := by
  unfold startRun
  dsimp only
  rw [ctxKey_div, ctxKey_mod, core_setCore, if_pos (Nat.mod_mod t 64).symm, core_mod]

/-- A rerun starts from the context restored: nothing of its context is dirty, nothing of its task is in the journal. -/
theorem discard_restores (c n : Nat) :
    (∀ w ∈ ((discard (ctxKey t c) n s).core t).dirty, declOwns (s.ctx (ctxKey t c)).decl (8 * w) = false) ∧
      ∀ j ∈ (discard (ctxKey t c) n s).pst.journal, j.isOf (ctxKey t c) n = false := by
  constructor
  · intro w hw
    have hcore : ((discard (ctxKey t c) n s).core t).dirty =
        (s.core t).dirty.filter fun w => !declOwns (s.ctx (ctxKey t c)).decl (8 * w) := by
      have e : (discard (ctxKey t c) n s).core t = (s.setCore (ctxKey t c / 256) { s.core (ctxKey t c / 256) with
        dirty := (s.core (ctxKey t c / 256)).dirty.filter fun w => !declOwns (s.ctx (ctxKey t c)).decl (8 * w) }).core t := rfl
      rw [e, ctxKey_div, core_setCore, if_pos (Nat.mod_mod t 64).symm, core_mod]
    rw [hcore] at hw
    simpa using (List.mem_filter.mp hw).2
  · intro j hj
    simpa using (List.mem_filter.mp (show j ∈ s.pst.journal.filter fun r => !r.isOf (ctxKey t c) n from hj)).2

/-! ### END (R215, R221) -/

/-- Saturation at END is recorded by Teller; nothing else but events moves. -/
theorem satAtEnd_records (v : State) (h : bit (v.core t).sr 0 = true) :
    (satAtEnd t v).rb (if t % 64 < 32 then Reg.TEL_SATLO else Reg.TEL_SATHI) (t % 32) = true := by
  have hne : ∀ a, a = (if t % 64 < 32 then Reg.TEL_SATLO else Reg.TEL_SATHI) → a ≠ Reg.TEL_EVT ∧ a ≠ Reg.EVT_SUM := by
    rintro _ rfl
    split <;> decide
  unfold satAtEnd
  rw [h, Bool.true_or, if_pos rfl]
  generalize he : (if t % 64 < 32 then Reg.TEL_SATLO else Reg.TEL_SATHI) = a
  rw [State.rb, reg_evtIf_ne _ _ (hne a he.symm).1 (hne a he.symm).2, reg_raise_same]
  exact bit_or_bitw _ (Nat.mod_lt _ (by decide))

theorem tel_satAtEnd (v : State) : (satAtEnd t v).tel = v.tel :=
  Within.tel_eq (m := { regs := true }) (within_satAtEnd rfl t (Within.refl _ v)) rfl

/-- END records the cycles of a first run (R215). -/
def endNoted (k cyc : Nat) (rerun : Bool) (v : State) : State :=
  if rerun then v
  else (v.setCtx k { v.ctx k with last := cyc, max := Nat.max (v.ctx k).max cyc }).note (regKey Reg.TEL_CTXMAX k) (wd cyc)

/-- The state in which END leaves the Teller: registers written back, outputs filled, saturation recorded. -/
def endStored (t : Nat) (r : Run) (s : State) : State :=
  fillOutputs t r (persist t r (s.setCore t { s.core t with cyc := (s.core t).cyc + 2 }))

theorem endRun_eq {p : Pred} {r : Run} (hopen : moveOpen s t p r) (hmask : (Pred.mask p (s.core t)).testBit 0 = true) :
    exec (.endRun t p) s = .next (if (s.ctx (ctxKey t r.ctx)).decl.cycles < (s.core t).cyc + 2 then overrun t s
      else finishRun t false
        (endNoted (ctxKey t r.ctx) ((s.core t).cyc + 2) r.rerun (satAtEnd t (endStored t r s)))) := by
  obtain ⟨hrun, hstall, hbefore, hbad⟩ := hopen
  have hissues : (s.core t).issues = true := by simp [Core.issues, hrun, hstall]
  have hseen : (s.core t).seen = s.core t := by simp [Core.seen, hbefore]
  have hall : (!(s.core t).issues) = false ∧ (!(Pred.mask p (s.core t).seen).testBit 0) = false := by
    simp [hissues, hseen, hmask]
  change Host.Outcome.next (endRunOp t p s) = _
  unfold endRunOp
  simp only [hall, hbad, Bool.false_eq_true, if_false]
  split
  case h_1 hnone => simp [hrun] at hnone
  case h_2 q hq =>
    obtain rfl : r = q := Option.some.inj (hrun.symm.trans hq)
    split <;> rfl

/-- What END hands to the end of the run: the run as it stood, its cycles recorded, its saturation recorded. -/
theorem endNoted_facts {p : Pred} {r : Run} (hopen : moveOpen s t p r) :
    let v := endNoted (ctxKey t r.ctx) ((s.core t).cyc + 2) r.rerun (satAtEnd t (endStored t r s))
    (v.core t).run = some r ∧
      (r.rerun = false → (v.ctx (ctxKey t r.ctx)).last = (s.core t).cyc + 2 ∧
        (v.ctx (ctxKey t r.ctx)).max = Nat.max (s.ctx (ctxKey t r.ctx)).max ((s.core t).cyc + 2)) ∧
      (bit (s.core t).sr 0 = true → v.rb (if t % 64 < 32 then Reg.TEL_SATLO else Reg.TEL_SATHI) (t % 32) = true) := by
  obtain ⟨hrun, -, -, -⟩ := hopen
  set x := endStored t r s with hx
  have hst : Stored (s.setCore t { s.core t with cyc := (s.core t).cyc + 2 }) x :=
    stored_fillOutputs t r (stored_persist t r (Stored.refl _))
  have hcore : (x.core t).run = some r ∧ (x.core t).sr = (s.core t).sr := by
    rw [hst.core t, setCore_same]
    exact ⟨hrun, rfl⟩
  have hctx : ∀ k, (satAtEnd t x).ctx k = s.ctx k := fun k => by
    rw [State.ctx, tel_satAtEnd]
    exact hst.ctx k
  have hrun' : ((satAtEnd t x).core t).run = some r := by
    rw [State.core, tel_satAtEnd]
    exact hcore.1
  have hsat : bit (s.core t).sr 0 = true → _ := fun h => satAtEnd_records (t := t) x (by rw [hcore.2]; exact h)
  dsimp only [endNoted]
  cases hr : r.rerun
  · refine ⟨hrun', fun _ => ?_, hsat⟩
    simp only [Bool.false_eq_true, if_false]
    have hsame : ∀ y, (((satAtEnd t x).setCtx (ctxKey t r.ctx) y).note (regKey Reg.TEL_CTXMAX (ctxKey t r.ctx))
        (wd ((s.core t).cyc + 2))).ctx (ctxKey t r.ctx) = y := fun y => setCtx_same _ _ y
    rw [hsame, hctx]
    exact ⟨rfl, rfl⟩
  · exact ⟨hrun', by simp, hsat⟩

theorem overrun_stops (v : State) : ((overrun t v).core t).run = none ∧ (overrun t v).rb Reg.PST_EVT 5 = true := by
  have h := runLeft_stopRun t (v.evt Reg.PST_EVT 5)
  exact ⟨h.run, (h.toTaskFrame.rb (by decide) 5).trans (rb_evt v (by decide) (by decide))⟩

/-! ### The window watchdog (R219) -/

theorem windowWatchdog_runs (hl : s.hostLive = true) :
    exec (.windowWatchdog t) s = .next (windowWatchdogOp t s) := by
  change hostDo s (windowWatchdogOp t) = _
  rw [hostDo_live hl]

/-- The run whose window ends first is the one in progress: it is stopped with WDOG. -/
theorem windowWatchdog_stops (hl : s.hostLive = true) (hen : s.rb Reg.TEL_CTRL 0 = true) {k : Nat} {r : Run}
    (hrun : (s.core t).run = some r) (hfirst : firstWindow (s.windows t) = some (k, r)) :
    ∃ u, exec (.windowWatchdog t) s = .next u ∧ (u.core t).run = none ∧ u.rb Reg.TEL_EVT 1 = true := by
  refine ⟨_, windowWatchdog_runs hl, ?_⟩
  have hcore : ((s.evt Reg.TEL_EVT 1).core t).run = some r := by rw [State.core, evt_tel]; exact hrun
  have h := runLeft_stopRun t (s.evt Reg.TEL_EVT 1)
  simp only [windowWatchdogOp, hen, hfirst, hcore]
  exact ⟨h.run, (h.toTaskFrame.rb (by decide) 1).trans (rb_evt s (by decide) (by decide))⟩

/-- The run whose window ends first has not started: it is ended with WDOG, and the Teller goes on. -/
theorem windowWatchdog_ends (hl : s.hostLive = true) (hen : s.rb Reg.TEL_CTRL 0 = true) {k : Nat} {r : Run}
    (hfirst : firstWindow (s.windows t) = some (k, r)) (hrun : (s.core t).run ≠ some r) :
    ∃ u, exec (.windowWatchdog t) s = .next u ∧ (u.core t).run = (s.core t).run ∧ u.rb Reg.TEL_EVT 1 = true ∧
      (r.rerun = false → ∀ f, u.fol? r.folio = some f → k ∉ f.open_) := by
  have hcore : (s.evt Reg.TEL_EVT 1).core t = s.core t := by rw [State.core, evt_tel]; rfl
  set z := zeroOutputs k r.folio (s.evt Reg.TEL_EVT 1) with hz
  set v := if r.rerun then discard k r.folio z else z with hv
  have heq : exec (.windowWatchdog t) s = .next (endTask (t % 64) k r.folio r.rerun true 0 v) := by
    rw [windowWatchdog_runs hl]
    simp only [windowWatchdogOp, hen, hfirst, hcore, hrun]
    rfl
  have hzero : Settled (fun _ => ()) (s.evt Reg.TEL_EVT 1) z := settled_zeroOutputs _ _ (Settled.refl _ _)
  have hend := settled_endTask_frame (Nat.mod_lt t (by decide)) k r.folio r.rerun true 0
    (settled_ite (c := r.rerun = true) (settled_discard k r.folio hzero) hzero)
  refine ⟨_, heq, ?_, ?_, fun hfirst f hf => ?_⟩
  · rw [hend.core t, hcore]
  · exact (hend.toTaskFrame.rb (by decide) 1).trans (rb_evt s (by decide) (by decide))
  · rw [hfirst] at hf
    exact endTask_open (Nat.mod_lt t (by decide)) k r.folio true 0 v hf

/-- One folio in flight whose only open task is a first run: its window is the first one, if it has one. -/
theorem windows_of_open {f : Fol} {k : Nat} (hk : k / 256 = t % 64) (hf : s.pst.fols = [f]) (ho : f.open_ = [k])
    (hd : f.redisp = []) :
    s.windows t = ((s.windowEnd f k false).map fun e => (e, (k, (⟨k % 256, f.n, false⟩ : Run)))).toList := by
  cases h : s.windowEnd f k false <;> simp [State.windows, hf, ho, hd, hk, h]

theorem windows_of_redisp {f : Fol} {k : Nat} {m : Int} (hk : k / 256 = t % 64) (hf : s.pst.fols = [f]) (ho : f.open_ = [])
    (hd : f.redisp = [(k, m)]) :
    s.windows t = ((s.windowEnd f k true).map fun e => (e, (k, (⟨k % 256, f.n, true⟩ : Run)))).toList := by
  cases h : s.windowEnd f k true <;> simp [State.windows, hf, ho, hd, hk, h]

theorem windowEnd_first (f : Fol) (k : Nat) : ∃ e, s.windowEnd f k false = some e := by
  unfold State.windowEnd
  dsimp only
  split
  · exact ⟨_, rfl⟩
  · exact ⟨_, rfl⟩

theorem windowEnd_rerun {f : Fol} {k : Nat} {m : Int} (hd : f.redisp = [(k, m)]) (hsink : (s.ctx k).decl.isSrc = false) :
    s.windowEnd f k true = some (m + us3 s.sinkWin) := by
  simp [State.windowEnd, hsink, hd]

/-- With WDEN = 0, or with no run dispatched, the watchdog does nothing (log entry 154). -/
theorem windowWatchdog_rests (hl : s.hostLive = true)
    (h : s.rb Reg.TEL_CTRL 0 = false ∨ ∀ f ∈ s.pst.fols, f.open_ = [] ∧ f.redisp = []) :
    exec (.windowWatchdog t) s = .next s := by
  rw [windowWatchdog_runs hl]
  obtain hoff | hnone := h
  · simp [windowWatchdogOp, hoff]
  · have hw : s.windows t = [] := by
      unfold State.windows
      dsimp only
      rw [List.flatMap_eq_nil_iff]
      intro f hf
      simp [hnone f hf]
    simp [windowWatchdogOp, hw, firstWindow]

/-! ### A Teller reset (R220) -/

theorem tel_masterReset (m : Master) (ids : List Nat) (v : State) : (masterReset m ids v).tel = v.tel := by
  unfold masterReset
  dsimp only
  split
  · rfl
  · exact evt_tel _ _ _

theorem reg_masterReset_ne (m : Master) (ids : List Nat) (v : State) {a : Nat} (h : a ≠ Reg.CLH_EVT)
    (h' : a ≠ Reg.EVT_SUM) : (masterReset m ids v).reg a = v.reg a := by
  unfold masterReset
  dsimp only
  split
  · rfl
  · exact reg_evt_ne _ h h'

theorem tellerReset_clears (hl : s.hostLive = true) :
    ∃ u, exec (.tellerReset t) s = .next u ∧ u.core t = { Core.reset with dirty := (u.core t).dirty } ∧
      u.rb Reg.TEL_EVT 2 = true := by
  refine ⟨tellerResetOp t s, ?_, ?_, ?_⟩
  · change hostDo s (tellerResetOp t) = _
    rw [hostDo_live hl]
  · have hcore : (tellerResetOp t s).core t = { Core.reset with dirty := ((stopRun t s).core t).dirty } := by
      unfold tellerResetOp
      rw [State.core, tel_masterReset, evt_tel]
      exact setCore_same _ _ _
    rw [hcore]
  · unfold tellerResetOp
    rw [State.rb, reg_masterReset_ne _ _ _ (by decide) (by decide)]
    exact rb_evt _ (by decide) (by decide)

end

/-- Settles O51, start by start and stop by stop. -/
theorem tellerRuns : Obligations.TellerRuns := by
  intro s t hl
  refine ⟨fun c n hnext hidle hprov htodo => ?_, fun c n hnext hidle => ?_, fun p r hopen hmask => ⟨fun hin => ?_, fun hover => ?_⟩,
    fun r hrun => ⟨fun hover => ?_, fun hin => ?_, ?_, ?_⟩, windowWatchdog_rests hl,
    fun k r hen hfirst hne => windowWatchdog_ends hl hen hfirst hne, tellerReset_clears hl⟩
  · obtain ⟨x, hx, h⟩ := firstRunStart_starts hl c n hnext hidle hprov htodo
    refine ⟨_, h, ?_⟩
    rw [core_startRun, setCtx_same, hx]
    exact ⟨rfl, rfl, rfl, rfl, rfl, rfl, rfl, rfl, rfl, rfl, rfl, rfl⟩
  · obtain ⟨v, hw, h⟩ := rerunStart_starts hl c n hnext hidle
    have hdecl : v.ctx (ctxKey t c) = s.ctx (ctxKey t c) := by
      rw [State.ctx, hw.tel_eq rfl]
      rfl
    have hcore : v.core t = (discard (ctxKey t c) n s).core t := by rw [State.core, State.core, hw.tel_eq rfl]
    refine ⟨_, h, ?_⟩
    rw [core_startRun, hdecl, hcore]
    refine ⟨rfl, rfl, rfl, hw.regs_eq fun _ => rfl, (discard_restores c n).1, ?_⟩
    · rw [show (startRun (ctxKey t c) n true v).pst = (discard (ctxKey t c) n s).pst from hw.pst_eq rfl]
      exact (discard_restores c n).2
  · obtain ⟨hrun, hlast, hsat⟩ := endNoted_facts hopen
    have hleft := runLeft_finishRun t false
      (endNoted (ctxKey t r.ctx) ((s.core t).cyc + 2) r.rerun (satAtEnd t (endStored t r s)))
    refine ⟨_, (endRun_eq hopen hmask).trans (by rw [if_neg (Nat.not_lt.mpr hin)]), hleft.run,
      hleft.stack (by rw [hrun]; rfl), fun hr => ?_, fun hbit => ?_⟩
    · rw [hleft.toTaskFrame.ctx]
      exact hlast hr
    · rw [hleft.toTaskFrame.rb (by split <;> decide)]
      exact hsat hbit
  · exact ⟨_, (endRun_eq hopen hmask).trans (by rw [if_pos hover]), overrun_stops s⟩
  · refine ⟨overrun t s, ?_, overrun_stops s⟩
    change hostDo s (taskOverrunOp t) = _
    rw [hostDo_live hl]
    simp [taskOverrunOp, hrun, hover]
  · change hostDo s (taskOverrunOp t) = _
    rw [hostDo_live hl]
    simp [taskOverrunOp, hrun, hin]
  · intro f hen hr hc hf hn ho hd
    obtain ⟨e, he⟩ := windowEnd_first (s := s) f (ctxKey t r.ctx)
    refine windowWatchdog_stops hl hen hrun (k := ctxKey t r.ctx) ?_
    rw [windows_of_open (ctxKey_div t r.ctx) hf ho hd, he, ctxKey_mod, Nat.mod_eq_of_lt hc, hn, ← hr]
    rfl
  · intro f m hen hr hc hf hn ho hd hsink
    refine windowWatchdog_stops hl hen hrun (k := ctxKey t r.ctx) ?_
    rw [windows_of_redisp (ctxKey_div t r.ctx) hf ho hd, windowEnd_rerun hd hsink, ctxKey_mod, Nat.mod_eq_of_lt hc, hn, ← hr]
    rfl

end Sys2Proof.Machine
end

section
/-! PROOF. What the stores of a task write (R206, R207, R123, R127): bytes placed one after another in the port view, in
the shadow of bank 0, and joined into a journal record. -/

namespace Sys2Proof.Machine

/-! ### Bytes placed one after another -/

/-- The bytes with the addresses that they take from `a` upward. -/
def placed (a : Nat) : List Byte → List (Nat × Byte)
  | [] => []
  | b :: l => (a, b) :: placed (a + 1) l

theorem zipIdx_placed (l : List Byte) (a i : Nat) : (l.zipIdx i).map (fun e => (a + e.2, e.1)) = placed (a + i) l := by
  induction l generalizing i with
  | nil => rfl
  | cons b l ih => rw [List.zipIdx_cons, List.map_cons, ih, placed, Nat.add_assoc]

theorem mem_placed {l : List Byte} {a : Nat} {e : Nat × Byte} (h : e ∈ placed a l) : a ≤ e.1 ∧ e.1 < a + l.length := by
  induction l generalizing a with
  | nil => cases h
  | cons b l ih =>
    rw [List.length_cons]
    obtain rfl | h := List.mem_cons.mp h
    · exact ⟨Nat.le_refl _, by dsimp only; omega⟩
    · have := ih h
      omega

/-- What stands at `x` after a run of bytes was written from `a` upward, each write of `y` changing `c + y` only. -/
theorem foldl_placed {σ : Type} {rd : σ → Nat → Byte} {wr : σ → Nat × Byte → σ} {I : σ → Prop} {D : Nat → Prop} {c lo hi : Nat}
    (hI : ∀ s e, I s → I (wr s e))
    (hwr : ∀ s y b x, I s → lo ≤ y → y < hi → D x → rd (wr s (y, b)) x = if x = c + y then b else rd s x)
    {x : Nat} (hx : D x) (l : List Byte) (a : Nat) (s : σ) (hs : I s) (ha : lo ≤ a) (hl : a + l.length ≤ hi) :
    rd ((placed a l).foldl wr s) x =
      if c + a ≤ x ∧ x < c + a + l.length then l.getD (x - (c + a)) 0 else rd s x := by
  induction l generalizing a s with
  | nil =>
    rw [if_neg (by simp)]
    rfl
  | cons b l ih =>
    rw [List.length_cons] at hl
    rw [placed, List.foldl_cons, ih (a + 1) (wr s (a, b)) (hI s _ hs) (by omega) (by omega),
      hwr s a b x hs ha (by omega) hx, List.length_cons]
    by_cases hxa : x = c + a
    · simp [hxa]
    · by_cases hin : c + a ≤ x ∧ x < c + a + (l.length + 1)
      · have hin' : c + (a + 1) ≤ x ∧ x < c + (a + 1) + l.length := by omega
        have hsub : x - (c + a) = (x - (c + (a + 1))) + 1 := by omega
        rw [if_pos hin', if_pos hin, hsub, List.getD_cons_succ]
      · have hin' : ¬(c + (a + 1) ≤ x ∧ x < c + (a + 1) + l.length) := by omega
        rw [if_neg hin', if_neg hin, if_neg hxa]

/-! ### Numbers read back -/

theorem rdBytes_eq (s : State) (a n : Nat) : s.rdBytes a n = (List.range n).map fun i => s.rdByte (a + i) := by
  induction n generalizing a with
  | zero => rfl
  | succ n ih =>
    rw [State.rdBytes, ih, List.range_succ_eq_map]
    simp [Nat.add_assoc, Nat.add_comm 1]

theorem rdBytes_congr {s v : State} {a n : Nat} (h : ∀ x, a ≤ x → x < a + n → v.rdByte x = s.rdByte x) :
    v.rdBytes a n = s.rdBytes a n := by
  rw [rdBytes_eq, rdBytes_eq]
  exact List.map_congr_left fun i hi => h _ (by omega) (by rw [List.mem_range] at hi; omega)

theorem rdDataNat_eq (s : State) (t n a m : Nat) :
    s.rdDataNat t n a m = leNat ((List.range m).map fun i => s.rdData t n (a + i)) := by
  induction m generalizing a with
  | zero => rfl
  | succ m ih =>
    rw [State.rdDataNat, ih, List.range_succ_eq_map, List.map_cons, leNat, List.map_map]
    simp only [Function.comp_def, Nat.add_zero, Nat.add_assoc, Nat.succ_eq_add_one, Nat.add_comm 1]

theorem map_getD_leBytes (v n : Nat) : (List.range n).map (fun i => (leBytes v n).getD i 0) = leBytes v n := by
  refine List.ext_getElem (by simp [length_leBytes]) fun i hi hi' => ?_
  simp [List.getElem?_eq_getElem hi']

/-- The number read back from where its bytes were placed. -/
theorem leNat_placed {f : Nat → Byte} {v n : Nat} (h : ∀ i, i < n → f i = (leBytes v n).getD i 0) :
    leNat ((List.range n).map f) = v % 256 ^ n := by
  rw [List.map_congr_left fun i hi => h i (List.mem_range.mp hi), map_getD_leBytes, leNat_leBytes]

/-! ### The port view (R206) -/

theorem rdByte_wrByte (s : State) (a x : Nat) (b : Byte) : (s.wrByte a b).rdByte x = if x = a then b else s.rdByte x := by
  split
  case isTrue h => rw [h, rdByte_wrByte_same]
  case isFalse h => exact rdByte_wrByte_ne s b h

/-- A byte of the port view stands at once, its word marked written. -/
def wrPort (t n : Nat) (s : State) (e : Nat × Byte) : State :=
  (s.wrByte (dataAddr t n e.1) e.2).setCore t { s.core t with wrote := addTo (s.core t).wrote ((e.1 - 0x3C000) / 4) }

/-- Stores in the port view alone. -/
theorem storeData_port {k n : Nat} {l : List (Nat × Byte)} (h : ∀ e ∈ l, 0x3C000 ≤ e.1) (s : State) :
    storeData k n l s = l.foldl (wrPort (k / 256) n) s := by
  have hfar : l.filter (fun e => decide (0x10000 ≤ e.1) && decide (e.1 < 0x3C000)) = [] := by
    rw [List.filter_eq_nil_iff]
    intro e he
    have := h e he
    simp
    omega
  unfold storeData
  dsimp only
  rw [hfar]
  refine List.foldl_ext _ _ s fun v e he => ?_
  have := h e he
  rw [if_neg (by omega), if_pos this]
  rfl

/-- The offset between the port view of folio `n` and its page. -/
def portShift (t n : Nat) : Nat := telBase t + (if n % 2 = 0 then 0x3C000 else 0x40000)

theorem dataAddr_port {t n a : Nat} (h : 0x3C000 ≤ a) : dataAddr t n a = portShift t n + a := by
  unfold dataAddr pageBase portShift
  rw [if_pos h]
  split <;> omega

theorem telBase_mod (t : Nat) : telBase (t % 64) = telBase t := by unfold telBase; rw [Nat.mod_mod]

theorem portShift_mod (t n : Nat) : portShift (t % 64) n = portShift t n := by rw [portShift, portShift, telBase_mod]

/-- A byte run stored in the port view. -/
theorem rdByte_port (t n : Nat) (l : List Byte) {a : Nat} (ha : 0x3C000 ≤ a) (s : State) (x : Nat) :
    ((placed a l).foldl (wrPort t n) s).rdByte x =
      if portShift t n + a ≤ x ∧ x < portShift t n + a + l.length then l.getD (x - (portShift t n + a)) 0 else s.rdByte x :=
  foldl_placed (rd := State.rdByte) (wr := wrPort t n) (I := fun _ => True) (D := fun _ => True) (fun _ _ _ => trivial)
    (fun v y b x _ hy _ _ => by
      rw [← dataAddr_port hy]
      exact rdByte_wrByte v (dataAddr t n y) x b) trivial l a s trivial ha (Nat.le_refl _)

theorem pst_port (t n : Nat) (l : List (Nat × Byte)) (s : State) : (l.foldl (wrPort t n) s).pst = s.pst :=
  List.foldlRecOn (motive := fun v : State => v.pst = s.pst) l _ rfl fun _ hv _ _ => hv

/-! ### Bank 0 and its shadow (R123) -/

/-- The first `n` bytes of a word of bank 0 copied to the shadow. -/
def copyShadow (t w n : Nat) (s : State) : State :=
  forN n s (fun s i => s.wrByte (shadowAddr t (8 * w + i)) (s.rdByte (bank0Addr t (8 * w + i))))

/-- The word that a store touches is copied to the shadow when it is not there yet. -/
def shadowed (t w : Nat) (s : State) : State :=
  if (s.core t).dirty.contains w then s
  else (copyShadow t w 8 s).setCore t { s.core t with dirty := (s.core t).dirty ++ [w] }

theorem bank0_ne_shadow {t x y : Nat} (hx : x < 0x10000) : bank0Addr t x ≠ shadowAddr t y := by
  unfold bank0Addr shadowAddr
  omega

theorem shadow_inj {t x y : Nat} : shadowAddr t x = shadowAddr t y ↔ x = y := by
  unfold shadowAddr
  omega

theorem copyShadow_succ (t w n : Nat) (s : State) : copyShadow t w (n + 1) s =
    (copyShadow t w n s).wrByte (shadowAddr t (8 * w + n)) ((copyShadow t w n s).rdByte (bank0Addr t (8 * w + n))) := by
  simp only [copyShadow, forN, List.range_succ, List.foldl_append, List.foldl_cons, List.foldl_nil]

/-- The copy takes bytes of bank 0, which a shadow write does not touch, and changes no byte but theirs in the shadow. -/
theorem rdByte_copyShadow (t w n : Nat) (hn : 8 * w + n ≤ 0x10000) (s : State) :
    (∀ y, 8 * w ≤ y → y < 8 * w + n → (copyShadow t w n s).rdByte (shadowAddr t y) = s.rdByte (bank0Addr t y)) ∧
      ∀ x, (∀ y, 8 * w ≤ y → y < 8 * w + n → x ≠ shadowAddr t y) → (copyShadow t w n s).rdByte x = s.rdByte x := by
  induction n with
  | zero => exact ⟨fun y h h' => by omega, fun _ _ => rfl⟩
  | succ n ih =>
    obtain ⟨hcopy, hrest⟩ := ih (by omega)
    have hbank : (copyShadow t w n s).rdByte (bank0Addr t (8 * w + n)) = s.rdByte (bank0Addr t (8 * w + n)) :=
      hrest _ fun y _ _ => bank0_ne_shadow (by omega)
    rw [copyShadow_succ, hbank]
    refine ⟨fun y h h' => ?_, fun x hx => ?_⟩
    · by_cases hy : y = 8 * w + n
      · rw [hy, rdByte_wrByte_same]
      · rw [rdByte_wrByte_ne _ _ (fun e => hy (shadow_inj.mp e))]
        exact hcopy y h (by omega)
    · rw [rdByte_wrByte_ne _ _ (hx _ (by omega) (by omega))]
      exact hrest x fun y h h' => hx y h (by omega)

theorem rdByte_setCore (s : State) (t : Nat) (c : Core) (x : Nat) : (s.setCore t c).rdByte x = s.rdByte x := rfl

/-- The copy to the shadow changes nothing that the task reads, and no byte outside the shadow. -/
theorem shadowed_reads {t w : Nat} (hw : 8 * w + 8 ≤ 0x10000) (s : State) :
    (∀ x, x < 0x10000 → (shadowed t w s).rdBank0 t x = s.rdBank0 t x) ∧
      ((shadowed t w s).core t).dirty.contains w = true ∧
      ∀ x, x < telBase t + 0x80000 ∨ telBase t + 0x90000 ≤ x → (shadowed t w s).rdByte x = s.rdByte x := by
  by_cases h : (s.core t).dirty.contains w = true
  · have e : shadowed t w s = s := if_pos h
    rw [e]
    exact ⟨fun _ _ => rfl, h, fun _ _ => rfl⟩
  · have e : shadowed t w s = (copyShadow t w 8 s).setCore t { s.core t with dirty := (s.core t).dirty ++ [w] } := if_neg h
    obtain ⟨hcopy, hrest⟩ := rdByte_copyShadow t w 8 hw s
    have hdirty : ((shadowed t w s).core t).dirty = (s.core t).dirty ++ [w] := by rw [e, setCore_same]
    have hrd : ∀ x, (shadowed t w s).rdByte x = (copyShadow t w 8 s).rdByte x := fun x => by
      rw [e, rdByte_setCore]
    refine ⟨fun x hx => ?_, by simp [hdirty], fun x hx => ?_⟩
    · have hbank : (copyShadow t w 8 s).rdByte (bank0Addr t x) = s.rdByte (bank0Addr t x) :=
        hrest _ fun y _ _ => bank0_ne_shadow hx
      unfold State.rdBank0
      rw [hdirty, hrd, hrd, hbank]
      by_cases hxw : x / 8 = w
      · have hnot : (s.core t).dirty.contains (x / 8) = false := by rw [hxw]; simpa using h
        rw [hnot, if_pos (by simp [hxw]), if_neg (by simp)]
        exact hcopy x (by omega) (by omega)
      · have hsame : ((s.core t).dirty ++ [w]).contains (x / 8) = (s.core t).dirty.contains (x / 8) := by simp [hxw]
        have hshadow : (copyShadow t w 8 s).rdByte (shadowAddr t x) = s.rdByte (shadowAddr t x) :=
          hrest _ fun y hy hy' he => hxw (by have := shadow_inj.mp he; omega)
        rw [hsame, hshadow]
    · rw [hrd]
      exact hrest x fun y hy hy' => by unfold shadowAddr; omega

theorem wrBank0_owned {k off : Nat} {b : Byte} {s : State} (h : declOwns (s.ctx k).decl off = true) :
    wrBank0 k off b s = (shadowed (k / 256) (off / 8) s).wrByte (shadowAddr (k / 256) off) b := by
  simp only [wrBank0, h, Bool.not_true, Bool.false_eq_true, if_false]
  rfl

/-- A byte stored in a context's own region of bank 0: the task reads it there, and nothing outside the shadow moves. -/
theorem wrBank0_reads {k off : Nat} (b : Byte) {s : State} (h : declOwns (s.ctx k).decl off = true) (ho : off < 0x10000) :
    (∀ x, x < 0x10000 → (wrBank0 k off b s).rdBank0 (k / 256) x = if x = off then b else s.rdBank0 (k / 256) x) ∧
      ∀ x, x < telBase (k / 256) + 0x80000 ∨ telBase (k / 256) + 0x90000 ≤ x →
        (wrBank0 k off b s).rdByte x = s.rdByte x := by
  obtain ⟨hsame, hdirty, hout⟩ := shadowed_reads (t := k / 256) (w := off / 8) (by omega) s
  rw [wrBank0_owned h]
  generalize hv : shadowed (k / 256) (off / 8) s = v at hsame hdirty hout
  have hcore : ∀ b, (v.wrByte (shadowAddr (k / 256) off) b).core (k / 256) = v.core (k / 256) := fun _ => by
    rw [State.core, wrByte_tel, State.core]
  refine ⟨fun x hx => ?_, fun x hx => ?_⟩
  · rw [← hsame x hx]
    unfold State.rdBank0
    rw [hcore, rdByte_wrByte_ne v b (bank0_ne_shadow hx)]
    by_cases hxo : x = off
    · rw [hxo, hdirty, rdByte_wrByte_same]
      simp
    · rw [rdByte_wrByte_ne v b (fun e => hxo (shadow_inj.mp e)), if_neg hxo]
  · rw [rdByte_wrByte_ne v b (by unfold shadowAddr; omega)]
    exact hout x hx

/-- Stores in bank 0 alone. -/
theorem storeData_bank0 {k n : Nat} {l : List (Nat × Byte)} (h : ∀ e ∈ l, e.1 < 0x10000) (s : State) :
    storeData k n l s = l.foldl (fun s e => wrBank0 k e.1 e.2 s) s := by
  have hfar : l.filter (fun e => decide (0x10000 ≤ e.1) && decide (e.1 < 0x3C000)) = [] := by
    rw [List.filter_eq_nil_iff]
    intro e he
    have := h e he
    simp
    omega
  unfold storeData
  dsimp only
  rw [hfar]
  exact List.foldl_ext _ _ s fun v e he => if_pos (h e he)

section
variable {k a : Nat} {l : List Byte} {s : State}

/-- The context's declaration stands through its own stores. -/
theorem ctx_wrBank0 (off : Nat) (b : Byte) (v : State) : (wrBank0 k off b v).ctx k = v.ctx k :=
  (stored_wrBank0 k off b (Stored.refl v)).ctx k

variable (hown : ∀ i, i < l.length → declOwns (s.ctx k).decl (a + i) = true) (hend : a + l.length ≤ 0x10000)
include hown hend

/-- A byte run stored in a context's own region of bank 0. -/
theorem rdBank0_run {x : Nat} (hx : x < 0x10000) :
    ((placed a l).foldl (fun s e => wrBank0 k e.1 e.2 s) s).rdBank0 (k / 256) x =
      if a ≤ x ∧ x < a + l.length then l.getD (x - a) 0 else s.rdBank0 (k / 256) x := by
  have h := foldl_placed (rd := fun s x => s.rdBank0 (k / 256) x) (wr := fun s e => wrBank0 k e.1 e.2 s)
    (I := fun v => v.ctx k = s.ctx k) (D := fun x => x < 0x10000) (c := 0) (lo := a) (hi := a + l.length)
    (fun v e hv => (ctx_wrBank0 _ _ v).trans hv)
    (fun v y b z hv hy hy' hz => by
      have hy'' := hown (y - a) (by omega)
      rw [Nat.add_sub_cancel' hy, ← hv] at hy''
      rw [Nat.zero_add]
      exact (wrBank0_reads b hy'' (by omega)).1 z hz) hx l a s rfl (Nat.le_refl _) (Nat.le_refl _)
  simpa using h

theorem rdByte_bank0Run {x : Nat} (hx : x < telBase (k / 256) + 0x80000 ∨ telBase (k / 256) + 0x90000 ≤ x) :
    ((placed a l).foldl (fun s e => wrBank0 k e.1 e.2 s) s).rdByte x = s.rdByte x := by
  refine (List.foldlRecOn (motive := fun v : State => v.ctx k = s.ctx k ∧ v.rdByte x = s.rdByte x) (placed a l) _ ⟨rfl, rfl⟩
    fun v hv e he => ?_).2
  obtain ⟨hctx, hrd⟩ := hv
  have hb := mem_placed he
  have he' := hown (e.1 - a) (by omega)
  rw [Nat.add_sub_cancel' hb.1, ← hctx] at he'
  exact ⟨(ctx_wrBank0 _ _ v).trans hctx, ((wrBank0_reads e.2 he' (by omega)).2 x hx).trans hrd⟩

end

/-! ### Banks 1 to 3 (R127) -/

/-- Bytes of one aligned 8-byte word join one record: the strobes follow those that stand, the bytes by lane. -/
theorem joinStores_word (l : List Byte) (a : Nat) (m : Nat) (bs : List Byte) (ha : a % 8 + l.length ≤ 8) (hm : m < 2 ^ (a % 8))
    (hbs : bs.length = 8) :
    joinStores (placed a l) [(a / 8 * 8, (m, bs))] =
      [(a / 8 * 8, (m + (2 ^ l.length - 1) * 2 ^ (a % 8), bs.take (a % 8) ++ l ++ bs.drop (a % 8 + l.length)))] := by
  induction l generalizing a m bs with
  | nil => simp [placed, joinStores]
  | cons b l ih =>
    rw [List.length_cons] at ha
    have hstep : joinStores (placed a (b :: l)) [(a / 8 * 8, (m, bs))] =
        joinStores (placed (a + 1) l) [(a / 8 * 8, (m + 2 ^ (a % 8), bs.set (a % 8) b))] := by
      simp [placed, joinStores, addMask, Nat.testBit_lt_two_pow hm]
    rw [hstep]
    cases l with
    | nil => simp [placed, joinStores, List.set_eq_take_append_cons_drop, hbs, Nat.mod_lt]
    | cons b' l' =>
      rw [List.length_cons] at ha
      have hmod : (a + 1) % 8 = a % 8 + 1 := by omega
      have hdiv : (a + 1) / 8 = a / 8 := by omega
      have htake : (bs.take (a % 8)).length = a % 8 := by rw [List.length_take, hbs]; omega
      have := ih (a + 1) (m + 2 ^ (a % 8)) (bs.set (a % 8) b) (by rw [List.length_cons]; omega)
        (by rw [hmod, pow_succ]; omega) (by simpa using hbs)
      rw [hdiv, hmod] at this
      rw [this]
      congr 3
      · rw [List.length_cons, List.length_cons, List.length_cons]
        have hpow : 1 ≤ 2 ^ (l'.length + 1) := Nat.one_le_two_pow
        generalize hA : 2 ^ (l'.length + 1) = A at hpow ⊢
        rw [pow_succ 2 (l'.length + 1), pow_succ 2 (a % 8), hA]
        obtain ⟨B, rfl⟩ := Nat.exists_eq_add_of_le hpow
        simp only [Nat.add_sub_cancel_left]
        have : (1 + B) * 2 - 1 = 1 + 2 * B := by omega
        rw [this]
        ring
      · have hdrop : a % 8 + 1 + (l'.length + 1) = a % 8 + (l'.length + 1 + 1) := by omega
        rw [List.take_add_one, List.take_set_of_le (Nat.le_refl _), List.drop_set_of_lt (by omega),
          List.getElem?_set_self (by omega), List.length_cons, List.length_cons, List.length_cons, hdrop]
        simp

/-- A run of bytes within one aligned 8-byte word of banks 1 to 3 is one journal record. -/
theorem storeData_far {k n a : Nat} {l : List Byte} (hl : l ≠ []) (ha : a % 8 + l.length ≤ 8) (hlo : 0x10000 ≤ a)
    (hhi : a + l.length ≤ 0x3C000) (s : State) :
    storeData k n (placed a l) s = journalAdd k n (.bank (a / 8 * 8) ((2 ^ l.length - 1) * 2 ^ (a % 8))
      ((List.replicate 8 0).take (a % 8) ++ l ++ (List.replicate 8 0).drop (a % 8 + l.length))) s := by
  have hall : ∀ e ∈ placed a l, 0x10000 ≤ e.1 ∧ e.1 < 0x3C000 := fun e he => by
    have := mem_placed he
    omega
  have hfar : (placed a l).filter (fun e => decide (0x10000 ≤ e.1) && decide (e.1 < 0x3C000)) = placed a l := by
    rw [List.filter_eq_self]
    intro e he
    simpa using hall e he
  have hskip : ∀ v : State, (placed a l).foldl (fun (s : State) (e : Nat × Byte) =>
      if e.1 < 0x10000 then wrBank0 k e.1 e.2 s
      else if 0x3C000 ≤ e.1 then
        (s.wrByte (dataAddr (k / 256) n e.1) e.2).setCore (k / 256) { s.core (k / 256) with
          wrote := addTo (s.core (k / 256)).wrote ((e.1 - 0x3C000) / 4) }
      else s) v = v := fun v =>
    List.foldlRecOn (motive := fun w => w = v) _ _ rfl fun w hw e he => by
      have := hall e he
      rw [if_neg (by omega), if_neg (by omega), hw]
  have hfirst : joinStores (placed a l) [] = joinStores (placed a l) [(a / 8 * 8, (0, List.replicate 8 0))] := by
    cases l with
    | nil => exact absurd rfl hl
    | cons b l => simp [placed, joinStores]
  unfold storeData
  dsimp only
  rw [hfar, hskip, hfirst, joinStores_word l a 0 _ ha (by positivity) (by simp)]
  simp

end Sys2Proof.Machine
end

section
/-! PROOF. Faults of a Teller (R267) and the move slot's common steps (R230 to R239): what a fault records, when a move
operation completes, and what its stores write (R206, R207, R127). -/

namespace Sys2Proof.Machine

/-! ### A Teller fault (R267) -/

theorem rb_evt_of_rb {s : State} {a i : Nat} (j : Nat) (ha : a ≠ Reg.EVT_SUM) (h : s.rb a i = true) :
    (s.evt a j).rb a i = true := by
  rw [State.rb, bit] at h ⊢
  rw [reg_evt s ha, BitVec.toNat_or, Nat.testBit_or, h, Bool.true_or]

theorem rb_evtIf_of_rb {s : State} {a i : Nat} (c : Bool) (j : Nat) (ha : a ≠ Reg.EVT_SUM) (h : s.rb a i = true) :
    (s.evtIf c a j).rb a i = true := by
  unfold State.evtIf
  split
  · exact rb_evt_of_rb j ha h
  · exact h

theorem rb_setReg_ne {s : State} {a b : Nat} (v : Word) (i : Nat) (h : b ≠ a) : (s.setReg a v).rb b i = s.rb b i := by
  rw [State.rb, State.rb, reg_setReg_ne _ _ h]

section
variable {s : State}

/-- A counted fault changes its context, and may set the quarantine event. -/
theorem countFault_eq (k : Nat) (now : Bool) (s : State) :
    ∃ x, countFault k now s = s.setCtx k x ∨ countFault k now s = (s.setCtx k x).evt Reg.TEL_EVT 4 := by
  unfold countFault
  lift_lets
  intro _ x q
  split
  · exact ⟨_, .inr rfl⟩
  · exact ⟨_, .inl rfl⟩

theorem reg_countFault_ne (k : Nat) (now : Bool) {a : Nat} (h : a ≠ Reg.TEL_EVT) (h' : a ≠ Reg.EVT_SUM) :
    (countFault k now s).reg a = s.reg a := by
  obtain ⟨x, e | e⟩ := countFault_eq k now s
  · rw [e, setCtx_reg]
  · rw [e, reg_evt_ne _ h h', setCtx_reg]

theorem rb_countFault_of_rb (k : Nat) (now : Bool) {i : Nat} (h : s.rb Reg.TEL_EVT i = true) :
    (countFault k now s).rb Reg.TEL_EVT i = true := by
  obtain ⟨x, e | e⟩ := countFault_eq k now s
  · rw [e]
    exact h
  · rw [e]
    exact rb_evt_of_rb 4 (by decide) h

theorem settled_endWaiting {k : Nat} (hk : k / 256 < 64) : Settled (fun _ => ()) s (endWaiting k s) := by
  unfold endWaiting
  refine settled_ite (Settled.refl _ s) (settled_foldl (Settled.refl _ s) fun v f hv => ?_)
  refine settled_foldl (settled_ite (settled_endTask_frame hk _ _ _ _ _ (settled_zeroOutputs _ _ hv)) hv) fun w _ hw => ?_
  exact settled_endTask_frame hk _ _ _ _ _ (settled_discard _ _ (settled_zeroOutputs _ _ hw))

/-- A fault is recorded with its Teller's cause and address, and the run is stopped. -/
theorem tellerFault_records {t cause a : Nat} {r : Run} (hrun : (s.core t).run = some r) (hcause : cause < 65536) :
    (tellerFault t cause a s).rb Reg.TEL_EVT 0 = true ∧ (tellerFault t cause a s).rf Reg.TEL_FLT0 15 0 = cause ∧
      (tellerFault t cause a s).reg Reg.TEL_FLT2 = wd a ∧ ((tellerFault t cause a s).core t).run = none := by
  unfold tellerFault
  simp only [core_mod, hrun]
  set v := State.evtIf _ _ Reg.TEL_EVT 9 with hv
  have hevt : v.rb Reg.TEL_EVT 0 = true := by
    refine rb_evtIf_of_rb _ 9 (by decide) ?_
    rw [rb_setReg_ne _ _ (by decide), rb_setReg_ne _ _ (by decide), rb_setReg_ne _ _ (by decide)]
    exact rb_evt s (by decide) (by decide)
  have hflt0 : v.reg Reg.TEL_FLT0 = wd (t % 64 * 2 ^ 24 + r.ctx % 256 * 65536 + cause) := by
    rw [hv, reg_evtIf_ne _ _ (by decide) (by decide), reg_setReg_ne _ _ (by decide), reg_setReg_ne _ _ (by decide),
      reg_setReg_same]
  have hflt2 : v.reg Reg.TEL_FLT2 = wd a := by
    rw [hv, reg_evtIf_ne _ _ (by decide) (by decide), reg_setReg_same]
  clear_value v
  set w := countFault (ctxKey (t % 64) r.ctx) (decide (cause = 7 ∨ cause = 8)) v with hw
  have hleft := runLeft_stopRun (t % 64) w
  set x := stopRun (t % 64) w with hx
  have hdone : Settled (fun _ => ()) x (if (x.ctx (ctxKey (t % 64) r.ctx)).quar then
      endWaiting (ctxKey (t % 64) r.ctx) x else x) :=
    settled_ite (settled_endWaiting (by rw [ctxKey_div]; omega)) (Settled.refl _ x)
  have hframe := hleft.toTaskFrame.trans hdone.toTaskFrame
  refine ⟨?_, ?_, ?_, ?_⟩
  · rw [hframe.rb (by decide)]
    exact rb_countFault_of_rb _ _ hevt
  · rw [hframe.rf (by decide), State.rf, reg_countFault_ne _ _ (by decide) (by decide), hflt0]
    simp only [fld, wd, BitVec.toNat_ofNat]
    omega
  · rw [hframe.reg _ (by decide), reg_countFault_ne _ _ (by decide) (by decide), hflt2]
  · rw [hdone.core t]
    have hnone := hleft.run
    rwa [core_mod] at hnone

end

/-! ### Move operations -/

section
variable {s : State} {t : Nat} {p : Pred} {r : Run} {vec : Bool} {f : Core → Run → Nat → State → MoveRes}

theorem moveOp_done (hopen : moveOpen s t p r) (hgo : vec = true ∨ (Pred.mask p (s.core t)).testBit 0 = true)
    {u : State} {loads : List (Nat × Word)} {extra : Nat} {tgt : Option Nat}
    (hf : f (s.core t) r (Pred.mask p (s.core t)) s = .done u loads extra tgt) :
    moveOp t p none vec f s = u.setCore t ((u.core t).endBundle loads extra tgt) := by
  obtain ⟨hrun, hstall, hbefore, hbad⟩ := hopen
  have hissues : (s.core t).issues = true := by simp [Core.issues, hrun, hstall]
  have hseen : (s.core t).seen = s.core t := by simp [Core.seen, hbefore]
  have hgo' : (vec || (Pred.mask p (s.core t)).testBit 0) = true := by simpa using hgo
  simp only [moveOp, hissues, hbad, hrun, hseen, hgo', hf, Bool.not_true, Bool.and_false, Bool.false_eq_true, if_false, if_true]
  rfl

theorem moveOp_fault (hopen : moveOpen s t p r) (hgo : vec = true ∨ (Pred.mask p (s.core t)).testBit 0 = true)
    {cause a : Nat} (hf : f (s.core t) r (Pred.mask p (s.core t)) s = .fault cause a) :
    moveOp t p none vec f s = tellerFault t cause a s := by
  obtain ⟨hrun, hstall, hbefore, hbad⟩ := hopen
  have hissues : (s.core t).issues = true := by simp [Core.issues, hrun, hstall]
  have hseen : (s.core t).seen = s.core t := by simp [Core.seen, hbefore]
  have hgo' : (vec || (Pred.mask p (s.core t)).testBit 0) = true := by simpa using hgo
  simp only [moveOp, hissues, hbad, hrun, hseen, hgo', hf, Bool.not_true, Bool.and_false, Bool.false_eq_true, if_false, if_true]

/-- One word of one row costs nothing more (R234). -/
theorem extraCycles_single (n a : Nat) : extraCycles n [[a]] = 0 := by
  have hrows : ∀ h, (addAll [] ((([halfRow n a].filter fun e => e.1 == h)).map (·.2))).length - 1 = 0 := by
    intro h
    by_cases he : ((halfRow n a).1 == h) = true <;> simp [he, addAll, addTo]
  simp [extraCycles, hrows]

theorem wordAddrs_single (c : Core) (j mode : Nat) (imm : Int) :
    c.wordAddrs false j mode imm 1 = [oneAddr c j mode imm] := rfl

/-! ### Loads -/

theorem loadOp_moves (hopen : moveOpen s t p r) (hmask : (Pred.mask p (s.core t)).testBit 0 = true) {o : FmtMA}
    {n align : Nat} {val : State → Run → Nat → Word} {as : List Nat}
    (has : (s.core t).wordAddrs (decide (1 < n)) o.i o.mode (immS 12 o.imm) n = as)
    (hok : accessFault (s.core t) o.i align as = none) :
    loadOp t p o false n align val s =
      (s.setCore t ((s.core t).after o.i o.mode (immS 12 o.imm))).setCore t
        (((s.setCore t ((s.core t).after o.i o.mode (immS 12 o.imm))).core t).endBundle
          (as.zipIdx.map fun e => ((o.r + e.2) % 32, val s r e.1)) (extraCycles r.folio [as]) none) := by
  refine moveOp_done hopen (.inr hmask) ?_
  dsimp only
  rw [has, hok]
  rfl

theorem loadOp_fault (hopen : moveOpen s t p r) (hmask : (Pred.mask p (s.core t)).testBit 0 = true) {o : FmtMA}
    {n align cause a : Nat} {val : State → Run → Nat → Word}
    (hbad : accessFault (s.core t) o.i align ((s.core t).wordAddrs (decide (1 < n)) o.i o.mode (immS 12 o.imm) n) =
      some (cause, a)) : loadOp t p o false n align val s = tellerFault t cause a s := by
  refine moveOp_fault hopen (.inr hmask) ?_
  dsimp only
  rw [hbad]

/-- A halfword load extends the sign (R255). -/
theorem wdi_signed16 (v : Nat) : wdi (signed 16 v) = (BitVec.ofNat 16 v).signExtend 32 := by
  have h : signed 16 v = (BitVec.ofNat 16 v).toInt := by
    rw [BitVec.toInt_eq_toNat_cond, BitVec.toNat_ofNat, signed]
    simp only [Int.ofNat_eq_natCast]
    split <;> split <;> omega
  rw [h]
  rfl

/-! ### Scalar stores -/

/-- An access that does not fault is aligned and within Table 4.1. -/
theorem accessFault_single_none {c : Core} {j align a : Nat} (h : accessFault c j align [a] = none) :
    a % align = 0 ∧ a < 0x40000 ∧ (a < 0x38000 ∨ 0x3C000 ≤ a) := by
  have hal : a % align = 0 := by
    by_contra hne
    have : (a % align != 0) = true := by simpa using hne
    simp only [accessFault, List.find?_cons, this] at h
    split at h <;> cases h
  have hout : addrOut a = false := by
    by_contra hne
    have hne' : addrOut a = true := by simpa using hne
    simp only [accessFault, List.find?_cons, hne', hal, bne_self_eq_false, List.find?_nil] at h
    split at h <;> cases h
  simp only [addrOut, Bool.or_eq_false_iff, Bool.and_eq_false_iff, decide_eq_false_iff_not] at hout
  omega

theorem after_stored (c : Core) (j mode : Nat) (imm : Int) (l w : List Nat) :
    { c with dirty := l, wrote := w }.after j mode imm = { c.after j mode imm with dirty := l, wrote := w } := by
  unfold Core.after
  split <;> rfl

/-- The registers that a store leaves: the cursor moved, SV raised where the rounding saturated. -/
def stAfter (c : Core) (j mode : Nat) (imm : Int) (sv : Bool) : Core :=
  if sv then { c.after j mode imm with sr := raise (c.after j mode imm).sr flagSV } else c.after j mode imm

/-- What a store of one number of `n` bytes at `a` leaves before its bundle ends. -/
def stState (t : Nat) (r : Run) (j mode : Nat) (imm : Int) (sv : Bool) (a n v : Nat) (s : State) : State :=
  let u := storeData (ctxKey t r.ctx) r.folio (placed a (leBytes v n)) s
  u.setCore t (stAfter (u.core t) j mode imm sv)

theorem adel_ainsert {α : Type} (l : List (Nat × α)) (k : Nat) (v : α) : adel (ainsert l k v) k = adel l k := by
  induction l with
  | nil => simp [ainsert, adel]
  | cons e l ih =>
    obtain ⟨j, w⟩ := e
    simp only [ainsert]
    split
    · simp [adel]
    · simp only [adel, List.filter_cons] at ih ⊢
      rw [ih]

theorem aput_aput {α : Type} [DecidableEq α] (l : List (Nat × α)) (d : α) (k : Nat) (v w : α) :
    aput (aput l d k v) d k w = aput l d k w := by
  have hdel : adel (aput l d k v) k = adel l k := by
    have hidem : adel (adel l k) k = adel l k := by simp [adel, List.filter_filter]
    unfold aput
    split
    · exact hidem
    · rw [adel_ainsert, hidem]
  rw [aput, hdel, aput]

theorem setCore_setCore (s : State) (t : Nat) (c d : Core) : (s.setCore t c).setCore t d = s.setCore t d := by
  simp only [State.setCore, aput_aput]

theorem afterAccess_stAfter (s : State) (t j mode : Nat) (imm : Int) (sv : Bool) :
    (if sv then (afterAccess t j mode imm s).setCore t { (afterAccess t j mode imm s).core t with
      sr := raise ((afterAccess t j mode imm s).core t).sr flagSV } else afterAccess t j mode imm s) =
      s.setCore t (stAfter (s.core t) j mode imm sv) := by
  cases sv
  · rfl
  · simp only [if_true, afterAccess, setCore_setCore, setCore_same, stAfter]

theorem storeOp_moves (hopen : moveOpen s t p r) (hmask : (Pred.mask p (s.core t)).testBit 0 = true) {j mode align : Nat}
    {imm : Int} {vals : Core → Nat → List (Nat × List Byte)} {sv : Core → Nat → Bool} {a n v : Nat}
    (hvals : vals (s.core t) (Pred.mask p (s.core t)) = [(0, leBytes v n)])
    (ha : a = oneAddr (s.core t) j mode imm) (hok : accessFault (s.core t) j align [a] = none) :
    storeOp t p false false j mode imm align vals sv s =
      (stState t r j mode imm (sv (s.core t) (Pred.mask p (s.core t))) a n v s).setCore t
        (((stState t r j mode imm (sv (s.core t) (Pred.mask p (s.core t))) a n v s).core t).endBundle [] 0 none) := by
  refine moveOp_done hopen (.inr hmask) ?_
  have has : [(0, leBytes v n)].map (fun e => (((s.core t).wordAddrs false j mode imm (e.1 + 1)).getLast?).getD 0) = [a] := by
    rw [ha]
    rfl
  have hbytes : ([a].zip [(0, leBytes v n)]).flatMap (fun e => e.2.2.zipIdx.map (fun b => (e.1 + b.2, b.1))) =
      placed a (leBytes v n) := by
    simpa using zipIdx_placed (leBytes v n) a 0
  dsimp only
  rw [hvals, has, hok, hbytes, extraCycles_single, afterAccess_stAfter]
  rfl

end

end Sys2Proof.Machine
end

section
/-! PROOF. Loads and stores of a Teller (Tables 4.8 and 4.10, R255, R260, R240): O49, load by load and store by store. -/

namespace Sys2Proof.Machine

/-! ### What a scalar store leaves -/

theorem dirty_stAfter (c : Core) (j mode : Nat) (imm : Int) (sv : Bool) : (stAfter c j mode imm sv).dirty = c.dirty := by
  have hafter : (c.after j mode imm).dirty = c.dirty := by
    unfold Core.after
    split <;> rfl
  cases sv
  · exact hafter
  · exact hafter

theorem sr_after (c : Core) (j mode : Nat) (imm : Int) : (c.after j mode imm).sr = c.sr := by
  unfold Core.after
  split <;> rfl

theorem stAfter_sr (c : Core) (j mode : Nat) (imm : Int) (sv : Bool) :
    stAfter c j mode imm sv = { c.after j mode imm with sr := if sv then c.sr ||| 1 else c.sr } := by
  cases sv
  · simp only [Bool.false_eq_true, if_false, ← sr_after c j mode imm]
    rfl
  · simp only [if_true, ← sr_after c j mode imm]
    rfl

theorem stAfter_stored (c : Core) (j mode : Nat) (imm : Int) (sv : Bool) (l w : List Nat) :
    stAfter { c with dirty := l, wrote := w } j mode imm sv = { stAfter c j mode imm sv with dirty := l, wrote := w } := by
  cases sv
  · exact after_stored c j mode imm l w
  · simp only [stAfter, if_true, after_stored]

theorem rdBank0_setCore (u : State) (t x : Nat) {c : Core} (h : c.dirty = (u.core t).dirty) :
    (u.setCore t c).rdBank0 (t % 64) x = u.rdBank0 (t % 64) x := by
  unfold State.rdBank0
  rw [core_mod, core_mod, setCore_same, h, rdByte_setCore, rdByte_setCore]

section
variable {s : State} {t : Nat} {p : Pred} {r : Run}

/-- A scalar store of an aligned number, by where its address lies. -/
theorem storesAt_stState {i : Instr} {j mode : Nat} {imm : Int} {sv : Bool} {a n v : Nat}
    (hi : moves s i t (stState t r j mode imm sv a n v s) [] 0 none) (hn : 0 < n) (ha : a % 8 + n ≤ 8) :
    storesAt s i t r (stAfter (s.core t) j mode imm sv) a n v := by
  set k := ctxKey t r.ctx with hk
  set u := storeData k r.folio (placed a (leBytes v n)) s with hu
  have hkt : k / 256 = t % 64 := ctxKey_div t r.ctx
  have hlen : (leBytes v n).length = n := length_leBytes v n
  have hst : Stored s u := stored_storeData _ _ _ (Stored.refl s)
  have hcore : (stState t r j mode imm sv a n v s).core t = stAfter (u.core t) j mode imm sv := setCore_same _ _ _
  have hrd : ∀ x, (stState t r j mode imm sv a n v s).rdByte x = u.rdByte x := fun x => rdByte_setCore _ _ _ x
  refine ⟨_, hi, ?_, fun hport => ?_, fun hbank hown => ?_, fun hlo hhi hroom => ?_⟩
  · rw [hcore, hst.core t, stAfter_stored]
  · have hport' : u = (placed a (leBytes v n)).foldl (wrPort (k / 256) r.folio) s :=
      storeData_port (fun e he => by have := mem_placed he; omega) s
    have hbytes := fun x => rdByte_port (t % 64) r.folio (leBytes v n) hport s x
    rw [hkt] at hport'
    rw [← hport', portShift_mod, hlen, ← dataAddr_port hport] at hbytes
    refine ⟨?_, ?_, fun x hx => ?_⟩
    · change u.pst = s.pst
      rw [hport']
      exact pst_port _ _ _ s
    · rw [rdBytes_eq]
      refine leNat_placed fun i hi => ?_
      rw [hrd, hbytes, if_pos (by omega), Nat.add_sub_cancel_left]
    · rw [hrd, hbytes, if_neg (by omega)]
  · have hbank' : u = (placed a (leBytes v n)).foldl (fun s e => wrBank0 k e.1 e.2 s) s :=
      storeData_bank0 (fun e he => by have := mem_placed he; omega) s
    refine ⟨?_, fun x hx => ?_⟩
    · rw [rdDataNat_eq]
      refine leNat_placed fun i hi => ?_
      have hlt : a + i < 0x10000 := by omega
      rw [State.rdData, if_pos hlt]
      change (u.setCore t (stAfter (u.core t) j mode imm sv)).rdBank0 (t % 64) (a + i) = _
      rw [rdBank0_setCore _ _ _ (dirty_stAfter _ _ _ _ _), hbank', ← hkt,
        rdBank0_run (fun i hi => hown i (by omega)) (by omega) hlt, if_pos (by omega), Nat.add_sub_cancel_left]
    · rw [hrd, hbank']
      exact rdByte_bank0Run (fun i hi => hown i (by omega)) (by omega) (by rw [hkt, telBase_mod]; exact hx)
  · have hne : leBytes v n ≠ [] := fun h => by rw [h] at hlen; exact absurd hlen (by simp; omega)
    have hfar := storeData_far (k := k) (n := r.folio) hne (by omega) hlo (by omega) s
    have hjournal : u = journalAdd k r.folio (.bank (a / 8 * 8) ((2 ^ n - 1) * 2 ^ (a % 8))
        ((List.replicate 8 0).take (a % 8) ++ leBytes v n ++ (List.replicate 8 0).drop (a % 8 + n))) s := by
      rw [hu, hfar, hlen]
    unfold journalAdd at hjournal
    rw [hkt, if_neg (Nat.not_le.mpr hroom), hk, ctxKey_mod] at hjournal
    have hpst : (stState t r j mode imm sv a n v s).pst = u.pst := rfl
    have hmem : (stState t r j mode imm sv a n v s).mem = u.mem := rfl
    refine ⟨?_, (List.replicate 8 0).take (a % 8) ++ leBytes v n ++ (List.replicate 8 0).drop (a % 8 + n), ?_, ?_⟩
    · rw [hmem, hjournal]
      rfl
    · have hslice : slice ((List.replicate 8 (0 : Byte)).take (a % 8) ++ leBytes v n ++
          (List.replicate 8 0).drop (a % 8 + n)) (a % 8) n = leBytes v n := by
        have hdrop : ((List.replicate 8 (0 : Byte)).take (a % 8)).length = a % 8 := by
          rw [List.length_take, List.length_replicate]
          omega
        rw [slice, List.append_assoc, List.drop_left' hdrop, List.take_left' hlen]
      rw [hslice, leNat_leBytes]
    · rw [hpst, hjournal]
      rfl

/-! ### Stores of the lanes of a mask (R260) -/

/-- Words of the lanes `ks` stored in the port view from `a` upward. -/
def wrLanes (t n a : Nat) (w : Nat → Word) (ks : List Nat) (s : State) : State :=
  ks.foldl (fun s k => (placed (a + 4 * k) (wordLe (w k))).foldl (wrPort t n) s) s

theorem mem_maskList {m k : Nat} : k ∈ maskList m 8 ↔ k < 8 ∧ m.testBit k = true := by simp [maskList, inMask]

theorem length_wordLe (w : Word) : (wordLe w).length = 4 := length_leBytes _ _

/-- One lane's word stands where it was stored, the others where they stood. -/
theorem rdWord_wrLane (t n : Nat) {a k : Nat} (ha : 0x3C000 ≤ a) (w : Word) (s : State) (k' : Nat) :
    ((placed (a + 4 * k) (wordLe w)).foldl (wrPort t n) s).rdWord (portShift t n + a + 4 * k') =
      if k' = k then w else s.rdWord (portShift t n + a + 4 * k') := by
  have hrd := fun x => rdByte_port t n (wordLe w) (show 0x3C000 ≤ a + 4 * k by omega) s x
  rw [length_wordLe] at hrd
  unfold State.rdWord
  by_cases hk : k' = k
  · have hbytes : ((placed (a + 4 * k) (wordLe w)).foldl (wrPort t n) s).rdBytes (portShift t n + a + 4 * k) 4 = wordLe w := by
      rw [rdBytes_eq]
      refine Eq.trans (List.map_congr_left fun i hi => ?_) (map_getD_leBytes w.toNat 4)
      have hi' := List.mem_range.mp hi
      have hsub : portShift t n + a + 4 * k + i - (portShift t n + (a + 4 * k)) = i := by omega
      rw [hrd, if_pos (by omega), hsub]
      rfl
    rw [hk, if_pos rfl, hbytes]
    exact wd_leNat_leBytes w
  · have hbytes : ((placed (a + 4 * k) (wordLe w)).foldl (wrPort t n) s).rdBytes (portShift t n + a + 4 * k') 4 =
        s.rdBytes (portShift t n + a + 4 * k') 4 :=
      rdBytes_congr fun x hx hx' => by rw [hrd, if_neg (by omega)]
    rw [if_neg hk, hbytes]

theorem wrLanes_reads (t n : Nat) {a : Nat} (ha : 0x3C000 ≤ a) (w : Nat → Word) (ks : List Nat) (hks : ∀ k ∈ ks, k < 8)
    (s : State) :
    (∀ k, (wrLanes t n a w ks s).rdWord (portShift t n + a + 4 * k) =
      if k ∈ ks then w k else s.rdWord (portShift t n + a + 4 * k)) ∧
    (∀ x, x < portShift t n + a ∨ portShift t n + a + 32 ≤ x → (wrLanes t n a w ks s).rdByte x = s.rdByte x) ∧
    (wrLanes t n a w ks s).pst = s.pst := by
  induction ks generalizing s with
  | nil =>
    refine ⟨fun k => ?_, fun _ _ => rfl, rfl⟩
    rw [if_neg List.not_mem_nil]
    rfl
  | cons k ks ih =>
    have hk := hks k List.mem_cons_self
    obtain ⟨hword, hbyte, hpst⟩ := ih (fun k' hk' => hks k' (List.mem_cons_of_mem _ hk'))
      ((placed (a + 4 * k) (wordLe (w k))).foldl (wrPort t n) s)
    have hcons : wrLanes t n a w (k :: ks) s =
        wrLanes t n a w ks ((placed (a + 4 * k) (wordLe (w k))).foldl (wrPort t n) s) := by
      rw [wrLanes, wrLanes, List.foldl_cons]
    rw [hcons]
    refine ⟨fun k' => ?_, fun x hx => ?_, hpst.trans (pst_port _ _ _ s)⟩
    · rw [hword, rdWord_wrLane t n ha]
      by_cases hin : k' ∈ ks
      · simp [hin]
      · by_cases hkk : k' = k
        · simp [hkk]
        · simp [hin, hkk]
    · rw [hbyte x hx, rdByte_port t n _ (show 0x3C000 ≤ a + 4 * k by omega), length_wordLe, if_neg (by omega)]

/-- A linear cursor addresses its lanes one word after another (R237). -/
theorem through_linear {c : Core} {j k : Nat} (hl : c.lw j = 0) (hk : k < 8) (ha : c.iw j + 32 ≤ 0x40000) :
    c.through j (4 * k) = c.iw j + 4 * k := by
  have hcast : ((c.iw j : Int) + (4 * k : Nat)) = ((c.iw j + 4 * k : Nat) : Int) := by push_cast; rfl
  unfold Core.through
  simp only [hl, Nat.cast_zero, if_true, hcast, wdi, BitVec.ofInt_natCast, BitVec.toNat_ofNat]
  exact Nat.mod_eq_of_lt (by omega)

theorem lane_address {c : Core} {j mode k : Nat} {imm : Int} (hmode : mode % 4 ≠ 3) (hl : c.lw j = 0) (hk : k < 8)
    (ha : c.iw j + 32 ≤ 0x40000) : ((c.wordAddrs true j mode imm (k + 1)).getLast?).getD 0 = c.iw j + 4 * k := by
  have hlast : (c.wordAddrs true j mode imm (k + 1)).getLast? = some (c.through j (4 * k)) := by
    unfold Core.wordAddrs
    rw [List.range_succ, List.map_append, List.map_singleton, List.getLast?_concat, if_neg hmode, if_pos rfl]
  rw [hlast, Option.getD_some, through_linear hl hk ha]

/-- Aligned lanes within the port view do not fault. -/
theorem accessFault_lanes {c : Core} {j a : Nat} {ks : List Nat} (hl : c.lw j = 0) (hb : c.bw j % 4 = 0) (ha : a % 4 = 0)
    (hlo : 0x3C000 ≤ a) (hhi : a + 32 ≤ 0x40000) (hks : ∀ k ∈ ks, k < 8) :
    accessFault c j 4 (ks.map fun k => a + 4 * k) = none := by
  have hring : c.ringBad j 4 = false := by simp [Core.ringBad, hb, hl]
  have halign : (ks.map fun k => a + 4 * k).find? (fun x => x % 4 != 0) = none := by
    rw [List.find?_eq_none]
    intro x hx
    obtain ⟨k, -, rfl⟩ := List.mem_map.mp hx
    simp
    omega
  have hin : (ks.map fun k => a + 4 * k).find? addrOut = none := by
    rw [List.find?_eq_none]
    intro x hx
    obtain ⟨k, hk, rfl⟩ := List.mem_map.mp hx
    have := hks k hk
    simp [addrOut]
    omega
  unfold accessFault
  rw [halign, hin, hring]
  split <;> rfl

/-- A vector store in the port view: the lanes of the mask, and no other byte. -/
theorem vecStore_lanes (hopen : moveOpen s t p r) {j mode : Nat} {imm : Int} {w : Nat → Word}
    {vals : Core → Nat → List (Nat × List Byte)} {sv : Core → Nat → Bool} {a : Nat}
    (hvals : vals (s.core t) (Pred.mask p (s.core t)) = (maskList (Pred.mask p (s.core t)) 8).map fun k => (k, wordLe (w k)))
    (ha : a = (s.core t).iw j) (hmode : mode % 4 ≠ 3) (hl : (s.core t).lw j = 0) (hb : (s.core t).bw j % 4 = 0)
    (hal : a % 4 = 0) (hlo : 0x3C000 ≤ a) (hhi : a + 32 ≤ 0x40000) :
    ∃ (u : State) (x : Nat), storeOp t p false true j mode imm 4 vals sv s = u.setCore t ((u.core t).endBundle [] x none) ∧
      (∀ k, k < 8 → u.rdWord (dataAddr t r.folio a + 4 * k) = if (Pred.mask p (s.core t)).testBit k then w k
        else s.rdWord (dataAddr t r.folio a + 4 * k)) ∧
      (∀ b, b < dataAddr t r.folio a ∨ dataAddr t r.folio a + 32 ≤ b → u.rdByte b = s.rdByte b) ∧ u.pst = s.pst := by
  set ks := maskList (Pred.mask p (s.core t)) 8 with hks
  have hks8 : ∀ k ∈ ks, k < 8 := fun k hk => (mem_maskList.mp hk).1
  have has : (ks.map fun k => (k, wordLe (w k))).map
      (fun e => (((s.core t).wordAddrs true j mode imm (e.1 + 1)).getLast?).getD 0) = ks.map fun k => a + 4 * k := by
    rw [List.map_map]
    refine List.map_congr_left fun k hk => ?_
    rw [Function.comp_apply, lane_address hmode hl (hks8 k hk) (by omega), ha]
  have hbytes : ((ks.map fun k => a + 4 * k).zip (ks.map fun k => (k, wordLe (w k)))).flatMap
      (fun e => e.2.2.zipIdx.map fun b => (e.1 + b.2, b.1)) = ks.flatMap fun k => placed (a + 4 * k) (wordLe (w k)) := by
    rw [List.zip_map', List.flatMap_map]
    exact List.flatMap_congr fun k _ => zipIdx_placed (wordLe (w k)) (a + 4 * k) 0
  set v := storeData (ctxKey t r.ctx) r.folio (ks.flatMap fun k => placed (a + 4 * k) (wordLe (w k))) s with hv
  have hlanes : v = wrLanes (t % 64) r.folio a w ks s := by
    rw [hv, storeData_port (fun e he => ?_), ctxKey_div, List.foldl_flatMap]
    · rfl
    · obtain ⟨k, -, he⟩ := List.mem_flatMap.mp he
      have := mem_placed he
      omega
  obtain ⟨hword, hbyte, hpst⟩ := wrLanes_reads (t % 64) r.folio hlo w ks hks8 s
  rw [← hlanes, portShift_mod, ← dataAddr_port hlo] at hword hbyte
  rw [← hlanes] at hpst
  refine ⟨v.setCore t (stAfter (v.core t) j mode imm (sv (s.core t) (Pred.mask p (s.core t)))), _,
    moveOp_done hopen (.inl rfl) (extra := extraCycles r.folio [ks.map fun k => a + 4 * k]) ?_, fun k hk => ?_, hbyte, hpst⟩
  · dsimp only
    rw [hvals, has, accessFault_lanes hl hb hal hlo hhi hks8, hbytes, afterAccess_stAfter]
  · refine (hword k).trans ?_
    simp only [hks, mem_maskList, hk, true_and]

/-! ### LD2I (R240) -/

theorem modify_setI_ne (c : Core) {i j : Nat} (v : Word) (m : Int) (h : i % 8 ≠ j % 8) :
    (c.setI i v).modify j m = c.modify j m := by
  have hi : (c.setI i v).iw j = c.iw j := by
    unfold Core.iw Core.setI
    rw [aget_aput_ne _ _ _ _ (Ne.symm h)]
  unfold Core.modify
  rw [hi]
  rfl

theorem ld2i_moves (hopen : moveOpen s t p r) {o : FmtLD2I} (hz : o.z = 0) (hij : o.ia % 4 ≠ o.ib % 4)
    (ha : accessFault (s.core t) o.ia 4 ((s.core t).wordAddrs true o.ia 0 0 8) = none)
    (hb : accessFault (s.core t) o.ib 4 ((s.core t).wordAddrs true o.ib 0 0 8) = none) :
    ∃ x, moves s (.ld2i t o) t
      { s.setCore t (((s.core t).setI o.ia ((s.core t).modify o.ia (4 * immS 10 o.imma))).setI o.ib
          ((s.core t).modify o.ib (4 * immS 10 o.immb))) with
        free := if o.ga % 4 = o.gb % 4 then s.free + 8 else s.free }
      ((List.range 8).map (fun k => ((8 * o.ga + k) % 32, wd (s.rdDataNat (t % 64) r.folio ((s.core t).through o.ia (4 * k)) 4))) ++
        (List.range 8).map (fun k => ((8 * o.gb + k) % 32, if o.ga % 4 = o.gb % 4 then Config.freeWord (s.free + k)
          else wd (s.rdDataNat (t % 64) r.folio ((s.core t).through o.ib (4 * k)) 4)))) x none := by
  obtain ⟨hlive, hrun, hidle, -⟩ := hopen
  have hopen' : moveOpen s t ⟨false, false, 0⟩ r := ⟨hlive, hrun, hidle, rfl⟩
  have hcursors : ∀ v : State, v.core t = s.core t →
      afterAccess t o.ib 1 (4 * immS 10 o.immb) (afterAccess t o.ia 1 (4 * immS 10 o.imma) v) =
        v.setCore t (((s.core t).setI o.ia ((s.core t).modify o.ia (4 * immS 10 o.imma))).setI o.ib
          ((s.core t).modify o.ib (4 * immS 10 o.immb))) := by
    intro v hv
    simp only [afterAccess, setCore_setCore, setCore_same, hv]
    simp only [Core.after, Nat.reduceMod]
    rw [modify_setI_ne _ _ _ (by omega)]
  refine ⟨extraCycles r.folio [(s.core t).wordAddrs true o.ia 0 0 8, (s.core t).wordAddrs true o.ib 0 0 8], ?_⟩
  change Host.Outcome.next (ld2iOp t o s) = _
  congr 1
  unfold ld2iOp
  simp only [hz, ne_eq, not_true_eq_false, if_false, hij]
  refine moveOp_done hopen' (.inr (by simp [Pred.mask])) ?_
  rw [ha, hb]
  by_cases hg : o.ga % 4 = o.gb % 4
  · simp only [hg, decide_true, if_true]
    rw [hcursors { s with free := s.free + 8 } rfl]
    rfl
  · simp only [hg, decide_false, Bool.false_eq_true, if_false]
    rw [hcursors s rfl]
    rfl

end

/-- Settles O49, load by load and store by store. -/
theorem tellerLoadsAndStores : Obligations.TellerLoadsAndStores := by
  intro s t p r hopen
  refine ⟨fun hmask o m a hm ha => ⟨fun hok => ⟨?_, ?_⟩, fun hok => ⟨?_, ?_⟩, fun hr hok => ?_, fun e x hbad he => ?_⟩,
    fun hmask o m a q hm ha hok hq => ?_, fun o a ha hmode hr hl hb hal hlo hhi => ?_,
    fun o a ha hmode hl hb hal hlo hhi => ?_, fun o hz hij ha hb => ld2i_moves hopen hz hij ha hb⟩
  · subst hm ha
    have h := loadOp_moves hopen hmask (n := 1) (val := loadWord t) (wordAddrs_single _ _ _ _) hok
    rw [extraCycles_single] at h
    exact congrArg Host.Outcome.next h
  · obtain ⟨hal, -, -⟩ := accessFault_single_none hok
    subst hm
    exact storesAt_stState (sv := false) (congrArg Host.Outcome.next
      (storeOp_moves (sv := noFlag) hopen hmask (vals := fun c _ => [(0, wordLe (c.dw o.r))]) rfl ha hok)) (by decide) (by omega)
  · subst hm ha
    have h := loadOp_moves hopen hmask (n := 1) (val := fun s r a => wdi (signed 16 (s.rdDataNat (t % 64) r.folio a 2)))
      (wordAddrs_single _ _ _ _) hok
    rw [extraCycles_single] at h
    rw [← wdi_signed16]
    exact congrArg Host.Outcome.next h
  · obtain ⟨hal, -, -⟩ := accessFault_single_none hok
    subst hm
    exact storesAt_stState (sv := false) (congrArg Host.Outcome.next
      (storeOp_moves (sv := noFlag) hopen hmask (vals := fun c _ => [(0, leBytes (c.dw o.r).toNat 2)]) rfl ha hok))
      (by decide) (by omega)
  · subst hm
    have hvec : (!isVec o.r) = false := by simp [isVec, hr]
    refine ⟨extraCycles r.folio [(s.core t).wordAddrs true o.i o.mode (immS 12 o.imm) 8], ?_⟩
    change Host.Outcome.next (loadOp t p o (!isVec o.r) 8 4 (loadWord t) s) = _
    rw [hvec]
    exact congrArg Host.Outcome.next (loadOp_moves hopen hmask (n := 8) (val := loadWord t) rfl hok)
  · subst hm ha
    refine ⟨tellerFault t e x s, congrArg Host.Outcome.next (loadOp_fault hopen hmask (n := 1) ?_),
      tellerFault_records hopen.1 he⟩
    exact (congrArg (accessFault _ _ 4) (wordAddrs_single _ _ _ _)).trans hbad
  · obtain ⟨hal, -, -⟩ := accessFault_single_none hok
    subst hm hq
    have h := storesAt_stState (i := .str t p o) (congrArg Host.Outcome.next
      (storeOp_moves (sv := fun c _ => (c.rounded o.acc o.sh).2 != 0) hopen hmask
        (vals := fun c _ => [(0, wordLe (c.rounded o.acc o.sh).1)]) rfl ha hok)) (by decide) (by omega)
    have hcore : stAfter (s.core t) o.i o.mode (immS 8 o.imm) (((s.core t).rounded o.acc o.sh).2 != 0) =
        { (s.core t).after o.i o.mode (immS 8 o.imm) with
          sr := if sat32 (rhu ((s.core t).av o.acc) (o.sh % 64)) = rhu ((s.core t).av o.acc) (o.sh % 64) then (s.core t).sr
            else (s.core t).sr ||| 1 } := by
      rw [stAfter_sr]
      simp only [Core.rounded, satur32]
      split <;> rfl
    rw [hcore] at h
    exact h
  · have hvec : (!isVec o.r) = false := by simp [isVec, hr]
    obtain ⟨u, x, hu, h⟩ := vecStore_lanes (sv := noFlag) (imm := immS 12 o.imm) (w := fun k => (s.core t).dw (o.r + k))
      (vals := fun c m => (maskList m 8).map (fun k => (k, wordLe (c.dw (o.r + k))))) hopen rfl ha hmode hl hb hal hlo hhi
    refine ⟨u, x, ?_, h⟩
    change Host.Outcome.next (storeOp t p (!isVec o.r) true o.i o.mode (immS 12 o.imm) 4 _ noFlag s) = _
    rw [hvec]
    exact congrArg Host.Outcome.next hu
  · obtain ⟨u, x, hu, h⟩ := vecStore_lanes (imm := immS 8 o.imm) (sv := fun c m => (maskList m 8).any (fun k => (c.rounded k o.sh).2 != 0))
      (w := fun k => ((s.core t).rounded k o.sh).1)
      (vals := fun c m => (maskList m 8).map (fun k => (k, wordLe (c.rounded k o.sh).1))) hopen rfl ha hmode hl hb hal hlo hhi
    exact ⟨u, x, congrArg Host.Outcome.next hu, h⟩

end Sys2Proof.Machine
end

section
/-! PROOF. PST_CTRL, PST_CUT, PST_WIN and the changes of a pair (R95, R96, R576, R777): O45, register by register. -/

namespace Sys2Proof.Machine

/-! ### Fields of plain RW registers (R23) -/

/-- A field that software may write takes the value written. -/
theorem fld_writeByType {r : RegSpec} (hw1c : r.w1c = 0) (hw1s : r.w1s = 0) (old v : Word) {hi lo : Nat} (hhi : hi < 32)
    (hrw : ∀ i, lo ≤ i → i ≤ hi → (wd r.rw).getLsbD i = true) : fld (writeByType r old v) hi lo = fld v hi lo := by
  refine Nat.eq_of_testBit_eq fun j => ?_
  simp only [fld, Nat.testBit_mod_two_pow, Nat.testBit_div_two_pow]
  by_cases hj : j < hi + 1 - lo
  · have hw : ∀ i, (wd 0).getLsbD i = false := fun i => by simp [wd]
    have h := getLsbD_writeByType r old v (i := j + lo) (by omega)
    rw [hw1s, hw1c, hw, hrw (j + lo) (by omega) (by omega)] at h
    simpa [BitVec.getLsbD] using congrArg (decide (j < hi + 1 - lo) && ·) h
  · simp [hj]

theorem reg_typeWrite {s : State} {a : Nat} {r : RegSpec} (hr : regSpec? a = some r) (hw1c : r.w1c = 0) (v : Word) :
    (s.typeWrite a v).reg a = writeByType r (s.reg a) v := by
  rw [typeWrite_eq hr, reg_setReg_same, hw1c]
  simp [wd]

theorem rf_typeWrite {s : State} {a : Nat} {r : RegSpec} (hr : regSpec? a = some r) (hw1c : r.w1c = 0) (hw1s : r.w1s = 0)
    (v : Word) {hi lo : Nat} (hhi : hi < 32) (hrw : ∀ i, lo ≤ i → i ≤ hi → (wd r.rw).getLsbD i = true) :
    (s.typeWrite a v).rf a hi lo = fld v hi lo := by
  rw [State.rf, reg_typeWrite hr hw1c, fld_writeByType hw1c hw1s _ _ hhi hrw]

theorem reg_typeWrite_ne {s : State} {a b : Nat} (v : Word) (h : b ≠ a) : (s.typeWrite a v).reg b = s.reg b := by
  unfold State.typeWrite
  split
  · exact reg_setReg_ne _ _ h
  · rfl

theorem mem_typeWrite (s : State) (a : Nat) (v : Word) : (s.typeWrite a v).mem = s.mem := by
  unfold State.typeWrite
  split <;> rfl

theorem pst_typeWrite (s : State) (a : Nat) (v : Word) : (s.typeWrite a v).pst = s.pst := by
  unfold State.typeWrite
  split <;> rfl

theorem tim_typeWrite (s : State) (a : Nat) (v : Word) : (s.typeWrite a v).tim = s.tim := by
  unfold State.typeWrite
  split <;> rfl

theorem bit_eq_fld (w : Word) (i : Nat) : bit w i = decide (fld w i i = 1) := by
  unfold bit fld
  rw [Nat.testBit_eq_decide_div_mod_eq]
  simp

/-- Bit 0 stands when a bit above it is replaced. -/
theorem rb_setBit_above (s : State) (a i : Nat) (b : Bool) : (s.setBit a (i + 1) b).rb a 0 = s.rb a 0 := by
  rw [State.setBit, State.setFld, State.rb, reg_setReg_same, State.rb]
  generalize s.reg a = w
  have hle : w.toNat / 2 ^ (i + 1) % 2 ^ (i + 1 + 1 - (i + 1)) * 2 ^ (i + 1) ≤ w.toNat :=
    (Nat.mul_le_mul_right _ (Nat.mod_le _ _)).trans (Nat.div_mul_le_self _ _)
  simp only [bit, putFld, wd, BitVec.toNat_ofNat, Nat.testBit_zero]
  rw [Nat.pow_succ] at hle ⊢
  generalize w.toNat / (2 ^ i * 2) % 2 ^ (i + 1 + 1 - (i + 1)) = x at hle ⊢
  generalize b2n b % 2 ^ (i + 1 + 1 - (i + 1)) = y
  rw [← Nat.mul_assoc] at hle ⊢
  rw [← Nat.mul_assoc]
  congr 2
  omega

theorem pstCtrl_spec : ∃ r, regSpec? Reg.PST_CTRL = some r ∧ r.rw = 0x1F ∧ r.w1c = 0 ∧ r.w1s = 0 := ⟨_, rfl, rfl, rfl, rfl⟩

theorem pstCut_spec : ∃ r, regSpec? Reg.PST_CUT = some r ∧ r.rw = 0x7F7F ∧ r.w1c = 0 ∧ r.w1s = 0 := ⟨_, rfl, rfl, rfl, rfl⟩

theorem pstWin_spec : ∃ r, regSpec? Reg.PST_WIN = some r ∧ r.rw = 0x1F1F ∧ r.w1c = 0 ∧ r.w1s = 0 := ⟨_, rfl, rfl, rfl, rfl⟩

/-! ### PST_CTRL (R777) -/

/-- What the hinge logic holds is set again after a write of PST_CTRL (R573). -/
def ctrlHeld (sh : Bool) (s : State) : State :=
  if s.hingeHolds then (s.setBit Reg.PST_CTRL 2 true).setBit Reg.PST_CTRL 1 sh else s

section
variable {s : State}

theorem ctrlHeld_keeps (sh : Bool) (s : State) : (ctrlHeld sh s).pst = s.pst ∧ (ctrlHeld sh s).tim = s.tim ∧
    (ctrlHeld sh s).mem = s.mem ∧ (∀ a, a ≠ Reg.PST_CTRL → (ctrlHeld sh s).reg a = s.reg a) ∧
    (ctrlHeld sh s).rb Reg.PST_CTRL 0 = s.rb Reg.PST_CTRL 0 := by
  unfold ctrlHeld
  split
  · refine ⟨rfl, rfl, rfl, fun a ha => ?_, ?_⟩
    · exact (reg_setReg_ne _ _ ha).trans (reg_setReg_ne _ _ ha)
    · rw [rb_setBit_above, rb_setBit_above]
  · exact ⟨rfl, rfl, rfl, fun _ _ => rfl, rfl⟩

theorem firstAfter_congr {u : State} (htim : u.tim = s.tim) (hcut : u.reg Reg.PST_CUT = s.reg Reg.PST_CUT) (x : Int) :
    u.firstAfter x = s.firstAfter x := by
  rw [State.firstAfter, State.firstAfter, State.sysT, State.sysT, State.entryUs, State.entryUs, State.rf, State.rf, htim, hcut]

/-- EN written 1 starts the engine with the first folio whose entry cut lies after the write (R777). -/
theorem pstEnWrite_starts (hl : s.hostLive = true) {v : Word} (hwas : s.rb Reg.PST_CTRL 0 = false) (hv : bit v 0 = true) :
    ∃ t, exec (.pstEnWrite v) s = .next t ∧ t.pst.run = true ∧
      t.pst.next = s.firstAfter 0 ∧ t.pst.cur = none ∧ t.pst.post = s.rf Reg.PST_CUT 14 8 ∧
      t.rb Reg.PST_CTRL 0 = true ∧ t.mem = s.mem := by
  set u := ctrlHeld (s.rb Reg.PST_CTRL 1) (s.typeWrite Reg.PST_CTRL v) with hu
  obtain ⟨hpst, htim, hmem, hreg, hbit⟩ := ctrlHeld_keeps (s.rb Reg.PST_CTRL 1) (s.typeWrite Reg.PST_CTRL v)
  rw [← hu] at hpst htim hmem hreg hbit
  have hcut : u.reg Reg.PST_CUT = s.reg Reg.PST_CUT :=
    (hreg _ (by decide)).trans (reg_typeWrite_ne v (by decide))
  obtain ⟨r, hr, hrw, hw1c, hw1s⟩ := pstCtrl_spec
  have hen : u.rb Reg.PST_CTRL 0 = true := by
    have hf := rf_typeWrite (s := s) hr hw1c hw1s v (hi := 0) (lo := 0) (by decide) (fun i _ hi => by
      obtain rfl : i = 0 := by omega
      rw [hrw]
      decide)
    have hsame : bit ((s.typeWrite Reg.PST_CTRL v).reg Reg.PST_CTRL) 0 = bit v 0 := by
      rw [bit_eq_fld, bit_eq_fld]
      exact congrArg (fun x => decide (x = 1)) hf
    rw [hbit, State.rb, hsame, hv]
  refine ⟨_, (hostDo_live hl _ : exec (.pstEnWrite v) s = .next (pstCtrlWriteOp v s)), ?_⟩
  have hop : pstCtrlWriteOp v s = u.setPst { u.pst with
      run := true, paused := false, next := u.firstAfter 0, cur := none, post := u.rf Reg.PST_CUT 14 8
      postNext := [], undef := none } := by
    have hgo : bit v 0 = true ∧ (!s.rb Reg.PST_CTRL 0) = true := ⟨hv, by rw [hwas]; rfl⟩
    exact if_pos hgo
  rw [hop]
  exact ⟨rfl, firstAfter_congr (htim.trans (tim_typeWrite _ _ _)) hcut 0, rfl, congrArg (fun w => fld w 14 8) hcut, hen,
    hmem.trans (mem_typeWrite _ _ _)⟩

/-- EN written 0 stops the engine with nothing in flight (R777, log entry 27). -/
theorem pstEnWrite_stops (hl : s.hostLive = true) {v : Word} (hwas : s.rb Reg.PST_CTRL 0 = true) (hv : bit v 0 = false) :
    ∃ t, exec (.pstEnWrite v) s = .next t ∧ t.pst.run = false ∧ t.pst.fols = [] ∧ t.pst.arrived = [] ∧
      t.pst.journal = [] := by
  refine ⟨_, (hostDo_live hl _ : exec (.pstEnWrite v) s = .next (pstCtrlWriteOp v s)), ?_⟩
  have hgo : ¬(bit v 0 = true ∧ (!s.rb Reg.PST_CTRL 0) = true) := by simp [hv]
  have hstop : (!bit v 0) = true ∧ s.rb Reg.PST_CTRL 0 = true := ⟨by rw [hv]; rfl, hwas⟩
  unfold pstCtrlWriteOp
  dsimp only
  rw [if_neg hgo, if_pos hstop]
  exact ⟨rfl, rfl, rfl, rfl⟩

/-! ### PST_CUT and PST_WIN (R95, R96) -/

theorem pstCutWrite_runs (hl : s.hostLive = true) (v : Word) : exec (.pstCutWrite v) s = .next (pstCutWriteOp v s) :=
  hostDo_live hl _

theorem pstWinWrite_runs (hl : s.hostLive = true) (v : Word) : exec (.pstWinWrite v) s = .next (pstWinWriteOp v s) :=
  hostDo_live hl _

/-- A write that Table 2.1 or the running engine forbids is ignored, with its event. -/
theorem cutErr_ignores (s : State) {a : Nat} (ha : a ≠ Reg.PST_EVT) (ha' : a ≠ Reg.EVT_SUM) :
    (s.evt Reg.PST_EVT 8).reg a = s.reg a ∧ (s.evt Reg.PST_EVT 8).rb Reg.PST_EVT 8 = true ∧
      (s.evt Reg.PST_EVT 8).pst = s.pst ∧ (s.evt Reg.PST_EVT 8).mem = s.mem :=
  ⟨reg_evt_ne _ ha ha', rb_evt s (by decide) (by decide), evt_pst _ _ _, evt_mem _ _ _⟩

theorem pstCutWrite_refused (hl : s.hostLive = true) {v : Word}
    (h : cutsOk (fld v 6 0) (fld v 14 8) s.srcWin s.sinkWin = false ∨ s.rb Reg.PST_CTRL 0 = true ∧ fld v 6 0 ≠ s.entryUs) :
    ∃ t, exec (.pstCutWrite v) s = .next t ∧ t.reg Reg.PST_CUT = s.reg Reg.PST_CUT ∧ t.rb Reg.PST_EVT 8 = true ∧
      t.pst = s.pst ∧ t.mem = s.mem := by
  refine ⟨_, pstCutWrite_runs hl v, ?_⟩
  have hno : (!cutsOk (fld v 6 0) (fld v 14 8) s.srcWin s.sinkWin) = true ∨
      s.rb Reg.PST_CTRL 0 = true ∧ fld v 6 0 ≠ s.entryUs := h.imp_left fun h => by rw [h]; rfl
  unfold pstCutWriteOp
  dsimp only
  rw [if_pos hno]
  exact cutErr_ignores s (by decide) (by decide)

theorem pstCutWrite_taken (hl : s.hostLive = true) {v : Word}
    (hok : cutsOk (fld v 6 0) (fld v 14 8) s.srcWin s.sinkWin = true) (hoff : s.rb Reg.PST_CTRL 0 = false) :
    ∃ t, exec (.pstCutWrite v) s = .next t ∧ t.entryUs = fld v 6 0 ∧ t.pst = { s.pst with
      post := fld v 14 8
      postNext := [] } ∧ t.mem = s.mem := by
  refine ⟨_, pstCutWrite_runs hl v, ?_⟩
  have hgo : ¬((!cutsOk (fld v 6 0) (fld v 14 8) s.srcWin s.sinkWin) = true ∨
      s.rb Reg.PST_CTRL 0 = true ∧ fld v 6 0 ≠ s.entryUs) := by simp [hok, hoff]
  have hrun : ¬s.rb Reg.PST_CTRL 0 = true := by simp [hoff]
  obtain ⟨r, hr, hrw, hw1c, hw1s⟩ := pstCut_spec
  unfold pstCutWriteOp
  dsimp only
  rw [if_neg hgo, if_neg hrun, pst_typeWrite]
  refine ⟨rf_typeWrite hr hw1c hw1s v (by decide) fun i _ hi => ?_, rfl, mem_typeWrite _ _ _⟩
  rw [hrw]
  interval_cases i <;> decide

theorem pstWinWrite_refused (hl : s.hostLive = true) {v : Word}
    (h : cutsOk s.entryUs (s.rf Reg.PST_CUT 14 8) (fld v 4 0) (fld v 12 8) = false) :
    ∃ t, exec (.pstWinWrite v) s = .next t ∧ t.reg Reg.PST_WIN = s.reg Reg.PST_WIN ∧ t.rb Reg.PST_EVT 8 = true := by
  refine ⟨_, pstWinWrite_runs hl v, ?_⟩
  have hno : (!cutsOk s.entryUs (s.rf Reg.PST_CUT 14 8) (fld v 4 0) (fld v 12 8)) = true ∨
      s.rb Reg.PST_CTRL 0 = true ∧ (fld v 4 0 ≠ s.srcWin ∨ fld v 12 8 ≠ s.sinkWin) := .inl (by rw [h]; rfl)
  unfold pstWinWriteOp
  dsimp only
  rw [if_pos hno]
  obtain ⟨hreg, hevt, -, -⟩ := cutErr_ignores s (a := Reg.PST_WIN) (by decide) (by decide)
  exact ⟨hreg, hevt⟩

theorem pstWinWrite_taken (hl : s.hostLive = true) {v : Word}
    (hok : cutsOk s.entryUs (s.rf Reg.PST_CUT 14 8) (fld v 4 0) (fld v 12 8) = true) (hoff : s.rb Reg.PST_CTRL 0 = false) :
    ∃ t, exec (.pstWinWrite v) s = .next t ∧ t.srcWin = fld v 4 0 ∧ t.sinkWin = fld v 12 8 ∧ t.pst = s.pst ∧
      t.mem = s.mem := by
  refine ⟨_, pstWinWrite_runs hl v, ?_⟩
  have hgo : ¬((!cutsOk s.entryUs (s.rf Reg.PST_CUT 14 8) (fld v 4 0) (fld v 12 8)) = true ∨
      s.rb Reg.PST_CTRL 0 = true ∧ (fld v 4 0 ≠ s.srcWin ∨ fld v 12 8 ≠ s.sinkWin)) := by simp [hok, hoff]
  obtain ⟨r, hr, hrw, hw1c, hw1s⟩ := pstWin_spec
  unfold pstWinWriteOp
  dsimp only
  rw [if_neg hgo]
  refine ⟨rf_typeWrite hr hw1c hw1s v (by decide) fun i _ hi => ?_, rf_typeWrite hr hw1c hw1s v (by decide) fun i hlo hi => ?_,
    pst_typeWrite _ _ _, mem_typeWrite _ _ _⟩
  · rw [hrw]
    interval_cases i <;> decide
  · rw [hrw]
    interval_cases i <;> decide

/-! ### Changes of a pair (R576) -/

theorem change_kept (hl : s.hostLive = true) (e : Nat) (acts : List CtrlAct) : exec (.change e acts) s =
    .next (if s.hinged then s.setHng { s.hng with changes := s.hng.changes ++ [(e, acts)] } else s) :=
  hostDo_live hl _

theorem plainBlock_ne_swapf {a : Nat} (ha : plainBlock a) : a ≠ Reg.TEL_SWAPF := by
  rintro rfl
  revert ha
  decide

/-- A change that is due writes its register by the access types. -/
theorem changePerform_writes (hl : s.hostLive = true) {v : Word} {n e a : Nat} {r : RegSpec} (hcur : s.pst.cur = some n)
    (hch : s.hng.changes = [(e, [.write a v])]) (he : e ≤ n + 1) (ha : plainBlock a) (hnow : s.setNow = [])
    (hr : regSpec? a = some r) (hc : s.accessCause .stw true a 4 1 = 0) :
    exec .changePerform s = .next ((s.setHng { s.hng with changes := [] }).setReg a (writeByType r (s.reg a) v)) := by
  obtain ⟨hlo, hhi⟩ := plainBlock_range ha
  set u := s.setHng { s.hng with changes := [] } with hu
  have hcu : u.accessCause .stw true a 4 1 = 0 := hc
  have hop : changePerformOp s = performAct (.write a v) u := by
    unfold changePerformOp
    rw [hcur]
    simp only [hch, List.filter_cons, he, decide_true, if_true, List.filter_nil, Bool.not_true, Bool.false_eq_true, if_false,
      List.foldl_cons, List.foldl_nil, performActs, swapAt, List.map_cons, List.map_nil, plainBlock_ne_swapf ha]
    rfl
  have hhere : u.setHere a = 0 := by
    rw [State.setHere, show u.setNow = [] from hnow]
    exact BitVec.and_zero
  refine (hostDo_live hl changePerformOp : exec .changePerform s = _).trans ?_
  have hval : writeByType r (u.reg a) v ||| (u.setHere a &&& wd r.w1c) = writeByType r (s.reg a) v := by
    rw [hhere]
    exact (congrArg (writeByType r (u.reg a) v ||| ·) BitVec.zero_and).trans BitVec.or_zero
  rw [hop, performAct, busWrite_register v hlo hhi hcu, regWrite_plainBlock ha hr, hval]
  rfl

theorem changePerform_waits (hl : s.hostLive = true) {n : Nat} (hcur : s.pst.cur = some n)
    (hch : ∀ e ∈ s.hng.changes, n + 1 < e.1) : exec .changePerform s = .next s := by
  have hdue : s.hng.changes.filter (fun e => decide (e.1 ≤ n + 1)) = [] := by
    rw [List.filter_eq_nil_iff]
    intro e he
    have := hch e he
    simp
    omega
  have hkeep : s.hng.changes.filter (fun e => !decide (e.1 ≤ n + 1)) = s.hng.changes := by
    rw [List.filter_eq_self]
    intro e he
    have := hch e he
    simp
    omega
  refine (hostDo_live hl changePerformOp : exec .changePerform s = _).trans ?_
  unfold changePerformOp
  rw [hcur]
  dsimp only
  rw [hdue, hkeep]
  rfl

end

/-- Settles O45, register by register. -/
theorem sequencerRegisters : Obligations.SequencerRegisters := by
  intro s v hl
  refine ⟨pstEnWrite_starts hl, pstEnWrite_stops hl, pstCutWrite_taken hl, fun h => pstCutWrite_refused hl (.inl h),
    fun hrun hne => ?_, pstWinWrite_taken hl, pstWinWrite_refused hl, fun e acts => ⟨fun h => ?_, fun h => ?_⟩,
    fun n e a r => changePerform_writes hl, fun n => changePerform_waits hl⟩
  · obtain ⟨t, ht, hreg, hevt, hpst, -⟩ := pstCutWrite_refused hl (.inr ⟨hrun, hne⟩)
    exact ⟨t, ht, hreg, hevt, hpst⟩
  · rw [change_kept hl, if_pos h]
  · rw [change_kept hl, if_neg (by simp [h])]

end Sys2Proof.Machine
end

section
/-! PROOF. Posting (R133 to R136, R578): what the decisions of late arrivals and receipts leave unchanged, and what the posting
of a folio leaves (O44). -/

namespace Sys2Proof.Machine

/-! ### Decisions of R119 and R136 -/

/-- What decisions leave of a folio: its number, whether it is posted, whether it waits for a receipt. -/
def Fol.ident (f : Fol) : Nat × Bool × Bool := (f.n, f.posted, f.waits)

theorem lasting_ident : Lasting Fol.ident := fun _ _ _ _ _ => rfl

/-- The registers that decisions and the posting of a folio may count in (Table 2.3, R136), and those of a dropped frame. -/
def postReg (a : Nat) : Bool :=
  [Reg.PST_EVT, Reg.EVT_SUM, Reg.EVT_RAW 1, Reg.MAC_CNT 2 38, Reg.MAC_HRHI 2, Reg.MAC_EVT 2].contains a ||
    decide (Reg.PST_CNT 0 ≤ a ∧ a < Reg.PST_CNT 8) || decide (Reg.PST_LATEMAP 0 ≤ a ∧ a < Reg.PST_LATEMAP 64)

theorem ne_of_postReg {a b : Nat} (ha : postReg a = false) (hb : postReg b = true) : a ≠ b := by
  rintro rfl
  rw [ha] at hb
  cases hb

/-- `s` is reached from `u` by decisions: the folios in flight stay, posted or not, and so do memory, the state of the pair
and the registers outside `postReg`. -/
structure Decided (u s : State) : Prop where
  fols : SameFols Fol.ident u s
  reg : ∀ a, postReg a = false → s.reg a = u.reg a
  hng : s.hng = u.hng
  mem : s.mem = u.mem

section
variable {u s : State}

theorem Decided.refl (s : State) : Decided s s := ⟨fun _ => rfl, fun _ _ => rfl, rfl, rfl⟩

theorem Decided.trans {t : State} (h : Decided u s) (k : Decided s t) : Decided u t :=
  ⟨fun n => (k.fols n).trans (h.fols n), fun a ha => (k.reg a ha).trans (h.reg a ha), k.hng.trans h.hng, k.mem.trans h.mem⟩

theorem decided_ite {t : State} {c : Prop} [Decidable c] (hs : Decided u s) (ht : Decided u t) :
    Decided u (if c then s else t) := by
  split
  · exact hs
  · exact ht

theorem decided_foldl {β : Type} {l : List β} {f : State → β → State} (h : Decided u s)
    (hf : ∀ t x, Decided u t → Decided u (f t x)) : Decided u (l.foldl f s) :=
  List.foldlRecOn l f h fun t ht x _ => hf t x ht

theorem decided_evt {a : Nat} (ha : postReg a = true) (i : Nat) (h : Decided u s) : Decided u (s.evt a i) where
  fols := h.fols.of_pst (by rw [evt_pst])
  reg b hb := (reg_evt_ne _ (ne_of_postReg hb ha) (ne_of_postReg hb (by decide))).trans (h.reg b hb)
  hng := (evt_hng s a i).trans h.hng
  mem := (evt_mem s a i).trans h.mem

theorem decided_evtIf {a : Nat} (ha : postReg a = true) (c : Bool) (i : Nat) (h : Decided u s) :
    Decided u (s.evtIf c a i) := decided_ite (decided_evt ha i h) h

theorem decided_setReg {a : Nat} (ha : postReg a = true) (v : Word) (h : Decided u s) : Decided u (s.setReg a v) :=
  ⟨h.fols.of_pst rfl, fun _ hb => (reg_setReg_ne _ _ (ne_of_postReg hb ha)).trans (h.reg _ hb), h.hng, h.mem⟩

theorem decided_raise {a : Nat} (ha : postReg a = true) (v : Word) (h : Decided u s) : Decided u (s.raise a v) :=
  ⟨h.fols.of_pst rfl, fun _ hb => (reg_raise_ne _ _ (ne_of_postReg hb ha)).trans (h.reg _ hb), h.hng, h.mem⟩

theorem decided_count {a : Nat} (ha : postReg a = true) (n k : Nat) (h : Decided u s) : Decided u (s.count a n k) where
  fols := h.fols.of_pst (by rw [count_pst])
  reg b hb := (reg_count_ne _ _ _ (ne_of_postReg hb ha) (ne_of_postReg hb (by decide))).trans (h.reg b hb)
  hng := (count_hng s a n k).trans h.hng
  mem := (count_mem s a n k).trans h.mem

/-- What of the sequencer is not its folios. -/
theorem decided_setPst {p : Pst} (hp : p.fols = s.pst.fols) (h : Decided u s) : Decided u (s.setPst p) :=
  ⟨h.fols.of_pst hp, h.reg, h.hng, h.mem⟩

theorem decided_setFol {n : Nat} {f g : Fol} (hf : s.fol? n = some f) (hg : g.ident = f.ident) (h : Decided u s) :
    Decided u (s.setFol g) := by
  have hn : g.n = n := (congrArg Prod.fst hg).trans (n_of_fol? hf)
  exact ⟨sameFols_setFol h.fols (hn ▸ hf) hg, h.reg, h.hng, h.mem⟩

theorem foldl_ident {β : Type} {l : List β} {g : Fol → β → Fol} (hg : ∀ f x, (g f x).ident = f.ident) (f : Fol) :
    (l.foldl g f).ident = f.ident :=
  List.foldlRecOn (motive := fun x => x.ident = f.ident) l g rfl fun _ h x _ => (hg _ x).trans h

theorem ident_receiveLate (s : State) (a : Arrival) (flip : Bool) (src : Nat) (f : Fol) :
    (receiveLate s a flip src f).ident = f.ident := by
  unfold receiveLate
  split
  · rfl
  · dsimp only
    split <;> rfl

theorem ident_put (d : LateData) (s : State) (flip : Bool) (src : Nat) (f : Fol) :
    (d.put s flip src f).ident = f.ident := by
  cases d with
  | packet a => exact ident_receiveLate s a flip src f
  | receipt conc =>
    change (adoptSource conc s src f).ident = f.ident
    unfold adoptSource
    split
    · rfl
    · split
      · exact ident_receiveLate s _ true src f
      · rfl

theorem decided_refuse (late : List Nat) (h : Decided u s) : Decided u (refuse late s) :=
  decided_ite h (decided_evt (a := Reg.PST_EVT) (by decide) 1 (decided_count (a := Reg.PST_CNT 1) (by decide) _ 48 h))

theorem decided_refuseLate (n k : Nat) (d : LateData) (srcs : List Nat) (h : Decided u s) :
    Decided u (refuseLate n k d srcs s) := by
  cases d with
  | packet => exact decided_refuse _ h
  | receipt => exact decided_evt (a := Reg.PST_EVT) (by decide) 6 h

theorem decided_admitTask (n k : Nat) (v : Verdict) (d : LateData) (late : List Nat) (h : Decided u s) :
    Decided u (admitTask n k v d late s) := by
  unfold admitTask
  split
  · exact h
  · rename_i f hf
    have hrev : ∀ (gs : List Nat) (g : Fol), (gs.foldl (fun (f : Fol) x =>
        if f.entry x = .provisional ∧ x < f.mixed then f.setEntry x .reversed else f) g).ident = g.ident :=
      fun gs g => foldl_ident (fun f x => by split <;> rfl) g
    refine decided_count (a := Reg.PST_CNT 0) (by decide) _ 48 (decided_setFol hf ?_ h)
    exact (hrev _ _).trans (foldl_ident (fun g src => ident_put d s _ src g) f)

theorem decided_decideTask (n : Nat) (d : LateData) (k : Nat) (srcs : List Nat) (t0 : Int) (atM : Bool) (h : Decided u s) :
    Decided u (decideTask n d k srcs t0 atM s) := by
  unfold decideTask
  split
  · exact h
  · dsimp only
    refine decided_ite (decided_ite ?_ ?_) (decided_ite ?_ ?_)
    · exact decided_refuseLate _ _ _ _ h
    · exact decided_setPst rfl h
    · exact decided_admitTask _ _ _ _ _ h
    · exact decided_refuseLate _ _ _ _ h

theorem decided_decideLate (n : Nat) (d : LateData) (late : List Nat) (t0 : Int) (atM : Bool) (h : Decided u s) :
    Decided u (decideLate n d late t0 atM s) := by
  unfold decideLate
  split
  · exact h
  · rename_i f hf
    refine decided_foldl (decided_count (a := Reg.PST_CNT 0) (by decide) _ 48 (decided_setFol hf ?_ h)) fun _ _ ht =>
      decided_decideTask _ _ _ _ _ _ ht
    exact foldl_ident (fun g src => ident_put d s true src g) f

theorem decided_adoptReceipt (conc : List Nat) (n : Nat) (t0 : Int) (atM : Bool) (h : Decided u s) :
    Decided u (adoptReceipt conc n t0 atM s) := by
  unfold adoptReceipt
  split
  · exact h
  · exact decided_decideLate _ _ _ _ _ h

theorem decided_receiptMisses (conc : List Nat) (n : Nat) (h : Decided u s) : Decided u (receiptMisses conc n s) := by
  unfold receiptMisses
  split
  · exact decided_evtIf (a := Reg.PST_EVT) (by decide) _ 7 h
  · exact h

theorem decided_refuseDeferred (n : Nat) (h : Decided u s) : Decided u (refuseDeferred n s) :=
  decided_foldl (decided_setPst rfl h) fun _ _ ht => decided_refuseLate _ _ _ _ ht

theorem decided_macCount (h : Decided u s) : Decided u (s.macCount 2 38 1) := by
  have hset := decided_setReg (a := Reg.MAC_CNT 2 38) (by decide) (countUp (s.reg (Reg.MAC_CNT 2 38)) 1).1 h
  exact decided_ite (decided_evt (a := Reg.MAC_EVT 2) (by decide) 3 (decided_raise (a := Reg.MAC_HRHI 2) (by decide) _ hset)) hset

theorem decided_offer (f : Frame) (h : Decided u s) : Decided u (offer 2 5 f s) := by
  unfold offer
  refine decided_ite (decided_evt (a := Reg.MAC_EVT 2) (by decide) 5 ?_) ⟨h.fols.of_pst rfl, h.reg, h.hng, h.mem⟩
  exact decided_macCount h

theorem decided_sendReceipt (f : Fol) (h : Decided u s) : Decided u (sendReceipt f s) :=
  decided_ite (decided_ite (decided_offer _ h) h) h

end

/-! ### The posting of a folio (R133 to R135) -/

/-- A folio posted: its decisions closed, its sources stored, its concealments counted. -/
def postStored (f : Fol) (s : State) : State :=
  let s := refuseDeferred f.n (s.setFol { f with posted := true, waits := false })
  let s := if f.undef then (s.setPst (postSources (freedRaw s.free f) s.pst)).useFree (8 * f.recv.length)
    else s.setPst (postSources f s.pst)
  s.count (Reg.PST_CNT 4) f.conc.length 48

/-- Its concealed sources marked. -/
def postCounted (f : Fol) (s : State) : State :=
  f.conc.foldl (fun s x => s.raise (Reg.PST_LATEMAP (x / 32)) (bitw (x % 32))) (postStored f s)

/-- Its receipt in the registers (R135). -/
def postRecorded (f : Fol) (s : State) : State :=
  if s.rb Reg.PST_CTRL 4 then s
  else writeMap Reg.PST_RCPT_REENT f.reent (writeMap Reg.PST_RCPT_CONC f.conc
    ((s.setReg Reg.PST_RCPT_FOLIO_LO (wd f.n)).setReg Reg.PST_RCPT_FOLIO_HI (wd (f.n / 2 ^ 32))))

/-- Its source tasks final, its taps, its entries (R124, R144, R111). -/
def postSettled (f : Fol) (s : State) : State :=
  let final := f.prov.filter (fun k => (s.ctx k).decl.isSrc && !f.open_.contains k && !f.rerunning k)
  let s := final.foldl (fun s k => commit k f.n s) s
  settle f.n (tapRows f.n (tapPoint 0 f.n (fun _ => true) (fun c j => smp f.raw c j) s))

theorem postFolio_eq (f : Fol) (s : State) :
    postFolio f s = swapPosted f.n (postSettled f (postRecorded f (postCounted f s))) := rfl

section
variable {s : State}

theorem fols_postSources (f : Fol) (p : Pst) : (postSources f p).fols = p.fols := by
  unfold postSources
  dsimp only
  refine List.foldlRecOn (motive := fun q : Pst => q.fols = p.fols) _ _ ?_ fun _ h _ _ => h
  refine List.foldlRecOn (motive := fun q : Pst => q.fols = p.fols) _ _ ?_ fun _ h _ _ => h
  exact List.foldlRecOn (motive := fun q : Pst => q.fols = p.fols) _ _ rfl fun _ h _ _ => h

/-- The posting counts as decisions do, but for the folio posted. -/
theorem decided_postStored (f : Fol) : Decided (s.setFol { f with posted := true, waits := false }) (postStored f s) := by
  set v := s.setFol { f with posted := true, waits := false } with hv
  have hrefuse : Decided v (refuseDeferred f.n v) := decided_refuseDeferred f.n (Decided.refl v)
  have hstored : Decided v (if f.undef then ((refuseDeferred f.n v).setPst
        (postSources (freedRaw (refuseDeferred f.n v).free f) (refuseDeferred f.n v).pst)).useFree (8 * f.recv.length)
      else (refuseDeferred f.n v).setPst (postSources f (refuseDeferred f.n v).pst)) := by
    split
    · have h := decided_setPst (fols_postSources (freedRaw (refuseDeferred f.n v).free f) (refuseDeferred f.n v).pst) hrefuse
      exact ⟨h.fols.of_pst rfl, h.reg, h.hng, h.mem⟩
    · exact decided_setPst (fols_postSources f _) hrefuse
  exact decided_count (a := Reg.PST_CNT 4) (by decide) _ 48 hstored

theorem pst_postCounted (f : Fol) : (postCounted f s).pst = (postStored f s).pst :=
  List.foldlRecOn (motive := fun v : State => v.pst = (postStored f s).pst) _ _ rfl fun _ hv _ _ => hv

theorem reg_postCounted {f : Fol} (hconc : ∀ x ∈ f.conc, x < 2048) {a : Nat} (ha : postReg a = false) :
    (postCounted f s).reg a = s.reg a := by
  refine List.foldlRecOn (motive := fun v : State => v.reg a = s.reg a) _ _ ((decided_postStored f).reg a ha)
    fun w hw x hx => ?_
  have hlate : postReg (Reg.PST_LATEMAP (x / 32)) = true := by
    have := hconc x hx
    simp [postReg]
    omega
  exact (reg_raise_ne _ _ (ne_of_postReg ha hlate)).trans hw

/-- Registers written one after another leave the others, and all but registers. -/
theorem setRegs_keeps (reg : Nat → Nat) (v : Nat → Word) (l : List Nat) (s : State) :
    (l.foldl (fun s i => s.setReg (reg i) (v i)) s).pst = s.pst ∧
      ∀ a, (∀ i ∈ l, a ≠ reg i) → (l.foldl (fun s i => s.setReg (reg i) (v i)) s).reg a = s.reg a := by
  induction l generalizing s with
  | nil => exact ⟨rfl, fun _ _ => rfl⟩
  | cons i l ih =>
    obtain ⟨hpst, hreg⟩ := ih (s.setReg (reg i) (v i))
    refine ⟨hpst, fun a h => ?_⟩
    rw [List.foldl_cons, hreg a fun j hj => h j (List.mem_cons_of_mem _ hj), reg_setReg_ne _ _ (h i List.mem_cons_self)]

theorem reg_writeMap_ne (reg : Nat → Nat) (l : List Nat) {a : Nat} (h : ∀ i, i < 64 → a ≠ reg i) (s : State) :
    (writeMap reg l s).reg a = s.reg a := by
  unfold writeMap forN
  exact (setRegs_keeps reg _ _ s).2 a fun i hi => h i (List.mem_range.mp hi)

theorem pst_writeMap (reg : Nat → Nat) (l : List Nat) (s : State) : (writeMap reg l s).pst = s.pst := by
  unfold writeMap forN
  exact (setRegs_keeps reg _ _ s).1

theorem pst_postRecorded (f : Fol) : (postRecorded f s).pst = s.pst := by
  unfold postRecorded
  split
  · rfl
  · rw [pst_writeMap, pst_writeMap]
    rfl

/-- The receipt registers (R135). -/
def rcptReg (a : Nat) : Bool := decide (Reg.PST_RCPT_FOLIO_LO ≤ a ∧ a < Reg.PST_RCPT_REENT 64)

theorem reg_postRecorded_ne (f : Fol) {a : Nat} (ha : rcptReg a = false) : (postRecorded f s).reg a = s.reg a := by
  have hout : a < 0x60080600 ∨ 0x60080900 ≤ a := by
    simp only [rcptReg, decide_eq_false_iff_not, Reg.PST_RCPT_FOLIO_LO, Reg.PST_RCPT_REENT] at ha
    omega
  unfold postRecorded
  split
  · rfl
  · rw [reg_writeMap_ne _ _ (fun i hi => show a ≠ 0x60080800 + 4 * i by omega),
      reg_writeMap_ne _ _ (fun i hi => show a ≠ 0x60080700 + 4 * i by omega),
      reg_setReg_ne _ _ (show a ≠ 0x60080604 by omega), reg_setReg_ne _ _ (show a ≠ 0x60080600 by omega)]

theorem reg_postRecorded_folio (f : Fol) (h : s.rb Reg.PST_CTRL 4 = false) :
    (postRecorded f s).reg Reg.PST_RCPT_FOLIO_LO = wd f.n := by
  unfold postRecorded
  rw [if_neg (by simp [h]), reg_writeMap_ne _ _ (fun i hi => show 0x60080600 ≠ 0x60080800 + 4 * i by omega),
    reg_writeMap_ne _ _ (fun i hi => show 0x60080600 ≠ 0x60080700 + 4 * i by omega),
    reg_setReg_ne _ _ (by decide), reg_setReg_same]

theorem settled_postSettled (f : Fol) : Settled Fol.ident s (postSettled f s) :=
  settled_settle lasting_ident _ (settled_tapRows _ (settled_tapPoint _ _ _ _
    (settled_foldl (Settled.refl _ s) fun _ _ ht => settled_commit lasting_ident _ _ ht)))

theorem swapPosted_keeps (n : Nat) : (swapPosted n s).pst = s.pst ∧
    ∀ a, a ≠ Reg.TEL_SWAPST → a ≠ Reg.TEL_EVT → a ≠ Reg.EVT_SUM → (swapPosted n s).reg a = s.reg a := by
  unfold swapPosted
  dsimp only
  split
  · exact ⟨evt_pst _ _ _, fun a h1 h2 h3 => (reg_evt_ne _ h2 h3).trans (reg_setReg_ne _ _ h1)⟩
  · exact ⟨rfl, fun _ _ _ _ => rfl⟩

/-- A register that a posting leaves unchanged. -/
def postKept (a : Nat) : Bool := !postReg a && !taskReg a && a != Reg.TEL_SWAPST && a != Reg.TEL_EVT

theorem postKept_ne {a : Nat} (h : postKept a = true) :
    postReg a = false ∧ taskReg a = false ∧ a ≠ Reg.TEL_SWAPST ∧ a ≠ Reg.TEL_EVT ∧ a ≠ Reg.EVT_SUM := by
  simp only [postKept, Bool.and_eq_true, Bool.not_eq_true', bne_iff_ne, ne_eq] at h
  obtain ⟨⟨⟨hp, ht⟩, hs⟩, he⟩ := h
  exact ⟨hp, ht, hs, he, ne_of_postReg hp (by decide)⟩

/-- The registers at the end of a posting are those with its receipt recorded. -/
theorem reg_postFolio (f : Fol) {a : Nat} (ha : postKept a = true) :
    (postFolio f s).reg a = (postRecorded f (postCounted f s)).reg a := by
  obtain ⟨-, ht, hs, he, hsum⟩ := postKept_ne ha
  rw [postFolio_eq, (swapPosted_keeps f.n).2 a hs he hsum, (settled_postSettled f).toTaskFrame.reg a ht]

/-- A posted folio in flight is posted, and waits no more. -/
theorem postFolio_posts {f g : Fol} (hg : s.fol? f.n = some g) :
    ∃ f', (postFolio f s).fol? f.n = some f' ∧ f'.posted = true ∧ f'.waits = false := by
  have hset : (s.setFol { f with posted := true, waits := false }).fol? f.n = some { f with posted := true, waits := false } :=
    fol?_setFol_same (f := { f with posted := true, waits := false }) hg
  obtain ⟨x, hx, hxi⟩ := (decided_postStored f).fols.fol? hset
  have hrec : (postRecorded f (postCounted f s)).fol? f.n = some x := by
    rw [State.fol?, pst_postRecorded, pst_postCounted]
    exact hx
  obtain ⟨y, hy, hyi⟩ := (settled_postSettled f).fols.fol? hrec
  have hident : y.ident = (f.n, true, false) := hyi.trans hxi
  refine ⟨y, ?_, congrArg (fun i => i.2.1) hident, congrArg (fun i => i.2.2) hident⟩
  rw [postFolio_eq, State.fol?, (swapPosted_keeps f.n).1]
  exact hy

end

end Sys2Proof.Machine
end

section
/-! PROOF. The sink chain (R293 to R322): what one sink's way through it leaves of the others, and a sink that passes it
unchanged. -/

namespace Sys2Proof.Machine

theorem Within.out_eq {m : Parts} {s t : State} (h : Within m s t) (hm : m.out = false) : t.out = s.out := by
  have e := congrArg State.out h
  simpa [State.outside, hm] using e

theorem Within.fuse_eq {m : Parts} {s t : State} (h : Within m s t) (hm : m.fuse = false) : t.fuse = s.fuse := by
  have e := congrArg State.fuse h
  simpa [State.outside, hm] using e

/-! ### Folds that add one sample at each step -/

theorem foldl_range8 {σ : Type} {motive : List Int × σ → Prop} {F : List Int × σ → Nat → List Int × σ} {r : List Int × σ}
    (hr : motive r) (hnil : r.1 = []) (hF : ∀ r j, motive r → motive (F r j) ∧ (F r j).1.length = r.1.length + 1) :
    motive ((List.range 8).foldl F r) ∧ ((List.range 8).foldl F r).1.length = 8 := by
  have hfold : ∀ l : List Nat, ∀ r, motive r → motive (l.foldl F r) ∧ (l.foldl F r).1.length = r.1.length + l.length := by
    intro l
    induction l with
    | nil => exact fun r hr => ⟨hr, rfl⟩
    | cons j l ih =>
      intro r hr
      obtain ⟨hm, hlen⟩ := hF r j hr
      obtain ⟨hm', hlen'⟩ := ih _ hm
      exact ⟨hm', by rw [List.foldl_cons, hlen', hlen, List.length_cons]; omega⟩
  obtain ⟨hm, hlen⟩ := hfold (List.range 8) r hr
  exact ⟨hm, by rw [hlen, hnil, List.length_range]; rfl⟩

/-- Where each step adds `x j` and nothing else moves. -/
theorem foldl_pass {σ : Type} {F : List Int × σ → Nat → List Int × σ} {x : Nat → Int} {v : σ}
    (hF : ∀ xs j, F (xs, v) j = (xs ++ [x j], v)) (l : List Nat) (xs : List Int) :
    l.foldl F (xs, v) = (xs ++ l.map x, v) := by
  induction l generalizing xs with
  | nil => simp
  | cons j l ih => rw [List.foldl_cons, hF, ih]; simp

/-! ### What stages of the chain leave unchanged -/

/-- `s` is reached from `u` by the chain: the folios, the OUT values in force, the formats, and the sinks that are not `p`. -/
structure ChainKeeps (p : Nat → Prop) (u s : State) : Prop where
  fols : s.pst.fols = u.pst.fols
  force : s.out.force = u.out.force
  snk : ∀ k, ¬p k → s.snk k = u.snk k
  fuse : s.fuse = u.fuse
  fmt : ∀ k, k < 2560 → s.reg (Reg.OUT_FMT k) = u.reg (Reg.OUT_FMT k)

section
variable {p : Nat → Prop} {u s : State}

theorem ChainKeeps.refl (p : Nat → Prop) (s : State) : ChainKeeps p s s := ⟨rfl, rfl, fun _ _ => rfl, rfl, fun _ _ => rfl⟩

theorem ChainKeeps.of_eq {t : State} (h : ChainKeeps p u s) (hpst : t.pst = s.pst) (hout : t.out = s.out)
    (hfuse : t.fuse = s.fuse) (hreg : ∀ k, k < 2560 → t.reg (Reg.OUT_FMT k) = s.reg (Reg.OUT_FMT k)) : ChainKeeps p u t where
  fols := by rw [hpst]; exact h.fols
  force := by rw [hout]; exact h.force
  snk k hk := by
    rw [← h.snk k hk, State.snk, State.snk, hout]
  fuse := hfuse.trans h.fuse
  fmt k hk := (hreg k hk).trans (h.fmt k hk)

theorem ChainKeeps.outFmt (h : ChainKeeps p u s) {k : Nat} (hk : k < 2560) : s.outFmt k = u.outFmt k := by
  rw [State.outFmt, State.outFmt, h.fmt k hk, State.isA, State.isA, h.fuse]

theorem ChainKeeps.inForce (h : ChainKeeps p u s) (a : Nat) : s.inForce a = u.inForce a := by
  rw [State.inForce, State.inForce, h.force]

theorem ChainKeeps.limOn (h : ChainKeeps p u s) (k : Nat) : s.limOn k = u.limOn k := by
  rw [State.limOn, State.limOn, h.inForce]

theorem ChainKeeps.limLa (h : ChainKeeps p u s) (k : Nat) : s.limLa k = u.limLa k := by
  rw [State.limLa, State.limLa, h.inForce]

theorem fmt_ne {k b : Nat} (hk : k < 2560) (hb : b < 0x600DD800) : Reg.OUT_FMT k ≠ b := by
  simp only [Reg.OUT_FMT]
  omega

theorem taskReg_fmt {k : Nat} (hk : k < 2560) : taskReg (Reg.OUT_FMT k) = false := by
  simp only [taskReg, List.contains_eq_mem, List.mem_cons, List.not_mem_nil, or_false, Bool.or_eq_false_iff,
    decide_eq_false_iff_not, Reg.OUT_FMT, Reg.PST_REVMAX, Reg.EVT_RAW, Reg.EVT_SUM, Reg.TEL_SWEV, Reg.RMT_TSIG, Reg.CLH_EVT,
    Reg.CLH_ERRINFO, Reg.CLH_ERRADDR, Reg.CLH_CNT_ERR, Reg.PST_TAPST, Reg.PST_TAPBUF, Reg.TEL_LOAD]
  omega

theorem chainKeeps_evt {a : Nat} (ha : a < 0x600DD800) (i : Nat) (h : ChainKeeps p u s) : ChainKeeps p u (s.evt a i) :=
  h.of_eq (evt_pst _ _ _) (evt_out _ _ _) (evt_fuse _ _ _) fun _ hk => reg_evt_ne _ (fmt_ne hk ha) (fmt_ne hk (by decide))

theorem chainKeeps_ite {t : State} {c : Prop} [Decidable c] (hs : ChainKeeps p u s) (ht : ChainKeeps p u t) :
    ChainKeeps p u (if c then s else t) := by
  split
  · exact hs
  · exact ht

theorem chainKeeps_evtIf {a : Nat} (ha : a < 0x600DD800) (c : Bool) (i : Nat) (h : ChainKeeps p u s) :
    ChainKeeps p u (s.evtIf c a i) := chainKeeps_ite (chainKeeps_evt ha i h) h

theorem chainKeeps_count {a : Nat} (ha : a < 0x600DD800) (n k : Nat) (h : ChainKeeps p u s) : ChainKeeps p u (s.count a n k) :=
  h.of_eq (count_pst _ _ _ _) (count_out _ _ _ _) (count_fuse _ _ _ _) fun _ hk =>
    reg_count_ne _ _ _ (fmt_ne hk ha) (fmt_ne hk (by decide))

theorem chainKeeps_within (hw : Within { mem := true, free := true } u s) : ChainKeeps p u s :=
  (ChainKeeps.refl p u).of_eq (hw.pst_eq rfl) (hw.out_eq rfl) (hw.fuse_eq rfl) fun _ _ => hw.reg_eq rfl

theorem ChainKeeps.trans {t : State} (h : ChainKeeps p u s) (k : ChainKeeps p s t) : ChainKeeps p u t :=
  ⟨k.fols.trans h.fols, k.force.trans h.force, fun x hx => (k.snk x hx).trans (h.snk x hx), k.fuse.trans h.fuse,
    fun x hx => (k.fmt x hx).trans (h.fmt x hx)⟩

theorem chainKeeps_setSnk {k : Nat} (hk : p k) (x : Snk) (h : ChainKeeps p u s) : ChainKeeps p u (s.setSnk k x) :=
  ⟨h.fols, h.force, fun j hj => (setSnk_ne _ _ fun e : j = k => hj (e.symm ▸ hk)).trans (h.snk j hj), h.fuse, h.fmt⟩

theorem chainKeeps_tapPoint (point n : Nat) (q : Nat → Bool) (f : Nat → Nat → Word) (h : ChainKeeps p u s) :
    ChainKeeps p u (tapPoint point n q f s) := by
  have hw : Within { free := true, regs := true } s (tapPoint point n q f s) :=
    within_tapPoint rfl rfl _ _ _ _ (Within.refl _ s)
  refine h.of_eq (hw.pst_eq rfl) (hw.out_eq rfl) (hw.fuse_eq rfl) fun k hk => ?_
  exact regsKept_tapPoint point n q f (fun _ _ => rfl) _ (taskReg_fmt hk)

/-! ### The stages of one sink -/

variable {k : Nat} (hk : p k)
include hk

theorem chainKeeps_takeDly (d : Nat) (h : ChainKeeps p u s) : ChainKeeps p u (takeDly k d s) := by
  have hset : ∀ x, ChainKeeps p u (s.setSnk k x) := fun x => chainKeeps_setSnk hk x h
  exact chainKeeps_ite h (chainKeeps_ite (hset _) (chainKeeps_ite h (hset _)))

theorem chainKeeps_delaySample (x : Int) (h : ChainKeeps p u s) : ChainKeeps p u (delaySample k x s).2 := by
  have hline : ∀ a l, ChainKeeps p u (s.wrBytes a l) := fun a l =>
    h.trans (chainKeeps_within (within_wrBytes rfl a l (Within.refl _ s)))
  unfold delaySample
  extract_lets q
  split
  · exact h
  split
  · exact h
  split
  extract_lets s2
  have hs2 : ChainKeeps p u s2 := chainKeeps_setSnk hk _ (hline _ _)
  split
  · exact hs2.of_eq rfl rfl rfl fun _ _ => rfl
  · exact hs2

/-- The delay stage keeps all but its sink, and gives 8 samples. -/
theorem chainKeeps_delayStage (f : Fol) (h : ChainKeeps p u s) :
    ChainKeeps p u (delayStage f k s).2 ∧ (delayStage f k s).1.length = 8 := by
  have hstart : ChainKeeps p u (match (s.snk k).xf, (s.snk k).pend with
      | none, some d => takeDly k d (s.setSnk k { s.snk k with pend := none })
      | _, _ => s) := by
    split
    · exact chainKeeps_takeDly hk _ (chainKeeps_setSnk hk _ h)
    · exact h
  unfold delayStage forN
  extract_lets q v
  refine foldl_range8 (motive := fun r : List Int × State => ChainKeeps p u r.2) hstart rfl fun r j hr => ?_
  exact ⟨chainKeeps_delaySample hk _ hr, by simp⟩

theorem chainKeeps_delayOf (f : Fol) (h : ChainKeeps p u s) :
    ChainKeeps p u (delayOf f k s).2 ∧ (delayOf f k s).1.length = 8 := by
  unfold delayOf
  split
  · exact ⟨h, by simp⟩
  · refine chainKeeps_delayStage hk _ ?_
    unfold takeSink
    split
    · exact h.of_eq rfl rfl rfl fun _ _ => rfl
    · exact h

theorem chainKeeps_limStage (f : Fol) (xs : List Int) (h : ChainKeeps p u s) :
    ChainKeeps p u (limStage f k xs s).2 ∧ (limStage f k xs s).1.length = 8 := by
  unfold limStage forN
  extract_lets la thr own lim atk rel peers q all r hist0 hist s1
  have hs1 : ChainKeeps p u s1 := chainKeeps_setSnk hk _ h
  refine ⟨?_, ?_⟩
  · change ChainKeeps p u (if s.limOn k then _ else s1)
    split
    · exact hs1.of_eq rfl rfl rfl fun _ _ => rfl
    · exact hs1
  · refine (foldl_range8 (motive := fun _ : List Int × (Nat × Nat) => True) trivial rfl fun r j _ => ⟨trivial, ?_⟩).2
    dsimp only
    split <;> simp

theorem chainKeeps_decStage (xs : List Int) (hxs : xs.length = 8) (h : ChainKeeps p u s) :
    ChainKeeps p u (decStage k xs s).2 ∧ (decStage k xs s).1.length = 8 := by
  unfold decStage
  dsimp only
  split
  · exact ⟨chainKeeps_setSnk hk _ h, by simp⟩
  · split
    · exact ⟨h, hxs⟩
    · exact ⟨chainKeeps_setSnk hk _ h, hxs⟩

end

end Sys2Proof.Machine
end

section
/-! PROOF. One sink through the chain (R293): the samples that it gives its folio, and those of a sink without delay, limiter
and reduction. -/

namespace Sys2Proof.Machine

/-! ### Format reduction (R315) -/

theorem length_reduce (fmt : Word) (n k : Nat) (xs : List Int) : (reduce fmt n k xs).1.length = xs.length := by
  have hfold : ∀ {σ : Type} (F : (List Int × Bool) × σ → Int → (List Int × Bool) × σ)
      (_ : ∀ r x, (F r x).1.1.length = r.1.1.length + 1) (l : List Int) (r : (List Int × Bool) × σ),
      (l.foldl F r).1.1.length = r.1.1.length + l.length := by
    intro σ F hF l
    induction l with
    | nil => exact fun r => rfl
    | cons x l ih => exact fun r => by rw [List.foldl_cons, ih, hF, List.length_cons]; omega
  unfold reduce
  extract_lets one b dith r
  refine (hfold _ (fun r x => ?_) xs _).trans (Nat.zero_add _)
  simp

/-- With no reduction the samples pass. -/
theorem reduce_none (n k : Nat) (xs : List Int) : (reduce 0 n k xs).1 = xs := by
  have hfold : ∀ {σ : Type} (F : (List Int × Bool) × σ → Int → (List Int × Bool) × σ)
      (_ : ∀ r x, (F r x).1.1 = r.1.1 ++ [x]) (l : List Int) (r : (List Int × Bool) × σ),
      (l.foldl F r).1.1 = r.1.1 ++ l := by
    intro σ F hF l
    induction l with
    | nil => exact fun r => (List.append_nil _).symm
    | cons x l ih => exact fun r => by rw [List.foldl_cons, ih, hF, List.append_assoc]; rfl
  unfold reduce
  extract_lets one b dith r
  exact hfold _ (fun r x => rfl) xs _

/-! ### The samples that a sink gives its folio -/

/-- The samples of sink `k` from number `i` on. -/
def putOut (k i : Nat) (ws : List Word) (o : List (Nat × Word)) : List (Nat × Word) :=
  (ws.zipIdx i).foldl (fun l e => setSmp l k e.2 e.1) o

theorem smp_setSmp (l : List (Nat × Word)) {c d i j : Nat} (hi : i < 8) (hj : j < 8) (v : Word) :
    smp (setSmp l c i v) d j = if d = c ∧ j = i then v else smp l d j := by
  unfold smp setSmp
  rw [aget_aput]
  by_cases h : d = c ∧ j = i
  · rw [if_pos h, if_pos (by omega)]
  · rw [if_neg h, if_neg (by omega)]

theorem smp_putOut (k : Nat) (ws : List Word) (i : Nat) (hi : i + ws.length ≤ 8) (o : List (Nat × Word)) {d j : Nat} (hj : j < 8) :
    smp (putOut k i ws o) d j = if d = k ∧ i ≤ j ∧ j < i + ws.length then ws.getD (j - i) 0 else smp o d j := by
  unfold putOut
  induction ws generalizing i o with
  | nil =>
    rw [if_neg (by simp)]
    rfl
  | cons w ws ih =>
    rw [List.length_cons] at hi ⊢
    rw [List.zipIdx_cons, List.foldl_cons, ih (i + 1) (by omega), smp_setSmp _ (by omega) hj]
    by_cases hd : d = k
    · by_cases hji : j = i
      · simp [hd, hji]
      · by_cases hin : i ≤ j ∧ j < i + (ws.length + 1)
        · have hsub : j - i = j - (i + 1) + 1 := by omega
          rw [if_pos ⟨hd, by omega, by omega⟩, if_pos ⟨hd, hin⟩, hsub, List.getD_cons_succ]
        · rw [if_neg (by omega), if_neg (by omega), if_neg (by omega)]
    · simp [hd]

/-! ### A sink that passes the chain unchanged -/

/-- Sink `k` has no delay line, no limiter and no reduction, and no link has asked for it (R293). -/
structure PassSink (f : Fol) (k : Nat) (s : State) : Prop where
  line : (s.snk k).on = false
  lim : s.limOn k = false
  la : s.limLa k = 0
  fmt : s.outFmt k = 0
  tval : ∀ e ∈ f.tval, e.1 / 8 ≠ k
  undef : f.undef = false

/-- The FINAL results of sink `k`. -/
def sinkSamples (f : Fol) (k : Nat) : List Int := (List.range 8).map fun j => (smp f.sink k j).toInt

section
variable {s : State} {f : Fol} {k : Nat}

theorem delaySample_off (x : Int) (h : (s.snk k).on = false) : delaySample k x s = (x, s) := by
  unfold delaySample
  simp [h]

theorem delayStage_off (f : Fol) (h : (s.snk k).on = false) : (delayStage f k s).1 = sinkSamples f k := by
  unfold delayStage forN
  extract_lets q v
  have hv : (v.snk k).on = false := by
    have hset : ((s.setSnk k { q with pend := none }).snk k).on = false := by rw [setSnk_same]; exact h
    change ((match q.xf, q.pend with
      | none, some d => takeDly k d (s.setSnk k { q with pend := none })
      | _, _ => s).snk k).on = false
    split
    · unfold takeDly
      simp only [hset]
      exact hset
    · exact h
  rw [foldl_pass (x := fun j => (smp f.sink k j).toInt) fun xs j => by rw [delaySample_off _ hv]]
  rfl

theorem delayOf_pass (h : PassSink f k s) : (delayOf f k s).1 = sinkSamples f k := by
  have htval : f.tval.any (fun e => e.1 / 8 == k) = false := by
    rw [List.any_eq_false]
    intro e he
    simpa using h.tval e he
  unfold delayOf takeSink
  simp only [htval, h.undef, Bool.false_eq_true, if_false]
  exact delayStage_off f h.line

theorem limStage_off (hlim : s.limOn k = false) (hla : s.limLa k = 0) (g : Fol) (x : Nat → Int) :
    (limStage g k ((List.range 8).map x) s).1 = (List.range 8).map x := by
  unfold limStage forN
  extract_lets la thr own lim atk rel peers q all r hist0 hist s1
  have hr : r.1 = (List.range 8).map fun j => all.getD (7 - j + la) 0 := by
    have hfold : r = ([] ++ (List.range 8).map fun j => all.getD (7 - j + la) 0, (q.g, one30)) :=
      foldl_pass (fun xs j => by simp [hlim]) _ _
    rw [hfold, List.nil_append]
  rw [hr]
  refine List.map_congr_left fun j hj => ?_
  have hj8 := List.mem_range.mp hj
  have hla0 : la = 0 := hla
  rw [hla0]
  interval_cases j <;> rfl

theorem decStage_off (hfmt : s.outFmt k = 0) (xs : List Int) : (decStage k xs s).1 = xs := by
  have hbit : bit (s.outFmt k) 3 = false := by rw [hfmt]; decide
  unfold decStage
  simp [hbit]

/-! ### The whole way of one sink -/

/-- A sink's way through the chain: it gives its folio at most 8 samples of its own, and those of a sink that passes
unchanged are its FINAL results. -/
theorem chainSink_gives {n : Nat} (hk : k < 2560) (hf : s.fol? n = some f) : ∃ v os,
    chainSink n k s = v.updFol n (fun f => { f with out := putOut k 0 (os.map wdi) f.out }) ∧
      ChainKeeps (· = k) s v ∧ os.length ≤ 8 ∧ (PassSink f k s → os = sinkSamples f k) := by
  set off := (s.snk k).on && !s.domOn 6 with hoff
  set a := s.evtIf off Reg.OUT_EVT 5 with ha
  set d := delayOf f k a with hd
  set l := limStage f k d.1 d.2 with hl
  set c := decStage k l.1 l.2 with hc
  set zs := if off then List.replicate 8 0 else c.1 with hzs
  set b := tapPoint 4 n (fun c => c == k) (fun _ j => wdi (zs.getD j 0)) c.2 with hb
  set ys := if bit (b.outFmt k) 3 then [zs.getD 0 0, zs.getD 2 0, zs.getD 4 0, zs.getD 6 0] else zs with hys
  set os := if off then (ys, false) else reduce (b.outFmt k) n k ys with hos
  set e := b.evtIf os.2 Reg.OUT_EVT 0 with he
  have heq : chainSink n k s = (if os.2 then e.count Reg.OUT_CNT_CLIP 1 51 else e).updFol n
      (fun f => { f with out := putOut k 0 (os.1.map wdi) f.out }) := by
    unfold chainSink
    rw [hf]
    rfl
  have hka : ChainKeeps (· = k) s a := chainKeeps_evtIf (by decide) _ _ (ChainKeeps.refl _ s)
  obtain ⟨hkd, hdlen⟩ := chainKeeps_delayOf (p := (· = k)) rfl f hka
  obtain ⟨hkl, hllen⟩ := chainKeeps_limStage (p := (· = k)) rfl f d.1 hkd
  obtain ⟨hkc, hclen⟩ := chainKeeps_decStage (p := (· = k)) rfl l.1 hllen hkl
  have hkb : ChainKeeps (· = k) s b := chainKeeps_tapPoint _ _ _ _ hkc
  have hke : ChainKeeps (· = k) s e := chainKeeps_evtIf (by decide) _ _ hkb
  refine ⟨_, os.1, heq, chainKeeps_ite (chainKeeps_count (by decide) _ _ hke) hke, ?_, fun hpass => ?_⟩
  · have hzlen : zs.length = 8 := by
      rw [hzs]
      split
      · exact List.length_replicate ..
      · exact hclen
    have hylen : ys.length ≤ 8 := by rw [hys]; split <;> simp [hzlen]
    rw [hos]
    split
    · exact hylen
    · rw [length_reduce]
      exact hylen
  · have hoff0 : off = false := by rw [hoff, hpass.line]; rfl
    have hd0 : d.1 = sinkSamples f k := by
      have hsa : a = s := by rw [ha, hoff0]; rfl
      rw [hd, hsa]
      exact delayOf_pass hpass
    have hl0 : l.1 = sinkSamples f k := by
      rw [hl, hd0]
      exact limStage_off ((hkd.limOn k).trans hpass.lim) ((hkd.limLa k).trans hpass.la) f _
    have hc0 : c.1 = sinkSamples f k := by
      rw [hc, decStage_off ((hkl.outFmt hk).trans hpass.fmt), hl0]
    have hfmt : b.outFmt k = 0 := (hkb.outFmt hk).trans hpass.fmt
    have hz0 : zs = sinkSamples f k := by rw [hzs, hoff0, hc0]; rfl
    have hy0 : ys = sinkSamples f k := by
      rw [hys, hfmt, if_neg (by decide), hz0]
    rw [hos, hoff0, hfmt, hy0]
    exact reduce_none n k _

/-! ### The 40 sinks of a group -/

/-- What the group's chain has made of its folio after `i` sinks, seen from state `u` where it began: the sinks that are not
done stand, and those done that pass unchanged have their FINAL results. -/
structure ChainDone (n g i : Nat) (f : Fol) (u s : State) : Prop where
  force : s.out.force = u.out.force
  snk : ∀ k, 40 * g + i ≤ k → s.snk k = u.snk k
  fuse : s.fuse = u.fuse
  fmt : ∀ k, k < 2560 → s.reg (Reg.OUT_FMT k) = u.reg (Reg.OUT_FMT k)
  fol : ∃ o, s.fol? n = some { f with out := o } ∧
    ∀ k j, 40 * g ≤ k → k < 40 * g + i → j < 8 → PassSink f k u → smp o k j = smp f.sink k j

theorem PassSink.of_keeps {u : State} (h : PassSink f k u) (hforce : s.out.force = u.out.force)
    (hsnk : s.snk k = u.snk k) (hfuse : s.fuse = u.fuse) (hfmt : s.reg (Reg.OUT_FMT k) = u.reg (Reg.OUT_FMT k))
    (o : List (Nat × Word)) : PassSink { f with out := o } k s := by
  have hin : ∀ a, s.inForce a = u.inForce a := fun a => by rw [State.inForce, State.inForce, hforce]
  refine ⟨by rw [hsnk]; exact h.line, ?_, ?_, ?_, h.tval, h.undef⟩
  · rw [State.limOn, hin]
    exact h.lim
  · rw [State.limLa, hin]
    exact h.la
  · rw [State.outFmt, hfmt, State.isA, hfuse]
    exact h.fmt

theorem sinkSamples_getD (f : Fol) (k : Nat) {j : Nat} (hj : j < 8) :
    ((sinkSamples f k).map wdi).getD j 0 = smp f.sink k j := by
  have hj' : j < ((sinkSamples f k).map wdi).length := by simpa [sinkSamples] using hj
  rw [List.getD_eq_getElem _ _ hj']
  simp [sinkSamples, wdi]

theorem chainDone_step {u : State} {n g i : Nat} (hg : g < 64) (hi : i < 40) (h : ChainDone n g i f u s) :
    ChainDone n g (i + 1) f u (chainSink n (40 * g + i) s) := by
  obtain ⟨hforce, hsnk, hfuse, hfmt, o, hfol, hdone⟩ := h
  have hk : 40 * g + i < 2560 := by omega
  obtain ⟨v, os, heq, hv, hlen, hpass⟩ := chainSink_gives hk hfol
  have hvfol : v.fol? n = some { f with out := o } := by
    rw [State.fol?, hv.fols]
    exact hfol
  have hpst : ∀ g : Fol → Fol, v.updFol n g = v.setPst { v.pst with fols := (v.updFol n g).pst.fols } := fun g => by
    unfold State.updFol
    split <;> rfl
  rw [heq, hpst]
  refine ⟨hv.force.trans hforce, fun k hk => (hv.snk k (by omega)).trans (hsnk k (by omega)), hv.fuse.trans hfuse,
    fun k hk => (hv.fmt k hk).trans (hfmt k hk), putOut (40 * g + i) 0 (os.map wdi) o, ?_, fun k j hlo hhi hj hp => ?_⟩
  · rw [← hpst]
    exact fol?_updFol_same hvfol rfl
  · rw [smp_putOut _ _ _ (by simpa using hlen) _ hj]
    by_cases hki : k = 40 * g + i
    · have hos := hpass (hki ▸ hp.of_keeps hforce (hsnk k (by omega)) hfuse (hfmt k (by omega)) o)
      have hslen : (os.map wdi).length = 8 := by rw [hos]; simp [sinkSamples]
      rw [if_pos ⟨hki, Nat.zero_le _, by omega⟩, hos, Nat.sub_zero, sinkSamples_getD _ _ hj, hki]
    · rw [if_neg (by omega)]
      exact hdone k j hlo (by omega) hj hp

theorem chainDone_group {n g : Nat} (hg : g < 64) (hf : s.fol? n = some f) :
    ChainDone n g 40 f s (forN 40 s fun s i => chainSink n (40 * g + i) s) := by
  have hfold : ∀ i, i ≤ 40 → ChainDone n g i f s ((List.range i).foldl (fun s i => chainSink n (40 * g + i) s) s) := by
    intro i
    induction i with
    | zero => exact fun _ => ⟨rfl, fun _ _ => rfl, rfl, fun _ _ => rfl, f.out, hf, fun k j hlo hhi => by omega⟩
    | succ i ih =>
      intro hi
      rw [List.range_succ, List.foldl_append, List.foldl_cons, List.foldl_nil]
      exact chainDone_step hg (by omega) (ih (by omega))
  exact hfold 40 (Nat.le_refl _)

end

end Sys2Proof.Machine
end

section
/-! PROOF. The posting cut, receipts and the sink chain of a group (R98, R111, R133 to R136, R293, R578): O44, clause by
clause. -/

namespace Sys2Proof.Machine

theorem reg_count_one (s : State) {a : Nat} (k : Nat) (h : a ≠ Reg.EVT_RAW 1) : (s.count a 1 k).reg a = s.reg a + 1 := by
  have hup : (countUp (s.reg a) 1).1 = s.reg a + 1 := by
    simp only [countUp, wd, BitVec.ofNat_add, BitVec.ofNat_toNat, BitVec.setWidth_eq]
    rfl
  unfold State.count
  dsimp only
  split
  · rw [reg_raise_ne _ _ h, reg_setReg_same, hup]
  · rw [reg_setReg_same, hup]

theorem fol?_single {s : State} {f : Fol} (h : s.pst.fols = [f]) : s.fol? f.n = some f := by
  simp [State.fol?, h]

/-! ### The posting cut (R133 to R136) -/

section
variable {s : State}

/-- Path losses are counted in the DVT block (R474); nothing else but the marks of R25 moves. -/
theorem netPosted_keeps (n : Nat) : (netPosted n s).pst = s.pst ∧ (netPosted n s).hng = s.hng ∧ (netPosted n s).mem = s.mem ∧
    ∀ a, a < Reg.DVT_EVT → a ≠ Reg.EVT_SUM → a ≠ Reg.EVT_RAW 1 → (netPosted n s).reg a = s.reg a := by
  refine List.foldlRecOn (motive := fun v : State => v.pst = s.pst ∧ v.hng = s.hng ∧ v.mem = s.mem ∧
    ∀ a, a < Reg.DVT_EVT → a ≠ Reg.EVT_SUM → a ≠ Reg.EVT_RAW 1 → v.reg a = s.reg a) _ _ ⟨rfl, rfl, rfl, fun _ _ _ _ => rfl⟩
    fun v hv e _ => ?_
  have hloss : ∀ (v : State) (i : Nat), (v.pst = s.pst ∧ v.hng = s.hng ∧ v.mem = s.mem ∧
      ∀ a, a < Reg.DVT_EVT → a ≠ Reg.EVT_SUM → a ≠ Reg.EVT_RAW 1 → v.reg a = s.reg a) →
      let w := (v.count (Reg.DVT_PLOSS i) 1 53).evt Reg.DVT_EVT 3
      w.pst = s.pst ∧ w.hng = s.hng ∧ w.mem = s.mem ∧
        ∀ a, a < Reg.DVT_EVT → a ≠ Reg.EVT_SUM → a ≠ Reg.EVT_RAW 1 → w.reg a = s.reg a := by
    intro v i ⟨hp, hh, hm, hr⟩
    refine ⟨by simpa using hp, by simpa using hh, by simpa using hm, fun a ha h1 h2 => ?_⟩
    have hlt : a < 0x60140008 := ha
    have hloss : a ≠ Reg.DVT_PLOSS i := by
      simp only [Reg.DVT_PLOSS]
      omega
    rw [reg_evt_ne _ (Nat.ne_of_lt ha) h1, reg_count_ne _ _ _ hloss h2]
    exact hr a ha h1 h2
  dsimp only
  split <;> split
  · exact hloss _ _ (hloss _ _ hv)
  · exact hloss _ _ hv
  · exact hloss _ _ hv
  · exact hv

theorem postNow_eq {n : Nat} {f : Fol} (hf : s.fol? n = some f) : postNow n s = postFolio f (sendReceipt f s) := by
  unfold postNow
  rw [hf]

/-- A folio posted now is posted, and waits no more. -/
theorem postNow_posts {n : Nat} {f : Fol} (hf : s.fol? n = some f) :
    ∃ f', (postNow n s).fol? n = some f' ∧ f'.posted = true ∧ f'.waits = false := by
  obtain ⟨g, hg, -⟩ := (decided_sendReceipt f (Decided.refl s)).fols.fol? hf
  rw [postNow_eq hf]
  rw [← n_of_fol? hf] at hg ⊢
  exact postFolio_posts hg

/-- Its receipt stands in the registers (R135); what a posting does not count stands. -/
theorem postNow_registers {n : Nat} {f : Fol} (hf : s.fol? n = some f) (hconc : ∀ x ∈ f.conc, x < 2048) :
    (s.rb Reg.PST_CTRL 4 = false → (postNow n s).reg Reg.PST_RCPT_FOLIO_LO = wd n) ∧
      ∀ a, postKept a = true → rcptReg a = false → (postNow n s).reg a = s.reg a := by
  have hreg : ∀ a, postReg a = false → (postCounted f (sendReceipt f s)).reg a = s.reg a := fun a ha =>
    (reg_postCounted hconc ha).trans ((decided_sendReceipt f (Decided.refl s)).reg a ha)
  rw [postNow_eq hf]
  refine ⟨fun hctrl => ?_, fun a ha hr => ?_⟩
  · rw [reg_postFolio f (by decide), ← n_of_fol? hf]
    refine reg_postRecorded_folio f ?_
    rw [State.rb, hreg _ (by decide)]
    exact hctrl
  · rw [reg_postFolio f ha, reg_postRecorded_ne f hr, hreg a (postKept_ne ha).1]

theorem pst_refuseLate (n k : Nat) (d : LateData) (srcs : List Nat) (v : State) : (refuseLate n k d srcs v).pst = v.pst := by
  cases d with
  | packet =>
    simp only [refuseLate, refuse]
    split
    · rfl
    · rw [evt_pst, count_pst]
  | receipt => exact evt_pst _ _ _

/-- Decisions refused at P(n) leave the folios as they are. -/
theorem fols_refuseDeferred (n : Nat) (v : State) : (refuseDeferred n v).pst.fols = v.pst.fols :=
  List.foldlRecOn (motive := fun w : State => w.pst.fols = v.pst.fols) _ _ rfl fun w hw d _ => by
    rw [pst_refuseLate, hw]

theorem postingCut_posts (hl : s.hostLive = true) {f : Fol} (hfols : s.pst.fols = [f]) (hp : f.posted = false)
    (hw : f.waits = false) (hconc : ∀ x ∈ f.conc, x < 2048) (hdec : s.rb Reg.PST_CTRL 1 = false) :
    ∃ t f', exec .postingCut s = .next t ∧ t.fol? f.n = some f' ∧ f'.posted = true ∧
      f'.waits = false ∧ (s.rb Reg.PST_CTRL 4 = false → t.reg Reg.PST_RCPT_FOLIO_LO = wd f.n) := by
  obtain ⟨hpst, -, -, hreg⟩ := netPosted_keeps (s := s) f.n
  have hctrl : ∀ i, (netPosted f.n s).rb Reg.PST_CTRL i = s.rb Reg.PST_CTRL i := fun i => by
    rw [State.rb, hreg _ (by decide) (by decide) (by decide), State.rb]
  have hop : postingCutOp s = postNow f.n (netPosted f.n s) := by
    unfold postingCutOp
    simp [hfols, hp, hw, hctrl, hdec]
  have hf : (netPosted f.n s).fol? f.n = some f := fol?_single (by rw [hpst, hfols])
  obtain ⟨f', hf', hp', hw'⟩ := postNow_posts hf
  refine ⟨_, f', hostDo_live hl _, by rw [hop]; exact hf', hp', hw', fun h4 => ?_⟩
  rw [hop]
  exact (postNow_registers hf hconc).1 ((hctrl 4).trans h4)

theorem postingCut_waits (hl : s.hostLive = true) {f : Fol} (hfols : s.pst.fols = [f]) (hp : f.posted = false)
    (hw : f.waits = false) (hshadow : s.rb Reg.PST_CTRL 1 = true) (hnone : s.hng.receipts = []) :
    ∃ t, exec .postingCut s = .next t ∧ t.pst.fols = [{ f with waits := true }] ∧ t.mem = s.mem := by
  obtain ⟨hpst, hhng, hmem, hreg⟩ := netPosted_keeps (s := s) f.n
  set v := netPosted f.n s with hv
  have hctrl : v.rb Reg.PST_CTRL 1 = true := by
    rw [State.rb, hreg _ (by decide) (by decide) (by decide)]
    exact hshadow
  have hrcpt : v.receiptOf f.n = none := by
    unfold State.receiptOf
    rw [hhng, hnone]
    simp
  have hop : postingCutOp s = refuseDeferred f.n (v.updFol f.n fun f => { f with waits := true }) := by
    unfold postingCutOp
    simp [hfols, hp, hw, ← hv, hctrl, hrcpt]
  have hupd : v.updFol f.n (fun f => { f with waits := true }) = v.setFol { f with waits := true } := by
    rw [State.updFol, fol?_single (by rw [hpst, hfols])]
  have hset : (v.setFol { f with waits := true }).pst.fols = [{ f with waits := true }] := by
    simp [State.setFol, State.setPst, hpst, hfols]
  refine ⟨_, hostDo_live hl _, ?_, ?_⟩
  · rw [hop, fols_refuseDeferred, hupd, hset]
  · rw [hop, (decided_refuseDeferred f.n (Decided.refl _)).mem, hupd]
    exact hmem

/-! ### Receipts (R136, R578) -/

section
variable (hl : s.hostLive = true) (n : Nat) (conc reent : List Byte)
include hl

theorem receipt_runs : exec (.receipt n conc reent) s = .next (receiptOp n (mapSources conc) s) := hostDo_live hl _

/-- A node that is no shadow takes no receipt. -/
theorem receipt_ignored (h : s.rb Reg.PST_CTRL 1 = false) : exec (.receipt n conc reent) s = .next s := by
  rw [receipt_runs hl]
  simp [receiptOp, h]

/-- A receipt of a folio not yet in flight is kept. -/
theorem receipt_kept (h : s.rb Reg.PST_CTRL 1 = true) (hnone : s.fol? n = none) : exec (.receipt n conc reent) s = .next
    (s.setHng { s.hng with receipts := ((n, mapSources conc) :: s.hng.receipts).take 4 }) := by
  rw [receipt_runs hl]
  simp [receiptOp, h, hnone]

/-- A receipt of a folio posted already changes nothing (log entry 61). -/
theorem receipt_posted {f : Fol} (hf : s.fol? n = some f) (hw : f.waits = false) (hp : f.posted = true) :
    exec (.receipt n conc reent) s = .next s := by
  rw [receipt_runs hl]
  simp [receiptOp, hf, hw, hp]

/-- A receipt of a folio in flight is kept and decided. -/
theorem receipt_decided {f : Fol} (h : s.rb Reg.PST_CTRL 1 = true) (hf : s.fol? n = some f) (hw : f.waits = false)
    (hp : f.posted = false) : ∃ t f', exec (.receipt n conc reent) s = .next t ∧ t.fol? n = some f' ∧ f'.posted = false ∧
      t.hng.receipts = ((n, mapSources conc) :: s.hng.receipts).take 4 ∧ t.mem = s.mem := by
  set v := s.setHng { s.hng with receipts := ((n, mapSources conc) :: s.hng.receipts).take 4 } with hv
  have hd : Decided v (adoptReceipt (mapSources conc) n s.now3 false v) := decided_adoptReceipt _ _ _ _ (Decided.refl v)
  have hop : receiptOp n (mapSources conc) s = adoptReceipt (mapSources conc) n s.now3 false v := by
    simp [receiptOp, h, hf, hw, hp, hv]
  have hfv : v.fol? n = some f := hf
  obtain ⟨f', hf', hi⟩ := hd.fols.fol? hfv
  refine ⟨_, f', (receipt_runs hl n conc reent).trans (congrArg _ hop), hf', ?_, by rw [hd.hng]; rfl, hd.mem⟩
  rw [show f'.posted = f.posted from congrArg (fun i => i.2.1) hi, hp]

/-- A receipt that a folio waits for lets it be posted. -/
theorem receipt_posts {f : Fol} (h : s.rb Reg.PST_CTRL 1 = true) (hf : s.fol? n = some f) (hw : f.waits = true) :
    ∃ t f', exec (.receipt n conc reent) s = .next t ∧ t.fol? n = some f' ∧ f'.posted = true ∧ f'.waits = false := by
  have hd : Decided s (receiptMisses (mapSources conc) n (adoptReceipt (mapSources conc) n s.now3 true s)) :=
    decided_receiptMisses _ _ (decided_adoptReceipt _ _ _ _ (Decided.refl s))
  obtain ⟨g, hg, -⟩ := hd.fols.fol? hf
  obtain ⟨f', hf', hp', hw'⟩ := postNow_posts hg
  refine ⟨_, f', receipt_runs hl n conc reent, ?_, hp', hw'⟩
  have hop : receiptOp n (mapSources conc) s =
      postNow n (receiptMisses (mapSources conc) n (adoptReceipt (mapSources conc) n s.now3 true s)) := by
    simp [receiptOp, h, hf, hw]
  rw [hop]
  exact hf'

/-- Without the receipt the shadow posts with its own set, and counts it (R578). -/
theorem receiptMissing_posts {f : Fol} (hfols : s.pst.fols = [f]) (hw : f.waits = true) (hconc : ∀ x ∈ f.conc, x < 2048) :
    ∃ t f', exec .receiptMissing s = .next t ∧ t.fol? f.n = some f' ∧ f'.posted = true ∧ f'.waits = false ∧
      t.reg Reg.HNG_CNT_NORCPT = s.reg Reg.HNG_CNT_NORCPT + 1 := by
  have hop : receiptMissingOp s = postNow f.n (s.count Reg.HNG_CNT_NORCPT 1 54) := by
    unfold receiptMissingOp
    simp [hfols, hw]
  have hf : (s.count Reg.HNG_CNT_NORCPT 1 54).fol? f.n = some f := fol?_single (by rw [count_pst, hfols])
  obtain ⟨f', hf', hp', hw'⟩ := postNow_posts hf
  refine ⟨_, f', (hostDo_live hl receiptMissingOp).trans (congrArg _ hop), hf', hp', hw', ?_⟩
  rw [(postNow_registers hf hconc).2 _ (by decide) (by decide), reg_count_one _ _ (by decide)]

end

/-! ### The sink chain of a group (R98, R293) -/

theorem addAll_eq_nil {l : List Nat} (h : addAll [] l = []) : l = [] := by
  cases l with
  | nil => rfl
  | cons x l =>
    have hgrow : ∀ (l m : List Nat), m ≠ [] → addAll m l ≠ [] := by
      intro l
      induction l with
      | nil => exact fun m hm => hm
      | cons y l ih =>
        refine fun m hm => ih (addTo m y) ?_
        unfold addTo
        split
        · exact hm
        · simp
    exact absurd h (hgrow l [x] (by simp))

/-- The values in force decide which sinks are linked. -/
theorem linked_congr {v : State} (h : v.out.force = s.out.force) (k : Nat) :
    v.linked k = s.linked k ∧ v.members (v.limLink k) = s.members (s.limLink k) := by
  have hin : ∀ a, v.inForce a = s.inForce a := fun a => by rw [State.inForce, State.inForce, h]
  have hon : v.limOn k = s.limOn k := by rw [State.limOn, State.limOn, hin]
  have hlink : v.limLink k = s.limLink k := by rw [State.limLink, State.limLink, hin]
  have hla : v.limLa = s.limLa := funext fun j => by rw [State.limLa, State.limLa, hin]
  have hmem : v.members = s.members := funext fun l => by rw [State.members, State.members, h]
  have hgroup : v.groupLa = s.groupLa := funext fun l => by rw [State.groupLa, State.groupLa, hmem, hla]
  exact ⟨by rw [State.linked, State.linked, hon, hlink, hla, hgroup], by rw [hmem, hlink]⟩

/-- Where no sink of the group is linked no link asks for a sink. -/
theorem linkTargets_none {g : Nat} (hnone : s.linkedGroups g = []) {v : State} (hv : v.out.force = s.out.force) (n : Nat) :
    linkTargets n g v = v := by
  have hneed : (((List.range 40).map (fun i => 40 * g + i)).flatMap (fun k =>
      if v.linked k then v.members (v.limLink k) else [])) = [] := by
    have hmap := List.map_eq_nil_iff.mp (addAll_eq_nil hnone)
    refine Eq.trans (List.flatMap_congr fun k _ => ?_) hmap
    rw [(linked_congr hv k).1, (linked_congr hv k).2]
  unfold linkTargets
  rw [hneed]
  rfl

theorem applyStaged_none (h : s.out.staged = []) (n : Nat) : applyStaged n s = s := by
  have hout : ({ s.out with staged := [] } : Out) = s.out := by rw [← h]
  unfold applyStaged
  simp only [h, List.filter_nil, List.foldl_nil, hout]
  rfl

theorem chainKeeps_chainErrors (g : Nat) (corrected bad : List Nat) :
    ChainKeeps (fun _ => False) s (chainErrors g corrected bad s) := by
  unfold chainErrors
  extract_lets mine v
  have hv : ChainKeeps (fun _ => False) s v := chainKeeps_evtIf (by decide) _ 3 (ChainKeeps.refl _ s)
  refine List.foldlRecOn (motive := ChainKeeps (fun _ => False) s) _ _ hv fun w hw a _ => ?_
  have hz : ChainKeeps (fun _ => False) s ((vaultSlotsOf (a / 8 * 8)).foldl (fun s k => s.wrBytes (slotAddr k) [0, 0, 0]) w) :=
    hw.trans (chainKeeps_within (within_foldl (Within.refl _ w) fun _ _ ht => within_wrBytes rfl _ _ ht))
  exact chainKeeps_count (by decide) 1 51 (chainKeeps_evt (by decide) 4 hz)

/-- What follows the last sink of a group: the envelope, and the checksum of a folio of which all groups are done. -/
def groupSent (g : Nat) (f : Fol) (s : State) : State :=
  let s := if g = 63 ∧ s.isA then s.hostQueue 2 (envelopeBytes f) else s
  if f.chained.length = 64 then
    { s with hng := { s.hng with csums := ((f.n + 2, s.checksum f) :: s.hng.csums).take 8 } }
  else s

theorem pst_groupSent (g : Nat) (f : Fol) (s : State) : (groupSent g f s).pst = s.pst := by
  have hqueue : (if g = 63 ∧ s.isA then s.hostQueue 2 (envelopeBytes f) else s).pst = s.pst := by
    unfold State.hostQueue
    split
    · split <;> rfl
    · rfl
  unfold groupSent
  dsimp only
  split
  · exact hqueue
  · exact hqueue

/-- Group `g` through the chain, its entry freed. -/
def groupChained (n g : Nat) (corrected bad : List Nat) (s : State) : State :=
  (forN 40 (linkErrors g (chainErrors g corrected bad s)) fun s i => chainSink n (40 * g + i) s).updFol n
    fun f => { f.setEntry g .free with chained := f.chained ++ [g] }

section
variable {f : Fol} {g : Nat} (hfols : s.pst.fols = [f]) (hchained : f.chained = [])
include hfols hchained

/-- The first group of a folio that is processed, with no write staged and no link. -/
theorem sinkChainGroupOp_first (hlinks : s.linkedGroups g = []) (corrected bad : List Nat) (hp : f.posted = true) (hfinal : f.entry g = .final)
    (hstaged : s.out.staged = []) {f' : Fol} (hf' : (groupChained f.n g corrected bad s).fol? f.n = some f') :
    sinkChainGroupOp g corrected bad s = groupSent g f' (groupChained f.n g corrected bad s) := by
  have hfolio : s.chainFolio g = some f := by simp [State.chainFolio, hfols, hp, hfinal, hchained]
  have hfirst : ¬(s.pst.fols.any fun x => decide (x.n < f.n) && x.posted && decide (x.chained.length < 64)) = true := by
    simp [hfols]
  have hfree : ¬(([] : List Nat).any fun h => decide (f.entry h ≠ .final) && !f.chained.contains h) = true := by simp
  have hforce := (chainKeeps_chainErrors (s := s) g corrected bad).force
  unfold groupChained at hf' ⊢
  unfold sinkChainGroupOp
  rw [hfolio]
  dsimp only
  rw [if_neg hfirst, if_pos hchained, applyStaged_none hstaged, hlinks, if_neg hfree, linkTargets_none hlinks hforce, hf']
  rfl

/-- Its folio after it: the entry free, and the FINAL results of the sinks that pass unchanged. -/
theorem groupChained_fol (corrected bad : List Nat) (hg : g < 64) :
    ∃ f', (groupChained f.n g corrected bad s).fol? f.n = some f' ∧ f'.entry g = .free ∧ f'.chained = [g] ∧
      ∀ k j, k / 40 = g → j < 8 → PassSink f k s → smp f'.out k j = smp f.sink k j := by
  have hkeep : ChainKeeps (fun _ => False) s (linkErrors g (chainErrors g corrected bad s)) :=
    chainKeeps_evtIf (by decide) _ 2 (chainKeeps_chainErrors g corrected bad)
  obtain ⟨-, -, -, -, o, hfol, hdone⟩ := chainDone_group hg (fol?_single (hkeep.fols.trans hfols))
  refine ⟨_, fol?_updFol_same hfol rfl, aget_aput_same f.entries .free g .free, by simp [hchained],
    fun k j hkg hj hpass => ?_⟩
  exact hdone k j (by omega) (by omega) hj
    (hpass.of_keeps hkeep.force (hkeep.snk k fun h => h) hkeep.fuse (hkeep.fmt k (by omega)) f.out)

end

/-- The chain processes a FINAL group once; sinks without delay, limiter and reduction pass unchanged. -/
theorem sinkChainGroup_processes (hl : s.hostLive = true) {f : Fol} {g : Nat} (corrected bad : List Nat) (hg : g < 64)
    (hfols : s.pst.fols = [f]) (hp : f.posted = true) (hfinal : f.entry g = .final) (hchained : f.chained = [])
    (hstaged : s.out.staged = []) (hlinks : s.linkedGroups g = []) :
    ∃ t f', exec (.sinkChainGroup ⟨g, corrected, bad⟩) s = .next t ∧ t.fol? f.n = some f' ∧ f'.entry g = .free ∧
      f'.chained = [g] ∧ ∀ k j, k / 40 = g → j < 8 → PassSink f k s → smp f'.out k j = smp f.sink k j := by
  obtain ⟨f', hf', h⟩ := groupChained_fol hfols hchained corrected bad hg
  refine ⟨_, f', (hostDo_live hl (sinkChainGroupOp g corrected bad)).trans (congrArg Host.Outcome.next
    (sinkChainGroupOp_first hfols hchained hlinks corrected bad hp hfinal hstaged hf')), ?_, h⟩
  rw [State.fol?, pst_groupSent]
  exact hf'

end

/-- Settles O44, clause by clause. -/
theorem postingCommands : Obligations.PostingCommands := by
  intro s hl
  refine ⟨fun f hfols hp hw hconc => ⟨postingCut_posts hl hfols hp hw hconc, postingCut_waits hl hfols hp hw⟩,
    fun n conc reent => ⟨receipt_kept hl n conc reent, fun f => receipt_posts hl n conc reent,
      fun f => receipt_decided hl n conc reent, fun f => receipt_posted hl n conc reent, receipt_ignored hl n conc reent⟩,
    fun f => receiptMissing_posts hl, fun f g corrected bad hg hfols hp hfinal hchained hstaged hlinks hundef => ?_⟩
  obtain ⟨t, f', ht, hf', hentry, hc, hout⟩ :=
    sinkChainGroup_processes hl corrected bad hg hfols hp hfinal hchained hstaged hlinks
  exact ⟨t, f', ht, hf', hentry, hc, fun k j hk hj hline hlim hla hfmt htval =>
    hout k j hk hj ⟨hline, hlim, hla, hfmt, htval, hundef⟩⟩

end Sys2Proof.Machine
end

section
/-! PROOF. The mix of a group and the remixes (R93, R115, R121, R145, R158 to R162). -/

namespace Sys2Proof.Machine

theorem Within.ldg_eq {m : Parts} {s t : State} (h : Within m s t) (hm : m.ldg = false) : t.ldg = s.ldg := by
  have e := congrArg State.ldg h
  simpa [State.outside, hm] using e

/-! ### The mix of 40 sinks -/

/-- The registers that the mix of a group may write: its events and saturations (R159, R161), and the parity event (R153). -/
def mixReg (a : Nat) : Bool := [Reg.LDG_EVT, Reg.LDG_CNT_SAT, Reg.EVT_SUM, Reg.EVT_RAW 1].contains a

/-- `s` is reached from `u` by mixes: only registers may differ, and of them those of `mixReg`. -/
structure Mixed (u s : State) : Prop where
  within : Within { regs := true } u s
  reg : ∀ a, mixReg a = false → s.reg a = u.reg a

theorem ne_of_mixReg {a b : Nat} (ha : mixReg a = false) (hb : mixReg b = true) : a ≠ b := by
  rintro rfl
  rw [ha] at hb
  cases hb

theorem smp_setSmps (l : List (Nat × Word)) {c d j : Nat} (g : Nat → Word) (hj : j < 8) :
    smp (setSmps l c g) d j = if d = c then g j else smp l d j := by
  have hfold : ∀ n, n ≤ 8 → smp ((List.range n).foldl (fun l i => setSmp l c i (g i)) l) d j =
      if d = c ∧ j < n then g j else smp l d j := by
    intro n
    induction n with
    | zero => simp
    | succ n ih =>
      intro hn
      rw [List.range_succ, List.foldl_append, List.foldl_cons, List.foldl_nil, smp_setSmp _ (by omega) hj, ih (by omega)]
      by_cases hd : d = c
      · by_cases hjn : j = n
        · simp [hd, hjn]
        · have hlt : j < n + 1 ↔ j < n := by omega
          simp [hd, hjn, hlt]
      · simp [hd]
  have h8 := hfold 8 (Nat.le_refl 8)
  rw [show setSmps l c g = (List.range 8).foldl (fun l i => setSmp l c i (g i)) l from rfl, h8]
  simp [hj]

section
variable {u s : State}

theorem Mixed.refl (s : State) : Mixed s s := ⟨Within.refl _ s, fun _ _ => rfl⟩

theorem mixed_evtIf {a : Nat} (ha : mixReg a = true) (c : Bool) (i : Nat) (h : Mixed u s) : Mixed u (s.evtIf c a i) :=
  ⟨within_evtIf rfl _ _ _ h.within, fun b hb =>
    (reg_evtIf_ne _ _ (ne_of_mixReg hb ha) (ne_of_mixReg hb (by decide))).trans (h.reg b hb)⟩

theorem mixed_count {a : Nat} (ha : mixReg a = true) (n k : Nat) (h : Mixed u s) : Mixed u (s.count a n k) :=
  ⟨within_count rfl _ _ _ h.within, fun b hb =>
    (reg_count_ne _ _ _ (ne_of_mixReg hb ha) (ne_of_mixReg hb (by decide))).trans (h.reg b hb)⟩

theorem codeAt_congr (hramps : s.ldg.ramps = u.ldg.ramps) (hwas : s.ldg.was = u.ldg.was) (hmem : s.mem = u.mem)
    (hcur : s.pst.cur = u.pst.cur) (x j : Nat) : s.codeAt x j = u.codeAt x j := by
  have hsteady : s.steadyCode x = u.steadyCode x := by
    rw [State.steadyCode, State.steadyCode, hwas, State.gain, State.gain, State.rdHalf, State.rdHalf,
      rdBytes_congr (s := u) fun i _ _ => by rw [State.rdByte, State.rdByte, hmem]]
  rw [State.codeAt, State.codeAt, hramps, hcur, hsteady]

theorem mixSum_congr (hramps : s.ldg.ramps = u.ldg.ramps) (hwas : s.ldg.was = u.ldg.was) (hmem : s.mem = u.mem)
    (hcur : s.pst.cur = u.pst.cur) (rows : List (Nat × Word)) (k j : Nat) : s.mixSum rows k j = u.mixSum rows k j := by
  simp only [State.mixSum, codeAt_congr hramps hwas hmem hcur]

theorem Mixed.mixSum (h : Mixed u s) (rows : List (Nat × Word)) (k j : Nat) : s.mixSum rows k j = u.mixSum rows k j := by
  have hldg := h.within.ldg_eq rfl
  exact mixSum_congr (by rw [hldg]) (by rw [hldg]) (h.within.mem_eq rfl) (by rw [h.within.pst_eq rfl]) rows k j

theorem Mixed.domOn (h : Mixed u s) : s.domOn 5 = u.domOn 5 := by
  rw [State.domOn, State.domOn, State.rb, State.rb, h.reg _ (by decide)]

theorem mixed_mixSink (rows : List (Nat × Word)) (k : Nat) (h : Mixed u s) : Mixed u (mixSink rows k s).2.2 := by
  unfold mixSink
  split
  · exact h
  · exact mixed_evtIf (by decide) _ _ (mixed_evtIf (by decide) _ _ h)

/-- The results of a sink are the saturated, rounded sums. -/
theorem mixSink_results (rows : List (Nat × Word)) (k : Nat) (h : Mixed u s) (hon : u.domOn 5 = true) {j : Nat} (hj : j < 8) :
    (mixSink rows k s).1.getD j 0 = wdi (sinkResult (u.mixSum rows k j)).1 := by
  have hres : (mixSink rows k s).1 = (List.range 8).map fun j => wdi (sinkResult (u.mixSum rows k j)).1 := by
    unfold mixSink
    rw [h.domOn, hon]
    simp [h.mixSum]
  have hj' : j < ((List.range 8).map fun j => wdi (sinkResult (u.mixSum rows k j)).1).length := by simpa using hj
  rw [hres, List.getD_eq_getElem _ _ hj']
  simp

/-- Folio `f` and the state after `i` sinks of group `g`: those of `only` have their results, the others stand. -/
structure MixDone (f : Fol) (g : Nat) (only : Nat → Bool) (i : Nat) (u : State) (r : Fol × State) : Prop where
  state : Mixed u r.2
  fol : r.1 = { f with mix := r.1.mix, satDone := r.1.satDone }
  mix : ∀ k j, j < 8 → smp r.1.mix k j =
    if only k = true ∧ 40 * g ≤ k ∧ k < 40 * g + i then wdi (sinkResult (u.mixSum f.rows k j)).1 else smp f.mix k j

/-- One sink of a group's mix. -/
def mixStep (g : Nat) (only : Nat → Bool) (r : Fol × State) (i : Nat) : Fol × State :=
  let k := 40 * g + i
  let f := r.1
  let (w, sat, s) := mixSink f.rows k r.2
  let f := if only k then { f with mix := setSmps f.mix k (fun j => w.getD j 0) } else f
  if sat ∧ !f.satDone.contains k then ({ f with satDone := f.satDone ++ [k] }, s.count Reg.LDG_CNT_SAT 1 49) else (f, s)

section
variable (g i : Nat) (only : Nat → Bool) (r : Fol × State)

theorem mixStep_fol : (mixStep g only r i).1 =
    { r.1 with mix := (mixStep g only r i).1.mix, satDone := (mixStep g only r i).1.satDone } := by
  unfold mixStep
  dsimp only
  split <;> split <;> rfl

theorem mixStep_mix : (mixStep g only r i).1.mix = if only (40 * g + i) then
    setSmps r.1.mix (40 * g + i) fun j => (mixSink r.1.rows (40 * g + i) r.2).1.getD j 0 else r.1.mix := by
  unfold mixStep
  dsimp only
  split <;> split <;> rfl

theorem mixed_mixStep (h : Mixed u r.2) : Mixed u (mixStep g only r i).2 := by
  have hsink : Mixed u (mixSink r.1.rows (40 * g + i) r.2).2.2 := mixed_mixSink _ _ h
  unfold mixStep
  dsimp only
  split <;> split
  · exact mixed_count (by decide) _ _ hsink
  · exact hsink
  · exact mixed_count (by decide) _ _ hsink
  · exact hsink

end

theorem mixDone_step {f : Fol} {g i : Nat} {only : Nat → Bool} {r : Fol × State} (hon : u.domOn 5 = true)
    (h : MixDone f g only i u r) : MixDone f g only (i + 1) u (mixStep g only r i) := by
  obtain ⟨hst, hf, hm⟩ := h
  have hrows : r.1.rows = f.rows := by rw [hf]
  refine ⟨mixed_mixStep g i only r hst, by rw [mixStep_fol, hf], fun k j hj => ?_⟩
  rw [mixStep_mix, hrows]
  by_cases hk : k = 40 * g + i
  · subst hk
    cases honly : only (40 * g + i) with
    | false => simp [hm _ j hj, honly]
    | true =>
      rw [if_pos rfl, smp_setSmps _ _ hj, if_pos rfl, mixSink_results _ _ hst hon hj]
      exact (if_pos ⟨rfl, by omega, by omega⟩).symm
  · have hlt : k < 40 * g + (i + 1) ↔ k < 40 * g + i := by omega
    simp only [hlt, ← hm k j hj]
    split
    · rw [smp_setSmps _ _ hj, if_neg hk]
    · rfl

theorem mixDone_group (f : Fol) (g : Nat) (only : Nat → Bool) (hon : s.domOn 5 = true) :
    MixDone f g only 40 s (mixGroup f g only s) := by
  have hfold : ∀ i, MixDone f g only i s ((List.range i).foldl (mixStep g only) (f, s)) := by
    intro i
    induction i with
    | zero => exact ⟨Mixed.refl s, rfl, fun k j _ => (if_neg (by omega)).symm⟩
    | succ i ih =>
      rw [List.range_succ, List.foldl_append, List.foldl_cons, List.foldl_nil]
      exact mixDone_step hon ih
  exact hfold 40

/-! ### The mix of the running group (R93) -/

/-- What the effects of tasks leave of a folio's mix. -/
def Fol.mixView (f : Fol) : Nat × List (Nat × Word) × Nat × List Remix := (f.n, f.mix, f.mixed, f.remix)

theorem lasting_mixView : Lasting Fol.mixView := fun _ _ _ _ _ => rfl

theorem settled_fillInputs {α : Type} {π : Fol → α} (k n : Nat) (h : Settled π u s) : Settled π u (fillInputs k n s) :=
  h.of_within (within_fillInputs rfl rfl k n (Within.refl _ s))

end

/-- Some task takes the results of sink `k`. -/
def State.sinkTaken (s : State) (k : Nat) : Bool :=
  s.tel.ctxs.any (fun e => e.2.exists_ && !e.2.decl.isSrc && e.2.decl.outs.any (fun c => c.chan == k))

/-- Folio `f` with group `g` mixed, its sink tasks `tasks` dispatched, the next entry begun. -/
def groupFolio (g : Nat) (tasks : List Nat) (taken : Nat → Bool) (f : Fol) : Fol :=
  let sink := forN 40 f.sink (fun l i =>
    let k := 40 * g + i
    if taken k then setSmps l k (fun _ => 0) else setSmps l k (fun j => smp f.mix k j))
  let began : EntrySt := if f.posted then .posted else .provisional
  let f := if g < 63 then f.setEntry (g + 1) began else f
  let f := { f with
    sink := sink, mixed := g + 1, open_ := addAll f.open_ tasks, prov := addAll f.prov tasks }
  if f.remix.any (fun q => q.g == g) ∧ f.entry g = .provisional then f.setEntry g .reversed else f

theorem groupFolio_mixView (g : Nat) (tasks : List Nat) (taken : Nat → Bool) (f : Fol) :
    (groupFolio g tasks taken f).mixView = (f.n, f.mix, g + 1, f.remix) := by
  unfold groupFolio
  extract_lets sink began f1 f2
  have h1 : f1.mixView = f.mixView := by
    change (if g < 63 then f.setEntry (g + 1) began else f).mixView = _
    split <;> rfl
  have h2 : f2.mixView = (f.n, f.mix, g + 1, f.remix) := congrArg (fun v => (v.1, v.2.1, g + 1, v.2.2.2)) h1
  split
  · exact h2
  · exact h2

/-- After the mix of group `g`: its folio, the inputs of its sink tasks, the cost of the pass. -/
def groupEnds (n g : Nat) (tasks : List Nat) (r : Fol × State) : State :=
  let s := tasks.foldl (fun s k => fillInputs k n s) (r.2.setFol (groupFolio g tasks r.2.sinkTaken r.1))
  let pass := ((List.range 64).map (fun h => s.groupCost h)).foldl (· + ·) 0
  if g = 63 then s.setReg Reg.LDG_PASS (wd pass) else s

/-- The sink tasks of group `g`. -/
def State.groupTasks (s : State) (g : Nat) : List Nat :=
  s.ctxsWhere (fun k c => !c.decl.isSrc && decide (declGroup c.decl = g) && s.ctxOn k)

theorem groupMixEndOp_eq {s : State} {n : Nat} {f : Fol} (hcur : s.pst.cur = some n) (hf : s.fol? n = some f)
    (hm : f.mixed < 64) : groupMixEndOp [] s =
      settle n (groupEnds n f.mixed ((mixGroup f f.mixed (fun _ => true) s).2.groupTasks f.mixed)
        (mixGroup f f.mixed (fun _ => true) s)) := by
  have hnone : (s.setLdg { s.ldg with parity := addAll s.ldg.parity [] }).evtIf (decide (([] : List Nat) ≠ [])) Reg.LDG_EVT 7 = s :=
    rfl
  have hmixed : ¬64 ≤ f.mixed := by omega
  unfold groupMixEndOp
  rw [hcur]
  dsimp only
  rw [hf]
  dsimp only
  rw [if_neg hmixed, hnone]
  rfl

section
variable {s : State}

theorem fol?_groupEnds {n g : Nat} {tasks : List Nat} {r : Fol × State} {f : Fol} (hn : r.1.n = n) (hf : r.2.fol? n = some f) :
    (groupEnds n g tasks r).fol? n = some (groupFolio g tasks r.2.sinkTaken r.1) := by
  have hgn : (groupFolio g tasks r.2.sinkTaken r.1).n = n :=
    (congrArg Prod.fst (groupFolio_mixView g tasks r.2.sinkTaken r.1)).trans hn
  have hset : (r.2.setFol (groupFolio g tasks r.2.sinkTaken r.1)).fol? n = some (groupFolio g tasks r.2.sinkTaken r.1) := by
    rw [fol?_setFol, if_pos hgn, hf]
    rfl
  have hfill : Within { mem := true, free := true } (r.2.setFol (groupFolio g tasks r.2.sinkTaken r.1))
      (tasks.foldl (fun s k => fillInputs k n s) (r.2.setFol (groupFolio g tasks r.2.sinkTaken r.1))) :=
    within_foldl (Within.refl _ _) fun _ k ht => within_fillInputs rfl rfl k n ht
  rw [← hset, State.fol?, State.fol?, ← hfill.pst_eq rfl]
  unfold groupEnds
  dsimp only
  split <;> rfl

/-- A group's mix gives each of its 40 sinks its sum, and no other sink anything. -/
theorem groupMixEnd_mixes (hl : s.hostLive = true) {n : Nat} {f : Fol} (hcur : s.pst.cur = some n) (hf : s.fol? n = some f)
    (hm : f.mixed < 64) (hon : s.domOn 5 = true) :
    ∃ t f', exec (.groupMixEnd []) s = .next t ∧ t.fol? n = some f' ∧ f'.mixed = f.mixed + 1 ∧
      (∀ k j, k / 40 = f.mixed → j < 8 → smp f'.mix k j = wdi (sinkResult (s.mixSum f.rows k j)).1) ∧
      (∀ k j, k / 40 ≠ f.mixed → j < 8 → smp f'.mix k j = smp f.mix k j) := by
  obtain ⟨hst, hfol, hmix⟩ := mixDone_group f f.mixed (fun _ => true) hon
  set r := mixGroup f f.mixed (fun _ => true) s with hr
  have hfn : r.1.n = f.n := by rw [hfol]
  have hn : r.1.n = n := hfn.trans (n_of_fol? hf)
  have hrf : r.2.fol? n = some f := by rw [State.fol?, hst.within.pst_eq rfl]; exact hf
  have hends := fol?_groupEnds (g := f.mixed) (tasks := r.2.groupTasks f.mixed) hn hrf
  obtain ⟨f', hf', hview⟩ := (settled_settle lasting_mixView n (Settled.refl Fol.mixView _)).fols.fol? hends
  rw [groupFolio_mixView] at hview
  have hmixed : f'.mixed = f.mixed + 1 := congrArg (fun v => v.2.2.1) hview
  have hmix' : f'.mix = r.1.mix := congrArg (fun v => v.2.1) hview
  refine ⟨_, f', hostDo_live hl (groupMixEndOp []), ?_, hmixed, fun k j hk hj => ?_, fun k j hk hj => ?_⟩
  · rw [groupMixEndOp_eq hcur hf hm]
    exact hf'
  · rw [hmix', hmix k j hj]
    exact if_pos ⟨rfl, by omega, by omega⟩
  · rw [hmix', hmix k j hj]
    exact if_neg (by omega)

/-! ### Remixes (R115, R121) -/

theorem settled_sinkRerun (n : Nat) (t0 : Int) (k : Nat) {u : State} (h : Settled Fol.mixView u s) :
    Settled Fol.mixView u (sinkRerun n t0 k s) := by
  have hfill : Settled Fol.mixView u (fillInputs k n s) := settled_fillInputs k n h
  unfold sinkRerun
  dsimp only
  split
  · exact hfill
  · rename_i f hf
    exact settled_setFol (g := f) hfill ((congrArg _ (n_of_fol? hf)).trans hf) rfl

/-- The folio whose remix has been mixed, its dependent sinks without a task taking the results. -/
def remixFolio (deps : List Nat) (taken : Nat → Bool) (rest : List Remix) (cyc : Nat) (f : Fol) : Fol :=
  { f with
    sink := deps.foldl (fun l k => if taken k then l else setSmps l k (fun j => smp f.mix k j)) f.sink
    remix := rest
    remixCyc := cyc }

/-- After the mix of remix `q`, which cost `cost`: its sink tasks run again, its cycles are latched. -/
def remixEnds (q : Remix) (rest : List Remix) (cost : Nat) (r : Fol × State) : State :=
  let cyc := r.1.remixCyc + cost
  let s := (r.2.sinkTasksOf r.1 q.g q.deps).foldl (fun s k => sinkRerun r.1.n (q.start + 3 * cost) k s)
    (r.2.setFol (remixFolio q.deps r.2.sinkTaken rest cyc r.1))
  if s.rf Reg.PST_REVMAX 16 0 < cyc then s.latchFld Reg.PST_REVMAX 16 0 cyc else s

theorem remixEndOp_eq {f : Fol} {q : Remix} {rest : List Remix}
    (hfind : s.pst.fols.find? (fun f => f.slot && decide (f.mixed = 64) && decide (f.remix ≠ [])) = some f)
    (hq : f.remix = q :: rest) : remixEndOp s =
      settle (mixGroup f q.g (fun k => q.deps.contains k) s).1.n
        ((remixEnds q rest (s.groupCost q.g) (mixGroup f q.g (fun k => q.deps.contains k) s)).count (Reg.PST_CNT 5) 1 48) := by
  unfold remixEndOp
  rw [hfind]
  dsimp only
  rw [hq]
  rfl

theorem settled_remixEnds (q : Remix) (rest : List Remix) (cost : Nat) (r : Fol × State) :
    Settled Fol.mixView (r.2.setFol (remixFolio q.deps r.2.sinkTaken rest (r.1.remixCyc + cost) r.1))
      (remixEnds q rest cost r) := by
  unfold remixEnds
  extract_lets cyc v
  have hv : Settled Fol.mixView (r.2.setFol (remixFolio q.deps r.2.sinkTaken rest cyc r.1)) v :=
    settled_foldl (Settled.refl _ _) fun _ k ht => settled_sinkRerun _ _ k ht
  split
  · exact hv.of_eq (regsKept_latchFld (by decide) _ _ _ fun _ _ => rfl) rfl rfl
  · exact hv

/-- A remix renews its dependent sinks. -/
theorem remixEnd_renews (hl : s.hostLive = true) {f : Fol} {q : Remix} {rest : List Remix}
    (hfind : s.pst.fols.find? (fun f => f.slot && decide (f.mixed = 64) && decide (f.remix ≠ [])) = some f)
    (hq : f.remix = q :: rest) (hon : s.domOn 5 = true) :
    ∃ t f', exec .remixEnd s = .next t ∧ t.fol? f.n = some f' ∧ f'.remix = rest ∧
      (∀ k j, k ∈ q.deps → k / 40 = q.g → j < 8 → smp f'.mix k j = wdi (sinkResult (s.mixSum f.rows k j)).1) ∧
      (∀ k j, k ∉ q.deps → j < 8 → smp f'.mix k j = smp f.mix k j) ∧
      t.reg (Reg.PST_CNT 5) = s.reg (Reg.PST_CNT 5) + 1 := by
  obtain ⟨hst, hfol, hmix⟩ := mixDone_group f q.g (fun k => q.deps.contains k) hon
  set r := mixGroup f q.g (fun k => q.deps.contains k) s with hr
  set g := remixFolio q.deps r.2.sinkTaken rest (r.1.remixCyc + s.groupCost q.g) r.1 with hg
  set v := remixEnds q rest (s.groupCost q.g) r with hv
  have hn : r.1.n = f.n := by rw [hfol]
  obtain ⟨f0, hf0⟩ : ∃ f0, r.2.fol? f.n = some f0 := by
    rw [State.fol?, hst.within.pst_eq rfl]
    exact Option.isSome_iff_exists.mp (List.find?_isSome.mpr ⟨f, List.mem_of_find?_eq_some hfind, by simp⟩)
  have hset : (r.2.setFol g).fol? f.n = some g := by
    rw [fol?_setFol, if_pos (show g.n = f.n from hn), hf0]
    rfl
  have hends : Settled Fol.mixView (r.2.setFol g) v := settled_remixEnds q rest (s.groupCost q.g) r
  obtain ⟨g1, hg1, hview1⟩ := hends.fols.fol? hset
  have hcount : (v.count (Reg.PST_CNT 5) 1 48).fol? f.n = some g1 := by rw [State.fol?, count_pst]; exact hg1
  have hsettle := settled_settle lasting_mixView f.n (Settled.refl Fol.mixView (v.count (Reg.PST_CNT 5) 1 48))
  obtain ⟨f', hf', hview⟩ := hsettle.fols.fol? hcount
  rw [hview1] at hview
  have hmix' : f'.mix = r.1.mix := congrArg (fun v => v.2.1) hview
  have hop : remixEndOp s = settle f.n (v.count (Reg.PST_CNT 5) 1 48) := by rw [remixEndOp_eq hfind hq, ← hr, hn]
  refine ⟨_, f', (hostDo_live hl remixEndOp).trans (congrArg _ hop), hf', congrArg (fun v => v.2.2.2) hview,
    fun k j hk hkg hj => ?_, fun k j hk hj => ?_, ?_⟩
  · rw [hmix', hmix k j hj]
    exact if_pos ⟨by simpa using hk, by omega, by omega⟩
  · rw [hmix', hmix k j hj]
    exact if_neg fun h => hk (by simpa using h.1)
  · rw [hsettle.reg _ (by decide), reg_count_one _ _ (by decide), hends.reg _ (by decide)]
    exact congrArg (· + 1) (hst.reg _ (by decide))

end

end Sys2Proof.Machine
end

section
/-! PROOF. The entry cut (R88, R92): the folio that it puts in flight. -/

namespace Sys2Proof.Machine

/-! ### The folio that is cut -/

/-- What source assembly leaves of a folio: its number, whether it is posted, the groups mixed. -/
def Fol.cutView (f : Fol) : Nat × Bool × Nat := (f.n, f.posted, f.mixed)

theorem of_cutView {f : Fol} {n m : Nat} {p : Bool} (h : f.cutView = (n, p, m)) : f.n = n ∧ f.posted = p ∧ f.mixed = m :=
  ⟨congrArg Prod.fst h, congrArg (fun v => v.2.1) h, congrArg (fun v => v.2.2) h⟩

theorem foldl_cutView {β : Type} {l : List β} {g : Fol → β → Fol} (hg : ∀ f x, (g f x).cutView = f.cutView) (f : Fol) :
    (l.foldl g f).cutView = f.cutView :=
  List.foldlRecOn (motive := fun x => x.cutView = f.cutView) l g rfl fun _ h x _ => (hg _ x).trans h

theorem cutView_putSource (src : Nat) (v : Nat → Word) (f : Fol) : (putSource src v f).cutView = f.cutView := rfl

theorem cutView_assemble (s : State) (f : Fol) : (assemble s f).cutView = f.cutView := by
  unfold assemble
  refine foldl_cutView (fun f src => ?_) f
  dsimp only
  split
  · exact cutView_putSource _ _ f
  · rename_i ch _
    split
    · exact cutView_putSource _ _ f
    · split
      · rename_i a _
        exact cutView_putSource src (fun j => smp a.data ch j) f
      · exact cutView_putSource src (fun j => s.concealed src j) f

theorem cutView_gateCodes (s : State) (f : Fol) : (gateCodes s f).cutView = f.cutView := by
  unfold gateCodes
  refine foldl_cutView (fun f g => ?_) f
  rfl

theorem entry_setEntry (f : Fol) (g h : Nat) (e : EntrySt) : (f.setEntry g e).entry h = if h = g then e else f.entry h := by
  rw [Fol.entry, Fol.setEntry, aget_aput, Fol.entry]

/-- A folio with all its entries in state `e`. -/
def Fol.allEntries (e : EntrySt) (f : Fol) : Fol := forN 64 f fun f g => f.setEntry g e

theorem entry_allEntries (e : EntrySt) (f : Fol) {g : Nat} (hg : g < 64) : (f.allEntries e).entry g = e := by
  have hfold : ∀ n, g < n → ((List.range n).foldl (fun (f : Fol) g => f.setEntry g e) f).entry g = e := by
    intro n
    induction n with
    | zero => exact fun h => absurd h (Nat.not_lt_zero g)
    | succ n ih =>
      intro hn
      rw [List.range_succ, List.foldl_append, List.foldl_cons, List.foldl_nil, entry_setEntry]
      split
      · rfl
      · exact ih (by omega)
  exact hfold 64 hg

theorem cutView_allEntries (e : EntrySt) (f : Fol) : (f.allEntries e).cutView = f.cutView := by
  unfold Fol.allEntries forN
  refine foldl_cutView (fun f g => ?_) f
  rfl

/-- The source tasks that are dispatched at an entry cut. -/
def State.sourceTasks (s : State) : List Nat := s.ctxsWhere (fun k c => c.decl.isSrc && s.ctxOn k)

/-- Folio `f` with the tasks `l` dispatched. -/
def Fol.dispatch (l : List Nat) (f : Fol) : Fol := { f with open_ := l, prov := l }

theorem cutView_dispatch (l : List Nat) (f : Fol) : (f.dispatch l).cutView = f.cutView := rfl

theorem entry_dispatch (l : List Nat) (f : Fol) (g : Nat) : (f.dispatch l).entry g = f.entry g := rfl

/-- Folio `n` as its entry cut makes it: `u` is the state before the gates step, `s` the state after. -/
def cutFolio (n : Nat) (u s : State) : Fol :=
  ((assemble s (gateCodes s { Fol.fresh n with
      gates0 := u.ldg.gates, binds0 := u.ldg.gates.map (fun e => (e.1, u.bind e.1)),
      undef := s.pst.undef.any (fun m => decide (n ≤ m)) })).allEntries .opened).dispatch s.sourceTasks

/-- Folio `f`, number `n`, in flight, and its source tasks dispatched. -/
def cutTaken (n : Nat) (f : Fol) (s : State) : State :=
  s.sourceTasks.foldl (fun s k => fillInputs k n s) ((s.setPst { s.pst with
      fols := s.pst.fols ++ [f], next := n + 1, cut := n, post := s.postUs n,
      postNext := s.pst.postNext.filter (fun e => decide (n < e.2)),
      arrived := s.pst.arrived.filter (fun a => decide (n < a.folio)),
      undef := s.pst.undef.filter (fun m => decide (n < m)) }).setReg Reg.PST_FOLIO_LO (wd n))

/-- The gates stepped and the commands of contexts applied. -/
def cutGates (s : State) : State := stepGates (applyCtxCmds s.pst.next s)

theorem entryCutOp_eq {s : State} (hrun : s.pst.run = true) : entryCutOp s =
    decideEarly s.pst.next (advanceGates (cutTaken s.pst.next (cutFolio s.pst.next s (cutGates s)) (cutGates s))) := by
  unfold entryCutOp
  rw [hrun]
  rfl

theorem cutFolio_new (n : Nat) (u s : State) : (cutFolio n u s).n = n ∧ (∀ g, g < 64 → (cutFolio n u s).entry g = .opened) ∧
    (cutFolio n u s).posted = false ∧ (cutFolio n u s).mixed = 0 := by
  have hview : (cutFolio n u s).cutView = (n, false, 0) := by
    rw [cutFolio, cutView_dispatch, cutView_allEntries, cutView_assemble, cutView_gateCodes]
    rfl
  obtain ⟨hn, hposted, hmixed⟩ := of_cutView hview
  refine ⟨hn, fun g hg => ?_, hposted, hmixed⟩
  rw [cutFolio, entry_dispatch, entry_allEntries _ _ hg]

/-! ### What the gates leave unchanged -/

/-- The gates' registers begin above PST's. -/
theorem reg_setGate (src : Nat) (g : Gate) (s : State) {a : Nat} (ha : a < Reg.LDG_BIND 0) :
    (setGate src g s).reg a = s.reg a :=
  reg_setReg_ne (s.setLdg _) _ (show a ≠ 0x60092000 + 4 * src by simp only [Reg.LDG_BIND] at ha; omega)

theorem reg_setFld_bind (src v : Nat) (s : State) {a : Nat} (ha : a < Reg.LDG_BIND 0) :
    (s.setFld (Reg.LDG_BIND src) 15 0 v).reg a = s.reg a :=
  reg_setReg_ne s _ (show a ≠ 0x60092000 + 4 * src by simp only [Reg.LDG_BIND] at ha; omega)

theorem reg_stepGates (s : State) {a : Nat} (ha : a < Reg.LDG_BIND 0) : (stepGates s).reg a = s.reg a := by
  refine List.foldlRecOn (motive := fun v : State => v.reg a = s.reg a) _ _ rfl fun v hv e _ => ?_
  dsimp only
  rw [reg_setGate _ _ _ ha]
  split
  · rw [reg_setFld_bind _ _ _ ha, hv]
  · exact hv

/-- Commands of contexts change the Tellers' tables only. -/
theorem within_applyCtxCmds (n : Nat) (s : State) : Within { tel := true } s (applyCtxCmds n s) := by
  unfold applyCtxCmds
  extract_lets cmd v w
  have hv : Within { tel := true } s v := within_foldl (Within.refl _ s) fun _ _ ht =>
    within_ite (within_setCtx rfl _ _ ht) (within_ite (within_setCtx rfl _ _ ht) ht)
  have hw : Within { tel := true } s w := within_foldl hv fun _ _ ht =>
    within_ite (within_setCtx rfl _ _ ht) (within_ite (within_setCtx rfl _ _ ht) ht)
  exact within_tel rfl _ hw

section
variable {s : State}

theorem pst_cutGates : (cutGates s).pst = s.pst :=
  ((within_stepGates (m := { ldg := true, regs := true }) rfl rfl (Within.refl _ _)).pst_eq rfl).trans
    ((within_applyCtxCmds _ s).pst_eq rfl)

theorem reg_cutGates {a : Nat} (ha : a < Reg.LDG_BIND 0) : (cutGates s).reg a = s.reg a :=
  (reg_stepGates _ ha).trans ((within_applyCtxCmds _ s).reg_eq rfl)

/-! ### The entry cut -/

/-- With nothing waiting for the cut and no receipt to follow, nothing is decided. -/
theorem decideEarly_none (n : Nat) (hearly : s.pst.early = []) (hdec : s.rb Reg.PST_CTRL 1 = false) :
    decideEarly n s = s := by
  have hpst : s.setPst { s.pst with early := [] } = s := by
    have : ({ s.pst with early := [] } : Pst) = s.pst := by rw [← hearly]
    rw [this]
    rfl
  unfold decideEarly
  simp only [hearly, List.filter_nil, List.foldl_nil, hpst, State.receiptOf, hdec, Bool.false_eq_true, if_false]

theorem entryCut_cuts (hl : s.hostLive = true) (hrun : s.pst.run = true) (hearly : s.pst.early = [])
    (hdec : s.rb Reg.PST_CTRL 1 = false) : ∃ t f, exec .entryCut s = .next t ∧ t.pst.fols = s.pst.fols ++ [f] ∧
      f.n = s.pst.next ∧ (∀ g, g < 64 → f.entry g = .opened) ∧ f.posted = false ∧ f.mixed = 0 ∧
      t.pst.next = s.pst.next + 1 ∧ t.pst.cut = s.pst.next ∧ t.reg Reg.PST_FOLIO_LO = wd s.pst.next := by
  obtain ⟨hn, hentry, hposted, hmixed⟩ := cutFolio_new s.pst.next s (cutGates s)
  set f := cutFolio s.pst.next s (cutGates s) with hf
  set w := advanceGates (cutTaken s.pst.next f (cutGates s)) with hw
  have hfill : Within { mem := true, free := true, ldg := true } _ w :=
    within_advanceGates rfl (within_foldl (Within.refl _ _) fun _ k ht => within_fillInputs rfl rfl k _ ht)
  have hpst := hfill.pst_eq rfl
  have hreg : ∀ a, w.reg a = _ := fun a => hfill.reg_eq rfl
  rw [setReg_pst, setPst_pst, pst_cutGates] at hpst
  have hctrl : w.rb Reg.PST_CTRL 1 = false := by
    rw [State.rb, hreg, reg_setReg_ne _ _ (by decide)]
    exact (congrArg (bit · 1) (reg_cutGates (by decide))).trans hdec
  have hop : entryCutOp s = w := by
    rw [entryCutOp_eq hrun]
    exact decideEarly_none _ (by rw [hpst]; exact hearly) hctrl
  refine ⟨w, f, (hostDo_live hl entryCutOp).trans (congrArg _ hop), by rw [hpst], hn, hentry, hposted, hmixed, by rw [hpst],
    by rw [hpst], ?_⟩
  rw [hreg, reg_setReg_same]

theorem entryCut_stopped (hl : s.hostLive = true) (hrun : s.pst.run = false) : exec .entryCut s = .next s := by
  have hop : entryCutOp s = s := by
    unfold entryCutOp
    simp [hrun]
  exact (hostDo_live hl entryCutOp).trans (congrArg _ hop)

end

end Sys2Proof.Machine
end

section
/-! PROOF. The mix slot (R88, R139 to R142): what a mix slot boundary leaves unchanged, and the three ways on from it. -/

namespace Sys2Proof.Machine

theorem Within.tim_eq {m : Parts} {s t : State} (h : Within m s t) (hm : m.tim = false) : t.tim = s.tim := by
  have e := congrArg State.tim h
  simpa [State.outside, hm] using e

/-! ### The boundary of the Ledger and of the Exchange -/

section
variable {m : Parts} {u s : State}

theorem within_freeRamp (hldg : m.ldg) (hmem : m.mem) (target : Bool) (k : Nat) (h : Within m u s) :
    Within m u (freeRamp target k s) := by
  have htake : ∀ (l : List (Nat × Ramp)) (v : State), Within m u v → Within m u
      (match l.find? (fun e => e.1 == k) with
        | some (_, r) => writeSlot k r false (if target then v.setGain r.xp r.target else v)
        | none => v) := by
    intro l v hv
    split
    · exact within_writeSlot hmem _ _ _ (within_ite (within_setGain hmem _ _ hv) hv)
    · exact hv
  exact within_setLdg hldg _ (htake _ _ (htake _ _ (htake _ _ h)))

theorem within_advanceRamp (hldg : m.ldg) (hmem : m.mem) (k : Nat) (r : Ramp) (h : Within m u s) :
    Within m u (advanceRamp k r s) := by
  unfold advanceRamp
  extract_lets d v r' w
  have hv : Within m u v := within_setGain hmem _ _ h
  have hw : Within m u w := by
    change Within m u (match findXp s.ldg.held r'.xp with
      | some (_, h) => writeSlot k h true v
      | none => if (findXp s.ldg.fresh r'.xp).isSome then v else writeSlot k r' false v)
    split
    · exact within_writeSlot hmem _ _ _ hv
    · exact within_ite hv (within_writeSlot hmem _ _ _ hv)
  exact within_ite h (within_ite (within_setLdg hldg _ hw) (within_setLdg hldg _ (within_writeSlot hmem _ _ _ hv)))

theorem within_beginFresh (hldg : m.ldg) (hmem : m.mem) (k : Nat) (r : Ramp) (h : Within m u s) :
    Within m u (beginFresh k r s) := within_setLdg hldg _ (within_writeSlot hmem _ _ _ h)

theorem within_ledgerBoundary (hldg : m.ldg) (hmem : m.mem) (mixed : Bool) (h : Within m u s) :
    Within m u (ledgerBoundary mixed s) := by
  unfold ledgerBoundary
  extract_lets taken v1 v2 v3 v4 v5 v6 v7 v8
  have h1 : Within m u v1 := within_foldl h fun _ _ ht => within_freeRamp hldg hmem _ _ ht
  have h2 : Within m u v2 := within_ite (within_foldl h1 fun _ _ ht => within_advanceRamp hldg hmem _ _ ht) h1
  have h3 : Within m u v3 := within_foldl h2 fun _ _ ht => within_freeRamp hldg hmem _ _ ht
  have h4 : Within m u v4 := within_foldl h3 fun _ _ ht => within_setGain hmem _ _ ht
  have h5 : Within m u v5 := within_foldl h4 fun _ _ ht => within_wrWord hmem _ _ ht
  have h6 : Within m u v6 := within_foldl h5 fun _ _ ht => within_setLdg hldg _ ht
  have h7 : Within m u v7 := within_ite h6 (within_setLdg hldg _ h6)
  exact within_setLdg hldg _ (within_foldl h7 fun _ _ ht => within_beginFresh hldg hmem _ _ ht)

theorem within_excBoundary (hout : m.out) (h : Within m u s) : Within m u (excBoundary s) := by
  refine within_foldl h fun v e hv => ?_
  unfold excTake
  dsimp only
  split
  · exact hv
  · exact within_ite (within_setExc hout _ _ hv)
      (within_ite (within_setExc hout _ _ hv) (within_ite (within_setExc hout _ _ hv) (within_setExc hout _ _ hv)))

end

/-! ### A mix slot boundary -/

section
variable {s : State}

theorem jbusy_keeps : (jbusy s).pst = s.pst ∧ (jbusy s).tim = s.tim ∧
    ∀ a, a ≠ Reg.TIM_STATUS → (jbusy s).reg a = s.reg a :=
  ⟨rfl, rfl, fun _ ha => reg_setReg_ne s _ ha⟩

theorem slotEnd_keeps (mixed : Bool) (s : State) : (slotEnd mixed s).pst = { s.pst with cur := none } ∧
    (slotEnd mixed s).tim = s.tim ∧ ∀ a, (slotEnd mixed s).reg a = s.reg a := by
  have hslot : Within { ldg := true, mem := true, out := true } s (excBoundary (ledgerBoundary mixed s)) :=
    within_excBoundary rfl (within_ledgerBoundary rfl rfl _ (Within.refl _ _))
  unfold slotEnd
  refine ⟨?_, hslot.tim_eq rfl, fun a => hslot.reg_eq rfl⟩
  dsimp only
  rw [setPst_pst, hslot.pst_eq rfl]

theorem shadowBoundary_keeps : (shadowBoundary s).pst = s.pst ∧ (shadowBoundary s).tim = s.tim ∧
    ∀ a, a ≠ Reg.PST_CTRL → (shadowBoundary s).reg a = s.reg a := by
  unfold shadowBoundary
  split
  · exact ⟨rfl, rfl, fun a ha => (reg_setReg_ne _ _ ha).trans (reg_setReg_ne _ _ ha)⟩
  · exact ⟨rfl, rfl, fun _ _ => rfl⟩

/-- The boundary with which a mix slot begins: time, the slot before, subscriptions, the role of the pair. -/
def slotBoundary (s : State) : State := shadowBoundary (subsBoundary (slotEnd s.pst.cur.isSome (timeBoundary s)))

/-- With no change of ACTIVE or J pending, it ends the slot before, and writes TIM_STATUS and PST_CTRL only. -/
theorem slotBoundary_keeps (hact : s.tim.pendAct = none) (hjclr : s.tim.jclr = false) :
    (slotBoundary s).pst = { s.pst with cur := none } ∧ (slotBoundary s).tim = s.tim ∧
      ∀ a, a ≠ Reg.TIM_STATUS → a ≠ Reg.PST_CTRL → (slotBoundary s).reg a = s.reg a := by
  have htime : timeBoundary s = jbusy s := by
    unfold timeBoundary
    simp [hact, hjclr]
  obtain ⟨jpst, jtim, jreg⟩ := jbusy_keeps (s := s)
  obtain ⟨epst, etim, ereg⟩ := slotEnd_keeps s.pst.cur.isSome (jbusy s)
  obtain ⟨bpst, btim, breg⟩ := shadowBoundary_keeps (s := subsBoundary (slotEnd s.pst.cur.isSome (jbusy s)))
  unfold slotBoundary
  rw [htime]
  refine ⟨bpst.trans (epst.trans (by rw [jpst])), btim.trans (etim.trans jtim), fun a ha ha' => ?_⟩
  exact (breg a ha').trans ((ereg a).trans (jreg a ha))

/-! ### Slips (R140, R141) -/

theorem slip_counts (v : State) : (slip v).pst = v.pst ∧ (slip v).rb Reg.PST_EVT 2 = true ∧
    (slip v).reg (Reg.PST_CNT 6) = v.reg (Reg.PST_CNT 6) + 1 := by
  unfold slip
  refine ⟨?_, rb_evt (v.count (Reg.PST_CNT 6) 1 48) (a := Reg.PST_EVT) (by decide) (by decide), ?_⟩
  · rw [evt_pst, count_pst]
  · rw [reg_evt_ne (a := Reg.PST_EVT) (b := Reg.PST_CNT 6) _ (by decide) (by decide), reg_count_one _ _ (by decide)]

/-- The runs of folio `n` end. -/
theorem cur_stopRuns (n : Nat) (l : List Nat) (v : State) : (l.foldl (fun s t => match (s.core t).run with
    | some r => if r.folio = n then stopRun t s else s
    | none => s) v).pst.cur = v.pst.cur := by
  refine List.foldlRecOn (motive := fun x : State => x.pst.cur = v.pst.cur) l _ rfl fun x hx t _ => ?_
  split
  · split
    · rw [(runLeft_stopRun t x).pst]
      exact hx
    · exact hx
  · exact hx

theorem cur_dropFolio (n : Nat) (v : State) : (dropFolio n v).pst.cur = v.pst.cur := by
  unfold dropFolio forN
  generalize List.range 64 = l
  extract_lets w
  have hw : w.pst.cur = v.pst.cur := cur_stopRuns n l v
  split
  · exact hw
  · rename_i f _
    have hd : Settled (fun _ => ()) w (f.prov.foldl (fun s k => discard k n s) w) :=
      settled_foldl (Settled.refl _ w) fun _ k ht => settled_discard k n ht
    exact (congrArg Pst.cur hd.pst).trans hw

theorem cur_gatesBack (v : State) : (gatesBack v).pst.cur = v.pst.cur := by
  unfold gatesBack
  split
  · rename_i f _
    have hw : Within { ldg := true, regs := true } v (restoreGates f.n f.gates0 f.binds0 v) :=
      within_restoreGates rfl rfl _ _ _ (Within.refl _ v)
    rw [hw.pst_eq rfl]
  · rfl

/-! ### The mix slot begins -/

variable {f : Fol}

/-- Entry 0 of folio `f` as its mix slot begins. -/
def firstEntry (e : EntrySt) (f : Fol) : Fol := { f.setEntry 0 e with slot := true }

theorem firstEntry_spec (e : EntrySt) (f : Fol) :
    (firstEntry e f).slot = true ∧ (firstEntry e f).entry 0 = e ∧ (firstEntry e f).mixed = f.mixed :=
  ⟨rfl, aget_aput_same f.entries .free 0 e, rfl⟩

/-- The outputs of the source tasks delivered and the slot of folio `n` running. -/
def slotRuns (n : Nat) (e : EntrySt) (s : State) : State :=
  let s := (s.sourceTasks.foldl (fun s k => deliver k n s) s).updFol n (firstEntry e)
  let s := s.setPst { s.pst with cur := some n, paused := false }
  let s := { s with tel := { s.tel with swaps := s.tel.swaps.filter (fun x => !x.begun || decide (n ≤ x.folio)) } }
  s.setLdg { s.ldg with repoints := s.ldg.repoints.filter (fun e => decide (n < e.1)) }

theorem slotRuns_pst (n : Nat) (e : EntrySt) : (slotRuns n e s).pst =
    { ((s.sourceTasks.foldl (fun s k => deliver k n s) s).updFol n (firstEntry e)).pst with cur := some n, paused := false } :=
  rfl

theorem slotBegin_eq (hdef : (slotRuns f.n (if f.posted then .posted else .provisional) s).pst.deferred = []) :
    slotBegin f s = tapRows f.n (slotRuns f.n (if f.posted then .posted else .provisional) s) := by
  set v := slotRuns f.n (if f.posted then .posted else .provisional) s with hv
  have hpst : v.setPst { v.pst with deferred := [] } = v := by
    have : ({ v.pst with deferred := [] } : Pst) = v.pst := by rw [← hdef]
    rw [this]
    rfl
  have hop : slotBegin f s = tapRows f.n ((v.pst.deferred.filter (fun d => d.folio == f.n)).foldl
      (fun s d => decideTask f.n d.data d.task d.srcs (s.mAt f.n) true s)
      (v.setPst { v.pst with deferred := v.pst.deferred.filter (fun d => decide (f.n < d.folio)) })) := rfl
  rw [hop, hdef, List.filter_nil, List.filter_nil, List.foldl_nil, hpst]

theorem lasting_cutView : Lasting Fol.cutView := fun _ _ _ _ _ => rfl

/-- The taps of the rows leave the folios and the mix slot. -/
theorem tapRows_keeps {n : Nat} {v : State} {g : Fol} (hg : v.fol? n = some g) :
    (tapRows n v).fol? n = some g ∧ (tapRows n v).pst.cur = v.pst.cur ∧ (tapRows n v).pst.paused = v.pst.paused := by
  have htap := settled_tapRows (π := id) n (Settled.refl id v)
  obtain ⟨f', hf', rfl⟩ := htap.fols.fol? hg
  exact ⟨hf', by rw [htap.pst], by rw [htap.pst]⟩

theorem deferred_updFol (n : Nat) (g : Fol → Fol) (v : State) : (v.updFol n g).pst.deferred = v.pst.deferred := by
  unfold State.updFol
  split <;> rfl

theorem slotRuns_fol (e : EntrySt) {n : Nat} (hf : s.fol? n = some f) :
    ∃ g, (slotRuns n e s).fol? n = some (firstEntry e g) ∧ g.mixed = f.mixed ∧
      (slotRuns n e s).pst.deferred = s.pst.deferred := by
  have hdel : Settled Fol.cutView s (s.sourceTasks.foldl (fun s k => deliver k n s) s) :=
    settled_foldl (Settled.refl _ s) fun _ k ht => settled_deliver lasting_cutView k n ht
  obtain ⟨g, hg, hview⟩ := hdel.fols.fol? hf
  have hupd := fol?_updFol_same (g := firstEntry e) hg rfl
  obtain ⟨-, -, hmixed⟩ := of_cutView hview
  refine ⟨g, by rw [State.fol?, slotRuns_pst]; exact hupd, hmixed, ?_⟩
  rw [slotRuns_pst]
  exact (deferred_updFol _ _ _).trans (by rw [hdel.pst])

/-- The mix slot of folio `f` begins: entry 0 PROVISIONAL, the rest of the folio to be mixed. -/
theorem slotBegin_begins (hf : s.fol? f.n = some f) (hp : f.posted = false) (hdef : s.pst.deferred = []) :
    ∃ f', (slotBegin f s).fol? f.n = some f' ∧ f'.slot = true ∧ f'.entry 0 = .provisional ∧ f'.mixed = f.mixed ∧
      (slotBegin f s).pst.cur = some f.n ∧ (slotBegin f s).pst.paused = false := by
  obtain ⟨g, hg, hmixed, hdef'⟩ := slotRuns_fol .provisional hf
  have hpst := slotRuns_pst (s := s) f.n .provisional
  have hop : slotBegin f s = tapRows f.n (slotRuns f.n .provisional s) := by
    have h := slotBegin_eq (s := s) (f := f)
    rw [hp] at h
    exact h (hdef'.trans hdef)
  generalize slotRuns f.n .provisional s = v at hg hpst hop
  obtain ⟨hs, he, hm⟩ := firstEntry_spec .provisional g
  obtain ⟨hfol, hcur, hpaused⟩ := tapRows_keeps hg
  rw [hop]
  exact ⟨_, hfol, hs, he, hm.trans hmixed, hcur.trans (congrArg Pst.cur hpst), hpaused.trans (congrArg Pst.paused hpst)⟩

/-! ### The three ways on from a mix slot boundary (R140, R141) -/

/-- What a mix slot boundary does for folio `f` whose slot is next, its boundary `s` past (R140, R141). -/
def slotWay (f : Fol) (v : Nat) (s : State) : State :=
  if f.n + 2 < v then
    let n' := s.firstAfter 0
    let gone := s.pst.fols.filter (fun g => !g.slot)
    let m := n' - f.n - (gone.filter (fun g => g.posted)).length
    let s := concealMore m (gone.foldl (fun s g => dropFolio g.n s) (gatesBack s))
    slip (s.setPst { s.pst with next := n', paused := false })
  else if v < f.n then
    if s.pst.paused then s else slip (s.setPst { s.pst with paused := true })
  else
    match s.fol? f.n with
    | some f => slotBegin f s
    | none => s

theorem slotWay_skip {v : Nat} (hv : f.n + 2 < v) (hcur : s.pst.cur = none) : ∃ w : State, w.pst.cur = none ∧
    slotWay f v s = slip (w.setPst { w.pst with next := s.firstAfter 0, paused := false }) := by
  unfold slotWay
  rw [if_pos hv]
  refine ⟨_, ?_, rfl⟩
  change (List.foldl _ _ _ : State).pst.cur = none
  refine List.foldlRecOn (motive := fun x : State => x.pst.cur = none) _ _ ((cur_gatesBack s).trans hcur) fun x hx g _ => ?_
  exact (cur_dropFolio g.n x).trans hx

/-- The sequencer pauses. -/
def pauseSlip (s : State) : State := slip (s.setPst { s.pst with paused := true })

theorem pauseSlip_counts (v : State) : (pauseSlip v).pst = { v.pst with paused := true } ∧
    (pauseSlip v).rb Reg.PST_EVT 2 = true ∧ (pauseSlip v).reg (Reg.PST_CNT 6) = v.reg (Reg.PST_CNT 6) + 1 :=
  slip_counts (v.setPst { v.pst with paused := true })

theorem slotWay_pause {v : Nat} (hv : v < f.n) (hpaused : s.pst.paused = false) : slotWay f v s = pauseSlip s := by
  unfold slotWay
  rw [if_neg (by omega), if_pos hv, hpaused]
  rfl

theorem slotWay_begin {v : Nat} (hlo : f.n ≤ v) (hhi : v ≤ f.n + 2) (hf : s.fol? f.n = some f) :
    slotWay f v s = slotBegin f s := by
  unfold slotWay
  rw [if_neg (by omega), if_neg (by omega), hf]

section
variable (hl : s.hostLive = true) (hrun : s.pst.run = true) (hfols : s.pst.fols = [f]) (hslot : f.slot = false)
  (hact : s.tim.pendAct = none) (hjclr : s.tim.jclr = false)
include hl hrun hfols hslot hact hjclr

omit hl in
theorem mixSlotStartOp_eq : mixSlotStartOp s = slotWay f (folioOf s.sysT) (slotBoundary s) := by
  obtain ⟨-, htim, -⟩ := slotBoundary_keeps hact hjclr
  have hT : (slotBoundary s).sysT = s.sysT := by rw [State.sysT, State.sysT, htim]
  have hfind : s.pst.fols.find? (fun f => !f.slot) = some f := by simp [hfols, hslot]
  rw [← hT]
  unfold mixSlotStartOp slotWay slotBoundary
  rw [hrun, hfind]
  rfl

theorem mixSlotStart_begins (hp : f.posted = false) (hdef : s.pst.deferred = []) (hlo : f.n ≤ folioOf s.sysT)
    (hhi : folioOf s.sysT ≤ f.n + 2) : ∃ t f', exec .mixSlotStart s = .next t ∧ t.pst.cur = some f.n ∧
      t.fol? f.n = some f' ∧ f'.slot = true ∧ f'.entry 0 = .provisional ∧ f'.mixed = f.mixed ∧ t.pst.paused = false := by
  obtain ⟨hpst, -, -⟩ := slotBoundary_keeps hact hjclr
  have hf : (slotBoundary s).fol? f.n = some f := fol?_single (by rw [hpst]; exact hfols)
  have hop := (mixSlotStartOp_eq hrun hfols hslot hact hjclr).trans (slotWay_begin hlo hhi hf)
  obtain ⟨f', hf', hs, he, hm, hc, hpa⟩ := slotBegin_begins hf hp (by rw [hpst]; exact hdef)
  exact ⟨_, f', (hostDo_live hl mixSlotStartOp).trans (congrArg _ hop), hc, hf', hs, he, hm, hpa⟩

/-- The view behind the slot's folio: the sequencer pauses. -/
theorem mixSlotStart_pauses (hv : folioOf s.sysT < f.n) (hpaused : s.pst.paused = false) :
    ∃ t, exec .mixSlotStart s = .next t ∧ t.pst.paused = true ∧ t.pst.cur = none ∧ t.pst.fols = [f] ∧
      t.rb Reg.PST_EVT 2 = true ∧ t.reg (Reg.PST_CNT 6) = s.reg (Reg.PST_CNT 6) + 1 := by
  obtain ⟨hpst, -, hreg⟩ := slotBoundary_keeps hact hjclr
  have hpa : (slotBoundary s).pst.paused = false := by rw [hpst]; exact hpaused
  have hop := (mixSlotStartOp_eq hrun hfols hslot hact hjclr).trans (slotWay_pause hv hpa)
  obtain ⟨hspst, hevt, hcnt⟩ := pauseSlip_counts (slotBoundary s)
  rw [hpst] at hspst
  exact ⟨_, (hostDo_live hl mixSlotStartOp).trans (congrArg _ hop), congrArg Pst.paused hspst, congrArg Pst.cur hspst,
    (congrArg Pst.fols hspst).trans hfols, hevt,
    hcnt.trans (congrArg (· + 1) (hreg (Reg.PST_CNT 6) (by decide) (by decide)))⟩

/-- The view more than two folios ahead: the sequencer goes on with the first folio whose entry cut lies ahead. -/
theorem mixSlotStart_skips (hv : f.n + 2 < folioOf s.sysT) : ∃ t, exec .mixSlotStart s = .next t ∧
    t.pst.next = s.firstAfter 0 ∧ t.pst.cur = none ∧ t.rb Reg.PST_EVT 2 = true := by
  obtain ⟨hpst, htim, hreg⟩ := slotBoundary_keeps hact hjclr
  obtain ⟨w, hw, hway⟩ := slotWay_skip (s := slotBoundary s) hv (by rw [hpst])
  have hop := (mixSlotStartOp_eq hrun hfols hslot hact hjclr).trans hway
  obtain ⟨hspst, hevt, -⟩ := slip_counts (w.setPst { w.pst with next := (slotBoundary s).firstAfter 0, paused := false })
  exact ⟨_, (hostDo_live hl mixSlotStartOp).trans (congrArg _ hop),
    (congrArg Pst.next hspst).trans (firstAfter_congr htim (hreg Reg.PST_CUT (by decide) (by decide)) 0),
    (congrArg Pst.cur hspst).trans hw, hevt⟩

end

end

end Sys2Proof.Machine
end

section
/-! PROOF. The start of a folio (R13, R99, R401): what captures and egress leave unchanged, and the output folio that is sent. -/

namespace Sys2Proof.Machine

/-! ### Captures and egress -/

/-- `s` is reached from `u` by the captures and the egress of ports: the sequencer, the Keyway, what boot left, the fuses and
the service level stand. -/
structure FolioEdge (u s : State) : Prop where
  pst : s.pst = u.pst
  kwy : s.kwy = u.kwy
  boot : s.boot = u.boot
  fuse : s.fuse = u.fuse
  bootst : s.reg Reg.SEC_BOOTST = u.reg Reg.SEC_BOOTST

/-- The parts that captures and the egress of ports may change, but for registers. -/
def edgeParts : Parts := { mem := true, free := true, net := true, hng := true, sap := true, til := true, out := true }

theorem Within.kwy_eq {m : Parts} {s t : State} (h : Within m s t) (hm : m.kwy = false) : t.kwy = s.kwy := by
  have e := congrArg State.kwy h
  simpa [State.outside, hm] using e

theorem Within.boot_eq {m : Parts} {s t : State} (h : Within m s t) (hm : m.boot = false) : t.boot = s.boot := by
  have e := congrArg State.boot h
  simpa [State.outside, hm] using e

section
variable {u s : State}

theorem FolioEdge.refl (s : State) : FolioEdge s s := ⟨rfl, rfl, rfl, rfl, rfl⟩

theorem FolioEdge.trans {t : State} (h : FolioEdge u s) (k : FolioEdge s t) : FolioEdge u t :=
  ⟨k.pst.trans h.pst, k.kwy.trans h.kwy, k.boot.trans h.boot, k.fuse.trans h.fuse, k.bootst.trans h.bootst⟩

theorem FolioEdge.of_within {t : State} (h : FolioEdge u s) (hw : Within edgeParts s t) : FolioEdge u t :=
  h.trans ⟨hw.pst_eq rfl, hw.kwy_eq rfl, hw.boot_eq rfl, hw.fuse_eq rfl, hw.reg_eq rfl⟩

theorem folioEdge_ite {t : State} {c : Prop} [Decidable c] (hs : FolioEdge u s) (ht : FolioEdge u t) :
    FolioEdge u (if c then s else t) := by
  split
  · exact hs
  · exact ht

theorem folioEdge_foldl {β : Type} {l : List β} {f : State → β → State} (h : FolioEdge u s)
    (hf : ∀ t x, FolioEdge u t → FolioEdge u (f t x)) : FolioEdge u (l.foldl f s) :=
  List.foldlRecOn l f h fun t ht x _ => hf t x ht

theorem folioEdge_forN {n : Nat} {f : State → Nat → State} (h : FolioEdge u s)
    (hf : ∀ t x, FolioEdge u t → FolioEdge u (f t x)) : FolioEdge u (forN n s f) := folioEdge_foldl h hf

theorem folioEdge_evt {a : Nat} (ha : Reg.SEC_BOOTST ≠ a) (i : Nat) (h : FolioEdge u s) : FolioEdge u (s.evt a i) :=
  h.trans ⟨evt_pst _ _ _, evt_kwy _ _ _, evt_boot _ _ _, evt_fuse _ _ _, reg_evt_ne _ ha (by decide)⟩

theorem folioEdge_evtIf {a : Nat} (ha : Reg.SEC_BOOTST ≠ a) (c : Bool) (i : Nat) (h : FolioEdge u s) :
    FolioEdge u (s.evtIf c a i) := folioEdge_ite (folioEdge_evt ha i h) h

theorem folioEdge_count {a : Nat} (ha : Reg.SEC_BOOTST ≠ a) (n k : Nat) (h : FolioEdge u s) : FolioEdge u (s.count a n k) :=
  h.trans ⟨count_pst _ _ _ _, count_kwy _ _ _ _, count_boot _ _ _ _, count_fuse _ _ _ _, reg_count_ne _ _ _ ha (by decide)⟩

theorem folioEdge_cdcErr (i : Nat) (h : FolioEdge u s) : FolioEdge u (s.cdcErr i) :=
  folioEdge_evt (a := Reg.CLK_EVT) (by decide) 2
    (h.trans ⟨rfl, rfl, rfl, rfl, reg_raise_ne (a := Reg.CLK_CDCST) _ _ (by decide)⟩)

/-! The end of a folio. -/

theorem folioEdge_missFolio (q : Nat) (h : FolioEdge u s) : FolioEdge u (missFolio q s) :=
  h.of_within (within_foldl (Within.refl _ s) fun _ _ ht => within_ite (within_setSub rfl _ _ ht) ht)

theorem folioEdge_a67MissFolio (q : Nat) (h : FolioEdge u s) : FolioEdge u (a67MissFolio q s) :=
  folioEdge_forN h fun _ _ ht => folioEdge_ite ht (folioEdge_count (a := Reg.DVT_CNT 5) (by decide) _ _ ht)

theorem folioEdge_fillFolio (h : FolioEdge u s) : FolioEdge u (fillFolio s) := by
  refine h.of_within ?_
  unfold fillFolio
  split
  · exact Within.refl _ s
  · exact within_setHng rfl _ (Within.refl _ s)

/-! Serial audio ports. -/

theorem folioEdge_sapSlip (h : FolioEdge u s) : FolioEdge u (sapSlip s) :=
  folioEdge_evt (a := Reg.SAP_EVT) (by decide) 0 (folioEdge_count (a := Reg.SAP_CNT_SLIP) (by decide) 1 58 h)

theorem folioEdge_setSap (p : Nat) (x : SapPort) (h : FolioEdge u s) : FolioEdge u (s.setSap p x) :=
  h.of_within (within_setSap rfl p x (Within.refl _ s))

theorem folioEdge_sapFills (p : Nat) (h : FolioEdge u s) : FolioEdge u (sapFills p s) := by
  unfold sapFills
  extract_lets q a b v w
  have hv : FolioEdge u v := folioEdge_setSap _ _ h
  have hw : FolioEdge u w := folioEdge_ite (folioEdge_cdcErr 1 (folioEdge_sapSlip hv)) hv
  exact folioEdge_ite (folioEdge_cdcErr 1 (folioEdge_sapSlip hw)) hw

theorem folioEdge_sapBoundary (f p : Nat) (h : FolioEdge u s) : FolioEdge u (sapBoundary f p s) := by
  have hplace : FolioEdge u (sapPlace p s) := h.of_within (within_sapPlace rfl p (Within.refl _ s))
  exact folioEdge_ite h (folioEdge_ite
    (folioEdge_evt (a := Reg.SAP_EVT) (by decide) 1 (folioEdge_sapSlip (folioEdge_setSap _ _ hplace))) h)

theorem folioEdge_sapCapture (n p : Nat) (h : FolioEdge u s) : FolioEdge u (sapCapture n p s) := by
  unfold sapCapture
  split
  · exact h
  extract_lets wl per q taken word now v
  have hv : FolioEdge u v := folioEdge_setSap _ _ h
  exact folioEdge_ite (folioEdge_forN hv fun t _ ht =>
    ht.of_within (within_sapToExc rfl rfl _ _ _ _ (Within.refl _ t))) (folioEdge_sapFills p hv)

theorem folioEdge_sapEgress (f : Option Fol) (l1 : Nat → Nat → Word → Word) (p : Nat) (h : FolioEdge u s) :
    FolioEdge u (sapEgress f l1 p s) := by
  unfold sapEgress
  split
  · exact h
  extract_lets wl slots word per frames v q
  have hv : FolioEdge u v := folioEdge_evtIf (a := Reg.OUT_EVT) (by decide) _ 6 h
  exact folioEdge_ite (folioEdge_setSap _ _ hv) (folioEdge_sapFills p (folioEdge_setSap _ _ hv))

/-! Till ports. -/

theorem folioEdge_setTill (n : Nat) (x : TillPort) (h : FolioEdge u s) : FolioEdge u (s.setTill n x) :=
  h.of_within (within_setTill rfl n x (Within.refl _ s))

theorem folioEdge_tillTake (n : Nat) (h : FolioEdge u s) : FolioEdge u (tillTake n s) := by
  unfold tillTake
  split
  · exact h
  extract_lets p nch r rx short hdr real seqBad smps v w
  have hw : FolioEdge u w := folioEdge_evtIf (a := Reg.TIL_EVT) (by decide) _ _ (folioEdge_setTill _ _ h)
  exact folioEdge_ite (folioEdge_cdcErr 2 (folioEdge_evt (a := Reg.TIL_EVT) (by decide) _ hw)) hw

theorem folioEdge_tillEgress (f : Fol) (m n : Nat) (h : FolioEdge u s) : FolioEdge u (tillEgress f m n s) := by
  unfold tillEgress
  split
  · exact h
  extract_lets p nch fmt chan word body v
  have hv : FolioEdge u v := folioEdge_evtIf (a := Reg.OUT_EVT) (by decide) _ 6 h
  exact folioEdge_ite (folioEdge_evt (a := Reg.TIL_EVT) (by decide) _ h) (folioEdge_setTill _ _ hv)

/-! The Exchange and the level-1 path. -/

theorem within_excAes67 (n c : Nat) : Within edgeParts s (excAes67 n c s) := by
  unfold excAes67
  extract_lets b ch
  split
  · exact Within.refl _ s
  split
  · exact Within.refl _ s
  · exact within_forN (Within.refl _ s) fun _ _ ht => within_excPush rfl rfl _ _ ht

theorem within_excRender (n c : Nat) : Within edgeParts s (excRender n c s) := by
  unfold excRender
  extract_lets v x y w z a b out d
  have hb : Within edgeParts s b :=
    within_forN (within_setExc rfl _ _ (within_excAes67 n c)) fun _ _ ht => within_wrWord rfl _ _ ht
  have hd : Within edgeParts s d := within_setOut rfl _ hb
  exact within_ite hd (within_useFree rfl _ hd)

theorem within_excRecord (c n : Nat) : Within edgeParts s (excRecord c n s) :=
  within_wrWord rfl _ _ (within_wrWord rfl _ _ (within_wrWord rfl _ _ (within_wrWord rfl _ _ (Within.refl _ s))))

theorem folioEdge_syncAdvance (c : Nat) (h : FolioEdge u s) : FolioEdge u (syncAdvance c s) := by
  have hset : ∀ x, FolioEdge u (s.setExc c x) := fun x => h.of_within (within_setExc rfl c x (Within.refl _ s))
  exact folioEdge_ite h (folioEdge_ite (folioEdge_evt (a := Reg.EXC_EVT) (by decide) 2
    (folioEdge_count (a := Reg.EXC_CNT_SLIP) (by decide) 1 50 (hset _))) (hset _))

theorem within_fadeAdvance (c : Nat) : Within edgeParts s (fadeAdvance c s) := by
  have hset : ∀ x, Within edgeParts s (s.setExc c x) := fun x => within_setExc rfl c x (Within.refl _ s)
  unfold fadeAdvance
  dsimp only
  split
  · exact within_ite (hset _) (hset _)
  · exact hset _
  · exact Within.refl _ s

theorem folioEdge_excFolio (n : Nat) (h : FolioEdge u s) : FolioEdge u (excFolio n s) := by
  refine folioEdge_foldl (h.of_within (within_setOut rfl _ (Within.refl _ s))) fun t c ht => ?_
  exact (folioEdge_syncAdvance c ((ht.of_within (within_excRender n c)).of_within (within_excRecord c n))).of_within
    (within_fadeAdvance c)

theorem folioEdge_l1Capture (n : Nat) (h : FolioEdge u s) : FolioEdge u (l1Capture n s) := by
  refine h.of_within ?_
  unfold l1Capture
  split
  · exact within_ite (within_setOut rfl _ (Within.refl _ s)) (Within.refl _ s)
  · exact Within.refl _ s

theorem folioEdge_l1Render (n : Nat) (h : FolioEdge u s) : FolioEdge u (l1Render n s).2 := by
  refine h.of_within ?_
  unfold l1Render
  split
  · exact Within.refl _ s
  · dsimp only
    split
    · exact within_setOut rfl _ (Within.refl _ s)
    · exact Within.refl _ s

theorem folioEdge_captureLocal (n : Nat) (h : FolioEdge u s) : FolioEdge u (captureLocal n s) := by
  refine folioEdge_l1Capture n (folioEdge_ite (folioEdge_excFolio n ?_) h)
  exact folioEdge_forN (folioEdge_forN h fun _ _ ht => folioEdge_sapCapture _ _ (folioEdge_sapBoundary _ _ ht))
    fun _ _ ht => folioEdge_tillTake _ ht

theorem folioEdge_portEgress (m : Nat) (f : Option Fol) (l1 : Option (L1Cfg × List Int)) (h : FolioEdge u s) :
    FolioEdge u (portEgress m f l1 s) := by
  unfold portEgress
  extract_lets v
  have hv : FolioEdge u v := folioEdge_forN h fun _ _ ht => folioEdge_ite (folioEdge_sapEgress _ _ _ ht) ht
  split
  · exact folioEdge_forN hv fun _ _ ht => folioEdge_tillEgress _ _ _ ht
  · exact hv

/-! ### Egress (R99, R401) -/

/-- The level-1 path plays nothing in output folio `m`. -/
theorem l1Plays_off (m : Nat) (hlevel : s.level ≠ 1) (hcross : s.boot.crossAt = none) : s.l1Plays m = false := by
  simp [State.l1Plays, hcross, hlevel]

theorem blockSample_off {m : Nat} (h : s.l1Plays m = false) (f : Fol) (l1 : Option (L1Cfg × List Int)) :
    s.blockSample m (some f) l1 = fun c j => smp f.out (2528 + c) j := by
  funext c j
  simp [State.blockSample, h]

theorem pst_hostFirst (v : State) (typ : Nat) (payload : List Byte) : (v.hostFirst typ payload).pst = v.pst := by
  unfold State.hostFirst
  split <;> rfl

theorem mem_hostFirst {v : State} {b : KwyMsg} (h : b ∈ v.kwy.first) (typ : Nat) (payload : List Byte) :
    b ∈ (v.hostFirst typ payload).kwy.first := by
  unfold State.hostFirst
  split
  · exact List.mem_append_left _ h
  · exact h

theorem hostFirst_ready {v : State} (hlink : v.kwy.link = .up) (typ : Nat) (payload : List Byte) :
    ∃ b ∈ (v.hostFirst typ payload).kwy.first, b.typ = typ ∧ b.payload = payload := by
  unfold State.hostFirst
  rw [if_pos hlink]
  exact ⟨_, List.mem_append_right _ (List.mem_singleton_self _), rfl, rfl⟩

/-- Where the level-1 path plays nothing, the BLOCK of a folio that is rendered becomes ready first (R401). -/
theorem keywayEgress_block {m : Nat} {f : Fol} (l1 : Option (L1Cfg × List Int)) (hA : s.isA = true)
    (hlink : s.kwy.link = .up) (hoff : s.l1Plays m = false) : ∃ b ∈ (keywayEgress m (some f) l1 s).kwy.first,
      b.typ = 1 ∧ b.payload = blockBytes m (fun c j => smp f.out (2528 + c) j) := by
  have hblock : (kwyFolio s).blockSample m (some f) l1 = fun c j => smp f.out (2528 + c) j := blockSample_off hoff f l1
  obtain ⟨b, hb, htyp, hpay⟩ := hostFirst_ready (v := kwyFolio s) hlink 1
    (blockBytes m ((kwyFolio s).blockSample m (some f) l1))
  have hgo : ¬(!(kwyFolio s).isA || !if (s.l1Plays m && !s.crosses m) = true then l1.isSome else (some f).isSome) = true := by
    have : (kwyFolio s).isA = true := hA
    simp [this, hoff]
  refine ⟨b, ?_, htyp, hpay.trans (by rw [hblock])⟩
  unfold keywayEgress
  dsimp only
  rw [if_neg hgo]
  split
  · exact mem_hostFirst hb _ _
  · exact hb

theorem pst_keywayEgress (m : Nat) (f : Option Fol) (l1 : Option (L1Cfg × List Int)) :
    (keywayEgress m f l1 s).pst = s.pst := by
  have hfolio : (kwyFolio s).pst = s.pst := rfl
  unfold keywayEgress
  extract_lets has v w
  have hw : w.pst = s.pst := (pst_hostFirst _ _ _).trans hfolio
  split
  · exact hfolio
  split
  · exact (pst_hostFirst _ _ _).trans hw
  · exact hw

/-- What follows the BLOCK: HINGE on every path, and the end of the level-1 path. -/
def egressEnd (m : Nat) (f : Option Fol) (s : State) : State :=
  l1Stop m (if s.hinged && f.isSome then sendHinge 2 false (sendHinge 1 false (sendHinge 0 false s)) else s)

theorem within_egressEnd (m : Nat) (f : Option Fol) :
    Within { net := true, regs := true, boot := true, out := true } s (egressEnd m f s) := by
  have hhinge : ∀ (i : Nat) (v : State), Within { net := true, regs := true, boot := true, out := true } s v →
      Within { net := true, regs := true, boot := true, out := true } s (sendHinge i false v) := fun i v hv =>
    within_sendControl rfl rfl _ _ _ _ hv
  have hsent := within_ite (c := (s.hinged && f.isSome) = true)
    (hhinge 2 _ (hhinge 1 _ (hhinge 0 s (Within.refl _ s)))) (Within.refl _ s)
  unfold egressEnd l1Stop
  split
  · exact within_ite (within_setOut rfl _ (within_setBoot rfl _ hsent)) hsent
  · exact hsent

/-- The sequencer after the egress of output folio `m`: what it sent, and the folios it holds. -/
def egressPst (m : Nat) (f : Option Fol) (p : Pst) : Pst :=
  { p with
    egress := if f.isSome then some m else none
    fols := p.fols.filter (fun g => !(decide (g.n + 2 < m) && decide (g.chained.length = 64))) }

/-- The ports' part of the egress of output folio `m`. -/
def egressPorts (m : Nat) (s : State) : State :=
  portEgress m (s.ready m) (l1Render (m - 2) s).1
    ((l1Render (m - 2) s).2.setPst (egressPst m (s.ready m) (l1Render (m - 2) s).2.pst))

theorem egress_eq (m : Nat) : egress m s =
    egressEnd m (s.ready m) (keywayEgress m (s.ready m) (l1Render (m - 2) s).1 (egressPorts m s)) := rfl

theorem egressPorts_keeps (m : Nat) : FolioEdge (s.setPst (egressPst m (s.ready m) s.pst)) (egressPorts m s) := by
  obtain ⟨hpst, hkwy, hboot, hfuse, hbootst⟩ := folioEdge_l1Render (m - 2) (FolioEdge.refl s)
  refine folioEdge_portEgress _ _ _ ⟨?_, hkwy, hboot, hfuse, hbootst⟩
  rw [setPst_pst, setPst_pst, hpst]

theorem pst_egress (m : Nat) : (egress m s).pst = egressPst m (s.ready m) s.pst := by
  rw [egress_eq, (within_egressEnd m _).pst_eq rfl, pst_keywayEgress, (egressPorts_keeps m).pst, setPst_pst]

theorem egress_block {m : Nat} {f : Fol} (hready : s.ready m = some f) (hA : s.isA = true) (hlink : s.kwy.link = .up)
    (hlevel : s.level ≠ 1) (hcross : s.boot.crossAt = none) : ∃ b ∈ (egress m s).kwy.first,
      b.typ = 1 ∧ b.payload = blockBytes m (fun c j => smp f.out (2528 + c) j) := by
  obtain ⟨-, hkwy, hboot, hfuse, hbootst⟩ := egressPorts_keeps (s := s) m
  have hlevel' : (egressPorts m s).level ≠ 1 := by
    rw [State.level, State.rf, hbootst]
    exact hlevel
  rw [egress_eq, (within_egressEnd m _).kwy_eq rfl, hready]
  refine keywayEgress_block _ ?_ (by rw [hkwy]; exact hlink) (l1Plays_off m hlevel' (by rw [hboot]; exact hcross))
  rw [State.isA, hfuse]
  exact hA

/-! ### The folio start -/

/-- What a folio start does before the egress. -/
def folioCaptured (q : Nat) (s : State) : State :=
  captureLocal q (fieldSetup (fillFolio (a67MissFolio q (missFolio q s))))

theorem folioStartOp_eq (h : folioOf s.sysT ≠ 0) :
    folioStartOp s = egress (folioOf s.sysT - 1) (folioCaptured (folioOf s.sysT - 1) s) := by
  unfold folioStartOp
  dsimp only
  rw [if_neg h]
  rfl

theorem folioCaptured_keeps (q : Nat) (hpend : s.boot.fieldPend = false) : FolioEdge s (folioCaptured q s) := by
  have hmiss : FolioEdge s (fillFolio (a67MissFolio q (missFolio q s))) :=
    folioEdge_fillFolio (folioEdge_a67MissFolio q (folioEdge_missFolio q (FolioEdge.refl s)))
  refine folioEdge_captureLocal q ?_
  unfold fieldSetup
  rw [hmiss.boot, hpend]
  exact hmiss

theorem ready_congr {v : State} (h : v.pst = s.pst) (m : Nat) : v.ready m = s.ready m := by
  rw [State.ready, State.ready, State.outFol, State.outFol, State.fol?, State.fol?, h]

variable (hl : s.hostLive = true) (hq : folioOf s.sysT ≠ 0) (hpend : s.boot.fieldPend = false)
include hl hq hpend

/-- The output folio that is complete is sent, its BLOCK included. -/
theorem folioStart_sends {f : Fol} (hfols : s.pst.fols = [f]) (hn : f.n + 3 = folioOf s.sysT)
    (hdone : f.chained.length = 64) (hpaused : s.pst.paused = false) :
    ∃ t, exec .folioStart s = .next t ∧ t.pst.egress = some (folioOf s.sysT - 1) ∧ t.pst.fols = [f] ∧
      (s.isA = true → s.kwy.link = .up → s.level ≠ 1 → s.boot.crossAt = none → ∃ m ∈ t.kwy.first, m.typ = 1 ∧
        m.payload = blockBytes (folioOf s.sysT - 1) (fun c j => smp f.out (2528 + c) j)) := by
  set m := folioOf s.sysT - 1 with hm
  have hkeep := folioCaptured_keeps m hpend
  have hout : s.outFol m = some f := by
    have hsub : m - 2 = f.n := by omega
    rw [State.outFol, if_neg (by omega), hsub, fol?_single hfols]
  have hready : s.ready m = some f := by
    rw [State.ready, hout]
    exact if_pos ⟨hdone, by rw [hpaused]; rfl⟩
  have hready' := (ready_congr hkeep.pst m).trans hready
  have hpst := pst_egress (s := folioCaptured m s) m
  rw [hready', hkeep.pst] at hpst
  refine ⟨_, (hostDo_live hl folioStartOp).trans (congrArg _ (folioStartOp_eq hq)), congrArg Pst.egress hpst, ?_,
    fun hA hlink hlevel hcross => ?_⟩
  · have hkept : ¬(f.n + 2 < m) := by omega
    refine (congrArg Pst.fols hpst).trans ?_
    simp [egressPst, hfols, hkept]
  · refine egress_block hready' ?_ (by rw [hkeep.kwy]; exact hlink) ?_ (by rw [hkeep.boot]; exact hcross)
    · rw [State.isA, hkeep.fuse]
      exact hA
    · rw [State.level, State.rf, hkeep.bootst]
      exact hlevel

/-- With no folio in flight none is sent. -/
theorem folioStart_none (hfols : s.pst.fols = []) : ∃ t, exec .folioStart s = .next t ∧ t.pst.egress = none := by
  set m := folioOf s.sysT - 1 with hm
  have hkeep := folioCaptured_keeps m hpend
  have hready : s.ready m = none := by
    have hout : s.outFol m = none := by simp [State.outFol, State.fol?, hfols]
    rw [State.ready, hout]
  have hpst := pst_egress (s := folioCaptured m s) m
  rw [(ready_congr hkeep.pst m).trans hready] at hpst
  exact ⟨_, (hostDo_live hl folioStartOp).trans (congrArg _ (folioStartOp_eq hq)), congrArg Pst.egress hpst⟩

end

/-- Settles O43, clause by clause. -/
theorem folioCommands : Obligations.FolioCommands := by
  intro s hl
  refine ⟨?_, fun hq hpend hfols => folioStart_none hl hq hpend hfols,
    fun hrun hearly hdec => entryCut_cuts hl hrun hearly hdec, fun hrun => entryCut_stopped hl hrun,
    fun f hrun hfols hslot hact hjclr => ⟨fun hp hdef hlo hhi => ?_, fun hv hpaused => ?_, fun hv => ?_⟩,
    fun n f hcur hf hm hon => groupMixEnd_mixes hl hcur hf hm hon,
    fun f q rest hfind hq hon => remixEnd_renews hl hfind hq hon⟩
  · rintro q f rfl hq hpend hfols hn hdone hpaused
    exact folioStart_sends hl hq hpend hfols hn hdone hpaused
  · exact mixSlotStart_begins hl hrun hfols hslot hact hjclr hp hdef hlo hhi
  · exact mixSlotStart_pauses hl hrun hfols hslot hact hjclr hv hpaused
  · exact mixSlotStart_skips hl hrun hfols hslot hact hjclr hv

end Sys2Proof.Machine
end

section
/-! PROOF. Registers of the Ledger written by name: access to the block, ramp entries (R176) and bad bindings (R192). -/

namespace Sys2Proof.Machine

section
variable {s : State}

/-! ### Rows of register writes (R72) -/

theorem regRow_powered {a : Nat} (h : s.powered a = true) (f : State → State) : regRow a f s = f s := by
  rw [regRow, if_pos h]

theorem regRow_unpowered {a : Nat} (h : s.powered a = false) (f : State → State) :
    regRow a f s = (clhError .stw 0 true a 3 s).answer .err [] := by
  rw [regRow, h]
  rfl

/-- The registers of block LDG have power with PS5 (Table 14.2). -/
theorem powered_ledger {a : Nat} (hlo : 0x60090000 ≤ a) (hhi : a < 0x600A0000) : s.powered a = s.domOn 5 := by
  have hdom : domainOf a = 5 := by
    unfold domainOf
    rw [if_neg (by omega), if_neg (by omega), if_neg (by omega), if_pos ⟨hlo, hhi⟩]
  have htel : s.telCluster a = none := by
    unfold State.telCluster
    simp only [Reg.TEL_MAP, Reg.TEL_LOAD, Reg.TEL_CTXST, Reg.TEL_CTXLAST, Reg.TEL_CTXMAX]
    rw [if_neg (by omega), if_neg (by omega), if_neg (by omega)]
  rw [State.powered, hdom, htel]
  simp

/-! ### Ramp entries (R176) -/

/-- An event that sets no bit of EVT_SUM leaves every register but its own. -/
theorem reg_evt_alone {a i : Nat} (h : sumBit a i = none) {b : Nat} (hb : b ≠ a) : (s.evt a i).reg b = s.reg b := by
  simp only [State.evt, h]
  exact reg_raise_ne _ _ hb

theorem fld_wd {n hi : Nat} (hn : n < 2 ^ (hi + 1)) (hhi : hi < 32) : fld (wd n) hi 0 = n := by
  have hle : 2 ^ (hi + 1) ≤ 2 ^ 32 := Nat.pow_le_pow_right (by decide) hhi
  rw [fld, wd, BitVec.toNat_ofNat, Nat.mod_eq_of_lt (hn.trans_le hle), Nat.pow_zero, Nat.div_one, Nat.sub_zero,
    Nat.mod_eq_of_lt hn]

theorem fld_lt (w : Word) (hi lo : Nat) : fld w hi lo < 2 ^ (hi + 1 - lo) := Nat.mod_lt _ (Nat.two_pow_pos _)

theorem ramptWrite_runs (hl : s.hostLive = true) (hon : s.domOn 5 = true) {k : Nat} (hk : k < 16) (v : Word) :
    exec (.ramptWrite k v) s = .next (ramptWriteOp k v s) := by
  have hlo : 0x60090000 ≤ 0x60090100 + 4 * k := by omega
  have hhi : 0x60090100 + 4 * k < 0x600A0000 := by omega
  have hpow : s.powered (Reg.LDG_RAMPT k) = true := (powered_ledger hlo hhi).trans hon
  exact (hostDo_live hl _).trans (congrArg _ (regRow_powered hpow _))

/-! ### Bad bindings (R192) -/

theorem repoint_runs (hl : s.hostLive = true) (hon : s.powered Reg.LDG_REPTB = true) (v : Word) :
    exec (.repoint v) s = .next (repointWriteOp v s) :=
  (hostDo_live hl _).trans (congrArg _ (regRow_powered hon _))

/-- A re-point to a bad binding sets REPERR and does nothing else, in a pause too. -/
theorem repointWriteOp_bad {v : Word} (hbad : bindOk s.isA (fld v 15 0) = false) :
    repointWriteOp v s = s.evt Reg.LDG_EVT 8 := by
  have hop : repointOp v s = s.evt Reg.LDG_EVT 8 := if_pos (by rw [hbad]; rfl)
  have hvariant : (s.evt Reg.LDG_EVT 8).isA = s.isA := congrArg (fun f : Fuse => f.variant == 1) (evt_fuse _ _ _)
  unfold repointWriteOp
  dsimp only
  rw [hop, hvariant, hbad, Bool.and_false]
  split <;> rfl

/-- Kind and index of a binding as LDG_REPTB holds them (Table 3.5). -/
theorem binding_fields (v : Word) : fld v 15 0 % 4096 = fld v 11 0 ∧ fld v 15 0 / 4096 % 16 = fld v 15 12 := by
  simp only [fld]
  omega

end

/-! ### The statements -/

/-- Settles O56: the reset value by the register table, a write by whether its length is in range. -/
theorem rampLengths : Obligations.RampLengths := by
  refine ⟨by decide, fun s k v hl hon hk => ⟨fun hlo hhi => ?_, fun hout => ?_⟩⟩
  · have hop : ramptWriteOp k v s = s.setReg (Reg.LDG_RAMPT k) (wd (fld v 17 0)) := if_pos ⟨hlo, hhi⟩
    refine ⟨_, (ramptWrite_runs hl hon hk v).trans (congrArg _ hop), ?_, rfl, rfl, fun a ha => reg_setReg_ne _ _ ha⟩
    rw [State.rf, reg_setReg_same, fld_wd (fld_lt v 17 0) (by decide)]
  · have hop : ramptWriteOp k v s = s.evt Reg.LDG_EVT 3 := if_neg (by omega)
    exact ⟨_, (ramptWrite_runs hl hon hk v).trans (congrArg _ hop), rb_evt s (by decide) (by decide), evt_mem _ _ _,
      evt_ldg _ _ _, fun a ha => reg_evt_alone rfl ha⟩

/-- Settles O59, kind by kind of Table 3.5. -/
theorem badBindingIsIgnored : Obligations.BadBindingIsIgnored := by
  intro s v kind index hl hon hkind hindex hrange
  have hbad : bindOk s.isA (fld v 15 0) = false := by
    obtain ⟨hi, hk⟩ := binding_fields v
    have hlt : fld v 15 12 < 16 := fld_lt v 15 12
    unfold bindOk
    rw [hi, hk, ← hkind, ← hindex]
    rw [← hkind] at hlt
    rcases hrange with h | ⟨rfl, h⟩ | ⟨rfl, h⟩ | ⟨rfl, h⟩ | ⟨rfl, h⟩ | ⟨rfl, h⟩ | ⟨rfl, h⟩
    · interval_cases kind <;> rfl
    · exact decide_eq_false h
    · exact decide_eq_false (Nat.not_lt.mpr h)
    · exact decide_eq_false (Nat.not_lt.mpr h)
    · exact decide_eq_false (Nat.not_lt.mpr h)
    · rcases h with h | h
      · exact (congrArg (s.isA && ·) (decide_eq_false (Nat.not_lt.mpr h))).trans (Bool.and_false _)
      · exact (congrArg (· && decide (index < 128)) h).trans (Bool.false_and _)
    · exact decide_eq_false (Nat.not_lt.mpr h)
  have hop := repointWriteOp_bad hbad
  exact ⟨_, (repoint_runs hl ((powered_ledger (by decide) (by decide)).trans hon) v).trans (congrArg _ hop),
    rb_evt s (by decide) (by decide), evt_ldg _ _ _, evt_mem _ _ _, fun a ha => reg_evt_alone rfl ha⟩

end Sys2Proof.Machine
end

section
/-! PROOF. Bytes, words and gain codes in memory: what they read after a write, and codes set at once in the gain store
(R116, R156, R165). -/

namespace Sys2Proof.Machine

section
variable {s : State}

/-! ### Runs of bytes -/

@[simp] theorem rdByte_setLdg (s : State) (p : Ldg) (a : Nat) : (s.setLdg p).rdByte a = s.rdByte a := rfl

theorem wrBytes_eq_foldl (s : State) (a : Nat) (l : List Byte) :
    s.wrBytes a l = (placed a l).foldl (fun s e => s.wrByte e.1 e.2) s := by
  induction l generalizing a s with
  | nil => rfl
  | cons b l ih => exact ih _ _

theorem rdByte_wrBytes (s : State) (a : Nat) (l : List Byte) (x : Nat) :
    (s.wrBytes a l).rdByte x = if a ≤ x ∧ x < a + l.length then l.getD (x - a) 0 else s.rdByte x := by
  rw [wrBytes_eq_foldl]
  have h := foldl_placed (rd := State.rdByte) (wr := fun s e => s.wrByte e.1 e.2) (I := fun _ => True) (D := fun _ => True)
    (c := 0) (lo := 0) (fun _ _ _ => trivial) (fun v y b x _ _ _ _ => by rw [Nat.zero_add]; exact rdByte_wrByte v y x b)
    trivial l a s trivial (Nat.zero_le a) (Nat.le_refl _) (x := x)
  simpa using h

theorem rdByte_wrBytes_ne (a : Nat) {l : List Byte} {x : Nat} (h : x < a ∨ a + l.length ≤ x) :
    (s.wrBytes a l).rdByte x = s.rdByte x := by
  rw [rdByte_wrBytes, if_neg (by omega)]

theorem rdByte_wrHalf_ne {a x : Nat} (v : Half) (h : x < a ∨ a + 2 ≤ x) : (s.wrHalf a v).rdByte x = s.rdByte x :=
  rdByte_wrBytes_ne a h

theorem rdByte_wrWord_ne {a x : Nat} (v : Word) (h : x < a ∨ a + 4 ≤ x) : (s.wrWord a v).rdByte x = s.rdByte x :=
  rdByte_wrBytes_ne a h

theorem leNat_rdBytes_wrBytes (s : State) (a v n : Nat) :
    leNat ((s.wrBytes a (leBytes v n)).rdBytes a n) = v % 256 ^ n := by
  rw [rdBytes_eq]
  refine leNat_placed fun i hi => ?_
  rw [rdByte_wrBytes, length_leBytes, if_pos (by omega), Nat.add_sub_cancel_left]

theorem rdHalf_wrHalf_same (s : State) (a : Nat) (v : Half) : (s.wrHalf a v).rdHalf a = v := by
  rw [State.rdHalf, State.wrHalf, leNat_rdBytes_wrBytes, show 256 ^ 2 = 2 ^ 16 from rfl, Nat.mod_eq_of_lt v.isLt]
  exact BitVec.eq_of_toNat_eq (by simp)

theorem rdWord_wrWord_same (s : State) (a : Nat) (v : Word) : (s.wrWord a v).rdWord a = v := by
  rw [State.rdWord, State.wrWord, leNat_rdBytes_wrBytes, ← leNat_leBytes]
  exact wd_leNat_leBytes v

theorem rdWord_wrWord_ne {a b : Nat} (v : Word) (h : b + 4 ≤ a ∨ a + 4 ≤ b) : (s.wrWord a v).rdWord b = s.rdWord b := by
  rw [State.rdWord, State.rdWord, rdBytes_congr fun x hx hx' => rdByte_wrWord_ne v (by omega)]

/-! ### Codes of the gain store (R156) -/

theorem gain_setGain_same (s : State) (x c : Nat) : (s.setGain x c).gain x = c % 2 ^ 16 := by
  rw [State.gain, State.setGain, rdHalf_wrHalf_same, BitVec.toNat_ofNat]

theorem rdByte_setGain_ne {x a : Nat} (c : Nat) (h : a < 0x20000000 + 2 * x ∨ 0x20000000 + 2 * x + 2 ≤ a) :
    (s.setGain x c).rdByte a = s.rdByte a := rdByte_wrHalf_ne _ h

theorem gain_setGain_ne {x y : Nat} (c : Nat) (h : y ≠ x) : (s.setGain x c).gain y = s.gain y := by
  rw [State.gain, State.gain, State.rdHalf, State.rdHalf, rdBytes_congr fun a ha ha' => rdByte_setGain_ne c (by omega)]

/-! ### A code set at once (R165) -/

/-- The codes that stand for the folio being mixed once a write of crosspoint `x` was noted. -/
def State.wasWith (s : State) (x : Nat) : List (Nat × Nat) :=
  if s.pst.cur.isSome && !s.ldg.was.any (fun e => e.1 == x) then s.ldg.was ++ [(x, s.gain x)] else s.ldg.was

theorem setCode_eq (x c : Nat) (s : State) : setCode x c s = (s.setLdg { s.ldg with was := s.wasWith x }).setGain x c := rfl

theorem gain_setCode_same (x c : Nat) (s : State) : (setCode x c s).gain x = c % 2 ^ 16 := gain_setGain_same _ x c

theorem gain_setCode_ne {x y : Nat} (c : Nat) (h : y ≠ x) : (setCode x c s).gain y = s.gain y :=
  (gain_setGain_ne (s := s.setLdg { s.ldg with was := s.wasWith x }) c h).trans rfl

theorem rdByte_setCode_ne {x a : Nat} (c : Nat) (h : a < 0x20000000 + 2 * x ∨ 0x20000000 + 2 * x + 2 ≤ a) :
    (setCode x c s).rdByte a = s.rdByte a :=
  (rdByte_setGain_ne (s := s.setLdg { s.ldg with was := s.wasWith x }) c h).trans rfl

theorem ldg_setCode (x c : Nat) (s : State) : (setCode x c s).ldg = { s.ldg with was := s.wasWith x } :=
  (within_setGain (m := { mem := true }) rfl x c (Within.refl _ (s.setLdg { s.ldg with was := s.wasWith x }))).ldg_eq rfl

/-- The code noted for `y` after a write of `x`: the one noted before, or the one that stood in the store. -/
theorem find?_wasWith (hcur : s.pst.cur.isSome = true) (x y : Nat) : (s.wasWith x).find? (fun e => e.1 == y) =
    (s.ldg.was.find? fun e => e.1 == y).or (if y = x then some (x, s.gain x) else none) := by
  unfold State.wasWith
  rw [hcur, Bool.true_and]
  cases hany : s.ldg.was.any fun e => e.1 == x with
  | false =>
    by_cases hy : y = x
    · simp [List.find?_append, hy]
    · simp [List.find?_append, hy, Ne.symm hy]
  | true =>
    by_cases hy : y = x
    · obtain ⟨e, he, hex⟩ := List.any_eq_true.mp hany
      obtain ⟨d, hd⟩ := Option.isSome_iff_exists.mp (List.find?_isSome (p := fun e => e.1 == x) |>.mpr ⟨e, he, hex⟩)
      simp [hy, hd]
    · simp [hy]

/-- The folio being mixed keeps its codes (R116). -/
theorem steadyCode_setCode (hcur : s.pst.cur.isSome = true) (x c y : Nat) :
    (setCode x c s).steadyCode y = s.steadyCode y := by
  unfold State.steadyCode
  rw [ldg_setCode]
  dsimp only
  rw [find?_wasWith hcur]
  cases hfind : s.ldg.was.find? fun e => e.1 == y with
  | some e => rfl
  | none =>
    by_cases hy : y = x
    · simp [hy]
    · simpa [hy] using gain_setCode_ne c hy

end

/-- `s` is reached from `u` by codes set at once: beside the gain store only the notes of replaced codes may differ, none are
made while no folio is mixed, and the codes of a folio being mixed stand. -/
structure CodesSet (u s : State) : Prop where
  within : Within { ldg := true, mem := true } u s
  ldg : s.ldg = { u.ldg with was := s.ldg.was }
  idle : u.pst.cur = none → s.ldg = u.ldg
  steady : u.pst.cur.isSome = true → ∀ x, s.steadyCode x = u.steadyCode x

theorem CodesSet.refl (s : State) : CodesSet s s := ⟨Within.refl _ s, rfl, fun _ => rfl, fun _ _ => rfl⟩

theorem CodesSet.setCode {u s : State} (h : CodesSet u s) (x c : Nat) : CodesSet u (setCode x c s) where
  within := within_setCode rfl rfl x c h.within
  ldg := by rw [ldg_setCode, h.ldg]
  idle hcur := by
    have hwas : s.wasWith x = s.ldg.was := by
      rw [State.wasWith, h.within.pst_eq rfl, hcur]
      rfl
    rw [ldg_setCode, hwas]
    exact h.idle hcur
  steady hcur y := by
    rw [steadyCode_setCode (by rw [h.within.pst_eq rfl]; exact hcur), h.steady hcur]

end Sys2Proof.Machine
end

section
/-! PROOF. Write beats at the Ledger stores, LDG_CHGV and the beats that wait (R163 to R167, R179, R780). -/

namespace Sys2Proof.Machine

/-! ### Values written one after another at numbered places -/

/-- Values written at the places `k`, `k + 1` and so on: each place holds its own, and those below stand. -/
theorem foldl_zipIdx_reads {σ α β : Type} {wr : σ → Nat → α → σ} {rd : σ → Nat → β} {val : α → β}
    (hsame : ∀ s i v, rd (wr s i v) i = val v) (hne : ∀ s i j v, j ≠ i → rd (wr s i v) j = rd s j) (l : List α) (k : Nat)
    (s : σ) : (∀ j, j < k → rd ((l.zipIdx k).foldl (fun s e => wr s e.2 e.1) s) j = rd s j) ∧
      ∀ i v, l[i]? = some v → rd ((l.zipIdx k).foldl (fun s e => wr s e.2 e.1) s) (k + i) = val v := by
  induction l generalizing k s with
  | nil => simp
  | cons a l ih =>
    rw [List.zipIdx_cons, List.foldl_cons]
    obtain ⟨hbelow, hat⟩ := ih (k + 1) (wr s k a)
    refine ⟨fun j hj => (hbelow j (by omega)).trans (hne _ _ _ _ (by omega)), fun i v hi => ?_⟩
    cases i with
    | zero =>
      obtain rfl : a = v := by simpa using hi
      exact (hbelow k (by omega)).trans (hsame _ _ _)
    | succ i =>
      have hplace : k + (i + 1) = k + 1 + i := by omega
      rw [hplace]
      exact hat i v (by simpa using hi)

/-! ### Codes set at once (R165) -/

/-- The codes of a beat set from crosspoint `x` upward. -/
def setCodes (x : Nat) (codes : List Half) (s : State) : State :=
  codes.zipIdx.foldl (fun s e => setCode (x + e.2) e.1.toNat s) s

section
variable {s : State}

theorem codesSet_setCodes (x : Nat) (codes : List Half) (s : State) : CodesSet s (setCodes x codes s) :=
  List.foldlRecOn _ _ (CodesSet.refl s) fun _ ht _ _ => ht.setCode _ _

theorem gain_setCodes (x : Nat) {codes : List Half} {i : Nat} {c : Half} (hi : codes[i]? = some c) :
    (setCodes x codes s).gain (x + i) = c.toNat := by
  have h := (foldl_zipIdx_reads (wr := fun s j (v : Half) => setCode (x + j) v.toNat s) (rd := fun s j => s.gain (x + j))
    (val := fun v => v.toNat) (fun s j v => (gain_setCode_same _ _ s).trans (Nat.mod_eq_of_lt v.isLt))
    (fun s i j v hj => gain_setCode_ne _ (by omega)) codes 0 s).2 i c hi
  rwa [Nat.zero_add] at h

theorem rdByte_setCodes (x : Nat) (codes : List Half) {a : Nat}
    (h : a < 0x20000000 + 2 * x ∨ 0x20000000 + 2 * x + 2 * codes.length ≤ a) :
    (setCodes x codes s).rdByte a = s.rdByte a := by
  refine List.foldlRecOn (motive := fun t : State => t.rdByte a = s.rdByte a) _ _ rfl fun t ht e he => ?_
  have hlt := (List.mk_mem_zipIdx_iff_getElem?.mp he : codes[e.2]? = some e.1)
  have hidx : e.2 < codes.length := (List.getElem?_eq_some_iff.mp hlt).1
  exact (rdByte_setCode_ne _ (by omega)).trans ht

/-! ### Words of the ramp table (R179) -/

/-- A word written into the ramp table, its number noted for the mix slot boundary. -/
def tableWord (a : Nat) (w : Word) (s : State) : State :=
  let s := s.wrWord a w
  s.setLdg { s.ldg with touched := addTo s.ldg.touched ((a - 0x21000000) / 4) }

/-- The words of a beat written from address `a` upward. -/
def tableWords (a : Nat) (ws : List Word) (s : State) : State :=
  ws.zipIdx.foldl (fun s e => tableWord (a + 4 * e.2) e.1 s) s

theorem regs_tableWords (a : Nat) (ws : List Word) : (tableWords a ws s).regs = s.regs :=
  (within_foldl (m := { ldg := true, mem := true }) (Within.refl _ s) fun _ _ ht =>
    within_setLdg rfl _ (within_wrWord rfl _ _ ht)).regs_eq fun _ => rfl

theorem rdByte_tableWord (a : Nat) (w : Word) (s : State) (x : Nat) :
    (tableWord a w s).rdByte x = (s.wrWord a w).rdByte x := rfl

theorem rdWord_tableWord (a : Nat) (w : Word) (s : State) (b : Nat) :
    (tableWord a w s).rdWord b = (s.wrWord a w).rdWord b := by
  rw [State.rdWord, State.rdWord,
    rdBytes_congr (v := tableWord a w s) (s := s.wrWord a w) fun x _ _ => rdByte_tableWord a w s x]

theorem rdWord_tableWords (a : Nat) {ws : List Word} {i : Nat} {w : Word} (hi : ws[i]? = some w) :
    (tableWords a ws s).rdWord (a + 4 * i) = w := by
  have h := (foldl_zipIdx_reads (wr := fun s j v => tableWord (a + 4 * j) v s) (rd := fun s j => s.rdWord (a + 4 * j))
    (val := id) (fun s j v => (rdWord_tableWord _ v s _).trans (rdWord_wrWord_same s _ v))
    (fun s i j v hj => (rdWord_tableWord _ v s _).trans (rdWord_wrWord_ne v (by omega))) ws 0 s).2 i w hi
  rwa [Nat.zero_add] at h

theorem rdByte_tableWords (a : Nat) (ws : List Word) {x : Nat} (h : x < a ∨ a + 4 * ws.length ≤ x) :
    (tableWords a ws s).rdByte x = s.rdByte x := by
  refine List.foldlRecOn (motive := fun t : State => t.rdByte x = s.rdByte x) _ _ rfl fun t ht e he => ?_
  have hlt := (List.mk_mem_zipIdx_iff_getElem?.mp he : ws[e.2]? = some e.1)
  have hidx : e.2 < ws.length := (List.getElem?_eq_some_iff.mp hlt).1
  rw [rdByte_tableWord, rdByte_wrWord_ne _ (by omega)]
  exact ht

theorem mem_addTo {l : List Nat} {x y : Nat} : y ∈ addTo l x ↔ y ∈ l ∨ y = x := by
  unfold addTo
  split
  · rename_i h
    have hx : x ∈ l := by simpa using h
    exact ⟨Or.inl, fun h => h.elim id fun e => e ▸ hx⟩
  · simp

theorem touched_tableWord (a : Nat) (w : Word) (s : State) :
    (tableWord a w s).ldg.touched = addTo s.ldg.touched ((a - 0x21000000) / 4) :=
  congrArg (fun l : Ldg => addTo l.touched ((a - 0x21000000) / 4))
    ((within_wrWord (m := { mem := true }) rfl a w (Within.refl _ s)).ldg_eq rfl)

theorem touched_tableWords (a : Nat) {ws : List Word} {i : Nat} {w : Word} (hi : ws[i]? = some w) :
    (a + 4 * i - 0x21000000) / 4 ∈ (tableWords a ws s).ldg.touched := by
  have hkeep : ∀ (l : List (Word × Nat)) (t : State) (y : Nat), y ∈ t.ldg.touched →
      y ∈ (l.foldl (fun s e => tableWord (a + 4 * e.2) e.1 s) t).ldg.touched := fun l t y hy =>
    List.foldlRecOn (motive := fun v : State => y ∈ v.ldg.touched) l _ hy fun v hv e _ => by
      rw [touched_tableWord]
      exact mem_addTo.mpr (.inl hv)
  have hmem : (w, i) ∈ ws.zipIdx := List.mk_mem_zipIdx_iff_getElem?.mpr hi
  obtain ⟨l, r, hsplit⟩ := List.append_of_mem hmem
  rw [tableWords, hsplit, List.foldl_append, List.foldl_cons]
  refine hkeep _ _ _ ?_
  rw [touched_tableWord]
  exact mem_addTo.mpr (.inr rfl)

/-! ### What a beat does (R163, R165, R167, R179) -/

theorem performGain_queues (hen : s.rb Reg.LDG_CTRL 0 = true) (l : List (Nat × Nat)) : performGain none l s =
    s.setLdg { s.ldg with queue := s.ldg.queue ++ l.map fun e => ⟨e.1, e.2, s.rf Reg.LDG_CTRL 7 4⟩ } := if_pos hen

theorem performGain_sets (hen : s.rb Reg.LDG_CTRL 0 = false) (addr : Nat) (codes : List Half) :
    performGain none (beatCodes addr codes) s = setCodes ((addr - 0x20000000) / 2) codes s := by
  rw [performGain, hen, beatCodes, setCodes, List.foldl_map]
  rfl

theorem performRamp_ignored (hen : s.rb Reg.LDG_CTRL 0 = true) (l : List (Nat × Word)) :
    performRamp l s = s.evt Reg.LDG_EVT 4 := if_pos hen

theorem performRamp_writes (hen : s.rb Reg.LDG_CTRL 0 = false) (addr : Nat) (ws : List Word) :
    performRamp (ws.zipIdx.map fun e => (addr + 4 * e.2, e.1)) s = tableWords addr ws s := by
  rw [performRamp, hen, tableWords, List.foldl_map]
  rfl

theorem ledgerBeat_performs {b : LdgBeat} (hwait : s.ldg.waiting = []) (hfits : s.beatFits b = true) :
    ledgerBeat b s = performBeat b s := if_pos ⟨hwait, hfits⟩

theorem ledgerBeat_waits {b : LdgBeat} (hfull : s.beatFits b = false) : ledgerBeat b s =
    (s.setLdg { s.ldg with waiting := s.ldg.waiting ++ [b] }).evt Reg.LDG_EVT 2 := by
  rw [ledgerBeat, hfull, if_neg (by simp)]
  rfl

theorem beatFits_room (rt : Option Nat) {l : List (Nat × Nat)} (h : s.ldg.queue.length + l.length ≤ 4096) :
    s.beatFits (.gain rt l) = true := by simp [State.beatFits, h]

theorem beatFits_full (hen : s.rb Reg.LDG_CTRL 0 = true) (rt : Option Nat) {l : List (Nat × Nat)}
    (h : 4096 < s.ldg.queue.length + l.length) : s.beatFits (.gain rt l) = false := by
  simp [State.beatFits, hen, h]

theorem beatFits_stopped (hen : s.rb Reg.LDG_CTRL 0 = false) (b : LdgBeat) : s.beatFits b = true := by
  cases b <;> simp [State.beatFits, hen]

theorem length_beatCodes (addr : Nat) (codes : List Half) : (beatCodes addr codes).length = codes.length := by
  simp [beatCodes]

/-- What the sender of a refused write sees, and what the refusal leaves (R609). -/
theorem refused_keeps (addr cause : Nat) (s : State) :
    ((clhError .stw 0 true addr cause s).answer .err []).ans = ⟨.err, []⟩ ∧
      ((clhError .stw 0 true addr cause s).answer .err []).rb Reg.CLH_EVT 0 = true ∧
      ((clhError .stw 0 true addr cause s).answer .err []).ldg = s.ldg ∧
      ((clhError .stw 0 true addr cause s).answer .err []).mem = s.mem :=
  ⟨rfl, rb_clhError 0 addr cause,
    (within_clhError (m := { regs := true }) rfl .stw 0 true addr cause (Within.refl _ s)).ldg_eq rfl,
    mem_clhError 0 addr cause⟩

/-! ### Gain store writes (R163, R165, R167) -/

section
variable {addr : Nat} {codes : List Half}

theorem gainStoreWrite_runs (hl : s.hostLive = true) (hon : s.domOn 5 = true) (hlo : 0x20000000 ≤ addr)
    (hhi : addr + 2 * codes.length ≤ 0x20A00000) (hal : addr % 2 = 0) :
    exec (.gainStoreWrite addr codes) s = .next ((ledgerBeat (.gain none (beatCodes addr codes)) s).answer .ok []) := by
  have hop : gainStoreWriteOp addr codes s = (ledgerBeat (.gain none (beatCodes addr codes)) s).answer .ok [] := by
    rw [gainStoreWriteOp, if_neg (by omega), hon]
    rfl
  exact (hostDo_live hl _).trans (congrArg _ hop)

theorem gainBeat_queues (hen : s.rb Reg.LDG_CTRL 0 = true) (hwait : s.ldg.waiting = [])
    (hroom : s.ldg.queue.length + codes.length ≤ 4096) : ledgerBeat (.gain none (beatCodes addr codes)) s =
      s.setLdg { s.ldg with queue := s.ldg.queue ++ codes.zipIdx.map fun e =>
        ⟨(addr - 0x20000000) / 2 + e.2, e.1.toNat, s.rf Reg.LDG_CTRL 7 4⟩ } := by
  have hfits : s.beatFits (.gain none (beatCodes addr codes)) = true :=
    beatFits_room none (by rw [length_beatCodes]; exact hroom)
  rw [ledgerBeat_performs hwait hfits, performBeat, performGain_queues hen, beatCodes, List.map_map]
  rfl

theorem gainBeat_waits (hen : s.rb Reg.LDG_CTRL 0 = true) (hfull : 4096 < s.ldg.queue.length + codes.length) :
    ledgerBeat (.gain none (beatCodes addr codes)) s =
      (s.setLdg { s.ldg with waiting := s.ldg.waiting ++ [.gain none (beatCodes addr codes)] }).evt Reg.LDG_EVT 2 :=
  ledgerBeat_waits (beatFits_full hen none (by rw [length_beatCodes]; exact hfull))

theorem gainBeat_sets (hen : s.rb Reg.LDG_CTRL 0 = false) (hwait : s.ldg.waiting = []) :
    ledgerBeat (.gain none (beatCodes addr codes)) s = setCodes ((addr - 0x20000000) / 2) codes s :=
  (ledgerBeat_performs hwait (beatFits_stopped hen _)).trans (performGain_sets hen addr codes)

/-- A write outside the store, misaligned or with PS5 off is refused (R58, R59). -/
theorem gainStoreWrite_refused (hl : s.hostLive = true)
    (h : s.domOn 5 = false ∨ addr < 0x20000000 ∨ 0x20A00000 < addr + 2 * codes.length ∨ addr % 2 ≠ 0) :
    ∃ t, exec (.gainStoreWrite addr codes) s = .next t ∧ t.ans = ⟨.err, []⟩ ∧ t.rb Reg.CLH_EVT 0 = true ∧
      t.ldg = s.ldg ∧ t.mem = s.mem := by
  have hop : ∃ cause, gainStoreWriteOp addr codes s = (clhError .stw 0 true addr cause s).answer .err [] := by
    by_cases hbad : addr < 0x20000000 ∨ 0x20A00000 < addr + 2 * codes.length ∨ addr % 2 ≠ 0
    · exact ⟨_, if_pos hbad⟩
    · exact ⟨3, by rw [gainStoreWriteOp, if_neg hbad, h.resolve_right hbad]; rfl⟩
  obtain ⟨cause, hop⟩ := hop
  exact ⟨_, (hostDo_live hl _).trans (congrArg _ hop), refused_keeps addr cause s⟩

end

/-! ### Ramp table writes (R179) -/

theorem rampTableWrite_runs (hl : s.hostLive = true) {addr : Nat} {ws : List Word} (hon : s.domOn 5 = true)
    (hlo : 0x21000000 ≤ addr) (hhi : addr + 4 * ws.length ≤ 0x21100000) (hal : addr % 4 = 0) (hwait : s.ldg.waiting = []) :
    exec (.rampTableWrite addr ws) s =
      .next ((performRamp (ws.zipIdx.map fun e => (addr + 4 * e.2, e.1)) s).answer .ok []) := by
  have hop : rampTableWriteOp addr ws s = (performRamp (ws.zipIdx.map fun e => (addr + 4 * e.2, e.1)) s).answer .ok [] := by
    rw [rampTableWriteOp, if_neg (by omega), hon]
    exact congrArg (fun t : State => t.answer .ok []) (ledgerBeat_performs (b := .ramp _) hwait rfl)
  exact (hostDo_live hl _).trans (congrArg _ hop)

/-! ### LDG_CHGV (R164, R780) -/

/-- A write of LDG_CHGV with PS5 on, by crosspoint, EN and queue. -/
theorem chgvWriteOp_cases (hon : s.domOn 5 = true) (v : Word) : chgvWriteOp v s =
    if xpCount ≤ s.rf Reg.LDG_CHGX 22 0 then (s.evt Reg.LDG_EVT 9).answer .ok []
    else if s.rb Reg.LDG_CTRL 0 then
      if 4096 ≤ s.ldg.queue.length then (s.evt Reg.LDG_EVT 10).answer .err []
      else (s.setLdg { s.ldg with
        queue := s.ldg.queue ++ [⟨s.rf Reg.LDG_CHGX 22 0, fld v 15 0, fld v 19 16⟩] }).answer .ok []
    else (setCode (s.rf Reg.LDG_CHGX 22 0) (fld v 15 0) s).answer .ok [] := by
  rw [chgvWriteOp, hon]
  rfl

/-! ### Beats that wait (R167) -/

section
variable {b : LdgBeat} {l : List LdgBeat}

theorem waitingBeatOp_performs (hwait : s.ldg.waiting = b :: l) (hfits : s.beatFits b = true) :
    waitingBeatOp s = headWaits (performBeat b (s.setLdg { s.ldg with waiting := l })) := by
  rw [waitingBeatOp, hwait]
  exact if_pos hfits

theorem waitingBeatOp_waits (hwait : s.ldg.waiting = b :: l) (hfull : s.beatFits b = false) : waitingBeatOp s = s := by
  rw [waitingBeatOp, hwait]
  exact if_neg (by simp [hfull])

/-- Finding the queue full writes registers only, and LDG_CTRL stands. -/
theorem headWaits_keeps (s : State) : Within { regs := true } s (headWaits s) ∧
    ∀ d, (headWaits s).beatFits d = s.beatFits d := by
  have hw : Within { regs := true } s (headWaits s) := within_headWaits rfl (Within.refl _ s)
  refine ⟨hw, fun d => ?_⟩
  have hen : (headWaits s).rb Reg.LDG_CTRL 0 = s.rb Reg.LDG_CTRL 0 := by
    rw [State.rb, State.rb, headWaits]
    split
    · rfl
    · rw [reg_evtIf_ne _ _ (by decide) (by decide)]
  cases d with
  | gain rt l => simp only [State.beatFits, hen, hw.ldg_eq rfl]
  | ramp l => rfl

theorem headWaits_none (hwait : s.ldg.waiting = []) : headWaits s = s := by rw [headWaits, hwait]

theorem headWaits_fits (hwait : s.ldg.waiting = b :: l) (hfits : s.beatFits b = true) : headWaits s = s := by
  rw [headWaits, hwait]
  dsimp only
  rw [hfits]
  rfl

theorem headWaits_full (hwait : s.ldg.waiting = b :: l) (hfull : s.beatFits b = false) :
    headWaits s = s.evt Reg.LDG_EVT 2 := by
  rw [headWaits, hwait]
  dsimp only
  rw [hfull]
  rfl

theorem rb_headWaits_of_rb {i : Nat} (h : s.rb Reg.LDG_EVT i = true) : (headWaits s).rb Reg.LDG_EVT i = true := by
  unfold headWaits
  split
  · exact h
  · exact rb_evtIf_of_rb _ 2 (by decide) h

end

end

end Sys2Proof.Machine
end

section
/-! PROOF. Gain changes accepted into ramp slots, HOLD, source gates and re-points (R168 to R174, R185 to R192, R779). -/

namespace Sys2Proof.Machine

section
variable {s : State}

/-! ### Fields beside the one replaced -/

theorem testBit_putFld_below (w : Word) {hi lo j : Nat} (v : Nat) (hj : j < lo) (hlo : lo < 32) :
    (putFld w hi lo v).toNat.testBit j = w.toNat.testBit j := by
  have hle : w.toNat / 2 ^ lo % 2 ^ (hi + 1 - lo) * 2 ^ lo ≤ w.toNat :=
    (Nat.mul_le_mul_right _ (Nat.mod_le _ _)).trans (Nat.div_mul_le_self _ _)
  simp only [putFld, wd, BitVec.toNat_ofNat]
  generalize w.toNat / 2 ^ lo % 2 ^ (hi + 1 - lo) = x at hle ⊢
  generalize v % 2 ^ (hi + 1 - lo) = y
  have hmod : (w.toNat - x * 2 ^ lo + y * 2 ^ lo) % 2 ^ lo = w.toNat % 2 ^ lo := by
    rw [Nat.add_mul_mod_self_right, Nat.mul_comm x]
    exact Nat.sub_mul_mod (by rwa [Nat.mul_comm])
  have hbit := congrArg (fun n => n.testBit j) hmod
  simp only [Nat.testBit_mod_two_pow, hj, decide_true, Bool.true_and] at hbit
  simp only [Nat.testBit_mod_two_pow, hj.trans hlo, decide_true, Bool.true_and, hbit]

theorem fld_putFld_above (w : Word) {hi lo h l : Nat} (v : Nat) (hlt : h < lo) (hlo : lo < 32) :
    fld (putFld w hi lo v) h l = fld w h l := by
  refine Nat.eq_of_testBit_eq fun j => ?_
  simp only [fld, Nat.testBit_mod_two_pow, Nat.testBit_div_two_pow]
  by_cases hj : j < h + 1 - l
  · rw [testBit_putFld_below w v (by omega) hlo]
  · simp [hj]

/-- A bit set reads 1. -/
theorem bit_putFld_one (w : Word) {i : Nat} (hi : i < 32) : bit (putFld w i i 1) i = true := by
  have hdiv : w.toNat / 2 ^ i * 2 ^ i + w.toNat % 2 ^ i = w.toNat := Nat.div_add_mod' _ _
  have hone : i + 1 - i = 1 := by omega
  simp only [bit, putFld, wd, BitVec.toNat_ofNat, Nat.testBit_mod_two_pow, hi, decide_true, Bool.true_and, hone, Nat.pow_one]
  rw [Nat.testBit_eq_decide_div_mod_eq, decide_eq_true_eq]
  have hsub : w.toNat - w.toNat / 2 ^ i % 2 * 2 ^ i + 1 % 2 * 2 ^ i =
      (w.toNat / 2 ^ i - w.toNat / 2 ^ i % 2 + 1) * 2 ^ i + w.toNat % 2 ^ i := by
    rw [Nat.add_mul, Nat.sub_mul]
    have hle : w.toNat / 2 ^ i % 2 * 2 ^ i ≤ w.toNat / 2 ^ i * 2 ^ i := Nat.mul_le_mul_right _ (Nat.mod_le _ _)
    omega
  rw [hsub, Nat.add_comm, Nat.add_mul_div_right _ _ (Nat.two_pow_pos i), Nat.div_eq_of_lt (Nat.mod_lt _ (Nat.two_pow_pos i))]
  omega

theorem aput_nil {α : Type} [DecidableEq α] {d v : α} (k : Nat) (h : v ≠ d) : aput [] d k v = [(k, v)] := if_neg h

/-! ### Changes accepted (R168 to R174) -/

theorem ldg_writeSlot (k : Nat) (r : Ramp) (valid : Bool) (s : State) : (writeSlot k r valid s).ldg = s.ldg :=
  (within_writeSlot (m := { mem := true }) rfl k r valid (Within.refl _ s)).ldg_eq rfl

theorem regs_writeSlot (k : Nat) (r : Ramp) (valid : Bool) (s : State) : (writeSlot k r valid s).regs = s.regs :=
  (within_writeSlot (m := { mem := true }) rfl k r valid (Within.refl _ s)).regs_eq fun _ => rfl

theorem rdByte_writeSlot_ne {k a : Nat} (r : Ramp) (valid : Bool)
    (h : a < 0x21000000 + 16 * k ∨ 0x21000000 + 16 * k + 16 ≤ a) :
    (writeSlot k r valid s).rdByte a = s.rdByte a := by
  unfold writeSlot
  dsimp only
  rw [rdByte_wrWord_ne _ (by omega), rdByte_wrWord_ne _ (by omega), rdByte_wrWord_ne _ (by omega),
    rdByte_wrWord_ne _ (by omega)]

/-- The ramp of a change as it takes its slot. -/
def State.chgRamp (s : State) (c : Chg) : Ramp :=
  ⟨c.xp, s.gain c.xp, c.code, s.rf (Reg.LDG_RAMPT c.rt) 17 0, 0, false, false⟩

theorem chgRamp_ne_none {c : Chg} (h : s.gain c.xp ≠ c.code) : s.chgRamp c ≠ Ramp.none := by
  intro e
  rw [State.chgRamp, Ramp.none, Ramp.mk.injEq] at e
  obtain ⟨-, hgain, hcode, -⟩ := e
  exact h (hgain.trans hcode.symm)

/-- With no slot in use a change takes slot 0. -/
theorem takeSlot_first {r : Ramp} (hr : r ≠ Ramp.none) (hold : Bool) (hramps : s.ldg.ramps = []) (hfresh : s.ldg.fresh = [])
    (hheld : s.ldg.held = []) : takeSlot 0 hold r s = (writeSlot 0 r true s).setLdg
      (if hold then { s.ldg with held := [(0, r)] } else { s.ldg with fresh := [(0, r)] }) := by
  have hshown : ((findXp s.ldg.ramps r.xp).isSome || (hold && (findXp s.ldg.fresh r.xp).isSome)) = false := by
    simp [findXp, hramps, hfresh]
  have hnil := aput_nil 0 hr
  unfold takeSlot
  dsimp only
  rw [hshown, if_neg Bool.false_ne_true, ldg_writeSlot]
  cases hold with
  | true => simp [hheld, hnil]
  | false => simp [hfresh, putFresh, hnil]

/-- Slot 0 of the ramp table written: registers and the memory beside it stand. -/
theorem slotWritten_keeps (r : Ramp) (p : Ldg) : ((writeSlot 0 r true s).setLdg p).regs = s.regs ∧
    ∀ a, a < 0x21000000 ∨ 0x21000010 ≤ a → ((writeSlot 0 r true s).setLdg p).rdByte a = s.rdByte a := by
  refine ⟨(setLdg_regs _ _).trans (regs_writeSlot 0 r true s), fun a ha => ?_⟩
  rw [rdByte_setLdg, rdByte_writeSlot_ne r true (by omega)]

section
variable {c : Chg} {l : List Chg} (hq : s.ldg.queue = c :: l) (hramps : s.ldg.ramps = []) (hfresh : s.ldg.fresh = [])
  (hheld : s.ldg.held = [])
include hq hramps hfresh hheld

/-- With no slot in use the change at the head of the queue is accepted at once, into slot 0 or without effect. -/
theorem changeAcceptOp_eq : changeAcceptOp s = if s.gain c.xp = c.code then s.setLdg { s.ldg with queue := l }
    else takeSlot 0 (s.rb Reg.LDG_CTRL 1) (s.chgRamp c) (s.setLdg { s.ldg with queue := l }) := by
  have hslot : ∀ q, Ldg.slotOf { s.ldg with queue := q } c.xp = none := fun q => by
    simp [Ldg.slotOf, findXp, hramps, hfresh, hheld]
  have hfree : ∀ q, freeSlot { s.ldg with queue := q } = some 0 := fun q => by
    simp [freeSlot, Ldg.used, hramps, hfresh, hheld, addAll]
  have hcan : s.canAccept c = true := by
    have h0 := hfree s.ldg.queue
    simp [State.canAccept, h0]
  unfold changeAcceptOp
  rw [hq]
  dsimp only
  rw [if_pos hcan, acceptChg, setLdg_ldg, hslot]
  dsimp only
  rw [show (s.setLdg { s.ldg with queue := l }).gain c.xp = s.gain c.xp from rfl]
  by_cases hsame : s.gain c.xp = c.code
  · rw [if_pos hsame, if_pos hsame]
  · rw [if_neg hsame, if_neg hsame, hfree]
    rfl

/-- A change that takes a slot is shown in the ramp table; HOLD says whether it is held. -/
theorem changeAccept_takes (hl : s.hostLive = true) (hne : s.gain c.xp ≠ c.code) {hold : Bool}
    (hhold : s.rb Reg.LDG_CTRL 1 = hold) :
    ∃ t, exec .changeAccept s = .next t ∧ t.ldg = (if hold then
        { s.ldg with queue := l, held := [(0, s.chgRamp c)] } else { s.ldg with queue := l, fresh := [(0, s.chgRamp c)] }) ∧
      t.regs = s.regs ∧ ∀ a, a < 0x21000000 ∨ 0x21000010 ≤ a → t.rdByte a = s.rdByte a := by
  have htake := (changeAcceptOp_eq hq hramps hfresh hheld).trans (if_neg hne)
  rw [hhold] at htake
  have hop := htake.trans
    (takeSlot_first (s := s.setLdg { s.ldg with queue := l }) (chgRamp_ne_none hne) hold hramps hfresh hheld)
  obtain ⟨hregs, hmem⟩ := slotWritten_keeps (s := s.setLdg { s.ldg with queue := l }) (s.chgRamp c)
    (if hold then { s.ldg with queue := l, held := [(0, s.chgRamp c)] }
      else { s.ldg with queue := l, fresh := [(0, s.chgRamp c)] })
  exact ⟨_, (hostDo_live hl _).trans (congrArg _ hop), setLdg_ldg _ _, hregs, hmem⟩

theorem changeAccept_drops (hl : s.hostLive = true) (hsame : s.gain c.xp = c.code) :
    exec .changeAccept s = .next (s.setLdg { s.ldg with queue := l }) :=
  (hostDo_live hl _).trans (congrArg _ ((changeAcceptOp_eq hq hramps hfresh hheld).trans (if_pos hsame)))

end

/-! ### HOLD (R174) -/

theorem ldg_typeWrite (a : Nat) (v : Word) (s : State) : (s.typeWrite a v).ldg = s.ldg :=
  (within_typeWrite (m := { regs := true }) rfl a v (Within.refl _ s)).ldg_eq rfl

theorem releaseHeld_none (hheld : s.ldg.held = []) : (releaseHeld s).ldg = s.ldg := by
  have h : (releaseHeld s).ldg = { s.ldg with held := [] } := by
    rw [releaseHeld, hheld]
    rfl
  rw [h, ← hheld]

theorem fresh_releaseHeld_single {k : Nat} {r : Ramp} (hfresh : s.ldg.fresh = []) (hheld : s.ldg.held = [(k, r)])
    (hr : r ≠ Ramp.none) : (releaseHeld s).ldg.fresh = [(k, r)] := by
  rw [releaseHeld, hheld, hfresh]
  exact aput_nil k hr

/-- A write of LDG_CTRL with PS5 on: the register, and the changes that HOLD = 0 releases. -/
theorem holdWrite_writes (hl : s.hostLive = true) (hpow : s.powered Reg.LDG_CTRL = true) (v : Word) :
    ∃ t, exec (.holdWrite v) s = .next t ∧ t.reg Reg.LDG_CTRL = (s.typeWrite Reg.LDG_CTRL v).reg Reg.LDG_CTRL ∧
      t.mem = s.mem ∧ t.ldg = if bit v 1 then s.ldg else (releaseHeld s).ldg := by
  refine ⟨_, (hostDo_live hl _).trans (congrArg _ (regRow_powered hpow _)), ?_⟩
  have hop : holdWriteOp v s = if bit v 1 then s.typeWrite Reg.LDG_CTRL v else releaseHeld (s.typeWrite Reg.LDG_CTRL v) := rfl
  have hldg := ldg_typeWrite Reg.LDG_CTRL v s
  rw [hop]
  split
  · exact ⟨rfl, mem_typeWrite _ _ _, hldg⟩
  · refine ⟨rfl, mem_typeWrite _ _ _, ?_⟩
    rw [releaseHeld, releaseHeld, setLdg_ldg, setLdg_ldg, hldg]

/-! ### Source gates (R186 to R190) -/

/-- The gate that a re-point makes of `g`. -/
def Gate.repointed (g : Gate) (r : Repoint) : Gate :=
  match g.phase with
  | .normal => ⟨.down, 0xF400, r.len, 0, r.bind⟩
  | .down | .silent => { g with bind := r.bind }
  | .up => ⟨.down, g.codeAfter g.done, r.len, 0, r.bind⟩

theorem repointGate_eq (r : Repoint) (s : State) : repointGate r s = setGate r.src ((s.gate r.src).repointed r) s := by
  unfold repointGate Gate.repointed
  dsimp only
  cases (s.gate r.src).phase <;> rfl

/-- A re-pointed gate is not normal and holds the new binding. -/
theorem repointed_pends (g : Gate) (r : Repoint) : (g.repointed r).phase ≠ .normal ∧ (g.repointed r).bind = r.bind := by
  unfold Gate.repointed
  cases hg : g.phase <;> simp

theorem repointed_normal {g : Gate} (h : g.phase = .normal) (r : Repoint) :
    g.repointed r = ⟨.down, 0xF400, r.len, 0, r.bind⟩ := by rw [Gate.repointed, h]

/-- While the gate falls or is silent the pending binding is replaced. -/
theorem repointed_falling {g : Gate} (h : g.phase = .down ∨ g.phase = .silent) (r : Repoint) :
    g.repointed r = { g with bind := r.bind } := by
  unfold Gate.repointed
  rcases h with h | h <;> rw [h]

theorem ldg_setGate (src : Nat) (g : Gate) (s : State) :
    (setGate src g s).ldg = { s.ldg with gates := aput s.ldg.gates Gate.reset src g } := rfl

theorem mem_setGate (src : Nat) (g : Gate) (s : State) : (setGate src g s).mem = s.mem :=
  (within_setGate (m := { ldg := true, regs := true }) rfl rfl src g (Within.refl _ s)).mem_eq rfl

theorem gate_setGate_same (src : Nat) (g : Gate) (s : State) : (setGate src g s).gate src = g :=
  aget_aput_same _ _ _ _

theorem gate_setGate_ne {src x : Nat} (g : Gate) (h : x ≠ src) : (setGate src g s).gate x = s.gate x :=
  aget_aput_ne _ _ _ _ h

theorem bind_setGate (src : Nat) (g : Gate) (s : State) : (setGate src g s).bind src = s.bind src := by
  have hreg : (setGate src g s).reg (Reg.LDG_BIND src) =
      putFld (s.reg (Reg.LDG_BIND src)) 31 31 (b2n (decide (g.phase ≠ .normal))) := reg_setReg_same _ _ _
  rw [State.bind, State.rf, hreg]
  exact fld_putFld_above _ _ (by decide) (by decide)

theorem rb_setGate_pends (src : Nat) {g : Gate} (h : g.phase ≠ .normal) (s : State) :
    (setGate src g s).rb (Reg.LDG_BIND src) 31 = true := by
  have hreg : (setGate src g s).reg (Reg.LDG_BIND src) =
      putFld (s.reg (Reg.LDG_BIND src)) 31 31 (b2n (decide (g.phase ≠ .normal))) := reg_setReg_same _ _ _
  rw [State.rb, hreg, decide_eq_true h]
  exact bit_putFld_one _ (by decide)

/-! ### Re-points (R186, R190) -/

/-- The re-point that a write of LDG_REPTB asks for. -/
def State.repointOf (s : State) (v : Word) : Repoint :=
  ⟨s.rf Reg.LDG_REPT 10 0, s.rf (Reg.LDG_RAMPT (s.rf Reg.LDG_REPT 15 12)) 17 0, fld v 15 0⟩

/-- The re-point is noted with the number of the first folio cut after it (R186, R779). -/
def notedRepoint (r : Repoint) (s : State) : State :=
  s.setLdg { s.ldg with repoints := s.ldg.repoints ++ [(s.pst.next, r)] }

theorem notedRepoint_keeps (r : Repoint) (s : State) : (∀ x, (notedRepoint r s).gate x = s.gate x) ∧
    (∀ x, (notedRepoint r s).bind x = s.bind x) ∧ (notedRepoint r s).mem = s.mem := by
  have hregs : (notedRepoint r s).regs = s.regs := setLdg_regs _ _
  refine ⟨fun x => ?_, fun x => ?_, setLdg_mem _ _⟩
  · rw [State.gate, State.gate, notedRepoint, setLdg_ldg]
  · rw [State.bind, State.bind, State.rf, State.rf, State.reg, State.reg, hregs]

theorem repointOp_good {v : Word} (hok : bindOk s.isA (fld v 15 0) = true) : repointOp v s =
    setGate (s.repointOf v).src ((s.gate (s.repointOf v).src).repointed (s.repointOf v)) (notedRepoint (s.repointOf v) s) := by
  have hop : repointOp v s = repointGate (s.repointOf v) (notedRepoint (s.repointOf v) s) := if_neg (by simp [hok])
  rw [hop, repointGate_eq]
  rfl

/-- No folio is cut again while the sequencer runs, or where every folio in flight has begun its mix slot. -/
theorem repointWriteOp_posted (v : Word) (h : s.pst.paused = false ∨ ∀ f ∈ s.pst.fols, f.slot = true) :
    repointWriteOp v s = repointOp v s := by
  have hpst : (repointOp v s).pst = s.pst :=
    (within_repointOp (m := { ldg := true, regs := true }) rfl rfl v (Within.refl _ s)).pst_eq rfl
  rcases h with hp | hall
  · exact repointWriteOp_unpaused v hp
  · have hnone : s.pst.fols.find? (fun f => !f.slot) = none := List.find?_eq_none.mpr fun f hf => by simp [hall f hf]
    unfold repointWriteOp
    dsimp only
    rw [hpst, hnone]

end

end Sys2Proof.Machine
end

section
/-! PROOF. A re-point in a pause (R779): the folio cut and not begun is cut again for its source. -/

namespace Sys2Proof.Machine

/-! ### Tasks dispatched again -/

/-- What stands in every folio through `π` when a source task is dispatched again, if `π` does not look at the dispatched
tasks. -/
theorem sameFols_redispatch {α : Type} {π : Fol → α} (hopen : ∀ (f : Fol) (l : List Nat), π { f with open_ := l } = π f)
    {u s : State} (n k : Nat) (h : SameFols π u s) : SameFols π u (redispatch n k s) := by
  have hfill : (fillInputs k n s).pst = s.pst :=
    (within_fillInputs (m := { mem := true, free := true }) rfl rfl k n (Within.refl _ s)).pst_eq rfl
  have hdisc : SameFols π u (discard k n (fillInputs k n s)) := fun m =>
    ((settled_discard k n (Settled.refl π _)).fols m).trans (h.of_pst (congrArg Pst.fols hfill) m)
  unfold redispatch
  dsimp only
  split
  · exact hdisc.of_pst rfl
  · exact sameFols_updFol hdisc (fun _ => rfl) fun f => hopen f _

section
variable {s : State}

/-! ### The gates before the cut (R779) -/

/-- A gate that falls and has samples to go is in the next folio as it is. -/
theorem stepGates_falling {src : Nat} {g : Gate} (hgates : s.ldg.gates = [(src, g)]) (hphase : g.phase = .down)
    (hdone : g.done < g.len) : stepGates s = setGate src g s := by
  have hstep : g.step = g := by
    rw [Gate.step, hphase]
    exact if_neg (by omega)
  rw [stepGates, hgates, List.foldl_cons, List.foldl_nil]
  dsimp only
  rw [hstep, hphase]
  simp

theorem gates_setGate_nil {src : Nat} {g : Gate} (hgates : s.ldg.gates = []) (hg : g ≠ Gate.reset) :
    (setGate src g s).ldg.gates = [(src, g)] := by
  rw [ldg_setGate, hgates, aput_nil src hg]

/-- With no gate before the cut, the gates restored are those of the one re-point since. -/
theorem restoreGates_one {n m src : Nat} {g : Gate} {r : Repoint} (hgates : s.ldg.gates = [(src, g)])
    (hrep : s.ldg.repoints = [(m, r)]) (hlt : n < m) :
    restoreGates n [] [] s = repointGate r (setGate src Gate.reset s) := by
  have hrep' : (setGate src Gate.reset s).ldg.repoints = [(m, r)] := by rw [ldg_setGate]; exact hrep
  rw [restoreGates, hgates]
  simp only [List.foldl_cons, List.foldl_nil]
  rw [hrep', List.filter_cons_of_pos (by simpa using hlt), List.filter_nil, List.foldl_cons, List.foldl_nil]

/-! ### The folio cut again -/

/-- The folio as it is cut again: gate codes anew, the source's samples through its gate. -/
def recutFolio (src : Nat) (f : Fol) (s : State) : Fol :=
  putSource src (fun j => smp f.raw src j) (gateCodes s { f with gcode := [], silent := [] })

/-- What a recut does once the gates stand. -/
def recutTasks (n src : Nat) (g : Fol) (s : State) : State :=
  (s.readers g [src]).foldl (fun s k => redispatch n k s) s

theorem recut_eq {n : Nat} {f : Fol} (hf : s.fol? n = some f) (src : Nat) : recut n src s =
    recutTasks n src (recutFolio src f (stepGates (restoreGates n f.gates0 f.binds0 s)))
      (advanceGates ((stepGates (restoreGates n f.gates0 f.binds0 s)).setFol
        (recutFolio src f (stepGates (restoreGates n f.gates0 f.binds0 s))))) := by
  unfold recut
  rw [hf]
  rfl

theorem fol?_advanceGates (s : State) (n : Nat) : (advanceGates s).fol? n = s.fol? n := rfl

theorem recutTasks_keeps (n src : Nat) (g : Fol) (s : State) :
    (recutTasks n src g s).ldg = s.ldg ∧ SameFols Fol.src s (recutTasks n src g s) :=
  ⟨(within_foldl (m := { mem := true, free := true, pst := true, tel := true }) (Within.refl _ s) fun _ k ht =>
      within_redispatch rfl rfl rfl rfl n k ht).ldg_eq rfl,
    List.foldlRecOn (motive := SameFols Fol.src s) _ _ (fun _ => rfl) fun _ ht k _ =>
      sameFols_redispatch (fun _ _ => rfl) n k ht⟩

/-- The codes of one gate, by sample. -/
theorem aget_gateCodes {src : Nat} {g : Gate} (hgates : s.ldg.gates = [(src, g)]) (f : Fol) {j : Nat} (hj : j < 8) :
    aget (gateCodes s f).gcode 0xF400 (8 * src + j) = g.codeAfter (g.done + j + 1) := by
  have hcodes : (gateCodes s f).gcode = (List.range 8).foldl
      (fun l j => aput l 0xF400 (8 * src + j) (g.codeAfter (g.done + j + 1))) f.gcode := by
    rw [gateCodes, hgates]
    rfl
  have hfold : ∀ n, j < n → aget ((List.range n).foldl
      (fun l j => aput l 0xF400 (8 * src + j) (g.codeAfter (g.done + j + 1))) f.gcode) 0xF400 (8 * src + j) =
        g.codeAfter (g.done + j + 1) := by
    intro n
    induction n with
    | zero => simp
    | succ n ih =>
      intro hn
      rw [List.range_succ, List.foldl_append, List.foldl_cons, List.foldl_nil, aget_aput]
      by_cases hjn : j = n
      · rw [hjn, if_pos rfl]
      · rw [if_neg (by omega), ih (by omega)]
  rw [hcodes, hfold 8 hj]

theorem gateCodes_src (f : Fol) : (gateCodes s f).src = f.src := by
  unfold gateCodes
  exact List.foldlRecOn (motive := fun g : Fol => g.src = f.src) _ _ rfl fun _ h _ _ => h

theorem n_recutFolio (src : Nat) (f : Fol) : (recutFolio src f s).n = f.n := by
  have h : (gateCodes s { f with gcode := [], silent := [] }).n = f.n := by
    unfold gateCodes
    exact List.foldlRecOn (motive := fun g : Fol => g.n = f.n) _ _ rfl fun _ h _ _ => h
  exact h

/-- The source's samples through its gate, and the samples of the other sources. -/
theorem smp_recutFolio {src : Nat} {g : Gate} (hgates : s.ldg.gates = [(src, g)]) (f : Fol) (x : Nat) {j : Nat} (hj : j < 8) :
    smp (recutFolio src f s).src x j = if x = src then
      wdi (scale22 (smp f.raw src j).toInt (coef (g.codeAfter (g.done + j + 1)))) else smp f.src x j := by
  have hsrc : (recutFolio src f s).src = setSmps (gateCodes s { f with gcode := [], silent := [] }).src src
      (fun j => gated (gateCodes s { f with gcode := [], silent := [] }) src j (smp f.raw src j)) := rfl
  rw [hsrc, smp_setSmps _ _ hj, gateCodes_src, gated, aget_gateCodes hgates _ hj]

/-! ### The re-point in a pause -/

/-- The gate that begins to fall. -/
def fallingGate (r : Repoint) : Gate := ⟨.down, 0xF400, r.len, 0, r.bind⟩

theorem fallingGate_ne_reset (r : Repoint) : fallingGate r ≠ Gate.reset := by
  intro h
  cases congrArg Gate.phase h

theorem repointGate_nil {r : Repoint} (hgates : s.ldg.gates = []) : repointGate r s = setGate r.src (fallingGate r) s := by
  have hgate : s.gate r.src = Gate.reset := by rw [State.gate, hgates]; rfl
  rw [repointGate_eq, hgate]
  rfl

/-- The gates at the second cut: the source's gate falls from the folio's first sample. -/
theorem recutGates_falling {n m : Nat} {r : Repoint} (hgates : s.ldg.gates = [(r.src, fallingGate r)])
    (hrep : s.ldg.repoints = [(m, r)]) (hlt : n < m) (hlen : 0 < r.len) :
    (stepGates (restoreGates n [] [] s)).ldg.gates = [(r.src, fallingGate r)] := by
  have hclear : (setGate r.src Gate.reset s).ldg.gates = [] := by
    rw [ldg_setGate, hgates]
    simp [aput, adel]
  have hgates' := gates_setGate_nil (src := r.src) hclear (fallingGate_ne_reset r)
  rw [restoreGates_one hgates hrep hlt, repointGate_nil hclear, stepGates_falling hgates' rfl hlen]
  rw [ldg_setGate, hgates']
  simp [aput, adel, ainsert, fallingGate_ne_reset]

/-- The folio cut again with its source's gate falling: what it shows, and the gate once its samples are applied. -/
theorem recut_falling {f : Fol} {m : Nat} {r : Repoint} (hf : s.fol? f.n = some f) (hgates0 : f.gates0 = [])
    (hbinds0 : f.binds0 = []) (hgates : s.ldg.gates = [(r.src, fallingGate r)]) (hrep : s.ldg.repoints = [(m, r)])
    (hlt : f.n < m) (hlen : 0 < r.len) :
    ∃ f', (recut f.n r.src s).fol? f.n = some f' ∧
      (recut f.n r.src s).gate r.src = { fallingGate r with done := 8 } ∧
      ∀ x j, j < 8 → smp f'.src x j = if x = r.src then
        wdi (scale22 (smp f.raw r.src j).toInt (coef (rampCode 0xF400 0 (j + 1) r.len))) else smp f.src x j := by
  have hrecut := recut_eq hf r.src
  rw [hgates0, hbinds0] at hrecut
  have hwg := recutGates_falling hgates hrep hlt hlen
  have hwpst : (stepGates (restoreGates f.n [] [] s)).pst = s.pst :=
    (within_stepGates (m := { ldg := true, regs := true }) rfl rfl
      (within_restoreGates rfl rfl f.n [] [] (Within.refl _ s))).pst_eq rfl
  generalize stepGates (restoreGates f.n [] [] s) = w at hrecut hwg hwpst
  have hwf : w.fol? (recutFolio r.src f w).n = some f := by
    rw [n_recutFolio, State.fol?, hwpst]
    exact hf
  have hfol := fol?_setFol_same hwf
  rw [n_recutFolio, ← fol?_advanceGates] at hfol
  obtain ⟨hldg, hsame⟩ := recutTasks_keeps f.n r.src (recutFolio r.src f w) (advanceGates (w.setFol (recutFolio r.src f w)))
  obtain ⟨f', hf', hsrc⟩ := hsame.fol? hfol
  rw [hrecut]
  refine ⟨f', hf', ?_, fun x j hj => ?_⟩
  · have hadv : (advanceGates (w.setFol (recutFolio r.src f w))).ldg.gates =
        w.ldg.gates.map (fun e => (e.1, { e.2 with done := e.2.done + 8 })) := rfl
    rw [State.gate, hldg, hadv, hwg]
    simp [aget, fallingGate]
  · have hcode : (fallingGate r).codeAfter ((fallingGate r).done + j + 1) = rampCode 0xF400 0 (j + 1) r.len := by
      rw [fallingGate, Gate.codeAfter]
      dsimp only
      rw [Nat.zero_add]
    rw [hsrc, smp_recutFolio hwg f x hj, hcode]

/-- The first re-point: its source's gate begins to fall, and it is noted for the folios to be cut. -/
theorem repointOp_first {v : Word} (hok : bindOk s.isA (fld v 15 0) = true) (hgates : s.ldg.gates = [])
    (hrep : s.ldg.repoints = []) :
    (repointOp v s).ldg.gates = [((s.repointOf v).src, fallingGate (s.repointOf v))] ∧
      (repointOp v s).ldg.repoints = [(s.pst.next, s.repointOf v)] := by
  have hgate : s.gate (s.repointOf v).src = Gate.reset := by rw [State.gate, hgates]; rfl
  rw [repointOp_good hok, ldg_setGate, notedRepoint, setLdg_ldg]
  dsimp only
  rw [hgate, hgates, hrep]
  exact ⟨aput_nil _ (fallingGate_ne_reset _), rfl⟩

theorem repointWriteOp_paused {v : Word} {f : Fol} (hok : bindOk s.isA (fld v 15 0) = true) (hpaused : s.pst.paused = true)
    (hfols : s.pst.fols = [f]) (hslot : f.slot = false) :
    repointWriteOp v s = recut f.n (s.repointOf v).src (repointOp v s) := by
  have hw : Within { ldg := true, regs := true } s (repointOp v s) := within_repointOp rfl rfl v (Within.refl _ s)
  have hisA : (repointOp v s).isA = s.isA := congrArg (fun x : Fuse => x.variant == 1) (hw.fuse_eq rfl)
  have hfind : s.pst.fols.find? (fun f => !f.slot) = some f := by simp [hfols, hslot]
  unfold repointWriteOp
  dsimp only
  rw [hw.pst_eq rfl, hfind]
  dsimp only
  rw [hpaused, hisA, hok]
  rfl

theorem repoint_recuts (hl : s.hostLive = true) (hpow : s.powered Reg.LDG_REPTB = true) {v : Word} {f : Fol}
    (hok : bindOk s.isA (fld v 15 0) = true) (hlen : 0 < (s.repointOf v).len) (hpaused : s.pst.paused = true)
    (hfols : s.pst.fols = [f]) (hslot : f.slot = false) (hnext : f.n < s.pst.next) (hgates0 : f.gates0 = [])
    (hbinds0 : f.binds0 = []) (hgates : s.ldg.gates = []) (hrep : s.ldg.repoints = []) :
    ∃ t f', exec (.repoint v) s = .next t ∧ t.fol? f.n = some f' ∧
      t.gate (s.repointOf v).src = { fallingGate (s.repointOf v) with done := 8 } ∧
      ∀ x j, j < 8 → smp f'.src x j = if x = (s.repointOf v).src then
        wdi (scale22 (smp f.raw (s.repointOf v).src j).toInt (coef (rampCode 0xF400 0 (j + 1) (s.repointOf v).len)))
        else smp f.src x j := by
  have hop := repointWriteOp_paused hok hpaused hfols hslot
  have hpst : (repointOp v s).pst = s.pst :=
    (within_repointOp (m := { ldg := true, regs := true }) rfl rfl v (Within.refl _ s)).pst_eq rfl
  have hf : (repointOp v s).fol? f.n = some f := by
    rw [State.fol?, hpst]
    exact fol?_single hfols
  obtain ⟨hfalls, hnoted⟩ := repointOp_first hok hgates hrep
  obtain ⟨f', hf', hgate, hsmp⟩ := recut_falling hf hgates0 hbinds0 hfalls hnoted hnext hlen
  exact ⟨_, f', (repoint_runs hl hpow v).trans (congrArg _ hop), hf', hgate, hsmp⟩

end

end Sys2Proof.Machine
end

section
/-! PROOF. Gain changes, ramps, the ramp table and re-points (R163 to R179, R186 to R192, R779, R780): O42, row by row. -/

namespace Sys2Proof.Machine

section
variable {s : State} (hl : s.hostLive = true)
include hl

/-! ### Gain store writes -/

theorem gainStoreWrite_spec {addr : Nat} {codes : List Half} (hon : s.domOn 5 = true) (hlo : 0x20000000 ≤ addr)
    (hhi : addr + 2 * codes.length ≤ 0x20A00000) (hal : addr % 2 = 0) :
    (s.rb Reg.LDG_CTRL 0 = true → s.ldg.waiting = [] → s.ldg.queue.length + codes.length ≤ 4096 →
      exec (.gainStoreWrite addr codes) s = .next ((s.setLdg { s.ldg with
        queue := s.ldg.queue ++ codes.zipIdx.map
          (fun e => ⟨(addr - 0x20000000) / 2 + e.2, e.1.toNat, s.rf Reg.LDG_CTRL 7 4⟩) }).answer .ok [])) ∧
    (s.rb Reg.LDG_CTRL 0 = true → 4096 < s.ldg.queue.length + codes.length →
      ∃ t, exec (.gainStoreWrite addr codes) s = .next t ∧ t.rb Reg.LDG_EVT 2 = true ∧ t.ldg = { s.ldg with
        waiting := s.ldg.waiting ++ [.gain none (beatCodes addr codes)] } ∧ t.ans = ⟨.ok, []⟩ ∧ t.mem = s.mem) ∧
    (s.rb Reg.LDG_CTRL 0 = false → s.ldg.waiting = [] →
      ∃ t, exec (.gainStoreWrite addr codes) s = .next t ∧
        (∀ i c, codes[i]? = some c → t.gain ((addr - 0x20000000) / 2 + i) = c.toNat) ∧
        (∀ a, a < addr ∨ addr + 2 * codes.length ≤ a → t.rdByte a = s.rdByte a) ∧
        (s.pst.cur.isSome = true → ∀ x, t.steadyCode x = s.steadyCode x) ∧
        t.ldg = { s.ldg with was := t.ldg.was } ∧ (s.pst.cur = none → t.ldg = s.ldg) ∧ t.regs = s.regs ∧
        t.ans = ⟨.ok, []⟩) := by
  have hrun := gainStoreWrite_runs hl hon hlo hhi hal
  refine ⟨fun hen hwait hroom => ?_, fun hen hfull => ?_, fun hen hwait => ?_⟩
  · rw [hrun, gainBeat_queues hen hwait hroom]
  · rw [gainBeat_waits hen hfull] at hrun
    exact ⟨_, hrun, rb_evt (s.setLdg _) (by decide) (by decide), evt_ldg _ _ _, rfl, evt_mem _ _ _⟩
  · rw [gainBeat_sets hen hwait] at hrun
    have hset := codesSet_setCodes ((addr - 0x20000000) / 2) codes s
    have hcode : ∀ i c, codes[i]? = some c →
        (setCodes ((addr - 0x20000000) / 2) codes s).gain ((addr - 0x20000000) / 2 + i) = c.toNat :=
      fun i c hi => gain_setCodes _ hi
    have hbyte : ∀ a, a < addr ∨ addr + 2 * codes.length ≤ a →
        (setCodes ((addr - 0x20000000) / 2) codes s).rdByte a = s.rdByte a := fun a ha => rdByte_setCodes _ _ (by omega)
    generalize setCodes ((addr - 0x20000000) / 2) codes s = u at hrun hset hcode hbyte
    exact ⟨_, hrun, hcode, hbyte, hset.steady, hset.ldg, hset.idle, hset.within.regs_eq fun _ => rfl, rfl⟩

/-! ### Beats that wait -/

theorem waitingGain_spec {cs : List (Nat × Nat)} {l : List LdgBeat} (hwait : s.ldg.waiting = .gain none cs :: l) :
    (s.rb Reg.LDG_CTRL 0 = true → s.ldg.queue.length + cs.length ≤ 4096 →
      ∃ t, exec .waitingBeat s = .next t ∧ t.ldg = { s.ldg with
        waiting := l
        queue := s.ldg.queue ++ cs.map (fun e => ⟨e.1, e.2, s.rf Reg.LDG_CTRL 7 4⟩) } ∧ t.mem = s.mem ∧
        (l = [] → t.regs = s.regs) ∧
        ∀ b m, l = b :: m → (t.beatFits b = true → t.regs = s.regs) ∧
          (t.beatFits b = false → t.rb Reg.LDG_EVT 2 = true)) ∧
    (s.rb Reg.LDG_CTRL 0 = true → 4096 < s.ldg.queue.length + cs.length → exec .waitingBeat s = .next s) := by
  refine ⟨fun hen hroom => ?_, fun hen hfull => ?_⟩
  · set p : Ldg := { s.ldg with
      waiting := l
      queue := s.ldg.queue ++ cs.map (fun e => ⟨e.1, e.2, s.rf Reg.LDG_CTRL 7 4⟩) } with hp
    have hop : waitingBeatOp s = headWaits (s.setLdg p) := by
      rw [waitingBeatOp_performs hwait (beatFits_room none hroom), performBeat,
        performGain_queues (s := s.setLdg { s.ldg with waiting := l }) hen]
      rfl
    obtain ⟨hw, hfits⟩ := headWaits_keeps (s.setLdg p)
    refine ⟨_, (hostDo_live hl _).trans (congrArg _ hop), hw.ldg_eq rfl, hw.mem_eq rfl, fun hnone => ?_, fun b m hnext =>
      ⟨fun hfit => ?_, fun hnot => ?_⟩⟩
    · rw [headWaits_none (s := s.setLdg p) hnone, setLdg_regs]
    · rw [hfits] at hfit
      rw [headWaits_fits (s := s.setLdg p) hnext hfit, setLdg_regs]
    · rw [hfits] at hnot
      rw [headWaits_full (s := s.setLdg p) hnext hnot]
      exact rb_evt (s.setLdg p) (by decide) (by decide)
  · exact (hostDo_live hl _).trans (congrArg _ (waitingBeatOp_waits hwait (beatFits_full hen none hfull)))

theorem waitingRamp_ignored {ws : List (Nat × Word)} {l : List LdgBeat} (hwait : s.ldg.waiting = .ramp ws :: l)
    (hen : s.rb Reg.LDG_CTRL 0 = true) : ∃ t, exec .waitingBeat s = .next t ∧ t.ldg = { s.ldg with waiting := l } ∧
      t.rb Reg.LDG_EVT 4 = true ∧ t.mem = s.mem := by
  have hop : waitingBeatOp s = headWaits ((s.setLdg { s.ldg with waiting := l }).evt Reg.LDG_EVT 4) := by
    rw [waitingBeatOp_performs hwait rfl, performBeat, performRamp_ignored (s := s.setLdg { s.ldg with waiting := l }) hen]
  obtain ⟨hw, -⟩ := headWaits_keeps ((s.setLdg { s.ldg with waiting := l }).evt Reg.LDG_EVT 4)
  exact ⟨_, (hostDo_live hl _).trans (congrArg _ hop), (hw.ldg_eq rfl).trans (evt_ldg _ _ _),
    rb_headWaits_of_rb (rb_evt (s.setLdg _) (by decide) (by decide)), (hw.mem_eq rfl).trans (evt_mem _ _ _)⟩

/-! ### LDG_CHGV -/

theorem chgvWrite_spec (hon : s.domOn 5 = true) (v : Word) :
    (xpCount ≤ s.rf Reg.LDG_CHGX 22 0 → ∃ t, exec (.chgvWrite v) s = .next t ∧ t.rb Reg.LDG_EVT 9 = true ∧
      t.ldg = s.ldg ∧ t.mem = s.mem) ∧
    (s.rf Reg.LDG_CHGX 22 0 < xpCount → s.rb Reg.LDG_CTRL 0 = true → s.ldg.queue.length < 4096 →
      exec (.chgvWrite v) s = .next ((s.setLdg { s.ldg with
        queue := s.ldg.queue ++ [⟨s.rf Reg.LDG_CHGX 22 0, fld v 15 0, fld v 19 16⟩] }).answer .ok [])) ∧
    (s.rf Reg.LDG_CHGX 22 0 < xpCount → s.rb Reg.LDG_CTRL 0 = true → 4096 ≤ s.ldg.queue.length →
      ∃ t, exec (.chgvWrite v) s = .next t ∧ t.rb Reg.LDG_EVT 10 = true ∧ t.ans = ⟨.err, []⟩ ∧ t.ldg = s.ldg ∧
        t.mem = s.mem) ∧
    (s.rf Reg.LDG_CHGX 22 0 < xpCount → s.rb Reg.LDG_CTRL 0 = false →
      ∃ t, exec (.chgvWrite v) s = .next t ∧ t.gain (s.rf Reg.LDG_CHGX 22 0) = fld v 15 0 ∧
        (∀ x, x ≠ s.rf Reg.LDG_CHGX 22 0 → t.gain x = s.gain x) ∧
        (s.pst.cur.isSome = true → ∀ x, t.steadyCode x = s.steadyCode x) ∧
        t.ldg = { s.ldg with was := t.ldg.was } ∧ (s.pst.cur = none → t.ldg = s.ldg) ∧ t.regs = s.regs) := by
  have hrun : exec (.chgvWrite v) s = .next (chgvWriteOp v s) := hostDo_live hl _
  rw [chgvWriteOp_cases hon] at hrun
  refine ⟨fun hbad => ?_, fun hx hen hroom => ?_, fun hx hen hfull => ?_, fun hx hen => ?_⟩
  · rw [if_pos hbad] at hrun
    exact ⟨_, hrun, rb_evt s (by decide) (by decide), evt_ldg _ _ _, evt_mem _ _ _⟩
  · rw [hrun, if_neg (Nat.not_le.mpr hx), if_pos hen, if_neg (Nat.not_le.mpr hroom)]
  · rw [if_neg (Nat.not_le.mpr hx), if_pos hen, if_pos hfull] at hrun
    exact ⟨_, hrun, rb_evt s (by decide) (by decide), rfl, evt_ldg _ _ _, evt_mem _ _ _⟩
  · rw [if_neg (Nat.not_le.mpr hx), hen, if_neg Bool.false_ne_true] at hrun
    have hset := (CodesSet.refl s).setCode (s.rf Reg.LDG_CHGX 22 0) (fld v 15 0)
    have hcode := (gain_setCode_same (s.rf Reg.LDG_CHGX 22 0) (fld v 15 0) s).trans (Nat.mod_eq_of_lt (fld_lt v 15 0))
    have hothers : ∀ x, x ≠ s.rf Reg.LDG_CHGX 22 0 →
        (setCode (s.rf Reg.LDG_CHGX 22 0) (fld v 15 0) s).gain x = s.gain x := fun x hne => gain_setCode_ne _ hne
    generalize setCode (s.rf Reg.LDG_CHGX 22 0) (fld v 15 0) s = u at hrun hset hcode hothers
    exact ⟨_, hrun, hcode, hothers, hset.steady, hset.ldg, hset.idle, hset.within.regs_eq fun _ => rfl⟩

/-! ### The ramp table -/

theorem rampTableWrite_spec {addr : Nat} {ws : List Word} (hon : s.domOn 5 = true) (hlo : 0x21000000 ≤ addr)
    (hhi : addr + 4 * ws.length ≤ 0x21100000) (hal : addr % 4 = 0) (hwait : s.ldg.waiting = []) :
    (s.rb Reg.LDG_CTRL 0 = true → ∃ t, exec (.rampTableWrite addr ws) s = .next t ∧ t.rb Reg.LDG_EVT 4 = true ∧
      t.mem = s.mem ∧ t.ldg = s.ldg) ∧
    (s.rb Reg.LDG_CTRL 0 = false → ∃ t, exec (.rampTableWrite addr ws) s = .next t ∧
      (∀ i w, ws[i]? = some w → t.rdWord (addr + 4 * i) = w ∧ (addr - 0x21000000) / 4 + i ∈ t.ldg.touched) ∧
      (∀ a, a < addr ∨ addr + 4 * ws.length ≤ a → t.rdByte a = s.rdByte a) ∧ t.regs = s.regs) := by
  have hrun := rampTableWrite_runs hl hon hlo hhi hal hwait
  refine ⟨fun hen => ?_, fun hen => ?_⟩
  · rw [performRamp_ignored hen] at hrun
    exact ⟨_, hrun, rb_evt s (by decide) (by decide), evt_mem _ _ _, evt_ldg _ _ _⟩
  · rw [performRamp_writes hen] at hrun
    have hword : ∀ i w, ws[i]? = some w → (tableWords addr ws s).rdWord (addr + 4 * i) = w ∧
        (addr - 0x21000000) / 4 + i ∈ (tableWords addr ws s).ldg.touched := fun i w hi => by
      have hnum : (addr - 0x21000000) / 4 + i = (addr + 4 * i - 0x21000000) / 4 := by omega
      rw [hnum]
      exact ⟨rdWord_tableWords addr hi, touched_tableWords addr hi⟩
    have hbyte : ∀ a, a < addr ∨ addr + 4 * ws.length ≤ a → (tableWords addr ws s).rdByte a = s.rdByte a :=
      fun a ha => rdByte_tableWords addr ws ha
    have hregs := regs_tableWords (s := s) addr ws
    generalize tableWords addr ws s = u at hrun hword hbyte hregs
    exact ⟨_, hrun, hword, hbyte, hregs⟩

/-! ### Re-points -/

theorem repoint_starts (hpow : s.powered Reg.LDG_REPTB = true) {v : Word}
    (hpost : s.pst.paused = false ∨ ∀ f ∈ s.pst.fols, f.slot = true) (hok : bindOk s.isA (fld v 15 0) = true) :
    ∃ t, exec (.repoint v) s = .next t ∧ t.rb (Reg.LDG_BIND (s.repointOf v).src) 31 = true ∧
      t.bind (s.repointOf v).src = s.bind (s.repointOf v).src ∧
      t.gate (s.repointOf v).src = (s.gate (s.repointOf v).src).repointed (s.repointOf v) ∧
      (∀ src, src ≠ (s.repointOf v).src → t.gate src = s.gate src) ∧ t.mem = s.mem := by
  have hop := (repointWriteOp_posted v hpost).trans (repointOp_good hok)
  have hrun := (repoint_runs hl hpow v).trans (congrArg _ hop)
  obtain ⟨hgate, hbind, hmem⟩ := notedRepoint_keeps (s.repointOf v) s
  obtain ⟨hphase, -⟩ := repointed_pends (s.gate (s.repointOf v).src) (s.repointOf v)
  generalize (s.gate (s.repointOf v).src).repointed (s.repointOf v) = g at hrun hphase
  generalize notedRepoint (s.repointOf v) s = u at hrun hgate hbind hmem
  exact ⟨_, hrun, rb_setGate_pends _ hphase u, (bind_setGate _ g u).trans (hbind _), gate_setGate_same _ g u,
    fun src hne => (gate_setGate_ne g hne).trans (hgate src), (mem_setGate _ g u).trans hmem⟩

end

/-- Settles O42, row by row. -/
theorem gainChanges : Obligations.GainChanges := by
  intro s hl
  refine ⟨fun addr codes hon hlo hhi hal => gainStoreWrite_spec hl hon hlo hhi hal,
    fun addr codes hbad => gainStoreWrite_refused hl hbad, fun cs l hwait => waitingGain_spec hl hwait,
    fun ws l hwait hen => waitingRamp_ignored hl hwait hen, fun v hon => chgvWrite_spec hl hon v,
    fun c l hq hramps hfresh hheld => ⟨fun hne hhold => changeAccept_takes hq hramps hfresh hheld hl hne hhold,
      fun hne hhold => changeAccept_takes hq hramps hfresh hheld hl hne hhold,
      fun hsame => changeAccept_drops hq hramps hfresh hheld hl hsame⟩,
    fun v hpow => ?_, fun v hpow => ?_,
    fun addr ws hon hlo hhi hal hwait => rampTableWrite_spec hl hon hlo hhi hal hwait,
    fun v hpow hpost => ⟨fun hbad => ?_, fun hok => ?_⟩, ?_⟩
  · obtain ⟨t, ht, hreg, hmem, hldg⟩ := holdWrite_writes hl hpow v
    refine ⟨t, ht, hreg, hmem, fun hhold => ?_, fun hrel => ?_⟩
    · rw [hldg, hhold]
      rfl
    · rw [hrel] at hldg
      have hheld := hldg.trans (if_neg Bool.false_ne_true)
      rw [hheld]
      exact ⟨rfl, rfl, rfl, releaseHeld_none, fun k r hfresh hone hr => fresh_releaseHeld_single hfresh hone hr⟩
  · obtain ⟨hans, -, hldg, hmem⟩ := refused_keeps Reg.LDG_CTRL 3 s
    exact ⟨_, (hostDo_live hl _).trans (congrArg _ (regRow_unpowered hpow _)), hans, hldg, hmem⟩
  · exact ⟨_, (repoint_runs hl hpow v).trans (congrArg _ (repointWriteOp_bad hbad)), rb_evt s (by decide) (by decide),
      evt_ldg _ _ _, evt_mem _ _ _⟩
  · obtain ⟨t, ht, hbit, hbind, hgate, hothers, hmem⟩ := repoint_starts hl hpow hpost hok
    refine ⟨t, ht, hbit, hbind, ?_, fun hphase => ?_, fun hphase => ?_, hothers, hmem⟩
    · obtain ⟨-, hnew⟩ := repointed_pends (s.gate (s.repointOf v).src) (s.repointOf v)
      exact (congrArg Gate.bind hgate).trans hnew
    · exact hgate.trans (repointed_normal hphase _)
    · exact hgate.trans (repointed_falling hphase _)
  · rintro v f src len hpow hok rfl rfl hlen hpaused hfols hslot hnext hgates0 hbinds0 hgates hrep
    obtain ⟨t, f', ht, hf', hgate, hsmp⟩ :=
      repoint_recuts hl hpow hok hlen hpaused hfols hslot hnext hgates0 hbinds0 hgates hrep
    exact ⟨t, f', ht, hf', hgate, fun j hj => (hsmp _ j hj).trans (if_pos rfl),
      fun x j hx hj => (hsmp x j hj).trans (if_neg hx)⟩

end Sys2Proof.Machine
end

section
/-! PROOF. The brace state and PWR_SUP (R722, R723): O16 fails, at its first clause. -/

namespace Sys2Proof.Machine

/-- A BRACE_STATE row latches its supplies in PWR_SUP[21:16] and gives WARN, PWR_SUP[5:0], its mask: what WARN showed
before is replaced (log entry 161). -/
theorem braceState_supplies {s : State} {m : Nat} (hl : s.hostLive = true) (hm : m % 64 ≠ 0) :
    ∃ t, exec (.braceState m) s = .next t ∧
      t.reg Reg.PWR_SUP = putFld (s.reg Reg.PWR_SUP ||| wd (m % 64 * 65536)) 5 0 m := by
  refine ⟨_, (hostDo_live hl _ : exec (.braceState m) s = .next (braceStateOp m s)), ?_⟩
  set u := (s.raise Reg.PWR_SUP (wd (m % 64 * 65536))).setFld Reg.PWR_SUP 5 0 m with hu
  have hsup : u.reg Reg.PWR_SUP = putFld (s.reg Reg.PWR_SUP ||| wd (m % 64 * 65536)) 5 0 m := by
    rw [hu, State.setFld, reg_setReg_same, reg_raise_same]
  have hgo : ¬((!s.hostLive) = true ∨ m % 64 = 0) := by simp [hl, hm]
  rw [braceStateOp, if_neg hgo]
  change (if u.braced = true then u else _).reg Reg.PWR_SUP = _
  split
  · exact hsup
  · rw [reg_count_ne _ _ _ (by decide) (by decide), reg_evt_ne _ (by decide) (by decide)]
    exact hsup

/-- The host die runs outside the brace state, and WARN of PWR_SUP shows supply 0. -/
def warnedState : State :=
  { State.reset with pwr := { Pwr.reset with hold := ⟨false, false, false, false, false⟩ } }.setReg Reg.PWR_SUP 1

/-- Refutes O16: its first clause has the row's mask or-ed to all of PWR_SUP, and WARN is replaced. With WARN showing
supply 0, a row for supply 1 leaves 0x20002 where the clause asks for 0x20003. Brace exits and host resets clear WARN, so
that no run has it set outside the brace state; the clause ranges over every state. -/
theorem not_braceDomainsTemperatures : ¬ Obligations.BraceDomainsTemperatures := by
  rintro ⟨⟨hentry, -⟩, -⟩
  have hl : warnedState.hostLive = true := rfl
  have hm : 2 % 64 ≠ 0 := by decide
  obtain ⟨t, ht, -, -, hclaim, -⟩ := hentry warnedState 2 hl hm rfl
  obtain ⟨u, hu, hsup⟩ := braceState_supplies hl hm
  obtain rfl : t = u := Host.Outcome.next.inj (ht.symm.trans hu)
  have hwarn : warnedState.reg Reg.PWR_SUP = 1 := reg_setReg_same _ _ _
  rw [hsup, hwarn] at hclaim
  exact absurd hclaim (by decide)

end Sys2Proof.Machine
end

section
/-! PROOF. The registers of a Teller (Table 4.3) and the compute slot's common step (R213, R225, R230): what a register reads
after a write, what flags a narrowed result raises, and what a compute operation leaves. -/

namespace Sys2Proof.Machine

/-! ### Registers after a write -/

section
variable (c : Core)

theorem dw_setD (j k : Nat) (v : Word) : (c.setD k v).dw j = if j % 32 = k % 32 then v else c.dw j :=
  aget_aput _ _ _ _ _

theorem aw_setA (j k : Nat) (v : BitVec 80) : (c.setA k v).aw j = if j % 8 = k % 8 then v else c.aw j :=
  aget_aput _ _ _ _ _

theorem dw_mod (n : Nat) : c.dw (n % 32) = c.dw n := by rw [Core.dw, Core.dw, Nat.mod_mod]

/-- Data registers written one after another: nothing else changes. -/
theorem foldl_setD_eq (l : List (Nat × Word)) :
    l.foldl (fun c e => c.setD e.1 e.2) c = { c with d := (l.foldl (fun c e => c.setD e.1 e.2) c).d } := by
  induction l generalizing c with
  | nil => rfl
  | cons e l ih => exact ih (c.setD e.1 e.2)

/-- Accumulators written one after another: nothing else changes. -/
theorem foldl_setA_eq (l : List (Nat × BitVec 80)) :
    l.foldl (fun c e => c.setA e.1 e.2) c = { c with acc := (l.foldl (fun c e => c.setA e.1 e.2) c).acc } := by
  induction l generalizing c with
  | nil => rfl
  | cons e l ih => exact ih (c.setA e.1 e.2)

end

/-! ### Narrowing (R242, R245) -/

theorem toInt_ofInt_eq_iff {w : Nat} (hw : 0 < w) (x : Int) :
    (BitVec.ofInt w x).toInt = x ↔ -2 ^ (w - 1) ≤ x ∧ x < 2 ^ (w - 1) := by
  refine ⟨fun h => ?_, fun ⟨hlo, hhi⟩ => BitVec.toInt_ofInt_eq_self hw hlo hhi⟩
  rw [← h]
  exact ⟨BitVec.le_toInt _, BitVec.toInt_lt⟩

/-- A flag raised unless the result fits. -/
theorem flag_unless {fits : Prop} [Decidable fits] {out : Bool} (flag : Nat) (h : fits ↔ out = false) :
    (if fits then 0 else flag) = if out then flag else 0 := by
  cases out <;> simp [h]

theorem outside32_eq_false_iff {x : Int} : outside32 x = false ↔ -2147483648 ≤ x ∧ x ≤ 2147483647 := by
  rw [outside32, Bool.or_eq_false_iff, decide_eq_false_iff_not, decide_eq_false_iff_not, Int.not_lt, Int.not_lt]

theorem outside80_eq_false_iff {x : Int} :
    outside80 x = false ↔ -604462909807314587353088 ≤ x ∧ x ≤ 604462909807314587353087 := by
  rw [outside80, Bool.or_eq_false_iff, decide_eq_false_iff_not, decide_eq_false_iff_not, Int.not_lt, Int.not_lt]

theorem wrap32_eq (x : Int) : wrap32 x = (wdi x, wv x) :=
  Prod.ext rfl <| flag_unless flagWV <| (toInt_ofInt_eq_iff (by decide) x).trans <| by rw [outside32_eq_false_iff]; omega

theorem wrap80_eq (x : Int) : wrap80 x = (BitVec.ofInt 80 x, av x) :=
  Prod.ext rfl <| flag_unless flagAV <| (toInt_ofInt_eq_iff (by decide) x).trans <| by rw [outside80_eq_false_iff]; omega

/-- A limited value is the value itself where it lies within the limits. -/
theorem clampI_eq_self_iff (lo hi x : Int) : clampI lo hi x = x ↔ lo ≤ x ∧ x ≤ hi := by
  unfold clampI
  split
  · omega
  · split <;> omega

theorem satur32_eq (x : Int) : satur32 x = (wdi (sat32 x), sv x) :=
  Prod.ext rfl <| flag_unless flagSV <| (clampI_eq_self_iff _ _ x).trans outside32_eq_false_iff.symm

theorem satur80_eq (x : Int) : satur80 x = (BitVec.ofInt 80 (clamp80 x), av x) :=
  Prod.ext rfl <| flag_unless flagAV <| (clampI_eq_self_iff _ _ x).trans outside80_eq_false_iff.symm

theorem av_of_fits {x : Int} (hlo : -604462909807314587353088 ≤ x) (hhi : x ≤ 604462909807314587353087) : av x = 0 := by
  rw [av, outside80_eq_false_iff.mpr ⟨hlo, hhi⟩]
  rfl

/-! ### The compute slot -/

/-- The registers of the start of the bundle, kept when its compute slot writes (R230). -/
def Core.keptBefore (c : Core) (w : Writes) : Before :=
  ⟨c.d, c.acc, c.p, c.sr, w.fl, w.d.map (fun e => e.1 % 32) ++ w.p.map (fun e => 32 + e.1 % 4)⟩

section
variable {s : State} {t : Nat} {p : Pred} {i : Instr} {bad vec : Bool} {f : Core → Nat → Writes}

/-- A compute operation in an open slot leaves what it writes. -/
theorem computes_of_writes (hopen : slotOpen s t p) (hi : exec i s = .next (computeOp t p bad vec f s)) (hbad : bad = false)
    {c : Core} (hc : (f (s.core t) (Pred.mask p (s.core t))).apply (s.core t) = c) : computes s i t c := by
  obtain ⟨hissues, hbefore, hpred, hmask⟩ := hopen
  refine ⟨(s.core t).keptBefore (f (s.core t) (Pred.mask p (s.core t))), hi.trans (congrArg _ ?_), rfl, rfl, rfl, rfl⟩
  unfold computeOp
  simp only [hissues, hbefore, hbad, hpred, hmask, hc, Option.isSome_none, Bool.not_true, Bool.false_eq_true, Bool.or_true,
    Bool.or_false, if_false, if_true, setCore_setCore]
  rfl

/-- A bad encoding faults with CAUSE 1 (R228, R243). -/
theorem computeOp_bad (hopen : slotOpen s t p) {r : Run} (hrun : (s.core t).run = some r) (hbad : bad = true) :
    (computeOp t p bad vec f s).rb Reg.TEL_EVT 0 = true ∧ (computeOp t p bad vec f s).rf Reg.TEL_FLT0 15 0 = 1 ∧
      ((computeOp t p bad vec f s).core t).run = none := by
  obtain ⟨hissues, hbefore, -, -⟩ := hopen
  have hfault : computeOp t p bad vec f s = tellerFault t 1 0 (s.setCore t (s.core t)) := by
    unfold computeOp
    simp only [hissues, hbefore, hbad, Option.isSome_none, Bool.not_true, Bool.false_eq_true, Bool.true_or, if_false, if_true]
  have hrun' : ((s.setCore t (s.core t)).core t).run = some r := by rw [setCore_same, hrun]
  obtain ⟨hevt, hcause, -, hnone⟩ := tellerFault_records (a := 0) hrun' (show 1 < 65536 by decide)
  rw [hfault]
  exact ⟨hevt, hcause, hnone⟩

theorem writesD_of_wD (hopen : slotOpen s t p) {d fl : Nat} {v : Word} {g : Core → Word × Nat}
    (hi : exec i s = .next (computeOp t p bad vec (fun c _ => wD d (g c)) s)) (hbad : bad = false)
    (hg : g (s.core t) = (v, fl)) : writesD s i t d v fl :=
  computes_of_writes hopen hi hbad (by rw [hg]; rfl)

theorem writesA_of_wA (hopen : slotOpen s t p) {n fl : Nat} {v : BitVec 80} {g : Core → BitVec 80 × Nat}
    (hi : exec i s = .next (computeOp t p bad vec (fun c _ => wA n (g c)) s)) (hbad : bad = false)
    (hg : g (s.core t) = (v, fl)) : writesA s i t n v fl :=
  computes_of_writes hopen hi hbad (by rw [hg]; rfl)

/-- No flag raised leaves SR. -/
theorem raise_none (sr : Word) : raise sr 0 = sr := by simp [raise, wd]

theorem computes_of_wP (hopen : slotOpen s t p) (hi : exec i s = .next (computeOp t p bad vec f s)) (hbad : bad = false)
    {n : Nat} {v : BitVec 8} (hf : f (s.core t) (Pred.mask p (s.core t)) = wP n v.toNat) :
    computes s i t ((s.core t).setP n v) := by
  refine computes_of_writes hopen hi hbad ?_
  rw [hf]
  change { (s.core t).setP n (BitVec.ofNat 8 v.toNat) with sr := raise (s.core t).sr 0 } = _
  rw [raise_none, BitVec.ofNat_toNat, BitVec.setWidth_eq]
  rfl

/-! ### Operations on the lanes of a vector (R225) -/

/-- Accumulators written one after another. -/
def Core.setLanes (c : Core) (l : List (Nat × BitVec 80)) : Core := l.foldl (fun c e => c.setA e.1 e.2) c

/-- The accumulators of the lanes that execute, written in order. -/
theorem aw_setLanes (c : Core) (live : Nat → Bool) (v : Nat → BitVec 80) {n : Nat} (hn : n ≤ 8) {k : Nat} (hk : k < 8) :
    (c.setLanes (((List.range n).filter live).map fun k => (k, v k))).aw k =
      if k < n ∧ live k = true then v k else c.aw k := by
  unfold Core.setLanes
  induction n with
  | zero => simp
  | succ n ih =>
    rw [List.range_succ, List.filter_append, List.map_append, List.foldl_append, List.filter_singleton]
    cases hlive : live n
    case false =>
      refine (ih (by omega)).trans ?_
      by_cases hkn : k = n
      · simp [hkn, hlive]
      · exact if_congr (and_congr_left' (by omega)) rfl rfl
    case true =>
      refine (aw_setA _ k n (v n)).trans ?_
      rw [Nat.mod_eq_of_lt hk, Nat.mod_eq_of_lt (show n < 8 by omega), ih (by omega)]
      by_cases hkn : k = n
      · simp [hkn, hlive]
      · rw [if_neg hkn]
        exact if_congr (and_congr_left' (by omega)) rfl rfl

/-- An operation that writes the accumulators of the lanes that execute. -/
theorem computes_of_lanes (hopen : slotOpen s t p) (hi : exec i s = .next (computeOp t p bad vec f s)) (hbad : bad = false)
    {live : Nat → Bool} {v : Nat → BitVec 80} {fl : Nat} (hf : f (s.core t) (Pred.mask p (s.core t)) =
      ⟨[], ((List.range 8).filter live).map fun k => (k, v k), [], fl⟩) :
    ∃ c : Core, computes s i t { s.core t with
        acc := c.acc
        sr := (s.core t).sr ||| wd fl } ∧
      ∀ k, k < 8 → c.aw k = if live k then v k else (s.core t).aw k := by
  refine ⟨(s.core t).setLanes (((List.range 8).filter live).map fun k => (k, v k)),
    computes_of_writes hopen hi hbad ?_, fun k hk => ?_⟩
  · rw [hf]
    unfold Writes.apply Core.setLanes
    dsimp only [List.foldl_nil]
    rw [foldl_setA_eq]
    rfl
  · rw [aw_setLanes _ live v (Nat.le_refl 8) hk]
    exact if_congr (and_iff_right hk) rfl rfl

/-- Every lane written, and no flag raised. -/
theorem computes_of_all (hopen : slotOpen s t p) (hi : exec i s = .next (computeOp t p bad vec f s)) (hbad : bad = false)
    {v : Nat → BitVec 80} (hf : f (s.core t) (Pred.mask p (s.core t)) = ⟨[], (List.range 8).map fun k => (k, v k), [], 0⟩) :
    ∃ c : Core, computes s i t { s.core t with acc := c.acc } ∧ ∀ k, k < 8 → c.aw k = v k := by
  obtain ⟨c, hc, hlanes⟩ := computes_of_lanes (live := fun _ => true) (v := v) hopen hi hbad (by rw [hf, List.filter_true])
  have hsr : (s.core t).sr ||| wd 0 = (s.core t).sr := raise_none _
  rw [hsr] at hc
  exact ⟨c, hc, hlanes⟩

/-- The lanes that execute, each with its result and the flags it raises. -/
theorem forN_lanes (live : Nat → Bool) (r : Nat → BitVec 80 × Nat) (hit : Nat → Bool) (flag n : Nat)
    (hr : ∀ k, (r k).2 = if hit k then flag else 0) :
    forN n Writes.none (fun w k => if live k then { w with acc := w.acc ++ [(k, (r k).1)], fl := w.fl ||| (r k).2 } else w) =
      ⟨[], ((List.range n).filter live).map fun k => (k, (r k).1), [],
        if (List.range n).any (fun k => live k && hit k) then flag else 0⟩ := by
  unfold forN
  induction n with
  | zero => rfl
  | succ n ih =>
    rw [List.range_succ, List.foldl_append, ih]
    cases hlive : live n
    case false => simp [hlive]
    case true =>
      have hfl := hr n
      cases hhit : hit n
      case false => simp [hlive, hhit, hfl]
      case true =>
        simp only [List.foldl_cons, List.foldl_nil, hlive, hhit, hfl, if_true, List.filter_append, List.filter_singleton,
          List.map_append, List.any_append, List.any_cons, List.any_nil, Bool.and_self, Bool.or_true, Bool.true_or, cond_true]
        split <;> simp

end

end Sys2Proof.Machine
end

section
/-! PROOF. Compares, predicates, multiplication and accumulators of a Teller (Table 4.9, R242 to R246): O47, operation by
operation. -/

namespace Sys2Proof.Machine

/-! ### The bits of a vector compare (R225) -/

/-- A number built bit by bit from below. -/
theorem sumBits_testBit (b : Nat → Bool) (n : Nat) :
    (List.range n).foldl (fun acc k => acc + (if b k then 2 ^ k else 0)) 0 < 2 ^ n ∧
      ∀ k, ((List.range n).foldl (fun acc k => acc + (if b k then 2 ^ k else 0)) 0).testBit k = (decide (k < n) && b k) := by
  induction n with
  | zero => simp
  | succ n ih =>
    obtain ⟨hlt, hbits⟩ := ih
    rw [List.range_succ, List.foldl_append, List.foldl_cons, List.foldl_nil]
    generalize (List.range n).foldl (fun acc k => acc + (if b k then 2 ^ k else 0)) 0 = x at hlt hbits
    have hpow : (2 : Nat) ^ (n + 1) = 2 * 2 ^ n := by ring
    cases hb : b n
    case false =>
      refine ⟨by simp only [Bool.false_eq_true, if_false]; omega, fun k => ?_⟩
      simp only [Bool.false_eq_true, if_false, Nat.add_zero, hbits]
      rcases Nat.lt_trichotomy k n with hk | rfl | hk
      · simp [hk, Nat.lt_succ_of_lt hk]
      · simp [hb]
      · simp [show ¬k < n by omega, show ¬k < n + 1 by omega]
    case true =>
      refine ⟨by simp only [if_true]; omega, fun k => ?_⟩
      simp only [if_true, Nat.add_comm x]
      rcases Nat.lt_trichotomy k n with hk | rfl | hk
      · rw [Nat.testBit_two_pow_add_gt hk, hbits]
        simp [hk, Nat.lt_succ_of_lt hk]
      · rw [Nat.testBit_two_pow_add_eq, hbits]
        simp [hb]
      · have hsmall : 2 ^ n + x < 2 ^ k := lt_of_lt_of_le (by omega) (Nat.pow_le_pow_right (by decide) hk)
        rw [Nat.testBit_lt_two_pow hsmall]
        simp [show ¬k < n + 1 by omega]

theorem laneBits_testBit (m old : Nat) (f : Nat → Bool) {k : Nat} (hk : k < 8) :
    (laneBits m old f).testBit k = if m.testBit k then f k else old.testBit k := by
  refine ((sumBits_testBit (fun k => if m.testBit k then f k else old.testBit k) 8).2 k).trans ?_
  simp [hk]

/-! ### Products and shifts that fit (R242, R243) -/

theorem dv_bounds (c : Core) (n : Nat) : -2147483648 ≤ c.dv n ∧ c.dv n ≤ 2147483647 := by
  have hlo := BitVec.le_toInt (c.dw n)
  have hhi := BitVec.toInt_lt (x := c.dw n)
  unfold Core.dv
  omega

theorem av_bounds (c : Core) (n : Nat) :
    -604462909807314587353088 ≤ c.av n ∧ c.av n ≤ 604462909807314587353087 := by
  have hlo := BitVec.le_toInt (c.aw n)
  have hhi := BitVec.toInt_lt (x := c.aw n)
  unfold Core.av
  omega

/-- A product of two data registers. -/
theorem product_bounds (c : Core) (a b : Nat) :
    -4611686018427387904 ≤ c.dv a * c.dv b ∧ c.dv a * c.dv b ≤ 4611686018427387904 := by
  obtain ⟨ha, ha'⟩ := dv_bounds c a
  obtain ⟨hb, hb'⟩ := dv_bounds c b
  constructor <;> nlinarith

theorem dot_eq_sum (c : Core) (a b : Nat) :
    c.dot a b = ((List.range 8).map (fun k => c.dv (a + k) * c.dv (b + k))).sum := by
  rw [List.sum_eq_foldl, List.foldl_map]
  rfl

/-- A sum of eight products. -/
theorem dot_bounds (c : Core) (a b : Nat) :
    -36893488147419103232 ≤ c.dot a b ∧ c.dot a b ≤ 36893488147419103232 := by
  rw [dot_eq_sum]
  constructor
  · refine le_trans (by norm_num) (List.card_nsmul_le_sum _ (-4611686018427387904 : Int) fun x hx => ?_)
    obtain ⟨k, -, rfl⟩ := List.mem_map.mp hx
    exact (product_bounds c (a + k) (b + k)).1
  · refine le_trans (List.sum_le_card_nsmul _ (4611686018427387904 : Int) fun x hx => ?_) (by norm_num)
    obtain ⟨k, -, rfl⟩ := List.mem_map.mp hx
    exact (product_bounds c (a + k) (b + k)).2

/-- AMOV's shift, 0 to 47, fits in an accumulator. -/
theorem shifted_fits (c : Core) (n : Nat) {sh : Nat} (h : sh ≤ 47) : av (c.dv n * 2 ^ sh) = 0 := by
  obtain ⟨hlo, hhi⟩ := dv_bounds c n
  have hpos : (1 : Int) ≤ 2 ^ sh := one_le_pow₀ (by decide)
  have hpow : (2 : Int) ^ sh ≤ 2 ^ 47 := pow_le_pow_right₀ (by decide) h
  norm_num at hpow
  exact av_of_fits (by nlinarith) (by nlinarith)

/-- A shift to the right fits. -/
theorem divided_fits (c : Core) (n sh : Nat) : av (c.av n / 2 ^ sh) = 0 := by
  obtain ⟨hlo, hhi⟩ := av_bounds c n
  have hpos : (1 : Int) ≤ 2 ^ sh := one_le_pow₀ (by decide)
  refine av_of_fits ((Int.le_ediv_iff_mul_le (by omega)).mpr (by nlinarith)) (Int.le_of_lt_add_one ?_)
  exact (Int.ediv_lt_iff_lt_mul (by omega)).mpr (by nlinarith)

/-- ASH shifts by its signed field: left, saturating, below 32, and right from 32 on. -/
theorem ash_left (a : Int) {sh : Nat} (h : sh < 32) : ash a (signed 6 sh) = satur80 (a * 2 ^ sh) := by
  have hs : signed 6 sh = sh := by
    unfold signed
    rw [Nat.mod_eq_of_lt (by omega), if_pos (by omega)]
    rfl
  rw [hs, ash, if_pos (Int.natCast_nonneg sh), Int.toNat_natCast]

theorem ash_right (a : Int) {sh : Nat} (h : 32 ≤ sh) (h' : sh < 64) : ash a (signed 6 sh) = wrap80 (a / 2 ^ (64 - sh)) := by
  have hs : signed 6 sh = -((64 - sh : Nat) : Int) := by
    unfold signed
    rw [Nat.mod_eq_of_lt (by omega), if_neg (by omega)]
    simp only [Int.ofNat_eq_natCast]
    omega
  rw [hs, ash, if_neg (by omega), Int.neg_neg, Int.toNat_natCast]

theorem rhu_of_ne {sh : Nat} (h : sh ≠ 0) (x : Int) : rhu x sh = (x + 2 ^ (sh - 1)) / 2 ^ sh := if_neg h

/-! ### Each kind of operation -/

section
variable {s : State} {t : Nat} {p : Pred} {i : Instr}

theorem cmp_writes (hopen : slotOpen s t p) {o : FmtCR3} {r : Int → Int → Bool} (hi : exec i s = .next (cmpOp t p o r s))
    (hd : o.d < 4) : computes s i t ((s.core t).setP o.d (if r ((s.core t).dv o.a) ((s.core t).dv o.b) then 0xFF else 0)) := by
  refine computes_of_wP hopen hi (by simp [isPred, hd]) ?_
  cases r ((s.core t).dv o.a) ((s.core t).dv o.b) <;> rfl

theorem plog_writes (hopen : slotOpen s t p) {o : FmtCR3} (hd : o.d < 4) (ha : o.a < 4) (hb : o.b < 4) {n : Nat}
    (hs : o.s = n) (hn : n < 4) :
    computes s (.plog t p o) t ((s.core t).setP o.d (plog n ((s.core t).pw o.a) ((s.core t).pw o.b))) := by
  subst hs
  exact computes_of_wP hopen rfl (by simp [isPred, hd, ha, hb, hn]) rfl

theorem vcmp_writes (hopen : slotOpen s t p) {o : FmtCR3} {r : Int → Int → Bool} (hi : exec i s = .next (vcmpOp t p o r s))
    (hd : o.d < 4) (ha : o.a % 8 = 0) (hb : o.b % 8 = 0) :
    ∃ v : BitVec 8, computes s i t ((s.core t).setP o.d v) ∧ ∀ k, k < 8 → v.getLsbD k =
      if (Pred.mask p (s.core t)).testBit k then r ((s.core t).dv (o.a + k)) ((s.core t).dv (o.b + k))
      else ((s.core t).pw o.d).getLsbD k := by
  have ⟨_, _, _, hmask⟩ := hopen
  have hm : Pred.mask p (s.core t) ≠ 0 := fun h => by simp [h] at hmask
  set bits := laneBits (Pred.mask p (s.core t)) ((s.core t).pw o.d).toNat
    (fun k => r ((s.core t).dv (o.a + k)) ((s.core t).dv (o.b + k))) with hbits
  refine ⟨BitVec.ofNat 8 bits, computes_of_wP hopen hi (by simp [isPred, isVec, hd, ha, hb]) ?_, fun k hk => ?_⟩
  · rw [if_neg hm, ← hbits, wP, wP, BitVec.ofNat_toNat, BitVec.setWidth_eq]
  · rw [BitVec.getLsbD_ofNat, hbits, laneBits_testBit _ _ _ hk, decide_eq_true hk, Bool.true_and]
    rfl

theorem mul_writes (hopen : slotOpen s t p) {o : FmtCM} {f : Int → Int → BitVec 80 × Nat}
    (hi : exec i s = .next (mulOp t p o f s)) (hz : o.z = 0) {v : BitVec 80} {fl : Nat}
    (hf : f ((s.core t).av o.acc) ((s.core t).dv o.a * (s.core t).dv o.b) = (v, fl)) : writesA s i t o.acc v fl :=
  writesA_of_wA hopen hi (by simp [hz]) hf

theorem dot_writes (hopen : slotOpen s t p) {o : FmtCM} {f : Int → Int → BitVec 80 × Nat}
    (hi : exec i s = .next (dotOp t p o f s)) (hz : o.z = 0) (ha : o.a % 8 = 0) (hb : o.b % 8 = 0) {v : BitVec 80} {fl : Nat}
    (hf : f ((s.core t).av o.acc) ((s.core t).dot o.a o.b) = (v, fl)) : writesA s i t o.acc v fl :=
  writesA_of_wA hopen hi (by simp [hz, isVec, ha, hb]) hf

theorem accToData_writes (hopen : slotOpen s t p) {o : FmtCN} {f : Int → Word × Nat}
    (hi : exec i s = .next (accToData t p o f s)) (hz : o.z = 0) {v : Word} {fl : Nat}
    (hf : f ((s.core t).av o.acc) = (v, fl)) : writesD s i t o.d v fl :=
  writesD_of_wD hopen hi (by simp [hz]) hf

/-- RND and RNDW of an accumulator whose rounded value is `r`. -/
theorem round_writes (hopen : slotOpen s t p) {o : FmtCN} (hz : o.z = 0) {r : Int}
    (hr : rhu ((s.core t).av o.acc) (o.sh % 64) = r) :
    writesD s (.rnd t p o) t o.d (wdi (sat32 r)) (sv r) ∧ writesD s (.rndw t p o) t o.d (wdi r) (wv r) :=
  ⟨accToData_writes hopen rfl hz ((congrArg satur32 hr).trans (satur32_eq r)),
    accToData_writes hopen rfl hz ((congrArg wrap32 hr).trans (wrap32_eq r))⟩

/-- ACLR of all accumulators. -/
theorem clearAll_writes (hopen : slotOpen s t p) {o : FmtCN} (hz : o.z = 0) (hd : o.d = 1) :
    ∃ c, computes s (.aclr t p o) t { s.core t with acc := c } ∧ ∀ n, aget c 0 (n % 8) = 0 := by
  obtain ⟨c, hc, hlanes⟩ := computes_of_all (v := fun _ => 0) hopen (rfl : exec (.aclr t p o) s = _)
    (by simp [hz, hd]) (by simp [hd])
  refine ⟨c.acc, hc, fun n => ?_⟩
  have hlane := hlanes (n % 8) (Nat.mod_lt n (by decide))
  rwa [Core.aw, Nat.mod_mod] at hlane

end

/-- Settles O47, operation by operation. -/
theorem tellerPredicatesAndAccumulators : Obligations.TellerPredicatesAndAccumulators := by
  intro s t p hopen
  refine ⟨fun o hd => ⟨?_, ?_, ?_, fun ha hb => ⟨fun hs => plog_writes hopen hd ha hb hs (by decide),
      fun hs => plog_writes hopen hd ha hb hs (by decide), fun hs => plog_writes hopen hd ha hb hs (by decide),
      fun hs => plog_writes hopen hd ha hb hs (by decide)⟩, fun ha hb i r hir => ?_⟩,
    fun o x y z hz hx hy hz' => ?_, fun o x y hz ha hb hx hy => ?_,
    fun o r hz => ⟨fun hsh hr => ?_, fun hsh hne hr => ?_, fun hsh hr => ?_, fun hsh => ?_, fun hd hr => ?_, fun hsh hr => ?_,
      fun hsh hsh' => ?_, fun hd => ?_, fun hd => clearAll_writes hopen hz hd⟩, fun o hz hrun => ?_⟩
  · simpa using cmp_writes hopen (r := fun a b => decide (a = b)) (rfl : exec (.cmpeq t p o) s = _) hd
  · simpa using cmp_writes hopen (r := fun a b => decide (a < b)) (rfl : exec (.cmplt t p o) s = _) hd
  · simpa using cmp_writes hopen (r := fun a b => decide (a ≤ b)) (rfl : exec (.cmple t p o) s = _) hd
  · obtain ⟨rfl, rfl⟩ | ⟨rfl, rfl⟩ | ⟨rfl, rfl⟩ := hir
    · exact vcmp_writes hopen (rfl : exec (.vcmpeq t p o) s = _) hd ha hb
    · exact vcmp_writes hopen (rfl : exec (.vcmplt t p o) s = _) hd ha hb
    · exact vcmp_writes hopen (rfl : exec (.vcmple t p o) s = _) hd ha hb
  · subst hx hy hz'
    obtain ⟨hlo, hhi⟩ := product_bounds (s.core t) o.a o.b
    have hfits : av ((s.core t).dv o.a * (s.core t).dv o.b) = 0 := av_of_fits (by omega) (by omega)
    refine ⟨mul_writes hopen rfl hz ?_, mul_writes hopen rfl hz (wrap80_eq _), mul_writes hopen rfl hz (satur80_eq _),
      mul_writes hopen rfl hz (wrap80_eq _), mul_writes hopen rfl hz (satur80_eq _)⟩
    rw [wrap80_eq, hfits]
  · rw [← dot_eq_sum] at hx
    subst hx hy
    obtain ⟨hlo, hhi⟩ := dot_bounds (s.core t) o.a o.b
    have hfits : av ((s.core t).dot o.a o.b) = 0 := av_of_fits (by omega) (by omega)
    refine ⟨dot_writes hopen rfl hz ha hb ?_, dot_writes hopen rfl hz ha hb (wrap80_eq _),
      dot_writes hopen rfl hz ha hb (satur80_eq _)⟩
    rw [wrap80_eq, hfits]
  · subst hr
    refine accToData_writes hopen rfl hz ?_
    rw [Nat.mod_eq_of_lt hsh, satur32_eq]
  · refine round_writes hopen hz ?_
    rw [Nat.mod_eq_of_lt hsh, rhu_of_ne hne, hr]
  · refine round_writes hopen hz ?_
    rw [hsh]
    exact hr
  · refine writesA_of_wA hopen rfl (by simp [hz, hsh]) ?_
    rw [wrap80_eq, shifted_fits _ _ hsh]
  · subst hr
    exact ⟨writesA_of_wA hopen rfl (by simp [hz, hd]) (wrap80_eq _), writesA_of_wA hopen rfl (by simp [hz, hd]) (satur80_eq _)⟩
  · subst hr
    refine writesA_of_wA hopen rfl (by simp [hz]) ?_
    rw [ash_left _ hsh, satur80_eq]
  · refine writesA_of_wA hopen rfl (by simp [hz]) ?_
    rw [ash_right _ hsh hsh', wrap80_eq, divided_fits]
  · refine computes_of_writes hopen rfl (by simp [hz, hd]) ?_
    rw [if_neg (by omega)]
    rfl
  · obtain ⟨r, hr⟩ := Option.isSome_iff_exists.mp hrun
    have hbad : (o.z != 0) = true := by simpa using hz
    exact ⟨_, rfl, computeOp_bad hopen hr hbad⟩

end Sys2Proof.Machine
end

section
/-! PROOF. Vector accumulation and search of a Teller (Table 4.9, R247 to R254): O48, lane by lane. -/

namespace Sys2Proof.Machine

/-! ### Search states in accumulators (R247) -/

/-- A search state whose fields fit in the lane. -/
def SearchLane.fits (l : SearchLane) : Prop :=
  -2147483648 ≤ l.val ∧ l.val ≤ 2147483647 ∧ l.idx < 4294967296 ∧ l.stp < 65536

theorem searchLane_pack {l : SearchLane} (h : l.fits) : searchLane l.pack = l := by
  obtain ⟨hlo, hhi, hidx, hstp⟩ := h
  have hval : (wdi l.val).toInt = l.val := (toInt_ofInt_eq_iff (by decide) _).mpr (by omega)
  have hw := (wdi l.val).isLt
  have hpack : l.pack.toNat = l.stp * 2 ^ 64 + l.idx * 2 ^ 32 + (wdi l.val).toNat := by
    rw [SearchLane.pack, BitVec.toNat_ofNat]
    omega
  have hlow : BitVec.ofNat 32 l.pack.toNat = wdi l.val := by
    apply BitVec.eq_of_toNat_eq
    rw [hpack, BitVec.toNat_ofNat]
    omega
  obtain ⟨val, idx, stp⟩ := l
  dsimp only at *
  rw [searchLane, hlow, hval, hpack]
  congr 1 <;> omega

theorem searchLane_fits (a : BitVec 80) : (searchLane a).fits := by
  have hlo := BitVec.le_toInt (BitVec.ofNat 32 a.toNat)
  have hhi := BitVec.toInt_lt (x := BitVec.ofNat 32 a.toNat)
  have ha := a.isLt
  unfold SearchLane.fits searchLane
  dsimp only
  omega

/-- One step of a lane whose state fits, on a sample that fits, leaves a state that fits: the step that R251 asks. -/
theorem searched_searchStep (better : Int → Int → Bool) (live : Bool) {k : Nat} (hk : k < 8) {e : Int}
    (he : -2147483648 ≤ e ∧ e ≤ 2147483647) (a : BitVec 80) :
    searched better live k e (searchLane a) (searchLane (searchStep better live k e (searchLane a)).1.pack) := by
  obtain ⟨hlo, hhi, hidx, hstp⟩ := searchLane_fits a
  generalize searchLane a = l at hlo hhi hidx hstp
  have hfits : (searchStep better live k e l).1.fits := by
    unfold searchStep SearchLane.fits
    dsimp only
    cases live && (l.idx == emptyIdx || better e l.val)
    case false =>
      simp only [Bool.false_eq_true, if_false]
      omega
    case true =>
      simp only [if_true]
      omega
  rw [searchLane_pack hfits]
  unfold searched searchStep
  cases hgo : (live && (l.idx == emptyIdx || better e l.val))
  case false =>
    have hgo' : ¬(live = true ∧ (l.idx = 0xFFFFFFFF ∨ better e l.val = true)) := by simpa [emptyIdx] using hgo
    exact ⟨rfl, by rw [if_neg hgo']; exact ⟨rfl, rfl⟩⟩
  case true =>
    have hgo' : live = true ∧ (l.idx = 0xFFFFFFFF ∨ better e l.val = true) := by simpa [emptyIdx] using hgo
    exact ⟨rfl, by rw [if_pos hgo']; exact ⟨rfl, rfl⟩⟩

/-! ### The best of the lanes (R253) -/

/-- `v` is no better than `w` in a search for a maximum (`mn` = 0) or a minimum. -/
def noBetter (mn : Nat) (v w : Int) : Prop := if mn = 0 then v ≤ w else w ≤ v

theorem noBetter_refl (mn : Nat) (v : Int) : noBetter mn v v := by
  unfold noBetter
  split <;> exact Int.le_refl v

theorem noBetter_of_not_better {mn : Nat} {v w : Int} (h : ¬(if mn = 0 then w < v else v < w)) : noBetter mn v w := by
  unfold noBetter
  split at h <;> simp_all

/-- What is no better than a value is worse than a better one. -/
theorem worse_of_better {mn n m : Nat} {u v w : Int} (h : noBetter mn u v) (hw : if mn = 0 then v < w else w < v) :
    noBetter mn u w ∧ (u = w → n ≤ m) := by
  unfold noBetter at *
  split at hw
  · rw [if_pos ‹_›] at *
    omega
  · rw [if_neg ‹_›] at *
    omega

/-- `b` is the best value among the lanes `l` that are not empty, with the lowest index that has it. -/
def IsBest (mn : Nat) (l : List SearchLane) (b : Int × Nat) : Prop :=
  ((∀ x ∈ l, x.idx = emptyIdx) ∧ b = (searchStart mn, emptyIdx)) ∨
    ((∃ x ∈ l, x.val = b.1 ∧ x.idx = b.2) ∧ b.2 ≠ emptyIdx ∧
      ∀ x ∈ l, x.idx ≠ emptyIdx → noBetter mn x.val b.1 ∧ (x.val = b.1 → b.2 ≤ x.idx))

/-- The lane that the search takes next against the best so far. -/
def searchPick (mn : Nat) (b : Int × Nat) (x : SearchLane) : Int × Nat :=
  if x.idx = emptyIdx then b
  else if b.2 = emptyIdx then (x.val, x.idx)
  else if (if mn = 0 then b.1 < x.val else x.val < b.1) then (x.val, x.idx)
  else if x.val = b.1 ∧ x.idx < b.2 then (x.val, x.idx)
  else b

theorem isBest_concat {mn : Nat} {l : List SearchLane} {b : Int × Nat} (h : IsBest mn l b) (x : SearchLane) :
    IsBest mn (l ++ [x]) (searchPick mn b x) := by
  have hmem : ∀ {q : SearchLane → Prop}, (∀ y ∈ l, q y) → q x → ∀ y ∈ l ++ [x], q y := fun hl hx y hy =>
    (List.mem_append.mp hy).elim (hl y) fun h => List.mem_singleton.mp h ▸ hx
  have hlast : x ∈ l ++ [x] := List.mem_append_right l List.mem_cons_self
  unfold searchPick
  split
  case isTrue hx =>
    obtain ⟨hall, hb⟩ | ⟨⟨y, hy, hyb⟩, hne, hall⟩ := h
    · exact .inl ⟨hmem hall hx, hb⟩
    · exact .inr ⟨⟨y, List.mem_append_left _ hy, hyb⟩, hne, hmem hall fun h => (h hx).elim⟩
  case isFalse hx =>
    obtain ⟨hall, rfl⟩ | ⟨⟨y, hy, hyb⟩, hne, hall⟩ := h
    · rw [if_pos rfl]
      exact .inr ⟨⟨x, hlast, rfl, rfl⟩, hx, hmem (fun y hy h => (h (hall y hy)).elim)
        fun _ => ⟨noBetter_refl mn x.val, fun _ => Nat.le_refl _⟩⟩
    · rw [if_neg hne]
      by_cases hbetter : if mn = 0 then b.1 < x.val else x.val < b.1
      · rw [if_pos hbetter]
        exact .inr ⟨⟨x, hlast, rfl, rfl⟩, hx, hmem (fun z hz hzne => worse_of_better (hall z hz hzne).1 hbetter)
          fun _ => ⟨noBetter_refl mn x.val, fun _ => Nat.le_refl _⟩⟩
      rw [if_neg hbetter]
      by_cases htie : x.val = b.1 ∧ x.idx < b.2
      · rw [if_pos htie]
        obtain ⟨hval, hidx⟩ := htie
        refine .inr ⟨⟨x, hlast, rfl, rfl⟩, hx, hmem (fun z hz hzne => ?_)
          fun _ => ⟨noBetter_refl mn x.val, fun _ => Nat.le_refl _⟩⟩
        obtain ⟨hle, hlow⟩ := hall z hz hzne
        rw [← hval] at hle hlow
        exact ⟨hle, fun hz => (Nat.le_of_lt hidx).trans (hlow hz)⟩
      · rw [if_neg htie]
        exact .inr ⟨⟨y, List.mem_append_left _ hy, hyb⟩, hne, hmem hall fun _ => ⟨noBetter_of_not_better hbetter,
          fun hval => Nat.not_lt.mp fun hidx => htie ⟨hval, hidx⟩⟩⟩

theorem searchBest_isBest (mn : Nat) (l : List SearchLane) : IsBest mn l (searchBest mn l) := by
  induction l using List.reverseRecOn with
  | nil => exact .inl ⟨fun x hx => (List.not_mem_nil hx).elim, rfl⟩
  | append_singleton l x ih =>
    have hstep : searchBest mn (l ++ [x]) = searchPick mn (searchBest mn l) x := by
      rw [searchBest, List.foldl_append]
      rfl
    rw [hstep]
    exact isBest_concat ih x

/-! ### Each kind of operation -/

section
variable {s : State} {t : Nat} {p : Pred} {i : Instr}

theorem vmac_writes (hopen : slotOpen s t p) {o : FmtCM} {f y : Int → Int → Int} {r : Int → Int → BitVec 80 × Nat}
    (hi : exec i s = .next (vmacOp t p o r s)) (hz : o.z = 0) (ha : o.a % 8 = 0) (hb : o.b % 8 = 0)
    (hr : ∀ a x, r a x = (BitVec.ofInt 80 (y a x), av (f a x))) :
    ∃ c : Core, computes s i t { s.core t with
        acc := c.acc
        sr := (s.core t).sr ||| wd (if (List.range 8).any (fun k => (Pred.mask p (s.core t)).testBit k &&
          outside80 (f ((s.core t).av k) ((s.core t).dv (o.a + k) * (s.core t).dv (o.b + k)))) then 4 else 0) } ∧
      ∀ k, k < 8 → c.aw k = if (Pred.mask p (s.core t)).testBit k then
        BitVec.ofInt 80 (y ((s.core t).av k) ((s.core t).dv (o.a + k) * (s.core t).dv (o.b + k))) else (s.core t).aw k := by
  refine computes_of_lanes hopen hi (by simp [hz, isVec, ha, hb]) ((forN_lanes (fun k => (Pred.mask p (s.core t)).testBit k)
    (fun k => r ((s.core t).av k) ((s.core t).dv (o.a + k) * (s.core t).dv (o.b + k))) _ 4 8
    (fun k => congrArg Prod.snd (hr _ _))).trans ?_)
  simp only [hr]

theorem search_writes (hopen : slotOpen s t p) {o : FmtCS} {better : Int → Int → Bool}
    (hi : exec i s = .next (searchOp t p o better s)) (hz : o.z = 0) (ha : o.a % 8 = 0) :
    ∃ c : Core, computes s i t { s.core t with
        acc := c.acc
        sr := (s.core t).sr ||| wd (if (List.range 8).any (fun k => (searchLane ((s.core t).aw k)).stp == 65535) then 8 else 0) } ∧
      ∀ k, k < 8 → searched better ((Pred.mask p (s.core t)).testBit k) k ((s.core t).dv (o.a + k))
        (searchLane ((s.core t).aw k)) (searchLane (c.aw k)) := by
  obtain ⟨c, hc, hlanes⟩ := computes_of_lanes hopen hi (by simp [hz, isVec, ha])
    (forN_lanes (fun _ => true) (fun k =>
      ((searchStep better ((Pred.mask p (s.core t)).testBit k) k ((s.core t).dv (o.a + k)) (searchLane ((s.core t).aw k))).1.pack,
        if (searchLane ((s.core t).aw k)).stp == 65535 then flagSX else 0))
      (fun k => (searchLane ((s.core t).aw k)).stp == 65535) flagSX 8 fun k => rfl)
  refine ⟨c, hc, fun k hk => ?_⟩
  rw [hlanes k hk]
  exact searched_searchStep better _ hk (dv_bounds _ _) _

theorem sinit_writes (hopen : slotOpen s t p) {o : FmtCS} (hz : o.z = 0) :
    ∃ c : Core, computes s (.sinit t p o) t { s.core t with acc := c.acc } ∧
      ∀ k, k < 8 → searchLane (c.aw k) = ⟨searchStart o.mn, emptyIdx, 0⟩ := by
  obtain ⟨c, hc, hlanes⟩ := computes_of_all hopen (rfl : exec (.sinit t p o) s = _) (by simp [hz]) rfl
  refine ⟨c, hc, fun k hk => ?_⟩
  rw [hlanes k hk, searchLane_pack]
  unfold SearchLane.fits searchStart emptyIdx
  dsimp only
  split <;> decide

theorem sred_writes (hopen : slotOpen s t p) {o : FmtCS} (hz : o.z = 0) (hne : o.d % 32 ≠ o.a % 32) {b : Int × Nat}
    (hb : searchBest o.mn ((List.range 8).map fun k => searchLane ((s.core t).aw k)) = b) :
    computes s (.sred t p o) t (((s.core t).setD o.d (wdi b.1)).setD o.a (wd b.2)) := by
  refine computes_of_writes hopen rfl (by simp [hz, hne]) ?_
  dsimp only
  rw [hb]
  change { ((s.core t).setD o.d (wdi b.1)).setD o.a (wd b.2) with sr := raise (s.core t).sr 0 } = _
  rw [raise_none]
  rfl

end

/-- Settles O48, lane by lane. -/
theorem tellerVectorsAndSearch : Obligations.TellerVectorsAndSearch := by
  intro s t p hopen
  refine ⟨fun o i f clampIt hz ha hb hi => ?_, fun o i better hz ha hi => ?_,
    fun o hz => ⟨sinit_writes hopen hz, fun hne => ?_⟩⟩
  · have hkind : ∃ r, exec i s = .next (vmacOp t p o r s) ∧
        ∀ a x, r a x = (BitVec.ofInt 80 (if clampIt then clamp80 (f a x) else f a x), av (f a x)) := by
      obtain ⟨rfl, rfl, rfl⟩ | ⟨rfl, rfl, rfl⟩ | ⟨rfl, rfl, rfl⟩ | ⟨rfl, rfl, rfl⟩ | ⟨rfl, rfl, rfl⟩ := hi
      · exact ⟨_, rfl, fun _ _ => wrap80_eq _⟩
      · exact ⟨_, rfl, fun _ _ => wrap80_eq _⟩
      · exact ⟨_, rfl, fun _ _ => satur80_eq _⟩
      · exact ⟨_, rfl, fun _ _ => wrap80_eq _⟩
      · exact ⟨_, rfl, fun _ _ => satur80_eq _⟩
    obtain ⟨r, hr, hval⟩ := hkind
    exact vmac_writes hopen hr hz ha hb hval
  · obtain ⟨rfl, rfl⟩ | ⟨rfl, rfl⟩ := hi
    · exact search_writes hopen (rfl : exec (.smax t p o) s = _) hz ha
    · exact search_writes hopen (rfl : exec (.smin t p o) s = _) hz ha
  · have hlane : ∀ {k}, k < 8 → searchLane ((s.core t).aw k) ∈ (List.range 8).map fun k => searchLane ((s.core t).aw k) :=
      fun hk => List.mem_map_of_mem (List.mem_range.mpr hk)
    have hof : ∀ {x}, x ∈ ((List.range 8).map fun k => searchLane ((s.core t).aw k)) →
        ∃ k, k < 8 ∧ searchLane ((s.core t).aw k) = x := fun hx => by
      obtain ⟨k, hk, hkx⟩ := List.mem_map.mp hx
      exact ⟨k, List.mem_range.mp hk, hkx⟩
    have hbest := searchBest_isBest o.mn ((List.range 8).map fun k => searchLane ((s.core t).aw k))
    generalize hb : searchBest o.mn _ = b at hbest
    refine ⟨b.1, b.2, sred_writes hopen hz hne hb, fun hempty => ?_, fun ⟨k, hk, hlive⟩ => ?_⟩
    · obtain ⟨-, rfl⟩ | ⟨⟨x, hx, -, hidx⟩, hne', -⟩ := hbest
      · exact ⟨rfl, rfl⟩
      · obtain ⟨k, hk, rfl⟩ := hof hx
        exact (hne' (hidx.symm.trans (hempty k hk))).elim
    · obtain ⟨hall, -⟩ | ⟨⟨x, hx, hval, hidx⟩, hne', hall⟩ := hbest
      · exact (hlive (hall _ (hlane hk))).elim
      · obtain ⟨j, hj, rfl⟩ := hof hx
        refine ⟨⟨j, hj, ?_, hne'⟩, fun k hk hlive => hall _ (hlane hk) hlive⟩
        rw [← hval, ← hidx]

end Sys2Proof.Machine
end

section
/-! PROOF. The end of a bundle (R231, R232), the program counter, loops and branches (R262 to R266): what they leave
unchanged, and from it O58. -/

namespace Sys2Proof.Machine

/-! ### What the program counter leaves unchanged -/

/-- Only the program counter, the loops and their counters differ. -/
def Core.SamePath (c e : Core) : Prop := e = { c with
  pc := e.pc
  loops := e.loops
  lc0 := e.lc0
  lc1 := e.lc1 }

theorem Core.SamePath.trans {c e g : Core} (h : c.SamePath e) (k : e.SamePath g) : c.SamePath g := by
  unfold Core.SamePath at *
  rw [k, h]

theorem samePath_setLc (c : Core) (k n : Nat) : c.SamePath (c.setLc k n) := by
  unfold Core.setLc
  split <;> rfl

theorem samePath_edge (c : Core) (l : List TLoop) : c.SamePath (c.edge l) := by
  induction l with
  | nil => rfl
  | cons l rest ih =>
    unfold Core.edge
    split
    · split
      · exact ih
      · exact (samePath_setLc c l.k (c.lc l.k - 1)).trans rfl
    · exact ih.trans rfl

theorem samePath_advance (c : Core) : c.SamePath c.advance := by
  have hedge := samePath_edge c c.loops
  unfold Core.advance
  dsimp only
  split
  case h_1 e rest _ => exact Core.SamePath.trans (e := { c.edge c.loops with pc := e }) (hedge.trans rfl) (samePath_edge _ _)
  case h_2 => exact hedge

theorem samePath_jump (c : Core) (a : Nat) : c.SamePath (c.jump a) := rfl

/-! ### The end of a bundle -/

/-- The registers at the end of a bundle before the program counter moves: loads of the bundle before stand, its own wait. -/
def Core.landed (c : Core) (ls : List (Nat × Word)) (x : Nat) : Core :=
  { c with
    d := (c.loads.foldl (fun c e => c.setD e.1 e.2) c).d
    loads := ls
    before := none
    cyc := c.cyc + 1 + x }

section
variable (c : Core) (ls : List (Nat × Word)) (x : Nat) (tgt : Option Nat)

theorem endBundle_none : c.endBundle ls x none = (c.landed ls x).advance := by
  unfold Core.endBundle
  rw [foldl_setD_eq]
  rfl

theorem endBundle_some (a : Nat) : c.endBundle ls x (some a) = (c.landed ls x).jump a := by
  unfold Core.endBundle
  rw [foldl_setD_eq]
  rfl

theorem samePath_endBundle : (c.landed ls x).SamePath (c.endBundle ls x tgt) := by
  cases tgt with
  | none => rw [endBundle_none]; exact samePath_advance _
  | some a => rw [endBundle_some]; exact samePath_jump _ a

@[simp] theorem endBundle_loads : (c.endBundle ls x tgt).loads = ls := by rw [samePath_endBundle c ls x tgt]; rfl
@[simp] theorem endBundle_cyc : (c.endBundle ls x tgt).cyc = c.cyc + 1 + x := by rw [samePath_endBundle c ls x tgt]; rfl
@[simp] theorem endBundle_before : (c.endBundle ls x tgt).before = none := by rw [samePath_endBundle c ls x tgt]; rfl
@[simp] theorem endBundle_run : (c.endBundle ls x tgt).run = c.run := by rw [samePath_endBundle c ls x tgt]; rfl
@[simp] theorem endBundle_stall : (c.endBundle ls x tgt).stall = c.stall := by rw [samePath_endBundle c ls x tgt]; rfl
@[simp] theorem endBundle_acc : (c.endBundle ls x tgt).acc = c.acc := by rw [samePath_endBundle c ls x tgt]; rfl
@[simp] theorem endBundle_p : (c.endBundle ls x tgt).p = c.p := by rw [samePath_endBundle c ls x tgt]; rfl

theorem endBundle_d : (c.endBundle ls x tgt).d = (c.loads.foldl (fun c e => c.setD e.1 e.2) c).d := by
  rw [samePath_endBundle c ls x tgt]; rfl

theorem endBundle_d_of_noLoads (h : c.loads = []) : (c.endBundle ls x tgt).d = c.d := by rw [endBundle_d, h]; rfl

theorem endBundle_dw (n : Nat) : (c.endBundle ls x tgt).dw n = (c.loads.foldl (fun c e => c.setD e.1 e.2) c).dw n := by
  rw [Core.dw, Core.dw, endBundle_d]

end

/-- Registers loaded once each hold what was loaded. -/
theorem dw_foldl_setD {l : List (Nat × Word)} (hdistinct : (l.map (·.1)).Nodup) (hsmall : ∀ e ∈ l, e.1 < 32) (c : Core)
    {e : Nat × Word} (he : e ∈ l) : (l.foldl (fun c e => c.setD e.1 e.2) c).dw e.1 = e.2 := by
  induction l using List.reverseRecOn with
  | nil => exact (List.not_mem_nil he).elim
  | append_singleton l y ih =>
    rw [List.map_append, List.nodup_append] at hdistinct
    obtain ⟨hl, -, hapart⟩ := hdistinct
    rw [List.foldl_append]
    refine (dw_setD _ e.1 y.1 y.2).trans ?_
    obtain he | he := List.mem_append.mp he
    · have hne : e.1 ≠ y.1 := hapart e.1 (List.mem_map_of_mem he) y.1 (by simp)
      have he32 := hsmall e (List.mem_append_left _ he)
      have hy32 := hsmall y (List.mem_append_right _ List.mem_cons_self)
      rw [if_neg (by omega)]
      exact ih hl (fun z hz => hsmall z (List.mem_append_left _ hz)) he
    · rw [List.mem_singleton.mp he, if_pos rfl]

/-! ### A bundle whose move slot is a NOP -/

theorem slotOf_zero (t : Nat) : slotOf t true 0 = .nop := by simp [slotOf, moveSlot, bitsOf, memSlot]

/-- A NOP of the move slot ends the bundle, whatever its compute slot did. -/
theorem moveNop_endsBundle {s : State} {t w : Nat} (hw : slotOf t true w = .nop) (h : (s.core t).issues = true) :
    exec (.nop t true w) s = .next (s.setCore t ((s.core t).endBundle [] 0 none)) := by
  obtain ⟨r, hr⟩ := Option.isSome_iff_exists.mp (Bool.and_eq_true_iff.mp h).1
  have hmask : ∀ c, (Pred.mask ⟨false, false, 0⟩ c).testBit 0 = true := fun _ => by simp [Pred.mask]
  have hpred : predBad ⟨false, false, 0⟩ = false := rfl
  refine congrArg Host.Outcome.next (?_ : nopOp t true w s = _)
  simp only [nopOp, moveOp, hw, h, hr, hmask, hpred, reduceCtorEq, decide_false, Bool.not_true, Bool.and_false, Bool.or_true,
    Bool.false_eq_true, if_false, if_true]
  rfl

/-- Settles O58: the bundle ends by a NOP in the move slot of the bundle itself, and of the next. -/
theorem resultsBecomeVisible : Obligations.ResultsBecomeVisible := by
  refine ⟨fun s i t c hissues _ hcomp hrun hstall hloads => ?_, fun s u i t x ls tgt hmoves hissues hloads hdistinct hsmall => ?_⟩
  · obtain ⟨b, hexec, hd, hacc, hp, -⟩ := hcomp
    have hgo : (({ c with before := some b } : Core)).issues = true := by
      simpa only [Core.issues, hrun, hstall] using hissues
    have hcore : (s.setCore t { c with before := some b }).core t = { c with before := some b } := setCore_same _ _ _
    refine ⟨_, _, hexec, moveNop_endsBundle (slotOf_zero t) (by rwa [hcore]), ?_⟩
    simp only [setCore_same]
    exact ⟨hd, hacc, hp, endBundle_d_of_noLoads _ _ _ _ hloads, endBundle_acc _ _ _ _, endBundle_p _ _ _ _⟩
  · have hcore : (u.setCore t ((u.core t).endBundle ls x tgt)).core t = (u.core t).endBundle ls x tgt := setCore_same _ _ _
    have hgo : ((u.core t).endBundle ls x tgt).issues = true := by
      rwa [Core.issues, endBundle_run, endBundle_stall]
    refine ⟨_, _, hmoves, moveNop_endsBundle (slotOf_zero t) (by rwa [hcore]), ?_, fun e he => ?_⟩
    · rw [hcore, endBundle_d_of_noLoads _ _ _ _ hloads]
    · rw [setCore_same, hcore, endBundle_dw, endBundle_loads]
      exact dw_foldl_setD hdistinct hsmall _ he

end Sys2Proof.Machine
end

section
/-! PROOF. Loops (R262 to R264), register moves (R259), LDF (R256, R257) and control of a Teller (R262 to R266): O50, part by
part. -/

namespace Sys2Proof.Machine

/-! ### The next bundle (R262 to R264) -/

theorem zeroLoop_none {l : List TLoop} (h : ∀ z ∈ l, z.zero = false) (pc : Nat) : zeroLoop pc l = none := by
  induction l with
  | nil => rfl
  | cons z l ih =>
    have hz := h z List.mem_cons_self
    simp [zeroLoop, ih fun y hy => h y (List.mem_cons_of_mem _ hy), hz]

section
variable {c : Core} {l : TLoop} {rest : List TLoop}

theorem edge_repeats (hzero : l.zero = false) (hpc : c.pc = l.end_) (hlc : c.lc l.k ≠ 0) :
    c.edge (l :: rest) = { c.setLc l.k (c.lc l.k - 1) with pc := l.start, loops := l :: rest } := by
  rw [Core.edge, if_pos (by simp [hpc, hzero]), if_neg hlc]

theorem edge_leaves (hzero : l.zero = false) (hpc : c.pc = l.end_) (hlc : c.lc l.k = 0) : c.edge (l :: rest) = c.edge rest := by
  rw [Core.edge, if_pos (by simp [hpc, hzero]), if_pos hlc]

/-- A bundle that does not end the body of the inner loop leaves it active. -/
theorem edge_stays (h : l.zero = true ∨ l.end_ ≠ c.pc) :
    c.edge (l :: rest) = { c.edge rest with loops := l :: (c.edge rest).loops } := by
  have hne : ¬(c.pc = l.end_ ∧ (!l.zero) = true) := by
    rintro ⟨hpc, hzero⟩
    rcases h with h | h
    · simp [h] at hzero
    · exact h hpc.symm
  rw [Core.edge, if_neg hne]

theorem advance_of_none (h : zeroLoop (c.edge c.loops).pc (c.edge c.loops).loops = none) : c.advance = c.edge c.loops := by
  unfold Core.advance
  dsimp only
  rw [h]

theorem advance_of_some {e : Nat} (h : zeroLoop (c.edge c.loops).pc (c.edge c.loops).loops = some (e, rest)) :
    c.advance = { c.edge c.loops with pc := e }.edge rest := by
  unfold Core.advance
  dsimp only
  rw [h]

/-- Outside every loop the next bundle follows. -/
theorem advance_next (h : c.loops = []) : c.advance = { c with pc := (c.pc + 1) % 8192, loops := [] } := by
  have hedge : c.edge c.loops = { c with pc := (c.pc + 1) % 8192, loops := [] } := by rw [h]; rfl
  rw [advance_of_none (by rw [hedge]; rfl), hedge]

/-- The end of a body with iterations left: its loop counts and starts again. -/
theorem advance_repeats (hloops : c.loops = l :: rest) (hzero : ∀ z ∈ l :: rest, z.zero = false) (hpc : c.pc = l.end_)
    (hlc : c.lc l.k ≠ 0) : c.advance = { c.setLc l.k (c.lc l.k - 1) with pc := l.start, loops := l :: rest } := by
  have hedge := edge_repeats (rest := rest) (hzero l List.mem_cons_self) hpc hlc
  rw [← hloops] at hedge
  rw [advance_of_none (by rw [hedge]; exact zeroLoop_none (hloops ▸ hzero) _), hedge, hloops]

/-- The end of the last iteration of the only loop. -/
theorem advance_leaves (hloops : c.loops = [l]) (hzero : l.zero = false) (hpc : c.pc = l.end_) (hlc : c.lc l.k = 0) :
    c.advance = { c with pc := (c.pc + 1) % 8192, loops := [] } := by
  have hedge : c.edge c.loops = { c with pc := (c.pc + 1) % 8192, loops := [] } := by
    rw [hloops, edge_leaves hzero hpc hlc]
    rfl
  rw [advance_of_none (by rw [hedge]; rfl), hedge]

/-- A loop of count 0 that begins at the next bundle is skipped, and every loop in it. -/
theorem advance_skips {inner : List TLoop} (hloops : c.loops = inner ++ [l]) (hzero : l.zero = true)
    (hstay : ∀ i ∈ inner, i.zero = true ∨ i.end_ ≠ c.pc) (hstart : (c.pc + 1) % 8192 = l.start) :
    c.advance.pc = (l.end_ + 1) % 8192 ∧ c.advance.loops = [] := by
  have hedge : c.edge (inner ++ [l]) = { c with pc := (c.pc + 1) % 8192, loops := inner ++ [l] } := by
    clear hloops
    induction inner with
    | nil =>
      rw [List.nil_append, edge_stays (.inl hzero)]
      rfl
    | cons i inner ih =>
      rw [List.cons_append, edge_stays (hstay i List.mem_cons_self), ih fun j hj => hstay j (List.mem_cons_of_mem _ hj)]
  have hskip : zeroLoop l.start (inner ++ [l]) = some (l.end_, []) := by
    clear hloops hstay hedge
    induction inner with
    | nil => simp [zeroLoop, hzero]
    | cons i inner ih =>
      rw [List.cons_append, zeroLoop, ih]
      rfl
  rw [advance_of_some (e := l.end_) (rest := []) (by rw [hloops, hedge, ← hskip, ← hstart])]
  exact ⟨rfl, rfl⟩

end

theorem lc_setLc (c : Core) (k : Nat) {n : Nat} (h : n < 65536) : (c.setLc k n).lc k = n := by
  unfold Core.setLc Core.lc
  split
  · exact BitVec.toNat_ofNat n 16 ▸ Nat.mod_eq_of_lt h
  · exact BitVec.toNat_ofNat n 16 ▸ Nat.mod_eq_of_lt h

theorem lc_lt (c : Core) (k : Nat) : c.lc k < 65536 := by
  unfold Core.lc
  split
  · exact c.lc0.isLt
  · exact c.lc1.isLt

theorem loops_setLc (c : Core) (k n : Nat) : (c.setLc k n).loops = c.loops := by
  unfold Core.setLc
  split <;> rfl

/-! ### Moves that fault at issue, and moves that do not execute -/

section
variable {s : State} {t : Nat} {p : Pred} {r : Run}

theorem issues_of_run (hrun : (s.core t).run = some r) (hstall : (s.core t).stall = none) : (s.core t).issues = true := by
  rw [Core.issues, hrun, hstall]
  rfl

theorem seen_of_idle {c : Core} (h : c.before = none) : c.seen = c := by rw [Core.seen, h]

/-- What its encoding decides to fault, faults. -/
theorem moveOp_bad {vec : Bool} {f : Core → Run → Nat → State → MoveRes} (hopen : moveOpen s t p r) (cause : Nat) :
    moveOp t p (some cause) vec f s = tellerFault t cause 0 s := by
  obtain ⟨hrun, hstall, -, -⟩ := hopen
  have hissues := issues_of_run hrun hstall
  simp only [moveOp, hissues, Option.isNone_some, Bool.false_and, Bool.not_true, Bool.false_eq_true, if_false]

/-- A command that comes to a fault of the Teller. -/
theorem faults_of_tellerFault {i : Instr} {cause a : Nat} (hrun : (s.core t).run = some r) (hcause : cause < 65536)
    (hi : exec i s = .next (tellerFault t cause a s)) :
    ∃ u, exec i s = .next u ∧ u.rb Reg.TEL_EVT 0 = true ∧ u.rf Reg.TEL_FLT0 15 0 = cause ∧ (u.core t).run = none := by
  obtain ⟨hevt, hflt, -, hnone⟩ := tellerFault_records (a := a) hrun hcause
  exact ⟨_, hi, hevt, hflt, hnone⟩

theorem moveOp_idle {f : Core → Run → Nat → State → MoveRes} (hopen : moveOpen s t p r)
    (hmask : (Pred.mask p (s.core t)).testBit 0 = false) :
    moveOp t p none false f s = s.setCore t ((s.core t).endBundle [] 0 none) := by
  obtain ⟨hrun, hstall, hbefore, hbad⟩ := hopen
  have hissues := issues_of_run hrun hstall
  have hseen := seen_of_idle hbefore
  simp only [moveOp, hissues, hbad, hrun, hseen, hmask, Bool.not_true, Bool.and_false, Bool.or_false, Bool.false_eq_true, if_false]
  rfl

/-- A move operation that completes. -/
theorem moves_of_done {i : Instr} {f : Core → Run → Nat → State → MoveRes} (hopen : moveOpen s t p r)
    (hmask : (Pred.mask p (s.core t)).testBit 0 = true) {bad : Option Nat} (hi : exec i s = .next (moveOp t p bad false f s))
    (hbad : bad = none) {u : State} {loads : List (Nat × Word)} {x : Nat} {tgt : Option Nat}
    (hf : f (s.core t) r (Pred.mask p (s.core t)) s = .done u loads x tgt) : moves s i t u loads x tgt := by
  subst hbad
  exact hi.trans (congrArg _ (moveOp_done hopen (.inr hmask) hf))

/-! ### Register moves (R227, R259) -/

theorem clash_of_idle {c : Core} (h : c.before = none) (n : Nat) : c.clash n = false := by rw [Core.clash, h]

theorem writeCode_idle (h : (s.core t).before = none) (n : Nat) (v : Word) :
    writeCode t n v s = s.setCore t ((s.core t).setCode n v) := by
  unfold writeCode
  dsimp only
  rw [clash_of_idle h, if_neg (by simp)]

theorem writeCtl_idle (h : (s.core t).before = none) (n : Nat) (v : Word) :
    writeCtl t n v s = s.setCore t ((s.core t).setCtl n v) := by
  unfold writeCtl
  dsimp only
  split
  case isTrue hn =>
    subst hn
    rw [h]
    dsimp only
    rw [raise_none, ← h]
    rfl
  case isFalse => rw [clash_of_idle h, if_neg (by simp)]

theorem setCode_data (c : Core) (n : Nat) (v : Word) : c.setCode (n % 32) v = c.setD n v := by
  have hn : n % 32 % 64 = n % 32 := by omega
  unfold Core.setCode
  dsimp only
  rw [hn, if_pos (by omega), Core.setD, Core.setD, Nat.mod_mod]

/-- LDI is a bundle of its own, always executed. -/
theorem ldi_moves (hrun : (s.core t).run = some r) (hstall : (s.core t).stall = none) (hbefore : (s.core t).before = none)
    (n : Nat) (v : Word) : moves s (.ldi t n v 0) t (s.setCore t ((s.core t).setCode n v)) [] 0 none := by
  have hissues := issues_of_run hrun hstall
  have hbundle : ldiOp t n v 0 s = moveOp t ⟨false, false, 0⟩ none false
      (fun _ _ _ s => .done (writeCode t n v s) [] 0 none) s := by
    simp only [ldiOp, hissues, hbefore, Option.isSome_none, Bool.not_true, Bool.false_eq_true, if_false, ne_eq, not_true_eq_false]
  refine congrArg Host.Outcome.next (hbundle.trans (moveOp_done ⟨hrun, hstall, hbefore, rfl⟩ (.inr (by simp [Pred.mask])) ?_))
  rw [writeCode_idle hbefore]

/-! ### The journal (R127) -/

theorem journalAdd_records (c n : Nat) (a : JAct) (hroom : s.jcount (t % 64) n < 2048) :
    journalAdd (ctxKey t c) n a s = s.setPst { s.pst with journal := s.pst.journal ++ [⟨t % 64, c % 256, n, a⟩] } := by
  unfold journalAdd
  dsimp only
  rw [ctxKey_div, ctxKey_mod, if_neg (by omega)]

/-! ### LDF (R256, R257) -/

/-- The read of an LDF by Teller `t` at address `a`. -/
abbrev ldfTxn (t a : Nat) : Txn := ⟨tellerMaster t, t % 16, false, a, 4, 1, [], [], .none, targetOf a⟩

/-- While its ID is under a master reset the request waits at its port (R606). -/
theorem askLdf_parked {a : Nat} {v : State} (h : v.underReset (tellerMaster t) (t % 16) = true) :
    askLdf t a v = v.setClh { v.clh with parked := v.clh.parked ++ [ldfTxn t a] } := if_pos h

/-- A read that breaks no rule waits for its grant. -/
theorem askLdf_waits {a : Nat} {v : State} (h : v.underReset (tellerMaster t) (t % 16) = false)
    (hok : v.accessCause (tellerMaster t) false a 4 1 = 0) :
    askLdf t a v = v.setClh { v.clh with waiting := v.clh.waiting ++ [ldfTxn t a] } := by
  simp [askLdf, request, h, hok, Clh.isForced, Clh.lockBad]

/-- The Teller stalled in an LDF. -/
def Core.asking (c : Core) (d a now due : Nat) : Core :=
  { c with
    stall := some (d, a, now)
    stale := Nat.min c.stale due }

theorem ldf_stalls (hopen : moveOpen s t p r) (hmask : (Pred.mask p (s.core t)).testBit 0 = true) {o : FmtLF} (ho : o.imm = 0) :
    exec (.ldf t p o) s = .next (askLdf t ((s.core t).dw o.a).toNat (s.setCore t ((s.core t).asking (o.r % 32)
      ((s.core t).dw o.a).toNat s.clock (s.ldfDue t)))) := by
  obtain ⟨hrun, hstall, hbefore, hbad⟩ := hopen
  have hissues := issues_of_run hrun hstall
  have hseen := seen_of_idle hbefore
  refine congrArg Host.Outcome.next (?_ : ldfOp t p o s = _)
  simp only [ldfOp, hissues, ho, hbad, hseen, hmask, ne_eq, not_true_eq_false, Bool.false_eq_true, or_self, Bool.not_true, if_false,
    if_true]
  rfl

theorem askLdf_keeps (a : Nat) (v : State) : (askLdf t a v).core t = v.core t ∧ (askLdf t a v).mem = v.mem := by
  have hw : Within { clh := true, regs := true } v (askLdf t a v) := within_askLdf rfl rfl t a (Within.refl _ v)
  refine ⟨?_, hw.mem_eq rfl⟩
  rw [State.core, State.core]
  exact congrArg (fun x : Tel => aget x.cores Core.reset (t % 64)) (hw.tel_eq rfl)

/-! ### LOOP (R262) -/

/-- The loop that a LOOP operation makes active. -/
def Core.newLoop (c : Core) (o : FmtLoop) (n : Nat) : TLoop :=
  ⟨o.k % 2, (c.pc + 1 + o.skip) % 8192, (c.pc + o.stop) % 8192, decide (n = 0)⟩

theorem loop_starts (hopen : moveOpen s t p r) (hmask : (Pred.mask p (s.core t)).testBit 0 = true) {o : FmtLoop} {n : Nat}
    (hbody : 1 + o.skip ≤ o.stop) (hloops : (s.core t).loops = [])
    (hn : n = if o.src % 2 = 0 then o.cnt % 256 else ((s.core t).dw o.cnt).toNat % 65536) :
    moves s (.loop t p o) t (s.setCore t { (s.core t).setLc (o.k % 2) (n - 1) with
      loops := [(s.core t).newLoop o n] }) [] 0 none := by
  refine moves_of_done hopen hmask rfl (if_neg (by omega)) ?_
  have hlc : ((s.core t).setLc (o.k % 2) (n - 1)).loops = [] := by
    rw [loops_setLc, hloops]
  dsimp only
  rw [dw_mod, ← hn, hloops, hlc]
  rfl

end

/-! ### The parts of the statement -/

/-- The end of a bundle (R231, R232, R262 to R265). -/
theorem endBundle_spec (c : Core) (ls : List (Nat × Word)) (x : Nat) :
    (c.endBundle ls x none).loads = ls ∧ (c.endBundle ls x none).cyc = c.cyc + 1 + x ∧
    (∀ n w, c.loads = [(n, w)] → (c.endBundle ls x none).dw n = w) ∧
    (c.loops = [] → (c.endBundle ls x none).pc = (c.pc + 1) % 8192) ∧
    (∀ l rest, c.loops = l :: rest → (∀ z ∈ l :: rest, z.zero = false) → c.pc = l.end_ →
      (c.lc l.k ≠ 0 → (c.endBundle ls x none).pc = l.start ∧ (c.endBundle ls x none).lc l.k = c.lc l.k - 1 ∧
        (c.endBundle ls x none).loops = c.loops) ∧
      (c.lc l.k = 0 → rest = [] → (c.endBundle ls x none).pc = (c.pc + 1) % 8192 ∧ (c.endBundle ls x none).loops = [])) ∧
    (∀ l, c.loops = [l] → l.zero = true → (c.pc + 1) % 8192 = l.start →
      (c.endBundle ls x none).pc = (l.end_ + 1) % 8192 ∧ (c.endBundle ls x none).loops = []) ∧
    (∀ i l, c.loops = [i, l] → l.zero = true → i.end_ ≠ c.pc → (c.pc + 1) % 8192 = l.start →
      (c.endBundle ls x none).pc = (l.end_ + 1) % 8192 ∧ (c.endBundle ls x none).loops = []) ∧
    (∀ a, (c.endBundle ls x (some a)).pc = a % 8192 ∧ (c.endBundle ls x (some a)).cyc = c.cyc + 1 + x) := by
  refine ⟨endBundle_loads _ _ _ _, endBundle_cyc _ _ _ _, fun n w hload => ?_, fun hloops => ?_,
    fun l rest hloops hzero hpc => ⟨fun hlc => ?_, fun hlc hrest => ?_⟩, fun l hloops hzero hstart => ?_,
    fun i l hloops hzero hend hstart => ?_, fun a => ⟨by rw [endBundle_some]; rfl, endBundle_cyc _ _ _ _⟩⟩
  · rw [endBundle_dw, hload]
    exact (dw_setD c n n w).trans (if_pos rfl)
  · rw [endBundle_none, advance_next (c := c.landed ls x) hloops]
    rfl
  · rw [endBundle_none, advance_repeats (c := c.landed ls x) hloops hzero hpc hlc]
    exact ⟨rfl, lc_setLc _ _ ((Nat.sub_le _ _).trans_lt (lc_lt c l.k)), hloops.symm⟩
  · subst hrest
    rw [endBundle_none, advance_leaves (c := c.landed ls x) hloops (hzero l List.mem_cons_self) hpc hlc]
    exact ⟨rfl, rfl⟩
  · rw [endBundle_none]
    exact advance_skips (c := c.landed ls x) (inner := []) hloops hzero (fun i hi => (List.not_mem_nil hi).elim) hstart
  · rw [endBundle_none]
    exact advance_skips (c := c.landed ls x) (inner := [i]) hloops hzero
      (fun j hj => .inr (by rw [List.mem_singleton.mp hj]; exact hend)) hstart

/-- The cursor after an access (Table 4.8). -/
theorem after_spec (c : Core) (j mode : Nat) (m : Int) :
    (mode % 4 = 0 ∨ mode % 4 = 3 → c.after j mode m = c) ∧
    (mode % 4 = 1 → c.lw j = 0 → c.after j mode m = c.setI j (wdi ((c.iw j : Int) + m))) ∧
    (mode % 4 = 1 → c.lw j ≠ 0 → c.after j mode m = c.setI j (wdi ((c.bw j : Int) + ((c.iw j : Int) - c.bw j + m) % c.lw j))) ∧
    (mode % 4 = 2 → c.lw j = 0 → c.after j mode m =
      c.setI j (wdi ((c.iw j : Int) + c.mv (fld c.cr (8 + 3 * (j % 8) + 2) (8 + 3 * (j % 8)))))) := by
  unfold Core.after Core.modify
  refine ⟨fun h => ?_, fun h hl => ?_, fun h hl => ?_, fun h hl => ?_⟩
  · rcases h with h | h <;> simp [h]
  · rw [h]
    simp [hl]
  · rw [h]
    simp [hl]
  · rw [h]
    simp [hl, Core.stride]

section
variable {s : State} {t : Nat} {p : Pred} {r : Run} (hopen : moveOpen s t p r)
  (hmask : (Pred.mask p (s.core t)).testBit 0 = true)
include hopen

theorem moveNop_spec (w : Nat) :
    (slotOf t true w = .nop → moves s (.nop t true w) t s [] 0 none) ∧
    (slotOf t true w = .unlisted → ∃ u, exec (.nop t true w) s = .next u ∧ u.rb Reg.TEL_EVT 0 = true ∧
      u.rf Reg.TEL_FLT0 15 0 = 1 ∧ (u.core t).run = none) := by
  obtain ⟨hrun, hstall, hbefore, -⟩ := hopen
  refine ⟨fun hw => moveNop_endsBundle hw (issues_of_run hrun hstall), fun hw => ?_⟩
  have hop : nopOp t true w s = tellerFault t 1 0 s := by
    simp only [nopOp, hw, decide_true, if_true]
    exact moveOp_bad (p := ⟨false, false, 0⟩) ⟨hrun, hstall, hbefore, rfl⟩ 1
  exact faults_of_tellerFault hrun (by decide) (congrArg Host.Outcome.next hop)

include hmask

theorem ldf_spec {o : FmtLF} (ho : o.imm = 0) :
    ∃ u, exec (.ldf t p o) s = .next u ∧
      u.core t = { s.core t with
        stall := some (o.r % 32, ((s.core t).dw o.a).toNat, s.clock)
        stale := Nat.min (s.core t).stale (s.ldfDue t) } ∧ u.mem = s.mem ∧
      (s.underReset (tellerMaster t) (t % 16) = true → u.clh = { s.clh with
        parked := s.clh.parked ++ [⟨tellerMaster t, t % 16, false, ((s.core t).dw o.a).toNat, 4, 1, [], [], .none,
          targetOf ((s.core t).dw o.a).toNat⟩] }) ∧
      (s.underReset (tellerMaster t) (t % 16) = false →
        s.accessCause (tellerMaster t) false ((s.core t).dw o.a).toNat 4 1 = 0 →
        u.clh.waiting = s.clh.waiting ++ [⟨tellerMaster t, t % 16, false, ((s.core t).dw o.a).toNat, 4, 1, [], [], .none,
          targetOf ((s.core t).dw o.a).toNat⟩]) := by
  refine ⟨_, ldf_stalls hopen hmask ho, ?_⟩
  set a := ((s.core t).dw o.a).toNat
  set v := s.setCore t ((s.core t).asking (o.r % 32) a s.clock (s.ldfDue t)) with hv
  obtain ⟨hcore, hmem⟩ := askLdf_keeps (t := t) a v
  refine ⟨hcore.trans (setCore_same _ _ _), hmem, fun hreset => ?_, fun hfree hok => ?_⟩
  · rw [askLdf_parked (v := v) hreset]
    rfl
  · rw [askLdf_waits (v := v) hfree hok]
    rfl

theorem call_spec (off : Int) :
    ((s.core t).stack.length < 4 → moves s (.call t p off) t (s.setCore t { s.core t with
      stack := ((s.core t).pc + 1) % 8192 :: (s.core t).stack }) [] 2 (some ((s.core t).target off))) ∧
    (4 ≤ (s.core t).stack.length → ∃ u, exec (.call t p off) s = .next u ∧ u.rb Reg.TEL_EVT 0 = true ∧
      u.rf Reg.TEL_FLT0 15 0 = 4 ∧ (u.core t).run = none) := by
  refine ⟨fun hroom => moves_of_done hopen hmask rfl rfl (if_neg (by omega)), fun hfull => ?_⟩
  exact faults_of_tellerFault (a := 0) hopen.1 (by decide)
    (congrArg Host.Outcome.next (moveOp_fault hopen (.inr hmask) (if_pos hfull)))

theorem ret_spec {a : Nat} {l : List Nat} (hstack : (s.core t).stack = a :: l) :
    moves s (.ret t p) t (s.setCore t { s.core t with stack := l }) [] 2 (some a) := by
  refine moves_of_done hopen hmask rfl rfl ?_
  dsimp only
  rw [hstack]

end

/-- Settles O50, part by part. -/
theorem tellerMovesAndControl : Obligations.TellerMovesAndControl := by
  refine ⟨endBundle_spec, after_spec, fun s t p r hopen hmask => ?_⟩
  have ⟨hrun, hstall, hbefore, _⟩ := hopen
  refine ⟨moveNop_spec hopen, fun o ho => ⟨ldf_spec hopen hmask ho, fun hroom => ?_⟩, fun n hroom => ⟨?_, ?_⟩, fun o hz => ?_,
    fun o hz hctl => ⟨fun hdir => ?_, fun hdir => ?_⟩, fun j m => moves_of_done hopen hmask rfl rfl rfl, fun n v => ?_,
    fun off => ⟨moves_of_done hopen hmask rfl rfl rfl, call_spec hopen hmask off⟩, fun q hq hidle off => ?_,
    fun a l hstack => ret_spec hopen hmask hstack, fun o n hbody hloops hn => loop_starts hopen hmask hbody hloops hn⟩
  · exact moves_of_done hopen hmask rfl (if_neg (not_not.mpr ho)) (by rw [journalAdd_records _ _ _ hroom])
  · exact moves_of_done hopen hmask rfl rfl (by rw [journalAdd_records _ _ _ hroom])
  · exact moves_of_done hopen hmask rfl rfl (by rw [journalAdd_records _ _ _ hroom])
  · exact moves_of_done hopen hmask rfl (if_neg (not_not.mpr hz)) (by rw [writeCode_idle hbefore])
  · refine moves_of_done hopen hmask rfl (if_neg (by omega)) ?_
    rw [if_pos hdir, writeCtl_idle hbefore]
  · refine moves_of_done hopen hmask rfl (if_neg (by omega)) ?_
    rw [if_neg (by omega), writeCode_idle hbefore, setCode_data]
  · exact ldi_moves hrun hstall hbefore n v
  · exact congrArg Host.Outcome.next (moveOp_idle ⟨hrun, hstall, hbefore, hq⟩ hidle)

end Sys2Proof.Machine
end

section
/-! PROOF. The answers to an LDF (R256, R257), failed deferred stores (R258), context commands and replacements (R268 to R271):
O52, part by part. -/

namespace Sys2Proof.Machine

theorem Within.clh_eq {m : Parts} {s t : State} (h : Within m s t) (hm : m.clh = false) : t.clh = s.clh := by
  simpa [State.outside, hm] using congrArg State.clh h

/-! ### Master resets that end (R606) -/

section
variable {u s : State}

theorem regsKept_foldl {β : Type} {l : List β} {f : State → β → State} (h : RegsKept u s)
    (hf : ∀ v x, RegsKept u v → RegsKept u (f v x)) : RegsKept u (l.foldl f s) :=
  List.foldlRecOn l f h fun v hv x _ => hf v x hv

theorem regsKept_evtIf {b : Nat} (hb : taskReg b = true) (c : Bool) (i : Nat) (h : RegsKept u s) : RegsKept u (s.evtIf c b i) :=
  fun a ha => (reg_evtIf_ne s c (ne_of_taskReg ha hb) (ne_of_taskReg ha (by decide))).trans (h a ha)

theorem regsKept_resetsSettle (h : RegsKept u s) : RegsKept u (resetsSettle s) :=
  regsKept_foldl (regsKept_evtIf (by decide) _ 2 h) fun _ _ hv => regsKept_request _ hv

theorem resetsSettle_within (s : State) : Within { clh := true, regs := true } s (resetsSettle s) :=
  within_resetsSettle rfl rfl (Within.refl _ s)

theorem core_resetsSettle (s : State) (t : Nat) : (resetsSettle s).core t = s.core t := by
  rw [State.core, State.core, (resetsSettle_within s).tel_eq rfl]

/-- With no request parked nothing new is due. -/
theorem resetsSettle_inflight (h : s.clh.parked = []) : (resetsSettle s).clh.inflight = s.clh.inflight := by
  simp [resetsSettle, unpark, h]

end

/-! ### The answers to an LDF (R220, R257) -/

section
variable {s : State} {t : Nat}

/-- The oldest response due leaves the port, and reaches the Teller. -/
theorem ldfResponse_arrives {x : DoneTxn} {rest : List DoneTxn}
    (h : takeDone (tellerMaster t) (t % 16) s.clh.inflight = some (x, rest)) :
    exec (.ldfResponse t) s = .next (resetsSettle (ldfArrive t x (s.setClh { s.clh with inflight := rest }))) := by
  refine congrArg Host.Outcome.next (?_ : ldfResponseOp t s = _)
  rw [ldfResponseOp, h]

/-- What settles after an arrival that left the registers of the Teller `c` and the memory and the Clearinghouse alone. -/
theorem settle_arrival {v : State} {rest : List DoneTxn} {c : Core} (hcore : v.core t = c) (hmem : v.mem = s.mem)
    (hclh : v.clh = { s.clh with inflight := rest }) :
    (resetsSettle v).core t = c ∧ (resetsSettle v).mem = s.mem ∧
      (s.clh.parked = [] → (resetsSettle v).clh.inflight = rest) := by
  refine ⟨(core_resetsSettle v t).trans hcore, ((resetsSettle_within v).mem_eq rfl).trans hmem, fun hparked => ?_⟩
  rw [resetsSettle_inflight (by rw [hclh]; exact hparked), hclh]

theorem ldfArrive_discarded {x : DoneTxn} (h : x.discard = true) (v : State) : ldfArrive t x v = v := by
  rw [ldfArrive, if_pos h]

theorem ldfArrive_stale {x : DoneTxn} {v : State} (h : x.discard = false) (hstale : (v.core t).stale ≠ 0) :
    ldfArrive t x v = v.setCore t { v.core t with stale := (v.core t).stale - 1 } := by
  rw [ldfArrive, if_neg (by simp [h]), if_pos hstale]

/-- The Teller whose stall has ended at `now`. -/
def Core.answered (c : Core) (t0 now : Nat) : Core :=
  { c with
    stall := none
    cyc := c.cyc + (now - t0) }

theorem ldfArrive_ends {x : DoneTxn} {v : State} (h : x.discard = false) (hstale : (v.core t).stale = 0) {d a t0 : Nat}
    (hstall : (v.core t).stall = some (d, a, t0)) :
    ldfArrive t x v =
      if x.resp = .ok then endBundle t [(d, wd (leNat x.data))] 0 none (v.setCore t ((v.core t).answered t0 v.clock))
      else tellerFault t 6 a (v.setCore t ((v.core t).answered t0 v.clock)) := by
  have hcyc : v.runCyc t = (v.core t).cyc + (v.clock - t0) := by simp [State.runCyc, hstall]
  unfold ldfArrive
  dsimp only
  rw [if_neg (by simp [h]), if_neg (not_not.mpr hstale), hstall]
  dsimp only
  rw [hcyc]
  rfl

/-- A fault's record stays while master resets settle. -/
theorem settle_fault {v : State} {r : Run} {a : Nat} (hrun : (v.core t).run = some r) :
    (resetsSettle (tellerFault t 6 a v)).rb Reg.TEL_EVT 0 = true ∧
      (resetsSettle (tellerFault t 6 a v)).rf Reg.TEL_FLT0 15 0 = 6 ∧
      ((resetsSettle (tellerFault t 6 a v)).core t).run = none := by
  obtain ⟨hevt, hcause, -, hnone⟩ := tellerFault_records (a := a) hrun (show 6 < 65536 by decide)
  have hkept := regsKept_resetsSettle (u := tellerFault t 6 a v) (s := tellerFault t 6 a v) fun _ _ => rfl
  refine ⟨?_, ?_, by rw [core_resetsSettle, hnone]⟩
  · rw [State.rb, hkept _ (by decide)]
    exact hevt
  · rw [State.rf, hkept _ (by decide)]
    exact hcause

end

/-! ### Failed deferred stores (R258) -/

section
variable {s : State}

/-- CLH_EVT.ERR stays set, whatever is requested. -/
theorem rb_request_of_rb (x : Txn) (h : s.rb Reg.CLH_EVT 0 = true) : (request x s).rb Reg.CLH_EVT 0 = true := by
  have hrefuse : ∀ r cause, (clhRefuse x r cause s).rb Reg.CLH_EVT 0 = true := fun _ cause => rb_clhError _ _ _
  have hlock : (lockRefuse x s).rb Reg.CLH_EVT 0 = true := by
    unfold lockRefuse
    dsimp only
    split
    · exact hrefuse .lkerr 6
    · exact hrefuse .lkerr 6
  unfold request
  extract_lets c d
  split
  · exact h
  split
  · exact hrefuse _ _
  split
  · exact hlock
  split
  · exact hrefuse _ _
  · exact h

theorem rb_performJ_of_rb (r : JRec) (h : s.rb Reg.CLH_EVT 0 = true) : (performJ r s).rb Reg.CLH_EVT 0 = true := by
  unfold performJ
  split
  · refine (congrArg (fun w => bit w 0) (Within.reg_eq (m := { mem := true }) (s := s)
      (within_foldl (Within.refl _ s) fun _ _ ht => ?_) rfl)).trans h
    exact within_ite (within_wrByte rfl _ _ ht) ht
  · exact rb_request_of_rb _ h
  · rw [State.rb, reg_raise_ne _ _ (by decide)]
    exact h
  · rw [State.rb, reg_raise_ne _ _ (by decide)]
    exact h

theorem rb_performList_of_rb (l : List (JRec × Bool)) (h : s.rb Reg.CLH_EVT 0 = true) :
    (performList l s).2.rb Reg.CLH_EVT 0 = true := by
  fun_induction performList l s
  case case5 ih => exact ih (rb_performJ_of_rb _ h)
  case case4 => exact rb_performJ_of_rb _ h
  all_goals exact h

/-- Nothing of Teller `k` waits to be performed. -/
theorem pumpJournal_idle {k : Nat} (h : ∀ e ∈ s.pst.todo, e.1.t ≠ k) : pumpJournal k s = s := by
  have hmine : s.pst.todo.filter (fun e => e.1.t == k) = [] := by simpa using h
  have hothers : s.pst.todo.filter (fun e => e.1.t != k) = s.pst.todo := by simpa using h
  simp only [pumpJournal, hmine, hothers, performList, List.append_nil]
  rfl

/-- The record of a failed STF: STFERR, and with nothing of its Teller waiting nothing but the record leaves the journal. -/
theorem stfRetired_records {a k : Nat} {rest : List (JRec × Bool)} (h : takeStf a s.pst.todo = some (k, rest)) :
    (stfRetired a true s).rb Reg.PST_EVT 9 = true ∧
      (s.rb Reg.CLH_EVT 0 = true → (stfRetired a true s).rb Reg.CLH_EVT 0 = true) ∧
      ((∀ e ∈ rest, e.1.t ≠ k) → (stfRetired a true s).mem = s.mem ∧ (stfRetired a true s).pst.todo = rest ∧
        (stfRetired a true s).tel = s.tel ∧ (stfRetired a true s).clh = s.clh) := by
  set v := (s.setPst { s.pst with todo := rest }).evt Reg.PST_EVT 9 with hv
  have hop : stfRetired a true s = pumpJournal k v := by
    rw [stfRetired, h]
    rfl
  have hrec : v.rb Reg.PST_EVT 9 = true := rb_evt _ (by decide) (by decide)
  rw [hop]
  refine ⟨?_, fun herr => ?_, fun hidle => ?_⟩
  · rw [(settled_pumpJournal (π := fun _ => ()) k (Settled.refl _ v)).toTaskFrame.rb (by decide)]
    exact hrec
  · have herr' : v.rb Reg.CLH_EVT 0 = true := by
      rw [hv, State.rb, reg_evt_ne _ (by decide) (by decide)]
      exact herr
    exact rb_performList_of_rb _ herr'
  · have htodo : v.pst.todo = rest := by rw [hv, evt_pst]; rfl
    rw [pumpJournal_idle (by rwa [htodo]), htodo]
    exact ⟨evt_mem _ _ _, rfl, evt_tel _ _ _, evt_clh _ _ _⟩

end

/-! ### Context commands (R268) and replacements (R270) -/

section
variable {s : State}

/-- Two contexts of one Teller have two keys. -/
theorem ctxKey_ne {c d : Nat} (hc : c < 256) (hd : d < 256) (h : c ≠ d) (t : Nat) : ctxKey t c ≠ ctxKey t d := by
  unfold ctxKey
  omega

theorem rb_setBit_true (a : Nat) {i : Nat} (hi : i < 32) (s : State) : (s.setBit a i true).rb a i = true := by
  rw [State.rb, State.setBit, State.setFld, reg_setReg_same]
  exact bit_putFld_one _ hi

theorem ctxCmdWrite_takes {v : Word} {n : Nat} (hn : n = 1 ∨ n = 2) (hv : fld v 1 0 = n) (hex : (s.ctx s.ctxSel).exists_ = true) :
    ctxCmdWrite v s = s.setCtx s.ctxSel { s.ctx s.ctxSel with cmd := n } := by
  subst hv
  exact if_pos ⟨hn, hex⟩

theorem ctxCmdWrite_ignores {v : Word} (hv : fld v 1 0 = 0 ∨ fld v 1 0 = 3) : ctxCmdWrite v s = s :=
  if_neg fun h => by omega

/-- A replacement of context `old` of Teller `t` by `new`, `ahead` folios after PST_FOLIO, as TEL_SWAP and TEL_SWAPF name it. -/
structure SwapAsked (s : State) (t old new ahead : Nat) : Prop where
  t : t = s.rf Reg.TEL_SWAP 29 24
  old : old = s.rf Reg.TEL_SWAP 7 0
  new : new = s.rf Reg.TEL_SWAP 15 8
  ahead : ahead = ((s.reg Reg.TEL_SWAPF).toNat + 4294967296 - s.pst.cut % 4294967296) % 4294967296

/-- The declared cycles of what Teller `t` runs in folio `n` with context `k` besides. -/
def State.swapLoad (s : State) (t k n : Nat) : Nat :=
  ((s.ctxsWhere (fun j _ => decide (j / 256 = t) && (s.runsIn j n || j == k))).map
    (fun j => (s.ctx j).decl.cycles)).foldl (· + ·) 0

/-- A replacement that R270 allows is scheduled. -/
theorem swapGo_schedules {v : Word} {t old new ahead : Nat} (hv : bit v 0 = true) (hask : SwapAsked s t old new ahead)
    (hold : (s.ctx (ctxKey t old)).exists_ = true) (hen : (s.ctx (ctxKey t old)).en = true)
    (hnew : (s.ctx (ctxKey t new)).exists_ = true) (hne : old ≠ new) (hlo : 3 ≤ ahead) (hhi : ahead ≤ 12000)
    (hload : s.swapLoad t (ctxKey t new) (s.pst.cut + ahead) ≤ 80000) :
    swapGoOp v s = { s with tel := { s.tel with
      swaps := s.tel.swaps ++ [Swap.mk t old new (s.pst.cut + ahead) false] } }.setBit Reg.TEL_SWAPST 0 true := by
  obtain ⟨rfl, rfl, rfl, rfl⟩ := hask
  have hold8 : s.rf Reg.TEL_SWAP 7 0 < 256 := fld_lt _ 7 0
  have hnew8 : s.rf Reg.TEL_SWAP 15 8 < 256 := fld_lt _ 15 8
  refine (if_neg (by simp [hv])).trans ((if_pos ⟨hlo, hhi, hold, hen, hnew, ctxKey_ne hold8 hnew8 hne _, hload⟩).trans ?_)
  rw [ctxKey_mod, ctxKey_mod, Nat.mod_eq_of_lt hold8, Nat.mod_eq_of_lt hnew8]
  rfl

/-- A replacement too near, too far, or of a context that does not run is ignored with SWAPERR. -/
theorem swapGo_ignores {v : Word} {t old new ahead : Nat} (hv : bit v 0 = true) (hask : SwapAsked s t old new ahead)
    (hbad : ahead < 3 ∨ 12000 < ahead ∨ (s.ctx (ctxKey t old)).en = false) : swapGoOp v s = s.evt Reg.TEL_EVT 7 := by
  obtain ⟨rfl, rfl, rfl, rfl⟩ := hask
  refine (if_neg (by simp [hv])).trans (if_neg ?_)
  rintro ⟨hlo, hhi, -, hen, -⟩
  dsimp only [State.pstFolio] at hlo hhi
  rcases hbad with h | h | h
  · omega
  · omega
  · rw [h] at hen
    cases hen

theorem swapGo_idle {v : Word} (hv : bit v 0 = false) : swapGoOp v s = s := if_pos (by simp [hv])

end

/-! ### The parts of the statement -/

section
variable {s : State}

/-- The oldest response due to a stalled Teller. -/
theorem ldfResponse_spec {t a d t0 : Nat} {r : Run} (hrun : (s.core t).run = some r)
    (hstall : (s.core t).stall = some (d, a, t0)) {x : DoneTxn} {rest : List DoneTxn}
    (htake : takeDone (tellerMaster t) (t % 16) s.clh.inflight = some (x, rest)) :
    (x.discard = false → (s.core t).stale = 0 →
      (x.resp = .ok → ∃ u, exec (.ldfResponse t) s = .next u ∧
        u.core t = ({ s.core t with
          stall := none
          cyc := (s.core t).cyc + (s.clock - t0) } : Core).endBundle [(d, wd (leNat x.data))] 0 none ∧
        u.mem = s.mem ∧ (s.clh.parked = [] → u.clh.inflight = rest)) ∧
      (x.resp ≠ .ok → ∃ u, exec (.ldfResponse t) s = .next u ∧ u.rb Reg.TEL_EVT 0 = true ∧
        u.rf Reg.TEL_FLT0 15 0 = 6 ∧ (u.core t).run = none)) ∧
    (x.discard = false → (s.core t).stale ≠ 0 → ∃ u, exec (.ldfResponse t) s = .next u ∧
      u.core t = { s.core t with stale := (s.core t).stale - 1 } ∧ u.mem = s.mem ∧ (s.clh.parked = [] → u.clh.inflight = rest)) ∧
    (x.discard = true → ∃ u, exec (.ldfResponse t) s = .next u ∧ u.core t = s.core t ∧ u.mem = s.mem ∧
      (s.clh.parked = [] → u.clh.inflight = rest)) := by
  have harrive := ldfResponse_arrives htake
  set v := s.setClh { s.clh with inflight := rest } with hv
  refine ⟨fun hkeep hstale => ⟨fun hok => ⟨_, harrive, ?_⟩, fun herr => ⟨_, harrive, ?_⟩⟩,
    fun hkeep hstale => ⟨_, harrive, ?_⟩, fun hdrop => ⟨_, harrive, ?_⟩⟩
  · rw [ldfArrive_ends (v := v) hkeep hstale hstall, if_pos hok]
    refine settle_arrival ?_ rfl rfl
    rw [endBundle, setCore_same, setCore_same]
    rfl
  · rw [ldfArrive_ends (v := v) hkeep hstale hstall, if_neg herr]
    exact settle_fault (r := r) (by rw [setCore_same]; exact hrun)
  · rw [ldfArrive_stale (v := v) hkeep hstale]
    exact settle_arrival (setCore_same _ _ _) rfl rfl
  · rw [ldfArrive_discarded hdrop]
    exact settle_arrival rfl rfl rfl

/-- A deferred store that waits for its target is not performed. -/
theorem stfError_waiting {a k : Nat} {rest : List (JRec × Bool)} (hl : s.hostLive = true)
    (htake : takeStf a s.pst.todo = some (k, rest)) {x : Txn}
    (hx : s.clh.waiting.find? (fun t => t.m == .pst && t.addr == a) = some x) :
    ∃ u, exec (.stfError a) s = .next u ∧ u.rb Reg.PST_EVT 9 = true ∧ u.rb Reg.CLH_EVT 0 = true ∧
      ((∀ e ∈ rest, e.1.t ≠ k) → u.mem = s.mem ∧ u.pst.todo = rest ∧ u.tel = s.tel ∧
        u.clh.waiting = s.clh.waiting.erase x) := by
  set v := clhError .pst x.id true a 5 (s.setClh { s.clh with waiting := s.clh.waiting.erase x }) with hv
  have hw : Within { regs := true } (s.setClh { s.clh with waiting := s.clh.waiting.erase x }) v :=
    within_clhError rfl _ _ _ _ _ (Within.refl _ _)
  have hop : stfErrorOp a s = stfRetired a true v := by
    unfold stfErrorOp
    dsimp only
    rw [hx]
  obtain ⟨hrec, herr, hidle⟩ := stfRetired_records (s := v) (by rw [hw.pst_eq rfl]; exact htake)
  refine ⟨_, (hostDo_live hl _).trans (congrArg _ hop), hrec, herr (rb_clhError _ _ _), fun hnone => ?_⟩
  obtain ⟨hmem, htodo, htel, hclh⟩ := hidle hnone
  exact ⟨hmem.trans (hw.mem_eq rfl), htodo, htel.trans (hw.tel_eq rfl),
    congrArg Clh.waiting (hclh.trans (hw.clh_eq rfl))⟩

/-- A deferred store already answered with an error retires. -/
theorem stfError_answered {a k : Nat} {rest : List (JRec × Bool)} (hl : s.hostLive = true)
    (htake : takeStf a s.pst.todo = some (k, rest)) {x : DoneTxn}
    (hnone : s.clh.waiting.find? (fun t => t.m == .pst && t.addr == a) = none)
    (hx : s.clh.inflight.find? (fun d => (d.txn.m == .pst && d.txn.addr == a) && d.resp == .err && !d.discard) = some x) :
    ∃ u, exec (.stfError a) s = .next u ∧ u.rb Reg.PST_EVT 9 = true ∧
      ((∀ e ∈ rest, e.1.t ≠ k) → u.mem = s.mem ∧ u.pst.todo = rest ∧ u.tel = s.tel ∧
        u.clh.inflight = s.clh.inflight.erase x) := by
  set v := s.setClh { s.clh with inflight := s.clh.inflight.erase x } with hv
  have hop : stfErrorOp a s = stfRetired a true v := by
    unfold stfErrorOp
    dsimp only
    rw [hnone]
    dsimp only
    rw [hx]
  obtain ⟨hrec, -, hidle⟩ := stfRetired_records (s := v) htake
  refine ⟨_, (hostDo_live hl _).trans (congrArg _ hop), hrec, fun hnone => ?_⟩
  obtain ⟨hmem, htodo, htel, hclh⟩ := hidle hnone
  exact ⟨hmem, htodo, htel, congrArg Clh.inflight hclh⟩

theorem ldfTimeout_spec {t a d t0 : Nat} {r : Run} (hrun : (s.core t).run = some r) (hstall : (s.core t).stall = some (d, a, t0)) :
    ∃ u, exec (.ldfTimeout t) s = .next u ∧ u.rb Reg.TEL_EVT 0 = true ∧ u.rf Reg.TEL_FLT0 15 0 = 6 ∧ (u.core t).run = none := by
  refine faults_of_tellerFault (a := a) hrun (by decide) (congrArg Host.Outcome.next (?_ : ldfTimeoutOp t s = _))
  rw [ldfTimeoutOp, hstall]

end

/-- Settles O52, part by part. -/
theorem ldfResponsesAndContexts : Obligations.LdfResponsesAndContexts := by
  refine ⟨⟨fun s t a d t0 r hrun hstall => ⟨fun x rest htake => ldfResponse_spec hrun hstall htake, fun hnone => ?_,
      ldfTimeout_spec hrun hstall⟩,
    fun s a k rest hl htake => ⟨fun x hx => stfError_waiting hl htake hx,
      fun x hnone hx => stfError_answered hl htake hnone hx⟩⟩, fun s v hl => ⟨fun hex => ⟨fun hv => ?_, fun hv => ?_⟩,
    fun hv => ⟨?_, ?_⟩, fun t old new ahead hv ht hold hnew hahead => ?_, fun hv => ?_⟩⟩
  · refine congrArg Host.Outcome.next (?_ : ldfResponseOp t s = s)
    rw [ldfResponseOp, hnone]
  · exact (hostDo_live hl _).trans (congrArg _ (ctxCmdWrite_takes (.inl rfl) hv hex))
  · exact (hostDo_live hl _).trans (congrArg _ (ctxCmdWrite_takes (.inr rfl) hv hex))
  · exact (hostDo_live hl _).trans (congrArg _ (ctxCmdWrite_ignores hv))
  · exact (hostDo_live hl _).trans (congrArg _ (ctxCmdWrite_ignores hv))
  · have hask : SwapAsked s t old new ahead := ⟨ht, hold, hnew, hahead⟩
    refine ⟨fun hexo hen hexn hne hlo hhi hload => ?_, fun hbad => ?_⟩
    · have hop := swapGo_schedules hv hask hexo hen hexn hne hlo hhi hload
      exact ⟨_, (hostDo_live hl _).trans (congrArg _ hop), rfl, rb_setBit_true _ (by decide) _, rfl⟩
    · have hop := swapGo_ignores hv hask hbad
      exact ⟨_, (hostDo_live hl _).trans (congrArg _ hop), evt_tel _ _ _, rb_evt _ (by decide) (by decide), evt_mem _ _ _⟩
  · exact (hostDo_live hl _).trans (congrArg _ (swapGo_idle hv))

end Sys2Proof.Machine
end

section
/-! PROOF. The Exchange (R273 to R285): a configuration written, and the states of a channel. -/

namespace Sys2Proof.Machine

theorem out_typeWrite (s : State) (a : Nat) (v : Word) : (s.typeWrite a v).out = s.out := by
  unfold State.typeWrite
  split <;> rfl

theorem rb_evtIf_true (s : State) {c : Bool} {a i : Nat} (hc : c = true) (h : a ≠ Reg.EVT_SUM) (hi : i < 32) :
    (s.evtIf c a i).rb a i = true := by
  rw [State.evtIf, if_pos hc]
  exact rb_evt s h hi

theorem rb_count_ne (s : State) {a b : Nat} (n k i : Nat) (h : b ≠ a) (h' : b ≠ Reg.EVT_RAW 1) :
    (s.count a n k).rb b i = s.rb b i := by
  rw [State.rb, State.rb, reg_count_ne s n k h h']

section
variable {s t : State} {c : Nat}

/-- Channels are read from `out` alone: a state that has the `out` of a channel replaced shows it, and the others as before. -/
theorem exc_replaced {x : ExcCh} (h : t.out = (s.setExc c x).out) : t.exc c = x ∧ ∀ d, d ≠ c → t.exc d = s.exc d := by
  have hexc : ∀ d, t.exc d = (s.setExc c x).exc d := fun d => by rw [State.exc, h, State.exc]
  exact ⟨(hexc c).trans (setExc_same s c x), fun d hd => (hexc d).trans (setExc_ne s x hd)⟩

theorem excAsync_of_lt (h : c < 256) : excAsync c = true := decide_eq_true h

theorem not_excAsync_of_le (h : 256 ≤ c) : excAsync c = false := decide_eq_false (Nat.not_lt.mpr h)

/-! ### The configuration (R273, R277) -/

theorem excCfgWrite_runs (hl : s.hostLive = true) (hpow : s.powered (Reg.EXC_CFG c) = true) (v : Word) :
    exec (.excCfgWrite c v) s = .next (excCfgWriteOp c v s) :=
  (hostDo_live hl _).trans (congrArg _ (regRow_powered hpow _))

theorem excCfgWrite_holds (hl : s.hostLive = true) {v : Word} (hpow : s.powered (Reg.EXC_CFG c) = true)
    (hin : excInOk (fld v 15 0) = true) (hrate : c < 256 ∨ fld v 18 16 ≤ 4) :
    ∃ t, exec (.excCfgWrite c v) s = .next t ∧ t.reg (Reg.EXC_CFG c) = (s.typeWrite (Reg.EXC_CFG c) v).reg (Reg.EXC_CFG c) ∧
      t.exc c = { s.exc c with pend := some (t.reg (Reg.EXC_CFG c)) } ∧ (∀ d, d ≠ c → t.exc d = s.exc d) ∧ t.mem = s.mem := by
  set u := s.typeWrite (Reg.EXC_CFG c) v
  have hsame : ∀ d, u.exc d = s.exc d := fun d => by rw [State.exc, out_typeWrite, State.exc]
  have hop : excCfgWriteOp c v s = u.setExc c { u.exc c with pend := some (u.reg (Reg.EXC_CFG c)) } := by
    refine if_neg ?_
    rcases hrate with hc | hcode
    · simp [hin, excAsync_of_lt hc]
    · simp [hin, hcode]
  refine ⟨_, (excCfgWrite_runs hl hpow v).trans (congrArg _ hop), rfl, ?_, fun d hd => ?_, mem_typeWrite _ _ _⟩
  · rw [setExc_same, setExc_reg, hsame]
  · rw [setExc_ne _ _ hd, hsame]

theorem excCfgWrite_unpowered (hl : s.hostLive = true) (v : Word) (hpow : s.powered (Reg.EXC_CFG c) = false) :
    ∃ t, exec (.excCfgWrite c v) s = .next t ∧ t.ans = ⟨.err, []⟩ ∧ t.out = s.out ∧ t.rb Reg.CLH_EVT 0 = true ∧
      t.mem = s.mem := by
  have hop := regRow_unpowered hpow (excCfgWriteOp c v)
  have hw : Within { regs := true } s (clhError .stw 0 true (Reg.EXC_CFG c) 3 s) :=
    within_clhError rfl _ _ _ _ _ (Within.refl _ s)
  exact ⟨_, (hostDo_live hl _).trans (congrArg _ hop), rfl, hw.out_eq rfl, rb_clhError _ _ _, hw.mem_eq rfl⟩

theorem excCfgWrite_refused (hl : s.hostLive = true) (hc : c < 1280) {v : Word} (hpow : s.powered (Reg.EXC_CFG c) = true)
    (hin : excInOk (fld v 15 0) = false) :
    ∃ t, exec (.excCfgWrite c v) s = .next t ∧ t.reg (Reg.EXC_CFG c) = s.reg (Reg.EXC_CFG c) ∧ t.out = s.out ∧
      t.rb Reg.EXC_EVT 5 = true ∧ t.mem = s.mem := by
  have hop : excCfgWriteOp c v s = s.evt Reg.EXC_EVT 5 := if_pos (by simp [hin])
  have hne : Reg.EXC_CFG c ≠ Reg.EXC_EVT := by
    simp only [Reg.EXC_CFG, Reg.EXC_EVT]
    omega
  exact ⟨_, (excCfgWrite_runs hl hpow v).trans (congrArg _ hop), reg_evt_alone rfl hne, evt_out _ _ _,
    rb_evt s (by decide) (by decide), evt_mem _ _ _⟩

/-! ### The states of a channel (R280 to R285) -/

theorem acquireLock_locks (hl : s.hostLive = true) (hc : c < 256) (hst : (s.exc c).st = .acquire) :
    ∃ t, exec (.acquireLock c) s = .next t ∧ t.exc c = { s.exc c with
      st := .locked
      fadeIn := 0
      fadeOut := none
      rate := s.excEstimate (s.exc c) } ∧ t.rb Reg.EXC_EVT 0 = true ∧ (∀ d, d ≠ c → t.exc d = s.exc d) ∧ t.mem = s.mem := by
  obtain ⟨hown, hothers⟩ := exc_replaced (evt_out _ Reg.EXC_EVT 0)
  exact ⟨_, (hostDo_live hl _).trans (congrArg _ (if_pos ⟨excAsync_of_lt hc, hst⟩)), hown,
    rb_evt _ (by decide) (by decide), hothers, evt_mem _ _ _⟩

/-- The input of a locked channel is lost. -/
def ExcCh.lostAt (x : ExcCh) (c rate now : Nat) : ExcCh :=
  { x with
    st := .lost
    rate := excRateWord rate
    losses := Nat.min 65535 (x.losses + 1)
    fadeOut := none
    zeroFrom := some (Nat.min now ((x.missing c).getD now)) }

theorem inputLossOp_locked (hc : c < 256) (rate : Nat) (hst : (s.exc c).st = .locked) : inputLossOp c rate s =
    (((s.setExc c ((s.exc c).lostAt c rate (3 * s.tick))).evt Reg.EXC_EVT 1).evtIf (!rateInRange rate) Reg.EXC_EVT 4).count
      Reg.EXC_CNT_LOSS 1 50 :=
  if_pos ⟨excAsync_of_lt hc, hst⟩

theorem inputLoss_loses (hl : s.hostLive = true) (rate : Nat) (hc : c < 256) (hst : (s.exc c).st = .locked) :
    ∃ t, exec (.inputLoss c rate) s = .next t ∧ t.exc c = (s.exc c).lostAt c rate (3 * s.tick) ∧ t.rb Reg.EXC_EVT 1 = true ∧
      (rateInRange rate = false → t.rb Reg.EXC_EVT 4 = true) ∧
      t.reg Reg.EXC_CNT_LOSS = s.reg Reg.EXC_CNT_LOSS + 1 ∧ (∀ d, d ≠ c → t.exc d = s.exc d) ∧ t.mem = s.mem := by
  refine ⟨_, (hostDo_live hl _).trans (congrArg _ (inputLossOp_locked hc rate hst)), ?_⟩
  set u := s.setExc c ((s.exc c).lostAt c rate (3 * s.tick)) with hu
  set w := (u.evt Reg.EXC_EVT 1).evtIf (!rateInRange rate) Reg.EXC_EVT 4 with hw
  obtain ⟨hown, hothers⟩ := exc_replaced (s := s) (t := w.count Reg.EXC_CNT_LOSS 1 50)
    (by rw [count_out, hw, evtIf_out, evt_out, hu])
  refine ⟨hown, ?_, fun hout => ?_, ?_, hothers, ?_⟩
  · rw [rb_count_ne _ _ _ _ (by decide) (by decide)]
    exact rb_evtIf_of_rb _ _ (by decide) (rb_evt u (by decide) (by decide))
  · rw [rb_count_ne _ _ _ _ (by decide) (by decide)]
    exact rb_evtIf_true _ (by rw [hout]; rfl) (by decide) (by decide)
  · rw [reg_count_one _ _ (by decide), hw, reg_evtIf_ne _ _ (by decide) (by decide), reg_evt_ne _ (by decide) (by decide)]
    rfl
  · rw [count_mem, hw, evtIf_mem, evt_mem]
    rfl

theorem phaseError_fades (hl : s.hostLive = true) (hc : c < 256) (hst : (s.exc c).st = .locked)
    (hfade : (s.exc c).fadeOut = none) :
    exec (.phaseError c) s = .next (s.setExc c { s.exc c with fadeOut := some 0 }) :=
  (hostDo_live hl _).trans (congrArg _ (if_pos ⟨excAsync_of_lt hc, hst, hfade⟩))

theorem inputResume_acquires (hl : s.hostLive = true) {rate : Nat} (hc : c < 256) (hst : (s.exc c).st = .lost)
    (hrate : rateInRange rate = true) :
    exec (.inputResume c rate) s = .next (s.setExc c { s.exc c with
      st := .acquire
      rate := excRateWord rate
      fadeIn := 0
      fadeOut := none
      zeroFrom := none }) :=
  (hostDo_live hl _).trans (congrArg _ (if_pos ⟨excAsync_of_lt hc, hst, hrate⟩))

theorem inputResume_outOfRange (hl : s.hostLive = true) {rate : Nat} (hrate : rateInRange rate = false) :
    exec (.inputResume c rate) s = .next s :=
  (hostDo_live hl _).trans (congrArg _ (if_neg (by simp [hrate])))

theorem syncRatioCheck_records (hl : s.hostLive = true) (dev : Int) (hc : 256 ≤ c) (hst : (s.exc c).st = .locked) :
    ∃ t, exec (.syncRatioCheck c dev) s = .next t ∧ (t.exc c).syncErr = decide (20000 < dev.natAbs) ∧
      (t.exc c).dev = dev ∧ (t.exc c).st = .locked ∧ (20000 < dev.natAbs → t.rb Reg.EXC_EVT 3 = true) ∧
      (∀ d, d ≠ c → t.exc d = s.exc d) ∧ t.mem = s.mem := by
  refine ⟨_, (hostDo_live hl _).trans (congrArg _ (if_pos ⟨by rw [not_excAsync_of_le hc]; rfl, hst⟩)), ?_⟩
  obtain ⟨hown, hothers⟩ := exc_replaced (evtIf_out _ (decide (20000 < dev.natAbs)) Reg.EXC_EVT 3)
  refine ⟨congrArg ExcCh.syncErr hown, congrArg ExcCh.dev hown, (congrArg ExcCh.st hown).trans hst, fun hdev => ?_, hothers,
    evtIf_mem _ _ _ _⟩
  exact rb_evtIf_true _ (decide_eq_true hdev) (by decide) (by decide)

end

/-- Settles O36, command by command. -/
theorem exchangeCommands : Obligations.ExchangeCommands := fun _ _ hl hc =>
  ⟨fun _ => excCfgWrite_holds hl, excCfgWrite_unpowered hl, fun _ => excCfgWrite_refused hl hc, acquireLock_locks hl,
    inputLoss_loses hl, phaseError_fades hl, fun _ => inputResume_acquires hl, fun _ => inputResume_outOfRange hl,
    syncRatioCheck_records hl⟩

end Sys2Proof.Machine
end

section
/-! PROOF. The writes of a delay line and of a limiter (R295 to R306): what is stored and staged, what is refused, and the
bound of the limiter's output (R308). -/

namespace Sys2Proof.Machine

section
variable {s t : State} {k : Nat} {v : Word}

/-! ### Staged writes and refused writes (R302) -/

@[simp] theorem stageOut_snk (merge : Bool) (a : Nat) (v : Word) (s : State) :
    (stageOut merge a v s).out.snk = s.out.snk := rfl

theorem effectFolio_congr (h : t.pst = s.pst) : t.effectFolio = s.effectFolio := by
  rw [State.effectFolio, State.effectFolio, h]

theorem effectFolio_typeWrite (s : State) (a : Nat) (v : Word) : (s.typeWrite a v).effectFolio = s.effectFolio :=
  effectFolio_congr (pst_typeWrite s a v)

/-- A refused write sets its event and leaves the registers of every array above OUT_EVT. -/
theorem outEvt_refuses (s : State) {i : Nat} (hi : i < 32) : (s.evt Reg.OUT_EVT i).out = s.out ∧
    (s.evt Reg.OUT_EVT i).rb Reg.OUT_EVT i = true ∧ (s.evt Reg.OUT_EVT i).mem = s.mem ∧
      ∀ {base k : Nat}, Reg.OUT_EVT < base → (s.evt Reg.OUT_EVT i).reg (base + 4 * k) = s.reg (base + 4 * k) := by
  refine ⟨evt_out _ _ _, rb_evt s (by decide) hi, evt_mem _ _ _, fun {base k} hbase => ?_⟩
  have hlt : Reg.OUT_EVT < base + 4 * k := Nat.lt_add_right _ hbase
  exact reg_evt_ne s hlt.ne' (Nat.lt_trans (by decide) hlt).ne'

/-! ### OUT_DCFG (R296, R303, R321) -/

theorem has_eq_false_of_le {r : RegSpec} {a : Nat} (h : r.base + r.count * r.stride ≤ a) : r.has a = false := by
  simp [RegSpec.has, Nat.not_lt.mpr h]

/-- OUT_DCFG is row 11 of the table of its block, and every row before it ends below it. -/
theorem outDcfg_spec (hk : k < 2560) :
    ∃ r, regSpec? (Reg.OUT_DCFG k) = some r ∧ r.rw = 0xF9FFFFFF ∧ r.w1c = 0 ∧ r.w1s = 0 := by
  have hblock : blockRegs (Reg.OUT_DCFG k) = regsOUT := by
    have hdiv : Reg.OUT_DCFG k / 0x10000 = 0x600D := by
      simp only [Reg.OUT_DCFG]
      omega
    rw [blockRegs, hdiv]
    rfl
  have hhas : RegSpec.has ⟨0x600D3800, 2560, 4, 0xF9FFFFFF, 0, 0, 0, 0, 0, 0⟩ (Reg.OUT_DCFG k) = true := by
    have hhi : 0x600D3800 + 4 * k < 0x600D6000 := by omega
    simp [RegSpec.has, Reg.OUT_DCFG, hhi]
  have hbelow : ∀ r ∈ regsOUT.take 11, r.base + r.count * r.stride ≤ Reg.OUT_DCFG 0 := by decide
  have hnone : ∀ r ∈ regsOUT.take 11, (!r.has (Reg.OUT_DCFG k)) = true := fun r hr => by
    rw [has_eq_false_of_le ((hbelow r hr).trans (Nat.le_add_right _ _))]
    rfl
  have hfind : regSpec? (Reg.OUT_DCFG k) = some ⟨0x600D3800, 2560, 4, 0xF9FFFFFF, 0, 0, 0, 0, 0, 0⟩ := by
    rw [regSpec?, hblock]
    exact List.find?_eq_some_iff_append.2 ⟨hhas, regsOUT.take 11, regsOUT.drop 12, rfl, hnone⟩
  exact ⟨_, hfind, rfl, rfl, rfl⟩

/-- A write of OUT_DCFGk that is taken: where EN changes, it is staged. -/
def lineWritten (k : Nat) (v : Word) (s : State) : State :=
  if s.lineOn k ≠ bit v 31 then stageOut false (Reg.OUT_DCFG k) v (s.typeWrite (Reg.OUT_DCFG k) v)
  else s.typeWrite (Reg.OUT_DCFG k) v

theorem reg_lineWritten (k : Nat) (v : Word) (s : State) (a : Nat) :
    (lineWritten k v s).reg a = (s.typeWrite (Reg.OUT_DCFG k) v).reg a := by
  unfold lineWritten
  split <;> rfl

theorem mem_lineWritten (k : Nat) (v : Word) (s : State) : (lineWritten k v s).mem = s.mem := by
  unfold lineWritten
  split <;> exact mem_typeWrite _ _ _

theorem out_lineWritten (k : Nat) (v : Word) (s : State) : (lineWritten k v s).out = if s.lineOn k ≠ bit v 31
    then { s.out with staged := s.out.staged ++ [(s.effectFolio, (Reg.OUT_DCFG k, v))] } else s.out := by
  unfold lineWritten
  split
  · simp [stageOut, State.setOut, out_typeWrite, effectFolio_typeWrite]
  · exact out_typeWrite _ _ _

/-- EN and BASE take the values written. -/
theorem lineWritten_line (hk : k < 2560) (v : Word) (s : State) :
    (lineWritten k v s).lineOn k = bit v 31 ∧ (lineWritten k v s).lineBase k = fld v 24 0 := by
  obtain ⟨r, hr, hrw, hw1c, hw1s⟩ := outDcfg_spec hk
  have hfield : ∀ hi lo, hi < 32 → (∀ i, lo ≤ i → i ≤ hi → (wd r.rw).getLsbD i = true) →
      (lineWritten k v s).rf (Reg.OUT_DCFG k) hi lo = fld v hi lo := fun hi lo hhi hbits => by
    rw [State.rf, reg_lineWritten]
    exact rf_typeWrite hr hw1c hw1s v hhi hbits
  have hen := hfield 31 31 (by decide) fun i hlo hhi => by
    obtain rfl : i = 31 := by omega
    rw [hrw]
    rfl
  have hbase := hfield 24 0 (by decide) fun i _ hhi => by
    rw [hrw]
    revert hhi i
    decide
  refine ⟨?_, hbase⟩
  rw [State.lineOn, State.rb, bit_eq_fld, bit_eq_fld]
  exact congrArg (fun n => decide (n = 1)) hen

/-- The line of sink `k` would share words of Vault-D with another enabled line if it stood at `base` (R296). -/
def State.lineOverlaps (s : State) (k base : Nat) : Bool :=
  s.linesOn.any (fun j => decide (j ≠ k) && decide (s.lineBase j < base + s.lineLen k) &&
    decide (base < s.lineBase j + s.lineLen j))

theorem lineOverlaps_eq_false {base : Nat}
    (h : ∀ j ∈ s.linesOn, j = k ∨ base + s.lineLen k ≤ s.lineBase j ∨ s.lineBase j + s.lineLen j ≤ base) :
    s.lineOverlaps k base = false := by
  rw [State.lineOverlaps, List.any_eq_false]
  intro j hj
  have hj' := h j hj
  simp only [Bool.and_eq_true, decide_eq_true_eq]
  omega

/-- A write of OUT_DCFGk: without power nothing, refused where EN = 1 does not fit, else taken; EN = 0 clears the delay. -/
theorem dcfgWriteOp_eq (k : Nat) (v : Word) (s : State) : dcfgWriteOp k v s =
    if bit v 31 = true ∧ (!s.domOn 6) = true then s
    else if bit v 31 = true ∧ (vaultSlots < fld v 24 0 + s.lineLen k ∨ s.lineOverlaps k (fld v 24 0) = true ∨
      (s.lineOn k = true ∧ fld v 24 0 ≠ s.lineBase k)) then s.evt Reg.OUT_EVT 1
    else if bit v 31 = true then lineWritten k v s
    else (lineWritten k v s).setReg (Reg.OUT_DLY k) 0 := rfl

theorem dcfgWriteOp_enables (hen : bit v 31 = true) (hpow : s.domOn 6 = true) (hfit : fld v 24 0 + s.lineLen k ≤ vaultSlots)
    (hfree : s.lineOverlaps k (fld v 24 0) = false) (hbase : s.lineOn k = true → fld v 24 0 = s.lineBase k) :
    dcfgWriteOp k v s = lineWritten k v s := by
  rw [dcfgWriteOp_eq, if_neg (by simp [hpow]), if_neg ?_, if_pos hen]
  rw [hfree]
  rintro ⟨-, hlong | hbad | ⟨hon, hmoved⟩⟩
  · omega
  · cases hbad
  · exact hmoved (hbase hon)

theorem dcfgWriteOp_disables (hen : bit v 31 = false) :
    dcfgWriteOp k v s = (lineWritten k v s).setReg (Reg.OUT_DLY k) 0 := by
  simp [dcfgWriteOp_eq, hen]

theorem dcfgWrite_enables (hl : s.hostLive = true) (hk : k < 2560) (hen : bit v 31 = true) (hpow : s.domOn 6 = true)
    (hfit : fld v 24 0 + s.lineLen k ≤ vaultSlots)
    (hfree : ∀ j ∈ s.linesOn, j = k ∨ fld v 24 0 + s.lineLen k ≤ s.lineBase j ∨ s.lineBase j + s.lineLen j ≤ fld v 24 0)
    (hbase : s.lineOn k = true → fld v 24 0 = s.lineBase k) :
    ∃ t, exec (.dcfgWrite k v) s = .next t ∧ t.lineOn k = true ∧ t.lineBase k = fld v 24 0 ∧
      t.out = (if s.lineOn k then s.out
        else { s.out with staged := s.out.staged ++ [(s.effectFolio, (Reg.OUT_DCFG k, v))] }) ∧
      (∀ a, a ≠ Reg.OUT_DCFG k → t.reg a = s.reg a) ∧ t.mem = s.mem := by
  obtain ⟨hon, hat⟩ := lineWritten_line hk v s
  have hop := dcfgWriteOp_enables hen hpow hfit (lineOverlaps_eq_false hfree) hbase
  refine ⟨_, (hostDo_live hl _).trans (congrArg _ hop), hon.trans hen, hat, ?_, fun a ha => ?_, mem_lineWritten _ _ _⟩
  · rw [out_lineWritten, hen]
    cases s.lineOn k <;> rfl
  · rw [reg_lineWritten, reg_typeWrite_ne _ ha]

theorem dcfgWrite_disables (hl : s.hostLive = true) (hk : k < 2560) (hen : bit v 31 = false) :
    ∃ t, exec (.dcfgWrite k v) s = .next t ∧ t.lineOn k = false ∧ t.reg (Reg.OUT_DLY k) = 0 ∧
      t.out = (if s.lineOn k then { s.out with staged := s.out.staged ++ [(s.effectFolio, (Reg.OUT_DCFG k, v))] }
        else s.out) ∧
      (∀ a, a ≠ Reg.OUT_DCFG k → a ≠ Reg.OUT_DLY k → t.reg a = s.reg a) ∧ t.mem = s.mem := by
  have hne : Reg.OUT_DCFG k ≠ Reg.OUT_DLY k := by
    simp only [Reg.OUT_DCFG, Reg.OUT_DLY]
    omega
  refine ⟨_, (hostDo_live hl _).trans (congrArg _ (dcfgWriteOp_disables hen)), ?_, reg_setReg_same _ _ _, ?_,
    fun a ha hdly => ?_, mem_lineWritten _ _ _⟩
  · exact (rb_setReg_ne _ _ hne).trans ((lineWritten_line hk v s).1.trans hen)
  · rw [setReg_out, out_lineWritten, hen]
    cases s.lineOn k <;> rfl
  · rw [reg_setReg_ne _ _ hdly, reg_lineWritten, reg_typeWrite_ne _ ha]

theorem dcfgWrite_unpowered (hl : s.hostLive = true) (hen : bit v 31 = true) (hpow : s.domOn 6 = false) :
    exec (.dcfgWrite k v) s = .next s :=
  (hostDo_live hl _).trans (congrArg _ (if_pos ⟨hen, by simp [hpow]⟩))

theorem dcfgWrite_overflows (hl : s.hostLive = true) (hen : bit v 31 = true) (hpow : s.domOn 6 = true)
    (hlong : vaultSlots < fld v 24 0 + s.lineLen k) :
    ∃ t, exec (.dcfgWrite k v) s = .next t ∧ t.lineOn k = s.lineOn k ∧ t.out = s.out ∧ t.rb Reg.OUT_EVT 1 = true ∧
      t.mem = s.mem := by
  have hop : dcfgWriteOp k v s = s.evt Reg.OUT_EVT 1 := by
    rw [dcfgWriteOp_eq, if_neg (by simp [hpow]), if_pos ⟨hen, .inl hlong⟩]
  obtain ⟨hout, hset, hmem, hregs⟩ := outEvt_refuses s (i := 1) (by decide)
  exact ⟨_, (hostDo_live hl _).trans (congrArg _ hop), congrArg (bit · 31) (hregs (by decide)), hout, hset, hmem⟩

/-! ### OUT_DLY (R301) and OUT_DLEN (R296) -/

theorem dlyWrite_takes (hl : s.hostLive = true) (hon : s.lineOn k = true) (hmax : fld v 29 0 ≤ (s.lineLen k - 3) * 256)
    (hfrac : fld v 29 0 % 256 = 0 ∨ 256 ≤ fld v 29 0) :
    ∃ t, exec (.dlyWrite k v) s = .next t ∧ t.reg (Reg.OUT_DLY k) = wd (fld v 29 0) ∧
      t.out = { s.out with staged :=
        s.out.staged.filter (fun e => !(e.1 == s.effectFolio && e.2.1 == Reg.OUT_DLY k)) ++
          [(s.effectFolio, (Reg.OUT_DLY k, wd (fld v 29 0)))] } ∧
      (∀ a, a ≠ Reg.OUT_DLY k → t.reg a = s.reg a) ∧ t.mem = s.mem :=
  ⟨_, (hostDo_live hl _).trans (congrArg _ (if_pos ⟨hon, hmax, hfrac⟩)), reg_setReg_same _ _ _, rfl,
    fun _ ha => reg_setReg_ne _ _ ha, rfl⟩

theorem dlyWrite_refused (hl : s.hostLive = true)
    (hbad : s.lineOn k = false ∨ (s.lineLen k - 3) * 256 < fld v 29 0 ∨ fld v 29 0 % 256 ≠ 0 ∧ fld v 29 0 < 256) :
    ∃ t, exec (.dlyWrite k v) s = .next t ∧ t.reg (Reg.OUT_DLY k) = s.reg (Reg.OUT_DLY k) ∧ t.out = s.out ∧
      t.rb Reg.OUT_EVT 1 = true ∧ t.mem = s.mem := by
  have hop : dlyWriteOp k v s = s.evt Reg.OUT_EVT 1 := by
    refine if_neg ?_
    rintro ⟨hon, hmax, hfrac⟩
    rcases hbad with hoff | hbad
    · rw [hon] at hoff
      cases hoff
    · omega
  obtain ⟨hout, hset, hmem, hregs⟩ := outEvt_refuses s (i := 1) (by decide)
  exact ⟨_, (hostDo_live hl _).trans (congrArg _ hop), hregs (by decide), hout, hset, hmem⟩

theorem dlenWrite_takes (hl : s.hostLive = true) (hoff : s.lineOn k = false) (hlo : 4 ≤ fld v 22 0)
    (hhi : fld v 22 0 ≤ 4194304) :
    exec (.dlenWrite k v) s = .next (s.setReg (Reg.OUT_DLEN k) (wd (fld v 22 0))) := by
  refine (hostDo_live hl _).trans (congrArg _ (if_neg ?_))
  rw [hoff]
  rintro (hon | hbad)
  · cases hon
  · omega

theorem dlenWrite_refused (hl : s.hostLive = true) (hbad : s.lineOn k = true ∨ fld v 22 0 < 4 ∨ 4194304 < fld v 22 0) :
    ∃ t, exec (.dlenWrite k v) s = .next t ∧ t.reg (Reg.OUT_DLEN k) = s.reg (Reg.OUT_DLEN k) ∧ t.out = s.out ∧
      t.rb Reg.OUT_EVT 1 = true ∧ t.mem = s.mem := by
  obtain ⟨hout, hset, hmem, hregs⟩ := outEvt_refuses s (i := 1) (by decide)
  exact ⟨_, (hostDo_live hl _).trans (congrArg _ (if_pos hbad)), hregs (by decide), hout, hset, hmem⟩

/-! ### OUT_LIM and OUT_THR (R306), and the limiter (R308) -/

theorem limWrite_takes (hl : s.hostLive = true) (thr : Bool) (hok : if thr then fld v 30 0 ≠ 0 else fld v 5 0 ≤ 32)
    {a : Nat} (ha : a = if thr then Reg.OUT_THR k else Reg.OUT_LIM k) :
    ∃ t, exec (.limWrite k thr v) s = .next t ∧ t.reg a = (s.typeWrite a v).reg a ∧ (∀ b, b ≠ a → t.reg b = s.reg b) ∧
      (s.effectFolio, (a, t.reg a)) ∈ t.out.staged ∧ t.out.snk = s.out.snk ∧ t.mem = s.mem := by
  have hop : limWriteOp k thr v s = stageOut true a ((s.typeWrite a v).reg a) (s.typeWrite a v) := by
    subst ha
    refine if_neg ?_
    cases thr with
    | false => exact Nat.not_lt.mpr hok
    | true => exact hok
  refine ⟨_, (hostDo_live hl _).trans (congrArg _ hop), rfl, fun b hb => reg_typeWrite_ne v hb, ?_,
    (stageOut_snk _ _ _ _).trans (congrArg Out.snk (out_typeWrite s a v)), mem_typeWrite s a v⟩
  rw [← effectFolio_typeWrite s a v]
  exact List.mem_append_right _ (List.mem_singleton_self _)

theorem limWrite_refused (hl : s.hostLive = true) (thr : Bool) (hbad : if thr then fld v 30 0 = 0 else 32 < fld v 5 0) :
    ∃ t, exec (.limWrite k thr v) s = .next t ∧ t.reg (Reg.OUT_LIM k) = s.reg (Reg.OUT_LIM k) ∧
      t.reg (Reg.OUT_THR k) = s.reg (Reg.OUT_THR k) ∧ t.out = s.out ∧ t.rb Reg.OUT_EVT 2 = true ∧ t.mem = s.mem := by
  obtain ⟨hout, hset, hmem, hregs⟩ := outEvt_refuses s (i := 2) (by decide)
  exact ⟨_, (hostDo_live hl _).trans (congrArg _ (if_pos hbad)), hregs (by decide), hregs (by decide), hout, hset,
    hmem⟩

end

theorem natAbs_clampI_le (b : Nat) (x : Int) : (clampI (-(b : Int)) b x).natAbs ≤ b := by
  unfold clampI
  split_ifs <;> omega

/-! ### The statements -/

/-- Settles O38, write by write. -/
theorem delayLineAndLimiterWritesComplete : Obligations.DelayLineAndLimiterWritesComplete := fun _ _ _ hl hk =>
  ⟨dcfgWrite_enables hl hk, dcfgWrite_unpowered hl, dcfgWrite_disables hl hk, dlyWrite_takes hl, dlyWrite_refused hl,
    dlenWrite_takes hl, dlenWrite_refused hl, fun thr hok => limWrite_takes hl thr hok rfl, limWrite_refused hl⟩

/-- Settles O37: the writes as for O38, and the clamp that ends the limiter. -/
theorem sinkChainRegisters : Obligations.SinkChainRegisters := by
  refine ⟨fun s k v hl hk => ⟨fun hen hpow hoff hfit hfree => ?_, dcfgWrite_overflows hl, fun hon hmax hfrac => ?_,
    fun hoff => ?_, dlenWrite_takes hl, fun hon => ?_, fun hla => ?_, fun hthr => ?_, fun hla => ?_⟩,
    fun _ _ _ thr _ => natAbs_clampI_le thr _⟩
  · obtain ⟨t, ht, hline, hbase, hout, -, hmem⟩ :=
      dcfgWrite_enables hl hk hen hpow hfit hfree fun hon => by rw [hon] at hoff; cases hoff
    exact ⟨t, ht, hline, hbase, by rw [hout, hoff]; rfl, hmem⟩
  · obtain ⟨t, ht, hreg, hout, hothers, hmem⟩ := dlyWrite_takes hl hon hmax hfrac
    refine ⟨t, ht, hreg, ?_, hmem, hothers⟩
    rw [hout]
    exact List.mem_append_right _ (List.mem_singleton_self _)
  · obtain ⟨t, ht, hreg, hout, hset, hmem⟩ := dlyWrite_refused (v := v) hl (.inl hoff)
    exact ⟨t, ht, hout, hset, hmem, hreg⟩
  · obtain ⟨t, ht, hreg, hout, hset, hmem⟩ := dlenWrite_refused (v := v) hl (.inl hon)
    exact ⟨t, ht, hreg, hset, hout, hmem⟩
  · obtain ⟨t, ht, hreg, -, hstaged, -, hmem⟩ := limWrite_takes hl false hla rfl
    exact ⟨t, ht, hreg, hstaged, hmem⟩
  · obtain ⟨t, ht, hreg, -, hstaged, -, hmem⟩ := limWrite_takes hl true hthr rfl
    exact ⟨t, ht, hreg, hstaged, hmem⟩
  · obtain ⟨t, ht, -, -, hout, hset, hmem⟩ := limWrite_refused (k := k) hl false hla
    exact ⟨t, ht, hout, hset, hmem⟩

end Sys2Proof.Machine
end

section
/-! PROOF. What the rows of the field die share (R5, R413, R420): one field of a register replaced, events, the fault relay,
channels in turn, and a row that runs. -/

namespace Sys2Proof.Machine

section
variable {s : State}

/-! ### One field of a register replaced -/

theorem testBit_fld (w : Word) (hi lo j : Nat) :
    (fld w hi lo).testBit j = (decide (j < hi + 1 - lo) && w.toNat.testBit (j + lo)) := by
  rw [fld, Nat.testBit_mod_two_pow, Nat.testBit_div_two_pow]

/-- A field replaced reads as the new value, and every bit beside it stands. -/
theorem testBit_putFld (w : Word) {hi lo j : Nat} (v : Nat) (hj : j < 32) :
    (putFld w hi lo v).toNat.testBit j =
      if lo ≤ j ∧ j ≤ hi then v.testBit (j - lo) else w.toNat.testBit j := by
  have hword : w.toNat = 2 ^ lo * (2 ^ (hi + 1 - lo) * (w.toNat / 2 ^ lo / 2 ^ (hi + 1 - lo)) +
      w.toNat / 2 ^ lo % 2 ^ (hi + 1 - lo)) + w.toNat % 2 ^ lo := by
    rw [Nat.div_add_mod, Nat.div_add_mod]
  have hput : w.toNat - w.toNat / 2 ^ lo % 2 ^ (hi + 1 - lo) * 2 ^ lo + v % 2 ^ (hi + 1 - lo) * 2 ^ lo =
      2 ^ lo * (2 ^ (hi + 1 - lo) * (w.toNat / 2 ^ lo / 2 ^ (hi + 1 - lo)) + v % 2 ^ (hi + 1 - lo)) +
        w.toNat % 2 ^ lo := by
    have hmul := Nat.mul_comm (w.toNat / 2 ^ lo % 2 ^ (hi + 1 - lo)) (2 ^ lo)
    rw [Nat.mul_add] at hword ⊢
    rw [Nat.mul_comm (v % _)]
    omega
  have hlow : w.toNat % 2 ^ lo < 2 ^ lo := Nat.mod_lt _ (Nat.two_pow_pos _)
  have hmid : ∀ n, n % 2 ^ (hi + 1 - lo) < 2 ^ (hi + 1 - lo) := fun n => Nat.mod_lt _ (Nat.two_pow_pos _)
  rw [putFld, wd, BitVec.toNat_ofNat, Nat.testBit_mod_two_pow, hput, decide_eq_true hj, Bool.true_and]
  conv_rhs => rw [hword]
  rw [Nat.testBit_two_pow_mul_add _ hlow, Nat.testBit_two_pow_mul_add _ hlow, Nat.testBit_two_pow_mul_add _ (hmid _),
    Nat.testBit_two_pow_mul_add _ (hmid _)]
  rcases Nat.lt_or_ge j lo with hbelow | hlo
  · rw [if_pos hbelow, if_neg (by omega), if_pos hbelow]
  rw [if_neg (Nat.not_lt.mpr hlo), if_neg (Nat.not_lt.mpr hlo)]
  rcases Nat.lt_or_ge hi j with habove | hle
  · rw [if_neg (by omega), if_neg (by omega), if_neg (by omega)]
  · have hin : j - lo < hi + 1 - lo := by omega
    rw [if_pos hin, if_pos ⟨hlo, hle⟩, Nat.testBit_mod_two_pow, decide_eq_true hin, Bool.true_and]

theorem fld_putFld_same (w : Word) {hi lo : Nat} (v : Nat) (hhi : hi < 32) :
    fld (putFld w hi lo v) hi lo = v % 2 ^ (hi + 1 - lo) := by
  refine Nat.eq_of_testBit_eq fun j => ?_
  rw [testBit_fld, Nat.testBit_mod_two_pow]
  rcases Nat.lt_or_ge j (hi + 1 - lo) with hj | hj
  · rw [testBit_putFld w v (by omega), if_pos (by omega), Nat.add_sub_cancel]
  · rw [decide_eq_false (Nat.not_lt.mpr hj), Bool.false_and, Bool.false_and]

theorem fld_putFld_beside (w : Word) {hi lo h l : Nat} (v : Nat) (hh : h < 32) (hbeside : h < lo ∨ hi < l) :
    fld (putFld w hi lo v) h l = fld w h l := by
  refine Nat.eq_of_testBit_eq fun j => ?_
  rw [testBit_fld, testBit_fld]
  rcases Nat.lt_or_ge j (h + 1 - l) with hj | hj
  · rw [testBit_putFld w v (by omega), if_neg (by omega)]
  · rw [decide_eq_false (Nat.not_lt.mpr hj), Bool.false_and, Bool.false_and]

theorem bit_putFld_beside (w : Word) {hi lo j : Nat} (v : Nat) (hj : j < 32) (hbeside : j < lo ∨ hi < j) :
    bit (putFld w hi lo v) j = bit w j := by
  rw [bit, testBit_putFld w v hj, if_neg (by omega)]
  rfl

theorem bit_putFld_self (w : Word) {i : Nat} (b : Bool) (hi : i < 32) : bit (putFld w i i (b2n b)) i = b := by
  rw [bit, testBit_putFld w _ hi, if_pos ⟨Nat.le_refl i, Nat.le_refl i⟩, Nat.sub_self]
  cases b <;> rfl

theorem bit_bitw {i : Nat} (hi : i < 32) (j : Nat) : bit (bitw i) j = decide (i = j) := by
  have hlt : 2 ^ i < 2 ^ 32 := Nat.pow_lt_pow_right (by decide) hi
  rw [bit, bitw, wd, BitVec.toNat_ofNat, Nat.mod_eq_of_lt hlt, Nat.testBit_two_pow]

/-- A bit cleared reads 0. -/
theorem bit_and_not_bitw (w : Word) {i : Nat} (hi : i < 32) : bit (w &&& ~~~(bitw i)) i = false := by
  have h := bit_bitw hi i
  rw [decide_eq_true rfl] at h
  change (w &&& ~~~(bitw i)).getLsbD i = false
  rw [BitVec.getLsbD_and, BitVec.getLsbD_not, show (bitw i).getLsbD i = true from h, Bool.not_true, Bool.and_false,
    Bool.and_false]

/-! ### What registers and events leave unchanged -/

/-- The state but its registers and the messages ready to launch: an event changes those only. -/
def State.offRegs (s : State) : State :=
  { s with
    regs := []
    setNow := []
    field := { s.field with ready := [] } }

theorem chan_of_offRegs {t : State} (h : t.offRegs = s.offRegs) (c : Nat) : t.chan c = s.chan c := by
  have hchan := congrArg (fun u : State => u.chan c) h
  exact hchan

theorem bst_of_offRegs {t : State} (h : t.offRegs = s.offRegs) (p : Nat) : t.bst p = s.bst p := by
  have hbst := congrArg (fun u : State => u.bst p) h
  exact hbst

/-- A part of the field die that is not its messages ready to launch. -/
theorem field_of_offRegs {β : Type} (g : Field → β) (hg : ∀ f : Field, g { f with ready := [] } = g f) {t : State}
    (h : t.offRegs = s.offRegs) : g t.field = g s.field := by
  have hfield := congrArg (fun u : State => g u.field) h
  exact ((hg t.field).symm.trans hfield).trans (hg s.field)

theorem offRegs_setReg (a : Nat) (v : Word) : (s.setReg a v).offRegs = s.offRegs := rfl

theorem offRegs_setBit (a i : Nat) (b : Bool) : (s.setBit a i b).offRegs = s.offRegs := offRegs_setReg a _

theorem offRegs_raise (a : Nat) (v : Word) : (s.raise a v).offRegs = s.offRegs := rfl

theorem offRegs_fieldQueue (typ : Nat) (l : List Byte) : (s.fieldQueue typ l).offRegs = s.offRegs := by
  unfold State.fieldQueue
  split <;> rfl

theorem offRegs_fevtC (a i k e : Nat) : (s.fevtC a i k e).offRegs = s.offRegs := by
  unfold State.fevtC
  dsimp only
  split
  · rfl
  · exact offRegs_fieldQueue 7 _

theorem offRegs_fevtIf (b : Bool) (a i : Nat) : (s.fevtIf b a i).offRegs = s.offRegs := by
  unfold State.fevtIf
  split
  · exact offRegs_fevtC a i _ _
  · rfl

theorem offRegs_typeWrite (a : Nat) (v : Word) : (s.typeWrite a v).offRegs = s.offRegs := by
  unfold State.typeWrite
  split <;> rfl

theorem offRegs_faultMsg (i c cause : Nat) : (s.faultMsg i c cause).offRegs = s.offRegs := by
  unfold State.faultMsg
  split
  · exact offRegs_fieldQueue 7 _
  · exact offRegs_fevtC _ _ _ _

theorem offRegs_foutSettle : (foutSettle s).offRegs = s.offRegs := by
  rw [foutSettle, offRegs_fevtIf, offRegs_setBit]

theorem offRegs_foutSettle_fevtC (a i k e : Nat) : (foutSettle (s.fevtC a i k e)).offRegs = s.offRegs :=
  offRegs_foutSettle.trans (offRegs_fevtC a i k e)

theorem reg_setField (f : Field) (a : Nat) : (s.setField f).reg a = s.reg a := rfl

theorem chan_setField {f : Field} (h : f.chans = s.field.chans) (c : Nat) : (s.setField f).chan c = s.chan c :=
  congrArg (fun l => aget l Chan.reset c) h

@[simp] theorem chan_setReg (a : Nat) (v : Word) (c : Nat) : (s.setReg a v).chan c = s.chan c := rfl

@[simp] theorem chan_setFld (a hi lo v c : Nat) : (s.setFld a hi lo v).chan c = s.chan c := rfl

@[simp] theorem chan_setBit (a i : Nat) (b : Bool) (c : Nat) : (s.setBit a i b).chan c = s.chan c := rfl

@[simp] theorem chan_typeWrite (a : Nat) (v : Word) (c : Nat) : (s.typeWrite a v).chan c = s.chan c :=
  chan_of_offRegs (offRegs_typeWrite a v) c

@[simp] theorem chan_fevtC (a i k e c : Nat) : (s.fevtC a i k e).chan c = s.chan c :=
  chan_of_offRegs (offRegs_fevtC a i k e) c

@[simp] theorem chan_foutSettle (c : Nat) : (foutSettle s).chan c = s.chan c := chan_of_offRegs offRegs_foutSettle c

@[simp] theorem bst_foutSettle (p : Nat) : (foutSettle s).bst p = s.bst p := bst_of_offRegs offRegs_foutSettle p

/-! ### Registers after events (R25, R413) -/

theorem reg_fieldQueue (typ : Nat) (l : List Byte) (b : Nat) : (s.fieldQueue typ l).reg b = s.reg b := by
  unfold State.fieldQueue
  split <;> rfl

theorem reg_fevtC (a i k e b : Nat) : (s.fevtC a i k e).reg b = (s.raise a (bitw i)).reg b := by
  unfold State.fevtC
  dsimp only
  split
  · rfl
  · exact reg_fieldQueue 7 _ b

theorem reg_fevtC_ne {a b : Nat} (i k e : Nat) (h : b ≠ a) : (s.fevtC a i k e).reg b = s.reg b :=
  (reg_fevtC a i k e b).trans (reg_raise_ne s _ h)

theorem rb_raise_self (a : Nat) {i : Nat} (hi : i < 32) : (s.raise a (bitw i)).rb a i = true := by
  rw [State.rb, reg_raise_same]
  exact bit_or_bitw _ hi

theorem rb_raise_of_rb {a b i : Nat} (m : Word) (h : s.rb b i = true) : (s.raise a m).rb b i = true := by
  rcases eq_or_ne b a with rfl | hne
  · rw [State.rb, bit] at h ⊢
    rw [reg_raise_same, BitVec.toNat_or, Nat.testBit_or, h, Bool.true_or]
  · rw [State.rb, reg_raise_ne s m hne]
    exact h

/-- An event sets its bit. -/
theorem rb_fevtC_self (a k e : Nat) {i : Nat} (hi : i < 32) : (s.fevtC a i k e).rb a i = true := by
  rw [State.rb, reg_fevtC]
  exact rb_raise_self a hi

/-- An event clears no bit. -/
theorem rb_fevtC_of_rb {a b i : Nat} (j k e : Nat) (h : s.rb b i = true) : (s.fevtC a j k e).rb b i = true := by
  rw [State.rb, reg_fevtC]
  exact rb_raise_of_rb _ h

theorem reg_fevtIf_ne {a b : Nat} (q : Bool) (i : Nat) (h : b ≠ a) : (s.fevtIf q a i).reg b = s.reg b := by
  unfold State.fevtIf
  split
  · exact reg_fevtC_ne i _ _ h
  · rfl

theorem rb_fevtIf_of_rb {a b i : Nat} (q : Bool) (j : Nat) (h : s.rb b i = true) : (s.fevtIf q a j).rb b i = true := by
  unfold State.fevtIf
  split
  · exact rb_fevtC_of_rb j _ _ h
  · exact h

theorem fevtIf_true (a i : Nat) : s.fevtIf true a i = s.fevtC a i 0xFF 0 := rfl

theorem reg_setFld_same (a hi lo v : Nat) : (s.setFld a hi lo v).reg a = putFld (s.reg a) hi lo v := reg_setReg_same _ _ _

theorem reg_setFld_ne {a b : Nat} (hi lo v : Nat) (h : b ≠ a) : (s.setFld a hi lo v).reg b = s.reg b := reg_setReg_ne _ _ h

theorem rb_setBit_self (a : Nat) {i : Nat} (b : Bool) (hi : i < 32) : (s.setBit a i b).rb a i = b := by
  rw [State.rb, State.setBit, reg_setFld_same]
  exact bit_putFld_self _ b hi

/-! ### The fault relay follows (R420) -/

/-- The relay changes FFIN_FOUT and FFIN_EVT only. -/
theorem reg_foutSettle {b : Nat} (hfout : b ≠ Reg.FFIN_FOUT) (hevt : b ≠ Reg.FFIN_EVT) : (foutSettle s).reg b = s.reg b :=
  (reg_fevtIf_ne _ _ hevt).trans (reg_setFld_ne _ _ _ hfout)

theorem rb_foutSettle_of_rb {b i : Nat} (hfout : b ≠ Reg.FFIN_FOUT) (h : s.rb b i = true) : (foutSettle s).rb b i = true := by
  refine rb_fevtIf_of_rb _ _ ?_
  rw [State.rb, State.setBit, reg_setFld_ne _ _ _ hfout]
  exact h

/-! ### Rows that run (R5, R728) -/

section
variable (hl : s.fieldLive = true)
include hl

theorem fieldDo_live (f : State → State) : fieldDo s f = .next (foutSettle (f s)) := by
  rw [fieldDo, if_pos hl]

theorem chanDo_live {c : Nat} (hc : c < 32) (f : State → State) : chanDo c s f = .next (foutSettle (f s)) := by
  rw [chanDo, fieldDo_live hl, if_pos hc]

theorem pairDo_live {p : Nat} (hp : p < 16) (f : State → State) : pairDo p s f = .next (foutSettle (f s)) := by
  rw [pairDo, fieldDo_live hl, if_pos hp]

end

theorem onlyField_of_exec {i : Instr} {t : State} (hfield : fieldCommand i = true) (hrun : exec i s = .next t) :
    onlyField s t := onlyField_of_within (fieldCommand_within hfield s t hrun)

section
variable {i : Instr} {u : State} {c : Nat} {x : Chan} {p : State → Prop} (hfield : fieldCommand i = true)
  (hrun : exec i s = .next (foutSettle u))
include hfield hrun

/-- A row that leaves every other channel as it was. -/
theorem chanBecomes_of_run (hchan : u.chan c = x) (hothers : ∀ d, d ≠ c → u.chan d = s.chan d)
    (hp : p (foutSettle u)) : chanBecomes s i c x p :=
  ⟨_, hrun, (chan_foutSettle c).trans hchan, fun d hd => (chan_foutSettle d).trans (hothers d hd),
    onlyField_of_exec hfield hrun, hp⟩

theorem chanBecomes_of_setChan (hu : u = s.setChan c x) : chanBecomes s i c x fun _ => True := by
  subst hu
  exact chanBecomes_of_run hfield hrun (setChan_same s c x) (fun _ hd => setChan_ne s x hd) trivial

theorem chanBecomes_of_same (hu : u = s) : chanBecomes s i c (s.chan c) fun _ => True := by
  subst hu
  exact chanBecomes_of_run hfield hrun rfl (fun _ _ => rfl) trivial

end

/-! ### Channels in turn -/

section
variable {α : Type} {f : α → Nat → α} {n : Nat} {a : α}

/-- What holds before a loop and is kept by each of its steps holds after it. -/
theorem forN_keeps {P : α → Prop} (h : P a) (hstep : ∀ t k, k < n → P t → P (f t k)) : P (forN n a f) := by
  unfold forN
  induction n with
  | zero => exact h
  | succ n ih =>
    rw [List.range_succ, List.foldl_append]
    exact hstep _ n (Nat.lt_succ_self n) (ih fun t k hk => hstep t k (Nat.lt_succ_of_lt hk))

/-- A loop whose step `k` takes `P k` to `Q k`, where no other step disturbs either, ends with every `Q k`. -/
theorem forN_each {P Q : Nat → α → Prop} (h : ∀ k, k < n → P k a) (hP : ∀ t j k, j ≠ k → P k t → P k (f t j))
    (hstep : ∀ t k, k < n → P k t → Q k (f t k)) (hQ : ∀ t j k, j ≠ k → Q k t → Q k (f t j)) {k : Nat} (hk : k < n) :
    Q k (forN n a f) := by
  have hprefix : ∀ m, m ≤ n → (k < m → Q k (forN m a f)) ∧ (m ≤ k → P k (forN m a f)) := by
    intro m
    induction m with
    | zero => exact fun _ => ⟨fun hlt => absurd hlt (Nat.not_lt_zero k), fun _ => h k hk⟩
    | succ m ih =>
      intro hm
      obtain ⟨hdone, hwaits⟩ := ih (Nat.le_of_succ_le hm)
      have hlast : forN (m + 1) a f = f (forN m a f) m := by
        simp only [forN, List.range_succ, List.foldl_append, List.foldl_cons, List.foldl_nil]
      rw [hlast]
      refine ⟨fun hlt => ?_, fun hle => hP _ m k (Nat.ne_of_lt hle) (hwaits (Nat.le_of_succ_le hle))⟩
      rcases Nat.lt_succ_iff_lt_or_eq.mp hlt with hbefore | rfl
      · exact hQ _ m k (Nat.ne_of_gt hbefore) (hdone hbefore)
      · exact hstep _ k hk (hwaits (Nat.le_refl k))
  exact (hprefix n (Nat.le_refl n)).1 hk

/-- A loop of which one step alone does something. -/
theorem forN_single {c : Nat} (hc : c < n) (hbefore : ∀ k, k < c → f a k = a)
    (hafter : ∀ k, c < k → k < n → f (f a c) k = f a c) : forN n a f = f a c := by
  have hprefix : ∀ m, m ≤ n → forN m a f = if c < m then f a c else a := by
    intro m
    induction m with
    | zero => exact fun _ => rfl
    | succ m ih =>
      intro hm
      have hlast : forN (m + 1) a f = f (forN m a f) m := by
        simp only [forN, List.range_succ, List.foldl_append, List.foldl_cons, List.foldl_nil]
      rw [hlast, ih (Nat.le_of_succ_le hm)]
      rcases Nat.lt_trichotomy c m with hlt | rfl | hgt
      · rw [if_pos hlt, if_pos (Nat.lt_succ_of_lt hlt), hafter m hlt hm]
      · rw [if_neg (Nat.lt_irrefl c), if_pos (Nat.lt_succ_self c)]
      · rw [if_neg (Nat.not_lt.mpr hgt.le), if_neg (Nat.not_lt.mpr hgt), hbefore m hgt]
  rw [hprefix n (Nat.le_refl n), if_pos hc]

end

end
end Sys2Proof.Machine
end

section
/-! PROOF. Channel commands, the start sequence and the stop sequence (R351 to R355, R363, R364): O21, row by row. -/

namespace Sys2Proof.Machine

section
variable {s : State} {c : Nat}

/-! ### Channels that no override claims (R428) -/

theorem ovrOf_of_unclaimed (h : s.claimed c = false) : s.ovrOf c = none := by
  unfold State.claimed at h
  rw [State.ovrOf, Option.map_eq_none_iff, List.find?_eq_none]
  simpa using h

theorem messageStart_unclaimed (h : s.claimed c = false) (n : Nat) (w : OvrWait) : messageStart c n w s = s := by
  rw [messageStart, ovrOf_of_unclaimed h]

theorem enterOff_unclaimed (h : s.claimed c = false) :
    enterOff c s = s.setChan c { (s.chan c).safeOff with st := .off } := by
  rw [enterOff, ovrOf_of_unclaimed h]

theorem enterRun_unclaimed (h : s.claimed c = false) : enterRun c s = s.setChan c { s.chan c with
    st := .run
    tko := false
    probing := false } := by
  rw [enterRun, messageStart_unclaimed]
  exact h

/-! ### Commands (R352, R364) -/

/-- A second write of one channel replaces the first. -/
theorem chanBecomes_of_setChan_setChan {i : Instr} {u : State} {x y : Chan} (hfield : fieldCommand i = true)
    (hrun : exec i s = .next (foutSettle u)) (hu : u = (s.setChan c y).setChan c x) :
    chanBecomes s i c x fun _ => True := by
  subst hu
  exact chanBecomes_of_run hfield hrun (setChan_same _ c x)
    (fun _ hd => (setChan_ne _ x hd).trans (setChan_ne s y hd)) trivial

/-- A command that the state does not accept (R352). -/
theorem chanBecomes_of_refused {i : Instr} {u : State} (hfield : fieldCommand i = true)
    (hrun : exec i s = .next (foutSettle u)) (hu : u = cmdRefused c s) :
    chanBecomes s i c (s.chan c) fun t => t.rb Reg.FPWM_EVT 6 = true := by
  subst hu
  exact chanBecomes_of_run hfield hrun (chan_fevtC _ _ _ _ c) (fun d _ => chan_fevtC _ _ _ _ d)
    (rb_foutSettle_of_rb (by decide) (rb_fevtC_self _ _ _ (by decide)))

/-- A takeover start whose word names one channel starts that one. -/
theorem takeoverStartOp_bitw (hc : c < 32) : takeoverStartOp (bitw c) s = takeoverOne c s := by
  have hbit : ∀ k, k ≠ c → bit (bitw c) k = false := fun k hk => by rw [bit_bitw hc, decide_eq_false hk.symm]
  have hself : bit (bitw c) c = true := by rw [bit_bitw hc, decide_eq_true rfl]
  refine (forN_single hc (fun k hk => ?_) fun k hk _ => ?_).trans (if_pos hself)
  · rw [hbit k hk.ne, if_neg Bool.false_ne_true]
  · rw [hbit k hk.ne', if_neg Bool.false_ne_true]

section
variable (hl : s.fieldLive = true) (hc : c < 32) (hcl : s.claimed c = false)
include hl hc hcl

theorem clear_becomes (hst : (s.chan c).st = .lockout) :
    chanBecomes s (.clear c) c { (s.chan c).safeOff with st := .off } fun t => t.rb Reg.FPRO_LOCK c = false := by
  have hop : clearOp c s = (s.setReg Reg.FPRO_LOCK (s.reg Reg.FPRO_LOCK &&& ~~~(bitw c))).setChan c
      { (s.chan c).safeOff with st := .off } := by
    rw [clearOp, if_pos hst, enterOff_unclaimed]
    · rfl
    · exact hcl
  have hrun : exec (.clear c) s = _ := chanDo_live hl hc (clearOp c)
  rw [hop] at hrun
  refine chanBecomes_of_run rfl hrun (setChan_same _ c _) (fun d hd => (setChan_ne _ _ hd).trans (chan_setReg _ _ d)) ?_
  rw [State.rb, reg_foutSettle (by decide) (by decide), setChan_reg, reg_setReg_same]
  exact bit_and_not_bitw _ hc

theorem takeoverStart_becomes (hst : (s.chan c).st = .off) : chanBecomes s (.takeoverStart (bitw c)) c
    { (s.chan c).safeOff with
      st := .start
      ph := .hswt
      tko := true } fun t => t.rb Reg.FPWM_HSW c = true := by
  have hrun : exec (.takeoverStart (bitw c)) s = _ := fieldDo_live hl (takeoverStartOp (bitw c))
  have hgo : (s.chan c).st = .off ∧ !s.claimed c := ⟨hst, by rw [hcl]; rfl⟩
  rw [takeoverStartOp_bitw hc, takeoverOne, if_pos hgo] at hrun
  refine chanBecomes_of_run rfl hrun (setChan_same _ c _) (fun d hd => (setChan_ne _ _ hd).trans (chan_setBit _ _ _ d))
    (rb_foutSettle_of_rb (by decide) ?_)
  rw [State.rb, setChan_reg]
  exact rb_setBit_self _ true hc

theorem stop_becomes (hst : (s.chan c).st = .start ∨ (s.chan c).st = .run ∨ (s.chan c).st = .probe)
    (hph : (s.chan c).ph = .playing) : chanBecomes s (.stop c) c { s.chan c with
      st := .stop
      ph := .rampOut
      hot := false
      pilot := false
      seq := .out s.nextSample (s.lastPlayed c) } fun _ => True := by
  refine chanBecomes_of_setChan rfl (chanDo_live hl hc (stopOp c)) ?_
  have hseq : s.rampOutSeq c = .out s.nextSample (s.lastPlayed c) := by rw [State.rampOutSeq, hph]
  rw [stopOp, hcl, if_neg Bool.false_ne_true, hseq]
  rcases hst with hst | hst | hst <;> simp only [hst]

/-! ### The ends of ramps and of the stop sequence (R354, R355) -/

theorem hold50Complete_becomes (hph : (s.chan c).ph = .hold50) : chanBecomes s (.hold50Complete c) c { s.chan c with
    ph := .rampIn
    seq := .up s.nextSample (if (s.chan c).tko then 8 else s.rf Reg.FPWM_RAMP 9 0) } fun _ => True := by
  refine chanBecomes_of_setChan rfl (chanDo_live hl hc (hold50CompleteOp c)) ((if_pos hph).trans ?_)
  rw [messageStart_unclaimed]
  exact hcl

theorem rampInComplete_becomes_run (hph : (s.chan c).ph = .rampIn) (hst : (s.chan c).st = .start) :
    chanBecomes s (.rampInComplete c) c { s.chan c with
      st := .run
      tko := false
      probing := false
      ph := .playing
      seq := .on } fun _ => True := by
  have hop : rampInCompleteOp c s = (s.setChan c { s.chan c with
      ph := .playing
      seq := .on }).setChan c { s.chan c with
      st := .run
      tko := false
      probing := false
      ph := .playing
      seq := .on } := by
    rw [rampInCompleteOp, if_pos hph, if_pos hst, enterRun_unclaimed, setChan_same]
    exact hcl
  exact chanBecomes_of_setChan_setChan rfl (chanDo_live hl hc (rampInCompleteOp c)) hop

theorem stopEnableTimeElapsed_becomes (hph : (s.chan c).ph = .stopEn) :
    chanBecomes s (.stopEnableTimeElapsed c) c { (s.chan c).safeOff with st := .off } fun _ => True :=
  chanBecomes_of_setChan rfl (chanDo_live hl hc (stopEnableTimeElapsedOp c)) ((if_pos hph).trans (enterOff_unclaimed hcl))

end
end

/-- Settles O21: the commands, then the two sequences step by step; each row is one write of its channel. -/
theorem channelStartAndStop : Obligations.ChannelStartAndStop := by
  refine ⟨fun s c hl hc hcl => ?_, fun s c hl hc hcl => ?_⟩
  · have hstart : exec (.start c) s = _ := chanDo_live hl hc (startOp c)
    have hclear : exec (.clear c) s = _ := chanDo_live hl hc (clearOp c)
    have hfree : (!s.claimed c) = true := by rw [hcl]; rfl
    exact ⟨fun hst hcool => chanBecomes_of_setChan rfl hstart (if_pos ⟨hst, hfree, by rw [hcool]; rfl⟩),
      fun hst => chanBecomes_of_refused rfl hstart (if_neg fun h => hst h.1), stop_becomes hl hc hcl,
      clear_becomes hl hc hcl, fun hst => chanBecomes_of_refused rfl hclear (if_neg hst),
      takeoverStart_becomes hl hc hcl⟩
  · have henable : exec (.enableTimeElapsed c) s = _ := chanDo_live hl hc (enableTimeElapsedOp c)
    have hseq : exec (.startSequence c) s = _ := chanDo_live hl hc (startSequenceOp c)
    have hrampIn : exec (.rampInComplete c) s = _ := chanDo_live hl hc (rampInCompleteOp c)
    have hrampOut : exec (.stopRampOutComplete c) s = _ := chanDo_live hl hc (stopRampOutCompleteOp c)
    refine ⟨fun hph => chanBecomes_of_setChan rfl (chanDo_live hl hc (hswtElapsedOp c)) (if_pos hph),
      fun hph hrail => chanBecomes_of_setChan rfl hseq (if_pos ⟨hph, hrail⟩),
      fun _ hrail => chanBecomes_of_same rfl hseq (if_neg fun h => Nat.not_le.mpr hrail h.2), fun hph hen => ?_,
      fun hph hen => ?_, hold50Complete_becomes hl hc hcl, rampInComplete_becomes_run hl hc hcl, fun hph hst => ?_,
      fun hph hhot => ?_, fun hph hhot => ?_,
      fun hph => chanBecomes_of_setChan rfl (chanDo_live hl hc (stopHold50CompleteOp c)) (if_pos hph),
      stopEnableTimeElapsed_becomes hl hc hcl⟩
    · exact chanBecomes_of_setChan rfl henable ((if_neg (by simp [hen])).trans (if_pos hph))
    · exact chanBecomes_of_setChan rfl henable ((if_neg (by simp [hen])).trans (if_neg hph))
    · exact chanBecomes_of_setChan rfl hrampIn ((if_pos hph).trans (if_neg (by simp [hst])))
    · exact chanBecomes_of_setChan rfl hrampOut ((if_pos hph).trans (if_neg (by simp [hhot])))
    · exact chanBecomes_of_setChan rfl hrampOut ((if_pos hph).trans (if_pos hhot))

end Sys2Proof.Machine
end

section
/-! PROOF. Latches, lockouts, retries and probes of a channel (R356, R367 to R373): what a latch does, and from it O24. -/

namespace Sys2Proof.Machine

section
variable {s : State} {c : Nat}

/-! ### Messages of a latch (R370, R413) -/

theorem reg_faultMsg_ne {b : Nat} (i c cause : Nat) (h : b ≠ Reg.FPRO_EVT) : (s.faultMsg i c cause).reg b = s.reg b := by
  unfold State.faultMsg
  split
  · exact reg_fieldQueue 7 _ b
  · exact reg_fevtC_ne i c cause h

theorem rb_faultMsg_of_rb {b j : Nat} (i c cause : Nat) (h : s.rb b j = true) : (s.faultMsg i c cause).rb b j = true := by
  unfold State.faultMsg
  split
  · rw [State.rb, reg_fieldQueue]
    exact h
  · exact rb_fevtC_of_rb i c cause h

theorem rb_faultMsg_self {i : Nat} (c cause : Nat) (hi : i < 32) : (s.faultMsg i c cause).rb Reg.FPRO_EVT i = true := by
  unfold State.faultMsg
  split
  case isTrue h =>
    rw [State.rb, reg_fieldQueue]
    exact h.1
  case isFalse => exact rb_fevtC_self _ c cause hi

/-- The events of a latch: that of its cause, if it has one, and FAULT. -/
def tripReport (c cause : Nat) (e : Option Nat) (s : State) : State :=
  (match e with
    | some b => s.fevtC Reg.FPRO_EVT b c 0
    | none => s).faultMsg 4 c cause

/-- What a lockout adds to a latch. -/
def lockReport (c cause : Nat) (s : State) : State := (s.raise Reg.FPRO_LOCK (bitw c)).faultMsg 5 c cause

theorem offRegs_tripReport (c cause : Nat) (e : Option Nat) : (tripReport c cause e s).offRegs = s.offRegs := by
  cases e with
  | none => exact offRegs_faultMsg 4 c cause
  | some b => exact (offRegs_faultMsg 4 c cause).trans (offRegs_fevtC _ b c 0)

theorem offRegs_lockReport (c cause : Nat) : (lockReport c cause s).offRegs = s.offRegs :=
  (offRegs_faultMsg 5 c cause).trans (offRegs_raise _ _)

theorem reg_tripReport_ne {b : Nat} (c cause : Nat) (e : Option Nat) (h : b ≠ Reg.FPRO_EVT) :
    (tripReport c cause e s).reg b = s.reg b := by
  cases e with
  | none => exact reg_faultMsg_ne 4 c cause h
  | some i => exact (reg_faultMsg_ne 4 c cause h).trans (reg_fevtC_ne i c 0 h)

theorem reg_lockReport_ne {b : Nat} (c cause : Nat) (hevt : b ≠ Reg.FPRO_EVT) (hlock : b ≠ Reg.FPRO_LOCK) :
    (lockReport c cause s).reg b = s.reg b :=
  (reg_faultMsg_ne 5 c cause hevt).trans (reg_raise_ne s _ hlock)

theorem rb_tripReport_fault (c cause : Nat) (e : Option Nat) : (tripReport c cause e s).rb Reg.FPRO_EVT 4 = true :=
  rb_faultMsg_self c cause (by decide)

theorem rb_tripReport_cause {b : Nat} (c cause : Nat) (hb : b < 32) :
    (tripReport c cause (some b) s).rb Reg.FPRO_EVT b = true :=
  rb_faultMsg_of_rb 4 c cause (rb_fevtC_self _ c 0 hb)

theorem rb_lockReport_of_rb {b i : Nat} (c cause : Nat) (h : s.rb b i = true) : (lockReport c cause s).rb b i = true :=
  rb_faultMsg_of_rb 5 c cause (rb_raise_of_rb _ h)

theorem rb_lockReport_lock (cause : Nat) (hc : c < 32) : (lockReport c cause s).rb Reg.FPRO_LOCK c = true :=
  rb_faultMsg_of_rb 5 c cause (rb_raise_self _ hc)

theorem rb_lockReport_lockout (c cause : Nat) : (lockReport c cause s).rb Reg.FPRO_EVT 5 = true :=
  rb_faultMsg_self c cause (by decide)

theorem chst_ne_fpro (c : Nat) : Reg.FPRO_CHST c ≠ Reg.FPRO_EVT ∧ Reg.FPRO_CHST c ≠ Reg.FPRO_LOCK := by
  unfold Reg.FPRO_CHST Reg.FPRO_EVT Reg.FPRO_LOCK
  omega

theorem rf_foutSettle_chst (hc : c < 32) (hi lo : Nat) :
    (foutSettle s).rf (Reg.FPRO_CHST c) hi lo = s.rf (Reg.FPRO_CHST c) hi lo := by
  have hne : Reg.FPRO_CHST c ≠ Reg.FFIN_FOUT ∧ Reg.FPRO_CHST c ≠ Reg.FFIN_EVT := by
    unfold Reg.FPRO_CHST Reg.FFIN_FOUT Reg.FFIN_EVT
    omega
  rw [State.rf, reg_foutSettle hne.1 hne.2]
  rfl

/-! ### A latch (R368 to R373) -/

/-- A latch is a lockout: every DC fault, and the fourth within 10 s. -/
abbrev State.locksOut (s : State) (c cause : Nat) : Prop := cause = 5 ∨ 3 ≤ ((s.chan c).recent s.clock).length

/-- Channel `c` after a latch. -/
def State.latchedChan (s : State) (c cause : Nat) : Chan :=
  { (s.chan c).safeOff with
    st := if s.locksOut c cause then .lockout else .trip
    latches := s.clock :: (s.chan c).recent s.clock }

/-- FPRO_CHSTc after a latch. -/
def State.latchWord (s : State) (c cause : Nat) : Word :=
  putFld (putFld (s.reg (Reg.FPRO_CHST c)) 31 28 cause) 15 0 (Nat.min (s.rf (Reg.FPRO_CHST c) 15 0 + 1) 65535)

/-- A latch up to its lockout. -/
def tripped (c cause : Nat) (e : Option Nat) (s : State) : State :=
  tripReport c cause e ((s.setChan c (s.latchedChan c cause)).setReg (Reg.FPRO_CHST c) (s.latchWord c cause))

theorem latch_of_mayLatch (cause : Nat) (e : Option Nat) (hm : (s.chan c).st.mayLatch = true) :
    latch c cause e s =
      if s.locksOut c cause then lockReport c cause (tripped c cause e s) else tripped c cause e s := by
  unfold latch
  dsimp only
  rw [hm, if_neg (by decide)]
  rfl

theorem latch_of_not_mayLatch (cause : Nat) (e : Option Nat) (hm : (s.chan c).st.mayLatch = false) :
    latch c cause e s = s := by
  unfold latch
  dsimp only
  rw [hm, if_pos (by decide)]

theorem offRegs_tripped (cause : Nat) (e : Option Nat) :
    (tripped c cause e s).offRegs = (s.setChan c (s.latchedChan c cause)).offRegs :=
  (offRegs_tripReport c cause e).trans (offRegs_setReg _ _)

theorem reg_tripped_ne {b : Nat} (cause : Nat) (e : Option Nat) (hevt : b ≠ Reg.FPRO_EVT) (hchst : b ≠ Reg.FPRO_CHST c) :
    (tripped c cause e s).reg b = s.reg b :=
  (reg_tripReport_ne c cause e hevt).trans (reg_setReg_ne _ _ hchst)

theorem rf_tripped_cause {cause : Nat} (e : Option Nat) (hcause : cause < 16) :
    (tripped c cause e s).rf (Reg.FPRO_CHST c) 31 28 = cause := by
  rw [State.rf, tripped, reg_tripReport_ne c cause e (chst_ne_fpro c).1, reg_setReg_same, State.latchWord,
    fld_putFld_beside _ _ (by decide) (by decide), fld_putFld_same _ _ (by decide)]
  exact Nat.mod_eq_of_lt hcause

section
variable (hm : (s.chan c).st.mayLatch = true)
include hm

theorem offRegs_latch (cause : Nat) (e : Option Nat) :
    (latch c cause e s).offRegs = (s.setChan c (s.latchedChan c cause)).offRegs := by
  rw [latch_of_mayLatch cause e hm]
  split
  · exact (offRegs_lockReport c cause).trans (offRegs_tripped cause e)
  · exact offRegs_tripped cause e

theorem chan_latch_self (cause : Nat) (e : Option Nat) : (latch c cause e s).chan c = s.latchedChan c cause :=
  (chan_of_offRegs (offRegs_latch hm cause e) c).trans (setChan_same s c _)

theorem chan_latch_ne {d : Nat} (cause : Nat) (e : Option Nat) (hd : d ≠ c) : (latch c cause e s).chan d = s.chan d :=
  (chan_of_offRegs (offRegs_latch hm cause e) d).trans (setChan_ne s _ hd)

theorem rf_latch_cause {cause : Nat} (e : Option Nat) (hcause : cause < 16) :
    (latch c cause e s).rf (Reg.FPRO_CHST c) 31 28 = cause := by
  obtain ⟨hevt, hlock⟩ := chst_ne_fpro c
  rw [latch_of_mayLatch cause e hm]
  split
  · rw [State.rf, reg_lockReport_ne c cause hevt hlock]
    exact rf_tripped_cause e hcause
  · exact rf_tripped_cause e hcause

theorem rb_latch_of_tripped {cause b i : Nat} {e : Option Nat} (h : (tripped c cause e s).rb b i = true) :
    (latch c cause e s).rb b i = true := by
  rw [latch_of_mayLatch cause e hm]
  split
  · exact rb_lockReport_of_rb c cause h
  · exact h

end

/-- A latch changes three registers. -/
theorem reg_latch_ne {b : Nat} (cause : Nat) (e : Option Nat) (hevt : b ≠ Reg.FPRO_EVT) (hlock : b ≠ Reg.FPRO_LOCK)
    (hchst : b ≠ Reg.FPRO_CHST c) : (latch c cause e s).reg b = s.reg b := by
  cases hm : (s.chan c).st.mayLatch with
  | false => rw [latch_of_not_mayLatch cause e hm]
  | true =>
    rw [latch_of_mayLatch cause e hm]
    split
    · exact (reg_lockReport_ne c cause hevt hlock).trans (reg_tripped_ne cause e hevt hchst)
    · exact reg_tripped_ne cause e hevt hchst

/-- A lockout is marked in FPRO_LOCK and FPRO_EVT. -/
theorem rb_latch_lockout {cause : Nat} (e : Option Nat) (hc : c < 32) (hm : (s.chan c).st.mayLatch = true)
    (hlocks : s.locksOut c cause) : (foutSettle (latch c cause e s)).rb Reg.FPRO_LOCK c = true ∧
      (foutSettle (latch c cause e s)).rb Reg.FPRO_EVT 5 = true := by
  rw [latch_of_mayLatch cause e hm, if_pos hlocks]
  exact ⟨rb_foutSettle_of_rb (by decide) (rb_lockReport_lock cause hc),
    rb_foutSettle_of_rb (by decide) (rb_lockReport_lockout c cause)⟩

/-- A latch whose cause has an event of its own sets it. -/
theorem rb_latch_cause {cause b : Nat} (hm : (s.chan c).st.mayLatch = true) (hb : b < 32) :
    (foutSettle (latch c cause (some b) s)).rb Reg.FPRO_EVT b = true :=
  rb_foutSettle_of_rb (by decide) (rb_latch_of_tripped hm (rb_tripReport_cause c cause hb))

theorem rf_foutSettle_latch {cause : Nat} (e : Option Nat) (hc : c < 32) (hm : (s.chan c).st.mayLatch = true)
    (hcause : cause < 16) : (foutSettle (latch c cause e s)).rf (Reg.FPRO_CHST c) 31 28 = cause :=
  (rf_foutSettle_chst hc 31 28).trans (rf_latch_cause hm e hcause)

/-! ### Rows that latch -/

section
variable {i : Instr} {u v : State} {cause b : Nat} (hfield : fieldCommand i = true)
  (hrun : exec i s = .next (foutSettle u)) (hu : u = latch c cause (some b) v) (hm : (v.chan c).st.mayLatch = true)
  (hsame : v.latchedChan c cause = s.latchedChan c cause) (hothers : ∀ d, d ≠ c → v.chan d = s.chan d)
include hfield hrun hu hm hsame hothers

theorem chanBecomes_of_latch {p : State → Prop} (hp : p (foutSettle u)) :
    chanBecomes s i c (s.latchedChan c cause) p := by
  subst hu
  exact chanBecomes_of_run hfield hrun ((chan_latch_self hm cause _).trans hsame)
    (fun d hd => (chan_latch_ne hm cause _ hd).trans (hothers d hd)) hp

/-- Short of a lockout the channel trips, with its cause. -/
theorem latches_of_run (hc : c < 32) (hfew : ¬ s.locksOut c cause) (hcause : cause < 16) (hb : b < 32) :
    latches s i c cause b := by
  have hchan := chanBecomes_of_latch hfield hrun hu hm hsame hothers (p := fun t =>
    t.rf (Reg.FPRO_CHST c) 31 28 = cause ∧ t.rb Reg.FPRO_EVT b = true ∧ t.rb Reg.FPRO_EVT 4 = true)
  rw [State.latchedChan, if_neg hfew] at hchan
  subst hu
  exact hchan ⟨rf_foutSettle_latch _ hc hm hcause, rb_latch_cause hm hb,
    rb_foutSettle_of_rb (by decide) (rb_latch_of_tripped hm (rb_tripReport_fault c cause _))⟩

end

/-- A comparator or ball that latches at once trips the channel with its own cause. -/
theorem latches_at_once (hc : c < 32) (hm : (s.chan c).st.mayLatch = true)
    (hfew : ((s.chan c).recent s.clock).length < 3) {i : Instr} {f : State → State} {cause b : Nat} (hfield : fieldCommand i = true)
    (hrun : exec i s = .next (foutSettle (f s))) (hop : f s = latch c cause (some b) s) (hcause : cause < 5)
    (hb : b < 32) : latches s i c cause b :=
  latches_of_run hfield hrun hop hm rfl (fun _ _ => rfl) hc (by rintro (h | h) <;> omega) (by omega) hb

section
variable (hl : s.fieldLive = true) (hc : c < 32)
include hl hc

section
variable (hm : (s.chan c).st.mayLatch = true) (hfew : ((s.chan c).recent s.clock).length < 3)
include hm hfew

/-- The crossing in the 16th consecutive ILIM period (R367). -/
theorem ilimCrossing_latches {mv ticks : Nat} (hmv : s.rf (Reg.FPRO_THR c) 11 0 < mv)
    (hticks : s.rf Reg.FPRO_CFG 31 24 ≤ ticks) (hpwm : (s.chan c).pwm = true) (hilim : (s.chan c).ilim = false)
    (hrun : 15 ≤ (s.chan c).ilimRun) : latches s (.ilimCrossing c mv ticks) c 2 1 := by
  have hgo : (s.chan c).pwm ∧ !(s.chan c).ilim ∧ s.rf (Reg.FPRO_THR c) 11 0 < mv ∧ s.rf Reg.FPRO_CFG 31 24 ≤ ticks :=
    ⟨hpwm, by rw [hilim]; rfl, hmv, hticks⟩
  refine latches_of_run rfl (chanDo_live hl hc (ilimCrossingOp c mv ticks))
    ((if_pos hgo).trans (if_pos (Nat.succ_le_succ hrun))) ?_ ?_ (fun d hd => setChan_ne s _ hd) hc
    (by rintro (h | h) <;> omega) (by decide) (by decide)
  · rw [setChan_same]
    exact hm
  · simp only [State.latchedChan, State.locksOut, setChan_same]
    rfl

end

/-- The fourth latch within 10 s (R373). -/
theorem iscCrossing_locks_out {mv : Nat} (hm : (s.chan c).st.mayLatch = true)
    (hmany : 3 ≤ ((s.chan c).recent s.clock).length) (hmv : s.rf (Reg.FPRO_THR c) 27 16 < mv) :
    chanBecomes s (.iscCrossing c mv) c { (s.chan c).safeOff with
      st := .lockout
      latches := s.clock :: (s.chan c).recent s.clock } fun t => t.rb Reg.FPRO_LOCK c = true ∧ t.rb Reg.FPRO_EVT 5 = true := by
  have hrun : exec (.iscCrossing c mv) s = _ := chanDo_live hl hc (iscCrossingOp c mv)
  have hlocks : s.locksOut c 1 := .inr hmany
  have hop : iscCrossingOp c mv s = latch c 1 (some 0) s := if_pos hmv
  rw [hop] at hrun
  have hbecomes := chanBecomes_of_latch rfl hrun rfl hm rfl (fun _ _ => rfl) (p := fun t => t.rb Reg.FPRO_LOCK c = true ∧
    t.rb Reg.FPRO_EVT 5 = true) (rb_latch_lockout _ hc hm hlocks)
  rwa [State.latchedChan, if_pos hlocks] at hbecomes

/-- A DC fault locks the channel out whatever came before it (R371). -/
theorem dcOffset_locks_out {mv : Int} (hm : (s.chan c).st.mayLatch = true) (hmv : s.rf Reg.FPRO_DCOV 15 0 < mv.natAbs) :
    chanBecomes s (.dcOffset c mv) c { (s.chan c).safeOff with
      st := .lockout
      latches := s.clock :: (s.chan c).recent s.clock } fun t => t.rb Reg.FPRO_LOCK c = true ∧
        t.rf (Reg.FPRO_CHST c) 31 28 = 5 ∧ t.rb Reg.FPRO_EVT 6 = true := by
  have hrun : exec (.dcOffset c mv) s = _ := chanDo_live hl hc (dcOffsetOp c mv)
  have hlocks : s.locksOut c 5 := .inl rfl
  have hop : dcOffsetOp c mv s = latch c 5 (some 6) s := if_pos hmv
  rw [hop] at hrun
  have hbecomes := chanBecomes_of_latch rfl hrun rfl hm rfl (fun _ _ => rfl) (p := fun t => t.rb Reg.FPRO_LOCK c = true ∧
    t.rf (Reg.FPRO_CHST c) 31 28 = 5 ∧ t.rb Reg.FPRO_EVT 6 = true)
    ⟨(rb_latch_lockout _ hc hm hlocks).1, rf_foutSettle_latch _ hc hm (by decide), rb_latch_cause hm (by decide)⟩
  rwa [State.latchedChan, if_pos hlocks] at hbecomes

/-- An ILIM period short of the 16th ends the pulses of its period (R367). -/
theorem ilimCrossing_counts {mv ticks : Nat} (hmv : s.rf (Reg.FPRO_THR c) 11 0 < mv)
    (hticks : s.rf Reg.FPRO_CFG 31 24 ≤ ticks) (hpwm : (s.chan c).pwm = true) (hilim : (s.chan c).ilim = false)
    (hrun : (s.chan c).ilimRun < 15) : chanBecomes s (.ilimCrossing c mv ticks) c { s.chan c with
      ilim := true
      ilimRun := (s.chan c).ilimRun + 1 } fun _ => True := by
  have hgo : (s.chan c).pwm ∧ !(s.chan c).ilim ∧ s.rf (Reg.FPRO_THR c) 11 0 < mv ∧ s.rf Reg.FPRO_CFG 31 24 ≤ ticks :=
    ⟨hpwm, by rw [hilim]; rfl, hmv, hticks⟩
  exact chanBecomes_of_setChan rfl (chanDo_live hl hc (ilimCrossingOp c mv ticks))
    ((if_pos hgo).trans (if_neg (by omega)))

/-- A probe that PROBET ends (R372). -/
theorem probeComplete_becomes (hst : (s.chan c).st = .probe) (hprobing : (s.chan c).probing = true)
    (hpwm : (s.chan c).pwm = true) (hcl : s.claimed c = false) : chanBecomes s (.probeComplete c) c { s.chan c with
      st := .run
      tko := false
      probing := false } fun _ => True :=
  chanBecomes_of_setChan rfl (chanDo_live hl hc (probeCompleteOp c))
    ((if_pos ⟨hprobing, hpwm⟩).trans ((if_pos hst).trans (enterRun_unclaimed hcl)))

end
end

/-- Settles O24: each comparator and ball by what a latch does; the rows that do not latch write the channel or nothing. -/
theorem channelProtection : Obligations.ChannelProtection := by
  intro s c hl hc
  have hflt : exec (.fltAssert c) s = _ := chanDo_live hl hc (fltAssertOp c)
  refine ⟨fun hm hfew => ⟨fun mv hmv => ?_, fun mv ticks => ilimCrossing_latches hl hc hm hfew, fun hon => ?_, fun mv hmv => ?_⟩,
    fun mv => iscCrossing_locks_out hl hc, fun mv => dcOffset_locks_out hl hc, fun mv ticks => ilimCrossing_counts hl hc,
    fun mv ticks hno => ?_, fun hen hoff => ?_, fun mv hno => ?_,
    fun hst => chanBecomes_of_setChan rfl (chanDo_live hl hc (retryOp c)) (if_pos hst), probeComplete_becomes hl hc⟩
  · exact latches_at_once hc hm hfew rfl (chanDo_live hl hc (iscCrossingOp c mv)) (if_pos hmv) (by decide) (by decide)
  · have hcounts : ¬((s.chan c).en = true ∧ (!(s.chan c).fltOn) = true) := by
      rintro ⟨hen, hoff⟩
      rcases hon with h | h <;> simp_all
    exact latches_at_once hc hm hfew rfl hflt (if_neg hcounts) (by decide) (by decide)
  · exact latches_at_once hc hm hfew rfl (chanDo_live hl hc (lineOverVoltageOp c mv)) (if_pos hmv) (by decide) (by decide)
  · refine chanBecomes_of_same rfl (chanDo_live hl hc (ilimCrossingOp c mv ticks)) (if_neg ?_)
    rintro ⟨-, -, hmv, hticks⟩
    rcases hno with h | h <;> omega
  · exact chanBecomes_of_same rfl hflt (if_pos ⟨hen, by rw [hoff]; rfl⟩)
  · refine chanBecomes_of_same rfl (chanDo_live hl hc (iscCrossingOp c mv)) ?_
    rw [iscCrossingOp]
    split
    case isTrue hmv =>
      exact latch_of_not_mayLatch 1 _ (hno.resolve_right (Nat.not_le.mpr hmv))
    case isFalse => rfl

end Sys2Proof.Machine
end

section
/-! PROOF. The boost controllers and their protection (R330, R333, R360, R361, R368, R374): O23, row by row. -/

namespace Sys2Proof.Machine

section
variable {s : State} {p : Nat}

@[simp] theorem bst_fevtC (a i k e j : Nat) : (s.fevtC a i k e).bst j = s.bst j :=
  bst_of_offRegs (offRegs_fevtC a i k e) j

@[simp] theorem chan_setBst (j : Nat) (b : Bst) (c : Nat) : (s.setBst j b).chan c = s.chan c := rfl

theorem chan_formOvr (c d : Nat) : (formOvr c s).chan d = s.chan d := chan_setField rfl d

theorem reg_formOvr (c a : Nat) : (formOvr c s).reg a = s.reg a := reg_setField _ a

section
variable {i : Instr} {u : State} {b : Bst} {q : State → Prop} (hfield : fieldCommand i = true)
  (hrun : exec i s = .next (foutSettle u))
include hfield hrun

/-- A row that writes one controller and sets an event. -/
theorem bstBecomes_of_fevtC {a k : Nat} (hu : u = (s.setBst p b).fevtC a k p 0) (hq : q (foutSettle u)) :
    bstBecomes s i p b q := by
  subst hu
  refine ⟨_, hrun, ?_, fun d hd => ?_, fun c => ?_, onlyField_of_exec hfield hrun, hq⟩
  · rw [bst_foutSettle, bst_fevtC, setBst_same]
  · rw [bst_foutSettle, bst_fevtC, setBst_ne s b hd]
  · rw [chan_foutSettle, chan_fevtC, chan_setBst]

theorem bstBecomes_of_setBst (hu : u = s.setBst p b) : bstBecomes s i p b fun _ => True := by
  subst hu
  exact ⟨_, hrun, (bst_foutSettle p).trans (setBst_same s p b), fun d hd => (bst_foutSettle d).trans (setBst_ne s b hd),
    fun c => chan_foutSettle c, onlyField_of_exec hfield hrun, trivial⟩

theorem bstBecomes_of_same (hu : u = s) : bstBecomes s i p (s.bst p) fun _ => True := by
  subst hu
  exact ⟨_, hrun, bst_foutSettle p, fun d _ => bst_foutSettle d, fun c => chan_foutSettle c,
    onlyField_of_exec hfield hrun, trivial⟩

end

/-! ### A rail that latches both channels (R368) -/

/-- A channel without earlier latches trips by any cause but a DC fault. -/
theorem latchedChan_trips {c cause : Nat} (hcause : cause ≠ 5) (hnone : (s.chan c).latches = []) :
    (s.latchedChan c cause).st = .trip := by
  have hfew : ¬ s.locksOut c cause := by
    rintro (h | h)
    · exact hcause h
    · rw [Chan.recent, hnone] at h
      exact absurd h (Nat.not_succ_le_zero 2)
  exact if_neg hfew

theorem fbstEvt_ne_chst (c : Nat) : Reg.FBST_EVT ≠ Reg.FPRO_CHST c := by
  unfold Reg.FBST_EVT Reg.FPRO_CHST
  omega

/-- Two channels that may latch, latched one after the other, each as by itself. -/
theorem latch_pair {c d cause : Nat} (hcd : d ≠ c) (hcause : cause < 16) (hmc : (s.chan c).st.mayLatch = true)
    (hmd : (s.chan d).st.mayLatch = true) {u : State} (hu : u = latch d cause none (latch c cause none s)) :
    u.chan c = s.latchedChan c cause ∧ u.chan d = (latch c cause none s).latchedChan d cause ∧
      u.rf (Reg.FPRO_CHST c) 31 28 = cause ∧ u.rf (Reg.FPRO_CHST d) 31 28 = cause ∧
      ∀ e, e ≠ c → e ≠ d → u.chan e = s.chan e := by
  have hmd' : ((latch c cause none s).chan d).st.mayLatch = true := by
    rw [chan_latch_ne hmc cause none hcd]
    exact hmd
  have hchst : Reg.FPRO_CHST c ≠ Reg.FPRO_CHST d := by
    unfold Reg.FPRO_CHST
    omega
  subst hu
  refine ⟨?_, chan_latch_self hmd' cause none, ?_, rf_latch_cause hmd' none hcause, fun e hc hd => ?_⟩
  · rw [chan_latch_ne hmd' cause none hcd.symm, chan_latch_self hmc]
  · rw [State.rf, reg_latch_ne cause none (chst_ne_fpro c).1 (chst_ne_fpro c).2 hchst]
    exact rf_latch_cause hmc none hcause
  · rw [chan_latch_ne hmd' cause none hd, chan_latch_ne hmc cause none hc]

/-! ### The rows of a controller -/

theorem boostOcPersistOp_persistent (hrun : 64 ≤ (s.bst p).ocRun) (hst : (s.bst p).st = .regulating) :
    64 ≤ (s.bst p).ocRun ∧ (s.bst p).st ≠ .ocWait ∧ (s.bst p).st ≠ .latched := by
  rw [hst]
  exact ⟨hrun, by decide, by decide⟩

section
variable (hl : s.fieldLive = true) (hp : p < 16)
include hl hp

/-- A carrier period of a controller that is neither waiting nor latched, with no over-voltage (R330, R360, R361). -/
theorem boostPeriod_regulates (rail bus : Nat) (hwait : (s.bst p).st ≠ .ocWait) (hlatched : (s.bst p).st ≠ .latched)
    (hov : (s.bst p).ov = false) :
    ∃ t, exec (.boostPeriod p rail bus) s = .next t ∧ (t.bst p).rail = Nat.min rail 4095 ∧
      t.rf Reg.FBST_BUS 11 0 = Nat.min bus 4095 ∧
      (t.bst p).st = (if s.rb Reg.FBST_CTRL p = false then .off
        else if (t.bst p).set ≤ 512000 * bus then .belowBus else .regulating) ∧
      (t.bst p).gate = decide ((t.bst p).st = .regulating) ∧ (∀ c, t.chan c = s.chan c) ∧ onlyField s t := by
  have hrun : exec (.boostPeriod p rail bus) s = _ := pairDo_live hl hp (boostPeriodOp p rail bus)
  have hctrl : ((formOvr (2 * p + 1) (formOvr (2 * p) s)).setFld Reg.FBST_BUS 11 0 (Nat.min bus 4095)).rb Reg.FBST_CTRL p =
      s.rb Reg.FBST_CTRL p := by
    rw [State.rb, reg_setFld_ne _ _ _ (by decide), reg_formOvr, reg_formOvr]
    rfl
  have hbst : (formOvr (2 * p + 1) (formOvr (2 * p) s)).bst p = s.bst p := rfl
  refine ⟨_, hrun, ?_, ?_, ?_, ?_, fun c => ?_, onlyField_of_exec rfl hrun⟩
  · rw [bst_foutSettle, boostPeriodOp, setBst_same]
  · rw [State.rf, reg_foutSettle (by decide) (by decide), boostPeriodOp, setBst_reg, reg_setFld_same,
      fld_putFld_same _ _ (by decide)]
    exact Nat.mod_eq_of_lt (Nat.lt_succ_of_le (Nat.min_le_right bus 4095))
  · rw [bst_foutSettle, boostPeriodOp, setBst_same]
    dsimp only
    rw [hctrl, hbst]
    cases hst : (s.bst p).st
    case ocWait => exact absurd hst hwait
    case latched => exact absurd hst hlatched
    all_goals cases s.rb Reg.FBST_CTRL p <;> rfl
  · rw [bst_foutSettle, boostPeriodOp, setBst_same]
    dsimp only
    rw [hbst, hov, Bool.false_and, Bool.not_false, Bool.and_true]
  · rw [chan_foutSettle, boostPeriodOp, chan_setBst, chan_setFld, chan_formOvr, chan_formOvr]

/-- An over-current beyond BOC ends the gate pulse (R370). -/
theorem boostOverCurrent_becomes {mv : Nat} (hmv : s.rf Reg.FBST_PROT 11 0 < mv) :
    bstBecomes s (.boostOverCurrent p mv) p { s.bst p with
      gate := false
      oc := true
      ocRun := if (s.bst p).oc then (s.bst p).ocRun else (s.bst p).ocRun + 1 } fun t => t.rb Reg.FBST_EVT 0 = true := by
  have hrun : exec (.boostOverCurrent p mv) s = _ := pairDo_live hl hp (boostOverCurrentOp p mv)
  rw [boostOverCurrentOp, if_pos hmv] at hrun
  exact bstBecomes_of_fevtC rfl hrun rfl (rb_foutSettle_of_rb (by decide) (rb_fevtC_self _ _ _ (by decide)))

/-- A rail above BOV turns the gate off. -/
theorem boostOverVoltage_becomes {rail : Nat} (hrail : s.rf Reg.FBST_PROT 27 16 < rail) :
    bstBecomes s (.boostOverVoltage p rail) p { s.bst p with
      rail := Nat.min rail 4095
      gate := false
      ov := true } fun t => t.rb Reg.FBST_EVT 2 = true := by
  have hrun : exec (.boostOverVoltage p rail) s = _ := pairDo_live hl hp (boostOverVoltageOp p rail)
  rw [boostOverVoltageOp, if_pos hrail] at hrun
  exact bstBecomes_of_fevtC rfl hrun rfl (rb_foutSettle_of_rb (by decide) (rb_fevtC_self _ _ _ (by decide)))

section
variable (hrun64 : 64 ≤ (s.bst p).ocRun) (hst : (s.bst p).st = .regulating)
include hrun64 hst

/-- 64 over-current periods turn the gate off for RETRYT (R374). -/
theorem boostOcPersist_waits (htimes : (s.bst p).ocTimes = []) :
    bstBecomes s (.boostOcPersist p) p { s.bst p with
      st := .ocWait
      gate := false
      ocRun := 0
      ocTimes := [s.clock] } fun _ => True := by
  refine bstBecomes_of_setBst rfl (pairDo_live hl hp (boostOcPersistOp p)) ?_
  rw [boostOcPersistOp, if_pos (boostOcPersistOp_persistent hrun64 hst), htimes]
  rfl

/-- The fourth time within 10 s latches the controller off (log entry 45). -/
theorem boostOcPersist_latches (htimes : (s.bst p).ocTimes = [s.clock, s.clock, s.clock]) :
    ∃ t, exec (.boostOcPersist p) s = .next t ∧ (t.bst p).st = .latched ∧ t.rb Reg.FBST_EVT 1 = true ∧ onlyField s t := by
  have hrun : exec (.boostOcPersist p) s = _ := pairDo_live hl hp (boostOcPersistOp p)
  have hrecent : [s.clock, s.clock, s.clock].filter (fun t => decide (s.clock ≤ t + tenSeconds)) =
      [s.clock, s.clock, s.clock] := by simp
  have hop : boostOcPersistOp p s = (s.setBst p { s.bst p with
      st := .latched
      gate := false
      ocRun := 0
      ocTimes := [s.clock, s.clock, s.clock, s.clock] }).fevtC Reg.FBST_EVT 1 p 0 := by
    rw [boostOcPersistOp, if_pos (boostOcPersistOp_persistent hrun64 hst), htimes, hrecent]
    rfl
  refine ⟨_, hrun, ?_, ?_, onlyField_of_exec rfl hrun⟩
  · rw [bst_foutSettle, hop, bst_fevtC, setBst_same]
  · rw [hop]
    exact rb_foutSettle_of_rb (by decide) (rb_fevtC_self _ _ _ (by decide))

end

theorem railOverVoltage_latches {rail : Nat} (hrail : s.rf Reg.FBST_PROT 27 16 + 100 < rail)
    (hboth : ∀ i, i < 2 → (s.chan (2 * p + i)).st = .run ∧ (s.chan (2 * p + i)).latches = []) :
    ∃ t, exec (.railOverVoltage p rail) s = .next t ∧ t.rb Reg.FBST_EVT 3 = true ∧ onlyField s t ∧
      (∀ i, i < 2 → (t.chan (2 * p + i)).st = .trip ∧ (t.chan (2 * p + i)).en = false ∧
        (t.chan (2 * p + i)).pwm = false ∧ t.rf (Reg.FPRO_CHST (2 * p + i)) 31 28 = 7) ∧
      ∀ d, d ≠ 2 * p → d ≠ 2 * p + 1 → t.chan d = s.chan d := by
  have hrun : exec (.railOverVoltage p rail) s = _ := pairDo_live hl hp (railOverVoltageOp p rail)
  rw [railOverVoltageOp, if_pos hrail] at hrun
  have hchan : ∀ c, (s.fevtC Reg.FBST_EVT 3 p 0).chan c = s.chan c := fun c => chan_fevtC _ _ _ _ c
  have hmay : ∀ i, i < 2 → ((s.fevtC Reg.FBST_EVT 3 p 0).chan (2 * p + i)).st.mayLatch = true := fun i hi => by
    rw [hchan, (hboth i hi).1]
    rfl
  have hnone : ∀ i, i < 2 → ((s.fevtC Reg.FBST_EVT 3 p 0).chan (2 * p + i)).latches = [] := fun i hi => by
    rw [hchan]
    exact (hboth i hi).2
  have hne : 2 * p + 1 ≠ 2 * p := Nat.succ_ne_self _
  obtain ⟨hfirst, hsecond, hcause, hcause', hothers⟩ :=
    latch_pair hne (by decide : 7 < 16) (hmay 0 (by decide)) (hmay 1 (by decide)) rfl
  refine ⟨_, hrun, rb_foutSettle_of_rb (by decide) ?_, onlyField_of_exec rfl hrun, fun i hi => ?_, fun d hd hd' => ?_⟩
  · rw [State.rb, reg_latch_ne _ _ (by decide) (by decide) (fbstEvt_ne_chst _),
      reg_latch_ne _ _ (by decide) (by decide) (fbstEvt_ne_chst _)]
    exact rb_fevtC_self _ _ _ (by decide)
  · rw [chan_foutSettle, rf_foutSettle_chst (by omega)]
    obtain rfl | rfl : i = 0 ∨ i = 1 := by omega
    · exact ⟨(congrArg Chan.st hfirst).trans (latchedChan_trips (by decide) (hnone 0 (by decide))),
        congrArg Chan.en hfirst, congrArg Chan.pwm hfirst, hcause⟩
    · have hlatches := (congrArg Chan.latches (chan_latch_ne (hmay 0 (by decide)) 7 none hne)).trans (hnone 1 (by decide))
      exact ⟨(congrArg Chan.st hsecond).trans (latchedChan_trips (by decide) hlatches),
        congrArg Chan.en hsecond, congrArg Chan.pwm hsecond, hcause'⟩
  · rw [chan_foutSettle, hothers d hd hd', hchan]

end
end

/-- Settles O23, row by row. -/
theorem boostControllers : Obligations.BoostControllers := by
  intro s p hl hp
  exact ⟨boostPeriod_regulates hl hp, fun mv => boostOverCurrent_becomes hl hp,
    fun mv hmv => bstBecomes_of_same rfl (pairDo_live hl hp (boostOverCurrentOp p mv)) (if_neg (Nat.not_lt.mpr hmv)),
    boostOcPersist_waits hl hp, boostOcPersist_latches hl hp,
    fun hst => bstBecomes_of_setBst rfl (pairDo_live hl hp (boostRetryOp p)) (if_pos hst),
    fun rail => boostOverVoltage_becomes hl hp, fun rail => railOverVoltage_latches hl hp⟩

end Sys2Proof.Machine
end

section
/-! PROOF. Modulation, carrier assignment, avoidance runs and hinge switches (R336 to R350, R363): O22, row by row. -/

namespace Sys2Proof.Machine

section
variable {s : State} {c : Nat}

/-! ### What channels do not hold -/

/-- The state but its channels. -/
def State.offChans (s : State) : State :=
  { s with
    field := { s.field with chans := [] } }

theorem offChans_setChan (d : Nat) (x : Chan) : (s.setChan d x).offChans = s.offChans := rfl

theorem reg_of_offChans {t : State} (h : t.offChans = s.offChans) (a : Nat) : t.reg a = s.reg a := by
  have hreg := congrArg (fun u : State => u.reg a) h
  exact hreg

theorem bst_of_offChans {t : State} (h : t.offChans = s.offChans) (p : Nat) : t.bst p = s.bst p := by
  have hbst := congrArg (fun u : State => u.bst p) h
  exact hbst

/-! ### A carrier period (R336 to R344) -/

/-- The samples of a carrier period of channel `c` have entered the interpolator, and a pilot that ended is gone. -/
def State.periodBegun (s : State) (c : Nat) : State :=
  let pos := s.centrePos (s.assigned c)
  pilotSettle c pos (enterSamples c (pos / 64000) s)

/-- Channel `c` as its carrier period begins: its divider takes force and the ILIM state of the ended period is settled. -/
def State.periodChan (s : State) (c : Nat) : Chan :=
  let x := (s.periodBegun c).chan c
  { x with
    ilimRun := if x.ilim then x.ilimRun else 0
    ilim := false
    err := if s.assigned c = x.div then x.err else 0
    div := s.assigned c
    stagger := (roundHalfUp (c * (8 * s.assigned c)) 32).toNat }

theorem offChans_periodBegun : (s.periodBegun c).offChans = s.offChans := by
  unfold State.periodBegun pilotSettle
  dsimp only
  split
  · split
    · exact (offChans_setChan _ _).trans (offChans_setChan _ _)
    · exact offChans_setChan _ _
  · exact offChans_setChan _ _

theorem chan_periodBegun_ne {d : Nat} (hd : d ≠ c) : (s.periodBegun c).chan d = s.chan d := by
  have henter : ∀ n, (enterSamples c n s).chan d = s.chan d := fun n => setChan_ne s _ hd
  unfold State.periodBegun pilotSettle
  dsimp only
  split
  · split
    · exact (setChan_ne _ _ hd).trans (henter _)
    · exact henter _
  · exact henter _

/-- The interpolator's samples and the pilot apart, the channel is as before. -/
theorem chan_periodBegun_self : ∃ win winAt pilot pilOut, (s.periodBegun c).chan c = { s.chan c with
    win := win
    winAt := winAt
    pilot := pilot
    pilOut := pilOut } := by
  have henter : ∀ n, ∃ win, (enterSamples c n s).chan c = { s.chan c with
      win := win
      winAt := n } := fun n => ⟨_, setChan_same s c _⟩
  obtain ⟨win, hwin⟩ := henter (s.centrePos (s.assigned c) / 64000)
  unfold State.periodBegun pilotSettle
  dsimp only
  split
  · split
    · refine ⟨win, s.centrePos (s.assigned c) / 64000, false, none, (setChan_same _ c _).trans ?_⟩
      rw [hwin]
    · exact ⟨win, _, _, _, hwin⟩
  · exact ⟨win, _, _, _, hwin⟩

/-- A channel that plays and modulates gets its pulse widths at the period's input. -/
theorem carrierPeriodOp_modulates (hph : (s.chan c).ph = .playing) (hpwm : (s.chan c).pwm = true) :
    carrierPeriodOp c s = modulate c (periodInput s c) ((s.periodBegun c).setChan c (s.periodChan c)) := by
  obtain ⟨_, _, _, _, hchan⟩ := chan_periodBegun_self (s := s) (c := c)
  have hph' : (s.periodChan c).ph = .playing := by
    rw [State.periodChan, hchan]
    exact hph
  have hpwm' : (s.periodChan c).pwm = true := by
    rw [State.periodChan, hchan]
    exact hpwm
  change (if (s.periodChan c).pwm then (match (s.periodChan c).ph with
    | .rampIn | .playing | .rampOut => modulate c (periodInput s c) ((s.periodBegun c).setChan c (s.periodChan c))
    | _ => ((s.periodBegun c).setChan c (s.periodChan c)).setChan c (s.periodChan c).half) else _) = _
  rw [if_pos hpwm', hph']

/-- Within the limits the widths are 4N + e and 4N − e (R337). -/
theorem modulate_within {u e : Int} (hrail : 400 ≤ (s.bst (c / 2)).rail) (hprobing : (s.chan c).probing = false)
    (he : e = roundHalfUp (u * (s.rf (Reg.FPWM_CHCFG c) 31 16 : Nat) * (8 * (s.chan c).div : Nat) * 16777216 /
      ((5 * 268435456 * (s.bst (c / 2)).rail : Nat) : Int) + (s.chan c).err) 16777216)
    (hlim : e.natAbs ≤ s.elim c (s.chan c).div) :
    ∃ err ta tb, modulate c u s = s.setChan c { s.chan c with
      err := err
      wa := (4 * (s.chan c).div + e).toNat
      wb := (4 * (s.chan c).div - e).toNat
      ta := ta
      tb := tb } := by
  have hclamp : clampI (-((s.elim c (s.chan c).div : Nat) : Int)) (s.elim c (s.chan c).div : Nat) e = e := by
    rw [clampI, if_neg (by omega), if_neg (by omega)]
  unfold modulate
  dsimp only
  rw [if_neg (Nat.not_lt.mpr hrail), hprobing, if_neg Bool.false_ne_true, ← he, hclamp, if_pos rfl]
  exact ⟨_, _, _, rfl⟩

theorem modulate_low_rail (u : Int) (hrail : (s.bst (c / 2)).rail < 400) :
    modulate c u s = (s.setChan c (s.chan c).half).fevtC Reg.FPWM_EVT 3 c 0 := if_pos hrail

/-- What the modulator uses of a channel stands as the period begins, where its divider does not change. -/
theorem periodChan_stands (hdiv : s.assigned c = (s.chan c).div) : (s.periodChan c).st = (s.chan c).st ∧
    (s.periodChan c).probing = (s.chan c).probing ∧ (s.periodChan c).err = (s.chan c).err ∧
    (s.periodChan c).div = (s.chan c).div := by
  obtain ⟨_, _, _, _, hchan⟩ := chan_periodBegun_self (s := s) (c := c)
  rw [State.periodChan, hchan]
  exact ⟨rfl, rfl, if_pos hdiv, hdiv⟩

theorem chan_setChan_periodBegun_ne (x : Chan) {d : Nat} (hd : d ≠ c) :
    ((s.periodBegun c).setChan c x).chan d = s.chan d := (setChan_ne _ x hd).trans (chan_periodBegun_ne hd)

theorem offChans_setChan_periodBegun (x : Chan) : ((s.periodBegun c).setChan c x).offChans = s.offChans :=
  (offChans_setChan c x).trans offChans_periodBegun

section
variable (hl : s.fieldLive = true) (hc : c < 32) (hph : (s.chan c).ph = .playing) (hpwm : (s.chan c).pwm = true)
  (hdiv : s.assigned c = (s.chan c).div)
include hl hc hph hpwm hdiv

theorem carrierPeriod_modulates {e : Int} (hst : (s.chan c).st = .run) (hprobing : (s.chan c).probing = false)
    (hrail : 400 ≤ (s.bst (c / 2)).rail)
    (he : e = roundHalfUp (periodInput s c * (s.rf (Reg.FPWM_CHCFG c) 31 16 : Nat) * (8 * (s.chan c).div : Nat) * 16777216 /
      ((5 * 268435456 * (s.bst (c / 2)).rail : Nat) : Int) + (s.chan c).err) 16777216)
    (hlim : e.natAbs ≤ s.elim c (s.chan c).div) :
    ∃ t, exec (.carrierPeriod c) s = .next t ∧ (t.chan c).wa = (4 * (s.chan c).div + e).toNat ∧
      (t.chan c).wb = (4 * (s.chan c).div - e).toNat ∧ (t.chan c).st = .run ∧
      (∀ d, d ≠ c → t.chan d = s.chan d) ∧ onlyField s t := by
  have hrun : exec (.carrierPeriod c) s = _ := chanDo_live hl hc (carrierPeriodOp c)
  obtain ⟨hst', hprobing', herr, hdiv'⟩ := periodChan_stands hdiv
  have hoff := offChans_setChan_periodBegun (s := s) (c := c) (s.periodChan c)
  have hbst := bst_of_offChans hoff (c / 2)
  have hreg := reg_of_offChans hoff
  have helim : ∀ d, ((s.periodBegun c).setChan c (s.periodChan c)).elim c d = s.elim c d := fun d => by
    simp only [State.elim, State.rf, hreg]
  obtain ⟨err, ta, tb, hmod⟩ := modulate_within (s := (s.periodBegun c).setChan c (s.periodChan c)) (c := c)
    (u := periodInput s c) (e := e) (by rw [hbst]; exact hrail) (by rw [setChan_same, hprobing']; exact hprobing)
    (by rw [setChan_same, herr, hdiv', hbst, State.rf, hreg]; exact he) (by rw [setChan_same, hdiv', helim]; exact hlim)
  rw [carrierPeriodOp_modulates hph hpwm, hmod, setChan_same, hdiv'] at hrun
  refine ⟨_, hrun, ?_, ?_, ?_, fun d hd => ?_, onlyField_of_exec rfl hrun⟩
  · rw [chan_foutSettle, setChan_same]
  · rw [chan_foutSettle, setChan_same]
  · rw [chan_foutSettle, setChan_same]
    exact hst'.trans hst
  · rw [chan_foutSettle, setChan_ne _ _ hd, chan_setChan_periodBegun_ne _ hd]

theorem carrierPeriod_low_rail (hrail : (s.bst (c / 2)).rail < 400) :
    ∃ t, exec (.carrierPeriod c) s = .next t ∧ (t.chan c).wa = 4 * (s.chan c).div ∧
      (t.chan c).wb = 4 * (s.chan c).div ∧ t.rb Reg.FPWM_EVT 3 = true ∧ onlyField s t := by
  have hrun : exec (.carrierPeriod c) s = _ := chanDo_live hl hc (carrierPeriodOp c)
  obtain ⟨-, -, -, hdiv'⟩ := periodChan_stands hdiv
  have hbst := bst_of_offChans (offChans_setChan_periodBegun (s := s) (c := c) (s.periodChan c)) (c / 2)
  rw [carrierPeriodOp_modulates hph hpwm, modulate_low_rail _ (by rw [hbst]; exact hrail), setChan_same] at hrun
  have hhalf : ∀ y : Chan, y.half.wa = 4 * y.div ∧ y.half.wb = 4 * y.div := fun _ => ⟨rfl, rfl⟩
  refine ⟨_, hrun, ?_, ?_, rb_foutSettle_of_rb (by decide) (rb_fevtC_self _ _ _ (by decide)), onlyField_of_exec rfl hrun⟩
  · rw [chan_foutSettle, chan_fevtC, setChan_same, (hhalf _).1, hdiv']
  · rw [chan_foutSettle, chan_fevtC, setChan_same, (hhalf _).2, hdiv']

end

/-! ### FPWM_CTRL and avoidance runs (R343, R348 to R350) -/

/-- The word that a run leaves in FPWM_AVDST (R349). -/
theorem bit31_avoidanceWord {l : List Nat} (hlen : l.length ≤ 7) (hdivs : ∀ n ∈ l, n < 4096) :
    bit (wd ((if l = [] then 1 else 0) * 1073741824 + l.length * 134217728 + l.headD 0)) 31 = false := by
  have hlt : (if l = [] then 1 else 0) * 1073741824 + l.length * 134217728 + l.headD 0 < 2 ^ 31 := by
    cases l with
    | nil => decide
    | cons n l =>
      have hhead := hdivs n List.mem_cons_self
      rw [if_neg (List.cons_ne_nil n l), List.headD_cons]
      omega
  rw [bit, wd, BitVec.toNat_ofNat, Nat.mod_eq_of_lt (by omega)]
  exact Nat.testBit_lt_two_pow hlt

section
variable {v : Word} (hl : s.fieldLive = true)
include hl

theorem carrierModeWrite_takes (hlo : 427 ≤ fld v 27 16) (hhi : fld v 27 16 ≤ 3413) (hmode : fld v 1 0 ≤ 1) :
    ∃ t, exec (.carrierModeWrite v) s = .next t ∧ t.rf Reg.FPWM_CTRL 27 16 = fld v 27 16 ∧
      t.rf Reg.FPWM_CTRL 1 0 = fld v 1 0 ∧ t.rb Reg.FPWM_CTRL 29 = bit v 29 ∧ (∀ c, t.chan c = s.chan c) ∧
      onlyField s t := by
  have hrun : exec (.carrierModeWrite v) s = _ := fieldDo_live hl (carrierModeWriteOp v)
  have hdiv : 427 ≤ fld v 27 16 ∧ fld v 27 16 ≤ 3413 := ⟨hlo, hhi⟩
  have hop : carrierModeWriteOp v s = ((s.setBit Reg.FPWM_CTRL 29 (bit v 29)).setFld Reg.FPWM_CTRL 27 16
      (fld v 27 16)).setFld Reg.FPWM_CTRL 1 0 (fld v 1 0) := by
    unfold carrierModeWriteOp
    dsimp only
    rw [if_pos hmode, if_pos hdiv]
  rw [hop] at hrun
  refine ⟨_, hrun, ?_, ?_, ?_, fun c => ?_, onlyField_of_exec rfl hrun⟩
  · rw [State.rf, reg_foutSettle (by decide) (by decide), reg_setFld_same, fld_putFld_beside _ _ (by decide) (by decide),
      reg_setFld_same, fld_putFld_same _ _ (by decide)]
    exact Nat.mod_eq_of_lt (fld_lt v 27 16)
  · rw [State.rf, reg_foutSettle (by decide) (by decide), reg_setFld_same, fld_putFld_same _ _ (by decide)]
    exact Nat.mod_eq_of_lt (fld_lt v 1 0)
  · rw [State.rb, reg_foutSettle (by decide) (by decide), reg_setFld_same, bit_putFld_beside _ _ (by decide) (by decide),
      reg_setFld_same, bit_putFld_beside _ _ (by decide) (by decide)]
    exact rb_setBit_self _ _ (by decide)
  · rw [chan_foutSettle, chan_setFld, chan_setFld, chan_setBit]

theorem avoidanceRun_starts (hgo : bit v 31 = true) (hidle : s.rb Reg.FPWM_AVDST 31 = false) :
    ∃ t, exec (.avoidanceRun v) s = .next t ∧ t.rb Reg.FPWM_AVDST 31 = true ∧
      t.field.avdRun = some ((s.typeWrite Reg.FPWM_AVD v).search 3414 0 (2 * t.rf Reg.FPWM_AVD 9 8 + 1)) ∧
      (∀ c, t.chan c = s.chan c) ∧ onlyField s t := by
  have hrun : exec (.avoidanceRun v) s = _ := fieldDo_live hl (avoidanceRunOp v)
  have hidle' : (s.typeWrite Reg.FPWM_AVD v).rb Reg.FPWM_AVDST 31 = false := by
    rw [State.rb, reg_typeWrite_ne v (by decide)]
    exact hidle
  have hop : avoidanceRunOp v s = ((s.typeWrite Reg.FPWM_AVD v).setField { (s.typeWrite Reg.FPWM_AVD v).field with
      avdRun := some ((s.typeWrite Reg.FPWM_AVD v).search 3414 0
        (2 * (s.typeWrite Reg.FPWM_AVD v).rf Reg.FPWM_AVD 9 8 + 1)) }).setBit Reg.FPWM_AVDST 31 true := by
    unfold avoidanceRunOp
    dsimp only
    rw [hgo, hidle', Bool.not_true, if_neg Bool.false_ne_true, if_neg Bool.false_ne_true]
  rw [hop] at hrun
  refine ⟨_, hrun, rb_foutSettle_of_rb (by decide) (rb_setBit_self _ true (by decide)), ?_, fun c => ?_,
    onlyField_of_exec rfl hrun⟩
  · have hkeep : ∀ w : State, (foutSettle (w.setBit Reg.FPWM_AVDST 31 true)).rf Reg.FPWM_AVD 9 8 = w.rf Reg.FPWM_AVD 9 8 := by
      intro w
      rw [State.rf, reg_foutSettle (by decide) (by decide), State.setBit, reg_setFld_ne _ _ _ (by decide)]
      rfl
    rw [hkeep]
    exact field_of_offRegs (fun f => f.avdRun) (fun _ => rfl) (offRegs_foutSettle.trans (offRegs_setBit _ _ _))
  · rw [chan_foutSettle, chan_setBit]
    exact chan_typeWrite _ _ c

theorem avoidanceRunComplete_holds {l : List Nat} (hrunning : s.field.avdRun = some l) (hlen : l.length ≤ 7)
    (hdivs : ∀ n ∈ l, n < 4096) :
    ∃ t, exec .avoidanceRunComplete s = .next t ∧ t.field.avdRun = none ∧
      t.field.avoid = (if l = [] then s.field.avoid else l) ∧ t.rb Reg.FPWM_EVT (if l = [] then 1 else 0) = true ∧
      t.rb Reg.FPWM_AVDST 31 = false ∧ (∀ c, t.chan c = s.chan c) ∧ onlyField s t := by
  have hrun : exec .avoidanceRunComplete s = _ := fieldDo_live hl avoidanceRunCompleteOp
  obtain ⟨u, hu⟩ : ∃ u, u = s.setReg Reg.FPWM_AVDST
      (wd ((if l = [] then 1 else 0) * 1073741824 + l.length * 134217728 + l.headD 0)) := ⟨_, rfl⟩
  have hfield : u.field = s.field := by rw [hu, setReg_field]
  have hop : avoidanceRunCompleteOp s = (u.setField { u.field with
      avdRun := none
      avoid := if l = [] then s.field.avoid else l }).fevtC Reg.FPWM_EVT (if l = [] then 1 else 0) 0xFF 0 := by
    unfold avoidanceRunCompleteOp
    rw [hrunning]
    dsimp only
    rw [← hu, ← hfield]
    split <;> rfl
  rw [hop] at hrun
  refine ⟨_, hrun, field_of_offRegs (fun f => f.avdRun) (fun _ => rfl) (offRegs_foutSettle_fevtC _ _ _ _),
    field_of_offRegs (fun f => f.avoid) (fun _ => rfl) (offRegs_foutSettle_fevtC _ _ _ _),
    rb_foutSettle_of_rb (by decide) (rb_fevtC_self _ _ _ (by split <;> decide)), ?_, fun c => ?_,
    onlyField_of_exec rfl hrun⟩
  · rw [State.rb, reg_foutSettle (by decide) (by decide), reg_fevtC_ne _ _ _ (by decide), reg_setField, hu, reg_setReg_same]
    exact bit31_avoidanceWord hlen hdivs
  · have hchan : u.chan c = s.chan c := by rw [hu, chan_setReg]
    rw [chan_foutSettle, chan_fevtC]
    exact (chan_setField rfl c).trans hchan

end

/-! ### Hinge switches (R363) -/

/-- The channels whose switch a write of FPWM_HSW may change. -/
def State.hswMay (s : State) : Nat :=
  (List.range 32).foldl (fun m c =>
    match (s.chan c).st with
    | .off | .trip | .lockout => m + 2 ^ c
    | _ => m) 0

/-- FPWM_HSW after a write of `v`. -/
def State.hswTaken (s : State) (v : Word) : Word :=
  (s.reg Reg.FPWM_HSW &&& ~~~(wd s.hswMay)) ||| (v &&& wd s.hswMay)

theorem hswWriteOp_eq (v : Word) (s : State) : hswWriteOp v s =
    (s.setReg Reg.FPWM_HSW (s.hswTaken v)).fevtIf (decide (s.hswTaken v ≠ v)) Reg.FPWM_EVT 4 := rfl

theorem hswTaken_of_off (v : Word) (h : ∀ c, c < 32 → (s.chan c).st = .off) : s.hswTaken v = v := by
  have hmay : s.hswMay = (List.range 32).foldl (fun m c => m + 2 ^ c) 0 :=
    List.foldl_ext _ _ _ fun _ c hc => by rw [h c (List.mem_range.mp hc)]
  have hall : wd s.hswMay = BitVec.allOnes 32 := by
    rw [hmay]
    rfl
  rw [State.hswTaken, hall, BitVec.not_allOnes, BitVec.and_zero, BitVec.zero_or, BitVec.and_allOnes]

theorem hswTaken_of_run (v : Word) (h : ∀ c, c < 32 → (s.chan c).st = .run) : s.hswTaken v = s.reg Reg.FPWM_HSW := by
  have hmay : s.hswMay = (List.range 32).foldl (fun m _ => m) 0 :=
    List.foldl_ext _ _ _ fun _ c hc => by rw [h c (List.mem_range.mp hc)]
  have hnone : wd s.hswMay = 0#32 := by
    rw [hmay]
    rfl
  rw [State.hswTaken, hnone]
  simp only [BitVec.not_zero, BitVec.and_allOnes, BitVec.and_zero, BitVec.or_zero]

/-- A write of FPWM_HSW: the switches it takes, and the event of R363 where it takes not all. -/
theorem hswWrite_takes (hl : s.fieldLive = true) (v : Word) :
    ∃ t, exec (.hswWrite v) s = .next t ∧ t.reg Reg.FPWM_HSW = s.hswTaken v ∧
      (s.hswTaken v ≠ v → t.rb Reg.FPWM_EVT 4 = true) ∧ (∀ c, t.chan c = s.chan c) ∧ onlyField s t := by
  have hrun : exec (.hswWrite v) s = _ := fieldDo_live hl (hswWriteOp v)
  rw [hswWriteOp_eq] at hrun
  refine ⟨_, hrun, ?_, fun hne => rb_foutSettle_of_rb (by decide) ?_, fun c => ?_, onlyField_of_exec rfl hrun⟩
  · rw [reg_foutSettle (by decide) (by decide), reg_fevtIf_ne _ _ (by decide), reg_setReg_same]
  · rw [decide_eq_true hne]
    exact rb_fevtC_self _ _ _ (by decide)
  · rw [chan_foutSettle]
    exact chan_of_offRegs (offRegs_fevtIf _ _ _) c

end

/-- Settles O22, row by row. -/
theorem carrierAssignment : Obligations.CarrierAssignment := by
  refine ⟨fun s c e hl hc hst hph hpwm hprobing hdiv => carrierPeriod_modulates hl hc hph hpwm hdiv hst hprobing,
    fun s c hl hc hph hpwm hdiv => carrierPeriod_low_rail hl hc hph hpwm hdiv,
    fun s v hl => carrierModeWrite_takes hl, fun s v hl => avoidanceRun_starts hl,
    fun s l hl => avoidanceRunComplete_holds hl, fun s v hl hoff => ?_, fun s v hl hrun hne => ?_⟩
  · obtain ⟨t, ht, hhsw, -, hchans, honly⟩ := hswWrite_takes hl v
    exact ⟨t, ht, hhsw.trans (hswTaken_of_off v hoff), hchans, honly⟩
  · obtain ⟨t, ht, hhsw, hevt, hchans, honly⟩ := hswWrite_takes hl v
    have htaken := hswTaken_of_run v hrun
    exact ⟨t, ht, hhsw.trans htaken, hevt (by rw [htaken]; exact hne), hchans, honly⟩

end Sys2Proof.Machine
end

section
/-! PROOF. NTC inputs, impedance estimates, the pilot and earth leakage (R374 to R381): O25, row by row. -/

namespace Sys2Proof.Machine

section
variable {s : State} {c k : Nat}

/-! ### NTC trips (R374) -/

/-- What an NTC trip does to channel `i` of its four. -/
def ntcTripChan (k : Nat) (s : State) (i : Nat) : State :=
  match (s.chan (4 * k + i)).st with
  | .start | .run | .probe =>
    (s.setFld (Reg.FPRO_CHST (4 * k + i)) 31 28 6).setChan (4 * k + i) { s.chan (4 * k + i) with
      ph := .rampOut
      hot := true
      pilot := false
      seq := s.rampOutSeq (4 * k + i) }
  | _ => s

theorem ntcTripOp_eq {mv : Nat} (hk : k < 8) (hmv : mv < 2 * s.rf Reg.FPRO_NTC 19 10) :
    ntcTripOp k mv s = forN 4 (s.fevtC Reg.FPRO_EVT 8 k 0) (ntcTripChan k) := if_pos ⟨hk, hmv⟩

theorem ntcTripChan_cases (k : Nat) (s : State) (i : Nat) : ntcTripChan k s i = s ∨
    ∃ x, ntcTripChan k s i = (s.setFld (Reg.FPRO_CHST (4 * k + i)) 31 28 6).setChan (4 * k + i) x := by
  unfold ntcTripChan
  split
  · exact .inr ⟨_, rfl⟩
  · exact .inr ⟨_, rfl⟩
  · exact .inr ⟨_, rfl⟩
  · exact .inl rfl

theorem chan_ntcTripChan_ne {i d : Nat} (hd : d ≠ 4 * k + i) : (ntcTripChan k s i).chan d = s.chan d := by
  obtain h | ⟨x, h⟩ := ntcTripChan_cases k s i <;> rw [h]
  rw [setChan_ne _ x hd, chan_setFld]

theorem reg_ntcTripChan_ne {i b : Nat} (hb : b ≠ Reg.FPRO_CHST (4 * k + i)) : (ntcTripChan k s i).reg b = s.reg b := by
  obtain h | ⟨x, h⟩ := ntcTripChan_cases k s i <;> rw [h]
  rw [setChan_reg, reg_setFld_ne _ _ _ hb]

theorem nextSample_setFld (a hi lo v : Nat) : (s.setFld a hi lo v).nextSample = s.nextSample := rfl

theorem nextSample_setChan (d : Nat) (x : Chan) : (s.setChan d x).nextSample = s.nextSample := rfl

theorem nextSample_ntcTripChan (i : Nat) : (ntcTripChan k s i).nextSample = s.nextSample := by
  obtain h | ⟨x, h⟩ := ntcTripChan_cases k s i <;> rw [h]
  rw [nextSample_setChan, nextSample_setFld]

theorem nextSample_of_offRegs {t : State} (h : t.offRegs = s.offRegs) : t.nextSample = s.nextSample := by
  have hnext := congrArg (fun u : State => u.nextSample) h
  exact hnext

theorem free_of_offRegs {t : State} (h : t.offRegs = s.offRegs) : t.free = s.free := by
  have hfree := congrArg (fun u : State => u.free) h
  exact hfree

theorem mem_of_offRegs {t : State} (h : t.offRegs = s.offRegs) : t.mem = s.mem := by
  have hmem := congrArg (fun u : State => u.mem) h
  exact hmem

/-- Channel `i` of the four, which played in RUN, ramps out from sample `n` towards THERMAL. -/
def Overheated (k n i : Nat) (t : State) : Prop :=
  (t.chan (4 * k + i)).ph = .rampOut ∧ (t.chan (4 * k + i)).hot = true ∧ (t.chan (4 * k + i)).st = .run ∧
    t.rf (Reg.FPRO_CHST (4 * k + i)) 31 28 = 6 ∧ ∃ v, (t.chan (4 * k + i)).seq = .out n v

theorem overheated_ntcTripChan {i : Nat} (hst : (s.chan (4 * k + i)).st = .run) (hph : (s.chan (4 * k + i)).ph = .playing) :
    Overheated k s.nextSample i (ntcTripChan k s i) := by
  have hop : ntcTripChan k s i = (s.setFld (Reg.FPRO_CHST (4 * k + i)) 31 28 6).setChan (4 * k + i)
      { s.chan (4 * k + i) with
        ph := .rampOut
        hot := true
        pilot := false
        seq := .out s.nextSample (s.lastPlayed (4 * k + i)) } := by
    have hseq : s.rampOutSeq (4 * k + i) = .out s.nextSample (s.lastPlayed (4 * k + i)) := by rw [State.rampOutSeq, hph]
    rw [ntcTripChan, hst, hseq]
  rw [Overheated, hop, setChan_same]
  refine ⟨rfl, rfl, hst, ?_, _, rfl⟩
  rw [State.rf, setChan_reg, reg_setFld_same]
  exact fld_putFld_same _ 6 (by decide)

theorem overheated_keeps {n i j : Nat} (hij : j ≠ i) (h : Overheated k n i s) : Overheated k n i (ntcTripChan k s j) := by
  have hchst : Reg.FPRO_CHST (4 * k + i) ≠ Reg.FPRO_CHST (4 * k + j) := by
    unfold Reg.FPRO_CHST
    omega
  rw [Overheated, chan_ntcTripChan_ne (by omega), State.rf, reg_ntcTripChan_ne hchst]
  exact h

section
variable (hl : s.fieldLive = true) (hk : k < 8)
include hl hk

theorem ntcTrip_ramps_out {mv : Nat} (hmv : mv < 2 * s.rf Reg.FPRO_NTC 19 10) :
    ∃ t, exec (.ntcTrip k mv) s = .next t ∧ t.rb Reg.FPRO_EVT 8 = true ∧ onlyField s t ∧
      (∀ i, i < 4 → (s.chan (4 * k + i)).st = .run → (s.chan (4 * k + i)).ph = .playing → Overheated k s.nextSample i t) ∧
      (∀ i, i < 4 → (s.chan (4 * k + i)).st = .off → t.chan (4 * k + i) = s.chan (4 * k + i)) ∧
      ∀ c, c / 4 ≠ k → t.chan c = s.chan c := by
  have hrun : exec (.ntcTrip k mv) s = _ := fieldDo_live hl (ntcTripOp k mv)
  rw [ntcTripOp_eq hk hmv] at hrun
  refine ⟨_, hrun, rb_foutSettle_of_rb (by decide) ?_, onlyField_of_exec rfl hrun, fun i hi hst hph => ?_,
    fun i hi hoff => ?_, fun c hc => ?_⟩
  · refine forN_keeps (P := fun t : State => t.rb Reg.FPRO_EVT 8 = true) (rb_fevtC_self _ _ _ (by decide)) fun t j _ ht => ?_
    rw [State.rb, reg_ntcTripChan_ne (chst_ne_fpro _).1.symm]
    exact ht
  · have hloop := forN_each (f := ntcTripChan k) (n := 4) (a := s.fevtC Reg.FPRO_EVT 8 k 0)
      (P := fun j t => t.nextSample = s.nextSample ∧ t.chan (4 * k + j) = s.chan (4 * k + j))
      (Q := fun j t => (s.chan (4 * k + j)).st = .run → (s.chan (4 * k + j)).ph = .playing → Overheated k s.nextSample j t)
      (fun j _ => ⟨nextSample_of_offRegs (offRegs_fevtC _ _ _ _), chan_fevtC _ _ _ _ _⟩)
      (fun t j i hij ht => ⟨(nextSample_ntcTripChan j).trans ht.1, (chan_ntcTripChan_ne (by omega)).trans ht.2⟩)
      (fun t j _ ht hst hph => by
        rw [← ht.1]
        rw [← ht.2] at hst hph
        exact overheated_ntcTripChan hst hph)
      (fun t j i hij ht hst hph => overheated_keeps hij (ht hst hph)) hi hst hph
    rw [Overheated, chan_foutSettle, rf_foutSettle_chst (by omega)]
    exact hloop
  · rw [chan_foutSettle]
    refine forN_keeps (P := fun t : State => t.chan (4 * k + i) = s.chan (4 * k + i)) (chan_fevtC _ _ _ _ _) fun t j _ ht => ?_
    rcases eq_or_ne j i with rfl | hij
    · rw [ntcTripChan, ht, hoff]
      exact ht
    · exact (chan_ntcTripChan_ne (by omega)).trans ht
  · rw [chan_foutSettle]
    exact forN_keeps (P := fun t : State => t.chan c = s.chan c) (chan_fevtC _ _ _ _ _)
      fun t j hj ht => (chan_ntcTripChan_ne (by omega)).trans ht

/-- What the end of an NTC trip does to channel `i` of its four. -/
def thermalRestoreChan (k : Nat) (s : State) (i : Nat) : State :=
  if (s.chan (4 * k + i)).st = .thermal then s.setChan (4 * k + i) ((s.chan (4 * k + i)).begin .start) else s

theorem thermalRestore_restarts {mv : Nat} (hmv : 2 * s.rf Reg.FPRO_NTC 9 0 < mv) :
    ∃ t, exec (.thermalRestore k mv) s = .next t ∧ onlyField s t ∧ t.field.warm = delMask s.field.warm k ∧
      (∀ c, c / 4 = k → t.chan c = if (s.chan c).st = .thermal then (s.chan c).begin .start else s.chan c) ∧
      ∀ c, c / 4 ≠ k → t.chan c = s.chan c := by
  have hrun : exec (.thermalRestore k mv) s = _ := fieldDo_live hl (thermalRestoreOp k mv)
  have hop : thermalRestoreOp k mv s =
      forN 4 (s.setField { s.field with warm := delMask s.field.warm k }) (thermalRestoreChan k) := if_pos ⟨hk, hmv⟩
  have hne : ∀ (t : State) (i d : Nat), d ≠ 4 * k + i → (thermalRestoreChan k t i).chan d = t.chan d := fun t i d hd => by
    unfold thermalRestoreChan
    split
    · exact setChan_ne t _ hd
    · rfl
  rw [hop] at hrun
  refine ⟨_, hrun, onlyField_of_exec rfl hrun, ?_, fun c hc => ?_, fun c hc => ?_⟩
  · refine (field_of_offRegs (fun f => f.warm) (fun _ => rfl) offRegs_foutSettle).trans
      (forN_keeps (P := fun t : State => t.field.warm = delMask s.field.warm k) rfl fun t j _ ht => ?_)
    unfold thermalRestoreChan
    split <;> exact ht
  · have hloop := forN_each (f := thermalRestoreChan k) (n := 4) (k := c % 4)
      (a := s.setField { s.field with warm := delMask s.field.warm k })
      (P := fun j t => t.chan (4 * k + j) = s.chan (4 * k + j))
      (Q := fun j t => t.chan (4 * k + j) = if (s.chan (4 * k + j)).st = .thermal then
        (s.chan (4 * k + j)).begin .start else s.chan (4 * k + j))
      (fun j _ => chan_setField rfl _) (fun t j i hij ht => (hne t j _ (by omega)).trans ht)
      (fun t j _ ht => by
        rw [thermalRestoreChan, ht]
        split
        · exact setChan_same t _ _
        · exact ht)
      (fun t j i hij ht => (hne t j _ (by omega)).trans ht) (Nat.mod_lt c (by decide))
    have hchan : 4 * k + c % 4 = c := by omega
    rw [hchan] at hloop
    rw [chan_foutSettle]
    exact hloop
  · rw [chan_foutSettle]
    exact forN_keeps (P := fun t : State => t.chan c = s.chan c) (chan_setField rfl _)
      fun t j hj ht => (hne t j c (by omega)).trans ht

theorem ntcWarning_warns {mv : Nat} (hmv : mv < 2 * s.rf Reg.FPRO_NTC 29 20) (hnew : inMask s.field.warm k = false) :
    ∃ t, exec (.ntcWarning k mv) s = .next t ∧ t.rb Reg.FPRO_EVT 7 = true ∧ (∀ c, t.chan c = s.chan c) ∧ onlyField s t := by
  have hrun : exec (.ntcWarning k mv) s = _ := fieldDo_live hl (ntcWarningOp k mv)
  rw [ntcWarningOp, if_neg (Nat.not_le.mpr hk), if_pos hmv, hnew, if_neg Bool.false_ne_true] at hrun
  refine ⟨_, hrun, rb_foutSettle_of_rb (by decide) (rb_fevtC_self _ _ _ (by decide)), fun c => ?_, onlyField_of_exec rfl hrun⟩
  rw [chan_foutSettle, chan_fevtC]
  exact chan_setField rfl c

end

/-! ### Impedance estimates (R375, R378 to R380) -/

/-- The state as a 250 ms window of channel `c` ends. -/
def State.zWindowEnd (s : State) (c : Nat) : State := s.setChan c { s.chan c with
  sq := 0
  sqN := 0
  pilWin := (s.chan c).pilot }

/-- The word of FMON_Z that reports an estimate. -/
def zWord (pilot : Bool) (z : Nat) : Word := wd (2147483648 + b2n pilot * 1073741824 + z)

/-- The events of an estimate, by how many in a row lay below and above the limits (R379, R380). -/
def zEvents (c zl zh : Nat) (s : State) : State :=
  let s := if zl = 2 then s.fevtC Reg.FMON_EVT 0 c 0 else s
  if zh = 2 then s.fevtC Reg.FMON_EVT 1 c 0 else s

theorem reportZ_eq (c z : Nat) (pilot : Bool) (s : State) : ∃ zl zh, reportZ c z pilot s =
    zEvents c zl zh ((s.setReg (Reg.FMON_Z c) (zWord pilot z)).setChan c { s.chan c with
      zlow := zl
      zhigh := zh }) := ⟨_, _, rfl⟩

theorem offRegs_zEvents (c zl zh : Nat) : (zEvents c zl zh s).offRegs = s.offRegs := by
  have hlow : (if zl = 2 then s.fevtC Reg.FMON_EVT 0 c 0 else s).offRegs = s.offRegs := by
    split
    · exact offRegs_fevtC _ _ _ _
    · rfl
  unfold zEvents
  dsimp only
  split
  · exact (offRegs_fevtC _ _ _ _).trans hlow
  · exact hlow

theorem reg_zEvents_ne {b : Nat} (c zl zh : Nat) (hb : b ≠ Reg.FMON_EVT) : (zEvents c zl zh s).reg b = s.reg b := by
  have hlow : (if zl = 2 then s.fevtC Reg.FMON_EVT 0 c 0 else s).reg b = s.reg b := by
    split
    · exact reg_fevtC_ne _ _ _ hb
    · rfl
  unfold zEvents
  dsimp only
  split
  · exact (reg_fevtC_ne _ _ _ hb).trans hlow
  · exact hlow

theorem within_zEvents {u : State} (zl zh : Nat) (h : Within fieldParts u s) : Within fieldParts u (zEvents c zl zh s) := by
  have hlow : Within fieldParts u (if zl = 2 then s.fevtC Reg.FMON_EVT 0 c 0 else s) :=
    within_ite (within_fevtC rfl _ _ _ _ (opens_const rfl rfl) h) h
  exact within_ite (within_fevtC rfl _ _ _ _ (opens_const rfl rfl) hlow) hlow

/-- An estimate changes the field die only. -/
theorem within_reportZ_field {u : State} (z : Nat) (pilot : Bool) (h : Within fieldParts u s) :
    Within fieldParts u (reportZ c z pilot s) := by
  obtain ⟨zl, zh, heq⟩ := reportZ_eq c z pilot s
  rw [heq]
  exact within_zEvents zl zh (within_setChan rfl _ _ (within_setReg_open (opens_array rfl _ rfl) _ h))

theorem chan_reportZ_ne {d : Nat} (z : Nat) (pilot : Bool) (hd : d ≠ c) : (reportZ c z pilot s).chan d = s.chan d := by
  obtain ⟨zl, zh, heq⟩ := reportZ_eq c z pilot s
  rw [heq, chan_of_offRegs (offRegs_zEvents c zl zh), setChan_ne _ _ hd, chan_setReg]

theorem sqN_reportZ (z : Nat) (pilot : Bool) : ((reportZ c z pilot s).chan c).sqN = (s.chan c).sqN := by
  obtain ⟨zl, zh, heq⟩ := reportZ_eq c z pilot s
  rw [heq, chan_of_offRegs (offRegs_zEvents c zl zh), setChan_same]

theorem reg_reportZ (z : Nat) (pilot : Bool) : (reportZ c z pilot s).reg (Reg.FMON_Z c) = zWord pilot z := by
  have hne : Reg.FMON_Z c ≠ Reg.FMON_EVT := by
    unfold Reg.FMON_Z Reg.FMON_EVT
    omega
  obtain ⟨zl, zh, heq⟩ := reportZ_eq c z pilot s
  rw [heq, reg_zEvents_ne c zl zh hne, setChan_reg, reg_setReg_same]

/-- An estimate uses no free value and writes no memory. -/
theorem free_mem_reportZ (z : Nat) (pilot : Bool) :
    (reportZ c z pilot s).free = s.free ∧ (reportZ c z pilot s).mem = s.mem := by
  obtain ⟨zl, zh, heq⟩ := reportZ_eq c z pilot s
  have hoff := fun v : State => offRegs_zEvents (s := v) c zl zh
  rw [heq, free_of_offRegs (hoff _), mem_of_offRegs (hoff _), State.setChan, setField_free, setField_mem, setReg_free,
    setReg_mem]
  exact ⟨rfl, rfl⟩

theorem reg_foutSettle_z (hc : c < 32) : (foutSettle s).reg (Reg.FMON_Z c) = s.reg (Reg.FMON_Z c) := by
  have hne : Reg.FMON_Z c ≠ Reg.FFIN_FOUT ∧ Reg.FMON_Z c ≠ Reg.FFIN_EVT := by
    unfold Reg.FMON_Z Reg.FFIN_FOUT Reg.FFIN_EVT
    omega
  exact reg_foutSettle hne.1 hne.2

/-- VALID and PILOT of FMON_Z. -/
theorem bit_zWord_pilot {z : Nat} (hz : z < 1073741824) : bit (zWord true z) 31 = true ∧ bit (zWord true z) 30 = true := by
  have hword : (zWord true z).toNat = 2 ^ 30 * 3 + z := by
    rw [zWord, wd, BitVec.toNat_ofNat, b2n, if_pos rfl]
    omega
  rw [bit, bit, hword, Nat.testBit_two_pow_mul_add 3 hz, Nat.testBit_two_pow_mul_add 3 hz]
  exact ⟨rfl, rfl⟩

theorem zWord_without_pilot (z : Nat) : zWord false z = wd (2147483648 + z) := by rw [zWord, b2n, if_neg Bool.false_ne_true]

theorem zWord_by_pilot (z : Nat) : zWord true z = wd (2147483648 + 1073741824 + z) := by rw [zWord, b2n, if_pos rfl]

theorem impedance_le (zk vs2 is2 : Nat) : impedance zk vs2 is2 ≤ 16777215 := Nat.min_le_right _ _

/-- What the windows' samples amount to: the pilot's line or the sum of squares (R375, R378). -/
def zPower (pilot : Bool) (l : List Int) : Nat := if pilot then dftBin l else sumSquares l

/-- The window of channel `c` gives an estimate. -/
def State.zMeasures (s : State) (c : Nat) : Prop :=
  (s.chan c).st = .run ∧ (s.pilotWindow c = true ∨
    (s.chan c).pilot = false ∧ (s.chan c).pilWin = false ∧ (s.chan c).loud = true)

section
variable {vs is : List Int}

theorem impedanceEstimateOp_measures (hz : s.zMeasures c) : impedanceEstimateOp c vs is s =
    if zPower (s.pilotWindow c) is = 0 then
      reportZ c (fld (Config.freeWord s.free) 23 0) (s.pilotWindow c) (s.zWindowEnd c).nextFree.2
    else reportZ c (impedance (s.reg (Reg.FMON_ZK c)).toNat (zPower (s.pilotWindow c) vs) (zPower (s.pilotWindow c) is))
      (s.pilotWindow c) (s.zWindowEnd c) := by
  refine if_pos ?_
  obtain ⟨hst, hby⟩ := hz
  simpa using And.intro hst hby

theorem impedanceEstimateOp_silent (hz : ¬ s.zMeasures c) : impedanceEstimateOp c vs is s = s.zWindowEnd c := by
  refine if_neg fun h => hz ?_
  simpa [State.zMeasures] using h

/-- A programme that is loud enough measures where no pilot has played in the window. -/
theorem zMeasures_programme (hst : (s.chan c).st = .run) (hpilot : (s.chan c).pilot = false)
    (hwin : (s.chan c).pilWin = false) (hloud : (s.chan c).loud = true) :
    s.zMeasures c ∧ s.pilotWindow c = false := by
  refine ⟨⟨hst, .inr ⟨hpilot, hwin, hloud⟩⟩, ?_⟩
  rw [State.pilotWindow, hpilot]
  rfl

section
variable (hl : s.fieldLive = true) (hc : c < 32)
include hl hc

theorem impedanceEstimate_measures (hz : s.zMeasures c) (hload : zPower (s.pilotWindow c) is ≠ 0) :
    ∃ t, exec (.impedanceEstimate c vs is) s = .next t ∧ t.reg (Reg.FMON_Z c) = zWord (s.pilotWindow c)
      (impedance (s.reg (Reg.FMON_ZK c)).toNat (zPower (s.pilotWindow c) vs) (zPower (s.pilotWindow c) is)) ∧
      (t.chan c).sqN = 0 ∧ onlyField s t ∧ ∀ d, d ≠ c → t.chan d = s.chan d := by
  have hrun : exec (.impedanceEstimate c vs is) s = _ := chanDo_live hl hc (impedanceEstimateOp c vs is)
  rw [impedanceEstimateOp_measures hz, if_neg hload] at hrun
  refine ⟨_, hrun, ?_, ?_, onlyField_of_within ?_, fun d hd => ?_⟩
  · rw [reg_foutSettle_z hc, reg_reportZ]
  · rw [chan_foutSettle, sqN_reportZ, State.zWindowEnd, setChan_same]
  · exact within_foutSettle rfl (within_reportZ_field _ _ (within_setChan rfl _ _ (Within.refl _ s)))
  · rw [chan_foutSettle, chan_reportZ_ne _ _ hd, State.zWindowEnd, setChan_ne _ _ hd]

/-- Without load current the estimate is a free value (log entry 46). -/
theorem impedanceEstimate_without_load (hz : s.zMeasures c) (hload : zPower (s.pilotWindow c) is = 0) :
    ∃ t, exec (.impedanceEstimate c vs is) s = .next t ∧ t.free = s.free + 1 ∧
      t.reg (Reg.FMON_Z c) = zWord (s.pilotWindow c) (fld (Config.freeWord s.free) 23 0) ∧ t.mem = s.mem ∧
      ∀ d, d ≠ c → t.chan d = s.chan d := by
  have hrun : exec (.impedanceEstimate c vs is) s = _ := chanDo_live hl hc (impedanceEstimateOp c vs is)
  rw [impedanceEstimateOp_measures hz, if_pos hload] at hrun
  refine ⟨_, hrun, ?_, ?_, ?_, fun d hd => ?_⟩
  · rw [free_of_offRegs offRegs_foutSettle, (free_mem_reportZ _ _).1]
    rfl
  · rw [reg_foutSettle_z hc, reg_reportZ]
  · rw [mem_of_offRegs offRegs_foutSettle, (free_mem_reportZ _ _).2]
    rfl
  · rw [chan_foutSettle, chan_reportZ_ne _ _ hd]
    exact setChan_ne s _ hd

theorem impedanceEstimate_silent (hz : ¬ s.zMeasures c) :
    ∃ t, exec (.impedanceEstimate c vs is) s = .next t ∧ t.reg (Reg.FMON_Z c) = s.reg (Reg.FMON_Z c) ∧ onlyField s t := by
  have hrun : exec (.impedanceEstimate c vs is) s = _ := chanDo_live hl hc (impedanceEstimateOp c vs is)
  rw [impedanceEstimateOp_silent hz] at hrun
  refine ⟨_, hrun, ?_, onlyField_of_within (within_foutSettle rfl (within_setChan rfl _ _ (Within.refl _ s)))⟩
  rw [reg_foutSettle_z hc, State.zWindowEnd, setChan_reg]

theorem impedanceEstimate_by_pilot (hst : (s.chan c).st = .run) (hwin : s.pilotWindow c = true) :
    ∃ t, exec (.impedanceEstimate c vs is) s = .next t ∧ (dftBin is ≠ 0 → onlyField s t ∧ t.reg (Reg.FMON_Z c) =
      wd (2147483648 + 1073741824 + impedance (s.reg (Reg.FMON_ZK c)).toNat (dftBin vs) (dftBin is))) ∧
      t.rb (Reg.FMON_Z c) 31 = true ∧ t.rb (Reg.FMON_Z c) 30 = true ∧ ∀ d, d ≠ c → t.chan d = s.chan d := by
  have hz : s.zMeasures c := ⟨hst, .inl hwin⟩
  have hpower : ∀ l, zPower (s.pilotWindow c) l = dftBin l := fun l => by rw [zPower, hwin, if_pos rfl]
  by_cases hload : dftBin is = 0
  · obtain ⟨t, ht, -, hreg, -, hothers⟩ := impedanceEstimate_without_load (vs := vs) hl hc hz ((hpower is).trans hload)
    have hfree := fld_lt (Config.freeWord s.free) 23 0
    rw [hwin] at hreg
    obtain ⟨hvalid, hpilot⟩ := bit_zWord_pilot (hfree.trans (by decide))
    exact ⟨t, ht, fun hne => absurd hload hne, by rw [State.rb, hreg, hvalid], by rw [State.rb, hreg, hpilot], hothers⟩
  · obtain ⟨t, ht, hreg, -, honly, hothers⟩ := impedanceEstimate_measures (vs := vs) hl hc hz (by rwa [hpower])
    rw [hpower, hpower, hwin] at hreg
    obtain ⟨hvalid, hpilot⟩ := bit_zWord_pilot ((impedance_le _ _ _).trans_lt (by decide))
    exact ⟨t, ht, fun _ => ⟨honly, hreg.trans (zWord_by_pilot _)⟩, by rw [State.rb, hreg, hvalid],
      by rw [State.rb, hreg, hpilot], hothers⟩

/-! ### The pilot (R376, R377) -/

theorem pilotStart_becomes (hen : s.rb Reg.FMON_CTRL 0 = true) (hst : (s.chan c).st = .run)
    (hquiet : (s.chan c).quiet = true) (hcl : s.claimed c = false) (hoff : (s.chan c).pilot = false) :
    chanBecomes s (.pilotStart c) c { s.chan c with
      pilot := true
      pilUp := s.nextSample
      pilOut := none
      pilWin := true } fun _ => True :=
  chanBecomes_of_setChan rfl (chanDo_live hl hc (pilotStartOp c))
    (if_pos ⟨hen, hst, hquiet, by rw [hcl]; rfl, by rw [hoff]; rfl⟩)

end
end

/-! ### Earth leakage (R381) -/

theorem earthLeakage_warns (hl : s.fieldLive = true) {mv : Nat} (hmv : s.rf Reg.FMON_ELK 15 0 < mv) :
    ∃ t, exec (.earthLeakage mv) s = .next t ∧ t.rf Reg.FMON_ELK 31 16 = Nat.min mv 65535 ∧
      t.rf Reg.FMON_ELK 15 0 = s.rf Reg.FMON_ELK 15 0 ∧ t.rb Reg.FMON_EVT 2 = true ∧ (∀ c, t.chan c = s.chan c) ∧
      onlyField s t := by
  have hrun : exec (.earthLeakage mv) s = _ := fieldDo_live hl (earthLeakageOp mv)
  rw [earthLeakageOp, decide_eq_true hmv, fevtIf_true] at hrun
  have hreg : ∀ w : State, (foutSettle (w.fevtC Reg.FMON_EVT 2 0xFF 0)).reg Reg.FMON_ELK = w.reg Reg.FMON_ELK := fun w => by
    rw [reg_foutSettle (by decide) (by decide), reg_fevtC_ne _ _ _ (by decide)]
  refine ⟨_, hrun, ?_, ?_, rb_foutSettle_of_rb (by decide) (rb_fevtC_self _ _ _ (by decide)), fun c => ?_,
    onlyField_of_exec rfl hrun⟩
  · rw [State.rf, hreg, reg_setFld_same, fld_putFld_same _ _ (by decide)]
    exact Nat.mod_eq_of_lt (Nat.lt_succ_of_le (Nat.min_le_right mv 65535))
  · rw [State.rf, State.rf, hreg, reg_setFld_same, fld_putFld_beside _ _ (by decide) (by decide)]
  · rw [chan_foutSettle, chan_fevtC, chan_setFld]

end

/-- Settles O25, row by row. -/
theorem thermalAndMonitoring : Obligations.ThermalAndMonitoring := by
  refine ⟨fun s k mv hl hk => ntcWarning_warns hl hk, fun s k mv hl hk => ntcTrip_ramps_out hl hk,
    fun s k mv hl hk => thermalRestore_restarts hl hk, fun s c vs is hl hc hst hpilot hwin hloud hload => ?_,
    fun s c vs is hl hc => impedanceEstimate_by_pilot hl hc, fun s c vs is hl hc hst hpilot hwin hloud hload => ?_,
    fun s c vs is hl hc hno hquiet => impedanceEstimate_silent hl hc ?_, fun s c hl hc => pilotStart_becomes hl hc,
    fun s mv hl => earthLeakage_warns hl⟩
  · obtain ⟨hz, hby⟩ := zMeasures_programme hst hpilot hwin hloud
    have hpower : ∀ l, zPower (s.pilotWindow c) l = sumSquares l := fun l => by
      rw [zPower, hby, if_neg Bool.false_ne_true]
    obtain ⟨t, ht, hreg, hrest⟩ := impedanceEstimate_measures (vs := vs) hl hc hz (by rwa [hpower])
    rw [hpower, hpower, hby, zWord_without_pilot] at hreg
    exact ⟨t, ht, hreg, hrest⟩
  · obtain ⟨hz, hby⟩ := zMeasures_programme hst hpilot hwin hloud
    have hpower : zPower (s.pilotWindow c) is = 0 := by rwa [zPower, hby, if_neg Bool.false_ne_true]
    obtain ⟨t, ht, hfree, hreg, hrest⟩ := impedanceEstimate_without_load (vs := vs) hl hc hz hpower
    rw [hby, zWord_without_pilot] at hreg
    exact ⟨t, ht, hfree, hreg, hrest⟩
  · rintro ⟨hst, hby | ⟨hpilot, hwin, hloud⟩⟩
    · exact Bool.false_ne_true (hno.symm.trans hby)
    · simp [hst, hpilot, hwin, hloud] at hquiet

end Sys2Proof.Machine
end

section
/-! PROOF. Fire inputs, the fault relay, override and AUTONOMY (R365, R410 to R420, R427 to R431): O27, row by row. -/

namespace Sys2Proof.Machine

section
variable {s : State} {k : Nat}

/-! ### Claims follow the asserted entries (R428, R429) -/

/-- The state but its channels and the claims on them. -/
def State.offClaims (s : State) : State :=
  { s with
    field := { s.field with
      chans := []
      ovr := [] } }

theorem offClaims_setChan (d : Nat) (x : Chan) : (s.setChan d x).offClaims = s.offClaims := rfl

theorem offClaims_setOvr (d : Nat) (o : OvrCh) : (s.setOvr d o).offClaims = s.offClaims := rfl

theorem offClaims_replaceSource (d : Nat) (a : AudioSrc) : (replaceSource d a s).offClaims = s.offClaims :=
  offClaims_setChan d _

theorem offClaims_claimBy (d k : Nat) : (claimBy d k s).offClaims = s.offClaims := by
  unfold claimBy
  split
  · rw [offClaims_replaceSource, offClaims_setChan, offClaims_setOvr]
  · rw [offClaims_replaceSource, offClaims_setChan, offClaims_setOvr]
  · rw [offClaims_replaceSource, offClaims_setChan, offClaims_setOvr]
  · exact (offClaims_setChan d _).trans (offClaims_setOvr d _)
  · rw [offClaims_setChan, offClaims_setOvr]

theorem offClaims_unclaim (d : Nat) : (unclaim d s).offClaims = s.offClaims := by
  have hfree : ∀ l, (s.setField { s.field with ovr := l }).offClaims = s.offClaims := fun _ => rfl
  unfold unclaim
  dsimp only
  rw [offClaims_setChan, offClaims_replaceSource, offClaims_setChan, hfree]

theorem offClaims_refreshClaims : (refreshClaims s).offClaims = s.offClaims := by
  refine forN_keeps (P := fun t : State => t.offClaims = s.offClaims) rfl fun t c _ ht => ?_
  split
  · exact ht
  · exact (offClaims_unclaim c).trans ht
  · exact (offClaims_claimBy c _).trans ht
  · split
    · exact ht
    · exact (offClaims_claimBy c _).trans ht

theorem reg_of_offClaims {t : State} (h : t.offClaims = s.offClaims) (a : Nat) : t.reg a = s.reg a := by
  have hreg := congrArg (fun u : State => u.reg a) h
  exact hreg

theorem asserted_of_offClaims {t : State} (h : t.offClaims = s.offClaims) : t.field.asserted = s.field.asserted := by
  have hasserted := congrArg (fun u : State => u.field.asserted) h
  exact hasserted

theorem reg_refreshClaims (a : Nat) : (refreshClaims s).reg a = s.reg a := reg_of_offClaims offClaims_refreshClaims a

theorem asserted_refreshClaims : (refreshClaims s).field.asserted = s.field.asserted :=
  asserted_of_offClaims offClaims_refreshClaims

/-! ### A fire input becomes active (R418, R419) -/

/-- FINk has entered its active state, with its event; its entry is not asserted yet. -/
def finEntered (k : Nat) (s : State) : State :=
  ((s.setFin k Fin_.reset).setFld Reg.FFIN_STATE (2 * k + 1) (2 * k) 1).fevtC Reg.FFIN_EVT 0 k 0

theorem finChange_active (hnormal : s.finState k = 0) :
    finChange k 1 true s =
      if (finEntered k s).rb (Reg.FSBX_OVR k) 31 then assertEntry k (finEntered k s) else finEntered k s := by
  unfold finChange
  dsimp only
  rw [hnormal, if_neg (fun h => absurd h.1 (by decide))]
  simp only [true_and]
  rfl

theorem finOne_disabled (h : s.rb Reg.FFIN_CFG k = false) (o : Option Nat) : finOne k o s = s := by
  unfold finOne
  rw [h, if_neg Bool.false_ne_true]

/-- One measurement in the active range of an input that DEB lets in at once. -/
theorem finOne_active {r : Nat} (hen : s.rb Reg.FFIN_CFG k = true) (hdeb : s.rf Reg.FFIN_CFG 11 8 = 1)
    (hnormal : s.finState k = 0) (hlo : 10 * s.rf Reg.FFIN_THR 29 20 ≤ r) (hhi : r < 10 * s.rf Reg.FFIN_THR 19 10)
    (hr : r ≤ 20000) : finOne k (some r) s = finChange k 1 true (s.setReg (Reg.FFIN_RES k) (wd r)) := by
  have hres : ∀ a, a ≠ Reg.FFIN_RES k → (s.setReg (Reg.FFIN_RES k) (wd r)).reg a = s.reg a :=
    fun a ha => reg_setReg_ne s _ ha
  have hne : Reg.FFIN_THR ≠ Reg.FFIN_RES k ∧ Reg.FFIN_CFG ≠ Reg.FFIN_RES k ∧ Reg.FFIN_STATE ≠ Reg.FFIN_RES k := by
    unfold Reg.FFIN_THR Reg.FFIN_CFG Reg.FFIN_STATE Reg.FFIN_RES
    omega
  obtain ⟨hthr, hcfg, hstate⟩ := hne
  unfold finOne
  dsimp only
  rw [if_pos hen, if_neg (Nat.not_lt.mpr hr)]
  simp only [State.rf, State.finState, hres _ hthr, hres _ hcfg, hres _ hstate] at *
  rw [if_neg (Nat.not_lt.mpr hlo), if_pos hhi, hnormal, if_neg (by decide), hdeb, if_pos]
  split <;> omega

theorem reg_finEntered_ne {b : Nat} (hstate : b ≠ Reg.FFIN_STATE) (hevt : b ≠ Reg.FFIN_EVT) :
    (finEntered k s).reg b = s.reg b := by
  rw [finEntered, reg_fevtC_ne _ _ _ hevt, reg_setFld_ne _ _ _ hstate]
  exact reg_setField _ b

theorem asserted_finEntered : (finEntered k s).field.asserted = s.field.asserted := by
  rw [finEntered, field_of_offRegs (fun f => f.asserted) (fun _ => rfl) (offRegs_fevtC _ _ _ _)]
  rfl

/-- Asserting an entry changes FSBX_EVT alone of the registers. -/
theorem reg_assertEntry_ne {b : Nat} (hb : b ≠ Reg.FSBX_EVT) : (assertEntry k s).reg b = s.reg b := by
  rw [assertEntry, reg_fevtIf_ne _ _ hb]
  exact reg_setField _ b

theorem asserted_assertEntry : (assertEntry k s).field.asserted = addMask s.field.asserted k := by
  rw [assertEntry, field_of_offRegs (fun f => f.asserted) (fun _ => rfl) (offRegs_fevtIf _ _ _)]
  rfl

theorem inMask_addMask_zero (m : Nat) : inMask (addMask m 0) 0 = true := by
  unfold inMask addMask
  split
  · assumption
  · rename_i h
    rw [Nat.testBit_zero, decide_eq_true_eq] at h ⊢
    omega

/-- FIN0 alone is enabled. -/
theorem rb_cfg_of_first {i : Nat} (hcfg : s.rf Reg.FFIN_CFG 7 0 = 1) (hi : i < 8) :
    s.rb Reg.FFIN_CFG i = decide (i = 0) := by
  have hbit := testBit_fld (s.reg Reg.FFIN_CFG) 7 0 i
  rw [show fld (s.reg Reg.FFIN_CFG) 7 0 = 1 from hcfg, decide_eq_true hi, Bool.true_and] at hbit
  refine Eq.trans (b := Nat.testBit 1 i) hbit.symm ?_
  rw [← Nat.pow_zero 2, Nat.testBit_two_pow, decide_eq_decide]
  exact eq_comm

section
variable {r : Nat} (hcfg : s.rf Reg.FFIN_CFG 7 0 = 1) (hdeb : s.rf Reg.FFIN_CFG 11 8 = 1) (hnormal : s.finState 0 = 0)
  (hlo : 10 * s.rf Reg.FFIN_THR 29 20 ≤ r) (hhi : r < 10 * s.rf Reg.FFIN_THR 19 10) (hr : r ≤ 20000)
include hcfg hdeb hnormal hlo hhi hr

/-- FIN0 as measured in its active range: FFIN_STATE, FFIN_RES and FFIN_EVT, and its entry of override where it is
enabled for it. -/
theorem finOne_first : ∃ w, finOne 0 (some r) s = w ∧ w.reg Reg.FFIN_CFG = s.reg Reg.FFIN_CFG ∧ w.finState 0 = 1 ∧
    w.reg (Reg.FFIN_RES 0) = wd r ∧ w.rb Reg.FFIN_EVT 0 = true ∧
    w.field.asserted = if s.rb (Reg.FSBX_OVR 0) 31 then addMask s.field.asserted 0 else s.field.asserted := by
  obtain ⟨v, hv⟩ : ∃ v, v = s.setReg (Reg.FFIN_RES 0) (wd r) := ⟨_, rfl⟩
  have hres : v.reg (Reg.FFIN_RES 0) = wd r := by rw [hv, reg_setReg_same]
  have hreg : ∀ a, a ≠ Reg.FFIN_RES 0 → v.reg a = s.reg a := fun a ha => by rw [hv, reg_setReg_ne s _ ha]
  have hfield : v.field = s.field := by rw [hv, setReg_field]
  have hnormal' : v.finState 0 = 0 := by
    rw [State.finState, State.rf, hreg _ (by decide)]
    exact hnormal
  have hentry : finOne 0 (some r) s = finChange 0 1 true v := by
    rw [hv]
    exact finOne_active (rb_cfg_of_first hcfg (by decide)) hdeb hnormal hlo hhi hr
  have hfin : finOne 0 (some r) s = _ := hentry.trans (finChange_active hnormal')
  have hovr : (finEntered 0 v).rb (Reg.FSBX_OVR 0) 31 = s.rb (Reg.FSBX_OVR 0) 31 := by
    rw [State.rb, reg_finEntered_ne (by decide) (by decide), hreg _ (by decide)]
    rfl
  have hstate : (finEntered 0 v).finState 0 = 1 := by
    rw [State.finState, State.rf, finEntered, reg_fevtC_ne _ _ _ (by decide), reg_setFld_same]
    exact fld_putFld_same _ 1 (by decide)
  have hevt : (finEntered 0 v).rb Reg.FFIN_EVT 0 = true := rb_fevtC_self _ _ _ (by decide)
  have hasserted : (finEntered 0 v).field.asserted = s.field.asserted := by rw [asserted_finEntered, hfield]
  have hkept : ∀ a, a ≠ Reg.FFIN_STATE → a ≠ Reg.FFIN_EVT → a ≠ Reg.FFIN_RES 0 → (finEntered 0 v).reg a = s.reg a :=
    fun a ha ha' hares => (reg_finEntered_ne ha ha').trans (hreg a hares)
  have hres' : (finEntered 0 v).reg (Reg.FFIN_RES 0) = wd r := (reg_finEntered_ne (by decide) (by decide)).trans hres
  refine ⟨_, hfin, ?_⟩
  rw [hovr]
  cases s.rb (Reg.FSBX_OVR 0) 31 with
  | false => exact ⟨hkept _ (by decide) (by decide) (by decide), hstate, hres', hevt, hasserted⟩
  | true =>
    have hreg' : ∀ a, a ≠ Reg.FSBX_EVT → (assertEntry 0 (finEntered 0 v)).reg a = (finEntered 0 v).reg a :=
      fun a ha => reg_assertEntry_ne ha
    refine ⟨(hreg' _ (by decide)).trans (hkept _ (by decide) (by decide) (by decide)), ?_,
      (hreg' _ (by decide)).trans hres', ?_, asserted_assertEntry.trans (by rw [hasserted]; rfl)⟩
    · rw [State.finState, State.rf, if_pos rfl, hreg' _ (by decide)]
      exact hstate
    · rw [State.rb, if_pos rfl, hreg' _ (by decide)]
      exact hevt

theorem finMeasurement_active (hl : s.fieldLive = true) :
    ∃ t, exec (.finMeasurement [some r]) s = .next t ∧ t.finState 0 = 1 ∧ t.reg (Reg.FFIN_RES 0) = wd r ∧
      t.rb Reg.FFIN_EVT 0 = true ∧ (s.rb (Reg.FSBX_OVR 0) 31 = true → inMask t.field.asserted 0 = true) ∧
      (s.rb (Reg.FSBX_OVR 0) 31 = false → t.field.asserted = s.field.asserted) ∧ onlyField s t := by
  have hrun : exec (.finMeasurement [some r]) s = _ := fieldDo_live hl (finMeasurementOp [some r])
  obtain ⟨w, hw, hwcfg, hstate, hres, hevt, hasserted⟩ := finOne_first hcfg hdeb hnormal hlo hhi hr
  have hothers : ∀ i, 0 < i → i < 8 → ∀ o, finOne i o w = w := fun i hi hlt o => by
    have hoff : w.rb Reg.FFIN_CFG i = false := by
      rw [State.rb, hwcfg]
      exact (rb_cfg_of_first hcfg hlt).trans (decide_eq_false hi.ne')
    exact finOne_disabled hoff o
  have hloop : forN 8 s (fun s k => finOne k ([some r].getD k none) s) = w := by
    refine (forN_single (c := 0) (by decide) (fun i hi => absurd hi (Nat.not_lt_zero i)) fun i hi hlt => ?_).trans hw
    rw [show finOne 0 ([some r].getD 0 none) s = w from hw, hothers i hi hlt]
  have hop : finMeasurementOp [some r] s = refreshClaims w := congrArg refreshClaims hloop
  rw [hop] at hrun
  have hfinal : (foutSettle (refreshClaims w)).field.asserted = w.field.asserted :=
    (field_of_offRegs (fun f => f.asserted) (fun _ => rfl) offRegs_foutSettle).trans asserted_refreshClaims
  refine ⟨_, hrun, ?_, ?_, rb_foutSettle_of_rb (by decide) ?_, fun hovr => ?_, fun hovr => ?_, onlyField_of_exec rfl hrun⟩
  · rw [State.finState, State.rf, reg_foutSettle (by decide) (by decide), reg_refreshClaims]
    exact hstate
  · rw [reg_foutSettle (by decide) (by decide), reg_refreshClaims, hres]
  · rw [State.rb, reg_refreshClaims]
    exact hevt
  · rw [hfinal, hasserted, if_pos hovr]
    exact inMask_addMask_zero _
  · rw [hfinal, hasserted, hovr, if_neg Bool.false_ne_true]

end
end

section
variable {s : State} {c k : Nat}

/-! ### The fault relay's latch and the release of an entry (R420, R429) -/

theorem rb_foutSettle_relay :
    (foutSettle s).rb Reg.FFIN_FOUT 31 = (s.foutActive || (s.rb Reg.FFIN_FOUT 30 && s.rb Reg.FFIN_FOUT 31)) := by
  rw [State.rb, foutSettle, reg_fevtIf_ne _ _ (by decide)]
  exact rb_setBit_self _ _ (by decide)

theorem foutActive_of_no_source (h : s.rf Reg.FFIN_FOUT 9 0 = 0) : s.foutActive = false := by
  rw [State.foutActive, List.any_eq_false]
  intro b hb
  have hlt := List.mem_range.mp hb
  have hbit := testBit_fld (s.reg Reg.FFIN_FOUT) 9 0 b
  rw [show fld (s.reg Reg.FFIN_FOUT) 9 0 = 0 from h, Nat.zero_testBit, decide_eq_true hlt, Bool.true_and] at hbit
  rw [show s.rb Reg.FFIN_FOUT b = false from hbit.symm, Bool.false_and]
  exact Bool.false_ne_true

/-- MASK, LATCH and their neighbours in FFIN_FOUT take a write as it is. -/
theorem regSpec_fout : ∃ r, regSpec? Reg.FFIN_FOUT = some r ∧ r.rw = 0x400003FF ∧ r.w1c = 0 ∧ r.w1s = 0 :=
  ⟨_, rfl, rfl, rfl, rfl⟩

theorem foutWrite_clears {v : Word} (hclr : bit v 29 = true) (hmask : fld v 9 0 = 0) :
    ∃ u, foutWrite v s = u ∧ u.foutActive = false ∧ u.rb Reg.FFIN_FOUT 31 = false ∧ ∀ c, u.chan c = s.chan c := by
  obtain ⟨w, hw⟩ : ∃ w, w = s.typeWrite Reg.FFIN_FOUT v := ⟨_, rfl⟩
  have hsources : w.rf Reg.FFIN_FOUT 9 0 = 0 := by
    obtain ⟨r, hr, hrw, hw1c, hw1s⟩ := regSpec_fout
    rw [hw, rf_typeWrite hr hw1c hw1s v (by decide), hmask]
    intro i _ hi
    rw [hrw]
    interval_cases i <;> rfl
  have hop : foutWrite v s = w.setBit Reg.FFIN_FOUT 31 false := by
    unfold foutWrite
    dsimp only
    rw [← hw, hclr, foutActive_of_no_source hsources]
    rfl
  refine ⟨_, hop, foutActive_of_no_source ?_, rb_setBit_self _ _ (by decide), fun c => ?_⟩
  · rw [State.rf, State.setBit, reg_setFld_same, fld_putFld_beside _ _ (by decide) (.inl (by decide))]
    exact hsources
  · rw [chan_setBit, hw, chan_typeWrite]

theorem releaseEntry_asserted (h : inMask s.field.asserted k = true) :
    (releaseEntry k s).field.asserted = s.field.asserted - 2 ^ k ∧ (releaseEntry k s).rb Reg.FSBX_EVT 4 = true := by
  rw [releaseEntry, if_pos h]
  refine ⟨?_, rb_fevtC_self _ _ _ (by decide)⟩
  exact (field_of_offRegs (fun f => f.asserted) (fun _ => rfl) (offRegs_fevtC _ _ _ _)).trans (if_pos h)

/-- Entry `k` of a write of FSBX_CMD: released where its REL bit is set and it latches. -/
def releaseLatched (v : Word) (s : State) (k : Nat) : State :=
  if bit v (8 + k) ∧ s.rb (Reg.FSBX_OVR k) 30 then releaseEntry k s else s

theorem fsbxCmdWrite_without_reload {v : Word} (h : bit v 0 = false) :
    fsbxCmdWrite v s = refreshClaims (forN 8 s (releaseLatched v)) := by
  unfold fsbxCmdWrite
  rw [h]
  rfl

theorem releaseLatched_bitw (hk : k < 8) (hlatch : s.rb (Reg.FSBX_OVR k) 30 = true) :
    forN 8 s (releaseLatched (bitw (8 + k))) = releaseEntry k s := by
  have hbit : ∀ j, bit (bitw (8 + k)) (8 + j) = decide (8 + k = 8 + j) := fun j => bit_bitw (by omega) _
  have hothers : ∀ (t : State) (j : Nat), j ≠ k → releaseLatched (bitw (8 + k)) t j = t := fun t j hj => by
    rw [releaseLatched, hbit, decide_eq_false (by omega), if_neg (fun h => Bool.false_ne_true h.1)]
  refine (forN_single hk (fun j hj => hothers s j hj.ne) fun j hj _ => hothers _ j hj.ne').trans (if_pos ⟨?_, hlatch⟩)
  rw [hbit, decide_eq_true rfl]

/-! ### Host audio of the channels in AUTONOMY (R412, R415) -/

/-- Channel `c` as AUTONOMY begins: its host audio ramps to 0 from sample `n`, unless an override claims it. -/
def autonomyChan (n : Nat) (s : State) (c : Nat) : State :=
  if s.claimed c then s
  else s.setChan c { s.chan c with
    src := .out n (s.lastPlayed c)
    pend := none }

/-- Channel `c` as AUTONOMY ends: in RUN it waits for the first BLOCK, with a ramp of `len`. -/
def leaveChan (len : Nat) (s : State) (c : Nat) : State :=
  if s.claimed c then s
  else if (s.chan c).st = .run then s.setChan c { s.chan c with pend := some len }
  else s.setChan c { s.chan c with
    src := .on
    pend := none }

theorem claimed_of_offChans {t : State} (h : t.offChans = s.offChans) (c : Nat) : t.claimed c = s.claimed c := by
  have hclaimed := congrArg (fun u : State => u.claimed c) h
  exact hclaimed

section
variable {f : State → Nat → State}

/-- Channels in turn, each step of which changes its own channel: what step `c` makes of a channel that is still as
before the loop, the loop does. -/
theorem forN_channels {R : Nat → Chan → Prop} (hoff : ∀ t d, (f t d).offChans = t.offChans)
    (hne : ∀ t d e, e ≠ d → (f t d).chan e = t.chan e)
    (hstep : ∀ t d, t.offChans = s.offChans → t.chan d = s.chan d → R d ((f t d).chan d)) :
    (forN 32 s f).offChans = s.offChans ∧ ∀ d, d < 32 → R d ((forN 32 s f).chan d) := by
  refine ⟨forN_keeps (P := fun t : State => t.offChans = s.offChans) rfl fun t d _ ht => (hoff t d).trans ht, fun d hd => ?_⟩
  exact forN_each (P := fun d t => t.offChans = s.offChans ∧ t.chan d = s.chan d) (Q := fun d t => R d (t.chan d))
    (fun d _ => ⟨rfl, rfl⟩) (fun t e d hne' ht => ⟨(hoff t e).trans ht.1, (hne t e d hne'.symm).trans ht.2⟩)
    (fun t d _ ht => hstep t d ht.1 ht.2) (fun t e d hne' ht => by rwa [hne t e d hne'.symm]) hd

end

theorem autonomyChan_channels (n : Nat) :
    (forN 32 s (autonomyChan n)).offChans = s.offChans ∧
      ∀ c, c < 32 → (s.claimed c = true → (forN 32 s (autonomyChan n)).chan c = s.chan c) ∧
        (s.claimed c = false → ∃ v, (forN 32 s (autonomyChan n)).chan c = { s.chan c with
          src := .out n v
          pend := none }) := by
  refine forN_channels (R := fun c x => (s.claimed c = true → x = s.chan c) ∧
    (s.claimed c = false → ∃ v, x = { s.chan c with
      src := .out n v
      pend := none })) (fun t d => ?_) (fun t d e he => ?_) fun t d hoff hchan => ?_
  · unfold autonomyChan
    split
    · rfl
    · exact offChans_setChan d _
  · unfold autonomyChan
    split
    · rfl
    · exact setChan_ne t _ he
  · have hclaimed := claimed_of_offChans hoff d
    cases hcl : s.claimed d with
    | true =>
      exact ⟨fun _ => by rw [autonomyChan, if_pos (hclaimed.trans hcl), hchan], fun h => absurd h.symm Bool.false_ne_true⟩
    | false =>
      refine ⟨fun h => absurd h Bool.false_ne_true, fun _ => ⟨t.lastPlayed d, ?_⟩⟩
      rw [autonomyChan, hclaimed, hcl, if_neg Bool.false_ne_true, setChan_same, hchan]

theorem leaveChan_channels (len : Nat) :
    (forN 32 s (leaveChan len)).offChans = s.offChans ∧
      ∀ c, c < 32 → s.claimed c = false → (s.chan c).st = .run →
        (forN 32 s (leaveChan len)).chan c = { s.chan c with pend := some len } := by
  refine forN_channels (R := fun c x => s.claimed c = false → (s.chan c).st = .run →
    x = { s.chan c with pend := some len }) (fun t d => ?_) (fun t d e he => ?_) fun t d hoff hchan hcl hst => ?_
  · unfold leaveChan
    split
    · rfl
    · split
      · exact offChans_setChan d _
      · exact offChans_setChan d _
  · unfold leaveChan
    split
    · rfl
    · split
      · exact setChan_ne t _ he
      · exact setChan_ne t _ he
  · rw [leaveChan, claimed_of_offChans hoff, hcl, if_neg Bool.false_ne_true, hchan, if_pos hst, setChan_same]

/-! ### Hinge switches at the entry to AUTONOMY (R365) -/

/-- The hinge switch of channel `c` and what it carries, with HINGE = 1. -/
def hingeChan (s : State) (c : Nat) : State :=
  if s.rb Reg.FPWM_HSW c ∧ !s.claimed c then
    match (s.chan c).st with
    | .start | .run | .stop | .probe => (s.setBit Reg.FPWM_HSW c false).setChan c { (s.chan c).safeOff with
        st := .off
        src := .on
        pend := none }
    | _ => s.setBit Reg.FPWM_HSW c false
  else s

theorem hingeSafeOff_eq : hingeSafeOff s = if s.rb Reg.FPWM_CTRL 29 then forN 32 s hingeChan else s := rfl

theorem hingeChan_cases (s : State) (d : Nat) : hingeChan s d = s ∨ hingeChan s d = s.setBit Reg.FPWM_HSW d false ∨
    ∃ x, hingeChan s d = (s.setBit Reg.FPWM_HSW d false).setChan d x := by
  unfold hingeChan
  split
  · split
    · exact .inr (.inr ⟨_, rfl⟩)
    · exact .inr (.inr ⟨_, rfl⟩)
    · exact .inr (.inr ⟨_, rfl⟩)
    · exact .inr (.inr ⟨_, rfl⟩)
    · exact .inr (.inl rfl)
  · exact .inl rfl

/-- Neither the registers nor the channels of the state: what safe-off under HINGE leaves unchanged. -/
def State.offHinge (s : State) : State := s.offRegs.offChans

theorem offHinge_setChan (d : Nat) (x : Chan) : (s.setChan d x).offHinge = s.offHinge := rfl

theorem offHinge_hingeChan (s : State) (d : Nat) : (hingeChan s d).offHinge = s.offHinge := by
  have hbit : (s.setBit Reg.FPWM_HSW d false).offHinge = s.offHinge := by
    rw [State.offHinge, offRegs_setBit, State.offHinge]
  rcases hingeChan_cases s d with h | h | ⟨x, h⟩
  · rw [h]
  · rw [h, hbit]
  · rw [h, offHinge_setChan, hbit]

theorem claimed_hingeChan (s : State) (d e : Nat) : (hingeChan s d).claimed e = s.claimed e := by
  have hclaimed := congrArg (fun u : State => u.claimed e) (offHinge_hingeChan s d)
  exact hclaimed

theorem chan_hingeChan_ne {d e : Nat} (he : e ≠ d) : (hingeChan s d).chan e = s.chan e := by
  rcases hingeChan_cases s d with h | h | ⟨x, h⟩
  · rw [h]
  · rw [h, chan_setBit]
  · rw [h, setChan_ne _ _ he, chan_setBit]

theorem reg_hingeChan_ne {b : Nat} (d : Nat) (hb : b ≠ Reg.FPWM_HSW) : (hingeChan s d).reg b = s.reg b := by
  have hbit : (s.setBit Reg.FPWM_HSW d false).reg b = s.reg b := reg_setFld_ne d d _ hb
  rcases hingeChan_cases s d with h | h | ⟨x, h⟩
  · rw [h]
  · rw [h, hbit]
  · rw [h, setChan_reg, hbit]

theorem rb_hingeChan_ne {d e : Nat} (hlt : e < 32) (he : e ≠ d) :
    (hingeChan s d).rb Reg.FPWM_HSW e = s.rb Reg.FPWM_HSW e := by
  have hbit : (s.setBit Reg.FPWM_HSW d false).rb Reg.FPWM_HSW e = s.rb Reg.FPWM_HSW e := by
    rw [State.rb, State.setBit, reg_setFld_same]
    exact bit_putFld_beside _ _ hlt (by omega)
  rcases hingeChan_cases s d with h | h | ⟨x, h⟩
  · rw [h]
  · rw [h, hbit]
  · rw [h, State.rb, setChan_reg]
    exact hbit

/-- A channel in RUN whose switch is set goes to safe-off in OFF. -/
theorem hingeChan_run (hc : c < 32) (hsw : s.rb Reg.FPWM_HSW c = true) (hcl : s.claimed c = false)
    (hst : (s.chan c).st = .run) : ((hingeChan s c).chan c).st = .off ∧ ((hingeChan s c).chan c).pwm = false ∧
      (hingeChan s c).rb Reg.FPWM_HSW c = false := by
  have hop : hingeChan s c = (s.setBit Reg.FPWM_HSW c false).setChan c { (s.chan c).safeOff with
      st := .off
      src := .on
      pend := none } := by
    rw [hingeChan, if_pos ⟨hsw, by rw [hcl]; rfl⟩, hst]
  rw [hop, setChan_same]
  refine ⟨rfl, rfl, ?_⟩
  rw [State.rb, setChan_reg]
  exact rb_setBit_self _ false hc

theorem hingeSafeOff_keeps : (hingeSafeOff s).offHinge = s.offHinge ∧
    ∀ b, b ≠ Reg.FPWM_HSW → (hingeSafeOff s).reg b = s.reg b := by
  rw [hingeSafeOff_eq]
  split
  · exact ⟨forN_keeps (P := fun t : State => t.offHinge = s.offHinge) rfl fun t d _ ht => (offHinge_hingeChan t d).trans ht,
      fun b hb => forN_keeps (P := fun t : State => t.reg b = s.reg b) rfl fun t d _ ht => (reg_hingeChan_ne d hb).trans ht⟩
  · exact ⟨rfl, fun _ _ => rfl⟩

theorem hingeSafeOff_off (hhinge : s.rb Reg.FPWM_CTRL 29 = true) (hc : c < 32) (hsw : s.rb Reg.FPWM_HSW c = true)
    (hcl : s.claimed c = false) (hst : (s.chan c).st = .run) : ((hingeSafeOff s).chan c).st = .off ∧
      ((hingeSafeOff s).chan c).pwm = false ∧ (hingeSafeOff s).rb Reg.FPWM_HSW c = false := by
  have hloop := forN_each (n := 32) (f := hingeChan) (a := s)
    (P := fun d t => d < 32 ∧ (s.rb Reg.FPWM_HSW d = true → s.claimed d = false → (s.chan d).st = .run →
      t.rb Reg.FPWM_HSW d = true ∧ t.claimed d = false ∧ (t.chan d).st = .run))
    (Q := fun d t => d < 32 ∧ (s.rb Reg.FPWM_HSW d = true → s.claimed d = false → (s.chan d).st = .run →
      (t.chan d).st = .off ∧ (t.chan d).pwm = false ∧ t.rb Reg.FPWM_HSW d = false))
    (fun d hd => ⟨hd, fun hsw hcl hst => ⟨hsw, hcl, hst⟩⟩)
    (fun t e d he ht => by
      rw [rb_hingeChan_ne ht.1 he.symm, claimed_hingeChan, chan_hingeChan_ne he.symm]
      exact ht)
    (fun t d _ ht => ⟨ht.1, fun hsw hcl hst => by
      obtain ⟨hsw', hcl', hst'⟩ := ht.2 hsw hcl hst
      exact hingeChan_run ht.1 hsw' hcl' hst'⟩)
    (fun t e d he ht => by
      rw [rb_hingeChan_ne ht.1 he.symm, chan_hingeChan_ne he.symm]
      exact ht) hc
  rw [hingeSafeOff_eq, if_pos hhinge]
  exact hloop.2 hsw hcl hst

/-! ### Entry to AUTONOMY and exit from it (R411, R412, R414, R415) -/

/-- AUTONOMY is on. -/
def State.autonomyOn (s : State) : State := s.setField { s.field with
  autonomy := true
  recov := 0
  hbSeen := false
  envs := []
  needs := [] }

/-- AUTONOMY is off. -/
def State.autonomyOff (s : State) : State := s.setField { s.field with
  autonomy := false
  lastBlock := none }

theorem reg_autonomyOn (b : Nat) : s.autonomyOn.reg b = s.reg b := rfl

theorem chan_autonomyOn (d : Nat) : s.autonomyOn.chan d = s.chan d := rfl

theorem claimed_autonomyOn (d : Nat) : s.autonomyOn.claimed d = s.claimed d := rfl

theorem field_autonomyOn : s.autonomyOn.field.autonomy = true ∧ s.autonomyOn.field.recov = 0 := ⟨rfl, rfl⟩

theorem reg_autonomyOff (b : Nat) : s.autonomyOff.reg b = s.reg b := rfl

theorem chan_autonomyOff (d : Nat) : s.autonomyOff.chan d = s.chan d := rfl

theorem field_autonomyOff : s.autonomyOff.field.autonomy = false ∧ s.autonomyOff.field.lastBlock = none := ⟨rfl, rfl⟩

/-- AUTONOMY has begun, with host audio on its way out; the hinge switches have not moved yet. -/
def State.autonomous (s : State) : State := (forN 32 s (autonomyChan s.nextSample)).autonomyOn

theorem autonomyEnter_eq (h : s.field.autonomy = false) :
    autonomyEnter s = (hingeSafeOff s.autonomous).fevtC Reg.FSYS_EVT 0 0xFF 0 := by
  unfold autonomyEnter State.autonomous autonomyChan
  rw [h, if_neg Bool.false_ne_true]
  dsimp only
  generalize forN 32 s _ = u
  rfl

theorem reg_autonomous (b : Nat) : s.autonomous.reg b = s.reg b := by
  rw [State.autonomous, reg_autonomyOn, reg_of_offChans (autonomyChan_channels _).1]

theorem claimed_autonomous (d : Nat) : s.autonomous.claimed d = s.claimed d := by
  rw [State.autonomous, claimed_autonomyOn, claimed_of_offChans (autonomyChan_channels _).1]

theorem chan_autonomous (hc : c < 32) : (s.claimed c = true → s.autonomous.chan c = s.chan c) ∧
    (s.claimed c = false → ∃ v, s.autonomous.chan c = { s.chan c with
      src := .out s.nextSample v
      pend := none }) := by
  rw [State.autonomous, chan_autonomyOn]
  exact (autonomyChan_channels s.nextSample).2 c hc

theorem field_of_offHinge {t : State} (h : t.offHinge = s.offHinge) :
    t.field.autonomy = s.field.autonomy ∧ t.field.recov = s.field.recov := by
  have hautonomy := congrArg (fun u : State => u.field.autonomy) h
  have hrecov := congrArg (fun u : State => u.field.recov) h
  exact ⟨hautonomy, hrecov⟩

/-- Entry sets its event and starts the count of R414 anew. -/
theorem autonomyEnter_enters (h : s.field.autonomy = false) : (autonomyEnter s).field.autonomy = true ∧
    (autonomyEnter s).field.recov = 0 ∧ (autonomyEnter s).rb Reg.FSYS_EVT 0 = true ∧
    ∀ b, b ≠ Reg.FPWM_HSW → b ≠ Reg.FSYS_EVT → (autonomyEnter s).reg b = s.reg b := by
  obtain ⟨hoff, hreg⟩ := hingeSafeOff_keeps (s := s.autonomous)
  obtain ⟨hautonomy, hrecov⟩ := field_of_offHinge hoff
  have hevent := offRegs_fevtC (s := hingeSafeOff s.autonomous) Reg.FSYS_EVT 0 0xFF 0
  rw [autonomyEnter_eq h]
  refine ⟨?_, ?_, rb_fevtC_self _ _ _ (by decide), fun b hhsw hevt => ?_⟩
  · exact (field_of_offRegs (fun f => f.autonomy) (fun _ => rfl) hevent).trans (hautonomy.trans field_autonomyOn.1)
  · exact (field_of_offRegs (fun f => f.recov) (fun _ => rfl) hevent).trans (hrecov.trans field_autonomyOn.2)
  · rw [reg_fevtC_ne _ _ _ hevt, hreg b hhsw, reg_autonomous]

theorem chan_autonomyEnter (h : s.field.autonomy = false) (d : Nat) :
    (autonomyEnter s).chan d = (hingeSafeOff s.autonomous).chan d := by
  rw [autonomyEnter_eq h, chan_fevtC]

/-- With HINGE = 0 the channels keep their hinge switches. -/
theorem chan_autonomyEnter_ramps (h : s.field.autonomy = false) (hhinge : s.rb Reg.FPWM_CTRL 29 = false) (d : Nat) :
    (autonomyEnter s).chan d = s.autonomous.chan d := by
  have hstay : ¬ s.autonomous.rb Reg.FPWM_CTRL 29 = true := by
    rw [State.rb, reg_autonomous]
    exact fun hset => Bool.false_ne_true (hhinge.symm.trans hset)
  rw [chan_autonomyEnter h, hingeSafeOff_eq, if_neg hstay]

/-- With HINGE = 1 a channel in RUN with its switch set goes to safe-off in OFF. -/
theorem autonomyEnter_off (h : s.field.autonomy = false) (hhinge : s.rb Reg.FPWM_CTRL 29 = true) (hc : c < 32)
    (hsw : s.rb Reg.FPWM_HSW c = true) (hcl : s.claimed c = false) (hst : (s.chan c).st = .run) :
    ((autonomyEnter s).chan c).st = .off ∧ ((autonomyEnter s).chan c).pwm = false ∧
      (autonomyEnter s).rb Reg.FPWM_HSW c = false := by
  obtain ⟨v, hchan⟩ := (chan_autonomous hc).2 hcl
  rw [chan_autonomyEnter h, autonomyEnter_eq h, State.rb, reg_fevtC_ne _ _ _ (by decide)]
  refine hingeSafeOff_off ?_ hc ?_ ((claimed_autonomous c).trans hcl) ?_
  · rw [State.rb, reg_autonomous]
    exact hhinge
  · rw [State.rb, reg_autonomous]
    exact hsw
  · rw [hchan]
    exact hst

theorem autonomyLeave_eq : autonomyLeave s =
    (forN 32 s (leaveChan (s.rf Reg.FPWM_RAMP 9 0))).autonomyOff.fevtC Reg.FSYS_EVT 1 0xFF 0 := by
  unfold autonomyLeave leaveChan
  dsimp only
  generalize forN 32 s _ = u
  rfl

theorem autonomyLeave_leaves : (autonomyLeave s).field.autonomy = false ∧ (autonomyLeave s).field.lastBlock = none ∧
    (autonomyLeave s).rb Reg.FSYS_EVT 1 = true ∧ (∀ b, b ≠ Reg.FSYS_EVT → (autonomyLeave s).reg b = s.reg b) ∧
    ∀ c, c < 32 → s.claimed c = false → (s.chan c).st = .run →
      (autonomyLeave s).chan c = { s.chan c with pend := some (s.rf Reg.FPWM_RAMP 9 0) } := by
  obtain ⟨hoff, hchan⟩ := leaveChan_channels (s := s) (s.rf Reg.FPWM_RAMP 9 0)
  have hevent (u : State) : (u.fevtC Reg.FSYS_EVT 1 0xFF 0).offRegs = u.offRegs := offRegs_fevtC _ _ _ _
  rw [autonomyLeave_eq]
  refine ⟨(field_of_offRegs (fun f => f.autonomy) (fun _ => rfl) (hevent _)).trans field_autonomyOff.1,
    (field_of_offRegs (fun f => f.lastBlock) (fun _ => rfl) (hevent _)).trans field_autonomyOff.2,
    rb_fevtC_self _ _ _ (by decide), fun b hb => ?_, fun c hc hcl hst => ?_⟩
  · rw [reg_fevtC_ne _ _ _ hb, reg_autonomyOff, reg_of_offChans hoff]
  · rw [chan_fevtC, chan_autonomyOff]
    exact hchan c hc hcl hst

/-- FSYS_AUT has taken AUTOEX and RECOV. -/
def State.autTaken (v : Word) (s : State) : State :=
  (s.setBit Reg.FSYS_AUT 31 (bit v 31)).setFld Reg.FSYS_AUT 7 0 (fld v 7 0)

theorem field_autTaken (v : Word) : (s.autTaken v).field = s.field := by
  rw [State.autTaken, State.setFld, setReg_field, State.setBit, State.setFld, setReg_field]

theorem rf_autTaken (v : Word) : (s.autTaken v).rf Reg.FSYS_AUT 7 0 = fld v 7 0 := by
  rw [State.rf, State.autTaken, reg_setFld_same, fld_putFld_same _ _ (by decide)]
  exact Nat.mod_eq_of_lt (fld_lt v 7 0)

theorem recovered_autTaken (v : Word) : (s.autTaken v).recovered = decide (fld v 7 0 ≤ s.field.recov) := by
  rw [State.recovered, rf_autTaken, field_autTaken]

theorem fsysAutWrite_force {v : Word} (hforce : bit v 30 = true) (hexit : bit v 29 = false) (hrecov : fld v 7 0 ≠ 0) :
    fsysAutWrite v s = autonomyEnter (s.autTaken v) := by
  unfold fsysAutWrite
  dsimp only
  rw [if_pos hforce, hexit, if_neg Bool.false_ne_true, if_neg hrecov, State.autTaken]

theorem fsysAutWrite_exit {v : Word} (hauto : s.field.autonomy = true) (hexit : bit v 29 = true)
    (hforce : bit v 30 = false) (hrecov : fld v 7 0 ≠ 0) : fsysAutWrite v s =
      if fld v 7 0 ≤ s.field.recov then autonomyLeave (s.autTaken v) else (s.autTaken v).fevtC Reg.FSYS_EVT 3 0xFF 0 := by
  unfold fsysAutWrite
  dsimp only
  rw [hforce, if_neg Bool.false_ne_true, if_pos hexit, if_neg hrecov, ← State.autTaken, field_autTaken, hauto,
    recovered_autTaken, Bool.true_and]
  simp only [decide_eq_true_eq]
  rfl

end

section
variable {s : State} {c k : Nat}

/-! ### Rows of the overrides and of AUTONOMY -/

theorem autonomy_foutSettle : (foutSettle s).field.autonomy = s.field.autonomy :=
  field_of_offRegs (fun f => f.autonomy) (fun _ => rfl) offRegs_foutSettle

section
variable (hl : s.fieldLive = true)
include hl

theorem foutClr_ends {v : Word} (hclr : bit v 29 = true) (hmask : fld v 9 0 = 0) :
    ∃ t, exec (.foutClr v) s = .next t ∧ t.rb Reg.FFIN_FOUT 31 = false ∧ (∀ c, t.chan c = s.chan c) ∧ onlyField s t := by
  have hrun : exec (.foutClr v) s = _ := fieldDo_live hl (foutWrite v)
  obtain ⟨u, hu, hquiet, hrelay, hchan⟩ := foutWrite_clears (s := s) hclr hmask
  rw [hu] at hrun
  refine ⟨_, hrun, ?_, fun c => (chan_foutSettle c).trans (hchan c), onlyField_of_exec rfl hrun⟩
  rw [rb_foutSettle_relay, hquiet, hrelay, Bool.and_false, Bool.false_or]

theorem rel_releases (hk : k < 8) (hlatch : s.rb (Reg.FSBX_OVR k) 30 = true) (hmask : inMask s.field.asserted k = true) :
    ∃ t, exec (.rel (bitw (8 + k))) s = .next t ∧ t.field.asserted = s.field.asserted - 2 ^ k ∧
      t.rb Reg.FSBX_EVT 4 = true ∧ onlyField s t := by
  have hrun : exec (.rel (bitw (8 + k))) s = _ := fieldDo_live hl (fsbxCmdWrite (bitw (8 + k)))
  have hreload : bit (bitw (8 + k)) 0 = false := by
    rw [bit_bitw (by omega)]
    exact decide_eq_false (by omega)
  obtain ⟨hasserted, hevent⟩ := releaseEntry_asserted hmask
  rw [fsbxCmdWrite_without_reload hreload, releaseLatched_bitw hk hlatch] at hrun
  refine ⟨_, hrun, ?_, rb_foutSettle_of_rb (by decide) ?_, onlyField_of_exec rfl hrun⟩
  · rw [field_of_offRegs (fun f => f.asserted) (fun _ => rfl) offRegs_foutSettle, asserted_refreshClaims, hasserted]
  · rw [State.rb, reg_refreshClaims]
    exact hevent

theorem overrideRepeat_becomes (hc : c < 32) {p : Play} (hcur : ((s.chan c).settle s.nextSample).cur = .message p)
    (hrep : p.rep = true) (hcl : s.claimed c = true) :
    chanBecomes s (.overrideRepeat c) c { (s.chan c).settle s.nextSample with
      cur := .message { p with start := s.nextSample } } fun _ => True := by
  refine chanBecomes_of_setChan rfl (chanDo_live hl hc (overrideRepeatOp c)) ?_
  unfold overrideRepeatOp
  simp only [hcur, hrep, hcl, Bool.and_self, if_true]

theorem autonomyEntry_ramps (hoff : s.field.autonomy = false) (hhinge : s.rb Reg.FPWM_CTRL 29 = false) :
    ∃ t, exec .autonomyEntry s = .next t ∧ t.field.autonomy = true ∧ t.field.recov = 0 ∧ t.rb Reg.FSYS_EVT 0 = true ∧
      onlyField s t ∧ ∀ c, c < 32 → (s.claimed c = false → (t.chan c).pend = none ∧ (t.chan c).st = (s.chan c).st ∧
        ∃ v, (t.chan c).src = .out s.nextSample v) ∧ (s.claimed c = true → t.chan c = s.chan c) := by
  have hrun : exec .autonomyEntry s = _ := fieldDo_live hl autonomyEnter
  obtain ⟨hautonomy, hrecov, hevent, -⟩ := autonomyEnter_enters hoff
  refine ⟨_, hrun, autonomy_foutSettle.trans hautonomy, ?_, rb_foutSettle_of_rb (by decide) hevent,
    onlyField_of_exec rfl hrun, fun c hc => ?_⟩
  · exact (field_of_offRegs (fun f => f.recov) (fun _ => rfl) offRegs_foutSettle).trans hrecov
  · obtain ⟨hclaimed, hunclaimed⟩ := chan_autonomous (s := s) hc
    rw [chan_foutSettle, chan_autonomyEnter_ramps hoff hhinge]
    refine ⟨fun hcl => ?_, hclaimed⟩
    obtain ⟨v, hchan⟩ := hunclaimed hcl
    rw [hchan]
    exact ⟨rfl, rfl, v, rfl⟩

theorem autonomyEntry_safeOff (hoff : s.field.autonomy = false) (hhinge : s.rb Reg.FPWM_CTRL 29 = true) :
    ∃ t, exec .autonomyEntry s = .next t ∧ t.field.autonomy = true ∧ onlyField s t ∧
      ∀ c, c < 32 → s.claimed c = false → s.rb Reg.FPWM_HSW c = true → (s.chan c).st = .run →
        (t.chan c).st = .off ∧ (t.chan c).pwm = false ∧ t.rb Reg.FPWM_HSW c = false := by
  have hrun : exec .autonomyEntry s = _ := fieldDo_live hl autonomyEnter
  refine ⟨_, hrun, autonomy_foutSettle.trans (autonomyEnter_enters hoff).1, onlyField_of_exec rfl hrun,
    fun c hc hcl hsw hst => ?_⟩
  rw [chan_foutSettle, State.rb, reg_foutSettle (by decide) (by decide)]
  exact autonomyEnter_off hoff hhinge hc hsw hcl hst

theorem force_enters {v : Word} (hoff : s.field.autonomy = false) (hforce : bit v 30 = true) (hexit : bit v 29 = false)
    (hrecov : fld v 7 0 ≠ 0) : ∃ t, exec (.force v) s = .next t ∧ t.field.autonomy = true ∧
      t.rf Reg.FSYS_AUT 7 0 = fld v 7 0 ∧ t.rb Reg.FSYS_EVT 0 = true ∧ onlyField s t := by
  have hrun : exec (.force v) s = _ := fieldDo_live hl (fsysAutWrite v)
  have hoff' : (s.autTaken v).field.autonomy = false := by rw [field_autTaken, hoff]
  obtain ⟨hautonomy, -, hevent, hreg⟩ := autonomyEnter_enters hoff'
  rw [fsysAutWrite_force hforce hexit hrecov] at hrun
  refine ⟨_, hrun, autonomy_foutSettle.trans hautonomy, ?_, rb_foutSettle_of_rb (by decide) hevent,
    onlyField_of_exec rfl hrun⟩
  rw [State.rf, reg_foutSettle (by decide) (by decide), hreg _ (by decide) (by decide)]
  exact rf_autTaken v

theorem exit_leaves {v : Word} (hon : s.field.autonomy = true) (hexit : bit v 29 = true) (hforce : bit v 30 = false)
    (hrecov : fld v 7 0 ≠ 0) (hcount : fld v 7 0 ≤ s.field.recov) : ∃ t, exec (.exit v) s = .next t ∧
      t.field.autonomy = false ∧ t.rf Reg.FSYS_AUT 7 0 = fld v 7 0 ∧ t.rb Reg.FSYS_EVT 1 = true ∧ onlyField s t := by
  have hrun : exec (.exit v) s = _ := fieldDo_live hl (fsysAutWrite v)
  obtain ⟨hautonomy, -, hevent, hreg, -⟩ := autonomyLeave_leaves (s := s.autTaken v)
  rw [fsysAutWrite_exit hon hexit hforce hrecov, if_pos hcount] at hrun
  refine ⟨_, hrun, autonomy_foutSettle.trans hautonomy, ?_, rb_foutSettle_of_rb (by decide) hevent,
    onlyField_of_exec rfl hrun⟩
  rw [State.rf, reg_foutSettle (by decide) (by decide), hreg _ (by decide)]
  exact rf_autTaken v

theorem exit_refused {v : Word} (hon : s.field.autonomy = true) (hexit : bit v 29 = true) (hforce : bit v 30 = false)
    (hcount : s.field.recov < fld v 7 0) : ∃ t, exec (.exit v) s = .next t ∧ t.field.autonomy = true ∧
      t.rb Reg.FSYS_EVT 3 = true ∧ onlyField s t := by
  have hrun : exec (.exit v) s = _ := fieldDo_live hl (fsysAutWrite v)
  have hkept := field_of_offRegs (fun f => f.autonomy) (fun _ => rfl)
    (offRegs_fevtC (s := s.autTaken v) Reg.FSYS_EVT 3 0xFF 0)
  rw [fsysAutWrite_exit hon hexit hforce (Nat.ne_zero_of_lt hcount), if_neg (Nat.not_le.mpr hcount)] at hrun
  refine ⟨_, hrun, autonomy_foutSettle.trans (hkept.trans ?_), rb_foutSettle_of_rb (by decide)
    (rb_fevtC_self _ _ _ (by decide)), onlyField_of_exec rfl hrun⟩
  rw [field_autTaken, hon]

theorem autonomyExit_leaves (hon : s.field.autonomy = true) (hauto : s.rb Reg.FSYS_AUT 31 = true)
    (hcount : s.rf Reg.FSYS_AUT 7 0 ≤ s.field.recov) : ∃ t, exec .autonomyExit s = .next t ∧ t.field.autonomy = false ∧
      t.field.lastBlock = none ∧ t.rb Reg.FSYS_EVT 1 = true ∧ onlyField s t ∧
      ∀ c, c < 32 → s.claimed c = false → (s.chan c).st = .run →
        t.chan c = { s.chan c with pend := some (s.rf Reg.FPWM_RAMP 9 0) } := by
  have hrun : exec .autonomyExit s = _ := fieldDo_live hl autonomyExitOp
  have hop : autonomyExitOp s = autonomyLeave s := by
    rw [autonomyExitOp, hon, hauto, State.recovered, decide_eq_true hcount]
    rfl
  obtain ⟨hautonomy, hblock, hevent, -, hchan⟩ := autonomyLeave_leaves (s := s)
  rw [hop] at hrun
  refine ⟨_, hrun, autonomy_foutSettle.trans hautonomy, ?_, rb_foutSettle_of_rb (by decide) hevent,
    onlyField_of_exec rfl hrun, fun c hc hcl hst => (chan_foutSettle c).trans (hchan c hc hcl hst)⟩
  exact (field_of_offRegs (fun f => f.lastBlock) (fun _ => rfl) offRegs_foutSettle).trans hblock

theorem autonomyExit_stays (hon : s.field.autonomy = true) (hauto : s.rb Reg.FSYS_AUT 31 = false) :
    ∃ t, exec .autonomyExit s = .next t ∧ t.field.autonomy = true ∧ (∀ c, t.chan c = s.chan c) ∧ onlyField s t := by
  have hrun : exec .autonomyExit s = _ := fieldDo_live hl autonomyExitOp
  have hop : autonomyExitOp s = s := by
    rw [autonomyExitOp, hauto, Bool.and_false, Bool.false_and, if_neg Bool.false_ne_true]
  rw [hop] at hrun
  exact ⟨_, hrun, autonomy_foutSettle.trans hon, chan_foutSettle, onlyField_of_exec rfl hrun⟩

end
end

/-- Settles O27: a fire input, the relay and the overrides; then AUTONOMY, entered and left. -/
theorem fireOverrideAndAutonomy : Obligations.FireOverrideAndAutonomy := by
  refine ⟨⟨fun s r hl hcfg hdeb hnormal hlo hhi hr => finMeasurement_active hcfg hdeb hnormal hlo hhi hr hl,
    fun s v hl hclr hmask => foutClr_ends hl hclr hmask, fun s k hl hk hlatch hmask => rel_releases hl hk hlatch hmask,
    fun s c p hl hc hcur hrep hcl => overrideRepeat_becomes hl hc hcur hrep hcl⟩, fun s hl => ?_⟩
  exact ⟨autonomyEntry_ramps hl, autonomyEntry_safeOff hl,
    fun v hoff hforce hexit hrecov => force_enters hl hoff hforce hexit hrecov,
    fun v hon hexit hforce hrecov hcount => exit_leaves hl hon hexit hforce hrecov hcount,
    fun v hon hexit hforce hcount => exit_refused hl hon hexit hforce hcount, autonomyExit_leaves hl, autonomyExit_stays hl⟩

end Sys2Proof.Machine
end

section
/-! PROOF. The supplies, the ball, the temperature and the scrub of the field die (R422, R727 to R729, R740, R743): O17, row
by row. -/

namespace Sys2Proof.Machine

section
variable {s t : State}

/-! ### Rows of the Keyway and of a die that is held (R5, R728) -/

theorem kwyDo_isA (hA : s.isA = true) (f : State → State) : kwyDo s f = .next (f s) := by
  rw [kwyDo, if_pos hA]

theorem fieldLive_iff : s.fieldLive = true ↔
    s.isA = true ∧ s.pwr.fSupply = false ∧ s.pwr.fPin = false ∧ s.pwr.fHot = false := by
  simp [State.fieldLive, and_assoc]

theorem Within.pwr_eq {m : Parts} (h : Within m s t) (hm : m.pwr = false) : t.pwr = s.pwr := by
  simpa [State.outside, hm] using congrArg State.pwr h

theorem fieldLive_of_within (h : Within fieldParts s t) : t.fieldLive = s.fieldLive := by
  rw [State.fieldLive, State.isA, h.fuse_eq rfl, h.pwr_eq rfl]
  rfl

theorem within_fieldParts_foutSettle : Within fieldParts s (foutSettle s) := within_foutSettle rfl (Within.refl _ s)

theorem mem_foutSettle : (foutSettle s).mem = s.mem := within_fieldParts_foutSettle.mem_eq rfl

theorem rdByte_of_mem (h : t.mem = s.mem) (a : Nat) : t.rdByte a = s.rdByte a := by
  rw [State.rdByte, State.rdByte, h]

/-! ### A field reset (R410, R728) -/

/-- A key that a filter drops reads as unlisted. -/
theorem aget_filter_out {α : Type} {p : Nat → Bool} {k : Nat} (hk : p k = false) (l : List (Nat × α)) (d : α) :
    aget (l.filter (fun e => p e.1)) d k = d := by
  induction l with
  | nil => rfl
  | cons e l ih =>
    by_cases he : p e.1 = true
    · have hne : e.1 ≠ k := fun h => Bool.false_ne_true (hk.symm.trans (h ▸ he))
      simp [he, aget, hne, ih]
    · simp [he, ih]

theorem reg_resetRegs_in {lo hi a : Nat} (hlo : lo ≤ a) (hhi : a < hi) : (s.resetRegs lo hi).reg a = regReset a :=
  aget_filter_out (p := fun a => decide (a < lo) || decide (hi ≤ a)) (by simp; omega) _ _

theorem fieldReset_ends (s : State) : ∃ u : State,
    fieldReset s = ((u.resetRegs 0x70000000 0x70100000).setField Field.reset).setF0 F0.reset := ⟨_, rfl⟩

theorem field_fieldReset : (fieldReset s).field = Field.reset := by
  obtain ⟨u, hu⟩ := fieldReset_ends s
  rw [hu]
  rfl

theorem reg_fieldReset {a : Nat} (hlo : 0x70000000 ≤ a) (hhi : a < 0x70100000) : (fieldReset s).reg a = regReset a := by
  obtain ⟨u, hu⟩ := fieldReset_ends s
  rw [hu]
  exact reg_resetRegs_in hlo hhi

section
variable (hA : s.isA = true)
include hA

theorem fieldSupplyReset_resets (hoff : s.pwr.fSupply = false) : ∃ t, exec .fieldSupplyReset s = .next t ∧
    t.field = Field.reset ∧ t.pwr.fSupply = true ∧ ∀ a, 0x70000000 ≤ a → a < 0x70100000 → t.reg a = regReset a := by
  have hrun : exec .fieldSupplyReset s = .next ((fieldReset s).setPwr { s.pwr with fSupply := true }) := by
    change execFieldSupplyReset s = _
    rw [execFieldSupplyReset, kwyDo_isA hA, hoff, if_neg Bool.false_ne_true]
  exact ⟨_, hrun, field_fieldReset (s := s), rfl, fun a hlo hhi => reg_fieldReset (s := s) hlo hhi⟩

theorem fprsntNHigh_resets (hoff : s.pwr.fPin = false) : ∃ t, exec .fprsntNHigh s = .next t ∧
    t.field = Field.reset ∧ t.pwr.fPin = true ∧ ∀ a, 0x70000000 ≤ a → a < 0x70100000 → t.reg a = regReset a := by
  have hrun : exec .fprsntNHigh s = .next ((fieldReset s).setPwr { s.pwr with fPin := true }) := by
    change execFprsntNHigh s = _
    rw [execFprsntNHigh, kwyDo_isA hA, hoff, if_neg Bool.false_ne_true]
  exact ⟨_, hrun, field_fieldReset (s := s), rfl, fun a hlo hhi => reg_fieldReset (s := s) hlo hhi⟩

end

/-! ### The start of the field die (R422, R729) -/

theorem field_sbxLoadBegin : (sbxLoadBegin s).field = { s.field with
    loading := true
    msgs := [] } := rfl

theorem reg_sbxLoadBegin : (sbxLoadBegin s).reg Reg.FSBX_STATUS = wd 536870912 ∧
    (sbxLoadBegin s).reg Reg.FSBX_VALIDLO = 0 ∧ (sbxLoadBegin s).reg Reg.FSBX_VALIDHI = 0 := by
  refine ⟨?_, ?_, ?_⟩
  · rw [sbxLoadBegin, reg_setField, reg_setReg_ne _ _ (by decide), reg_setReg_ne _ _ (by decide), reg_setReg_same]
  · rw [sbxLoadBegin, reg_setField, reg_setReg_ne _ _ (by decide), reg_setReg_same]
  · rw [sbxLoadBegin, reg_setField, reg_setReg_same]

theorem fieldRelease_starts (hl : s.fieldLive = true) : (fieldRelease s).fieldLive = true ∧
    (fieldRelease s).reg Reg.FSBX_STATUS = wd 536870912 ∧ (fieldRelease s).field.loading = true ∧
    (fieldRelease s).mem = s.mem := by
  have hbegin : Within fieldParts s (sbxLoadBegin (s.setField { s.field with folioAt := s.clock })) :=
    within_sbxLoadBegin rfl (within_setField rfl _ (Within.refl _ s))
  rw [fieldRelease, if_pos hl]
  refine ⟨?_, ?_, ?_, mem_foutSettle.trans (hbegin.mem_eq rfl)⟩
  · rw [fieldLive_of_within within_fieldParts_foutSettle, fieldLive_of_within hbegin, hl]
  · rw [reg_foutSettle (by decide) (by decide), reg_sbxLoadBegin.1]
  · rw [field_of_offRegs (fun f => f.loading) (fun _ => rfl) offRegs_foutSettle, field_sbxLoadBegin]

theorem fieldSupplyGood_starts (hA : s.isA = true) (hsupply : s.pwr.fSupply = true) (hpin : s.pwr.fPin = false)
    (hhot : s.pwr.fHot = false) : ∃ t, exec .fieldSupplyGood s = .next t ∧ t.fieldLive = true ∧
      t.reg Reg.FSBX_STATUS = wd 536870912 ∧ t.field.loading = true ∧ t.mem = s.mem := by
  have hrun : exec .fieldSupplyGood s = .next (fieldRelease (s.setPwr { s.pwr with fSupply := false })) := by
    change execFieldSupplyGood s = _
    rw [execFieldSupplyGood, kwyDo_isA hA, if_pos hsupply]
  exact ⟨_, hrun, fieldRelease_starts (fieldLive_iff.mpr ⟨hA, rfl, hpin, hhot⟩)⟩

theorem fprsntNRelease_starts (hA : s.isA = true) (hpin : s.pwr.fPin = true) (hsupply : s.pwr.fSupply = false)
    (hhot : s.pwr.fHot = false) : ∃ t, exec .fprsntNRelease s = .next t ∧ t.fieldLive = true ∧
      t.reg Reg.FSBX_STATUS = wd 536870912 ∧ t.field.loading = true ∧ t.mem = s.mem := by
  have hrun : exec .fprsntNRelease s = .next (fieldRelease (s.setPwr { s.pwr with fPin := false })) := by
    change execFprsntNRelease s = _
    rw [execFprsntNRelease, kwyDo_isA hA, if_pos hpin]
  exact ⟨_, hrun, fieldRelease_starts (fieldLive_iff.mpr ⟨hA, hsupply, rfl, hhot⟩)⟩

/-! ### Warnings of supplies and temperature (R727, R740, R743) -/

/-- A field below bit `i` stands when that bit is set. -/
theorem fld_or_bitw_below (w : Word) {i hi lo : Nat} (hi32 : i < 32) (hbelow : hi < i) :
    fld (w ||| bitw i) hi lo = fld w hi lo := by
  refine Nat.eq_of_testBit_eq fun j => ?_
  rw [testBit_fld, testBit_fld]
  rcases Nat.lt_or_ge j (hi + 1 - lo) with hj | hj
  · have hbit := bit_bitw hi32 (j + lo)
    rw [decide_eq_false (by omega)] at hbit
    rw [BitVec.toNat_or, Nat.testBit_or, show (bitw i).toNat.testBit (j + lo) = false from hbit, Bool.or_false]
  · rw [decide_eq_false (Nat.not_lt.mpr hj), Bool.false_and, Bool.false_and]

theorem encSigned_lt (n : Nat) (v : Int) : encSigned n v < 2 ^ n := by
  have hpos : (0 : Int) < ((2 ^ n : Nat) : Int) := Int.natCast_pos.mpr (Nat.two_pow_pos n)
  exact (Int.toNat_lt (Int.emod_nonneg v hpos.ne')).mpr (Int.emod_lt_of_pos v hpos)

section
variable (hl : s.fieldLive = true)
include hl

theorem fieldSupplyBelowWarning_warns {k : Nat} (hk : k < 3) : ∃ t, exec (.fieldSupplyBelowWarning k) s = .next t ∧
    t.rb Reg.FSYS_SUP (24 + k) = true ∧ t.rb Reg.FSYS_SUP 31 = true ∧ onlyField s t := by
  have hrun : exec (.fieldSupplyBelowWarning k) s = .next (foutSettle ((s.setReg Reg.FSYS_SUP
      (s.reg Reg.FSYS_SUP ||| bitw (24 + k % 3))).fevt Reg.FSYS_SUP 31)) := by
    change execFieldSupplyBelowWarning k s = _
    rw [execFieldSupplyBelowWarning, fieldDo_live hl, bitw]
  refine ⟨_, hrun, rb_foutSettle_of_rb (by decide) (rb_fevtC_of_rb _ _ _ ?_),
    rb_foutSettle_of_rb (by decide) (rb_fevtC_self _ _ _ (by decide)), onlyField_of_exec rfl hrun⟩
  rw [State.rb, reg_setReg_same, Nat.mod_eq_of_lt hk]
  exact bit_or_bitw _ (by omega)

theorem fieldWarningEnd_clears : ∃ t, exec .fieldWarningEnd s = .next t ∧ t.rf Reg.FSYS_SUP 26 24 = 0 ∧ onlyField s t := by
  have hrun : exec .fieldWarningEnd s = .next (foutSettle (s.setFld Reg.FSYS_SUP 26 24 0)) := by
    change execFieldWarningEnd s = _
    rw [execFieldWarningEnd, fieldDo_live hl]
  refine ⟨_, hrun, ?_, onlyField_of_exec rfl hrun⟩
  rw [State.rf, reg_foutSettle (by decide) (by decide), reg_setFld_same, fld_putFld_same _ _ (by decide), Nat.zero_mod]

theorem fieldTemperatureMeasurement_warns {tj : Int} (hlo : 560 ≤ tj) (hhi : tj < 620) :
    ∃ t, exec (.fieldTemperatureMeasurement tj) s = .next t ∧ t.rb Reg.FSYS_SUP 30 = true ∧
      t.rf Reg.FSYS_SUP 11 0 = encSigned 12 tj ∧ onlyField s t := by
  obtain ⟨hA, -, -, hhot⟩ := fieldLive_iff.mp hl
  have hrun : exec (.fieldTemperatureMeasurement tj) s = _ := kwyDo_isA hA (fieldTempOp tj)
  have hop : fieldTempOp tj s =
      foutSettle ((s.setFld Reg.FSYS_SUP 11 0 (encSigned 12 tj)).fevtC Reg.FSYS_SUP 30 0xFF 0) := by
    unfold fieldTempOp
    rw [hhot, if_neg Bool.false_ne_true, hl, Bool.not_true, if_neg Bool.false_ne_true, if_neg (by omega)]
    dsimp only
    rw [decide_eq_true hlo, fevtIf_true, if_neg (by omega), if_neg (by omega)]
  rw [hop] at hrun
  refine ⟨_, hrun, rb_foutSettle_of_rb (by decide) (rb_fevtC_self _ _ _ (by decide)), ?_, onlyField_of_within ?_⟩
  · rw [State.rf, reg_foutSettle (by decide) (by decide), reg_fevtC, reg_raise_same,
      fld_or_bitw_below _ (by decide) (by decide), reg_setFld_same, fld_putFld_same _ _ (by decide)]
    exact Nat.mod_eq_of_lt (encSigned_lt 12 tj)
  · exact within_foutSettle rfl (within_fevtC rfl _ _ _ _ rfl (within_setFld_open rfl _ _ _ (Within.refl _ s)))

/-! ### The scrub of the Strongbox (R744) -/

theorem fieldScrub_zeroes (a : Nat) : ∃ t, exec (.fieldScrub [a]) s = .next t ∧ t.rb Reg.FSBX_EVT 2 = true ∧
    ∀ b, t.rdByte b = if strongbox + a % 0x1000000 / 8 * 8 ≤ b ∧ b < strongbox + a % 0x1000000 / 8 * 8 + 8 then 0
      else s.rdByte b := by
  have hrun : exec (.fieldScrub [a]) s = _ := fieldDo_live hl (fieldScrubOp [a])
  have hevt : ∀ w : State, (foutSettle (w.fevt Reg.FSBX_EVT 2)).mem = w.mem := fun w =>
    mem_foutSettle.trans ((within_fevt rfl _ _ rfl (Within.refl fieldParts w)).mem_eq rfl)
  refine ⟨_, hrun, rb_foutSettle_of_rb (by decide) (rb_fevtC_self _ _ _ (by decide)), fun b => ?_⟩
  rw [fieldScrubOp, List.foldl_cons, List.foldl_nil, rdByte_of_mem (hevt _) b, rdByte_wrBytes, List.length_replicate]
  split
  · rw [List.getD_replicate _ (by omega)]
  · rfl

end
end

/-- Settles O17, row by row. -/
theorem fieldDieSupervision : Obligations.FieldDieSupervision :=
  ⟨fun _ hA hoff => fieldSupplyReset_resets hA hoff, fun _ hA hoff => fprsntNHigh_resets hA hoff,
    fun _ hA hsupply hpin hhot => fieldSupplyGood_starts hA hsupply hpin hhot,
    fun _ hA hpin hsupply hhot => fprsntNRelease_starts hA hpin hsupply hhot,
    fun _ _ hl hk => fieldSupplyBelowWarning_warns hl hk, fun _ hl => fieldWarningEnd_clears hl,
    fun _ _ hl hlo hhi => fieldTemperatureMeasurement_warns hl hlo hhi, fun _ a hl => fieldScrub_zeroes hl a⟩

end Sys2Proof.Machine
end

section
/-! PROOF. Loads, flash commands, players and the tone of the Strongbox (R422, R424 to R426): O26, row by row. -/

namespace Sys2Proof.Machine

/-! ### Sparse tables joined and mapped -/

section
variable {α β : Type} {k : Nat}

theorem aget_append_of_absent {l : List (Nat × α)} (h : ∀ e ∈ l, e.1 ≠ k) (r : List (Nat × α)) (d : α) :
    aget (l ++ r) d k = aget r d k := by
  induction l with
  | nil => rfl
  | cons e l ih =>
    rw [List.cons_append, aget, if_neg (h e (List.mem_cons_self ..)), ih fun x hx => h x (List.mem_cons_of_mem _ hx)]

theorem aget_append_absent (l : List (Nat × α)) {r : List (Nat × α)} (h : ∀ e ∈ r, e.1 ≠ k) (d : α) :
    aget (l ++ r) d k = aget l d k := by
  induction l with
  | nil =>
    have hempty := aget_append_of_absent h [] d
    rwa [List.append_nil] at hempty
  | cons e l ih => rw [List.cons_append, aget, aget, ih]

theorem aget_map_shift (l : List (Nat × α)) (d : α) (n : Nat) :
    aget (l.map fun e => (e.1 + n, e.2)) d (k + n) = aget l d k := by
  induction l with
  | nil => rfl
  | cons e l ih => simp [aget, ih]

/-- A listed value after a change of every value. -/
theorem aget_map_of_listed (f : α → β) {l : List (Nat × α)} {d : α} (h : aget l d k ≠ d) (d' : β) :
    aget (l.map fun e => (e.1, f e.2)) d' k = f (aget l d k) := by
  induction l with
  | nil => exact absurd rfl h
  | cons e l ih =>
    rw [aget] at h
    rw [List.map_cons, aget, aget]
    split
    · rfl
    · rename_i hne
      rw [if_neg hne] at h
      exact ih h

end

section
variable {s t : State}

/-! ### What an event leaves unchanged, part by part -/

theorem player_of_offRegs (h : t.offRegs = s.offRegs) (p : Nat) : t.player p = s.player p := by
  have hplayer := congrArg (fun u : State => u.player p) h
  exact hplayer

/-! ### RELOAD (R422, R426) -/

theorem claimant_of_none_asserted (h : s.field.asserted = 0) (c : Nat) : s.claimant c = none := by
  refine List.foldlRecOn (motive := fun b => b = none) _ _ rfl fun b hb k _ => ?_
  rw [h, inMask, Nat.zero_testBit, if_neg fun hset => Bool.false_ne_true hset.1, hb]

/-- Without claims and entries asserted, claims stay as they are. -/
theorem refreshClaims_of_none (hovr : ∀ c, s.ovrOf c = none) (h : s.field.asserted = 0) : refreshClaims s = s := by
  refine forN_keeps (P := fun t => t = s) rfl fun t c _ ht => ?_
  rw [ht, claimant_of_none_asserted h, hovr]

theorem fsbxCmdWrite_reload (hfree : s.sbxBusy = false) (hovr : ∀ c, s.ovrOf c = none) (h : s.field.asserted = 0) :
    fsbxCmdWrite 1 s = sbxLoadBegin s := by
  have hloop : forN 8 s (releaseLatched 1) = s := by
    refine forN_keeps (P := fun t => t = s) rfl fun t k _ ht => ?_
    have hbit : bit 1 (8 + k) = false := (bit_bitw (i := 0) (by decide) (8 + k)).trans (decide_eq_false (by omega))
    rw [releaseLatched, hbit, if_neg fun hset => Bool.false_ne_true hset.1, ht]
  have hop : fsbxCmdWrite 1 s = if (refreshClaims (forN 8 s (releaseLatched 1))).sbxBusy then
      (refreshClaims (forN 8 s (releaseLatched 1))).fevt Reg.FSBX_EVT 5
    else sbxLoadBegin (refreshClaims (forN 8 s (releaseLatched 1))) := rfl
  rw [hop, hloop, refreshClaims_of_none hovr h, hfree, if_neg Bool.false_ne_true]

theorem reload_begins (hl : s.fieldLive = true) (hfree : s.sbxBusy = false) (hovr : ∀ c, s.ovrOf c = none)
    (h : s.field.asserted = 0) : ∃ t, exec (.reload 1) s = .next t ∧ t.field.loading = true ∧
      t.reg Reg.FSBX_STATUS = wd 536870912 ∧ t.reg Reg.FSBX_VALIDLO = 0 ∧ t.reg Reg.FSBX_VALIDHI = 0 ∧ onlyField s t := by
  have hrun : exec (.reload 1) s = _ := fieldDo_live hl (fsbxCmdWrite 1)
  obtain ⟨hstatus, hlo, hhi⟩ := reg_sbxLoadBegin (s := s)
  rw [fsbxCmdWrite_reload hfree hovr h] at hrun
  refine ⟨_, hrun, ?_, ?_, ?_, ?_, onlyField_of_exec rfl hrun⟩
  · rw [field_of_offRegs (fun f => f.loading) (fun _ => rfl) offRegs_foutSettle, field_sbxLoadBegin]
  · rw [reg_foutSettle (by decide) (by decide), hstatus]
  · rw [reg_foutSettle (by decide) (by decide), hlo]
  · rw [reg_foutSettle (by decide) (by decide), hhi]

/-! ### The end of a load (R422) -/

/-- A load has ended: its messages, FSBX_STATUS and the messages that are valid. -/
def State.loadEnded (s : State) (status : Word) (msgs : List SbxMsg) : State :=
  (((s.setField { s.field with
    loading := false
    msgs := msgs }).setReg Reg.FSBX_STATUS status).setReg Reg.FSBX_VALIDLO (validMask msgs 0)).setReg Reg.FSBX_VALIDHI
      (validMask msgs 32)

section
variable (status : Word) (msgs : List SbxMsg)

theorem loading_loadEnded : (s.loadEnded status msgs).field.loading = false := rfl

theorem mem_loadEnded : (s.loadEnded status msgs).mem = s.mem := rfl

theorem reg_loadEnded_status : (s.loadEnded status msgs).reg Reg.FSBX_STATUS = status := by
  rw [State.loadEnded, reg_setReg_ne _ _ (by decide), reg_setReg_ne _ _ (by decide), reg_setReg_same]

theorem reg_loadEnded_ne {b : Nat} (hstatus : b ≠ Reg.FSBX_STATUS) (hlo : b ≠ Reg.FSBX_VALIDLO)
    (hhi : b ≠ Reg.FSBX_VALIDHI) : (s.loadEnded status msgs).reg b = s.reg b := by
  rw [State.loadEnded, reg_setReg_ne _ _ hhi, reg_setReg_ne _ _ hlo, reg_setReg_ne _ _ hstatus]
  exact reg_setField _ b

end

theorem sbxLoadFinish_rejected (hbad : s.sbxAccepted = false) : sbxLoadFinish s =
    ((s.loadEnded (wd 3221225472) []).fevt Reg.FSBX_EVT 1).fevt Reg.FSBX_EVT 0 := by
  unfold sbxLoadFinish
  simp only [hbad, Bool.false_eq_true, if_false, List.filter_nil, List.length_nil]
  rfl

/-- Each message that fails its check is an event. -/
def messageEvents (msgs : List SbxMsg) (s : State) (e : Nat) : State :=
  if (msgs.getD e ⟨0, 0, false⟩).valid then s else s.fevt Reg.FSBX_EVT 2

/-- The events of messages change FSBX_EVT alone of the registers. -/
theorem messageEvents_keep (msgs : List SbxMsg) (n : Nat) : (forN n s (messageEvents msgs)).offRegs = s.offRegs ∧
    ∀ b, b ≠ Reg.FSBX_EVT → (forN n s (messageEvents msgs)).reg b = s.reg b := by
  refine ⟨forN_keeps (P := fun t : State => t.offRegs = s.offRegs) rfl fun t e _ ht => ?_,
    fun b hb => forN_keeps (P := fun t : State => t.reg b = s.reg b) rfl fun t e _ ht => ?_⟩
  · unfold messageEvents
    split
    · exact ht
    · exact (offRegs_fevtC _ _ _ _).trans ht
  · unfold messageEvents
    split
    · exact ht
    · exact (reg_fevtC_ne _ _ _ hb).trans ht

theorem sbxLoadFinish_accepted (hok : s.sbxAccepted = true) : ∃ n msgs k, n ≤ 64 ∧ sbxLoadFinish s =
    (forN k ((copyFlash s).loadEnded (wd (2147483648 + n * 65536)) msgs) (messageEvents msgs)).fevt Reg.FSBX_EVT 0 := by
  have hvalid : (((List.range 64).map s.sbxIndex).filter (fun m => m.valid)).length ≤ 64 := by
    refine (List.length_filter_le _ _).trans ?_
    rw [List.length_map, List.length_range]
  unfold sbxLoadFinish
  simp only [hok, if_true]
  exact ⟨_, _, _, hvalid, rfl⟩

/-- A later load ends without the preset (R705). -/
theorem strongboxLoadEndOp_reload (hload : s.field.loading = true) (hstart : s.rb Reg.FSYS_STATUS 2 = true) :
    strongboxLoadEndOp s = sbxLoadFinish s := by
  have hlvl : (sbxLoadFinish s).rb Reg.FSYS_STATUS 2 = true := by
    cases hok : s.sbxAccepted with
    | false =>
      rw [sbxLoadFinish_rejected hok, State.rb, State.fevt, State.fevt, reg_fevtC_ne _ _ _ (by decide),
        reg_fevtC_ne _ _ _ (by decide), reg_loadEnded_ne _ _ (by decide) (by decide) (by decide)]
      exact hstart
    | true =>
      obtain ⟨n, msgs, k, -, hfinish⟩ := sbxLoadFinish_accepted hok
      rw [hfinish, State.rb, State.fevt, reg_fevtC_ne _ _ _ (by decide), (messageEvents_keep _ _).2 _ (by decide),
        reg_loadEnded_ne _ _ (by decide) (by decide) (by decide)]
      exact hstart
  unfold strongboxLoadEndOp
  rw [if_pos hload]
  exact if_pos hlvl

/-! ### The Strongbox takes the flash (R422) -/

theorem rdByte_copyFlash_below {a : Nat} (ha : a < strongbox) : (copyFlash s).rdByte a = s.rdByte a := by
  refine (aget_append_absent _ (fun e he => ?_) _).trans
    (aget_filter (p := fun b => decide (b < strongbox)) (decide_eq_true ha) _ _)
  obtain ⟨x, hx, rfl⟩ := List.mem_map.mp he
  have hflash := of_decide_eq_true (List.mem_filter.mp hx).2
  unfold strongbox at ha
  unfold fflash at hflash ⊢
  dsimp only
  omega

theorem memDefault_flash {a : Nat} (h : fflash ≤ a) : memDefault a = 0xFF := by
  rw [memDefault, if_pos (.inr h)]

theorem rdByte_copyFlash {a : Nat} (ha : a < 0x1000000) :
    (copyFlash s).rdByte (strongbox + a) = s.rdByte (fflash + a) := by
  have hflash : fflash ≤ fflash + a := Nat.le_add_right _ _
  have hbelow : fflash + a < strongbox := by unfold fflash strongbox; omega
  have haddr : strongbox + a = fflash + a + fflash := by unfold fflash strongbox; omega
  have habsent : ∀ e ∈ s.mem.filter (fun e => decide (e.1 < strongbox)), e.1 ≠ strongbox + a := fun e he => by
    have hlt := of_decide_eq_true (List.mem_filter.mp he).2
    omega
  rw [State.rdByte, memDefault_flash (by omega), copyFlash, aget_append_of_absent habsent, haddr, aget_map_shift,
    aget_filter (p := fun b => decide (fflash ≤ b)) (decide_eq_true hflash),
    aget_filter (p := fun b => decide (b < strongbox)) (decide_eq_true hbelow), State.rdByte, memDefault_flash hflash]

/-- FSBX_STATUS after a load with `n` valid messages: LOADED without REJ. -/
theorem bits_loaded {n : Nat} (hn : n ≤ 64) :
    bit (wd (2147483648 + n * 65536)) 31 = true ∧ bit (wd (2147483648 + n * 65536)) 30 = false := by
  have hnat : (wd (2147483648 + n * 65536)).toNat = 2 ^ 31 * 1 + n * 65536 := by
    rw [wd, BitVec.toNat_ofNat]
    omega
  rw [bit, bit, hnat, Nat.testBit_two_pow_mul_add _ (by omega), Nat.testBit_two_pow_mul_add _ (by omega)]
  exact ⟨rfl, Nat.testBit_lt_two_pow (by omega)⟩

section
variable (hl : s.fieldLive = true)
include hl

theorem strongboxLoadEnd_rejects (hload : s.field.loading = true) (hstart : s.rb Reg.FSYS_STATUS 2 = true)
    (hbad : s.sbxAccepted = false) : ∃ t, exec .strongboxLoadEnd s = .next t ∧ t.field.loading = false ∧
      t.reg Reg.FSBX_STATUS = wd 3221225472 ∧ t.rb Reg.FSBX_EVT 0 = true ∧ t.rb Reg.FSBX_EVT 1 = true ∧ t.mem = s.mem := by
  have hrun : exec .strongboxLoadEnd s = _ := fieldDo_live hl strongboxLoadEndOp
  rw [strongboxLoadEndOp_reload hload hstart, sbxLoadFinish_rejected hbad] at hrun
  have hoff : ∀ u : State, (foutSettle ((u.fevt Reg.FSBX_EVT 1).fevt Reg.FSBX_EVT 0)).offRegs = u.offRegs := fun u =>
    (offRegs_foutSettle_fevtC _ _ _ _).trans (offRegs_fevtC _ _ _ _)
  refine ⟨_, hrun, (field_of_offRegs (fun f => f.loading) (fun _ => rfl) (hoff _)).trans (loading_loadEnded _ _), ?_,
    rb_foutSettle_of_rb (by decide) (rb_fevtC_self _ _ _ (by decide)),
    rb_foutSettle_of_rb (by decide) (rb_fevtC_of_rb _ _ _ (rb_fevtC_self _ _ _ (by decide))),
    (mem_of_offRegs (hoff _)).trans (mem_loadEnded _ _)⟩
  rw [reg_foutSettle (by decide) (by decide), State.fevt, State.fevt, reg_fevtC_ne _ _ _ (by decide),
    reg_fevtC_ne _ _ _ (by decide), reg_loadEnded_status]

theorem strongboxLoadEnd_loads (hload : s.field.loading = true) (hstart : s.rb Reg.FSYS_STATUS 2 = true)
    (hok : s.sbxAccepted = true) : ∃ t, exec .strongboxLoadEnd s = .next t ∧ t.field.loading = false ∧
      t.sbxLoaded = true ∧ t.rb Reg.FSBX_EVT 0 = true ∧
      (∀ a, a < 0x1000000 → t.rdByte (strongbox + a) = s.rdByte (fflash + a)) ∧
      ∀ a, a < strongbox → t.rdByte a = s.rdByte a := by
  have hrun : exec .strongboxLoadEnd s = _ := fieldDo_live hl strongboxLoadEndOp
  obtain ⟨n, msgs, k, hn, hfinish⟩ := sbxLoadFinish_accepted hok
  rw [strongboxLoadEndOp_reload hload hstart, hfinish] at hrun
  obtain ⟨hoffLoop, hregLoop⟩ :=
    messageEvents_keep (s := (copyFlash s).loadEnded (wd (2147483648 + n * 65536)) msgs) msgs k
  have hoff := (offRegs_foutSettle_fevtC Reg.FSBX_EVT 0 0xFF 0).trans hoffLoop
  have hmem := (mem_of_offRegs hoff).trans (mem_loadEnded _ _)
  obtain ⟨h31, h30⟩ := bits_loaded hn
  refine ⟨_, hrun, (field_of_offRegs (fun f => f.loading) (fun _ => rfl) hoff).trans (loading_loadEnded _ _), ?_,
    rb_foutSettle_of_rb (by decide) (rb_fevtC_self _ _ _ (by decide)),
    fun a ha => (rdByte_of_mem hmem _).trans (rdByte_copyFlash ha),
    fun a ha => (rdByte_of_mem hmem _).trans (rdByte_copyFlash_below ha)⟩
  rw [State.sbxLoaded, State.rb, State.rb, reg_foutSettle (by decide) (by decide), State.fevt,
    reg_fevtC_ne _ _ _ (by decide), hregLoop _ (by decide), reg_loadEnded_status, h31, h30]
  rfl

end

/-! ### Flash commands (R426) -/

theorem pgCmdWrite_begins {v : Word} (hv : fld v 1 0 = 1 ∨ fld v 1 0 = 2) (hidle : s.rb Reg.FSBX_STATUS 29 = false) :
    pgCmdWrite v s = (s.setField { s.field with
      pg := some (decide (fld v 1 0 = 1), (s.reg Reg.FSBX_PGADDR).toNat) }).setBit Reg.FSBX_STATUS 29 true := by
  unfold pgCmdWrite
  dsimp only
  rw [if_pos hv, hidle, if_neg Bool.false_ne_true]

theorem pgCmdWrite_refused {v : Word} (hv : fld v 1 0 = 1 ∨ fld v 1 0 = 2) (hbusy : s.rb Reg.FSBX_STATUS 29 = true) :
    pgCmdWrite v s = s.fevtC Reg.FSBX_EVT 5 0xFF 0 := by
  unfold pgCmdWrite
  dsimp only
  rw [if_pos hv, if_pos hbusy]
  rfl

/-- A row that begins a flash command. -/
theorem pgCmd_begins {i : Instr} {v : Word} (hfield : fieldCommand i = true)
    (hrun : exec i s = .next (foutSettle (pgCmdWrite v s))) (hv : fld v 1 0 = 1 ∨ fld v 1 0 = 2)
    (hidle : s.rb Reg.FSBX_STATUS 29 = false) : ∃ t, exec i s = .next t ∧
      t.field.pg = some (decide (fld v 1 0 = 1), (s.reg Reg.FSBX_PGADDR).toNat) ∧ t.rb Reg.FSBX_STATUS 29 = true ∧
      onlyField s t := by
  rw [pgCmdWrite_begins hv hidle] at hrun
  exact ⟨_, hrun, field_of_offRegs (fun f => f.pg) (fun _ => rfl) offRegs_foutSettle,
    rb_foutSettle_of_rb (by decide) (rb_setBit_self _ _ (by decide)), onlyField_of_exec hfield hrun⟩

theorem sbxEraseSector_refused (hl : s.fieldLive = true) (hbusy : s.rb Reg.FSBX_STATUS 29 = true) :
    ∃ t, exec .sbxEraseSector s = .next t ∧ t.field.pg = s.field.pg ∧ t.rb Reg.FSBX_EVT 5 = true ∧ onlyField s t := by
  have hrun : exec .sbxEraseSector s = _ := fieldDo_live hl (pgCmdWrite 1)
  rw [pgCmdWrite_refused (.inl rfl) hbusy] at hrun
  exact ⟨_, hrun, field_of_offRegs (fun f => f.pg) (fun _ => rfl) (offRegs_foutSettle_fevtC _ _ _ _),
    rb_foutSettle_of_rb (by decide) (rb_fevtC_self _ _ _ (by decide)), onlyField_of_exec rfl hrun⟩

/-- A flash command has ended. -/
def State.flashIdle (s : State) : State :=
  ((s.setField { s.field with pg := none }).setBit Reg.FSBX_STATUS 29 false).fevtC Reg.FSBX_EVT 6 0xFF 0

theorem flashIdle_ends : (foutSettle s.flashIdle).field.pg = none ∧
    (foutSettle s.flashIdle).rb Reg.FSBX_STATUS 29 = false ∧ (foutSettle s.flashIdle).rb Reg.FSBX_EVT 6 = true ∧
    (foutSettle s.flashIdle).mem = s.mem := by
  have hoff : (foutSettle s.flashIdle).offRegs = (s.setField { s.field with pg := none }).offRegs :=
    (offRegs_foutSettle_fevtC _ _ _ _).trans (offRegs_setBit _ _ _)
  refine ⟨(field_of_offRegs (fun f => f.pg) (fun _ => rfl) hoff).trans rfl, ?_,
    rb_foutSettle_of_rb (by decide) (rb_fevtC_self _ _ _ (by decide)), (mem_of_offRegs hoff).trans rfl⟩
  rw [State.rb, reg_foutSettle (by decide) (by decide), State.flashIdle, reg_fevtC_ne _ _ _ (by decide)]
  exact rb_setBit_self _ false (by decide)

theorem rdByte_clearMem (lo hi b : Nat) :
    (s.clearMem lo hi).rdByte b = if lo ≤ b ∧ b < hi then memDefault b else s.rdByte b := by
  split
  · exact aget_filter_out (p := fun a => decide (a < lo) || decide (hi ≤ a)) (by simp; omega) _ _
  · exact aget_filter (p := fun a => decide (a < lo) || decide (hi ≤ a)) (by simp; omega) _ _

theorem rdByte_progBytes (l : List Byte) (s : State) (a x : Nat) : (progBytes s a l).rdByte x =
    if a ≤ x ∧ x < a + l.length then s.rdByte x &&& l.getD (x - a) 0 else s.rdByte x := by
  induction l generalizing s a with
  | nil =>
    rw [List.length_nil, if_neg (by omega)]
    rfl
  | cons b l ih =>
    rw [progBytes, ih, rdByte_wrByte, List.length_cons]
    rcases Nat.lt_trichotomy x a with hlt | rfl | hgt
    · rw [if_neg (by omega), if_neg (by omega), if_neg (by omega)]
    · rw [if_neg (by omega), if_pos rfl, if_pos (by omega), Nat.sub_self, List.getD_cons_zero]
    · have hsub : x - a = x - (a + 1) + 1 := by omega
      rw [if_neg (by omega : ¬ x = a), hsub, List.getD_cons_succ]
      exact if_congr (by omega) rfl rfl

theorem length_pageBuf (base : Nat) : (s.pageBuf base).length = 256 := by
  rw [State.pageBuf, ← List.flatMap_eq_foldl, List.length_flatMap]
  simp [length_leBytes]

section
variable (hl : s.fieldLive = true) {a : Nat}
include hl

theorem sbxCommandDone_erases (hpg : s.field.pg = some (true, a)) : ∃ t, exec .sbxCommandDone s = .next t ∧
    t.field.pg = none ∧ t.rb Reg.FSBX_STATUS 29 = false ∧ t.rb Reg.FSBX_EVT 6 = true ∧ ∀ b, t.rdByte b =
      if fflash + a / 65536 * 65536 ≤ b ∧ b < fflash + a / 65536 * 65536 + 65536 then 0xFF else s.rdByte b := by
  have hrun : exec .sbxCommandDone s = _ := fieldDo_live hl sbxCommandDoneOp
  have hop : sbxCommandDoneOp s =
      (s.clearMem (fflash + a / 65536 * 65536) (fflash + a / 65536 * 65536 + 65536)).flashIdle := by
    unfold sbxCommandDoneOp State.flashIdle
    simp only [hpg, State.fevt, if_true]
  rw [hop] at hrun
  obtain ⟨hidle, hbusy, hevt, hmem⟩ :=
    flashIdle_ends (s := s.clearMem (fflash + a / 65536 * 65536) (fflash + a / 65536 * 65536 + 65536))
  refine ⟨_, hrun, hidle, hbusy, hevt, fun b => ?_⟩
  rw [rdByte_of_mem hmem, rdByte_clearMem]
  split
  · exact memDefault_flash (by omega)
  · rfl

theorem sbxCommandDone_programs (hpg : s.field.pg = some (false, a)) : ∃ t, exec .sbxCommandDone s = .next t ∧
    t.field.pg = none ∧ t.rb Reg.FSBX_EVT 6 = true ∧ ∀ b, t.rdByte b =
      if fflash + a / 256 * 256 ≤ b ∧ b < fflash + a / 256 * 256 + 256 then
        s.rdByte b &&& (s.pageBuf (Reg.FSBX_PGBUF 0)).getD (b - (fflash + a / 256 * 256)) 0 else s.rdByte b := by
  have hrun : exec .sbxCommandDone s = _ := fieldDo_live hl sbxCommandDoneOp
  have hop : sbxCommandDoneOp s =
      (progBytes s (fflash + a / 256 * 256) (s.pageBuf (Reg.FSBX_PGBUF 0))).flashIdle := by
    unfold sbxCommandDoneOp State.flashIdle
    simp only [hpg, State.fevt, Bool.false_eq_true, if_false]
  rw [hop] at hrun
  obtain ⟨hidle, -, hevt, hmem⟩ :=
    flashIdle_ends (s := progBytes s (fflash + a / 256 * 256) (s.pageBuf (Reg.FSBX_PGBUF 0)))
  refine ⟨_, hrun, hidle, hevt, fun b => ?_⟩
  rw [rdByte_of_mem hmem, rdByte_progBytes, length_pageBuf]

end

/-! ### Players (R424, R425) -/

theorem msgValid_of_reg (hstatus : t.reg Reg.FSBX_STATUS = s.reg Reg.FSBX_STATUS)
    (hlo : t.reg Reg.FSBX_VALIDLO = s.reg Reg.FSBX_VALIDLO) (hhi : t.reg Reg.FSBX_VALIDHI = s.reg Reg.FSBX_VALIDHI)
    (e : Nat) : t.msgValid e = s.msgValid e := by
  simp only [State.msgValid, State.sbxLoaded, State.rb, hstatus, hlo, hhi]

/-- A write of FSBX_PLAYp reaches no register that says which messages are valid. -/
theorem newPlay_typeWrite_play (p : Nat) (v : Word) (e n g : Nat) (rep : Bool) :
    (s.typeWrite (Reg.FSBX_PLAY p) v).newPlay e n g rep = s.newPlay e n g rep := by
  have hne : ∀ a, a < 0x70060240 → (s.typeWrite (Reg.FSBX_PLAY p) v).reg a = s.reg a := fun a ha =>
    reg_typeWrite_ne v (by unfold Reg.FSBX_PLAY; omega)
  rw [State.newPlay, State.newPlay, msgValid_of_reg (hne _ (by decide)) (hne _ (by decide)) (hne _ (by decide))]

section
variable {p : Nat} {v : Word} {i : Instr} {x : Player}

/-- A row that writes one player and its register. -/
theorem player_becomes (hfield : fieldCommand i = true)
    (hrun : exec i s = .next (foutSettle ((s.typeWrite (Reg.FSBX_PLAY p) v).setPlayer p x))) :
    ∃ t, exec i s = .next t ∧ t.player p = x ∧ (∀ q, q ≠ p → t.player q = s.player q) ∧ (∀ c, t.chan c = s.chan c) ∧
      onlyField s t := by
  have hwrite := player_of_offRegs (offRegs_typeWrite (s := s) (Reg.FSBX_PLAY p) v)
  refine ⟨_, hrun, ?_, fun q hq => ?_, fun c => ?_, onlyField_of_exec hfield hrun⟩
  · rw [player_of_offRegs offRegs_foutSettle, setPlayer_same]
  · rw [player_of_offRegs offRegs_foutSettle, setPlayer_ne _ _ hq, hwrite]
  · rw [chan_foutSettle]
    exact (chan_setField rfl c).trans (chan_typeWrite _ v c)

variable (hl : s.fieldLive = true) (hp : p < 8)
include hl hp

theorem playerGo_starts (hgo : bit v 31 = true) (hstop : bit v 30 = false) :
    ∃ t, exec (.playerGo p v) s = .next t ∧ t.player p = { s.player p with
        go := some (s.newPlay (fld v 21 16) (8 * s.field.folio + 8) (fld v 15 0) (bit v 29))
        stop := false } ∧ (∀ q, q ≠ p → t.player q = s.player q) ∧ (∀ c, t.chan c = s.chan c) ∧ onlyField s t := by
  refine player_becomes (v := v) rfl ?_
  change execPlayerGo p v s = _
  rw [execPlayerGo, fieldDo_live hl, if_pos hp]
  unfold playWrite
  dsimp only
  rw [hgo, if_pos rfl, hstop, if_neg Bool.false_ne_true, newPlay_typeWrite_play, player_of_offRegs (offRegs_typeWrite _ _),
    field_of_offRegs (fun f => f.folio) (fun _ => rfl) (offRegs_typeWrite _ _)]

theorem playerStop_stops (hstop : bit v 30 = true) : ∃ t, exec (.playerStop p v) s = .next t ∧
    t.player p = { s.player p with
      go := none
      stop := true } ∧ (∀ q, q ≠ p → t.player q = s.player q) ∧ (∀ c, t.chan c = s.chan c) ∧ onlyField s t := by
  refine player_becomes (v := v) rfl ?_
  change execPlayerStop p v s = _
  rw [execPlayerStop, fieldDo_live hl, if_pos hp]
  unfold playWrite
  dsimp only
  rw [hstop, if_pos rfl, player_of_offRegs (offRegs_typeWrite _ _)]
  cases bit v 31 <;> rfl

end

/-! ### The end of an on-burst of the tone (R424) -/

/-- A channel whose playbacks of the tone change to their messages at sample `n`. -/
def Chan.burstEnded (x : Chan) (valid : Nat → Bool) (n : Nat) : Chan := { x with
  cur := x.cur.toMessage valid n
  nxt := x.nxt.map fun a => (a.1, a.2.toMessage valid n) }

theorem chan_toneBurstEndOp (hloaded : s.sbxLoaded = true) {c : Nat} (hlisted : s.chan c ≠ Chan.reset) :
    (toneBurstEndOp s).chan c = (s.chan c).burstEnded s.msgValid s.nextSample := by
  rw [toneBurstEndOp, if_pos hloaded]
  exact aget_map_of_listed (fun x : Chan => x.burstEnded s.msgValid s.nextSample) hlisted _

theorem toneBurstEnd_changes (hl : s.fieldLive = true) (hloaded : s.sbxLoaded = true) {c : Nat} {p : Play}
    (hcur : (s.chan c).cur = .message p) (htone : p.tone = true) (hvalid : s.msgValid p.msg = true) :
    ∃ t, exec .toneBurstEnd s = .next t ∧ (t.chan c).cur = .message (
      if s.nextSample ≤ p.start then { p with tone := false }
      else if 48000 ≤ (s.nextSample - p.start) % 96000 then { p with
        tone := false
        start := s.nextSample }
      else p) ∧ onlyField s t := by
  have hrun : exec .toneBurstEnd s = _ := fieldDo_live hl toneBurstEndOp
  have hlisted : s.chan c ≠ Chan.reset := fun h => by
    rw [h] at hcur
    cases hcur
  refine ⟨_, hrun, ?_, onlyField_of_exec rfl hrun⟩
  rw [chan_foutSettle, chan_toneBurstEndOp hloaded hlisted, Chan.burstEnded, hcur, AudioSrc.toMessage, Play.toMessage, htone,
    hvalid]
  rfl

end

/-- Settles O26, row by row. -/
theorem strongboxCommands : Obligations.StrongboxCommands :=
  ⟨fun _ hl hfree hovr h => reload_begins hl hfree hovr h, fun _ hl hload hstart hbad =>
      strongboxLoadEnd_rejects hl hload hstart hbad,
    fun _ hl hload hstart hok => strongboxLoadEnd_loads hl hload hstart hok,
    fun _ hl hidle => ⟨pgCmd_begins (v := 1) rfl (fieldDo_live hl _) (.inl rfl) hidle,
      pgCmd_begins (v := 2) rfl (fieldDo_live hl _) (.inr rfl) hidle⟩,
    fun _ hl hbusy => sbxEraseSector_refused hl hbusy, fun _ _ hl hpg => sbxCommandDone_erases hl hpg,
    fun _ _ hl hpg => sbxCommandDone_programs hl hpg, fun _ _ _ hl hp hgo hstop => playerGo_starts hl hp hgo hstop,
    fun _ _ _ hl hp hstop => playerStop_stops hl hp hstop,
    fun _ _ _ hl hloaded hcur htone hvalid => toneBurstEnd_changes hl hloaded hcur htone hvalid⟩

end Sys2Proof.Machine
end

section
/-! PROOF. The Keyway's link, the launch of messages and the loss of the field's HEARTBEAT (R386 to R397, R416, R784): O28,
row by row. -/

namespace Sys2Proof.Machine

section
variable {s t : State}

theorem isA_of_fieldLive (hl : s.fieldLive = true) : s.isA = true := (fieldLive_iff.mp hl).1

theorem Within.field_eq {m : Parts} (h : Within m s t) (hm : m.field = false) : t.field = s.field := by
  simpa [State.outside, hm] using congrArg State.field h

theorem reg_setKwy (k : Kwy) (b : Nat) : (s.setKwy k).reg b = s.reg b := rfl

/-! ### The HINGE frame of a change of FIELDOK (Table 10.5) -/

/-- A frame offered changes registers of its port only. -/
theorem reg_offer {p b : Nat} (q : Nat) (f : Frame) (hp : p < 4) (hb : 0x60140000 ≤ b) :
    (offer p q f s).reg b = s.reg b := by
  have hmac : ∀ a, a < 0x10000 → b ≠ 0x60100000 + a + 0x10000 * p := fun a ha => by omega
  have hcnt : b ≠ Reg.MAC_CNT p 38 := by unfold Reg.MAC_CNT; omega
  have hsum : b ≠ Reg.EVT_SUM := by unfold Reg.EVT_SUM; omega
  have hhr : b ≠ Reg.MAC_HRHI p := hmac 0x24 (by decide)
  unfold offer
  dsimp only
  split
  · rw [reg_evt_ne _ (hmac 8 (by decide)) hsum]
    unfold State.macCount
    dsimp only
    split
    · rw [reg_evt_ne _ (hmac 8 (by decide)) hsum, if_neg (by decide), reg_raise_ne _ _ hhr, reg_setReg_ne _ _ hcnt]
    · rw [reg_setReg_ne _ _ hcnt]
  · rfl

theorem reg_sendControl {p b : Nat} (dst ctype : Nat) (payload : List Byte) (hp : p < 4) (hb : 0x60140000 ≤ b) :
    (sendControl p dst ctype payload s).reg b = s.reg b := by
  unfold sendControl
  split
  · exact reg_offer 5 _ hp hb
  · rfl

theorem reg_fieldOkFollow {b : Nat} (was : Bool) (hb : 0x60140000 ≤ b) : (fieldOkFollow was s).reg b = s.reg b := by
  unfold fieldOkFollow
  split
  · exact reg_sendControl _ _ _ (by decide) hb
  · rfl

theorem rb_fieldOkFollow {b : Nat} (was : Bool) (i : Nat) (hb : 0x60140000 ≤ b) :
    (fieldOkFollow was s).rb b i = s.rb b i := by
  rw [State.rb, State.rb, reg_fieldOkFollow was hb]

theorem fieldOkFollow_within (was : Bool) (s : State) : Within networkParts s (fieldOkFollow was s) :=
  within_ite (within_sendControl rfl rfl _ _ _ _ (Within.refl _ s)) (Within.refl _ s)

/-! ### Training (R387, R388) -/

theorem lanesAligned_host (hA : s.isA = true) (hl : s.hostLive = true) (hdown : s.kwy.link = .down)
    (hen : s.rb Reg.KWY_CTRL 0 = true) :
    exec (.lanesAligned true) s = .next { s with kwy := { s.kwy with link := .train } } :=
  (kwyDo_isA hA (lanesAlignedOp true)).trans (congrArg _ ((if_pos rfl).trans (if_pos ⟨hdown, hen, hl⟩)))

theorem lanesAligned_field (hl : s.fieldLive = true) (hdown : s.field.link = .down) :
    exec (.lanesAligned false) s = .next { s with field := { s.field with
      link := .train
      laneClock := true } } :=
  (kwyDo_isA (isA_of_fieldLive hl) (lanesAlignedOp false)).trans
    (congrArg _ ((if_neg Bool.false_ne_true).trans (if_pos ⟨hdown, hl⟩)))

section
variable {ld : Nat} (hA : s.isA = true)
include hA

theorem trainingComplete_host (htrain : s.kwy.link = .train) (hfar : s.field.link ≠ .down) (hld : ld ≤ 1536) :
    ∃ t, exec (.trainingComplete true ld) s = .next t ∧ t.kwy.link = .up ∧ t.kwy.txSeq = 0 ∧ t.kwy.rxSeq = none ∧
      t.reg Reg.KWY_LD = wd ld ∧ t.rb Reg.KWY_EVT 0 = true ∧ t.field = s.field ∧ t.mem = s.mem := by
  have hrun : exec (.trainingComplete true ld) s = _ := kwyDo_isA hA (trainingCompleteOp true ld)
  have hop : trainingCompleteOp true ld s = ((s.setReg Reg.KWY_LD (wd ld)).setKwy { s.kwy with
      link := .up
      txSeq := 0
      rxSeq := none
      ready := []
      held := []
      first := []
      busyUntil := 0 }).evt Reg.KWY_EVT 0 := by
    unfold trainingCompleteOp
    rw [if_pos rfl, if_neg (by simp [htrain, hfar]), if_neg (Nat.not_lt.mpr hld)]
    rfl
  rw [hop] at hrun
  refine ⟨_, hrun, ?_, ?_, ?_, ?_, rb_evt _ (by decide) (by decide), ?_, ?_⟩
  · rw [evt_kwy]
    rfl
  · rw [evt_kwy]
    rfl
  · rw [evt_kwy]
    rfl
  · rw [reg_evt_ne _ (by decide) (by decide), reg_setKwy, reg_setReg_same]
  · rw [evt_field]
    rfl
  · rw [evt_mem]
    rfl

theorem trainingComplete_field (hfar : s.kwy.link ≠ .down) (htrain : s.field.link = .train) (hld : ld ≤ 1536) :
    ∃ t, exec (.trainingComplete false ld) s = .next t ∧ t.field.link = .up ∧ t.field.txSeq = 0 ∧ t.field.rxSeq = none ∧
      t.rf Reg.FKWY_STATUS 26 16 = ld ∧ (∀ c, t.chan c = s.chan c) ∧ onlyField s t := by
  have hrun : exec (.trainingComplete false ld) s = _ := kwyDo_isA hA (trainingCompleteOp false ld)
  have hop : trainingCompleteOp false ld s = foutSettle ((s.setFld Reg.FKWY_STATUS 26 16 ld).setField { s.field with
      link := .up
      txSeq := 0
      rxSeq := none
      ready := []
      held := []
      first := []
      busyUntil := 0 }) := by
    unfold trainingCompleteOp
    rw [if_neg Bool.false_ne_true, if_neg (by simp [htrain, hfar, hld])]
    rfl
  rw [hop] at hrun
  refine ⟨_, hrun, field_of_offRegs (fun f => f.link) (fun _ => rfl) offRegs_foutSettle,
    field_of_offRegs (fun f => f.txSeq) (fun _ => rfl) offRegs_foutSettle,
    field_of_offRegs (fun f => f.rxSeq) (fun _ => rfl) offRegs_foutSettle, ?_, fun c => ?_, onlyField_of_within ?_⟩
  · rw [State.rf, reg_foutSettle (by decide) (by decide), reg_setField, reg_setFld_same, fld_putFld_same _ _ (by decide)]
    exact Nat.mod_eq_of_lt (by omega)
  · rw [chan_foutSettle]
    exact chan_setField rfl c
  · exact within_foutSettle rfl (within_setField rfl _ (within_setFld_open rfl _ _ _ (Within.refl _ s)))

theorem trainingComplete_late (htrain : s.kwy.link = .train) (hfar : s.field.link ≠ .down) (hld : 1536 < ld) :
    ∃ t, exec (.trainingComplete true ld) s = .next t ∧ t.kwy = s.kwy ∧ t.field = s.field ∧ t.rb Reg.KWY_EVT 9 = true ∧
      t.mem = s.mem := by
  have hrun : exec (.trainingComplete true ld) s = _ := kwyDo_isA hA (trainingCompleteOp true ld)
  have hop : trainingCompleteOp true ld s = s.evt Reg.KWY_EVT 9 := by
    unfold trainingCompleteOp
    rw [if_pos rfl, if_neg (by simp [htrain, hfar]), if_pos hld]
  rw [hop] at hrun
  exact ⟨_, hrun, evt_kwy _ _ _, evt_field _ _ _, rb_evt _ (by decide) (by decide), evt_mem _ _ _⟩

end

/-! ### The host's end goes DOWN (R388) -/

/-- The host's link is down, with nothing queued and no access outstanding. -/
def State.hostDown (s : State) : State := s.setKwy { s.kwy with
  link := .down
  ready := []
  held := []
  first := []
  out := none
  waiting := [] }

theorem hostEndDown_idle (hout : s.kwy.out = none) (hwait : s.kwy.waiting = []) : hostEndDown s =
    fieldOkFollow s.fieldOk (if s.kwy.link = .up then s.hostDown.evt Reg.KWY_EVT 1 else s.hostDown) := by
  unfold hostEndDown
  rw [hout, hwait]
  rfl

section
variable (hA : s.isA = true) (hout : s.kwy.out = none) (hwait : s.kwy.waiting = [])
include hA hout hwait

theorem keywayLinkDown_host (hup : s.kwy.link = .up) : ∃ t, exec (.keywayLinkDown true true) s = .next t ∧
    t.kwy.link = .down ∧ t.kwy.ready = [] ∧ t.kwy.held = [] ∧ t.rb Reg.KWY_EVT 1 = true ∧ t.field = s.field ∧
      t.mem = s.mem := by
  have hrun : exec (.keywayLinkDown true true) s = _ := kwyDo_isA hA (keywayLinkDownOp true true)
  have hop : keywayLinkDownOp true true s = fieldOkFollow s.fieldOk (s.hostDown.evt Reg.KWY_EVT 1) := by
    unfold keywayLinkDownOp
    rw [if_pos rfl, if_pos (.inl ⟨rfl, hup⟩), hostEndDown_idle hout hwait, if_pos hup]
  rw [hop] at hrun
  have hfollow := fieldOkFollow_within s.fieldOk (s.hostDown.evt Reg.KWY_EVT 1)
  have hkwy := (hfollow.kwy_eq rfl).trans (evt_kwy _ _ _)
  refine ⟨_, hrun, by rw [hkwy]; rfl, by rw [hkwy]; rfl, by rw [hkwy]; rfl, ?_,
    (hfollow.field_eq rfl).trans (evt_field _ _ _), (hfollow.mem_eq rfl).trans (evt_mem _ _ _)⟩
  rw [rb_fieldOkFollow _ _ (by decide)]
  exact rb_evt _ (by decide) (by decide)

theorem keywayLinkDown_disabled (htrain : s.kwy.link = .train) (hen : s.rb Reg.KWY_CTRL 0 = false) :
    ∃ t, exec (.keywayLinkDown true false) s = .next t ∧ t.kwy.link = .down ∧ t.field = s.field ∧ t.mem = s.mem := by
  have hrun : exec (.keywayLinkDown true false) s = _ := kwyDo_isA hA (keywayLinkDownOp true false)
  have hop : keywayLinkDownOp true false s = fieldOkFollow s.fieldOk s.hostDown := by
    unfold keywayLinkDownOp
    rw [if_pos rfl, if_pos (.inr (by simp [htrain, hen])), hostEndDown_idle hout hwait, if_neg (by simp [htrain])]
  rw [hop] at hrun
  have hfollow := fieldOkFollow_within s.fieldOk s.hostDown
  exact ⟨_, hrun, by rw [hfollow.kwy_eq rfl]; rfl, hfollow.field_eq rfl, hfollow.mem_eq rfl⟩

end

/-! ### The field die's end goes DOWN (R388, R413, R433) -/

theorem offRegs_fkwyCount (a n : Nat) : (s.fkwyCount a n).offRegs = s.offRegs :=
  (offRegs_fevtIf _ _ _).trans (offRegs_setReg _ _)

theorem offRegs_fbusDrop : (fbusDrop s).offRegs = s.offRegs :=
  (offRegs_fevtC _ _ _ _).trans (offRegs_fkwyCount _ _)

theorem field_setBit (a i : Nat) (b : Bool) : (s.setBit a i b).field = s.field := rfl

/-- While the link is not UP an event queues no message (R413). -/
theorem field_fevtC_of_not_up (h : s.field.link ≠ .up) (a i k e : Nat) : (s.fevtC a i k e).field = s.field := by
  unfold State.fevtC
  dsimp only
  rw [show (s.raise a (bitw i)).field = s.field from rfl, if_pos (Or.inr h)]
  rfl

theorem field_fevtIf_of_not_up (h : s.field.link ≠ .up) (b : Bool) (a i : Nat) : (s.fevtIf b a i).field = s.field := by
  unfold State.fevtIf
  split
  · exact field_fevtC_of_not_up h a i _ _
  · rfl

theorem field_foutSettle_of_not_up (h : s.field.link ≠ .up) : (foutSettle s).field = s.field := by
  rw [foutSettle, field_fevtIf_of_not_up (by rwa [field_setBit]), field_setBit]

/-- The field die's link is down, with nothing queued. -/
def State.fieldDown (s : State) : State := s.setField { s.field with
  link := .down
  ready := []
  held := []
  first := [] }

theorem field_fieldDown : s.fieldDown.field = { s.field with
    link := .down
    ready := []
    held := []
    first := [] } := rfl

/-- The F0 frames among the messages not sent, each counted as dropped. -/
def State.framesLost (s : State) : State :=
  forN ((s.field.ready ++ s.field.held).filter (fun m => m.typ == 8)).length s (fun s _ => fbusDrop s)

theorem offRegs_framesLost : s.framesLost.offRegs = s.offRegs :=
  forN_keeps (P := fun t : State => t.offRegs = s.offRegs) rfl fun _ _ _ ht => offRegs_fbusDrop.trans ht

theorem within_framesLost (s : State) : Within fieldParts s s.framesLost :=
  within_forN (Within.refl _ s) fun _ _ ht => within_fbusDrop rfl ht

theorem fieldEndDown_live (hl : s.fieldLive = true) (hup : s.field.link = .up) :
    fieldEndDown s = foutSettle (s.framesLost.fieldDown.fevtC Reg.FKWY_EVT 4 0xFF 0) ∧
      Within fieldParts s (s.framesLost.fieldDown.fevtC Reg.FKWY_EVT 4 0xFF 0) := by
  have hwithin : Within fieldParts s (s.framesLost.fieldDown.fevtC Reg.FKWY_EVT 4 0xFF 0) :=
    within_fevtC rfl _ _ _ _ rfl (within_setField rfl _ (within_framesLost s))
  have hop : fieldEndDown s = if (if s.field.link = .up then s.framesLost.fieldDown.fevt Reg.FKWY_EVT 4
      else s.framesLost.fieldDown).fieldLive then
        foutSettle (if s.field.link = .up then s.framesLost.fieldDown.fevt Reg.FKWY_EVT 4 else s.framesLost.fieldDown)
      else if s.field.link = .up then s.framesLost.fieldDown.fevt Reg.FKWY_EVT 4 else s.framesLost.fieldDown := rfl
  refine ⟨?_, hwithin⟩
  rw [hop, if_pos hup]
  exact if_pos ((fieldLive_of_within hwithin).trans hl)

theorem keywayLinkDown_field (hl : s.fieldLive = true) (hup : s.field.link = .up) :
    ∃ t, exec (.keywayLinkDown false true) s = .next t ∧ t.field.link = .down ∧ t.field.ready = [] ∧ t.field.held = [] ∧
      t.rb Reg.FKWY_EVT 4 = true ∧ (∀ c, t.chan c = s.chan c) ∧ onlyField s t := by
  have hrun : exec (.keywayLinkDown false true) s = _ :=
    kwyDo_isA (isA_of_fieldLive hl) (keywayLinkDownOp false true)
  obtain ⟨hend, hwithin⟩ := fieldEndDown_live hl hup
  have hop : keywayLinkDownOp false true s = fieldEndDown s := by
    unfold keywayLinkDownOp
    rw [if_neg Bool.false_ne_true, if_pos ⟨rfl, hup⟩]
  rw [hop, hend] at hrun
  have hdown : s.framesLost.fieldDown.field.link ≠ .up := by simp [field_fieldDown]
  have hfield := field_fevtC_of_not_up hdown Reg.FKWY_EVT 4 0xFF 0
  have hfinal := (field_foutSettle_of_not_up (by rw [hfield]; exact hdown)).trans hfield
  refine ⟨_, hrun, by rw [hfinal, field_fieldDown], by rw [hfinal, field_fieldDown], by rw [hfinal, field_fieldDown],
    rb_foutSettle_of_rb (by decide) (rb_fevtC_self _ _ _ (by decide)), fun c => ?_,
    onlyField_of_within (within_foutSettle rfl hwithin)⟩
  rw [chan_foutSettle, chan_fevtC]
  exact (chan_setField rfl c).trans (chan_of_offRegs offRegs_framesLost c)

/-! ### Lane clock and the clock of FIELD (R386, R33) -/

section
variable (hl : s.fieldLive = true)
include hl

theorem laneClockLoss_loses : ∃ t, exec .laneClockLoss s = .next t ∧ t.field.laneClock = false ∧
    (∀ c, t.chan c = s.chan c) ∧ onlyField s t := by
  have hrun : exec .laneClockLoss s = _ := fieldDo_live hl laneClockLossOp
  exact ⟨_, hrun, field_of_offRegs (fun f => f.laneClock) (fun _ => rfl) offRegs_foutSettle,
    fun c => (chan_foutSettle c).trans (chan_setField rfl c), onlyField_of_exec rfl hrun⟩

/-- The FIELD domain changes its clock, with its event. -/
theorem fieldClockSwitch_switches {osc : Bool}
    (hop : fieldClockSwitchOp s = (s.setField { s.field with osc := osc }).fevtC Reg.FSYS_EVT 2 0xFF 0) :
    ∃ t, exec .fieldClockSwitch s = .next t ∧ t.field.osc = osc ∧ t.rb Reg.FSYS_EVT 2 = true ∧ onlyField s t := by
  have hrun : exec .fieldClockSwitch s = _ := fieldDo_live hl fieldClockSwitchOp
  rw [hop] at hrun
  exact ⟨_, hrun, field_of_offRegs (fun f => f.osc) (fun _ => rfl) (offRegs_foutSettle_fevtC _ _ _ _),
    rb_foutSettle_of_rb (by decide) (rb_fevtC_self _ _ _ (by decide)), onlyField_of_exec rfl hrun⟩

theorem fieldClockSwitch_to_oscillator (hosc : s.field.osc = false) (hclock : s.field.laneClock = false) :
    ∃ t, exec .fieldClockSwitch s = .next t ∧ t.field.osc = true ∧ t.rb Reg.FSYS_EVT 2 = true ∧ onlyField s t :=
  fieldClockSwitch_switches hl (if_pos (by rw [hosc, hclock]; rfl))

theorem fieldClockSwitch_to_lanes (hosc : s.field.osc = true) (hclock : s.field.laneClock = true)
    (hup : s.field.link = .up) :
    ∃ t, exec .fieldClockSwitch s = .next t ∧ t.field.osc = false ∧ t.rb Reg.FSYS_EVT 2 = true ∧ onlyField s t :=
  fieldClockSwitch_switches hl ((if_neg (by simp [hosc])).trans (if_pos (by rw [hosc, hclock, hup]; rfl)))

end

/-! ### The launch of a message (R391, R397, R784) -/

section
variable {m : KwyMsg} (fromHost : Bool) {room : Int}

theorem nextMessage_fits (h : (laneTicks m : Int) ≤ room) :
    nextMessage fromHost room [] [m] [] = (some m, ([], ([m], []))) := by
  simp [nextMessage, candidates, startable, pickMessage, fits, h]

theorem nextMessage_late (h : room < (laneTicks m : Int)) :
    nextMessage fromHost room [] [m] [] = (none, ([], ([], [m]))) := by
  simp [nextMessage, candidates, startable, pickMessage, fits, h]

end

theorem takeMsg_only (m : KwyMsg) : takeMsg m ([], ([m], [])) = ([], ([], [])) := by
  simp [takeMsg, removeMsg]

section
variable {m : KwyMsg} (hA : s.isA = true)
include hA

theorem keywayMessageLaunch_host (hup : s.kwy.link = .up) (hfree : s.kwy.busyUntil ≤ s.clock) (hready : s.kwy.ready = [m])
    (hfirst : s.kwy.first = []) (hheld : s.kwy.held = []) (hroom : (laneTicks m : Int) ≤ s.hostRoom) (hcmd : m.typ ≠ 3)
    (hheart : m.typ ≠ 9) : exec (.keywayMessageLaunch true) s = .next { s with kwy := { s.kwy with
      ready := []
      held := []
      txSeq := (s.kwy.txSeq + 1) % 65536
      busyUntil := s.clock + laneTicks m
      sent := some { m with
        seq := s.kwy.txSeq
        crc := kwyCrc { m with seq := s.kwy.txSeq } } } } := by
  have hrun : exec (.keywayMessageLaunch true) s = .next (hostLaunch s) := by
    change execKeywayMessageLaunch true s = _
    rw [execKeywayMessageLaunch, kwyDo_isA hA, if_pos rfl]
  have hfinish : ∀ n k, finishMsg n k m = { m with
      seq := n
      crc := kwyCrc { m with seq := n } } := fun n k => by
    rw [finishMsg, if_neg hheart]
  rw [hrun]
  unfold hostLaunch
  rw [if_neg (by simp [hup, hfree]), hready, hfirst, hheld, nextMessage_fits true hroom]
  dsimp only
  rw [takeMsg_only, if_neg hcmd, hfinish, State.setKwy, ← hfirst]

theorem keywayMessageLaunch_held (hup : s.field.link = .up) (hfree : s.field.busyUntil ≤ s.clock)
    (hready : s.field.ready = [m]) (hfirst : s.field.first = []) (hheld : s.field.held = [])
    (hroom : s.fieldRoom < (laneTicks m : Int)) :
    exec (.keywayMessageLaunch false) s = .next { s with field := { s.field with
      ready := []
      held := [m] } } := by
  have hrun : exec (.keywayMessageLaunch false) s = .next (fieldLaunch s) := by
    change execKeywayMessageLaunch false s = _
    rw [execKeywayMessageLaunch, kwyDo_isA hA, if_neg Bool.false_ne_true]
  rw [hrun]
  unfold fieldLaunch
  rw [if_neg (by simp [hup, hfree]), hready, hfirst, hheld, nextMessage_late false hroom]
  dsimp only
  rw [State.setField, ← hfirst]

/-! ### The loss of the field's HEARTBEAT (R416) -/

theorem fhbloss_shows : ∃ t, exec .fhbloss s = .next t ∧ t.rb Reg.KWY_STATUS 2 = false ∧ t.rb Reg.KWY_EVT 2 = true ∧
    t.rb Reg.EVT_SUM 5 = true ∧ t.kwy = s.kwy ∧ t.mem = s.mem := by
  have hrun : exec .fhbloss s = _ := kwyDo_isA hA fhblossOp
  have hop : fhblossOp s = ((s.setBit Reg.KWY_STATUS 2 false).raise Reg.KWY_EVT (bitw 2)).raise Reg.EVT_SUM (bitw 5) := rfl
  rw [hop] at hrun
  refine ⟨_, hrun, ?_, rb_raise_of_rb _ (rb_raise_self _ (by decide)), rb_raise_self _ (by decide), rfl, rfl⟩
  rw [State.rb, reg_raise_ne _ _ (by decide), reg_raise_ne _ _ (by decide)]
  exact rb_setBit_self _ false (by decide)

end
end

/-- Settles O28, row by row. -/
theorem keywayLink : Obligations.KeywayLink :=
  ⟨fun _ hA hl hdown hen => lanesAligned_host hA hl hdown hen, fun _ hl hdown => lanesAligned_field hl hdown,
    fun _ _ hA htrain hfar hld => trainingComplete_host hA htrain hfar hld,
    fun _ _ hA hfar htrain hld => trainingComplete_field hA hfar htrain hld,
    fun _ _ hA htrain hfar hld => trainingComplete_late hA htrain hfar hld,
    fun _ hA hup hout hwait => keywayLinkDown_host hA hout hwait hup,
    fun _ hA htrain hen hout hwait => keywayLinkDown_disabled hA hout hwait htrain hen,
    fun _ hl hup => keywayLinkDown_field hl hup, fun _ hl => laneClockLoss_loses hl,
    fun _ hl hosc hclock => fieldClockSwitch_to_oscillator hl hosc hclock,
    fun _ hl hosc hclock hup => fieldClockSwitch_to_lanes hl hosc hclock hup,
    fun _ _ hA hup hfree hready hfirst hheld hroom hcmd hheart =>
      keywayMessageLaunch_host hA hup hfree hready hfirst hheld hroom hcmd hheart,
    fun _ _ hA hup hfree hready hfirst hheld hroom => keywayMessageLaunch_held hA hup hfree hready hfirst hheld hroom,
    fun _ hA => fhbloss_shows hA⟩

end Sys2Proof.Machine
end

section
/-! PROOF. The messages that the field die accepts, those that fail a check, and the BLOCK that does not come (R398 to
R408, R433): O29, row by row. -/

namespace Sys2Proof.Machine

/-- A table of `n` values written one after another. -/
theorem aget_table {α : Type} [DecidableEq α] (d : α) (f : Nat → α) {n k : Nat} (hk : k < n) :
    aget (forN n [] (fun l k => aput l d k (f k))) d k = f k :=
  forN_each (P := fun _ _ => True) (Q := fun k l => aget l d k = f k) (fun _ _ => trivial) (fun _ _ _ _ _ => trivial)
    (fun l k _ _ => aget_aput_same l d k (f k)) (fun l _ _ hne h => (aget_aput_ne l d d _ hne.symm).trans h) hk

section
variable {s t : State}

theorem Within.net_eq {m : Parts} (h : Within m s t) (hm : m.net = false) : t.net = s.net := by
  simpa [State.outside, hm] using congrArg State.net h

/-! ### Messages ready at the field die -/

/-- An event appends at most its FAULT message. -/
theorem ready_fevtC (a i k e : Nat) : ∃ r, (s.fevtC a i k e).field.ready = s.field.ready ++ r := by
  unfold State.fevtC
  dsimp only
  split
  · exact ⟨[], (List.append_nil _).symm⟩
  · unfold State.fieldQueue
    split
    · exact ⟨_, rfl⟩
    · exact ⟨[], (List.append_nil _).symm⟩

theorem ready_fevtIf (b : Bool) (a i : Nat) : ∃ r, (s.fevtIf b a i).field.ready = s.field.ready ++ r := by
  unfold State.fevtIf
  split
  · exact ready_fevtC a i _ _
  · exact ⟨[], (List.append_nil _).symm⟩

theorem ready_foutSettle : ∃ r, (foutSettle s).field.ready = s.field.ready ++ r := by
  obtain ⟨r, hr⟩ := ready_fevtIf (s := s.setBit Reg.FFIN_FOUT 31 (s.foutActive || (s.rb Reg.FFIN_FOUT 30 &&
    s.rb Reg.FFIN_FOUT 31))) ((s.foutActive || (s.rb Reg.FFIN_FOUT 30 && s.rb Reg.FFIN_FOUT 31)) &&
      !s.rb Reg.FFIN_FOUT 31) Reg.FFIN_EVT 4
  rw [field_setBit] at hr
  exact ⟨r, hr⟩

theorem field_typeWrite (a : Nat) (v : Word) : (s.typeWrite a v).field = s.field := by
  unfold State.typeWrite
  split <;> rfl

/-! ### Reception (R398, R399) -/

/-- The field die has accepted the message with sequence number `n`. -/
def State.accepted (s : State) (n : Nat) : State := s.setField { s.field with rxSeq := some n }

theorem fieldTake_accepted {m : KwyMsg} {typ : Nat} (h : fieldAccepts s m typ) (act : List Byte → State → State) :
    fieldTake m act s = act m.payload (s.accepted m.seq) := by
  obtain ⟨-, hup, -, hpass, hgap⟩ := h
  unfold fieldTake
  rw [if_neg (not_not_intro hup), hpass]
  dsimp only
  rw [if_pos hgap]
  rfl

/-- A message that fails check `k` is counted, with its event. -/
def State.badMessage (s : State) (k : Nat) : State := (s.fkwyCount (Reg.FKWY_CNT k) 1).fevtC Reg.FKWY_EVT 0 0xFF 0

theorem fieldTake_refused {m : KwyMsg} {k : Nat} (hup : s.field.link = .up) (h : kwyFails typesFromHost m = some k)
    (act : List Byte → State → State) : fieldTake m act s = s.badMessage k := by
  unfold fieldTake
  rw [if_neg (not_not_intro hup), h]
  rfl

theorem payload_length {m : KwyMsg} {types : List Nat} (h : kwyFails types m = none) : m.payload.length = kwyLen m := by
  unfold kwyFails at h
  split_ifs at h with _ _ hlen
  omega

theorem reg_fkwyCount {a : Nat} (n : Nat) (ha : a ≠ Reg.FKWY_EVT) :
    (s.fkwyCount a n).reg a = wd ((s.reg a).toNat + n) :=
  (reg_fevtIf_ne _ _ ha).trans (reg_setReg_same _ _ _)

theorem reg_fkwyCount_one {a : Nat} (ha : a ≠ Reg.FKWY_EVT) : (s.fkwyCount a 1).reg a = s.reg a + 1 := by
  rw [reg_fkwyCount 1 ha]
  refine BitVec.eq_of_toNat_eq ?_
  rw [wd, BitVec.toNat_ofNat, BitVec.toNat_add]
  rfl

/-- Counter `k` of the field die and event `i` of its Keyway. -/
theorem counted (k i : Nat) (hi : i < 32) :
    ((s.fkwyCount (Reg.FKWY_CNT k) 1).fevtC Reg.FKWY_EVT i 0xFF 0).offRegs = s.offRegs ∧
    ((s.fkwyCount (Reg.FKWY_CNT k) 1).fevtC Reg.FKWY_EVT i 0xFF 0).reg (Reg.FKWY_CNT k) = s.reg (Reg.FKWY_CNT k) + 1 ∧
    ((s.fkwyCount (Reg.FKWY_CNT k) 1).fevtC Reg.FKWY_EVT i 0xFF 0).rb Reg.FKWY_EVT i = true := by
  have hne : Reg.FKWY_CNT k ≠ Reg.FKWY_EVT := by
    unfold Reg.FKWY_CNT Reg.FKWY_EVT
    omega
  refine ⟨(offRegs_fevtC _ _ _ _).trans (offRegs_fkwyCount _ _), ?_, rb_fevtC_self _ _ _ hi⟩
  rw [reg_fevtC_ne _ _ _ hne, reg_fkwyCount_one hne]

theorem reg_cnt_foutSettle (k : Nat) : (foutSettle s).reg (Reg.FKWY_CNT k) = s.reg (Reg.FKWY_CNT k) :=
  reg_foutSettle (by unfold Reg.FKWY_CNT Reg.FFIN_FOUT; omega) (by unfold Reg.FKWY_CNT Reg.FFIN_EVT; omega)

theorem badMessage_counts {i : Instr} {k : Nat} (hrun : exec i s = .next (foutSettle (s.badMessage k))) :
    ∃ t, exec i s = .next t ∧ t.reg (Reg.FKWY_CNT k) = s.reg (Reg.FKWY_CNT k) + 1 ∧ t.rb Reg.FKWY_EVT 0 = true ∧
      t.field.rxSeq = s.field.rxSeq ∧ (∀ c, t.chan c = s.chan c) ∧ onlyField s t := by
  obtain ⟨hoff, hcnt, hevt⟩ := counted (s := s) k 0 (by decide)
  have hoff' := offRegs_foutSettle.trans hoff
  exact ⟨_, hrun, (reg_cnt_foutSettle k).trans hcnt, rb_foutSettle_of_rb (by decide) hevt,
    field_of_offRegs (fun f => f.rxSeq) (fun _ => rfl) hoff', fun c => chan_of_offRegs hoff' c,
    onlyField_of_within (within_foutSettle rfl (within_fevtC rfl _ _ _ _ rfl
      (within_fkwyCount rfl _ _ (opens_array rfl _ rfl) (Within.refl _ s))))⟩

theorem message_refused {m : KwyMsg} {k : Nat} (hl : s.fieldLive = true) (hup : s.field.link = .up)
    (h : kwyFails typesFromHost m = some k) : ∀ i ∈ [Instr.block m, .envelope m, .cmd m, .fbusToField m, .hostHeartbeat m],
      ∃ t, exec i s = .next t ∧ t.reg (Reg.FKWY_CNT k) = s.reg (Reg.FKWY_CNT k) + 1 ∧ t.rb Reg.FKWY_EVT 0 = true ∧
        t.field.rxSeq = s.field.rxSeq ∧ (∀ c, t.chan c = s.chan c) ∧ onlyField s t := by
  have hdo : ∀ act, fieldDo s (fieldTake m act) = .next (foutSettle (s.badMessage k)) := fun act => by
    rw [fieldDo_live hl, fieldTake_refused hup h]
  simp only [List.forall_mem_cons, List.not_mem_nil, false_implies, implies_true, and_true]
  exact ⟨badMessage_counts (hdo blockOp), badMessage_counts (hdo envelopeOp), badMessage_counts (hdo cmdOp),
    badMessage_counts (hdo fbusToFieldOp), badMessage_counts (hdo hostHeartbeatOp)⟩

/-! ### BLOCK and ENVELOPE (R403, R404) -/

/-- The messages accepted, the output folio last accepted and the blocks held. -/
def State.reception (s : State) : Option Nat × Option Nat × List (Nat × List (Nat × Word)) :=
  (s.field.rxSeq, s.field.lastBlock, s.field.blocks)

theorem reception_of_offRegs (h : t.offRegs = s.offRegs) : t.reception = s.reception :=
  field_of_offRegs (fun f => (f.rxSeq, f.lastBlock, f.blocks)) (fun _ => rfl) h

theorem offChans_silenceFrom (m : Nat) (env : Nat → Nat) : (silenceFrom m env s).offChans = s.offChans :=
  forN_keeps (P := fun t : State => t.offChans = s.offChans) rfl fun _ c _ ht => (offChans_setChan c _).trans ht

theorem reception_of_offChans (h : t.offChans = s.offChans) : t.reception = s.reception := by
  have hreception := congrArg State.reception h
  exact hreception

theorem reception_envelopeKnown (m : Nat) (env : Nat → Nat) : (envelopeKnown m env s).reception = s.reception :=
  (reception_of_offChans (offChans_silenceFrom m env)).trans rfl

/-- The samples of a BLOCK. -/
def blockSamples (b : List Byte) : List (Nat × Word) :=
  forN 256 [] (fun l k => aput l 0 k (wd (leNat (slice b (8 + k * 4) 4))))

/-- A loop that keeps the reception at each step. -/
theorem reception_forN {f : State → Nat → State} {n : Nat} (h : ∀ t c, (f t c).reception = t.reception) :
    (forN n s f).reception = s.reception :=
  forN_keeps (P := fun t : State => t.reception = s.reception) rfl fun t c _ ht => (h t c).trans ht

theorem blockOp_due {b : List Byte} (hauto : s.field.autonomy = false) (hdue : leNat (b.take 6) = s.dueFolio) :
    (blockOp b s).reception =
      (s.field.rxSeq, some s.dueFolio, ((s.dueFolio, blockSamples b) :: s.field.blocks).take 3) := by
  have hknown : ∀ (t : State) (n : Nat) (env : Nat → Nat),
      (if t.field.envs.any (fun e => e.1 == n) then t else envelopeKnown n env t).reception = t.reception := by
    intro t n env
    split
    · rfl
    · exact reception_envelopeKnown n env
  unfold blockOp
  dsimp only
  rw [if_neg (by simp [hauto, hdue]), hdue, hknown, reception_forN, reception_forN]
  · simp only [State.reception, State.setField, blockSamples]
  · intro t c
    split
    · rfl
    · rfl
  · intro t c
    split
    · exact reception_of_offRegs (offRegs_fevtC _ _ _ _)
    · rfl

theorem block_accepted {m : KwyMsg} (h : fieldAccepts s m 1) (hauto : s.field.autonomy = false)
    (hdue : leNat (m.payload.take 6) = s.dueFolio) : ∃ t l, exec (.block m) s = .next t ∧ t.field.rxSeq = some m.seq ∧
      t.field.lastBlock = some s.dueFolio ∧ t.field.blocks = (s.dueFolio, l) :: s.field.blocks.take 2 ∧
      (∀ k, k < 256 → aget l 0 k = wd (leNat (slice m.payload (8 + k * 4) 4))) ∧ onlyField s t := by
  have hrun : exec (.block m) s = _ := fieldDo_live h.1 (fieldTake m blockOp)
  have hop : (blockOp m.payload (s.accepted m.seq)).reception = _ := blockOp_due (s := s.accepted m.seq) hauto hdue
  have hreception := (reception_of_offRegs offRegs_foutSettle).trans hop
  rw [fieldTake_accepted h] at hrun
  exact ⟨_, blockSamples m.payload, hrun, congrArg (fun r => r.1) hreception, congrArg (fun r => r.2.1) hreception,
    congrArg (fun r => r.2.2) hreception, fun k hk => aget_table 0 _ hk, onlyField_of_exec rfl hrun⟩

theorem envs_of_offChans (h : t.offChans = s.offChans) : t.field.envs = s.field.envs := by
  have henvs := congrArg (fun u : State => u.field.envs) h
  exact henvs

theorem envs_envelopeKnown (m : Nat) (env : Nat → Nat) : ∃ r, (envelopeKnown m env s).field.envs =
    (m, forN 32 [] (fun l c => aput l 0 c (env c))) :: r :=
  ⟨_, (envs_of_offChans (offChans_silenceFrom m env)).trans rfl⟩

theorem envelope_accepted {m : KwyMsg} (h : fieldAccepts s m 2) (hauto : s.field.autonomy = false) :
    ∃ t l r, exec (.envelope m) s = .next t ∧ t.field.envs = (leNat (m.payload.take 6), l) :: r ∧
      (∀ c, c < 32 → aget l 0 c = leNat (slice m.payload (8 + 4 * c) 4)) ∧ onlyField s t := by
  have hrun : exec (.envelope m) s = _ := fieldDo_live h.1 (fieldTake m envelopeOp)
  have hop : envelopeOp m.payload (s.accepted m.seq) = envelopeKnown (leNat (m.payload.take 6))
      (fun c => leNat (slice m.payload (8 + 4 * c) 4)) (s.accepted m.seq) :=
    if_neg (by rw [show (s.accepted m.seq).field.autonomy = false from hauto]; exact Bool.false_ne_true)
  rw [fieldTake_accepted h, hop] at hrun
  obtain ⟨r, hr⟩ := envs_envelopeKnown (s := s.accepted m.seq) (leNat (m.payload.take 6))
    (fun c => leNat (slice m.payload (8 + 4 * c) 4))
  exact ⟨_, _, r, hrun, (field_of_offRegs (fun f => f.envs) (fun _ => rfl) offRegs_foutSettle).trans hr,
    fun c hc => aget_table 0 _ hc, onlyField_of_exec rfl hrun⟩

/-! ### CMD (R408) -/

/-- The impedance constants are words that software reads and writes as they are. -/
theorem regSpec_zk {c : Nat} (hc : c < 32) :
    ∃ r, regSpec? (Reg.FMON_ZK c) = some r ∧ r.rw = 0xFFFFFFFF ∧ r.w1c = 0 ∧ r.w1s = 0 ∧ r.rc = 0 := by
  interval_cases c <;> exact ⟨_, rfl, rfl, rfl, rfl, rfl⟩

theorem and_ones (v : Word) : v &&& wd 0xFFFFFFFF = v := BitVec.and_allOnes

theorem and_wd_zero (v : Word) : v &&& wd 0 = 0 := BitVec.and_zero

theorem reg_typeWrite_zk {c : Nat} (hc : c < 32) (v : Word) : (s.typeWrite (Reg.FMON_ZK c) v).reg (Reg.FMON_ZK c) = v := by
  obtain ⟨r, hr, hrw, hw1c, hw1s, -⟩ := regSpec_zk hc
  rw [reg_typeWrite hr hw1c, writeByType, hrw, hw1c, hw1s, and_ones]
  simp [wd]

theorem clearRC_zk {c : Nat} (hc : c < 32) : ∀ b, (s.clearRC (Reg.FMON_ZK c)).reg b = s.reg b := by
  obtain ⟨r, hr, -, -, -, hrc⟩ := regSpec_zk hc
  intro b
  rw [clearRC_eq hr, hrc]
  rcases eq_or_ne b (Reg.FMON_ZK c) with rfl | hne
  · rw [reg_setReg_same, and_wd_zero]
    exact BitVec.or_zero.trans (and_ones _)
  · rw [reg_setReg_ne _ _ hne]

theorem fieldBlock_zk {c : Nat} (hc : c < 32) : fieldBlock (Reg.FMON_ZK c) = 4 := by
  unfold fieldBlock Reg.FMON_ZK
  omega

theorem fieldWrite_zk {c : Nat} (hc : c < 32) (v : Word) :
    fieldWrite (Reg.FMON_ZK c) v s = s.typeWrite (Reg.FMON_ZK c) v := by
  have hne : ∀ b, b < 0x70040100 → (Reg.FMON_ZK c = b) = False := fun b hb => eq_false (by unfold Reg.FMON_ZK; omega)
  have hrange : ∀ lo hi, hi < 0x70040100 → (lo ≤ Reg.FMON_ZK c ∧ Reg.FMON_ZK c ≤ hi) = False := fun lo hi hhi =>
    eq_false (by unfold Reg.FMON_ZK; omega)
  rw [fieldWrite, fieldBlock_zk hc]
  simp (disch := decide) only [powerStageWrite, hne, hrange, if_false]

theorem fieldRead_zk {c : Nat} (hc : c < 32) : fieldRead (Reg.FMON_ZK c) s = s.reg (Reg.FMON_ZK c) := by
  have hrange : ∀ lo hi, hi < 0x70040100 → (lo ≤ Reg.FMON_ZK c ∧ Reg.FMON_ZK c ≤ hi) = False := fun lo hi hhi =>
    eq_false (by unfold Reg.FMON_ZK; omega)
  rw [fieldRead, fieldBlock_zk hc]
  simp (disch := decide) only [powerStageRead, hrange, if_false]

section
variable {b : List Byte} {c : Nat} (hc : c < 32) (haddr : leNat (slice b 4 4) = Reg.FMON_ZK c - 0x70000000)
include hc haddr

theorem cmd_known : (decide (leNat (slice b 4 4) < 0x100000 ∧ leNat (slice b 4 4) % 4 = 0) &&
    (regSpec? (0x70000000 + leNat (slice b 4 4))).isSome) = true ∧ 0x70000000 + leNat (slice b 4 4) = Reg.FMON_ZK c := by
  have haddr' : 0x70000000 + leNat (slice b 4 4) = Reg.FMON_ZK c := by
    rw [haddr]
    unfold Reg.FMON_ZK
    omega
  obtain ⟨r, hr, -⟩ := regSpec_zk hc
  refine ⟨?_, haddr'⟩
  rw [haddr', hr, decide_eq_true ?_]
  · rfl
  · rw [haddr]
    unfold Reg.FMON_ZK
    omega

theorem cmdOp_write (hop : leNat (slice b 2 1) = 2) : cmdOp b s =
    (s.typeWrite (Reg.FMON_ZK c) (wd (leNat (slice b 8 4)))).fieldQueue 4
      (b.take 2 ++ [0, 0] ++ slice b 4 4 ++ [0, 0, 0, 0]) := by
  obtain ⟨hknown, haddr'⟩ := cmd_known hc haddr
  have hzero : leBytes 0 4 = [0, 0, 0, 0] := rfl
  unfold cmdOp
  dsimp only
  rw [hknown, haddr', hop, fieldWrite_zk hc]
  simp [hzero]

theorem cmdOp_read (hop : leNat (slice b 2 1) = 1) : cmdOp b s =
    (s.clearRC (Reg.FMON_ZK c)).fieldQueue 4
      (b.take 2 ++ [0, 0] ++ slice b 4 4 ++ leBytes (s.reg (Reg.FMON_ZK c)).toNat 4) := by
  obtain ⟨hknown, haddr'⟩ := cmd_known hc haddr
  unfold cmdOp
  dsimp only
  rw [hknown, haddr', hop, fieldRead_zk hc]
  rfl

end

theorem reg_zk_foutSettle {c : Nat} (hc : c < 32) : (foutSettle s).reg (Reg.FMON_ZK c) = s.reg (Reg.FMON_ZK c) :=
  reg_foutSettle (by unfold Reg.FMON_ZK Reg.FFIN_FOUT; omega) (by unfold Reg.FMON_ZK Reg.FFIN_EVT; omega)

theorem field_clearRC (a : Nat) : (s.clearRC a).field = s.field := by
  unfold State.clearRC
  split <;> rfl

/-- The field die has done what a CMD asks, with `data` in its CMDACK. -/
theorem cmd_answered {m : KwyMsg} {c : Nat} {w : State} {data : List Byte} (h : fieldAccepts s m 3)
    (hc : c < 32) (hdata : data.length = 4)
    (hw : w.field = (s.accepted m.seq).field) (hop : cmdOp m.payload (s.accepted m.seq) =
      w.fieldQueue 4 (m.payload.take 2 ++ [0, 0] ++ slice m.payload 4 4 ++ data)) :
    ∃ t r, exec (.cmd m) s = .next t ∧ t.reg (Reg.FMON_ZK c) = w.reg (Reg.FMON_ZK c) ∧
      t.field.ready = s.field.ready ++
        [⟨false, 4, 0, 12, m.payload.take 2 ++ [0, 0] ++ slice m.payload 4 4 ++ data, 0⟩] ++ r ∧
      (∀ d, t.chan d = s.chan d) ∧ onlyField s t := by
  obtain ⟨hl, hup, htyp, hpass, -⟩ := id h
  have hrun : exec (.cmd m) s = _ := fieldDo_live hl (fieldTake m cmdOp)
  rw [fieldTake_accepted h, hop] at hrun
  have hpayload : m.payload.length = 12 := by
    rw [payload_length hpass, kwyLen, htyp]
    rfl
  have hlength : (m.payload.take 2 ++ [0, 0] ++ slice m.payload 4 4 ++ data).length = 12 := by
    simp [slice, hpayload, hdata]
  obtain ⟨r, hr⟩ := ready_foutSettle
    (s := w.fieldQueue 4 (m.payload.take 2 ++ [0, 0] ++ slice m.payload 4 4 ++ data))
  refine ⟨_, r, hrun, ?_, ?_, fun d => ?_, onlyField_of_exec rfl hrun⟩
  · rw [reg_zk_foutSettle hc, reg_fieldQueue]
  · rw [hr]
    unfold State.fieldQueue
    rw [if_pos (show w.field.link = .up from hw ▸ hup), hlength, hw]
    rfl
  · rw [chan_foutSettle, chan_of_offRegs (offRegs_fieldQueue _ _)]
    exact (congrArg (fun f : Field => aget f.chans Chan.reset d) hw).trans rfl

theorem cmd_writes {m : KwyMsg} {c : Nat} (h : fieldAccepts s m 3) (hc : c < 32) (hop : leNat (slice m.payload 2 1) = 2)
    (haddr : leNat (slice m.payload 4 4) = Reg.FMON_ZK c - 0x70000000) :
    ∃ t r, exec (.cmd m) s = .next t ∧ t.reg (Reg.FMON_ZK c) = wd (leNat (slice m.payload 8 4)) ∧
      t.field.ready = s.field.ready ++
        [⟨false, 4, 0, 12, m.payload.take 2 ++ [0, 0] ++ slice m.payload 4 4 ++ [0, 0, 0, 0], 0⟩] ++ r ∧
      (∀ d, t.chan d = s.chan d) ∧ onlyField s t := by
  obtain ⟨t, r, hrun, hreg, hrest⟩ := cmd_answered h hc rfl (field_typeWrite _ _) (cmdOp_write hc haddr hop)
  exact ⟨t, r, hrun, hreg.trans (reg_typeWrite_zk hc _), hrest⟩

theorem cmd_reads {m : KwyMsg} {c : Nat} (h : fieldAccepts s m 3) (hc : c < 32) (hop : leNat (slice m.payload 2 1) = 1)
    (haddr : leNat (slice m.payload 4 4) = Reg.FMON_ZK c - 0x70000000) :
    ∃ t r, exec (.cmd m) s = .next t ∧ t.reg (Reg.FMON_ZK c) = s.reg (Reg.FMON_ZK c) ∧
      t.field.ready = s.field.ready ++ [⟨false, 4, 0, 12, m.payload.take 2 ++ [0, 0] ++ slice m.payload 4 4 ++
        leBytes (s.reg (Reg.FMON_ZK c)).toNat 4, 0⟩] ++ r ∧ (∀ d, t.chan d = s.chan d) ∧ onlyField s t := by
  obtain ⟨t, r, hrun, hreg, hrest⟩ :=
    cmd_answered h hc (length_leBytes _ _) (field_clearRC _) (cmdOp_read hc haddr hop)
  exact ⟨t, r, hrun, hreg.trans (clearRC_zk hc _), hrest⟩

/-! ### HEARTBEAT of the host (R402, R425, R432) -/

theorem clock_renumber (d : Int) : (renumber d s).clock = s.clock := by
  unfold renumber
  split <;> rfl

theorem chan_renumber {d : Int} (hd : d ≠ 0) {c : Nat} (hc : s.chan c ≠ Chan.reset) :
    (renumber d s).chan c = (s.chan c).shift (8 * d) := by
  rw [renumber, if_neg hd]
  exact aget_map_of_listed (fun x : Chan => x.shift (8 * d)) hc _

theorem hostHeartbeat_accepted {m : KwyMsg} (h : fieldAccepts s m 9) :
    ∃ t, exec (.hostHeartbeat m) s = .next t ∧ t.field.folio = leNat (m.payload.take 6) ∧
      t.field.folioAt = s.clock - (s.rf Reg.FKWY_STATUS 26 16 + leNat (slice m.payload 6 2)) ∧
      t.field.lastHb = some s.clock ∧ onlyField s t ∧
      (∀ d : Int, d = (leNat (m.payload.take 6) : Int) - (s.field.folio + roundHalfUp (3 * ((t.field.folioAt : Int) -
          s.field.folioAt)) 256000) →
        (d = 0 → ∀ c, t.chan c = s.chan c) ∧
        (d ≠ 0 → ∀ c, s.chan c ≠ Chan.reset → t.chan c = (s.chan c).shift (8 * d))) := by
  have hrun : exec (.hostHeartbeat m) s = _ := fieldDo_live h.1 (fieldTake m hostHeartbeatOp)
  rw [fieldTake_accepted h] at hrun
  have hstart := field_of_offRegs (fun f => f.folioAt) (fun _ => rfl)
    (offRegs_foutSettle (s := hostHeartbeatOp m.payload (s.accepted m.seq)))
  refine ⟨_, hrun, field_of_offRegs (fun f => f.folio) (fun _ => rfl) offRegs_foutSettle, hstart,
    (field_of_offRegs (fun f => f.lastHb) (fun _ => rfl) offRegs_foutSettle).trans
      (congrArg some (clock_renumber _)), onlyField_of_exec rfl hrun, fun d hd => ?_⟩
  rw [hstart] at hd
  have hchan : ∀ c, (foutSettle (hostHeartbeatOp m.payload (s.accepted m.seq))).chan c =
      (renumber d (s.accepted m.seq)).chan c := fun c => by
    rw [chan_foutSettle, hd]
    exact chan_setField rfl c
  refine ⟨fun hzero c => ?_, fun hne c hc => ?_⟩
  · rw [hchan, hzero]
    rfl
  · rw [hchan]
    exact chan_renumber (s := s.accepted m.seq) hne hc

/-! ### FBUS (R433) -/

theorem f0Offer_queued {q : Nat} (f : Frame) (hq : q < 4) (hsel : s.net.f0.sel = none)
    (hroom : (s.net.f0.queue.filter (fun e => e.1 == q)).length < 4) :
    f0Offer q f s = s.setF0 { s.net.f0 with queue := s.net.f0.queue ++ [(q, f)] } := by
  unfold f0Offer
  dsimp only
  rw [Nat.mod_eq_of_lt hq, hsel, if_pos (show _ + b2n ((none : Option F0Tx).any _) < 4 from hroom), ← hsel]

theorem fbusToField_accepted {m : KwyMsg} {q : Nat} (h : fieldAccepts s m 8) (hqueue : leNat (slice m.payload 2 1) = q)
    (hq : q < 4) (hsel : s.net.f0.sel = none) (hroom : (s.net.f0.queue.filter (fun e => e.1 == q)).length < 4) :
    ∃ t, exec (.fbusToField m) s = .next t ∧
      t.net.f0.queue = s.net.f0.queue ++ [(q, frameOf (slice m.payload 4 (leNat (m.payload.take 2))))] ∧
      t.net.ports = s.net.ports ∧ (∀ c, t.chan c = s.chan c) ∧ t.mem = s.mem := by
  have hrun : exec (.fbusToField m) s = _ := fieldDo_live h.1 (fieldTake m fbusToFieldOp)
  have hop : fbusToFieldOp m.payload (s.accepted m.seq) = _ :=
    (congrArg (fun q => f0Offer q _ (s.accepted m.seq)) hqueue).trans (f0Offer_queued _ hq hsel hroom)
  rw [fieldTake_accepted h, hop] at hrun
  have hnet := fun w : State => (within_fieldParts_foutSettle (s := w)).net_eq rfl
  refine ⟨_, hrun, ?_, ?_, fun c => ?_, mem_foutSettle.trans rfl⟩
  · rw [hnet]
    rfl
  · rw [hnet]
    rfl
  · rw [chan_foutSettle]
    rfl

/-! ### The BLOCK that is missing (R404) -/

/-- Channel `c` as output folio `m` is missing: its host audio, played or due, ramps out. -/
def missingChan (m : Nat) (s : State) (c : Nat) : State :=
  let x := ((s.chan c).heard (List.replicate 8 0)).settle (8 * m)
  if x.cur = .host ∧ x.pend = none then s.setChan c { x with
    src := .out (8 * m) (s.lastPlayed c)
    pend := some 8 }
  else s.setChan c x

/-- The missing folio `m` is counted. -/
def State.missed (s : State) (m : Nat) : State :=
  ((s.fkwyCount (Reg.FKWY_CNT 5) 1).fevtC Reg.FKWY_EVT 2 0xFF 0).setField
    { ((s.fkwyCount (Reg.FKWY_CNT 5) 1).fevtC Reg.FKWY_EVT 2 0xFF 0).field with lastBlock := some m }

theorem blockMissingOp_due (hauto : s.field.autonomy = false) (hfolio : s.field.folio ≠ 0)
    (hdue : s.dueFolio = s.field.folio - 1) :
    blockMissingOp s = forN 32 (s.missed (s.field.folio - 1)) (missingChan (s.field.folio - 1)) := by
  unfold blockMissingOp
  dsimp only
  rw [if_neg (by simp [hauto, hfolio, hdue])]
  rfl

/-- A channel with no change of source ahead keeps its source. -/
theorem settle_of_no_next {x : Chan} (n : Nat) (h : x.nxt = none) :
    (x.settle n).cur = x.cur ∧ (x.settle n).pend = x.pend := by
  unfold Chan.settle
  split
  · split
    · simp [h]
    · simp [h]
  · simp [h]

theorem missingChan_host {c : Nat} (m : Nat) (hcur : (s.chan c).cur = .host) (hnxt : (s.chan c).nxt = none)
    (hpend : (s.chan c).pend = none) :
    ((missingChan m s c).chan c).pend = some 8 ∧ ∃ v, ((missingChan m s c).chan c).src = .out (8 * m) v := by
  obtain ⟨hcur', hpend'⟩ := settle_of_no_next (x := (s.chan c).heard (List.replicate 8 0)) (8 * m) hnxt
  unfold missingChan
  dsimp only
  rw [if_pos ⟨hcur'.trans hcur, hpend'.trans hpend⟩, setChan_same]
  exact ⟨rfl, _, rfl⟩

theorem missingChan_channels (m : Nat) : (forN 32 s (missingChan m)).offChans = s.offChans ∧
    ∀ c, c < 32 → (s.chan c).cur = .host → (s.chan c).nxt = none → (s.chan c).pend = none →
      ((forN 32 s (missingChan m)).chan c).pend = some 8 ∧
        ∃ v, ((forN 32 s (missingChan m)).chan c).src = .out (8 * m) v := by
  refine forN_channels (R := fun c x => (s.chan c).cur = .host → (s.chan c).nxt = none → (s.chan c).pend = none →
    x.pend = some 8 ∧ ∃ v, x.src = .out (8 * m) v) (fun t d => ?_) (fun t d e he => ?_) fun t d _ hchan hcur hnxt hpend => ?_
  · unfold missingChan
    dsimp only
    split
    · exact offChans_setChan d _
    · exact offChans_setChan d _
  · unfold missingChan
    dsimp only
    split
    · exact setChan_ne t _ he
    · exact setChan_ne t _ he
  · rw [← hchan] at hcur hnxt hpend
    exact missingChan_host m hcur hnxt hpend

theorem blockMissing_counts (hl : s.fieldLive = true) (hauto : s.field.autonomy = false) (hfolio : s.field.folio ≠ 0)
    (hdue : s.dueFolio = s.field.folio - 1) : ∃ t, exec .blockMissing s = .next t ∧
      t.field.lastBlock = some (s.field.folio - 1) ∧ t.rb Reg.FKWY_EVT 2 = true ∧
      t.reg (Reg.FKWY_CNT 5) = s.reg (Reg.FKWY_CNT 5) + 1 ∧ onlyField s t ∧
      ∀ c, c < 32 → (s.chan c).cur = .host → (s.chan c).nxt = none → (s.chan c).pend = none → (t.chan c).pend = some 8 ∧
        ∃ v, (t.chan c).src = .out (8 * (s.field.folio - 1)) v := by
  have hrun : exec .blockMissing s = _ := fieldDo_live hl blockMissingOp
  rw [blockMissingOp_due hauto hfolio hdue] at hrun
  obtain ⟨hoff, hcnt, hevt⟩ := counted (s := s) 5 2 (by decide)
  obtain ⟨hoffLoop, hchans⟩ := missingChan_channels (s := s.missed (s.field.folio - 1)) (s.field.folio - 1)
  have hreg := reg_of_offChans hoffLoop
  have hchan : ∀ c, (s.missed (s.field.folio - 1)).chan c = s.chan c := fun c =>
    (chan_setField rfl c).trans (chan_of_offRegs hoff c)
  have hreception := (reception_of_offRegs offRegs_foutSettle).trans (reception_of_offChans hoffLoop)
  refine ⟨_, hrun, congrArg (fun r => r.2.1) hreception, rb_foutSettle_of_rb (by decide) ?_, ?_, onlyField_of_exec rfl hrun,
    fun c hc hcur hnxt hpend => ?_⟩
  · rw [State.rb, hreg]
    exact hevt
  · rw [reg_cnt_foutSettle, hreg]
    exact hcnt
  · rw [chan_foutSettle]
    rw [← hchan c] at hcur hnxt hpend
    exact hchans c hc hcur hnxt hpend

end

/-- Settles O29, row by row. -/
theorem messagesToField : Obligations.MessagesToField :=
  ⟨fun _ _ h hauto hdue => block_accepted h hauto hdue, fun _ _ h hauto => envelope_accepted h hauto,
    fun _ _ _ h hc hop haddr => cmd_writes h hc hop haddr, fun _ _ _ h hc hop haddr => cmd_reads h hc hop haddr,
    fun _ _ h => hostHeartbeat_accepted h,
    fun _ _ _ h hqueue hq hsel hroom => fbusToField_accepted h hqueue hq hsel hroom,
    fun _ _ _ hl hup h => message_refused hl hup h,
    fun _ hl hauto hfolio hdue => blockMissing_counts hl hauto hfolio hdue⟩

end Sys2Proof.Machine
end

section
/-! PROOF. The field die's folios, the messages that the host accepts and the proxy window (R75, R395 to R408, R413,
R416): O30, row by row. -/

namespace Sys2Proof.Machine

section
variable {s t : State}

/-! ### Field folios (R402, R406) -/

/-- The field die with the messages `l` behind those that the folio start made ready. -/
def State.withFirst (s : State) (l : List KwyMsg) : State := s.setField { s.field with first := s.field.first ++ l }

theorem field_withFirst (l : List KwyMsg) : (s.withFirst l).field = { s.field with first := s.field.first ++ l } := rfl

theorem withFirst_withFirst (l r : List KwyMsg) : (s.withFirst l).withFirst r = s.withFirst (l ++ r) := by
  rw [State.withFirst, field_withFirst, List.append_assoc]
  rfl

theorem fieldFirst_up (h : s.field.link = .up) (typ : Nat) (l : List Byte) :
    s.fieldFirst typ l = s.withFirst [⟨false, typ, 0, l.length, l, 0⟩] := if_pos h

theorem fieldFirst_of_not_up (h : s.field.link ≠ .up) (typ : Nat) (l : List Byte) : s.fieldFirst typ l = s := if_neg h

/-- The three messages of a folio start, in this order. -/
theorem fieldFirst_three (h : s.field.link = .up) (x y z : List Byte) :
    ((s.fieldFirst 9 x).fieldFirst 5 y).fieldFirst 6 z = s.withFirst
      [⟨false, 9, 0, x.length, x, 0⟩, ⟨false, 5, 0, y.length, y, 0⟩, ⟨false, 6, 0, z.length, z, 0⟩] := by
  have hup : ∀ l, (s.withFirst l).field.link = .up := fun _ => h
  rw [fieldFirst_up h, fieldFirst_up (hup _), withFirst_withFirst, fieldFirst_up (hup _), withFirst_withFirst]
  rfl

/-- A folio start changes players in the players only. -/
theorem playersFolio_players (s : State) : ∃ l, playersFolio s = s.setField { s.field with players := l } := by
  refine forN_keeps (P := fun t : State => ∃ l, t = s.setField { s.field with players := l }) ⟨s.field.players, rfl⟩ ?_
  intro t p _ ht
  have hset : ∀ x, ∃ l, t.setPlayer p x = s.setField { s.field with players := l } := fun x => by
    obtain ⟨l, rfl⟩ := ht
    exact ⟨_, rfl⟩
  dsimp only
  split
  · exact hset _
  · split
    · exact hset _
    · exact ht

/-- The field folio counts up, and what the last folio start made ready and was not sent waits. -/
def Field.nextFolio (f : Field) : Field := { f with
  folio := f.folio + 1
  folioAt := f.folioAt + folioTicks f.folio
  recov := if f.hbSeen then f.recov else 0
  hbSeen := false
  held := f.held ++ f.first
  first := [] }

/-- The next field folio, in which players have taken their commands. -/
def State.folioBegun (s : State) : State := playersFolio (s.setField s.field.nextFolio)

theorem field_folioBegun (s : State) : ∃ l, s.folioBegun.field = { s.field.nextFolio with players := l } := by
  obtain ⟨l, hl⟩ := playersFolio_players (s.setField s.field.nextFolio)
  exact ⟨l, congrArg State.field hl⟩

/-- HEARTBEAT of the folio that begins. -/
def State.folioHeartbeat (s : State) : List Byte := leBytes (s.field.folio + 1) 6 ++ [0, 0, 0, 0, 0, 0]

theorem fieldFolioStartOp_due (h : s.field.folioAt + folioTicks s.field.folio ≤ s.clock) : fieldFolioStartOp s =
    ((s.folioBegun.fieldFirst 9 s.folioHeartbeat).fieldFirst 5 (s.folioBegun.statusPayload s.field.folio)).fieldFirst 6
      (s.sensePayload s.field.folio) := by
  unfold fieldFolioStartOp
  dsimp only
  rw [if_neg (Nat.not_lt.mpr h)]
  rfl

theorem fieldFolioStartOp_up (hdue : s.field.folioAt + folioTicks s.field.folio ≤ s.clock)
    (hup : s.folioBegun.field.link = .up) : ∃ a b : KwyMsg, a.typ = 5 ∧ b.typ = 6 ∧
      fieldFolioStartOp s = s.folioBegun.withFirst [⟨false, 9, 0, 12, s.folioHeartbeat, 0⟩, a, b] := by
  have hlength : s.folioHeartbeat.length = 12 := by
    simp [State.folioHeartbeat, length_leBytes]
  rw [fieldFolioStartOp_due hdue, fieldFirst_three hup, hlength]
  exact ⟨_, _, rfl, rfl, rfl⟩

section
variable (hl : s.fieldLive = true) (hdue : s.field.folioAt + folioTicks s.field.folio ≤ s.clock)
include hl hdue

theorem fieldFolioStart_up (hup : s.field.link = .up) : ∃ t a b r, exec .fieldFolioStart s = .next t ∧
    t.field.folio = s.field.folio + 1 ∧ t.field.folioAt = s.field.folioAt + folioTicks s.field.folio ∧
    t.field.first = [⟨false, 9, 0, 12, leBytes (s.field.folio + 1) 6 ++ [0, 0, 0, 0, 0, 0], 0⟩, a, b] ∧
    a.typ = 5 ∧ b.typ = 6 ∧ t.field.ready = s.field.ready ++ r ∧ t.field.held = s.field.held ++ s.field.first ∧
    onlyField s t := by
  have hrun : exec .fieldFolioStart s = _ := fieldDo_live hl fieldFolioStartOp
  obtain ⟨l, hfield⟩ := field_folioBegun s
  have hup' : s.folioBegun.field.link = .up := by
    rw [hfield]
    exact hup
  have hfirst : s.folioBegun.field.first = [] := by
    rw [hfield]
    rfl
  obtain ⟨a, b, ha, hb, hop⟩ := fieldFolioStartOp_up hdue hup'
  rw [hop] at hrun
  obtain ⟨r, hr⟩ := ready_foutSettle (s := s.folioBegun.withFirst [⟨false, 9, 0, 12, s.folioHeartbeat, 0⟩, a, b])
  refine ⟨_, a, b, r, hrun, ?_, ?_, ?_, ha, hb, ?_, ?_, onlyField_of_exec rfl hrun⟩
  · rw [field_of_offRegs (fun f => f.folio) (fun _ => rfl) offRegs_foutSettle, field_withFirst, hfield]
    rfl
  · rw [field_of_offRegs (fun f => f.folioAt) (fun _ => rfl) offRegs_foutSettle, field_withFirst, hfield]
    rfl
  · rw [field_of_offRegs (fun f => f.first) (fun _ => rfl) offRegs_foutSettle, field_withFirst, hfirst]
    rfl
  · rw [hr, field_withFirst, hfield]
    rfl
  · rw [field_of_offRegs (fun f => f.held) (fun _ => rfl) offRegs_foutSettle, field_withFirst, hfield]
    rfl

theorem fieldFolioStart_down (hdown : s.field.link ≠ .up) : ∃ t, exec .fieldFolioStart s = .next t ∧
    t.field.folio = s.field.folio + 1 ∧ t.field.folioAt = s.field.folioAt + folioTicks s.field.folio ∧
    t.field.first = [] ∧ t.field.ready = s.field.ready ∧ onlyField s t := by
  have hrun : exec .fieldFolioStart s = _ := fieldDo_live hl fieldFolioStartOp
  obtain ⟨l, hfield⟩ := field_folioBegun s
  have hdown' : s.folioBegun.field.link ≠ .up := by
    rw [hfield]
    exact hdown
  rw [fieldFolioStartOp_due hdue, fieldFirst_of_not_up hdown', fieldFirst_of_not_up hdown',
    fieldFirst_of_not_up hdown'] at hrun
  have hfinal := (field_foutSettle_of_not_up hdown').trans hfield
  refine ⟨_, hrun, ?_, ?_, ?_, ?_, onlyField_of_exec rfl hrun⟩
  all_goals
    rw [hfinal]
    rfl

end

/-! ### Messages to the host (R398) -/

/-- The host has accepted the message with sequence number `n`. -/
def State.hostAccepted (s : State) (n : Nat) : State := s.setKwy { s.kwy with rxSeq := some n }

section
variable {m : KwyMsg}

theorem hostTake_accepted {typ : Nat} (h : hostAccepts s m typ) (act : List Byte → State → State) :
    kwyDo s (hostTake m act) = .next (act m.payload (s.hostAccepted m.seq)) := by
  obtain ⟨hA, hup, -, hpass, hgap⟩ := h
  rw [kwyDo_isA hA]
  unfold hostTake
  rw [if_neg (not_not_intro hup), hpass]
  dsimp only
  rw [if_pos hgap]
  rfl

/-! ### CMDACK and the end of the outstanding access (R408, Table 7.5) -/

theorem proxyNext_idle (h : s.kwy.waiting = []) : proxyNext s = s := by
  unfold proxyNext
  rw [h]
  split
  · rename_i hnil
    cases hnil
  · rfl

theorem cmdackOp_failed {p : Proxy} {b : List Byte} (hout : s.kwy.out = some p) (htag : p.tag = leNat (b.take 2))
    (hres : leNat (slice b 2 1) ≠ 0) : cmdackOp b s = proxyFail 4 s := by
  unfold cmdackOp
  rw [hout]
  dsimp only
  rw [if_pos htag, if_neg hres]

section
variable {p : Proxy} (hout : s.kwy.out = some p) (htxn : p.txn = none) (hwait : s.kwy.waiting = [])
include hout htxn hwait

/-- With no other access waiting, the outstanding one ends with an error and event `e`. -/
theorem proxyFail_ends {e : Nat} (he : e < 32) : (proxyFail e s).kwy.out = none ∧ (proxyFail e s).ans.resp = .err ∧
    (proxyFail e s).rb Reg.KWY_EVT e = true := by
  have hop : proxyFail e s = ((s.setKwy { s.kwy with out := none }).evt Reg.KWY_EVT e).answer .err
      (if p.wr then [] else leBytes (0 : Word).toNat 4) := by
    unfold proxyFail
    rw [hout]
    dsimp only
    unfold proxyEnd
    dsimp only
    rw [htxn]
    refine proxyNext_idle ?_
    have hkwy := evt_kwy (s.setKwy { s.kwy with out := none }) Reg.KWY_EVT e
    exact (congrArg Kwy.waiting hkwy).trans hwait
  have hkwy : ∀ w : State, ∀ d, (w.answer .err d).kwy = w.kwy := fun _ _ => rfl
  rw [hop]
  refine ⟨?_, rfl, ?_⟩
  · rw [hkwy, evt_kwy]
    rfl
  · exact rb_evt _ (by decide) he

/-- With no other access waiting, the outstanding one ends with `v`. -/
theorem cmdackOp_done {b : List Byte} (htag : p.tag = leNat (b.take 2)) (hres : leNat (slice b 2 1) = 0) : cmdackOp b s =
    (s.setKwy { s.kwy with out := none }).answer .ok (if p.wr then [] else leBytes (wd (leNat (slice b 8 4))).toNat 4) := by
  unfold cmdackOp
  rw [hout]
  dsimp only
  rw [if_pos htag, if_pos hres]
  unfold proxyEnd
  dsimp only
  rw [htxn]
  exact proxyNext_idle hwait

theorem cmdTimeout_ends (hA : s.isA = true) (hlaunched : p.launched = true) : ∃ t, exec .cmdTimeout s = .next t ∧
    t.kwy.out = none ∧ t.rb Reg.KWY_EVT 3 = true ∧ t.ans.resp = .err ∧ t.mem = s.mem := by
  have hrun : exec .cmdTimeout s = _ := kwyDo_isA hA cmdTimeoutOp
  have hop : cmdTimeoutOp s = proxyFail 3 s := by
    unfold cmdTimeoutOp
    rw [hout]
    exact if_pos hlaunched
  rw [hop] at hrun
  obtain ⟨hnone, hans, hevt⟩ := proxyFail_ends hout htxn hwait (e := 3) (by decide)
  exact ⟨_, hrun, hnone, hevt, hans, mem_eq_of_not_memoryCommand rfl hrun⟩

theorem cmdack_ends (h : hostAccepts s m 4) (htag : p.tag = leNat (m.payload.take 2)) :
    (leNat (slice m.payload 2 1) = 0 → ∃ t, exec (.cmdack m) s = .next t ∧ t.kwy.out = none ∧
      t.ans = ⟨.ok, if p.wr then [] else leBytes (wd (leNat (slice m.payload 8 4))).toNat 4⟩ ∧ t.regs = s.regs ∧
      t.mem = s.mem) ∧
    (leNat (slice m.payload 2 1) ≠ 0 → ∃ t, exec (.cmdack m) s = .next t ∧ t.kwy.out = none ∧ t.ans.resp = .err ∧
      t.rb Reg.KWY_EVT 4 = true ∧ t.mem = s.mem) := by
  have hrun : exec (.cmdack m) s = _ := hostTake_accepted h cmdackOp
  refine ⟨fun hres => ?_, fun hres => ?_⟩
  · rw [cmdackOp_done (s := s.hostAccepted m.seq) hout htxn hwait htag hres] at hrun
    exact ⟨_, hrun, rfl, rfl, rfl, rfl⟩
  · rw [cmdackOp_failed (s := s.hostAccepted m.seq) hout htag hres] at hrun
    obtain ⟨hnone, hans, hevt⟩ := proxyFail_ends (s := s.hostAccepted m.seq) hout htxn hwait (e := 4) (by decide)
    exact ⟨_, hrun, hnone, hans, hevt, mem_eq_of_not_memoryCommand rfl hrun⟩

end

/-! ### STATUS, SENSE, FAULT, FBUS and HEARTBEAT (R396, R406, R413, R416, R433) -/

/-- The report of a field die that has entered AUTONOMY. -/
theorem status_autonomy (h : hostAccepts s m 5) (hmode : leNat (slice m.payload 6 1) = 1)
    (hwas : s.rb Reg.KWY_STATUS 3 = false) : ∃ t, exec (.status m) s = .next t ∧ t.rb Reg.KWY_STATUS 3 = true ∧
      t.rb Reg.KWY_EVT 8 = true ∧ t.reg Reg.KWY_FSTAT1 = wd (leNat (slice m.payload 8 4)) ∧ t.mem = s.mem := by
  have hrun : exec (.status m) s = _ := hostTake_accepted h statusOp
  have hsum : ∀ (w : State) (c : Prop) [Decidable c] (b : Nat), b ≠ Reg.EVT_SUM →
      (if c then w.sum 10 else w).reg b = w.reg b := by
    intro w c _ b hb
    split
    · exact reg_raise_ne w _ hb
    · rfl
  refine ⟨_, hrun, ?_, ?_, ?_, mem_eq_of_not_memoryCommand rfl hrun⟩
  all_goals unfold statusOp; dsimp only
  · rw [rb_fieldOkFollow _ _ (by decide), State.rb, hsum _ _ _ (by decide), reg_evtIf_ne _ _ (by decide) (by decide),
      reg_setReg_ne _ _ (by decide), reg_setReg_ne _ _ (by decide), reg_setFld_same,
      bit_putFld_beside _ _ (by decide) (by decide), hmode]
    exact rb_setBit_self _ true (by decide)
  · rw [rb_fieldOkFollow _ _ (by decide), State.rb, hsum _ _ _ (by decide), hmode]
    refine rb_evtIf_true _ ?_ (by decide) (by decide)
    rw [show (s.hostAccepted m.seq).rb Reg.KWY_STATUS 3 = false from hwas]
    rfl
  · rw [reg_fieldOkFollow _ (by decide), hsum _ _ _ (by decide), reg_evtIf_ne _ _ (by decide) (by decide), reg_setReg_same]

/-- The samples of 72 channels of eight, written channel by channel. -/
theorem smp_table (g : Nat → Nat → Word) {n k j : Nat} (hk : k < n) (hj : j < 8) :
    smp (forN n [] (fun l k => setSmps l k (g k))) k j = g k j :=
  forN_each (P := fun _ _ => True) (Q := fun k l => smp l k j = g k j) (fun _ _ => trivial) (fun _ _ _ _ _ => trivial)
    (fun l k _ _ => (smp_setSmps l (g k) hj).trans (if_pos rfl))
    (fun l i _ hne h => ((smp_setSmps l (g i) hj).trans (if_neg hne.symm)).trans h) hk

theorem sense_accepted (h : hostAccepts s m 6) : ∃ t, exec (.sense m) s = .next t ∧
    t.kwy.senseFolio = some (leNat (m.payload.take 6) + 1) ∧
    (∀ k j, k < 72 → j < 8 → smp t.kwy.sense k j = wdi (signed 24 (leNat (slice m.payload (8 + (72 * j + k) * 3) 3)) * 16)) ∧
    t.regs = s.regs ∧ t.mem = s.mem := by
  have hrun : exec (.sense m) s = _ := hostTake_accepted h senseOp
  refine ⟨_, hrun, rfl, fun k j hk hj => ?_, rfl, rfl⟩
  exact smp_table (fun k j => wdi (signed 24 (leNat (slice m.payload (8 + (72 * j + k) * 3) 3)) * 16)) hk hj

theorem fault_accepted {k : Nat} (h : hostAccepts s m 7) (hblk : leNat (slice m.payload 0 1) = k) (hk : k ≤ 8)
    (hroom : s.kwy.log.length < 64) : ∃ t, exec (.fault m) s = .next t ∧ t.rb Reg.KWY_FEVT k = true ∧
      t.rb Reg.KWY_EVT 7 = true ∧
      t.kwy.log = s.kwy.log ++ [⟨k, leNat (slice m.payload 1 1), leNat (slice m.payload 2 1), leNat (slice m.payload 3 1)⟩] ∧
      t.mem = s.mem := by
  have hrun : exec (.fault m) s = _ := hostTake_accepted h faultOp
  have hop : faultOp m.payload (s.hostAccepted m.seq) = (((s.hostAccepted m.seq).raise Reg.KWY_FEVT (bitw k)).setKwy
      { (s.hostAccepted m.seq).kwy with log := s.kwy.log ++
        [⟨k, leNat (slice m.payload 1 1), leNat (slice m.payload 2 1), leNat (slice m.payload 3 1)⟩] }).evt
          Reg.KWY_EVT 7 := by
    unfold faultOp
    dsimp only
    rw [hblk, if_pos hk]
    exact congrArg (fun w : State => w.evt Reg.KWY_EVT 7) (if_pos hroom)
  rw [hop] at hrun
  refine ⟨_, hrun, ?_, rb_evt _ (by decide) (by decide), ?_, mem_eq_of_not_memoryCommand rfl hrun⟩
  · rw [State.rb, reg_evt_ne _ (by decide) (by decide), reg_setKwy]
    exact rb_raise_self _ (by omega)
  · rw [evt_kwy]
    rfl

theorem fbusToHost_accepted (h : hostAccepts s m 8) : ∃ t, exec (.fbusToHost m) s = .next t ∧
    t.kwy.frame = some (slice m.payload 4 (leNat (m.payload.take 2))) ∧ t.regs = s.regs ∧ t.mem = s.mem :=
  ⟨_, hostTake_accepted h fbusToHostOp, rfl, rfl, rfl⟩

theorem fieldHeartbeat_accepted (h : hostAccepts s m 9) : ∃ t, exec (.fieldHeartbeat m) s = .next t ∧
    t.kwy.lastHb = some s.clock ∧ t.rb Reg.KWY_STATUS 2 = true ∧ t.mem = s.mem :=
  ⟨_, hostTake_accepted h fieldHeartbeatOp, rfl, rb_setBit_self _ true (by decide), rfl⟩

end

/-! ### The proxy window (R75, R407) -/

theorem proxyNext_only {p : Proxy} (hout : s.kwy.out = none) (hwait : s.kwy.waiting = [p]) (hup : s.kwy.link = .up) :
    proxyNext s = s.setKwy { s.kwy with
      out := some { p with tag := (s.kwy.tag + 1) % 65536 }
      waiting := []
      tag := (s.kwy.tag + 1) % 65536
      ready := s.kwy.ready ++ [⟨false, 3, 0, 12, leBytes ((s.kwy.tag + 1) % 65536) 2 ++ [if p.wr then 2 else 1, 0] ++
        leBytes (p.addr - 0x70000000) 4 ++ leBytes (if p.wr then p.v.toNat else 0) 4, 0⟩] } := by
  have hlength : (leBytes ((s.kwy.tag + 1) % 65536) 2 ++ [if p.wr then 2 else 1, 0] ++
      leBytes (p.addr - 0x70000000) 4 ++ leBytes (if p.wr then p.v.toNat else 0) 4).length = 12 := by
    simp [length_leBytes]
  unfold proxyNext
  rw [hout, hwait]
  dsimp only
  unfold State.hostQueue
  rw [hlength]
  exact if_pos hup

section
variable {m : Master} {wr : Bool} {a : Nat} {v : Word} (hl : s.hostLive = true) (hlo : 0x70000000 ≤ a) (hhi : a < 0x70100000)
include hl hlo hhi

theorem proxyAccess_allowed (hcause : s.accessCause m wr a 4 1 = 0) (hup : s.kwy.link = .up) (hout : s.kwy.out = none)
    (hwait : s.kwy.waiting = []) : ∃ t p, exec (.proxyAccess m wr a v) s = .next t ∧ t.kwy.out = some p ∧ p.wr = wr ∧
      p.addr = a ∧ p.v = v ∧ p.tag = (s.kwy.tag + 1) % 65536 ∧ p.launched = false ∧ t.kwy.waiting = [] ∧
      t.kwy.ready = s.kwy.ready ++ [⟨false, 3, 0, 12, leBytes ((s.kwy.tag + 1) % 65536) 2 ++ [if wr then 2 else 1, 0] ++
        leBytes (a - 0x70000000) 4 ++ leBytes (if wr then v.toNat else 0) 4, 0⟩] ∧ t.regs = s.regs ∧ t.mem = s.mem := by
  have hrun : exec (.proxyAccess m wr a v) s = _ := hostDo_live hl (proxyAccessOp m wr a v)
  obtain ⟨txn, htxn⟩ : ∃ txn, proxyAccessOp m wr a v s = proxyAccess false ⟨some txn, wr, a, v, 0, false⟩ s := by
    unfold proxyAccessOp
    rw [if_neg (by omega)]
    exact ⟨_, if_pos hcause⟩
  have hop : proxyAccess false ⟨some txn, wr, a, v, 0, false⟩ s =
      proxyNext (s.setKwy { s.kwy with waiting := [⟨some txn, wr, a, v, 0, false⟩] }) := by
    unfold proxyAccess
    rw [if_neg (not_not_intro hup), hwait]
    rfl
  have hnext := proxyNext_only (s := s.setKwy { s.kwy with waiting := [⟨some txn, wr, a, v, 0, false⟩] }) hout rfl hup
  rw [htxn, hop, hnext] at hrun
  exact ⟨_, _, hrun, rfl, rfl, rfl, rfl, rfl, rfl, rfl, rfl, rfl, rfl⟩

theorem proxyAccess_refused (hcause : s.accessCause m wr a 4 1 ≠ 0) : ∃ t, exec (.proxyAccess m wr a v) s = .next t ∧
    t.rb Reg.CLH_EVT 0 = true ∧ t.kwy = s.kwy ∧ t.mem = s.mem := by
  have hrun : exec (.proxyAccess m wr a v) s = _ := hostDo_live hl (proxyAccessOp m wr a v)
  obtain ⟨txn, htxn⟩ : ∃ txn, proxyAccessOp m wr a v s = clhRefuse txn .err (s.accessCause m wr a 4 1) s := by
    unfold proxyAccessOp
    rw [if_neg (by omega)]
    exact ⟨_, if_neg hcause⟩
  rw [htxn] at hrun
  refine ⟨_, hrun, rb_clhError _ _ _, ?_, mem_eq_of_not_memoryCommand rfl hrun⟩
  exact (within_clhRefuse (m := { clh := true, regs := true }) rfl rfl _ _ _ (Within.refl _ s)).kwy_eq rfl

end
end

/-- Settles O30, row by row. -/
theorem messagesToHostAndProxy : Obligations.MessagesToHostAndProxy :=
  ⟨⟨fun _ hl hup hdue => fieldFolioStart_up hl hdue hup, fun _ hl hdown hdue => fieldFolioStart_down hl hdue hdown,
      fun _ _ _ h hout htxn hwait htag => cmdack_ends hout htxn hwait h htag,
      fun _ _ h hmode hwas => status_autonomy h hmode hwas, fun _ _ h => sense_accepted h,
      fun _ _ _ h hblk hk hroom => fault_accepted h hblk hk hroom, fun _ _ h => fbusToHost_accepted h,
      fun _ _ h => fieldHeartbeat_accepted h⟩,
    fun _ _ _ _ _ hl hlo hhi hcause hup hout hwait => proxyAccess_allowed hl hlo hhi hcause hup hout hwait,
    fun _ _ _ _ _ hl hlo hhi hcause => proxyAccess_refused hl hlo hhi hcause,
    fun _ _ hA hout hlaunched htxn hwait => cmdTimeout_ends hout htxn hwait hA hlaunched⟩

end Sys2Proof.Machine
end

section
/-! PROOF. The commands of fire inputs, override, autonomy and F0 complete (R411, R415, R419, R420, R430, R451,
R452): the field die's part of O60. -/

namespace Sys2Proof.Machine

section
variable {s : State}

/-! ### Fire inputs (R418, R419) -/

/-- Register `b` is none of those that show the states and events of fire inputs and entries. -/
def offFins (b : Nat) : Prop := b ≠ Reg.FFIN_STATE ∧ b ≠ Reg.FFIN_EVT ∧ b ≠ Reg.FSBX_EVT

theorem offFins_cfg : offFins Reg.FFIN_CFG := ⟨by decide, by decide, by decide⟩

theorem offFins_res {k : Nat} (hk : k < 8) : offFins (Reg.FFIN_RES k) := by
  unfold offFins Reg.FFIN_RES Reg.FFIN_STATE Reg.FFIN_EVT Reg.FSBX_EVT
  omega

/-- The entry of an input that becomes active is asserted, where the input has one. -/
def finAssert (k st : Nat) (s : State) : State := if st = 1 ∧ s.rb (Reg.FSBX_OVR k) 31 then assertEntry k s else s

/-- The entry of an input that was active is held or released. -/
def finEnd (k was st : Nat) (s : State) : State :=
  if was = 1 ∧ st ≠ 1 ∧ inMask s.field.asserted k then
    if s.rb (Reg.FSBX_OVR k) 30 then s.setField { s.field with latched := addMask s.field.latched k }
    else releaseEntry k s
  else s

/-- FINk shows state `st`. -/
def finShown (k st : Nat) (s : State) : State := (s.setFin k Fin_.reset).setFld Reg.FFIN_STATE (2 * k + 1) (2 * k) st

theorem finChange_steps (k st : Nat) (ev : Bool) : ∃ w,
    (w = finShown k st s ∨ ∃ i, w = (finShown k st s).fevtC Reg.FFIN_EVT i k 0) ∧
    finChange k st ev s = finEnd k (s.finState k) st (finAssert k st w) := by
  cases ev with
  | false => exact ⟨_, .inl rfl, rfl⟩
  | true => exact ⟨_, .inr ⟨_, rfl⟩, rfl⟩

section
variable {b : Nat} (hb : offFins b)
include hb

theorem reg_finAssert (k st : Nat) : (finAssert k st s).reg b = s.reg b := by
  unfold finAssert
  split
  · exact reg_assertEntry_ne hb.2.2
  · rfl

theorem reg_finEnd (k was st : Nat) : (finEnd k was st s).reg b = s.reg b := by
  unfold finEnd releaseEntry
  split
  · split
    · rfl
    · split
      · exact (reg_fevtC_ne _ _ _ hb.2.2).trans (reg_setField _ b)
      · rfl
  · rfl

theorem reg_finChange (k st : Nat) (ev : Bool) : (finChange k st ev s).reg b = s.reg b := by
  obtain ⟨hstate, hevt, -⟩ := id hb
  have hshown : (finShown k st s).reg b = s.reg b := (reg_setFld_ne _ _ _ hstate).trans (reg_setField _ b)
  obtain ⟨w, hw, hchange⟩ := finChange_steps (s := s) k st ev
  rw [hchange, reg_finEnd hb, reg_finAssert hb]
  rcases hw with rfl | ⟨i, rfl⟩
  · exact hshown
  · rw [reg_fevtC_ne _ _ _ hevt, hshown]

end

/-- A measurement of `r` ohms at FINk, shown and classified. -/
def finRead (k r : Nat) (s : State) : State :=
  let s := s.setReg (Reg.FFIN_RES k) (wd r)
  let st := if r < 10 * s.rf Reg.FFIN_THR 29 20 then 3
    else if r < 10 * s.rf Reg.FFIN_THR 19 10 then 1
    else if r ≤ 10 * s.rf Reg.FFIN_THR 9 0 then 0 else 2
  if st = s.finState k then s.setFin k Fin_.reset
  else
    let x := aget s.field.fins Fin_.reset k
    let n := if x.cand = st then x.count + 1 else 1
    if s.rf Reg.FFIN_CFG 11 8 ≤ n then finChange k st true s else s.setFin k ⟨st, n⟩

theorem finOne_enabled {k : Nat} (hen : s.rb Reg.FFIN_CFG k = true) (o : Option Nat) :
    ∃ r, (∀ q, o = some q → q ≤ 20000 → r = q) ∧ finOne k o s = finRead k r s := by
  cases o with
  | none => exact ⟨65535, fun _ h => (nomatch h), if_pos hen⟩
  | some q =>
    refine ⟨if 20000 < q then 65535 else q, ?_, if_pos hen⟩
    rintro _ ⟨⟩ hle
    exact if_neg (Nat.not_lt.mpr hle)

theorem reg_setFin (k : Nat) (x : Fin_) (b : Nat) : (s.setFin k x).reg b = s.reg b := rfl

theorem reg_finRead {b : Nat} (hb : offFins b) (k r : Nat) :
    (finRead k r s).reg b = (s.setReg (Reg.FFIN_RES k) (wd r)).reg b := by
  unfold finRead
  dsimp only
  simp only [apply_ite (fun w : State => w.reg b), reg_finChange hb, reg_setFin, ite_self]

/-- A measurement of an input changes no other register but those of states and events. -/
theorem reg_finOne_ne {b : Nat} (hb : offFins b) {k : Nat} (hne : b ≠ Reg.FFIN_RES k) (o : Option Nat) :
    (finOne k o s).reg b = s.reg b := by
  cases hen : s.rb Reg.FFIN_CFG k with
  | false => rw [finOne_disabled hen]
  | true =>
    obtain ⟨r, -, hread⟩ := finOne_enabled hen o
    rw [hread, reg_finRead hb, reg_setReg_ne _ _ hne]

theorem finOne_measures {k r : Nat} (hk : k < 8) (hen : s.rb Reg.FFIN_CFG k = true) (hr : r ≤ 20000) :
    (finOne k (some r) s).reg (Reg.FFIN_RES k) = wd r := by
  obtain ⟨q, hq, hread⟩ := finOne_enabled hen (some r)
  rw [hread, reg_finRead (offFins_res hk), reg_setReg_same, hq r rfl hr]

theorem finMeasurement_shows (hl : s.fieldLive = true) {ohms : List (Option Nat)} {k r : Nat} (hk : k < 8)
    (hen : s.rb Reg.FFIN_CFG k = true) (hohms : ohms.getD k none = some r) (hr : r ≤ 20000) :
    ∃ t, exec (.finMeasurement ohms) s = .next t ∧ t.reg (Reg.FFIN_RES k) = wd r := by
  have hrun : exec (.finMeasurement ohms) s = _ := fieldDo_live hl (finMeasurementOp ohms)
  have hcfg : ∀ (t : State) (j : Nat), (finOne j (ohms.getD j none) t).reg Reg.FFIN_CFG = t.reg Reg.FFIN_CFG := fun t j =>
    reg_finOne_ne offFins_cfg (by unfold Reg.FFIN_CFG Reg.FFIN_RES; omega) _
  have hloop : ∀ n, n ≤ 8 → k < n → (forN n s (fun s k => finOne k (ohms.getD k none) s)).reg (Reg.FFIN_RES k) = wd r :=
    fun n hn hkn => forN_each (P := fun _ t => t.reg Reg.FFIN_CFG = s.reg Reg.FFIN_CFG)
      (Q := fun j t => j = k → t.reg (Reg.FFIN_RES k) = wd r) (fun _ _ => rfl)
      (fun t j _ _ ht => (hcfg t j).trans ht)
      (fun t j _ ht hj => by
        subst hj
        rw [hohms]
        exact finOne_measures hk (by rw [State.rb, ht]; exact hen) hr)
      (fun t i j hij ht hj => by
        subst hj
        rw [reg_finOne_ne (offFins_res hk) (by unfold Reg.FFIN_RES; omega), ht rfl]) hkn rfl
  refine ⟨_, hrun, ?_⟩
  rw [reg_foutSettle (by unfold Reg.FFIN_RES Reg.FFIN_FOUT; omega) (offFins_res hk).2.1, finMeasurementOp, reg_refreshClaims]
  exact hloop 8 (Nat.le_refl 8) hk

/-! ### The release of an entry (R429) -/

theorem inMask_sub {m k : Nat} (h : inMask m k = true) : inMask (m - 2 ^ k) k = false := by
  rw [inMask, Nat.testBit_eq_decide_div_mod_eq] at h ⊢
  have hsub : (m - 2 ^ k) / 2 ^ k = m / 2 ^ k - 1 := by
    simpa using Nat.sub_mul_div m (2 ^ k) 1
  have hodd := of_decide_eq_true h
  rw [hsub]
  exact decide_eq_false (by omega)

/-! ### F0 (R451, R452, R454) -/

section
variable {i j : Nat}

theorem cnt_ne (hj : j < 48) : Reg.FBUS_CNT j ≠ Reg.FBUS_HRLO ∧ Reg.FBUS_CNT j ≠ Reg.FBUS_HRHI ∧
    Reg.FBUS_CNT j ≠ Reg.FBUS_EVT := by
  unfold Reg.FBUS_CNT Reg.FBUS_HRLO Reg.FBUS_HRHI Reg.FBUS_EVT
  omega

/-- A count changes its counter, the half-range flags and the event only. -/
theorem reg_fbusCount (n : Nat) (hj : j < 48) : (s.fbusCount i n).reg (Reg.FBUS_CNT j) =
    (s.setReg (Reg.FBUS_CNT i) (countUp (s.reg (Reg.FBUS_CNT i)) n).1).reg (Reg.FBUS_CNT j) := by
  obtain ⟨hlo, hhi, hevt⟩ := cnt_ne hj
  have hhr : ∀ c : Prop, [Decidable c] → Reg.FBUS_CNT j ≠ if c then Reg.FBUS_HRLO else Reg.FBUS_HRHI := by
    intro c _
    split
    · exact hlo
    · exact hhi
  unfold State.fbusCount
  dsimp only
  split
  · exact (reg_fevtC_ne _ _ _ hevt).trans (reg_raise_ne _ _ (hhr _))
  · rfl

theorem reg_fbusCount_ne (n : Nat) (hj : j < 48) (h : j ≠ i) :
    (s.fbusCount i n).reg (Reg.FBUS_CNT j) = s.reg (Reg.FBUS_CNT j) :=
  (reg_fbusCount n hj).trans (reg_setReg_ne _ _ (by unfold Reg.FBUS_CNT; omega))

theorem reg_fbusCount_one (hi : i < 48) : (s.fbusCount i 1).reg (Reg.FBUS_CNT i) = s.reg (Reg.FBUS_CNT i) + 1 := by
  rw [reg_fbusCount 1 hi, reg_setReg_same, countUp, wd]
  exact BitVec.eq_of_toNat_eq (by rw [BitVec.toNat_ofNat, BitVec.toNat_add]; rfl)

theorem reg_cnt_relayToHost (f : Frame) (hj : j < 48) :
    (relayToHost f s).reg (Reg.FBUS_CNT j) = s.reg (Reg.FBUS_CNT j) := by
  unfold relayToHost
  dsimp only
  split
  · exact reg_fieldQueue 8 _ _
  · have hkwy : ∀ a, 0x70080000 ≤ a → Reg.FBUS_CNT j ≠ a := fun a ha => by unfold Reg.FBUS_CNT; omega
    rw [fbusDrop, State.fevt, reg_fevtC_ne _ _ _ (hkwy _ (by decide)), State.fkwyCount]
    exact (reg_fevtIf_ne _ _ (hkwy _ (by decide))).trans (reg_setReg_ne _ _ (hkwy _ (by decide)))

end

theorem f0FrameReceived_counts (hl : s.fieldLive = true) {f : Frame} (hen : s.rb Reg.FBUS_CTRL 0 = true)
    (hcode : f.codeErr = false) (hfcs : f.fcsOk = true) (hlo : 64 ≤ f.len) (hhi : f.len ≤ 1518) :
    ∃ t, exec (.f0FrameReceived f) s = .next t ∧ t.reg (Reg.FBUS_CNT 0) = s.reg (Reg.FBUS_CNT 0) + 1 := by
  have hrun : exec (.f0FrameReceived f) s = _ := fieldDo_live hl (f0FrameReceivedOp f)
  have hbin : ∀ o : Option Nat, (match o with
      | some b => if b ≤ 5 then s.fbusCount (5 + b) 1 else s
      | none => s).reg (Reg.FBUS_CNT 0) = s.reg (Reg.FBUS_CNT 0) := by
    rintro (_ | b)
    · rfl
    · dsimp only
      split
      · exact reg_fbusCount_ne 1 (by decide) (by omega)
      · rfl
  have hgood : ∀ w : State, (((w.fbusCount 0 1).fbusCount 1 f.len).fbusCount (2 + dstClass f.dst) 1).reg (Reg.FBUS_CNT 0) =
      w.reg (Reg.FBUS_CNT 0) + 1 := fun w => by
    rw [reg_fbusCount_ne 1 (by decide) (by omega), reg_fbusCount_ne _ (by decide) (by decide), reg_fbusCount_one (by decide)]
  have hkept : ∀ w : State, (if w.f0Dst f.dst then relayToHost f w else w.fbusCount 22 1).reg (Reg.FBUS_CNT 0) =
      w.reg (Reg.FBUS_CNT 0) := fun w => by
    split
    · exact reg_cnt_relayToHost f (by decide)
    · exact reg_fbusCount_ne 1 (by decide) (by decide)
  refine ⟨_, hrun, ?_⟩
  rw [reg_foutSettle (by decide) (by decide)]
  unfold f0FrameReceivedOp
  simp only [hen, hcode, hfcs, Bool.not_true, Bool.false_eq_true, if_false, or_self]
  rw [if_neg (Nat.not_lt.mpr hlo), if_neg (Nat.not_lt.mpr hhi)]
  exact ((hkept _).trans (hgood _)).trans (congrArg (· + 1) (hbin (sizeBin f.len)))

theorem net_foutSettle : (foutSettle s).net = s.net := within_fieldParts_foutSettle.net_eq rfl

section
variable {x : F0Tx} (hl : s.fieldLive = true) (hsel : s.net.f0.sel = some x)
include hl hsel

/-- An attempt that ends the selected frame. -/
theorem f0Attempt_ends {i : Instr} {deferred : Bool} {act : F0Tx → State → State} (hen : s.rb Reg.FBUS_CTRL 0 = true)
    (hback : x.backoff = none) (hact : ∀ w, (act x w).net.f0.sel = none)
    (hrow : exec i s = fieldDo s (f0Attempt deferred act)) : ∃ t, exec i s = .next t ∧ t.net.f0.sel = none := by
  have hselect : f0Select s = s := by
    unfold f0Select
    dsimp only
    rw [hsel]
  have hop : ∃ w, f0Attempt deferred act s = act x w := by
    unfold f0Attempt
    rw [hen, hselect]
    dsimp only
    rw [hsel]
    dsimp only
    rw [hback]
    exact ⟨_, rfl⟩
  obtain ⟨w, hw⟩ := hop
  rw [fieldDo_live hl, hw] at hrow
  exact ⟨_, hrow, by rw [net_foutSettle, hact]⟩

theorem f0BackoffEnd_frees : ∃ t, exec .f0BackoffEnd s = .next t ∧ t.net.f0.sel = some { x with backoff := none } := by
  have hrun : exec .f0BackoffEnd s = _ := fieldDo_live hl f0BackoffEndOp
  have hop : f0BackoffEndOp s = s.setF0 { s.net.f0 with sel := some { x with backoff := none } } := by
    unfold f0BackoffEndOp
    rw [hsel]
  rw [hop] at hrun
  exact ⟨_, hrun, by rw [net_foutSettle]; rfl⟩

end

/-! ### Autonomy, the relay, entries and overrides (R411, R415, R420, R430) -/

section
variable (hl : s.fieldLive = true)
include hl

theorem force_completes {v : Word} (hoff : s.field.autonomy = false) (hforce : bit v 30 = true) (hexit : bit v 29 = false)
    (hrecov : fld v 7 0 ≠ 0) : ∃ t, exec (.force v) s = .next t ∧ t.field.autonomy = true := by
  obtain ⟨t, hrun, hautonomy, -⟩ := force_enters hl hoff hforce hexit hrecov
  exact ⟨t, hrun, hautonomy⟩

theorem exit_completes {v : Word} (hon : s.field.autonomy = true) (hexit : bit v 29 = true) (hforce : bit v 30 = false)
    (hrecov : fld v 7 0 ≠ 0) (hcount : fld v 7 0 ≤ s.field.recov) :
    ∃ t, exec (.exit v) s = .next t ∧ t.field.autonomy = false := by
  obtain ⟨t, hrun, hautonomy, -⟩ := exit_leaves hl hon hexit hforce hrecov hcount
  exact ⟨t, hrun, hautonomy⟩

theorem autonomyEntry_completes (hoff : s.field.autonomy = false) :
    ∃ t, exec .autonomyEntry s = .next t ∧ t.field.autonomy = true :=
  ⟨_, fieldDo_live hl autonomyEnter, autonomy_foutSettle.trans (autonomyEnter_enters hoff).1⟩

theorem autonomyExit_completes (hon : s.field.autonomy = true) (hauto : s.rb Reg.FSYS_AUT 31 = true)
    (hcount : s.rf Reg.FSYS_AUT 7 0 ≤ s.field.recov) : ∃ t, exec .autonomyExit s = .next t ∧ t.field.autonomy = false := by
  obtain ⟨t, hrun, hautonomy, -⟩ := autonomyExit_leaves hl hon hauto hcount
  exact ⟨t, hrun, hautonomy⟩

theorem foutClr_completes {v : Word} (hclr : bit v 29 = true) (hmask : fld v 9 0 = 0) :
    ∃ t, exec (.foutClr v) s = .next t ∧ t.rb Reg.FFIN_FOUT 31 = false := by
  obtain ⟨t, hrun, hrelay, -⟩ := foutClr_ends hl hclr hmask
  exact ⟨t, hrun, hrelay⟩

theorem rel_completes {k : Nat} (hk : k < 8) (hlatch : s.rb (Reg.FSBX_OVR k) 30 = true)
    (hmask : inMask s.field.asserted k = true) :
    ∃ t, exec (.rel (bitw (8 + k))) s = .next t ∧ inMask t.field.asserted k = false := by
  obtain ⟨t, hrun, hasserted, -⟩ := rel_releases hl hk hlatch hmask
  exact ⟨t, hrun, by rw [hasserted, inMask_sub hmask]⟩

theorem overrideRepeat_completes {c : Nat} {p : Play} (hc : c < 32)
    (hcur : ((s.chan c).settle s.nextSample).cur = .message p) (hrep : p.rep = true) (hcl : s.claimed c = true) :
    ∃ t, exec (.overrideRepeat c) s = .next t ∧ (t.chan c).cur = .message { p with start := s.nextSample } := by
  obtain ⟨t, hrun, hchan, -⟩ := overrideRepeat_becomes hl hc hcur hrep hcl
  exact ⟨t, hrun, by rw [hchan]⟩

end
end

end Sys2Proof.Machine
end

section
/-! PROOF. The commands of the hinge pair and of the districts complete (R557, R573, R579, R582, R583): O60. -/

namespace Sys2Proof.Machine

section
variable {s t : State}

theorem Within.dis_eq {m : Parts} (h : Within m s t) (hm : m.dis = false) : t.dis = s.dis := by
  simpa [State.outside, hm] using congrArg State.dis h

/-! ### HNG_CTRL (R571) -/

/-- A bit of HNG_CTRL that software writes takes the value written. -/
theorem hinged_typeWrite (v : Word) : (s.typeWrite Reg.HNG_CTRL v).hinged = bit v 0 := by
  obtain ⟨r, hr, hrw, hw1c, hw1s⟩ : ∃ r, regSpec? Reg.HNG_CTRL = some r ∧ r.rw = 0x7 ∧ r.w1c = 0 ∧ r.w1s = 0 :=
    ⟨_, rfl, rfl, rfl, rfl⟩
  have hbit := getLsbD_writeByType r (s.reg Reg.HNG_CTRL) v (i := 0) (by decide)
  rw [hrw, hw1c, hw1s] at hbit
  rw [State.hinged, State.rb, reg_typeWrite hr hw1c]
  refine hbit.trans ?_
  simp [wd, bit, BitVec.getLsbD]

section
variable (hl : s.hostLive = true)
include hl

theorem hngEnable_pairs {v : Word} (hoff : s.hinged = false) (hen : bit v 0 = true)
    (hbudget : (s.typeWrite Reg.HNG_CTRL v).budgetOk = true) :
    ∃ t, exec (.hngEnable v) s = .next t ∧ t.hinged = true ∧ t.hng.st = .pairing := by
  have hrun : exec (.hngEnable v) s = _ := hostDo_live hl (hngEnableOp v)
  have hon : (s.typeWrite Reg.HNG_CTRL v).hinged = true := (hinged_typeWrite v).trans hen
  have hop : hngEnableOp v s = (s.typeWrite Reg.HNG_CTRL v).setHng { Hng.reset with
      st := .pairing
      csums := (s.typeWrite Reg.HNG_CTRL v).hng.csums } := by
    unfold hngEnableOp
    simp only [hoff, hon, hbudget, Bool.not_true, Bool.not_false, Bool.false_eq_true, false_and, and_self, if_true, if_false]
  rw [hop] at hrun
  exact ⟨_, hrun, hon, rfl⟩

end

/-! ### HINGE, takeover and split (R573, R579) -/

theorem st_enterTaken : (enterTaken s).hng.st = .taken := by
  rw [enterTaken, evt_hng]
  rfl

theorem st_hingeHeard (port : Nat) (m : HingeMsg) (ts : Nat) : (hingeHeard port m ts s).hng.st = s.hng.st := by
  unfold hingeHeard
  dsimp only
  split
  · rfl
  · split
    · rfl
    · rfl

theorem st_compareCsum (c : Word) : (compareCsum c s).hng.st = s.hng.st := by
  unfold compareCsum
  dsimp only
  split
  · rfl
  · split
    · rfl
    · split
      · rw [evtIf_hng]
        rfl
      · rw [evtIf_hng]
        rfl

theorem hingeMoves_takes {port : Nat} {m : HingeMsg} (hst : s.hng.st = .paired) (hrel : m.release = true) :
    hingeMoves port m s = enterTaken s := by
  unfold hingeMoves
  rw [hst]
  exact if_pos (.inl hrel)

section
variable (hl : s.hostLive = true)
include hl

theorem hinge_takes {port : Nat} {m : HingeMsg} (ts : Nat) (hon : s.hinged = true) (hnode : m.node = s.partner)
    (hport : port < 3) (hst : s.hng.st = .paired) (hrel : m.release = true) :
    ∃ t, exec (.hinge port m ts) s = .next t ∧ t.hng.st = .taken := by
  have hrun : exec (.hinge port m ts) s = _ := hostDo_live hl (hingeOp port m ts)
  obtain ⟨w, hop, hwst⟩ : ∃ w, hingeOp port m ts s = hingeMoves port m w ∧ w.hng.st = .paired := by
    unfold hingeOp
    rw [if_neg (by simp [hon, hnode, hport])]
    exact ⟨_, rfl, by rw [st_compareCsum, evtIf_hng, st_hingeHeard, hst]⟩
  rw [hop, hingeMoves_takes hwst hrel] at hrun
  exact ⟨_, hrun, st_enterTaken⟩

theorem heartbeatLoss_takes (hst : s.hng.st = .paired) (hlost : s.heard250 = false) :
    ∃ t, exec .heartbeatLoss s = .next t ∧ t.hng.st = .taken := by
  have hrun : exec .heartbeatLoss s = _ := hostDo_live hl heartbeatLossOp
  have hop : heartbeatLossOp s = enterTaken s := by
    unfold heartbeatLossOp
    rw [hlost, if_neg Bool.false_ne_true, hst]
  rw [hop] at hrun
  exact ⟨_, hrun, st_enterTaken⟩

theorem split_splits (hst : s.hng.st = .paired) (hheard : s.heard250 = true) (hpath : s.pathUp s.hng.last0 = false) :
    ∃ t, exec .split s = .next t ∧ t.hng.st = .split := by
  have hrun : exec .split s = _ := hostDo_live hl splitOp
  rw [splitOp, if_pos ⟨hst, hheard, hpath⟩] at hrun
  refine ⟨_, hrun, ?_⟩
  rw [evt_hng]
  rfl

/-! ### Filling the partner's streams (R582) -/

theorem fill_fills {k m : Nat} {f : Fol} (hk : k < 512) (hegress : s.pst.egress = some m) (hfol : s.outFol m = some f)
    (hen : s.rb Reg.HNG_CTRL 2 = true) (hst : s.hng.st = .paired) (hlink : s.link 2 = true) (hon : (s.tx k).on = true)
    (hpartner : s.rb (Reg.DVT_TXCFG k) 27 = true) (hdvt : s.rb Reg.DVT_CTRL 0 = true) (hseen : (k, m) ∉ s.hng.p2Seen)
    (hfilled : k ∉ s.hng.filled) (hdue : s.fillAt k m ≤ s.sysT) :
    ∃ t, exec (.fill k) s = .next t ∧ t.hng.nettko = true := by
  have hrun : exec (.fill k) s = _ := hostDo_live hl (fun s => if k < 512 then fillOp k s else s)
  obtain ⟨w, hop, hnettko⟩ : ∃ w, fillOp k s = w ∧ w.hng.nettko = true := by
    unfold fillOp
    rw [hegress]
    dsimp only
    rw [if_pos (by simp [hen, hst, hlink, hon, hpartner, hdvt, hseen, hfilled, hdue]), hfol]
    exact ⟨_, rfl, rfl⟩
  rw [if_pos hk, hop] at hrun
  exact ⟨_, hrun, hnettko⟩

/-! ### The release sequence (R583) -/

theorem give_releases (hst : s.hng.st = .paired) (hrel : s.hng.rel = none) :
    ∃ t, exec .give s = .next t ∧ t.hng.rel.isSome = true := by
  have hrun : exec .give s = _ := hostDo_live hl giveOp
  rw [giveOp, if_pos ⟨hst, hrel⟩] at hrun
  exact ⟨_, hrun, rfl⟩

theorem hngReturn_releases (hst : s.hng.st = .taken) (hpartner : s.hng.pSt = 5) (hsynced : s.hng.pSynced = true)
    (hrel : s.hng.rel = none) : ∃ t, exec .hngReturn s = .next t ∧ t.hng.rel.isSome = true := by
  have hrun : exec .hngReturn s = _ := hostDo_live hl returnOp
  rw [returnOp, if_pos ⟨hst, hpartner, hsynced, hrel⟩] at hrun
  exact ⟨_, hrun, rfl⟩

section
variable {r : Release} (hrel : s.hng.rel = some r)
include hrel

theorem releaseSwitchOpen_opens (hstep : r.step = .stopping) (hready : s.isA = true → s.kwy.link = .up ∧
    s.field.link = .up ∧ ∀ c, c < 32 → r.lines.testBit c = true → (s.chan c).st = .off) :
    ∃ t, exec .releaseSwitchOpen s = .next t ∧ t.hng.rel = some { r with step := .opening } := by
  have hrun : exec .releaseSwitchOpen s = _ := hostDo_live hl releaseSwitchOpenOp
  refine ⟨_, hrun, ?_⟩
  unfold releaseSwitchOpenOp
  rw [hrel]
  dsimp only
  rw [if_neg (not_not_intro hstep)]
  cases hA : s.isA with
  | false => rfl
  | true =>
    obtain ⟨hup, hfield, hoff⟩ := hready hA
    have hstopped : (maskList r.lines 32).any (fun c => (s.chan c).st != .off) = false := by
      rw [List.any_eq_false]
      intro c hc
      obtain ⟨hc32, hline⟩ := List.mem_filter.mp hc
      rw [hoff c (List.mem_range.mp hc32) hline]
      decide
    rw [if_neg (by decide), if_neg (by simp [hup, hfield, hstopped])]
    rfl

theorem releaseHswtElapsed_ends (hstep : r.step = .opening) (hdue : s.hng.relAt ≤ s.clock) :
    ∃ t, exec .releaseHswtElapsed s = .next t ∧ t.hng.rel = none := by
  have hrun : exec .releaseHswtElapsed s = _ := hostDo_live hl releaseHswtElapsedOp
  refine ⟨_, hrun, ?_⟩
  unfold releaseHswtElapsedOp
  rw [hrel]
  dsimp only
  rw [if_pos ⟨hstep, hdue⟩]
  split
  · rw [enterYielded, evt_hng]
    rfl
  · rw [enterPaired, evt_hng]
    rfl

end
end

/-! ### Roles and registrars (R557) -/

theorem dis_noteRegistrar (scope : Nat) : ∃ l, (noteRegistrar scope s).dis = { s.dis with known := l } := by
  unfold noteRegistrar
  exact ⟨_, evtIf_dis _ _ _ _⟩

/-- What is noted of a change of roles is the registrars known. -/
theorem dis_roleEvents (was : State) : ∃ l, (roleEvents was s).dis = { s.dis with known := l } := by
  rw [roleEvents]
  obtain ⟨l, hl⟩ := dis_noteRegistrar (s := s.evtIf (was.dis.isD != s.dis.isD || was.dis.isV != s.dis.isV) Reg.DIS_EVT 0) 0
  obtain ⟨k, hk⟩ := dis_noteRegistrar (s := noteRegistrar 0
    (s.evtIf (was.dis.isD != s.dis.isD || was.dis.isV != s.dis.isV) Reg.DIS_EVT 0)) 1
  rw [hl, evtIf_dis] at hk
  exact ⟨k, hk⟩

theorem dis_sendNetworks (dst ctype : Nat) (l : List Byte) : (sendNetworks dst ctype l s).dis = s.dis :=
  (within_sendNetworks (m := networkParts) rfl rfl dst ctype l (Within.refl _ s)).dis_eq rfl

theorem forget_forgets (hrt : s.runtime = true) (node : Nat) : ∀ e ∈ (forget node s).dis.heard, e.1 ≠ node := by
  intro e he
  unfold forget at he
  rw [hrt, if_neg (by decide)] at he
  obtain ⟨k, hk⟩ := dis_roleEvents (s := s.setDis _) s
  rw [hk] at he
  simpa using (List.mem_filter.mp he).2

section
variable (hl : s.hostLive = true) (hrt : s.runtime = true) {node : Nat}
include hl hrt

/-! ### ANNOUNCE, CLAIM and LEAVE (R555 to R567) -/

theorem announce_learns (flags src : Nat) (img : Word) (partner ntx : Nat) (hnode : node ≠ s.nodeAddr) :
    ∃ t, exec (.announce node flags src img partner ntx) s = .next t ∧
      aget t.dis.heard Heard.none node = ⟨flags, src, img, partner, ntx, s.clock⟩ := by
  have hrun : exec (.announce node flags src img partner ntx) s = _ :=
    hostDo_live hl (announceOp node flags src img partner ntx)
  refine ⟨_, hrun, ?_⟩
  unfold announceOp
  rw [hrt, if_neg (by decide), if_neg hnode]
  dsimp only
  split
  · exact aget_aput_same _ _ _ _
  · exact aget_aput_same _ _ _ _

theorem claim_notes (nrec : Nat) (regs : List Nat) (hnode : node ≠ s.nodeAddr) :
    ∃ t, exec (.claim node 1 nrec regs) s = .next t ∧ ((1, node), s.clock) ∈ t.dis.claims := by
  have hrun : exec (.claim node 1 nrec regs) s = _ := hostDo_live hl (claimOp node 1 regs)
  refine ⟨_, hrun, ?_⟩
  unfold claimOp
  dsimp only
  rw [if_neg (by simp [hrt, hnode])]
  obtain ⟨k, hk⟩ := dis_roleEvents (s := s.setDis _) s
  rw [hk]
  exact List.mem_append_right _ (List.mem_singleton_self _)

theorem claimTimeout_elects (hnone : s.registrar 0 = none) (hslot : s.claimSlot 0 = true) (hmay : s.eligible = true)
    (hlower : s.lowerHeard 0 = false) : ∃ t, exec (.claimTimeout 0) s = .next t ∧ t.dis.isD = true := by
  have hrun : exec (.claimTimeout 0) s = _ := hostDo_live hl (claimTimeoutOp 0)
  refine ⟨_, hrun, ?_⟩
  unfold claimTimeoutOp
  rw [if_neg (by simp [hrt, hnone, hslot])]
  simp only [hmay, hlower, Bool.not_false, Bool.and_self, beq_self_eq_true, Bool.true_or, if_true]
  rw [(within_sendClaims (m := networkParts) rfl rfl (Within.refl _ _)).dis_eq rfl]
  obtain ⟨k, hk⟩ := dis_roleEvents (s := s.setDis _) s
  rw [hk]
  rfl

theorem leave_forgets : ∃ t, exec (.leave node) s = .next t ∧ ∀ e ∈ t.dis.heard, e.1 ≠ node :=
  ⟨_, hostDo_live hl (forget node), forget_forgets hrt node⟩

theorem recordExpiry_forgets (hold : ∀ e ∈ s.dis.heard, e.1 = node → e.2.at_ + ms 3072 ≤ s.clock) :
    ∃ t, exec (.recordExpiry node) s = .next t ∧ ∀ e ∈ t.dis.heard, e.1 ≠ node := by
  have hrun : exec (.recordExpiry node) s = _ := hostDo_live hl (recordExpiryOp node)
  have hexpired : s.dis.heard.any (fun e => e.1 == node && decide (s.clock < e.2.at_ + ms 3072)) = false := by
    rw [List.any_eq_false]
    intro e he
    by_cases hnode : e.1 = node
    · simp [hnode, hold e he hnode]
    · simp [hnode]
  rw [recordExpiryOp, hexpired, if_neg Bool.false_ne_true] at hrun
  exact ⟨_, hrun, forget_forgets hrt node⟩

/-! ### The directory (R559, R561) -/

theorem streams_stores {r : StreamRec} (hD : s.dis.isD = true) (hdistrict : districtOf node = s.district)
    (hindex : r.index < 512) : ∃ t, exec (.streams node [r]) s = .next t ∧
      aget t.dis.dir StreamRec.none (512 * node + r.index) = r := by
  have hrun : exec (.streams node [r]) s = _ := hostDo_live hl (streamsOp node [r])
  have hop : streamsOp node [r] s = s.setDis { s.dis with
      dir := aput s.dis.dir StreamRec.none (512 * node + r.index) r } := by
    unfold streamsOp
    rw [if_pos (by simp [hrt, hD, hdistrict])]
    unfold streamsStore
    rw [List.foldl_cons, List.foldl_nil, if_pos hindex]
  rw [hop] at hrun
  exact ⟨_, hrun, aget_aput_same _ _ _ _⟩

theorem query_answers (src tag : Nat) {ids : List Nat} (hD : s.dis.isD = true) (hids : ids ≠ [])
    (hlocal : ∀ i ∈ ids, districtOf (i / 512) = s.district) : ∃ t, exec (.query src tag ids) s = .next t ∧
      t = sendNetworks (s.macOf src) 5
        (beBytes tag 2 ++ beBytes ids.length 2 ++ ids.flatMap (fun i => replyBytes (s.lookup i))) s := by
  have hrun : exec (.query src tag ids) s = _ := hostDo_live hl (queryOp src tag ids)
  have hmine : ids.filter (fun i => districtOf (i / 512) == s.district) = ids :=
    List.filter_eq_self.mpr fun i hi => beq_iff_eq.mpr (hlocal i hi)
  have hrest : ids.filter (fun i => districtOf (i / 512) != s.district) = [] :=
    List.filter_eq_nil_iff.mpr fun i hi => by simp [hlocal i hi]
  have hforward : ∀ back lost (w : State), forward [] back lost w = w := fun _ _ _ => rfl
  refine ⟨_, hrun, ?_⟩
  unfold queryOp
  rw [hrt, hD, if_neg (by decide)]
  dsimp only
  rw [hmine, hrest, hforward, sendReply, if_neg (by simp [hids]), List.length_map, List.flatMap_map]

theorem reply_learns (tag : Nat) (r : ReplyRec) (hasked : s.dis.forwarded = []) :
    ∃ t, exec (.reply tag [r]) s = .next t ∧ aget t.dis.lookups ReplyRec.none r.id = r := by
  have hrun : exec (.reply tag [r]) s = _ := hostDo_live hl (replyOp tag [r])
  have hop : replyOp tag [r] s = learn [r] s := by
    unfold replyOp
    rw [hrt, if_neg (by decide), hasked]
    rfl
  rw [hop] at hrun
  exact ⟨_, hrun, aget_aput_same _ _ _ _⟩

/-! ### What this node sends (R560, R557, R561) -/

theorem periodicAnnounce_sends (hmute : s.dis.mute = false) (hD : s.dis.isD = false) :
    ∃ t, exec .periodicAnnounce s = .next t ∧ t = sendNetworks (s.group s.district) 1 s.announcePayload s := by
  have hrun : exec .periodicAnnounce s = _ := hostDo_live hl periodicAnnounceOp
  refine ⟨_, hrun, ?_⟩
  unfold periodicAnnounceOp
  rw [hrt, hmute, if_neg (by decide)]
  dsimp only
  rw [dis_sendNetworks, hD, if_neg Bool.false_ne_true]

theorem claimInterval_sends (hD : s.dis.isD = true) (hV : s.dis.isV = false) :
    ∃ t, exec .claimInterval s = .next t ∧ t = sendNetworks (s.group s.district) 2
      (beBytes s.nodeAddr 2 ++ [0, 0] ++ beBytes s.dis.nodes.length 2 ++ [0, 0]) s := by
  have hrun : exec .claimInterval s = _ := hostDo_live hl claimIntervalOp
  refine ⟨_, hrun, ?_⟩
  rw [claimIntervalOp, hrt, if_pos rfl]
  unfold sendClaims
  dsimp only
  rw [hD, if_pos rfl, dis_sendNetworks, hV, if_neg Bool.false_ne_true]
  rfl

section
variable {r : Nat} (hreg : s.registrar 0 = some r) (hother : r ≠ s.nodeAddr)
include hreg hother

theorem streamsSlot_sends (hsome : s.ownStreams ≠ []) (hfew : s.ownStreams.length ≤ 256) :
    ∃ t, exec .streamsSlot s = .next t ∧ t = sendNetworks (s.macOf r) 3
      (beBytes s.nodeAddr 2 ++ beBytes s.ownStreams.length 2 ++ s.ownStreams.flatMap recBytes) s := by
  have hrun : exec .streamsSlot s = _ := hostDo_live hl streamsSlotOp
  refine ⟨_, hrun, ?_⟩
  unfold streamsSlotOp
  rw [hrt, if_neg (by decide), hreg]
  dsimp only
  rw [if_neg hother, List.take_of_length_le hfew, List.drop_eq_nil_of_le hfew, if_pos List.isEmpty_nil,
    if_neg (by simp [hsome])]

theorem querySlot_asks : ∃ t, exec .querySlot s = .next t ∧ t.dis.tag = (s.dis.tag + 1) % 65536 := by
  have hrun : exec .querySlot s = _ := hostDo_live hl querySlotOp
  refine ⟨_, hrun, ?_⟩
  unfold querySlotOp
  rw [hrt, if_neg (by decide), hreg]
  dsimp only
  rw [if_neg hother, (within_sendQuery (m := networkParts) rfl rfl _ _ _ (Within.refl _ _)).dis_eq rfl]
  rfl

end
end
end

/-- Settles O60, command by command. -/
theorem fieldHingeAndDistrictCommandsComplete : Obligations.FieldHingeAndDistrictCommandsComplete :=
  ⟨fun _ hl => ⟨fun _ hoff hforce hexit hrecov => force_completes hl hoff hforce hexit hrecov,
      fun _ hon hexit hforce hrecov hcount => exit_completes hl hon hexit hforce hrecov hcount,
      fun hoff => autonomyEntry_completes hl hoff, fun hon hauto hcount => autonomyExit_completes hl hon hauto hcount,
      fun _ _ _ hk hen hohms hr => finMeasurement_shows hl hk hen hohms hr, fun _ hclr hmask => foutClr_completes hl hclr hmask,
      fun _ hk hlatch hmask => rel_completes hl hk hlatch hmask,
      fun _ _ hc hcur hrep hcl => overrideRepeat_completes hl hc hcur hrep hcl,
      fun _ hen hcode hfcs hlo hhi => f0FrameReceived_counts hl hen hcode hfcs hlo hhi,
      fun _ _ hen hsel hback => ⟨f0Attempt_ends hl hsel hen hback (fun _ => rfl) rfl,
        f0Attempt_ends hl hsel hen hback (fun _ => rfl) rfl⟩, fun _ hsel => f0BackoffEnd_frees hl hsel⟩,
    fun _ hl => ⟨fun _ hoff hen hbudget => hngEnable_pairs hl hoff hen hbudget,
      fun _ _ ts hon hnode hport hst hrel => hinge_takes hl ts hon hnode hport hst hrel,
      fun hst hlost => heartbeatLoss_takes hl hst hlost, fun hst hheard hpath => split_splits hl hst hheard hpath,
      fun _ _ _ hk hegress hfol hen hst hlink hon hpartner hdvt hseen hfilled hdue =>
        fill_fills hl hk hegress hfol hen hst hlink hon hpartner hdvt hseen hfilled hdue,
      fun hst hrel => give_releases hl hst hrel,
      fun hst hpartner hsynced hrel => hngReturn_releases hl hst hpartner hsynced hrel,
      fun _ hrel => ⟨fun hstep hready => releaseSwitchOpen_opens hl hrel hstep hready,
        fun hstep hdue => releaseHswtElapsed_ends hl hrel hstep hdue⟩⟩,
    fun _ _ hl hrt => ⟨fun flags src img partner ntx hnode => announce_learns hl hrt flags src img partner ntx hnode,
      fun nrec regs hnode => claim_notes hl hrt nrec regs hnode,
      fun hnone hslot hmay hlower => claimTimeout_elects hl hrt hnone hslot hmay hlower, leave_forgets hl hrt,
      fun hold => recordExpiry_forgets hl hrt hold, fun _ hD hdistrict hindex => streams_stores hl hrt hD hdistrict hindex,
      fun src tag _ hD hids hlocal => query_answers hl hrt src tag hD hids hlocal,
      fun tag r hasked => reply_learns hl hrt tag r hasked, fun hmute hD => periodicAnnounce_sends hl hrt hmute hD,
      fun hD hV => claimInterval_sends hl hrt hD hV,
      fun _ hreg hother => ⟨fun hsome hfew => streamsSlot_sends hl hrt hreg hother hsome hfew,
        querySlot_asks hl hrt hreg hother⟩⟩⟩

end Sys2Proof.Machine
end
